-- ==== Sys2Proof/Word.lean ====
section
/-! DEFINITION. The word types of the model: a register is 32 bits, a byte 8 bits. -/
namespace Sys2Proof

/-- One register (R14: register pages hold 32-bit registers). -/
abbrev Word := BitVec 32

/-- One byte of a memory. -/
abbrev Byte := BitVec 8

end Sys2Proof
end

