-- ==== Sys2Proof/Syntax.lean ====
section
/-! DEFINITION. The commands the block takes (spec/opcode_table.json), with their operands. -/
namespace Sys2Proof

/-- Who issues an access (R68, R74, R196). The boot ROM runs on safety-island pair 0 (R117). -/
inductive Requester where
  /-- Application hart 0 to 11. -/
  | hart (n : Nat)
  /-- Safety-island lockstep pair 0 or 1. -/
  | island (pair : Nat)
  /-- The debug port. -/
  | debug
  /-- A block that owns a register page: its code and instance (R44). -/
  | block (code inst : Nat)
  /-- Inbound traffic of a Rinjo Link port. -/
  | rlink (port : Nat)
  /-- Inbound PCIe traffic. -/
  | pcie
  deriving DecidableEq, Repr

/-- One entry of the tables an ASSIGN carries (R644): UID, NODE_nn_INFO and NODE_nn_ROUTE of node `n`. -/
structure FabEntry where
  n : Nat
  uid : Nat
  info : Nat
  route : Nat
  deriving DecidableEq, Repr

/-- What happens to an access or a transfer on its way, which no register decides, at the word of physical address `word`: flit errors
(R355) at `stop` on output port `port` (0 none, 1 corrected, 2 uncorrectable in data, 3 uncorrectable in a header) of the packet that
carries it, or of its response where `back` is set; ECC errors of that word at the target (R331, R456: 0 none, 1 corrected, 2
uncorrectable, 3 an uncorrectable DRAM link error); and the bytes that a target outside the device returns, or a host ring where a register
write starts its reading (R628). -/
structure MemEnv where
  word : Nat := 0
  flit : Nat := 0
  stop : Nat := 0
  port : Nat := 4
  back : Bool := false
  ecc : Nat := 0
  ext : List Byte := []
  deriving DecidableEq, Repr

/-- An upset of an accumulator bank that a DRAIN meets (R283, R676): 0 a data element, 1 a row check, 2 a column check, 3 the
corner; row, column and bit. -/
structure Flip where
  kind : Nat
  m : Nat
  n : Nat
  bit : Nat
  deriving DecidableEq, Repr

/-- What a core command meets that no register decides: a mismatch of duplicated control paths or vector passes (R410), a
tile-memory ECC error (R420: 0 none, 1 corrected, 2 uncorrectable), an upset of the bank, a comparator that fails its probe
(R418), what its transfer meets, and the bytes that sources outside the device return of the command list and of the arguments. -/
structure CoreEnv where
  ctrl : Bool := false
  vec : Bool := false
  tm : Nat := 0
  flip : Option Flip := none
  probe : Bool := false
  mem : MemEnv := {}
  list : List Byte := []
  args : List Byte := []
  deriving DecidableEq, Repr

/-- What training of a controller reports (R449): MR registers could not be read, channels differ, a device needs an option that is not
supported, MR5, MR6 and MR8, die density in Gb, ranks, whether fast-start passes, the step that fails at each RATE code (0 none), and the
64 results. -/
structure Train where
  mrFail : Bool := false
  differ : Bool := false
  option : Bool := false
  mr : Nat := 0
  density : Nat := 16
  ranks : Nat := 1
  quick : Bool := false
  steps : List Nat := []
  trn : List Nat := []
  deriving DecidableEq, Repr


/-- The header of a fabric transaction (R641): DST, SRC and SRC_REQ; WORLD and POISON; the ticket tag where TKT is 1; TAG, ADDR and
the length in bytes. -/
structure FabHead where
  dst : Nat
  src : Nat
  req : Nat
  world : Bool := false
  poison : Bool := false
  tkt : Option Nat := none
  tag : Nat
  addr : Nat
  len : Nat
  deriving DecidableEq, Repr

/-- Whose transaction a mesh timeout ends (R356): an access of a requester, a core transfer at a list offset, a ferry's queue transfer at
an address, an ALE's export, or a transfer of another block (for WSEQ the stream). -/
inductive Issuer where
  | access (req : Requester) (addr len : Nat)
  | core (c off : Nat)
  | ferry (f addr : Nat)
  | exporter (n : Nat)
  | block (c i : Nat)
  deriving DecidableEq, Repr

/-- Who waits for a ticket (R320, R348, R574): a core's STOREs, a ferry's transfer, or an ALE's export. -/
inductive Sender where
  | core (c : Nat)
  | ferry (f : Nat)
  | ale (n : Nat)
  deriving DecidableEq, Repr

/-- What an access through the debug module interface does (R213, R215, R216): halt or resume a hart or a safety-island pair, choose the
world of system-bus accesses, or make one; anything else reads or writes the debug module alone. -/
inductive DmiAct where
  | halt (h : Nat)
  | resume (h : Nat)
  | haltIsland (p : Nat)
  | resumeIsland (p : Nat)
  | sbaWorld (heart : Bool)
  | sba (addr len : Nat) (write : Bool) (data : List Byte) (env : MemEnv)
  /-- An abstract command that reads or writes register `r` of a hart. -/
  | reg (h r : Nat) (write : Bool) (value : Nat)
  /-- Breakpoint or trigger `k` of a hart. -/
  | trigger (h k : Nat) (write : Bool) (value : Nat)
  /-- A register of a halted safety-island pair is inspected. -/
  | inspect (p : Nat)
  /-- Another register of the debug module. -/
  | dm (a : Nat) (write : Bool) (value : Nat)
  deriving DecidableEq, Repr

/-- The commands of the block: one constructor per row of spec/opcode_table.json, with what the sender supplies. -/
inductive Instr where
  /-- REGISTER_WRITE (R16): A write to a register that has no row of its own takes effect under its access code, after the world, lock, size and reserved-encoding checks. -/
  | registerWrite (req : Requester) (addr size value : Nat) (ext : List Byte)
  /-- READ_CLEAR (R65): A read of an RC field returns its value and clears the field in the same access. -/
  | readClear (req : Requester) (addr size ecc : Nat)
  /-- PAGE_LOCK (R50): A write of 1 to PAGE_LOCK.LOCK locks the page's RWL fields until a reset of its block. -/
  | pageLock (req : Requester) (code inst value : Nat)
  /-- WORLD_WRITE (R53): A heartwood write to WORLD changes the page's owner or SAP_READ, provided the page is unlocked and not fixed. -/
  | worldWrite (req : Requester) (code inst value : Nat)
  /-- IRQ_FORCE (R56): A write of 1 to an IRQ_FORCE bit sets the matching IRQ_PEND bit. -/
  | irqForce (req : Requester) (code inst value : Nat)
  /-- MEMORY_ACCESS (R338): A read or write request crosses the mesh to its target memory and is served there, checked by the region checker on the way. -/
  | memoryAccess (req : Requester) (addr len : Nat) (write fetch : Bool) (data : List Byte) (cacheable : Bool) (tkt : Option Nat) (env : MemEnv)
  /-- HELD_ACCESS_SERVED (R158): An access held for a domain in P1 or P2, or for a refresh window, is served once the target can take it. -/
  | heldAccessServed (k : Nat) (env : MemEnv)
  /-- WSS_EDGE (R78): A selected edge on a wheel-speed input makes a timestamped tooth event, which is filtered, judged and applied to the domains that use it. -/
  | wssEdge (i : Nat) (rising : Bool) (pulse t : Nat)
  /-- DIR_PW_TIMEOUT (R78): DIR_PW microseconds after a rising edge, the direction of the pulse is decided and its tooth event is processed. -/
  | dirPwTimeout (i t : Nat)
  /-- QUAD_COUNT (R79): A quadrature count on an MPOS interface advances its angle by 2^24/CPR ticks. -/
  | quadCount (m : Nat) (up z : Bool) (t : Nat)
  /-- SPI_RDC_SAMPLE (R79): At each sample command the device reads a position word from the external resolver-to-digital converter. -/
  | spiRdcSample (m word t : Nat)
  /-- SOURCE_SILENCE_TIMEOUT (R81): LOSS_FACTOR periods pass without an accepted event, and the source is lost or the domain stops. -/
  | sourceSilenceTimeout (i t : Nat)
  /-- SPEED_MESSAGE_EXPIRED (R81): The speed message's age passes MAX_AGE and it stops being available as a reference. -/
  | speedMessageExpired (t : Nat)
  /-- HOLD_EXPIRED (R89): A domain at Q0 for HOLD_MAX ms sets HOLD_EXP and logs HOLD_EXPIRED. -/
  | holdExpired (d t : Nat)
  /-- ANGLE_BUS_UPDATE (R77): Every 2.5 ns the angle clock publishes each domain's angle and TIME, advancing interpolation and slews. -/
  | angleBusUpdate (t : Nat)
  /-- ALARM_ENABLE (R93): A write that changes ALM_CFG.EN from 0 to 1 arms the alarm, which fires at the next update with LATE if its target is already passed. -/
  | alarmEnable (req : Requester) (n value : Nat)
  /-- ANGLE_ENABLE (R708): A write of ANGLE_00.CTL.EN stops or restarts tracking of every angle domain. -/
  | angleEnable (req : Requester) (value : Nat)
  /-- SOURCE_CONFIG_WRITE (R97): A write to a source's CFG while a domain uses it makes the source lost at once and logs REF_LOSS. -/
  | sourceConfigWrite (req : Requester) (i value : Nat)
  /-- PREDICTION (R96): A write of PRED_CTL with GO computes the time to PRED_TARGET into PRED_NS before it completes. -/
  | prediction (req : Requester) (value : Nat)
  /-- LOG_POP (R109): A write of 1 to ANGLE_00.LOG_POP removes the head entry of the angle event log. -/
  | logPop (req : Requester) (value : Nat)
  /-- GPTP_SYNC_RX (R90): A received gPTP Sync on the SLAVE port disciplines TIME, stepping it once at first lock. -/
  | gptpSyncRx (p : Nat) (offset : Int) (locks : Bool) (t : Nat)
  /-- GPTP_PDELAY_RX (R614): A received peer-delay message updates the link delay and asCapable of the port. -/
  | gptpPdelayRx (p delay t : Nat)
  /-- GPTP_SYNC_TX (R614): At each sync interval the device sends or relays Sync on its MASTER ports. -/
  | gptpSyncTx (p t : Nat)
  /-- PORESET_ASSERT (R111): PORESET_N driven low starts a POR, resetting every block outside the always-on island. -/
  | poresetAssert (t : Nat)
  /-- PORESET_RELEASE (R111): Release of PORESET_N latches the straps and starts the reset sequence toward the boot ROM. -/
  | poresetRelease (straps : Nat) (inRange : Bool) (t : Nat)
  /-- WARMRESET_ASSERT (R111): WARMRESET_N driven low starts a WARM reset. -/
  | warmresetAssert (t : Nat)
  /-- WARMRESET_RELEASE (R111): Release of WARMRESET_N starts the stages again from the beginning. -/
  | warmresetRelease (t : Nat)
  /-- SWRST (R149): A write of 0x0000_00A5 to RST_00.SWRST starts a WARM reset. -/
  | swrst (req : Requester) (value : Nat)
  /-- PCIE_PERST (R110): PCIE_PERST_N as an input resets only the PCIe controller. -/
  | pciePerst (low : Bool)
  /-- BOOT_ROM_START (R117): Once crystal, PLLs and fuses are ready, the boot ROM starts on safety island pair 0 and locates the safety image. -/
  | bootRomStart (err0 err1 slot0 slot1 : Bool) (t : Nat)
  /-- IMAGE_VERIFY_DONE (R118): Verification of a boot image slot ends, passing both signatures or failing with a recorded reason. -/
  | imageVerifyDone (k : Nat) (err : Bool) (t : Nat)
  /-- DECLARE_C (R132): A write of STAGE_CTL.DECLARE_C after Stage C entry declares Stage C. -/
  | declareC (req : Requester) (value : Nat)
  /-- STAGE_C_LIMIT_EXPIRED (R113): STAGE_C_LIMIT ms after release, with Stage C entered, the device declares Stage C by itself. -/
  | stageCLimitExpired (t : Nat)
  /-- PCIE_CONFIG_REQUEST (R143): A PCIe configuration request is answered with retry status or normally, according to the stage in effect when it arrives. -/
  | pcieConfigRequest (t : Nat)
  /-- STOW (R130): A heartwood write of STOW_CTL.GO starts building the retained-state image. -/
  | stow (req : Requester) (value : Nat)
  /-- STOW_BUILD_DONE (R130): The stow finishes writing records, header, CRC, MAC and MAGIC, or fails on capacity and restores the previous image. -/
  | stowBuildDone (t : Nat)
  /-- FLASH_COPY_DONE (R131): The copy of RSTATE to a flash slot is erased, programmed and verified, or fails. -/
  | flashCopyDone (fail t : Nat)
  /-- QUEUED_FRAME_DELIVERY (R136): When a destination becomes ready, its queued frames are delivered highest class first. -/
  | queuedFrameDelivery (p t : Nat)
  /-- FRAME_AGE_EXPIRED (R136): A frame queued longer than its class's AGE_MAX is discarded and counted as AGE. -/
  | frameAgeExpired (p t : Nat)
  /-- PMU_EVALUATE (R156): On a change of pending work or tolerance, and at least every 10 µs, the PMU chooses each domain's power state. -/
  | pmuEvaluate (cpu : Nat) (pcie : Bool) (power : List Nat) (t : Nat)
  /-- DOMAIN_EXIT_COMPLETE (R153): A domain reaches P0 after work arrives, within the exit bound, clearing grove memories after P3. -/
  | domainExitComplete (d t : Nat)
  /-- PARK (R159): A heartwood write of 0x0000_5041 to PMU_00.PARK requests P4. -/
  | park (req : Requester) (value : Nat)
  /-- P4_ENTRY (R159): Once no stow is running, the PMU stops dispatch and the gateway, silences the channels and removes power. -/
  | p4Entry (t : Nat)
  /-- WAKE_PIN (R160): WAKE_N low for 10 µs in P4 starts a WAKE reset. -/
  | wakePin (t : Nat)
  /-- WAKE_TIMER_EXPIRED (R160): Expiry of WAKE_TIMER in P4 starts a WAKE reset. -/
  | wakeTimerExpired (t : Nat)
  /-- CAN_WAKE_FRAME (R160): A wake pattern or selective wake frame on a selected CAN controller in P4 starts a WAKE reset. -/
  | canWakeFrame (n kind id t : Nat)
  /-- RAILS_IN_RANGE (R689): After PWR_REQ rises, the device proceeds once every rail of groups 2 and 3 has read in range for 100 µs. -/
  | railsInRange (t : Nat)
  /-- LEDGER_UPDATE (R163): Every 1 µs the ledger adds the refill to the buckets and pool and starts waiting jobs that now pass. -/
  | ledgerUpdate (t : Nat)
  /-- LEDGER_TEST (R164): A job presented to the ledger starts, waits or is refused according to its energy class and the levels. -/
  | ledgerTest (p t : Nat)
  /-- MONITOR_FAULT (R188): A grove power monitor that fails its self-check sets MON_FAULT and switches to settling with M = E. -/
  | monitorFault (g : Nat)
  /-- THERM_SAMPLE (R169): Every 50 µs THERM reads the 24 sensors and updates T_hot and the headroom. -/
  | thermSample (meas : List Int) (switching t : Nat)
  /-- THROTTLE_EVALUATE (R171): Every 100 µs THERM steps the hottest unit above T_THR down, or a cool unit up. -/
  | throttleEvaluate (t : Nat)
  /-- TRIP_CLR (R173): A heartwood write of TRIP_CLR clears TRIP when every valid reading is below T_CRIT − HYST. -/
  | tripClr (req : Requester) (value : Nat)
  /-- COOL_TEMP_SAMPLE (R176): Every 10 ms the COOL_TEMP ball is converted to the coolant temperature. -/
  | coolTempSample (code t : Nat)
  /-- COOL_IN_STALE (R176): A COOL_IN value older than 1 s sets COOL_STALE and clears VALID. -/
  | coolInStale (t : Nat)
  /-- TACH_SAMPLE (R177): Each second the pump and fan tachometers are counted and checked against TACH_MIN. -/
  | tachSample (pump fan t : Nat)
  /-- COOLING_REQUEST (R178): Every PERIOD, or at a change of URGENCY, THERM sends a cooling request through the gateway. -/
  | coolingRequest (t : Nat)
  /-- HART_HOLD_WRITE (R197): A write to HART_HOLD holds or releases harts, applying any world change with cache flush and entry address at release. -/
  | hartHoldWrite (req : Requester) (value : Nat)
  /-- XMB_RING (R201): A write of 1 to a mailbox direction's RING sets PEND, increments SEQ and raises the receiver's interrupt. -/
  | xmbRing (req : Requester) (i : Nat) (h2s : Bool) (value : Nat)
  /-- XMB_ACK (R201): A write of 1 to a direction's ACK clears PEND and raises the sender's acknowledge interrupt. -/
  | xmbAck (req : Requester) (i : Nat) (h2s : Bool) (value : Nat)
  /-- AES_GCM_ENCRYPT (R208): SEC command 0x01 encrypts with AES-GCM and writes the tag. -/
  | aesGcmEncrypt (src aux : MemEnv)
  /-- AES_GCM_DECRYPT (R208): SEC command 0x02 decrypts with AES-GCM, zeroing the output on TAG_FAIL. -/
  | aesGcmDecrypt (src aux : MemEnv)
  /-- SHA_256 (R208): SEC command 0x10 writes a SHA-256 digest. -/
  | sha256 (src : MemEnv)
  /-- SHA_384 (R208): SEC command 0x11 writes a SHA-384 digest. -/
  | sha384 (src : MemEnv)
  /-- SHA_512 (R208): SEC command 0x12 writes a SHA-512 digest. -/
  | sha512 (src : MemEnv)
  /-- HMAC_SHA_384 (R208): SEC command 0x13 writes an HMAC-SHA-384 tag with the key in KIN. -/
  | hmacSha384 (src : MemEnv)
  /-- ECDSA_VERIFY (R208): SEC command 0x20 verifies an ECDSA P-384 signature. -/
  | ecdsaVerify (src aux : MemEnv)
  /-- ECDSA_SIGN (R208): SEC command 0x21 signs with the ECDSA P-384 key in KIN. -/
  | ecdsaSign (src : MemEnv)
  /-- ML_DSA_VERIFY (R208): SEC command 0x22 verifies an ML-DSA-65 signature. -/
  | mlDsaVerify (src aux : MemEnv)
  /-- ML_DSA_SIGN (R208): SEC command 0x23 signs with the ML-DSA-65 key in KIN. -/
  | mlDsaSign (src : MemEnv)
  /-- DUAL_VERIFY (R208): SEC command 0x24 applies the checks of R118 to an image or token against a key slot. -/
  | dualVerify (src : MemEnv)
  /-- DERIVE (R209): SEC command 0x30 derives a key from KIN and the context into KOUT. -/
  | derive (aux : MemEnv)
  /-- CLEAR_KEY_SLOT (R208): SEC command 0x32 clears key slot KOUT. -/
  | clearKeySlot
  /-- EXPORT_PUBLIC_KEY (R208): SEC command 0x33 writes the public key of KIN to DST. -/
  | exportPublicKey
  /-- RANDOM_BYTES (R208): SEC command 0x40 writes LEN random bytes to DST. -/
  | randomBytes
  /-- REVOKE_FUSE_KEY_SLOT (R208): SEC command 0x50 revokes a fuse key slot. -/
  | revokeFuseKeySlot (ok : Bool)
  /-- RAISE_ANTI_ROLLBACK (R208): SEC command 0x51 raises a stage's anti-rollback value. -/
  | raiseAntiRollback (ok : Bool)
  /-- ADVANCE_LIFECYCLE (R210): SEC command 0x52 advances the lifecycle state when the transition is permitted. -/
  | advanceLifecycle (aux : MemEnv) (ok : Bool)
  /-- SEC_BAD_OPCODE (R208): A SEC command with an opcode outside the table completes with BAD_OPCODE. -/
  | secBadOpcode
  /-- TRNG_HEALTH_FAIL (R228): A failed entropy health test sets TRNG_FAULT until reset and fails commands that need random bits. -/
  | trngHealthFail
  /-- EXTEST (R216): TAP instruction 0x00 drives the balls from the boundary register in a session with pin-driving scan. -/
  | extest (data sample : List Byte)
  /-- IDCODE (R216): TAP instruction 0x01 reads the device IDCODE. -/
  | idcode
  /-- SAMPLE_PRELOAD (R216): TAP instruction 0x02 samples the balls and loads the boundary register. -/
  | samplePreload (data sample : List Byte)
  /-- HIGHZ (R216): TAP instruction 0x04 places outputs in high impedance where pin-driving scan is granted. -/
  | highz (data : List Byte)
  /-- CLAMP (R216): TAP instruction 0x05 clamps outputs where pin-driving scan is granted. -/
  | clamp (data : List Byte)
  /-- DTMCS (R216): TAP instruction 0x10 accesses the RISC-V debug transport control register. -/
  | dtmcs (data : List Byte)
  /-- DMI (R216): TAP instruction 0x11 accesses the RISC-V debug module interface within the session's reach. -/
  | dmi (act : DmiAct) (data : List Byte)
  /-- AUTH_NONCE (R211): TAP instruction 0x20 reads a new 32-byte nonce. -/
  | authNonce (data : List Byte)
  /-- AUTH_TOKEN (R211): TAP instruction 0x21 shifts in a token that SEC checks before opening a session. -/
  | authToken (token : List Byte) (t : Nat)
  /-- AUTH_STAT (R211): TAP instruction 0x22 reads the session status or ends the session with END. -/
  | authStat (data : List Byte) (fin : Bool)
  /-- RECOVERY_DATA (R217): TAP instruction 0x23 writes the next 4 bytes of a recovery image into the staging area. -/
  | recoveryData (word : Nat)
  /-- RECOVERY_STAT (R217): TAP instruction 0x24 reads the recovery status. -/
  | recoveryStat (data : List Byte)
  /-- BYPASS (R216): TAP instruction 0xFF, or any undefined code, selects the bypass register. -/
  | bypass (code : Nat) (data : List Byte)
  /-- RECOVERY_VERIFY_DONE (R217): Verification of a staged recovery image ends, starting Stage A or returning to WAITING. -/
  | recoveryVerifyDone (t : Nat)
  /-- SESSION_EXPIRED (R211): A session ends when its LIFETIME has passed and is scrubbed. -/
  | sessionExpired (t : Nat)
  /-- LOCKSTEP_MISMATCH (R218): A lockstep mismatch sets the pair's LSERR and resets the pair, and both pairs failing starts a SAFETY reset. -/
  | lockstepMismatch (p : Nat)
  /-- ESCALATE (R218): A write of 0x0000_5346 to SAFE_00.ESCALATE starts a SAFETY reset. -/
  | escalate (req : Requester) (value : Nat)
  /-- SQ_TAIL_DOORBELL (R239): A write to SQ_TAIL makes the descriptors up to it available for fetch. -/
  | sqTailDoorbell (req : Requester) (i value : Nat)
  /-- RING_DOORBELL (R243): A write of 1 to a ring's DOORBELL adds one gate credit. -/
  | ringDoorbell (req : Requester) (i value : Nat)
  /-- EXTERNAL_DOORBELL (R243): An external doorbell reaching a ring adds a gate credit, or is ignored and counted. -/
  | externalDoorbell (i : Nat)
  /-- DESCRIPTOR_FETCH (R240): The device fetches the next descriptor of a served ring when a completion slot, a dispatcher place and any gate credit are available. -/
  | descriptorFetch (t : Nat) (env : MemEnv)
  /-- OWNER_RECORD_WRITE (R248): A write to an owner record word takes effect only while VALID is 0 or the ring is not in the page's current mask. -/
  | ownerRecordWrite (req : Requester) (p n w value : Nat)
  /-- RESIZE_GO (R258): A write of RESIZE.GO validates the armed resize and starts quiesce or fails it. -/
  | resizeGo (req : Requester) (p value : Nat)
  /-- QUIESCE_END (R260): When no job runs on a leaving grove or ring, quiesce ends and the clear of the leaving groves begins. -/
  | quiesceEnd (t : Nat)
  /-- RESIZE_QUIESCE_TIMEOUT (R261): TMO µs after GO, jobs still holding quiesce are stopped with FAILED_CLEAR_PENDING. -/
  | resizeQuiesceTimeout (t : Nat)
  /-- RESIZE_COMMIT (R264): When the clears end, every NEXT register is copied into use in one cycle. -/
  | resizeCommit (t : Nat)
  /-- NOP (R292): Core command 0x00 does nothing. -/
  | coreNop (c t : Nat) (env : CoreEnv)
  /-- TILE (R291): Core command 0x01 opens a tile, declaring its inputs and live state for pre-emption and replay. -/
  | tile (c t : Nat) (env : CoreEnv)
  /-- END (R288): Core command 0x02 ends the rank's list once every earlier command has completed. -/
  | coreEnd (c t : Nat) (env : CoreEnv)
  /-- LOAD (R290): Core command 0x10 loads bytes from an external address into tile memory through the grove's ferry. -/
  | coreLoad (c t : Nat) (env : CoreEnv)
  /-- LOAD_COMPLETE (R289): A LOAD's data arrives in tile memory, releasing its token and any waiting line-buffer reads. -/
  | loadComplete (c off t : Nat)
  /-- STORE (R290): Core command 0x11 writes tile memory to an external address, obtaining a ticket first with TKT. -/
  | coreStore (c t : Nat) (env : CoreEnv)
  /-- STORE_COMPLETE (R289): A STORE completes when its target acknowledges the write. -/
  | storeComplete (c off t : Nat)
  /-- MMA (R279): Core command 0x20 accumulates A × B into a bank, with checksum lanes. -/
  | mma (c t : Nat) (env : CoreEnv)
  /-- DRAIN (R284): Core command 0x21 tests the bank's checksums and writes it through the epilogue. -/
  | drain (c t : Nat) (env : CoreEnv)
  /-- IMCFG (R293): Core command 0x22 sets the im2col geometry. -/
  | imcfg (c t : Nat) (env : CoreEnv)
  /-- VOP_ADD (R285): Vector operation 0x01 adds two sources. -/
  | vopAdd (c t : Nat) (env : CoreEnv)
  /-- VOP_MUL (R285): Vector operation 0x02 multiplies two sources. -/
  | vopMul (c t : Nat) (env : CoreEnv)
  /-- VOP_FMA (R285): Vector operation 0x03 multiplies and adds IMM. -/
  | vopFma (c t : Nat) (env : CoreEnv)
  /-- VOP_MAX (R285): Vector operation 0x04 takes the maximum. -/
  | vopMax (c t : Nat) (env : CoreEnv)
  /-- VOP_MIN (R285): Vector operation 0x05 takes the minimum. -/
  | vopMin (c t : Nat) (env : CoreEnv)
  /-- VOP_CVT (R285): Vector operation 0x06 converts types. -/
  | vopCvt (c t : Nat) (env : CoreEnv)
  /-- VOP_RELU (R285): Vector operation 0x10 applies RELU. -/
  | vopRelu (c t : Nat) (env : CoreEnv)
  /-- VOP_GELU (R285): Vector operation 0x11 applies GELU. -/
  | vopGelu (c t : Nat) (env : CoreEnv)
  /-- VOP_SIGMOID (R285): Vector operation 0x12 applies SIGMOID. -/
  | vopSigmoid (c t : Nat) (env : CoreEnv)
  /-- VOP_TANH (R285): Vector operation 0x13 applies TANH. -/
  | vopTanh (c t : Nat) (env : CoreEnv)
  /-- VOP_EXP (R285): Vector operation 0x14 applies EXP. -/
  | vopExp (c t : Nat) (env : CoreEnv)
  /-- VOP_RECIP (R285): Vector operation 0x15 takes the reciprocal. -/
  | vopRecip (c t : Nat) (env : CoreEnv)
  /-- VOP_RSQRT (R285): Vector operation 0x16 takes the reciprocal square root. -/
  | vopRsqrt (c t : Nat) (env : CoreEnv)
  /-- VOP_RSUM (R285): Vector operation 0x20 sums each group of 64 elements. -/
  | vopRsum (c t : Nat) (env : CoreEnv)
  /-- VOP_RMAX (R285): Vector operation 0x21 takes the maximum of each group of 64 elements. -/
  | vopRmax (c t : Nat) (env : CoreEnv)
  /-- BARRIER (R294): Core command 0x40 waits until every rank of the job has reached a barrier. -/
  | barrier (c t : Nat) (env : CoreEnv)
  /-- BARRIER_RELEASE (R294): When every rank has arrived, the barrier releases all ranks. -/
  | barrierRelease (c t : Nat)
  /-- LBCFG (R287): Core command 0x50 configures or disables a line buffer. -/
  | lbcfg (c t : Nat) (env : CoreEnv)
  /-- BAD_OPCODE (R303): A core command with an opcode not in R292 faults the rank. -/
  | badOpcode (c t : Nat) (env : CoreEnv)
  /-- TILE_MAX_EXPIRED (R296): With a pre-emption pending, a tile that has run its limit is abandoned and its context saved as at its TILE command. -/
  | tileMaxExpired (c t : Nat)
  /-- CONTEXT_SAVE_DONE (R372): The pre-empted rank's context is saved and the more urgent rank starts. -/
  | contextSaveDone (c t : Nat)
  /-- CONTEXT_RESTORE_DONE (R372): A saved context is restored and the pre-empted rank resumes, freeing its slot. -/
  | contextRestoreDone (c t : Nat)
  /-- CMD_WATCHDOG_EXPIRED (R417): A command not completed within CMD_WDT × 4,096 cycles faults with CMD_HANG and takes the core OFFLINE. -/
  | cmdWatchdogExpired (c unit t : Nat) (env : CoreEnv)
  /-- FILL (R309): Memory operation FILL queued by MOP_GO writes MOP_VAL over a store range. -/
  | mopFill (req : Requester) (g : Nat) (irq : Bool)
  /-- COPY (R309): Memory operation COPY queued by MOP_GO copies a store range. -/
  | mopCopy (req : Requester) (g : Nat) (irq : Bool)
  /-- MOP_START (R325): A queued memory operation starts once the previous one ends and no granted granule overlaps its destination. -/
  | mopStart (g t : Nat)
  /-- MOP_DONE (R310): A memory operation completes or ends in error. -/
  | mopDone (g t : Nat) (env : MemEnv)
  /-- CLEAR_GO (R311): A heartwood write of 0x0000_434C to CLEAR_GO starts a grove clear when permitted. -/
  | clearGo (req : Requester) (g value : Nat)
  /-- CLEAR_ZERO_DONE (R312): After 8 µs the zero step ends and the verify step begins. -/
  | clearZeroDone (g t : Nat)
  /-- CLEAR_VERIFY_DONE (R312): After 16 µs the clear ends with CLEAR_DONE, or fails and takes the grove OFFLINE. -/
  | clearVerifyDone (g : Nat) (ok : Bool) (t : Nat)
  /-- TICKET_REQUEST (R316): A ticket request is answered within 16 mesh cycles, granting a tagged ticket or refusing with a code. -/
  | ticketRequest (req : Requester) (k off len : Nat)
  /-- REMOTE_WRITE (R314): A remote write to a store or TCM lands if trusted or carrying a valid ticket, and is dropped otherwise. -/
  | remoteWrite (req : Requester) (addr : Nat) (data : List Byte) (tkt : Option Nat) (env : MemEnv)
  /-- TICKET_EXPIRED (R317): TKT_LIFE µs after its grant an unconsumed ticket expires and its index is freed. -/
  | ticketExpired (k idx t : Nat)
  /-- TICKET_RETURN (R320): A sender returns a ticket, freeing its index and its granules. -/
  | ticketReturn (req : Requester) (k tag : Nat)
  /-- TICKET_RETRY (R320): Every 1 µs after a transient refusal, a waiting sender repeats its ticket request. -/
  | ticketRetry (who : Sender) (t : Nat)
  /-- TKT_WAIT_EXPIRED (R320): A sender that has waited TKT_WAIT µs for a ticket fails its transfer. -/
  | tktWaitExpired (who : Sender) (t : Nat)
  /-- WINDOW_ARM (R315): A write of 1 to an ARM bit arms the window and clears its landed state. -/
  | windowArm (req : Requester) (k value : Nat)
  /-- MESH_TIMEOUT (R356): A transaction with no response within TMO µs completes with an error response. -/
  | meshTimeout (who : Issuer)
  /-- FERRY_Q_PUSH (R347): A write of Q_PUSH with GO adds a transfer to the ferry queue. -/
  | ferryQPush (req : Requester) (f value : Nat)
  /-- FERRY_TRANSFER_START (R347): With Q_EN set and the previous transfer done, the ferry starts the next queued transfer. -/
  | ferryTransferStart (f t : Nat)
  /-- FERRY_TRANSFER_DONE (R347): A queue transfer completes, counting and optionally raising an interrupt and a doorbell, or fails and halts the queue. -/
  | ferryTransferDone (f t : Nat) (env : MemEnv)
  /-- DEADLINE_REEVALUATE (R365): Every 1 ms the dispatcher recomputes angle deadlines and refuses unreachable FIRM jobs. -/
  | deadlineReevaluate (t : Nat)
  /-- PLACEMENT (R370): When cores are available, the dispatcher places the next ranked job's ranks on cores. -/
  | placement (p t : Nat)
  /-- JOB_COMPLETE (R375): A job's last rank completes, and the job receives its disposition and completion record. -/
  | jobComplete (i sq t : Nat)
  /-- JOB_TIMEOUT (R378): A job whose run time exceeds JOB_TMO for its class is stopped with FAILED_TIMEOUT. -/
  | jobTimeout (i sq t : Nat)
  /-- CANCEL (R379): A heartwood write of CANCEL with GO cancels the named job or reports NOT_FOUND. -/
  | cancel (req : Requester) (value : Nat)
  /-- ACCT_SEL (R381): A write to ACCT_SEL latches a context's accounting entry. -/
  | acctSel (req : Requester) (ctx : Nat)
  /-- ACCT_SEL_CLEAR (R381): A write to ACCT_SEL with CLEAR latches and zeroes the entry. -/
  | acctSelClear (req : Requester) (ctx : Nat)
  /-- SELFTEST (R421): A heartwood write of SAFE_00.SELFTEST with GO starts a core self-test if accepted. -/
  | selftest (req : Requester) (value : Nat)
  /-- SELFTEST_DONE (R421): A self-test ends with PASS or FAIL, restoring the core's state or taking it OFFLINE. -/
  | selftestDone (c step t : Nat)
  /-- RESTORE (R416): A heartwood write of SAFE_00.RESTORE returns a tested core to IN_SERVICE. -/
  | restore (req : Requester) (value : Nat)
  /-- CNT_CLR (R432): A write of SAFE_00.CNT_CLR with GO zeroes a core's safety counters. -/
  | cntClr (req : Requester) (value : Nat)
  /-- RMON_EXPIRED (R419): A ring monitor sees no counting completion for TMO ms and expires. -/
  | rmonExpired (k t : Nat)
  /-- INF_LOG_POP (R432): A write of 1 to INF_LOG_POP removes the head inference log entry. -/
  | infLogPop (req : Requester) (value : Nat)
  /-- DMC_HOLD_CLEAR (R449): A write that clears CTL.HOLD starts DRAM training with the configuration then in force. -/
  | dmcHoldClear (req : Requester) (x value : Nat)
  /-- DRAM_TRAINING_DONE (R449): A controller finishes fast-start or full training, or fails. -/
  | dramTrainingDone (x : Nat) (r : Train) (t : Nat)
  /-- ECC_INIT_DONE (R449): Inline-ECC initialisation of a controller's usable capacity ends. -/
  | eccInitDone (x : Nat) (ok : Bool) (t : Nat)
  /-- REFRESH_WINDOW_START (R445): A controller's refresh window begins on its grid and holds all its reads and writes. -/
  | refreshWindowStart (x t : Nat) (env : MemEnv)
  /-- REFRESH_WINDOW_END (R448): The refresh window ends and held requests are served. -/
  | refreshWindowEnd (x t : Nat)
  /-- REFRESH_ANNOUNCE (R447): ANN_LEAD ns before a window, a pulse on the refresh-announcement line is sent. -/
  | refreshAnnounce (x t : Nat)
  /-- MR4_POLL (R446): Every 16 ms MR4 is read on every channel and the refresh rate may change. -/
  | mr4Poll (codes : List Nat) (rate hot : Nat)
  /-- ROW_IDLE_CLOSE (R440): A row kept open under AUTO closes after AUTO_IDLE ns without access. -/
  | rowIdleClose (x ch bank t : Nat)
  /-- PATROL_SCRUB (R455): The scrub reads a sector in a spare cycle and corrects it if needed. -/
  | patrolScrub (x ecc : Nat)
  /-- DMC_CTRL_FAIL (R457): A controller that loses PHY lock or a channel reads FAILED and refuses every request. -/
  | dmcCtrlFail (x : Nat)
  /-- TRIGGER_FIRE (R494): A channel's trigger condition is met at a trigger sample, and the trigger is accepted or counted as skipped. -/
  | triggerFire (c : Nat)
  /-- TRIGGER_FORCE (R494): A write of 1 to TRIG FORCE fires the channel at the next sample. -/
  | triggerForce (req : Requester) (c value : Nat)
  /-- EXT_TRIG_EDGE (R496): An edge on EXT_TRIG_00 or EXT_TRIG_01 is timestamped to 1/256 sample as an external trigger. -/
  | extTrigEdge (i : Nat) (rising : Bool) (frac : Nat)
  /-- HOLDOFF_END (R500): Holdoff ends by time, count or angle advance. -/
  | holdoffEnd (c t : Nat)
  /-- AUTO_TRIGGER (R501): After AUTO_TMO µs READY without a trigger, one is forced. -/
  | autoTrigger (c t : Nat)
  /-- PROGRAM_ARM (R510): A write of ARM validates a berth program and makes it ACTIVE, or refuses it with an error. -/
  | programArm (req : Requester) (p : Nat)
  /-- PROGRAM_DISARM (R511): A write of DISARM ends an ACTIVE program at once. -/
  | programDisarm (req : Requester) (p : Nat)
  /-- PREFILL_DONE (R504): PRE values have been written and the channel becomes READY. -/
  | prefillDone (p t : Nat)
  /-- BERTH_COMPLETE (R504): The last value or acquisition of a berth is written and its header written. -/
  | berthComplete (p t : Nat)
  /-- BERTH_START (R503): 32 sample periods after completion the next berth starts, after checking RCHK_24. -/
  | berthStart (p t : Nat)
  /-- STREAM_COPY_START (R509): A completed berth is copied to the DRAM ring once an entry is free. -/
  | streamCopyStart (p t : Nat)
  /-- STREAM_COPY_DONE (R509): A berth's copy is acknowledged, STAIL advances and the berth becomes free. -/
  | streamCopyDone (p t : Nat) (env : MemEnv)
  /-- CAL_SWAP_DUE (R469): CAL_PERIOD after the last swap, the spare slice swaps in, or the swap is deferred until idle. -/
  | calSwapDue (c t : Nat)
  /-- FOREGROUND_CAL_DONE (R471): Foreground calibration of all slices ends and the channel leaves CALIBRATING. -/
  | foregroundCalDone (c fails t : Nat)
  /-- SCOPE_PERMIT_WRITE (R467): A heartwood write to SCOPE_PERMIT permits or revokes taps, turning a revoked channel to OFF. -/
  | scopePermitWrite (req : Requester) (value : Nat)
  /-- SETTLING_DONE (R468): 2 µs after an input change, SETTLING clears. -/
  | settlingDone (c t : Nat)
  /-- FDIG_PLL_UNLOCK (R484): Loss of lock of the sample-clock PLL sets both channels FAILED. -/
  | fdigPllUnlock
  /-- FDIG_PLL_RELOCK (R484): At relock the sample-clock PLL runs a foreground calibration. -/
  | fdigPllRelock (t : Nat)
  /-- PROBE_OVERLOAD (R485): A probe input beyond ±2.5 V opens the termination and sets OVLD. -/
  | probeOverload (c t : Nat)
  /-- OVERLOAD_RECOVER (R485): After 1 ms within full scale, the termination closes again. -/
  | overloadRecover (c t : Nat)
  /-- SENSE_CONVERSION (R475): A sense conversion result reaches the detectors, the LAST register and the stream 125 ns after its slot. -/
  | senseConversion (g : Nat) (raw other : Int) (t : Nat)
  /-- DC_EVALUATE (R546): Every 1 ms the DC detector averages SPK_V over DC_WIN and may declare a DC fault. -/
  | dcEvaluate (j t : Nat)
  /-- SENSE_FRAME_BOUNDARY (R474): At the end of a table pass a committed table, gain or swap takes effect. -/
  | senseFrameBoundary (g : Nat) (refOk fail : Bool) (t : Nat)
  /-- SEQ_COMMIT (R474): A write of SEQ_COMMIT validates the staged table for the next frame boundary. -/
  | seqCommit (req : Requester) (g value : Nat)
  /-- SENSE_SWAP_DUE (R477): CAL_PERIOD after the last swap, the spare converter starts taking over the next group. -/
  | senseSwapDue (t : Nat)
  /-- URGENT_CONVERSION_REQUEST (R479): A write of URG with GO requests one conversion or is dropped with a cause. -/
  | urgentConversionRequest (req : Requester) (k value : Nat)
  /-- URGENT_CONVERSION_DONE (R479): 125 ns after its slot the urgent result is written to URG_RESULT. -/
  | urgentConversionDone (k : Nat) (raw : Int) (t : Nat)
  /-- RETRY_TIMEOUT (R549): RETRY_MS after a fault declaration the channel enters RETRY and the gate releases it. -/
  | retryTimeout (j t : Nat)
  /-- RETRY_OK (R549): OK_MS after switching resumes with no fault the channel returns to NORMAL. -/
  | retryOk (j t : Nat)
  /-- CLR (R549): A write of PROT_00.CLR releases channels from LOCKOUT into RETRY. -/
  | protClr (req : Requester) (value : Nat)
  /-- FORCE_HOLD (R551): A write of FORCE_HOLD holds or releases channels through the gate. -/
  | forceHold (req : Requester) (value : Nat)
  /-- PROT_SELF_CHECK (R558): Every 1 ms each comparator is tested, and a failure holds every channel. -/
  | protSelfCheck (ok : Bool)
  /-- PROT_LOG_POP (R561): A write of 1 to PROT_00.LOG_POP removes the head fault log entry. -/
  | protLogPop (req : Requester) (value : Nat)
  /-- CARRIER_CYCLE_START (R522): At each cycle start the channel's output is resampled and its PWM pulses placed. -/
  | carrierCycleStart (u t ecc word : Nat)
  /-- CHANNEL_ENABLE (R519): A write of CH_CFG.EN activates or deactivates a channel, asserting or deasserting PSEN. -/
  | channelEnable (req : Requester) (j value : Nat)
  /-- PSEN_LEAD_END (R519): PSEN_LEAD after activation, switching begins at zero signal. -/
  | psenLeadEnd (j t : Nat)
  /-- PSEN_LAG_END (R519): PSEN_LAG after the pins go low, PSEN deasserts. -/
  | psenLagEnd (j t : Nat)
  /-- THREAD_RUN (R527): A write of RUN = 1 starts a thread at its PC. -/
  | threadRun (req : Requester) (h : Nat)
  /-- THREAD_STOP (R527): A write of RUN = 0 stops a thread and ramps its output to zero. -/
  | threadStop (req : Requester) (h : Nat)
  /-- WSEQ_NOP (R528): Thread instruction 0x00 does nothing. -/
  | wseqNop (h t ecc : Nat)
  /-- PLAY (R528): Thread instruction 0x01 queues a segment into NEXT. -/
  | thrPlay (h t ecc : Nat)
  /-- PLAYA (R531): Thread instruction 0x02 queues a segment to start at a switch-line pulse. -/
  | thrPlaya (h t ecc : Nat)
  /-- VEC (R523): Thread instruction 0x03 drives EDGE pins for COUNT cycles. -/
  | thrVec (h t ecc : Nat)
  /-- LOOP (R528): Thread instruction 0x04 pushes a loop. -/
  | thrLoop (h t ecc : Nat)
  /-- ENDL (R528): Thread instruction 0x05 repeats or pops a loop. -/
  | thrEndl (h t ecc : Nat)
  /-- CALL (R528): Thread instruction 0x06 pushes the return address and jumps. -/
  | thrCall (h t ecc : Nat)
  /-- RET (R528): Thread instruction 0x07 pops and jumps. -/
  | thrRet (h t ecc : Nat)
  /-- JMP (R528): Thread instruction 0x08 jumps. -/
  | thrJmp (h t ecc : Nat)
  /-- WAIT (R528): Thread instruction 0x09 waits for a line pulse or a time. -/
  | thrWait (h t ecc : Nat)
  /-- WAIT_TIME_EXPIRED (R528): A WAIT of T µs ends and the thread continues. -/
  | waitTimeExpired (h t : Nat)
  /-- GAIN (R528): Thread instruction 0x0A ramps the thread output gain. -/
  | thrGain (h t ecc : Nat)
  /-- SIG (R528): Thread instruction 0x0B writes SIG and raises THR_SIG. -/
  | thrSig (h t ecc : Nat)
  /-- HALT (R528): Thread instruction 0x0C stops the thread. -/
  | thrHalt (h t ecc : Nat)
  /-- BAD_INSTR (R542): An undefined thread opcode faults and stops the thread. -/
  | badInstr (h t ecc : Nat)
  /-- SEGMENT_END (R530): CUR supplies its last sample and NEXT becomes CUR, or the thread outputs zero and counts a gap. -/
  | segmentEnd (h t : Nat)
  /-- SWITCH_LINE_PULSE (R531): A pulse on a segment-switch line releases every thread waiting on it. -/
  | switchLinePulse (l t : Nat)
  /-- LINE_SW (R532): A write of LINE_SW pulses the selected lines. -/
  | lineSw (req : Requester) (value : Nat)
  /-- CHIME_READY_WRITE (R534): A heartwood write of CHIME_CFG.READY validates the chime area and sets or clears FUNC_READY.CHIME. -/
  | chimeReadyWrite (req : Requester) (value : Nat)
  /-- CHIME_START (R535): A write of CHL START with GO starts a chime segment on the lane's mask. -/
  | chimeStart (req : Requester) (l value : Nat)
  /-- CHIME_STOP (R535): A write of CHL STOP releases the lane. -/
  | chimeStop (req : Requester) (l value : Nat)
  /-- CHIME_END (R535): The last repetition of a chime ends and the lane is released. -/
  | chimeEnd (l t : Nat)
  /-- STREAM_FETCH (R536): The device fetches a 256-byte block of a host stream into its FIFO when room and data exist. -/
  | streamFetch (k t : Nat) (env : MemEnv)
  /-- MEM_DATA_WRITE (R538): A write of MEM_DATA stores 4 bytes in PMEM or WMEM and advances the offset. -/
  | memDataWrite (req : Requester) (value : Nat)
  /-- MEM_DATA_READ (R538): A read of MEM_DATA returns 4 bytes and advances the offset. -/
  | memDataRead (req : Requester) (ecc : Nat)
  /-- LOAD_ENGINE_GO (R538): A write of LD_GO starts copying bytes from memory into PMEM or WMEM. -/
  | loadEngineGo (req : Requester) (value : Nat)
  /-- LOAD_ENGINE_DONE (R538): The load engine copy completes or ends in error. -/
  | loadEngineDone (t : Nat) (env : MemEnv)
  /-- SAMPLE_TICK (R565): A tick of a tick domain delivers stream and sense deposits and may switch coefficient sets. -/
  | sampleTick (d t : Nat)
  /-- ALE_WAKE (R566): WAKE_OFS after a tick, the ALE writes WAKE_IDX and wakes the bound core, counting an overrun if the last wake is incomplete. -/
  | aleWake (n t : Nat)
  /-- ALE_DONE (R566): A write of DONE completes the newest wake and sends the core's lanes to the WSEQ. -/
  | aleDone (req : Requester) (n value t : Nat)
  /-- TDM_FRAME (R568): A TDM frame's slots are received into and transmitted from their TCM rings. -/
  | tdmFrame (p : Nat) (rx : List Nat) (t : Nat)
  /-- PDM_SAMPLE (R569): A decimated PDM sample is delivered and written to its ring. -/
  | pdmSample (i k : Nat) (v : Int) (t : Nat)
  /-- EXPORT_PUSH (R573): A write of EXP_PUSH with GO adds a TCM export transfer to the queue. -/
  | exportPush (req : Requester) (n value : Nat)
  /-- EXPORT_DONE (R574): An export transfer completes with an optional doorbell, or fails. -/
  | exportDone (n : Nat) (env : MemEnv) (t : Nat)
  /-- COEFFICIENT_COMMIT (R575): A write of CSET_CTL.COMMIT validates the inactive coefficient set as a landing would. -/
  | coefficientCommit (req : Requester) (n value : Nat)
  /-- FRAME_START_LOST (R581): A slave port without a frame start for 2 tick periods sets FS_LOST and deposits zeros. -/
  | frameStartLost (p t : Nat)
  /-- AUDIO_PLL_UNLOCK (R581): Loss of audio PLL lock stops the ports and PDM. -/
  | audioPllUnlock
  /-- ALE_CORE_FAULT (R581): A loop core faults on a TCM error or double trap, clearing RUN and ramping its lanes. -/
  | aleCoreFault (n code t : Nat)
  /-- LOCAL_TIME_ALIGN (R587): Every 1 ms CAM and VOUT read ANGLE_00 TIME to align their local time. -/
  | localTimeAlign (t : Nat)
  /-- CSI_FRAME_START (R593): An FS packet starts a frame into slot WR, or drops it when no slot is free. -/
  | csiFrameStart (p vc num hdr t : Nat)
  /-- CSI_LONG_PACKET (R589): A long packet of a stream's line is cropped, converted and written. -/
  | csiLongPacket (p vc dt : Nat) (payload : List Byte) (hdr : Nat) (crc : Bool) (room : Option Nat) (t : Nat)
  /-- CSI_FRAME_END (R593): An FE packet ends the frame. -/
  | csiFrameEnd (p vc hdr t : Nat)
  /-- FRAME_COMPLETE (R594): Once all writes are acknowledged, the frame record is written, LEVEL advances and a doorbell may ring. -/
  | frameComplete (p k t : Nat) (env : MemEnv)
  /-- SLOT_RELEASE (R592): A write of RD releases held camera slots. -/
  | slotRelease (req : Requester) (p k value : Nat)
  /-- NO_SIGNAL_TIMEOUT (R608): No FS for LOSS_MS ms puts a port in NO_SIGNAL. -/
  | noSignalTimeout (p t : Nat)
  /-- VOUT_ENABLE (R598): Setting VOUT CTL.EN trains the link and checks bandwidth. -/
  | voutEnable (req : Requester) (v value : Nat)
  /-- LINK_TRAINING_DONE (R598): Display link training ends, scanning or failing. -/
  | linkTrainingDone (v : Nat) (ok : Bool) (t : Nat)
  /-- DISPLAY_LINK_RETRAIN (R608): Once per second a failed pipeline with EN set retries training. -/
  | displayLinkRetrain (v t : Nat)
  /-- HPD_LOST (R608): HPD low for 2 ms fails the display link. -/
  | hpdLost (v t : Nat)
  /-- FLIP (R602): A write of FLIP.GO sets FLIP_PENDING. -/
  | flip (req : Requester) (v value : Nat)
  /-- VBLANK_START (R602): At the end of the last active line a pending flip is taken, VBLANK is raised and a doorbell may ring. -/
  | vblankStart (v t : Nat)
  /-- FRAME_FIRST_LINE (R603): At the first active line FRAME_CNT increments and a taken flip records FLIP_T and FLIP_SEQ. -/
  | frameFirstLine (v t : Nat)
  /-- LAYER_UNDERRUN (R601): A layer pixel whose data is missing at scan-out makes the layer transparent to the end of the line. -/
  | layerUnderrun (v l x y t : Nat) (env : MemEnv)
  /-- AUX_READ (R605): AUX_CMD with GO and WRITE 0 performs a native AUX read. -/
  | auxRead (req : Requester) (v value : Nat)
  /-- AUX_WRITE (R605): AUX_CMD with GO and WRITE 1 performs a native AUX write. -/
  | auxWrite (req : Requester) (v value : Nat)
  /-- AUX_DONE (R605): The AUX transaction ends and its result is reported. -/
  | auxDone (v result : Nat) (data : List Byte)
  /-- ETH_FRAME_RX (R620): A received Ethernet frame is identified, looked up, policed and queued. -/
  | ethFrameRx (p : Nat) (data : List Byte) (ecc t : Nat)
  /-- CAN_FRAME_RX (R620): A received CAN frame is looked up, policed and queued. -/
  | canFrameRx (n fmt : Nat) (ide : Bool) (id xl : Nat) (data : List Byte) (ecc t : Nat)
  /-- EGRESS_TRANSMIT (R623): A queued frame is sent on its egress port when its gate and class order allow. -/
  | egressTransmit (p ecc t : Nat)
  /-- GATE_CONTROL_ENTRY (R615): Each gate control list interval ends and the next entry's gates apply. -/
  | gateControlEntry (p t : Nat)
  /-- QBV_COMMIT (R615): A write of QBV_CTL.COMMIT schedules the registered list. -/
  | qbvCommit (req : Requester) (p value : Nat)
  /-- QBV_LIST_ACTIVATE (R615): At the first eligible cycle start the committed list becomes operational. -/
  | qbvListActivate (p t : Nat)
  /-- VERDICT_RELEASE (R626): INSP_VERDICT code 0 releases the head frame to its flow's egress. -/
  | verdictRelease (req : Requester)
  /-- VERDICT_RELEASE_MASK (R626): INSP_VERDICT code 1 releases the head frame to the ports in MASK. -/
  | verdictReleaseMask (req : Requester) (mask : Nat)
  /-- VERDICT_DROP (R626): INSP_VERDICT code 2 discards the head frame. -/
  | verdictDrop (req : Requester)
  /-- INSP_DATA_READ (R626): A read of INSP_DATA returns the next 4 bytes of the head frame. -/
  | inspDataRead (req : Requester)
  /-- INSPECTION_TIMEOUT (R626): A head frame left INSP_TMO µs is discarded and counted. -/
  | inspectionTimeout (t : Nat)
  /-- TX_ORIGINATE (R627): A write of TX_CTL with GO originates a frame on a flow. -/
  | txOriginate (req : Requester) (value : Nat)
  /-- TX_DATA_WRITE (R627): A write of TX_DATA appends 4 bytes to the frame being originated. -/
  | txDataWrite (req : Requester) (value : Nat)
  /-- HOST_ENABLE (R628): A write of HOST_CTL.EN enables the host rings after Stage C declaration. -/
  | hostEnable (req : Requester) (value : Nat)
  /-- HOST_TX_ENTRY (R628): An HTX_TAIL advance makes host transmit entries available for the device to consume. -/
  | hostTxEntry (req : Requester) (value : Nat) (ext : List Byte)
  /-- TABLE_DATA_WRITE (R630): A write of TBL_DATA stores a route-table word, the entry taking effect at word 3. -/
  | tableDataWrite (req : Requester) (value : Nat)
  /-- TABLE_DATA_READ (R630): A read of TBL_DATA returns a route-table word and advances the address. -/
  | tableDataRead (req : Requester) (ecc : Nat)
  /-- ETH_LINK_CHANGE (R633): An Ethernet link goes up or down. -/
  | ethLinkChange (p : Nat) (up : Bool) (speed : Nat)
  /-- CAN_ERROR_STATE_CHANGE (R633): A CAN controller changes error state, bus-off treated as link down. -/
  | canErrorStateChange (n st tec rec' : Nat) (proto : Bool)
  /-- RLINK_TRAINING_DONE (R639): A Rinjo Link port finishes training at its width and rate. -/
  | rlinkTrainingDone (p : Nat) (ok : Bool) (width rate : Nat)
  /-- LINK_LOW_POWER_ENTRY (R640): A port idle for LP_IDLE µs enters LOW_POWER. -/
  | linkLowPowerEntry (p t : Nat)
  /-- RLINK_RETRAIN (R640): After 8 replays of one flit the port retrains, failing after three attempts. -/
  | rlinkRetrain (p : Nat)
  /-- RD (R651): An inbound read packet is served in the node's map. -/
  | fabRd (p : Nat) (h : FabHead) (t : Nat) (env : MemEnv)
  /-- RDC (R641): A read completion returns data to the requester. -/
  | fabRdc (p : Nat) (h : FabHead) (status : Nat) (data : List Byte)
  /-- WR (R651): An inbound write packet is performed in the node's map. -/
  | fabWr (p : Nat) (h : FabHead) (data : List Byte) (t : Nat) (env : MemEnv)
  /-- WRA (R641): A write acknowledgement completes a remote write. -/
  | fabWra (p : Nat) (h : FabHead) (status : Nat)
  /-- TKT_REQ (R652): A remote ticket request is answered by the target's office. -/
  | tktReq (p : Nat) (h : FabHead) (t : Nat)
  /-- TKT_ANS (R652): A ticket answer returns to the remote sender. -/
  | tktAns (p : Nat) (h : FabHead) (code tag : Nat)
  /-- TKT_RET (R652): A remote sender returns a ticket. -/
  | tktRet (p : Nat) (h : FabHead) (t : Nat)
  /-- PROBE (R643): A discovery probe reaches a node, which answers IDENTIFY or NOT_READY. -/
  | fabProbe (p rootUid fromUid : Nat) (path : List Nat) (t : Nat)
  /-- IDENTIFY (R643): An IDENTIFY answer records a node or link in discovery. -/
  | identify (p uid dev links casc nbrPort : Nat)
  /-- NOT_READY (R642): A NOT_READY answer defers the port by its HINT. -/
  | notReady (p hint : Nat)
  /-- ASSIGN (R644): An ASSIGN gives a node its ID, tables and cascade role. -/
  | assign (p rootUid node role slot master : Nat) (table : List FabEntry) (nbrs : List (Option Nat)) (path : List Nat)
      (t : Nat)
  /-- COMMIT (R644): A COMMIT applies the node's tables, sets ACTIVE and forms cascade groups. -/
  | fabCommit (p rootUid : Nat) (path : List Nat) (t : Nat)
  /-- LINK_EVENT (R646): A LINK_EVENT reaching the root starts a rediscovery within 1 ms. -/
  | linkEvent (p node links t : Nat)
  /-- REDISCOVER (R659): A write of FAB_CTL.REDISCOVER on the root starts a discovery. -/
  | rediscover (req : Requester) (value : Nat)
  /-- PROBE_RETRY (R643): HINT ms after NOT_READY the root probes the deferred port again. -/
  | probeRetry (node port t : Nat)
  /-- DISCOVERY_TIMEOUT (R643): DISC_TMO ms after discovery began, deferred ports are excluded and discovery ends. -/
  | discoveryTimeout (t : Nat)
  /-- SYNC_FRAME_TX (R655): Every 2 µs the cascade master sends a sync frame. -/
  | syncFrameTx (t : Nat)
  /-- SYNC_FRAME_RX (R656): A member takes a valid sync frame and pulls its time base, TIME, angles and ticks to the master. -/
  | syncFrameRx (f : List Byte) (phase : Int) (within beyond locks : Bool) (t : Nat)
  /-- ECHO_MARKER_TX (R655): A member sends its echo marker in its slot after the frame instant. -/
  | echoMarkerTx (t : Nat)
  /-- ECHO_MARKER_RX (R655): The master times a member's echo marker and updates its delay. -/
  | echoMarkerRx (slot rt : Nat)
  /-- MASTER_LOST (R662): No sync frame for 10 µs puts a member in HOLDOVER. -/
  | masterLost (t : Nat)
  /-- PERTURB_CTL_WRITE (R671): A write of PERTURB_00.CTL opens or closes windows, refused in FIELD. -/
  | perturbCtlWrite (req : Requester) (value : Nat)
  /-- PERTURB_ENABLE (R673): A write of PT_CTL.EN loads the LFSR and starts the window's timing perturbations. -/
  | perturbEnable (req : Requester) (code inst value : Nat)
  /-- STALL_PULSE (R673): Every STALL_PER ns a stall pulse halts the named unit for STALL_LEN ns. -/
  | stallPulse (code inst t : Nat)
  /-- JITTER_DRAW (R675): Every JIT_INT µs a new angle offset is drawn for each domain. -/
  | jitterDraw
  /-- FORCE_ECC1 (R676): PT_FORCE with TYPE ECC1 arms single-bit flips on reads. -/
  | forceEcc1 (req : Requester) (code inst value : Nat)
  /-- FORCE_ECC2 (R676): PT_FORCE with TYPE ECC2 arms double-bit flips on reads. -/
  | forceEcc2 (req : Requester) (code inst value : Nat)
  /-- FORCE_CHK (R676): PT_FORCE with TYPE CHK arms checksum flips at the next DRAIN of a bank. -/
  | forceChk (req : Requester) (code inst value : Nat)
  /-- FORCE_TKT (R676): PT_FORCE with TYPE TKT voids the next granted ticket. -/
  | forceTkt (req : Requester) (code inst value : Nat)
  /-- FORCE_DETECT (R676): PT_FORCE with TYPE DETECT declares a protection fault on a channel. -/
  | forceDetect (req : Requester) (code inst value : Nat)
  /-- FORCE_CANCEL (R677): PT_FORCE with CANCEL discards the remaining injections. -/
  | forceCancel (req : Requester) (code inst : Nat)
  /-- SUPPLY_FAULT (R698): A rail of group 2 or 3 below range for 1 µs acts as a POR and records SUP_STAT. -/
  | supplyFault (rail t : Nat)
  /-- REFERENCE_LOSS (R699): No reference edge for 2 µs acts as a supply fault with REF_LOSS. -/
  | referenceLoss (t : Nat)
  /-- SUPPLY_RECOVERED (R697): Once every rail and the reference have run in range for 1 ms, the internal reset is released and straps latched. -/
  | supplyRecovered (straps t : Nat)
  /-- FDIG_SAMPLE (R464): Each 5 GS/s (or 10 GS/s combined) sample of a fast-digitiser channel is delivered to TRIG and BERTH, decimated and stored, and a clipped sample increments CLIP_CNT. -/
  | fdigSample (c : Nat) (raw : Int) (ecc t : Nat)
  /-- SLICE_CALIBRATION_DONE (R469): The 2 ms background calibration of the spare FDIG slice ends, leaving it SPARE or FAILED out of its trim range. -/
  | sliceCalibrationDone (c : Nat) (ok : Bool) (t : Nat)
  /-- SPARE_CALIBRATION_DONE (R477): The 1 ms calibration of the spare sense converter ends, leaving it SPARE or, if it fails, setting CAL_STALL and informing the safety island. -/
  | spareCalibrationDone (ok : Bool) (t : Nat)
  /-- GPTP_LOST (R90): When gPTP is lost on the SLAVE port, TIME_STAT.STATE becomes HOLDOVER and TIME runs at its last rate. -/
  | gptpLost (t : Nat)
  /-- AUDIO_PLL_RELOCK (R581): The audio PLL regains lock, APLL_LOCK returns to 1 and the ports and PDM inputs resume. -/
  | audioPllRelock
  /-- PCIE_LINK_CHANGE (R133): The PCIe link trains up or goes down, setting or losing FUNC_READY.PCIE. -/
  | pcieLinkChange (up : Bool)
  /-- HPD_RISE (R611): The display's hot-plug detect line goes high, setting STAT.HPD and the HPD level interrupt. -/
  | hpdRise (v : Nat)
  /-- VDD_AON_RISE (R127): VDD_AON rises into its operating range, the always-on island zeroes the RSTATE MAGIC word and group 1 balls take their reset states. -/
  | vddAonRise (t : Nat)
  /-- VDD_AON_LOSS (R161): VDD_AON leaves its range, the device enters P5, RSTATE and SUP_STAT are lost and the debug logic is unpowered. -/
  | vddAonLoss (t : Nat)
  deriving DecidableEq, Repr

end Sys2Proof
end

