-- ==== Sys2Proof/Config.lean ====
section
/-! DEFINITION. What an implementation fixes and the spec leaves open: uninterpreted constants without a body (free
values), and the fuse values of the modelled part. -/
namespace Sys2Proof.Config

/-- A fresh value the spec does not state (log entry 3): applied to `State.free`, which the step then advances. -/
opaque freeValue : Nat → Nat

/-! ## Algorithms the spec names by standard (R118, R125, R207, R208, R209; log entry 5) -/

/-- SHA-2 digest of a byte string: 256, 384 or 512 bits, by the first argument. -/
opaque sha2 : Nat → List Byte → List Byte
/-- HMAC-SHA-384 with a key and a message. -/
opaque hmac384 : List Byte → List Byte → List Byte
/-- AES-GCM encryption: key, nonce, additional data, plain text; the cipher text. -/
opaque gcmCipher : List Byte → List Byte → List Byte → List Byte → List Byte
/-- AES-GCM: the 16-byte tag for the same arguments. -/
opaque gcmTag : List Byte → List Byte → List Byte → List Byte → List Byte
/-- AES-GCM decryption: the plain text. -/
opaque gcmPlain : List Byte → List Byte → List Byte → List Byte → List Byte
/-- ECDSA P-384 verification: public key, digest or message, signature. -/
opaque ecdsaVerify : List Byte → List Byte → List Byte → Bool
/-- ECDSA P-384 signature: private key and message. -/
opaque ecdsaSign : List Byte → List Byte → List Byte
/-- ML-DSA-65 verification: public key, message, signature. -/
opaque mldsaVerify : List Byte → List Byte → List Byte → Bool
/-- ML-DSA-65 signature: private key and message. -/
opaque mldsaSign : List Byte → List Byte → List Byte
/-- The KDF of R209: key and input data; the derived key. -/
opaque kdf : List Byte → List Byte → List Byte
/-- The public key that belongs to a private key (R208 code 0x33). -/
opaque publicKey : Nat → List Byte → List Byte
/-- The context of a fixed key slot of R209, which the spec does not give. -/
opaque slotContext : Nat → List Byte
/-- KSLOT TYPE of a fixed slot (R209, R233: the spec gives no codes). -/
opaque slotType : Nat → Nat
/-- Usage mask of a key of the type LEN gives (R208, R233: the spec gives no codes). -/
opaque keyUsage : Nat → Nat
/-- Whether a key type is asymmetric (R228). -/
opaque keyAsym : Nat → Bool
/-- The key hash of a fuse key slot (R120). -/
opaque keyHash : Nat → List Byte
/-- The Sceham manufacturing key hash in the boot ROM (R210). -/
opaque mfgKeyHash : List Byte
/-- The debug key hash in the fuses (R211). -/
opaque debugKeyHash : List Byte
/-- The manufacturing debug key hash in the ROM (R211). -/
opaque mfgDebugHash : List Byte
/-- The key of the ladder that R125 names the retention key, from the root key (R209). -/
opaque rootKey : List Byte

/-! ## Numbers whose value the spec does not state (log entries 3 and 24) -/

/-- The bit pattern of a NaN result, by type code (R280, R284). -/
opaque nanBits : Nat → Nat
/-- The result of an operation on operands for which the spec states none, as FP32 bits: MAX, MIN or RMAX with a NaN, and a
conversion of a NaN to an integer type (operation, operands as FP32 bits). -/
opaque vecOpen : Nat → Nat → Nat → Nat
/-- GELU, SIGMOID, TANH, EXP, RECIP and RSQRT: FP32 bits of the result, by VOP code and FP32 bits of the operand; the spec bounds
their error and gives no algorithm (R285). -/
opaque vecFn : Nat → Nat → Nat
/-- Whether a float test of R283 on a value that is not a number fails. -/
opaque nanTest : Nat → Bool

/-- What a filter gives whose response the spec bounds and whose coefficients it does not state (R476, R525; log entry 27): from
samples with their distances, in samples or base ticks, from the instant wanted. -/
opaque resample : List (Rat × Int) → Int
/-- Whether a value between two 24-bit codes is rounded to the upper one (R524 states no rounding). -/
opaque roundUp : Rat → Bool
/-- A component (0 R, 1 G, 2 B) of a YCbCr or Y16 pixel in 10-bit codes, by format and CSC, plane-0 value and plane-1 pair (R599 states no
rounding and no interpolation beyond its sites; log entry 35). -/
opaque yuv : Nat → Nat → Nat → Nat → Rat

/-- Source MAC address of an Ethernet port (R622: the spec gives none). -/
opaque macAddr : Nat → List Byte

/-- The fixed turnaround of R655, in ps (the spec gives no value; log entry 38). -/
opaque turnaround : Nat

/-! ## Fuse values of the modelled part (log entry 6: the spec gives layouts, not values) -/

/-- SYS_00.DEV_ID: OXB4200-16 at stepping B0 (worked example 1 of R3). -/
def devId : Nat := 0x42002100
/-- SEC_00.UID. -/
def uid : Nat := 0
/-- Overcurrent and DC thresholds (PROT CH_jj_TH): the largest codes, 13 bits. -/
def thresholds : Nat := 0x1FFF1FFF
/-- Lifecycle state FIELD (R210, SEC LIFECYCLE code 2). -/
def lifecycle : Nat := 2

end Sys2Proof.Config
end

