-- ==== Sys2Proof/Machine/RegTable.lean ====
section
/-! DEFINITION. The register tables of the spec (R38, R73, R109, R149, R150, R193 to R195, R233 to R237, R276, R277, R305,
R306, R334, R335, R359, R360, R387, R431, R432, R460, R488 to R491, R517, R518, R544, R561, R583 to R586, R610, R611,
R635 to R638, R664, R665, R683, R684, R702): the address of every register under its own name, and one row per register
with its reset value and access codes (R14 to R16). -/
namespace Sys2Proof.Machine

/-- R43: the page of instance `i` of the block with code `c`. -/
abbrev pageAddr (c i : Nat) : Nat := 0xF8000000 + 0x100000 * c + 0x1000 * i

/-! ## Block codes (R44) -/
namespace Blk
abbrev SYS : Nat := 0x00
abbrev ANGLE : Nat := 0x01
abbrev PMU : Nat := 0x02
abbrev THERM : Nat := 0x03
abbrev RST : Nat := 0x04
abbrev RSTATE : Nat := 0x05
abbrev SEC : Nat := 0x06
abbrev RCHK : Nat := 0x07
abbrev XMB : Nat := 0x08
abbrev DBG : Nat := 0x09
abbrev PART : Nat := 0x0A
abbrev RING : Nat := 0x0B
abbrev DISP : Nat := 0x0C
abbrev GROVE : Nat := 0x0D
abbrev CORE : Nat := 0x0E
abbrev FERRY : Nat := 0x0F
abbrev MESH : Nat := 0x10
abbrev TICKET : Nat := 0x11
abbrev SAFE : Nat := 0x12
abbrev DMC : Nat := 0x13
abbrev FDIG : Nat := 0x14
abbrev TRIG : Nat := 0x15
abbrev BERTH : Nat := 0x16
abbrev SENSE : Nat := 0x17
abbrev PROT : Nat := 0x18
abbrev WSEQ : Nat := 0x19
abbrev ALE : Nat := 0x1A
abbrev APORT : Nat := 0x1B
abbrev CAM : Nat := 0x1C
abbrev VOUT : Nat := 0x1D
abbrev ETH : Nat := 0x1E
abbrev CANX : Nat := 0x1F
abbrev GW : Nat := 0x20
abbrev RLINK : Nat := 0x21
abbrev CASC : Nat := 0x22
abbrev LEDGER : Nat := 0x23
abbrev PERTURB : Nat := 0x24
end Blk

/-! ## Common header (R72) -/
namespace Hdr
abbrev PAGE_ID : Nat := 0x000
abbrev PAGE_VER : Nat := 0x004
abbrev PAGE_CAP : Nat := 0x008
abbrev PAGE_LOCK : Nat := 0x00C
abbrev CTL : Nat := 0x010
abbrev STAT : Nat := 0x014
abbrev IRQ_RAW : Nat := 0x020
abbrev IRQ_EN : Nat := 0x024
abbrev IRQ_PEND : Nat := 0x028
abbrev IRQ_FORCE : Nat := 0x02C
abbrev ERR_CNT : Nat := 0x030
abbrev ERR_INFO : Nat := 0x034
abbrev WORLD : Nat := 0x040
end Hdr

/-! ## Register addresses -/
namespace Reg

/-! SYS -/
abbrev SYS_DEV_ID : Nat := pageAddr Blk.SYS 0 + 0x100
abbrev SYS_FUNC_READY : Nat := pageAddr Blk.SYS 0 + 0x104
abbrev SYS_FUNC_LOST : Nat := pageAddr Blk.SYS 0 + 0x108
abbrev SYS_AERR_LO : Nat := pageAddr Blk.SYS 0 + 0x110
abbrev SYS_AERR_HI : Nat := pageAddr Blk.SYS 0 + 0x114
abbrev SYS_AERR_INFO : Nat := pageAddr Blk.SYS 0 + 0x118
abbrev SYS_AERR_CNT : Nat := pageAddr Blk.SYS 0 + 0x11C
abbrev SYS_SCOPE_PERMIT : Nat := pageAddr Blk.SYS 0 + 0x200
abbrev SYS_STRAP : Nat := pageAddr Blk.SYS 0 + 0x204
abbrev SYS_SUP_STAT : Nat := pageAddr Blk.SYS 0 + 0x208

/-! ANGLE -/
abbrev ANGLE_CTL : Nat := pageAddr Blk.ANGLE 0 + 0x010
abbrev ANGLE_STAT : Nat := pageAddr Blk.ANGLE 0 + 0x014
abbrev ANGLE_WSS_CFG (n : Nat) : Nat := pageAddr Blk.ANGLE 0 + 0x100 + 16 * n
abbrev ANGLE_WSS_RATIO (n : Nat) : Nat := pageAddr Blk.ANGLE 0 + 0x104 + 16 * n
abbrev ANGLE_WSS_STAT (n : Nat) : Nat := pageAddr Blk.ANGLE 0 + 0x108 + 16 * n
abbrev ANGLE_WSS_TS (n : Nat) : Nat := pageAddr Blk.ANGLE 0 + 0x10C + 16 * n
abbrev ANGLE_MPOS_CFG (n : Nat) : Nat := pageAddr Blk.ANGLE 0 + 0x140 + 16 * n
abbrev ANGLE_MPOS_RATIO (n : Nat) : Nat := pageAddr Blk.ANGLE 0 + 0x144 + 16 * n
abbrev ANGLE_MPOS_STAT (n : Nat) : Nat := pageAddr Blk.ANGLE 0 + 0x148 + 16 * n
abbrev ANGLE_MPOS_TS (n : Nat) : Nat := pageAddr Blk.ANGLE 0 + 0x14C + 16 * n
abbrev ANGLE_SPD_CFG : Nat := pageAddr Blk.ANGLE 0 + 0x160
abbrev ANGLE_SPD_CIRC : Nat := pageAddr Blk.ANGLE 0 + 0x164
abbrev ANGLE_SPD_VAL : Nat := pageAddr Blk.ANGLE 0 + 0x168
abbrev ANGLE_DOM_CFG (n : Nat) : Nat := pageAddr Blk.ANGLE 0 + 0x180 + 32 * n
abbrev ANGLE_DOM_LIMITS (n : Nat) : Nat := pageAddr Blk.ANGLE 0 + 0x184 + 32 * n
abbrev ANGLE_DOM_ALT (n : Nat) : Nat := pageAddr Blk.ANGLE 0 + 0x188 + 32 * n
abbrev ANGLE_DOM_ANGLE (n : Nat) : Nat := pageAddr Blk.ANGLE 0 + 0x18C + 32 * n
abbrev ANGLE_DOM_SPEED (n : Nat) : Nat := pageAddr Blk.ANGLE 0 + 0x190 + 32 * n
abbrev ANGLE_DOM_ACCEL (n : Nat) : Nat := pageAddr Blk.ANGLE 0 + 0x194 + 32 * n
abbrev ANGLE_DOM_STAT (n : Nat) : Nat := pageAddr Blk.ANGLE 0 + 0x198 + 32 * n
abbrev ANGLE_DOM_EBOUND (n : Nat) : Nat := pageAddr Blk.ANGLE 0 + 0x19C + 32 * n
abbrev ANGLE_TIME_LO : Nat := pageAddr Blk.ANGLE 0 + 0x1E0
abbrev ANGLE_TIME_HI : Nat := pageAddr Blk.ANGLE 0 + 0x1E4
abbrev ANGLE_TIME_CFG : Nat := pageAddr Blk.ANGLE 0 + 0x1E8
abbrev ANGLE_TIME_STAT : Nat := pageAddr Blk.ANGLE 0 + 0x1EC
abbrev ANGLE_TIME_OFFSET : Nat := pageAddr Blk.ANGLE 0 + 0x1F0
abbrev ANGLE_TIME_RATE : Nat := pageAddr Blk.ANGLE 0 + 0x1F4
abbrev ANGLE_LOG_EVT : Nat := pageAddr Blk.ANGLE 0 + 0x200
abbrev ANGLE_LOG_TLO : Nat := pageAddr Blk.ANGLE 0 + 0x204
abbrev ANGLE_LOG_THI : Nat := pageAddr Blk.ANGLE 0 + 0x208
abbrev ANGLE_LOG_POP : Nat := pageAddr Blk.ANGLE 0 + 0x20C
abbrev ANGLE_LOG_STAT : Nat := pageAddr Blk.ANGLE 0 + 0x210
abbrev ANGLE_PRED_TARGET : Nat := pageAddr Blk.ANGLE 0 + 0x220
abbrev ANGLE_PRED_CTL : Nat := pageAddr Blk.ANGLE 0 + 0x224
abbrev ANGLE_PRED_NS : Nat := pageAddr Blk.ANGLE 0 + 0x228
abbrev ANGLE_ALM_FIRED_LO : Nat := pageAddr Blk.ANGLE 0 + 0x230
abbrev ANGLE_ALM_FIRED_HI : Nat := pageAddr Blk.ANGLE 0 + 0x234
abbrev ANGLE_ALM_CFG (n : Nat) : Nat := pageAddr Blk.ANGLE 0 + 0x400 + 16 * n
abbrev ANGLE_ALM_TARGET (n : Nat) : Nat := pageAddr Blk.ANGLE 0 + 0x404 + 16 * n
abbrev ANGLE_ALM_INCR (n : Nat) : Nat := pageAddr Blk.ANGLE 0 + 0x408 + 16 * n
abbrev ANGLE_ALM_STAT (n : Nat) : Nat := pageAddr Blk.ANGLE 0 + 0x40C + 16 * n
abbrev ANGLE_ALM_TS (n : Nat) : Nat := pageAddr Blk.ANGLE 0 + 0x800 + 4 * n

/-! RST -/
abbrev RST_RST_CAUSE : Nat := pageAddr Blk.RST 0 + 0x100
abbrev RST_STAGE : Nat := pageAddr Blk.RST 0 + 0x104
abbrev RST_STAGE_CTL : Nat := pageAddr Blk.RST 0 + 0x108
abbrev RST_SWRST : Nat := pageAddr Blk.RST 0 + 0x10C
abbrev RST_T_A_READY : Nat := pageAddr Blk.RST 0 + 0x110
abbrev RST_T_B_READY : Nat := pageAddr Blk.RST 0 + 0x114
abbrev RST_T_C_ENTRY : Nat := pageAddr Blk.RST 0 + 0x118
abbrev RST_T_C_DECL : Nat := pageAddr Blk.RST 0 + 0x11C
abbrev RST_BOOT_STAT : Nat := pageAddr Blk.RST 0 + 0x120
abbrev RST_RLINK_HINT : Nat := pageAddr Blk.RST 0 + 0x124

/-! RSTATE -/
abbrev RSTATE_RESTORE_STAT : Nat := pageAddr Blk.RSTATE 0 + 0x100
abbrev RSTATE_RESTORE_GEN : Nat := pageAddr Blk.RSTATE 0 + 0x104
abbrev RSTATE_STOW_CTL : Nat := pageAddr Blk.RSTATE 0 + 0x108
abbrev RSTATE_STOW_STAT : Nat := pageAddr Blk.RSTATE 0 + 0x10C
abbrev RSTATE_STOW_GEN : Nat := pageAddr Blk.RSTATE 0 + 0x110
abbrev RSTATE_STOW_RECS : Nat := pageAddr Blk.RSTATE 0 + 0x114

/-! PMU -/
abbrev PMU_CTL : Nat := pageAddr Blk.PMU 0 + 0x010
abbrev PMU_PARK : Nat := pageAddr Blk.PMU 0 + 0x100
abbrev PMU_WAKE_CFG : Nat := pageAddr Blk.PMU 0 + 0x104
abbrev PMU_WAKE_TIMER : Nat := pageAddr Blk.PMU 0 + 0x108
abbrev PMU_WAKE_ID : Nat := pageAddr Blk.PMU 0 + 0x10C
abbrev PMU_WAKE_IDM : Nat := pageAddr Blk.PMU 0 + 0x110
abbrev PMU_WAKE_STAT : Nat := pageAddr Blk.PMU 0 + 0x114
abbrev PMU_IDLE_CFG : Nat := pageAddr Blk.PMU 0 + 0x118
abbrev PMU_LTOL_SYS : Nat := pageAddr Blk.PMU 0 + 0x11C
abbrev PMU_LTOL_PART (n : Nat) : Nat := pageAddr Blk.PMU 0 + 0x120 + 4 * n
abbrev PMU_LTOL_DOM (n : Nat) : Nat := pageAddr Blk.PMU 0 + 0x160 + 4 * n
abbrev PMU_DOM_STAT (n : Nat) : Nat := pageAddr Blk.PMU 0 + 0x200 + 4 * n
abbrev PMU_DOM_CAP (n : Nat) : Nat := pageAddr Blk.PMU 0 + 0x280 + 4 * n
abbrev PMU_DOM_PWR (n : Nat) : Nat := pageAddr Blk.PMU 0 + 0x300 + 4 * n
abbrev PMU_RAMP_CFG : Nat := pageAddr Blk.PMU 0 + 0x380
abbrev PMU_KW_CFG : Nat := pageAddr Blk.PMU 0 + 0x384
abbrev PMU_DEV_STAT : Nat := pageAddr Blk.PMU 0 + 0x388

/-! THERM -/
abbrev THERM_CTL : Nat := pageAddr Blk.THERM 0 + 0x010
abbrev THERM_TS (n : Nat) : Nat := pageAddr Blk.THERM 0 + 0x100 + 4 * n
abbrev THERM_THR_CFG : Nat := pageAddr Blk.THERM 0 + 0x160
abbrev THERM_HEAD_CFG : Nat := pageAddr Blk.THERM 0 + 0x164
abbrev THERM_HEADROOM : Nat := pageAddr Blk.THERM 0 + 0x168
abbrev THERM_HOTTEST : Nat := pageAddr Blk.THERM 0 + 0x16C
abbrev THERM_STEP (n : Nat) : Nat := pageAddr Blk.THERM 0 + 0x170 + 4 * n
abbrev THERM_STEP_LIM : Nat := pageAddr Blk.THERM 0 + 0x1C0
abbrev THERM_TRIP_STAT : Nat := pageAddr Blk.THERM 0 + 0x1C4
abbrev THERM_TRIP_CLR : Nat := pageAddr Blk.THERM 0 + 0x1C8
abbrev THERM_COOL_CFG : Nat := pageAddr Blk.THERM 0 + 0x200
abbrev THERM_COOL_LIN : Nat := pageAddr Blk.THERM 0 + 0x204
abbrev THERM_COOL_IN : Nat := pageAddr Blk.THERM 0 + 0x208
abbrev THERM_COOL_REQ : Nat := pageAddr Blk.THERM 0 + 0x20C
abbrev THERM_DUTY_PT (n : Nat) : Nat := pageAddr Blk.THERM 0 + 0x210 + 4 * n
abbrev THERM_DUTY_OVR : Nat := pageAddr Blk.THERM 0 + 0x220
abbrev THERM_TACH : Nat := pageAddr Blk.THERM 0 + 0x224
abbrev THERM_TACH_MIN : Nat := pageAddr Blk.THERM 0 + 0x228
abbrev THERM_COOL_STAT : Nat := pageAddr Blk.THERM 0 + 0x22C

/-! LEDGER -/
abbrev LEDGER_CTL : Nat := pageAddr Blk.LEDGER 0 + 0x010
abbrev LEDGER_STAT : Nat := pageAddr Blk.LEDGER 0 + 0x014
abbrev LEDGER_PLIM : Nat := pageAddr Blk.LEDGER 0 + 0x100
abbrev LEDGER_CAP : Nat := pageAddr Blk.LEDGER 0 + 0x104
abbrev LEDGER_REFILL : Nat := pageAddr Blk.LEDGER 0 + 0x108
abbrev LEDGER_P_OTHER : Nat := pageAddr Blk.LEDGER 0 + 0x10C
abbrev LEDGER_POOL_LEVEL : Nat := pageAddr Blk.LEDGER 0 + 0x110
abbrev LEDGER_POOL_CAP : Nat := pageAddr Blk.LEDGER 0 + 0x114
abbrev LEDGER_SPILL : Nat := pageAddr Blk.LEDGER 0 + 0x118
abbrev LEDGER_VITAL_DEBT : Nat := pageAddr Blk.LEDGER 0 + 0x11C
abbrev LEDGER_SHARE (n : Nat) : Nat := pageAddr Blk.LEDGER 0 + 0x140 + 4 * n
abbrev LEDGER_LEVEL (n : Nat) : Nat := pageAddr Blk.LEDGER 0 + 0x180 + 4 * n
abbrev LEDGER_ECLASS (n : Nat) : Nat := pageAddr Blk.LEDGER 0 + 0x1C0 + 4 * n
abbrev LEDGER_DELAY_CNT (n : Nat) : Nat := pageAddr Blk.LEDGER 0 + 0x200 + 4 * n
abbrev LEDGER_REFUSE_CNT (n : Nat) : Nat := pageAddr Blk.LEDGER 0 + 0x240 + 4 * n
abbrev LEDGER_ENERGY (n : Nat) : Nat := pageAddr Blk.LEDGER 0 + 0x280 + 4 * n

/-! SEC -/
abbrev SEC_LIFECYCLE : Nat := pageAddr Blk.SEC 0 + 0x100
abbrev SEC_UID_LO : Nat := pageAddr Blk.SEC 0 + 0x104
abbrev SEC_UID_HI : Nat := pageAddr Blk.SEC 0 + 0x108
abbrev SEC_HART_WORLD : Nat := pageAddr Blk.SEC 0 + 0x110
abbrev SEC_HART_HOLD : Nat := pageAddr Blk.SEC 0 + 0x114
abbrev SEC_HART_PART_LO : Nat := pageAddr Blk.SEC 0 + 0x118
abbrev SEC_HART_PART_HI : Nat := pageAddr Blk.SEC 0 + 0x11C
abbrev SEC_INBOUND_WORLD : Nat := pageAddr Blk.SEC 0 + 0x120
abbrev SEC_ENTRY_H_LO : Nat := pageAddr Blk.SEC 0 + 0x128
abbrev SEC_ENTRY_H_HI : Nat := pageAddr Blk.SEC 0 + 0x12C
abbrev SEC_ENTRY_S_LO : Nat := pageAddr Blk.SEC 0 + 0x130
abbrev SEC_ENTRY_S_HI : Nat := pageAddr Blk.SEC 0 + 0x134
abbrev SEC_CMDQ_BASE_LO : Nat := pageAddr Blk.SEC 0 + 0x140
abbrev SEC_CMDQ_BASE_HI : Nat := pageAddr Blk.SEC 0 + 0x144
abbrev SEC_CMDQ_SIZE : Nat := pageAddr Blk.SEC 0 + 0x148
abbrev SEC_CMDQ_TAIL : Nat := pageAddr Blk.SEC 0 + 0x14C
abbrev SEC_CMDQ_HEAD : Nat := pageAddr Blk.SEC 0 + 0x150
abbrev SEC_KSLOT (n : Nat) : Nat := pageAddr Blk.SEC 0 + 0x180 + 4 * n
abbrev SEC_FUSE_KEY_STAT : Nat := pageAddr Blk.SEC 0 + 0x1C0
abbrev SEC_ARB (n : Nat) : Nat := pageAddr Blk.SEC 0 + 0x1C4 + 4 * n
abbrev SEC_TRNG_STAT : Nat := pageAddr Blk.SEC 0 + 0x1D0

/-! RCHK -/
abbrev RCHK_CTL (i : Nat) : Nat := pageAddr Blk.RCHK i + 0x010
abbrev RCHK_BASE (i n : Nat) : Nat := pageAddr Blk.RCHK i + 0x100 + 16 * n
abbrev RCHK_LIMIT (i n : Nat) : Nat := pageAddr Blk.RCHK i + 0x104 + 16 * n
abbrev RCHK_ATTR (i n : Nat) : Nat := pageAddr Blk.RCHK i + 0x108 + 16 * n
abbrev RCHK_RF_ADDR_LO (i : Nat) : Nat := pageAddr Blk.RCHK i + 0x300
abbrev RCHK_RF_ADDR_HI (i : Nat) : Nat := pageAddr Blk.RCHK i + 0x304
abbrev RCHK_RF_INFO (i : Nat) : Nat := pageAddr Blk.RCHK i + 0x308
abbrev RCHK_RF_CNT (i : Nat) : Nat := pageAddr Blk.RCHK i + 0x30C
abbrev RCHK_RCHK_CFG (i : Nat) : Nat := pageAddr Blk.RCHK i + 0x310

/-! XMB -/
abbrev XMB_S2H_MSG (i n : Nat) : Nat := pageAddr Blk.XMB i + 0x100 + 4 * n
abbrev XMB_S2H_CTL (i : Nat) : Nat := pageAddr Blk.XMB i + 0x140
abbrev XMB_S2H_ACK (i : Nat) : Nat := pageAddr Blk.XMB i + 0x144
abbrev XMB_S2H_SEQ (i : Nat) : Nat := pageAddr Blk.XMB i + 0x148
abbrev XMB_H2S_MSG (i n : Nat) : Nat := pageAddr Blk.XMB i + 0x180 + 4 * n
abbrev XMB_H2S_CTL (i : Nat) : Nat := pageAddr Blk.XMB i + 0x1C0
abbrev XMB_H2S_ACK (i : Nat) : Nat := pageAddr Blk.XMB i + 0x1C4
abbrev XMB_H2S_SEQ (i : Nat) : Nat := pageAddr Blk.XMB i + 0x1C8
abbrev XMB_XMB_CFG (i : Nat) : Nat := pageAddr Blk.XMB i + 0x1D0
abbrev XMB_XMB_STAT (i : Nat) : Nat := pageAddr Blk.XMB i + 0x1D4
abbrev XMB_S_IRQ_RAW (i : Nat) : Nat := pageAddr Blk.XMB i + 0x1E0
abbrev XMB_S_IRQ_EN (i : Nat) : Nat := pageAddr Blk.XMB i + 0x1E4
abbrev XMB_S_IRQ_PEND (i : Nat) : Nat := pageAddr Blk.XMB i + 0x1E8

/-! DBG -/
abbrev DBG_SESSION : Nat := pageAddr Blk.DBG 0 + 0x100
abbrev DBG_AUTH_FAIL : Nat := pageAddr Blk.DBG 0 + 0x104
abbrev DBG_SBA_WORLD : Nat := pageAddr Blk.DBG 0 + 0x108
abbrev DBG_DBG_CTL : Nat := pageAddr Blk.DBG 0 + 0x10C

/-! SAFE -/
abbrev SAFE_FAULT_OUT : Nat := pageAddr Blk.SAFE 0 + 0x100
abbrev SAFE_ESCALATE : Nat := pageAddr Blk.SAFE 0 + 0x104
abbrev SAFE_INF_CFG : Nat := pageAddr Blk.SAFE 0 + 0x200
abbrev SAFE_INF_EVT_EN : Nat := pageAddr Blk.SAFE 0 + 0x204
abbrev SAFE_SELFTEST : Nat := pageAddr Blk.SAFE 0 + 0x208
abbrev SAFE_SELFTEST_STAT : Nat := pageAddr Blk.SAFE 0 + 0x20C
abbrev SAFE_RESTORE : Nat := pageAddr Blk.SAFE 0 + 0x210
abbrev SAFE_CNT_CLR : Nat := pageAddr Blk.SAFE 0 + 0x214
abbrev SAFE_LATENT_LO : Nat := pageAddr Blk.SAFE 0 + 0x218
abbrev SAFE_LATENT_HI : Nat := pageAddr Blk.SAFE 0 + 0x21C
abbrev SAFE_WDRAWN_LO : Nat := pageAddr Blk.SAFE 0 + 0x220
abbrev SAFE_WDRAWN_HI : Nat := pageAddr Blk.SAFE 0 + 0x224
abbrev SAFE_OFFL_LO : Nat := pageAddr Blk.SAFE 0 + 0x228
abbrev SAFE_OFFL_HI : Nat := pageAddr Blk.SAFE 0 + 0x22C
abbrev SAFE_RMON_CFG (n : Nat) : Nat := pageAddr Blk.SAFE 0 + 0x240 + 8 * n
abbrev SAFE_RMON_TMO (n : Nat) : Nat := pageAddr Blk.SAFE 0 + 0x244 + 8 * n
abbrev SAFE_RMON_STAT : Nat := pageAddr Blk.SAFE 0 + 0x260
abbrev SAFE_INF_LOG_EVT : Nat := pageAddr Blk.SAFE 0 + 0x280
abbrev SAFE_INF_LOG_T : Nat := pageAddr Blk.SAFE 0 + 0x284
abbrev SAFE_INF_LOG_POP : Nat := pageAddr Blk.SAFE 0 + 0x288
abbrev SAFE_INF_LOG_STAT : Nat := pageAddr Blk.SAFE 0 + 0x28C

/-! RING -/
abbrev RING_CTL (i : Nat) : Nat := pageAddr Blk.RING i + 0x010
abbrev RING_STAT (i : Nat) : Nat := pageAddr Blk.RING i + 0x014
abbrev RING_SQ_BASE_LO (i : Nat) : Nat := pageAddr Blk.RING i + 0x100
abbrev RING_SQ_BASE_HI (i : Nat) : Nat := pageAddr Blk.RING i + 0x104
abbrev RING_SQ_SIZE (i : Nat) : Nat := pageAddr Blk.RING i + 0x108
abbrev RING_SQ_TAIL (i : Nat) : Nat := pageAddr Blk.RING i + 0x10C
abbrev RING_SQ_HEAD (i : Nat) : Nat := pageAddr Blk.RING i + 0x110
abbrev RING_CQ_BASE_LO (i : Nat) : Nat := pageAddr Blk.RING i + 0x120
abbrev RING_CQ_BASE_HI (i : Nat) : Nat := pageAddr Blk.RING i + 0x124
abbrev RING_CQ_SIZE (i : Nat) : Nat := pageAddr Blk.RING i + 0x128
abbrev RING_CQ_TAIL (i : Nat) : Nat := pageAddr Blk.RING i + 0x12C
abbrev RING_CQ_HEAD (i : Nat) : Nat := pageAddr Blk.RING i + 0x130
abbrev RING_SPOOF_CNT (i : Nat) : Nat := pageAddr Blk.RING i + 0x140
abbrev RING_BADDESC_CNT (i : Nat) : Nat := pageAddr Blk.RING i + 0x144
abbrev RING_DB_IGN_CNT (i : Nat) : Nat := pageAddr Blk.RING i + 0x148
abbrev RING_DB_LOST_CNT (i : Nat) : Nat := pageAddr Blk.RING i + 0x14C
abbrev RING_PRIO_CLAMP_CNT (i : Nat) : Nat := pageAddr Blk.RING i + 0x150
abbrev RING_LOST_CNT (i : Nat) : Nat := pageAddr Blk.RING i + 0x154
abbrev RING_DOORBELL (i : Nat) : Nat := pageAddr Blk.RING i + 0x160

/-! PART -/
abbrev PART_CTL (i : Nat) : Nat := pageAddr Blk.PART i + 0x010
abbrev PART_STAT (i : Nat) : Nat := pageAddr Blk.PART i + 0x014
abbrev PART_GROVE_MASK (i : Nat) : Nat := pageAddr Blk.PART i + 0x100
abbrev PART_NEXT_GROVE_MASK (i : Nat) : Nat := pageAddr Blk.PART i + 0x104
abbrev PART_RING_MASK_LO (i : Nat) : Nat := pageAddr Blk.PART i + 0x108
abbrev PART_RING_MASK_HI (i : Nat) : Nat := pageAddr Blk.PART i + 0x10C
abbrev PART_NEXT_RING_MASK_LO (i : Nat) : Nat := pageAddr Blk.PART i + 0x110
abbrev PART_NEXT_RING_MASK_HI (i : Nat) : Nat := pageAddr Blk.PART i + 0x114
abbrev PART_MODE (i : Nat) : Nat := pageAddr Blk.PART i + 0x118
abbrev PART_NEXT_MODE (i : Nat) : Nat := pageAddr Blk.PART i + 0x11C
abbrev PART_MESH_SHARE (i : Nat) : Nat := pageAddr Blk.PART i + 0x120
abbrev PART_NEXT_MESH_SHARE (i : Nat) : Nat := pageAddr Blk.PART i + 0x124
abbrev PART_DRAM_SHARE (i : Nat) : Nat := pageAddr Blk.PART i + 0x128
abbrev PART_NEXT_DRAM_SHARE (i : Nat) : Nat := pageAddr Blk.PART i + 0x12C
abbrev PART_ESHARE (i : Nat) : Nat := pageAddr Blk.PART i + 0x130
abbrev PART_NEXT_ESHARE (i : Nat) : Nat := pageAddr Blk.PART i + 0x134
abbrev PART_RESIZE (i : Nat) : Nat := pageAddr Blk.PART i + 0x140
abbrev PART_RESIZE_CFG (i : Nat) : Nat := pageAddr Blk.PART i + 0x144
abbrev PART_RESIZE_STAT (i : Nat) : Nat := pageAddr Blk.PART i + 0x148
abbrev PART_SPOOF_INFO (i : Nat) : Nat := pageAddr Blk.PART i + 0x150
abbrev PART_SPOOF_CNT (i : Nat) : Nat := pageAddr Blk.PART i + 0x154
abbrev PART_OWN_W0 (i n : Nat) : Nat := pageAddr Blk.PART i + 0x400 + 8 * n
abbrev PART_OWN_W1 (i n : Nat) : Nat := pageAddr Blk.PART i + 0x404 + 8 * n

/-! GROVE -/
abbrev GROVE_SAVE_BASE (i : Nat) : Nat := pageAddr Blk.GROVE i + 0x100
abbrev GROVE_SAVE_SLOT (i : Nat) : Nat := pageAddr Blk.GROVE i + 0x104
abbrev GROVE_CHK_CFG (i : Nat) : Nat := pageAddr Blk.GROVE i + 0x108
abbrev GROVE_TILE_MAX (i : Nat) : Nat := pageAddr Blk.GROVE i + 0x10C
abbrev GROVE_CORE_STAT (i : Nat) : Nat := pageAddr Blk.GROVE i + 0x110
abbrev GROVE_MOP_DST (i : Nat) : Nat := pageAddr Blk.GROVE i + 0x200
abbrev GROVE_MOP_SRC (i : Nat) : Nat := pageAddr Blk.GROVE i + 0x204
abbrev GROVE_MOP_LEN (i : Nat) : Nat := pageAddr Blk.GROVE i + 0x208
abbrev GROVE_MOP_VAL (i : Nat) : Nat := pageAddr Blk.GROVE i + 0x20C
abbrev GROVE_MOP_GO (i : Nat) : Nat := pageAddr Blk.GROVE i + 0x210
abbrev GROVE_MOP_STAT (i : Nat) : Nat := pageAddr Blk.GROVE i + 0x214
abbrev GROVE_CLEAR_GO (i : Nat) : Nat := pageAddr Blk.GROVE i + 0x220
abbrev GROVE_CLEAR_STAT (i : Nat) : Nat := pageAddr Blk.GROVE i + 0x224
abbrev GROVE_ECC_CE (i : Nat) : Nat := pageAddr Blk.GROVE i + 0x230
abbrev GROVE_ECC_UE (i : Nat) : Nat := pageAddr Blk.GROVE i + 0x234
abbrev GROVE_ECC_UE_ADDR (i : Nat) : Nat := pageAddr Blk.GROVE i + 0x238
abbrev GROVE_TKT_WAIT (i : Nat) : Nat := pageAddr Blk.GROVE i + 0x240

/-! CORE -/
abbrev CORE_STAT (i : Nat) : Nat := pageAddr Blk.CORE i + 0x014
abbrev CORE_JOB (i : Nat) : Nat := pageAddr Blk.CORE i + 0x100
abbrev CORE_RANK (i : Nat) : Nat := pageAddr Blk.CORE i + 0x104
abbrev CORE_CMD_OFF (i : Nat) : Nat := pageAddr Blk.CORE i + 0x108
abbrev CORE_TOK_PEND (i : Nat) : Nat := pageAddr Blk.CORE i + 0x10C
abbrev CORE_FAULT_INFO (i : Nat) : Nat := pageAddr Blk.CORE i + 0x110
abbrev CORE_MAC_CYC (i : Nat) : Nat := pageAddr Blk.CORE i + 0x114
abbrev CORE_BUSY_CYC (i : Nat) : Nat := pageAddr Blk.CORE i + 0x118
abbrev CORE_STALL_CYC (i : Nat) : Nat := pageAddr Blk.CORE i + 0x11C
abbrev CORE_TILE_CNT (i : Nat) : Nat := pageAddr Blk.CORE i + 0x120
abbrev CORE_TILE_ABORT_CNT (i : Nat) : Nat := pageAddr Blk.CORE i + 0x124
abbrev CORE_CHK_STAT (i : Nat) : Nat := pageAddr Blk.CORE i + 0x180
abbrev CORE_CHK_INFO (i : Nat) : Nat := pageAddr Blk.CORE i + 0x184
abbrev CORE_CHK_CMD (i : Nat) : Nat := pageAddr Blk.CORE i + 0x188
abbrev CORE_REPLAY_CNT (i : Nat) : Nat := pageAddr Blk.CORE i + 0x18C
abbrev CORE_CPF_TOTAL (i : Nat) : Nat := pageAddr Blk.CORE i + 0x190
abbrev CORE_DFAULT_CNT (i : Nat) : Nat := pageAddr Blk.CORE i + 0x194
abbrev CORE_TM_CE (i : Nat) : Nat := pageAddr Blk.CORE i + 0x198
abbrev CORE_TM_UE (i : Nat) : Nat := pageAddr Blk.CORE i + 0x19C
abbrev CORE_PROBE_CNT (i : Nat) : Nat := pageAddr Blk.CORE i + 0x1A0
abbrev CORE_REPLAY_MAX (i : Nat) : Nat := pageAddr Blk.CORE i + 0x1A4
abbrev CORE_ST_RESULT (i : Nat) : Nat := pageAddr Blk.CORE i + 0x1A8

/-! TICKET -/
abbrev TICKET_CTL (i : Nat) : Nat := pageAddr Blk.TICKET i + 0x010
abbrev TICKET_STAT (i : Nat) : Nat := pageAddr Blk.TICKET i + 0x014
abbrev TICKET_LIFE (i : Nat) : Nat := pageAddr Blk.TICKET i + 0x100
abbrev TICKET_ARM (i : Nat) : Nat := pageAddr Blk.TICKET i + 0x104
abbrev TICKET_ARMED (i : Nat) : Nat := pageAddr Blk.TICKET i + 0x108
abbrev TICKET_LANDED (i : Nat) : Nat := pageAddr Blk.TICKET i + 0x10C
abbrev TICKET_GRANT_CNT (i : Nat) : Nat := pageAddr Blk.TICKET i + 0x110
abbrev TICKET_REFUSE_CNT (i : Nat) : Nat := pageAddr Blk.TICKET i + 0x114
abbrev TICKET_RET_CNT (i : Nat) : Nat := pageAddr Blk.TICKET i + 0x118
abbrev TICKET_EXP_CNT (i : Nat) : Nat := pageAddr Blk.TICKET i + 0x11C
abbrev TICKET_DROP_CNT (i : Nat) : Nat := pageAddr Blk.TICKET i + 0x120
abbrev TICKET_DROP_INFO (i : Nat) : Nat := pageAddr Blk.TICKET i + 0x124
abbrev TICKET_DROP_ADDR (i : Nat) : Nat := pageAddr Blk.TICKET i + 0x128
abbrev TICKET_WIN_BASE (i n : Nat) : Nat := pageAddr Blk.TICKET i + 0x180 + 8 * n
abbrev TICKET_WIN_CTL (i n : Nat) : Nat := pageAddr Blk.TICKET i + 0x184 + 8 * n
abbrev TICKET_WIN_STAT (i n : Nat) : Nat := pageAddr Blk.TICKET i + 0x200 + 4 * n

/-! MESH -/
abbrev MESH_CTL (i : Nat) : Nat := pageAddr Blk.MESH i + 0x010
abbrev MESH_STAT (i : Nat) : Nat := pageAddr Blk.MESH i + 0x014
abbrev MESH_ARB_CFG (i : Nat) : Nat := pageAddr Blk.MESH i + 0x100
abbrev MESH_TMO (i : Nat) : Nat := pageAddr Blk.MESH i + 0x104
abbrev MESH_FLITS (i n : Nat) : Nat := pageAddr Blk.MESH i + 0x110 + 4 * n
abbrev MESH_STALL (i n : Nat) : Nat := pageAddr Blk.MESH i + 0x130 + 4 * n
abbrev MESH_INJ (i n : Nat) : Nat := pageAddr Blk.MESH i + 0x150 + 4 * n
abbrev MESH_ECC_CE (i : Nat) : Nat := pageAddr Blk.MESH i + 0x160
abbrev MESH_ECC_UE (i : Nat) : Nat := pageAddr Blk.MESH i + 0x164
abbrev MESH_ECC_INFO (i : Nat) : Nat := pageAddr Blk.MESH i + 0x168
abbrev MESH_TMO_CNT (i : Nat) : Nat := pageAddr Blk.MESH i + 0x16C

/-! FERRY -/
abbrev FERRY_CTL (i : Nat) : Nat := pageAddr Blk.FERRY i + 0x010
abbrev FERRY_STAT (i : Nat) : Nat := pageAddr Blk.FERRY i + 0x014
abbrev FERRY_Q_SRC_LO (i : Nat) : Nat := pageAddr Blk.FERRY i + 0x100
abbrev FERRY_Q_SRC_HI (i : Nat) : Nat := pageAddr Blk.FERRY i + 0x104
abbrev FERRY_Q_DST_LO (i : Nat) : Nat := pageAddr Blk.FERRY i + 0x108
abbrev FERRY_Q_DST_HI (i : Nat) : Nat := pageAddr Blk.FERRY i + 0x10C
abbrev FERRY_Q_LEN (i : Nat) : Nat := pageAddr Blk.FERRY i + 0x110
abbrev FERRY_Q_PUSH (i : Nat) : Nat := pageAddr Blk.FERRY i + 0x114
abbrev FERRY_Q_STAT (i : Nat) : Nat := pageAddr Blk.FERRY i + 0x118
abbrev FERRY_BYTES (i : Nat) : Nat := pageAddr Blk.FERRY i + 0x11C
abbrev FERRY_ERR_ADDR_LO (i : Nat) : Nat := pageAddr Blk.FERRY i + 0x120
abbrev FERRY_ERR_ADDR_HI (i : Nat) : Nat := pageAddr Blk.FERRY i + 0x124
abbrev FERRY_XFER_ERR_CNT (i : Nat) : Nat := pageAddr Blk.FERRY i + 0x128

/-! DISP -/
abbrev DISP_CTL : Nat := pageAddr Blk.DISP 0 + 0x010
abbrev DISP_STAT : Nat := pageAddr Blk.DISP 0 + 0x014
abbrev DISP_PART_POLICY (n : Nat) : Nat := pageAddr Blk.DISP 0 + 0x100 + 4 * n
abbrev DISP_JOB_TMO (n : Nat) : Nat := pageAddr Blk.DISP 0 + 0x140 + 4 * n
abbrev DISP_CANCEL : Nat := pageAddr Blk.DISP 0 + 0x150
abbrev DISP_CANCEL_STAT : Nat := pageAddr Blk.DISP 0 + 0x154
abbrev DISP_PRE_CNT : Nat := pageAddr Blk.DISP 0 + 0x160
abbrev DISP_PRE_SLOW_CNT : Nat := pageAddr Blk.DISP 0 + 0x164
abbrev DISP_PRE_MAX : Nat := pageAddr Blk.DISP 0 + 0x168
abbrev DISP_QLEN (n : Nat) : Nat := pageAddr Blk.DISP 0 + 0x180 + 4 * n
abbrev DISP_DL_REFUSE_CNT (n : Nat) : Nat := pageAddr Blk.DISP 0 + 0x1C0 + 4 * n
abbrev DISP_LATE_CNT (n : Nat) : Nat := pageAddr Blk.DISP 0 + 0x200 + 4 * n
abbrev DISP_CAP_REFUSE_CNT (n : Nat) : Nat := pageAddr Blk.DISP 0 + 0x240 + 4 * n
abbrev DISP_ACCT_SEL : Nat := pageAddr Blk.DISP 0 + 0x280
abbrev DISP_ACCT_JOBS : Nat := pageAddr Blk.DISP 0 + 0x284
abbrev DISP_ACCT_WAIT_LO : Nat := pageAddr Blk.DISP 0 + 0x288
abbrev DISP_ACCT_WAIT_HI : Nat := pageAddr Blk.DISP 0 + 0x28C
abbrev DISP_ACCT_PREEMPT : Nat := pageAddr Blk.DISP 0 + 0x290

/-! DMC -/
abbrev DMC_CTL (i : Nat) : Nat := pageAddr Blk.DMC i + 0x010
abbrev DMC_STAT (i : Nat) : Nat := pageAddr Blk.DMC i + 0x014
abbrev DMC_DRAM_CFG (i : Nat) : Nat := pageAddr Blk.DMC i + 0x100
abbrev DMC_DRAM_SIZE (i : Nat) : Nat := pageAddr Blk.DMC i + 0x104
abbrev DMC_IL_STAT (i : Nat) : Nat := pageAddr Blk.DMC i + 0x108
abbrev DMC_TRN_STAT (i : Nat) : Nat := pageAddr Blk.DMC i + 0x10C
abbrev DMC_HINT_DEF (i : Nat) : Nat := pageAddr Blk.DMC i + 0x110
abbrev DMC_AUTO_IDLE (i : Nat) : Nat := pageAddr Blk.DMC i + 0x114
abbrev DMC_ARB_CFG (i : Nat) : Nat := pageAddr Blk.DMC i + 0x118
abbrev DMC_HINT_REQ (i n : Nat) : Nat := pageAddr Blk.DMC i + 0x120 + 8 * n
abbrev DMC_HINT_VAL (i n : Nat) : Nat := pageAddr Blk.DMC i + 0x124 + 8 * n
abbrev DMC_RFSH_CFG (i : Nat) : Nat := pageAddr Blk.DMC i + 0x160
abbrev DMC_RFSH_STAT (i : Nat) : Nat := pageAddr Blk.DMC i + 0x164
abbrev DMC_TREFI (i : Nat) : Nat := pageAddr Blk.DMC i + 0x168
abbrev DMC_RFSH_CNT (i : Nat) : Nat := pageAddr Blk.DMC i + 0x16C
abbrev DMC_NEXT_START (i : Nat) : Nat := pageAddr Blk.DMC i + 0x170
abbrev DMC_NEXT_ANGLE (i : Nat) : Nat := pageAddr Blk.DMC i + 0x174
abbrev DMC_MR_TEMP (i : Nat) : Nat := pageAddr Blk.DMC i + 0x178
abbrev DMC_ECC_CE (i : Nat) : Nat := pageAddr Blk.DMC i + 0x180
abbrev DMC_ECC_UE (i : Nat) : Nat := pageAddr Blk.DMC i + 0x184
abbrev DMC_ECC_ADDR_LO (i : Nat) : Nat := pageAddr Blk.DMC i + 0x188
abbrev DMC_ECC_ADDR_HI (i : Nat) : Nat := pageAddr Blk.DMC i + 0x18C
abbrev DMC_LINK_CE (i : Nat) : Nat := pageAddr Blk.DMC i + 0x190
abbrev DMC_SCRUB_CFG (i : Nat) : Nat := pageAddr Blk.DMC i + 0x194
abbrev DMC_SCRUB_STAT (i : Nat) : Nat := pageAddr Blk.DMC i + 0x198
abbrev DMC_RD_MIB (i : Nat) : Nat := pageAddr Blk.DMC i + 0x1A0
abbrev DMC_WR_MIB (i : Nat) : Nat := pageAddr Blk.DMC i + 0x1A4
abbrev DMC_HIT_CNT (i : Nat) : Nat := pageAddr Blk.DMC i + 0x1A8
abbrev DMC_MISS_CNT (i : Nat) : Nat := pageAddr Blk.DMC i + 0x1AC
abbrev DMC_TRN_TAG (i : Nat) : Nat := pageAddr Blk.DMC i + 0x3F0
abbrev DMC_TRN (i n : Nat) : Nat := pageAddr Blk.DMC i + 0x400 + 4 * n

/-! FDIG -/
abbrev FDIG_CTL (i : Nat) : Nat := pageAddr Blk.FDIG i + 0x010
abbrev FDIG_STAT (i : Nat) : Nat := pageAddr Blk.FDIG i + 0x014
abbrev FDIG_INPUT (i : Nat) : Nat := pageAddr Blk.FDIG i + 0x100
abbrev FDIG_OFFSET (i : Nat) : Nat := pageAddr Blk.FDIG i + 0x104
abbrev FDIG_CAL_PERIOD (i : Nat) : Nat := pageAddr Blk.FDIG i + 0x108
abbrev FDIG_SLICE_STAT (i : Nat) : Nat := pageAddr Blk.FDIG i + 0x10C
abbrev FDIG_SWAP_CNT (i : Nat) : Nat := pageAddr Blk.FDIG i + 0x110
abbrev FDIG_SWAP_T (i : Nat) : Nat := pageAddr Blk.FDIG i + 0x114
abbrev FDIG_CAL_DEFER_CNT (i : Nat) : Nat := pageAddr Blk.FDIG i + 0x118
abbrev FDIG_CLIP_CNT (i : Nat) : Nat := pageAddr Blk.FDIG i + 0x11C
abbrev FDIG_RATE (i : Nat) : Nat := pageAddr Blk.FDIG i + 0x120

/-! SENSE -/
abbrev SENSE_CTL (i : Nat) : Nat := pageAddr Blk.SENSE i + 0x010
abbrev SENSE_STAT (i : Nat) : Nat := pageAddr Blk.SENSE i + 0x014
abbrev SENSE_SEQ_LO (i : Nat) : Nat := pageAddr Blk.SENSE i + 0x100
abbrev SENSE_SEQ_HI (i : Nat) : Nat := pageAddr Blk.SENSE i + 0x104
abbrev SENSE_SEQ_LEN (i : Nat) : Nat := pageAddr Blk.SENSE i + 0x108
abbrev SENSE_SEQ_COMMIT (i : Nat) : Nat := pageAddr Blk.SENSE i + 0x10C
abbrev SENSE_GAIN (i : Nat) : Nat := pageAddr Blk.SENSE i + 0x110
abbrev SENSE_LAST (i n : Nat) : Nat := pageAddr Blk.SENSE i + 0x120 + 4 * n
abbrev SENSE_URG (i : Nat) : Nat := pageAddr Blk.SENSE i + 0x160
abbrev SENSE_URG_RESULT (i : Nat) : Nat := pageAddr Blk.SENSE i + 0x164
abbrev SENSE_URG_DROP (i : Nat) : Nat := pageAddr Blk.SENSE i + 0x168
abbrev SENSE_CLIP_CNT (i : Nat) : Nat := pageAddr Blk.SENSE i + 0x16C
abbrev SENSE_FRAME_CNT (i : Nat) : Nat := pageAddr Blk.SENSE i + 0x170

/-! SENSE4 -/
abbrev SENSE4_CTL : Nat := pageAddr Blk.SENSE 4 + 0x010
abbrev SENSE4_STAT : Nat := pageAddr Blk.SENSE 4 + 0x014
abbrev SENSE4_CAL_PERIOD : Nat := pageAddr Blk.SENSE 4 + 0x100
abbrev SENSE4_CMP_TOL : Nat := pageAddr Blk.SENSE 4 + 0x104
abbrev SENSE4_CONV_STAT : Nat := pageAddr Blk.SENSE 4 + 0x108
abbrev SENSE4_SWAP_CNT : Nat := pageAddr Blk.SENSE 4 + 0x10C
abbrev SENSE4_MISMATCH_CNT : Nat := pageAddr Blk.SENSE 4 + 0x110
abbrev SENSE4_URG : Nat := pageAddr Blk.SENSE 4 + 0x160
abbrev SENSE4_URG_RESULT : Nat := pageAddr Blk.SENSE 4 + 0x164
abbrev SENSE4_URG_DROP : Nat := pageAddr Blk.SENSE 4 + 0x168

/-! TRIG -/
abbrev TRIG_CTL (i : Nat) : Nat := pageAddr Blk.TRIG i + 0x010
abbrev TRIG_STAT (i : Nat) : Nat := pageAddr Blk.TRIG i + 0x014
abbrev TRIG_LEVEL_A (i : Nat) : Nat := pageAddr Blk.TRIG i + 0x100
abbrev TRIG_LEVEL_B (i : Nat) : Nat := pageAddr Blk.TRIG i + 0x104
abbrev TRIG_HYST (i : Nat) : Nat := pageAddr Blk.TRIG i + 0x108
abbrev TRIG_W_MIN (i : Nat) : Nat := pageAddr Blk.TRIG i + 0x10C
abbrev TRIG_W_MAX (i : Nat) : Nat := pageAddr Blk.TRIG i + 0x110
abbrev TRIG_PATTERN (i : Nat) : Nat := pageAddr Blk.TRIG i + 0x114
abbrev TRIG_EXT_SRC (i : Nat) : Nat := pageAddr Blk.TRIG i + 0x118
abbrev TRIG_ANG_SEL (i : Nat) : Nat := pageAddr Blk.TRIG i + 0x11C
abbrev TRIG_HOLD_T_LO (i : Nat) : Nat := pageAddr Blk.TRIG i + 0x120
abbrev TRIG_HOLD_T_HI (i : Nat) : Nat := pageAddr Blk.TRIG i + 0x124
abbrev TRIG_HOLD_N (i : Nat) : Nat := pageAddr Blk.TRIG i + 0x128
abbrev TRIG_HOLD_ANG (i : Nat) : Nat := pageAddr Blk.TRIG i + 0x12C
abbrev TRIG_AUTO_TMO (i : Nat) : Nat := pageAddr Blk.TRIG i + 0x130
abbrev TRIG_FORCE (i : Nat) : Nat := pageAddr Blk.TRIG i + 0x140
abbrev TRIG_POS_LO (i : Nat) : Nat := pageAddr Blk.TRIG i + 0x150
abbrev TRIG_POS_HI (i : Nat) : Nat := pageAddr Blk.TRIG i + 0x154
abbrev TRIG_TTIME_LO (i : Nat) : Nat := pageAddr Blk.TRIG i + 0x158
abbrev TRIG_TTIME_HI (i : Nat) : Nat := pageAddr Blk.TRIG i + 0x15C
abbrev TRIG_SEQ (i : Nat) : Nat := pageAddr Blk.TRIG i + 0x160
abbrev TRIG_HOLD_SKIP (i : Nat) : Nat := pageAddr Blk.TRIG i + 0x164
abbrev TRIG_BUSY_SKIP (i : Nat) : Nat := pageAddr Blk.TRIG i + 0x168
abbrev TRIG_NOBERTH_SKIP (i : Nat) : Nat := pageAddr Blk.TRIG i + 0x16C
abbrev TRIG_EARLY_SKIP (i : Nat) : Nat := pageAddr Blk.TRIG i + 0x170
abbrev TRIG_AUTO_CNT (i : Nat) : Nat := pageAddr Blk.TRIG i + 0x174

/-! BERTH -/
abbrev BERTH_CTL : Nat := pageAddr Blk.BERTH 0 + 0x010
abbrev BERTH_STAT : Nat := pageAddr Blk.BERTH 0 + 0x014
abbrev BERTH_BASE (n : Nat) : Nat := pageAddr Blk.BERTH 0 + 0x100 + 128 * n
abbrev BERTH_HDR_BASE (n : Nat) : Nat := pageAddr Blk.BERTH 0 + 0x104 + 128 * n
abbrev BERTH_COUNT (n : Nat) : Nat := pageAddr Blk.BERTH 0 + 0x108 + 128 * n
abbrev BERTH_LEN (n : Nat) : Nat := pageAddr Blk.BERTH 0 + 0x10C + 128 * n
abbrev BERTH_PRE (n : Nat) : Nat := pageAddr Blk.BERTH 0 + 0x110 + 128 * n
abbrev BERTH_FMT (n : Nat) : Nat := pageAddr Blk.BERTH 0 + 0x114 + 128 * n
abbrev BERTH_MODE (n : Nat) : Nat := pageAddr Blk.BERTH 0 + 0x118 + 128 * n
abbrev BERTH_ARM (n : Nat) : Nat := pageAddr Blk.BERTH 0 + 0x11C + 128 * n
abbrev BERTH_PSTAT (n : Nat) : Nat := pageAddr Blk.BERTH 0 + 0x120 + 128 * n
abbrev BERTH_WR_IDX (n : Nat) : Nat := pageAddr Blk.BERTH 0 + 0x124 + 128 * n
abbrev BERTH_RD_IDX (n : Nat) : Nat := pageAddr Blk.BERTH 0 + 0x128 + 128 * n
abbrev BERTH_DONE_CNT (n : Nat) : Nat := pageAddr Blk.BERTH 0 + 0x12C + 128 * n
abbrev BERTH_SBASE_LO (n : Nat) : Nat := pageAddr Blk.BERTH 0 + 0x130 + 128 * n
abbrev BERTH_SBASE_HI (n : Nat) : Nat := pageAddr Blk.BERTH 0 + 0x134 + 128 * n
abbrev BERTH_SCOUNT (n : Nat) : Nat := pageAddr Blk.BERTH 0 + 0x138 + 128 * n
abbrev BERTH_STAIL (n : Nat) : Nat := pageAddr Blk.BERTH 0 + 0x13C + 128 * n
abbrev BERTH_SHEAD (n : Nat) : Nat := pageAddr Blk.BERTH 0 + 0x140 + 128 * n
abbrev BERTH_ECC_CE : Nat := pageAddr Blk.BERTH 0 + 0x200
abbrev BERTH_ECC_UE : Nat := pageAddr Blk.BERTH 0 + 0x204

/-! WSEQ -/
abbrev WSEQ_CTL : Nat := pageAddr Blk.WSEQ 0 + 0x010
abbrev WSEQ_STAT : Nat := pageAddr Blk.WSEQ 0 + 0x014
abbrev WSEQ_MEM_ADDR : Nat := pageAddr Blk.WSEQ 0 + 0x100
abbrev WSEQ_MEM_DATA : Nat := pageAddr Blk.WSEQ 0 + 0x104
abbrev WSEQ_CHIME_CFG : Nat := pageAddr Blk.WSEQ 0 + 0x108
abbrev WSEQ_PSEN_CFG : Nat := pageAddr Blk.WSEQ 0 + 0x10C
abbrev WSEQ_LD_SRC_LO : Nat := pageAddr Blk.WSEQ 0 + 0x110
abbrev WSEQ_LD_SRC_HI : Nat := pageAddr Blk.WSEQ 0 + 0x114
abbrev WSEQ_LD_DST : Nat := pageAddr Blk.WSEQ 0 + 0x118
abbrev WSEQ_LD_LEN : Nat := pageAddr Blk.WSEQ 0 + 0x11C
abbrev WSEQ_LD_GO : Nat := pageAddr Blk.WSEQ 0 + 0x120
abbrev WSEQ_LD_STAT : Nat := pageAddr Blk.WSEQ 0 + 0x124
abbrev WSEQ_ECC_CE : Nat := pageAddr Blk.WSEQ 0 + 0x128
abbrev WSEQ_ECC_UE : Nat := pageAddr Blk.WSEQ 0 + 0x12C
abbrev WSEQ_LINE_SW : Nat := pageAddr Blk.WSEQ 0 + 0x130
abbrev WSEQ_LINE_MISS_CNT : Nat := pageAddr Blk.WSEQ 0 + 0x134
abbrev WSEQ_LINE_MAP (n : Nat) : Nat := pageAddr Blk.WSEQ 0 + 0x140 + 4 * n
abbrev WSEQ_CH_CFG (n : Nat) : Nat := pageAddr Blk.WSEQ 0 + 0x200 + 8 * n
abbrev WSEQ_CH_STAT (n : Nat) : Nat := pageAddr Blk.WSEQ 0 + 0x204 + 8 * n
abbrev WSEQ_CH_GAIN (n : Nat) : Nat := pageAddr Blk.WSEQ 0 + 0x280 + 4 * n
abbrev WSEQ_THR_CTL (n : Nat) : Nat := pageAddr Blk.WSEQ 0 + 0x300 + 32 * n
abbrev WSEQ_THR_PC (n : Nat) : Nat := pageAddr Blk.WSEQ 0 + 0x304 + 32 * n
abbrev WSEQ_THR_CHMASK (n : Nat) : Nat := pageAddr Blk.WSEQ 0 + 0x308 + 32 * n
abbrev WSEQ_THR_STAT (n : Nat) : Nat := pageAddr Blk.WSEQ 0 + 0x30C + 32 * n
abbrev WSEQ_THR_GAP_CNT (n : Nat) : Nat := pageAddr Blk.WSEQ 0 + 0x310 + 32 * n
abbrev WSEQ_CHL_CFG (n : Nat) : Nat := pageAddr Blk.WSEQ 0 + 0x380 + 32 * n
abbrev WSEQ_CHL_START (n : Nat) : Nat := pageAddr Blk.WSEQ 0 + 0x384 + 32 * n
abbrev WSEQ_CHL_MASK (n : Nat) : Nat := pageAddr Blk.WSEQ 0 + 0x388 + 32 * n
abbrev WSEQ_CHL_STOP (n : Nat) : Nat := pageAddr Blk.WSEQ 0 + 0x38C + 32 * n
abbrev WSEQ_CHL_STAT (n : Nat) : Nat := pageAddr Blk.WSEQ 0 + 0x390 + 32 * n
abbrev WSEQ_STRM_CFG (n : Nat) : Nat := pageAddr Blk.WSEQ 0 + 0x400 + 32 * n
abbrev WSEQ_STRM_BASE_LO (n : Nat) : Nat := pageAddr Blk.WSEQ 0 + 0x404 + 32 * n
abbrev WSEQ_STRM_BASE_HI (n : Nat) : Nat := pageAddr Blk.WSEQ 0 + 0x408 + 32 * n
abbrev WSEQ_STRM_SIZE (n : Nat) : Nat := pageAddr Blk.WSEQ 0 + 0x40C + 32 * n
abbrev WSEQ_STRM_TAIL (n : Nat) : Nat := pageAddr Blk.WSEQ 0 + 0x410 + 32 * n
abbrev WSEQ_STRM_HEAD (n : Nat) : Nat := pageAddr Blk.WSEQ 0 + 0x414 + 32 * n
abbrev WSEQ_STRM_UR_CFG (n : Nat) : Nat := pageAddr Blk.WSEQ 0 + 0x418 + 32 * n
abbrev WSEQ_STRM_STAT (n : Nat) : Nat := pageAddr Blk.WSEQ 0 + 0x41C + 32 * n
abbrev WSEQ_TSET_PERIOD (n : Nat) : Nat := pageAddr Blk.WSEQ 0 + 0x500 + 4 * n
abbrev WSEQ_TSET_PIN (n : Nat) : Nat := pageAddr Blk.WSEQ 0 + 0x800 + 4 * n

/-! PROT -/
abbrev PROT_CTL : Nat := pageAddr Blk.PROT 0 + 0x010
abbrev PROT_STAT : Nat := pageAddr Blk.PROT 0 + 0x014
abbrev PROT_TIMING : Nat := pageAddr Blk.PROT 0 + 0x100
abbrev PROT_OK_MS : Nat := pageAddr Blk.PROT 0 + 0x104
abbrev PROT_DC_WIN : Nat := pageAddr Blk.PROT 0 + 0x108
abbrev PROT_CLR : Nat := pageAddr Blk.PROT 0 + 0x110
abbrev PROT_FORCE_HOLD : Nat := pageAddr Blk.PROT 0 + 0x114
abbrev PROT_REROUTE_STAT : Nat := pageAddr Blk.PROT 0 + 0x130
abbrev PROT_CHIME_LOST_CNT : Nat := pageAddr Blk.PROT 0 + 0x134
abbrev PROT_CH_TH (n : Nat) : Nat := pageAddr Blk.PROT 0 + 0x200 + 8 * n
abbrev PROT_CH_CFG (n : Nat) : Nat := pageAddr Blk.PROT 0 + 0x204 + 8 * n
abbrev PROT_CH_STAT (n : Nat) : Nat := pageAddr Blk.PROT 0 + 0x280 + 4 * n
abbrev PROT_LOG_EVT : Nat := pageAddr Blk.PROT 0 + 0x300
abbrev PROT_LOG_T : Nat := pageAddr Blk.PROT 0 + 0x304
abbrev PROT_LOG_POP : Nat := pageAddr Blk.PROT 0 + 0x308
abbrev PROT_LOG_STAT : Nat := pageAddr Blk.PROT 0 + 0x30C

/-! ALE -/
abbrev ALE_CTL (i : Nat) : Nat := pageAddr Blk.ALE i + 0x010
abbrev ALE_STAT (i : Nat) : Nat := pageAddr Blk.ALE i + 0x014
abbrev ALE_WAKE_CFG (i : Nat) : Nat := pageAddr Blk.ALE i + 0x100
abbrev ALE_WAKE_IDX (i : Nat) : Nat := pageAddr Blk.ALE i + 0x104
abbrev ALE_DONE (i : Nat) : Nat := pageAddr Blk.ALE i + 0x108
abbrev ALE_OVERRUN_CNT (i : Nat) : Nat := pageAddr Blk.ALE i + 0x10C
abbrev ALE_LATE_CNT (i : Nat) : Nat := pageAddr Blk.ALE i + 0x110
abbrev ALE_ECC_CE (i : Nat) : Nat := pageAddr Blk.ALE i + 0x114
abbrev ALE_ECC_UE (i : Nat) : Nat := pageAddr Blk.ALE i + 0x118
abbrev ALE_EXP_SRC (i : Nat) : Nat := pageAddr Blk.ALE i + 0x120
abbrev ALE_EXP_DST_LO (i : Nat) : Nat := pageAddr Blk.ALE i + 0x124
abbrev ALE_EXP_DST_HI (i : Nat) : Nat := pageAddr Blk.ALE i + 0x128
abbrev ALE_EXP_LEN (i : Nat) : Nat := pageAddr Blk.ALE i + 0x12C
abbrev ALE_EXP_PUSH (i : Nat) : Nat := pageAddr Blk.ALE i + 0x130
abbrev ALE_EXP_STAT (i : Nat) : Nat := pageAddr Blk.ALE i + 0x134
abbrev ALE_EXP_WAIT (i : Nat) : Nat := pageAddr Blk.ALE i + 0x138
abbrev ALE_EXP_DROP_CNT (i : Nat) : Nat := pageAddr Blk.ALE i + 0x13C
abbrev ALE_CSET_CTL (i : Nat) : Nat := pageAddr Blk.ALE i + 0x140
abbrev ALE_CSET_STAT (i : Nat) : Nat := pageAddr Blk.ALE i + 0x144
abbrev ALE_CSET_SEQ (i : Nat) : Nat := pageAddr Blk.ALE i + 0x148
abbrev ALE_CSET_SW_CNT (i : Nat) : Nat := pageAddr Blk.ALE i + 0x14C
abbrev ALE_CSET_REJ (i : Nat) : Nat := pageAddr Blk.ALE i + 0x150
abbrev ALE_TK_LIFE (i : Nat) : Nat := pageAddr Blk.ALE i + 0x200
abbrev ALE_TK_ARM (i : Nat) : Nat := pageAddr Blk.ALE i + 0x204
abbrev ALE_TK_ARMED (i : Nat) : Nat := pageAddr Blk.ALE i + 0x208
abbrev ALE_TK_LANDED (i : Nat) : Nat := pageAddr Blk.ALE i + 0x20C
abbrev ALE_TK_GRANT_CNT (i : Nat) : Nat := pageAddr Blk.ALE i + 0x210
abbrev ALE_TK_REFUSE_CNT (i : Nat) : Nat := pageAddr Blk.ALE i + 0x214
abbrev ALE_TK_RET_CNT (i : Nat) : Nat := pageAddr Blk.ALE i + 0x218
abbrev ALE_TK_EXP_CNT (i : Nat) : Nat := pageAddr Blk.ALE i + 0x21C
abbrev ALE_TK_DROP_CNT (i : Nat) : Nat := pageAddr Blk.ALE i + 0x220
abbrev ALE_TK_DROP_INFO (i : Nat) : Nat := pageAddr Blk.ALE i + 0x224
abbrev ALE_TK_DROP_ADDR (i : Nat) : Nat := pageAddr Blk.ALE i + 0x228
abbrev ALE_TK_WIN_BASE (i n : Nat) : Nat := pageAddr Blk.ALE i + 0x280 + 8 * n
abbrev ALE_TK_WIN_CTL (i n : Nat) : Nat := pageAddr Blk.ALE i + 0x284 + 8 * n
abbrev ALE_TK_WIN_STAT (i n : Nat) : Nat := pageAddr Blk.ALE i + 0x300 + 4 * n

/-! ALE0 -/
abbrev ALE_AUD_CFG : Nat := pageAddr Blk.ALE 0 + 0x400
abbrev ALE_TK_CFG (n : Nat) : Nat := pageAddr Blk.ALE 0 + 0x404 + 4 * n
abbrev ALE_TK_CNT (n : Nat) : Nat := pageAddr Blk.ALE 0 + 0x414 + 4 * n
abbrev ALE_LANE_SRC_LO : Nat := pageAddr Blk.ALE 0 + 0x424
abbrev ALE_LANE_SRC_HI : Nat := pageAddr Blk.ALE 0 + 0x428
abbrev ALE_RNC_CFG : Nat := pageAddr Blk.ALE 0 + 0x42C
abbrev ALE_SNS_ROUTE (n : Nat) : Nat := pageAddr Blk.ALE 0 + 0x430 + 4 * n
abbrev ALE_STRM_DST : Nat := pageAddr Blk.ALE 0 + 0x440
abbrev ALE_AUD_STAT : Nat := pageAddr Blk.ALE 0 + 0x444

/-! APORT -/
abbrev APORT_CTL (i : Nat) : Nat := pageAddr Blk.APORT i + 0x010
abbrev APORT_STAT (i : Nat) : Nat := pageAddr Blk.APORT i + 0x014
abbrev APORT_ROUTE (i n : Nat) : Nat := pageAddr Blk.APORT i + 0x100 + 4 * n
abbrev APORT_FRAME_CNT (i : Nat) : Nat := pageAddr Blk.APORT i + 0x180
abbrev APORT_SLIP_CNT (i : Nat) : Nat := pageAddr Blk.APORT i + 0x184

/-! APORT8 -/
abbrev APORT8_CTL : Nat := pageAddr Blk.APORT 8 + 0x010
abbrev APORT8_STAT : Nat := pageAddr Blk.APORT 8 + 0x014
abbrev APORT8_ROUTE (n : Nat) : Nat := pageAddr Blk.APORT 8 + 0x100 + 4 * n
abbrev APORT8_CLIP_CNT : Nat := pageAddr Blk.APORT 8 + 0x180

/-! CAM -/
abbrev CAM_CTL (i : Nat) : Nat := pageAddr Blk.CAM i + 0x010
abbrev CAM_STAT (i : Nat) : Nat := pageAddr Blk.CAM i + 0x014
abbrev CAM_SEL (i n : Nat) : Nat := pageAddr Blk.CAM i + 0x100 + 64 * n
abbrev CAM_FMT (i n : Nat) : Nat := pageAddr Blk.CAM i + 0x104 + 64 * n
abbrev CAM_CROP (i n : Nat) : Nat := pageAddr Blk.CAM i + 0x108 + 64 * n
abbrev CAM_SIZE (i n : Nat) : Nat := pageAddr Blk.CAM i + 0x10C + 64 * n
abbrev CAM_BASE_LO (i n : Nat) : Nat := pageAddr Blk.CAM i + 0x110 + 64 * n
abbrev CAM_BASE_HI (i n : Nat) : Nat := pageAddr Blk.CAM i + 0x114 + 64 * n
abbrev CAM_STRIDE (i n : Nat) : Nat := pageAddr Blk.CAM i + 0x118 + 64 * n
abbrev CAM_PITCH (i n : Nat) : Nat := pageAddr Blk.CAM i + 0x11C + 64 * n
abbrev CAM_C_OFS (i n : Nat) : Nat := pageAddr Blk.CAM i + 0x120 + 64 * n
abbrev CAM_META_LO (i n : Nat) : Nat := pageAddr Blk.CAM i + 0x124 + 64 * n
abbrev CAM_META_HI (i n : Nat) : Nat := pageAddr Blk.CAM i + 0x128 + 64 * n
abbrev CAM_RING (i n : Nat) : Nat := pageAddr Blk.CAM i + 0x12C + 64 * n
abbrev CAM_RD (i n : Nat) : Nat := pageAddr Blk.CAM i + 0x130 + 64 * n
abbrev CAM_SSTAT (i n : Nat) : Nat := pageAddr Blk.CAM i + 0x134 + 64 * n
abbrev CAM_FRAME_CNT (i n : Nat) : Nat := pageAddr Blk.CAM i + 0x138 + 64 * n
abbrev CAM_DROP_CNT (i n : Nat) : Nat := pageAddr Blk.CAM i + 0x13C + 64 * n
abbrev CAM_HDR_CE (i : Nat) : Nat := pageAddr Blk.CAM i + 0x200
abbrev CAM_HDR_UE (i : Nat) : Nat := pageAddr Blk.CAM i + 0x204
abbrev CAM_CRC_CNT (i : Nat) : Nat := pageAddr Blk.CAM i + 0x208
abbrev CAM_SYNC_ERR (i : Nat) : Nat := pageAddr Blk.CAM i + 0x20C
abbrev CAM_OVF_CNT (i : Nat) : Nat := pageAddr Blk.CAM i + 0x210
abbrev CAM_LOSS_MS (i : Nat) : Nat := pageAddr Blk.CAM i + 0x214

/-! VOUT -/
abbrev VOUT_CTL (i : Nat) : Nat := pageAddr Blk.VOUT i + 0x010
abbrev VOUT_STAT (i : Nat) : Nat := pageAddr Blk.VOUT i + 0x014
abbrev VOUT_HTIM (i : Nat) : Nat := pageAddr Blk.VOUT i + 0x100
abbrev VOUT_HSYNC (i : Nat) : Nat := pageAddr Blk.VOUT i + 0x104
abbrev VOUT_VTIM (i : Nat) : Nat := pageAddr Blk.VOUT i + 0x108
abbrev VOUT_VSYNC (i : Nat) : Nat := pageAddr Blk.VOUT i + 0x10C
abbrev VOUT_PCLK (i : Nat) : Nat := pageAddr Blk.VOUT i + 0x110
abbrev VOUT_LINK (i : Nat) : Nat := pageAddr Blk.VOUT i + 0x114
abbrev VOUT_DSC (i : Nat) : Nat := pageAddr Blk.VOUT i + 0x118
abbrev VOUT_BG_COLOUR (i : Nat) : Nat := pageAddr Blk.VOUT i + 0x11C
abbrev VOUT_PRE_NS (i : Nat) : Nat := pageAddr Blk.VOUT i + 0x120
abbrev VOUT_CFG (i n : Nat) : Nat := pageAddr Blk.VOUT i + 0x180 + 64 * n
abbrev VOUT_POS (i n : Nat) : Nat := pageAddr Blk.VOUT i + 0x184 + 64 * n
abbrev VOUT_SIZE (i n : Nat) : Nat := pageAddr Blk.VOUT i + 0x188 + 64 * n
abbrev VOUT_P0_LO (i n : Nat) : Nat := pageAddr Blk.VOUT i + 0x18C + 64 * n
abbrev VOUT_P0_HI (i n : Nat) : Nat := pageAddr Blk.VOUT i + 0x190 + 64 * n
abbrev VOUT_P1_LO (i n : Nat) : Nat := pageAddr Blk.VOUT i + 0x194 + 64 * n
abbrev VOUT_P1_HI (i n : Nat) : Nat := pageAddr Blk.VOUT i + 0x198 + 64 * n
abbrev VOUT_PITCH (i n : Nat) : Nat := pageAddr Blk.VOUT i + 0x19C + 64 * n
abbrev VOUT_UR_CNT (i n : Nat) : Nat := pageAddr Blk.VOUT i + 0x1A0 + 64 * n
abbrev VOUT_FLIP (i : Nat) : Nat := pageAddr Blk.VOUT i + 0x200
abbrev VOUT_FRAME_CNT (i : Nat) : Nat := pageAddr Blk.VOUT i + 0x204
abbrev VOUT_FLIP_SEQ (i : Nat) : Nat := pageAddr Blk.VOUT i + 0x208
abbrev VOUT_FLIP_T_LO (i : Nat) : Nat := pageAddr Blk.VOUT i + 0x20C
abbrev VOUT_FLIP_T_HI (i : Nat) : Nat := pageAddr Blk.VOUT i + 0x210
abbrev VOUT_VBL_DB (i : Nat) : Nat := pageAddr Blk.VOUT i + 0x214
abbrev VOUT_UR_LINES (i : Nat) : Nat := pageAddr Blk.VOUT i + 0x218
abbrev VOUT_AUX_CMD (i : Nat) : Nat := pageAddr Blk.VOUT i + 0x220
abbrev VOUT_AUX_DATA (i n : Nat) : Nat := pageAddr Blk.VOUT i + 0x224 + 4 * n
abbrev VOUT_AUX_STAT (i : Nat) : Nat := pageAddr Blk.VOUT i + 0x234

/-! GW -/
abbrev GW_CTL : Nat := pageAddr Blk.GW 0 + 0x010
abbrev GW_STAT : Nat := pageAddr Blk.GW 0 + 0x014
abbrev GW_TBL_ADDR : Nat := pageAddr Blk.GW 0 + 0x100
abbrev GW_TBL_DATA : Nat := pageAddr Blk.GW 0 + 0x104
abbrev GW_AGE_0 : Nat := pageAddr Blk.GW 0 + 0x108
abbrev GW_AGE_1 : Nat := pageAddr Blk.GW 0 + 0x10C
abbrev GW_SPD_SRC : Nat := pageAddr Blk.GW 0 + 0x110
abbrev GW_SPD_FMT : Nat := pageAddr Blk.GW 0 + 0x114
abbrev GW_SPD_SCALE : Nat := pageAddr Blk.GW 0 + 0x118
abbrev GW_SPD_BAD : Nat := pageAddr Blk.GW 0 + 0x11C
abbrev GW_INSP_TMO : Nat := pageAddr Blk.GW 0 + 0x120
abbrev GW_INSP_HDR : Nat := pageAddr Blk.GW 0 + 0x124
abbrev GW_INSP_T : Nat := pageAddr Blk.GW 0 + 0x128
abbrev GW_INSP_DATA : Nat := pageAddr Blk.GW 0 + 0x12C
abbrev GW_INSP_VERDICT : Nat := pageAddr Blk.GW 0 + 0x130
abbrev GW_INSP_TMO_CNT : Nat := pageAddr Blk.GW 0 + 0x134
abbrev GW_REST_BAD : Nat := pageAddr Blk.GW 0 + 0x138
abbrev GW_TX_CTL : Nat := pageAddr Blk.GW 0 + 0x140
abbrev GW_TX_DATA : Nat := pageAddr Blk.GW 0 + 0x144
abbrev GW_TX_STAT : Nat := pageAddr Blk.GW 0 + 0x148
abbrev GW_HOST_CTL : Nat := pageAddr Blk.GW 0 + 0x160
abbrev GW_HRX_BASE_LO : Nat := pageAddr Blk.GW 0 + 0x164
abbrev GW_HRX_BASE_HI : Nat := pageAddr Blk.GW 0 + 0x168
abbrev GW_HRX_SIZE : Nat := pageAddr Blk.GW 0 + 0x16C
abbrev GW_HRX_TAIL : Nat := pageAddr Blk.GW 0 + 0x170
abbrev GW_HRX_HEAD : Nat := pageAddr Blk.GW 0 + 0x174
abbrev GW_HTX_BASE_LO : Nat := pageAddr Blk.GW 0 + 0x178
abbrev GW_HTX_BASE_HI : Nat := pageAddr Blk.GW 0 + 0x17C
abbrev GW_HTX_SIZE : Nat := pageAddr Blk.GW 0 + 0x180
abbrev GW_HTX_TAIL : Nat := pageAddr Blk.GW 0 + 0x184
abbrev GW_HTX_HEAD : Nat := pageAddr Blk.GW 0 + 0x188
abbrev GW_XPROF_DMAC (n : Nat) : Nat := pageAddr Blk.GW 0 + 0x1A0 + 16 * n
abbrev GW_XPROF_VID (n : Nat) : Nat := pageAddr Blk.GW 0 + 0x1A4 + 16 * n
abbrev GW_XPROF_SID_LO (n : Nat) : Nat := pageAddr Blk.GW 0 + 0x1A8 + 16 * n
abbrev GW_XPROF_SID_HI (n : Nat) : Nat := pageAddr Blk.GW 0 + 0x1AC + 16 * n
abbrev GW_LIM_CIR (n : Nat) : Nat := pageAddr Blk.GW 0 + 0x200 + 8 * n
abbrev GW_LIM_CBS (n : Nat) : Nat := pageAddr Blk.GW 0 + 0x204 + 8 * n
abbrev GW_TBL_CE : Nat := pageAddr Blk.GW 0 + 0x480
abbrev GW_TBL_UE : Nat := pageAddr Blk.GW 0 + 0x484
abbrev GW_BUF_UE : Nat := pageAddr Blk.GW 0 + 0x488

/-! ETH -/
abbrev ETH_CTL (i : Nat) : Nat := pageAddr Blk.ETH i + 0x010
abbrev ETH_STAT (i : Nat) : Nat := pageAddr Blk.ETH i + 0x014
abbrev ETH_PCP_MAP (i : Nat) : Nat := pageAddr Blk.ETH i + 0x100
abbrev ETH_PORT_LIM (i : Nat) : Nat := pageAddr Blk.ETH i + 0x104
abbrev ETH_PTP_CFG (i : Nat) : Nat := pageAddr Blk.ETH i + 0x108
abbrev ETH_PTP_STAT (i : Nat) : Nat := pageAddr Blk.ETH i + 0x10C
abbrev ETH_QBV_CTL (i : Nat) : Nat := pageAddr Blk.ETH i + 0x110
abbrev ETH_QBV_CYCLE (i : Nat) : Nat := pageAddr Blk.ETH i + 0x114
abbrev ETH_QBV_BASE_LO (i : Nat) : Nat := pageAddr Blk.ETH i + 0x118
abbrev ETH_QBV_BASE_HI (i : Nat) : Nat := pageAddr Blk.ETH i + 0x11C
abbrev ETH_QBV_STAT (i : Nat) : Nat := pageAddr Blk.ETH i + 0x120
abbrev ETH_GCL_GATES (i n : Nat) : Nat := pageAddr Blk.ETH i + 0x400 + 8 * n
abbrev ETH_GCL_TIME (i n : Nat) : Nat := pageAddr Blk.ETH i + 0x404 + 8 * n

/-! CANX -/
abbrev CANX_CTL (i : Nat) : Nat := pageAddr Blk.CANX i + 0x010
abbrev CANX_STAT (i : Nat) : Nat := pageAddr Blk.CANX i + 0x014
abbrev CANX_NBT (i : Nat) : Nat := pageAddr Blk.CANX i + 0x100
abbrev CANX_DBT (i : Nat) : Nat := pageAddr Blk.CANX i + 0x104
abbrev CANX_XBT (i : Nat) : Nat := pageAddr Blk.CANX i + 0x108
abbrev CANX_TDC (i : Nat) : Nat := pageAddr Blk.CANX i + 0x10C
abbrev CANX_PORT_LIM (i : Nat) : Nat := pageAddr Blk.CANX i + 0x110

/-! RLINK -/
abbrev RLINK_CTL (i : Nat) : Nat := pageAddr Blk.RLINK i + 0x010
abbrev RLINK_STAT (i : Nat) : Nat := pageAddr Blk.RLINK i + 0x014
abbrev RLINK_LP_IDLE (i : Nat) : Nat := pageAddr Blk.RLINK i + 0x100
abbrev RLINK_CRC_CNT (i : Nat) : Nat := pageAddr Blk.RLINK i + 0x104
abbrev RLINK_REPLAY_CNT (i : Nat) : Nat := pageAddr Blk.RLINK i + 0x108
abbrev RLINK_RETRAIN_CNT (i : Nat) : Nat := pageAddr Blk.RLINK i + 0x10C
abbrev RLINK_TX_FLITS (i : Nat) : Nat := pageAddr Blk.RLINK i + 0x110
abbrev RLINK_RX_FLITS (i : Nat) : Nat := pageAddr Blk.RLINK i + 0x114
abbrev RLINK_OUT_PEND (i : Nat) : Nat := pageAddr Blk.RLINK i + 0x118
abbrev RLINK_NOROUTE_CNT (i : Nat) : Nat := pageAddr Blk.RLINK i + 0x11C

/-! CASC -/
abbrev CASC_CTL : Nat := pageAddr Blk.CASC 0 + 0x010
abbrev CASC_STAT : Nat := pageAddr Blk.CASC 0 + 0x014
abbrev CASC_PULL_PPM : Nat := pageAddr Blk.CASC 0 + 0x100
abbrev CASC_DLY (n : Nat) : Nat := pageAddr Blk.CASC 0 + 0x104 + 4 * n
abbrev CASC_PHASE_ERR : Nat := pageAddr Blk.CASC 0 + 0x110
abbrev CASC_TK_OFS (n : Nat) : Nat := pageAddr Blk.CASC 0 + 0x114 + 4 * n
abbrev CASC_FRAME_ERR : Nat := pageAddr Blk.CASC 0 + 0x124
abbrev CASC_LOSS_CNT : Nat := pageAddr Blk.CASC 0 + 0x128

/-! PERTURB -/
abbrev PERTURB_CTL : Nat := pageAddr Blk.PERTURB 0 + 0x010
abbrev PERTURB_STAT : Nat := pageAddr Blk.PERTURB 0 + 0x014
abbrev PERTURB_CODE_EN_LO : Nat := pageAddr Blk.PERTURB 0 + 0x100
abbrev PERTURB_CODE_EN_HI : Nat := pageAddr Blk.PERTURB 0 + 0x104

/-! The perturbation window (R684), by page address -/
abbrev PT_CTL (page : Nat) : Nat := page + 0xF00
abbrev PT_CAP (page : Nat) : Nat := page + 0xF04
abbrev PT_SEED (page : Nat) : Nat := page + 0xF08
abbrev PT_DELAY (page : Nat) : Nat := page + 0xF0C
abbrev PT_BP (page : Nat) : Nat := page + 0xF10
abbrev PT_STALL_PER (page : Nat) : Nat := page + 0xF14
abbrev PT_STALL_LEN (page : Nat) : Nat := page + 0xF18
abbrev PT_JIT (page : Nat) : Nat := page + 0xF1C
abbrev PT_FORCE (page : Nat) : Nat := page + 0xF20
abbrev PT_FORCE_CFG (page : Nat) : Nat := page + 0xF24
abbrev PT_FORCE_ADDR_LO (page : Nat) : Nat := page + 0xF28
abbrev PT_FORCE_ADDR_HI (page : Nat) : Nat := page + 0xF2C
abbrev PT_STAT (page : Nat) : Nat := page + 0xF30
abbrev PT_CNT (page : Nat) : Nat := page + 0xF34

/-! RLINK0 -/
abbrev RLINK_FAB_CFG : Nat := pageAddr Blk.RLINK 0 + 0x200
abbrev RLINK_FAB_STAT : Nat := pageAddr Blk.RLINK 0 + 0x204
abbrev RLINK_GEN : Nat := pageAddr Blk.RLINK 0 + 0x208
abbrev RLINK_FAB_CTL : Nat := pageAddr Blk.RLINK 0 + 0x20C
abbrev RLINK_OUT_MASK_LO : Nat := pageAddr Blk.RLINK 0 + 0x210
abbrev RLINK_OUT_MASK_HI : Nat := pageAddr Blk.RLINK 0 + 0x214
abbrev RLINK_NODE_UID_LO (n : Nat) : Nat := pageAddr Blk.RLINK 0 + 0x400 + 16 * n
abbrev RLINK_NODE_UID_HI (n : Nat) : Nat := pageAddr Blk.RLINK 0 + 0x404 + 16 * n
abbrev RLINK_NODE_INFO (n : Nat) : Nat := pageAddr Blk.RLINK 0 + 0x408 + 16 * n
abbrev RLINK_NODE_ROUTE (n : Nat) : Nat := pageAddr Blk.RLINK 0 + 0x40C + 16 * n
end Reg

/-- One row of a register table: offset, stride and count of its registers, reset value (one for all, or one per index),
and the mask of the bits under each access code of R16. Bits under no mask are RO or reserved. -/
structure RegRow where
  off : Nat
  stride : Nat
  cnt : Nat
  rst : List Nat
  rw : Nat
  rwl : Nat
  w1c : Nat
  w1s : Nat
  wo : Nat
  rc : Nat
  ret : Nat
  deriving DecidableEq, Repr

/-- Registers of SYS (R3, R38, R73, R488, R702). -/
def rowsSYS : List RegRow := [
  ⟨0x100, 0x4, 1, [Config.devId], 0, 0, 0, 0, 0, 0, 0⟩,
  ⟨0x104, 0x4, 1, [0], 0, 0, 0, 0, 0, 0, 0⟩,
  ⟨0x108, 0x4, 1, [0], 0, 0, 0xFFFF, 0, 0, 0, 0⟩,
  ⟨0x110, 0x4, 1, [0], 0, 0, 0, 0, 0, 0, 0⟩,
  ⟨0x114, 0x4, 1, [0], 0, 0, 0, 0, 0, 0, 0⟩,
  ⟨0x118, 0x4, 1, [0], 0, 0, 0x80000000, 0, 0, 0, 0⟩,
  ⟨0x11C, 0x4, 1, [0], 0, 0, 0, 0, 0, 0xFFFFFFFF, 0⟩,
  ⟨0x200, 0x4, 1, [0], 0, 0x7, 0, 0, 0, 0, 0x7⟩,
  ⟨0x204, 0x4, 1, [0], 0, 0, 0, 0, 0, 0, 0⟩,
  ⟨0x208, 0x4, 1, [0], 0, 0, 0x303FF, 0, 0, 0, 0⟩]

/-- Registers of ANGLE (R109). -/
def rowsANGLEA : List RegRow := [
  ⟨0x10, 0x4, 1, [0x1], 0, 0x3, 0, 0, 0, 0, 0x3⟩,
  ⟨0x14, 0x4, 1, [0], 0, 0, 0, 0, 0, 0, 0⟩,
  ⟨0x100, 0x10, 4, [0xA8030], 0, 0xFFFFFFFF, 0, 0, 0, 0, 0xFFFFFFFF⟩,
  ⟨0x104, 0x10, 4, [0x40000000], 0, 0xFFFFFFFF, 0, 0, 0, 0, 0xFFFFFFFF⟩,
  ⟨0x108, 0x10, 4, [0], 0, 0, 0, 0, 0, 0, 0⟩,
  ⟨0x10C, 0x10, 4, [0], 0, 0, 0, 0, 0, 0, 0⟩,
  ⟨0x140, 0x10, 2, [0], 0, 0xFFFFFFF7, 0, 0, 0, 0, 0xFFFFFFF7⟩,
  ⟨0x144, 0x10, 2, [0x1000000], 0, 0xFFFFFFFF, 0, 0, 0, 0, 0xFFFFFFFF⟩,
  ⟨0x148, 0x10, 2, [0], 0, 0, 0, 0, 0, 0, 0⟩,
  ⟨0x14C, 0x10, 2, [0], 0, 0, 0, 0, 0, 0, 0⟩,
  ⟨0x160, 0x4, 1, [0x80000064], 0, 0x8000FFFF, 0, 0, 0, 0, 0x8000FFFF⟩,
  ⟨0x164, 0x4, 1, [0x1E8480], 0, 0xFFFFFFFF, 0, 0, 0, 0, 0xFFFFFFFF⟩,
  ⟨0x168, 0x4, 1, [0], 0, 0, 0, 0, 0, 0, 0⟩,
  ⟨0x180, 0x20, 3, [0x41032400, 0x41032404, 0x41032405], 0, 0xFFFFFFF7, 0, 0, 0, 0, 0xFFFFFFF7⟩,
  ⟨0x184, 0x20, 3, [0x307D019], 0, 0xFFFFFFFF, 0, 0, 0, 0, 0xFFFFFFFF⟩,
  ⟨0x188, 0x20, 3, [0x17321, 0x7777, 0x7777], 0, 0x17777, 0, 0, 0, 0, 0x17777⟩,
  ⟨0x18C, 0x20, 3, [0], 0, 0, 0, 0, 0, 0, 0⟩,
  ⟨0x190, 0x20, 3, [0], 0, 0, 0, 0, 0, 0, 0⟩,
  ⟨0x194, 0x20, 3, [0], 0, 0, 0, 0, 0, 0, 0⟩,
  ⟨0x198, 0x20, 3, [0x714770], 0, 0, 0, 0, 0, 0, 0⟩,
  ⟨0x19C, 0x20, 3, [0], 0, 0, 0, 0, 0, 0, 0⟩,
  ⟨0x1E0, 0x4, 1, [0], 0, 0, 0, 0, 0, 0, 0⟩,
  ⟨0x1E4, 0x4, 1, [0], 0, 0, 0, 0, 0, 0, 0⟩,
  ⟨0x1E8, 0x4, 1, [0x3E8C801], 0, 0xFFFFFF01, 0, 0, 0, 0, 0xFFFFFF01⟩,
  ⟨0x1EC, 0x4, 1, [0], 0, 0, 0, 0, 0, 0, 0⟩,
  ⟨0x1F0, 0x4, 1, [0], 0, 0, 0, 0, 0, 0, 0⟩,
  ⟨0x1F4, 0x4, 1, [0], 0, 0, 0, 0, 0, 0, 0⟩,
  ⟨0x200, 0x4, 1, [0], 0, 0, 0, 0, 0, 0, 0⟩,
  ⟨0x204, 0x4, 1, [0], 0, 0, 0, 0, 0, 0, 0⟩,
  ⟨0x208, 0x4, 1, [0], 0, 0, 0, 0, 0, 0, 0⟩]

/-- Registers of ANGLE (R109). -/
def rowsANGLEB : List RegRow := [
  ⟨0x20C, 0x4, 1, [0], 0, 0, 0, 0, 0x1, 0, 0⟩,
  ⟨0x210, 0x4, 1, [0], 0, 0, 0, 0, 0, 0, 0⟩,
  ⟨0x220, 0x4, 1, [0], 0xFFFFFFFF, 0, 0, 0, 0, 0, 0⟩,
  ⟨0x224, 0x4, 1, [0], 0, 0, 0, 0, 0x80000003, 0, 0⟩,
  ⟨0x228, 0x4, 1, [0xFFFFFFFF], 0, 0, 0, 0, 0, 0, 0⟩,
  ⟨0x230, 0x4, 1, [0], 0, 0, 0xFFFFFFFF, 0, 0, 0, 0⟩,
  ⟨0x234, 0x4, 1, [0], 0, 0, 0xFFFFFFFF, 0, 0, 0, 0⟩,
  ⟨0x400, 0x10, 64, [0], 0x1FFFFF, 0, 0, 0, 0, 0, 0⟩,
  ⟨0x404, 0x10, 64, [0], 0xFFFFFFFF, 0, 0, 0, 0, 0, 0⟩,
  ⟨0x408, 0x10, 64, [0], 0xFFFFFFFF, 0, 0, 0, 0, 0, 0⟩,
  ⟨0x40C, 0x10, 64, [0], 0, 0, 0, 0, 0, 0xFFFF03, 0⟩,
  ⟨0x800, 0x4, 64, [0], 0, 0, 0, 0, 0, 0, 0⟩]

/-- All registers of ANGLE. -/
def rowsANGLE : List RegRow := rowsANGLEA ++ rowsANGLEB

/-- Registers of RST (R149). -/
def rowsRST : List RegRow := [
  ⟨0x100, 0x4, 1, [0x1], 0, 0, 0x1F, 0, 0, 0, 0⟩,
  ⟨0x104, 0x4, 1, [0], 0, 0, 0, 0, 0, 0, 0⟩,
  ⟨0x108, 0x4, 1, [0x7080000], 0, 0xFFFF0000, 0, 0x1, 0, 0, 0xFFFF0000⟩,
  ⟨0x10C, 0x4, 1, [0], 0, 0, 0, 0, 0xFFFFFFFF, 0, 0⟩,
  ⟨0x110, 0x4, 1, [0], 0, 0, 0, 0, 0, 0, 0⟩,
  ⟨0x114, 0x4, 1, [0], 0, 0, 0, 0, 0, 0, 0⟩,
  ⟨0x118, 0x4, 1, [0], 0, 0, 0, 0, 0, 0, 0⟩,
  ⟨0x11C, 0x4, 1, [0], 0, 0, 0, 0, 0, 0, 0⟩,
  ⟨0x120, 0x4, 1, [0], 0, 0, 0, 0, 0, 0, 0⟩,
  ⟨0x124, 0x4, 1, [0xA], 0, 0, 0, 0, 0, 0, 0⟩]

/-- Registers of RSTATE (R150). -/
def rowsRSTATE : List RegRow := [
  ⟨0x100, 0x4, 1, [0], 0, 0, 0, 0, 0, 0, 0⟩,
  ⟨0x104, 0x4, 1, [0], 0, 0, 0, 0, 0, 0, 0⟩,
  ⟨0x108, 0x4, 1, [0], 0x2, 0x70, 0, 0x1, 0, 0, 0x70⟩,
  ⟨0x10C, 0x4, 1, [0], 0, 0, 0, 0, 0, 0, 0⟩,
  ⟨0x110, 0x4, 1, [0], 0, 0, 0, 0, 0, 0, 0⟩,
  ⟨0x114, 0x4, 1, [0], 0, 0, 0, 0, 0, 0, 0⟩]

/-- Registers of PMU (R193). -/
def rowsPMU : List RegRow := [
  ⟨0x10, 0x4, 1, [0x1], 0, 0x1, 0, 0, 0, 0, 0x1⟩,
  ⟨0x100, 0x4, 1, [0], 0, 0, 0, 0, 0xFFFFFFFF, 0, 0⟩,
  ⟨0x104, 0x4, 1, [0x10000], 0, 0x7FFFF, 0, 0, 0, 0, 0x7FFFF⟩,
  ⟨0x108, 0x4, 1, [0], 0, 0xFFFFFFFF, 0, 0, 0, 0, 0xFFFFFFFF⟩,
  ⟨0x10C, 0x4, 1, [0], 0, 0x3FFFFFFF, 0, 0, 0, 0, 0x3FFFFFFF⟩,
  ⟨0x110, 0x4, 1, [0x1FFFFFFF], 0, 0xFFFFFFFF, 0, 0, 0, 0, 0xFFFFFFFF⟩,
  ⟨0x114, 0x4, 1, [0], 0, 0, 0, 0, 0, 0, 0⟩,
  ⟨0x118, 0x4, 1, [0x141402], 0, 0xFFFFFFFF, 0, 0, 0, 0, 0xFFFFFFFF⟩,
  ⟨0x11C, 0x4, 1, [0xFFFFFFFF], 0xFFFFFFFF, 0, 0, 0, 0, 0, 0xFFFFFFFF⟩,
  ⟨0x120, 0x4, 16, [0xFFFFFFFF], 0xFFFFFFFF, 0, 0, 0, 0, 0, 0xFFFFFFFF⟩,
  ⟨0x160, 0x4, 27, [0xFFFFFFFF], 0xFFFFFFFF, 0, 0, 0, 0, 0, 0xFFFFFFFF⟩,
  ⟨0x200, 0x4, 27, [0x6], 0, 0, 0, 0, 0, 0, 0⟩,
  ⟨0x280, 0x4, 27, [0x3, 0x3, 0x3, 0x3, 0x3, 0x3, 0x3, 0x3, 0x3, 0x3, 0x3, 0x3, 0x3, 0x3, 0x3, 0x3, 0x2, 0x2, 0x2, 0x2, 0x2, 0x2, 0x2, 0x2, 0x3, 0x1, 0], 0, 0x7, 0, 0, 0, 0, 0x7⟩,
  ⟨0x300, 0x4, 27, [0], 0, 0, 0, 0, 0, 0, 0⟩,
  ⟨0x380, 0x4, 1, [0x1414], 0, 0xFFFF, 0, 0, 0, 0, 0xFFFF⟩,
  ⟨0x384, 0x4, 1, [0x819FFFF], 0, 0xFFFFFFFF, 0, 0, 0, 0, 0xFFFFFFFF⟩,
  ⟨0x388, 0x4, 1, [0], 0, 0, 0, 0, 0, 0, 0⟩]

/-- Registers of THERM (R194). -/
def rowsTHERM : List RegRow := [
  ⟨0x10, 0x4, 1, [0x1], 0, 0x1, 0, 0, 0, 0, 0x1⟩,
  ⟨0x100, 0x4, 24, [0], 0, 0, 0, 0, 0, 0, 0⟩,
  ⟨0x160, 0x4, 1, [0x7B036E], 0, 0xFFFFFF, 0, 0, 0, 0, 0xFFFFFF⟩,
  ⟨0x164, 0x4, 1, [0x785F], 0, 0xFFFF, 0, 0, 0, 0, 0xFFFF⟩,
  ⟨0x168, 0x4, 1, [0x100], 0, 0, 0, 0, 0, 0, 0⟩,
  ⟨0x16C, 0x4, 1, [0], 0, 0, 0, 0, 0, 0, 0⟩,
  ⟨0x170, 0x4, 19, [0x10], 0, 0, 0, 0, 0, 0, 0⟩,
  ⟨0x1C0, 0x4, 1, [0x804], 0, 0x1F1F, 0, 0, 0, 0, 0x1F1F⟩,
  ⟨0x1C4, 0x4, 1, [0], 0, 0, 0, 0, 0, 0, 0⟩,
  ⟨0x1C8, 0x4, 1, [0], 0, 0, 0, 0, 0x1, 0, 0⟩,
  ⟨0x200, 0x4, 1, [0xA02], 0, 0x7FFFF0F, 0, 0, 0, 0, 0x7FFFF0F⟩,
  ⟨0x204, 0x4, 1, [0x500FEC0], 0, 0xFFFFFFFF, 0, 0, 0, 0, 0xFFFFFFFF⟩,
  ⟨0x208, 0x4, 1, [0], 0xFFFF, 0, 0, 0, 0, 0, 0⟩,
  ⟨0x20C, 0x4, 1, [0x5A41], 0, 0xFFFF, 0, 0, 0, 0, 0xFFFF⟩,
  ⟨0x210, 0x4, 4, [0x4028, 0x408046, 0xA0C05F, 0xFFFF6E], 0, 0xFFFFFF, 0, 0, 0, 0, 0xFFFFFF⟩,
  ⟨0x220, 0x4, 1, [0], 0xFFFF01, 0, 0, 0, 0, 0, 0⟩,
  ⟨0x224, 0x4, 1, [0], 0, 0, 0, 0, 0, 0, 0⟩,
  ⟨0x228, 0x4, 1, [0], 0, 0xFFFFFFFF, 0, 0, 0, 0, 0xFFFFFFFF⟩,
  ⟨0x22C, 0x4, 1, [0], 0, 0, 0, 0, 0, 0, 0⟩]

/-- Registers of LEDGER (R195). -/
def rowsLEDGER : List RegRow := [
  ⟨0x10, 0x4, 1, [0x1], 0, 0x1, 0, 0, 0, 0, 0x1⟩,
  ⟨0x14, 0x4, 1, [0], 0, 0, 0, 0, 0, 0, 0⟩,
  ⟨0x100, 0x4, 1, [0x14C08], 0xFFFFFFFF, 0, 0, 0, 0, 0, 0xFFFFFFFF⟩,
  ⟨0x104, 0x4, 1, [0xC350], 0, 0xFFFFFFFF, 0, 0, 0, 0, 0xFFFFFFFF⟩,
  ⟨0x108, 0x4, 1, [0], 0, 0, 0, 0, 0, 0, 0⟩,
  ⟨0x10C, 0x4, 1, [0], 0, 0, 0, 0, 0, 0, 0⟩,
  ⟨0x110, 0x4, 1, [0], 0, 0, 0, 0, 0, 0, 0⟩,
  ⟨0x114, 0x4, 1, [0xC350], 0, 0, 0, 0, 0, 0, 0⟩,
  ⟨0x118, 0x4, 1, [0], 0, 0, 0, 0, 0, 0xFFFFFFFF, 0⟩,
  ⟨0x11C, 0x4, 1, [0], 0, 0, 0, 0, 0, 0xFFFFFFFF, 0⟩,
  ⟨0x140, 0x4, 16, [0], 0x1FF, 0, 0, 0, 0, 0, 0x1FF⟩,
  ⟨0x180, 0x4, 16, [0], 0, 0, 0, 0, 0, 0, 0⟩,
  ⟨0x1C0, 0x4, 16, [0, 0x14, 0x28, 0x50, 0xA0, 0x140, 0x280, 0x500, 0xA00, 0x1400, 0x2800, 0x5000, 0xA000, 0x14000, 0x28000, 0x50000], 0, 0xFFFFFFFF, 0, 0, 0, 0, 0xFFFFFFFF⟩,
  ⟨0x200, 0x4, 16, [0], 0, 0, 0, 0, 0, 0xFFFFFFFF, 0⟩,
  ⟨0x240, 0x4, 16, [0], 0, 0, 0, 0, 0, 0xFFFFFFFF, 0⟩,
  ⟨0x280, 0x4, 16, [0], 0, 0, 0, 0, 0, 0, 0⟩]

/-- Registers of SEC (R233). -/
def rowsSEC : List RegRow := [
  ⟨0x100, 0x4, 1, [Config.lifecycle], 0, 0, 0, 0, 0, 0, 0⟩,
  ⟨0x104, 0x4, 1, [Config.uid % 0x100000000], 0, 0, 0, 0, 0, 0, 0⟩,
  ⟨0x108, 0x4, 1, [Config.uid / 0x100000000], 0, 0, 0, 0, 0, 0, 0⟩,
  ⟨0x110, 0x4, 1, [0x1], 0, 0xFFF, 0, 0, 0, 0, 0⟩,
  ⟨0x114, 0x4, 1, [0xFFE], 0xFFF, 0, 0, 0, 0, 0, 0⟩,
  ⟨0x118, 0x4, 1, [0], 0, 0x3FFFFFFF, 0, 0, 0, 0, 0x3FFFFFFF⟩,
  ⟨0x11C, 0x4, 1, [0], 0, 0x3FFFFFFF, 0, 0, 0, 0, 0x3FFFFFFF⟩,
  ⟨0x120, 0x4, 1, [0], 0, 0x1F, 0, 0, 0, 0, 0x1F⟩,
  ⟨0x128, 0x4, 1, [0], 0, 0xFFFFFFFF, 0, 0, 0, 0, 0xFFFFFFFF⟩,
  ⟨0x12C, 0x4, 1, [0], 0, 0xFFFF, 0, 0, 0, 0, 0xFFFF⟩,
  ⟨0x130, 0x4, 1, [0], 0, 0xFFFFFFFF, 0, 0, 0, 0, 0xFFFFFFFF⟩,
  ⟨0x134, 0x4, 1, [0], 0, 0xFFFF, 0, 0, 0, 0, 0xFFFF⟩,
  ⟨0x140, 0x4, 1, [0], 0, 0xFFFFFFE0, 0, 0, 0, 0, 0⟩,
  ⟨0x144, 0x4, 1, [0], 0, 0xFFFF, 0, 0, 0, 0, 0⟩,
  ⟨0x148, 0x4, 1, [0x10], 0, 0xFFFFFFFF, 0, 0, 0, 0, 0⟩,
  ⟨0x14C, 0x4, 1, [0], 0xFFFFFFFF, 0, 0, 0, 0, 0, 0⟩,
  ⟨0x150, 0x4, 1, [0], 0, 0, 0, 0, 0, 0, 0⟩,
  ⟨0x180, 0x4, 16, [0], 0, 0, 0, 0, 0, 0, 0⟩,
  ⟨0x1C0, 0x4, 1, [0x101], 0, 0, 0, 0, 0, 0, 0⟩,
  ⟨0x1C4, 0x4, 3, [0], 0, 0, 0, 0, 0, 0, 0⟩,
  ⟨0x1D0, 0x4, 1, [0], 0, 0, 0, 0, 0, 0, 0⟩]

/-- Registers of RCHK (R234). -/
def rowsRCHK : List RegRow := [
  ⟨0x10, 0x4, 1, [0x1], 0, 0x1, 0, 0, 0, 0, 0x1⟩,
  ⟨0x100, 0x10, 32, [0], 0, 0xFFFFFFFF, 0, 0, 0, 0, 0xFFFFFFFF⟩,
  ⟨0x104, 0x10, 32, [0xFFFFFFFF, 0, 0, 0, 0, 0, 0, 0, 0, 0, 0, 0, 0, 0, 0, 0, 0, 0, 0, 0, 0, 0, 0, 0, 0, 0, 0, 0, 0, 0, 0, 0], 0, 0xFFFFFFFF, 0, 0, 0, 0, 0xFFFFFFFF⟩,
  ⟨0x108, 0x10, 32, [0xFFFF007D, 0, 0, 0, 0, 0, 0, 0, 0, 0, 0, 0, 0, 0, 0, 0, 0, 0, 0, 0, 0, 0, 0, 0, 0, 0, 0, 0, 0, 0, 0, 0], 0, 0xFFFF00FF, 0, 0, 0, 0, 0xFFFF00FF⟩,
  ⟨0x300, 0x4, 1, [0], 0, 0, 0, 0, 0, 0, 0⟩,
  ⟨0x304, 0x4, 1, [0], 0, 0, 0, 0, 0, 0, 0⟩,
  ⟨0x308, 0x4, 1, [0], 0, 0, 0x80000000, 0, 0, 0, 0⟩,
  ⟨0x30C, 0x4, 1, [0], 0, 0, 0, 0, 0, 0xFFFFFFFF, 0⟩,
  ⟨0x310, 0x4, 1, [0], 0, 0x1, 0, 0, 0, 0, 0x1⟩]

/-- Registers of XMB (R235). -/
def rowsXMB : List RegRow := [
  ⟨0x100, 0x4, 16, [0], 0xFFFFFFFF, 0, 0, 0, 0, 0, 0⟩,
  ⟨0x140, 0x4, 1, [0], 0, 0, 0, 0x1, 0, 0, 0⟩,
  ⟨0x144, 0x4, 1, [0], 0, 0, 0, 0, 0x1, 0, 0⟩,
  ⟨0x148, 0x4, 1, [0], 0, 0, 0, 0, 0, 0, 0⟩,
  ⟨0x180, 0x4, 16, [0], 0xFFFFFFFF, 0, 0, 0, 0, 0, 0⟩,
  ⟨0x1C0, 0x4, 1, [0], 0, 0, 0, 0x1, 0, 0, 0⟩,
  ⟨0x1C4, 0x4, 1, [0], 0, 0, 0, 0, 0x1, 0, 0⟩,
  ⟨0x1C8, 0x4, 1, [0], 0, 0, 0, 0, 0, 0, 0⟩,
  ⟨0x1D0, 0x4, 1, [0], 0, 0x13, 0, 0, 0, 0, 0x13⟩,
  ⟨0x1D4, 0x4, 1, [0], 0, 0, 0, 0, 0, 0, 0⟩,
  ⟨0x1E0, 0x4, 1, [0], 0, 0, 0, 0, 0, 0, 0⟩,
  ⟨0x1E4, 0x4, 1, [0], 0x3, 0, 0, 0, 0, 0, 0⟩,
  ⟨0x1E8, 0x4, 1, [0], 0, 0, 0x3, 0, 0, 0, 0⟩]

/-- Registers of DBG (R236). -/
def rowsDBG : List RegRow := [
  ⟨0x100, 0x4, 1, [0], 0, 0, 0, 0, 0, 0, 0⟩,
  ⟨0x104, 0x4, 1, [0], 0, 0, 0, 0, 0, 0, 0⟩,
  ⟨0x108, 0x4, 1, [0], 0, 0, 0, 0, 0, 0, 0⟩,
  ⟨0x10C, 0x4, 1, [0], 0, 0x1, 0, 0, 0, 0, 0⟩]

/-- Registers of SAFE (R237, R432). -/
def rowsSAFE : List RegRow := [
  ⟨0x100, 0x4, 1, [0], 0x1, 0, 0x300, 0, 0, 0, 0⟩,
  ⟨0x104, 0x4, 1, [0], 0, 0, 0, 0, 0xFFFFFFFF, 0, 0⟩,
  ⟨0x200, 0x4, 1, [0x101052], 0, 0xFFFF7F, 0, 0, 0, 0, 0xFFFF7F⟩,
  ⟨0x204, 0x4, 1, [0x7FFE], 0, 0xFFFFFFFF, 0, 0, 0, 0, 0xFFFFFFFF⟩,
  ⟨0x208, 0x4, 1, [0], 0, 0, 0, 0, 0x8000003F, 0, 0⟩,
  ⟨0x20C, 0x4, 1, [0], 0, 0, 0, 0, 0, 0, 0⟩,
  ⟨0x210, 0x4, 1, [0], 0, 0, 0, 0, 0x8000003F, 0, 0⟩,
  ⟨0x214, 0x4, 1, [0], 0, 0, 0, 0, 0x8000003F, 0, 0⟩,
  ⟨0x218, 0x4, 1, [0], 0, 0, 0xFFFFFFFF, 0, 0, 0, 0⟩,
  ⟨0x21C, 0x4, 1, [0], 0, 0, 0xFFFFFFFF, 0, 0, 0, 0⟩,
  ⟨0x220, 0x4, 1, [0], 0, 0, 0, 0, 0, 0, 0xFFFFFFFF⟩,
  ⟨0x224, 0x4, 1, [0], 0, 0, 0, 0, 0, 0, 0xFFFFFFFF⟩,
  ⟨0x228, 0x4, 1, [0], 0, 0, 0, 0, 0, 0, 0xFFFFFFFF⟩,
  ⟨0x22C, 0x4, 1, [0], 0, 0, 0, 0, 0, 0, 0xFFFFFFFF⟩,
  ⟨0x240, 0x8, 4, [0], 0x8000013F, 0, 0, 0, 0, 0, 0x8000013F⟩,
  ⟨0x244, 0x8, 4, [0], 0xFFFF, 0, 0, 0, 0, 0, 0xFFFF⟩,
  ⟨0x260, 0x4, 1, [0], 0, 0, 0, 0, 0, 0, 0⟩,
  ⟨0x280, 0x4, 1, [0], 0, 0, 0, 0, 0, 0, 0⟩,
  ⟨0x284, 0x4, 1, [0], 0, 0, 0, 0, 0, 0, 0⟩,
  ⟨0x288, 0x4, 1, [0], 0, 0, 0, 0, 0x1, 0, 0⟩,
  ⟨0x28C, 0x4, 1, [0], 0, 0, 0, 0, 0, 0, 0⟩]

/-- Registers of RING (R276). -/
def rowsRING : List RegRow := [
  ⟨0x10, 0x4, 1, [0x100], 0xF07, 0, 0, 0, 0, 0, 0⟩,
  ⟨0x14, 0x4, 1, [0], 0, 0, 0, 0, 0, 0, 0⟩,
  ⟨0x100, 0x4, 1, [0], 0xFFFFFFC0, 0, 0, 0, 0, 0, 0⟩,
  ⟨0x104, 0x4, 1, [0], 0xFFFF, 0, 0, 0, 0, 0, 0⟩,
  ⟨0x108, 0x4, 1, [0x10], 0xFFFFFFFF, 0, 0, 0, 0, 0, 0⟩,
  ⟨0x10C, 0x4, 1, [0], 0xFFFFFFFF, 0, 0, 0, 0, 0, 0⟩,
  ⟨0x110, 0x4, 1, [0], 0, 0, 0, 0, 0, 0, 0⟩,
  ⟨0x120, 0x4, 1, [0], 0xFFFFFFE0, 0, 0, 0, 0, 0, 0⟩,
  ⟨0x124, 0x4, 1, [0], 0xFFFF, 0, 0, 0, 0, 0, 0⟩,
  ⟨0x128, 0x4, 1, [0x10], 0xFFFFFFFF, 0, 0, 0, 0, 0, 0⟩,
  ⟨0x12C, 0x4, 1, [0], 0, 0, 0, 0, 0, 0, 0⟩,
  ⟨0x130, 0x4, 1, [0], 0xFFFFFFFF, 0, 0, 0, 0, 0, 0⟩,
  ⟨0x140, 0x4, 1, [0], 0, 0, 0, 0, 0, 0xFFFFFFFF, 0⟩,
  ⟨0x144, 0x4, 1, [0], 0, 0, 0, 0, 0, 0xFFFFFFFF, 0⟩,
  ⟨0x148, 0x4, 1, [0], 0, 0, 0, 0, 0, 0xFFFFFFFF, 0⟩,
  ⟨0x14C, 0x4, 1, [0], 0, 0, 0, 0, 0, 0xFFFFFFFF, 0⟩,
  ⟨0x150, 0x4, 1, [0], 0, 0, 0, 0, 0, 0xFFFFFFFF, 0⟩,
  ⟨0x154, 0x4, 1, [0], 0, 0, 0, 0, 0, 0xFFFFFFFF, 0⟩,
  ⟨0x160, 0x4, 1, [0], 0, 0, 0, 0, 0x1, 0, 0⟩]

/-- Registers of PART (R277). -/
def rowsPART : List RegRow := [
  ⟨0x10, 0x4, 1, [0], 0x2, 0, 0, 0, 0, 0, 0⟩,
  ⟨0x14, 0x4, 1, [0], 0, 0, 0, 0, 0, 0, 0⟩,
  ⟨0x100, 0x4, 1, [0], 0, 0, 0, 0, 0, 0, 0xFFFFFFFF⟩,
  ⟨0x104, 0x4, 1, [0], 0xFFFF, 0, 0, 0, 0, 0, 0⟩,
  ⟨0x108, 0x4, 1, [0], 0, 0, 0, 0, 0, 0, 0xFFFFFFFF⟩,
  ⟨0x10C, 0x4, 1, [0], 0, 0, 0, 0, 0, 0, 0xFFFFFFFF⟩,
  ⟨0x110, 0x4, 1, [0], 0xFFFFFFFF, 0, 0, 0, 0, 0, 0⟩,
  ⟨0x114, 0x4, 1, [0], 0xFFFFFFFF, 0, 0, 0, 0, 0, 0⟩,
  ⟨0x118, 0x4, 1, [0], 0, 0, 0, 0, 0, 0, 0xFFFFFFFF⟩,
  ⟨0x11C, 0x4, 1, [0], 0x1, 0, 0, 0, 0, 0, 0⟩,
  ⟨0x120, 0x4, 1, [0], 0, 0, 0, 0, 0, 0, 0xFFFFFFFF⟩,
  ⟨0x124, 0x4, 1, [0], 0x1FF, 0, 0, 0, 0, 0, 0⟩,
  ⟨0x128, 0x4, 1, [0], 0, 0, 0, 0, 0, 0, 0xFFFFFFFF⟩,
  ⟨0x12C, 0x4, 1, [0], 0x1FF, 0, 0, 0, 0, 0, 0⟩,
  ⟨0x130, 0x4, 1, [0], 0, 0, 0, 0, 0, 0, 0⟩,
  ⟨0x134, 0x4, 1, [0], 0x1FF, 0, 0, 0, 0, 0, 0⟩,
  ⟨0x140, 0x4, 1, [0], 0, 0, 0, 0, 0x1, 0, 0⟩,
  ⟨0x144, 0x4, 1, [0], 0xFFFF, 0, 0, 0, 0, 0, 0xFFFF⟩,
  ⟨0x148, 0x4, 1, [0], 0, 0, 0x10, 0, 0, 0, 0⟩,
  ⟨0x150, 0x4, 1, [0], 0, 0, 0, 0, 0, 0, 0⟩,
  ⟨0x154, 0x4, 1, [0], 0, 0, 0, 0, 0, 0xFFFFFFFF, 0⟩,
  ⟨0x400, 0x8, 64, [0], 0x83FFFFFF, 0, 0, 0, 0, 0, 0x83FFFFFF⟩,
  ⟨0x404, 0x8, 64, [0], 0xFFFFFFFF, 0, 0, 0, 0, 0, 0xFFFFFFFF⟩]

/-- Registers of GROVE (R305, R334). -/
def rowsGROVE : List RegRow := [
  ⟨0x100, 0x4, 1, [0x5DC000], 0, 0x7FF000, 0, 0, 0, 0, 0x7FF000⟩,
  ⟨0x104, 0x4, 1, [0x224], 0, 0xFFFFFFFF, 0, 0, 0, 0, 0xFFFFFFFF⟩,
  ⟨0x108, 0x4, 1, [0xA], 0, 0x1F, 0, 0, 0, 0, 0x1F⟩,
  ⟨0x10C, 0x4, 1, [0x10], 0, 0xFFFFFFFF, 0, 0, 0, 0, 0xFFFFFFFF⟩,
  ⟨0x110, 0x4, 1, [0], 0, 0, 0, 0, 0, 0, 0⟩,
  ⟨0x200, 0x4, 1, [0], 0x7FFFC0, 0, 0, 0, 0, 0, 0⟩,
  ⟨0x204, 0x4, 1, [0], 0x7FFFC0, 0, 0, 0, 0, 0, 0⟩,
  ⟨0x208, 0x4, 1, [0], 0xFFFFFF, 0, 0, 0, 0, 0, 0⟩,
  ⟨0x20C, 0x4, 1, [0], 0xFFFFFFFF, 0, 0, 0, 0, 0, 0⟩,
  ⟨0x210, 0x4, 1, [0], 0, 0, 0, 0, 0x103, 0, 0⟩,
  ⟨0x214, 0x4, 1, [0], 0, 0, 0, 0, 0, 0, 0⟩,
  ⟨0x220, 0x4, 1, [0], 0, 0, 0, 0, 0xFFFFFFFF, 0, 0⟩,
  ⟨0x224, 0x4, 1, [0], 0, 0, 0, 0, 0, 0, 0⟩,
  ⟨0x230, 0x4, 1, [0], 0, 0, 0, 0, 0, 0xFFFFFFFF, 0⟩,
  ⟨0x234, 0x4, 1, [0], 0, 0, 0, 0, 0, 0xFFFFFFFF, 0⟩,
  ⟨0x238, 0x4, 1, [0], 0, 0, 0x80000000, 0, 0, 0, 0⟩,
  ⟨0x240, 0x4, 1, [0x64], 0xFFFF, 0, 0, 0, 0, 0, 0xFFFF⟩]

/-- Registers of CORE (R306, R431). -/
def rowsCORE : List RegRow := [
  ⟨0x14, 0x4, 1, [0], 0, 0, 0, 0, 0, 0, 0⟩,
  ⟨0x100, 0x4, 1, [0], 0, 0, 0, 0, 0, 0, 0⟩,
  ⟨0x104, 0x4, 1, [0], 0, 0, 0, 0, 0, 0, 0⟩,
  ⟨0x108, 0x4, 1, [0], 0, 0, 0, 0, 0, 0, 0⟩,
  ⟨0x10C, 0x4, 1, [0], 0, 0, 0, 0, 0, 0, 0⟩,
  ⟨0x110, 0x4, 1, [0], 0, 0, 0, 0, 0, 0, 0⟩,
  ⟨0x114, 0x4, 1, [0], 0, 0, 0, 0, 0, 0, 0⟩,
  ⟨0x118, 0x4, 1, [0], 0, 0, 0, 0, 0, 0, 0⟩,
  ⟨0x11C, 0x4, 1, [0], 0, 0, 0, 0, 0, 0, 0⟩,
  ⟨0x120, 0x4, 1, [0], 0, 0, 0, 0, 0, 0, 0⟩,
  ⟨0x124, 0x4, 1, [0], 0, 0, 0, 0, 0, 0xFFFFFFFF, 0⟩,
  ⟨0x180, 0x4, 1, [0], 0, 0, 0, 0, 0, 0, 0⟩,
  ⟨0x184, 0x4, 1, [0], 0, 0, 0, 0, 0, 0, 0⟩,
  ⟨0x188, 0x4, 1, [0], 0, 0, 0, 0, 0, 0, 0⟩,
  ⟨0x18C, 0x4, 1, [0], 0, 0, 0, 0, 0, 0, 0⟩,
  ⟨0x190, 0x4, 1, [0], 0, 0, 0, 0, 0, 0, 0⟩,
  ⟨0x194, 0x4, 1, [0], 0, 0, 0, 0, 0, 0, 0⟩,
  ⟨0x198, 0x4, 1, [0], 0, 0, 0, 0, 0, 0, 0⟩,
  ⟨0x19C, 0x4, 1, [0], 0, 0, 0, 0, 0, 0, 0⟩,
  ⟨0x1A0, 0x4, 1, [0], 0, 0, 0, 0, 0, 0, 0⟩,
  ⟨0x1A4, 0x4, 1, [0], 0, 0, 0, 0, 0, 0, 0⟩,
  ⟨0x1A8, 0x4, 1, [0], 0, 0, 0, 0, 0, 0, 0⟩]

/-- Registers of TICKET (R335). -/
def rowsTICKET : List RegRow := [
  ⟨0x10, 0x4, 1, [0x1], 0x1, 0, 0, 0, 0, 0, 0x1⟩,
  ⟨0x14, 0x4, 1, [0], 0, 0, 0, 0, 0, 0, 0⟩,
  ⟨0x100, 0x4, 1, [0x3E8], 0xFFFF, 0, 0, 0, 0, 0, 0xFFFF⟩,
  ⟨0x104, 0x4, 1, [0], 0, 0, 0, 0xFFFF, 0, 0, 0⟩,
  ⟨0x108, 0x4, 1, [0], 0, 0, 0, 0, 0, 0, 0⟩,
  ⟨0x10C, 0x4, 1, [0], 0, 0, 0xFFFF, 0, 0, 0, 0⟩,
  ⟨0x110, 0x4, 1, [0], 0, 0, 0, 0, 0, 0xFFFFFFFF, 0⟩,
  ⟨0x114, 0x4, 1, [0], 0, 0, 0, 0, 0, 0xFFFFFFFF, 0⟩,
  ⟨0x118, 0x4, 1, [0], 0, 0, 0, 0, 0, 0xFFFFFFFF, 0⟩,
  ⟨0x11C, 0x4, 1, [0], 0, 0, 0, 0, 0, 0xFFFFFFFF, 0⟩,
  ⟨0x120, 0x4, 1, [0], 0, 0, 0, 0, 0, 0xFFFFFFFF, 0⟩,
  ⟨0x124, 0x4, 1, [0], 0, 0, 0x80000000, 0, 0, 0, 0⟩,
  ⟨0x128, 0x4, 1, [0], 0, 0, 0, 0, 0, 0, 0⟩,
  ⟨0x180, 0x8, 16, [0], 0x7FFFC0, 0, 0, 0, 0, 0, 0x7FFFC0⟩,
  ⟨0x184, 0x8, 16, [0], 0x7FF3, 0, 0, 0, 0, 0, 0x7FF3⟩,
  ⟨0x200, 0x4, 16, [0], 0, 0, 0, 0, 0, 0, 0⟩]

/-- Registers of MESH (R359). -/
def rowsMESH : List RegRow := [
  ⟨0x10, 0x4, 1, [0x1], 0x1, 0, 0, 0, 0, 0, 0⟩,
  ⟨0x14, 0x4, 1, [0], 0, 0, 0, 0, 0, 0, 0⟩,
  ⟨0x100, 0x4, 1, [0x408C], 0, 0xFFFF, 0, 0, 0, 0, 0xFFFF⟩,
  ⟨0x104, 0x4, 1, [0x64], 0, 0xFFFF, 0, 0, 0, 0, 0xFFFF⟩,
  ⟨0x110, 0x4, 5, [0], 0, 0, 0, 0, 0, 0, 0⟩,
  ⟨0x130, 0x4, 5, [0], 0, 0, 0, 0, 0, 0, 0⟩,
  ⟨0x150, 0x4, 4, [0], 0, 0, 0, 0, 0, 0, 0⟩,
  ⟨0x160, 0x4, 1, [0], 0, 0, 0, 0, 0, 0xFFFFFFFF, 0⟩,
  ⟨0x164, 0x4, 1, [0], 0, 0, 0, 0, 0, 0xFFFFFFFF, 0⟩,
  ⟨0x168, 0x4, 1, [0], 0, 0, 0x80000000, 0, 0, 0, 0⟩,
  ⟨0x16C, 0x4, 1, [0], 0, 0, 0, 0, 0, 0xFFFFFFFF, 0⟩]

/-- Registers of FERRY (R360). -/
def rowsFERRY : List RegRow := [
  ⟨0x10, 0x4, 1, [0], 0x1, 0, 0, 0, 0, 0, 0⟩,
  ⟨0x14, 0x4, 1, [0], 0, 0, 0, 0, 0, 0, 0⟩,
  ⟨0x100, 0x4, 1, [0], 0xFFFFFFC0, 0, 0, 0, 0, 0, 0⟩,
  ⟨0x104, 0x4, 1, [0], 0xFFFF, 0, 0, 0, 0, 0, 0⟩,
  ⟨0x108, 0x4, 1, [0], 0xFFFFFFC0, 0, 0, 0, 0, 0, 0⟩,
  ⟨0x10C, 0x4, 1, [0], 0xFFFF, 0, 0, 0, 0, 0, 0⟩,
  ⟨0x110, 0x4, 1, [0], 0x1FFFFFF, 0, 0, 0, 0, 0, 0⟩,
  ⟨0x114, 0x4, 1, [0], 0, 0, 0, 0, 0x3F1F, 0, 0⟩,
  ⟨0x118, 0x4, 1, [0], 0, 0, 0, 0, 0, 0, 0⟩,
  ⟨0x11C, 0x4, 1, [0], 0, 0, 0, 0, 0, 0, 0⟩,
  ⟨0x120, 0x4, 1, [0], 0, 0, 0, 0, 0, 0, 0⟩,
  ⟨0x124, 0x4, 1, [0], 0, 0, 0, 0, 0, 0, 0⟩,
  ⟨0x128, 0x4, 1, [0], 0, 0, 0, 0, 0, 0xFFFFFFFF, 0⟩]

/-- Registers of DISP (R387). -/
def rowsDISP : List RegRow := [
  ⟨0x10, 0x4, 1, [0x1], 0, 0x1, 0, 0, 0, 0, 0x1⟩,
  ⟨0x14, 0x4, 1, [0], 0, 0, 0, 0, 0, 0, 0⟩,
  ⟨0x100, 0x4, 16, [0], 0xFFFF00F1, 0, 0, 0, 0, 0, 0xFFFF00F1⟩,
  ⟨0x140, 0x4, 4, [0xA, 0x64, 0x3E8, 0], 0, 0xFFFF, 0, 0, 0, 0, 0xFFFF⟩,
  ⟨0x150, 0x4, 1, [0], 0, 0, 0, 0, 0x8FFF003F, 0, 0⟩,
  ⟨0x154, 0x4, 1, [0], 0, 0, 0, 0, 0, 0, 0⟩,
  ⟨0x160, 0x4, 1, [0], 0, 0, 0, 0, 0, 0xFFFFFFFF, 0⟩,
  ⟨0x164, 0x4, 1, [0], 0, 0, 0, 0, 0, 0xFFFFFFFF, 0⟩,
  ⟨0x168, 0x4, 1, [0], 0, 0, 0, 0, 0, 0xFFFFFFFF, 0⟩,
  ⟨0x180, 0x4, 16, [0], 0, 0, 0, 0, 0, 0, 0⟩,
  ⟨0x1C0, 0x4, 16, [0], 0, 0, 0, 0, 0, 0xFFFFFFFF, 0⟩,
  ⟨0x200, 0x4, 16, [0], 0, 0, 0, 0, 0, 0xFFFFFFFF, 0⟩,
  ⟨0x240, 0x4, 16, [0], 0, 0, 0, 0, 0, 0xFFFFFFFF, 0⟩,
  ⟨0x280, 0x4, 1, [0], 0, 0, 0, 0, 0x10FFF, 0, 0⟩,
  ⟨0x284, 0x4, 1, [0], 0, 0, 0, 0, 0, 0, 0⟩,
  ⟨0x288, 0x4, 1, [0], 0, 0, 0, 0, 0, 0, 0⟩,
  ⟨0x28C, 0x4, 1, [0], 0, 0, 0, 0, 0, 0, 0⟩,
  ⟨0x290, 0x4, 1, [0], 0, 0, 0, 0, 0, 0, 0⟩]

/-- Registers of DMC (R460). -/
def rowsDMCA : List RegRow := [
  ⟨0x10, 0x4, 1, [0x3F], 0, 0x3F, 0, 0, 0, 0, 0x3F⟩,
  ⟨0x14, 0x4, 1, [0], 0, 0, 0, 0, 0, 0, 0⟩,
  ⟨0x100, 0x4, 1, [0x1F5], 0, 0x1F7, 0, 0, 0, 0, 0x1F7⟩,
  ⟨0x104, 0x4, 1, [0], 0, 0, 0, 0, 0, 0, 0⟩,
  ⟨0x108, 0x4, 1, [0], 0, 0, 0, 0, 0, 0, 0⟩,
  ⟨0x10C, 0x4, 1, [0], 0, 0, 0, 0, 0, 0, 0⟩,
  ⟨0x110, 0x4, 1, [0x6], 0, 0xFF, 0, 0, 0, 0, 0xFF⟩,
  ⟨0x114, 0x4, 1, [0x64], 0, 0xFFFF, 0, 0, 0, 0, 0xFFFF⟩,
  ⟨0x118, 0x4, 1, [0x10148C], 0, 0xFFFFFF, 0, 0, 0, 0, 0xFFFFFF⟩,
  ⟨0x120, 0x8, 8, [0], 0, 0xFFFFFFFF, 0, 0, 0, 0, 0xFFFFFFFF⟩,
  ⟨0x124, 0x8, 8, [0], 0, 0x80000003, 0, 0, 0, 0, 0x80000003⟩,
  ⟨0x160, 0x4, 1, [0x100C8], 0, 0xFFFFF, 0, 0, 0, 0, 0xFFFFF⟩,
  ⟨0x164, 0x4, 1, [0], 0, 0, 0, 0, 0, 0, 0⟩,
  ⟨0x168, 0x4, 1, [0xF00], 0, 0, 0, 0, 0, 0, 0⟩,
  ⟨0x16C, 0x4, 1, [0], 0, 0, 0, 0, 0, 0, 0⟩,
  ⟨0x170, 0x4, 1, [0], 0, 0, 0, 0, 0, 0, 0⟩,
  ⟨0x174, 0x4, 1, [0], 0, 0, 0, 0, 0, 0, 0⟩,
  ⟨0x178, 0x4, 1, [0], 0, 0, 0, 0, 0, 0, 0⟩,
  ⟨0x180, 0x4, 1, [0], 0, 0, 0, 0, 0, 0xFFFFFFFF, 0⟩,
  ⟨0x184, 0x4, 1, [0], 0, 0, 0, 0, 0, 0xFFFFFFFF, 0⟩,
  ⟨0x188, 0x4, 1, [0], 0, 0, 0, 0, 0, 0, 0⟩,
  ⟨0x18C, 0x4, 1, [0], 0, 0, 0x80000000, 0, 0, 0, 0⟩,
  ⟨0x190, 0x4, 1, [0], 0, 0, 0, 0, 0, 0xFFFFFFFF, 0⟩,
  ⟨0x194, 0x4, 1, [0x1801], 0, 0xFF01, 0, 0, 0, 0, 0xFF01⟩,
  ⟨0x198, 0x4, 1, [0], 0, 0, 0, 0, 0, 0, 0⟩,
  ⟨0x1A0, 0x4, 1, [0], 0, 0, 0, 0, 0, 0, 0⟩,
  ⟨0x1A4, 0x4, 1, [0], 0, 0, 0, 0, 0, 0, 0⟩,
  ⟨0x1A8, 0x4, 1, [0], 0, 0, 0, 0, 0, 0, 0⟩,
  ⟨0x1AC, 0x4, 1, [0], 0, 0, 0, 0, 0, 0, 0⟩,
  ⟨0x3F0, 0x4, 1, [0], 0, 0x87FFFFFF, 0, 0, 0, 0, 0x87FFFFFF⟩]

/-- Registers of DMC (R460). -/
def rowsDMCB : List RegRow := [
  ⟨0x400, 0x4, 64, [0], 0, 0xFFFFFFFF, 0, 0, 0, 0, 0xFFFFFFFF⟩]

/-- All registers of DMC. -/
def rowsDMC : List RegRow := rowsDMCA ++ rowsDMCB

/-- Registers of FDIG (R489). -/
def rowsFDIG : List RegRow := [
  ⟨0x10, 0x4, 1, [0x5], 0x17, 0, 0, 0, 0, 0, 0x17⟩,
  ⟨0x14, 0x4, 1, [0], 0, 0, 0, 0, 0, 0, 0⟩,
  ⟨0x100, 0x4, 1, [0x200], 0x733F, 0, 0, 0, 0, 0, 0x733F⟩,
  ⟨0x104, 0x4, 1, [0], 0xFFFF, 0, 0, 0, 0, 0, 0xFFFF⟩,
  ⟨0x108, 0x4, 1, [0x64], 0xFFFF, 0, 0, 0, 0, 0, 0xFFFF⟩,
  ⟨0x10C, 0x4, 1, [0x10000], 0, 0, 0, 0, 0, 0, 0⟩,
  ⟨0x110, 0x4, 1, [0], 0, 0, 0, 0, 0, 0, 0⟩,
  ⟨0x114, 0x4, 1, [0], 0, 0, 0, 0, 0, 0, 0⟩,
  ⟨0x118, 0x4, 1, [0], 0, 0, 0, 0, 0, 0xFFFFFFFF, 0⟩,
  ⟨0x11C, 0x4, 1, [0], 0, 0, 0, 0, 0, 0xFFFFFFFF, 0⟩,
  ⟨0x120, 0x4, 1, [0], 0, 0, 0, 0, 0, 0, 0⟩]

/-- Registers of SENSE (R490). -/
def rowsSENSE : List RegRow := [
  ⟨0x10, 0x4, 1, [0x1], 0x33, 0, 0, 0, 0, 0, 0x33⟩,
  ⟨0x14, 0x4, 1, [0], 0, 0, 0, 0, 0, 0, 0⟩,
  ⟨0x100, 0x4, 1, [0x362C5140], 0xFFFFFFFF, 0, 0, 0, 0, 0, 0xFFFFFFFF⟩,
  ⟨0x104, 0x4, 1, [0xC7], 0xFFFFFFFF, 0, 0, 0, 0, 0, 0xFFFFFFFF⟩,
  ⟨0x108, 0x4, 1, [0xA], 0x1F, 0, 0, 0, 0, 0, 0x1F⟩,
  ⟨0x10C, 0x4, 1, [0], 0, 0, 0, 0, 0x1, 0, 0⟩,
  ⟨0x110, 0x4, 1, [0], 0xFFFFFF, 0, 0, 0, 0, 0, 0xFFFFFF⟩,
  ⟨0x120, 0x4, 12, [0], 0, 0, 0, 0, 0, 0, 0⟩,
  ⟨0x160, 0x4, 1, [0], 0, 0, 0, 0, 0x8000000F, 0, 0⟩,
  ⟨0x164, 0x4, 1, [0], 0, 0, 0x80000000, 0, 0, 0, 0⟩,
  ⟨0x168, 0x4, 1, [0], 0, 0, 0, 0, 0, 0xFFFFFFFF, 0⟩,
  ⟨0x16C, 0x4, 1, [0], 0, 0, 0, 0, 0, 0xFFFFFFFF, 0⟩,
  ⟨0x170, 0x4, 1, [0], 0, 0, 0, 0, 0, 0, 0⟩]

/-- Registers of SENSE4 (R491). -/
def rowsSENSE4 : List RegRow := [
  ⟨0x10, 0x4, 1, [0x1], 0x1, 0, 0, 0, 0, 0, 0x1⟩,
  ⟨0x14, 0x4, 1, [0x4], 0, 0, 0, 0, 0, 0, 0⟩,
  ⟨0x100, 0x4, 1, [0x32], 0xFFFF, 0, 0, 0, 0, 0, 0xFFFF⟩,
  ⟨0x104, 0x4, 1, [0x20], 0xFF, 0, 0, 0, 0, 0, 0xFF⟩,
  ⟨0x108, 0x4, 1, [0x100], 0, 0, 0, 0, 0, 0, 0⟩,
  ⟨0x10C, 0x4, 1, [0], 0, 0, 0, 0, 0, 0, 0⟩,
  ⟨0x110, 0x4, 1, [0], 0, 0, 0, 0, 0, 0xFFFFFFFF, 0⟩,
  ⟨0x160, 0x4, 1, [0], 0, 0, 0, 0, 0x8000003F, 0, 0⟩,
  ⟨0x164, 0x4, 1, [0], 0, 0, 0x80000000, 0, 0, 0, 0⟩,
  ⟨0x168, 0x4, 1, [0], 0, 0, 0, 0, 0, 0xFFFFFFFF, 0⟩]

/-- Registers of TRIG (R517). -/
def rowsTRIG : List RegRow := [
  ⟨0x10, 0x4, 1, [0], 0x3FFF, 0, 0, 0, 0, 0, 0x3FFF⟩,
  ⟨0x14, 0x4, 1, [0], 0, 0, 0, 0, 0, 0, 0⟩,
  ⟨0x100, 0x4, 1, [0], 0xFFFF, 0, 0, 0, 0, 0, 0xFFFF⟩,
  ⟨0x104, 0x4, 1, [0], 0xFFFF, 0, 0, 0, 0, 0, 0xFFFF⟩,
  ⟨0x108, 0x4, 1, [0x4], 0xFF, 0, 0, 0, 0, 0, 0xFF⟩,
  ⟨0x10C, 0x4, 1, [0x1], 0xFFFFFFFF, 0, 0, 0, 0, 0, 0xFFFFFFFF⟩,
  ⟨0x110, 0x4, 1, [0xFFFFFFFF], 0xFFFFFFFF, 0, 0, 0, 0, 0, 0xFFFFFFFF⟩,
  ⟨0x114, 0x4, 1, [0xAA], 0xFF, 0, 0, 0, 0, 0, 0xFF⟩,
  ⟨0x118, 0x4, 1, [0], 0xBF07, 0, 0, 0, 0, 0, 0xBF07⟩,
  ⟨0x11C, 0x4, 1, [0], 0x13F, 0, 0, 0, 0, 0, 0x13F⟩,
  ⟨0x120, 0x4, 1, [0], 0xFFFFFFFF, 0, 0, 0, 0, 0, 0xFFFFFFFF⟩,
  ⟨0x124, 0x4, 1, [0], 0x3, 0, 0, 0, 0, 0, 0x3⟩,
  ⟨0x128, 0x4, 1, [0x1], 0xFFFF, 0, 0, 0, 0, 0, 0xFFFF⟩,
  ⟨0x12C, 0x4, 1, [0x400000], 0xFFFFFFFF, 0, 0, 0, 0, 0, 0xFFFFFFFF⟩,
  ⟨0x130, 0x4, 1, [0x3E8], 0xFFFFFF, 0, 0, 0, 0, 0, 0xFFFFFF⟩,
  ⟨0x140, 0x4, 1, [0], 0, 0, 0, 0, 0x1, 0, 0⟩,
  ⟨0x150, 0x4, 1, [0], 0, 0, 0, 0, 0, 0, 0⟩,
  ⟨0x154, 0x4, 1, [0], 0, 0, 0, 0, 0, 0, 0⟩,
  ⟨0x158, 0x4, 1, [0], 0, 0, 0, 0, 0, 0, 0⟩,
  ⟨0x15C, 0x4, 1, [0], 0, 0, 0, 0, 0, 0, 0⟩,
  ⟨0x160, 0x4, 1, [0], 0, 0, 0, 0, 0, 0, 0⟩,
  ⟨0x164, 0x4, 1, [0], 0, 0, 0, 0, 0, 0xFFFFFFFF, 0⟩,
  ⟨0x168, 0x4, 1, [0], 0, 0, 0, 0, 0, 0xFFFFFFFF, 0⟩,
  ⟨0x16C, 0x4, 1, [0], 0, 0, 0, 0, 0, 0xFFFFFFFF, 0⟩,
  ⟨0x170, 0x4, 1, [0], 0, 0, 0, 0, 0, 0xFFFFFFFF, 0⟩,
  ⟨0x174, 0x4, 1, [0], 0, 0, 0, 0, 0, 0xFFFFFFFF, 0⟩]

/-- Registers of BERTH (R518). -/
def rowsBERTH : List RegRow := [
  ⟨0x10, 0x4, 1, [0x1], 0x1, 0, 0, 0, 0, 0, 0x1⟩,
  ⟨0x14, 0x4, 1, [0], 0, 0, 0, 0, 0, 0, 0⟩,
  ⟨0x100, 0x80, 2, [0], 0x1FFFFC0, 0, 0, 0, 0, 0, 0x1FFFFC0⟩,
  ⟨0x104, 0x80, 2, [0], 0x1FFFFC0, 0, 0, 0, 0, 0, 0x1FFFFC0⟩,
  ⟨0x108, 0x80, 2, [0x1], 0x1FFFF, 0, 0, 0, 0, 0, 0x1FFFF⟩,
  ⟨0x10C, 0x80, 2, [0x400], 0x1FFFFFF, 0, 0, 0, 0, 0, 0x1FFFFFF⟩,
  ⟨0x110, 0x80, 2, [0x100], 0x1FFFFFF, 0, 0, 0, 0, 0, 0x1FFFFFF⟩,
  ⟨0x114, 0x80, 2, [0x10000], 0xFFFF1F33, 0, 0, 0, 0, 0, 0xFFFF1F33⟩,
  ⟨0x118, 0x80, 2, [0], 0x313, 0, 0, 0, 0, 0, 0x313⟩,
  ⟨0x11C, 0x80, 2, [0], 0, 0, 0, 0, 0x3, 0, 0⟩,
  ⟨0x120, 0x80, 2, [0], 0, 0, 0, 0, 0, 0, 0⟩,
  ⟨0x124, 0x80, 2, [0], 0, 0, 0, 0, 0, 0, 0⟩,
  ⟨0x128, 0x80, 2, [0], 0xFFFF, 0, 0, 0, 0, 0, 0⟩,
  ⟨0x12C, 0x80, 2, [0], 0, 0, 0, 0, 0, 0, 0⟩,
  ⟨0x130, 0x80, 2, [0], 0xFFFFFFC0, 0, 0, 0, 0, 0, 0xFFFFFFC0⟩,
  ⟨0x134, 0x80, 2, [0], 0xFFFF, 0, 0, 0, 0, 0, 0xFFFF⟩,
  ⟨0x138, 0x80, 2, [0], 0xFFFFFF, 0, 0, 0, 0, 0, 0xFFFFFF⟩,
  ⟨0x13C, 0x80, 2, [0], 0, 0, 0, 0, 0, 0, 0⟩,
  ⟨0x140, 0x80, 2, [0], 0xFFFFFFFF, 0, 0, 0, 0, 0, 0⟩,
  ⟨0x200, 0x4, 1, [0], 0, 0, 0, 0, 0, 0xFFFFFFFF, 0⟩,
  ⟨0x204, 0x4, 1, [0], 0, 0, 0, 0, 0, 0xFFFFFFFF, 0⟩]

/-- Registers of WSEQ (R544). -/
def rowsWSEQA : List RegRow := [
  ⟨0x10, 0x4, 1, [0x1], 0x1, 0, 0, 0, 0, 0, 0x1⟩,
  ⟨0x14, 0x4, 1, [0], 0, 0, 0, 0, 0, 0, 0⟩,
  ⟨0x100, 0x4, 1, [0], 0x8007FFFC, 0, 0, 0, 0, 0, 0⟩,
  ⟨0x104, 0x4, 1, [0], 0xFFFFFFFF, 0, 0, 0, 0, 0, 0⟩,
  ⟨0x108, 0x4, 1, [0], 0x81FF03FF, 0, 0, 0, 0, 0, 0⟩,
  ⟨0x10C, 0x4, 1, [0xA0064], 0, 0xFFFFFFFF, 0, 0, 0, 0, 0xFFFFFFFF⟩,
  ⟨0x110, 0x4, 1, [0], 0xFFFFFFFC, 0, 0, 0, 0, 0, 0⟩,
  ⟨0x114, 0x4, 1, [0], 0xFFFF, 0, 0, 0, 0, 0, 0⟩,
  ⟨0x118, 0x4, 1, [0], 0x8007FFFC, 0, 0, 0, 0, 0, 0⟩,
  ⟨0x11C, 0x4, 1, [0], 0xFFFFF, 0, 0, 0, 0, 0, 0⟩,
  ⟨0x120, 0x4, 1, [0], 0, 0, 0, 0, 0x1, 0, 0⟩,
  ⟨0x124, 0x4, 1, [0], 0, 0, 0, 0, 0, 0, 0⟩,
  ⟨0x128, 0x4, 1, [0], 0, 0, 0, 0, 0, 0xFFFFFFFF, 0⟩,
  ⟨0x12C, 0x4, 1, [0], 0, 0, 0, 0, 0, 0xFFFFFFFF, 0⟩,
  ⟨0x130, 0x4, 1, [0], 0, 0, 0, 0, 0xFFFF, 0, 0⟩,
  ⟨0x134, 0x4, 1, [0], 0, 0, 0, 0, 0, 0xFFFFFFFF, 0⟩,
  ⟨0x140, 0x4, 16, [0], 0xF3, 0, 0, 0, 0, 0, 0xF3⟩,
  ⟨0x200, 0x8, 16, [0x44], 0xFFFF077F, 0, 0, 0, 0, 0, 0xFFFF077F⟩,
  ⟨0x204, 0x8, 16, [0], 0, 0, 0, 0, 0, 0, 0⟩,
  ⟨0x280, 0x4, 16, [0x80008000], 0xFFFFFFFF, 0, 0, 0, 0, 0, 0xFFFFFFFF⟩,
  ⟨0x300, 0x20, 4, [0], 0x1, 0, 0, 0, 0, 0, 0⟩,
  ⟨0x304, 0x20, 4, [0], 0x3FFF, 0, 0, 0, 0, 0, 0⟩,
  ⟨0x308, 0x20, 4, [0], 0xFFFF, 0, 0, 0, 0, 0, 0⟩,
  ⟨0x30C, 0x20, 4, [0], 0, 0, 0, 0, 0, 0, 0⟩,
  ⟨0x310, 0x20, 4, [0], 0, 0, 0, 0, 0, 0xFFFFFFFF, 0⟩,
  ⟨0x380, 0x20, 2, [0x8008000], 0xFFFFFFFF, 0, 0, 0, 0, 0, 0xFFFFFFFF⟩,
  ⟨0x384, 0x20, 2, [0], 0, 0, 0, 0, 0x83FFFFFF, 0, 0⟩,
  ⟨0x388, 0x20, 2, [0], 0xFFFF, 0, 0, 0, 0, 0, 0⟩,
  ⟨0x38C, 0x20, 2, [0], 0, 0, 0, 0, 0x1, 0, 0⟩,
  ⟨0x390, 0x20, 2, [0], 0, 0, 0, 0, 0, 0, 0⟩]

/-- Registers of WSEQ (R544). -/
def rowsWSEQB : List RegRow := [
  ⟨0x400, 0x20, 4, [0x10], 0xFFFF01F7, 0, 0, 0, 0, 0, 0⟩,
  ⟨0x404, 0x20, 4, [0], 0xFFFFFF00, 0, 0, 0, 0, 0, 0⟩,
  ⟨0x408, 0x20, 4, [0], 0xFFFF, 0, 0, 0, 0, 0, 0⟩,
  ⟨0x40C, 0x20, 4, [0x1000], 0xFFFFFFFF, 0, 0, 0, 0, 0, 0⟩,
  ⟨0x410, 0x20, 4, [0], 0xFFFFFFFF, 0, 0, 0, 0, 0, 0⟩,
  ⟨0x414, 0x20, 4, [0], 0, 0, 0, 0, 0, 0, 0⟩,
  ⟨0x418, 0x20, 4, [0x401388], 0xFFFFFF, 0, 0, 0, 0, 0, 0⟩,
  ⟨0x41C, 0x20, 4, [0], 0, 0, 0x1, 0, 0, 0, 0⟩,
  ⟨0x500, 0x4, 8, [0x4000], 0xFFFF, 0, 0, 0, 0, 0, 0xFFFF⟩,
  ⟨0x800, 0x4, 256, [0x2000], 0xFFFFFFFF, 0, 0, 0, 0, 0, 0xFFFFFFFF⟩]

/-- All registers of WSEQ. -/
def rowsWSEQ : List RegRow := rowsWSEQA ++ rowsWSEQB

/-- Registers of PROT (R561). -/
def rowsPROT : List RegRow := [
  ⟨0x10, 0x4, 1, [0x3], 0, 0x3, 0, 0, 0, 0, 0x3⟩,
  ⟨0x14, 0x4, 1, [0xFFFF], 0, 0, 0, 0, 0, 0, 0⟩,
  ⟨0x100, 0x4, 1, [0x3140064], 0, 0xFFFFFFF, 0, 0, 0, 0, 0xFFFFFFF⟩,
  ⟨0x104, 0x4, 1, [0x3E8], 0, 0xFFFF, 0, 0, 0, 0, 0xFFFF⟩,
  ⟨0x108, 0x4, 1, [0xA], 0, 0xFF, 0, 0, 0, 0, 0xFF⟩,
  ⟨0x110, 0x4, 1, [0], 0, 0, 0, 0, 0xFFFF, 0, 0⟩,
  ⟨0x114, 0x4, 1, [0], 0xFFFF, 0, 0, 0, 0, 0, 0⟩,
  ⟨0x130, 0x4, 1, [0], 0, 0, 0, 0, 0, 0, 0⟩,
  ⟨0x134, 0x4, 1, [0], 0, 0, 0, 0, 0, 0xFFFFFFFF, 0⟩,
  ⟨0x200, 0x8, 16, [Config.thresholds], 0, 0x3FFF3FFF, 0, 0, 0, 0, 0x3FFF3FFF⟩,
  ⟨0x204, 0x8, 16, [0], 0, 0x1F, 0, 0, 0, 0, 0x1F⟩,
  ⟨0x280, 0x4, 16, [0x1000], 0, 0, 0, 0, 0, 0, 0x4⟩,
  ⟨0x300, 0x4, 1, [0], 0, 0, 0, 0, 0, 0, 0⟩,
  ⟨0x304, 0x4, 1, [0], 0, 0, 0, 0, 0, 0, 0⟩,
  ⟨0x308, 0x4, 1, [0], 0, 0, 0, 0, 0x1, 0, 0⟩,
  ⟨0x30C, 0x4, 1, [0], 0, 0, 0, 0, 0, 0, 0⟩]

/-- Registers of ALE (R335, R583). -/
def rowsALEA : List RegRow := [
  ⟨0x10, 0x4, 1, [0x100], 0x131, 0, 0, 0, 0, 0, 0x130⟩,
  ⟨0x14, 0x4, 1, [0], 0, 0, 0, 0, 0, 0, 0⟩,
  ⟨0x100, 0x4, 1, [0xA01], 0, 0xFFFF, 0, 0, 0, 0, 0xFFFF⟩,
  ⟨0x104, 0x4, 1, [0], 0, 0, 0, 0, 0, 0, 0⟩,
  ⟨0x108, 0x4, 1, [0], 0, 0, 0, 0, 0x1, 0, 0⟩,
  ⟨0x10C, 0x4, 1, [0], 0, 0, 0, 0, 0, 0xFFFFFFFF, 0⟩,
  ⟨0x110, 0x4, 1, [0], 0, 0, 0, 0, 0, 0xFFFFFFFF, 0⟩,
  ⟨0x114, 0x4, 1, [0], 0, 0, 0, 0, 0, 0xFFFFFFFF, 0⟩,
  ⟨0x118, 0x4, 1, [0], 0, 0, 0, 0, 0, 0xFFFFFFFF, 0⟩,
  ⟨0x120, 0x4, 1, [0], 0x3FFC0, 0, 0, 0, 0, 0, 0⟩,
  ⟨0x124, 0x4, 1, [0], 0xFFFFFFC0, 0, 0, 0, 0, 0, 0⟩,
  ⟨0x128, 0x4, 1, [0], 0xFFFF, 0, 0, 0, 0, 0, 0⟩,
  ⟨0x12C, 0x4, 1, [0], 0x1FFFF, 0, 0, 0, 0, 0, 0⟩,
  ⟨0x130, 0x4, 1, [0], 0, 0, 0, 0, 0x3F17, 0, 0⟩,
  ⟨0x134, 0x4, 1, [0], 0, 0, 0, 0, 0, 0, 0⟩,
  ⟨0x138, 0x4, 1, [0x7D0], 0xFFFF, 0, 0, 0, 0, 0, 0xFFFF⟩,
  ⟨0x13C, 0x4, 1, [0], 0, 0, 0, 0, 0, 0xFFFFFFFF, 0⟩,
  ⟨0x140, 0x4, 1, [0x1], 0, 0x1, 0, 0x2, 0, 0, 0x1⟩,
  ⟨0x144, 0x4, 1, [0], 0, 0, 0, 0, 0, 0, 0⟩,
  ⟨0x148, 0x4, 1, [0], 0, 0, 0, 0, 0, 0, 0⟩,
  ⟨0x14C, 0x4, 1, [0], 0, 0, 0, 0, 0, 0, 0⟩,
  ⟨0x150, 0x4, 1, [0], 0, 0, 0, 0, 0, 0xFFFFFFFF, 0⟩,
  ⟨0x200, 0x4, 1, [0x3E8], 0xFFFF, 0, 0, 0, 0, 0, 0xFFFF⟩,
  ⟨0x204, 0x4, 1, [0], 0, 0, 0, 0xFFFF, 0, 0, 0⟩,
  ⟨0x208, 0x4, 1, [0], 0, 0, 0, 0, 0, 0, 0⟩,
  ⟨0x20C, 0x4, 1, [0], 0, 0, 0xFFFF, 0, 0, 0, 0⟩,
  ⟨0x210, 0x4, 1, [0], 0, 0, 0, 0, 0, 0xFFFFFFFF, 0⟩,
  ⟨0x214, 0x4, 1, [0], 0, 0, 0, 0, 0, 0xFFFFFFFF, 0⟩,
  ⟨0x218, 0x4, 1, [0], 0, 0, 0, 0, 0, 0xFFFFFFFF, 0⟩,
  ⟨0x21C, 0x4, 1, [0], 0, 0, 0, 0, 0, 0xFFFFFFFF, 0⟩]

/-- Registers of ALE (R335, R583). -/
def rowsALEB : List RegRow := [
  ⟨0x220, 0x4, 1, [0], 0, 0, 0, 0, 0, 0xFFFFFFFF, 0⟩,
  ⟨0x224, 0x4, 1, [0], 0, 0, 0x80000000, 0, 0, 0, 0⟩,
  ⟨0x228, 0x4, 1, [0], 0, 0, 0, 0, 0, 0, 0⟩,
  ⟨0x280, 0x8, 16, [0], 0x7FFFC0, 0, 0, 0, 0, 0, 0x7FFFC0⟩,
  ⟨0x284, 0x8, 16, [0], 0x7FF3, 0, 0, 0, 0, 0, 0x7FF3⟩,
  ⟨0x300, 0x4, 16, [0], 0, 0, 0, 0, 0, 0, 0⟩]

/-- All registers of ALE. -/
def rowsALE : List RegRow := rowsALEA ++ rowsALEB

/-- Registers of ALE0 (R584). -/
def rowsALE0 : List RegRow := [
  ⟨0x400, 0x4, 1, [0xFF00], 0, 0xFF01, 0, 0, 0, 0, 0xFF01⟩,
  ⟨0x404, 0x4, 4, [0x8004, 0x8001, 0, 0], 0, 0x8717, 0, 0, 0, 0, 0x8717⟩,
  ⟨0x414, 0x4, 4, [0], 0, 0, 0, 0, 0, 0, 0⟩,
  ⟨0x424, 0x4, 1, [0], 0xFFFFFFFF, 0, 0, 0, 0, 0, 0xFFFFFFFF⟩,
  ⟨0x428, 0x4, 1, [0], 0xFFFFFFFF, 0, 0, 0, 0, 0, 0xFFFFFFFF⟩,
  ⟨0x42C, 0x4, 1, [0], 0xFFFF0000, 0, 0, 0, 0, 0, 0xFFFF0000⟩,
  ⟨0x430, 0x4, 4, [0], 0xFFFFF, 0, 0, 0, 0, 0, 0xFFFFF⟩,
  ⟨0x440, 0x4, 1, [0], 0x7, 0, 0, 0, 0, 0, 0x7⟩,
  ⟨0x444, 0x4, 1, [0], 0, 0, 0, 0, 0, 0, 0⟩]

/-- Registers of APORT (R585). -/
def rowsAPORT : List RegRow := [
  ⟨0x10, 0x4, 1, [0x1F6000], 0x11F7333, 0, 0, 0, 0, 0, 0x11F7333⟩,
  ⟨0x14, 0x4, 1, [0], 0, 0, 0, 0, 0, 0, 0⟩,
  ⟨0x100, 0x4, 32, [0], 0x1FFFFF, 0, 0, 0, 0, 0, 0x1FFFFF⟩,
  ⟨0x180, 0x4, 1, [0], 0, 0, 0, 0, 0, 0, 0⟩,
  ⟨0x184, 0x4, 1, [0], 0, 0, 0, 0, 0, 0xFFFFFFFF, 0⟩]

/-- Registers of APORT8 (R586). -/
def rowsAPORT8 : List RegRow := [
  ⟨0x10, 0x4, 1, [0xF0], 0xF3, 0, 0, 0, 0, 0, 0xF3⟩,
  ⟨0x14, 0x4, 1, [0], 0, 0, 0, 0, 0, 0, 0⟩,
  ⟨0x100, 0x4, 32, [0], 0xEFFFFF, 0, 0, 0, 0, 0, 0xEFFFFF⟩,
  ⟨0x180, 0x4, 1, [0], 0, 0, 0, 0, 0, 0xFFFFFFFF, 0⟩]

/-- Registers of CAM (R610). -/
def rowsCAM : List RegRow := [
  ⟨0x10, 0x4, 1, [0x5DC0006], 0xFFFF0017, 0, 0, 0, 0, 0, 0xFFFF0016⟩,
  ⟨0x14, 0x4, 1, [0], 0, 0, 0, 0, 0, 0, 0⟩,
  ⟨0x100, 0x40, 4, [0x2B00], 0x80003F0F, 0, 0, 0, 0, 0, 0x3F0F⟩,
  ⟨0x104, 0x40, 4, [0], 0xF, 0, 0, 0, 0, 0, 0xF⟩,
  ⟨0x108, 0x40, 4, [0], 0x1FFF1FFF, 0, 0, 0, 0, 0, 0x1FFF1FFF⟩,
  ⟨0x10C, 0x40, 4, [0x3200500], 0x1FFF1FFF, 0, 0, 0, 0, 0, 0x1FFF1FFF⟩,
  ⟨0x110, 0x40, 4, [0], 0xFFFFF000, 0, 0, 0, 0, 0, 0⟩,
  ⟨0x114, 0x40, 4, [0], 0xFFFF, 0, 0, 0, 0, 0, 0⟩,
  ⟨0x118, 0x40, 4, [0x100000], 0xFFFFFFF, 0, 0, 0, 0, 0, 0xFFFFFFF⟩,
  ⟨0x11C, 0x40, 4, [0x500], 0xFFFF, 0, 0, 0, 0, 0, 0xFFFF⟩,
  ⟨0x120, 0x40, 4, [0xFA000], 0xFFFFFFF, 0, 0, 0, 0, 0, 0xFFFFFFF⟩,
  ⟨0x124, 0x40, 4, [0], 0xFFFFFFC0, 0, 0, 0, 0, 0, 0⟩,
  ⟨0x128, 0x40, 4, [0], 0xFFFF, 0, 0, 0, 0, 0, 0⟩,
  ⟨0x12C, 0x40, 4, [0x4], 0x1FE1F, 0, 0, 0, 0, 0, 0x1FE1F⟩,
  ⟨0x130, 0x40, 4, [0], 0xF, 0, 0, 0, 0, 0, 0⟩,
  ⟨0x134, 0x40, 4, [0], 0, 0, 0, 0, 0, 0, 0⟩,
  ⟨0x138, 0x40, 4, [0], 0, 0, 0, 0, 0, 0, 0⟩,
  ⟨0x13C, 0x40, 4, [0], 0, 0, 0, 0, 0, 0xFFFFFFFF, 0⟩,
  ⟨0x200, 0x4, 1, [0], 0, 0, 0, 0, 0, 0xFFFFFFFF, 0⟩,
  ⟨0x204, 0x4, 1, [0], 0, 0, 0, 0, 0, 0xFFFFFFFF, 0⟩,
  ⟨0x208, 0x4, 1, [0], 0, 0, 0, 0, 0, 0xFFFFFFFF, 0⟩,
  ⟨0x20C, 0x4, 1, [0], 0, 0, 0, 0, 0, 0xFFFFFFFF, 0⟩,
  ⟨0x210, 0x4, 1, [0], 0, 0, 0, 0, 0, 0xFFFFFFFF, 0⟩,
  ⟨0x214, 0x4, 1, [0x64], 0xFFFF, 0, 0, 0, 0, 0, 0xFFFF⟩]

/-- Registers of VOUT (R611). -/
def rowsVOUT : List RegRow := [
  ⟨0x10, 0x4, 1, [0x2], 0xF, 0, 0, 0, 0, 0, 0xE⟩,
  ⟨0x14, 0x4, 1, [0], 0, 0, 0, 0, 0, 0, 0⟩,
  ⟨0x100, 0x4, 1, [0xF500F00], 0x1FFF1FFF, 0, 0, 0, 0, 0, 0x1FFF1FFF⟩,
  ⟨0x104, 0x4, 1, [0x200008], 0x1FFF1FFF, 0, 0, 0, 0, 0, 0x1FFF1FFF⟩,
  ⟨0x108, 0x4, 1, [0x8AE0870], 0x1FFF1FFF, 0, 0, 0, 0, 0, 0x1FFF1FFF⟩,
  ⟨0x10C, 0x4, 1, [0x80030], 0x1FFF1FFF, 0, 0, 0, 0, 0, 0x1FFF1FFF⟩,
  ⟨0x110, 0x4, 1, [0xFF2DA], 0x1FFFFF, 0, 0, 0, 0, 0, 0x1FFFFF⟩,
  ⟨0x114, 0x4, 1, [0x34], 0xFFFF0037, 0, 0, 0, 0, 0, 0xFFFF0037⟩,
  ⟨0x118, 0x4, 1, [0x840C0], 0xFFFF3FF, 0, 0, 0, 0, 0, 0xFFFF3FF⟩,
  ⟨0x11C, 0x4, 1, [0], 0x3FFFFFFF, 0, 0, 0, 0, 0, 0x3FFFFFFF⟩,
  ⟨0x120, 0x4, 1, [0x7D0], 0xFFFF, 0, 0, 0, 0, 0, 0xFFFF⟩,
  ⟨0x180, 0x40, 2, [0xFF0050], 0xFF03F1, 0, 0, 0, 0, 0, 0xFF03F1⟩,
  ⟨0x184, 0x40, 2, [0], 0x1FFF1FFF, 0, 0, 0, 0, 0, 0x1FFF1FFF⟩,
  ⟨0x188, 0x40, 2, [0x8700F00], 0x1FFF1FFF, 0, 0, 0, 0, 0, 0x1FFF1FFF⟩,
  ⟨0x18C, 0x40, 2, [0], 0xFFFFFFC0, 0, 0, 0, 0, 0, 0⟩,
  ⟨0x190, 0x40, 2, [0], 0xFFFF, 0, 0, 0, 0, 0, 0⟩,
  ⟨0x194, 0x40, 2, [0], 0xFFFFFFC0, 0, 0, 0, 0, 0, 0⟩,
  ⟨0x198, 0x40, 2, [0], 0xFFFF, 0, 0, 0, 0, 0, 0⟩,
  ⟨0x19C, 0x40, 2, [0x3C003C00], 0xFFFFFFFF, 0, 0, 0, 0, 0, 0xFFFFFFFF⟩,
  ⟨0x1A0, 0x40, 2, [0], 0, 0, 0, 0, 0, 0xFFFFFFFF, 0⟩,
  ⟨0x200, 0x4, 1, [0], 0, 0, 0, 0, 0x1, 0, 0⟩,
  ⟨0x204, 0x4, 1, [0], 0, 0, 0, 0, 0, 0, 0⟩,
  ⟨0x208, 0x4, 1, [0], 0, 0, 0, 0, 0, 0, 0⟩,
  ⟨0x20C, 0x4, 1, [0], 0, 0, 0, 0, 0, 0, 0⟩,
  ⟨0x210, 0x4, 1, [0], 0, 0, 0, 0, 0, 0, 0⟩,
  ⟨0x214, 0x4, 1, [0], 0x3F01, 0, 0, 0, 0, 0, 0⟩,
  ⟨0x218, 0x4, 1, [0], 0, 0, 0, 0, 0, 0xFFFFFFFF, 0⟩,
  ⟨0x220, 0x4, 1, [0], 0, 0, 0, 0, 0x90FFFFFF, 0, 0⟩,
  ⟨0x224, 0x4, 4, [0], 0xFFFFFFFF, 0, 0, 0, 0, 0, 0⟩,
  ⟨0x234, 0x4, 1, [0], 0, 0, 0, 0, 0, 0, 0⟩]

/-- Registers of GW (R635, R636). -/
def rowsGWA : List RegRow := [
  ⟨0x10, 0x4, 1, [0x1], 0x3, 0, 0, 0, 0, 0, 0x3⟩,
  ⟨0x14, 0x4, 1, [0], 0, 0, 0, 0, 0, 0, 0⟩,
  ⟨0x100, 0x4, 1, [0], 0x9FFF, 0, 0, 0, 0, 0, 0⟩,
  ⟨0x104, 0x4, 1, [0], 0xFFFFFFFF, 0, 0, 0, 0, 0, 0⟩,
  ⟨0x108, 0x4, 1, [0x7D00000], 0xFFFFFFFF, 0, 0, 0, 0, 0, 0xFFFFFFFF⟩,
  ⟨0x10C, 0x4, 1, [0x7D00064], 0xFFFFFFFF, 0, 0, 0, 0, 0, 0xFFFFFFFF⟩,
  ⟨0x110, 0x4, 1, [0], 0xC7FF, 0, 0, 0, 0, 0, 0xC7FF⟩,
  ⟨0x114, 0x4, 1, [0xF000], 0x1F1FF, 0, 0, 0, 0, 0, 0x1F1FF⟩,
  ⟨0x118, 0x4, 1, [0x100], 0xFFFFFFFF, 0, 0, 0, 0, 0, 0xFFFFFFFF⟩,
  ⟨0x11C, 0x4, 1, [0], 0, 0, 0, 0, 0, 0xFFFFFFFF, 0⟩,
  ⟨0x120, 0x4, 1, [0x1F4], 0xFFFF, 0, 0, 0, 0, 0, 0xFFFF⟩,
  ⟨0x124, 0x4, 1, [0], 0, 0, 0, 0, 0, 0, 0⟩,
  ⟨0x128, 0x4, 1, [0], 0, 0, 0, 0, 0, 0, 0⟩,
  ⟨0x12C, 0x4, 1, [0], 0, 0, 0, 0, 0, 0, 0⟩,
  ⟨0x130, 0x4, 1, [0], 0, 0, 0, 0, 0x8FFFFFC3, 0, 0⟩,
  ⟨0x134, 0x4, 1, [0], 0, 0, 0, 0, 0, 0xFFFFFFFF, 0⟩,
  ⟨0x138, 0x4, 1, [0], 0, 0, 0, 0, 0, 0xFFFFFFFF, 0⟩,
  ⟨0x140, 0x4, 1, [0], 0, 0, 0, 0, 0x8FFF07FF, 0, 0⟩,
  ⟨0x144, 0x4, 1, [0], 0, 0, 0, 0, 0xFFFFFFFF, 0, 0⟩,
  ⟨0x148, 0x4, 1, [0], 0, 0, 0, 0, 0, 0, 0⟩,
  ⟨0x160, 0x4, 1, [0], 0x1, 0, 0, 0, 0, 0, 0⟩,
  ⟨0x164, 0x4, 1, [0], 0xFFFFF000, 0, 0, 0, 0, 0, 0⟩,
  ⟨0x168, 0x4, 1, [0], 0xFFFF, 0, 0, 0, 0, 0, 0⟩,
  ⟨0x16C, 0x4, 1, [0x10], 0xFFFFFFFF, 0, 0, 0, 0, 0, 0⟩,
  ⟨0x170, 0x4, 1, [0], 0, 0, 0, 0, 0, 0, 0⟩,
  ⟨0x174, 0x4, 1, [0], 0xFFFFFFFF, 0, 0, 0, 0, 0, 0⟩,
  ⟨0x178, 0x4, 1, [0], 0xFFFFF000, 0, 0, 0, 0, 0, 0⟩,
  ⟨0x17C, 0x4, 1, [0], 0xFFFF, 0, 0, 0, 0, 0, 0⟩,
  ⟨0x180, 0x4, 1, [0x10], 0xFFFFFFFF, 0, 0, 0, 0, 0, 0⟩,
  ⟨0x184, 0x4, 1, [0], 0xFFFFFFFF, 0, 0, 0, 0, 0, 0⟩]

/-- Registers of GW (R635, R636). -/
def rowsGWB : List RegRow := [
  ⟨0x188, 0x4, 1, [0], 0, 0, 0, 0, 0, 0, 0⟩,
  ⟨0x1A0, 0x10, 3, [0], 0xFFFFFFFF, 0, 0, 0, 0, 0, 0xFFFFFFFF⟩,
  ⟨0x1A4, 0x10, 3, [0], 0xFFFFFFF, 0, 0, 0, 0, 0, 0xFFFFFFF⟩,
  ⟨0x1A8, 0x10, 3, [0], 0xFFFFFFFF, 0, 0, 0, 0, 0, 0xFFFFFFFF⟩,
  ⟨0x1AC, 0x10, 3, [0], 0xFFFFFFFF, 0, 0, 0, 0, 0, 0xFFFFFFFF⟩,
  ⟨0x200, 0x8, 63, [0], 0xFFFFFF, 0, 0, 0, 0, 0, 0xFFFFFF⟩,
  ⟨0x204, 0x8, 63, [0], 0xFFFFFF, 0, 0, 0, 0, 0, 0xFFFFFF⟩,
  ⟨0x400, 0x4, 1, [0], 0, 0, 0, 0, 0, 0, 0⟩,
  ⟨0x404, 0x4, 1, [0], 0, 0, 0, 0, 0, 0, 0⟩,
  ⟨0x408, 0x4, 1, [0], 0, 0, 0, 0, 0, 0xFFFFFFFF, 0⟩,
  ⟨0x40C, 0x4, 1, [0], 0, 0, 0, 0, 0, 0xFFFFFFFF, 0⟩,
  ⟨0x410, 0x4, 1, [0], 0, 0, 0, 0, 0, 0xFFFFFFFF, 0⟩,
  ⟨0x414, 0x4, 1, [0], 0, 0, 0, 0, 0, 0xFFFFFFFF, 0⟩,
  ⟨0x418, 0x4, 4, [0], 0, 0, 0, 0, 0, 0xFFFFFFFF, 0⟩,
  ⟨0x428, 0x4, 4, [0], 0, 0, 0, 0, 0, 0xFFFFFFFF, 0⟩,
  ⟨0x438, 0x4, 1, [0], 0, 0, 0, 0, 0, 0xFFFFFFFF, 0⟩,
  ⟨0x440, 0x4, 1, [0], 0, 0, 0, 0, 0, 0, 0⟩,
  ⟨0x444, 0x4, 1, [0], 0, 0, 0, 0, 0, 0, 0⟩,
  ⟨0x448, 0x4, 1, [0], 0, 0, 0, 0, 0, 0xFFFFFFFF, 0⟩,
  ⟨0x44C, 0x4, 1, [0], 0, 0, 0, 0, 0, 0xFFFFFFFF, 0⟩,
  ⟨0x450, 0x4, 1, [0], 0, 0, 0, 0, 0, 0xFFFFFFFF, 0⟩,
  ⟨0x454, 0x4, 1, [0], 0, 0, 0, 0, 0, 0xFFFFFFFF, 0⟩,
  ⟨0x458, 0x4, 4, [0], 0, 0, 0, 0, 0, 0xFFFFFFFF, 0⟩,
  ⟨0x468, 0x4, 4, [0], 0, 0, 0, 0, 0, 0xFFFFFFFF, 0⟩,
  ⟨0x478, 0x4, 1, [0], 0, 0, 0, 0, 0, 0xFFFFFFFF, 0⟩,
  ⟨0x480, 0x4, 1, [0], 0, 0, 0, 0, 0, 0xFFFFFFFF, 0⟩,
  ⟨0x484, 0x4, 1, [0], 0, 0, 0, 0, 0, 0xFFFFFFFF, 0⟩,
  ⟨0x488, 0x4, 1, [0], 0, 0, 0, 0, 0, 0xFFFFFFFF, 0⟩]

/-- All registers of GW. -/
def rowsGW : List RegRow := rowsGWA ++ rowsGWB

/-- Registers of ETH (R636, R637). -/
def rowsETH : List RegRow := [
  ⟨0x10, 0x4, 1, [0x1], 0x3, 0, 0, 0, 0, 0, 0x3⟩,
  ⟨0x14, 0x4, 1, [0], 0, 0, 0, 0, 0, 0, 0⟩,
  ⟨0x100, 0x4, 1, [0x1357], 0x7777, 0, 0, 0, 0, 0, 0x7777⟩,
  ⟨0x104, 0x4, 1, [0x1000019], 0xFFFF00FF, 0, 0, 0, 0, 0, 0xFFFF00FF⟩,
  ⟨0x108, 0x4, 1, [0x32000D0], 0xFFFFFFF3, 0, 0, 0, 0, 0, 0xFFFFFFF3⟩,
  ⟨0x10C, 0x4, 1, [0], 0, 0, 0, 0, 0, 0, 0⟩,
  ⟨0x110, 0x4, 1, [0x100], 0xFF01, 0, 0, 0x2, 0, 0, 0xFF01⟩,
  ⟨0x114, 0x4, 1, [0xF4240], 0xFFFFFFFF, 0, 0, 0, 0, 0, 0xFFFFFFFF⟩,
  ⟨0x118, 0x4, 1, [0], 0xFFFFFFFF, 0, 0, 0, 0, 0, 0xFFFFFFFF⟩,
  ⟨0x11C, 0x4, 1, [0], 0xFFFFFFFF, 0, 0, 0, 0, 0, 0xFFFFFFFF⟩,
  ⟨0x120, 0x4, 1, [0], 0, 0, 0, 0, 0, 0, 0⟩,
  ⟨0x300, 0x4, 1, [0], 0, 0, 0, 0, 0, 0, 0⟩,
  ⟨0x304, 0x4, 1, [0], 0, 0, 0, 0, 0, 0, 0⟩,
  ⟨0x308, 0x4, 1, [0], 0, 0, 0, 0, 0, 0xFFFFFFFF, 0⟩,
  ⟨0x30C, 0x4, 1, [0], 0, 0, 0, 0, 0, 0xFFFFFFFF, 0⟩,
  ⟨0x310, 0x4, 1, [0], 0, 0, 0, 0, 0, 0xFFFFFFFF, 0⟩,
  ⟨0x314, 0x4, 1, [0], 0, 0, 0, 0, 0, 0xFFFFFFFF, 0⟩,
  ⟨0x318, 0x4, 4, [0], 0, 0, 0, 0, 0, 0xFFFFFFFF, 0⟩,
  ⟨0x328, 0x4, 4, [0], 0, 0, 0, 0, 0, 0xFFFFFFFF, 0⟩,
  ⟨0x338, 0x4, 1, [0], 0, 0, 0, 0, 0, 0xFFFFFFFF, 0⟩,
  ⟨0x400, 0x8, 64, [0xF], 0xF, 0, 0, 0, 0, 0, 0xF⟩,
  ⟨0x404, 0x8, 64, [0xF4240], 0xFFFFFFFF, 0, 0, 0, 0, 0, 0xFFFFFFFF⟩]

/-- Registers of CANX (R636, R638). -/
def rowsCANX : List RegRow := [
  ⟨0x10, 0x4, 1, [0x43], 0x1F7, 0, 0, 0, 0, 0, 0x1F7⟩,
  ⟨0x14, 0x4, 1, [0x3], 0, 0, 0, 0, 0, 0, 0⟩,
  ⟨0x100, 0x4, 1, [0x1F1F7E00], 0x7F7F7F1F, 0, 0, 0, 0, 0, 0x7F7F7F1F⟩,
  ⟨0x104, 0x4, 1, [0x9091C00], 0x7F7F7F1F, 0, 0, 0, 0, 0, 0x7F7F7F1F⟩,
  ⟨0x108, 0x4, 1, [0x1010400], 0x7F7F7F1F, 0, 0, 0, 0, 0, 0x7F7F7F1F⟩,
  ⟨0x10C, 0x4, 1, [0], 0x1FF, 0, 0, 0, 0, 0, 0x1FF⟩,
  ⟨0x110, 0x4, 1, [0x1000019], 0xFFFF00FF, 0, 0, 0, 0, 0, 0xFFFF00FF⟩,
  ⟨0x300, 0x4, 1, [0], 0, 0, 0, 0, 0, 0, 0⟩,
  ⟨0x304, 0x4, 1, [0], 0, 0, 0, 0, 0, 0, 0⟩,
  ⟨0x308, 0x4, 1, [0], 0, 0, 0, 0, 0, 0xFFFFFFFF, 0⟩,
  ⟨0x30C, 0x4, 1, [0], 0, 0, 0, 0, 0, 0xFFFFFFFF, 0⟩,
  ⟨0x310, 0x4, 1, [0], 0, 0, 0, 0, 0, 0xFFFFFFFF, 0⟩,
  ⟨0x314, 0x4, 1, [0], 0, 0, 0, 0, 0, 0xFFFFFFFF, 0⟩,
  ⟨0x318, 0x4, 4, [0], 0, 0, 0, 0, 0, 0xFFFFFFFF, 0⟩,
  ⟨0x328, 0x4, 4, [0], 0, 0, 0, 0, 0, 0xFFFFFFFF, 0⟩,
  ⟨0x338, 0x4, 1, [0], 0, 0, 0, 0, 0, 0xFFFFFFFF, 0⟩]

/-- Registers of RLINK (R664). -/
def rowsRLINK : List RegRow := [
  ⟨0x10, 0x4, 1, [0x5], 0, 0xF, 0, 0, 0, 0, 0xF⟩,
  ⟨0x14, 0x4, 1, [0], 0, 0, 0, 0, 0, 0, 0⟩,
  ⟨0x100, 0x4, 1, [0xA], 0xFFFF, 0, 0, 0, 0, 0, 0xFFFF⟩,
  ⟨0x104, 0x4, 1, [0], 0, 0, 0, 0, 0, 0xFFFFFFFF, 0⟩,
  ⟨0x108, 0x4, 1, [0], 0, 0, 0, 0, 0, 0xFFFFFFFF, 0⟩,
  ⟨0x10C, 0x4, 1, [0], 0, 0, 0, 0, 0, 0xFFFFFFFF, 0⟩,
  ⟨0x110, 0x4, 1, [0], 0, 0, 0, 0, 0, 0, 0⟩,
  ⟨0x114, 0x4, 1, [0], 0, 0, 0, 0, 0, 0, 0⟩,
  ⟨0x118, 0x4, 1, [0], 0, 0, 0, 0, 0, 0, 0⟩,
  ⟨0x11C, 0x4, 1, [0], 0, 0, 0, 0, 0, 0xFFFFFFFF, 0⟩]

/-- Registers of CASC (R665). -/
def rowsCASC : List RegRow := [
  ⟨0x10, 0x4, 1, [0], 0, 0xFF1, 0, 0, 0, 0, 0xFF1⟩,
  ⟨0x14, 0x4, 1, [0], 0, 0, 0, 0, 0, 0, 0⟩,
  ⟨0x100, 0x4, 1, [0x64], 0, 0xFF, 0, 0, 0, 0, 0xFF⟩,
  ⟨0x108, 0x4, 3, [0], 0, 0, 0, 0, 0, 0, 0⟩,
  ⟨0x110, 0x4, 1, [0], 0, 0, 0, 0, 0, 0, 0⟩,
  ⟨0x114, 0x4, 4, [0], 0, 0, 0, 0, 0, 0, 0⟩,
  ⟨0x124, 0x4, 1, [0], 0, 0, 0, 0, 0, 0xFFFFFFFF, 0⟩,
  ⟨0x128, 0x4, 1, [0], 0, 0, 0, 0, 0, 0xFFFFFFFF, 0⟩]

/-- Registers of PERTURB (R683). -/
def rowsPERTURB : List RegRow := [
  ⟨0x10, 0x4, 1, [0], 0x3, 0, 0, 0, 0, 0, 0⟩,
  ⟨0x14, 0x4, 1, [0], 0, 0, 0, 0, 0, 0, 0⟩,
  ⟨0x100, 0x4, 1, [0], 0xFFFFFFFF, 0, 0, 0, 0, 0, 0⟩,
  ⟨0x104, 0x4, 1, [0], 0xFFFFFFFF, 0, 0, 0, 0, 0, 0⟩]

/-- Registers of WINDOW (R684). -/
def rowsWINDOW : List RegRow := [
  ⟨0xF00, 0x4, 1, [0], 0x3, 0, 0, 0, 0, 0, 0⟩,
  ⟨0xF04, 0x4, 1, [0], 0, 0, 0, 0, 0, 0, 0⟩,
  ⟨0xF08, 0x4, 1, [0x1], 0xFFFFFFFF, 0, 0, 0, 0, 0, 0⟩,
  ⟨0xF0C, 0x4, 1, [0], 0xFFFF, 0, 0, 0, 0, 0, 0⟩,
  ⟨0xF10, 0x4, 1, [0x100], 0x1FFFFF, 0, 0, 0, 0, 0, 0⟩,
  ⟨0xF14, 0x4, 1, [0], 0xFFFFFFFF, 0, 0, 0, 0, 0, 0⟩,
  ⟨0xF18, 0x4, 1, [0], 0xFFFF, 0, 0, 0, 0, 0, 0⟩,
  ⟨0xF1C, 0x4, 1, [0x10000], 0x7FFFFFF, 0, 0, 0, 0, 0, 0⟩,
  ⟨0xF20, 0x4, 1, [0], 0, 0, 0, 0, 0xC000FFFF, 0, 0⟩,
  ⟨0xF24, 0x4, 1, [0], 0x7FFFFF, 0, 0, 0, 0, 0, 0⟩,
  ⟨0xF28, 0x4, 1, [0], 0xFFFFFFFF, 0, 0, 0, 0, 0, 0⟩,
  ⟨0xF2C, 0x4, 1, [0], 0xFFFF, 0, 0, 0, 0, 0, 0⟩,
  ⟨0xF30, 0x4, 1, [0], 0, 0, 0, 0, 0, 0, 0⟩,
  ⟨0xF34, 0x4, 1, [0], 0, 0, 0, 0, 0, 0xFFFFFFFF, 0⟩]

/-- Registers of RCHK33 (R206, R234). -/
def rowsRCHK33 : List RegRow := [
  ⟨0x10, 0x4, 1, [0x1], 0, 0, 0, 0, 0, 0, 0⟩,
  ⟨0x100, 0x10, 32, [0x10000, 0, 0, 0, 0, 0, 0, 0, 0, 0, 0, 0, 0, 0, 0, 0, 0, 0, 0, 0, 0, 0, 0, 0, 0, 0, 0, 0, 0, 0, 0, 0], 0, 0, 0, 0, 0, 0, 0⟩,
  ⟨0x104, 0x10, 32, [0x1000F, 0, 0, 0, 0, 0, 0, 0, 0, 0, 0, 0, 0, 0, 0, 0, 0, 0, 0, 0, 0, 0, 0, 0, 0, 0, 0, 0, 0, 0, 0, 0], 0, 0, 0, 0, 0, 0, 0⟩,
  ⟨0x108, 0x10, 32, [0xFFFF004D, 0, 0, 0, 0, 0, 0, 0, 0, 0, 0, 0, 0, 0, 0, 0, 0, 0, 0, 0, 0, 0, 0, 0, 0, 0, 0, 0, 0, 0, 0, 0], 0, 0, 0, 0, 0, 0, 0⟩,
  ⟨0x300, 0x4, 1, [0], 0, 0, 0, 0, 0, 0, 0⟩,
  ⟨0x304, 0x4, 1, [0], 0, 0, 0, 0, 0, 0, 0⟩,
  ⟨0x308, 0x4, 1, [0], 0, 0, 0x80000000, 0, 0, 0, 0⟩,
  ⟨0x30C, 0x4, 1, [0], 0, 0, 0, 0, 0, 0xFFFFFFFF, 0⟩,
  ⟨0x310, 0x4, 1, [0x1], 0, 0, 0, 0, 0, 0, 0⟩]

/-- Registers of RLINK0 (R664). -/
def rowsRLINK0 : List RegRow := [
  ⟨0x200, 0x4, 1, [0x7D00001], 0, 0xFFFF0007, 0, 0, 0, 0, 0xFFFF0007⟩,
  ⟨0x204, 0x4, 1, [0], 0, 0, 0, 0, 0, 0, 0⟩,
  ⟨0x208, 0x4, 1, [0], 0, 0, 0, 0, 0, 0, 0⟩,
  ⟨0x20C, 0x4, 1, [0], 0, 0, 0, 0, 0x1, 0, 0⟩,
  ⟨0x210, 0x4, 1, [0xFFFFFFFF], 0, 0xFFFFFFFF, 0, 0, 0, 0, 0xFFFFFFFF⟩,
  ⟨0x214, 0x4, 1, [0xFFFFFFFF], 0, 0xFFFFFFFF, 0, 0, 0, 0, 0xFFFFFFFF⟩,
  ⟨0x400, 0x10, 64, [0], 0, 0, 0, 0, 0, 0, 0⟩,
  ⟨0x404, 0x10, 64, [0], 0, 0, 0, 0, 0, 0, 0⟩,
  ⟨0x408, 0x10, 64, [0], 0, 0, 0, 0, 0, 0, 0⟩,
  ⟨0x40C, 0x10, 64, [0x7], 0, 0, 0, 0, 0, 0, 0⟩]

/-- R44: instances of each populated code (0 for a code with no block). -/
def instCount (c : Nat) : Nat :=
  match c with
  | 0x00 => 1
  | 0x01 => 1
  | 0x02 => 1
  | 0x03 => 1
  | 0x04 => 1
  | 0x05 => 1
  | 0x06 => 1
  | 0x07 => 34
  | 0x08 => 32
  | 0x09 => 1
  | 0x0A => 16
  | 0x0B => 64
  | 0x0C => 1
  | 0x0D => 16
  | 0x0E => 64
  | 0x0F => 32
  | 0x10 => 25
  | 0x11 => 16
  | 0x12 => 1
  | 0x13 => 4
  | 0x14 => 2
  | 0x15 => 2
  | 0x16 => 1
  | 0x17 => 5
  | 0x18 => 1
  | 0x19 => 1
  | 0x1A => 8
  | 0x1B => 9
  | 0x1C => 4
  | 0x1D => 2
  | 0x1E => 4
  | 0x1F => 16
  | 0x20 => 1
  | 0x21 => 4
  | 0x22 => 1
  | 0x23 => 1
  | 0x24 => 1
  | _ => 0

/-- The register rows of instance `i` of code `c`. -/
def blockRows (c i : Nat) : List RegRow :=
  match c with
  | 0x00 => rowsSYS
  | 0x01 => rowsANGLE
  | 0x02 => rowsPMU
  | 0x03 => rowsTHERM
  | 0x04 => rowsRST
  | 0x05 => rowsRSTATE
  | 0x06 => rowsSEC
  | 0x07 => if i = 33 then rowsRCHK33 else rowsRCHK
  | 0x08 => rowsXMB
  | 0x09 => rowsDBG
  | 0x0A => rowsPART
  | 0x0B => rowsRING
  | 0x0C => rowsDISP
  | 0x0D => rowsGROVE
  | 0x0E => rowsCORE
  | 0x0F => rowsFERRY
  | 0x10 => rowsMESH
  | 0x11 => rowsTICKET
  | 0x12 => rowsSAFE
  | 0x13 => rowsDMC
  | 0x14 => rowsFDIG
  | 0x15 => rowsTRIG
  | 0x16 => rowsBERTH
  | 0x17 => if i = 4 then rowsSENSE4 else rowsSENSE
  | 0x18 => rowsPROT
  | 0x19 => rowsWSEQ
  | 0x1A => if i = 0 then rowsALE ++ rowsALE0 else rowsALE
  | 0x1B => if i = 8 then rowsAPORT8 else rowsAPORT
  | 0x1C => rowsCAM
  | 0x1D => rowsVOUT
  | 0x1E => rowsETH
  | 0x1F => rowsCANX
  | 0x20 => rowsGW
  | 0x21 => if i = 0 then rowsRLINK ++ rowsRLINK0 else rowsRLINK
  | 0x22 => rowsCASC
  | 0x23 => rowsLEDGER
  | 0x24 => rowsPERTURB
  | _ => []

end Sys2Proof.Machine
end

