-- ==== Sys2Proof/Machine/State.lean ====
section
/-! DEFINITION. The state of the block as plain data, its reset value, and the reasons a step can stop. -/

namespace Sys2Proof.Machine

/-- Reasons a step stops with a fault. No meaning of this model raises one: the spec answers every access it refuses with
a recorded error (R68 to R73), which is a next state. Kept for the interface; safe. -/
inductive Fault where
  /-- Never raised; safe. -/
  | none
  deriving DecidableEq, Repr

/-- Reasons a step is refused. -/
inductive Refusal where
  /-- A command that has no meaning yet; raised by Dispatch.lean only; safe. -/
  | notModelled (mnemonic : String)
  deriving DecidableEq, Repr

/-- Time (R75, R90): the 400 MHz base in ticks of 2.5 ns, and TIME in units of 5e-10 ns, so that one base tick at a
rate correction of `ppb` adds 5 * (10^9 + ppb) units. -/
structure Clock where
  base : Nat := 0
  time : Nat := 0
  deriving DecidableEq, Repr

/-- What the device answered to the last access (R48, R68, R69): the bytes read, and whether it was an error response. -/
structure Resp where
  data : List Byte := []
  err : Bool := false
  cause : Nat := 0
  deriving DecidableEq, Repr

/-- What the block sends out, oldest first (the model's record of its outputs). -/
inductive Out where
  /-- An event to the safety island over the event network (R26): a code of the model and an argument. -/
  | island (code arg : Nat)
  /-- A PCIe configuration request answered: with retry status or normally (R133). -/
  | pcieConfig (retry : Bool)
  /-- The DRS message (R134). -/
  | pcieDrs
  /-- Bits shifted out of the TAP (R216). -/
  | tap (data : List Byte)
  /-- A frame sent on a gateway egress port (R623): port and bytes. -/
  | frame (port : Nat) (data : List Byte)
  /-- A CAN frame sent (R616): port, KEY, CAN XL fields and data. -/
  | can (port key xl : Nat) (data : List Byte)
  /-- A gPTP Sync sent on a port (R614): port, TIME in ns and whether it is relayed. -/
  | sync (port time : Nat) (relay : Bool)
  /-- A request to a PCIe outbound window (R39): write, address, length and data. -/
  | pcieReq (write : Bool) (addr len : Nat) (data : List Byte) (stream : Option Nat)
  /-- A Rinjo Link packet sent on a port (R641, R643): port, TYPE, header words and data words of the model. -/
  | packet (port kind : Nat) (data : List Nat)
  /-- A cascade sync frame or echo marker (R655). -/
  | casc (kind : Nat) (data : List Nat)
  /-- An event pulse of the event network (R26): source kind and index. -/
  | pulse (kind index : Nat)
  /-- A frame sent on a TDM port (R570): port and 24-bit codes of its slots. -/
  | audio (port : Nat) (slots : List Nat)
  /-- A pixel of a display pipeline composed where a layer under-runs (R599, R601): pipeline, column, line and components R, G, B in units
  of a 10-bit code. -/
  | pixel (v x y : Nat) (rgb : List Rat)
  /-- An AUX transaction (R605): pipeline, AUX_CMD and data. -/
  | aux (v cmd : Nat) (data : List Byte)
  deriving DecidableEq, Repr

/-- The fuses (R3, R120, R210, R209): they change only through SEC operations. -/
structure Fuses where
  lifecycle : Nat := Config.lifecycle
  programmed : Nat := 1
  revoked : Nat := 0
  arb : List Nat := [0, 0, 0]
  fullInField : Bool := false
  debugKey : Bool := true
  deriving DecidableEq, Repr

/-- A stow whose build is in progress (R130, R131): the MAGIC word kept of the previous image, and whether a copy to flash follows. -/
structure Stow where
  magic : Nat := 0
  flash : Bool := false
  deriving DecidableEq, Repr

/-- Start sequence (R110 to R148). -/
structure Boot where
  poresetN : Bool := false
  warmresetN : Bool := true
  /-- A reset is asserted: no stage runs. -/
  held : Bool := true
  /-- The reset in progress is a POR. -/
  por : Bool := true
  romStarted : Bool := false
  /-- Base tick of the release of the reset, or of the wake event (R149). -/
  t0 : Nat := 0
  /-- Slot now tried for each stage 0 to 2; 2 when none is left (R121). -/
  slot : List Nat := [0, 0, 0]
  /-- Base in the flash of the directory in use; `none` where both copies are wrong (R122). -/
  directory : Option Nat := none
  voiceOk : Bool := false
  appOk : Bool := false
  /-- The boot ROM waits for a recovery image (R145, R217). -/
  romWaits : Bool := false
  /-- Level of PCIE_PERST_N as an input, and its level where it is an output (R110). -/
  perstN : Bool := true
  perstOut : Bool := false
  /-- Base tick of the Stage C declaration (R143). -/
  declAt : Nat := 0
  pcieLink : Bool := false
  /-- What the restore source chosen at this start holds (R127, R128): register records (address, value), route entries, and the RNC
  coefficient set. -/
  records : List (Nat × Nat) := []
  routes : List (List Byte) := []
  rnc : Option (List Byte) := none
  stow : Option Stow := none
  resetoutN : Bool := false
  faultN : Bool := false
  /-- PWR_REQ (R689), and whether the device waits for the rails it asked for. -/
  pwrReq : Bool := true
  railsWait : Bool := false
  /-- A supply fault or loss of reference holds the internal reset (R698, R699). -/
  supply : Bool := false
  /-- VDD_AON is in range; without it the device is in P5 (R161). -/
  aon : Bool := true
  /-- The device is parked in P4 (R159). -/
  parked : Bool := false
  deriving DecidableEq, Repr

/-- Injections armed in a perturbation window (R676): the window's page, PT_FORCE_CFG and PT_FORCE_ADDR when armed. How
many remain is PT_STAT.REMAIN of the page. -/
structure Inject where
  page : Nat
  cfg : Nat
  addr : Nat
  deriving DecidableEq, Repr

/-- What runs in a perturbation window (R673): the LFSR, and the base tick at which the current stall pulse ends. -/
structure Shaker where
  page : Nat
  lfsr : Nat := 1
  stallEnd : Nat := 0
  deriving DecidableEq, Repr

/-- What an access to a memory carries (R196, R203, R314): requester, world, partition tag, address, bytes, kind, the
data written and the ticket tag. -/
structure Access where
  req : Requester
  heart : Bool
  part : Option Nat := none
  addr : Nat
  len : Nat
  write : Bool := false
  fetch : Bool := false
  data : List Byte := []
  tkt : Option Nat := none
  /-- The STREAM_ID of the job it belongs to, which selects its IOMMU context (R251). -/
  stream : Option Nat := none
  /-- 0 for a requester of this device; else what tells remote requesters of one port apart (R652). -/
  via : Nat := 0
  /-- The class it was given (R340, R346); none for the class of its requester. -/
  cls : Option Nat := none
  deriving DecidableEq, Repr

/-- Where the answer to a request from the fabric goes (R641): port of arrival, source node, SRC_REQ and TAG. -/
structure Remote where
  port : Nat
  node : Nat
  src : Nat
  tag : Nat
  deriving DecidableEq, Repr

/-- Who gets the answer to a held request: its requester, a node of the fabric, or nobody once it has timed out (R356). -/
inductive Back where
  | here
  | fabric (m : Remote)
  | nobody
  deriving DecidableEq, Repr

/-- A request held for a power state, a refresh window or a full port (R158, R328, R448, R650): an access, or a ticket request with its
office, attributes, offset and length. `since` is the base tick at which an access was held (R443). -/
inductive Held where
  | access (a : Access) (cacheable : Bool) (back : Back) (since : Nat)
  | ticket (office : Nat) (a : Access) (off len : Nat) (back : Back)
  deriving DecidableEq, Repr

/-- An outstanding ticket (R315 to R320). `store` marks the ticket of a core STORE, which only its rank consumes. -/
structure Ticket where
  idx : Nat
  gen : Nat
  req : Nat
  via : Nat := 0
  heart : Bool
  start : Nat
  len : Nat
  count : Nat := 0
  win : Nat
  store : Bool := false
  /-- Base tick of the grant (R317). -/
  grant : Nat := 0
  deriving DecidableEq, Repr

/-- A ticket office (R315): tickets out, the generation each index takes next, and the landed granules of each window. -/
structure Office where
  tickets : List Ticket := []
  gens : List Nat := List.replicate 64 0
  landed : List (Nat × Nat) := []
  deriving DecidableEq, Repr

/-- A memory operation of a grove store (R309, R310): 1 FILL, 2 COPY. -/
structure MemOp where
  op : Nat
  irq : Bool
  dst : Nat
  src : Nat
  len : Nat
  val : Nat
  running : Bool := false
  deriving DecidableEq, Repr

/-- An open DRAM row (R440): channel, bank with rank, row, hint, and base tick of the last access. -/
structure OpenRow where
  ch : Nat
  bank : Nat
  row : Nat
  hint : Nat
  last : Nat
  deriving DecidableEq, Repr

/-- The scheduler of a DRAM controller (R443): whether each of its last 255 accesses was RT, newest first; accesses that must pass before
CTRL may go again while another class waits; deficits of partitions 0 to 15 and of untagged traffic, and whose turn it is; and consecutive
hits of each bank (channel and bank, count). -/
structure Arb where
  rt : List Bool := []
  gap : Nat := 0
  deficit : List Nat := List.replicate 17 0
  turn : Nat := 0
  hits : List (Nat × Nat) := []
  deriving DecidableEq, Repr

/-- A DRAM controller (R449, R453): the configuration latched when training started, what training read, its open rows,
the refresh window in progress (base tick of its start), bytes moved, and the next sector the patrol scrub reads. -/
structure Dmc where
  ctl : Nat := 0
  cfg : Nat := 0
  /-- Base tick at which training started. -/
  start : Nat := 0
  /-- Die density in Gb and ranks of a channel, read at training (R434). -/
  density : Nat := 0
  ranks : Nat := 0
  passed : Bool := false
  rows : List OpenRow := []
  window : Option Nat := none
  rdBytes : Nat := 0
  wrBytes : Nat := 0
  scrub : Nat := 0
  arb : Arb := {}
  /-- Lines that the slice in front of it may hold, with the world each is tagged with (R198). -/
  lines : List (Nat × Bool) := []
  deriving DecidableEq, Repr

/-- The refresh grid (R445, R446), in base ticks: origin, tREFI, RATE code, the next window of each controller, the
windows already announced, and a RATE code waiting for DMC_A's next window. -/
structure Grid where
  on : Bool := false
  t0 : Nat := 0
  step : Nat := 1536
  rate : Nat := 0
  next : List Nat := [0, 0, 0, 0]
  announced : List Bool := [false, false, false, false]
  newRate : Option Nat := none
  deriving DecidableEq, Repr

/-- A node the root knows (R643 to R645): UID, NODE_ID, DEV_ID, ports with links up, CASC_00.CTL, hops and egress path. -/
structure FabNode where
  uid : Nat
  id : Nat
  dev : Nat := 0
  links : Nat := 0
  casc : Nat := 0
  hops : Nat := 0
  path : List Nat := []
  deriving DecidableEq, Repr

/-- A link between nodes: node and port at each end. -/
structure FabLink where
  a : Nat
  pa : Nat
  b : Nat
  pb : Nat
  deriving DecidableEq, Repr

/-- A port the root will probe again: node, port and base tick (R643). -/
structure Deferred where
  node : Nat
  port : Nat
  due : Nat
  deriving DecidableEq, Repr

/-- A discovery under way at the root (R643, R646, R661). -/
structure Disc where
  start : Nat
  found : List FabNode
  links : List FabLink := []
  done : List (Nat × Nat) := []
  cur : Option (Nat × Nat) := none
  deferred : List Deferred := []
  restarted : Bool := false
  deriving DecidableEq, Repr

/-- A request sent over a port and not yet answered (R650, R652); `ticket` marks a ticket request. -/
structure FabReq where
  port : Nat
  tag : Nat
  acc : Access
  ticket : Bool := false
  /-- Its issuer no longer waits for the answer (R356). -/
  late : Bool := false
  /-- It ended in error, which its issuer has yet to see (R647, R651). -/
  err : Bool := false
  deriving DecidableEq, Repr

/-- An ASSIGN waiting for its COMMIT (R644). -/
structure Assigned where
  node : Nat
  role : Nat
  slot : Nat
  master : Nat
  table : List FabEntry
  nbrs : List (Option Nat)
  deriving DecidableEq, Repr

/-- The fabric (R639 to R653): the IDs the root keeps by UID, a discovery under way, the root recorded at the last commit,
an ASSIGN held, open requests, failed retrains and last use of each port, reverse paths of forwarded management packets,
and the masters elected per group. -/
structure Fab where
  ids : List (Nat × Nat) := []
  disc : Option Disc := none
  root : Option Nat := none
  assigned : Option Assigned := none
  reqs : List FabReq := []
  retrains : List Nat := [0, 0, 0, 0]
  lastUse : List Nat := [0, 0, 0, 0]
  reverse : List (Nat × Nat) := []
  masters : List (Nat × Nat) := []
  remoteReg : Bool := false
  sapOut : Bool := false
  outMask : Nat := 0
  deriving DecidableEq, Repr

/-- A predictor of R80: from base tick `t0` the angle is `ang + w·τ + a·τ²/2 + res·min(τ/per, 1)`, in ticks and base ticks. -/
structure Pred where
  t0 : Nat := 0
  ang : Rat := 0
  w : Rat := 0
  a : Rat := 0
  res : Rat := 0
  per : Nat := 0
  deriving DecidableEq, Repr

/-- A LEARN window under way (R709): primary tooth angle and source angle at its start, and primary teeth counted. -/
structure Learn where
  prim : Rat
  src : Rat
  n : Nat
  deriving DecidableEq, Repr

/-- An angle source (R78 to R81): the pulse whose direction is open, the teeth of the current history newest first (time and
signed own advance), own tooth angle and predictor, direction, consecutive rejections, last accepted period, own speed in
the last period, events accepted since a loss, the last position word, and a LEARN window. -/
structure AngSrc where
  rise : Option Nat := none
  rev : Option Bool := none
  teeth : List (Nat × Rat) := []
  th : Rat := 0
  own : Pred := {}
  dir : Int := 1
  rej : Nat := 0
  per : Nat := 0
  speed : Rat := 0
  q : Nat := 0
  word : Option Nat := none
  learn : Option Learn := none
  deriving DecidableEq, Repr

/-- A slew (R83): offset, time counted before the last freeze, base tick it counts from, tooth-equivalents, f, frozen
(R85). -/
structure Slew where
  d0 : Rat
  acc : Nat := 0
  since : Nat
  teeth : Rat := 0
  f : Rat := 0
  frozen : Bool := false
  deriving DecidableEq, Repr

/-- A returning reference whose bound R87 is kept. -/
structure Returning where
  src : Nat
  d0 : Rat
  omax : Rat
  pmax : Nat
  rem : Rat
  deriving DecidableEq, Repr

/-- An angle domain (R75 to R89): the unrounded published angle, whether it was held at the last update, the predictor of the
reference, the slew, tooth angle and staleness of each source in this domain's ticks, qualification counts, when it fell to
Q0, direction of travel, the jitter offset, the angle shown on the bus, the one the alarms last saw, and whether an index has set the
fraction. -/
structure AngDom where
  pub : Rat := 0
  heldNow : Bool := true
  ref : Pred := {}
  slew : Option Slew := none
  th : List (Option Rat) := List.replicate 7 none
  stale : List Bool := List.replicate 7 false
  qual : List Nat := List.replicate 7 0
  holdAt : Nat := 0
  dir : Int := 1
  jit : Int := 0
  shown : Int := 0
  seen : Int := 0
  indexed : Bool := false
  ret : Option Returning := none
  deriving DecidableEq, Repr

/-- The angle clock beyond its registers: sources, domains, the event log, alarms armed past their target, speed messages
newest first with their speeds, whether the message is available, and whether the cascade master is followed (R104). -/
structure Ang where
  /-- TIME bits 63:32 of the last bus update, shown from the next read of TIME_LO on (R105). -/
  timeHi : Nat := 0
  srcs : List AngSrc := List.replicate 7 {}
  doms : List AngDom := List.replicate 3 {}
  log : List (Nat × Nat) := []
  late : List Nat := []
  msgs : List (Nat × Nat) := []
  spdOk : Bool := false
  follows : Bool := false
  /-- Remaining gPTP offset that TIME still slews away, ns. -/
  gptp : Int := 0
  /-- TIME has locked since the reset (R90). -/
  locked : Bool := false
  /-- Angles of the last bus updates without wrap, newest first, with their base ticks (R525, R530). -/
  trail : List (Nat × List Int) := []
  deriving DecidableEq, Repr

/-- What the model keeps of an application hart (R197, R213): its program counter as the device last set or saved it, a
change of world made under hold, whether debug has halted it, and a halt request not yet served. -/
structure Hart where
  pc : Nat := 0
  changed : Bool := false
  halted : Bool := false
  /-- Architectural registers and triggers that are known, by number; the others are 0 where `zeroed`, else free (R197, R213). -/
  regs : List (Nat × Nat) := []
  zeroed : Bool := false
  triggers : List (Nat × Nat) := []
  /-- The DRAM lines of 128 bytes that its caches hold, each with the world of the request that filled it (R198). -/
  lines : List (Nat × Bool) := []
  /-- A halt request that waits for the cluster's power domain (R215). -/
  haltReq : Bool := false
  deriving DecidableEq, Repr

/-- Debug port and recovery (R211 to R217): the last nonce, the tick the session opened and its LIFETIME, the tick of the
last failure, halted lockstep pairs, boundary register and pin-driving instruction (0 none), and recovery state, first failure
and bytes received. -/
structure Dbg where
  nonce : Option (List Byte) := none
  opened : Nat := 0
  life : Nat := 0
  lastFail : Option Nat := none
  pairHalted : List Bool := [false, false]
  boundary : List Byte := []
  scan : Nat := 0
  /-- The TAP's instruction register (R216), the debug module's registers (R214), and whether DENY was written (R231). -/
  ir : Nat := 1
  dm : List (Nat × Nat) := []
  denied : Bool := false
  recState : Nat := 0
  recFail : Nat := 0
  recCount : Nat := 0
  deriving DecidableEq, Repr

/-- P4 entry (R159, R187): 0 none, 1 waiting for a stow or a session, 2 stopping work; a wake that came meanwhile (its
WAKE_STAT), and the base tick of P4 entry. -/
structure Park where
  stage : Nat := 0
  wake : Option Nat := none
  entered : Nat := 0
  deriving DecidableEq, Repr

/-- The ledger beyond its registers (R162 to R166), in units of 2^-16 µJ: levels, pool, what SPILL, VITAL_DEBT and ENERGY
have not yet counted whole, and the groves whose power monitor has failed (R188). -/
structure Ledger where
  level : List Int := List.replicate 16 0
  pool : Nat := 0
  spill : Nat := 0
  debt : Nat := 0
  energy : List Nat := List.replicate 16 0
  monFault : Nat := 0
  /-- CAP, the shares and PLIM in force since the last update (R183). -/
  cap : Nat := 0
  shares : List Nat := List.replicate 16 0
  plim : Nat := 0
  deriving DecidableEq, Repr

/-- A temperature sensor (R169, R171, R189): its last code in 0.125 °C, none before the first measurement, base tick since which it has not
changed while its unit switches state, and base tick since which it has been valid and below T_THR − HYST. -/
structure Sensor where
  code : Option Int := none
  still : Nat := 0
  cool : Option Nat := none
  deriving DecidableEq, Repr

/-- THERM beyond its registers: sensors, base tick of the coolant value, seconds that each tachometer has missed TACH_MIN,
the message counter, base tick of the last cooling request, and whether URGENCY has changed since (R176 to R178). -/
structure Therm where
  sensors : List Sensor := List.replicate 24 {}
  coolAt : Nat := 0
  pumpMiss : Nat := 0
  fanMiss : Nat := 0
  msg : Nat := 0
  reqAt : Nat := 0
  due : Bool := false
  /-- Duties driven on PUMP_PWM and FAN_PWM (R177, R192). -/
  pump : Nat := 0
  fan : Nat := 0
  /-- Units whose step-up waits for the ramp limiter (R185). -/
  up : Nat := 0
  deriving DecidableEq, Repr

/-- A power domain (R153, R156): base tick at which it last had pending work, the state an exit in progress leads to, and base
tick since which its ramp has been limited. -/
structure Domain where
  busyAt : Nat := 0
  /-- Power drawn now, and what of it is warm load and taper, in 1/4000 mW; base tick up to which its energy is given to jobs; and both
  since a base tick, newest first, over the last 1 ms (R163, R166, R175, R193). -/
  pw : Nat := 0
  extra : Nat := 0
  pwAt : Nat := 0
  hist : List (Nat × Nat × Nat) := []
  /-- Keep-warm holds the grove (R174). -/
  warm : Bool := false
  /-- STEP at the last evaluation, base tick of the last start from idle, and the share of the MAC issue rate, in 1/64 (R175, R188). -/
  step : Nat := 16
  workAt : Nat := 0
  issue : Nat := 64
  exit : Option Nat := none
  ramp : Option Nat := none
  /-- RAMP_SAT has been raised for the present limitation. -/
  sat : Bool := false
  /-- Of a grove: CLEAR_GO asked for the clear that runs (R332). -/
  asked : Bool := false
  deriving DecidableEq, Repr

/-- A line buffer of a core (R287): row bytes, rows, image rows, RROW, and the first and newest rows loaded. -/
structure LineBuf where
  en : Bool := false
  rowBytes : Nat := 0
  rows : Nat := 1
  imgRows : Nat := 0
  rrow : Int := 0
  span : Option (Int × Int) := none
  deriving DecidableEq, Repr

/-- An accumulator bank with its checks (R279, R282): 4096 words by m then n ([] all zero), row and column checks, the corner
and the magnitudes; words and float checks are bit patterns, integer checks exact. -/
structure Bank where
  c : List Nat := []
  row : List Int := []
  col : List Int := []
  corner : Int := 0
  rowmag : List Int := []
  colmag : List Int := []
  float : Bool := false
  deriving DecidableEq, Repr

/-- A core beyond its registers (R278, R414, R418): banks, passing DRAINs since the last comparator probe, whether it passed a
self-test started in its present service state, and the service state to return to from TESTING with the base tick at which
the test started. -/
structure CoreSt where
  banks : List Bank := [{}, {}]
  drains : Nat := 0
  passed : Bool := false
  testing : Option (Nat × Nat) := none
  /-- Base tick up to which its cycles are counted, and the fraction of a cycle over, in 1/400 (R299, R306). -/
  cycAt : Nat := 0
  cycFrac : Nat := 0
  deriving DecidableEq, Repr

/-- A LOAD or STORE in flight (R289, R290): list offset, the command, its address, its line-buffer reference, bytes read by a LOAD
at issue, the ticket tag of a STORE, and the base tick of its first ticket request. -/
structure Xfer where
  off : Nat
  cmd : Nat
  load : Bool
  addr : Nat
  lb : Option (Nat × Int) := none
  data : List Byte := []
  tag : Option Nat := none
  ask : Option Nat := none
  /-- Its writes have left the device and wait for their acknowledgements. -/
  sent : Bool := false
  deriving DecidableEq, Repr

/-- A rank's state as it stood at its last TILE command (R291, R296): offset after it, the command, line buffers, copies of the
live banks, IMCFG, base tick, STOREs issued since, and how many of them a replay does not issue (R412). -/
structure Tile where
  off : Nat := 0
  cmd : Nat := 0
  lbs : List LineBuf := []
  banks : List (Option Bank) := []
  im : Option Nat := none
  start : Nat := 0
  stores : Nat := 0
  skip : Nat := 0
  deriving DecidableEq, Repr

/-- A replay under way (R412): FIRST, tests failed, offset of the failing DRAIN, base tick of the failure, lowest row and column,
whether transfers in flight are awaited, and a forced flip (PT_FORCE_CFG, PT_FORCE_ADDR). -/
structure Replay where
  first : Bank
  tests : Nat
  off : Nat
  start : Nat
  row : Nat
  col : Nat
  wait : Bool
  forced : Option (Nat × Nat) := none
  deriving DecidableEq, Repr

/-- Where a rank stands: queued, running, waiting at a BARRIER, saving, saved, restoring, ended, or stopped. -/
inductive RankSt where
  | queued
  | run
  | barrier
  | saving
  | saved
  | restoring
  | done
  | stopped
  deriving DecidableEq, Repr

/-- A rank of a job (R288 to R296). -/
structure Rank where
  core : Nat
  st : RankSt := .queued
  /-- First command of the list not yet issued, and those after it that have been. -/
  off : Nat := 0
  ahead : List Nat := []
  /-- Commands fetched from offset `base` on. -/
  base : Nat := 0
  code : List Nat := []
  args : List Nat := []
  lbs : List LineBuf := List.replicate 8 {}
  im : Option Nat := none
  tile : Tile := {}
  xfers : List Xfer := []
  /-- Tickets of completed STOREs, by office and tag, held until TILE, BARRIER or END (R320). -/
  tickets : List (Nat × Nat) := []
  replay : Option Replay := none
  /-- Tile bytes saved, banks of a saved context and the core whose slot holds it (R295). -/
  live : Nat := 0
  slot : Nat := 0
  ctx : List (Option Bank) := []
  /-- The bytes of its slot that hold the banks and the core state (R295). -/
  image : List Byte := []
  /-- ID of the BARRIER it has reached (R294). -/
  bar : Option Nat := none
  /-- The rank has issued a command; it pre-empted another when placed at `placed`. -/
  begun : Bool := false
  /-- A command that it came to waits for a line-buffer row, a token or a ticket (R299, R320). -/
  waits : Bool := false
  placed : Nat := 0
  urgent : Bool := false
  deriving DecidableEq, Repr

/-- Steps of a job after its fetch (R361): queued, debited and not placed, placed, ended and waiting for its record. -/
inductive JobPh where
  | queued
  | passed
  | placed
  | ended
  deriving DecidableEq, Repr

/-- A job fetched and not completed (R245, R361). Times are base ticks, but TIME in ns for `tdl`. -/
structure Job where
  id : Nat
  ring : Nat
  sq : Nat
  part : Nat
  ctx : Nat
  /-- WORLD as submitted, and the world its accesses carry (R251). -/
  world : Bool
  heart : Bool
  tag : Nat
  prio : Nat
  clamped : Bool := false
  eclass : Nat
  dlMode : Nat
  dlDom : Nat
  checked : Bool
  irq : Bool
  fence : Bool
  stream : Nat
  ncores : Nat
  cmdAddr : Nat
  cmdLen : Nat
  argAddr : Nat
  est : Nat
  fetched : Nat
  target : Nat := 0
  tdl : Nat := 0
  ph : JobPh := .queued
  debit : Nat := 0
  /-- What of the debit came from the level and from the pool (R186). -/
  paid : Nat × Nat := (0, 0)
  /-- Energy measured so far, in 1/48,000 mW·ticks (R166). -/
  meter : Nat := 0
  cause : Nat := 0
  waited : Bool := false
  coreWait : Bool := false
  slowed : Bool := false
  held : Bool := false
  replayed : Bool := false
  preempts : Nat := 0
  start : Option Nat := none
  run : Nat := 0
  since : Option Nat := none
  energy : Nat := 0
  /-- A disposition that stops it, with its CAUSE. -/
  stop : Option (Nat × Nat) := none
  /-- Base tick and rank of the fault whose code stands (R303). -/
  fault : Option (Nat × Nat) := none
  ranks : List Rank := []
  deriving DecidableEq, Repr

/-- A ring beyond its registers (R241, R243): credits with TIME and the published angles at their arrival, and the PHASE of the
next record. -/
structure RingSt where
  credits : List (Nat × List Nat) := []
  phase : Bool := true
  /-- WORLD.OWNER of the page has changed since CTL.EN was last set (R269). -/
  moved : Bool := false
  deriving DecidableEq, Repr

/-- An accounting entry (R380). -/
structure Acct where
  jobs : Nat := 0
  wait : Nat := 0
  preempt : Nat := 0
  deriving DecidableEq, Repr

/-- A resize under way (R258 to R264): armed partitions, the page of GO, its base tick, groves that remain to be cleared once
quiesce has ended, whether it has, and whether it ended early (R261). -/
structure Resize where
  armed : List Nat
  page : Nat
  start : Nat
  todo : List Nat := []
  clear : Bool := false
  early : Bool := false
  deriving DecidableEq, Repr

/-- A queue transfer of a ferry (R347). -/
structure FerryOp where
  src : Nat
  dst : Nat
  len : Nat
  tkt : Bool
  irq : Bool
  bulk : Bool
  db : Bool
  ring : Nat
  deriving DecidableEq, Repr

/-- A ferry's queue (R347, R348): transfers with the running one first, whether it runs, its ticket and first request, whether it
has failed, and bytes not yet counted in BYTES. -/
structure Ferry where
  queue : List FerryOp := []
  busy : Bool := false
  tag : Option Nat := none
  ask : Option Nat := none
  failed : Bool := false
  bytes : Nat := 0
  /-- Bytes of the running transfer copied so far. -/
  pos : Nat := 0
  /-- The writes of the running transfer have left the device and wait for their acknowledgements. -/
  sent : Bool := false
  deriving DecidableEq, Repr

/-- A fast-digitiser channel beyond its registers (R468 to R471, R485): start of a foreground and of a slice calibration, base
ticks of the last swap, of the last input change and of the last sample beyond full scale, a swap counted as deferred, samples
since the release, the last sample, and the numbers of the last sample converted as OFF and of the sample of the last swap. -/
structure Fdig where
  fg : Option Nat := none
  bg : Option Nat := none
  lastSwap : Nat := 0
  settle : Nat := 0
  ovld : Nat := 0
  deferred : Bool := false
  n : Nat := 0
  last : Int := 0
  off : Option Nat := none
  swapN : Option Nat := none
  deriving DecidableEq, Repr

/-- A trigger (R494, R498): its sample number, position × 256, whether interpolated or forced by AUTO, the TYPE recorded, and
the alarm's angle of an ANGLE trigger. -/
structure Fire where
  at' : Nat
  pos : Nat
  interp : Bool := false
  auto : Bool := false
  type : Nat
  ang : Option Nat := none
  deriving DecidableEq, Repr

/-- Holdoff (R500): trigger sample number, triggers counted, angle of the bus and direction of travel at the trigger. -/
structure Holdoff where
  from' : Nat
  n : Nat := 0
  ang : Int := 0
  dir : Int := 1
  deriving DecidableEq, Repr

/-- A trigger unit (R494 to R501): a decided trigger not yet taken, an event that arrived since the last sample, sides of the
hysteresis bands seen (below A, above A, below B, above B), sample numbers of the last rising and falling crossing of A, runts
begun, samples the pattern has matched, whether LEVEL held, holdoff, and since when it is READY without a trigger. -/
structure TrigSt where
  /-- Position and TIME of the last accepted trigger, shown from the next read of POS_LO on. -/
  pos : Nat := 0
  ttime : Nat := 0
  fire : Option Fire := none
  come : Option Fire := none
  below : List Bool := [false, false]
  above : List Bool := [false, false]
  rise : Option Nat := none
  fall : Option Nat := none
  runtUp : Bool := false
  runtDn : Bool := false
  pat : Option Nat := none
  was : Bool := false
  hold : Option Holdoff := none
  ready : Nat := 0
  deriving DecidableEq, Repr

/-- Where a program stands (R504 to R508): not active, filling the pre-trigger part, ready, capturing, in the 32 samples before
the next berth or acquisition, or waiting for a free berth. -/
inductive ProgPh where
  | off
  | fill
  | ready
  | capture
  | gap
  | wait
  deriving DecidableEq, Repr

/-- The samples of one decimation interval (R505). -/
structure Interval where
  cnt : Nat := 0
  first : Int := 0
  lo : Int := 0
  hi : Int := 0
  sum : Int := 0
  deriving DecidableEq, Repr

/-- What a header records of its first acquisition (R507). -/
structure HeadRec where
  fire : Fire
  time : Nat
  ang : Nat
  seq : Nat
  deriving DecidableEq, Repr

/-- A berth program beyond its registers (R502 to R511): phase, first sample of the berth or acquisition, values written in it,
the interval under way, its trigger and header, acquisitions added, pre-trigger samples newest first, last clipped sample, FLAGS
gathered, STREAM copies done and the start of one under way, and whether NOBERTH has been raised. -/
structure Prog where
  ph : ProgPh := .off
  start : Nat := 0
  k : Nat := 0
  iv : Interval := {}
  fire : Option Fire := none
  head : Option HeadRec := none
  acqs : Nat := 0
  hist : List Int := []
  clip : Option Nat := none
  flags : Nat := 0
  copied : Nat := 0
  copying : Option Nat := none
  noberth : Bool := false
  deriving DecidableEq, Repr

/-- A value that moves linearly from `v0` to `v1` over `dur` base ticks from `at'`. -/
structure Ramp where
  v0 : Rat := 1
  v1 : Rat := 1
  at' : Nat := 0
  dur : Nat := 0
  deriving DecidableEq, Repr

/-- A segment that plays or waits to (R530, R531): its number, repetitions (0 without end), base tick of sample 0, its angle once
known, the switch line it waits for, CUT and XF. -/
structure Play where
  seg : Nat
  rep : Nat
  start : Rat := 0
  org : Option Rat := none
  line : Option Nat := none
  cut : Bool := false
  xf : Nat := 0
  deriving DecidableEq, Repr

/-- A thread beyond its registers (R527 to R531): loop stack (address, passes left) and call stack, CUR and NEXT, the segment it
fades out of, its last samples before CUR newest first, gain, fade of a stop, fade of a stopped angle domain, the end of a
timed WAIT or the line waited for, the VEC under way (data, timing set, cycles not begun) and the next one. -/
structure Thread where
  loops : List (Nat × Nat) := []
  calls : List Nat := []
  cur : Option Play := none
  next : Option Play := none
  old : Option Play := none
  past : List Int := []
  gain : Ramp := {}
  stop : Ramp := {}
  fade : Ramp := {}
  until' : Nat := 0
  line : Nat := 0
  vec : Option (Nat × Nat × Nat) := none
  vecNext : Option (Nat × Nat × Nat) := none
  vecAt : Nat := 0
  deriving DecidableEq, Repr

/-- Where a channel's pins stand (R519): static low, in PSEN_LEAD, switching, to stop at the next cycle boundary, in PSEN_LAG. -/
inductive ChanPh where
  | off
  | lead
  | on
  | stop
  | lag
  deriving DecidableEq, Repr

/-- A channel beyond its registers (R519 to R526): phase and its base tick, PSEN, the timing set of its cycle, whether a ramp
follows PSEN_LEAD, level, gain and ducking ramps, under-run and angle fades, ramp of a core fault (R581), ALE samples newest first by
instant, or by number in ANGLE mode (`none` not delivered), its output code and the rise and fall of each leg in the cycle, in steps. -/
structure Chan where
  ph : ChanPh := .off
  at' : Nat := 0
  psen : Bool := false
  tset : Nat := 4
  rises : Bool := false
  first : Bool := false
  level : Ramp := {}
  aleGain : Ramp := {}
  thrGain : Ramp := {}
  duck : Ramp := {}
  under : Ramp := {}
  fade : Ramp := {}
  cut : Ramp := {}
  ale : List (Nat × Option Int) := []
  x : Int := 0
  legs : List (Nat × Nat) := [(0, 0), (0, 0)]
  deriving DecidableEq, Repr

/-- A chime lane (R535, R552): its segment, the channels it drives, and its last samples. -/
structure Lane where
  play : Option Play := none
  mask : Nat := 0
  due : Option Int := none
  fade : Ramp := {}
  deriving DecidableEq, Repr

/-- A host stream (R536, R537): FIFO, factor of its frames, last frame, and whether it is ended by EOS. -/
structure Stream where
  fifo : List Byte := []
  level : Ramp := {}
  frame : List Int := []
  deriving DecidableEq, Repr

/-- A load of the load engine (R538): source, MEM_ADDR of the destination, bytes and world. -/
structure Load where
  src : Nat
  dst : Nat
  len : Nat
  heart : Bool
  deriving DecidableEq, Repr

/-- WSEQ_00 beyond its registers: threads, channels, lanes, streams, pulses on their way to a line (line, base tick), the low word
of an instruction written by the data port (PMEM offset, value), and a load under way. -/
structure Wseq where
  thrs : List Thread := List.replicate 4 {}
  chans : List Chan := List.replicate 16 {}
  lanes : List Lane := List.replicate 2 {}
  strms : List Stream := List.replicate 4 {}
  lines : List (Nat × Nat) := []
  low : Option (Nat × Nat) := none
  load : Option Load := none
  deriving DecidableEq, Repr

/-- Detectors of a channel (R545, R546, R549): consecutive over samples with their peak, SPK_V sums of whole milliseconds newest first
and of the present one (sum, samples, peak), and the base tick of the last declaration. -/
structure ProtCh where
  run : Nat := 0
  peak : Nat := 0
  bins : List (Int × Nat × Nat) := []
  bin : Int × Nat × Nat := (0, 0, 0)
  since : Nat := 0
  deriving DecidableEq, Repr

/-- PROT_00 beyond its registers: detectors, the fault log (entry, TIME), P4 entry past step 3 of R159, and the channels of each lane's
mask that yield none (R553). -/
structure Prot where
  chs : List ProtCh := List.replicate 16 {}
  log : List (Nat × Nat) := []
  park : Bool := false
  lost : List Nat := [0, 0]
  deriving DecidableEq, Repr

/-- A sense group beyond its registers (R474 to R479): running table, one committed for the next frame, slots converted in this frame,
next general input, gains in effect, incoming converter of an overlap frame and whether a pair differed, and an urgent request
(input, base tick). -/
structure SenseGroup where
  table : List Nat := [0, 4, 1, 5, 12, 2, 6, 3, 7, 12]
  pend : Option (List Nat) := none
  slot : Nat := 0
  rr : Nat := 0
  gain : Nat := 0
  inc : Option Nat := none
  differs : Bool := false
  urg : Option (Nat × Nat) := none
  deriving DecidableEq, Repr

/-- The sense bank beyond its registers: groups, the next one to be swapped, base ticks of the last swap and of the start of the spare's
calibration, a mismatch to retry, a swap due for a group, an outgoing converter that has failed, and an urgent request. -/
structure Sense where
  groups : List SenseGroup := List.replicate 4 {}
  turn : Nat := 0
  lastSwap : Nat := 0
  cal : Option Nat := none
  retry : Bool := false
  due : Option Nat := none
  dying : Bool := false
  urg : Option (Nat × Nat) := none
  deriving DecidableEq, Repr

/-- A transfer of an export queue (R573). -/
structure Export where
  src : Nat
  dst : Nat
  len : Nat
  tkt : Bool
  irq : Bool
  db : Bool
  ring : Nat
  deriving DecidableEq, Repr

/-- A loop core beyond its registers (R566, R574, R577, R582): ticks whose wake is to come (index, base tick), the newest wake not
completed, export queue with the running transfer first, its ticket and first request, base tick of the landing of a set that
waits for its switch, and whether it has completed a wake. -/
structure Ale where
  wakes : List (Nat × Nat) := []
  opened : Option (Nat × Nat) := none
  queue : List Export := []
  tag : Option Nat := none
  ask : Option Nat := none
  cset : Option Nat := none
  woke : Bool := false
  /-- Jobs whose tickets landed in window 14 since it was armed (R33). -/
  made : List Nat := []
  /-- Jobs that wrote the set that waits and have not completed (R33). -/
  await : List Nat := []
  /-- The writes of the running export have left the device and wait for their acknowledgements. -/
  sent : Bool := false
  deriving DecidableEq, Repr

/-- An audio port beyond its registers (R568, R581): base ticks of the last frame start and of the loss of frame starts. -/
structure Aport where
  start : Nat := 0
  lost : Option Nat := none
  deriving DecidableEq, Repr

/-- A tick domain (R565, R581): base tick of the newest tick and measured period. -/
structure TickDom where
  last : Nat := 0
  period : Nat := 0
  deriving DecidableEq, Repr

/-- A camera frame captured or waiting for its record (R593 to R595): number, slot, start and end on the local TIME, frame-number field,
drops before it, lines kept and seen, FLAGS, whether a write has failed, chroma of the even line, and writes not yet made. -/
structure CamFrame where
  no : Nat
  slot : Nat
  sof : Nat
  eof : Nat := 0
  csi : Nat
  drops : Nat
  lines : Nat := 0
  seen : Nat := 0
  flags : Nat := 0
  werr : Bool := false
  chroma : List Nat := []
  buf : List (Nat × List Byte) := []
  deriving DecidableEq, Repr

/-- A camera stream beyond its registers: a frame is under way, the frame if it is captured, ended frames oldest first, and frames dropped
since the last record. -/
structure CamStr where
  inFrame : Bool := false
  cur : Option CamFrame := none
  ended : List CamFrame := []
  drops : Nat := 0
  deriving DecidableEq, Repr

/-- A camera port: streams, and base tick of its last FS. -/
structure Cam where
  strs : List CamStr := List.replicate 4 {}
  lastFs : Nat := 0
  deriving DecidableEq, Repr

/-- The fetch FIFO of a layer plane (R600): the next position it fetches, and the bytes it holds by position. -/
structure Fifo where
  next : Nat := 0
  held : List (Nat × Byte) := []
  deriving DecidableEq, Repr

/-- A display pipeline beyond its registers (R598 to R605): layer registers in use, base tick of the frame's first active line, FIFOs by
layer and plane, base ticks of FLIP.GO and of the last link failure or
training, link training under way, a flip taken and not yet scanned, TIME bits 63:32 of the last flip, the last line and layers counted
as under-run, and an AUX transaction (AUX_CMD, data). -/
structure Vout where
  use : List (List Nat) := [[], []]
  frameAt : Nat := 0
  fifos : List Fifo := [{}, {}, {}, {}]
  goAt : Nat := 0
  failAt : Nat := 0
  training : Bool := false
  taken : Bool := false
  flipHi : Nat := 0
  urLine : Option (Nat × Nat) := none
  urSeen : List Nat := []
  aux : Option (Nat × List Byte) := none
  deriving DecidableEq, Repr

/-- A frame in the gateway (R618 to R623): Ethernet from the destination address on without FCS, or a CAN data field with its KEY and the
header fields of CAN XL carried unchanged; flow (none for a frame of no flow), class, wake frame, ingress port, TIME at the end of
reception, base tick of its queueing, to be inspected, and EGRESS and XLATE of the flow. -/
structure GwFrame where
  eth : Bool
  key : Nat := 0
  xl : Nat := 0
  data : List Byte
  flow : Option Nat := none
  cls : Nat := 3
  wake : Bool := false
  inPort : Nat
  rx : Nat
  at' : Nat
  insp : Bool := false
  egress : Nat := 0
  xlate : Nat := 0
  deriving DecidableEq, Repr

/-- A token bucket (R621): bytes and base tick of its last filling. -/
structure Bucket where
  tok : Rat := 0
  last : Nat := 0
  deriving DecidableEq, Repr

/-- Gate control of an Ethernet port (R615): operational list (gates, interval) with its cycle, start of the cycle and of the entry and
index of the entry, and a committed list with its cycle and first instant. Times are TIME in ns. -/
structure Qbv where
  list : List (Nat × Nat) := []
  cycle : Nat := 1
  start : Nat := 0
  entry : Nat := 0
  idx : Nat := 0
  pend : Option (List (Nat × Nat) × Nat × Nat) := none
  deriving DecidableEq, Repr

/-- The gateway beyond its registers and tables: egress buffers of ports 0 to 21 in arrival order, the frame shown to the island and the
data bytes read of it, buckets of ports and flow meters, table positions with an uncorrectable error, words written and not yet in force,
data of a frame being originated, sequence numbers of the profiles, and gate control. -/
structure Gw where
  bufs : List (List GwFrame) := List.replicate 22 []
  head : Option GwFrame := none
  pos : Nat := 0
  ports : List Bucket := List.replicate 20 {}
  meters : List Bucket := List.replicate 63 {}
  bad : List Nat := []
  stage : List (Nat × Nat) := []
  tx : List Byte := []
  seq : List Nat := [0, 0, 0, 0]
  qbv : List Qbv := List.replicate 4 {}
  deriving DecidableEq, Repr

/-- The cascade link (R653 to R657): base tick of the present role, master: next SEQ, instant of the last frame and frames since the last
marker of each slot (16 none heard); member: SEQ and base tick of the last frame taken, frames taken, a marker due for a frame, and
whether the FDIG sample number has been set since the relock. -/
structure Casc where
  since : Nat := 0
  seq : Nat := 0
  lastTx : Nat := 0
  miss : List Nat := [16, 16, 16]
  lastSeq : Option Nat := none
  lastRx : Nat := 0
  taken : Nat := 0
  echo : Option Nat := none
  fdSet : Bool := false
  /-- The master was lost: the domains follow again by a slew (R657, R662). -/
  lost : Bool := false
  deriving DecidableEq, Repr


/-- The state of the block. `regs` and `mem` are in canonical form: keys strictly rising, no entry at its default. -/
structure State where
  /-- Every register of every page (R43), by physical address. -/
  regs : List (Nat × Word) := []
  /-- Every memory of the physical map (R39), by physical address. -/
  mem : List Host.Cell := []
  /-- Memories with no physical address, each at a base of the model's own (log entry 4). -/
  inner : List Host.Cell := []
  clk : Clock := {}
  resp : Resp := {}
  out : List Out := []
  fuse : Fuses := {}
  boot : Boot := {}
  injects : List Inject := []
  shakers : List Shaker := []
  held : List Held := []
  /-- Ticket offices: 0 to 15 of the grove stores, 16 to 23 of the ALE TCMs (R315, R321). -/
  offices : List Office := List.replicate 24 {}
  /-- Memory operations of each grove store, oldest first (R309). -/
  mops : List (List MemOp) := List.replicate 16 []
  /-- A purge of a grove's office for a resize is due: the grove is leaving (R316, R327). -/
  leaving : List Nat := []
  dmcs : List Dmc := List.replicate 4 {}
  grid : Grid := {}
  /-- Cache lines kept poisoned by a fill, by line address (R456). -/
  poison : List Nat := []
  fab : Fab := {}
  ang : Ang := {}
  harts : List Hart := List.replicate 12 {}
  dbg : Dbg := {}
  /-- Key material of the key slots (R209). -/
  keys : List (List Byte) := List.replicate 16 []
  park : Park := {}
  ledger : Ledger := {}
  therm : Therm := {}
  domains : List Domain := List.replicate 27 {}
  /-- CORE_00 to CORE_63. -/
  cores : List CoreSt := List.replicate 64 {}
  /-- Jobs fetched and not completed, oldest first, and the number the next one takes. -/
  jobs : List Job := []
  jobNo : Nat := 0
  rings : List RingSt := List.replicate 64 {}
  /-- The ring after the last one fetched from (R362). -/
  ringTurn : Nat := 0
  /-- Accounting entries that are not zero, by CTX_ID (R380). -/
  acct : List (Nat × Acct) := []
  /-- The inference log (R429): entry and TIME. -/
  infLog : List (Nat × Nat) := []
  /-- Base tick from which each ring monitor times (R419). -/
  rmon : List Nat := [0, 0, 0, 0]
  resize : Option Resize := none
  ferries : List Ferry := List.replicate 32 {}
  fdigs : List Fdig := List.replicate 2 {}
  /-- Slices 0 to 17 of both channels, those longest in their present role first (R469). -/
  slices : List Nat := List.range 18
  trigs : List TrigSt := List.replicate 2 {}
  progs : List Prog := List.replicate 2 {}
  /-- Levels of EXT_TRIG_00 and EXT_TRIG_01. -/
  extTrig : List Bool := [false, false]
  wseq : Wseq := {}
  prot : Prot := {}
  sns : Sense := {}
  ales : List Ale := List.replicate 8 {}
  aports : List Aport := List.replicate 9 {}
  ticks : List TickDom := List.replicate 4 {}
  cams : List Cam := List.replicate 4 {}
  vouts : List Vout := List.replicate 2 {}
  /-- Base tick and TIME in ns of the last alignment of the local copies of CAM_00 to CAM_03, VOUT_00 and VOUT_01 (R587). -/
  locals : List (Nat × Nat) := List.replicate 6 (0, 0)
  gw : Gw := {}
  casc : Casc := {}
  /-- Index of the next free value (model's own; log entry 3). -/
  free : Nat := 0
  /-- Commands waiting, first in first out. -/
  pending : List Instr := []
  deriving DecidableEq, Repr

/-- The machine right after reset: power is applied and PORESET_N is held low (R111, R116, R127), so every register holds
its reset value (R15, R72), no stage has begun, every memory reads as log entry 4 says and no command waits. -/
def State.reset : State := {}

end Sys2Proof.Machine
end

