-- ==== Sys2Proof/Machine/Ops.lean ====
section
/-! DEFINITION. The named operations over registers and memories: sparse maps in canonical form, reset values of
registers (R15, R72), fields of a register, and the bytes of a memory. -/

namespace Sys2Proof.Machine

/-! ## Sparse maps -/

/-- The value at a key: the listed one, else the default of the key. -/
def sget {α : Type} (d : Nat → α) : List (Nat × α) → Nat → α
  | [], k => d k
  | (k', v) :: t, k => if k' = k then v else sget d t k

/-- Insert in key order, replacing an equal key. -/
def sins {α : Type} (k : Nat) (v : α) : List (Nat × α) → List (Nat × α)
  | [] => [(k, v)]
  | (k', v') :: t =>
    if k < k' then (k, v) :: (k', v') :: t
    else if k = k' then (k, v) :: t
    else (k', v') :: sins k v t

/-- Remove a key. -/
def sdel {α : Type} (k : Nat) (m : List (Nat × α)) : List (Nat × α) := m.filter fun e => decide (e.1 ≠ k)

/-- Write a key, keeping the canonical form: a value equal to the default is not listed. -/
def sput {α : Type} [DecidableEq α] (d : Nat → α) (m : List (Nat × α)) (k : Nat) (v : α) : List (Nat × α) :=
  if v = d k then sdel k m else sins k v m

/-- Canonical form: keys strictly rising and no entry at its default. -/
def swf {α : Type} [DecidableEq α] (d : Nat → α) : List (Nat × α) → Bool
  | [] => true
  | [(k, v)] => decide (v ≠ d k)
  | (k, v) :: (k', v') :: t => decide (k < k') && decide (v ≠ d k) && swf d ((k', v') :: t)

/-! ## Bit fields (R11) -/

/-- Field `hi:lo` of a word. -/
def fld (w hi lo : Nat) : Nat := w / 2 ^ lo % 2 ^ (hi + 1 - lo)

/-- The word with field `hi:lo` replaced. -/
def putFld (w hi lo v : Nat) : Nat := w - 2 ^ lo * fld w hi lo + 2 ^ lo * (v % 2 ^ (hi + 1 - lo))

/-- The value of a `w`-bit two's-complement code. -/
def sgn (w v : Nat) : Int := if v % 2 ^ w < 2 ^ (w - 1) then (v % 2 ^ w : Nat) else (v % 2 ^ w : Nat) - (2 ^ w : Nat)

/-- The `w`-bit two's-complement code of a value. -/
def enc (w : Nat) (v : Int) : Nat := (v % (2 ^ w : Nat)).toNat

/-- A value saturated to the range of a signed `w`-bit code. -/
def clampS (w : Nat) (v : Int) : Int :=
  if v < -(2 ^ (w - 1) : Nat) then -(2 ^ (w - 1) : Nat) else if v ≥ (2 ^ (w - 1) : Nat) then (2 ^ (w - 1) : Nat) - 1 else v

/-! ## Reset values (R15, R44, R57, R71, R72) -/

def regBase : Nat := 0xF8000000
def regEnd : Nat := 0xFC000000

/-- R44: pages marked "H fixed", SYS_00 (R45) and the XMB pages (R200). -/
def ownerFixed (c : Nat) : Bool := [0x00, 0x02, 0x03, 0x04, 0x05, 0x06, 0x07, 0x08, 0x09, 0x12, 0x18, 0x24].contains c

/-- R44: pages owned by heartwood at reset. -/
def ownerReset (c : Nat) : Bool :=
  ownerFixed c || [0x01, 0x0A, 0x0C, 0x10, 0x13, 0x1E, 0x1F, 0x20, 0x21, 0x22, 0x23].contains c

/-- R672: the blocks whose pages have a perturbation window, with their PT_CAP kinds (D 1, B 2, S 4, J 8, E 16, C 32,
T 64, P 128). -/
def ptCap (c : Nat) : Nat :=
  match c with
  | 0x01 => 8
  | 0x0C => 1 + 4
  | 0x0B => 1
  | 0x0D => 16
  | 0x0E => 4 + 16 + 32
  | 0x0F => 1 + 2
  | 0x10 => 2 + 4 + 16
  | 0x11 => 1 + 64
  | 0x13 => 1 + 2 + 16
  | 0x16 => 16
  | 0x18 => 128
  | 0x19 => 16
  | 0x1A => 4 + 16 + 64
  | 0x1C => 2
  | 0x1D => 2
  | 0x20 => 1 + 16
  | 0x21 => 1 + 2
  | _ => 0

/-- The row and index of an offset in a list of rows. -/
def findRow : List RegRow → Nat → Option (RegRow × Nat)
  | [], _ => none
  | r :: t, off =>
    if r.off ≤ off ∧ (off - r.off) % r.stride = 0 ∧ (off - r.off) / r.stride < r.cnt then
      some (r, (off - r.off) / r.stride)
    else findRow t off

/-- Reset value of a row's register: one value for all indices, or one per index. -/
def rowReset (r : RegRow) (n : Nat) : Nat :=
  match r.rst with
  | [v] => v
  | l => l.getD n 0

/-- The rows of a page: its block registers and, where it has one, its window (R684). -/
def pageRows (c i : Nat) : List RegRow := if ptCap c = 0 then blockRows c i else blockRows c i ++ rowsWINDOW

/-- R72: PAGE_CAP. Every populated page drives an interrupt source (R44); no chapter defines BLOCK_CAP. -/
def pageCap (c i : Nat) : Nat :=
  (if ptCap c = 0 then 0 else 2 ^ 31)
  + (if (blockRows c i).any fun r => r.ret ≠ 0 then 2 ^ 30 else 0)
  + (if (blockRows c i).any fun r => r.rwl ≠ 0 then 2 ^ 29 else 0) + 2 ^ 28

/-- Code, instance and offset of a register address (R43). -/
def regCode (a : Nat) : Nat := a / 0x100000 % 64
def regInst (a : Nat) : Nat := a % 0x100000 / 0x1000
def regOff (a : Nat) : Nat := a % 0x1000

/-- Reset value of a present page's register, by offset. -/
def pageReset (c i off : Nat) : Nat :=
  if off = Hdr.PAGE_ID then 2 ^ 31 + 0x10000 + i * 0x100 + c
  else if off = Hdr.PAGE_VER then 0x100
  else if off = Hdr.PAGE_CAP then pageCap c i
  else if off = Hdr.WORLD then (if ownerFixed c then 2 ^ 31 + 1 else if ownerReset c then 1 else 0)
  else if off = 0xF04 then ptCap c
  else match findRow (pageRows c i) off with
    | some (r, n) => rowReset r n
    | none => 0

/-- Reset value of the register at a physical address. -/
def resetVal (a : Nat) : Nat :=
  if a < regBase ∨ regEnd ≤ a then 0
  else if instCount (regCode a) ≤ regInst a then 0
  else pageReset (regCode a) (regInst a) (regOff a)

/-- Reset value as a register. -/
def regDefault (a : Nat) : Word := BitVec.ofNat 32 (resetVal a)

/-! ## Registers -/

def State.reg (s : State) (a : Nat) : Word := sget regDefault s.regs a
def State.setReg (s : State) (a : Nat) (v : Word) : State := { s with regs := sput regDefault s.regs a v }

/-- The value of a register. -/
def State.rd (s : State) (a : Nat) : Nat := (s.reg a).toNat
/-- Set a register to a value modulo 2^32. -/
def State.wr (s : State) (a v : Nat) : State := s.setReg a (BitVec.ofNat 32 v)
/-- Field `hi:lo` of a register. -/
def State.getF (s : State) (a hi lo : Nat) : Nat := fld (s.rd a) hi lo
/-- Set field `hi:lo` of a register. -/
def State.putF (s : State) (a hi lo v : Nat) : State := s.wr a (putFld (s.rd a) hi lo v)
/-- One bit of a register. -/
def State.bit (s : State) (a i : Nat) : Bool := s.getF a i i == 1
/-- Set one bit of a register. -/
def State.putBit (s : State) (a i : Nat) (b : Bool) : State := s.putF a i i b.toNat
/-- Add to a field that saturates (R61). -/
def State.addSat (s : State) (a hi lo n : Nat) : State := s.putF a hi lo (min (s.getF a hi lo + n) (2 ^ (hi + 1 - lo) - 1))
/-- Increment a saturating field. -/
def State.incSat (s : State) (a hi lo : Nat) : State := s.addSat a hi lo 1
/-- Add to a wrapping field. -/
def State.addWrap (s : State) (a hi lo n : Nat) : State := s.putF a hi lo (s.getF a hi lo + n)
/-- Increment a wrapping field. -/
def State.incWrap (s : State) (a hi lo : Nat) : State := s.addWrap a hi lo 1
/-- Increment a saturating 32-bit counter. -/
def State.cnt (s : State) (a : Nat) : State := s.incSat a 31 0
/-- A signed register value. -/
def State.rdS (s : State) (a : Nat) : Int := sgn 32 (s.rd a)
/-- Set a register to a signed value, saturating. -/
def State.wrS (s : State) (a : Nat) (v : Int) : State := s.wr a (enc 32 (clampS 32 v))

/-! ## Memories (little-endian, R11) -/

/-- What a byte that nothing has written reads as (log entry 4). -/
def memDefault : Nat → Byte := fun _ => 0

def State.byte (s : State) (a : Nat) : Byte := sget memDefault s.mem a
def State.setByte (s : State) (a : Nat) (v : Byte) : State := { s with mem := sput memDefault s.mem a v }
def State.ibyte (s : State) (a : Nat) : Byte := sget memDefault s.inner a
def State.setIbyte (s : State) (a : Nat) (v : Byte) : State := { s with inner := sput memDefault s.inner a v }

/-- `n` bytes from an address. -/
def State.bytes (s : State) (a n : Nat) : List Byte := (List.range n).map fun k => s.byte (a + k)
def State.ibytes (s : State) (a n : Nat) : List Byte := (List.range n).map fun k => s.ibyte (a + k)

/-- Write bytes into a map at rising addresses. -/
def putBytes (m : List Host.Cell) (a : Nat) : List Byte → List Host.Cell
  | [] => m
  | b :: t => putBytes (sput memDefault m a b) (a + 1) t

def State.setBytes (s : State) (a : Nat) (l : List Byte) : State := { s with mem := putBytes s.mem a l }
def State.setIbytes (s : State) (a : Nat) (l : List Byte) : State := { s with inner := putBytes s.inner a l }

/-- Little-endian value of bytes. -/
def leNat : List Byte → Nat
  | [] => 0
  | b :: t => b.toNat + 256 * leNat t

/-- The `n` little-endian bytes of a value. -/
def leBytes : Nat → Nat → List Byte
  | 0, _ => []
  | n + 1, v => BitVec.ofNat 8 v :: leBytes n (v / 256)

/-- Little-endian value of `n` bytes at an address. -/
def State.le (s : State) (a n : Nat) : Nat := leNat (s.bytes a n)
def State.ile (s : State) (a n : Nat) : Nat := leNat (s.ibytes a n)
def State.setLe (s : State) (a n v : Nat) : State := s.setBytes a (leBytes n v)
def State.setIle (s : State) (a n v : Nat) : State := s.setIbytes a (leBytes n v)

/-- Remove every listed byte of a range, so that it reads as zero. -/
def State.zero (s : State) (a n : Nat) : State :=
  { s with mem := s.mem.filter fun e => !(decide (a ≤ e.1) && decide (e.1 < a + n)) }
def State.izero (s : State) (a n : Nat) : State :=
  { s with inner := s.inner.filter fun e => !(decide (a ≤ e.1) && decide (e.1 < a + n)) }

/-! ## Lists of instances, free values, outputs, time -/

/-- Replace element `i` of a list by `f` of it. -/
def updAt {α : Type} (l : List α) (i : Nat) (f : α → α) : List α := l.modify i f

/-- A free value below `2^w` and the state that has used it (log entry 3). -/
def State.fresh (s : State) (w : Nat) : Nat × State := (Config.freeValue s.free % 2 ^ w, { s with free := s.free + 1 })

/-- Record an output. -/
def State.emit (s : State) (o : Out) : State := { s with out := s.out ++ [o] }

/-- One or the other state change. -/
def State.when (s : State) (b : Bool) (f : State → State) : State := if b then f s else s

/-- Fold a state change over a list. -/
def State.each {α : Type} (s : State) (l : List α) (f : State → α → State) : State := l.foldl f s

/-- TIME in ns (R75). -/
def State.timeNs (s : State) : Nat := s.clk.time / 2000000000 % 2 ^ 64
/-- TIME bits 31:0. -/
def State.timeLo (s : State) : Nat := s.timeNs % 2 ^ 32
/-- TIME bits 63:32. -/
def State.timeHi (s : State) : Nat := s.timeNs / 2 ^ 32
/-- µs of the 400 MHz base. -/
def State.us (s : State) : Nat := s.clk.base / 400

/-- Units that one base tick adds to TIME at a rate correction (R90). -/
def timeStep (ppb : Int) : Nat := (5 * (1000000000 + ppb)).toNat

/-- Advance the clock to base tick `t` (log entry 2); an earlier `t` changes nothing. -/
def State.tickTo (s : State) (t : Nat) : State :=
  { s with clk := { base := max s.clk.base t
                    time := s.clk.time + (t - s.clk.base) * timeStep (s.rdS Reg.ANGLE_TIME_RATE) } }

end Sys2Proof.Machine
end

