-- ==== Sys2Proof/Machine/Flags.lean ====
section
/-! DEFINITION. Interrupt bits (R54, R56), function-status bits (R36 to R38) and access-error records (R61, R62, R68,
R70, R73, R74). -/

namespace Sys2Proof.Machine

/-! ## Interrupts (R56) -/

/-- An event on bit `b` of a page: IRQ_RAW is 1 for one cycle, so IRQ_PEND sets whatever IRQ_EN holds. -/
def State.evt (s : State) (page b : Nat) : State := s.putBit (page + Hdr.IRQ_PEND) b true

/-- A level condition on bit `b`: IRQ_RAW follows it and IRQ_PEND sets on its rise. -/
def State.lvl (s : State) (page b : Nat) (v : Bool) : State :=
  let s := if v && !(s.bit (page + Hdr.IRQ_RAW) b) then s.evt page b else s
  s.putBit (page + Hdr.IRQ_RAW) b v

/-- The interrupt output of a page: asserted while IRQ_PEND AND IRQ_EN is non-zero. -/
def State.irqOut (s : State) (page : Nat) : Bool :=
  (s.reg (page + Hdr.IRQ_PEND)) &&& (s.reg (page + Hdr.IRQ_EN)) ≠ 0

/-! ## Events to the safety island: the codes of `Out.island` in this model -/

namespace Isl
abbrev FUNC : Nat := 1
abbrev PERTURB : Nat := 2
abbrev RCHK : Nat := 3
abbrev ECC : Nat := 4
abbrev CLEAR : Nat := 5
abbrev MESH : Nat := 6
abbrev DMC : Nat := 7
abbrev TRNG : Nat := 8
abbrev LOCKSTEP : Nat := 9
abbrev PROT : Nat := 10
abbrev INF : Nat := 11
abbrev RMON : Nat := 12
abbrev THERM : Nat := 13
abbrev PMU : Nat := 14
abbrev LEDGER : Nat := 15
abbrev BOOT : Nat := 16
abbrev AUDIO : Nat := 17
abbrev FDIG : Nat := 18
abbrev NET : Nat := 19
abbrev FABRIC : Nat := 20
abbrev XMB : Nat := 21
end Isl

/-! ## Functions (R36 to R38) -/

namespace Fn
abbrev PROTECT : Nat := 0
abbrev CHIME : Nat := 1
abbrev GATEWAY : Nat := 2
abbrev SAFETY : Nat := 3
abbrev AUDIO_PORTS : Nat := 4
abbrev RNC : Nat := 5
abbrev SENSE : Nat := 6
abbrev ANGLE : Nat := 7
abbrev DRAM : Nat := 8
abbrev GROVES : Nat := 9
abbrev APP_CPU : Nat := 10
abbrev DISPLAY : Nat := 11
abbrev CAMERA : Nat := 12
abbrev FABRIC : Nat := 13
abbrev PCIE : Nat := 14
abbrev FDIG : Nat := 15
end Fn

/-- R113, R149: a ready point is reached: the bit of STAGE, its time in µs from the release of the reset (or the wake event), and its
interrupt. -/
def State.reach (s : State) (k reg irq : Nat) : State :=
  ((s.putBit Reg.RST_STAGE k true).wr reg ((s.clk.base - s.boot.t0) / 400)).evt (pageAddr Blk.RST 0) irq

/-- R113: Stage A is ready with PROTECT, CHIME, GATEWAY and SAFETY; FAULT_N then follows R218. -/
def State.readyA (s : State) : State :=
  if s.bit Reg.RST_STAGE 0 && !s.bit Reg.RST_STAGE 1 && decide (s.getF Reg.SYS_FUNC_READY 3 0 = 15) then
    let s := s.reach 1 Reg.RST_T_A_READY 0
    { s with boot := { s.boot with faultN := !(s.bit Reg.SAFE_FAULT_OUT 0 || s.bit Reg.SAFE_FAULT_OUT 8 || s.bit Reg.SAFE_FAULT_OUT 9
        || s.dbg.pairHalted.any id) } }
  else s

/-- R113: Stage B is ready with the voice image running, AUDIO_PORTS and SENSE. -/
def State.readyB (s : State) : State :=
  if s.boot.voiceOk && !s.bit Reg.RST_STAGE 2 && s.bit Reg.SYS_FUNC_READY 4 && s.bit Reg.SYS_FUNC_READY 6 then s.reach 2 Reg.RST_T_B_READY 1
  else s

/-- R37: a function becomes available, and with it perhaps a stage. -/
def State.funcReady (s : State) (k : Nat) : State := (s.putBit Reg.SYS_FUNC_READY k true).readyA.readyB

/-- R36, R38: a function that was available is lost: its FUNC_READY bit clears, its FUNC_LOST bit sets, the level
SYS_00.IRQ_RAW bit 0 rises, and PROTECT, CHIME, GATEWAY and SAFETY are sent to the safety island. -/
def State.funcLost (s : State) (k : Nat) : State :=
  if s.bit Reg.SYS_FUNC_READY k then
    let s := ((s.putBit Reg.SYS_FUNC_READY k false).putBit Reg.SYS_FUNC_LOST k true).lvl (pageAddr Blk.SYS 0) 0 true
    if k ≤ Fn.SAFETY then s.emit (.island Isl.FUNC k) else s
  else s

/-- A function whose availability is now `b`. -/
def State.funcSet (s : State) (k : Nat) (b : Bool) : State := if b then s.funcReady k else s.funcLost k

/-! ## Causes (R73) -/

namespace Cause
abbrev NONE : Nat := 0
abbrev RESERVED_ENC : Nat := 1
abbrev LOCKED : Nat := 2
abbrev WORLD : Nat := 3
abbrev SIZE : Nat := 4
abbrev PERTURB_LOCKED : Nat := 5
abbrev UNMAPPED : Nat := 6
abbrev NOT_AVAILABLE : Nat := 7
abbrev READ_ONLY : Nat := 8
end Cause

/-! ## Requesters (R74, R196) -/

/-- REQ code of a requester (R74). -/
def reqCode : Requester → Nat
  | .hart n => 0xC000 + n
  | .island p => 0xC100 + p
  | .debug => 0xC200
  | .block c i => c * 0x100 + i
  | .rlink p => 0xC300 + p
  | .pcie => 0xC400

/-- World of a requester (R52, R196): true is heartwood. -/
def State.world (s : State) : Requester → Bool
  | .hart n => s.bit Reg.SEC_HART_WORLD n
  | .island _ => true
  | .debug => s.bit Reg.DBG_SBA_WORLD 0
  | .block c i => s.bit (pageAddr c i + Hdr.WORLD) 0
  | .rlink p => s.bit Reg.SEC_INBOUND_WORLD (p + 1)
  | .pcie => s.bit Reg.SEC_INBOUND_WORLD 0

/-! ## Access errors (R68, R70) -/

/-- Count an error in a page's ERR_CNT, which saturates at 0xFFFF, and record it in ERR_INFO. -/
def State.pageErr (s : State) (page off cause : Nat) (heart : Bool) : State :=
  (s.incSat (page + Hdr.ERR_CNT) 15 0).wr (page + Hdr.ERR_INFO) (cause + off * 0x100 + 0x100000 * heart.toNat)

/-- The SYS_00 capture: AERR_CNT counts, and the first unreported error is captured (R62). -/
def State.sysErr (s : State) (req : Requester) (heart : Bool) (addr cause : Nat) (write : Bool) : State :=
  let s := s.cnt Reg.SYS_AERR_CNT
  if s.bit Reg.SYS_AERR_INFO 31 then s
  else ((((s.wr Reg.SYS_AERR_LO addr).wr Reg.SYS_AERR_HI (addr / 2 ^ 32 % 2 ^ 16)).wr Reg.SYS_AERR_INFO
    (reqCode req + 2 ^ 16 * heart.toNat + 2 ^ 17 * write.toNat + 2 ^ 24 * cause + 2 ^ 31)).lvl (pageAddr Blk.SYS 0) 1 true)

/-- R68: the record for the requester of an access of world `heart` that completes with an error response. -/
def State.reqErr (s : State) (req : Requester) (heart : Bool) (addr cause : Nat) (write : Bool) : State :=
  match req with
  | .block c i => s.pageErr (pageAddr c i) (addr % 0x1000) cause heart
  | _ => s.sysErr req heart addr cause write

/-- The access ends with an error response: data zero (R52, R69, R205). -/
def State.respErr (s : State) (cause n : Nat) : State :=
  { s with resp := { data := List.replicate n 0, err := true, cause := cause } }

/-- The access ends without an error response and returns `data`. -/
def State.respOk (s : State) (data : List Byte) : State := { s with resp := { data := data, err := false, cause := 0 } }

/-- An access refused with an error response that no page but the requester's record counts. -/
def State.refuse (s : State) (req : Requester) (addr cause n : Nat) (write : Bool) : State :=
  (s.reqErr req (s.world req) addr cause write).respErr cause n

/-- A write that the target page counts and that completes without an error response (R13, R50, R53, R59). -/
def State.quiet (s : State) (req : Requester) (addr cause : Nat) : State :=
  (s.pageErr (addr - addr % 0x1000) (addr % 0x1000) cause (s.world req)).respOk []

end Sys2Proof.Machine
end

