-- ==== Sys2Proof/Machine/Irq.lean ====
section
/-! DEFINITION. Interrupt sources and where they are delivered (R44, R56, R199, R202): the AIA source number of each page's output, whether
a source is asserted, its APLIC domain or safety-island pair, and the harts it may reach. -/

namespace Sys2Proof.Machine

/-- R44: the interrupt source of instance 0 of a block. -/
def irqBase (c : Nat) : Nat :=
  [1, 2, 3, 4, 5, 6, 7, 8, 42, 74, 75, 91, 155, 156, 172, 236, 268, 293, 309, 310, 314, 316, 318, 319, 324, 325, 326, 334, 343, 347, 349, 353,
    369, 370, 374, 375, 376].getD c 0

/-- R44: the interrupt source of instance `i` of block code `c`. -/
def irqSource (c i : Nat) : Nat := irqBase c + i

/-- R202: the source of the sapwood side of mailbox `i`. -/
def sapSource (i : Nat) : Nat := 377 + i

/-- The page whose output drives source `n` of 1 to 376. -/
def sourcePage (n : Nat) : Nat :=
  let c := ((List.range 37).reverse.find? fun c => decide (irqBase c ≤ n)).getD 0
  pageAddr c (n - irqBase c)

/-- R56, R202: source `n` is asserted. -/
def State.irqAsserted (s : State) (n : Nat) : Bool :=
  if n = 0 then false
  else if n < 377 then s.irqOut (sourcePage n)
  else if n < 409 then (s.reg (Reg.XMB_S_IRQ_PEND (n - 377))) &&& (s.reg (Reg.XMB_S_IRQ_EN (n - 377))) ≠ 0
  else false

/-- Where a source goes. -/
inductive IrqDest where
  /-- The APLIC domain of a world: true is heartwood. -/
  | aplic (heart : Bool)
  /-- A safety-island pair. -/
  | island (pair : Nat)
  deriving DecidableEq, Repr

/-- R202: where the heartwood side's interrupt of mailbox `i` goes; H_TARGET 3 is a reserved encoding (R13). -/
def State.xmbRoute (s : State) (i : Nat) : IrqDest :=
  match s.getF (Reg.XMB_XMB_CFG i) 1 0 with
  | 1 => .island 0
  | 2 => .island 1
  | _ => .aplic true

/-- R56, R199, R202: a page's source goes to the domain of its WORLD.OWNER, a mailbox's heartwood side as H_TARGET says, and its sapwood
side to the sapwood domain. -/
def State.irqDest (s : State) (n : Nat) : IrqDest :=
  if 377 ≤ n then .aplic false
  else if 42 ≤ n ∧ n < 74 then s.xmbRoute (n - 42)
  else .aplic (s.bit (sourcePage n + Hdr.WORLD) 0)

/-- R199: a domain delivers only to the harts of its own world: whether source `n` may be delivered to hart `h`. -/
def State.irqReaches (s : State) (n h : Nat) : Bool := s.irqDest n == .aplic (s.bit Reg.SEC_HART_WORLD h)

/-- R157, R199: an enabled interrupt is pending to hart `h`. -/
def State.irqPendingTo (s : State) (h : Nat) : Bool :=
  (List.range 409).any fun n => s.irqAsserted n && s.irqReaches n h

/-- R202: an asserted heartwood side that H_TARGET routes to a safety-island pair reaches that pair's interrupt controller. -/
def State.xmbToIsland (s : State) (i : Nat) : State :=
  match s.xmbRoute i with
  | .island p => if s.irqOut (pageAddr Blk.XMB i) then s.emit (.island Isl.XMB (p * 32 + i)) else s
  | .aplic _ => s

end Sys2Proof.Machine
end

