-- ==== Sys2Proof/Machine/Reserved.lean ====
section
/-! DEFINITION. The reserved encodings of register fields that the chapters' limits state (R13, R95, R98, R204, R221, R323,
R349, R454, R660, R680, R705 and the register tables): the fields, their range and the values within it that are reserved. -/
namespace Sys2Proof.Machine

/-- A field whose encodings are limited: registers `off + k·stride`, k < cnt, bits hi:lo, values from min to max but for
`bad`. -/
structure FieldLimit where
  off : Nat
  stride : Nat
  cnt : Nat
  hi : Nat
  lo : Nat
  min : Nat
  max : Nat
  bad : List Nat
  deriving DecidableEq, Repr

/-- Limits of ANGLE. -/
def limitsANGLE : List FieldLimit := [
  ⟨0x100, 16, 4, 7, 0, 8, 255, []⟩,
  ⟨0x100, 16, 4, 9, 8, 0, 2, []⟩,
  ⟨0x100, 16, 4, 11, 10, 0, 2, []⟩,
  ⟨0x100, 16, 4, 13, 12, 0, 1, []⟩,
  ⟨0x104, 16, 4, 31, 0, 1, 0xffffffff, []⟩,
  ⟨0x140, 16, 2, 1, 0, 0, 2, []⟩,
  ⟨0x140, 16, 2, 31, 16, 0, 0xffff, [1, 2, 3]⟩,
  ⟨0x144, 16, 2, 31, 0, 1, 0xffffffff, []⟩,
  ⟨0x164, 4, 1, 31, 0, 1, 0xffffffff, []⟩,
  ⟨0x180, 32, 3, 11, 4, 1, 255, []⟩,
  ⟨0x180, 32, 3, 19, 12, 1, 255, []⟩,
  ⟨0x180, 32, 3, 27, 20, 1, 255, []⟩,
  ⟨0x180, 32, 3, 31, 28, 2, 15, []⟩,
  ⟨0x1E8, 4, 1, 15, 8, 1, 255, []⟩,
  ⟨0x400, 16, 64, 2, 1, 0, 2, []⟩,
  ⟨0x408, 16, 64, 31, 0, 1, 0x7fffffff, []⟩]

/-- R98: WIDTH and RATE of an MPOS input are limited where MODE selects SPI_RDC. -/
def limitsRdc : List FieldLimit := [
  ⟨0x140, 16, 2, 7, 4, 9, 15, []⟩,
  ⟨0x140, 16, 2, 15, 8, 1, 200, []⟩]

/-- Limits of RST. -/
def limitsRST : List FieldLimit := [
  ⟨0x108, 4, 1, 31, 16, 900, 1800, []⟩]

/-- Limits of SEC. -/
def limitsSEC : List FieldLimit := [
  ⟨0x148, 4, 1, 31, 0, 16, 256, (List.range 257).filter fun v => !([16, 32, 64, 128, 256] : List Nat).contains v⟩]

/-- Limits of XMB. -/
def limitsXMB : List FieldLimit := [
  ⟨0x1D0, 4, 1, 1, 0, 0, 2, []⟩]

/-- Limits of RCHK. -/
def limitsRCHK : List FieldLimit := [
  ⟨0x10, 4, 1, 0, 0, 1, 1, []⟩]

/-- Limits of DMC. -/
def limitsDMC : List FieldLimit := [
  ⟨0x100, 4, 1, 2, 0, 0, 5, []⟩,
  ⟨0x100, 4, 1, 7, 4, 0, 15, [0, 2, 4, 5, 6, 7, 8, 9, 10, 11, 12, 13, 14]⟩,
  ⟨0x110, 4, 1, 1, 0, 0, 2, []⟩,
  ⟨0x110, 4, 1, 3, 2, 0, 2, []⟩,
  ⟨0x110, 4, 1, 5, 4, 0, 2, []⟩,
  ⟨0x110, 4, 1, 7, 6, 0, 2, []⟩,
  ⟨0x114, 4, 1, 15, 0, 10, 0xffff, []⟩,
  ⟨0x118, 4, 1, 3, 0, 1, 15, []⟩,
  ⟨0x118, 4, 1, 7, 4, 2, 15, []⟩,
  ⟨0x118, 4, 1, 15, 8, 1, 255, []⟩,
  ⟨0x118, 4, 1, 23, 16, 1, 255, []⟩,
  ⟨0x124, 8, 8, 1, 0, 0, 2, []⟩,
  ⟨0x160, 4, 1, 18, 17, 0, 2, []⟩,
  ⟨0x194, 4, 1, 15, 8, 1, 255, []⟩]

/-- Limits of MESH. -/
def limitsMESH : List FieldLimit := [
  ⟨0x100, 4, 1, 3, 0, 1, 15, []⟩,
  ⟨0x100, 4, 1, 7, 4, 2, 15, []⟩,
  ⟨0x100, 4, 1, 15, 8, 1, 255, []⟩,
  ⟨0x104, 4, 1, 15, 0, 1, 0xffff, []⟩]

/-- Limits of TICKET. -/
def limitsTICKET : List FieldLimit := [
  ⟨0x100, 4, 1, 15, 0, 1, 0xffff, []⟩]

/-- Limits of ALE. -/
def limitsALE : List FieldLimit := [
  ⟨0x200, 4, 1, 15, 0, 1, 0xffff, []⟩,
  ⟨0x100, 4, 1, 7, 0, 1, 60, []⟩,
  ⟨0x100, 4, 1, 15, 8, 0, 60, []⟩,
  ⟨0x404, 4, 4, 2, 0, 0, 6, []⟩,
  ⟨0x430, 4, 4, 19, 16, 2, 12, []⟩,
  ⟨0x138, 4, 1, 15, 0, 1, 0xffff, []⟩]

/-- Limits of GROVE. -/
def limitsGROVE : List FieldLimit := [
  ⟨0x240, 4, 1, 15, 0, 1, 0xffff, []⟩,
  ⟨0x104, 4, 1, 31, 0, 0, 548, []⟩,
  ⟨0x108, 4, 1, 4, 0, 6, 20, []⟩,
  ⟨0x10C, 4, 1, 31, 0, 1, 16, []⟩]

/-- Limits of RLINK. -/
def limitsRLINK : List FieldLimit := [
  ⟨0x10, 4, 1, 2, 1, 0, 2, []⟩,
  ⟨0x100, 4, 1, 15, 0, 1, 0xffff, []⟩,
  ⟨0x200, 4, 1, 31, 16, 100, 0xffff, []⟩]

/-- Limits of CASC. -/
def limitsCASC : List FieldLimit := [
  ⟨0x100, 4, 1, 7, 0, 1, 200, []⟩]

/-- Limits of WINDOW. -/
def limitsWINDOW : List FieldLimit := [
  ⟨0xF10, 4, 1, 15, 8, 1, 255, []⟩,
  ⟨0xF1C, 4, 1, 23, 16, 1, 255, []⟩,
  ⟨0xF14, 4, 1, 31, 0, 100, 0xffffffff, []⟩]

/-- Limits of PMU. -/
def limitsPMU : List FieldLimit := [
  ⟨0x280, 4, 16, 2, 0, 0, 3, []⟩,
  ⟨0x2C0, 4, 8, 2, 0, 0, 2, []⟩,
  ⟨0x2E0, 4, 1, 2, 0, 0, 3, []⟩,
  ⟨0x2E4, 4, 1, 2, 0, 0, 1, []⟩,
  ⟨0x2E8, 4, 1, 2, 0, 0, 0, []⟩,
  ⟨0x380, 4, 1, 7, 0, 1, 255, []⟩,
  ⟨0x380, 4, 1, 15, 8, 1, 255, []⟩,
  ⟨0x384, 4, 1, 31, 24, 1, 25, []⟩]

/-- Limits of THERM. -/
def limitsTHERM : List FieldLimit := [
  ⟨0x1C0, 4, 1, 4, 0, 1, 16, []⟩,
  ⟨0x1C0, 4, 1, 12, 8, 1, 16, []⟩,
  ⟨0x200, 4, 1, 15, 8, 1, 255, []⟩]

/-- Limits of LEDGER. -/
def limitsLEDGER : List FieldLimit := [
  ⟨0x100, 4, 1, 31, 0, 1000, 0x14c08, []⟩,
  ⟨0x104, 4, 1, 31, 0, 1000, 0xf4240, []⟩,
  ⟨0x1C0, 4, 16, 31, 0, 0, 0xf4240, []⟩,
  ⟨0x140, 4, 16, 8, 0, 0, 256, []⟩]

/-- Limits of RING. -/
def limitsRING : List FieldLimit := [
  ⟨0x10, 4, 1, 11, 8, 1, 15, []⟩,
  ⟨0x108, 4, 1, 31, 0, 16, 4096, (List.range 4097).filter fun v => !([16, 32, 64, 128, 256, 512, 1024, 2048, 4096] : List Nat).contains v⟩,
  ⟨0x128, 4, 1, 31, 0, 16, 4096, (List.range 4097).filter fun v => !([16, 32, 64, 128, 256, 512, 1024, 2048, 4096] : List Nat).contains v⟩]

/-- Limits of PART. -/
def limitsPART : List FieldLimit := [
  ⟨0x124, 4, 1, 8, 0, 0, 256, []⟩,
  ⟨0x12C, 4, 1, 8, 0, 0, 256, []⟩,
  ⟨0x134, 4, 1, 8, 0, 0, 256, []⟩]

/-- Limits of SAFE. -/
def limitsSAFE : List FieldLimit := [
  ⟨0x200, 4, 1, 3, 0, 1, 15, []⟩,
  ⟨0x200, 4, 1, 15, 8, 1, 255, []⟩,
  ⟨0x200, 4, 1, 23, 16, 8, 255, []⟩]

/-- Limits of FDIG. -/
def limitsFDIG : List FieldLimit := [
  ⟨0x10, 4, 1, 2, 1, 0, 2, []⟩,
  ⟨0x100, 4, 1, 5, 0, 0, 63, [5, 6, 7, 10, 11, 12, 13, 14, 16, 17, 18, 19, 20, 21, 22, 23, 24, 25, 26, 27, 28, 29, 30, 31]⟩,
  ⟨0x100, 4, 1, 14, 13, 0, 2, []⟩,
  ⟨0x108, 4, 1, 15, 0, 10, 0xffff, []⟩]

/-- Limits of SENSE. -/
def limitsSENSE : List FieldLimit := [
  ⟨0x10, 4, 1, 5, 4, 0, 2, []⟩]

/-- Limits of SENSE4. -/
def limitsSENSE4 : List FieldLimit := [
  ⟨0x100, 4, 1, 15, 0, 5, 0xffff, []⟩,
  ⟨0x104, 4, 1, 7, 0, 4, 255, []⟩]

/-- Limits of TRIG. -/
def limitsTRIG : List FieldLimit := [
  ⟨0x10, 4, 1, 3, 0, 0, 8, []⟩,
  ⟨0x10, 4, 1, 11, 10, 0, 2, []⟩,
  ⟨0x10C, 4, 1, 31, 0, 1, 0xffffffff, []⟩,
  ⟨0x110, 4, 1, 31, 0, 1, 0xffffffff, []⟩,
  ⟨0x118, 4, 1, 2, 0, 0, 4, []⟩,
  ⟨0x114, 4, 1, 1, 0, 0, 2, []⟩,
  ⟨0x114, 4, 1, 3, 2, 0, 2, []⟩,
  ⟨0x114, 4, 1, 5, 4, 0, 2, []⟩,
  ⟨0x114, 4, 1, 7, 6, 0, 2, []⟩,
  ⟨0x128, 4, 1, 15, 0, 1, 0xffff, []⟩,
  ⟨0x12C, 4, 1, 31, 0, 1, 0x7fffffff, []⟩,
  ⟨0x130, 4, 1, 23, 0, 1, 0xffffff, []⟩]

/-- Limits of BERTH. -/
def limitsBERTH : List FieldLimit := [
  ⟨0x108, 128, 2, 16, 0, 1, 0x10000, []⟩,
  ⟨0x114, 128, 2, 1, 0, 0, 2, []⟩,
  ⟨0x114, 128, 2, 12, 8, 0, 16, []⟩,
  ⟨0x114, 128, 2, 31, 16, 1, 0xffff, []⟩]

/-- Limits of WSEQ. -/
def limitsWSEQ : List FieldLimit := [
  ⟨0x200, 8, 16, 10, 9, 0, 2, []⟩,
  ⟨0x200, 8, 16, 31, 16, 0, 0xffff, [1, 2, 3, 4, 5, 6, 7, 8, 9, 10, 11, 12, 13, 14, 15]⟩,
  ⟨0x140, 4, 16, 1, 0, 0, 2, []⟩,
  ⟨0x108, 4, 1, 24, 16, 0, 496, []⟩,
  ⟨0x400, 32, 4, 7, 4, 1, 8, []⟩,
  ⟨0x40C, 32, 4, 31, 0, 4096, 0x1000000, []⟩,
  ⟨0x418, 32, 4, 15, 0, 100, 0xffff, []⟩,
  ⟨0x380, 32, 2, 31, 16, 0, 0x8000, []⟩,
  ⟨0x500, 4, 8, 15, 0, 256, 0xffff, []⟩]

/-- Limits of PROT. -/
def limitsPROT : List FieldLimit := [
  ⟨0x200, 8, 16, 13, 0, 1, 8191, []⟩,
  ⟨0x200, 8, 16, 29, 16, 1, 8191, []⟩,
  ⟨0x108, 4, 1, 7, 0, 1, 255, []⟩,
  ⟨0x100, 4, 1, 15, 0, 1, 0xffff, []⟩,
  ⟨0x100, 4, 1, 23, 16, 1, 255, []⟩,
  ⟨0x104, 4, 1, 15, 0, 1, 0xffff, []⟩]

/-- Limits of APORT. -/
def limitsAPORT : List FieldLimit := [
  ⟨0x10, 4, 1, 9, 8, 0, 2, []⟩,
  ⟨0x10, 4, 1, 13, 12, 0, 2, []⟩,
  ⟨0x100, 4, 32, 19, 16, 2, 12, []⟩]

/-- Limits of CAM. -/
def limitsCAM : List FieldLimit := [
  ⟨0x10, 4, 1, 2, 1, 0, 3, [2]⟩,
  ⟨0x10, 4, 1, 31, 16, 80, 4500, []⟩,
  ⟨0x104, 4, 1, 3, 0, 0, 9, [6, 7, 8]⟩,
  ⟨0x10C, 4, 1, 12, 0, 16, 4096, []⟩,
  ⟨0x10C, 4, 1, 28, 16, 1, 4096, []⟩,
  ⟨0x118, 4, 1, 27, 0, 4096, 0xfffffff, []⟩,
  ⟨0x11C, 4, 1, 15, 0, 64, 0xffc0, []⟩,
  ⟨0x12C, 4, 1, 4, 0, 2, 16, []⟩,
  ⟨0x144, 4, 1, 3, 0, 0, 9, [6, 7, 8]⟩,
  ⟨0x14C, 4, 1, 12, 0, 16, 4096, []⟩,
  ⟨0x14C, 4, 1, 28, 16, 1, 4096, []⟩,
  ⟨0x158, 4, 1, 27, 0, 4096, 0xfffffff, []⟩,
  ⟨0x15C, 4, 1, 15, 0, 64, 0xffc0, []⟩,
  ⟨0x16C, 4, 1, 4, 0, 2, 16, []⟩,
  ⟨0x184, 4, 1, 3, 0, 0, 9, [6, 7, 8]⟩,
  ⟨0x18C, 4, 1, 12, 0, 16, 4096, []⟩,
  ⟨0x18C, 4, 1, 28, 16, 1, 4096, []⟩,
  ⟨0x198, 4, 1, 27, 0, 4096, 0xfffffff, []⟩,
  ⟨0x19C, 4, 1, 15, 0, 64, 0xffc0, []⟩,
  ⟨0x1AC, 4, 1, 4, 0, 2, 16, []⟩,
  ⟨0x1C4, 4, 1, 3, 0, 0, 9, [6, 7, 8]⟩,
  ⟨0x1CC, 4, 1, 12, 0, 16, 4096, []⟩,
  ⟨0x1CC, 4, 1, 28, 16, 1, 4096, []⟩,
  ⟨0x1D8, 4, 1, 27, 0, 4096, 0xfffffff, []⟩,
  ⟨0x1DC, 4, 1, 15, 0, 64, 0xffc0, []⟩,
  ⟨0x1EC, 4, 1, 4, 0, 2, 16, []⟩]

/-- Limits of VOUT. -/
def limitsVOUT : List FieldLimit := [
  ⟨0x100, 4, 1, 12, 0, 0, 3840, []⟩,
  ⟨0x108, 4, 1, 12, 0, 0, 2160, []⟩,
  ⟨0x110, 4, 1, 20, 0, 25000, 0x10c8e0, []⟩,
  ⟨0x114, 4, 1, 2, 0, 1, 4, [3]⟩,
  ⟨0x118, 4, 1, 9, 0, 96, 384, []⟩,
  ⟨0x118, 4, 1, 15, 12, 1, 8, [3, 5, 6, 7]⟩,
  ⟨0x180, 4, 1, 7, 4, 0, 8, []⟩,
  ⟨0x1C0, 4, 1, 7, 4, 0, 8, []⟩]

/-- Limits of GW. -/
def limitsGW : List FieldLimit := [
  ⟨0x200, 8, 63, 23, 0, 1, 0xffffff, []⟩,
  ⟨0x204, 8, 63, 23, 0, 64, 0xffffff, []⟩,
  ⟨0x120, 4, 1, 15, 0, 1, 0xffff, []⟩,
  ⟨0x16C, 4, 1, 31, 0, 16, 4096, (List.range 4097).filter fun v => !([16, 32, 64, 128, 256, 512, 1024, 2048, 4096] : List Nat).contains v⟩,
  ⟨0x180, 4, 1, 31, 0, 16, 4096, (List.range 4097).filter fun v => !([16, 32, 64, 128, 256, 512, 1024, 2048, 4096] : List Nat).contains v⟩]

/-- Limits of ETH. -/
def limitsETH : List FieldLimit := [
  ⟨0x108, 4, 1, 1, 0, 0, 2, []⟩,
  ⟨0x108, 4, 1, 7, 4, 0, 15, [1, 2, 3, 4, 5, 6, 7, 8, 9, 10, 11, 12]⟩,
  ⟨0x110, 4, 1, 15, 8, 1, 64, []⟩,
  ⟨0x114, 4, 1, 31, 0, 1000, 0x3b9aca00, []⟩,
  ⟨0x404, 8, 64, 31, 0, 8, 0xffffffff, []⟩]

/-- Limits of CANX. -/
def limitsCANX : List FieldLimit := [
  ⟨0x10, 4, 1, 2, 1, 0, 2, []⟩]

/-- The limits of a block code. -/
def limitsOf (c : Nat) : List FieldLimit :=
  match c with
  | 0x01 => limitsANGLE
  | 0x04 => limitsRST
  | 0x06 => limitsSEC
  | 0x08 => limitsXMB
  | 0x07 => limitsRCHK
  | 0x13 => limitsDMC
  | 0x10 => limitsMESH
  | 0x11 => limitsTICKET
  | 0x1A => limitsALE
  | 0x0D => limitsGROVE
  | 0x21 => limitsRLINK
  | 0x22 => limitsCASC
  | 0x02 => limitsPMU
  | 0x03 => limitsTHERM
  | 0x23 => limitsLEDGER
  | 0x0B => limitsRING
  | 0x0A => limitsPART
  | 0x12 => limitsSAFE
  | 0x14 => limitsFDIG
  | 0x17 => limitsSENSE
  | 0x117 => limitsSENSE4
  | 0x15 => limitsTRIG
  | 0x16 => limitsBERTH
  | 0x19 => limitsWSEQ
  | 0x18 => limitsPROT
  | 0x1B => limitsAPORT
  | 0x1C => limitsCAM
  | 0x1D => limitsVOUT
  | 0x20 => limitsGW
  | 0x1E => limitsETH
  | 0x1F => limitsCANX
  | _ => []

/-- The limits that apply to a write of `v` at an offset of a page. -/
def limitsAt (c off v : Nat) : List FieldLimit :=
  (limitsOf c ++ limitsWINDOW ++ (if c = 0x01 ∧ v % 4 = 2 then limitsRdc else [])).filter fun l =>
    decide (l.off ≤ off) && decide ((off - l.off) % l.stride = 0) && decide ((off - l.off) / l.stride < l.cnt)

/-- The bits of the fields of a register for which `v` holds a reserved encoding (R13). -/
def reservedBits (c off v : Nat) : Nat :=
  (limitsAt c off v).foldl (fun m l =>
    let f := v / 2 ^ l.lo % 2 ^ (l.hi + 1 - l.lo)
    if f < l.min ∨ l.max < f ∨ f ∈ l.bad then m ||| ((2 ^ (l.hi + 1 - l.lo) - 1) * 2 ^ l.lo) else m) 0

end Sys2Proof.Machine
end

