-- ==== Sys2Proof/Machine/RegAccess.lean ====
section
/-! DEFINITION. What the device checks before a register access takes effect (R45, R46, R48, R52, R59, R67, R200, R202,
R670, R704), and the effect of a read or write by the access codes of R16 (R12, R13, R50, R65). -/

namespace Sys2Proof.Machine

/-! ## Pages, blocks and power domains -/

/-- Address of the page an address lies in. -/
def pageOf (a : Nat) : Nat := a - a % 0x1000

/-- R113: the start point from which a block is released: 0 the boot ROM (R704), 1 Stage A entry, 2 Stage B, 3 Stage C
entry (R275, R304, R333, R358, R386, R459, R487, R516, R582, R609, R663, R232). -/
def releasePoint (c : Nat) : Nat :=
  if [0x00, 0x04, 0x05, 0x06, 0x12].contains c then 0
  else if [0x17, 0x1A, 0x1B].contains c then 2
  else if [0x08, 0x0A, 0x0B, 0x0C, 0x0D, 0x0E, 0x0F, 0x11, 0x14, 0x15, 0x16, 0x1C, 0x1D, 0x21, 0x22, 0x23].contains c then 3
  else 1

def State.aEntry (s : State) : Bool := s.bit Reg.RST_STAGE 0
def State.aReady (s : State) : Bool := s.bit Reg.RST_STAGE 1
def State.bReady (s : State) : Bool := s.bit Reg.RST_STAGE 2
def State.cEntry (s : State) : Bool := s.bit Reg.RST_STAGE 3
def State.cDecl (s : State) : Bool := s.bit Reg.RST_STAGE 4
/-- R143: the declaration was made in an earlier cycle: what arrives in its own cycle is answered as before it. -/
def State.declaredBefore (s : State) : Bool := s.cDecl && decide (s.boot.declAt < s.clk.base)
def State.cFailed (s : State) : Bool := s.bit Reg.RST_STAGE 5

/-- Whether a block is released in the current start (R25, R113, R124). -/
def State.released (s : State) (c : Nat) : Bool :=
  match releasePoint c with
  | 0 => s.boot.romStarted
  | 1 => s.aEntry
  | 2 => s.aEntry && s.boot.voiceOk
  | _ => s.cEntry

/-- R151: the power domain of a block instance. -/
def domainOf (c i : Nat) : Nat :=
  if c = Blk.GROVE ∨ c = Blk.TICKET then i
  else if c = Blk.CORE then i / 4
  else if c = Blk.FERRY then i / 2
  else if c = Blk.DMC then 19 + i
  else if c = Blk.CAM ∨ c = Blk.VOUT then 23
  else if c = Blk.FDIG ∨ c = Blk.TRIG ∨ c = Blk.BERTH then 24
  else if c = Blk.RLINK ∨ c = Blk.CASC then 25
  else 26

/-- State of a power domain (R193): 0 to 3 for P0 to P3, 6 not released. -/
def State.dom (s : State) (d : Nat) : Nat := s.getF (Reg.PMU_DOM_STAT d) 2 0

/-- R67: the block's registers are unavailable: not released, or its domain in P2 or deeper. -/
def State.unavailable (s : State) (c i : Nat) : Bool :=
  !s.released c || s.dom (domainOf c i) = 2 || s.dom (domainOf c i) = 3

/-! ## Perturbation windows (R59, R670) -/

/-- The window is open through PERTURB_00.CTL.OPEN and CODE_EN. -/
def State.openByCtl (s : State) (c : Nat) : Bool :=
  s.bit Reg.PERTURB_CTL 0 && (if c < 32 then s.bit Reg.PERTURB_CODE_EN_LO c else s.bit Reg.PERTURB_CODE_EN_HI (c - 32))

/-- The window is open through a debug session (R670, R213). -/
def State.openBySession (s : State) (page : Nat) : Bool :=
  let level := s.getF Reg.DBG_SESSION 1 0
  let perturb := s.bit Reg.DBG_SESSION 7
  (level = 1 && perturb && !(s.bit (page + Hdr.WORLD) 0)) || (level = 2 && perturb) || level = 3

/-- R670: the window of a page is open, no earlier than the page's release (R682). -/
def State.windowOpen (s : State) (c i : Nat) : Bool :=
  decide (ptCap c ≠ 0) && s.released c && (s.openByCtl c || s.openBySession (pageAddr c i))

/-! ## The checks -/

/-- What becomes of an access: it takes effect; it is an access to an absent instance (R46); it is refused with an error
response and a cause, counted in the target page when R68 says so; or it has no effect, no error response, and a cause
counted in the target page (none where `cause` is 0). -/
inductive Verdict where
  | go
  | absent
  | deny (cause : Nat) (count : Bool)
  | quiet (cause : Nat)
  deriving DecidableEq, Repr

/-- R200, R202: what a world may do at an offset of an XMB page. An access to its window, which is never open, is left to R59: R200 would
refuse it as "all other access" (DEDUCED, log entry 53). -/
def State.xmbAllows (s : State) (page off : Nat) (heart write : Bool) : Bool :=
  let sapSide := (0x100 ≤ off ∧ off < 0x144) ∨ off = 0x1C4 ∨ (0x1E0 ≤ off ∧ off < 0x1EC)
  let heartSide := (0x180 ≤ off ∧ off < 0x1C4) ∨ off = 0x144 ∨ off = 0x1D0
  if off < 0x100 then
    heart || (!write && (off = Hdr.PAGE_ID || off = Hdr.PAGE_VER || off = Hdr.PAGE_CAP || off = Hdr.WORLD))
  else if 0xF00 ≤ off then heart
  else if !heart && !(s.bit (page + 0x1D0) 4) then false
  else if !write then true
  else if sapSide then !heart
  else if heartSide then heart
  else false

/-- R52, R45, R200: whether a world may make the access. -/
def State.worldAllows (s : State) (c i off : Nat) (heart write : Bool) : Bool :=
  if c = Blk.XMB then s.xmbAllows (pageAddr c i) off heart write
  else if heart then true
  else if c = Blk.SYS then
    off < 0x200 && !(write && (off = Hdr.PAGE_LOCK || off = Hdr.WORLD))
  else !(s.bit (pageAddr c i + Hdr.WORLD) 0) || (s.bit (pageAddr c i + Hdr.WORLD) 1 && !write && off < 0xF00)

/-- R704: before Stage A entry only SYS, RST, RSTATE, SEC and SAFE answer, to the safety island only; before the boot ROM
starts no page answers. -/
def State.phaseAllows (s : State) (req : Requester) (c : Nat) : Bool :=
  if s.aEntry then true
  else s.boot.romStarted && decide (releasePoint c = 0) && (match req with | .island _ => true | _ => false)

/-- R48: the sizes and alignments that a register page serves. -/
def sizeServed (addr size : Nat) (write : Bool) : Bool :=
  (size == 1 || size == 2 || size == 4 || size == 8) && addr % size == 0 && !(write && decide (size < 4))

/-- The checks of a register access of world `heart`, in the order of log entry 10. -/
def State.verdictAs (s : State) (req : Requester) (heart : Bool) (addr size : Nat) (write : Bool) : Verdict :=
  let c := regCode addr
  let i := regInst addr
  let off := regOff addr
  if addr < regBase ∨ regEnd ≤ addr ∨ instCount c = 0 then .deny Cause.UNMAPPED false
  else if instCount c ≤ i then (if sizeServed addr size write then .absent else .deny Cause.SIZE false)
  else if !s.phaseAllows req c then .deny Cause.NOT_AVAILABLE false
  else if !sizeServed addr size write then .deny Cause.SIZE false
  else if !s.worldAllows c i off heart write then .deny Cause.WORLD true
  else if 0x100 ≤ off && s.unavailable c i then .deny Cause.NOT_AVAILABLE false
  else if 0xF00 ≤ off then
    if !s.windowOpen c i then .quiet (if write then Cause.PERTURB_LOCKED else 0)
    else if write && !heart && !s.bit Reg.PERTURB_CTL 1 && !s.openBySession (pageAddr c i) then .quiet Cause.WORLD
    else .go
  else .go

/-- The checks of a register access that carries its requester's world. -/
def State.verdict (s : State) (req : Requester) (addr size : Nat) (write : Bool) : Verdict :=
  s.verdictAs req (s.world req) addr size write

/-- Record a refused access of world `heart` (R68). Before the boot ROM starts nothing can record it; from then to Stage A entry an access that
no page answers is recorded in the SYS_00 capture, whoever made it (R704). -/
def State.denyRec (s : State) (req : Requester) (heart : Bool) (addr cause : Nat) (count write : Bool) : State :=
  if !s.boot.romStarted then s
  else
    let s := if count then s.pageErr (pageOf addr) (regOff addr) cause heart else s
    if !s.aEntry && cause == Cause.NOT_AVAILABLE then s.sysErr req heart addr cause write else s.reqErr req heart addr cause write

/-- An access that the checks refuse ends with an error response. -/
def State.denied (s : State) (req : Requester) (addr n cause : Nat) (count write : Bool) : State :=
  (s.denyRec req (s.world req) addr cause count write).respErr cause n

/-! ## Reads (R16, R48, R65) -/

/-- Mask of the RC bits of a register. -/
def rcMask (addr : Nat) : Nat :=
  if regOff addr = Hdr.ERR_CNT then 0xFFFF
  else match findRow (pageRows (regCode addr) (regInst addr)) (regOff addr) with
    | some (r, _) => r.rc
    | none => 0

/-- Mask of the WO bits of a register: they read zero (R16). -/
def woMask (addr : Nat) : Nat :=
  match findRow (pageRows (regCode addr) (regInst addr)) (regOff addr) with
  | some (r, _) => r.wo
  | none => 0

/-- A read of one 32-bit register: the value, then its RC fields clear. -/
def State.regRead (s : State) (addr : Nat) : Nat × State :=
  let v := s.rd addr
  (v &&& (0xFFFFFFFF ^^^ woMask addr), s.wr addr (v &&& (0xFFFFFFFF ^^^ rcMask addr)))

/-! ## Writes (R12, R13, R16, R50) -/

/-- The IRQ_RAW bits that the chapter of block `c` defines; SENSE_04 and RLINK_00 have their own. The bits of IRQ_EN, IRQ_PEND and
IRQ_FORCE that match no such bit are reserved (R12, R56; log entry 39). -/
def irqBits (c i : Nat) : Nat :=
  match c with
  | 0x01 => 0xFF
  | 0x03 => 0x3F
  | 0x04 => 0x1F
  | 0x05 => 7
  | 0x06 => 0xF
  | 0x07 => 1
  | 0x09 => 7
  | 0x0A => 7
  | 0x0B => 0x3F
  | 0x0C => 0x1F
  | 0x0D => 0x7F
  | 0x0E => 0xF
  | 0x11 => 0xF
  | 0x12 => 0x700
  | 0x13 => 0xFF
  | 0x14 => 0x3F
  | 0x16 => 0xFF
  | 0x17 => if i = 4 then 0xF else 0x1F
  | 0x18 => 0x3F
  | 0x19 => 0x3FF
  | 0x1A => if i = 0 then 0x307FF else 0x7FF
  | 0x1C => 0x3F
  | 0x1D => 0x3F
  | 0x1E => 7
  | 0x1F => 7
  | 0x20 => 0x7F
  | 0x21 => if i = 0 then 0x707 else 7
  | 0x22 => 7
  | 0x23 => 7
  | _ => 3

/-- Access masks of a header register (R72) of block `c`, instance `i`; PAGE_LOCK, IRQ_FORCE and WORLD have rows of their own. -/
def headerRow (c i off : Nat) : Option RegRow :=
  if off = Hdr.IRQ_EN then some ⟨off, 4, 1, [0], irqBits c i, 0, 0, 0, 0, 0, 0⟩
  else if off = Hdr.IRQ_PEND then some ⟨off, 4, 1, [0], 0, 0, irqBits c i, 0, 0, 0, 0⟩
  else none

/-- The row that governs a register. -/
def rowOf (addr : Nat) : Option RegRow :=
  match headerRow (regCode addr) (regInst addr) (regOff addr) with
  | some r => some r
  | none => (findRow (pageRows (regCode addr) (regInst addr)) (regOff addr)).map (·.1)

/-- The new value of a register under a row's masks. `resv` are the bits of fields whose written encoding is reserved. -/
def maskedWrite (r : RegRow) (old v resv : Nat) (locked : Bool) : Nat :=
  let take := (r.rw ||| (if locked then 0 else r.rwl)) &&& (0xFFFFFFFF ^^^ resv)
  let kept := old &&& (0xFFFFFFFF ^^^ take)
  let set := (kept ||| (v &&& take)) ||| (v &&& r.w1s)
  set &&& (0xFFFFFFFF ^^^ (v &&& r.w1c))

/-- The code of a page's limits: SENSE_04 has its own registers (R491), named 0x117 here. -/
def limitCode (c i : Nat) : Nat := if c = Blk.SENSE ∧ i = 4 then 0x117 else c

/-- A write of one 32-bit register that passed the checks: fields whose written encoding is reserved keep their values and
count once (R13), those of `keep` among them, which a rule beyond the limits tables makes reserved here; RWL fields of a locked page keep theirs and, where the write would change one, set VIOL and count LOCKED
(R50). -/
def State.regStoreBut (s : State) (req : Requester) (addr v keep : Nat) : State :=
  match rowOf addr with
  | none => s.respOk []
  | some r =>
    let resv := (reservedBits (limitCode (regCode addr) (regInst addr)) (regOff addr) v ||| keep) &&& (r.rw ||| r.rwl)
    let old := s.rd addr
    let locked := s.bit (pageOf addr + Hdr.PAGE_LOCK) 0
    let s := s.wr addr (maskedWrite r old v resv locked)
    let s := if locked && (((v ^^^ old) &&& r.rwl) &&& (0xFFFFFFFF ^^^ resv)) ≠ 0 then
        (s.putBit (pageOf addr + Hdr.PAGE_LOCK) 1 true).quiet req addr Cause.LOCKED else s
    let s := if resv ≠ 0 then s.quiet req addr Cause.RESERVED_ENC else s
    s.respOk []

/-- A write of one 32-bit register in which only the limits tables reserve encodings. -/
def State.regStore (s : State) (req : Requester) (addr v : Nat) : State := s.regStoreBut req addr v 0

/-- A write to a register through the checks: `eff` is what the write does once they pass. -/
def State.checkedWrite (s : State) (req : Requester) (addr size : Nat) (eff : State → State) : State :=
  match s.verdict req addr size true with
  | .go => eff (s.respOk [])
  | .absent => s.respOk []
  | .deny cause count => s.denied req addr 0 cause count true
  | .quiet cause => s.quiet req addr cause

/-- As `checkedWrite` for an action only heartwood may take: any other world counts WORLD without effect (R53, log
entry 11). -/
def State.heartWrite (s : State) (req : Requester) (addr : Nat) (eff : State → State) : State :=
  s.checkedWrite req addr 4 fun s => if s.world req then eff s else s.quiet req addr Cause.WORLD

/-- A read of a register through the checks: `eff` is what the read does once they pass. A read that no check lets through returns
zero (R46, R48, R59). -/
def State.checkedRead (s : State) (req : Requester) (addr size : Nat) (eff : State → State) : State :=
  match s.verdict req addr size false with
  | .go => eff s
  | .absent => s.respOk (List.replicate size 0)
  | .deny cause count => s.denied req addr size cause count false
  | .quiet _ => s.respOk (List.replicate size 0)

end Sys2Proof.Machine
end

