-- ==== Sys2Proof/Machine/Perturb.lean ====
section
/-! DEFINITION. Test perturbation (R670 to R684): permission, activity, stall pulses and forced errors. -/

namespace Sys2Proof.Machine

/-- Whether an address lies in the perturbation window of a page. -/
def inWindow (a : Nat) : Bool := decide (regBase ≤ a) && decide (a < regEnd) && decide (0xF00 ≤ regOff a)

/-- R678: number of active windows, from the ACTIVE bit of every PT_STAT. -/
def State.activeWindows (s : State) : Nat :=
  (s.regs.filter fun e => inWindow e.1 && decide (regOff e.1 = 0xF30) && (e.2.toNat / 0x10000 % 2 == 1)).length

/-- R678: STAT.ACTIVE_CNT, the ACTIVE level and the event to the safety island follow the number of active windows. -/
def State.countActive (s : State) : State :=
  let n := s.activeWindows
  let old := s.getF (pageAddr Blk.PERTURB 0 + Hdr.STAT) 31 16
  let s := (s.putF (pageAddr Blk.PERTURB 0 + Hdr.STAT) 31 16 n).lvl (pageAddr Blk.PERTURB 0) 0 (decide (n ≠ 0))
  if old = 0 ∧ n ≠ 0 then s.emit (.island Isl.PERTURB n) else s

/-- R678: the window of a page is active; settings of kinds outside PT_CAP do not count. -/
def State.windowActive (s : State) (page : Nat) : Bool :=
  let cap := ptCap (regCode page)
  (s.bit (Reg.PT_CTL page) 0 &&
    ((cap.testBit 0 && decide (s.getF (Reg.PT_DELAY page) 15 0 ≠ 0))
      || (cap.testBit 1 && decide (s.getF (Reg.PT_BP page) 7 0 ≠ 0))
      || (cap.testBit 2 && decide (s.getF (Reg.PT_STALL_LEN page) 15 0 ≠ 0))
      || (cap.testBit 3 && decide (s.getF (Reg.PT_JIT page) 15 0 ≠ 0))))
  || decide (s.getF (Reg.PT_STAT page) 15 0 ≠ 0)

/-- Bring PT_STAT.ACTIVE, ANGLE_00.STAT.PERTURBED (R675) and the count of a page up to date. -/
def State.windowSync (s : State) (page : Nat) : State :=
  let s := s.putBit (Reg.PT_STAT page) 16 (s.windowActive page)
  let s := if regCode page = Blk.ANGLE then
      s.putBit Reg.ANGLE_STAT 0 (s.bit (Reg.PT_CTL page) 0 && decide (s.getF (Reg.PT_JIT page) 15 0 ≠ 0)) else s
  s.countActive

/-- R681: the windows that `closed` selects close: their registers return to reset values and what they had armed is
discarded. -/
def State.closeWindows (s : State) (closed : Nat → Bool) : State :=
  let s := { s with regs := s.regs.filter fun e => !(inWindow e.1 && closed (pageOf e.1))
                    injects := s.injects.filter fun j => !closed j.page
                    shakers := s.shakers.filter fun j => !closed j.page }
  s.windowSync (pageAddr Blk.ANGLE 0)

/-- R681: close every window that is not open any more. -/
def State.closeShut (s : State) : State :=
  s.closeWindows fun page => !s.windowOpen (regCode page) (regInst page)

/-- STAT.OPEN and STAT.SESSION of PERTURB_00 (R683), then the closing of what is no longer open. -/
def State.permitSync (s : State) : State :=
  let s := (s.putBit (pageAddr Blk.PERTURB 0 + Hdr.STAT) 0 (s.bit Reg.PERTURB_CTL 0)).putBit
    (pageAddr Blk.PERTURB 0 + Hdr.STAT) 1
      (decide (s.getF Reg.DBG_SESSION 1 0 = 3) || (decide (s.getF Reg.DBG_SESSION 1 0 ≠ 0) && s.bit Reg.DBG_SESSION 7))
  s.closeShut

/-- R671, R224: a write of `v` to PERTURB_00.CTL; the lifecycle state in effect decides. -/
def State.writePerturbCtl (s : State) (req : Requester) (v : Nat) : State :=
  if v.testBit 0 && decide (s.getF Reg.SEC_LIFECYCLE 1 0 = 2) then
    ((s.putBit Reg.PERTURB_CTL 1 (v.testBit 1)).quiet req Reg.PERTURB_CTL Cause.RESERVED_ENC).permitSync
  else (s.putF Reg.PERTURB_CTL 1 0 v).permitSync

/-- The running part of a window. -/
def State.shaker (s : State) (page : Nat) : Shaker := (s.shakers.find? fun k => k.page == page).getD ⟨page, 1, 0⟩
def State.setShaker (s : State) (k : Shaker) : State :=
  { s with shakers := k :: s.shakers.filter fun j => j.page != k.page }

/-- R673: one step of the Galois LFSR of x^32 + x^22 + x^2 + x + 1 (log entry 15). -/
def lfsrStep (v : Nat) : Nat := if v % 2 = 1 then (v / 2) ^^^ 0x80200003 else v / 2

/-- R673: a write of `v` to PT_CTL of a page; EN written 1 loads the LFSR, a seed of 0 as 1. -/
def State.writePtCtl (s : State) (page v : Nat) : State :=
  let s := s.putF (Reg.PT_CTL page) 1 0 v
  let s := if v.testBit 0 then
      s.setShaker ⟨page, if s.rd (Reg.PT_SEED page) = 0 then 1 else s.rd (Reg.PT_SEED page), 0⟩ else s
  s.windowSync page

/-- R673: the unit of a page is halted by a stall pulse. -/
def State.stalled (s : State) (page : Nat) : Bool :=
  s.bit (Reg.PT_CTL page) 0 && decide (s.clk.base < (s.shaker page).stallEnd)

/-- Kind bit of PT_CAP for a TYPE of PT_FORCE_CFG (R672, R676); 0 for a code outside the table. -/
def forceKind (type : Nat) : Nat :=
  match type with
  | 1 => 16
  | 2 => 16
  | 3 => 32
  | 4 => 64
  | 5 => 128
  | _ => 0

/-- R676, R677: a write of `v` to PT_FORCE of a page. -/
def State.writeForce (s : State) (req : Requester) (page v : Nat) : State :=
  let cfg := s.rd (Reg.PT_FORCE_CFG page)
  let type := fld cfg 3 0
  let count := fld v 15 0
  if v.testBit 30 then
    ({ s with injects := s.injects.filter fun j => j.page != page }.putF (Reg.PT_STAT page) 15 0 0).windowSync page
  else if v.testBit 31 then
    if (forceKind type &&& ptCap (regCode page)) = 0 ∨ count = 0 ∨ (type = 5 ∧ count ≠ 1) ∨ (type = 3 ∧ 4 ≤ fld cfg 7 4) then
      s.quiet req (Reg.PT_FORCE page) Cause.RESERVED_ENC
    else
      let addr := s.rd (Reg.PT_FORCE_ADDR_LO page) + 2 ^ 32 * s.getF (Reg.PT_FORCE_ADDR_HI page) 15 0
      ({ s with injects := ⟨page, cfg, addr⟩ :: s.injects.filter fun j => j.page != page }.putF
        (Reg.PT_STAT page) 15 0 count).windowSync page
  else s

/-- The injection armed in a page's window. -/
def State.armed (s : State) (page : Nat) : Option Inject :=
  if s.getF (Reg.PT_STAT page) 15 0 = 0 then none else s.injects.find? fun j => j.page == page

/-- R677: one injection of a page is applied. -/
def State.injected (s : State) (page : Nat) : State :=
  ((((s.putF (Reg.PT_STAT page) 15 0 (s.getF (Reg.PT_STAT page) 15 0 - 1)).cnt (Reg.PT_CNT page)).evt
    (pageAddr Blk.PERTURB 0) 1).windowSync page)

/-- R676: the ECC flip that a read of `len` bytes at `addr` of a page's memory meets: 0 none, 1 corrected, 2
uncorrectable; `word` is the bytes of one ECC word. -/
def State.eccForced (s : State) (page addr len word : Nat) : Nat :=
  match s.armed page with
  | some j =>
    if fld j.cfg 3 0 = 1 ∨ fld j.cfg 3 0 = 2 then
      if j.cfg.testBit 9 || (decide (j.addr / word * word < addr + len) && decide (addr < j.addr / word * word + word)) then
        fld j.cfg 3 0 else 0
    else 0
  | none => 0

/-- The offset of the word that a forced flip of a page hits in a read from `addr` on: the armed one, or with ANYADDR the first one read. -/
def State.eccForcedAt (s : State) (page addr word : Nat) : Nat :=
  match s.armed page with
  | some j => (if j.cfg.testBit 9 then addr else j.addr) / word * word
  | none => 0

/-- R681: injections of ECC kind armed on a store are discarded when its grove is cleared. -/
def State.dropEcc (s : State) (page : Nat) : State :=
  match s.armed page with
  | some j => if fld j.cfg 3 0 ≤ 2 then
      ({ s with injects := s.injects.filter fun j => j.page != page }.putF (Reg.PT_STAT page) 15 0 0).windowSync page else s
  | none => s

/-! ## Commands -/

/-- PERTURB_CTL_WRITE. -/
def execPerturbCtlWrite (req : Requester) (value : Nat) (s : State) : Host.Outcome State Fault Refusal :=
  .next (s.heartWrite req Reg.PERTURB_CTL fun s => s.writePerturbCtl req value)

/-- PERTURB_ENABLE: a write of `value` to PT_CTL of a page. -/
def execPerturbEnable (req : Requester) (code inst value : Nat) (s : State) : Host.Outcome State Fault Refusal :=
  .next (s.checkedWrite req (Reg.PT_CTL (pageAddr code inst)) 4 fun s => s.writePtCtl (pageAddr code inst) value)

/-- STALL_PULSE: at base tick `t` a stall pulse of a page's window begins (R673; R681: only in P0). -/
def execStallPulse (code inst t : Nat) (s : State) : Host.Outcome State Fault Refusal :=
  let page := pageAddr code inst
  let s := s.tickTo t
  .next (if s.bit (Reg.PT_CTL page) 0 && (ptCap code).testBit 2 && decide (s.getF (Reg.PT_STALL_LEN page) 15 0 ≠ 0)
      && decide (s.dom (domainOf code inst) = 0) then
    s.setShaker { s.shaker page with stallEnd := s.clk.base + (s.getF (Reg.PT_STALL_LEN page) 15 0 * 2 + 4) / 5 } else s)

/-- A write of `value` to PT_FORCE of a page whose PT_FORCE_CFG.TYPE is `type`. -/
def State.forceWrite (s : State) (req : Requester) (type code inst value : Nat) : State :=
  let page := pageAddr code inst
  if s.getF (Reg.PT_FORCE_CFG page) 3 0 = type then
    s.checkedWrite req (Reg.PT_FORCE page) 4 fun s => s.writeForce req page value else s

/-- FORCE_ECC1. -/
def execForceEcc1 (req : Requester) (code inst value : Nat) (s : State) : Host.Outcome State Fault Refusal :=
  .next (s.forceWrite req 1 code inst value)
/-- FORCE_ECC2. -/
def execForceEcc2 (req : Requester) (code inst value : Nat) (s : State) : Host.Outcome State Fault Refusal :=
  .next (s.forceWrite req 2 code inst value)
/-- FORCE_CHK. -/
def execForceChk (req : Requester) (code inst value : Nat) (s : State) : Host.Outcome State Fault Refusal :=
  .next (s.forceWrite req 3 code inst value)
/-- FORCE_TKT. -/
def execForceTkt (req : Requester) (code inst value : Nat) (s : State) : Host.Outcome State Fault Refusal :=
  .next (s.forceWrite req 4 code inst value)
/-- FORCE_DETECT. -/
def execForceDetect (req : Requester) (code inst value : Nat) (s : State) : Host.Outcome State Fault Refusal :=
  .next (s.forceWrite req 5 code inst value)
/-- FORCE_CANCEL: a write to PT_FORCE with CANCEL set discards what remains. -/
def execForceCancel (req : Requester) (code inst : Nat) (s : State) : Host.Outcome State Fault Refusal :=
  .next (s.checkedWrite req (Reg.PT_FORCE (pageAddr code inst)) 4 fun s => s.writeForce req (pageAddr code inst) (2 ^ 30))

end Sys2Proof.Machine
end

