-- ==== Sys2Proof/Machine/Pages.lean ====
section
/-! DEFINITION. The header commands of a register page: PAGE_LOCK, WORLD and IRQ_FORCE (R45, R50, R51, R53, R54, R56). -/

namespace Sys2Proof.Machine

/-- R50, R51, R72: what a write of `v` to PAGE_LOCK of `page` does: LOCK sets and stays, LOCK_WORLD takes the world that
set it, and a 1 at bit 1 clears VIOL. -/
def State.lockPage (s : State) (req : Requester) (page v : Nat) : State :=
  let s := if v.testBit 1 then s.putBit (page + Hdr.PAGE_LOCK) 1 false else s
  if v.testBit 0 && !s.bit (page + Hdr.PAGE_LOCK) 0 then
    (s.putBit (page + Hdr.PAGE_LOCK) 0 true).putBit (page + Hdr.PAGE_LOCK) 8 (s.world req)
  else s

/-- R607: the frames in progress of camera port `p` are discarded without a record. -/
def State.camDiscard (s : State) (p : Nat) : State :=
  { s with cams := updAt s.cams p fun (x : Cam) => { x with
      strs := x.strs.map fun (y : CamStr) => { y with inFrame := false, cur := none } } }

/-- R50, R53, R54: what a write of `v` to WORLD of `page` does. A write to a locked page counts LOCKED and sets VIOL where it would change
OWNER or SAP_READ, and records nothing where it rewrites them unchanged, as R50 says; R53 read alone would count that too (DEDUCED, log
entry 54). A sapwood write, or one to a page with FIXED set, counts WORLD. A change of OWNER clears IRQ_EN and IRQ_PEND, closes the
page's perturbation window (R681), and stops the fetches of a ring (R269). -/
def State.writeWorld (s : State) (req : Requester) (page v : Nat) : State :=
  let a := page + Hdr.WORLD
  if s.bit (page + Hdr.PAGE_LOCK) 0 then
    if s.getF a 1 0 = v % 4 then s else (s.putBit (page + Hdr.PAGE_LOCK) 1 true).quiet req a Cause.LOCKED
  else if !s.world req || s.bit a 31 then s.quiet req a Cause.WORLD
  else
    let changed := s.getF a 0 0 ≠ v % 2
    let s := s.putF a 1 0 v
    let s := if changed && decide (regCode page = Blk.CAM) then s.camDiscard (regInst page) else s
    let s := if changed && decide (regCode page = Blk.RING) then
        { s with rings := updAt s.rings (regInst page) fun (R : RingSt) => { R with moved := true } } else s
    if changed then ((s.wr (page + Hdr.IRQ_EN) 0).wr (page + Hdr.IRQ_PEND) 0).closeWindows fun p => p == page else s

/-- R56: what a write of `v` to IRQ_FORCE of `page` does. -/
def State.forceIrq (s : State) (page v : Nat) : State :=
  s.wr (page + Hdr.IRQ_PEND) (s.rd (page + Hdr.IRQ_PEND) ||| v &&& irqBits (regCode page) (regInst page))

/-- PAGE_LOCK: a write of `value` to PAGE_LOCK of block code `code`, instance `inst`. -/
def execPageLock (req : Requester) (code inst value : Nat) (s : State) : Host.Outcome State Fault Refusal :=
  .next (s.checkedWrite req (pageAddr code inst + Hdr.PAGE_LOCK) 4 fun s => s.lockPage req (pageAddr code inst) value)

/-- WORLD_WRITE: a write of `value` to WORLD of block code `code`, instance `inst`. -/
def execWorldWrite (req : Requester) (code inst value : Nat) (s : State) : Host.Outcome State Fault Refusal :=
  .next (s.checkedWrite req (pageAddr code inst + Hdr.WORLD) 4 fun s => s.writeWorld req (pageAddr code inst) value)

/-- IRQ_FORCE: a write of `value` to IRQ_FORCE of block code `code`, instance `inst`. -/
def execIrqForce (req : Requester) (code inst value : Nat) (s : State) : Host.Outcome State Fault Refusal :=
  .next (s.checkedWrite req (pageAddr code inst + Hdr.IRQ_FORCE) 4 fun s => s.forceIrq (pageAddr code inst) value)

end Sys2Proof.Machine
end

