-- ==== Sys2Proof/Machine/Angle.lean ====
section
/-! DEFINITION. The angle clock (R75 to R90, R96, R97, R101, R104 to R109, R705 to R709): sources, interpolation, quality,
slews, standstill, the speed message, the event log, TIME and prediction. Angles are exact rationals in ticks, times are
base ticks of 2.5 ns. Sources: 0 to 3 WSS_A to WSS_D, 4 and 5 MPOS_A and MPOS_B, 6 the speed message, 7 none. The bus update
and the alarms are in AngleBus.lean. -/

namespace Sys2Proof.Machine

def turn : Rat := 16777216

/-- Round to nearest, ties away from zero (R707). -/
def roundAway (q : Rat) : Int := if q < 0 then -((-q + 1 / 2).floor) else (q + 1 / 2).floor

def State.src (s : State) (i : Nat) : AngSrc := s.ang.srcs.getD i {}
def State.setSrc (s : State) (i : Nat) (f : AngSrc → AngSrc) : State :=
  { s with ang := { s.ang with srcs := updAt s.ang.srcs i f } }
def State.adom (s : State) (d : Nat) : AngDom := s.ang.doms.getD d {}
def State.setDom (s : State) (d : Nat) (f : AngDom → AngDom) : State :=
  { s with ang := { s.ang with doms := updAt s.ang.doms d f } }

def angPage : Nat := pageAddr Blk.ANGLE 0

/-- CFG, ratio and STAT registers of a source. -/
def srcCfg (i : Nat) : Nat := if i < 4 then Reg.ANGLE_WSS_CFG i else if i < 6 then Reg.ANGLE_MPOS_CFG (i - 4) else Reg.ANGLE_SPD_CFG
def srcStat (i : Nat) : Nat := if i < 4 then Reg.ANGLE_WSS_STAT i else Reg.ANGLE_MPOS_STAT (i - 4)
def srcTs (i : Nat) : Nat := if i < 4 then Reg.ANGLE_WSS_TS i else Reg.ANGLE_MPOS_TS (i - 4)

namespace SrcSt
abbrev OFF : Nat := 0
abbrev ACQUIRE : Nat := 1
abbrev TRACK : Nat := 2
abbrev SILENT : Nat := 3
abbrev LOST : Nat := 4
abbrev QUALIFYING : Nat := 5
end SrcSt

/-- STATE of a source; the speed message tracks while it is available. -/
def State.srcState (s : State) (i : Nat) : Nat :=
  if i < 6 then s.getF (srcStat i) 2 0 else if s.ang.spdOk && s.bit Reg.ANGLE_SPD_CFG 31 then SrcSt.TRACK else SrcSt.LOST
def State.setSrcState (s : State) (i v : Nat) : State := if i < 6 then s.putF (srcStat i) 2 0 v else s

/-- R84: no accepted event of source `i` counts any more: QUAL_COUNT of its STAT. -/
def State.noCount (s : State) (i : Nat) : State := if i < 6 then s.putF (srcStat i) 15 8 0 else s

/-- An input is enabled (R81). -/
def State.srcOn (s : State) (i : Nat) : Bool :=
  if i < 4 then s.bit (srcCfg i) 14 else if i < 6 then decide (s.getF (srcCfg i) 1 0 ≠ 0) else s.bit Reg.ANGLE_SPD_CFG 31

/-- R78: edges per tooth. -/
def State.wssEdges (s : State) (i : Nat) : Nat := if s.getF (srcCfg i) 9 8 = 2 then 2 else 1

/-- R79: an MPOS input reads position words. -/
def State.isRdc (s : State) (i : Nat) : Bool := decide (i = 4 ∨ i = 5) && decide (s.getF (srcCfg i) 1 0 = 2)

/-- R78, R79: the own advance of one event of a source, in ticks. -/
def State.pitch (s : State) (i : Nat) : Rat :=
  if i < 4 then turn / (s.getF (srcCfg i) 7 0 * s.wssEdges i : Nat)
  else if s.getF (srcCfg i) 1 0 = 1 then
    turn / (if s.getF (srcCfg i) 31 16 = 0 then 65536 else s.getF (srcCfg i) 31 16 : Nat)
  else turn / 64

/-- R79: one tooth-equivalent of a source, in its own ticks. -/
def State.toothEq (s : State) (i : Nat) : Rat := if i < 4 then s.pitch i else turn / 64

/-! ## Domains and their references (R75, R76) -/

def State.primary (s : State) (d : Nat) : Nat := s.getF (Reg.ANGLE_DOM_CFG d) 2 0
/-- The sources in ALT of a domain, in order; a source is no alternative of the domain whose PRIMARY it is (R76). -/
def State.alts (s : State) (d : Nat) : List Nat :=
  ((List.range 4).map fun k => s.getF (Reg.ANGLE_DOM_ALT d) (4 * k + 2) (4 * k)).filter fun i => i < 7 && i != s.primary d
/-- The references of a domain, best first: PRIMARY, then ALT0 to ALT3, then the speed message where it is allowed. -/
def State.refs (s : State) (d : Nat) : List Nat :=
  let p := s.primary d
  (if p < 7 then [p] else []) ++ s.alts d ++ (if s.bit (Reg.ANGLE_DOM_ALT d) 16 && p != 6 && !(s.alts d).contains 6 then [6] else [])

/-- Level Q3 to Q0 of a source in a domain (R75); one that a write has left unnamed while in use keeps the level of its kind (log entry 57). -/
def State.level (s : State) (d i : Nat) : Nat :=
  if i = 7 then 0 else if i = s.primary d then 3 else if i = 6 ∧ !(s.alts d).contains 6 then 1 else 2

/-- Place of a source in the order of references; sources not named, and hold, come last. -/
def State.rank (s : State) (d i : Nat) : Nat := ((s.refs d).takeWhile fun j => j != i).length

/-- R76: primary-wheel turns per turn of a source; the speed message comes in primary-wheel turns. -/
def State.toPrimary (s : State) (i : Nat) : Rat :=
  if i = 6 then 1
  else if i < 4 then (s.rd (Reg.ANGLE_WSS_RATIO i) : Rat) / 1073741824
  else turn / (s.rd (Reg.ANGLE_MPOS_RATIO (i - 4)) : Rat)

/-- R76: the domain factor. -/
def State.domFactor (s : State) (d : Nat) : Rat := if d = 0 then 1 else (s.rd (Reg.ANGLE_MPOS_RATIO (d - 1)) : Rat) / turn

/-- Domain ticks per own tick of a source. -/
def State.conv (s : State) (d i : Nat) : Rat := if i = s.primary d then 1 else s.toPrimary i * s.domFactor d

/-- R81: the judging domain. -/
def State.judge (s : State) (i : Nat) : Nat := ((List.range 3).find? fun d => (s.refs d).contains i).getD 0

/-! ## dom_STAT (R109) -/

def State.curSrc (s : State) (d : Nat) : Nat := s.getF (Reg.ANGLE_DOM_STAT d) 6 4
def State.tgtSrc (s : State) (d : Nat) : Nat := s.getF (Reg.ANGLE_DOM_STAT d) 10 8
def State.slewing (s : State) (d : Nat) : Bool := s.bit (Reg.ANGLE_DOM_STAT d) 12
def State.stopped (s : State) (d : Nat) : Bool := s.bit (Reg.ANGLE_DOM_STAT d) 14
def State.acquiring (s : State) (d : Nat) : Bool := s.bit (Reg.ANGLE_DOM_STAT d) 16
def State.effQ (s : State) (d : Nat) : Nat := s.getF (Reg.ANGLE_DOM_STAT d) 1 0
/-- The reference the published angle follows: a slew's target, else the reference in use. -/
def State.follow (s : State) (d : Nat) : Nat := if s.slewing d then s.tgtSrc d else s.curSrc d

/-- The HOLD_EXP level. -/
def State.holdExp (s : State) (d : Nat) (b : Bool) : State :=
  let s := s.putBit (Reg.ANGLE_DOM_STAT d) 15 b
  s.lvl angPage 3 ((List.range 3).any fun e => s.bit (Reg.ANGLE_DOM_STAT e) 15)

/-- EFF_Q of a domain and FUNC_READY.ANGLE (R106). HOLD_EXP clears where the domain leaves Q0: the model's choice (log entry 62). -/
def State.setQ (s : State) (d q : Nat) : State :=
  let s := s.putF (Reg.ANGLE_DOM_STAT d) 1 0 q
  let s := s.funcSet Fn.ANGLE ((List.range 3).any fun e => decide (1 ≤ s.effQ e))
  if q = 0 then s else s.holdExp d false

/-! ## Event log (R106, R107, R109) -/

/-- The head entry and LEVEL as registers show them. -/
def State.angLogSync (s : State) : State :=
  let h := s.ang.log.headD (0, 0)
  ((((s.wr Reg.ANGLE_LOG_EVT h.1).wr Reg.ANGLE_LOG_TLO (h.2 % 2 ^ 32)).wr Reg.ANGLE_LOG_THI (h.2 / 2 ^ 32)).putF
    Reg.ANGLE_LOG_STAT 4 0 s.ang.log.length).putBit Reg.ANGLE_STAT 8 (s.ang.log != [])

/-- TIME at base tick `t`, in ns, at the current rate. -/
def State.timeAt (s : State) (t : Nat) : Nat :=
  ((s.clk.time : Int) + ((t : Int) - (s.clk.base : Int)) * (timeStep (s.rdS Reg.ANGLE_TIME_RATE) : Int)).toNat / 2000000000 % 2 ^ 64

/-- Log an entry at base tick `t`: dropped and counted when 16 are held (R107). -/
def State.angLog (s : State) (t type d from' to' fq tq info : Nat) : State :=
  if 16 ≤ s.ang.log.length then (s.incSat Reg.ANGLE_LOG_STAT 15 8).evt angPage 6
  else { s with ang := { s.ang with log := s.ang.log ++
    [(type + d * 16 + from' * 64 + to' * 512 + 4096 * fq + 16384 * tq + 65536 * (info % 65536), s.timeAt t)] } }.angLogSync

namespace LogT
abbrev REF_LOSS : Nat := 1
abbrev REF_SWITCH : Nat := 2
abbrev RETURN : Nat := 3
abbrev STOPPED : Nat := 4
abbrev MOVING : Nat := 5
abbrev HOLD_EXPIRED : Nat := 6
abbrev INDEX_SLIP : Nat := 7
abbrev SLEW_EXT : Nat := 8
abbrev TIME_STATE : Nat := 9
end LogT

/-! ## Interpolation (R80) -/

/-- The angle of a predictor at base tick `t`. -/
def Pred.eval (p : Pred) (t : Nat) : Rat :=
  let tau : Rat := (t - p.t0 : Nat)
  p.ang + p.w * tau + p.a * tau * tau / 2 + (if p.per = 0 then p.res else p.res * min (tau / p.per) 1)

/-- Its first derivative at `t` (R707). -/
def Pred.slope (p : Pred) (t : Nat) : Rat :=
  let tau : Rat := (t - p.t0 : Nat)
  p.w + p.a * tau + (if p.per ≠ 0 ∧ t - p.t0 < p.per then p.res / p.per else 0)

/-- w0, a and P of R80 from the last three accepted teeth, where two accepted periods exist. -/
def motion : List (Nat × Rat) → Option (Rat × Rat × Nat)
  | (t0, d0) :: (t1, d1) :: (t2, _) :: _ =>
    let p : Rat := (t0 - t1 : Nat)
    let w := d0 / p
    let wp := d1 / ((t1 - t2 : Nat) : Rat)
    let a := 2 * (w - wp) / ((t0 - t2 : Nat) : Rat)
    some (w + a * p / 2, a, t0 - t1)
  | _ => none

/-- The largest value on [0, x] of w·τ + a·τ²/2. -/
def peak (w a x : Rat) : Rat :=
  let e := w * x + a * x * x / 2
  if a < 0 ∧ 0 < w ∧ -w / a ≤ x then w * w / (-2 * a) else max 0 e

/-- Some positive τ reaches `p`. -/
def reaches (w a p : Rat) : Bool := decide (0 < a) || (decide (a = 0) && decide (0 < w)) || (decide (0 < w) && decide (-2 * a * p ≤ w * w))

/-! ## A domain at a bus update -/

/-- The larger of the two fractions of R83. -/
def State.slewFrac (s : State) (d : Nat) (k : Slew) (t : Nat) : Rat :=
  let run := k.acc + (if k.frozen then 0 else t - k.since)
  let f1 : Rat := (run : Rat) / ((400000 * s.getF (Reg.ANGLE_DOM_CFG d) 19 12 : Nat) : Rat)
  let f2 : Rat := k.teeth / ((s.getF (Reg.ANGLE_DOM_CFG d) 11 4 : Nat) : Rat)
  min 1 (max k.f (max f1 f2))

/-- A value lies against the direction of travel from another. -/
def against (dir : Int) (old new : Rat) : Bool := if 0 ≤ dir then decide (new < old) else decide (old < new)

/-- R104, R708: the cascade master is followed. -/
def State.cascOn (s : State) : Bool := s.ang.follows && s.bit Reg.ANGLE_CTL 1 && s.bit Reg.ANGLE_CTL 0

/-- R80, R83, R77: the domain's published angle at base tick `t`, with the slew's f and its end. -/
def State.domRun (s : State) (d t : Nat) : State :=
  let D := s.adom d
  if s.stopped d && !s.cascOn then s.setDom d fun D => { D with heldNow := true }
  else
    let base := D.ref.eval t
    match D.slew with
    | none =>
      if against D.dir D.pub base then s.setDom d fun D => { D with heldNow := true }
      else s.setDom d fun D => { D with pub := base, heldNow := false }
    | some k =>
      let f := s.slewFrac d k t
      let cand := base + k.d0 * (1 - f)
      if against D.dir D.pub cand then
        let fh := if k.d0 = 0 then k.f else 1 - (D.pub - base) / k.d0
        let f' := if k.f ≤ fh ∧ fh ≤ f then fh else k.f
        let s := if s.bit (Reg.ANGLE_DOM_STAT d) 13 then s else
          (s.putBit (Reg.ANGLE_DOM_STAT d) 13 true).angLog t LogT.SLEW_EXT d (s.curSrc d) (s.tgtSrc d) 0 0 0
        s.setDom d fun D => { D with slew := some { k with f := f' }, heldNow := true }
      else if f = 1 then
        let i := s.tgtSrc d
        let s := s.setDom d fun D => { D with pub := cand, heldNow := false, slew := none
                                              ret := match D.ret with
                                                | some r => if r.src = i then none else some r
                                                | none => none }
        if i = 7 then s.putBit (Reg.ANGLE_DOM_STAT d) 12 false else
        ((((s.putF (Reg.ANGLE_DOM_STAT d) 6 4 i).putF (Reg.ANGLE_DOM_STAT d) 10 8 7).putBit (Reg.ANGLE_DOM_STAT d) 12 false)).setQ d (s.level d i)
      else s.setDom d fun D => { D with pub := cand, heldNow := false, slew := some { k with f := f } }

/-! ## Slews and switches (R82, R83, R85) -/

/-- The sign that the speed message takes in domain `d`: it carries no direction, and the model gives it the domain's (log entry 59). -/
def State.msgSign (s : State) (d : Nat) : Rat := if (s.adom d).dir < 0 then -1 else 1

/-- The predictor of source `i` in domain `d` from its last accepted tooth at tooth angle `th`. -/
def State.refOf (s : State) (d i : Nat) (th : Rat) (t : Nat) : Pred :=
  if i = 6 then
    let g := s.domFactor d * s.msgSign d
    match s.ang.msgs with
    | (tm, _) :: _ => { t0 := tm, ang := th, w := (s.src 6).own.w * g, a := (s.src 6).own.a * g }
    | [] => { t0 := t, ang := th }
  else
    let c := s.conv d i
    match (s.src i).teeth, motion (s.src i).teeth with
    | (t0, _) :: _, some (w, a, p) => { t0 := t0, ang := th, w := w * c, a := a * c, per := p }
    | (t0, _) :: _, none => { t0 := t0, ang := th }
    | [], _ => { t0 := t, ang := th }

/-- The grid of a source in a domain's ticks (R86): its pitch, or the turn of a source that reads positions. -/
def State.gridOf (s : State) (d i : Nat) : Rat := (if s.isRdc i then turn else s.pitch i) * s.conv d i

/-- Start a slew of domain `d` to source `i` at `t`. With `regrid` the source's grid is taken nearest the published angle
(R86; log entry 21). -/
def State.startSlew (s : State) (d i t : Nat) (regrid : Bool) : State :=
  let D := s.adom d
  let v := (D.th.getD i none).getD 0
  let ext := (s.refOf d i 0 t).eval t
  let grid := s.gridOf d i
  let th := if i = 6 then D.pub - ext else if regrid then v + grid * (roundAway ((D.pub - (v + ext)) / grid) : Int) else v
  let ref := s.refOf d i th t
  let q := min (s.level d (s.curSrc d)) (s.level d i)
  let s := s.setDom d fun D => { D with ref := ref, th := D.th.set i (some th), stale := D.stale.set i false
                                        slew := some { d0 := D.pub - ref.eval t, since := t }, qual := List.replicate 7 0 }
  let s := (((s.putF (Reg.ANGLE_DOM_STAT d) 10 8 i).putBit (Reg.ANGLE_DOM_STAT d) 12 true).putBit (Reg.ANGLE_DOM_STAT d) 13 false)
  ((s.putF (Reg.ANGLE_DOM_STAT d) 22 20 7).putF (Reg.ANGLE_DOM_STAT d) 31 24 0).setQ d q

/-- The best available reference of a domain other than `i`; 7 for hold (R75, R82). -/
def State.bestRef (s : State) (d i : Nat) : Nat :=
  ((s.refs d).find? fun j => j != i && s.srcOn j && decide (s.srcState j = SrcSt.TRACK)).getD 7

/-- Slope of the published angle of domain `d` at `t` in ticks per base tick: the reference's and that of the slew (R83, R707). -/
def State.pubSlope (s : State) (d t : Nat) : Rat :=
  let D := s.adom d
  D.ref.slope t + match D.slew with
    | none => 0
    | some k =>
      let m : Rat := ((400000 * s.getF (Reg.ANGLE_DOM_CFG d) 19 12 : Nat) : Rat)
      let run := k.acc + (if k.frozen then 0 else t - k.since)
      let f2 : Rat := k.teeth / ((s.getF (Reg.ANGLE_DOM_CFG d) 11 4 : Nat) : Rat)
      if k.frozen || decide ((run : Rat) / m < f2) then 0 else -k.d0 / m

/-- R82, R85, R89, R662: domain `d` goes on from its published angle and speed at Q0; a domain already at Q0 does not fall to it again. -/
def State.domHold (s : State) (d t : Nat) : State :=
  let s := s.domRun d t
  let v := if s.stopped d || (s.adom d).heldNow then 0 else s.pubSlope d t
  let fell := decide (s.effQ d ≠ 0) || s.acquiring d
  let s := s.setDom d fun D => { D with ref := { t0 := t, ang := D.pub, w := v }, slew := none, holdAt := if fell then t else D.holdAt
                                        qual := List.replicate 7 0 }
  (((s.putF (Reg.ANGLE_DOM_STAT d) 6 4 7).putF (Reg.ANGLE_DOM_STAT d) 10 8 7).putBit (Reg.ANGLE_DOM_STAT d) 12 false).setQ d 0

/-- R82, R85: the reference that domain `d` follows is lost at `t`. -/
def State.refLost (s : State) (d t : Nat) : State :=
  let s := s.domRun d t
  let old := s.follow d
  let fq := s.effQ d
  let b := s.bestRef d old
  let s := if b = 7 then s.domHold d t else s.startSlew d b t true
  (s.angLog t LogT.REF_SWITCH d old b fq (s.effQ d) 0).evt angPage 0

/-- QUAL_SRC and QUAL_COUNT of domain `d` (R84, R109): of the references that count, the first in order (DEDUCED). -/
def State.qualShow (s : State) (d : Nat) : State :=
  match (s.refs d).find? fun j => decide ((s.adom d).qual.getD j 0 ≠ 0) && decide (s.rank d j < s.rank d (s.curSrc d)) with
  | some j => (s.putF (Reg.ANGLE_DOM_STAT d) 22 20 j).putF (Reg.ANGLE_DOM_STAT d) 31 24 ((s.adom d).qual.getD j 0)
  | none => s.putF (Reg.ANGLE_DOM_STAT d) 31 24 0

/-- R709: a rejection, silence or loss of source `i` discards the windows it takes part in. -/
def State.learnDrop (s : State) (i : Nat) : State :=
  if i = s.primary 0 then s.each (List.range 4) fun s k => s.setSrc k fun x => { x with learn := none }
  else s.setSrc i fun x => { x with learn := none }

/-- A source is lost at `t` (R81, R97): its history restarts at its first event after (R84, R87; DEDUCED), STATE LOST, REF_LOSS for each domain it serves, LOSS, and those domains switch. -/
def State.loseSrc (s : State) (i t info : Nat) : State :=
  let users := (List.range 3).filter fun d => !s.acquiring d && (decide (s.curSrc d = i) || (s.slewing d && decide (s.tgtSrc d = i)))
  let s := (((s.setSrcState i SrcSt.LOST).noCount i).setSrc i fun x => { x with teeth := [], rej := 0, q := 0 }).learnDrop i
  let s := s.each (List.range 3) fun s d =>
    (s.setDom d fun D => { D with stale := D.stale.set i true, qual := D.qual.set i 0 }).qualShow d
  let s := s.each (if users = [] then [s.judge i] else users) fun s d =>
    s.angLog t LogT.REF_LOSS d i 7 (s.level d i) 0 info
  let s := s.evt angPage 2
  s.each users fun s d => if s.follow d = i then s.refLost d t else s

/-! ## Plausibility (R78, R81) -/

/-- R81: a period `p` for an advance of `adv` own ticks is within PLAUS_PCT % of the predicted period. -/
def State.plausible (s : State) (i p : Nat) (adv : Rat) : Bool :=
  let x := s.src i
  if x.per = 0 ∨ x.teeth.length < 2 then true
  else
    let pct := s.getF (Reg.ANGLE_DOM_LIMITS (s.judge i)) 7 0
    let q : Rat := (pct : Rat) / 100
    let lo := (p : Rat) / (1 + q)
    match motion x.teeth with
    | some (w, a, _) =>
      let sg : Rat := if x.dir < 0 then -1 else 1
      let g := if adv < 0 then -adv else adv
      if reaches (w * sg) (a * sg) g then
        decide (peak (w * sg) (a * sg) lo ≤ g) && (decide (100 ≤ pct) || decide (g ≤ peak (w * sg) (a * sg) ((p : Rat) / (1 - q))))
      else decide (lo ≤ (x.per : Rat)) && (decide (100 ≤ pct) || decide ((x.per : Rat) ≤ (p : Rat) / (1 - q)))
    | none => decide (lo ≤ (x.per : Rat)) && (decide (100 ≤ pct) || decide ((x.per : Rat) ≤ (p : Rat) / (1 - q)))

/-- Motion of a source in km/h after conversion (R81). -/
def State.srcKmh (s : State) (i : Nat) : Rat :=
  if i = 6 then (match s.ang.msgs with
    | (_, v) :: _ => (v : Rat) / 100
    | [] => 0)
  else if (s.src i).teeth.length < 2 then 0
  else
    let w := (s.src i).speed * s.toPrimary i / turn
    (if w < 0 then -w else w) * 400000000 * (s.rd Reg.ANGLE_SPD_CIRC : Rat) / 1000000 * (18 / 5)

/-- R81: LOSS_FACTOR periods have passed since the last accepted event of source `i`, so that it is silent. -/
def State.silentDue (s : State) (i : Nat) : Bool :=
  match (s.src i).teeth with
  | (t1, _) :: _ => decide ((s.src i).per ≠ 0) && decide (s.getF (Reg.ANGLE_DOM_CFG (s.judge i)) 31 28 * (s.src i).per ≤ s.clk.base - t1)
  | [] => false

/-- Another source of domain `d` than `i` reports motion at MOVE_MIN or more (R81): one that is enabled and neither lost nor silent. -/
def State.othersMove (s : State) (d i : Nat) : Bool :=
  (s.refs d).any fun j => j != i && s.srcOn j && !s.silentDue j
    && ([SrcSt.ACQUIRE, SrcSt.TRACK, SrcSt.QUALIFYING].contains (s.srcState j))
    && decide ((s.getF (Reg.ANGLE_DOM_LIMITS d) 31 24 : Rat) ≤ s.srcKmh j)

/-! ## Domains at a tooth (R80, R84, R86 to R88, R706, R708) -/

/-- Leave STOPPED (R88): MOVING is logged, and a frozen slew resumes (R85). -/
def State.startMoving (s : State) (d t : Nat) : State :=
  if s.stopped d then
    let s := (s.putBit (Reg.ANGLE_DOM_STAT d) 14 false).setDom d fun D =>
      { D with slew := D.slew.map fun k => { k with frozen := false, since := s.clk.base } }
    (s.angLog t LogT.MOVING d (s.curSrc d) 7 0 0 0).evt angPage 0
  else s

/-- R87: the speed of source `i` over its last period in ticks of domain `d`; the speed message's is that of the newest message. -/
def State.srcSpeed (s : State) (d i : Nat) : Rat :=
  if i = 6 then (s.src 6).own.w * s.domFactor d * s.msgSign d else (s.src i).speed * s.conv d i

/-- R87: the bound at an event of a returning reference `i` whose tooth angle is `th`. In the slew back the other reference is the one
it leaves (log entry 40). -/
def State.boundAt (s : State) (d i : Nat) (th : Rat) (first : Bool) (t : Nat) : State :=
  let D := s.adom d
  let om := if s.pubSlope d t < 0 then -s.pubSlope d t else s.pubSlope d t
  let k := if s.follow d = i then s.curSrc d else s.follow d
  let v := if k = i ∨ k = 7 then D.ref.slope t else s.srcSpeed d k
  let old := match D.ret with
    | some r => if r.src = i && !first then some r else none
    | none => none
  let r : Returning := match old with
    | some r => { r with omax := max r.omax om, pmax := max r.pmax (s.src i).per }
    | none =>
      let e := D.pub - th
      { src := i, d0 := if e < 0 then -e else e, omax := om, pmax := (s.src i).per
        rem := match D.slew with
          | some k => ((400000 * s.getF (Reg.ANGLE_DOM_CFG d) 19 12 : Nat) : Rat) * (1 - s.slewFrac d k t)
          | none => 0 }
  let w := s.srcSpeed d i
  let eps := if w = 0 then 0 else (if v - w < 0 then w - v else v - w) / (if w < 0 then -w else w)
  let win := min ((400000 * s.getF (Reg.ANGLE_DOM_CFG d) 19 12 : Nat) : Rat) ((s.getF (Reg.ANGLE_DOM_CFG d) 11 4 * r.pmax : Nat) : Rat)
  let e := r.d0 + eps * r.omax * (r.rem + ((s.getF (Reg.ANGLE_DOM_CFG d) 27 20 * r.pmax : Nat) : Rat) + win) + 1
  (s.setDom d fun D => { D with ret := some r }).wr (Reg.ANGLE_DOM_EBOUND d) (min e.ceil.toNat (2 ^ 32 - 1))

/-- R84, R108: reference `i` of domain `d` qualifies at `t`. -/
def State.qualified (s : State) (d i t : Nat) : State :=
  let s := if s.srcState i = SrcSt.QUALIFYING then s.setSrcState i SrcSt.TRACK else s
  if s.acquiring d then
    let th := ((s.adom d).th.getD i none).getD (s.adom d).pub
    let s := s.setDom d fun D => { D with ref := s.refOf d i th t, slew := none, pub := th, dir := (s.src i).dir
                                          qual := List.replicate 7 0, holdAt := t }
    let s := ((s.putBit (Reg.ANGLE_DOM_STAT d) 16 false).putF (Reg.ANGLE_DOM_STAT d) 6 4 i).setQ d (s.level d i)
    let s := (s.putF (Reg.ANGLE_DOM_STAT d) 22 20 7).putF (Reg.ANGLE_DOM_STAT d) 31 24 0
    ((s.angLog t LogT.REF_SWITCH d 7 i 0 (s.level d i) 0).evt angPage 0).startMoving d t
  else
    let s := s.startMoving d t
    ((s.angLog t LogT.RETURN d (s.curSrc d) i (s.level d (s.curSrc d)) (s.level d i) 0).evt angPage 1).startSlew d i s.clk.base (decide (i = 6))

/-- An accepted event of reference `i` counts toward its qualification in domain `d` (R84). -/
def State.countRef (s : State) (d i t : Nat) : State :=
  if s.slewing d || decide (s.rank d (s.curSrc d) ≤ s.rank d i) then s
  else
    let n := (s.adom d).qual.getD i 0 + 1
    let s := s.setDom d fun D => { D with qual := D.qual.set i n }
    let s := s.qualShow d
    let s := if i < 6 ∧ s.judge i = d then s.putF (srcStat i) 15 8 n else s
    if s.getF (Reg.ANGLE_DOM_CFG d) 27 20 ≤ n then s.qualified d i t else s

/-- R79, R86: the tooth angle of source `i` in domain `d` after an own advance of `adv`: on from its last one; on its own grid nearest the
published angle where it returns or is new; the position word, as bits 23:0, where it reads positions and its turn is the domain's. -/
def State.toothAngle (s : State) (d i : Nat) (adv : Rat) : Rat :=
  let D := s.adom d
  let c := s.conv d i
  let g := s.gridOf d i
  let near (v : Rat) : Rat := v + g * (roundAway ((D.pub - v) / g) : Int)
  let own : Rat := if s.isRdc i then (((s.src i).word.getD 0 : Nat) : Rat) * c else 0
  match D.th.getD i none with
  | none =>
    if !s.acquiring d then near own
    else if s.isRdc i ∧ i = s.primary d then turn * (D.pub / turn).floor + own else D.pub
  | some v => if D.stale.getD i false then near (v + adv * c) else v + adv * c

/-- An accepted tooth of source `i` at `t` reaches domain `d`, which follows it or names it (R97): its tooth angle, the index (R86), then the
reference or the count. `adv` is the own advance; `turns` says that the source changed its direction at this tooth (R706). The advance at the
first tooth after standstill is that of the tooth angle (R88): a published angle beyond it holds (log entry 61). -/
def State.domTooth (s : State) (d i t : Nat) (adv : Rat) (idx turns : Bool) : State :=
  if !(s.refs d).contains i && s.follow d != i then s
  else
    let s := s.domRun d s.clk.base
    let D := s.adom d
    let c := s.conv d i
    let grid := s.pitch i * c
    let th0 := s.toothAngle d i adv
    let back := D.stale.getD i false
    let isP := decide (i = s.primary d)
    let setFrac := idx && isP && s.acquiring d && !D.indexed
    let near : Rat := turn * (roundAway (th0 / turn) : Int)
    let off := if th0 - near < 0 then near - th0 else th0 - near
    let slip := idx && isP && !setFrac && decide (grid / 2 < off)
    let th := if setFrac then turn * (th0 / turn).floor else if slip then near else th0
    let s := s.setDom d fun D => { D with th := D.th.set i (some th), stale := D.stale.set i false, indexed := D.indexed || (idx && isP) }
    let s := if slip then (s.angLog t LogT.INDEX_SLIP d i i 0 0 0).evt angPage 7 else s
    if s.follow d = i ∧ !s.acquiring d then
      let s := s.startMoving d t
      let D := s.adom d
      let refNow := if D.slew == none && D.heldNow && !slip then D.pub else D.ref.eval t
      let ref : Pred := match motion (s.src i).teeth with
        | some (w, a, p) => { t0 := t, ang := if slip then th else refNow, w := w * c, a := a * c, res := if slip then 0 else th - refNow, per := p }
        | none => { t0 := t, ang := th }
      let turned := turns && decide (D.dir ≠ (s.src i).dir)
      let step := (if adv < 0 then -adv else adv) / s.toothEq i
      let s := s.setDom d fun D => { D with ref := ref, dir := (s.src i).dir
                                            slew := if slip then some { d0 := D.pub - ref.eval s.clk.base, since := s.clk.base }
                                                    else D.slew.map fun k => { k with teeth := k.teeth + step, d0 := if turned then 0 else k.d0 }
                                            pub := if turned then th else D.pub }
      let s := if slip && !s.slewing d then
          ((s.putF (Reg.ANGLE_DOM_STAT d) 10 8 i).putBit (Reg.ANGLE_DOM_STAT d) 12 true).putBit (Reg.ANGLE_DOM_STAT d) 13 false else s
      match (s.adom d).ret with
      | some r => if r.src = i then s.boundAt d i th false t else s
      | none => s
    else
      let back := back || (match (s.adom d).ret with
        | some r => r.src == i
        | none => false)
      let better := back && decide (s.rank d i < s.rank d (s.follow d)) && !s.acquiring d
      let s := if better then s.boundAt d i th (D.stale.getD i false) t else s
      s.countRef d i t

/-! ## LEARN (R709) -/

/-- A tooth of the WHEEL primary was accepted at `t`: windows of the other WSS sources count it and end after 256. The last primary tooth of a
counted window is the first of the next: the spec says nothing of it, and the model shares it (log entry 58). -/
def State.learnTooth (s : State) (t : Nat) : State :=
  let p := s.primary 0
  s.each ((List.range 4).filter fun i => i != p && s.bit (srcCfg i) 15 && decide (s.srcState i = SrcSt.TRACK)) fun s i =>
    let here := (s.src i).own.eval t
    match (s.src i).learn with
    | none => s.setSrc i fun x => { x with learn := some ⟨(s.src p).th, here, 1⟩ }
    | some l =>
      if l.n + 1 < 256 then s.setSrc i fun x => { x with learn := some { l with n := l.n + 1 } }
      else
        let num := (s.src p).th - l.prim
        let den := here - l.src
        let s := s.setSrc i fun x => { x with learn := some ⟨(s.src p).th, here, 1⟩ }
        if den = 0 then s
        else s.wr (Reg.ANGLE_WSS_RATIO i) (max 1 (min (roundAway (1073741824 * (num / den))) (2 ^ 32 - 1))).toNat

/-! ## Standstill (R88) -/

/-- Domain `d`, whose reference is silent, enters STOPPED at `t`; a running slew freezes (R85). -/
def State.stopDom (s : State) (d t : Nat) : State :=
  let s := s.domRun d t
  let s := s.setDom d fun D => { D with heldNow := true, ref := { t0 := t, ang := D.ref.eval t }
                                        slew := D.slew.map fun k => { k with frozen := true, acc := k.acc + (t - k.since) } }
  (((s.putBit (Reg.ANGLE_DOM_STAT d) 14 true).angLog t LogT.STOPPED d (s.follow d) 7 0 0 0)).evt angPage 0

/-- R81, R88: after a change of the sources' motion: a silent source is lost once another source of its judging domain reports motion, and a
domain whose reference is silent stops while no other source of its own does. -/
def State.motionCheck (s : State) : State :=
  let t := s.clk.base
  let s := s.each (List.range 6) fun s i =>
    if s.srcOn i && decide (s.srcState i = SrcSt.SILENT) && s.othersMove (s.judge i) i then s.loseSrc i t 0 else s
  s.each (List.range 3) fun s d =>
    if !s.acquiring d && !s.stopped d && decide (s.follow d < 6) && decide (s.srcState (s.follow d) = SrcSt.SILENT) && !s.othersMove d (s.follow d)
    then s.stopDom d t else s

/-- Source `i` has had no accepted event for LOSS_FACTOR periods at `t`: it is lost where another source of its judging domain moves (R81), else
it is silent and its history restarts at its next event (R88). -/
def State.goSilent (s : State) (i t : Nat) : State :=
  (if s.othersMove (s.judge i) i then s.loseSrc i t 0
  else ((s.setSrcState i SrcSt.SILENT).setSrc i fun x => { x with teeth := [] }).learnDrop i).motionCheck

/-- The speed message is older than MAX_AGE ms at `t` (R81). -/
def State.msgExpire (s : State) (t : Nat) : State :=
  match s.ang.msgs with
  | (t1, _) :: _ =>
    if s.ang.spdOk && decide (400000 * s.getF Reg.ANGLE_SPD_CFG 15 0 < t - t1) then
      (({ s with ang := { s.ang with spdOk := false } }.loseSrc 6 t 0).motionCheck)
    else s
  | [] => s

/-- R101: before an event of source `i` at `t` the losses of other sources that are due by then. -/
def State.lossFirst (s : State) (i t : Nat) : State :=
  let s := s.each ((List.range 6).filter fun j => j != i) fun s j =>
    if s.srcOn j && decide (s.srcState j ≠ SrcSt.LOST) && s.silentDue j then s.goSilent j t else s
  if i = 6 then s else s.msgExpire t

/-! ## Events of a source -/

/-- R81: a rejected event. -/
def State.rejectTooth (s : State) (i : Nat) : State :=
  let s := ((s.incSat (srcStat i) 31 16).noCount i).learnDrop i
  let s := s.each (List.range 3) fun s d => (s.setDom d fun D => { D with qual := D.qual.set i 0 }).qualShow d
  let n := (s.src i).rej + 1
  if 3 ≤ n ∧ s.srcState i ≠ SrcSt.LOST then (s.loseSrc i s.clk.base 0).motionCheck else s.setSrc i fun x => { x with rej := n, q := 0 }

/-- An accepted event: the source's history, state and predictor, then the domains. A restart keeps the last accepted period, which times
the next silence (R81), but for a change of direction (R706); the first event after a loss keeps the speed of that period too (R87). -/
def State.acceptTooth (s : State) (i t : Nat) (adv : Rat) (dir : Int) (idx restart : Bool) : State :=
  let x := s.src i
  let teeth := if restart then [(t, adv)] else ((t, adv) :: x.teeth).take 3
  let per := match x.teeth with
    | (t1, _) :: _ => if dir ≠ x.dir then 0 else if restart then x.per else t - t1
    | [] => if dir ≠ x.dir then 0 else x.per
  let th := x.th + adv
  let now := x.own.eval t
  let own : Pred := match motion teeth with
    | some (w, a, p) => { t0 := t, ang := now, w := w, a := a, res := th - now, per := p }
    | none => { t0 := t, ang := th }
  let st := s.srcState i
  let q := if st = SrcSt.LOST ∨ st = SrcSt.QUALIFYING then x.q + 1 else 0
  let waits := (List.range 3).any fun d => (s.refs d).contains i && (s.acquiring d || decide (s.rank d i < s.rank d (s.follow d)))
  let st' := if st = SrcSt.LOST ∨ st = SrcSt.QUALIFYING then
      (if !waits && decide (s.getF (Reg.ANGLE_DOM_CFG (s.judge i)) 27 20 ≤ q) then SrcSt.TRACK else SrcSt.QUALIFYING)
    else if 3 ≤ teeth.length then SrcSt.TRACK else SrcSt.ACQUIRE
  let s := s.setSrc i fun x => { x with
    teeth := teeth, th := th, own := own, dir := dir, rej := 0, per := per, q := q
    speed := match teeth with
      | (t0, a) :: (t1, _) :: _ => a / ((t0 - t1 : Nat) : Rat)
      | _ => if dir = x.dir ∧ st = SrcSt.LOST then x.speed else 0 }
  let s := ((s.setSrcState i st').wr (srcTs i) (s.timeAt t % 2 ^ 32))
  let s := if idx then s.putBit (srcStat i) 3 true else s
  let s := if i = s.primary 0 then s.learnTooth t else s
  (s.each (List.range 3) fun s d => s.domTooth d i t adv idx (decide (dir ≠ x.dir))).motionCheck

/-- A tooth, count or sample of source `i` at `t` with its direction and absolute advance; the index rule of R78 has been
applied by the caller (R78, R81, R88, R706). -/
def State.srcEvent (s : State) (i t : Nat) (step : Rat) (dir : Int) (idx : Bool) (tooth : Bool) : State :=
  let x := s.src i
  let adv : Rat := if dir < 0 then -step else step
  match x.teeth with
  | [] => s.acceptTooth i t adv dir idx true
  | (t1, _) :: _ =>
    let p := t - t1
    if dir ≠ x.dir then s.acceptTooth i t adv dir idx true
    else if 400000000 < p then s.acceptTooth i t adv dir idx true
    else if tooth ∧ p < 4000 then s.rejectTooth i
    else if p = 0 then s.rejectTooth i
    else if s.plausible i p adv then s.acceptTooth i t adv dir idx false
    else s.rejectTooth i

/-! ## Publication (R77, R105, R707) -/

/-- The jitter offset of domain `d` (R675). -/
def State.jitter (s : State) (d : Nat) : Int :=
  if s.bit Reg.ANGLE_STAT 0 && s.bit (Reg.PT_JIT angPage) (24 + d) then (s.adom d).jit else 0

/-- R87: ω is the highest speed of the domain in the interval of a returning reference. -/
def State.omegaSeen (s : State) (d t : Nat) : State :=
  let v := s.pubSlope d t
  s.setDom d fun D => { D with ret := D.ret.map fun r => { r with omax := max r.omax (if v < 0 then -v else v) } }

/-- R77, R675, R707: domain `d` shows its angle, speed and acceleration at base tick `t`. -/
def State.showAt (s : State) (d t : Nat) : State :=
  let s := (s.domRun d t).omegaSeen d t
  let D := s.adom d
  let sum := D.pub.floor + s.jitter d
  let hold := against D.dir (D.shown : Rat) (sum : Rat)
  let v := if hold then D.shown else sum
  let s := (s.setDom d fun D => { D with shown := v }).wr (Reg.ANGLE_DOM_ANGLE d) (enc 32 v)
  let still := hold || D.heldNow
  let s := s.wrS (Reg.ANGLE_DOM_SPEED d) (if still then 0 else roundAway (102400000 * s.pubSlope d t))
  s.wrS (Reg.ANGLE_DOM_ACCEL d) (if still then 0 else roundAway (40960000000000 * D.ref.a))

/-- The bus carries a new value of domain `d` while the clock is enabled (R77, R708). -/
def State.domShow (s : State) (d t : Nat) : State := if s.bit Reg.ANGLE_CTL 0 then s.showAt d t else s

/-- R105: what an event changes in dom_STAT is read with the angle, speed and acceleration of the same bus update (log entry 66). -/
def State.publish (s : State) : State := if s.aEntry then s.each (List.range 3) fun s d => s.domShow d s.clk.base else s

/-- Local sources act: the clock is enabled and no cascade master is followed (R104, R708). -/
def State.tracking (s : State) : Bool := s.aEntry && s.bit Reg.ANGLE_CTL 0 && !s.cascOn

/-- R78, R706: a tooth event of WSS `i` with its direction: the index tooth is one whose period exceeds (E·g + 0.5) times the
last accepted period; the first tooth of a new direction is none. -/
def State.wssTooth (s : State) (i t : Nat) (dir : Int) : State :=
  let g := s.getF (srcCfg i) 11 10
  let e := s.wssEdges i
  let idx := match (s.src i).teeth with
    | (t1, _) :: (t0, _) :: _ => decide (g ≠ 0) && decide (dir = (s.src i).dir) && decide ((2 * e * g + 1) * (t1 - t0) < 2 * (t - t1)) && decide (t - t1 ≤ 400000000)
    | _ => false
  s.srcEvent i t (if idx then s.pitch i * (e * g + 1 : Nat) else s.pitch i) dir idx true

/-- The direction a decided pulse gives (R78). -/
def pulseDir (rev : Bool) : Int := if rev then -1 else 1

/-- An edge of WSS `i` at base tick `t` that the glitch filter passes (R78). -/
def State.wssEdge (s : State) (i : Nat) (rising : Bool) (t : Nat) : State :=
      let e := s.getF (srcCfg i) 9 8
      let sel := e = 2 ∨ (e = 0 ∧ rising) ∨ (e = 1 ∧ !rising)
      if s.getF (srcCfg i) 13 12 = 1 then
        if rising then s.setSrc i fun x => { x with rise := some t, rev := none }
        else
          let x := s.src i
          let rev := match x.rise, x.rev with
            | _, some r => r
            | some r, none => decide (s.getF (srcCfg i) 31 24 * 400 ≤ t - r)
            | none, none => false
          let s := match x.rise, x.rev with
            | some r, none => if e = 0 ∨ e = 2 then s.wssTooth i r (pulseDir rev) else s
            | _, _ => s
          let s := if sel then s.wssTooth i t (pulseDir rev) else s
          s.setSrc i fun x => { x with rise := none, rev := none }
      else if sel then s.wssTooth i t 1 else s

/-- WSS_EDGE: an edge on WSS `i` at base tick `t`; `pulse` is the length in base ticks of the pulse it belongs to, as the
glitch filter sees it (R78). -/
def execWssEdge (i : Nat) (rising : Bool) (pulse t : Nat) (s : State) : Host.Outcome State Fault Refusal :=
  let s := s.tickTo t
  .next (if 4 ≤ i ∨ !s.tracking ∨ !s.srcOn i ∨ pulse < s.getF (srcCfg i) 23 16 * 40 then s
    else ((s.lossFirst i t).wssEdge i rising t).publish)

/-- DIR_PW_TIMEOUT: at base tick `t` DIR_PW µs have passed since the rising edge of WSS `i`: the pulse marks reverse travel
and a tooth on that edge is processed (R78). -/
def execDirPwTimeout (i t : Nat) (s : State) : Host.Outcome State Fault Refusal :=
  let s := s.tickTo t
  .next (if i < 4 ∧ s.tracking ∧ s.srcOn i ∧ s.getF (srcCfg i) 13 12 = 1 then
    match (s.src i).rise, (s.src i).rev with
    | some r, none =>
      if r + s.getF (srcCfg i) 31 24 * 400 ≤ t then
        let s := (s.lossFirst i t).setSrc i fun x => { x with rev := some true }
        (if s.getF (srcCfg i) 9 8 ≠ 1 then s.wssTooth i r (-1) else s).publish
      else s
    | _, _ => s
  else s)

/-- QUAD_COUNT: a quadrature count on MPOS `m` at base tick `t`; `z` is the Z input (R79). -/
def execQuadCount (m : Nat) (up z : Bool) (t : Nat) (s : State) : Host.Outcome State Fault Refusal :=
  let s := s.tickTo t
  .next (if m < 2 ∧ s.tracking ∧ s.getF (Reg.ANGLE_MPOS_CFG m) 1 0 = 1 then
    let fwd := up != s.bit (Reg.ANGLE_MPOS_CFG m) 2
    let s := (s.lossFirst (4 + m) t).wr (srcTs (4 + m)) (s.timeAt t % 2 ^ 32)
    (s.srcEvent (4 + m) t (s.pitch (4 + m)) (if fwd then 1 else -1) z false).publish
  else s)

/-- SPI_RDC_SAMPLE: a position word of MPOS `m` sampled at base tick `t`, left-aligned on bits 23:0 (R79). The first word gives the position
and is an event; a word equal to the last is none (log entry 22). -/
def execSpiRdcSample (m word t : Nat) (s : State) : Host.Outcome State Fault Refusal :=
  let s := s.tickTo t
  .next (if m < 2 ∧ s.tracking ∧ s.getF (Reg.ANGLE_MPOS_CFG m) 1 0 = 2 then
    let wd := s.getF (Reg.ANGLE_MPOS_CFG m) 7 4 + 1
    let raw := word % 2 ^ wd * 2 ^ (24 - wd)
    let pos := if s.bit (Reg.ANGLE_MPOS_CFG m) 2 then (2 ^ 24 - raw) % 2 ^ 24 else raw
    let i := 4 + m
    let s := (s.lossFirst i t).wr (srcTs i) (s.timeAt t % 2 ^ 32)
    let old := (s.src i).word
    let s := s.setSrc i fun x => { x with word := some pos }
    match old with
    | none =>
      let s := (s.each (List.range 3) fun s d => s.setDom d fun D => { D with th := D.th.set i none }).setSrc i fun x => { x with th := pos }
      (s.acceptTooth i t 0 (s.src i).dir false true).publish
    | some old =>
      let d := sgn 24 ((pos + 2 ^ 24 - old) % 2 ^ 24)
      (if d = 0 then s else s.srcEvent i t ((d.natAbs : Nat) : Rat) (if d < 0 then -1 else 1) false false).publish
  else s)

/-- SOURCE_SILENCE_TIMEOUT: at base tick `t` LOSS_FACTOR periods of source `i` have passed without an accepted event (R81, R88). -/
def execSourceSilenceTimeout (i t : Nat) (s : State) : Host.Outcome State Fault Refusal :=
  let s := s.tickTo t
  .next (if i < 6 ∧ s.tracking ∧ s.srcOn i ∧ s.srcState i ≠ SrcSt.LOST ∧ s.silentDue i then (s.goSilent i s.clk.base).publish else s)

/-! ## The speed message (R75, R80, R81, R84) -/

/-- Wheel-primary ticks per base tick of a message of `v` × 0.01 km/h: speed ÷ SPD_CIRC (R76). -/
def State.spdRate (s : State) (v : Nat) : Rat :=
  1000000 * ((v : Rat) / 360) / (s.rd Reg.ANGLE_SPD_CIRC : Rat) * turn / 400000000

/-- A speed message of `v` × 0.01 km/h arrives at base tick `t` (R629). In a slew each message counts as one tooth-equivalent, which the spec does
not say (log entry 59). -/
def State.speedMessage (s : State) (v t : Nat) : State :=
  if s.tracking && s.bit Reg.ANGLE_SPD_CFG 31 then
    let s := s.lossFirst 6 t
    let last := match s.ang.msgs with
      | (t1, _) :: _ => t - t1
      | [] => 0
    let w := s.spdRate v
    let a := match s.ang.msgs with
      | (t1, v1) :: _ => if t1 < t then (w - s.spdRate v1) / ((t - t1 : Nat) : Rat) else 0
      | [] => 0
    let s := { s with ang := { s.ang with msgs := ((t, v) :: s.ang.msgs).take 2, spdOk := true } }
    let s := (s.setSrc 6 fun x => { x with own := { t0 := t, w := w, a := a }, dir := 1, per := last }).wr Reg.ANGLE_SPD_VAL (v % 65536)
    let s := s.each (List.range 3) fun s d =>
      if !(s.refs d).contains 6 then s
      else
        let s := s.domRun d t
        if s.follow d = 6 ∧ !s.acquiring d then
          let g := s.msgSign d
          let s := if v ≠ 0 then s.startMoving d t else s
          s.setDom d fun D => { D with ref := { t0 := t, ang := D.ref.eval t, w := w * s.domFactor d * g, a := a * s.domFactor d * g }
                                       slew := D.slew.map fun k => { k with teeth := k.teeth + 1 } }
        else
          let back := (s.adom d).stale.getD 6 false
          let ours := match (s.adom d).ret with
            | some r => r.src == 6
            | none => false
          let s := if (back || ours) && decide (s.rank d 6 < s.rank d (s.follow d)) && !s.acquiring d then
              (s.setDom d fun D => { D with stale := D.stale.set 6 false }).boundAt d 6 (s.adom d).pub back t else s
          s.countRef d 6 t
    (s.motionCheck).publish
  else s

/-- SPEED_MESSAGE_EXPIRED: at base tick `t` the message is older than MAX_AGE ms (R81, R101). -/
def execSpeedMessageExpired (t : Nat) (s : State) : Host.Outcome State Fault Refusal :=
  let s := s.tickTo t
  .next (if s.tracking then (s.msgExpire s.clk.base).publish else s)

/-- HOLD_EXPIRED: at base tick `t` domain `d` has been at Q0 for HOLD_MAX ms, a slew from hold included (R83, R89). -/
def execHoldExpired (d t : Nat) (s : State) : Host.Outcome State Fault Refusal :=
  let s := s.tickTo t
  .next (if d < 3 ∧ (s.tracking || (s.cascOn && decide (s.getF Reg.CASC_STAT 2 0 = 4))) ∧ !s.acquiring d ∧ s.effQ d = 0 ∧ !s.bit (Reg.ANGLE_DOM_STAT d) 15
      ∧ (s.adom d).holdAt + 400000 * s.getF (Reg.ANGLE_DOM_LIMITS d) 23 8 ≤ s.clk.base then
    ((s.holdExp d true).angLog t LogT.HOLD_EXPIRED d 7 7 0 0 0).publish
  else s)

/-! ## Writes with an effect (R96, R97, R708) -/

/-- R97: a source's CFG was written: in use, it is lost with INFO 1; disabled, its STATE is OFF; enabled, it acquires. A write that the page
lock ignores does nothing (R50). -/
def State.srcConfigured (s : State) (i : Nat) : State :=
  if s.bit (angPage + Hdr.PAGE_LOCK) 0 then s else
  let users := (List.range 3).any fun d => !s.acquiring d && decide (s.follow d = i ∨ s.curSrc d = i)
  let s := if users then s.loseSrc i s.clk.base 1 else s
  let s := s.setSrc i fun x => { x with word := none }
  (if !s.srcOn i then
    (((s.setSrcState i SrcSt.OFF).noCount i).setSrc i fun x => { x with teeth := [], per := 0, rise := none, rev := none, q := if users then x.q else 0 }).learnDrop i
  else if s.srcState i = SrcSt.OFF then s.setSrcState i SrcSt.ACQUIRE else s).motionCheck |>.publish

/-- R75, R97: PRIMARY or ALT of domain `d` was written: the reference in use stays, at the level that it now has; a slew reports the lower of
its two. Another WHEEL primary starts new LEARN windows (R709). -/
def State.domNamed (s : State) (d old : Nat) : State :=
  let s := if d = 0 ∧ s.primary 0 ≠ old then s.each (List.range 4) fun s k => s.setSrc k fun x => { x with learn := none } else s
  if s.acquiring d || s.cascOn then s
  else (s.setQ d (if s.slewing d then min (s.level d (s.curSrc d)) (s.level d (s.tgtSrc d)) else s.level d (s.curSrc d))).publish

/-- R708, R108: a domain at release, while EN is 0 and when EN returns to 1: it holds its angle, at Q0 and STOPPED. What the rest of dom_STAT
reads while EN is 0 the spec does not say: the model has it as at release (log entry 60). -/
def State.domRestart (s : State) (d : Nat) : State :=
  let s := s.setDom d fun (D : AngDom) => { ({} : AngDom) with pub := D.pub, ref := { t0 := s.clk.base, ang := D.pub }, jit := D.jit, shown := D.shown, seen := D.seen, dir := D.dir }
  let s := ((s.wr (Reg.ANGLE_DOM_STAT d) 0x00714770).wr (Reg.ANGLE_DOM_SPEED d) 0).wr (Reg.ANGLE_DOM_ACCEL d) 0
  (s.setQ d 0).holdExp d false

/-- The device no longer follows a cascade master: its domains hold until a source of its own qualifies (log entry 38). -/
def State.endFollow (s : State) : State :=
  if s.ang.follows then
    let s := s.each (List.range 3) fun s d => s.domHold d s.clk.base
    { s with ang := { s.ang with follows := false } }
  else s

/-- R708: ANGLE_00.CTL was written; `old` is its former value. -/
def State.angleCtl (s : State) (old : Nat) : State :=
  let s := if old.testBit 1 && !s.bit Reg.ANGLE_CTL 1 then s.endFollow else s
  let en := s.bit Reg.ANGLE_CTL 0
  if en = old.testBit 0 then s
  else if en then
    let s := { s with ang := { s.ang with srcs := s.ang.srcs.map fun (x : AngSrc) => { ({} : AngSrc) with dir := x.dir, th := x.th } } }
    let s := s.each (List.range 6) fun s i => s.setSrcState i (if s.srcOn i then SrcSt.ACQUIRE else SrcSt.OFF)
    s.each (List.range 3) fun s d => s.domRestart d
  else s.each (List.range 3) fun s d => (s.showAt d s.clk.base).domRestart d

/-- The smallest n in [lo, lo + 2^k) whose reach covers `delta` (R96). -/
def searchNs (w a delta : Rat) : Nat → Nat → Nat
  | 0, lo => lo
  | k + 1, lo => if delta ≤ peak w a ((lo + 2 ^ k - 1 : Nat) : Rat) then searchNs w a delta k lo else searchNs w a delta k (lo + 2 ^ k)

/-- R96: the time in ns from the last bus update to target `target` of domain `d`: 0 reached or passed, 0xFFFFFFFF
unreachable, else rounded up and saturating. -/
def State.predictNs (s : State) (d target : Nat) : Nat :=
  let v := s.rd (Reg.ANGLE_DOM_ANGLE d)
  let delta : Nat := (target + 2 ^ 32 - v) % 2 ^ 32
  if delta = 0 ∨ 2 ^ 31 < delta then 0
  else
    let w : Rat := (s.rdS (Reg.ANGLE_DOM_SPEED d) : Rat) / 256 / 1000000
    let a : Rat := (s.rdS (Reg.ANGLE_DOM_ACCEL d) : Rat) / 256 / 1000000000000
    if s.stopped d || !reaches w a (delta : Rat) then 0xFFFFFFFF
    else if (delta : Rat) ≤ peak w a 4294967294 then searchNs w a (delta : Rat) 32 0
    else 0xFFFFFFFE

/-- R96: a write of `v` to PRED_CTL. -/
def State.writePredCtl (s : State) (req : Requester) (v : Nat) : State :=
  if v.testBit 31 then
    if v % 4 = 3 then s.quiet req Reg.ANGLE_PRED_CTL Cause.RESERVED_ENC
    else s.wr Reg.ANGLE_PRED_NS (s.predictNs (v % 4) (s.rd Reg.ANGLE_PRED_TARGET))
  else s

/-- R109: a write of `v` to LOG_POP. -/
def State.popAngLog (s : State) (v : Nat) : State :=
  if v.testBit 0 then { s with ang := { s.ang with log := s.ang.log.tail } }.angLogSync else s

/-- ANGLE_ENABLE: a write of `value` to ANGLE_00.CTL. -/
def execAngleEnable (req : Requester) (value : Nat) (s : State) : Host.Outcome State Fault Refusal :=
  .next (s.checkedWrite req Reg.ANGLE_CTL 4 fun s => (s.regStore req Reg.ANGLE_CTL value).angleCtl (s.rd Reg.ANGLE_CTL))

/-- SOURCE_CONFIG_WRITE: a write of `value` to the CFG of source `i`. -/
def execSourceConfigWrite (req : Requester) (i value : Nat) (s : State) : Host.Outcome State Fault Refusal :=
  .next (if i < 7 then s.checkedWrite req (srcCfg i) 4 fun s => (s.regStore req (srcCfg i) value).srcConfigured i else s)

/-- PREDICTION: a write of `value` to PRED_CTL. -/
def execPrediction (req : Requester) (value : Nat) (s : State) : Host.Outcome State Fault Refusal :=
  .next (s.checkedWrite req Reg.ANGLE_PRED_CTL 4 fun s => s.writePredCtl req value)

/-- LOG_POP: a write of `value` to ANGLE_00.LOG_POP. -/
def execLogPop (req : Requester) (value : Nat) (s : State) : Host.Outcome State Fault Refusal :=
  .next (s.checkedWrite req Reg.ANGLE_LOG_POP 4 fun s => s.popAngLog value)

/-! ## TIME (R90) -/

/-- TIME_STAT.STATE changes: logged and raised (R106). The spec does not say what DOMAIN, FROM, TO and INFO of the entry hold: 3, 7, 7 and the new
state (log entry 57). -/
def State.setTimeState (s : State) (v : Nat) : State :=
  if s.getF Reg.ANGLE_TIME_STAT 1 0 = v then s
  else ((s.putF Reg.ANGLE_TIME_STAT 1 0 v).angLog s.clk.base LogT.TIME_STATE 3 7 7 0 0 v).evt angPage 5

/-- R90: a gPTP measurement: TIME is `offset` ns behind gPTP time; `locks` where the servo reaches lock with it. At the first
lock TIME steps once where ALLOW_STEP is 1 and the offset exceeds STEP_THRESH µs; otherwise its rate changes to a free value
within MAX_PPM (log entry 23). -/
def State.gptpOffset (s : State) (offset : Int) (locks : Bool) : State :=
  if s.cascOn then s else
  let s := s.wrS Reg.ANGLE_TIME_OFFSET offset
  let first := locks && !s.ang.locked && s.bit Reg.ANGLE_TIME_CFG 0 && decide (1000 * s.getF Reg.ANGLE_TIME_CFG 31 16 < offset.natAbs)
  let s := if first then
      { s with clk := { s.clk with time := ((s.clk.time : Int) + 2000000000 * offset).toNat } }.putBit Reg.ANGLE_TIME_STAT 2 true
    else s
  let lim : Int := 1000 * s.getF Reg.ANGLE_TIME_CFG 15 8
  let r := s.fresh 32
  let s := r.2.wrS Reg.ANGLE_TIME_RATE (max (-lim) (min lim (sgn 32 r.1)))
  let s := if locks then { s with ang := { s.ang with locked := true } } else s
  if locks then s.setTimeState 2 else if s.getF Reg.ANGLE_TIME_STAT 1 0 = 0 then s.setTimeState 1 else s

/-- R90: gPTP is lost on the SLAVE port: HOLDOVER at the last rate. -/
def State.gptpLost (s : State) : State :=
  if !s.cascOn && (decide (s.getF Reg.ANGLE_TIME_STAT 1 0 = 1) || decide (s.getF Reg.ANGLE_TIME_STAT 1 0 = 2)) then s.setTimeState 3 else s

/-- R90: no port has the role SLAVE: TIME is not disciplined. -/
def State.gptpNone (s : State) : State := if s.cascOn then s else ((s.setTimeState 0).wr Reg.ANGLE_TIME_OFFSET 0).wr Reg.ANGLE_TIME_RATE 0

end Sys2Proof.Machine
end

