-- ==== Sys2Proof/Machine/Fdig.lean ====
section
/-! DEFINITION. The fast digitiser (R462 to R471, R482 to R485, R488, R489): states, slices, calibration, input selection and
permits; and how an event reaches a trigger unit (R494, R496). -/

namespace Sys2Proof.Machine

def State.fdig (s : State) (c : Nat) : Fdig := s.fdigs.getD c {}
def State.setFdig (s : State) (c : Nat) (f : Fdig → Fdig) : State := { s with fdigs := updAt s.fdigs c f }
def State.trig (s : State) (c : Nat) : TrigSt := s.trigs.getD c {}
def State.setTrig (s : State) (c : Nat) (f : TrigSt → TrigSt) : State := { s with trigs := updAt s.trigs c f }
def State.prog (s : State) (p : Nat) : Prog := s.progs.getD p {}
def State.setProg (s : State) (p : Nat) (f : Prog → Prog) : State := { s with progs := updAt s.progs p f }

namespace FdSt
abbrev OFF : Nat := 0
abbrev CALIBRATING : Nat := 1
abbrev READY : Nat := 2
abbrev DEGRADED : Nat := 3
abbrev FAILED : Nat := 4
abbrev MERGED : Nat := 5
end FdSt

namespace ProgSt
abbrev IDLE : Nat := 0
abbrev ACTIVE : Nat := 1
abbrev DONE : Nat := 2
abbrev ERROR : Nat := 3
end ProgSt

/-- STATE of a channel (R489). -/
def State.fdigState (s : State) (c : Nat) : Nat := s.getF (Reg.FDIG_STAT c) 2 0
/-- R463: FDIG_00 takes the slices of FDIG_01. -/
def State.combined (s : State) : Bool := s.bit (Reg.FDIG_CTL 0) 4
/-- STATE of a program (R518). -/
def State.progState (s : State) (p : Nat) : Nat := s.getF (Reg.BERTH_PSTAT p) 2 0
/-- R492: a channel is idle while its program is not ACTIVE. -/
def State.idle (s : State) (c : Nat) : Bool := s.progState c != ProgSt.ACTIVE

/-- PSTAT.STATE and STAT of a program (R518). -/
def State.setProgState (s : State) (p v : Nat) : State := (s.putF (Reg.BERTH_PSTAT p) 2 0 v).putF Reg.BERTH_STAT (4 * p + 2) (4 * p) v

/-- STATE of TRIG_0p (R517) from its program, its holdoff and COMBINED (R493). -/
def State.trigShow (s : State) (c : Nat) : State :=
  s.putF (Reg.TRIG_STAT c) 2 0 (if c = 1 ∧ s.combined then 5
    else match (s.prog c).ph with
      | .off => 0
      | .ready => if (s.trig c).hold.isSome then 3 else 2
      | .capture => 4
      | _ => 1)

/-- R514: a runtime error stops an ACTIVE program; the berth being filled is discarded. -/
def State.progError (s : State) (p err : Nat) : State :=
  if s.idle p then s
  else
    let s := s.setProg p fun (g : Prog) => { ({} : Prog) with copied := g.copied, copying := g.copying }
    let s := (s.setTrig p fun g => { g with fire := none, come := none, hold := none }).setProgState p ProgSt.ERROR
    (((s.putF (Reg.BERTH_PSTAT p) 7 4 err).evt (pageAddr Blk.BERTH 0) 4)).trigShow p

/-! ## Slices and states (R462, R483) -/

/-- Code of slice `k` of both channels in SLICE_STAT: 0 ACTIVE, 1 SPARE, 2 CALIBRATING, 3 FAILED. -/
def State.slice (s : State) (k : Nat) : Nat := s.getF (Reg.FDIG_SLICE_STAT (k / 9)) (2 * (k % 9) + 1) (2 * (k % 9))
def State.setSlice (s : State) (k v : Nat) : State := s.putF (Reg.FDIG_SLICE_STAT (k / 9)) (2 * (k % 9) + 1) (2 * (k % 9)) v

/-- Slices that serve channel `c`. -/
def State.slicesOf (s : State) (c : Nat) : List Nat :=
  if s.combined then (if c = 0 then s.slices else []) else s.slices.filter fun k => k / 9 == c
/-- Active slices of a channel at full rate. -/
def State.ways (s : State) : Nat := if s.combined then 16 else 8
def State.good (s : State) (c : Nat) : Nat := ((s.slicesOf c).filter fun k => s.slice k != 3).length

/-- R463, R471, R483, R484: the state a channel is in. -/
def State.fdigCalc (s : State) (c : Nat) : Nat :=
  if !s.released Blk.FDIG then FdSt.OFF
  else if c = 1 ∧ s.combined then (if s.bit (Reg.FDIG_STAT c) 16 then FdSt.MERGED else FdSt.FAILED)
  else if !s.bit (Reg.FDIG_CTL c) 0 then FdSt.OFF
  else if !s.bit (Reg.FDIG_STAT c) 16 then FdSt.FAILED
  else if (s.fdig c).fg.isSome then FdSt.CALIBRATING
  else if s.ways ≤ s.good c then FdSt.READY
  else if s.ways ≤ 2 * s.good c then FdSt.DEGRADED
  else FdSt.FAILED

/-- Bring STAT, RATE, the DEGRADED level, FUNC_READY.FDIG and the program of a channel up to date (R471, R483, R489, R514). -/
def State.fdigShow (s : State) (c : Nat) : State :=
  let v := s.fdigCalc c
  let rate := if s.combined ∧ c = 0 then (if v = FdSt.DEGRADED then 0 else 2) else if v = FdSt.DEGRADED then 1 else 0
  let bad := decide (v = FdSt.FAILED) || decide (rate ≠ s.getF (Reg.FDIG_RATE c) 1 0)
  let own := ((List.range 9).filter fun k => s.slice (9 * c + k) != 3).length
  let s := ((s.putF (Reg.FDIG_STAT c) 2 0 v).putF (Reg.FDIG_STAT c) 11 8 own).putF (Reg.FDIG_RATE c) 1 0 rate
  let s := s.putBit (Reg.FDIG_STAT c) 15 ((decide (v = FdSt.READY) || decide (v = FdSt.DEGRADED)) && decide (s.good c ≤ s.ways))
  let s := s.lvl (pageAddr Blk.FDIG c) 2 (decide (v = FdSt.DEGRADED))
  let s := if bad then s.progError c 7 else s
  (s.trigShow c).funcSet Fn.FDIG ((List.range 2).any fun k => s.fdigState k == FdSt.READY || s.fdigState k == FdSt.DEGRADED)

def State.fdigSync (s : State) : State := (s.fdigShow 0).fdigShow 1

/-- The channel delivers samples. -/
def State.fdigRuns (s : State) (c : Nat) : Bool := s.fdigState c == FdSt.READY || s.fdigState c == FdSt.DEGRADED

/-! ## Input selection (R465 to R468, R488) -/

/-- R467: the permit bit that a source needs. -/
def permitBit (src : Nat) : Option Nat :=
  if src = 8 then some 0 else if src = 9 then some 1 else if 0x20 ≤ src then some 2 else none

/-- The selected source of a channel is not permitted, so that the channel converts OFF (R467). -/
def State.tapDenied (s : State) (c : Nat) : Bool :=
  match permitBit (s.getF (Reg.FDIG_INPUT c) 5 0) with
  | some b => !s.bit Reg.SYS_SCOPE_PERMIT b
  | none => false

/-- STAT.TAP_DENIED follows the selection and the permits; a permit that was cleared (`was` permitted) raises TAP_REVOKED. -/
def State.permitShow (s : State) (c : Nat) (was : Bool) : State :=
  let d := s.tapDenied c
  let s := s.putBit (Reg.FDIG_STAT c) 12 d
  if was && d then s.evt (pageAddr Blk.FDIG c) 4 else s

/-- R467: SCOPE_PERMIT was written; `old` is the state before. -/
def State.permitWritten (s old : State) : State :=
  if !s.released Blk.FDIG then s
  else (s.permitShow 0 (!old.tapDenied 0)).permitShow 1 (!old.tapDenied 1)

/-- R468: a write of INPUT or OFFSET of channel `c`. RANGE 3 is reserved with TERM 0 (R466). -/
def State.writeFdigInput (s : State) (req : Requester) (c addr v : Nat) : State :=
  if !s.idle c then s.quiet req addr Cause.RESERVED_ENC
  else
    let bad := addr = Reg.FDIG_INPUT c ∧ fld v 9 8 = 3 ∧ !v.testBit 12
    let n := if bad then (s.quiet req addr Cause.RESERVED_ENC).regStore req addr (putFld v 9 8 (s.getF addr 9 8)) else s.regStore req addr v
    let n := n.permitShow c false
    if n.rd addr = s.rd addr then n
    else (n.putBit (Reg.FDIG_STAT c) 14 true).setFdig c fun x => { x with settle := s.clk.base }

/-- R463, R469: a write of CTL of channel `c`: one that changes COMBINED has no effect unless both channels are idle; COMBINED of FDIG_01 is
reserved (R12). -/
def State.writeFdigCtl (s : State) (req : Requester) (c v : Nat) : State :=
  let comb := v.testBit 4 != s.bit (Reg.FDIG_CTL 0) 4
  if c = 0 ∧ comb ∧ !(s.idle 0 && s.idle 1) then s.quiet req (Reg.FDIG_CTL c) Cause.RESERVED_ENC
  else (s.regStore req (Reg.FDIG_CTL c) (if c = 1 then v &&& (0xFFFFFFFF ^^^ 16) else v)).fdigSync

/-- The code of a channel that converts OFF, an input of 0 V: −OFFSET in codes (R464, R465; log entry 26). -/
def State.offCode (s : State) (c : Nat) : Int := -((sgn 16 (s.rd (Reg.FDIG_OFFSET c)) + 8) / 16)

/-! ## Events that reach a trigger unit (R494, R496) -/

/-- An event arrives at unit `c`: its trigger sample is the first at or after arrival, with fraction 0. -/
def State.trigCome (s : State) (c : Nat) (ang : Option Nat) : State :=
  if c = 1 ∧ s.combined then s
  else s.setTrig c fun g => { g with come := some { at' := 0, pos := 0, type := s.getF (Reg.TRIG_CTL c) 3 0, ang := ang } }

/-- R494, R92: the event of alarm `a` routed to unit `c`, at angle `ang`. -/
def State.trigAlarm (s : State) (c a ang : Nat) : State :=
  if s.getF (Reg.TRIG_CTL c) 3 0 = 6 ∧ (s.bit (Reg.TRIG_ANG_SEL c) 8 ∨ s.getF (Reg.TRIG_ANG_SEL c) 5 0 = a) then
    s.trigCome c (some ang) else s

/-- R496: an event of the event network of KIND `kind` (3 PROT, 4 refresh announcement) and index `i`. -/
def State.trigEvent (s : State) (kind i : Nat) : State :=
  s.each [0, 1] fun s c =>
    if s.getF (Reg.TRIG_CTL c) 3 0 = 7 ∧ s.getF (Reg.TRIG_EXT_SRC c) 2 0 = kind ∧ s.getF (Reg.TRIG_EXT_SRC c) 13 8 = i then
      s.trigCome c none else s

/-! ## Calibration (R469 to R471, R482 to R484) -/

/-- R471: a foreground calibration of every slice of a channel starts. -/
def State.startForeground (s : State) (c : Nat) : State :=
  let s := s.setFdig c fun x => { x with fg := some s.clk.base, bg := none }
  s.each (List.range 9) fun s k => s.setSlice (9 * c + k) 2

/-- R471, R487, R516: the digitiser is released, or its domain leaves P3: both channels calibrate. -/
def State.fdigRelease (s : State) : State :=
  let s := s.each [0, 1] fun s c => s.putBit (Reg.FDIG_STAT c) 16 true
  ((((s.startForeground 0).startForeground 1).permitShow 0 false).permitShow 1 false).fdigSync

/-- R482: SCOPE leaves P1 or P2: a slice calibration starts again. -/
def State.fdigResume (s : State) : State :=
  s.each [0, 1] fun s c => s.setFdig c fun x => { x with bg := x.bg.map fun _ => s.clk.base }

/-- Move a slice to the end of the order of service. -/
def State.requeue (s : State) (k : Nat) : State := { s with slices := s.slices.filter (fun j => j != k) ++ [k] }

/-- CAL_PERIOD of a channel in base ticks, halved in combined mode (R469). -/
def State.calPeriod (s : State) (c : Nat) : Nat :=
  s.getF (Reg.FDIG_CAL_PERIOD c) 15 0 * (if s.combined then 200000 else 400000)

/-- R469, R470: the spare `inc` takes the position of the active slice `out`, which is calibrated in turn. -/
def State.sliceSwap (s : State) (c inc out : Nat) : State :=
  let s := (((s.setSlice inc 0).setSlice out 2).requeue inc).requeue out
  let s := (s.incWrap (Reg.FDIG_SWAP_CNT c) 31 0).wr (Reg.FDIG_SWAP_T c) s.timeLo
  s.setFdig c fun x => { x with bg := some s.clk.base, lastSwap := s.clk.base, deferred := false, swapN := some x.n }

/-! ## Commands -/

/-- CAL_SWAP_DUE: at base tick `t` a swap of channel `c` is due. -/
def execCalSwapDue (c t : Nat) (s : State) : Host.Outcome State Fault Refusal :=
  let s := s.tickTo t
  let mode := s.getF (Reg.FDIG_CTL c) 2 1
  .next (if 2 ≤ c ∨ mode = 0 ∨ s.fdigState c ≠ FdSt.READY ∨ s.dom 24 ≠ 0 ∨ 2 ≤ s.park.stage ∨ s.clk.base < (s.fdig c).lastSwap + s.calPeriod c then s
    else match (s.slicesOf c).find? fun k => s.slice k == 1, (s.slicesOf c).find? fun k => s.slice k == 0 with
      | some inc, some out =>
        if mode = 2 ∧ !s.idle c then
          if (s.fdig c).deferred then s else (s.cnt (Reg.FDIG_CAL_DEFER_CNT c)).setFdig c fun x => { x with deferred := true }
        else s.sliceSwap c inc out
      | _, _ => s)

/-- SLICE_CALIBRATION_DONE: at base tick `t` the 2 ms calibration of the spare slice of channel `c` ends, within its trim range or
not (`ok`). -/
def execSliceCalibrationDone (c : Nat) (ok : Bool) (t : Nat) (s : State) : Host.Outcome State Fault Refusal :=
  let s := s.tickTo t
  .next (match (s.fdig c).bg, (s.slicesOf c).find? fun k => s.slice k == 2 with
    | some b, some k =>
      if 2 ≤ c ∨ s.getF (Reg.FDIG_CTL c) 2 1 = 0 ∨ s.dom 24 ≠ 0 ∨ 2 ≤ s.park.stage ∨ s.clk.base < b + 800000 then s
      else
        let s := s.setFdig c fun x => { x with bg := none }
        if ok then ((s.setSlice k 1).requeue k).evt (pageAddr Blk.FDIG c) 0
        else ((s.setSlice k 3).evt (pageAddr Blk.FDIG c) 1).fdigSync
    | _, _ => s)

/-- FOREGROUND_CAL_DONE: at base tick `t` the 5 ms foreground calibration of channel `c` ends; `fails` is the mask of slices out of
trim range, nine in each page (18 in combined mode). -/
def execForegroundCalDone (c fails t : Nat) (s : State) : Host.Outcome State Fault Refusal :=
  let s := s.tickTo t
  .next (match (s.fdig c).fg with
    | none => s
    | some b =>
      if 2 ≤ c ∨ s.clk.base < b + 2000000 ∨ !s.bit (Reg.FDIG_STAT c) 16 ∨ (c = 1 ∧ s.combined) then s
      else
        let ks := if s.combined then List.range 18 else (List.range 9).map fun k => 9 * c + k
        let bad := ks.filter fun k => fails.testBit (if s.combined then k else k - 9 * c)
        let ok := ks.filter fun k => !bad.contains k
        let s := s.each bad fun s k => s.setSlice k 3
        let s := (s.each (ok.take s.ways) fun s k => s.setSlice k 0).each (ok.drop s.ways) fun s k => s.setSlice k 1
        let s := s.setFdig c fun x => { x with fg := none, lastSwap := s.clk.base, deferred := false }
        let s := if s.combined then s.setFdig 1 fun x => { x with fg := none, lastSwap := s.clk.base, deferred := false } else s
        let s := s.evt (pageAddr Blk.FDIG c) 0
        (if bad = [] then s else s.evt (pageAddr Blk.FDIG c) 1).fdigSync)

/-- SCOPE_PERMIT_WRITE. -/
def execScopePermitWrite (req : Requester) (value : Nat) (s : State) : Host.Outcome State Fault Refusal :=
  .next (s.checkedWrite req Reg.SYS_SCOPE_PERMIT 4 fun s => (s.regStore req Reg.SYS_SCOPE_PERMIT value).permitWritten s)

/-- SETTLING_DONE: at base tick `t` 2 µs have passed since the input of channel `c` changed. -/
def execSettlingDone (c t : Nat) (s : State) : Host.Outcome State Fault Refusal :=
  let s := s.tickTo t
  .next (if c < 2 ∧ (s.fdig c).settle + 800 ≤ s.clk.base then s.putBit (Reg.FDIG_STAT c) 14 false else s)

/-- FDIG_PLL_UNLOCK: the sample-clock PLL loses lock (R484). -/
def execFdigPllUnlock (s : State) : Host.Outcome State Fault Refusal :=
  .next (if s.released Blk.FDIG ∧ s.bit (Reg.FDIG_STAT 0) 16 then
    (s.each [0, 1] fun s c => ((s.putBit (Reg.FDIG_STAT c) 16 false).evt (pageAddr Blk.FDIG c) 5).setFdig c fun x => { x with bg := none, fg := none }).fdigSync
  else s)

/-- FDIG_PLL_RELOCK: at base tick `t` the PLL locks again and both channels calibrate (R484). -/
def execFdigPllRelock (t : Nat) (s : State) : Host.Outcome State Fault Refusal :=
  let s := s.tickTo t
  .next (if s.released Blk.FDIG ∧ !s.bit (Reg.FDIG_STAT 0) 16 then s.fdigRelease else s)

/-- PROBE_OVERLOAD: at base tick `t` the probe input of channel `c` is beyond ±2.5 V (R485). -/
def execProbeOverload (c t : Nat) (s : State) : Host.Outcome State Fault Refusal :=
  let s := s.tickTo t
  let src := s.getF (Reg.FDIG_INPUT c) 5 0
  .next (if c < 2 ∧ s.released Blk.FDIG ∧ 1 ≤ src ∧ src ≤ 4 ∧ !s.bit (Reg.FDIG_INPUT c) 12 then
    let s := s.setFdig c fun x => { x with ovld := s.clk.base }
    if s.bit (Reg.FDIG_STAT c) 13 then s else (s.putBit (Reg.FDIG_STAT c) 13 true).evt (pageAddr Blk.FDIG c) 3
  else s)

/-- OVERLOAD_RECOVER: at base tick `t` the input has stayed within full scale for 1 ms (R485). -/
def execOverloadRecover (c t : Nat) (s : State) : Host.Outcome State Fault Refusal :=
  let s := s.tickTo t
  .next (if c < 2 ∧ (s.fdig c).ovld + 400000 ≤ s.clk.base then s.putBit (Reg.FDIG_STAT c) 13 false else s)

end Sys2Proof.Machine
end

