-- ==== Sys2Proof/Machine/Ledger.lean ====
section
/-! DEFINITION. The energy ledger: capacities, the refill, the test of a job, its debit and its settlement (R162 to R168,
R183 to R190, R195). Amounts are in units of 2^-16 µJ. -/

namespace Sys2Proof.Machine

def ledgerPage : Nat := pageAddr Blk.LEDGER 0

def State.share (s : State) (p : Nat) : Nat := s.getF (Reg.LEDGER_SHARE p) 8 0
def State.shareSum (s : State) : Nat := ((List.range 16).map fun p => s.share p).sum
/-- R183: a share in force, and their sum. -/
def State.shareNow (s : State) (p : Nat) : Nat := s.ledger.shares.getD p 0
def State.shareNowSum (s : State) : Nat := ((List.range 16).map fun p => s.shareNow p).sum
/-- R162, R183: CAP_p and POOL_CAP, of the values in force since the last update. -/
def State.capOf (s : State) (p : Nat) : Nat := s.ledger.cap * s.shareNow p * 256
def State.poolCap (s : State) : Nat := s.ledger.cap * (256 - s.shareNowSum) * 256
def State.pLevel (s : State) (p : Nat) : Int := s.ledger.level.getD p 0
/-- The floor of a level: −CAP (R165). -/
def State.levelFloor (s : State) : Int := -((65536 * s.ledger.cap : Nat) : Int)
/-- R183: SHARE, CAP and PLIM take effect. -/
def State.ledgerTake (s : State) : State :=
  { s with ledger := { s.ledger with cap := s.rd Reg.LEDGER_CAP, shares := (List.range 16).map fun p => s.share p, plim := s.rd Reg.LEDGER_PLIM } }

/-- The registers follow the levels, rounded toward minus infinity (R163). -/
def State.ledgerSync (s : State) : State :=
  let s := s.each (List.range 16) fun s p => s.wr (Reg.LEDGER_LEVEL p) (enc 32 (s.pLevel p / 65536))
  (s.wr Reg.LEDGER_POOL_LEVEL (s.ledger.pool / 65536)).wr Reg.LEDGER_POOL_CAP (s.poolCap / 65536)

def State.setLevel (s : State) (p : Nat) (v : Int) : State := { s with ledger := { s.ledger with level := s.ledger.level.set p v } }

/-- Energy beyond the pool's capacity goes to SPILL (R163). -/
def State.spill (s : State) (n : Nat) : State :=
  let f := s.ledger.spill + n
  { s with ledger := { s.ledger with spill := f % 65536 } }.addSat Reg.LEDGER_SPILL 31 0 (f / 65536)

/-- Energy for the pool. -/
def State.toPool (s : State) (n : Nat) : State :=
  let v := s.ledger.pool + n
  { s with ledger := { s.ledger with pool := min v s.poolCap } }.spill (v - s.poolCap)

/-- R163, R166, R183: a credit to partition `p`: what lifts its level above CAP_p passes to the pool. -/
def State.credit (s : State) (p n : Nat) : State :=
  let v := s.pLevel p + n
  let cap : Int := s.capOf p
  if v ≤ cap then s.setLevel p v else (s.setLevel p cap).toPool (v - cap).toNat

/-- R165, R166: a debit that may take the level down to −CAP; what lies beyond the floor is added to VITAL_DEBT, which is
raised. -/
def State.debit (s : State) (p n : Nat) : State :=
  let v := s.pLevel p - n
  if s.levelFloor ≤ v then s.setLevel p v
  else
    let f := s.ledger.debt + (s.levelFloor - v).toNat
    let s := { s.setLevel p s.levelFloor with ledger := { (s.setLevel p s.levelFloor).ledger with debt := f % 65536 } }
    (s.addSat Reg.LEDGER_VITAL_DEBT 31 0 (f / 65536)).evt ledgerPage 1

/-- R183: levels above their capacities pass the excess on. -/
def State.ledgerTrim (s : State) : State := (s.each (List.range 16) fun s p => s.credit p 0).toPool 0

/-- The thermal headroom in 1/256 (R170). -/
def State.headroom (s : State) : Nat := s.getF Reg.THERM_HEADROOM 8 0

/-- R163, R183, R190: one update, from which SHARE, CAP and PLIM are in force; `pOther` mW is the measured power of everything outside the
ledger's grant. -/
def State.refill (s : State) (pOther : Nat) : State :=
  let s := s.ledgerTake
  let x := s.ledger.plim * s.headroom - 256 * pOther
  let drained := s.ledger.plim * s.headroom < 256 * pOther
  let s := ((s.wr Reg.LEDGER_P_OTHER pOther).wr Reg.LEDGER_REFILL (x / 256)).putBit (ledgerPage + Hdr.STAT) 0 drained
  let s := (s.lvl ledgerPage 0 drained).ledgerTrim
  let s := s.each (List.range 16) fun s p => s.credit p (x * s.shareNow p / 1000)
  (s.toPool (x * (256 - s.shareNowSum) / 1000)).ledgerSync

/-- Energy of class `c` (R164). -/
def State.eclass (s : State) (c : Nat) : Nat := 65536 * s.rd (Reg.LEDGER_ECLASS c)

/-- What the test of R164 answers. -/
inductive LedgerSays where
  | start
  | refuse
  | wait (cause : Nat)
  deriving DecidableEq, Repr

namespace Crit
abbrev VITAL : Nat := 0
abbrev FIRM : Nat := 1
abbrev BULK : Nat := 2
abbrev IDLE : Nat := 3
end Crit

/-- R190: PLIM × H lies below P_other. -/
def State.overdrawn (s : State) : Bool := s.bit (ledgerPage + Hdr.STAT) 0

/-- R168, R190: the cause of a wait with a deficit. -/
def State.waitCause (s : State) (p : Nat) (deficit : Int) : Nat :=
  if s.headroom < 256 then 4
  else if s.overdrawn then 3
  else
    let others := ((List.range 16).filter fun q => q != p).map fun q => max (s.pLevel q) 0
    if deficit ≤ others.sum then 2 else 3

/-- What a job of partition `p` and energy `e` lacks (R164, R168); IDLE also what the pool lacks of half its capacity. -/
def State.deficit (s : State) (p e : Nat) (idle : Bool) : Int :=
  let d : Int := e - (max (s.pLevel p) 0 + s.ledger.pool)
  let h : Int := if idle then (s.poolCap + 1) / 2 - (s.ledger.pool : Int) else 0
  max d h

/-- R164, R190: the test of a job of partition `p`, energy class `c` and criticality `crit`. -/
def State.ledgerTest (s : State) (p c : Nat) (crit : Nat) : LedgerSays :=
  let e := s.eclass c
  if crit = Crit.VITAL ∨ !s.bit Reg.LEDGER_CTL 0 then .start
  else if s.capOf p + s.poolCap < e then .refuse
  else if s.overdrawn then .wait (s.waitCause p (s.deficit p e (crit = Crit.IDLE)))
  else if max (s.pLevel p) 0 + s.ledger.pool < e then .wait (s.waitCause p (s.deficit p e (crit = Crit.IDLE)))
  else if crit = Crit.IDLE ∧ 2 * s.ledger.pool < s.poolCap then .wait (s.waitCause p (s.deficit p e true))
  else .start

/-- The level of partition `p` and the pool after `t` updates at the current refill rate, nothing else being debited: each level fills up to
its capacity, and what lies above goes to the pool (R163). -/
def State.levelsAfter (s : State) (p t : Nat) : Int × Int :=
  let x := s.ledger.plim * s.headroom - 256 * s.rd Reg.LEDGER_P_OTHER
  let full := fun q => s.pLevel q + t * (x * s.shareNow q / 1000 : Nat)
  let spare := ((List.range 16).map fun q => max 0 (full q - s.capOf q)).sum
  (min (s.capOf p) (full p), min s.poolCap (s.ledger.pool + t * (x * (256 - s.shareNowSum) / 1000 : Nat) + spare))

/-- R164: the test passes with these levels. -/
def State.passesWith (s : State) (e crit : Nat) (l : Int × Int) : Bool :=
  decide ((e : Int) ≤ max l.1 0 + l.2) && (crit != Crit.IDLE || decide (s.poolCap ≤ 2 * l.2))

/-- The least number of updates from `lo` on, below `lo + 2 ^ n`, after which the test passes. -/
def State.firstPass (s : State) (p e crit : Nat) : Nat → Nat → Nat
  | 0, lo => lo
  | n + 1, lo => if s.passesWith e crit (s.levelsAfter p (lo + 2 ^ n - 1)) then s.firstPass p e crit n lo else s.firstPass p e crit n (lo + 2 ^ n)

/-- R168: µs until the test of a waiting job passes at the current refill rate; none where it is infinite. -/
def State.ledgerWait (s : State) (p c crit : Nat) : Option Nat :=
  let e := s.eclass c
  if s.overdrawn ∨ !s.passesWith e crit (s.levelsAfter p (2 ^ 40)) then none else some (s.firstPass p e crit 40 0)

/-- R165: what a start of energy class `c` takes from the level of partition `p` and from the pool. -/
def State.debitParts (s : State) (p c : Nat) : Nat × Nat :=
  let e := s.eclass c
  let a := min e (max (s.pLevel p) 0).toNat
  let b := min (e - a) s.ledger.pool
  (a + min (e - a - b) (s.pLevel p - a - s.levelFloor).toNat, b)

/-- R165: the debit at start, from the positive part of the level first and then from the pool. -/
def State.ledgerStart (s : State) (p c : Nat) : State :=
  let e := s.eclass c
  let a := min e (max (s.pLevel p) 0).toNat
  let b := min (e - a) s.ledger.pool
  let s := s.setLevel p (s.pLevel p - a)
  let s := { s with ledger := { s.ledger with pool := s.ledger.pool - b } }
  (s.debit p (e - a - b)).ledgerSync

/-- R186: what a job that never started was debited goes back to where it came from. -/
def State.refund (s : State) (p : Nat) (paid : Nat × Nat) : State := ((s.credit p paid.1).toPool paid.2).ledgerSync

/-- R166: settlement of a job debited `e` that measured `m`; ENERGY_p accumulates it, in mJ. -/
def State.ledgerSettle (s : State) (p e m : Nat) : State :=
  let s := if m ≤ e then s.credit p (e - m) else s.debit p (m - e)
  let f := s.ledger.energy.getD p 0 + m
  let s := { s with ledger := { s.ledger with energy := s.ledger.energy.set p (f % 65536000) } }
  (s.addWrap (Reg.LEDGER_ENERGY p) 31 0 (f / 65536000)).ledgerSync

/-- R162: SHARE_p with `v` would make the sum exceed 256. -/
def State.shareRefused (s : State) (p v : Nat) : Bool := decide (256 < s.shareSum - s.share p + v % 512)

/-- R162: a write of `v` to SHARE_p: one that would make the sum exceed 256 has no effect and counts RESERVED_ENC. -/
def State.writeShare (s : State) (req : Requester) (p v : Nat) : State :=
  if s.shareRefused p v then s.quiet req (Reg.LEDGER_SHARE p) Cause.RESERVED_ENC
  else s.putF (Reg.LEDGER_SHARE p) 8 0 v

/-- R192: the ledger's release: every level and the pool full. -/
def State.ledgerRelease (s : State) : State :=
  let s := s.ledgerTake
  let s := s.each (List.range 16) fun s p => s.setLevel p (s.capOf p)
  { s with ledger := { s.ledger with pool := s.poolCap } }.ledgerSync

/-- MONITOR_FAULT: the power monitor of grove `g` fails its self-check (R188). -/
def execMonitorFault (g : Nat) (s : State) : Host.Outcome State Fault Refusal :=
  .next (if g < 16 ∧ s.cEntry then
    ({ s with ledger := { s.ledger with monFault := s.ledger.monFault ||| 2 ^ g } }.putBit (ledgerPage + Hdr.STAT) 1 true).lvl ledgerPage 2 true
  else s)

end Sys2Proof.Machine
end

