-- ==== Sys2Proof/Machine/Operands.lean ====
section
/-! DEFINITION. What a memory access carries and where it goes: worlds and partition tags (R196, R346), the physical map
(R39 to R42) and the region checkers (R203 to R206). -/

namespace Sys2Proof.Machine

/-! ## Attributes of requesters -/

/-- R310, R346: the partition whose GROVE_MASK holds grove `g`. -/
def State.groveOwner (s : State) (g : Nat) : Option Nat :=
  (List.range 16).find? fun p => s.bit (Reg.PART_GROVE_MASK p) g

/-- R196: the partition tag of a requester. A ferry's queue transfers carry the tag of its grove's owner (R346). -/
def State.partTag (s : State) : Requester → Option Nat
  | .hart h =>
    let f := if h < 6 then s.getF Reg.SEC_HART_PART_LO (5 * h + 4) (5 * h)
      else s.getF Reg.SEC_HART_PART_HI (5 * (h - 6) + 4) (5 * (h - 6))
    if f < 16 then none else some (f - 16)
  | .block c i => if c = Blk.FERRY then s.groveOwner (i / 2) else if c = Blk.GROVE then s.groveOwner i else none
  | _ => none

/-- An access of a requester with the world and tag it carries. -/
def State.access (s : State) (req : Requester) (addr len : Nat) (write : Bool) (data : List Byte) : Access :=
  { req := req, heart := s.world req, part := s.partTag req, addr := addr, len := len, write := write, data := data }

/-! ## The physical map (R39) -/

/-- What lies at a physical address. -/
inductive Target where
  | bootRom
  | rstate
  | islandTcm
  | store (g : Nat)
  | acq
  | tcm (n : Nat)
  | regs
  | dram
  | rlink (node : Nat)
  | pcie
  | unmapped
  deriving DecidableEq, Repr

def storeBase : Nat := 0x40000000
def acqBase : Nat := 0x50000000
def tcmBase : Nat := 0x60000000
def dramBase : Nat := 0x100000000
def rlinkBase : Nat := 0x4000000000
def rstateBase : Nat := 0x10000000
def islandBase : Nat := 0x20000000

/-- The offset of an address of the DRAM window in it (R39). -/
def dramOff (a : Nat) : Nat := (0xF00000000 + a) % 0x1000000000
/-- The offset of an address of the Rinjo Link window in it (R39). -/
def rlinkOff (a : Nat) : Nat := (0xC000000000 + a) % 0x10000000000

/-- R39: the row of the map that holds an address. -/
def targetOf (a : Nat) : Target :=
  if a < 0x40000 then .bootRom
  else if 0x10000000 ≤ a ∧ a < 0x10010000 then .rstate
  else if 0x20000000 ≤ a ∧ a < 0x20100000 then .islandTcm
  else if 0x40000000 ≤ a ∧ a < 0x48000000 then .store (a / 0x800000 % 16)
  else if 0x50000000 ≤ a ∧ a < 0x52000000 then .acq
  else if 0x60000000 ≤ a ∧ a < 0x60200000 then .tcm (a / 0x40000 % 8)
  else if regBase ≤ a ∧ a < regEnd then .regs
  else if 0x100000000 ≤ a ∧ a < 0x1100000000 then .dram
  else if 0x4000000000 ≤ a ∧ a < 0x14000000000 then .rlink (a / 0x400000000 - 16)
  else if 0x14000000000 ≤ a ∧ a < 0x18000000000 then .pcie
  else .unmapped

/-! ## Region checkers (R203) -/

namespace RfCause
abbrev NO_REGION : Nat := 1
abbrev WORLD : Nat := 2
abbrev RIGHTS : Nat := 3
abbrev PARTITION : Nat := 4
abbrev SPAN : Nat := 5
end RfCause

/-- Region `i` of checker `r` matches an address: EN, a WORLD other than 0, and BASE ≤ address[43:12] ≤ LIMIT. -/
def State.regionMatch (s : State) (r i addr : Nat) : Bool :=
  s.bit (Reg.RCHK_ATTR r i) 0 && decide (s.getF (Reg.RCHK_ATTR r i) 2 1 ≠ 0)
    && decide (s.rd (Reg.RCHK_BASE r i) ≤ addr / 0x1000) && decide (addr / 0x1000 ≤ s.rd (Reg.RCHK_LIMIT r i))

/-- The highest-numbered matching region. -/
def State.regionFor (s : State) (r addr : Nat) : Option Nat :=
  (List.range 32).reverse.find? fun i => s.regionMatch r i addr

/-- The first cause of R203 that refuses an access at checker `r`, 0 where it passes, and TMODE of the deciding region. -/
def State.regionDecide (s : State) (r : Nat) (a : Access) : Nat × Bool :=
  match s.regionFor r a.addr with
  | none => (RfCause.NO_REGION, false)
  | some i =>
    let attr := s.rd (Reg.RCHK_ATTR r i)
    let cause :=
      if s.rd (Reg.RCHK_LIMIT r i) < (a.addr + a.len - 1) / 0x1000 then RfCause.SPAN
      else if !(if a.heart then attr.testBit 2 else attr.testBit 1) then RfCause.WORLD
      else if !(if a.fetch then attr.testBit 5 else if a.write then attr.testBit 4 else attr.testBit 3) then RfCause.RIGHTS
      else if !(match a.part with
        | some p => attr.testBit (16 + p)
        | none => attr.testBit 6) then RfCause.PARTITION
      else 0
    (cause, attr.testBit 7)

/-- R205, R234: a refusal at checker `r`: RF_CNT counts, the first is captured, REFUSE is raised, and SAFE_EVT sends an
event. -/
def State.regionRefused (s : State) (r : Nat) (a : Access) (cause : Nat) : State :=
  let s := (s.cnt (Reg.RCHK_RF_CNT r)).evt (pageAddr Blk.RCHK r) 0
  let s := if s.bit (Reg.RCHK_RF_INFO r) 31 then s else
    ((s.wr (Reg.RCHK_RF_ADDR_LO r) a.addr).wr (Reg.RCHK_RF_ADDR_HI r) (a.addr / 2 ^ 32 % 2 ^ 16)).wr (Reg.RCHK_RF_INFO r)
      (reqCode a.req + 2 ^ 16 * a.heart.toNat + 2 ^ 17 * (a.write && !a.fetch).toNat + 2 ^ 18 * a.fetch.toNat
        + 2 ^ 19 * a.part.getD 0 + 2 ^ 23 * a.part.isSome.toNat + 2 ^ 24 * cause + 2 ^ 31)
  if s.bit (Reg.RCHK_RCHK_CFG r) 0 then s.emit (.island Isl.RCHK r) else s

/-- The check of an access: whether it passes, TMODE of the deciding region, and the state with a refusal recorded. -/
def State.regionCheck (s : State) (r : Nat) (a : Access) : Bool × Bool × State :=
  let d := s.regionDecide r a
  if d.1 = 0 then (true, d.2, s) else (false, d.2, s.regionRefused r a d.1)

/-- The parts of a range in each 4 KiB page it touches. -/
def pageParts (addr len : Nat) : List (Nat × Nat) :=
  (List.range ((addr + len - 1) / 0x1000 + 1 - addr / 0x1000)).map fun k =>
    let p := addr / 0x1000 + k
    let lo := max addr (0x1000 * p)
    (lo, min (addr + len) (0x1000 * (p + 1)) - lo)

end Sys2Proof.Machine
end

