-- ==== Sys2Proof/Machine/Dram.lean ====
section
/-! DEFINITION. Where a DRAM address goes and what an access leaves at its controller (R435 to R443, R448, R451, R457,
R460): interleave, open rows, hints and counters. Controllers 0 to 3 are DMC_A to DMC_D. -/

namespace Sys2Proof.Machine

def State.dmc (s : State) (x : Nat) : Dmc := s.dmcs.getD x {}
def State.setDmc (s : State) (x : Nat) (f : Dmc → Dmc) : State := { s with dmcs := updAt s.dmcs x f }

/-- STAT.STATE of a controller (R460). -/
def State.dmcState (s : State) (x : Nat) : Nat := s.getF (pageAddr Blk.DMC x + Hdr.STAT) 2 0

namespace DmcSt
abbrev OFF : Nat := 0
abbrev TRAINING : Nat := 1
abbrev INIT : Nat := 2
abbrev SERVING : Nat := 3
abbrev SELF_REFRESH : Nat := 4
abbrev FAILED : Nat := 5
abbrev UNPOPULATED : Nat := 6
end DmcSt

/-- R436: bytes mapped. -/
def State.dramSize (s : State) : Nat := 0x100000 * s.getF (Reg.DMC_DRAM_SIZE 0) 19 0

/-- The controllers of the interleave set, in order (R450). -/
def State.dmcSet (s : State) : List Nat := (List.range 4).filter fun x => s.bit (Reg.DMC_IL_STAT 0) x

/-- R435: controller, channel and local channel offset of offset `o` of a DRAM address. -/
def State.dramMap (s : State) (o : Nat) : Nat × Nat × Nat :=
  let set := s.dmcSet
  let ch := fld o 10 9
  match set.length with
  | 4 => (set.getD (fld o 12 11 ^^^ fld o 24 23) 0, ch, fld o 35 13 * 512 + o % 512)
  | 2 => (set.getD (fld o 11 11 ^^^ fld o 23 23) 0, ch, fld o 35 12 * 512 + o % 512)
  | _ => (set.getD 0 0, ch, fld o 35 11 * 512 + o % 512)

/-- Bytes installed on one channel (R434): density in Gb of x16 dies times ranks. -/
def Dmc.channelBytes (d : Dmc) : Nat := 2 ^ 27 * (d.density * d.ranks)

/-- Bank (with the rank above it) and row of a local channel offset (R435): with two ranks the highest bit of L selects
the rank. -/
def Dmc.bankRow (d : Dmc) (l : Nat) : Nat × Nat :=
  let rank := if d.ranks = 2 ∧ d.channelBytes ≤ 2 * l then 1 else 0
  (fld l 14 11 + 16 * rank, l / 0x8000)

/-- R340: the class of a requester's memory traffic: 0 CTRL, 1 RT, 2 JOB, 3 BULK. -/
def classOf : Requester → Nat
  | .island _ => 0
  | .block c _ =>
    if [Blk.ALE, Blk.APORT, Blk.CAM, Blk.VOUT, Blk.FDIG, Blk.BERTH, Blk.GW, Blk.ETH, Blk.CANX].contains c then 1
    else if c = Blk.FERRY ∨ c = Blk.CORE then 2
    else 3
  | _ => 3

/-- R440: the hint of a request: the first enabled table entry that matches its code, else HINT_DEF of its class. -/
def State.hintOf (s : State) (x code cls : Nat) : Nat :=
  match (List.range 8).find? fun k => s.bit (Reg.DMC_HINT_VAL x k) 31 &&
      decide (code &&& s.getF (Reg.DMC_HINT_REQ x k) 31 16
        = s.getF (Reg.DMC_HINT_REQ x k) 15 0 &&& s.getF (Reg.DMC_HINT_REQ x k) 31 16) with
  | some k => s.getF (Reg.DMC_HINT_VAL x k) 1 0
  | none => s.getF (Reg.DMC_HINT_DEF x) (2 * cls + 1) (2 * cls)

/-- The row of local offset `l` of channel `ch` of controller `x` is open. -/
def State.rowHit (s : State) (x ch l : Nat) : Bool :=
  let br := (s.dmc x).bankRow l
  (s.dmc x).rows.any fun r => r.ch == ch && r.bank == br.1 && r.row == br.2

/-- R443: what the scheduler of controller `x` keeps of an access in class `cls` that hit or missed in bank `b`. -/
def State.arbNote (s : State) (x cls b : Nat) (hit : Bool) : State :=
  let gap := s.getF (Reg.DMC_ARB_CFG x) 7 4
  s.setDmc x fun d => { d with arb := { d.arb with
    rt := ((cls == 1) :: d.arb.rt).take 255
    gap := if cls = 0 then gap - 1 else d.arb.gap - 1
    hits := (b, if hit then sget (fun _ => 0) d.arb.hits b + 1 else 0) :: d.arb.hits.filter fun e => e.1 != b } }

/-- R440: a queued request of controller `x` targets a row. -/
def State.rowWanted (s : State) (x ch bank row : Nat) : Bool :=
  s.held.any fun h => match h with
    | .access a _ _ _ => targetOf a.addr == .dram && (s.dramMap (dramOff a.addr)).1 == x && (s.dramMap (dramOff a.addr)).2.1 == ch
        && (s.dmc x).bankRow (s.dramMap (dramOff a.addr)).2.2 == (bank, row)
    | .ticket _ _ _ _ _ => false

/-- A request of `len` bytes reaches controller `x` at local offset `l` of channel `ch`: the row hits or is opened, the
hint decides whether it stays open, and the counters advance (R440, R443, R460). -/
def State.dmcServe (s : State) (x ch l hint cls len : Nat) (write : Bool) : State :=
  let br := (s.dmc x).bankRow l
  let hit := s.rowHit x ch l
  let s := s.arbNote x cls (br.1 + 32 * ch) hit
  let rest := (s.dmc x).rows.filter fun r => !(r.ch == ch && r.bank == br.1)
  let s := s.setDmc x fun d => { d with
    rows := if hint = 2 ∧ !s.rowWanted x ch br.1 br.2 then rest else ⟨ch, br.1, br.2, hint, s.clk.base⟩ :: rest
    rdBytes := if write then d.rdBytes else d.rdBytes + len
    wrBytes := if write then d.wrBytes + len else d.wrBytes }
  let s := if hit then s.incWrap (Reg.DMC_HIT_CNT x) 31 0 else s.incWrap (Reg.DMC_MISS_CNT x) 31 0
  (s.wr (Reg.DMC_RD_MIB x) ((s.dmc x).rdBytes / 0x100000)).wr (Reg.DMC_WR_MIB x) ((s.dmc x).wrBytes / 0x100000)

/-- Why a DRAM access cannot be taken: 0 it can, else a cause of R73 (R41, R451, R457; log entry 17). -/
def State.dramCause (s : State) (req : Requester) (o len : Nat) : Nat :=
  let early := match req with
    | .island _ => true
    | .block c _ => decide (c = Blk.SEC)
    | _ => false
  if !s.cEntry && !early then Cause.NOT_AVAILABLE
  else if s.dmcSet = [] then Cause.NOT_AVAILABLE
  else if s.dramSize < o + len then Cause.UNMAPPED
  else if s.dmcState (s.dramMap o).1 = DmcSt.FAILED then Cause.NOT_AVAILABLE
  else 0

/-- R448, R452: controller `x` holds requests: a refresh window is in progress, or its domain is in P1 or P2. -/
def State.dmcHolds (s : State) (x : Nat) : Bool :=
  (s.dmc x).window.isSome || decide (s.dom (19 + x) = 1) || decide (s.dom (19 + x) = 2)

/-- R456: a corrected error at controller `x` counts. -/
def State.dmcCe (s : State) (x : Nat) : State := s.cnt (Reg.DMC_ECC_CE x)

/-- R456: an uncorrectable error at controller `x` counts and is captured with the SCRUB and LINK bits. -/
def State.dmcUe (s : State) (x addr : Nat) (scrub link : Bool) : State :=
  let s := ((s.cnt (Reg.DMC_ECC_UE x)).evt (pageAddr Blk.DMC x) 2).emit (.island Isl.ECC (Blk.DMC * 256 + x))
  if s.bit (Reg.DMC_ECC_ADDR_HI x) 31 then s
  else (s.wr (Reg.DMC_ECC_ADDR_LO x) addr).wr (Reg.DMC_ECC_ADDR_HI x)
    (addr / 2 ^ 32 % 2 ^ 16 + 2 ^ 16 * scrub.toNat + 2 ^ 17 * link.toNat + 2 ^ 31)

end Sys2Proof.Machine
end

