-- ==== Sys2Proof/Machine/Mesh.lean ====
section
/-! DEFINITION. The mesh (R22, R23, R336 to R341, R355, R356, R359, R703): stops, routes and counters. The model keeps no
cycle counts: STALL counters advance only with time a flit waits, which is timing (log entry 18). -/

namespace Sys2Proof.Machine

/-- R22: the stop x + 5·y of a grove. -/
def groveStop (g : Nat) : Nat := [1, 3, 6, 7, 8, 10, 11, 13, 14, 16, 17, 18, 20, 21, 23, 24].getD g 0

/-- R22: the stop of a controller. -/
def dmcStop (x : Nat) : Nat := [5, 9, 15, 19].getD x 0

/-- R22, R703: the stop of a block instance. -/
def blockStop (c i : Nat) : Nat :=
  if c = Blk.CORE then groveStop (i / 4)
  else if c = Blk.GROVE ∨ c = Blk.TICKET then groveStop i
  else if c = Blk.FERRY then groveStop (i / 2)
  else if c = Blk.MESH then (if i < 25 then i else 0)
  else if c = Blk.DMC then dmcStop i
  else if c = Blk.RCHK then (if i < 8 then dmcStop (i % 4) else if i < 24 then groveStop (i - 8) else if i < 33 then 22 else 0)
  else if c = Blk.RLINK ∨ c = Blk.CASC then 2
  else if [Blk.SAFE, Blk.ANGLE, Blk.GW, Blk.ETH, Blk.CANX].contains c then 4
  else if c = Blk.CAM ∨ c = Blk.VOUT then 12
  else if [Blk.ALE, Blk.APORT, Blk.SENSE, Blk.PROT, Blk.WSEQ, Blk.FDIG, Blk.TRIG, Blk.BERTH].contains c then 22
  else 0

/-- The stop a requester issues at. -/
def stopOf : Requester → Nat
  | .hart _ => 0
  | .island _ => 4
  | .debug => 0
  | .block c i => blockStop c i
  | .rlink _ => 2
  | .pcie => 2

/-- The stop of a memory target; `x` is the controller of a DRAM address. -/
def targetStop (a x : Nat) : Target → Nat
  | .store g => groveStop g
  | .acq => 22
  | .tcm _ => 22
  | .regs => blockStop (regCode a) (regInst a)
  | .dram => dmcStop x
  | .rlink _ => 2
  | .pcie => 2
  | .islandTcm => 4
  | _ => 0

/-- R337: the (stop, output port) pairs a packet uses: along x, then along y, then the local port. Ports are 0 XP, 1 XN,
2 YP, 3 YN and 4 local (R359). -/
def route (src dst : Nat) : List (Nat × Nat) :=
  let x0 := src % 5
  let x1 := dst % 5
  let y0 := src / 5
  let y1 := dst / 5
  ((List.range (x1 - x0)).map fun k => (x0 + k + 5 * y0, 0)) ++ ((List.range (x0 - x1)).map fun k => (x0 - k + 5 * y0, 1))
    ++ ((List.range (y1 - y0)).map fun k => (x1 + 5 * (y0 + k), 2)) ++ ((List.range (y0 - y1)).map fun k => (x1 + 5 * (y0 - k), 3))
    ++ [(dst, 4)]

/-- R336: the flits of a packet of `len` data bytes: a flit carries up to 128, and its header travels on separate wires. -/
def flits (len : Nat) : Nat := max 1 ((len + 127) / 128)

/-- R336, R359: a packet of `len` data bytes counts its flits in INJ at its source and FLITS along its route, where counters run. -/
def State.packet (s : State) (src dst cls len : Nat) : State :=
  let s := if s.bit (Reg.MESH_CTL src) 0 then s.addWrap (Reg.MESH_INJ src cls) 31 0 (flits len) else s
  s.each (route src dst) fun s e => if s.bit (Reg.MESH_CTL e.1) 0 then s.addWrap (Reg.MESH_FLITS e.1 e.2) 31 0 (flits len) else s

/-- R338: a request and its response cross the mesh, with their data bytes. -/
def State.transit (s : State) (src dst cls req resp : Nat) : State := (s.packet src dst cls req).packet dst src cls resp

/-- R355: a corrected flit error at a stop. -/
def State.flitCe (s : State) (stop : Nat) : State := s.cnt (Reg.MESH_ECC_CE stop)

/-- R355: an uncorrectable flit error at a stop's port. -/
def State.flitUe (s : State) (stop port cls : Nat) (header : Bool) : State :=
  let s := ((s.cnt (Reg.MESH_ECC_UE stop)).evt (pageAddr Blk.MESH stop) 0).emit (.island Isl.MESH stop)
  if s.bit (Reg.MESH_ECC_INFO stop) 31 then s
  else s.wr (Reg.MESH_ECC_INFO stop) (port + cls * 8 + header.toNat * 32 + 2 ^ 31)

/-- R356: a transaction issued at a stop times out. -/
def State.meshTimeout (s : State) (stop : Nat) : State := (s.cnt (Reg.MESH_TMO_CNT stop)).evt (pageAddr Blk.MESH stop) 1

end Sys2Proof.Machine
end

