-- ==== Sys2Proof/Machine/Fabric.lean ====
section
/-! DEFINITION. The Rinjo Link ports and the fabric (R639 to R650, R653, R659, R661 to R664): training, low power,
discovery at the root, tables and routes, and packets on their way out. -/

namespace Sys2Proof.Machine

/-! ## TYPE codes (R641) -/
namespace Pkt
abbrev RD : Nat := 0x01
abbrev RDC : Nat := 0x02
abbrev WR : Nat := 0x03
abbrev WRA : Nat := 0x04
abbrev TKT_REQ : Nat := 0x05
abbrev TKT_ANS : Nat := 0x06
abbrev TKT_RET : Nat := 0x07
abbrev PROBE : Nat := 0x10
abbrev IDENTIFY : Nat := 0x11
abbrev NOT_READY : Nat := 0x12
abbrev ASSIGN : Nat := 0x13
abbrev COMMIT : Nat := 0x14
abbrev LINK_EVENT : Nat := 0x15
end Pkt

/-! ## Ports -/

/-- STAT.LSTATE of a port (R664): 0 DOWN, 1 TRAINING, 2 UP, 3 LOW_POWER, 4 ISOLATED, 5 FAILED. -/
def State.lstate (s : State) (p : Nat) : Nat := s.getF (Reg.RLINK_STAT p) 2 0
def State.setLstate (s : State) (p v : Nat) : State := s.putF (Reg.RLINK_STAT p) 2 0 v
/-- The port's link is up; a port in LOW_POWER leaves it for the next flit (R640). -/
def State.portUp (s : State) (p : Nat) : Bool := decide (p < 4) && (decide (s.lstate p = 2) || decide (s.lstate p = 3))
/-- Ports whose link is up, as bits. -/
def State.linksUp (s : State) : Nat := ((List.range 4).map fun p => (s.portUp p).toNat * 2 ^ p).sum

/-- Flits of one packet sent alone: a 16-byte header and its data in 64-byte bodies (R639; log entry 19). -/
def flitsOf (len : Nat) : Nat := (16 + len + 63) / 64

/-- Note the use of a port, which leaves LOW_POWER. -/
def State.usePort (s : State) (p : Nat) : State :=
  let s := { s with fab := { s.fab with lastUse := s.fab.lastUse.set p s.clk.base } }
  if s.lstate p = 3 then s.setLstate p 2 else s

/-- Send a packet on a port. -/
def State.sendPacket (s : State) (p kind : Nat) (words : List Nat) (len : Nat) : State :=
  ((s.usePort p).addWrap (Reg.RLINK_TX_FLITS p) 31 0 (flitsOf len)).emit (.packet p kind words)

/-- A packet of `len` data bytes has arrived on a port. -/
def State.gotPacket (s : State) (p len : Nat) : State :=
  (s.usePort p).addWrap (Reg.RLINK_RX_FLITS p) 31 0 (flitsOf len)

/-- This node's UID (SEC_00). -/
def State.uid (s : State) : Nat := s.rd Reg.SEC_UID_LO + 2 ^ 32 * s.rd Reg.SEC_UID_HI
/-- The RL_ROOT strap (R643, R691). -/
def State.isRoot (s : State) : Bool := s.bit Reg.SYS_STRAP 0
def State.nodeId (s : State) : Nat := s.getF Reg.RLINK_FAB_STAT 13 8
def State.hasId (s : State) : Bool := s.bit Reg.RLINK_FAB_STAT 15
def State.fabState (s : State) : Nat := s.getF Reg.RLINK_FAB_STAT 2 0
def State.setFabState (s : State) (v : Nat) : State := s.putF Reg.RLINK_FAB_STAT 2 0 v
/-- A node is in the committed tables. -/
def State.nodeKnown (s : State) (n : Nat) : Bool := s.bit (Reg.RLINK_NODE_INFO n) 31
def State.routeTo (s : State) (n : Nat) : Nat := s.getF (Reg.RLINK_NODE_ROUTE n) 2 0

/-- R133, R135: Stage C is declared, so requests of the fabric are answered. -/
def State.answersFabric (s : State) : Bool := s.declaredBefore

/-- R135: the retry hint in ms. -/
def State.retryHint (s : State) : Nat :=
  if s.cFailed then 255 else min 254 (max 10 (s.getF Reg.RST_STAGE_CTL 31 16 - (s.clk.base - s.boot.t0) / 400000))

/-- R642: the body of a NOT_READY answer: HINT, low byte of STAGE, UID. -/
def State.notReadyBody (s : State) : List Nat := [s.retryHint, s.rd Reg.RST_STAGE % 256, s.uid]

/-! ## Routes (R648) -/

/-- Level and ID of a node, for the up direction. -/
def nodeRank (ns : List FabNode) (id : Nat) : Nat :=
  match ns.find? fun n => n.id == id with
  | some n => n.hops * 64 + id
  | none => 0

/-- The links leaving a node: port and neighbour. -/
def linksFrom (ls : List FabLink) (id : Nat) : List (Nat × Nat) :=
  ls.filterMap fun l => if l.a = id then some (l.pa, l.b) else if l.b = id then some (l.pb, l.a) else none

/-- The phase after a hop from `a` to `b`: going up is allowed only while no down link was taken. -/
def hopPhase (ns : List FabNode) (a b : Nat) (canUp : Bool) : Option Bool :=
  if nodeRank ns b < nodeRank ns a then (if canUp then some true else none) else some false

/-- Distances to a destination by (node, phase), grown one hop per round. -/
def routeDist (ns : List FabNode) (ls : List FabLink) (d : Nat) : Nat → List ((Nat × Bool) × Nat)
  | 0 => [((d, true), 0), ((d, false), 0)]
  | k + 1 =>
    let t := routeDist ns ls d k
    let new := (ns.map fun n => [(n.id, true), (n.id, false)]).flatten.filter fun q =>
      (t.all fun e => e.1 != q) && (linksFrom ls q.1).any fun l =>
        match hopPhase ns q.1 l.2 q.2 with
        | some ph => t.any fun e => e.1 == (l.2, ph)
        | none => false
    t ++ new.map fun q => (q, k + 1)

/-- R648: the egress port at `src` toward `d`: 4 for the node itself, 7 for none; among shortest legal paths the next hop
of lower NODE_ID, then the lower port. -/
def egress (ns : List FabNode) (ls : List FabLink) (src d : Nat) : Nat :=
  if src = d then 4
  else
    let t := routeDist ns ls d (2 * ns.length)
    match t.find? fun e => e.1 == (src, true) with
    | none => 7
    | some (_, dist) =>
      let c := (linksFrom ls src).filter fun l =>
        match hopPhase ns src l.2 true with
        | some ph => t.any fun e => e.1 == (l.2, ph) && e.2 + 1 == dist
        | none => false
      match (c.map fun l => l.2 * 8 + l.1).min? with
      | some v => v % 8
      | none => 7

/-! ## Cascade roles (R653) -/

/-- Candidates of a group in ascending NODE_ID. -/
def cascCandidates (ns : List FabNode) (g : Nat) : List FabNode :=
  (List.range 64).filterMap fun id => ns.find? fun n => n.id == id && n.casc.testBit 0 && fld n.casc 7 4 == g

/-- The master of a group: the incumbent while a candidate, else the highest PRIO of 1 or more, the lower NODE_ID first. -/
def cascMaster (cs : List FabNode) (incumbent : Option Nat) : Option FabNode :=
  match cs.find? fun n => some n.uid == incumbent with
  | some n => some n
  | none => cs.foldl (fun b n =>
      if fld n.casc 11 8 = 0 then b
      else match b with
        | some m => if fld m.casc 11 8 < fld n.casc 11 8 then some n else b
        | none => some n) none

/-- Role code (R664: 0 none, 1 MASTER, 2 MEMBER, 3 REFUSED, 4 LOCAL), slot and master of a node. -/
def cascRole (ns : List FabNode) (masters : List (Nat × Nat)) (n : FabNode) : Nat × Nat × Nat :=
  let g := fld n.casc 7 4
  if !n.casc.testBit 0 || g = 0 then (0, 0, 0)
  else
    let cs := cascCandidates ns g
    match cascMaster cs ((masters.find? fun e => e.1 == g).map (·.2)) with
    | none => (4, 0, 0)
    | some m =>
      if m.id = n.id then (1, 0, m.id)
      else
        let k := ((cs.filter fun c => c.id != m.id).takeWhile fun c => c.id != n.id).length
        if k < 3 then (2, k + 1, m.id) else (3, 0, m.id)

/-! ## Tables (R644) -/

/-- NODE_nn_INFO of a node. -/
def nodeInfo (ns : List FabNode) (masters : List (Nat × Nat)) (n : FabNode) : Nat :=
  n.links % 16 + n.hops % 256 * 2 ^ 8 + 2 ^ 16 * fld n.casc 7 4 + 2 ^ 20 * fld n.casc 11 8 + 2 ^ 24 * (cascRole ns masters n).1 + 2 ^ 31

/-- The tables of node `id`. -/
def tablesFor (ns : List FabNode) (ls : List FabLink) (masters : List (Nat × Nat)) (id : Nat) : List FabEntry :=
  ns.map fun n => ⟨n.id, n.uid, nodeInfo ns masters n, egress ns ls id n.id⟩

/-- The neighbours of node `id` by port. -/
def nbrsFor (ls : List FabLink) (id : Nat) : List (Option Nat) :=
  (List.range 4).map fun p => ((linksFrom ls id).find? fun l => l.1 == p).map (·.2)

/-- Every entry of the node table at its reset value. -/
def State.clearTables (s : State) : State :=
  s.each (List.range 64) fun s n =>
    (((s.wr (Reg.RLINK_NODE_UID_LO n) 0).wr (Reg.RLINK_NODE_UID_HI n) 0).wr (Reg.RLINK_NODE_INFO n) 0).wr (Reg.RLINK_NODE_ROUTE n) 7

/-- R653, R665: the role of this device in its group; a change raises ROLE_CHG. A member starts from WAITING. -/
def State.setRole (s : State) (role slot master : Nat) : State :=
  let code := if role = 1 then 1 else if role = 2 then 2 else 0
  let st := if role = 1 then 3 else if role = 2 then 1 else if role = 3 then 5 else if role = 4 then 6 else 0
  if s.getF Reg.CASC_STAT 5 4 = code ∧ s.getF Reg.CASC_STAT 13 8 = master ∧ s.getF Reg.CASC_STAT 17 16 = slot
      ∧ (code ≠ 0 ∨ s.getF Reg.CASC_STAT 2 0 = st) then s
  else
    let changed := s.getF Reg.CASC_STAT 5 4 ≠ code
    let s := { s.endFollow with casc := { since := s.clk.base } }
    let s := s.wr Reg.CASC_STAT (st + code * 16 + master * 2 ^ 8 + 2 ^ 16 * slot)
    let s := s.lvl (pageAddr Blk.CASC 0) 2 false
    if changed then s.evt (pageAddr Blk.CASC 0) 0 else s

/-- R659: REMOTE_REG, SAP_OUT and OUT_MASK take effect at a discovery, with the tables that it commits. -/
def State.latchFabric (s : State) : State :=
  { s with fab := { s.fab with remoteReg := s.bit Reg.RLINK_FAB_CFG 1, sapOut := s.bit Reg.RLINK_FAB_CFG 2
                               outMask := s.rd Reg.RLINK_OUT_MASK_LO + 2 ^ 32 * s.rd Reg.RLINK_OUT_MASK_HI } }

/-- R644: apply the tables in the cycle of COMMIT. -/
def State.commitTables (s : State) (a : Assigned) (root : Nat) : State :=
  let old := (List.range 64).map fun n => (s.rd (Reg.RLINK_NODE_UID_LO n), s.rd (Reg.RLINK_NODE_INFO n), s.routeTo n)
  let first := s.fabState ≠ 3 ∧ s.fabState ≠ 4
  let s := s.latchFabric.clearTables.each a.table fun s e =>
    (((s.wr (Reg.RLINK_NODE_UID_LO e.n) (e.uid % 2 ^ 32)).wr (Reg.RLINK_NODE_UID_HI e.n) (e.uid / 2 ^ 32)).wr
      (Reg.RLINK_NODE_INFO e.n) e.info).wr (Reg.RLINK_NODE_ROUTE e.n) e.route
  let s := s.each (List.range 4) fun s p =>
    match a.nbrs.getD p none with
    | some n => (s.putF (Reg.RLINK_STAT p) 13 8 n).putBit (Reg.RLINK_STAT p) 14 true
    | none => (s.putF (Reg.RLINK_STAT p) 13 8 0).putBit (Reg.RLINK_STAT p) 14 false
  let s := ((((s.setFabState 3).putF Reg.RLINK_FAB_STAT 13 8 a.node).putBit Reg.RLINK_FAB_STAT 15 true).putBit
    Reg.RLINK_FAB_STAT 16 false).putF Reg.RLINK_FAB_STAT 30 24 a.table.length
  let s := ((s.incWrap Reg.RLINK_GEN 31 0).funcReady Fn.FABRIC).evt (pageAddr Blk.RLINK 0) 8
  let new := (List.range 64).map fun n => (s.rd (Reg.RLINK_NODE_UID_LO n), s.rd (Reg.RLINK_NODE_INFO n), s.routeTo n)
  let s := if !first && old != new then s.evt (pageAddr Blk.RLINK 0) 9 else s
  { s with fab := { s.fab with assigned := none, root := some root } }.setRole a.role a.slot a.master

/-! ## Discovery at the root (R643 to R646) -/

/-- The next port to probe: nodes in ascending NODE_ID, ports 0 to 3, link up, not answered, not deferred, leading to no
neighbour recorded. -/
def nextPort (d : Disc) : Option (Nat × Nat) :=
  ((List.range 64).flatMap fun n => (List.range 4).map fun p => (n, p)).find? fun q =>
    (d.found.any fun n => n.id == q.1 && n.links.testBit q.2) && !d.done.contains q
      && (d.deferred.all fun e => (e.node, e.port) != q)
      && d.links.all fun l => !((l.a == q.1 && l.pa == q.2) || (l.b == q.1 && l.pb == q.2))

def State.setDisc (s : State) (d : Option Disc) : State := { s with fab := { s.fab with disc := d } }

/-- The egress path to a port of a node. -/
def probePath (d : Disc) (q : Nat × Nat) : List Nat :=
  (((d.found.find? fun n => n.id == q.1).map (·.path)).getD []) ++ [q.2]

/-- R644: tables and roles for every node, ASSIGN and COMMIT to each, the root itself last. -/
def State.finishDiscovery (s : State) (d : Disc) : State :=
  let masters := (List.range 16).filterMap fun g =>
    if g = 0 then none
    else (cascMaster (cascCandidates d.found g) ((s.fab.masters.find? fun e => e.1 == g).map (·.2))).map fun m => (g, m.uid)
  let others := d.found.filter fun n => n.id != 0
  let s := s.each others fun s n =>
    let r := cascRole d.found masters n
    s.sendPacket (n.path.headD 0) Pkt.ASSIGN
      (n.path ++ [n.id, r.1, r.2.1, r.2.2] ++ (tablesFor d.found d.links masters n.id).flatMap fun e => [e.n, e.uid, e.info, e.route]) 128
  let s := s.each others fun s n => s.sendPacket (n.path.headD 0) Pkt.COMMIT n.path 0
  let self := (d.found.find? fun n => n.id == 0).getD ⟨s.uid, 0, 0, 0, 0, 0, []⟩
  let r := cascRole d.found masters self
  let s := { s with fab := { s.fab with disc := none, masters := masters } }
  s.commitTables ⟨0, r.1, r.2.1, r.2.2, tablesFor d.found d.links masters 0, nbrsFor d.links 0⟩ s.uid

/-- Send the next PROBE, wait for deferred ports, or end the discovery. -/
def State.probeNext (s : State) (d : Disc) : State :=
  match nextPort d with
  | some q =>
    let path := probePath d q
    (s.setDisc (some { d with cur := some q })).sendPacket (path.headD 0) Pkt.PROBE (s.uid :: path) 16
  | none => if d.deferred = [] then s.finishDiscovery { d with cur := none } else s.setDisc (some { d with cur := none })

/-- R643: the root starts a discovery and takes NODE_ID 0. -/
def State.startDiscovery (s : State) (restarted : Bool) : State :=
  if s.isRoot && s.bit Reg.RLINK_FAB_CFG 0 then
    let s := (s.setFabState (if s.fabState = 3 ∨ s.fabState = 4 then 4 else 2)).putBit Reg.RLINK_FAB_STAT 15 true
    let s := { s with fab := { s.fab with ids := if s.fab.ids.any fun e => e.1 == s.uid then s.fab.ids else (s.uid, 0) :: s.fab.ids } }
    let self : FabNode := ⟨s.uid, 0, s.rd Reg.SYS_DEV_ID, s.linksUp, s.rd Reg.CASC_CTL, 0, []⟩
    s.probeNext { start := s.clk.base, found := [self], restarted := restarted }
  else s

/-- R646, R661: the root hears of a change: a new discovery, or one restart of the discovery under way. -/
def State.rootHears (s : State) : State :=
  match s.fab.disc with
  | none => s.startDiscovery false
  | some d => if d.restarted then s else s.startDiscovery true

/-- R646: the state of a link of this node changed: LINK_CHG, a LINK_EVENT toward the root, and ROOT_LOST where the route
to the root is down (R662). FABRIC is lost with the last link (R36). -/
def State.linkChanged (s : State) (p : Nat) : State :=
  let s := s.evt (pageAddr Blk.RLINK p) 0
  let s := if (List.range 4).any fun q => s.portUp q || s.lstate q == 1 then s else s.funcLost Fn.FABRIC
  if s.isRoot then (if s.hasId && s.cDecl then s.rootHears else s)
  else if s.hasId then
    let r := s.routeTo 0
    let s := s.putBit Reg.RLINK_FAB_STAT 16 (!s.portUp r)
    if s.portUp r then s.sendPacket r Pkt.LINK_EVENT [s.nodeId, s.linksUp] 16 else s
  else s

/-! ## Outbound accesses (R650) -/

/-- Why an access to the slot of `node` is refused: 0 none, else a cause of R73. -/
def State.outboundCause (s : State) (node : Nat) (a : Access) : Nat :=
  if (s.hasId && decide (node = s.nodeId)) || !s.nodeKnown node
      || !s.fab.outMask.testBit node || (!a.heart && !s.fab.sapOut) then Cause.UNMAPPED
  else if a.len = 0 ∨ 128 < a.len ∨ a.addr / 128 ≠ (a.addr + a.len - 1) / 128 then Cause.SIZE
  else 0

/-- Requests open at a port. -/
def State.openAt (s : State) (p : Nat) : List FabReq := s.fab.reqs.filter fun r => r.port == p && !r.err

/-- Keep OUT_PEND with the requests open at a port. -/
def State.pendSync (s : State) (p : Nat) : State := s.putF (Reg.RLINK_OUT_PEND p) 9 0 (s.openAt p).length

/-- Send an access as RD or WR on its port and keep it open until its completion (R641, R650). -/
def State.sendOut (s : State) (node : Nat) (a : Access) : State :=
  let p := s.routeTo node
  let tag := ((List.range 1024).find? fun t => (s.openAt p).all fun r => r.tag != t).getD 0
  let off := rlinkOff a.addr % 2 ^ 34
  let s := { s with fab := { s.fab with reqs := s.fab.reqs ++ [({ port := p, tag := tag, acc := a } : FabReq)] } }
  (s.pendSync p).sendPacket p (if a.write then Pkt.WR else Pkt.RD)
    ([node, s.nodeId, a.heart.toNat + (if a.tkt.isSome then 4 else 0), reqCode a.req, tag, off, a.len - 1, a.tkt.getD 0]
      ++ a.data.map fun (b : Byte) => b.toNat) (if a.write then a.len else 0)

/-- The request that a completion from `node` with `tag` names. -/
def State.openReq (s : State) (node tag : Nat) : Option FabReq :=
  s.fab.reqs.find? fun r => !r.err && r.tag == tag && rlinkOff r.acc.addr / 0x400000000 == node
def State.closeReq (s : State) (p tag : Nat) : State :=
  { s with fab := { s.fab with reqs := s.fab.reqs.filter fun r => !(r.port == p && r.tag == tag) || r.err } }.pendSync p

/-- A write that its block waits for has ended in error (R647, R651): the block sees it when it completes the transfer. Any other
request just ends. -/
def FabReq.fails (r : FabReq) : Option FabReq :=
  let waits := match r.acc.req with
    | .block c _ => decide (c = Blk.FERRY) || decide (c = Blk.ALE)
    | _ => false
  if r.err then some r else if waits && r.acc.write && !r.ticket && !r.late then some { r with err := true } else none
def State.failReq (s : State) (p tag : Nat) : State :=
  { s with fab := { s.fab with reqs := s.fab.reqs.filterMap fun (r : FabReq) => if r.port = p ∧ r.tag = tag then r.fails else some r } }.pendSync p

/-- The writes of a block to a range of the window that wait for their acknowledgement or have ended in error. -/
def FabReq.isAck (r : FabReq) (req : Requester) (lo len : Nat) : Bool :=
  r.acc.write && !r.ticket && !r.late && r.acc.req == req && decide (lo ≤ r.acc.addr) && decide (r.acc.addr < lo + len)
/-- What has become of them: 0 all acknowledged, 1 some are open, 2 one ended in error. -/
def State.acks (s : State) (req : Requester) (lo len : Nat) : Nat :=
  let l := s.fab.reqs.filter fun (r : FabReq) => r.isAck req lo len
  if l.any (fun r => r.err) then 2 else if l = [] then 0 else 1
/-- R356: the block no longer waits for them. -/
def State.dropAcks (s : State) (req : Requester) (lo len : Nat) : State :=
  let l := s.fab.reqs.filterMap fun (r : FabReq) =>
    if r.isAck req lo len then (if r.err then none else some { r with late := true }) else some r
  { s with fab := { s.fab with reqs := l } }

/-- R652: a block asks the office of `node` for the range of `a`: whether it waits for an answer, or is refused. A request whose node
is absent has the answer NOT_AVAILABLE; one that is open is not repeated. -/
def State.remoteAsk (s : State) (node : Nat) (a : Access) : Bool × State :=
  if s.fab.reqs.any (fun r => r.ticket && !r.late && r.acc.req == a.req && r.acc.addr == a.addr) then (true, s)
  else if !s.nodeKnown node then (true, s)
  else if s.outboundCause node { a with len := 1 } ≠ 0 then (false, s)
  else
    let p := s.routeTo node
    if !s.portUp p then (true, s.cnt (Reg.RLINK_NOROUTE_CNT p))
    else if 512 ≤ (s.openAt p).length then (true, s)
    else
      let tag := ((List.range 1024).find? fun t => (s.openAt p).all fun r => r.tag != t).getD 0
      let s := { s with fab := { s.fab with reqs := s.fab.reqs ++ [({ port := p, tag := tag, acc := a, ticket := true } : FabReq)] } }
      (true, (s.pendSync p).sendPacket p Pkt.TKT_REQ
        [node, s.nodeId, a.heart.toNat, reqCode a.req, tag, rlinkOff a.addr % 2 ^ 34, a.len, 0] 0)

/-- R652: the ticket of granule `g` of the Rinjo Link window is returned. -/
def State.remoteReturn (s : State) (g tag req : Nat) : State :=
  let p := s.routeTo (g / 2 ^ 28)
  if s.portUp p then s.sendPacket p Pkt.TKT_RET [g / 2 ^ 28, s.nodeId, 4, req, 0, g % 2 ^ 28 * 64, 0, tag] 0 else s

/-- R647: the node gives up its ID and tables; open requests end in error. -/
def State.dropTables (s : State) : State :=
  let s := { s with fab := { s.fab with reqs := s.fab.reqs.filterMap FabReq.fails, assigned := none, root := none } }
  let s := s.each (List.range 4) fun s p => s.pendSync p
  (((s.clearTables.setFabState 1).putBit Reg.RLINK_FAB_STAT 15 false).putF Reg.RLINK_FAB_STAT 30 24 0).funcLost Fn.FABRIC

/-- A management packet with hops left is passed on, and the port of arrival kept for the answer (R641). -/
def State.passOn (s : State) (p kind : Nat) (path body : List Nat) : State :=
  match path with
  | [] => s
  | e :: rest =>
    let s := { s with fab := { s.fab with reverse := (e, p) :: s.fab.reverse.filter fun x => x.1 != e } }
    s.sendPacket e kind (body ++ rest) 16

/-- An answer at a node that is not the root goes back by the port its request came from. -/
def State.passBack (s : State) (p kind : Nat) (body : List Nat) : State :=
  match s.fab.reverse.find? fun x => x.1 == p with
  | some x => s.sendPacket x.2 kind body 16
  | none => s

/-! ## Commands -/

/-- RLINK_TRAINING_DONE: training of port `p` ends; `ok` with WIDTH and RATE codes (R639, R664), else a failed training;
the third consecutive failed retrain fails the port (R640, R662). -/
def execRlinkTrainingDone (p : Nat) (ok : Bool) (width rate : Nat) (s : State) : Host.Outcome State Fault Refusal :=
  .next (if 4 ≤ p ∨ !s.aEntry ∨ !s.bit (Reg.RLINK_CTL p) 0 ∨ s.lstate p ≠ 1 then s
    else if ok then
      let s := { s with fab := { s.fab with retrains := s.fab.retrains.set p 0 } }
      let w := min width (s.getF (Reg.RLINK_CTL p) 2 1)
      let r := max rate (s.getF (Reg.RLINK_CTL p) 3 3)
      (((s.setLstate p 2).putF (Reg.RLINK_STAT p) 5 4 w).putF (Reg.RLINK_STAT p) 6 6 r).linkChanged p
    else
      let n := s.fab.retrains.getD p 0 + 1
      let s := { s with fab := { s.fab with retrains := s.fab.retrains.set p n } }
      if 3 ≤ n then ((s.setLstate p 5).evt (pageAddr Blk.RLINK p) 1).linkChanged p else s.setLstate p 1)

/-- LINK_LOW_POWER_ENTRY: at base tick `t` port `p` has carried no flit for LP_IDLE µs. -/
def execLinkLowPowerEntry (p t : Nat) (s : State) : Host.Outcome State Fault Refusal :=
  let s := s.tickTo t
  .next (if p < 4 ∧ s.lstate p = 2 ∧ s.fab.lastUse.getD p 0 + s.getF (Reg.RLINK_LP_IDLE p) 15 0 * 400 ≤ s.clk.base then
    s.setLstate p 3 else s)

/-- RLINK_RETRAIN: 8 consecutive replays of one flit retrain port `p`. -/
def execRlinkRetrain (p : Nat) (s : State) : Host.Outcome State Fault Refusal :=
  .next (if s.portUp p then
    ((s.addSat (Reg.RLINK_REPLAY_CNT p) 31 0 8).cnt (Reg.RLINK_RETRAIN_CNT p)).setLstate p 1 else s)

/-- PROBE: at base tick `t` a probe of root `rootUid`, sent on by node `fromUid`, arrives on port `p` with `path` still to go (R642, R643,
R647, R662). -/
def execFabProbe (p rootUid fromUid : Nat) (path : List Nat) (t : Nat) (s : State) : Host.Outcome State Fault Refusal :=
  let s := s.tickTo t
  .next (if !s.portUp p then s
    else
      let s := s.gotPacket p 16
      if !s.answersFabric then s.sendPacket p Pkt.NOT_READY s.notReadyBody 16
      else if path ≠ [] then s.passOn p Pkt.PROBE path [rootUid]
      else if s.isRoot && decide (rootUid ≠ s.uid) then (s.setLstate p 4).evt (pageAddr Blk.RLINK p) 2
      else
        let s := if s.hasId && !s.isRoot && decide (s.fab.root ≠ some rootUid) then s.dropTables else s
        s.sendPacket p Pkt.IDENTIFY [s.uid, s.rd Reg.SYS_DEV_ID, s.linksUp, s.rd Reg.CASC_CTL, fromUid, p] 32)

/-- The NODE_ID of a UID: the one kept, else the lowest free one (R643, R645). -/
def State.idFor (s : State) (uid : Nat) : Option Nat :=
  match s.fab.ids.find? fun e => e.1 == uid with
  | some e => some e.2
  | none => (List.range 64).find? fun n => s.fab.ids.all fun e => e.2 != n

/-- IDENTIFY: the answer of node `uid` arrives on port `p`: its DEV_ID, links up, CASC_00.CTL and the port at which the
probe reached it. -/
def execIdentify (p uid dev links casc nbrPort : Nat) (s : State) : Host.Outcome State Fault Refusal :=
  .next (if !s.portUp p then s
    else
      let s := s.gotPacket p 32
      match s.isRoot, s.fab.disc with
      | true, some d => match d.cur with
        | none => s
        | some q =>
          let d := { d with done := q :: d.done, cur := none }
          match s.idFor uid with
          | none => (s.evt (pageAddr Blk.RLINK 0) 10).probeNext d
          | some id =>
            let s := { s with fab := { s.fab with ids := if s.fab.ids.any fun e => e.1 == uid then s.fab.ids else (uid, id) :: s.fab.ids } }
            let from' := (d.found.find? fun n => n.id == q.1).getD ⟨0, 0, 0, 0, 0, 0, []⟩
            let d := { d with links := d.links ++ [(⟨q.1, q.2, id, nbrPort⟩ : FabLink)] }
            if d.found.any fun n => n.id == id then s.probeNext d
            else s.probeNext { d with found := d.found ++ [(⟨uid, id, dev, links, casc, from'.hops + 1, from'.path ++ [q.2]⟩ : FabNode)] }
      | _, _ => s.passBack p Pkt.IDENTIFY [uid, dev, links, casc, nbrPort])

/-- NOT_READY: a NOT_READY answer with HINT arrives on port `p`; at the root it defers or excludes the port probed (R643). -/
def execNotReady (p hint : Nat) (s : State) : Host.Outcome State Fault Refusal :=
  .next (if !s.portUp p then s
    else
      let s := s.gotPacket p 16
      match s.isRoot, s.fab.disc with
      | true, some d => match d.cur with
        | none => s
        | some q =>
          if hint = 255 then s.probeNext { d with done := q :: d.done, cur := none }
          else s.probeNext { d with deferred := d.deferred ++ [(⟨q.1, q.2, s.clk.base + 400000 * hint⟩ : Deferred)], cur := none }
      | _, _ => s.passBack p Pkt.NOT_READY [hint])

/-- ASSIGN: at base tick `t` root `rootUid` gives this node its ID, role and tables (R644, R647), or the packet goes on along `path`. -/
def execAssign (p rootUid node role slot master : Nat) (table : List FabEntry) (nbrs : List (Option Nat)) (path : List Nat)
    (t : Nat) (s : State) : Host.Outcome State Fault Refusal :=
  let s := s.tickTo t
  .next (if !s.portUp p then s
    else
      let s := s.gotPacket p 128
      if !s.answersFabric then s.sendPacket p Pkt.NOT_READY s.notReadyBody 16
      else if path ≠ [] then s.passOn p Pkt.ASSIGN path [rootUid, node, role, slot, master]
      else if s.isRoot then s
      else if !s.hasId || decide (s.fab.root = some rootUid) then
        { s with fab := { s.fab with assigned := some ⟨node, role, slot, master, table, nbrs⟩, root := some rootUid } }
      else s)

/-- COMMIT: at base tick `t` the tables of the ASSIGN held apply (R644), or the packet goes on along `path`. -/
def execFabCommit (p rootUid : Nat) (path : List Nat) (t : Nat) (s : State) : Host.Outcome State Fault Refusal :=
  let s := s.tickTo t
  .next (if !s.portUp p then s
    else
      let s := s.gotPacket p 0
      if !s.answersFabric then s.sendPacket p Pkt.NOT_READY s.notReadyBody 16
      else if path ≠ [] then s.passOn p Pkt.COMMIT path [rootUid]
      else match s.fab.assigned with
        | some a => if s.fab.root = some rootUid then s.commitTables a rootUid else s
        | none => s)

/-- LINK_EVENT: at base tick `t` a node's report arrives on port `p`; the root rediscovers, any other node sends it on (R646). -/
def execLinkEvent (p node links t : Nat) (s : State) : Host.Outcome State Fault Refusal :=
  let s := s.tickTo t
  .next (if !s.portUp p then s
    else
      let s := s.gotPacket p 16
      if !s.answersFabric then s.sendPacket p Pkt.NOT_READY s.notReadyBody 16
      else if s.isRoot then s.rootHears
      else if s.hasId && s.portUp (s.routeTo 0) then s.sendPacket (s.routeTo 0) Pkt.LINK_EVENT [node, links] 16 else s)

/-- R659: a write of `v` to FAB_CTL. -/
def State.writeFabCtl (s : State) (req : Requester) (v : Nat) : State :=
  if v.testBit 0 then
    if s.isRoot then s.rootHears else s.quiet req Reg.RLINK_FAB_CTL Cause.RESERVED_ENC
  else s

/-- REDISCOVER: a write of `value` to FAB_CTL. -/
def execRediscover (req : Requester) (value : Nat) (s : State) : Host.Outcome State Fault Refusal :=
  .next (s.checkedWrite req Reg.RLINK_FAB_CTL 4 fun s => s.writeFabCtl req value)

/-- PROBE_RETRY: at base tick `t` the HINT of a deferred port has passed. -/
def execProbeRetry (node port t : Nat) (s : State) : Host.Outcome State Fault Refusal :=
  let s := s.tickTo t
  .next (match s.fab.disc with
    | some d =>
      if d.deferred.any fun e => e.node == node && e.port == port && decide (e.due ≤ s.clk.base) then
        let d := { d with deferred := d.deferred.filter fun e => !(e.node == node && e.port == port) }
        if d.cur = none then s.probeNext d else s.setDisc (some d)
      else s
    | none => s)

/-- DISCOVERY_TIMEOUT: at base tick `t` DISC_TMO ms have passed: deferred ports are excluded and discovery ends. -/
def execDiscoveryTimeout (t : Nat) (s : State) : Host.Outcome State Fault Refusal :=
  let s := s.tickTo t
  .next (match s.fab.disc with
    | some d => if d.start + 400000 * s.getF Reg.RLINK_FAB_CFG 31 16 ≤ s.clk.base then
        s.finishDiscovery { d with deferred := [], cur := none } else s
    | none => s)

end Sys2Proof.Machine
end

