-- ==== Sys2Proof/Machine/Crc.lean ====
section
/-! DEFINITION. CRC-32C and the coefficient sets of the loop cores (R575 to R577). -/

namespace Sys2Proof.Machine

/-- One bit of the reflected CRC with polynomial 0x1EDC6F41. -/
def crcBit (c : Nat) : Nat := if c % 2 = 1 then (c / 2) ^^^ 0x82F63B78 else c / 2
def crcByte (c : Nat) (b : Byte) : Nat :=
  crcBit (crcBit (crcBit (crcBit (crcBit (crcBit (crcBit (crcBit (c ^^^ b.toNat))))))))
/-- CRC-32C: start and final XOR all ones (log entry 31). -/
def crc32c (l : List Byte) : Nat := l.foldl crcByte 0xFFFFFFFF ^^^ 0xFFFFFFFF

/-- R576, R577: the set at address `a` is valid. -/
def State.csetValid (s : State) (a : Nat) : Bool :=
  decide (s.le a 4 = 0x53464352) && decide (s.le (a + 4) 2 = 1) && decide (s.le (a + 12) 4 = crc32c (s.bytes (a + 16) 0x7FF0))

/-- R575: the inactive-set and active-set ports of ALE `n`. -/
def csetIn (n : Nat) : Nat := tcmBase + 0x40000 * n + 0x30000
def csetAct (n : Nat) : Nat := tcmBase + 0x40000 * n + 0x38000

/-- R577: the two 32 KiB sets from address `a` on swap places. -/
def swapSets (a : Nat) (m : List Host.Cell) : List Host.Cell :=
  (m.filter fun e => decide (e.1 < a))
  ++ ((m.filter fun e => decide (a + 0x8000 ≤ e.1) && decide (e.1 < a + 0x10000)).map fun e => (e.1 - 0x8000, e.2))
  ++ ((m.filter fun e => decide (a ≤ e.1) && decide (e.1 < a + 0x8000)).map fun e => (e.1 + 0x8000, e.2))
  ++ m.filter fun e => decide (a + 0x10000 ≤ e.1)

end Sys2Proof.Machine
end

