-- ==== Sys2Proof/Machine/Tickets.lean ====
section
/-! DEFINITION. The ticket offices of the grove stores and the ALE TCMs (R315 to R322, R324, R327 to R330, R335, R563,
R583): windows, requests, ticketed writes, expiry, return and drops. Office `k` is that of GROVE_k for k < 16 and that of
ALE_(k − 16) from 16 on. -/

namespace Sys2Proof.Machine

/-- R583: the register of an office, by its TICKET offset; the ALE pages hold them 0x100 higher. -/
def tkReg (k off : Nat) : Nat := if k < 16 then pageAddr Blk.TICKET k + off else pageAddr Blk.ALE (k - 16) + off + 0x100
/-- The page of an office. -/
def tkPage (k : Nat) : Nat := if k < 16 then pageAddr Blk.TICKET k else pageAddr Blk.ALE (k - 16)
/-- The first physical address of an office's memory. -/
def tkBase (k : Nat) : Nat :=
  if k < 16 then storeBase + 0x800000 * k else if k < 24 then tcmBase + 0x40000 * (k - 16) else rlinkBase + (k - 24) * 64
/-- The office of an address: that of the store or TCM it lies in; from 24 on, the office of another node that serves granule k - 24 of
the Rinjo Link window (R652). -/
def officeOf (a : Nat) : Option Nat :=
  match targetOf a with
  | .store g => some g
  | .tcm n => some (16 + n)
  | .rlink _ => some (24 + rlinkOff a / 64)
  | _ => none
/-- The size of an office's memory and its region checker. -/
def tkSize (k : Nat) : Nat := if k < 16 then 0x800000 else 0x40000
def tkChecker (k : Nat) : Nat := if k < 16 then 8 + k else 9 + k

def State.office (s : State) (k : Nat) : Office := s.offices.getD k {}
def State.setOffice (s : State) (k : Nat) (f : Office → Office) : State := { s with offices := updAt s.offices k f }

def State.tkEvt (s : State) (k bit aleBit : Nat) : State := s.evt (tkPage k) (if k < 16 then bit else aleBit)

/-! ## Windows (R315, R335) -/

def State.winBase (s : State) (k w : Nat) : Nat := s.getF (tkReg k (0x180 + 8 * w)) 22 6 * 64
def State.winCtl (s : State) (k w : Nat) : Nat := s.rd (tkReg k (0x184 + 8 * w))
def State.winEn (s : State) (k w : Nat) : Bool := (s.winCtl k w).testBit 0
def State.winRearm (s : State) (k w : Nat) : Bool := (s.winCtl k w).testBit 1
/-- Bytes of a granule. -/
def State.winGran (s : State) (k w : Nat) : Nat := 64 * 2 ^ fld (s.winCtl k w) 7 4
def State.winCount (s : State) (k w : Nat) : Nat := fld (s.winCtl k w) 14 8
def State.winEnd (s : State) (k w : Nat) : Nat := s.winBase k w + s.winGran k w * s.winCount k w
def State.winArmed (s : State) (k w : Nat) : Bool := s.bit (tkReg k 0x108) w

/-- The enabled window that holds a byte. -/
def State.winOf (s : State) (k off : Nat) : Option Nat :=
  (List.range 16).find? fun w => s.winEn k w && decide (s.winBase k w ≤ off) && decide (off < s.winEnd k w)

/-- Granules of a window that a range covers. -/
def State.granules (s : State) (k w start len : Nat) : List Nat :=
  (List.range (len / s.winGran k w)).map fun i => (start - s.winBase k w) / s.winGran k w + i

/-- Tickets out over window `w`. -/
def State.winTickets (s : State) (k w : Nat) : List Ticket := (s.office k).tickets.filter fun t => t.win == w

/-- Granules of window `w` that outstanding tickets cover. -/
def State.granted (s : State) (k w : Nat) : Nat := ((s.winTickets k w).map fun t => t.len / s.winGran k w).sum

/-- WIN_ww_STAT and STAT follow the office. -/
def State.officeSync (s : State) (k w : Nat) : State :=
  let landed := ((s.office k).landed.filter fun e => e.1 == w).length
  let s := s.wr (tkReg k (0x200 + 4 * w)) (s.granted k w + landed * 256)
  if k < 16 then s.putF (Reg.TICKET_STAT k) 6 0 (s.office k).tickets.length else s

/-- The LANDED level (R335, R583). -/
def State.landedSync (s : State) (k : Nat) : State :=
  s.lvl (tkPage k) (if k < 16 then 0 else 8) (decide (s.getF (tkReg k 0x10C) 15 0 ≠ 0))

/-- ARMED of a window; ARM reads ARMED. -/
def State.setArmed (s : State) (k w : Nat) (b : Bool) : State := (s.putBit (tkReg k 0x108) w b).putBit (tkReg k 0x104) w b

/-- R315: arm window `w`: LANDED and its landed granules clear. -/
def State.armWindow (s : State) (k w : Nat) : State :=
  let s := if 16 ≤ k ∧ w = 14 then { s with ales := updAt s.ales (k - 16) fun (a : Ale) => { a with made := [] } } else s
  let s := (s.setArmed k w true).putBit (tkReg k 0x10C) w false
  ((s.setOffice k fun o => { o with landed := o.landed.filter fun e => e.1 != w }).officeSync k w).landedSync k

/-- R315: what a write of `v` to ARM does. -/
def State.writeArm (s : State) (k v : Nat) : State :=
  s.each ((List.range 16).filter fun w => v.testBit w) fun s w => s.armWindow k w

/-- R577: a landing of window 14 of ALE `n`, or a COMMIT: the inactive set is validated. A valid one waits for the next tick of the
core's domain; an invalid one is rejected and window 14 armed again. -/
def State.csetLand (s : State) (n : Nat) : State :=
  if !s.bit (Reg.ALE_CSET_CTL n) 0 then s
  else
    let ok := s.csetValid (csetIn n)
    let s := { s with ales := updAt s.ales n fun (a : Ale) => { a with
        cset := if ok then some s.clk.base else none, await := if ok then a.await ++ a.made else [] } }
    let s := s.putBit (Reg.ALE_CSET_STAT n) 1 ok
    if ok then s else ((s.cnt (Reg.ALE_CSET_REJ n)).evt (pageAddr Blk.ALE n) 6).armWindow (16 + n) 14

/-- R33: job `id` has completed: a set that it wrote may switch where it is `done`, and is dropped otherwise, its window armed again
for another (log entry 67). -/
def State.csetJob (s : State) (id : Nat) (done : Bool) : State :=
  s.each (List.range 8) fun s n =>
    let a := s.ales.getD n {}
    if done then { s with ales := updAt s.ales n fun (a : Ale) => { a with
      made := a.made.filter fun x => x != id, await := a.await.filter fun x => x != id } }
    else if a.await.contains id then
      (({ s with ales := updAt s.ales n fun (a : Ale) => { a with cset := none, await := [] } }).putBit (Reg.ALE_CSET_STAT n) 1 false).armWindow
        (16 + n) 14
    else if a.made.contains id then s.armWindow (16 + n) 14
    else s

/-- R315, R318: the granules of a consumed ticket land, and the window lands when all of them have. -/
def State.landGranules (s : State) (k : Nat) (t : Ticket) : State :=
  let gs := (s.granules k t.win t.start t.len).map fun g => (t.win, g)
  let s := s.setOffice k fun o => { o with landed := o.landed.filter (fun e => !gs.contains e) ++ gs }
  let n := ((s.office k).landed.filter fun e => e.1 == t.win).length
  if n < s.winCount k t.win then s.officeSync k t.win
  else
    let s := if s.winRearm k t.win then
        s.setOffice k fun o => { o with landed := o.landed.filter fun e => e.1 != t.win }
      else s.setArmed k t.win false
    let s := ((s.putBit (tkReg k 0x10C) t.win true).landedSync k).officeSync k t.win
    if 16 ≤ k ∧ t.win = 14 then s.csetLand (k - 16) else s

/-- Free a ticket's index: its granules are no longer granted. -/
def State.freeTicket (s : State) (k : Nat) (t : Ticket) : State :=
  (s.setOffice k fun o => { o with tickets := o.tickets.filter fun x => x.idx != t.idx }).officeSync k t.win

/-- R320, R676: a ticket that is returned, expires or is voided leaves its granules neither granted nor landed. -/
def State.voidTicket (s : State) (k : Nat) (t : Ticket) : State :=
  let gs := (s.granules k t.win t.start t.len).map fun g => (t.win, g)
  (s.setOffice k fun o => { o with tickets := o.tickets.filter (fun x => x.idx != t.idx)
                                   landed := o.landed.filter fun e => !gs.contains e }).officeSync k t.win

/-- R318: a ticket is consumed. -/
def State.consumeTicket (s : State) (k : Nat) (t : Ticket) : State := (s.freeTicket k t).landGranules k t

/-- The outstanding ticket of a tag: index in bits 5:0, generation in bits 7:6. -/
def State.ticketAt (s : State) (k tag : Nat) : Option Ticket :=
  (s.office k).tickets.find? fun t => t.idx == tag % 64 && t.gen == tag / 64

/-! ## Requests (R316) -/

namespace TkCode
abbrev GRANTED : Nat := 0
abbrev NOT_AVAILABLE : Nat := 1
abbrev LENGTH : Nat := 2
abbrev DENIED : Nat := 3
abbrev NOT_REQUIRED : Nat := 4
abbrev SPAN : Nat := 5
abbrev NO_WINDOW : Nat := 6
abbrev UNALIGNED : Nat := 7
abbrev NOT_ARMED : Nat := 8
abbrev OVERLAP : Nat := 9
abbrev FULL : Nat := 10
end TkCode

/-- Answers that a sender repeats (R316). -/
def tkTransient (code : Nat) : Bool := code = 1 || code = 8 || code = 9 || code = 10

/-- R312, R316, R327, R328, R332: the office answers NOT_AVAILABLE. -/
def State.officeShut (s : State) (k : Nat) : Bool :=
  if k < 16 then
    !s.bit (Reg.TICKET_CTL k) 0 || decide (s.getF (Reg.GROVE_CLEAR_STAT k) 1 0 ≠ 0) || s.bit (Reg.GROVE_CLEAR_STAT k) 4
      || s.leaving.contains k || decide (s.dom k = 3) || decide (s.dom k = 6)
  else !s.bit (Reg.ALE_CTL (k - 16)) 8

/-- A range overlaps the destination of a queued or running memory operation of the store (R325). -/
def State.mopOverlap (s : State) (k off len : Nat) : Bool :=
  (s.mops.getD k []).any fun m => decide (m.dst < off + len) && decide (off < m.dst + m.len)

/-- The answer of office `k` to a request, in the order of R316. -/
def State.ticketAnswer (s : State) (k : Nat) (a : Access) (off len : Nat) : Nat :=
  if s.officeShut k then TkCode.NOT_AVAILABLE
  else if off % 64 ≠ 0 ∨ len % 64 ≠ 0 ∨ len = 0 then TkCode.LENGTH
  else
    let ds := (pageParts (tkBase k + off) len).map fun p =>
      s.regionDecide (tkChecker k) { a with addr := p.1, len := p.2, write := true, fetch := false }
    if ds.any fun d => decide (d.1 ≠ 0) then TkCode.DENIED
    else if ds.all fun d => !d.2 then TkCode.NOT_REQUIRED
    else if ds.any fun d => !d.2 then TkCode.SPAN
    else match s.winOf k off with
      | none => TkCode.NO_WINDOW
      | some w =>
        if s.winEnd k w < off + len then TkCode.SPAN
        else if (off - s.winBase k w) % s.winGran k w ≠ 0 ∨ len % s.winGran k w ≠ 0 then TkCode.UNALIGNED
        else
          let gs := s.granules k w off len
          if !s.winArmed k w || (!s.winRearm k w && (s.office k).landed.any fun e => e.1 == w && gs.contains e.2) then
            TkCode.NOT_ARMED
          else if ((s.winTickets k w).any fun t => decide (t.start < off + len) && decide (off < t.start + t.len))
              || s.mopOverlap k off len then TkCode.OVERLAP
          else if 64 ≤ (s.office k).tickets.length then TkCode.FULL
          else TkCode.GRANTED

/-- The stop of an office. -/
def officeStop (k : Nat) : Nat := if k < 16 then groveStop k else 22

/-- R316: a request is answered: the code, the tag of a grant, and the office after it. `store` marks a core STORE's
request. Request and answer cross the mesh in class CTRL (R340). A forced ticket loss voids the ticket as its answer leaves (R676). -/
def State.ticketRequest (s : State) (k : Nat) (a : Access) (off len : Nat) (store : Bool) : Nat × Nat × State :=
  let code := s.ticketAnswer k a off len
  let s := s.transit (stopOf a.req) (officeStop k) 0 0 0
  if code = TkCode.GRANTED then
    let idx := ((List.range 64).find? fun i => (s.office k).tickets.all fun t => t.idx != i).getD 0
    let gen := (s.office k).gens.getD idx 0
    let w := (s.winOf k off).getD 0
    let t : Ticket := { idx := idx, gen := gen, req := reqCode a.req, via := a.via, heart := a.heart, start := off, len := len, win := w
                        store := store, grant := s.clk.base }
    let s := (s.setOffice k fun o => { o with tickets := o.tickets ++ [t], gens := updAt o.gens idx fun g => (g + 1) % 4 }).officeSync k w
    let s := s.cnt (tkReg k 0x110)
    let forced := match s.armed (tkPage k) with
      | some j => decide (fld j.cfg 3 0 = 4)
      | none => false
    (code, idx + 64 * gen, if forced then (s.voidTicket k t).injected (tkPage k) else s)
  else if code = TkCode.NOT_REQUIRED then (code, 0, s)
  else
    let s := s.cnt (tkReg k 0x114)
    (code, 0, if code = TkCode.FULL then s.tkEvt k 3 10 else s)

/-! ## Writes under a ticket (R318, R319) -/

namespace DropCause
abbrev NO_TICKET : Nat := 1
abbrev STALE : Nat := 2
abbrev REQUESTER : Nat := 3
abbrev RANGE : Nat := 4
abbrev OVERRUN : Nat := 5
end DropCause

/-- The drop cause of a write at store offset `off`, 0 where it carries a valid ticket. -/
def State.dropCause (s : State) (k : Nat) (a : Access) (off : Nat) : Nat :=
  match a.tkt with
  | none => DropCause.NO_TICKET
  | some tag => match s.ticketAt k tag with
    | none => DropCause.STALE
    | some t =>
      if t.req ≠ reqCode a.req ∨ t.via ≠ a.via then DropCause.REQUESTER
      else if off < t.start ∨ t.start + t.len < off + a.len then DropCause.RANGE
      else if t.len < t.count + a.len then DropCause.OVERRUN
      else 0

/-- R319: a dropped write is counted, captured once, and raises DROP. -/
def State.dropWrite (s : State) (k : Nat) (a : Access) (off cause : Nat) : State :=
  let s := (s.cnt (tkReg k 0x120)).tkEvt k 1 7
  if s.bit (tkReg k 0x124) 31 then s
  else (s.wr (tkReg k 0x124) (reqCode a.req + 2 ^ 16 * a.heart.toNat + 2 ^ 17 * cause + 2 ^ 20 * (a.tkt.getD 0 % 256) + 2 ^ 31)).wr
    (tkReg k 0x128) off

/-- R318: the bytes of a valid ticketed write count, and the ticket is consumed at its full length unless a core STORE
holds it. -/
def State.countWrite (s : State) (k : Nat) (a : Access) : State :=
  match s.ticketAt k (a.tkt.getD 0) with
  | none => s
  | some t =>
    let t' := { t with count := t.count + a.len }
    if t'.count = t.len ∧ !t.store then s.consumeTicket k t'
    else s.setOffice k fun o => { o with tickets := o.tickets.map fun x => if x.idx = t.idx then t' else x }

/-! ## End of a ticket (R317, R320, R312) -/

/-- R320: the holder returns a ticket; a tag it does not hold changes nothing (log entry 16). -/
def State.returnTicket (s : State) (k tag req via : Nat) : State :=
  match s.ticketAt k tag with
  | none => s
  | some t => if t.req = req ∧ t.via = via then (s.voidTicket k t).cnt (tkReg k 0x118) else s

/-- R317, R320: a ticket expires. -/
def State.expireTicket (s : State) (k : Nat) (t : Ticket) : State :=
  ((s.voidTicket k t).cnt (tkReg k 0x11C)).tkEvt k 2 9

/-- R312: the purge empties the office; windows keep their configuration, ARMED and LANDED clear. -/
def State.purgeOffice (s : State) (k : Nat) : State :=
  let s := s.setOffice k fun o => { o with tickets := [], landed := [] }
  let s := ((s.wr (tkReg k 0x108) 0).wr (tkReg k 0x104) 0).wr (tkReg k 0x10C) 0
  (s.each (List.range 16) fun s w => s.officeSync k w).landedSync k

/-! ## Window registers (R322, R329) -/

/-- R575: a window of the coefficient ports while CSET_CTL.EN is 1. -/
def State.csetWindow (s : State) (k w : Nat) : Bool :=
  decide (16 ≤ k) && (decide (w = 14) || decide (w = 15)) && s.bit (Reg.ALE_CSET_CTL (k - 16)) 0

/-- A write of `v` to WIN_ww_BASE. -/
def State.writeWinBase (s : State) (req : Requester) (k w v : Nat) : State :=
  if s.winEn k w || s.csetWindow k w || decide (s.granted k w ≠ 0) then s.quiet req (tkReg k (0x180 + 8 * w)) Cause.RESERVED_ENC
  else s.wr (tkReg k (0x180 + 8 * w)) (fld v 22 6 * 64)

/-- WIN_ww_CTL with the fields of `v` whose encodings are not reserved. -/
def winFields (old v : Nat) : Nat :=
  let gran := if fld v 7 4 = 15 then fld old 7 4 else fld v 7 4
  let cnt := if fld v 14 8 = 0 ∨ 64 < fld v 14 8 then fld old 14 8 else fld v 14 8
  v % 4 + gran * 16 + cnt * 256

/-- An enabled window `w` with control `c` would leave the store or overlap another enabled window. -/
def State.winClash (s : State) (k w c : Nat) : Bool :=
  let b := s.winBase k w
  let e := b + 64 * 2 ^ fld c 7 4 * fld c 14 8
  decide (fld c 14 8 = 0) || decide (tkSize k < e)
    || (List.range 16).any fun x => x != w && s.winEn k x && decide (s.winBase k x < e) && decide (b < s.winEnd k x)

/-- A write of `v` to WIN_ww_CTL: refused while granules are granted, and while EN is 1 unless it disables the window, which then changes
EN alone (log entry 16); enabling a window that breaks R322 is a reserved encoding of EN, which keeps its 0 while the other fields are
written (R13). -/
def State.writeWinCtl (s : State) (req : Requester) (k w v : Nat) : State :=
  let a := tkReg k (0x184 + 8 * w)
  let c := winFields (s.rd a) v
  if s.csetWindow k w ∨ s.granted k w ≠ 0 ∨ (s.winEn k w ∧ v.testBit 0) then s.quiet req a Cause.RESERVED_ENC
  else if s.winEn k w then s.putBit a 0 false
  else
    let clash := v.testBit 0 && s.winClash k w c
    let s := if clash || decide (fld v 7 4 = 15) || decide (fld v 14 8 = 0) || decide (64 < fld v 14 8) then s.quiet req a Cause.RESERVED_ENC else s
    s.wr a (if clash then c - 1 else c)

/-! ## Commands -/

/-- WINDOW_ARM: a write of `value` to ARM of office `k`. -/
def execWindowArm (req : Requester) (k value : Nat) (s : State) : Host.Outcome State Fault Refusal :=
  .next (if k < 24 then s.checkedWrite req (tkReg k 0x104) 4 fun s => s.writeArm k value else s)

/-- R328: a request to a grove in P1 or P2 is held. -/
def State.officeHolds (s : State) (k : Nat) : Bool := decide (k < 16) && (decide (s.dom k = 1) || decide (s.dom k = 2))

/-- A ticket request: held, or answered with the code and the tag as response bytes. -/
def State.ticketAsk (s : State) (k : Nat) (a : Access) (off len : Nat) : State :=
  if s.officeHolds k then { s with held := s.held ++ [.ticket k a off len .here] }
  else
    let r := s.ticketRequest k a off len false
    r.2.2.respOk (leBytes 1 r.1 ++ leBytes 1 r.2.1)

/-- TICKET_REQUEST: `req` asks office `k` for `len` bytes from store offset `off`. -/
def execTicketRequest (req : Requester) (k off len : Nat) (s : State) : Host.Outcome State Fault Refusal :=
  .next (if k < 24 then s.ticketAsk k (s.access req (tkBase k + off) len true []) off len else s)

/-- TICKET_RETURN: `req` returns the ticket of `tag`. -/
def execTicketReturn (req : Requester) (k tag : Nat) (s : State) : Host.Outcome State Fault Refusal :=
  .next (if k < 24 then s.returnTicket k tag (reqCode req) 0 else s)

/-- TICKET_EXPIRED: at base tick `t` the ticket of index `idx` has been out for TKT_LIFE µs (R317). -/
def execTicketExpired (k idx t : Nat) (s : State) : Host.Outcome State Fault Refusal :=
  let s := s.tickTo t
  .next (match (s.office k).tickets.find? fun x => x.idx == idx with
    | some x => if x.grant + s.getF (tkReg k 0x100) 15 0 * 400 ≤ s.clk.base then s.expireTicket k x else s
    | none => s)

end Sys2Proof.Machine
end

