-- ==== Sys2Proof/Machine/Queue.lean ====
section
/-! DEFINITION. Requests that wait: the order that the mesh and the stores keep (R308, R343), the limits on open transactions (R344), and the
queue and scheduler of a DRAM controller (R441, R443). `State.held` holds them oldest first; one beyond a limit waits at its issuer. -/

namespace Sys2Proof.Machine

def Held.acc : Held → Access
  | .access a _ _ _ => a
  | .ticket _ a _ _ _ => a

/-- R340: the class of an access: a register access is CTRL whoever issues it. -/
def Access.class (a : Access) : Nat := if targetOf a.addr = .regs then 0 else a.cls.getD (classOf a.req)

/-- The class of a request that is held. -/
def Held.class : Held → Nat
  | .access a _ _ _ => a.class
  | .ticket _ _ _ _ _ => 0

/-- The controller that an access reaches, none where it is not to DRAM. -/
def State.dmcOf (s : State) (a : Access) : Option Nat :=
  if targetOf a.addr = .dram ∧ s.dmcSet ≠ [] then some (s.dramMap (dramOff a.addr)).1 else none

/-- The stop that an access reaches. -/
def State.stopAt (s : State) (a : Access) : Nat := targetStop a.addr ((s.dmcOf a).getD 0) (targetOf a.addr)

/-! ## Limits on open transactions (R344) -/

/-- Open transactions that `p` selects: held, or sent over a port and not answered. -/
def State.openBy (s : State) (l : List Held) (p : Access → Bool) : Nat :=
  (l.filter fun h => match h with
    | .access a _ _ _ => p a
    | .ticket _ _ _ _ _ => false).length
  + (s.fab.reqs.filter fun r => !r.ticket && !r.err && !r.late && p r.acc).length

/-- An access is of ferry `f`. -/
def Access.ofFerry (a : Access) (f : Nat) : Bool := a.req == .block Blk.FERRY f

/-- R344: with the requests of `l` open there is a place for one more transaction: 2,048 of the device, 512 of a controller, 256 of a
ferry. -/
def State.roomFor (s : State) (l : List Held) (a : Access) : Bool :=
  decide (s.openBy l (fun _ => true) < 2048)
    && (match s.dmcOf a with
      | some x => decide (s.openBy l (fun b => s.dmcOf b == some x) < 512)
      | none => true)
    && (match a.req with
      | .block c f => c != Blk.FERRY || decide (s.openBy l (fun b => b.ofFerry f) < 256)
      | _ => true)

/-! ## Order (R308, R343, R441) -/

/-- R308, R343: a request of `l` goes before `a`: one of the same requester to the same stop in the same class, or one to the same grove
store. -/
def State.goesBefore (s : State) (l : List Held) (a : Access) (cls : Nat) : Bool :=
  l.any fun h =>
    (h.acc.req == a.req && h.acc.via == a.via && h.class == cls && s.stopAt h.acc == s.stopAt a)
    || (match targetOf a.addr, targetOf h.acc.addr, h with
      | .store g, .store g', .access _ _ _ _ => g == g'
      | _, _, _ => false)

/-- Controller `x` has a request in its queue. -/
def State.dmcQueued (s : State) (x : Nat) : Bool := s.held.any fun h => match h with
  | .access a _ _ _ => s.dmcOf a == some x
  | .ticket _ _ _ _ _ => false

/-- A new access joins the requests that wait: for order, for a place, or for a controller that has a queue. -/
def State.mustWait (s : State) (a : Access) : Bool :=
  s.goesBefore s.held a a.class || !s.roomFor s.held a
    || (match s.dmcOf a with
      | some x => s.dmcQueued x
      | none => false)

/-! ## The scheduler of a controller (R443) -/

/-- A request in the queue of a controller: its place in `State.held`, class, flow (partition, or 16 untagged), bank, hit, and arrival. -/
structure Waiter where
  k : Nat
  cls : Nat
  flow : Nat
  bank : Nat
  hit : Bool
  since : Nat
  deriving DecidableEq, Repr

/-- The requests that controller `x` may choose from, oldest first: those within the limits of R344 that are the first of their source and
class (R441). -/
def State.waiters (s : State) (x : Nat) : List Waiter :=
  (List.range s.held.length).filterMap fun k => match s.held[k]? with
    | some (Held.access a _ _ t) =>
      if s.dmcOf a ≠ some x ∨ !s.roomFor (s.held.take k) a then none
      else if (s.held.take k).any fun (h : Held) => reqCode h.acc.req == reqCode a.req && h.class == a.class && s.dmcOf h.acc == some x then none
      else
        let m := s.dramMap (dramOff a.addr)
        some { k := k, cls := a.class, flow := a.part.getD 16, bank := ((s.dmc x).bankRow m.2.2).1 + 32 * m.2.1, hit := s.rowHit x m.2.1 m.2.2, since := t }
    | _ => none

/-- R254, R443: the weight of a flow: DRAM_SHARE of a partition, and what they leave for untagged traffic; PART pages are there from Stage C
entry. -/
def State.dramWeight (s : State) (f : Nat) : Nat :=
  let share (p : Nat) : Nat := if s.cEntry then s.getF (Reg.PART_DRAM_SHARE p) 8 0 else 0
  if f < 16 then share f else 256 - ((List.range 16).map share).sum

/-- R443: the flow that deficit round-robin serves next, with the deficits it leaves: the present one while it has deficit, else the next that
waits with a weight, which takes its weight anew; with no such flow, one of weight 0. -/
def State.drrNext (s : State) (x : Nat) (waits : Nat → Bool) : Nat × List Nat :=
  let A := (s.dmc x).arb
  if waits A.turn ∧ A.deficit.getD A.turn 0 ≠ 0 then (A.turn, A.deficit)
  else
    let order := (List.range 17).map fun i => (A.turn + 1 + i) % 17
    match order.find? fun f => waits f && decide (s.dramWeight f ≠ 0) with
    | some f => (f, (A.deficit.set A.turn 0).set f (s.dramWeight f))
    | none => ((order.find? waits).getD 16, A.deficit)

/-- R443: within a class and flow, a row hit goes before a miss, unless its bank has served HIT_CAP consecutive hits while a miss waits for
it. -/
def State.hitFirst (s : State) (x : Nat) (all l : List Waiter) : Option Waiter :=
  let cap := s.getF (Reg.DMC_ARB_CFG x) 23 16
  let capped (b : Nat) : Bool := decide (cap ≤ sget (fun _ => 0) (s.dmc x).arb.hits b) && all.any fun w => w.bank == b && !w.hit
  match l.find? fun w => w.hit && !capped w.bank with
  | some w => some w
  | none => match l.find? fun w => !w.hit with
    | some w => some w
    | none => l.head?

/-- R443: the request that controller `x` serves next, with the deficits and the turn it leaves. -/
def State.dmcPick (s : State) (x : Nat) : Option (Waiter × List Nat × Nat) :=
  let all := s.waiters x
  let A := (s.dmc x).arb
  let keep (w : Waiter) : Waiter × List Nat × Nat := (w, A.deficit, A.turn)
  let cfg := s.rd (Reg.DMC_ARB_CFG x)
  match all.find? fun w => decide (w.since + 40 * fld cfg 15 8 ≤ s.clk.base) with
  | some w => some (keep w)
  | none =>
    let low := all.filter fun w => decide (2 ≤ w.cls)
    let ctrl := all.filter fun w => w.cls == 0
    let rt := all.filter fun w => w.cls == 1
    if ctrl ≠ [] ∧ (A.gap = 0 ∨ ctrl.length = all.length) then (s.hitFirst x all ctrl).map keep
    else if rt ≠ [] ∧ (low = [] ∨ (A.rt.filter fun b => b).length < 16 * fld cfg 3 0) then (s.hitFirst x all rt).map keep
    else if low ≠ [] then
      let d := s.drrNext x fun f => low.any fun w => w.flow == f
      let mine := low.filter fun w => w.flow == d.1
      let job := mine.filter fun w => w.cls == 2
      (s.hitFirst x all (if job = [] then mine else job)).map fun w => (w, d.2.set d.1 (d.2.getD d.1 0 - 1), d.1)
    else (s.hitFirst x all all).map keep

/-- Held request `k` may be served now: it has a place (R344), nothing goes before it (R308, R343), and its controller chooses it (R443). -/
def State.mayServe (s : State) (k : Nat) (h : Held) : Bool :=
  s.roomFor (s.held.take k) h.acc
    && (match s.dmcOf h.acc with
      | some x => (s.dmcPick x).any fun c => c.1.k == k
      | none => !s.goesBefore (s.held.take k) h.acc h.class)

/-- R443: what the choice of a request leaves at its controller. -/
def State.picked (s : State) (a : Access) : State :=
  match s.dmcOf a with
  | some x => match s.dmcPick x with
    | some c => s.setDmc x fun d => { d with arb := { d.arb with deficit := c.2.1, turn := c.2.2 } }
    | none => s
  | none => s

end Sys2Proof.Machine
end

