-- ==== Sys2Proof/Machine/Serve.lean ====
section
/-! DEFINITION. How a memory serves an access (R39 to R42, R158, R203 to R206, R307, R308, R313, R314, R331, R355, R435 to
R457, R515, R563, R581, R650), and what the mesh does to it on its way (R338, R355). Register pages are served in Memory.lean, but for a
transfer of a block of the device (`serveReg`). -/

namespace Sys2Proof.Machine

/-- What became of an access: it ended well with data; it is held; it left the device and completes later; or it ended
with an error response. -/
structure Served where
  ok : Bool := false
  held : Bool := false
  ext : Bool := false
  /-- The error is a poisoned or uncorrectable word (R355). -/
  poison : Bool := false
  /-- The cause of R73 of an error response, where it has one. -/
  cause : Nat := 0
  data : List Byte := []
  deriving DecidableEq, Repr

/-- What became of an access on its way and at its target: data, an error response with its cause, no response because a header was lost,
held by the target, or sent out of the device. -/
inductive Carried where
  | ok (data : List Byte)
  | err (cause : Nat) (poison : Bool)
  | lost
  | held
  | away
  deriving DecidableEq, Repr

/-- An access that ends with an error response recorded for the requester (R68). -/
def State.serveErr (s : State) (a : Access) (cause : Nat) : Served × State :=
  ({ cause := cause }, s.reqErr a.req a.heart a.addr cause a.write)

/-- The bytes of an access, read or written, at the key `k` of memory. -/
def State.serveData (s : State) (a : Access) : Served × State :=
  if a.write then ({ ok := true }, s.setBytes a.addr (a.data.take a.len)) else ({ ok := true, data := s.bytes a.addr a.len }, s)

/-- An access touches the `n`-byte word that holds an address. -/
def Access.touches (a : Access) (n addr : Nat) : Bool := decide (addr / n * n < a.addr + a.len) && decide (a.addr < addr / n * n + n)

/-- The ECC error that an access to a memory at `base` meets: the environment's, or a forced flip of a window (R676), which then counts as
applied; two single errors in one word are two bits (R681). With the kind comes the offset of the word, of `n` bytes, in error. -/
def State.eccResult (s : State) (page base : Nat) (a : Access) (n : Nat) (env : MemEnv) : Nat × Nat × State :=
  let off := a.addr - base
  let f := s.eccForced page off a.len n
  let at' := s.eccForcedAt page off n
  let e := if a.touches n env.word then env.ecc else 0
  let own := (env.word - base) / n * n
  (if e = 1 ∧ f = 1 ∧ own = at' then 2 else max e f, if f ≤ e then own else at', if f ≠ 0 then s.injected page else s)

/-- R331: ECC counters of a grove store; `off` is the word in error. -/
def State.storeEcc (s : State) (g off ecc : Nat) : State :=
  if ecc = 0 then s
  else if ecc = 1 then s.cnt (Reg.GROVE_ECC_CE g)
  else
    let s := ((s.cnt (Reg.GROVE_ECC_UE g)).evt (pageAddr Blk.GROVE g) 5).emit (.island Isl.ECC (Blk.GROVE * 256 + g))
    if s.bit (Reg.GROVE_ECC_UE_ADDR g) 31 then s else s.wr (Reg.GROVE_ECC_UE_ADDR g) (off / 8 * 8 + 2 ^ 31)

/-- R314, R318, R319: a permitted remote write to the memory of office `k`. -/
def State.remoteWrite (s : State) (k : Nat) (a : Access) (ticketed : Bool) : Served × State :=
  if ticketed then
    let off := a.addr - tkBase k
    let c := s.dropCause k a off
    if c ≠ 0 then ({}, s.dropWrite k a off c)
    else
      let r := s.serveData a
      (r.1, r.2.countWrite k a)
  else s.serveData a

/-- R263, R265, R332: a store is out of reach while its grove is being cleared, is OFFLINE, is in P3 or not released, or leaves in a resize whose
clear has started and that is not yet committed. -/
def State.storeShut (s : State) (g : Nat) : Bool :=
  decide (s.dom g = 3) || decide (s.dom g = 6) || decide (s.getF (Reg.GROVE_CLEAR_STAT g) 1 0 ≠ 0) || s.bit (Reg.GROVE_CLEAR_STAT g) 4
    || (s.leaving.contains g && (match s.resize with
      | some r => r.clear
      | none => false))

/-- R157: an access served by domain `d` is pending work. -/
def State.atWork (s : State) (d : Nat) : State := { s with domains := updAt s.domains d fun (D : Domain) => { D with busyAt := s.clk.base } }

/-- R307, R308, R312, R313, R314, R328, R331, R332: an access to the store of grove `g`; `loc` marks one of its own cores,
memory operations or clear. -/
def State.serveStore (s : State) (g : Nat) (a : Access) (loc : Bool) (env : MemEnv) : Served × State :=
  if a.len = 0 ∨ 128 < a.len ∨ a.addr / 128 ≠ (a.addr + a.len - 1) / 128 then s.serveErr a Cause.SIZE
  else if s.storeShut g then s.serveErr a Cause.NOT_AVAILABLE
  else if s.dom g = 1 ∨ s.dom g = 2 then ({ held := true }, s)
  else
    let s := s.atWork g
    let c := s.regionCheck (8 + g) a
    let s := c.2.2
    if !c.1 then ({}, s)
    else if a.write then (if loc then s.serveData a else s.remoteWrite g a c.2.1)
    else
      let e := s.eccResult (pageAddr Blk.GROVE g) (storeBase + 0x800000 * g) a 8 env
      let s := e.2.2.storeEcc g e.2.1 e.1
      if 2 ≤ e.1 then ({ poison := true }, s) else s.serveData a

/-- R563, R581: an access over the mesh to the TCM of ALE `n`. -/
def State.serveTcm (s : State) (n : Nat) (a : Access) (loc : Bool) (env : MemEnv) : Served × State :=
  if !s.released Blk.ALE then s.serveErr a Cause.NOT_AVAILABLE
  else
    let c := s.regionCheck (25 + n) a
    let s := c.2.2
    if !c.1 then ({}, s)
    else if a.write then (if loc then s.serveData a else s.remoteWrite (16 + n) a c.2.1)
    else
      let e := s.eccResult (pageAddr Blk.ALE n) (tcmBase + 0x40000 * n) a 8 env
      let s := if e.1 = 1 then e.2.2.cnt (Reg.ALE_ECC_CE n) else if 2 ≤ e.1 then e.2.2.cnt (Reg.ALE_ECC_UE n) else e.2.2
      if 2 ≤ e.1 then ({ poison := true }, s) else s.serveData a

/-- R515: an access to the acquisition store. -/
def State.serveAcq (s : State) (a : Access) (env : MemEnv) : Served × State :=
  if s.dom 24 = 1 ∨ s.dom 24 = 2 then ({ held := true }, s)
  else if !s.released Blk.BERTH ∨ s.dom 24 = 3 then s.serveErr a Cause.NOT_AVAILABLE
  else
    let s := s.atWork 24
    let c := s.regionCheck 24 a
    let s := c.2.2
    if !c.1 then ({}, s)
    else if a.write then s.serveData a
    else
      let e := s.eccResult (pageAddr Blk.BERTH 0) acqBase a 8 env
      let s := if e.1 = 1 then e.2.2.cnt Reg.BERTH_ECC_CE else if 2 ≤ e.1 then
          e.2.2.cnt Reg.BERTH_ECC_UE else e.2.2
      if 2 ≤ e.1 then ({ poison := true }, s) else s.serveData a

/-- R198, R439, R456: what a cacheable request of world `heart` leaves at its slice; a write-back has class BULK and hint AUTO. It hits only on a line of its own world that the slice may
still hold; a line of the other world is written back and refilled. Whether a line is still held, and which dirty line a miss writes back,
are free values: the spec states no replacement rule (log entry 20). -/
def State.sliceServe (s : State) (x ch l code cls : Nat) (heart : Bool) (line : Nat) : State :=
  let h := s.fresh 1
  if (s.dmc x).lines.contains (line, heart) ∧ h.1 = 1 then h.2
  else
    let other := (s.dmc x).lines.contains (line, !heart)
    let s := h.2.setDmc x fun d => { d with lines := (line, heart) :: d.lines.filter fun e => e.1 != line }
    let s := s.dmcServe x ch (l / 128 * 128) (s.hintOf x code cls) cls 128 false
    let v := s.fresh 1
    let w := v.2.fresh 26
    if v.1 = 1 then
      if other then w.2.dmcServe x ch (l / 128 * 128) 0 3 128 true
      else w.2.dmcServe x (w.1 % 4) (w.1 / 4 * 128) 0 3 128 true
    else w.2

/-- R198: the caches of a hart's cluster take a line for its world; its cluster holds it for one world only. Which accesses hit there is not
the mesh's: an access that is sent has missed (log entry 20). -/
def State.cpuFill (s : State) (req : Requester) (line : Nat) (heart : Bool) : State :=
  match req with
  | .hart n => { s with harts := s.harts.mapIdx fun h (H : Hart) =>
      if h = n then { H with lines := (line, heart) :: H.lines.filter fun e => e.1 != line }
      else if h / 4 = n / 4 then { H with lines := H.lines.filter fun e => e != (line, !heart) } else H }
  | _ => s

/-- R204, R435 to R442, R448, R451, R456, R457: an access to DRAM. -/
def State.serveDram (s : State) (a : Access) (cacheable : Bool) (env : MemEnv) : Served × State :=
  let cls := a.cls.getD (classOf a.req)
  let o := dramOff a.addr
  let c := s.dramCause a.req o a.len
  if c ≠ 0 then s.serveErr a c
  else
    let m := s.dramMap o
    let x := m.1
    if s.dmcHolds x then ({ held := true }, s)
    else
      let s := s.atWork (19 + x)
      let d := s.regionCheck (if cacheable then 4 + x else x) a
      let s := d.2.2
      if !d.1 then ({}, s)
      else
        let whole := decide (a.addr % 32 = 0) && decide (a.len % 32 = 0)
        let line := a.addr / 128
        let reads := !a.write || !whole
        let b := { a with addr := a.addr / 32 * 32, len := a.len + a.addr % 32 }
        let e := if reads && (s.dmc x).ctl.testBit 1 then s.eccResult (pageAddr Blk.DMC x) 0 b 32 env
          else (if env.ecc = 3 ∧ b.touches 32 env.word then 3 else 0, env.word / 32 * 32, s)
        let s := if cacheable then (e.2.2.sliceServe x m.2.1 m.2.2 (reqCode a.req) cls a.heart line).cpuFill a.req line a.heart
          else e.2.2.dmcServe x m.2.1 m.2.2 (e.2.2.hintOf x (reqCode a.req) cls) cls a.len a.write
        let s := if e.1 = 1 then s.dmcCe x else if 2 ≤ e.1 then s.dmcUe x e.2.1 false (decide (e.1 = 3)) else s
        if 2 ≤ e.1 then
          ({ poison := true }, if cacheable && !s.poison.contains line then { s with poison := line :: s.poison } else s)
        else if cacheable && s.poison.contains line && reads then ({ poison := true }, s)
        else
          let s := if a.write && decide (a.len = 128) then { s with poison := s.poison.filter fun l => l != line } else s
          s.serveData a

/-- One 32-bit access of a transfer to a register page, with every check of R48, R52, R59, R67 and R704; one that passes has the effect of the
register's access codes (log entry 55). -/
def State.serveReg4 (s : State) (a : Access) : Carried × State :=
  match s.verdictAs a.req a.heart a.addr a.len a.write with
  | .go =>
    if a.write then (.ok [], { s.regStore a.req a.addr (leNat a.data % 2 ^ 32) with resp := s.resp })
    else
      let r := s.regRead (a.addr / 4 * 4)
      (.ok (((leBytes 4 r.1).drop (a.addr % 4)).take a.len), r.2)
  | .absent => (.ok (List.replicate (if a.write then 0 else a.len) 0), s)
  | .deny cause count => (.err cause false, s.denyRec a.req a.heart a.addr cause count a.write)
  | .quiet cause => if a.write then (.ok [], s.pageErr (pageOf a.addr) (regOff a.addr) cause a.heart) else (.ok (List.replicate a.len 0), s)

/-- R48: an access of a transfer to a register page; an aligned 64-bit one is two, the lower offset first. -/
def State.serveReg (s : State) (a : Access) : Carried × State :=
  if a.len = 8 ∧ a.addr % 8 = 0 then
    let r := s.serveReg4 { a with len := 4, data := a.data.take 4 }
    let t := r.2.serveReg4 { a with addr := a.addr + 4, len := 4, data := a.data.drop 4 }
    (match r.1, t.1 with
      | .ok x, .ok y => .ok (x ++ y)
      | .ok _, c => c
      | c, _ => c, t.2)
  else s.serveReg4 a

/-- R338: the stops an access travels between, none where it does not enter the mesh. -/
def State.meshEnds (s : State) (a : Access) (loc : Bool) : Option (Nat × Nat) :=
  let t := targetOf a.addr
  if loc || t == .bootRom || t == .islandTcm || t == .unmapped then none else some (stopOf a.req, s.stopAt a)

/-- R338, R340, R359: an access that its target took has crossed the mesh and back with its data, unless it is local. -/
def State.meshCrossed (s : State) (a : Access) (loc : Bool) : State :=
  match s.meshEnds a loc with
  | some (x, y) => s.transit x y a.class (if a.write then a.len else 0) (if a.write then 0 else a.len)
  | none => s

/-- An access to a memory of the map, by its target; `loc` marks one that stays within its grove or core (R313, R338, R563). One that runs from
one memory into another is refused: SIZE, or UNMAPPED where it leaves the map (log entry 10). -/
def State.serveAt (s : State) (a : Access) (loc cacheable : Bool) (env : MemEnv) : Served × State :=
  let t := targetOf a.addr
  match t with
  | .store g => if s.cEntry then s.serveStore g a loc env else s.serveErr a Cause.NOT_AVAILABLE
  | _ =>
  if targetOf (a.addr + (a.len - 1)) ≠ t then s.serveErr a (if targetOf (a.addr + (a.len - 1)) = .unmapped then Cause.UNMAPPED else Cause.SIZE)
  else match t with
  | .unmapped => s.serveErr a Cause.UNMAPPED
  | .store _ => s.serveErr a Cause.UNMAPPED
  | .regs =>
    let r := s.serveReg a
    (match r.1 with
      | .ok d => { ok := true, data := d }
      | .err c _ => { cause := c }
      | _ => {}, r.2)
  | .bootRom =>
    if s.aEntry || !a.heart then s.serveErr a Cause.UNMAPPED
    else if a.write then s.serveErr a Cause.READ_ONLY
    else ({ ok := true, data := s.bytes a.addr a.len }, s)
  | .rstate =>
    let c := s.regionCheck 33 a
    if c.1 then c.2.2.serveData a else ({}, c.2.2)
  | .islandTcm => match a.req with
    | .island _ => if s.aEntry then s.serveData a else s.serveErr a Cause.NOT_AVAILABLE
    | _ => s.serveErr a Cause.UNMAPPED
  | .acq => s.serveAcq a env
  | .tcm n => s.serveTcm n a loc env
  | .dram => s.serveDram a cacheable env
  | .rlink node =>
    if !s.cEntry then s.serveErr a Cause.NOT_AVAILABLE
    else
      let c := s.outboundCause node a
      if c ≠ 0 then s.serveErr a c
      else
        let p := s.routeTo node
        if !s.portUp p then ({}, s.cnt (Reg.RLINK_NOROUTE_CNT p))
        else if 512 ≤ (s.openAt p).length then ({ held := true }, s)
        else ({ ext := true }, s.sendOut node a)
  | .pcie =>
    if !s.cEntry then s.serveErr a Cause.NOT_AVAILABLE
    else ({ ext := true }, s.emit (.pcieReq a.write a.addr a.len a.data a.stream))

/-- As `serveAt`, with the packets counted at the mesh stops once the target has taken the access. -/
def State.serve (s : State) (a : Access) (loc cacheable : Bool) (env : MemEnv) : Carried × State :=
  let r := s.serveAt a loc cacheable env
  if r.1.held then (.held, r.2)
  else (if r.1.ext then .away else if r.1.ok then .ok r.1.data else .err r.1.cause r.1.poison, r.2.meshCrossed a loc)

/-! ## Flit errors (R355, R676) -/

/-- A flit error: its stop and port, its kind (1 corrected, 2 in data, 3 in a header), and whether the response meets it. -/
structure FlitErr where
  stop : Nat
  port : Nat
  kind : Nat
  back : Bool
  forced : Bool
  deriving DecidableEq, Repr

/-- The flit error that an access meets: one armed at the window of a stop on its way, for the port it leaves by (R676), or the environment's,
of the packet that carries its word, at a stop and port of its route or of its response's. -/
def State.flitMet (s : State) (a : Access) (loc : Bool) (env : MemEnv) : Option FlitErr :=
  match s.meshEnds a loc with
  | none => none
  | some (x, y) =>
    let armed (e : Nat × Nat) : Bool := match s.armed (pageAddr Blk.MESH e.1) with
      | some j => decide (fld j.cfg 22 20 = e.2)
      | none => false
    let kind (n : Nat) : Nat := match s.armed (pageAddr Blk.MESH n) with
      | some j => fld j.cfg 3 0
      | none => 0
    match (route x y).find? armed, (route y x).find? armed with
    | some e, _ => some ⟨e.1, e.2, kind e.1, false, true⟩
    | none, some e => some ⟨e.1, e.2, kind e.1, true, true⟩
    | none, none =>
      if env.flit ≠ 0 ∧ a.touches 1 env.word ∧ (if env.back then route y x else route x y).contains (env.stop, env.port) then
        some ⟨env.stop, env.port, env.flit, env.back, false⟩
      else none

/-- R338, R355: an access crosses the mesh to its target, which does `eff`. A poisoned write is not performed, a poisoned packet ends in an error
response, and a packet whose header is lost gets no response. -/
def State.cross (s : State) (a : Access) (loc : Bool) (env : MemEnv) (eff : State → Carried × State) : Carried × State :=
  match s.flitMet a loc env with
  | none => eff s
  | some f =>
    let s := if f.forced then s.injected (pageAddr Blk.MESH f.stop) else s
    let s := if f.kind = 1 then s.flitCe f.stop else s.flitUe f.stop f.port a.class (decide (3 ≤ f.kind))
    if f.kind ≤ 1 then eff s
    else if f.back then
      let r := eff s
      match r.1 with
      | .held => r
      | .away => r
      | _ => (if f.kind = 2 then .err 0 true else .lost, r.2)
    else (if f.kind = 2 then .err 0 true else .lost, s)

/-- What serves the pieces of a transfer of a block: each waits its turn (R308, R343, R344, R443), crosses the mesh and is served. -/
def State.blockServe (loc cacheable : Bool) (env : MemEnv) (a : Access) (s : State) : Carried × State :=
  if s.mustWait a then (.held, s) else s.cross a loc env fun s => s.serve a loc cacheable env

end Sys2Proof.Machine
end

