-- ==== Sys2Proof/Machine/Move.lean ====
section
/-! DEFINITION. Transfers that a block of the device issues over a range of the physical map: piece by piece, each within
a 128-byte line (R336), through the checks of Serve.lean. -/

namespace Sys2Proof.Machine

/-- How a transfer ended: done, held so that nothing has happened yet, an error response, poisoned data (R355), or no response because a packet
was lost: its time-out (R356) is taken with it (log entry 56). -/
inductive Moved where
  | done
  | held
  | error
  | poison
  | lost
  deriving DecidableEq, Repr

/-- The parts of a range in each 128-byte line it touches. -/
def lineParts (addr len : Nat) : List (Nat × Nat) :=
  if len = 0 then [] else
  (List.range ((addr + len - 1) / 128 + 1 - addr / 128)).map fun k =>
    let p := addr / 128 + k
    let lo := max addr (p * 128)
    (lo, min (addr + len) ((p + 1) * 128) - lo)

/-- A transaction of a transfer gets no response: its issuer's stop counts a time-out (R356). -/
def State.noAnswer (s : State) (a : Access) : State := s.meshTimeout (stopOf a.req)

/-- Read the parts in order; `env.ext` are the bytes that targets outside the device return, by offset in the range: a part they do not
cover is answered in error. -/
def State.readParts (a : Access) (loc cacheable : Bool) (env : MemEnv) : List (Nat × Nat) → List Byte → State → Moved × List Byte × State
  | [], acc, s => (.done, acc, s)
  | (p, n) :: t, acc, s =>
    let r := State.blockServe loc cacheable env { a with addr := p, len := n, write := false, data := [] } s
    match r.1 with
    | .held => (.held, acc, s)
    | .away =>
      if env.ext.length < p - a.addr + n then (.error, acc, r.2)
      else readParts a loc cacheable env t (acc ++ ((env.ext.drop (p - a.addr)).take n)) r.2
    | .ok d => readParts a loc cacheable env t (acc ++ d) r.2
    | .err _ poison => ((if poison then .poison else .error), acc, r.2)
    | .lost => (.lost, acc, r.2.noAnswer a)

/-- Write the parts in order. -/
def State.writeParts (a : Access) (loc cacheable : Bool) (env : MemEnv) : List (Nat × Nat) → State → Moved × State
  | [], s => (.done, s)
  | (p, n) :: t, s =>
    let r := State.blockServe loc cacheable env { a with addr := p, len := n, write := true, data := (a.data.drop (p - a.addr)).take n } s
    match r.1 with
    | .held => (.held, s)
    | .away => writeParts a loc cacheable env t r.2
    | .ok _ => writeParts a loc cacheable env t r.2
    | .err _ poison => ((if poison then .poison else .error), r.2)
    | .lost => (.lost, r.2.noAnswer a)

/-- Read a range. A transfer whose target holds it leaves the state as it was. -/
def State.readRange (s : State) (a : Access) (loc cacheable : Bool) (env : MemEnv) : Moved × List Byte × State :=
  let r := State.readParts a loc cacheable env (lineParts a.addr a.len) [] s
  if r.1 = .held then (.held, [], s) else r

/-- `n` free bytes: what a target outside the device returns where no operand gives it. -/
def State.freeExt (s : State) (n : Nat) : List Byte × State :=
  let v := s.fresh (8 * n)
  (leBytes n v.1, v.2)

/-- Write a range. -/
def State.writeRange (s : State) (a : Access) (loc cacheable : Bool) (env : MemEnv) : Moved × State :=
  let r := State.writeParts a loc cacheable env (lineParts a.addr a.len) s
  if r.1 = .held then (.held, s) else r

/-- A read of `len` bytes by the block of page `c`, `i`. -/
def State.blockRead (s : State) (c i addr len : Nat) (env : MemEnv) : Moved × List Byte × State :=
  s.readRange (s.access (.block c i) addr len false []) false false env

/-- A write by the block of page `c`, `i`. -/
def State.blockWrite (s : State) (c i addr : Nat) (data : List Byte) (env : MemEnv) : Moved × State :=
  s.writeRange (s.access (.block c i) addr data.length true data) false false env

end Sys2Proof.Machine
end

