-- ==== Sys2Proof/Machine/Rings.lean ====
section
/-! DEFINITION. Rings, owner records and completion records (R238 to R253, R255, R267 to R276), the accounting of contexts
(R380, R381) and the ring monitors' record (R419). -/

namespace Sys2Proof.Machine

def dispPage : Nat := pageAddr Blk.DISP 0
def ringPage (i : Nat) : Nat := pageAddr Blk.RING i
def partPage (p : Nat) : Nat := pageAddr Blk.PART p

/-- The partition whose current RING_MASK holds ring `i` (R255). -/
def State.ringPart (s : State) (i : Nat) : Option Nat :=
  (List.range 16).find? fun p => if i < 32 then s.bit (Reg.PART_RING_MASK_LO p) i else s.bit (Reg.PART_RING_MASK_HI p) (i - 32)

/-- Ring `i` is in a NEXT_RING_MASK of a partition. -/
def State.ringNext (s : State) (p i : Nat) : Bool :=
  if i < 32 then s.bit (Reg.PART_NEXT_RING_MASK_LO p) i else s.bit (Reg.PART_NEXT_RING_MASK_HI p) (i - 32)

/-- R260: the ring leaves its partition in the running resize. -/
def State.ringLeaving (s : State) (i : Nat) : Bool :=
  match s.resize, s.ringPart i with
  | some r, some p => r.armed.contains p && !s.ringNext p i
  | _, _ => false

/-- R248: the owner record of ring `i` in the page of `p` has VALID set. -/
def State.ownerValid (s : State) (p i : Nat) : Bool := s.bit (Reg.PART_OWN_W0 p i) 31

/-- R242: the ring is served. -/
def State.ringServed (s : State) (i : Nat) : Bool :=
  s.cEntry && s.bit (Reg.RING_CTL i) 0 && (match s.ringPart i with
    | some p => s.ownerValid p i
    | none => false)

def State.ringSt (s : State) (i : Nat) : RingSt := s.rings.getD i {}
def State.setRing (s : State) (i : Nat) (f : RingSt → RingSt) : State := { s with rings := updAt s.rings i f }

/-- Jobs of ring `i` fetched and not completed. -/
def State.ringJobs (s : State) (i : Nat) : Nat := (s.jobs.filter fun j => j.ring == i).length

/-- Records written and not yet consumed. -/
def State.cqUsed (s : State) (i : Nat) : Nat :=
  let n := s.rd (Reg.RING_CQ_SIZE i)
  (s.rd (Reg.RING_CQ_TAIL i) + n - s.rd (Reg.RING_CQ_HEAD i) % n) % n

/-- R240: a completion slot can be reserved. -/
def State.cqRoom (s : State) (i : Nat) : Bool := decide (s.ringJobs i + s.cqUsed i + 1 < s.rd (Reg.RING_CQ_SIZE i))

/-- R242, R276: STAT of a ring and the CQ_FULL level. -/
def State.ringSync (s : State) (i : Nat) : State :=
  let a := Reg.RING_STAT i
  let p := s.ringPart i
  let valid := match p with
    | some p => s.ownerValid p i
    | none => false
  let s := ((s.putBit a 0 (s.ringServed i)).putBit a 1 p.isNone).putBit a 2 (p.isSome && !valid)
  let s := ((s.putBit a 3 (!s.cqRoom i)).putBit a 6 (s.ringLeaving i)).putF a 11 8 (s.ringSt i).credits.length
  s.lvl (ringPage i) 3 (!s.cqRoom i)

/-- Every ring's STAT, after a change of masks or owner records. -/
def State.ringsSync (s : State) : State := s.each (List.range 64) fun s i => s.ringSync i

/-- R243: one gate credit, with TIME and the published angles at its arrival (R246). -/
def State.addCredit (s : State) (i : Nat) : State :=
  if !s.bit (Reg.RING_CTL i) 1 then s
  else if (s.ringSt i).credits.length < s.getF (Reg.RING_CTL i) 11 8 then
    (s.setRing i fun r => { r with credits := r.credits ++ [(s.timeNs, (List.range 3).map fun d => s.rd (Reg.ANGLE_DOM_ANGLE d))] }).ringSync i
  else s.cnt (Reg.RING_DB_LOST_CNT i)

/-- R243, R244: an external doorbell reaches ring `i`. -/
def State.extDoorbell (s : State) (i : Nat) : State :=
  if !s.cEntry then s
  else if !s.bit (Reg.RING_CTL i) 2 || !s.ringServed i then (s.cnt (Reg.RING_DB_IGN_CNT i)).evt (ringPage i) 4
  else s.addCredit i

/-- R340: a block sends a doorbell to ring `i`: a CTRL packet to the stop of the RING pages. -/
def State.blockDoorbell (s : State) (c n i : Nat) : State := (s.transit (blockStop c n) (blockStop Blk.RING i) 0 0 0).extDoorbell i

/-! ## Jobs in the dispatcher -/

def State.setJob (s : State) (id : Nat) (f : Job → Job) : State :=
  { s with jobs := s.jobs.map fun (j : Job) => if j.id = id then f j else j }
def State.job (s : State) (id : Nat) : Option Job := s.jobs.find? fun j => j.id == id

/-- R387: STAT and QLEN of DISP_00, and the rings' reserved slots. -/
def State.dispSync (s : State) : State :=
  let s := s.wr Reg.DISP_STAT s.jobs.length
  s.each (List.range 16) fun s p => s.wr (Reg.DISP_QLEN p)
    (s.jobs.filter fun j => j.part == p && j.start.isNone && decide (j.ph ≠ .ended)).length

/-! ## Completion records (R241, R252, R253) -/

namespace Disp
abbrev DONE : Nat := 0x00
abbrev DONE_AFTER_DELAY : Nat := 0x01
abbrev DONE_PREEMPTED : Nat := 0x02
abbrev DONE_LATE : Nat := 0x03
abbrev REFUSED_CAPACITY : Nat := 0x10
abbrev REFUSED_ENERGY : Nat := 0x11
abbrev REFUSED_DEADLINE : Nat := 0x12
abbrev REFUSED_SPOOF : Nat := 0x13
abbrev FAILED_DATA_FAULT : Nat := 0x20
abbrev FAILED_TIMEOUT : Nat := 0x21
abbrev FAILED_CLEAR_PENDING : Nat := 0x22
abbrev CANCELLED : Nat := 0x30
end Disp

/-- Saturation to `w` bits. -/
def satN (w v : Nat) : Nat := min v (2 ^ w - 1)

/-- WAIT_US and RUN_US (R252, R377). -/
def State.jobWait (s : State) (j : Job) : Nat := ((match j.start with | some t => t | none => s.clk.base) - j.fetched) / 400
def State.jobRun (s : State) (j : Job) : Nat := (j.run + (match j.since with | some t => s.clk.base - t | none => 0)) / 400

/-- The 32 bytes of a job's completion record. -/
def State.record (s : State) (j : Job) (disp cause : Nat) : List Byte :=
  leBytes 8 j.tag ++ leBytes 1 disp ++ leBytes 1 cause
    ++ leBytes 2 (j.ctx + 2 ^ 12 * j.world.toNat + 2 ^ 13 * j.clamped.toNat + 2 ^ 14 * (j.checked && j.start.isSome).toNat
      + 2 ^ 15 * (s.ringSt j.ring).phase.toNat)
    ++ leBytes 4 (satN 32 (s.jobWait j)) ++ leBytes 4 (if j.start.isSome then satN 32 (s.jobRun j) else 0)
    ++ leBytes 2 (satN 16 j.preempts) ++ leBytes 2 j.sq
    ++ leBytes 4 (if j.start.isSome then satN 32 (j.energy / 65536) else 0) ++ leBytes 4 s.timeLo

/-- R419: monitors that watch ring `i` see a record of disposition `disp`. -/
def State.rmonRecord (s : State) (i disp : Nat) : State :=
  s.each (List.range 4) fun s k =>
    let cfg := s.rd (Reg.SAFE_RMON_CFG k)
    if cfg.testBit 31 && decide (fld cfg 5 0 = i) && (decide (disp < 0x10) || !cfg.testBit 8) then
      { s.putBit Reg.SAFE_RMON_STAT k false with rmon := s.rmon.set k s.clk.base }
    else s

/-- R380: the accounting entry of a record's context. -/
def State.account (s : State) (j : Job) : State :=
  let a := sget (fun _ => ({} : Acct)) s.acct j.ctx
  let inter := !s.bit (Reg.PART_MODE j.part) 0
  let b : Acct := { jobs := satN 32 (a.jobs + 1)
                    wait := if inter then satN 48 (a.wait + satN 32 (s.jobWait j)) else a.wait
                    preempt := if inter then satN 32 (a.preempt + j.preempts) else a.preempt }
  let full := fun (x : Acct) => decide (x.jobs = 2 ^ 32 - 1) || decide (x.wait = 2 ^ 48 - 1) || decide (x.preempt = 2 ^ 32 - 1)
  let s := { s with acct := sput (fun _ => ({} : Acct)) s.acct j.ctx b }
  if full b && !full a then s.evt dispPage 4 else s

/-- Counters and interrupts of a disposition (R387), and the accounting (R380). -/
def State.disposed (s : State) (j : Job) (disp : Nat) : State :=
  let s := (if disp = Disp.REFUSED_SPOOF then s else s.account j).csetJob j.id (decide (disp ≤ Disp.DONE_LATE))
  if disp = Disp.REFUSED_CAPACITY then (s.cnt (Reg.DISP_CAP_REFUSE_CNT j.part)).evt dispPage 0
  else if disp = Disp.REFUSED_DEADLINE then (s.cnt (Reg.DISP_DL_REFUSE_CNT j.part)).evt dispPage 0
  else if disp = Disp.DONE_LATE then (s.cnt (Reg.DISP_LATE_CNT j.part)).evt dispPage 1
  else if disp = Disp.FAILED_TIMEOUT then s.evt dispPage 3
  else if disp = Disp.CANCELLED ∧ s.getF Reg.DISP_CANCEL_STAT 1 0 = 2 then s.putF Reg.DISP_CANCEL_STAT 1 0 1
  else s

/-- The job leaves the dispatcher. -/
def State.dropJob (s : State) (j : Job) : State :=
  ({ s with jobs := s.jobs.filter fun (x : Job) => x.id != j.id }.dispSync).ringSync j.ring

/-- R241, R273: the completion record of a job is written: the job leaves; where the record cannot be written it is lost; where
its memory holds the write the job stays `ended` with it. -/
def State.finish (s : State) (j : Job) (disp cause : Nat) : State :=
  let i := j.ring
  if s.bit (Reg.RING_STAT i) 5 then ((s.cnt (Reg.RING_LOST_CNT i)).disposed j disp).dropJob j
  else
    let addr := 2 ^ 32 * s.getF (Reg.RING_CQ_BASE_HI i) 15 0 + s.getF (Reg.RING_CQ_BASE_LO i) 31 5 * 32 + 32 * s.rd (Reg.RING_CQ_TAIL i)
    let a : Access := { req := .block Blk.RING i, heart := s.world (.block Blk.RING i), part := some j.part, addr := addr
                        len := 32, write := true, data := s.record j disp cause }
    let r := s.writeRange a false false {}
    match r.1 with
    | .held => (s.setJob j.id fun x => { x with ph := .ended, stop := some (disp, cause) }).ringSync i
    | .done =>
      let n := s.rd (Reg.RING_CQ_SIZE i)
      let tail := (s.rd (Reg.RING_CQ_TAIL i) + 1) % n
      let s := r.2.wr (Reg.RING_CQ_TAIL i) tail
      let s := if tail = 0 then s.setRing i fun r => { r with phase := !r.phase } else s
      let s := if j.irq ∨ 0x10 ≤ disp then s.evt (ringPage i) 2 else s
      ((s.rmonRecord i disp).disposed j disp).dropJob j
    | _ =>
      let s := ((r.2.putBit (Reg.RING_STAT i) 5 true).cnt (Reg.RING_LOST_CNT i)).evt (ringPage i) 5
      (s.disposed j disp).dropJob j

/-! ## Register actions -/

/-- R239: a write of `v` to SQ_TAIL. -/
def State.writeSqTail (s : State) (req : Requester) (i v : Nat) : State :=
  if s.rd (Reg.RING_SQ_SIZE i) ≤ v then s.quiet req (Reg.RING_SQ_TAIL i) Cause.RESERVED_ENC else s.wr (Reg.RING_SQ_TAIL i) v

/-- CQ_HEAD: a value at or above CQ_SIZE is a reserved encoding. -/
def State.writeCqHead (s : State) (req : Requester) (i v : Nat) : State :=
  if s.rd (Reg.RING_CQ_SIZE i) ≤ v then s.quiet req (Reg.RING_CQ_HEAD i) Cause.RESERVED_ENC
  else (s.wr (Reg.RING_CQ_HEAD i) v).ringSync i

/-- R276: a write of `v` to a configuration register of a ring while CTL.EN is 1 changes nothing, but for CTL writes that change
EN alone or EXT_DB_EN alone. R273: EN written 1 after 0 clears the
errors, and lets a ring whose page changed owner fetch again (R269, log entry 69); credits above GATE_MAX or without GATED are dropped. -/
def State.writeRingCfg (s : State) (req : Requester) (a i v : Nat) : State :=
  let old := s.rd a
  let diff := v ^^^ old
  let en := s.bit (Reg.RING_CTL i) 0
  if a = Reg.RING_CTL i then
    if en && diff &&& 0xF07 ≠ 1 && diff &&& 0xF07 ≠ 4 then s.quiet req a Cause.RESERVED_ENC
    else
      let s := s.regStore req a v
      let s := if !en && v.testBit 0 then
          ((s.putBit (Reg.RING_STAT i) 4 false).putBit (Reg.RING_STAT i) 5 false).setRing i fun r => { r with moved := false } else s
      let keep := if s.bit (Reg.RING_CTL i) 1 then s.getF (Reg.RING_CTL i) 11 8 else 0
      (s.setRing i fun r => { r with credits := r.credits.take keep }).ringSync i
  else if en then s.quiet req a Cause.RESERVED_ENC
  else (s.regStore req a v).ringSync i

/-- R248: a write of `v` to word `w` of ring `n`'s owner record in the page of `p`. -/
def State.writeOwner (s : State) (req : Requester) (p n w v : Nat) : State :=
  let a := if w = 0 then Reg.PART_OWN_W0 p n else Reg.PART_OWN_W1 p n
  let inMask := if n < 32 then s.bit (Reg.PART_RING_MASK_LO p) n else s.bit (Reg.PART_RING_MASK_HI p) (n - 32)
  if !s.ownerValid p n || !inMask || (decide (w = 0) && !v.testBit 31) then (s.regStore req a v).ringSync n
  else s.quiet req a Cause.RESERVED_ENC

/-- SQ_TAIL_DOORBELL: a write of `value` to SQ_TAIL of ring `i`. -/
def execSqTailDoorbell (req : Requester) (i value : Nat) (s : State) : Host.Outcome State Fault Refusal :=
  .next (if i < 64 then s.checkedWrite req (Reg.RING_SQ_TAIL i) 4 fun s => s.writeSqTail req i value else s)

/-- RING_DOORBELL: a write of `value` to DOORBELL of ring `i`. -/
def execRingDoorbell (req : Requester) (i value : Nat) (s : State) : Host.Outcome State Fault Refusal :=
  .next (if i < 64 then s.checkedWrite req (Reg.RING_DOORBELL i) 4 fun s => if value.testBit 0 then s.addCredit i else s else s)

/-- EXTERNAL_DOORBELL: the event network sends a doorbell to ring `i`. -/
def execExternalDoorbell (i : Nat) (s : State) : Host.Outcome State Fault Refusal :=
  .next (if i < 64 then s.extDoorbell i else s)

/-- OWNER_RECORD_WRITE: a write of `value` to word `w` of the record of ring `n` in the page of partition `p`. -/
def execOwnerRecordWrite (req : Requester) (p n w value : Nat) (s : State) : Host.Outcome State Fault Refusal :=
  .next (if p < 16 ∧ n < 64 then
    s.checkedWrite req (if w = 0 then Reg.PART_OWN_W0 p n else Reg.PART_OWN_W1 p n) 4 fun s => s.writeOwner req p n w value else s)

/-- R381: a write of `v` to ACCT_SEL latches the entry of its CTX_ID, and zeroes it with CLEAR. -/
def State.writeAcctSel (s : State) (v : Nat) : State :=
  let a := sget (fun _ => ({} : Acct)) s.acct (v % 4096)
  let s := (((s.wr Reg.DISP_ACCT_JOBS a.jobs).wr Reg.DISP_ACCT_WAIT_LO a.wait).wr Reg.DISP_ACCT_WAIT_HI (a.wait / 2 ^ 32)).wr
    Reg.DISP_ACCT_PREEMPT a.preempt
  if v.testBit 16 then { s with acct := sput (fun _ => ({} : Acct)) s.acct (v % 4096) {} } else s

/-- ACCT_SEL: a write to ACCT_SEL that latches the entry of `ctx`. -/
def execAcctSel (req : Requester) (ctx : Nat) (s : State) : Host.Outcome State Fault Refusal :=
  .next (s.checkedWrite req Reg.DISP_ACCT_SEL 4 fun s => s.writeAcctSel (ctx % 4096))

/-- ACCT_SEL_CLEAR: the same with CLEAR set. -/
def execAcctSelClear (req : Requester) (ctx : Nat) (s : State) : Host.Outcome State Fault Refusal :=
  .next (s.checkedWrite req Reg.DISP_ACCT_SEL 4 fun s => s.writeAcctSel (ctx % 4096 + 2 ^ 16))

end Sys2Proof.Machine
end

