-- ==== Sys2Proof/Machine/Reset.lean ====
section
/-! DEFINITION. What a reset of each kind does (R71, R111, R115, R116, R144, R148, R210, R701, R702) and the fault output
(R36, R110, R218). -/

namespace Sys2Proof.Machine

/-! ## Memories without a physical address: their bases in `State.inner` (log entry 4) -/

/-- The boot flash (R121, R122). -/
abbrev flashBase : Nat := 0
/-- Everything from here on is cleared by a reset. -/
abbrev volatileBase : Nat := 2 ^ 40
/-- WSEQ program and waveform memories (R538). -/
abbrev pmemBase : Nat := 2 ^ 40
abbrev wmemBase : Nat := 2 ^ 40 + 2 ^ 32
/-- The gateway route table (R630). -/
abbrev routeBase : Nat := 2 ^ 41
/-- Tile memory of core `n` (R278). -/
abbrev tileBase (n : Nat) : Nat := 2 ^ 42 + 2 ^ 24 * n
/-- Saved contexts: core `n`, slot `k` (R372). -/
abbrev savedBase (n k : Nat) : Nat := 2 ^ 43 + 2 ^ 24 * (n * 16 + k)

/-! ## Kinds of reset: the bit of RST_CAUSE that each sets (R149) -/

namespace Rst
abbrev POR : Nat := 0
abbrev WARM_PIN : Nat := 1
abbrev SWRST : Nat := 2
abbrev SAFETY : Nat := 3
abbrev WAKE : Nat := 4
end Rst

/-- R111, R148, R691, R702: the registers a reset of kind `k` keeps; `sup` marks a POR of a supply fault. -/
def keptReg (k : Nat) (sup : Bool) (a : Nat) : Bool :=
  if a = Reg.SYS_SUP_STAT then k ≠ 0 || sup
  else if a = Reg.SYS_STRAP ∨ a = Reg.RST_RST_CAUSE then k ≠ 0
  else false

/-- The memories a reset keeps: boot ROM and RSTATE (R111). -/
def keptMem (a : Nat) : Bool :=
  match targetOf a with
  | .bootRom => true
  | .rstate => true
  | _ => false

/-- R449: DRAM bytes that a reset meets: nothing is said of them after it, so each that was written has a free value (log entry 13). -/
def State.freeDram (s : State) (l : List Nat) : State :=
  s.each l fun s a =>
    let v := s.fresh 8
    v.2.setByte a (BitVec.ofNat 8 v.1)

/-- Registers read from fuses (R229, R233). A pending lifecycle state takes effect at a reset (R210). -/
def State.fuseRegs (s : State) : State :=
  let f := s.fuse
  let s := s.wr Reg.SEC_LIFECYCLE (f.lifecycle + 2 ^ 16 * f.fullInField.toNat)
  let s := s.wr Reg.SEC_FUSE_KEY_STAT (f.programmed + f.revoked * 16 + f.debugKey.toNat * 256)
  s.each [0, 1, 2] fun s k => s.wr (Reg.SEC_ARB k) (f.arb.getD k 0)

/-- R111, R144, R148: a reset of kind `k` takes effect: every block outside the always-on island returns to its reset
values and the stages run again from the beginning. What was in flight is dropped. -/
def State.resetAs (s : State) (k : Nat) (sup : Bool) : State :=
  let r : State := { State.reset with
    regs := s.regs.filter fun e => keptReg k sup e.1
    mem := s.mem.filter fun e => keptMem e.1
    inner := s.inner.filter fun e => decide (e.1 < volatileBase)
    clk := { base := s.clk.base }
    resp := s.resp
    out := s.out
    fuse := s.fuse
    free := s.free
    pending := s.pending
    boot := { poresetN := s.boot.poresetN, warmresetN := s.boot.warmresetN, por := decide (k = 0), aon := s.boot.aon
              supply := s.boot.supply, perstN := s.boot.perstN, railsWait := s.boot.railsWait || s.boot.parked } }
  let r := (r.freeDram ((s.mem.filter fun e => targetOf e.1 == .dram).map fun e => e.1)).fuseRegs
  if k = 0 then r.wr Reg.RST_RST_CAUSE 1 else r.putBit Reg.RST_RST_CAUSE k true

/-- R691: the straps are latched at the end of a POR. -/
def State.latchStraps (s : State) (straps : Nat) : State :=
  if s.boot.por then { s.wr Reg.SYS_STRAP (straps % 64) with boot := { s.boot with por := false } } else s

/-- Release of a reset (R90, R111, R149, R192): TIME and the T_ counters start, and pump and fan are driven fully. The sense bank runs from here, with converter k on group k
(R487). -/
def State.releaseReset (s : State) : State :=
  let s := { s with boot := { s.boot with held := false, t0 := s.clk.base }, clk := { base := s.clk.base, time := 0 }
                    sns := { lastSwap := s.clk.base } }
  let s := { s with therm := { s.therm with pump := 255, fan := 255 } }
  s.each (List.range 4) fun s g => s.putF (Reg.SENSE_STAT g) 2 0 g

/-- The reset ends once no pin, supply fault or missing rail holds it (R111, R689, R697). -/
def State.tryRelease (s : State) : State :=
  if s.boot.held && s.boot.poresetN && s.boot.warmresetN && !s.boot.supply && !s.boot.railsWait && s.boot.aon && !s.boot.parked then s.releaseReset
  else s

/-- A reset that begins and ends on its own: it is released at once unless a pin holds it. -/
def State.resetNow (s : State) (k : Nat) : State := (s.resetAs k false).tryRelease

/-! ## FAULT_N (R110, R218) -/

/-- R36, R218: FAULT_OUT.HALTED, FUNC_READY.SAFETY and the level of FAULT_N. `entered` marks a safety image that runs. -/
def State.faultSync (s : State) : State :=
  let halted := s.dbg.pairHalted.any id
  let s := s.putBit Reg.SAFE_FAULT_OUT 16 halted
  let s := if s.aEntry then s.funcSet Fn.SAFETY (!halted) else s
  let low := s.bit Reg.SAFE_FAULT_OUT 0 || s.bit Reg.SAFE_FAULT_OUT 8 || s.bit Reg.SAFE_FAULT_OUT 9 || halted
  { s with boot := { s.boot with faultN := s.aReady && !low } }

end Sys2Proof.Machine
end

