-- ==== Sys2Proof/Machine/Wseq.lean ====
section
/-! DEFINITION. The waveform sequencer (R519 to R532, R539, R541 to R544): segments, threads, switch lines, channels and the
carrier cycle. -/

namespace Sys2Proof.Machine

/-! ## Ramps -/

def Ramp.val (r : Ramp) (t : Nat) : Rat :=
  if r.at' + r.dur ≤ t ∨ r.dur = 0 then r.v1 else r.v0 + (r.v1 - r.v0) * ((t - r.at' : Nat) : Rat) / (r.dur : Rat)
/-- A ramp from the present value to `v` over `dur` ticks. -/
def Ramp.to (r : Ramp) (v : Rat) (t dur : Nat) : Ramp := if r.v1 = v then r else { v0 := r.val t, v1 := v, at' := t, dur := dur }

/-! ## Parts of the state -/

def wseqPage : Nat := pageAddr Blk.WSEQ 0
def State.thr (s : State) (h : Nat) : Thread := s.wseq.thrs.getD h {}
def State.setThr (s : State) (h : Nat) (f : Thread → Thread) : State :=
  { s with wseq := { s.wseq with thrs := updAt s.wseq.thrs h f } }
def State.chan (s : State) (j : Nat) : Chan := s.wseq.chans.getD j {}
def State.setChan (s : State) (j : Nat) (f : Chan → Chan) : State :=
  { s with wseq := { s.wseq with chans := updAt s.wseq.chans j f } }
def State.lane (s : State) (l : Nat) : Lane := s.wseq.lanes.getD l {}
def State.setLane (s : State) (l : Nat) (f : Lane → Lane) : State :=
  { s with wseq := { s.wseq with lanes := updAt s.wseq.lanes l f } }

/-! ## Memories (R529, R538, R542) -/

def pmemSize : Nat := 0x20000
def wmemSize : Nat := 0x80000

/-- ECC of a word of PMEM or WMEM at MEM_ADDR `a`, with forced flips (R676): 0 none, 1 corrected, 2 uncorrectable. `chime` marks the
chime area. -/
def State.wseqEcc (s : State) (a env : Nat) (chime : Bool) : Nat × State :=
  let f := s.eccForced wseqPage a 4 8
  let s := if f ≠ 0 then s.injected wseqPage else s
  let e := max env f
  (e, if e = 0 then s else if e = 1 then s.cnt Reg.WSEQ_ECC_CE
    else
      let s := (s.cnt Reg.WSEQ_ECC_UE).evt wseqPage 6
      if chime then s.emit (.island Isl.ECC (Blk.WSEQ * 256)) else s)

/-- R529: a segment descriptor. -/
structure Seg where
  off : Nat
  len : Nat
  fmt : Nat
  angle : Bool
  dom : Nat
  rate : Nat
  zero : Bool
  deriving DecidableEq, Repr

def State.seg (s : State) (k : Nat) : Seg :=
  let a := wmemBase + 16 * k
  let w := s.ile (a + 8) 4
  { off := s.ile a 4, len := s.ile (a + 4) 4, fmt := fld w 1 0, angle := w.testBit 2, dom := fld w 4 3, rate := fld w 31 8
    zero := s.ile (a + 12) 4 == 0 && fld w 7 5 == 0 }

def Seg.size (g : Seg) : Nat := if g.fmt = 0 then 2 else 4
/-- First byte after the samples. -/
def Seg.fin (g : Seg) : Nat := g.off + g.len * g.size
/-- R529: every field is in range and the samples end within WMEM. -/
def Seg.valid (g : Seg) : Bool :=
  g.zero && decide (g.off % 4 = 0) && decide (0x4000 ≤ g.off) && decide (1 ≤ g.len) && decide (g.len ≤ 262144) && decide (g.fmt ≤ 1)
    && decide (g.dom ≠ 3)
    && (if g.angle then decide (16 ≤ g.rate) && decide (g.rate ≤ 65536) else decide (1000 ≤ g.rate) && decide (g.rate ≤ 384000))
    && decide (g.fin ≤ wmemSize)

/-- Sample `i` of a segment, in 24-bit codes; zero in a word of WMEM (`bad`) with an uncorrectable error (R542). -/
def State.segSample (s : State) (g : Seg) (i : Nat) (bad : Option Nat) : Int :=
  let o := g.off + i * g.size
  if bad = some (o / 8) then 0
  else if g.fmt = 0 then sgn 16 (s.ile (wmemBase + o) 2) * 256 else sgn 24 (s.ile (wmemBase + o) 3)

/-! ## Playing (R525, R530, R531) -/

/-- The published angle of a domain without wrap at base tick `t`, as the bus updates show it. -/
def State.angleAt (s : State) (d : Nat) (t : Rat) : Rat :=
  match s.ang.trail.find? fun e => decide ((e.1 : Rat) ≤ t) with
  | some e => (e.2.getD d 0 : Int)
  | none => ((s.adom d).shown : Int)

/-- Samples that a segment supplies before it ends; none for one that repeats without end. -/
def State.playLen (s : State) (p : Play) : Option Nat := if p.rep = 0 then none else some ((s.seg p.seg).len * p.rep)

/-- Position of a playing segment, in samples from sample 0, at instant `t`; angle mode counts from the angle of sample 0. -/
def State.playPos (s : State) (p : Play) (t : Rat) : Rat :=
  let g := s.seg p.seg
  if g.angle then
    if t < p.start then -1
    else (s.angleAt g.dom t - p.org.getD (s.angleAt g.dom p.start)) * (g.rate : Rat) / turn
  else (t - p.start) * (g.rate : Rat) / 400000000

/-- Sample `i` of a playing segment: before its start the samples played before, after its end zero. -/
def State.playSample (s : State) (p : Play) (past : List Int) (i : Int) (bad : Option Nat) : Int :=
  let g := s.seg p.seg
  if i < 0 then past.getD (-i - 1).toNat 0
  else match s.playLen p with
    | some n => if (n : Int) ≤ i then 0 else s.segSample g (i.toNat % max g.len 1) bad
    | none => s.segSample g (i.toNat % max g.len 1) bad

/-- R525: a series interpolated 5.000 µs before cycle start `t`, from 32 of its samples that are known at `t`. -/
def State.playOut (s : State) (p : Play) (past : List Int) (t : Nat) (bad : Option Nat) : Rat :=
  let pos := s.playPos p ((t : Rat) - 2000)
  let now := s.playPos p (t : Rat)
  let i := pos.floor
  let taps := (List.range 32).filterMap fun k =>
    let n : Int := i + 15 - (k : Int)
    if (n : Rat) ≤ now ∨ n ≤ i then some (pos - (n : Rat), s.playSample p past n bad) else none
  (clampS 24 (Config.resample taps) : Int) / 8388608

/-- The last samples of a segment at instant `t`, newest first. -/
def State.playPast (s : State) (p : Play) (past : List Int) (t : Rat) : List Int :=
  let n := match s.playLen p with
    | some n => min (s.playPos p t).floor ((n : Int) - 1)
    | none => (s.playPos p t).floor
  (List.range 32).map fun (k : Nat) => s.playSample p past (n - (k : Int)) none

/-- Angle of sample 0 of a segment in angle mode whose start has come. -/
def State.playBegin (s : State) (p : Play) : Play :=
  let g := s.seg p.seg
  if g.angle ∧ p.org.isNone ∧ p.start ≤ (s.clk.base : Rat) then { p with org := some (s.angleAt g.dom p.start) } else p

/-- A domain holds ANGLE-mode output: it is STOPPED or travels in reverse (R526, R541). -/
def State.angHeld (s : State) (d : Nat) : Bool := s.stopped d || decide ((s.adom d).dir < 0)

/-! ## Threads (R527, R528, R542) -/

namespace ThrSt
abbrev IDLE : Nat := 0
abbrev RUN : Nat := 1
abbrev WAIT_LINE : Nat := 2
abbrev WAIT_SLOT : Nat := 3
abbrev WAIT_TIME : Nat := 4
abbrev FAULT : Nat := 5
end ThrSt

namespace ThrFault
abbrev BAD_INSTR : Nat := 1
abbrev LOOP : Nat := 2
abbrev STACK : Nat := 3
abbrev SEG : Nat := 4
abbrev ECC : Nat := 5
end ThrFault

def State.thrState (s : State) (h : Nat) : Nat := s.getF (Reg.WSEQ_THR_STAT h) 2 0
def State.setThrState (s : State) (h v : Nat) : State := s.putF (Reg.WSEQ_THR_STAT h) 2 0 v
def State.setPc (s : State) (h v : Nat) : State := s.wr (Reg.WSEQ_THR_PC h) (v % 0x4000)
def State.pc (s : State) (h : Nat) : Nat := s.getF (Reg.WSEQ_THR_PC h) 13 0
/-- Loop and call depth as STAT shows them. -/
def State.thrDepth (s : State) (h : Nat) : State :=
  (s.putF (Reg.WSEQ_THR_STAT h) 19 16 (s.thr h).loops.length).putF (Reg.WSEQ_THR_STAT h) 23 20 (s.thr h).calls.length

/-- R527: RUN returns to 0: CUR and NEXT are discarded and the thread's output ramps to zero over 1 ms. -/
def State.thrStop (s : State) (h st : Nat) : State :=
  let s := s.setThr h fun (x : Thread) => { x with
    old := x.cur, cur := none, next := none, vec := x.vec.map fun v => (v.1, v.2.1, 0), vecNext := none
    stop := { v0 := 1, v1 := 0, at' := s.clk.base, dur := 400000 } }
  (s.putBit (Reg.WSEQ_THR_CTL h) 0 false).setThrState h st

/-- R542: a thread fault. -/
def State.thrFault (s : State) (h code : Nat) : State :=
  ((s.thrStop h ThrSt.FAULT).putF (Reg.WSEQ_THR_STAT h) 11 8 code).evt wseqPage 1

/-- R527: a write of RUN = 1 starts a thread that does not run; its stacks start empty (log entry 28). -/
def State.thrRun (s : State) (h : Nat) : State :=
  if s.bit (Reg.WSEQ_THR_CTL h) 0 then s
  else
    let s := s.setThr h fun (x : Thread) => { x with loops := [], calls := [], old := none, stop := {}, fade := {}, until' := 0 }
    (((s.putBit (Reg.WSEQ_THR_CTL h) 0 true).putF (Reg.WSEQ_THR_STAT h) 11 8 0).setThrState h ThrSt.RUN).thrDepth h

/-- A write of `v` to THR_tt_CTL. -/
def State.writeThrCtl (s : State) (h v : Nat) : State :=
  if v.testBit 0 then s.thrRun h
  else if s.bit (Reg.WSEQ_THR_CTL h) 0 then s.thrStop h ThrSt.IDLE else s

/-- One instruction of thread `h` at base tick `t`, when the one at its PC has an opcode that `sel` accepts: `eff` gets its word. A
PMEM fetch may meet an ECC error (R542). -/
def State.thrInstr (s : State) (h t ecc : Nat) (sel : Nat → Bool) (eff : State → Nat → State) : State :=
  let s := s.tickTo t
  if 4 ≤ h ∨ !s.bit (Reg.WSEQ_THR_CTL h) 0 ∨ !(s.thrState h == ThrSt.RUN || s.thrState h == ThrSt.WAIT_SLOT) then s
  else
    let w := s.ile (pmemBase + 8 * s.pc h) 8
    if sel (fld w 63 58) then
      let e := s.wseqEcc (2 ^ 31 + 8 * s.pc h) ecc false
      if 2 ≤ e.1 then e.2.thrFault h ThrFault.ECC else eff e.2 w
    else s

/-- The word of the instruction that thread `h` runs at base tick `t`, and the state in which its effect starts; none where the
thread runs none or its fetch meets an ECC error (R542). -/
def State.thrWord (s : State) (h t ecc : Nat) : Option (Nat × State) :=
  let s := s.tickTo t
  if 4 ≤ h ∨ !s.bit (Reg.WSEQ_THR_CTL h) 0 ∨ !(s.thrState h == ThrSt.RUN || s.thrState h == ThrSt.WAIT_SLOT) then none
  else
    let e := s.wseqEcc (2 ^ 31 + 8 * s.pc h) ecc false
    if 2 ≤ e.1 then none else some (s.ile (pmemBase + 8 * s.pc h) 8, e.2)

/-- Go on with the next instruction. -/
def State.thrNext (s : State) (h : Nat) : State := (s.setThrState h ThrSt.RUN).setPc h (s.pc h + 1)

/-- A segment becomes CUR with its sample 0 at `at'`; CUR ends at `ends`, and the samples it has played are kept for the
interpolation. -/
def State.thrBegin (s : State) (h : Nat) (p : Play) (ends at' : Rat) (org : Option Rat) (cross : Bool) : State :=
  s.setThr h fun (x : Thread) => { x with
    past := match x.cur with
      | some c => s.playPast c x.past ends
      | none => []
    old := if cross then x.cur else none
    cur := some (s.playBegin { p with start := at', org := org, line := none }), next := none
    fade := {} }

/-- R528: a CUR that repeats until replaced ends with its present pass once NEXT is ready. -/
def State.thrBound (s : State) (h : Nat) : State :=
  match (s.thr h).cur, (s.thr h).next with
  | some c, some n =>
    if c.rep = 0 ∧ n.line.isNone then
      let k := (s.playPos c (s.clk.base : Rat)).floor.toNat / max (s.seg c.seg).len 1 + 1
      s.setThr h fun (x : Thread) => { x with cur := some { c with rep := k } }
    else s
  | _, _ => s

/-- R528, R530, R531: PLAY and PLAYA: queue a segment into NEXT, or wait while NEXT is occupied. With CUR empty a PLAY starts at once. -/
def State.thrPlay (s : State) (h w : Nat) (line : Option Nat) : State :=
  let x := s.thr h
  if x.next.isSome then s.setThrState h ThrSt.WAIT_SLOT
  else if !(s.seg (fld w 9 0)).valid then s.thrFault h ThrFault.SEG
  else
    let p : Play := { seg := fld w 9 0, rep := fld w 25 10, line := line, cut := line.isSome && w.testBit 30
                      xf := if line.isSome then fld w 38 31 else 0 }
    let s := if x.cur.isNone ∧ line.isNone then s.thrBegin h p (s.clk.base : Rat) (s.clk.base : Rat) none false
      else (s.setThr h fun (y : Thread) => { y with next := some p }).thrBound h
    s.thrNext h

/-! ## Switch lines (R531, R532) -/

/-- A thread waits on line `l`, in PLAYA or in WAIT. -/
def State.onLine (s : State) (h l : Nat) : Bool :=
  (match (s.thr h).next with
   | some p => p.line == some l
   | none => false) || (s.thrState h == ThrSt.WAIT_LINE && (s.thr h).line == l)

/-- R531: a pulse that arrived on line `l` at base tick `p` releases thread `h`. -/
def State.lineThread (s : State) (l p h : Nat) : State :=
  let x := s.thr h
  let s := match x.next with
    | some n =>
      if n.line = some l then
        if n.cut ∨ x.cur.isNone then s.thrBegin h n (p : Rat) ((p + 400 : Nat) : Rat) none (n.cut && decide (n.xf ≠ 0))
        else (s.setThr h fun (y : Thread) => { y with next := some { n with line := none } }).thrBound h
      else s
    | none => s
  if s.thrState h = ThrSt.WAIT_LINE ∧ x.line = l then s.thrNext h else s

/-- R531: a pulse on line `l` at base tick `p`; one that releases no thread counts. -/
def State.linePulse (s : State) (l p : Nat) : State :=
  let hs := (List.range 4).filter fun h => s.onLine h l
  if hs = [] then s.cnt Reg.WSEQ_LINE_MISS_CNT else s.each hs fun s h => s.lineThread l p h

/-- R532: a pulse of the event network (KIND 1 TRIG, 2 refresh announcement) that left its source at base tick `t` is on its way to the
lines mapped to it; it arrives 10 ns later. -/
def State.netPulse (s : State) (kind i t : Nat) : State :=
  s.each (List.range 16) fun s l =>
    if s.getF (Reg.WSEQ_LINE_MAP l) 1 0 = kind ∧ s.getF (Reg.WSEQ_LINE_MAP l) 7 4 = i then
      { s with wseq := { s.wseq with lines := s.wseq.lines ++ [(l, t + 4)] } } else s

/-- R532: an angle alarm with ACT_WSEQ pulses line `l` within 5 ns. -/
def State.alarmLine (s : State) (l : Nat) : State :=
  { s with wseq := { s.wseq with lines := s.wseq.lines ++ [(l, s.clk.base + 2)] } }

/-! ## Channels (R519, R550) -/

/-- The protection gate holds channel `j` (R551). -/
def State.gated (s : State) (j : Nat) : Bool := s.bit Reg.PROT_STAT j
/-- A chime lane drives channel `j`. -/
def State.chimed (s : State) (j : Nat) : Bool := (s.lane 0).mask.testBit j || (s.lane 1).mask.testBit j
/-- R519, R544: channel `j` is active. -/
def State.chanActive (s : State) (j : Nat) : Bool :=
  s.released Blk.WSEQ && s.bit Reg.WSEQ_CTL 0 && (s.bit (Reg.WSEQ_CH_CFG j) 0 || s.chimed j)

/-- D of R524: the smallest DUCK of the lanes that drive the channel. -/
def State.duckOf (s : State) (j : Nat) : Rat :=
  (List.range 2).foldl (fun (d : Rat) l =>
    if (s.lane l).mask.testBit j then min d ((s.getF (Reg.WSEQ_CHL_CFG l) 31 16 : Rat) / 32768) else d) 1

/-- Sample of a playing lane whose instant comes next. -/
def State.laneNext (s : State) (l : Nat) : Int :=
  match (s.lane l).play with
  | some p => max 0 ((s.playPos p (s.clk.base : Rat)).floor + 1)
  | none => 0

/-- R535, R552: a lane whose effective mask has changed drives the new one from its next sample instant, sample `due`, on. -/
def State.laneDue (s : State) (l : Nat) : State :=
  match (s.lane l).due, (s.lane l).play with
  | some n, some p =>
    if (n : Rat) ≤ s.playPos p (s.clk.base : Rat) then
      s.setLane l fun (x : Lane) => { x with mask := s.getF Reg.PROT_REROUTE_STAT (16 * l + 15) (16 * l), due := none }
    else s
  | _, _ => s

/-- Bring a channel's phase, PSEN, ducking and STAT up to date after a change of its enable, its lanes or its gate (R519, R535,
R541). -/
def State.chanSync (s : State) (j : Nat) : State :=
  let a := s.chanActive j
  let g := s.gated j
  let t := s.clk.base
  let d := s.duckOf j
  let s := s.setChan j fun (c : Chan) =>
    let c := { c with duck := c.duck.to d t 2000000 }
    if g then { c with ph := .off, psen := false, legs := [(0, 0), (0, 0)] }
    else if a then
      match c.ph with
      | .off => { c with ph := .lead, psen := true, at' := t }
      | .lag => { c with ph := .lead, at' := t }
      | .stop => { c with ph := .on }
      | _ => c
    else match c.ph with
      | .on => { c with ph := .stop }
      | .lead => { c with ph := .stop }
      | _ => c
  let s := ((s.putBit (Reg.WSEQ_CH_STAT j) 0 a).putBit (Reg.WSEQ_CH_STAT j) 1 g).putBit (Reg.WSEQ_CH_STAT j) 2 (s.chimed j)
  (s.putBit (Reg.WSEQ_CH_STAT j) 3 (decide (d < 1))).putBit Reg.WSEQ_STAT j a

def State.chansSync (s : State) : State := s.each (List.range 16) fun s j => s.chanSync j

/-- The masks of the lanes that are due by now. -/
def State.lanesDue (s : State) : State :=
  if (s.lane 0).due.isSome || (s.lane 1).due.isSome then (s.each [0, 1] fun s l => s.laneDue l).chansSync else s

/-- R550: the gate releases channel `j`; with `ramp` the level rises over RAMP_MS once switching resumes. -/
def State.gateReleased (s : State) (j : Nat) (ramp : Bool) : State :=
  let ramp := ramp && s.chanActive j
  (s.setChan j fun (c : Chan) => { c with rises := ramp, level := if ramp then { v0 := 0, v1 := 0 } else c.level }).chanSync j

/-- CH_jj_GAIN was written: gains ramp over 1 ms (R539). -/
def State.gainWritten (s : State) (j : Nat) : State :=
  s.setChan j fun (c : Chan) => { c with
    aleGain := c.aleGain.to ((s.getF (Reg.WSEQ_CH_GAIN j) 15 0 : Rat) / 32768) s.clk.base 400000
    thrGain := c.thrGain.to ((s.getF (Reg.WSEQ_CH_GAIN j) 31 16 : Rat) / 32768) s.clk.base 400000 }

/-! ## The carrier cycle (R521 to R526) -/

/-- A value rounded to 24 bits; which neighbour is a free value (log entry 27). -/
def q24 (q : Rat) : Rat :=
  let n := (8388608 * q).floor
  ((if (n : Rat) = 8388608 * q then n else if Config.roundUp q then n + 1 else n : Int) : Rat) / 8388608

/-- A value saturated at full scale. -/
def sat1 (q : Rat) : Rat := if q < -1 then -1 else if 1 - 1 / 8388608 < q then 1 - 1 / 8388608 else q

/-- The thread whose mask holds channel `j`. -/
def State.thrOf (s : State) (j : Nat) : Option Nat := (List.range 4).find? fun h => s.bit (Reg.WSEQ_THR_CHMASK h) j

/-- Output of a thread at cycle start `t`: CUR, or its cross-fade with the segment before, or the ramp of a stop; times the
gains (R525, R527, R531, R541). -/
def State.thrOut (s : State) (h t : Nat) (bad : Option Nat) : Rat :=
  let x := s.thr h
  let gain := x.gain.val t * x.fade.val t
  match x.cur with
  | some c =>
    let o := s.playOut c x.past t bad
    match x.old with
    | some p =>
      let w := min 1 (max 0 (s.playPos c ((t : Rat) - 2000) / (max c.xf 1 : Nat)))
      gain * ((1 - w) * s.playOut p [] t bad + w * o)
    | none => gain * o
  | none => match x.old with
    | some p => gain * x.stop.val t * s.playOut p x.past t bad
    | none => 0

/-- R525: ALE samples of a channel not delivered 4.000 µs after their instant take the value before, and count. -/
def lateFill (t : Nat) : List (Nat × Option Int) → List (Nat × Option Int) × Nat
  | [] => ([], 0)
  | (i, v) :: l =>
    let r := lateFill t l
    match v with
    | some _ => ((i, v) :: r.1, r.2)
    | none => if i + 1600 ≤ t then
        ((i, some ((r.1.filterMap (·.2)).headD 0)) :: r.1, r.2 + 1) else ((i, none) :: r.1, r.2)

def State.aleLate (s : State) (j t : Nat) : State :=
  let r := lateFill t (s.chan j).ale
  if r.2 = 0 then s
  else ((s.setChan j fun (c : Chan) => { c with ale := r.1 }).addSat (Reg.WSEQ_CH_STAT j) 31 16 r.2).evt wseqPage 8

/-- R544: ANG_SPT of a channel. -/
def State.angSpt (s : State) (j : Nat) : Nat :=
  let v := s.getF (Reg.WSEQ_CH_CFG j) 31 16
  if v = 0 then 65536 else v

/-- R525: the ALE input of a channel at cycle start `t`. -/
def State.aleOut (s : State) (j t : Nat) : Rat :=
  let c := s.chan j
  let v := c.ale.filterMap fun e => e.2.map fun v => (e.1, v)
  let taps := if s.bit (Reg.WSEQ_CH_CFG j) 8 then
      let x := s.angleAt (s.getF (Reg.WSEQ_CH_CFG j) 10 9) ((t : Rat) - 2000) * (s.angSpt j : Rat) / turn
      v.map fun e => (x - (e.1 : Rat), e.2)
    else v.map fun e => ((t : Rat) - 2000 - (e.1 : Rat), e.2)
  c.cut.val t * (clampS 24 (Config.resample taps) : Int) / 8388608

/-- R526: the ALE input of an ANGLE channel fades while its domain holds. -/
def State.angFade (s : State) (j t : Nat) : State :=
  let h := s.bit (Reg.WSEQ_CH_CFG j) 8 && s.angHeld (s.getF (Reg.WSEQ_CH_CFG j) 10 9)
  (s.setChan j fun (c : Chan) => { c with fade := c.fade.to (if h then 0 else 1) t 4000000 }).putBit (Reg.WSEQ_CH_STAT j) 5 h

/-- Fades of ANGLE segments of threads and lanes while their domain holds (R541), and the angle of sample 0 of those that start. -/
def State.playFades (s : State) (t : Nat) : State :=
  let held (p : Option Play) : Rat := match p with
    | some p => if (s.seg p.seg).angle && s.angHeld (s.seg p.seg).dom then 0 else 1
    | none => 1
  { s with wseq := { s.wseq with
      thrs := s.wseq.thrs.map fun (x : Thread) => { x with fade := x.fade.to (held x.cur) t 4000000, cur := x.cur.map s.playBegin }
      lanes := s.wseq.lanes.map fun (x : Lane) => { x with fade := x.fade.to (held x.play) t 4000000, play := x.play.map s.playBegin } } }

/-- R524: the final output of channel `j` at cycle start `t`. -/
def State.chanOut (s : State) (j t : Nat) (bad : Option Nat) : Rat :=
  let c := s.chan j
  let main := s.getF (Reg.WSEQ_CH_CFG j) 3 2
  let ale := c.fade.val t * c.aleGain.val t * s.aleOut j t
  let th := match s.thrOf j with
    | some h => c.thrGain.val t * s.thrOut h t bad
    | none => 0
  let l3 := q24 (c.under.val t * (if main = 0 then ale else if main = 1 then th else if main = 2 then ale + th else 0))
  let chime := sat1 (q24 ((List.range 2).foldl (fun (a : Rat) l =>
    match (s.lane l).mask.testBit j, (s.lane l).play with
    | true, some p => a + (s.lane l).fade.val t * ((s.getF (Reg.WSEQ_CHL_CFG l) 15 0 : Rat) / 32768) * s.playOut p [] t bad
    | _, _ => a) 0))
  let lim (q : Rat) : Rat := max (-1 - chime) (min (1 - 1 / 8388608 - chime) q)
  sat1 (q24 ((chime + lim (q24 (l3 * c.duck.val t))) * c.level.val t))

/-- R522: a high time of `w` steps in a cycle of `p` steps after the rule for short times. -/
def shortPulse (w p : Nat) : Nat :=
  let w := if w < 16 then 0 else if w < 32 then 32 else w
  let l := p - w
  if l < 16 then p else if l < 32 then p - 32 else w

/-- R522: a pulse of `w` steps centred on `centre`, shifted by the fewest steps to lie within the cycle. -/
def placePulse (w p centre : Nat) : Nat × Nat :=
  let a := min (centre - w / 2) (p - w)
  if w = 0 then (0, 0) else (a, a + w)

/-- Register of pin `p` in timing set `k` (R544). -/
def pinReg (k p : Nat) : Nat := Reg.WSEQ_TSET_PIN (32 * k + p)

/-- R522: the legs of a PCM cycle with output code `x`. -/
def State.pcmLegs (s : State) (j k : Nat) (x : Int) : List (Nat × Nat) :=
  let p := s.getF (Reg.WSEQ_TSET_PERIOD k) 15 0
  let wa := (((p : Int) * (8388608 + x) * 2 + 16777216) / 33554432).toNat
  [placePulse (shortPulse wa p) p (s.getF (pinReg k (2 * j)) 15 0), placePulse (shortPulse (p - wa) p) p (s.getF (pinReg k (2 * j + 1)) 15 0)]

/-- A cycle boundary of a channel that was to stop: the pins go static low and PSEN_LAG begins (R519). -/
def State.chanBoundary (s : State) (j : Nat) : State :=
  if (s.chan j).ph = .stop then
    s.setChan j fun (c : Chan) => { c with ph := .lag, at' := s.clk.base, legs := [(0, 0), (0, 0)], x := 0 }
  else s

/-- R521, R522, R524: a PCM cycle of channel `j` begins at base tick `t`. -/
def State.pcmCycle (s : State) (j t : Nat) (bad : Option Nat) : State :=
  let s := ((s.chanBoundary j).aleLate j t).angFade j t
  let s := s.playFades t
  let k := if s.chimed j ∧ (!s.bit (Reg.WSEQ_CH_CFG j) 0 ∨ s.bit (Reg.WSEQ_CH_CFG j) 1) then 0 else s.getF (Reg.WSEQ_CH_CFG j) 6 4
  let short := decide (s.getF (Reg.WSEQ_TSET_PERIOD k) 15 0 < 4096)
  let s := s.putBit (Reg.WSEQ_CH_STAT j) 6 short
  let x : Int := if short || (s.chan j).first then 0 else (8388608 * s.chanOut j t bad).floor
  let legs := if (s.chan j).ph = .on ∧ !s.gated j then s.pcmLegs j k x else [(0, 0), (0, 0)]
  s.setChan j fun (c : Chan) => { c with tset := k, x := x, legs := legs, first := c.first && decide (c.ph ≠ .on) }

/-- R523: the legs of an EDGE cycle: data bit 1 rises at T_ON and falls at T_OFF; a pin out of range stays low. -/
def State.edgePin (s : State) (k p : Nat) (data : Nat) : (Nat × Nat) × Bool :=
  let a := s.getF (pinReg k p) 15 0
  let b := s.getF (pinReg k p) 31 16
  let bad := decide (b ≤ a) || decide (s.getF (Reg.WSEQ_TSET_PERIOD k) 15 0 < b)
  (if data.testBit p && !bad then (a, b) else (0, 0), bad)

/-- Channels that thread `h` drives in EDGE mode (R520, R523). -/
def State.edgeChans (s : State) (h : Nat) : List Nat :=
  (List.range 16).filter fun j => s.bit (Reg.WSEQ_THR_CHMASK h) j && s.bit (Reg.WSEQ_CH_CFG j) 1 && !s.chimed j

def State.edgeDrive (s : State) (h k data : Nat) : State :=
  s.each (s.edgeChans h) fun s j =>
    let s := s.chanBoundary j
    let a := s.edgePin k (2 * j) data
    let b := s.edgePin k (2 * j + 1) data
    let live := (s.chan j).ph = .on ∧ !s.gated j
    (s.putBit (Reg.WSEQ_CH_STAT j) 6 (a.2 || b.2)).setChan j fun (c : Chan) => { c with
      tset := k, legs := if live then [a.1, b.1] else [(0, 0), (0, 0)] }

/-- R523: a cycle of thread `h`'s VEC begins, or finds none ready. -/
def State.edgeCycle (s : State) (h : Nat) : State :=
  let low (s : State) : State := s.each (s.edgeChans h) fun s j =>
    (s.chanBoundary j).setChan j fun (c : Chan) => { c with legs := [(0, 0), (0, 0)] }
  match (s.thr h).vec with
  | some (d, k, n + 1) => (s.edgeDrive h k d).setThr h fun (x : Thread) => { x with vec := some (d, k, n), vecAt := s.clk.base }
  | some (_, _, 0) =>
    match (s.thr h).vecNext with
    | some (d, k, n) => (s.edgeDrive h k d).setThr h fun (x : Thread) => { x with vec := some (d, k, n - 1), vecNext := none, vecAt := s.clk.base }
    | none =>
      let s := (low s).setThr h fun (x : Thread) => { x with vec := none }
      if s.bit (Reg.WSEQ_THR_CTL h) 0 then s.cnt (Reg.WSEQ_THR_GAP_CNT h) else s
  | none => low s

/-! ## Commands -/

/-- CARRIER_CYCLE_START: at base tick `t` a cycle begins: of PCM channel `u` below 16, or of the VEC of thread `u` − 16. `ecc` is the ECC
result of a WMEM word read for it and `word` its number. -/
def execCarrierCycleStart (u t ecc word : Nat) (s : State) : Host.Outcome State Fault Refusal :=
  let s := (s.tickTo t).lanesDue
  .next (if !s.released Blk.WSEQ ∨ 20 ≤ u then s
    else if u < 16 then
      if s.bit (Reg.WSEQ_CH_CFG u) 1 ∧ !s.chimed u then s.chanBoundary u
      else
        let kib := s.getF Reg.WSEQ_CHIME_CFG 24 16
        let e := s.wseqEcc (8 * word) ecc (decide (8 * word < 16 * s.getF Reg.WSEQ_CHIME_CFG 9 0)
          || (decide (0x4000 ≤ 8 * word) && decide (8 * word < 0x4000 + 1024 * kib)))
        e.2.pcmCycle u s.clk.base (if 2 ≤ e.1 then some word else none)
    else s.edgeCycle (u - 16))

/-- CHANNEL_ENABLE: a write of `value` to CH_jj_CFG. MODE, ALE_RATE, ANG_DOM and ANG_SPT change only while EN is 0 (R539). -/
def State.writeChanCfg (s : State) (req : Requester) (j v : Nat) : State :=
  let a := Reg.WSEQ_CH_CFG j
  let old := s.rd a
  let hold := 0xFFFF0702
  if old.testBit 0 ∧ ((v ^^^ old) &&& hold) ≠ 0 then
    ((s.quiet req a Cause.RESERVED_ENC).regStore req a ((v &&& (0xFFFFFFFF ^^^ hold)) ||| (old &&& hold))).chanSync j
  else (s.regStore req a v).chanSync j

def execChannelEnable (req : Requester) (j value : Nat) (s : State) : Host.Outcome State Fault Refusal :=
  .next (if j < 16 then s.checkedWrite req (Reg.WSEQ_CH_CFG j) 4 fun s => s.writeChanCfg req j value else s)

/-- PSEN_LEAD_END: at base tick `t` PSEN_LEAD has passed since the activation of channel `j` (R519, R550). -/
def execPsenLeadEnd (j t : Nat) (s : State) : Host.Outcome State Fault Refusal :=
  let s := (s.tickTo t).lanesDue
  let c := s.chan j
  .next (if j < 16 ∧ c.ph = .lead ∧ c.at' + s.getF Reg.WSEQ_PSEN_CFG 15 0 * 400 ≤ s.clk.base then
    s.setChan j fun (c : Chan) => { c with
      ph := .on, at' := s.clk.base, rises := false, first := true
      level := if c.rises then { v0 := 0, v1 := 1, at' := s.clk.base, dur := 400000 * s.getF Reg.PROT_TIMING 23 16 } else {} }
  else s)

/-- PSEN_LAG_END: at base tick `t` PSEN_LAG has passed since the pins of channel `j` went low. -/
def execPsenLagEnd (j t : Nat) (s : State) : Host.Outcome State Fault Refusal :=
  let s := (s.tickTo t).lanesDue
  let c := s.chan j
  .next (if j < 16 ∧ c.ph = .lag ∧ c.at' + s.getF Reg.WSEQ_PSEN_CFG 31 16 * 400 ≤ s.clk.base then
    s.setChan j fun (c : Chan) => { c with ph := .off, psen := false } else s)

/-- THREAD_RUN: a write of RUN = 1 to THR_CTL of thread `h`. -/
def execThreadRun (req : Requester) (h : Nat) (s : State) : Host.Outcome State Fault Refusal :=
  .next (if h < 4 then s.checkedWrite req (Reg.WSEQ_THR_CTL h) 4 fun s => s.writeThrCtl h 1 else s)
/-- THREAD_STOP: a write of RUN = 0. -/
def execThreadStop (req : Requester) (h : Nat) (s : State) : Host.Outcome State Fault Refusal :=
  .next (if h < 4 then s.checkedWrite req (Reg.WSEQ_THR_CTL h) 4 fun s => s.writeThrCtl h 0 else s)

/-- Thread instructions at the PC of thread `h`, at base tick `t`; `ecc` is the ECC result of the fetch. -/
def execWseqNop (h t ecc : Nat) (s : State) : Host.Outcome State Fault Refusal :=
  .next (s.thrInstr h t ecc (· == 0) fun s _ => s.thrNext h)
def execThrPlay (h t ecc : Nat) (s : State) : Host.Outcome State Fault Refusal :=
  .next (s.thrInstr h t ecc (· == 1) fun s w => s.thrPlay h w none)
def execThrPlaya (h t ecc : Nat) (s : State) : Host.Outcome State Fault Refusal :=
  .next (s.thrInstr h t ecc (· == 2) fun s w => s.thrPlay h w (some (fld w 29 26)))
/-- VEC: it starts, or follows the VEC under way once its last cycle has begun; until then the thread waits, and past PERIOD − 4 base
cycles of that last cycle it waits for the gap (R523, R528). -/
def execThrVec (h t ecc : Nat) (s : State) : Host.Outcome State Fault Refusal :=
  .next (s.thrInstr h t ecc (· == 3) fun s w =>
    let r := s.fresh 16
    let n := if fld w 50 35 = 0 then r.1 + 1 else fld w 50 35
    let s := if fld w 50 35 = 0 then r.2 else s
    let v := (fld w 31 0, fld w 34 32, n)
    match (s.thr h).vec, (s.thr h).vecNext with
    | none, _ => (s.setThr h fun (x : Thread) => { x with vec := some v }).thrNext h
    | some (_, k, 0), none =>
      if (s.thr h).vecAt + s.getF (Reg.WSEQ_TSET_PERIOD k) 15 0 / 32 < s.clk.base + 4 then s
      else (s.setThr h fun (x : Thread) => { x with vecNext := some v }).thrNext h
    | _, _ => s)
/-- LOOP: a ninth is a fault; a count of 0, outside its range, is a free number of passes. -/
def execThrLoop (h t ecc : Nat) (s : State) : Host.Outcome State Fault Refusal :=
  .next (s.thrInstr h t ecc (· == 4) fun s w =>
    if 8 ≤ (s.thr h).loops.length then s.thrFault h ThrFault.LOOP
    else
      let r := s.fresh 16
      let n := if fld w 15 0 = 0 then r.1 + 1 else fld w 15 0
      let s := if fld w 15 0 = 0 then r.2 else s
      ((s.setThr h fun (x : Thread) => { x with loops := ((s.pc h + 1) % 0x4000, n) :: x.loops }).thrDepth h).thrNext h)
def execThrEndl (h t ecc : Nat) (s : State) : Host.Outcome State Fault Refusal :=
  .next (s.thrInstr h t ecc (· == 5) fun s _ =>
    match (s.thr h).loops with
    | [] => s.thrFault h ThrFault.LOOP
    | (a, n) :: l =>
      if 1 < n then ((s.setThr h fun (x : Thread) => { x with loops := (a, n - 1) :: l }).setThrState h ThrSt.RUN).setPc h a
      else ((s.setThr h fun (x : Thread) => { x with loops := l }).thrDepth h).thrNext h)
def execThrCall (h t ecc : Nat) (s : State) : Host.Outcome State Fault Refusal :=
  .next (s.thrInstr h t ecc (· == 6) fun s w =>
    if 8 ≤ (s.thr h).calls.length then s.thrFault h ThrFault.STACK
    else ((s.setThr h fun (x : Thread) => { x with calls := ((s.pc h + 1) % 0x4000) :: x.calls }).thrDepth h).setPc h (fld w 13 0))
def execThrRet (h t ecc : Nat) (s : State) : Host.Outcome State Fault Refusal :=
  .next (s.thrInstr h t ecc (· == 7) fun s _ =>
    match (s.thr h).calls with
    | [] => s.thrFault h ThrFault.STACK
    | a :: l => ((s.setThr h fun (x : Thread) => { x with calls := l }).thrDepth h).setPc h a)
def execThrJmp (h t ecc : Nat) (s : State) : Host.Outcome State Fault Refusal :=
  .next (s.thrInstr h t ecc (· == 8) fun s w => s.setPc h (fld w 13 0))
def execThrWait (h t ecc : Nat) (s : State) : Host.Outcome State Fault Refusal :=
  .next (s.thrInstr h t ecc (· == 9) fun s w =>
    if w.testBit 8 then
      (s.setThr h fun (x : Thread) => { x with until' := s.clk.base + fld w 39 16 * 400 }).setThrState h ThrSt.WAIT_TIME
    else (s.setThr h fun (x : Thread) => { x with line := fld w 3 0 }).setThrState h ThrSt.WAIT_LINE)
/-- WAIT_TIME_EXPIRED: at base tick `t` the WAIT of thread `h` has lasted T µs. -/
def execWaitTimeExpired (h t : Nat) (s : State) : Host.Outcome State Fault Refusal :=
  let s := s.tickTo t
  .next (if h < 4 ∧ s.bit (Reg.WSEQ_THR_CTL h) 0 ∧ s.thrState h = ThrSt.WAIT_TIME ∧ (s.thr h).until' ≤ s.clk.base then s.thrNext h else s)
def execThrGain (h t ecc : Nat) (s : State) : Host.Outcome State Fault Refusal :=
  .next (s.thrInstr h t ecc (· == 10) fun s w =>
    (s.setThr h fun (x : Thread) => { x with
      gain := { v0 := x.gain.val s.clk.base, v1 := (fld w 15 0 : Rat) / 32768, at' := s.clk.base, dur := fld w 31 16 * 400 } }).thrNext h)
def execThrSig (h t ecc : Nat) (s : State) : Host.Outcome State Fault Refusal :=
  .next (s.thrInstr h t ecc (· == 11) fun s w => ((s.putF (Reg.WSEQ_THR_STAT h) 31 24 (fld w 7 0)).evt wseqPage 0).thrNext h)
def execThrHalt (h t ecc : Nat) (s : State) : Host.Outcome State Fault Refusal :=
  .next (s.thrInstr h t ecc (· == 12) fun s _ => s.thrStop h ThrSt.IDLE)
/-- BAD_INSTR: an opcode that the table does not have (R528). -/
def execBadInstr (h t ecc : Nat) (s : State) : Host.Outcome State Fault Refusal :=
  .next (s.thrInstr h t ecc (fun op => decide (12 < op)) fun s _ => s.thrFault h ThrFault.BAD_INSTR)

/-- SEGMENT_END: at base tick `t` CUR of thread `h` has supplied the last sample of its last repetition (R530). A NEXT that waits for its line leaves intended silence (R531). -/
def execSegmentEnd (h t : Nat) (s : State) : Host.Outcome State Fault Refusal :=
  let s := s.tickTo t
  .next (match (s.thr h).cur with
    | none => s
    | some c =>
      let g := s.seg c.seg
      let fin : Rat := ((g.len * c.rep : Nat) : Rat)
      if 4 ≤ h ∨ c.rep = 0 ∨ s.playPos c (s.clk.base : Rat) < fin then s
      else
        let at' : Rat := if g.angle then (s.clk.base : Rat) else c.start + 400000000 * fin / (g.rate : Rat)
        match (s.thr h).next with
        | some n =>
          if n.line.isNone then
            s.thrBegin h n at' at' (if g.angle ∧ (s.seg n.seg).angle ∧ g.dom = (s.seg n.seg).dom
              then c.org.map fun o => o + fin * turn / (g.rate : Rat) else none) false
          else s.setThr h fun (x : Thread) => { x with cur := none, past := [] }
        | none => ((s.setThr h fun (x : Thread) => { x with cur := none, past := [] }).cnt (Reg.WSEQ_THR_GAP_CNT h)).evt wseqPage 2)

/-- SWITCH_LINE_PULSE: a pulse on its way to line `l` has arrived by base tick `t`. -/
def execSwitchLinePulse (l t : Nat) (s : State) : Host.Outcome State Fault Refusal :=
  let s := s.tickTo t
  .next (match s.wseq.lines.find? fun e => e.1 == l && decide (e.2 ≤ s.clk.base) with
    | some e => { s with wseq := { s.wseq with lines := s.wseq.lines.erase e } }.linePulse l e.2
    | none => s)

/-- LINE_SW: a write of `value`. -/
def execLineSw (req : Requester) (value : Nat) (s : State) : Host.Outcome State Fault Refusal :=
  .next (s.checkedWrite req Reg.WSEQ_LINE_SW 4 fun s =>
    s.each ((List.range 16).filter fun l => value.testBit l) fun s l => s.linePulse l s.clk.base)

end Sys2Proof.Machine
end

