-- ==== Sys2Proof/Machine/AngleBus.lean ====
section
/-! DEFINITION. The angle bus (R77, R103, R105, R707), jitter (R675) and the angle alarms (R91 to R95, R99, R100). -/

namespace Sys2Proof.Machine

/-! ## Alarms -/

/-- The target `x` is reached or passed at angle `v` (R91). -/
def passed (v x : Nat) : Bool := decide ((v + 2 ^ 32 - x) % 2 ^ 32 < 2 ^ 31)

/-- R93: a write of `v` to ALM_nn_CFG. -/
def State.writeAlarm (s : State) (req : Requester) (n v : Nat) : State :=
  let was := s.bit (Reg.ANGLE_ALM_CFG n) 0
  let s := s.regStore req (Reg.ANGLE_ALM_CFG n) v
  let on := s.bit (Reg.ANGLE_ALM_CFG n) 0
  if !on then { s with ang := { s.ang with late := s.ang.late.filter fun k => k != n } }
  else if !was && passed (s.rd (Reg.ANGLE_DOM_ANGLE (s.getF (Reg.ANGLE_ALM_CFG n) 2 1))) (s.rd (Reg.ANGLE_ALM_TARGET n)) then
    { s with ang := { s.ang with late := n :: s.ang.late } }
  else s

/-- R95: the crossing of alarm `n` at angle `v` is consumed. -/
def State.alarmAdvance (s : State) (n v : Nat) : State :=
  let inc := s.rd (Reg.ANGLE_ALM_INCR n)
  if s.bit (Reg.ANGLE_ALM_CFG n) 3 ∧ inc ≠ 0 then
    let x := s.rd (Reg.ANGLE_ALM_TARGET n)
    let k := (v + 2 ^ 32 - x) % 2 ^ 32 / inc
    (s.wr (Reg.ANGLE_ALM_TARGET n) (x + (k + 1) * inc)).addSat (Reg.ANGLE_ALM_STAT n) 23 16 k
  else s.putBit (Reg.ANGLE_ALM_CFG n) 0 false

/-- R92: the actions of alarm `n` at angle `v`. -/
def State.alarmActs (s : State) (n v : Nat) : State :=
  let c := Reg.ANGLE_ALM_CFG n
  let s := if s.bit c 6 then s.trigAlarm (s.getF c 7 7) n v else s
  let s := if s.bit c 8 then s.extDoorbell (s.getF c 14 9) else s
  let s := if s.bit c 15 then s.alarmLine (s.getF c 19 16) else s
  if s.bit c 20 then
    (s.putBit (if n < 32 then Reg.ANGLE_ALM_FIRED_LO else Reg.ANGLE_ALM_FIRED_HI) (n % 32) true).evt angPage 4
  else s

/-- R91 to R95: alarm `n` at a bus update; `old` are the angles the alarms saw last. -/
def State.alarmUpdate (s : State) (old : List Int) (n : Nat) : State :=
  let c := Reg.ANGLE_ALM_CFG n
  let d := s.getF c 2 1
  let now := (s.adom d).shown
  let v := enc 32 now
  let x := s.rd (Reg.ANGLE_ALM_TARGET n)
  let late := s.ang.late.contains n
  if s.bit c 0 && (late || (passed v x && !passed (enc 32 (old.getD d 0)) x && decide (old.getD d 0 < now))) then
    let s := { s with ang := { s.ang with late := s.ang.late.filter fun k => k != n } }
    if s.effQ d < s.getF c 5 4 then (s.incSat (Reg.ANGLE_ALM_STAT n) 15 8).alarmAdvance n v
    else
      let s := ((s.wr (Reg.ANGLE_ALM_TS n) s.timeLo).putBit (Reg.ANGLE_ALM_STAT n) 1 true)
      let s := if late then s.putBit (Reg.ANGLE_ALM_STAT n) 0 true else s
      (s.alarmActs n v).alarmAdvance n v
  else s

/-! ## The bus update -/

/-- The angles shown in the last 4,000 base ticks and the one before them. -/
def pruneTrail (t : Nat) (l : List (Nat × List Int)) : List (Nat × List Int) :=
  let a := l.takeWhile fun e => decide (t ≤ e.1 + 4000)
  a ++ (l.drop a.length).take 1

/-- ANGLE_BUS_UPDATE: the bus update at base tick `t`. -/
def execAngleBusUpdate (t : Nat) (s : State) : Host.Outcome State Fault Refusal :=
  let s := s.tickTo t
  .next (if s.aEntry then
    let old := (List.range 3).map fun d => (s.adom d).seen
    let s := (s.each (List.range 3) fun s d => s.domShow d s.clk.base).wr Reg.ANGLE_TIME_LO s.timeLo
    let s := { s with ang := { s.ang with timeHi := s.timeHi } }
    let s := match s.ang.msgs with
      | (tm, _) :: _ => s.putF Reg.ANGLE_SPD_VAL 31 16 (min 65535 ((s.clk.base - tm) / 400000))
      | [] => s
    let s := { s with ang := { s.ang with
      trail := pruneTrail s.clk.base ((s.clk.base, (List.range 3).map fun d => (s.adom d).shown) :: s.ang.trail) } }
    let s := s.each (List.range 3) fun s d => s.setDom d fun D => { D with seen := D.shown }
    s.each (List.range 64) fun s n => s.alarmUpdate old n
  else s)

/-- ALARM_ENABLE: a write of `value` to ALM_nn_CFG. -/
def execAlarmEnable (req : Requester) (n value : Nat) (s : State) : Host.Outcome State Fault Refusal :=
  .next (if n < 64 then s.checkedWrite req (Reg.ANGLE_ALM_CFG n) 4 fun s => s.writeAlarm req n value else s)

/-- R675: a draw for domain `d`: the LFSR advances, and its bits 31:16 as a signed value are scaled to ±AMP ticks; how a fraction of a
tick rounds is open (log entry 15). -/
def State.drawJitter (s : State) (d : Nat) : State :=
  if s.bit (Reg.PT_JIT angPage) (24 + d) then
    let k := s.shaker angPage
    let v := lfsrStep k.lfsr
    let q : Rat := (sgn 16 (fld v 31 16) * (s.getF (Reg.PT_JIT angPage) 15 0 : Int) : Int) / 32768
    (s.setShaker { k with lfsr := v }).setDom d fun D => { D with jit := if Config.roundUp q then -((-q).floor) else q.floor }
  else s

/-- JITTER_DRAW: JIT_INT µs have passed: a new offset for each domain in DOM_MASK. -/
def execJitterDraw (s : State) : Host.Outcome State Fault Refusal :=
  .next (if s.aEntry && s.bit Reg.ANGLE_STAT 0 then s.each (List.range 3) fun s d => s.drawJitter d else s)

end Sys2Proof.Machine
end

