-- ==== Sys2Proof/Machine/Ranks.lean ====
section
/-! DEFINITION. Ranks on cores (R288, R295, R296, R369 to R374, R379): core queues, start, pre-emption, save and restore, the
stop of a job's ranks; service states of cores (R414, R415) and the inference log (R429). -/

namespace Sys2Proof.Machine

def coreGrove (c : Nat) : Nat := c / 4
def grovePage (g : Nat) : Nat := pageAddr Blk.GROVE g
def corePage (c : Nat) : Nat := pageAddr Blk.CORE c
def safePage : Nat := pageAddr Blk.SAFE 0

def State.core (s : State) (c : Nat) : CoreSt := s.cores.getD c {}
def State.setCore (s : State) (c : Nat) (f : CoreSt → CoreSt) : State := { s with cores := updAt s.cores c f }

/-- CHK_STAT.SVC (R431). -/
def State.svc (s : State) (c : Nat) : Nat := s.getF (Reg.CORE_CHK_STAT c) 1 0
namespace Svc
abbrev IN_SERVICE : Nat := 0
abbrev WITHDRAWN : Nat := 1
abbrev OFFLINE : Nat := 2
abbrev TESTING : Nat := 3
end Svc

/-- R312, R332: the grove's clear runs; it is OFFLINE. -/
def State.groveClearing (s : State) (g : Nat) : Bool := decide (s.getF (Reg.GROVE_CLEAR_STAT g) 1 0 ≠ 0)
def State.groveOffline (s : State) (g : Nat) : Bool := s.bit (Reg.GROVE_CLEAR_STAT g) 4

/-! ## The inference log (R429, R432) -/

/-- INF_LOG_EVT, _T and _STAT follow the log. -/
def State.infSync (s : State) : State :=
  let h := s.infLog.headD (0, 0)
  let s := ((s.wr Reg.SAFE_INF_LOG_EVT h.1).wr Reg.SAFE_INF_LOG_T h.2).putF Reg.SAFE_INF_LOG_STAT 4 0 s.infLog.length
  s.lvl safePage 8 (!s.infLog.isEmpty)

/-- An entry of type `type` for core or ring `n`, with first-pass tests and a fault code. -/
def State.infEntry (s : State) (type n tests code : Nat) : State :=
  let s := if s.bit Reg.SAFE_INF_EVT_EN type then s.emit (.island Isl.INF (type + n * 256 + 65536 * code)) else s
  if 16 ≤ s.infLog.length then s.incSat Reg.SAFE_INF_LOG_STAT 15 8
  else { s with infLog := s.infLog ++ [(type + n * 256 + 2 ^ 16 * tests + 2 ^ 24 * code, s.timeLo)] }.infSync

namespace InfT
abbrev CHECK_PATH_FAULT : Nat := 1
abbrev DATA_FAULT : Nat := 2
abbrev PERSISTENT : Nat := 3
abbrev REPLAY_FAIL : Nat := 4
abbrev VEC_MISMATCH : Nat := 5
abbrev CTRL_MISMATCH : Nat := 6
abbrev TM_UE : Nat := 7
abbrev CMD_HANG : Nat := 8
abbrev PROBE_FAIL : Nat := 9
abbrev WITHDRAWN : Nat := 10
abbrev OFFLINE : Nat := 11
abbrev SELFTEST_DONE : Nat := 12
abbrev RMON_EXPIRED : Nat := 13
abbrev RESTORED : Nat := 14
end InfT

/-- The device-wide bitmaps of a core (R414, R432): LO for cores 00 to 31, HI above. -/
def mapBit (lo hi c : Nat) : Nat × Nat := if c < 32 then (lo, c) else (hi, c - 32)
def State.putMap (s : State) (lo hi c : Nat) (b : Bool) : State := s.putBit (mapBit lo hi c).1 (mapBit lo hi c).2 b
def State.getMap (s : State) (lo hi c : Nat) : Bool := s.bit (mapBit lo hi c).1 (mapBit lo hi c).2

/-- LATENT of a core sets (R413, R418, R432). -/
def State.setLatent (s : State) (c : Nat) : State :=
  (((s.putBit (Reg.CORE_CHK_STAT c) 4 true).putMap Reg.SAFE_LATENT_LO Reg.SAFE_LATENT_HI c true)).lvl safePage 9 true

/-! ## Ranks and cores -/

def State.setRank (s : State) (id k : Nat) (f : Rank → Rank) : State := s.setJob id fun j => { j with ranks := updAt j.ranks k f }

/-- A rank with its job and number. -/
structure OnCore where
  job : Job
  k : Nat
  rank : Rank
  deriving DecidableEq, Repr

/-- Every rank, with its job and number. -/
def State.allRanks (s : State) : List OnCore := s.jobs.flatMap fun (j : Job) => j.ranks.zipIdx.map fun e => ⟨j, e.2, e.1⟩

/-- A rank occupies its core: it runs, is being saved or restored, or has ended with transfers in flight. -/
def Rank.occupies (r : Rank) : Bool :=
  match r.st with
  | .run => true
  | .barrier => true
  | .saving => true
  | .restoring => true
  | .queued => false
  | .saved => false
  | _ => !r.xfers.isEmpty

/-- The rank that occupies core `c`. -/
def State.running (s : State) (c : Nat) : Option OnCore := s.allRanks.find? fun o => o.rank.core == c && o.rank.occupies
def State.queuedOn (s : State) (c : Nat) : List OnCore := s.allRanks.filter fun o => o.rank.core == c && o.rank.st == .queued
def State.savedOn (s : State) (c : Nat) : List OnCore := s.allRanks.filter fun o => o.rank.core == c && o.rank.st == .saved

/-- R367: the order of a job within its partition, as a pair and its fetch number. -/
def Job.order (j : Job) : Nat × Nat :=
  if j.prio = 0 then (0, 0) else if j.prio = 1 then (if j.dlMode ≠ 0 then (1, j.tdl) else (2, 0)) else (j.prio + 1, 0)

/-- `a` is ranked before `b`. -/
def Job.before (a b : Job) : Bool :=
  decide (a.order.1 < b.order.1) || (decide (a.order.1 = b.order.1) && (decide (a.order.2 < b.order.2)
    || (decide (a.order.2 = b.order.2) && decide (a.id < b.id))))

/-- The first of a list of ranks in the order of R367. -/
def firstRank : List OnCore → Option OnCore
  | [] => none
  | o :: t => match firstRank t with
    | none => some o
    | some p => if p.job.before o.job then some p else some o

/-- R305, R306: the registers of a core and its bit of CORE_STAT follow its state. -/
def State.coreSync (s : State) (c : Nat) : State :=
  let o := s.running c
  let st := if s.svc c = Svc.OFFLINE ∨ s.svc c = Svc.TESTING ∨ s.groveOffline (coreGrove c) then 7
    else if s.groveClearing (coreGrove c) then 6
    else match o with
      | none => 0
      | some o => if o.rank.replay.isSome then 5 else match o.rank.st with
        | .barrier => 2
        | .saving => 3
        | .restoring => 4
        | _ => 1
  let s := (s.putF (Reg.CORE_STAT c) 2 0 st).putBit (Reg.GROVE_CORE_STAT (coreGrove c)) (c % 4) o.isSome
  match o with
  | none => (((s.wr (Reg.CORE_JOB c) 0).wr (Reg.CORE_RANK c) 0).wr (Reg.CORE_CMD_OFF c) 0).wr (Reg.CORE_TOK_PEND c) 0
  | some o =>
    let tok := o.rank.xfers.foldl (fun m x => if x.cmd.testBit 15 then m ||| 2 ^ fld x.cmd 11 8 else m) 0
    (((s.wr (Reg.CORE_JOB c) (o.job.ring + 2 ^ 16 * o.job.sq)).wr (Reg.CORE_RANK c) (o.k + o.job.ncores * 256)).wr
      (Reg.CORE_CMD_OFF c) o.rank.off).wr (Reg.CORE_TOK_PEND c) tok

/-- R252: the run time of a started job counts while one of its ranks is on a core. -/
def State.runSync (s : State) (id : Nat) : State :=
  s.setJob id fun j =>
    let on := j.ranks.any fun r => r.occupies
    match j.start, j.since with
    | some _, none => if on then { j with since := some s.clk.base } else j
    | _, some t => if on then j else { j with since := none, run := j.run + (s.clk.base - t) }
    | _, _ => j

/-- Grove clock at a step, in MHz (R2, R169): 1.6 GHz at full step for the -16 bin, 1.2 GHz for -12. -/
def State.groveMHz (s : State) (step : Nat) : Nat := (if s.getF Reg.SYS_DEV_ID 15 12 = 2 then 100 else 75) * step

/-- R299, R320: the rank waits at a line-buffer read, a token, a barrier or a ticket. -/
def Rank.stalled (r : Rank) : Bool := r.waits || r.st == .barrier || r.xfers.any fun x => x.ask.isSome

/-- R299, R306: the cycles of core `c` since the last count: BUSY_CYC those with a job, STALL_CYC those in which it waits. -/
def State.countCycles (s : State) (c : Nat) : State :=
  let C := s.core c
  let n := (s.clk.base - C.cycAt) * s.groveMHz (s.getF (Reg.THERM_STEP (coreGrove c)) 4 0) + C.cycFrac
  let s := s.setCore c fun C => { C with cycAt := s.clk.base, cycFrac := n % 400 }
  match s.running c with
  | none => s
  | some o =>
    let s := s.addWrap (Reg.CORE_BUSY_CYC c) 31 0 (n / 400)
    if o.rank.stalled then s.addWrap (Reg.CORE_STALL_CYC c) 31 0 (n / 400) else s

/-- R166, R186: the energy of grove `g` since the last count goes to the jobs on its cores, a core's part to the job that occupies it (log
entry 68); its cores' cycles are counted. -/
def State.meter (s : State) (g : Nat) : State :=
  let D := s.domains.getD g {}
  let e := 12 * D.pw * (s.clk.base - D.pwAt)
  let on := (List.range 4).filterMap fun n => s.running (4 * g + n)
  let s := { s with domains := updAt s.domains g fun (D : Domain) => { D with pwAt := s.clk.base } }
  let s := s.each on fun s o => s.setJob o.job.id fun j => { j with meter := j.meter + e / on.length }
  s.each (List.range 4) fun s n => s.countCycles (4 * g + n)

/-- A core may run a rank: its grove is in P0 and not clearing, and the core is in service or withdrawn. -/
def State.coreReady (s : State) (c : Nat) : Bool :=
  decide (s.dom (coreGrove c) = 0) && !s.groveClearing (coreGrove c) && !s.groveOffline (coreGrove c)
    && (decide (s.svc c = Svc.IN_SERVICE) || decide (s.svc c = Svc.WITHDRAWN)) && (s.core c).testing.isNone

/-- R368, R414: a core that may take a rank of a job. -/
def State.coreTakes (s : State) (c : Nat) (checked : Bool) : Bool :=
  decide (s.svc c = Svc.IN_SERVICE) || (decide (s.svc c = Svc.WITHDRAWN) && !checked)

/-- R415: a core of grove `g` may take a rank of a job, one under test as in the state it returns to (log entry 72). -/
def State.groveTakes (s : State) (g : Nat) (checked : Bool) : Bool :=
  (List.range 4).any fun n => match (s.core (4 * g + n)).testing with
    | some (v, _) => decide (v = Svc.IN_SERVICE) || (decide (v = Svc.WITHDRAWN) && !checked)
    | none => s.coreTakes (4 * g + n) checked

def State.partGroves (s : State) (p : Nat) : List Nat := (List.range 16).filter fun g => s.bit (Reg.PART_GROVE_MASK p) g

/-- The lowest STEP among the groves of a partition. -/
def State.partStep (s : State) (p : Nat) : Nat := (s.partGroves p).foldl (fun m g => min m (s.getF (Reg.THERM_STEP g) 4 0)) 16

/-- R382: base tick until which a refresh window of a controller that partition `p` avoids holds a start; none where none does. -/
def State.refreshHold (s : State) (p : Nat) : Option Nat :=
  let pol := s.rd (Reg.DISP_PART_POLICY p)
  let ends := ((List.range 4).filter fun x => pol.testBit 0 && pol.testBit (4 + x)).filterMap fun x =>
    let w := (s.getF (Reg.DMC_RFSH_STAT x) 24 16 * 2 + 4) / 5
    match (s.dmcs.getD x {}).window with
    | some b => some (b + w)
    | none => if s.grid.on ∧ 5 * (s.grid.next.getD x 0 - s.clk.base) ≤ 2 * fld pol 31 16 then some (s.grid.next.getD x 0 + w) else none
  ends.foldl (fun m e => some (max (m.getD 0) e)) none

/-- R382: the hold is skipped where it would make a FIRM job unreachable. -/
def State.holdSkipped (s : State) (j : Job) (until' : Nat) : Bool :=
  decide (j.prio = 1) && decide (j.dlMode ≠ 0)
    && decide (j.tdl * s.partStep j.part < (s.timeNs + (until' - s.clk.base) * 5 / 2) * s.partStep j.part + 16000 * j.est)

/-- R382: a refresh window, or its guard, keeps a job that has not started from starting. -/
def State.refreshHolds (s : State) (j : Job) : Bool :=
  j.start.isNone && decide (j.prio ≠ 0) && (match s.refreshHold j.part with
    | some u => !s.holdSkipped j u
    | none => false)

/-- The ranks that may go on core `c` next: those queued or saved on it; where there are none, those saved on another core of
its grove (R370, R372). -/
def State.nextOn (s : State) (c : Nat) : Option OnCore :=
  match firstRank ((s.queuedOn c ++ s.savedOn c).filter fun o =>
      s.coreTakes c o.job.checked && !(o.rank.st == .queued && s.refreshHolds o.job)) with
  | some o => some o
  | none => firstRank (((List.range 4).flatMap fun n => s.savedOn (coreGrove c * 4 + n)).filter fun o => s.coreTakes c o.job.checked)

/-- R288, R304: a rank starts on its core: no line buffer is enabled and no token pending. -/
def State.startRank (s : State) (id k c : Nat) : State :=
  let s := s.meter (coreGrove c)
  let s := s.setRank id k fun r => { r with st := .run, core := c, off := 0, ahead := [], base := 0, code := [], args := []
                                            lbs := List.replicate 8 {}, im := none, tile := {}, xfers := [], tickets := []
                                            waits := false }
  ((s.putBit (Reg.GROVE_CORE_STAT (coreGrove c)) (4 + c % 4) false).runSync id).coreSync c

/-- R369: every rank of a SPATIAL job can start. -/
def State.allReady (s : State) (j : Job) : Bool := j.ranks.all fun r => s.coreReady r.core && (s.running r.core).isNone

/-- R370, R372, R382: a core with nothing running takes its next rank; a job that a refresh window holds back is marked. -/
def State.coreNext (s : State) (c : Nat) : State :=
  let s := s.each ((s.queuedOn c).filter fun o => s.refreshHolds o.job && !o.job.held) fun s o => s.setJob o.job.id fun j => { j with held := true }
  if (s.running c).isSome || !s.coreReady c then s.coreSync c
  else match s.nextOn c with
    | none => s.coreSync c
    | some o => match o.rank.st with
      | .queued =>
        if s.bit (Reg.PART_MODE o.job.part) 0 then
          if s.allReady o.job then s.each o.job.ranks.zipIdx fun s e => s.startRank o.job.id e.2 e.1.core else s.coreSync c
        else s.startRank o.job.id o.k c
      | _ => ((((s.meter (coreGrove c)).setRank o.job.id o.k fun r => { r with st := .restoring, core := c }).runSync o.job.id).coreSync c)

/-! ## Context (R295, R373) -/

/-- LIVE_KIB and ACC_LIVE of a TILE command (R292). -/
def tileLive (cmd : Nat) : Nat := fld cmd 175 160
def tileAcc (cmd : Nat) (b : Nat) : Bool := cmd.testBit (176 + b)

/-- Bytes of a context: live tile memory, enabled line buffers, live banks and core state. -/
def ctxBytes (live : Nat) (lbs : List LineBuf) (banks : Nat) : Nat :=
  1024 * (live + 32 * (lbs.filter fun l => l.en).length + 17 * banks + 1)

/-- Where core `c` saves: SAVE_BASE + (c mod 4) × SAVE_SLOT KiB. -/
def State.saveAddr (s : State) (c : Nat) : Nat :=
  storeBase + 0x800000 * coreGrove c + s.rd (Reg.GROVE_SAVE_BASE (coreGrove c))
    + c % 4 * (1024 * s.rd (Reg.GROVE_SAVE_SLOT (coreGrove c)))

/-! ## Tickets of a rank -/

/-- R320, R652: a block gives a ticket of office `k` back. -/
def State.giveBack (s : State) (k tag req : Nat) : State := if k < 24 then s.returnTicket k tag req 0 else s.remoteReturn (k - 24) tag req

/-- R326, R303: the tickets a rank holds are returned. -/
def State.returnTickets (s : State) (c : Nat) (l : List (Nat × Nat)) : State :=
  s.each l fun s e => s.giveBack e.1 e.2 (Blk.FERRY * 256 + (2 * coreGrove c + 1))

/-! ## Stops -/

/-- The job has ended: every rank has, and nothing is in flight. -/
def State.endCheck (s : State) (id : Nat) : State :=
  s.setJob id fun j =>
    if j.ph = .placed && j.ranks.all (fun r => (r.st == .done || r.st == .stopped) && r.xfers.isEmpty) then { j with ph := .ended } else j

/-- A rank stops or ends as `st`: its held tickets are returned where it stops; its core goes on when nothing is in flight. -/
def State.leaveRank (s : State) (id k : Nat) (st : RankSt) : State :=
  match s.job id with
  | none => s
  | some j => match j.ranks[k]? with
    | none => s
    | some r =>
      let s := if r.core < 64 then s.meter (coreGrove r.core) else s
      let s := if st = .stopped then s.returnTickets r.core r.tickets else s
      let s := s.setRank id k fun r => { r with st := st, tickets := [], replay := none, bar := none }
      let s := if r.replay.isSome then s.putBit (Reg.CORE_CHK_STAT r.core) 5 false else s
      let s := ((s.runSync id).endCheck id).coreSync r.core
      if r.core < 64 then s.coreNext r.core else s

/-- R372, R303: the ranks of a job that stops: queued and saved ranks and ranks at a barrier at once; running ones at once where
`now`, else at their next boundary; a replay is finished first (R426); a save or restore completes first. Running ranks below
`below` are left for the end of the base tick. -/
def State.stopRanks (s : State) (id : Nat) (now : Bool) (below : Nat) : State :=
  match s.job id with
  | none => s
  | some j =>
    let s := s.each j.ranks.zipIdx fun s e =>
      match e.1.st with
      | .queued => s.leaveRank id e.2 .stopped
      | .saved => s.leaveRank id e.2 .stopped
      | .barrier => if e.1.replay.isSome then s else s.leaveRank id e.2 .stopped
      | .run => if now && e.1.replay.isNone && decide (below ≤ e.2) then s.leaveRank id e.2 .stopped else s
      | _ => s
    s.endCheck id

/-- A job is stopped with a disposition; the first stop stands. -/
def State.stopJob (s : State) (id disp cause : Nat) (now : Bool) : State :=
  (s.setJob id fun j => if j.stop.isNone || disp = Disp.FAILED_DATA_FAULT && j.stop.any (fun e => e.1 != Disp.FAILED_DATA_FAULT) then
    { j with stop := some (disp, cause) } else j).stopRanks id now 0

/-- R415: a context saved in grove `g` that no core of it may take ends its job with NO_SERVICE_CORE. -/
def State.strandedEnd (s : State) (g : Nat) : State :=
  s.each ((List.range 4).flatMap fun n => s.savedOn (4 * g + n)) fun s o =>
    if s.groveTakes g o.job.checked then s else s.stopJob o.job.id Disp.FAILED_DATA_FAULT 8 true

/-- R303: rank `k` of a job faults with a code: the first fault stands, and of faults at one base tick the lowest rank's, so that lower ranks
that run may still issue a command at this tick. -/
def State.stopFault (s : State) (id k code : Nat) : State :=
  (s.setJob id fun j =>
    if j.stop.all (fun e => e.1 != Disp.FAILED_DATA_FAULT) || j.fault.any (fun f => decide (f.1 = s.clk.base) && decide (k < f.2)) then
      { j with stop := some (Disp.FAILED_DATA_FAULT, code), fault := some (s.clk.base, k) } else j).stopRanks id true k

/-- R303: base tick `t`: ranks of jobs that faulted at an earlier tick have stopped at their next command boundary. -/
def State.coreTick (s : State) (t : Nat) : State :=
  let s := s.tickTo t
  s.each (s.jobs.filter fun j => j.fault.any (fun f => decide (f.1 < s.clk.base)) && j.ranks.any fun r => r.st == .run) fun s j =>
    s.stopRanks j.id true 0

/-! ## Pre-emption (R371 to R373) -/

/-- R295, R372: no context occupies the save slot of core `c`. -/
def State.slotFree (s : State) (c : Nat) : Bool :=
  s.allRanks.all fun o => !(o.rank.slot == c && (o.rank.st == .saved || o.rank.st == .restoring))

/-- R371: the rank on core `c` is to be pre-empted: the first rank queued or saved on it is of a strictly more urgent class, and
its save slot is free. -/
def State.preemptDue (s : State) (c : Nat) : Bool :=
  match s.running c, firstRank (s.queuedOn c) with
  | some o, some q => decide (q.job.prio < o.job.prio) && s.slotFree c && (o.rank.st == .run || o.rank.st == .barrier)
  | _, _ => false

/-- R295, R372: at a boundary before the TILE command `cmd` (0 where the list ends) the rank's save begins. -/
def State.beginSave (s : State) (o : OnCore) (cmd : Nat) : State :=
  let banks := (s.core o.rank.core).banks
  ((s.setRank o.job.id o.k fun r => { r with
    st := .saving, slot := r.core, live := 1024 * tileLive cmd
    ctx := [if tileAcc cmd 0 then banks[0]? else none, if tileAcc cmd 1 then banks[1]? else none] }).runSync o.job.id).coreSync o.rank.core

/-- The command of the list that a rank has fetched at offset `off`. -/
def Rank.cmdAt (r : Rank) (off : Nat) : Nat := if r.base ≤ off then r.code.getD ((off - r.base) / 32) 0 else 0

/-- The TILE command a rank at a boundary stands before: the next one, or the one after the BARRIER it waits at; else none. -/
def Rank.nextTile (r : Rank) : Nat :=
  let c := r.cmdAt r.off
  let c := if c % 256 = 0x40 then r.cmdAt (r.off + 32) else c
  if c % 256 = 1 then c else 0

/-- A rank at a boundary is stopped or saved where that is due; the result tells whether it was. -/
def State.boundary (s : State) (o : OnCore) : Bool × State :=
  if o.rank.replay.isSome then (false, s)
  else if o.job.stop.isSome then (true, s.leaveRank o.job.id o.k .stopped)
  else if s.preemptDue o.rank.core then (true, s.beginSave o o.rank.nextTile)
  else (false, s)

/-- A rank that waits at a BARRIER is at a boundary. -/
def State.barrierCheck (s : State) (c : Nat) : State :=
  match s.running c with
  | some o => if o.rank.st = .barrier then (s.boundary o).2 else s
  | none => s

/-- R373: the time in base ticks after which the current tile of the rank on core `c` is abandoned for a pre-emption by `q`. -/
def State.tileLimit (s : State) (o : OnCore) (q : Option OnCore) : Nat :=
  let bytes := fun (r : Rank) => ctxBytes (r.live / 1024) r.lbs ((r.ctx.filter fun b => b.isSome).length)
  let out := ctxBytes (tileLive o.rank.tile.cmd) o.rank.tile.lbs ((tileAcc o.rank.tile.cmd 0).toNat + (tileAcc o.rank.tile.cmd 1).toNat)
  let inn := match q with
    | some q => if q.rank.st = .saved then bytes q.rank else 0
    | none => 0
  let cycles := (out + 511) / 512 + (inn + 511) / 512
  let f := s.groveMHz (s.getF Reg.THERM_STEP_LIM 4 0)
  let tsr := (cycles * 400 + f - 1) / f
  min (s.rd (Reg.GROVE_TILE_MAX (coreGrove o.rank.core)) * 400) (19 * 400 - tsr)

/-- R296: the tile of a rank is abandoned: its state is that at the TILE command, and the tickets of its STOREs are returned. -/
def State.rewind (s : State) (o : OnCore) : State :=
  let s := s.returnTickets o.rank.core (o.rank.tickets ++ o.rank.xfers.filterMap fun (x : Xfer) =>
    match x.tag, officeOf x.addr with
    | some g, some k => some (k, g)
    | _, _ => none)
  let s := s.setCore o.rank.core fun C => { C with
    banks := C.banks.zipIdx.map fun e => match o.rank.tile.banks.getD e.2 none with
      | some b => b
      | none => e.1 }
  s.setRank o.job.id o.k fun r => { r with
    off := r.tile.off, ahead := [], lbs := r.tile.lbs, im := r.tile.im, xfers := [], tickets := []
    tile := { r.tile with stores := 0, skip := 0, start := s.clk.base } }

/-- TILE_MAX_EXPIRED: at base tick `t` a stop or pre-emption of the rank on core `c` has waited beyond the limit of R373. -/
def execTileMaxExpired (c t : Nat) (s : State) : Host.Outcome State Fault Refusal :=
  let s := s.coreTick t
  .next (match s.running c with
    | none => s
    | some o =>
      if o.rank.st = .run ∧ o.rank.replay.isNone ∧ o.rank.tile.off ≠ 0 ∧ (o.job.stop.isSome ∨ s.preemptDue c)
          ∧ o.rank.tile.start + s.tileLimit o (firstRank (s.queuedOn c)) ≤ s.clk.base then
        let s := ((s.cnt (Reg.CORE_TILE_ABORT_CNT c)).evt (corePage c) 1).evt (grovePage (coreGrove c)) 0
        let s := s.rewind o
        if o.job.stop.isSome then s.leaveRank o.job.id o.k .stopped
        else match s.running c with
          | some o => s.beginSave o o.rank.tile.cmd
          | none => s
      else s)

/-- R295: the byte ranges of tile memory that a context saves, in order: live tile memory, then each enabled line buffer. -/
def Rank.savedRanges (r : Rank) : List (Nat × Nat) :=
  (0, r.live) :: (r.lbs.zipIdx.filter fun e => e.1.en).map fun e => (0x78000 - 0x8000 * e.2, 0x8000)

/-- Copy ranges of a tile memory to store addresses from `a` on. -/
def State.saveRanges (s : State) (c a : Nat) : List (Nat × Nat) → State
  | [] => s
  | (off, n) :: t => (s.setBytes a (s.ibytes (tileBase c + off) n)).saveRanges c (a + n) t

/-- Copy them back. -/
def State.loadRanges (s : State) (c a : Nat) : List (Nat × Nat) → State
  | [] => s
  | (off, n) :: t => (s.setIbytes (tileBase c + off) (s.bytes a n)).loadRanges c (a + n) t

/-- R295: bytes of the banks and the core state that follow the tile ranges in the slot. -/
def Rank.imageLen (r : Rank) : Nat := 1024 * (17 * (r.ctx.filter fun b => b.isSome).length + 1)
/-- R295: where they begin, from the start of the slot on. -/
def Rank.imageOff (r : Rank) : Nat := (r.savedRanges.map fun e => e.2).sum

/-- A bank of free values, read back from a slot whose bytes have changed (log entry 71). -/
def State.freeBank (s : State) : Bank × State :=
  let f := s.fresh (4096 * 32 + 257 * 64)
  let at' := fun (i : Nat) => ((f.1 / 2 ^ (131072 + 64 * i) % 2 ^ 32 : Nat) : Int)
  ({ c := (List.range 4096).map fun i => f.1 / 2 ^ (32 * i) % 2 ^ 32, float := f.1.testBit (131072 + 32)
     row := (List.range 64).map at', col := (List.range 64).map fun i => at' (64 + i), corner := at' 256
     rowmag := (List.range 64).map fun i => at' (128 + i), colmag := (List.range 64).map fun i => at' (192 + i) }, f.2)

/-- R295: a rank is saved: the tile ranges, then its banks with their checks and its core state, in a form that the spec does not give (log
entry 71). -/
def State.saveRank (s : State) (o : OnCore) : State :=
  let c := o.rank.core
  let f := (s.saveRanges c (s.saveAddr c) o.rank.savedRanges).fresh (8 * o.rank.imageLen)
  let b := leBytes o.rank.imageLen f.1
  (f.2.setBytes (s.saveAddr c + o.rank.imageOff) b).setRank o.job.id o.k fun r => { r with image := b }

/-- R295: a rank is restored from its slot: where the bytes of its banks and core state are those saved, as they were; else they are free
values, but for what the checks of the list find. -/
def State.restoreRank (s : State) (o : OnCore) (c : Nat) : State :=
  let a := s.saveAddr o.rank.slot
  let s := s.loadRanges c a o.rank.savedRanges
  if s.bytes (a + o.rank.imageOff) o.rank.imageLen = o.rank.image then
    s.setCore c fun C => { C with banks := C.banks.zipIdx.map fun e => (o.rank.ctx.getD e.2 none).getD e.1 }
  else
    let x := s.freeBank
    let y := x.2.freeBank
    let z := y.2.fresh (512 + 256 + 32)
    let off := 32 * (z.1 / 2 ^ 768 % 2 ^ 19)
    (z.2.setCore c fun C => { C with banks := C.banks.zipIdx.map fun e =>
      if (o.rank.ctx.getD e.2 none).isSome then (if e.2 = 0 then x.1 else y.1) else e.1 }).setRank o.job.id o.k fun r => { r with
        args := (List.range 8).map fun i => z.1 / 2 ^ (64 * i) % 2 ^ 64, im := some (z.1 / 2 ^ 512 % 2 ^ 256)
        off := off, base := off, code := [], ahead := [] }

/-- CONTEXT_SAVE_DONE: the save of core `c` completes at base tick `t`. -/
def execContextSaveDone (c t : Nat) (s : State) : Host.Outcome State Fault Refusal :=
  let s := s.coreTick t
  .next (match s.running c with
    | none => s
    | some o =>
      if o.rank.st = .saving then
        let s := s.meter (coreGrove c)
        if o.job.stop.isSome then s.leaveRank o.job.id o.k .stopped
        else
          let s := (s.saveRank o).setRank o.job.id o.k fun r => { r with st := .saved }
          (((s.runSync o.job.id).coreSync c).coreNext c).strandedEnd (coreGrove c)
      else s)

/-- CONTEXT_RESTORE_DONE: the restore on core `c` of a context of its grove completes at base tick `t`. -/
def execContextRestoreDone (c t : Nat) (s : State) : Host.Outcome State Fault Refusal :=
  let s := s.coreTick t
  .next (match s.running c with
    | none => s
    | some o =>
      if o.rank.st = .restoring then
        let s := (s.restoreRank o c).setRank o.job.id o.k fun r => { r with
          st := if r.bar.isSome then .barrier else .run, ctx := [], image := [], live := 0, tile := { r.tile with start := s.clk.base } }
        let s := (s.runSync o.job.id).coreSync c
        match s.running c with
        | some o => if o.job.stop.isSome then s.leaveRank o.job.id o.k .stopped else s
        | none => s
      else s)

/-! ## Service states (R414, R415) -/

/-- R36 to R38: GROVES is available while a grove takes work, and lost once no core of any grove could (log entry 44). -/
def State.grovesSync (s : State) : State :=
  let up (g : Nat) : Bool := !s.groveOffline g && (List.range 4).any fun n => s.svc (4 * g + n) == Svc.IN_SERVICE || s.svc (4 * g + n) == Svc.WITHDRAWN
  let gone (g : Nat) : Bool := s.groveOffline g || (List.range 4).all fun n => s.svc (4 * g + n) == Svc.OFFLINE
  if !s.cEntry then s
  else if (List.range 16).any fun g => up g && !s.groveClearing g then s.funcReady Fn.GROVES
  else if (List.range 16).all gone then s.funcLost Fn.GROVES else s

/-- SVC of a core changes: its register, the bitmaps and SVC_CHANGE. -/
def State.setSvc (s : State) (c v : Nat) : State :=
  let s := if s.svc c = v then s else (s.putF (Reg.CORE_CHK_STAT c) 1 0 v).evt (corePage c) 3
  let s := if v = Svc.TESTING then s else
    (s.putMap Reg.SAFE_WDRAWN_LO Reg.SAFE_WDRAWN_HI c (v == Svc.WITHDRAWN)).putMap Reg.SAFE_OFFL_LO Reg.SAFE_OFFL_HI c (v == Svc.OFFLINE)
  (s.coreSync c).grovesSync

/-- R415: a core becomes WITHDRAWN or OFFLINE: queued ranks are taken off to be placed again (those of CHECKED jobs only, on
withdrawal), and the contexts saved on it resume on another core of its grove that may take them; where there is none their jobs end. -/
def State.leaveService (s : State) (c v : Nat) : State :=
  if s.svc c = v then s
  else
    let s := ((s.setCore c fun C => { C with passed := false }).setSvc c v).infEntry
      (if v = Svc.WITHDRAWN then InfT.WITHDRAWN else InfT.OFFLINE) c 0 0
    let s := s.each (s.queuedOn c) fun s o =>
      if v = Svc.OFFLINE ∨ o.job.checked then
        if o.job.ranks.all fun r => !r.begun && r.st == .queued then s.setJob o.job.id fun j => { j with ranks := [], ph := .passed }
        else s.setRank o.job.id o.k fun r => { r with core := 64 }
      else s
    (s.strandedEnd (coreGrove c)).each ((List.range 4).map fun n => coreGrove c * 4 + n) fun s n => if n = c then s else s.coreNext n

/-- R414: the conditions for WITHDRAWN: with STRICT the core goes OFFLINE. -/
def State.withdraw (s : State) (c : Nat) : State :=
  if s.svc c = Svc.OFFLINE then s
  else s.leaveService c (if s.bit Reg.SAFE_INF_CFG 5 then Svc.OFFLINE else Svc.WITHDRAWN)

end Sys2Proof.Machine
end

