-- ==== Sys2Proof/Machine/Jobs.lean ====
section
/-! DEFINITION. Dispatch (R239, R240, R243, R245 to R250, R361 to R370, R374 to R379, R382 to R386) and the ledger's part in it
(R163 to R168). -/

namespace Sys2Proof.Machine

/-! ## Cores of a partition (R363, R368) -/

/-- R260: groves of `p` that leave in the running resize take no new placement. -/
def State.groveLeaving (s : State) (g : Nat) : Bool := s.leaving.contains g

/-- The cores that count at admission (R363, R368): those of groves that do not clear, not OFFLINE; a core under test counts as in the state
it returns to (DEDUCED, log entry 72). -/
def State.admitCores (s : State) (p : Nat) (checked : Bool) : Nat :=
  ((s.partGroves p).flatMap fun g => (List.range 4).map fun n => 4 * g + n).countP fun c =>
    !s.groveOffline (coreGrove c) && !s.groveClearing (coreGrove c) && (match (s.core c).testing with
      | some (v, _) => decide (v = Svc.IN_SERVICE) || (decide (v = Svc.WITHDRAWN) && !checked)
      | none => s.coreTakes c checked)

/-- R368: the eligible cores of `p`, in ascending order. -/
def State.eligible (s : State) (p : Nat) (checked : Bool) : List Nat :=
  (((s.partGroves p).filter fun g => !s.groveClearing g && !s.groveOffline g && !s.groveLeaving g).flatMap fun g =>
    (List.range 4).map fun n => 4 * g + n).filter fun c => s.coreTakes c checked

/-- R363: the CAUSE of a capacity refusal, 0 for none. -/
def State.capacityCause (s : State) (j : Job) : Nat :=
  if s.rd (Reg.PART_GROVE_MASK j.part) % 65536 = 0 then 1
  else if s.admitCores j.part false < j.ncores then 2
  else if j.checked ∧ s.admitCores j.part true < j.ncores then 3
  else 0

/-! ## Deadlines (R364 to R366) -/

/-- The angle target of a job has been reached or passed (R91). -/
def State.crossed (s : State) (j : Job) : Bool :=
  decide ((s.rd (Reg.ANGLE_DOM_ANGLE j.dlDom) + 2 ^ 32 - j.target) % 2 ^ 32 < 2 ^ 31)

/-- R364: T_dl on TIME of an angle deadline. -/
def State.angleDeadline (s : State) (j : Job) : Job :=
  if 3 ≤ j.dlMode then { j with tdl := s.timeNs + s.predictNs j.dlDom j.target } else j

/-- R164, R168, R365: W_led in µs; none where it is infinite. -/
def State.wLed (s : State) (j : Job) : Option Nat :=
  match s.ledgerTest j.part j.eclass j.prio with
  | .start => some 0
  | .refuse => none
  | .wait _ => s.ledgerWait j.part j.eclass j.prio

/-- R365: the CAUSE for which a FIRM job that has not started is unreachable; 0 where it is reachable. W_led of one that has passed its
ledger test is 0. -/
def State.unreachable (s : State) (j : Job) : Nat :=
  if j.prio ≠ 1 ∨ j.dlMode = 0 ∨ j.start.isSome ∨ j.ph = .ended then 0
  else
    let now := s.timeNs
    if (j.dlMode < 3 ∧ j.tdl ≤ now) ∨ (3 ≤ j.dlMode ∧ s.crossed j) then 1
    else if 3 ≤ j.dlMode ∧ s.predictNs j.dlDom j.target = 0xFFFFFFFF then 2
    else match (if j.ph = .queued then s.wLed j else some 0) with
      | none => 3
      | some w =>
        if j.tdl ≤ now + 1000 * w then 3
        else if j.tdl * s.partStep j.part < (now + 1000 * w) * s.partStep j.part + 16000 * j.est then 4
        else 0

/-- R366: the job completes late now. -/
def State.late (s : State) (j : Job) : Bool :=
  (decide (j.dlMode = 1 ∨ j.dlMode = 2) && decide (j.tdl ≤ s.timeNs)) || (decide (3 ≤ j.dlMode) && s.crossed j)

/-! ## Fetch (R239, R240, R243, R245 to R250, R362) -/

/-- The owner record of the ring's partition gives the ring the VITAL ceiling (R362). -/
def State.vitalRing (s : State) (i : Nat) : Bool :=
  match s.ringPart i with
  | some p => decide (s.getF (Reg.PART_OWN_W0 p i) 25 24 = 0)
  | none => false

/-- R362: a place is free for ring `i`. -/
def State.placeFree (s : State) (i : Nat) : Bool :=
  decide (s.jobs.length < 2048) && (s.vitalRing i || decide ((s.jobs.filter fun j => !s.vitalRing j.ring).length < 1792))

/-- A ring from which a descriptor can be fetched now. -/
def State.fetchable (s : State) (i : Nat) : Bool :=
  s.ringServed i && !(s.ringSt i).moved && !s.bit (Reg.RING_STAT i) 4 && !s.bit (Reg.RING_STAT i) 5 && !s.ringLeaving i
    && decide (s.rd (Reg.RING_SQ_HEAD i) ≠ s.rd (Reg.RING_SQ_TAIL i)) && s.cqRoom i && s.placeFree i
    && (!s.bit (Reg.RING_CTL i) 1 || !(s.ringSt i).credits.isEmpty) && decide (s.park.stage < 2)

/-- R362: the next ring in turn. -/
def State.nextRing (s : State) : Option Nat := ((List.range 64).map fun k => (s.ringTurn + k) % 64).find? fun i => s.fetchable i

/-- The job that a descriptor `d` (512 bits) on ring `i` of partition `p` asks for, fetched with reference TIME and angles. -/
def State.jobOf (s : State) (i p d refNs : Nat) (refAng : List Nat) : Job :=
  let w := d % 2 ^ 32
  let n := fld d 54 48
  let mode := if 4 < fld w 23 20 then 0 else fld w 23 20
  let dom := if fld w 25 24 = 3 then 0 else fld w 25 24
  let dl := fld d 255 224
  let now := s.timeNs
  let ahead := (dl + 2 ^ 32 - s.timeLo) % 2 ^ 32
  let j : Job := {
    id := s.jobNo, ring := i, sq := s.rd (Reg.RING_SQ_HEAD i), part := p, ctx := fld w 11 0, world := w.testBit 12
    heart := s.world (.block Blk.RING i), tag := fld d 127 64, prio := fld w 14 13, eclass := fld w 19 16, dlMode := mode, dlDom := dom
    checked := w.testBit 26, irq := w.testBit 27, fence := w.testBit 28, stream := fld d 47 32
    ncores := if n = 0 ∨ 64 < n then 1 else n, cmdAddr := fld d 175 128, cmdLen := fld d 223 192, argAddr := fld d 303 256
    est := fld d 343 320, fetched := s.clk.base
    target := if mode = 4 then (refAng.getD dom 0 + dl) % 2 ^ 32 else dl
    tdl := if mode = 1 then (if ahead < 2 ^ 31 then now + ahead else now + ahead - 2 ^ 32) else refNs + dl }
  s.angleDeadline j

/-- R247: the descriptor has a field with a reserved encoding. -/
def badDesc (d : Nat) : Bool :=
  decide (4 < fld d 23 20) || decide (fld d 25 24 = 3) || decide (fld d 54 48 = 0) || decide (64 < fld d 54 48)

/-- R249: the causes for which a descriptor fails its owner record: bit 0 CTX, 1 WORLD, 2 STREAM. -/
def State.spoof (s : State) (j : Job) : Nat :=
  let w0 := s.rd (Reg.PART_OWN_W0 j.part j.ring)
  let w1 := s.rd (Reg.PART_OWN_W1 j.part j.ring)
  (decide (j.ctx &&& fld w0 23 12 ≠ fld w0 11 0 &&& fld w0 23 12)).toNat + (j.world != j.heart).toNat * 2
    + (decide (j.stream &&& fld w1 31 16 ≠ fld w1 15 0 &&& fld w1 31 16)).toNat * 4

/-- R249, R250, R363, R365: the checks of a fetched descriptor. -/
def State.enterJob (s : State) (j : Job) (bad : Bool) : State :=
  let s := { s with jobs := s.jobs ++ [j], jobNo := s.jobNo + 1 }
  let c := s.spoof j
  if c ≠ 0 then
    let s := ((s.cnt (Reg.RING_SPOOF_CNT j.ring)).evt (ringPage j.ring) 0).cnt (Reg.PART_SPOOF_CNT j.part)
    let s := (s.wr (Reg.PART_SPOOF_INFO j.part) (j.ring + c * 256 + 65536 * j.ctx)).evt (partPage j.part) 0
    s.finish j Disp.REFUSED_SPOOF c
  else
    let s := if bad then (s.cnt (Reg.RING_BADDESC_CNT j.ring)).evt (ringPage j.ring) 1 else s
    let ceil := s.getF (Reg.PART_OWN_W0 j.part j.ring) 25 24
    let clamp := decide (j.prio < ceil)
    let j := if clamp then { j with prio := ceil, clamped := true } else j
    let s := s.setJob j.id fun _ => j
    let s := if clamp then s.cnt (Reg.RING_PRIO_CLAMP_CNT j.ring) else s
    let k := s.capacityCause j
    if k ≠ 0 then s.finish j Disp.REFUSED_CAPACITY k
    else
      let u := s.unreachable j
      if u ≠ 0 then s.finish j Disp.REFUSED_DEADLINE u else (s.dispSync).ringSync j.ring

/-- R241: the read of the descriptor at HEAD of ring `i` of partition `p`; `env` is what the read meets. -/
def State.descRead (s : State) (i p : Nat) (env : MemEnv) : Moved × List Byte × State :=
  let addr := 2 ^ 32 * s.getF (Reg.RING_SQ_BASE_HI i) 15 0 + s.getF (Reg.RING_SQ_BASE_LO i) 31 6 * 64 + 64 * s.rd (Reg.RING_SQ_HEAD i)
  s.readRange { req := .block Blk.RING i, heart := s.world (.block Blk.RING i), part := some p, addr := addr, len := 64 } false false env

/-- R241, R243: descriptor `d` has been fetched from ring `i` of partition `p`: HEAD advances, a credit is used, and the job is
admitted. -/
def State.takeDesc (s : State) (i p d : Nat) : State :=
  let s := { s with ringTurn := (i + 1) % 64 }
  let credit := if s.bit (Reg.RING_CTL i) 1 then (s.ringSt i).credits.head? else none
  let s := if credit.isSome then s.setRing i fun r => { r with credits := r.credits.tail } else s
  let ref := credit.getD (s.timeNs, (List.range 3).map fun d => s.rd (Reg.ANGLE_DOM_ANGLE d))
  let j := s.jobOf i p d ref.1 ref.2
  let s := s.wr (Reg.RING_SQ_HEAD i) ((s.rd (Reg.RING_SQ_HEAD i) + 1) % s.rd (Reg.RING_SQ_SIZE i))
  s.enterJob j (badDesc d)

/-- R273: a descriptor of ring `i` cannot be fetched. -/
def State.fetchFail (s : State) (i : Nat) : State := ({ s with ringTurn := (i + 1) % 64 }.putBit (Reg.RING_STAT i) 4 true).evt (ringPage i) 5

/-- DESCRIPTOR_FETCH: at base tick `t` the next ring in turn has a descriptor fetched. -/
def execDescriptorFetch (t : Nat) (env : MemEnv) (s : State) : Host.Outcome State Fault Refusal :=
  let s := s.coreTick t
  .next (match s.nextRing with
    | none => s
    | some i => match s.ringPart i with
      | none => s
      | some p =>
        let r := s.descRead i p env
        match r.1 with
        | .held => s
        | .done => r.2.2.takeDesc i p (leNat r.2.1)
        | _ => r.2.2.fetchFail i)

/-! ## Order and the ledger test (R164 to R168, R367) -/

/-- R245: an earlier job of the ring has not completed. -/
def State.fenced (s : State) (j : Job) : Bool := j.fence && s.jobs.any fun k => k.ring == j.ring && decide (k.id < j.id)

/-- R260: a partition with a mode change in the running resize starts no new job. -/
def State.modeChange (s : State) (p : Nat) : Bool :=
  match s.resize with
  | some r => r.armed.contains p && s.bit (Reg.PART_NEXT_MODE p) 0 != s.bit (Reg.PART_MODE p) 0
  | none => false

def firstJob : List Job → Option Job
  | [] => none
  | j :: t => match firstJob t with
    | none => some j
    | some k => if k.before j then some k else some j

/-- R367: the job of partition `p` that is placed next. -/
def State.headJob (s : State) (p : Nat) : Option Job :=
  if s.modeChange p then none
  else firstJob (s.jobs.filter fun j => j.part == p && (j.ph == .queued || j.ph == .passed) && !s.fenced j && !s.ringLeaving j.ring)

/-- Ranks queued on or running on core `c` (R370). -/
def State.coreLoad (s : State) (c : Nat) : Nat := (s.queuedOn c).length + (s.running c).isSome.toNat

/-- R368: a core with no running or queued rank and no saved context. -/
def State.coreIdle (s : State) (c : Nat) : Bool := decide (s.coreLoad c = 0) && s.slotFree c && (s.savedOn c).isEmpty

/-- A stable sort by a key. -/
def sortBy {α : Type} (key : α → Nat) (l : List α) : List α := l.mergeSort fun a b => decide (key a ≤ key b)

/-- R369, R370, R371: the cores for a job: idle ones, then those whose rank it pre-empts (the least urgent first), then in an
INTERLEAVED partition those with a free queue entry (the fewest entries first). The second list holds the pre-empted ones. -/
def State.chooseCores (s : State) (j : Job) : Option (List Nat × List Nat) :=
  let all := (s.eligible j.part j.checked).filter fun c => j.ranks.all fun r => r.core != c
  let spatial := s.bit (Reg.PART_MODE j.part) 0
  let idle := all.filter fun c => s.coreIdle c
  let first := fun c => (s.queuedOn c).all fun q => j.before q.job
  let preempt := sortBy (fun c => 4 - (match s.running c with | some o => o.job.prio | none => 0)) (all.filter fun c =>
    match s.running c with
    | some o => decide (j.prio < o.job.prio) && (o.rank.st == .run || o.rank.st == .barrier) && s.slotFree c && decide (s.coreLoad c < 4)
        && (!spatial || first c)
    | none => false)
  let rest := if spatial then [] else
    sortBy (fun c => s.coreLoad c) (all.filter fun c => !idle.contains c && !preempt.contains c && decide (s.coreLoad c < 4))
  let got := (idle ++ preempt ++ rest).take j.ncores
  if got.length < j.ncores then none else some (sortBy id got, got.filter fun c => preempt.contains c && first c)

/-- R164, R165, R365: the ledger test of a queued job. -/
def State.testJob (s : State) (j : Job) : State :=
  let u := s.unreachable j
  if u ≠ 0 then s.finish j Disp.REFUSED_DEADLINE u
  else match s.ledgerTest j.part j.eclass j.prio with
    | .refuse => (s.cnt (Reg.LEDGER_REFUSE_CNT j.part)).finish j Disp.REFUSED_ENERGY 1
    | .wait c =>
      if j.waited then s
      else (s.cnt (Reg.LEDGER_DELAY_CNT j.part)).setJob j.id fun j => { j with waited := true, cause := c }
    | .start =>
      let s := (s.ledgerStart j.part j.eclass).setJob j.id fun x => { x with
        ph := .passed, debit := s.eclass j.eclass, paid := s.debitParts j.part j.eclass }
      if (s.chooseCores j).isNone then s.setJob j.id fun x => { x with coreWait := true } else s

/-- LEDGER_TEST: at base tick `t` the dispatcher presents the first job of partition `p` to the ledger. -/
def execLedgerTest (p t : Nat) (s : State) : Host.Outcome State Fault Refusal :=
  let s := s.coreTick t
  .next (match s.headJob p with
    | none => s
    | some j => if j.ph = .queued ∧ s.park.stage < 2 then s.testJob j else s)

/-- The average over the last 1 ms of what changes at the base ticks of `l`, newest first; `upTo` is where the newest value ends. -/
def avgOver (now : Nat) : Nat → List (Nat × Nat) → Nat
  | _, [] => 0
  | upTo, (t, v) :: l =>
    let lo := now - 400000
    v * (upTo - max t lo) / 400000 + if t ≤ lo then 0 else avgOver now t l

/-- R193: measured power of domain `d`, 1 ms average, in 1/4000 mW. -/
def State.domAvg (s : State) (d : Nat) : Nat := avgOver s.clk.base s.clk.base ((s.domains.getD d {}).hist.map fun e => (e.1, e.2.1))

/-- R163: P_other in mW: the measured power of the domains that are no groves, and the groves' warm load and taper, over the last 1 ms. -/
def State.pOther (s : State) : Nat :=
  (((List.range 11).map fun k => s.domAvg (16 + k)).sum
    + ((List.range 16).map fun g => avgOver s.clk.base s.clk.base ((s.domains.getD g {}).hist.map fun e => (e.1, e.2.2))).sum) / 4000

/-- LEDGER_UPDATE: the 1 µs update at base tick `t`, from the release of the ledger (R192): the refill, then the test of each partition's
first job where it waits (R164). -/
def execLedgerUpdate (t : Nat) (s : State) : Host.Outcome State Fault Refusal :=
  let s := s.coreTick t
  .next (if s.cEntry then
    (s.refill s.pOther).each (List.range 16) fun s p => match s.headJob p with
      | some j => if j.ph = .queued ∧ j.waited then s.testJob j else s
      | none => s
  else s)

/-! ## Placement (R369, R370, R382) -/

/-- A job whose ledger test has passed is placed on `cores`, pre-empting the ranks that run on `victims`. -/
def State.placeOn (s : State) (j : Job) (cores victims : List Nat) : State :=
  let hit := victims.filterMap fun c => (s.running c).map fun o => o.job.id
  let s := s.each hit.eraseDups fun s id => s.setJob id fun x => { x with preempts := satN 16 (x.preempts + 1) }
  let s := if victims = [] then s else s.addSat Reg.DISP_PRE_CNT 31 0 1
  let s := s.setJob j.id fun x => { x with
    ph := .placed, ranks := cores.map fun c => { core := c, placed := s.clk.base, urgent := victims.contains c } }
  let s := s.each cores fun s c => s.barrierCheck c
  (s.each cores fun s c => s.coreNext c).dispSync

/-- R415: ranks taken off a core that left service are placed again, on the first cores of R370 that are free for them. -/
def State.replace (s : State) (p : Nat) : State :=
  s.each (s.allRanks.filter fun o => o.job.part == p && o.rank.core == 64 && o.rank.st == .queued) fun s o =>
    match s.job o.job.id with
    | none => s
    | some j => match s.chooseCores { j with ncores := 1 } with
      | some (c :: _, _) => (s.setRank j.id o.k fun r => { r with core := c }).coreNext c
      | _ => s

/-- PLACEMENT: at base tick `t` the dispatcher places the first job of partition `p` that has passed its ledger test. -/
def execPlacement (p t : Nat) (s : State) : Host.Outcome State Fault Refusal :=
  let s := ((s.coreTick t).replace p).each ((s.partGroves p).flatMap fun g => (List.range 4).map fun n => 4 * g + n) fun s c => s.coreNext c
  .next (match s.headJob p with
    | none => s
    | some j =>
      if j.ph = .passed ∧ s.bit Reg.DISP_CTL 0 ∧ s.park.stage < 2 then
        if s.refreshHolds j then s.setJob j.id fun x => { x with held := true }
        else match s.chooseCores j with
          | none => s.setJob j.id fun x => { x with coreWait := true }
          | some (cs, vs) => s.placeOn j cs vs
      else s)

/-! ## Ends (R375 to R379) -/

/-- R375, R376: disposition and CAUSE of a job that has ended. -/
def State.disposition (s : State) (j : Job) : Nat × Nat :=
  match j.stop with
  | some e => e
  | none =>
    let c := (if j.waited then j.cause else 0) + (decide (j.preempts ≠ 0)).toNat * 8 + j.slowed.toNat * 16 + j.held.toNat * 32
      + j.coreWait.toNat * 64 + j.replayed.toNat * 128
    if s.late j then (Disp.DONE_LATE, c)
    else if j.preempts ≠ 0 then (Disp.DONE_PREEMPTED, c)
    else if j.waited then (Disp.DONE_AFTER_DELAY, j.cause)
    else (Disp.DONE, c)

/-- R166, R188: the measured energy of a job in units of 2^-16 µJ; its debit where the power monitor of a grove it occupied has failed. -/
def State.jobEnergy (s : State) (j : Job) : Nat :=
  if j.ranks.any fun r => s.ledger.monFault.testBit (coreGrove r.core) then j.debit else j.meter * 65536 / 19200000000

/-- JOB_COMPLETE: at base tick `t` the job of ring `i` and SQ_INDEX `sq` that has ended is settled with its measured energy, and its
record is written. A job whose record its memory held is not settled again. -/
def execJobComplete (i sq t : Nat) (s : State) : Host.Outcome State Fault Refusal :=
  let s := s.coreTick t
  .next (match s.jobs.find? fun j => j.ring == i && j.sq == sq && j.ph == .ended with
    | none => s
    | some j =>
      if j.ranks.isEmpty then match j.stop with
        | some e => s.finish j e.1 e.2
        | none => s
      else
        let d := s.disposition j
        let energy := s.jobEnergy j
        let s := s.ledgerSettle j.part j.debit energy
        let s := s.setJob j.id fun x => { x with energy := energy, ranks := [], stop := some d }
        match s.job j.id with
        | some j => s.finish j d.1 d.2
        | none => s)

/-- R186: a job that has not started ends: what it was debited goes back, and its record is written. -/
def State.endUnstarted (s : State) (j : Job) (disp cause : Nat) : State :=
  let s := if j.debit ≠ 0 then s.refund j.part j.paid else s
  let cores := j.ranks.map fun r => r.core
  let s := s.setJob j.id fun x => { x with ranks := [], debit := 0, paid := (0, 0) }
  let s := s.each cores fun s c => if c < 64 then s.coreNext c else s
  s.finish { j with ranks := [], debit := 0 } disp cause

/-- R365, R186: every FIRM job that has not started and has become unreachable is refused; one that was debited gets its debit back. -/
def State.reevaluate (s : State) : State :=
  s.each s.jobs fun s j =>
    let c := s.unreachable j
    if c = 0 then s else s.endUnstarted j Disp.REFUSED_DEADLINE c

/-- DEADLINE_REEVALUATE: the 1 ms update of R96 at base tick `t`. -/
def execDeadlineReevaluate (t : Nat) (s : State) : Host.Outcome State Fault Refusal :=
  let s := s.coreTick t
  .next { s with jobs := s.jobs.map s.angleDeadline }.reevaluate

/-- A job of which no rank is on a core goes back among those that have passed their test: its ranks leave the cores they wait for. -/
def State.unplace (s : State) (j : Job) : State :=
  let cores := j.ranks.map fun r => r.core
  let s := s.setJob j.id fun x => { x with ph := .passed, ranks := [] }
  s.each cores fun s c => if c < 64 then s.coreNext c else s

/-- JOB_TIMEOUT: at base tick `t` the run time of a job has exceeded JOB_TMO of its class (R378). -/
def execJobTimeout (i sq t : Nat) (s : State) : Host.Outcome State Fault Refusal :=
  let s := s.coreTick t
  .next (match s.jobs.find? fun j => j.ring == i && j.sq == sq && j.ph == .placed with
    | none => s
    | some j =>
      let lim := s.getF (Reg.DISP_JOB_TMO j.prio) 15 0
      if lim ≠ 0 ∧ 1000 * lim < s.jobRun j ∧ j.stop.isNone then s.stopJob j.id Disp.FAILED_TIMEOUT 0 false else s)

/-- R379: CANCEL_STAT. -/
def State.cancelStat (s : State) (v : Nat) : State := s.putF Reg.DISP_CANCEL_STAT 1 0 v

/-- R379: a write of `v` to CANCEL. -/
def State.writeCancel (s : State) (v : Nat) : State :=
  if v.testBit 31 then
    match s.jobs.find? fun j => j.ring == v % 64 && j.sq == fld v 27 16 && decide (j.ph ≠ .ended) with
    | none => s.cancelStat 3
    | some j =>
      if j.start.isSome then (s.cancelStat 2).stopJob j.id Disp.CANCELLED 1 false
      else (s.cancelStat 1).endUnstarted j Disp.CANCELLED 1
  else s

/-- CANCEL: a write of `value` to DISP_00.CANCEL, for heartwood only. -/
def execCancel (req : Requester) (value : Nat) (s : State) : Host.Outcome State Fault Refusal :=
  .next (s.heartWrite req Reg.DISP_CANCEL fun s => s.writeCancel value)

end Sys2Proof.Machine
end

