-- ==== Sys2Proof/Machine/Grove.lean ====
section
/-! DEFINITION. Memory operations of the grove stores (R309, R310, R325) and the clear (R311, R312, R332, R333). -/

namespace Sys2Proof.Machine

def State.mopQ (s : State) (g : Nat) : List MemOp := s.mops.getD g []

/-- MOP_STAT.LEVEL and BUSY follow the queue; the running operation counts (DEDUCED). -/
def State.mopSync (s : State) (g : Nat) : State :=
  (s.putF (Reg.GROVE_MOP_STAT g) 2 0 (s.mopQ g).length).putBit (Reg.GROVE_MOP_STAT g) 4 ((s.mopQ g).any fun m => m.running)

namespace MopErr
abbrev NONE : Nat := 0
abbrev ACCESS : Nat := 1
abbrev RANGE : Nat := 2
abbrev UNAVAILABLE : Nat := 3
end MopErr

/-- R309, R310: the first operation of the queue ends, with an error code or 0. -/
def State.mopEnd (s : State) (g err : Nat) : State :=
  let irq := match (s.mopQ g).head? with
    | some m => m.irq
    | none => false
  let s := { s with mops := updAt s.mops g fun q => q.tail }.putF (Reg.GROVE_MOP_STAT g) 10 8 err
  let s := if err = 0 then
      (if irq then (s.incWrap (Reg.GROVE_MOP_STAT g) 31 16).evt (grovePage g) 1 else s.incWrap (Reg.GROVE_MOP_STAT g) 31 16)
    else s.evt (grovePage g) 2
  s.mopSync g

/-- R309: a write of `v` to MOP_GO. -/
def State.writeMopGo (s : State) (req : Requester) (g v : Nat) : State :=
  let len := s.getF (Reg.GROVE_MOP_LEN g) 23 0
  if (v % 4 ≠ 1 ∧ v % 4 ≠ 2) ∨ 4 ≤ (s.mopQ g).length ∨ len = 0 ∨ len % 64 ≠ 0 ∨ 0x800000 < len then
    s.quiet req (Reg.GROVE_MOP_GO g) Cause.RESERVED_ENC
  else
    let m : MemOp := { op := v % 4, irq := v.testBit 8, dst := s.getF (Reg.GROVE_MOP_DST g) 22 6 * 64
                       src := s.getF (Reg.GROVE_MOP_SRC g) 22 6 * 64, len := len, val := s.rd (Reg.GROVE_MOP_VAL g) }
    { s with mops := updAt s.mops g fun q => q ++ [m] }.mopSync g

/-- FILL: a write to MOP_GO of grove `g` with OP 1. -/
def execMopFill (req : Requester) (g : Nat) (irq : Bool) (s : State) : Host.Outcome State Fault Refusal :=
  .next (if g < 16 then s.checkedWrite req (Reg.GROVE_MOP_GO g) 4 fun s => s.writeMopGo req g (1 + irq.toNat * 256) else s)

/-- COPY: a write to MOP_GO of grove `g` with OP 2. -/
def execMopCopy (req : Requester) (g : Nat) (irq : Bool) (s : State) : Host.Outcome State Fault Refusal :=
  .next (if g < 16 then s.checkedWrite req (Reg.GROVE_MOP_GO g) 4 fun s => s.writeMopGo req g (2 + irq.toNat * 256) else s)

/-- R325: the destination of an operation overlaps a granted granule. -/
def State.mopBlocked (s : State) (g : Nat) (m : MemOp) : Bool :=
  (s.office g).tickets.any fun t => decide (t.start < m.dst + m.len) && decide (m.dst < t.start + t.len)

/-- MOP_START: at base tick `t` the first queued operation of grove `g` starts; one that runs past the store ends at once. -/
def execMopStart (g t : Nat) (s : State) : Host.Outcome State Fault Refusal :=
  let s := s.tickTo t
  .next (match (s.mopQ g).head? with
    | none => s
    | some m =>
      if m.running ∨ s.mopBlocked g m ∨ s.dom g ≠ 0 then s
      else if 0x800000 < m.dst + m.len ∨ (m.op = 2 ∧ 0x800000 < m.src + m.len) then s.mopEnd g MopErr.RANGE
      else { s with mops := updAt s.mops g fun q => match q with
        | m :: t => { m with running := true } :: t
        | [] => [] }.mopSync g)

/-- The 64-byte pieces of a range. -/
def pieces64 (base off len : Nat) : List Nat := (List.range (len / 64)).map fun k => base + off + 64 * k

/-- Reads of an operation, up to the first that is refused: the data, whether one was held, and whether all were read. -/
def State.mopRead (g : Nat) (env : MemEnv) : List Nat → List (List Byte) → State → List (List Byte) × Bool × Bool × State
  | [], acc, s => (acc.reverse, false, true, s)
  | a :: t, acc, s =>
    let r := State.blockServe true false env (s.access (.block Blk.GROVE g) a 64 false []) s
    match r.1 with
    | .held => (acc.reverse, true, false, s)
    | .ok d => mopRead g env t (d :: acc) r.2
    | _ => (acc.reverse, false, false, r.2)

/-- Writes of an operation, up to the first that is refused: whether all were made. -/
def State.mopWrite (g : Nat) (env : MemEnv) : List (Nat × List Byte) → State → Bool × State
  | [], s => (true, s)
  | (a, d) :: t, s =>
    let r := State.blockServe true false env (s.access (.block Blk.GROVE g) a 64 true d) s
    match r.1 with
    | .ok _ => mopWrite g env t r.2
    | _ => (false, r.2)

/-- What an operation does to the store (R309, R310): none where the store holds it. -/
def State.mopRun (s : State) (g : Nat) (m : MemOp) (env : MemEnv) : Option (Bool × State) :=
  let base := storeBase + 0x800000 * g
  let dst := pieces64 base m.dst m.len
  if m.op = 1 then
    some (s.mopWrite g env (dst.map fun a => (a, (List.range 16).flatMap fun _ => leBytes 4 m.val)))
  else
    let r := s.mopRead g env (pieces64 base m.src m.len) []
    if r.2.1 then none
    else
      let w := r.2.2.2.mopWrite g env (dst.zip r.1)
      some (w.1 && r.2.2.1, w.2)

/-- MOP_DONE: the running operation of grove `g` ends at base tick `t`; `env` is what its accesses meet. -/
def execMopDone (g t : Nat) (env : MemEnv) (s : State) : Host.Outcome State Fault Refusal :=
  let s := s.tickTo t
  .next (match (s.mopQ g).head? with
    | none => s
    | some m =>
      if m.running ∧ s.dom g = 0 then match s.mopRun g m env with
        | some r => r.2.mopEnd g (if r.1 then MopErr.NONE else MopErr.ACCESS)
        | none => s
      else s)

/-! ## Clear (R311, R312) -/

/-- R311, R312: the clear of grove `g` starts with the purge; it is counted at its start (DEDUCED). -/
def State.startClear (s : State) (g : Nat) : State :=
  if s.groveClearing g then s
  else
    let s := (s.purgeOffice g).each (s.mopQ g) fun s _ => s.mopEnd g MopErr.UNAVAILABLE
    let s := ((s.putF (Reg.GROVE_CLEAR_STAT g) 1 0 1).incWrap (Reg.GROVE_CLEAR_STAT g) 31 16).putBit (Reg.TICKET_STAT g) 9 true
    (s.dropEcc (grovePage g)).each (List.range 4) fun s n => s.coreSync (4 * g + n)

/-- R332: the clear that starts was asked for by CLEAR_GO, or was not. -/
def State.clearAsked (s : State) (g : Nat) (b : Bool) : State :=
  { s with domains := updAt s.domains g fun (D : Domain) => { D with asked := b } }

/-- R311: a write of `v` to CLEAR_GO. -/
def State.writeClearGo (s : State) (req : Requester) (g v : Nat) : State :=
  if s.world req && decide (v = 0x434C) && !s.groveClearing g && ((s.groveOwner g).isNone || s.groveOffline g) then (s.startClear g).clearAsked g true
  else s.quiet req (Reg.GROVE_CLEAR_GO g) Cause.RESERVED_ENC

/-- CLEAR_GO: a write of `value` to CLEAR_GO of grove `g`. -/
def execClearGo (req : Requester) (g value : Nat) (s : State) : Host.Outcome State Fault Refusal :=
  .next (if g < 16 then s.checkedWrite req (Reg.GROVE_CLEAR_GO g) 4 fun s => s.writeClearGo req g value else s)

/-- CLEAR_ZERO_DONE: at base tick `t`, 8 µs after its start, the clear of grove `g` has zeroed its memories and reads back. -/
def execClearZeroDone (g t : Nat) (s : State) : Host.Outcome State Fault Refusal :=
  let s := s.tickTo t
  .next (if g < 16 ∧ s.getF (Reg.GROVE_CLEAR_STAT g) 1 0 = 1 then
    let s := (s.zero (storeBase + 0x800000 * g) 0x800000).putF (Reg.GROVE_CLEAR_STAT g) 1 0 2
    s.each (List.range 4) fun s n => (s.izero (tileBase (4 * g + n)) 0x80000).setCore (4 * g + n) fun C => { C with banks := [{}, {}] }
  else s)

/-- R421: the self-test of core `c` begins; `asked` through SELFTEST. -/
def State.startTest (s : State) (c : Nat) : State :=
  if (s.core c).testing.isSome then s
  else (s.setCore c fun C => { C with testing := some (s.svc c, s.clk.base) }).setSvc c Svc.TESTING

/-- R312, R332: the clear ends. A grove that is OFFLINE returns to service only where CLEAR_GO asked for the clear and it passes. -/
def State.endClear (s : State) (g : Nat) (ok : Bool) : State :=
  let off := !ok || (s.groveOffline g && !(s.domains.getD g {}).asked)
  let s := ((s.putF (Reg.GROVE_CLEAR_STAT g) 1 0 0).putF (Reg.GROVE_CLEAR_STAT g) 5 4 (off.toNat + (!ok).toNat * 2)).putBit (Reg.TICKET_STAT g) 9 false
  let s := s.clearAsked g false
  let s := if ok then s.evt (grovePage g) 3 else (s.evt (grovePage g) 4).emit (.island Isl.CLEAR g)
  let s := s.lvl (grovePage g) 6 off
  let s := { s with resize := s.resize.map fun (r : Resize) => { r with todo := r.todo.filter fun x => x != g } }
  (s.each (List.range 4) fun s n =>
    let c := 4 * g + n
    -- R430: with ST_AT_START each core is tested after its grove's release clear, the first since the reset
    if ok && s.bit Reg.SAFE_INF_CFG 6 && decide (s.getF (Reg.GROVE_CLEAR_STAT g) 31 16 = 1) then s.startTest c else s.coreNext c) |>.grovesSync

/-- CLEAR_VERIFY_DONE: at base tick `t`, 16 µs after its start, the clear of grove `g` ends; `ok` where every word read back zero
without an uncorrectable error. -/
def execClearVerifyDone (g : Nat) (ok : Bool) (t : Nat) (s : State) : Host.Outcome State Fault Refusal :=
  let s := s.tickTo t
  .next (if g < 16 ∧ s.getF (Reg.GROVE_CLEAR_STAT g) 1 0 = 2 then s.endClear g ok else s)

end Sys2Proof.Machine
end

