-- ==== Sys2Proof/Machine/Fp.lean ====
section
/-! DEFINITION. Numbers of the matrix cores (R280, R284, R285): formats, exact values, rounding to nearest even and
saturation. Values are exact rationals with a sign, infinities and NaN. -/

namespace Sys2Proof.Machine

/-- A value: the magnitude of a finite one is `q`, with sign `n`. -/
inductive Flt where
  | nan
  | inf (n : Bool)
  | fin (n : Bool) (q : Rat)
  deriving DecidableEq, Repr

/-- A float format: exponent and mantissa bits; `ext` marks E4M3, which has no infinity and one NaN. -/
structure Fmt where
  eb : Nat
  mb : Nat
  ext : Bool := false
  deriving DecidableEq, Repr

def fp32 : Fmt := ⟨8, 23, false⟩
def bf16 : Fmt := ⟨8, 7, false⟩
def e5m2 : Fmt := ⟨5, 2, false⟩
def e4m3 : Fmt := ⟨4, 3, true⟩

/-- Bias of the exponent. -/
def Fmt.bias (f : Fmt) : Nat := 2 ^ (f.eb - 1) - 1

/-- A power of two. -/
def pow2 (k : Int) : Rat := if 0 ≤ k then (2 : Rat) ^ k.toNat else 1 / (2 : Rat) ^ (-k).toNat

/-- The largest k with 2^k ≤ q, for q > 0. -/
def ilog2 (q : Rat) : Int :=
  let e : Int := (Nat.log2 q.num.natAbs : Int) - (Nat.log2 q.den : Int)
  if pow2 e ≤ q then e else e - 1

/-- Round a non-negative rational to the nearest natural number, ties to even. -/
def rne (q : Rat) : Nat :=
  let n := q.floor.toNat
  let r := q - (n : Rat)
  if r < 1 / 2 then n else if 1 / 2 < r then n + 1 else if n % 2 = 0 then n else n + 1

/-- Largest finite magnitude code. -/
def Fmt.maxMag (f : Fmt) : Nat := if f.ext then 2 ^ (f.eb + f.mb) - 2 else (2 ^ f.eb - 1) * 2 ^ f.mb - 1

/-- Value of the bits of a format. -/
def Fmt.value (f : Fmt) (b : Nat) : Flt :=
  let n := b.testBit (f.eb + f.mb)
  let e := fld b (f.eb + f.mb - 1) f.mb
  let m := b % 2 ^ f.mb
  if f.ext ∧ b % 2 ^ (f.eb + f.mb) = 2 ^ (f.eb + f.mb) - 1 then .nan
  else if !f.ext ∧ e = 2 ^ f.eb - 1 then (if m = 0 then .inf n else .nan)
  else if e = 0 then .fin n ((m : Rat) * pow2 (1 - (f.bias : Int) - f.mb))
  else .fin n (((2 ^ f.mb + m : Nat) : Rat) * pow2 ((e : Int) - f.bias - f.mb))

/-- Magnitude code of a non-negative rational, rounded to nearest even, before any overflow. -/
def Fmt.roundMag (f : Fmt) (q : Rat) : Nat :=
  if q ≤ 0 then 0
  else
    let emin : Int := 1 - (f.bias : Int)
    let e := max (ilog2 q) emin
    (e - emin).toNat * 2 ^ f.mb + rne (q / pow2 (e - f.mb))

/-- A NaN of a format; its payload is open (log entry 24). -/
def Fmt.nan (f : Fmt) : Nat :=
  if f.ext then 2 ^ (f.eb + f.mb) - 1
  else (2 ^ f.eb - 1) * 2 ^ f.mb + 1 + Config.nanBits f.mb % (2 ^ f.mb - 1)

/-- Bits of a value: rounded to nearest even; a finite overflow gives the largest finite value where `sat`, else infinity. -/
def Fmt.bits (f : Fmt) (sat : Bool) (v : Flt) : Nat :=
  match v with
  | .nan => f.nan
  | .inf n => n.toNat * 2 ^ (f.eb + f.mb) + (if f.ext then f.maxMag else f.maxMag + 1)
  | .fin n q =>
    let m := f.roundMag q
    n.toNat * 2 ^ (f.eb + f.mb) + (if f.maxMag < m then (if sat || f.ext then f.maxMag else f.maxMag + 1) else m)

/-- A finite value from a rational. -/
def Flt.ofRat (q : Rat) : Flt := if q < 0 then .fin true (-q) else .fin false q

/-- The rational of a finite value. -/
def Flt.rat : Flt → Rat
  | .fin n q => if n then -q else q
  | _ => 0

def Flt.isFin : Flt → Bool
  | .fin _ _ => true
  | _ => false

def Flt.neg : Flt → Flt
  | .nan => .nan
  | .inf n => .inf (!n)
  | .fin n q => .fin (!n) q

/-- Exact sum. -/
def Flt.add : Flt → Flt → Flt
  | .nan, _ => .nan
  | _, .nan => .nan
  | .inf a, .inf b => if a = b then .inf a else .nan
  | .inf a, _ => .inf a
  | _, .inf b => .inf b
  | .fin a p, .fin b q =>
    let r := (Flt.fin a p).rat + (Flt.fin b q).rat
    if r = 0 then .fin (a && b && decide (p = 0)) 0 else Flt.ofRat r

/-- Exact product. -/
def Flt.mul : Flt → Flt → Flt
  | .nan, _ => .nan
  | _, .nan => .nan
  | .inf a, .inf b => .inf (a != b)
  | .inf a, .fin b q => if q = 0 then .nan else .inf (a != b)
  | .fin a p, .inf b => if p = 0 then .nan else .inf (a != b)
  | .fin a p, .fin b q => .fin (a != b) (p * q)

/-- Magnitude. -/
def Flt.abs : Flt → Flt
  | .nan => .nan
  | .inf _ => .inf false
  | .fin _ q => .fin false q

/-- Strict order of values that are numbers. -/
def Flt.lt : Flt → Flt → Bool
  | .nan, _ => false
  | _, .nan => false
  | .inf a, .inf b => a && !b
  | .inf a, _ => a
  | _, .inf b => !b
  | .fin a p, .fin b q => decide ((Flt.fin a p).rat < (Flt.fin b q).rat)

/-- FP32 bits of a value, overflowing to infinity (R280: rounding to nearest even, subnormals kept). -/
def f32 (v : Flt) : Nat := fp32.bits false v
/-- The value of FP32 bits. -/
def val32 (b : Nat) : Flt := fp32.value b

/-- MAX (R284, R285); with a NaN the result is open. -/
def Flt.max (op : Nat) (a b : Flt) : Flt :=
  if a = .nan ∨ b = .nan then val32 (Config.vecOpen op (f32 a) (f32 b)) else if a.lt b then b else a
/-- MIN. -/
def Flt.min (op : Nat) (a b : Flt) : Flt :=
  if a = .nan ∨ b = .nan then val32 (Config.vecOpen op (f32 a) (f32 b)) else if b.lt a then b else a

/-- RELU: zero for values below zero. -/
def Flt.relu (v : Flt) : Flt := if v.lt (.fin false 0) then .fin false 0 else v

/-! ### Elementary functions, to a relative error below 2^-40 (R285) -/

/-- A rational cut to 260 significant bits. -/
def cut (q : Rat) : Rat := if q = 0 then 0 else ((q / pow2 (ilog2 |q| - 260)).floor : Rat) * pow2 (ilog2 |q| - 260)

/-- exp(x), for |x| up to 1,000: the series at x / 1,024, squared ten times. -/
def expRat (x : Rat) : Rat :=
  (List.range 10).foldl (fun y _ => cut (y * y)) ((List.range 45).foldr (fun (k : Nat) y => 1 + cut (x / 1024 * y) / ((k + 1 : Nat) : Rat)) 1)

/-- exp(x) - 1. -/
def expm1Rat (x : Rat) : Rat :=
  if |x| ≤ 1 / 2 then x * (List.range 45).foldr (fun (k : Nat) y => 1 + cut (x * y) / ((k + 2 : Nat) : Rat)) 1 else expRat x - 1

/-- The square root of 2 pi. -/
def sqrtTwoPi : Rat :=
  (Nat.sqrt (2 * 314159265358979323846264338327950288419716939937510582097494459230781640628620899862803482534211706798 * 2 ^ 800 / 10 ^ 101) : Rat) / pow2 400

/-- The normal distribution function, for |x| up to 14. -/
def phiRat (x : Rat) : Rat :=
  1 / 2 + expRat (-(x * x) / 2) / sqrtTwoPi * (x * (List.range 500).foldr (fun (k : Nat) y => 1 + cut (x * x * y) / ((2 * k + 3 : Nat) : Rat)) 1)

/-- GELU, SIGMOID, TANH and EXP by VOP code. Beyond the ranges of the series FP32 holds no more than a limit of the function, 0 or an overflow. -/
def elemRat (code : Nat) (x : Rat) : Rat :=
  let lim := fun (y : Rat) => max (-400) (min 400 y)
  if code = 0x11 then (if 14 < x then x else if x < -14 then -pow2 (-300) else x * phiRat x)
  else if code = 0x12 then 1 / (1 + expRat (lim (-x)))
  else if code = 0x13 then expm1Rat (lim (2 * x)) / (expm1Rat (lim (2 * x)) + 2)
  else expRat (lim x)

/-- GELU, SIGMOID, TANH, EXP, RECIP, RSQRT by VOP code: open within the error that R285 states on finite operands for which they are
defined; elsewhere open. -/
def Flt.fn (code : Nat) (v : Flt) : Flt :=
  let x := val32 (f32 v)
  let y := val32 (Config.vecFn code (f32 v) % 2 ^ 32)
  let tol : Rat := pow2 (-22)
  match x with
  | .fin n q =>
    if code = 0x15 ∧ q ≠ 0 then
      let r := 1 / (Flt.fin n q).rat
      if y.isFin ∧ |y.rat - r| ≤ |r| * tol then y else val32 (f32 (Flt.ofRat r))
    else if code = 0x16 ∧ q ≠ 0 ∧ !n then
      if y.isFin ∧ 0 ≤ y.rat ∧ (1 - tol) ^ 2 ≤ y.rat * y.rat * q ∧ y.rat * y.rat * q ≤ (1 + tol) ^ 2 then y
      else val32 (f32 (Flt.ofRat ((Nat.sqrt (pow2 320 / q).floor.toNat : Rat) / pow2 160)))
    else if 0x11 ≤ code ∧ code ≤ 0x14 then
      let r := elemRat code (Flt.fin n q).rat
      if y.isFin ∧ |y.rat - r| ≤ |r| * (pow2 (-14) - pow2 (-30)) then y else val32 (f32 (Flt.ofRat r))
    else y
  | _ => y

/-! ## Types of OUT_TYPE and VOP (R284, R285) -/

/-- Whether a code is a type of R284. -/
def outType (c : Nat) : Bool := [0, 1, 4, 5, 6, 7, 8].contains c
/-- Bytes of an element. -/
def typeBytes (c : Nat) : Nat := if c = 6 then 2 else if c = 7 ∨ c = 8 then 4 else 1
/-- Format of a float type. -/
def typeFmt (c : Nat) : Fmt := if c = 4 then e4m3 else if c = 5 then e5m2 else if c = 6 then bf16 else fp32

/-- Value of an element. -/
def typeValue (c b : Nat) : Flt :=
  if c = 0 then Flt.ofRat (sgn 8 b) else if c = 1 then Flt.ofRat ((b % 256 : Nat) : Rat)
  else if c = 8 then Flt.ofRat (sgn 32 b) else (typeFmt c).value b

/-- An integer of range lo to hi: rounded to nearest even and saturated; a NaN is open. -/
def intBits (w : Nat) (lo hi : Int) (v : Flt) : Nat :=
  match v with
  | .nan => Config.vecOpen 6 (f32 .nan) w % 2 ^ w
  | .inf n => enc w (if n then lo else hi)
  | .fin n q =>
    let r : Int := if n then -(rne q : Int) else (rne q : Int)
    enc w (max lo (min hi r))

/-- Bits of an element: rounded to nearest even and saturated to the type. -/
def typeBits (c : Nat) (v : Flt) : Nat :=
  if c = 0 then intBits 8 (-128) 127 v else if c = 1 then intBits 8 0 255 v
  else if c = 8 then intBits 32 (-2147483648) 2147483647 v else (typeFmt c).bits true v

end Sys2Proof.Machine
end

