-- ==== Sys2Proof/Machine/Mac.lean ====
section
/-! DEFINITION. The MAC array and its checksum lanes (R279 to R283, R411) and the epilogue of a DRAIN (R284). Where the spec
does not order a float sum the model takes ascending index, rounding at each addition (log entry 24). -/

namespace Sys2Proof.Machine

/-- Bytes of a k-vector (R280). -/
def kvBytes (type : Nat) : Nat := if type = 2 then 32 else if type = 6 then 128 else 64
/-- R280: the combinations of types an MMA takes. -/
def macTypes (a b : Nat) : Bool :=
  (a == b && [0, 1, 2, 4, 5, 6].contains a) || (a == 4 && b == 5) || (a == 5 && b == 4) || (a == 0 && b == 1) || (a == 1 && b == 0)
/-- The accumulator of a type is FP32. -/
def macFloat (type : Nat) : Bool := type != 0 && type != 1
/-- Steps of an MMA (R280). -/
def macSteps (type k : Nat) : Nat := if type = 2 then k / 2 else if type = 6 then 2 * k else k

/-- Element `i` of a k-vector's bytes (element 0 in the low bits; log entry 24). -/
def kvElem (type : Nat) (v : List Byte) (i : Nat) : Nat :=
  if type = 2 then fld (v.getD (i / 2) 0).toNat (4 * (i % 2) + 3) (4 * (i % 2))
  else if type = 6 then (v.getD (2 * i) 0).toNat + 256 * (v.getD (2 * i + 1) 0).toNat
  else (v.getD i 0).toNat

/-- Integer value of an element of S8, U8 or S4. -/
def elemInt (type e : Nat) : Int := if type = 0 then sgn 8 e else if type = 1 then ((e % 256 : Nat) : Int) else sgn 4 e
/-- Value of an element of a float type. -/
def elemFlt (type e : Nat) : Flt := if type = 6 then bf16.value e else if type = 5 then e5m2.value e else e4m3.value e

/-- FP32 accumulation: the bits of round(c + v). -/
def acc32 (c : Nat) (v : Flt) : Nat := f32 ((val32 c).add v)

/-- FP32 sum in ascending order. -/
def sum32 (l : List Flt) : Nat := l.foldl acc32 0

/-- Operands of an MMA: elements A[m, k] and B[k, n] as bit patterns of their types, K, and for S4 the exponents of block k/32. -/
structure MacIn where
  ta : Nat
  tb : Nat
  k : Nat
  a : Nat → Nat → Nat
  b : Nat → Nat → Nat
  ea : Nat → Nat → Int
  eb : Nat → Nat → Int

/-- Values of A[m, k] and B[k, n] for a float accumulator. -/
def MacIn.fa (x : MacIn) (m k : Nat) : Flt :=
  if x.ta = 2 then Flt.ofRat ((elemInt 2 (x.a m k) : Rat) * pow2 (x.ea (k / 32) m)) else elemFlt x.ta (x.a m k)
def MacIn.fb (x : MacIn) (k n : Nat) : Flt :=
  if x.tb = 2 then Flt.ofRat ((elemInt 2 (x.b k n) : Rat) * pow2 (x.eb (k / 32) n)) else elemFlt x.tb (x.b k n)

def idx64 : List Nat := List.range 64

/-- The word of a bank. -/
def Bank.at (b : Bank) (m n : Nat) : Nat := b.c.getD (64 * m + n) 0

/-- Element (m, n) after an MMA (R279, R280, R281): INT32 wrapping; FP32 in ascending k; S4 by blocks of 32. -/
def MacIn.word (x : MacIn) (c m n : Nat) : Nat :=
  if !macFloat x.ta then
    enc 32 ((c : Int) + ((List.range x.k).map fun k => elemInt x.ta (x.a m k) * elemInt x.tb (x.b k n)).sum)
  else if x.ta = 2 then
    (List.range (x.k / 32)).foldl (fun c j =>
      let p : Int := ((List.range 32).map fun i => elemInt 2 (x.a m (32 * j + i)) * elemInt 2 (x.b (32 * j + i) n)).sum
      acc32 c (Flt.ofRat ((p : Rat) * pow2 (x.ea j m + x.eb j n)))) c
  else (List.range x.k).foldl (fun c k => acc32 c ((x.fa m k).mul (x.fb k n))) c

/-- R282: the bank after an MMA, with its checks. -/
def MacIn.run (x : MacIn) (b : Bank) : Bank :=
  let ks := List.range x.k
  let c := idx64.flatMap fun m => idx64.map fun n => x.word (b.at m n) m n
  if !macFloat x.ta then
    let sA := fun k => (idx64.map fun m => elemInt x.ta (x.a m k)).sum
    let sB := fun k => (idx64.map fun n => elemInt x.tb (x.b k n)).sum
    { c := c, float := false
      row := idx64.map fun m => b.row.getD m 0 + (ks.map fun k => elemInt x.ta (x.a m k) * sB k).sum
      col := idx64.map fun n => b.col.getD n 0 + (ks.map fun k => sA k * elemInt x.tb (x.b k n)).sum
      corner := b.corner + (ks.map fun k => sA k * sB k).sum }
  else
    let sA := fun k => val32 (sum32 (idx64.map fun m => x.fa m k))
    let sB := fun k => val32 (sum32 (idx64.map fun n => x.fb k n))
    let mA := fun k => val32 (sum32 (idx64.map fun m => (x.fa m k).abs))
    let mB := fun k => val32 (sum32 (idx64.map fun n => (x.fb k n).abs))
    let go := fun (c : Int) (f : Nat → Flt) => ((ks.foldl (fun c k => acc32 c (f k)) c.toNat : Nat) : Int)
    { c := c, float := true
      row := idx64.map fun m => go (b.row.getD m 0) fun k => (x.fa m k).mul (sB k)
      col := idx64.map fun n => go (b.col.getD n 0) fun k => (sA k).mul (x.fb k n)
      corner := go b.corner fun k => (sA k).mul (sB k)
      rowmag := idx64.map fun m => go (b.rowmag.getD m 0) fun k => (x.fa m k).abs.mul (mB k)
      colmag := idx64.map fun n => go (b.colmag.getD n 0) fun k => (mA k).mul (x.fb k n).abs }

/-! ## The tests of a DRAIN (R283, R411) -/

/-- Exact sum of FP32 values. -/
def fsum (l : List Nat) : Flt := l.foldl (fun a b => a.add (val32 b)) (.fin false 0)

/-- A float difference is larger than 2^−tol times the magnitude. -/
def farOff (tol : Nat) (a b mag : Flt) : Bool :=
  if a.isFin ∧ b.isFin ∧ mag.isFin then decide (mag.rat * pow2 (-(tol : Int)) < |a.rat - b.rat|) else Config.nanTest (f32 a)

/-- Integer sums differ on their low 32 bits. -/
def offInt (a b : Int) : Bool := decide (a % 4294967296 ≠ b % 4294967296)

def Bank.rowSum (b : Bank) (m : Nat) : List Nat := idx64.map fun n => b.at m n
def Bank.colSum (b : Bank) (n : Nat) : List Nat := idx64.map fun m => b.at m n
def intSum (l : List Nat) : Int := (l.map fun (w : Nat) => (w : Int)).sum

/-- The rows, and columns, whose test fails. -/
def Bank.badRows (b : Bank) (tol : Nat) : List Nat := idx64.filter fun m =>
  if b.float then farOff tol (fsum (b.rowSum m)) (val32 (b.row.getD m 0).toNat) (val32 (b.rowmag.getD m 0).toNat)
  else offInt (intSum (b.rowSum m)) (b.row.getD m 0)
def Bank.badCols (b : Bank) (tol : Nat) : List Nat := idx64.filter fun n =>
  if b.float then farOff tol (fsum (b.colSum n)) (val32 (b.col.getD n 0).toNat) (val32 (b.colmag.getD n 0).toNat)
  else offInt (intSum (b.colSum n)) (b.col.getD n 0)

/-- The CORNER test fails. -/
def Bank.badCorner (b : Bank) (tol : Nat) : Bool :=
  let bits := fun (l : List Int) => idx64.map fun i => (l.getD i 0).toNat
  if b.float then
    let mag := fsum (bits b.rowmag)
    farOff tol (fsum (bits b.row)) (val32 b.corner.toNat) mag || farOff tol (fsum (bits b.col)) (val32 b.corner.toNat) mag
  else offInt (idx64.map fun m => b.row.getD m 0).sum b.corner || offInt (idx64.map fun n => b.col.getD n 0).sum b.corner

/-- Tests failed (1 ROW, 2 COL, 4 CORNER) with the lowest row and column. A fault-free float bank never fails while CHK_TOL is 10
or less (R411). -/
def Bank.tests (b : Bank) (tol : Nat) (clean : Bool) : Nat × Nat × Nat :=
  if b.float && clean && decide (tol ≤ 10) then (0, 0, 0)
  else
    let r := b.badRows tol
    let c := b.badCols tol
    ((!r.isEmpty).toNat + (!c.isEmpty).toNat * 2 + (b.badCorner tol).toNat * 4, r.headD 0, c.headD 0)

/-- Bit `k` of a check inverted: 48 bits of an integer check, 32 of a float one. -/
def flipInt (v : Int) (k : Nat) : Int := if (enc 48 v).testBit k then v - (2 ^ k : Nat) else v + (2 ^ k : Nat)

/-- A bank with an upset (R676). -/
def Bank.flip (b : Bank) (f : Flip) : Bank :=
  if f.kind = 0 then
    if 32 ≤ f.bit then b else { b with c := (idx64.flatMap fun m => idx64.map fun n => b.at m n).modify (64 * f.m + f.n) fun w => w ^^^ 2 ^ f.bit }
  else if f.kind = 1 then { b with row := (idx64.map fun m => b.row.getD m 0).modify f.m fun v => flipInt v f.bit }
  else if f.kind = 2 then { b with col := (idx64.map fun n => b.col.getD n 0).modify f.n fun v => flipInt v f.bit }
  else if f.kind = 3 then { b with corner := flipInt b.corner f.bit }
  else b

/-! ## Epilogue (R284) -/

/-- ACT; LEAK as FP32 bits. -/
def actOf (act leak : Nat) (v : Flt) : Flt :=
  match act with
  | 1 => v.relu
  | 2 => if v = .nan then v else Flt.min 5 v.relu (.fin false 6)
  | 3 => if v.lt (.fin false 0) then v.mul (val32 leak) else v
  | 4 => v.fn 0x11
  | 5 => v.fn 0x12
  | 6 => v.fn 0x13
  | _ => v

/-- Pooling window (rows, columns) of a POOL code. -/
def poolWin (pool : Nat) : Nat × Nat :=
  match pool with
  | 1 => (2, 2)
  | 2 => (2, 2)
  | 3 => (1, 2)
  | 4 => (2, 1)
  | _ => (1, 1)

/-- One row of 64 values pooled over a patch of width `w`. -/
def poolRow (pool w : Nat) (r : List Flt) : List Flt :=
  let win := poolWin pool
  (List.range (64 / w / win.1)).flatMap fun y => (List.range (w / win.2)).map fun x =>
    let l := (List.range win.1).flatMap fun dy => (List.range win.2).map fun dx => r.getD ((y * win.1 + dy) * w + x * win.2 + dx) (.fin false 0)
    if pool = 2 then (l.foldl Flt.add (.fin false 0)).mul (Flt.ofRat (1 / 4))
    else match l with
      | [] => .fin false 0
      | v :: t => t.foldl (fun a b => a.max 4 b) v

/-- Settings of an epilogue: BIAS and SCALE by row, already values. -/
structure Epilogue where
  out : Nat
  act : Nat
  pool : Nat
  leak : Nat
  w : Nat
  bias : Nat → Option Flt
  scale : Nat → Option Flt

/-- Row `m` of the result, as elements of OUT_TYPE: exact but for the conversion to FP32 and the final rounding (R285). -/
def Epilogue.row (e : Epilogue) (b : Bank) (m : Nat) : List Nat :=
  let conv := fun (w : Nat) => if b.float then val32 w else val32 (f32 (Flt.ofRat (sgn 32 w)))
  let one := fun (w : Nat) =>
    let v := match e.bias m with | some k => (conv w).add k | none => conv w
    actOf e.act e.leak (match e.scale m with | some k => v.mul k | none => v)
  (poolRow e.pool e.w ((b.rowSum m).map one)).map fun v => typeBits e.out v

/-! ## VOP (R285) -/

/-- A two- or three-operand element operation of a VOP. -/
def vopElem (op : Nat) (a b imm : Flt) : Flt :=
  match op with
  | 0x01 => a.add b
  | 0x02 => a.mul b
  | 0x03 => (a.mul b).add imm
  | 0x04 => a.max 4 b
  | 0x05 => a.min 5 b
  | 0x06 => a
  | 0x10 => a.relu
  | _ => a.fn op

/-- A group of 64 elements reduced. -/
def vopGroup (op : Nat) (l : List Flt) : Flt :=
  if op = 0x20 then l.foldl Flt.add (.fin false 0)
  else match l with
    | [] => .fin false 0
    | v :: t => t.foldl (fun a b => a.max 0x21 b) v

end Sys2Proof.Machine
end

