-- ==== Sys2Proof/Machine/TileMem.lean ====
section
/-! DEFINITION. Tile memory, line buffers and command lists (R286 to R293): references, waits, the fetch of commands and which
command of a list may issue next. -/

namespace Sys2Proof.Machine

/-! ## Faults (R303, R428) -/

namespace CF
abbrev DATA_MISMATCH : Nat := 0x01
abbrev PERSISTENT : Nat := 0x02
abbrev REPLAY_FAIL : Nat := 0x03
abbrev VEC_MISMATCH : Nat := 0x04
abbrev CTRL_MISMATCH : Nat := 0x05
abbrev TM_UE : Nat := 0x06
abbrev CMD_HANG : Nat := 0x07
abbrev NO_SERVICE_CORE : Nat := 0x08
abbrev BAD_OPCODE : Nat := 0x80
abbrev BAD_FIELD : Nat := 0x81
abbrev TM_RANGE : Nat := 0x82
abbrev INPUT_WRITE : Nat := 0x83
abbrev LB_EVICTED : Nat := 0x84
abbrev XFER_ERR : Nat := 0x85
abbrev CTX_SIZE : Nat := 0x86
abbrev BARRIER_MISMATCH : Nat := 0x87
abbrev CMD_FETCH : Nat := 0x88
end CF

/-- What a step of a command comes to: a value, a wait in which nothing happens, or a command fault. -/
inductive Got (α : Type) where
  | ok (v : α)
  | wait
  | fault (code : Nat)
  deriving DecidableEq, Repr

def Got.bind {α β : Type} (x : Got α) (f : α → Got β) : Got β :=
  match x with
  | .ok v => f v
  | .wait => .wait
  | .fault c => .fault c

/-- A condition that must hold, else the fault. -/
def Got.need (b : Bool) (code : Nat) : Got Unit := if b then .ok () else .fault code

/-! ## References (R286, R287, R290) -/

/-- Bytes `i` to `i + n − 1` of a command. -/
def cb (cmd i n : Nat) : Nat := fld cmd (8 * (i + n) - 1) (8 * i)

/-- A tile-memory reference: a plain offset, or a row of a line buffer adjusted by RANK × RROW. -/
inductive TmRef where
  | plain (off : Nat)
  | line (k : Nat) (row : Int)
  deriving DecidableEq, Repr

def Rank.lb (r : Rank) (k : Nat) : LineBuf := r.lbs.getD k {}

/-- The reference of a TMREF field. -/
def OnCore.ref (o : OnCore) (v : Nat) : TmRef :=
  if v.testBit 31 then .line (v % 8) (sgn 12 (fld v 27 16) + o.k * (o.rank.lb (v % 8)).rrow) else .plain (v % 0x80000)

/-- A plain range is within tile memory and outside every enabled line buffer. -/
def Rank.plainOk (r : Rank) (off len : Nat) : Bool :=
  decide (off + len ≤ 0x80000) && (List.range 8).all fun k =>
    !(r.lb k).en || decide (off + len ≤ 0x78000 - 0x8000 * k) || decide (0x80000 - 0x8000 * k ≤ off)

/-- A LOAD of the row is in flight. -/
def Rank.rowLoading (r : Rank) (k : Nat) (row : Int) : Bool := r.xfers.any fun x => x.load && x.lb == some (k, row)

/-- Bytes `off` to `off + len − 1` of a reference: of a plain one relative to it, of a line buffer within its row. -/
def State.refRead (s : State) (c : Nat) (r : Rank) (t : TmRef) (off len : Nat) : Got (List Byte) :=
  match t with
  | .plain p => if r.plainOk (p + off) len then .ok (s.ibytes (tileBase c + p + off) len) else .fault CF.TM_RANGE
  | .line k row =>
    let l := r.lb k
    if !l.en then .fault CF.BAD_FIELD
    else if l.rowBytes < off + len then .fault CF.TM_RANGE
    else if row < 0 ∨ (l.imgRows : Int) ≤ row then .ok (List.replicate len 0)
    else match l.span with
      | none => .wait
      | some (first, newest) =>
        if newest < row ∨ r.rowLoading k row then .wait
        else if row < first ∨ row ≤ newest - l.rows then .fault CF.LB_EVICTED
        else .ok (s.ibytes (tileBase c + 0x78000 - 0x8000 * k + (row.toNat % l.rows) * l.rowBytes + off) len)

/-- Where in tile memory bytes `off` to `off + len − 1` of a reference lie, as offset and length; nowhere for a row outside the image,
which reads zero. -/
def Rank.place (r : Rank) (t : TmRef) (off len : Nat) : List (Nat × Nat) :=
  match t with
  | .plain p => [(p + off, len)]
  | .line k row =>
    let l := r.lb k
    if row < 0 ∨ (l.imgRows : Int) ≤ row then [] else [(0x78000 - 0x8000 * k + (row.toNat % l.rows) * l.rowBytes + off, len)]

/-- A plain reference is 64-byte aligned. -/
def TmRef.aligned : TmRef → Bool
  | .plain p => decide (p % 64 = 0)
  | .line _ _ => true

/-- Vectors of `n` bytes, `cnt` of them, `pitch` apart. -/
def State.refVecs (s : State) (c : Nat) (r : Rank) (t : TmRef) (pitch n cnt : Nat) : Got (List (List Byte)) :=
  (List.range cnt).foldr (fun i acc => (s.refRead c r t (i * pitch) n).bind fun v => acc.bind fun l => .ok (v :: l)) (.ok [])

/-- R291: the input ranges that a TILE command declares, as byte offset and length. -/
def tileInputs (cmd : Nat) : List (Nat × Nat) :=
  (List.range 4).filterMap fun i =>
    let w := cb cmd (4 + 4 * i) 4
    if fld w 25 13 = 0 then none else some (fld w 12 0 * 64, fld w 25 13 * 64)

/-- A range overlaps a declared input of the tile in force. -/
def Rank.hitsInput (r : Rank) (off len : Nat) : Bool :=
  (tileInputs r.tile.cmd).any fun e => decide (e.1 < off + len) && decide (off < e.1 + e.2)

/-- A write of `len` bytes at a plain offset: TM_RANGE or INPUT_WRITE where it may not be. -/
def Rank.writeOk (r : Rank) (off len : Nat) : Got Unit :=
  if !r.plainOk off len then .fault CF.TM_RANGE else if r.hitsInput off len then .fault CF.INPUT_WRITE else .ok ()

/-- R292: where `len` bytes written at offset `off` of a reference go in tile memory; a row of a line buffer takes them in its slot, and one
outside the image nowhere (log entry 70). -/
def Rank.dest (r : Rank) (t : TmRef) (off len : Nat) : Got (Option Nat) :=
  match t with
  | .plain p => (r.writeOk (p + off) len).bind fun _ => .ok (some (p + off))
  | .line k _ =>
    let l := r.lb k
    if !l.en then .fault CF.BAD_FIELD
    else if l.rowBytes < off + len then .fault CF.TM_RANGE
    else match r.place t off len with
      | [] => .ok none
      | (a, _) :: _ => if r.hitsInput a len then .fault CF.INPUT_WRITE else .ok (some a)

/-! ## The list (R288, R289) -/

/-- Units: 0 command, 1 transfer, 2 MAC, 3 vector; an opcode that is none of R292 belongs to the command unit. -/
def unitOf (cmd : Nat) : Nat :=
  match cmd % 256 with
  | 0x10 => 1
  | 0x11 => 1
  | 0x20 => 2
  | 0x22 => 2
  | 0x21 => 3
  | 0x30 => 3
  | _ => 0

/-- Commands from offset `rank.off` on that have been fetched, with their offsets. -/
def Rank.window (r : Rank) : List (Nat × Nat) := r.code.zipIdx.map (fun e => (r.base + 32 * e.2, e.1)) |>.filter fun e => decide (r.off ≤ e.1)

/-- Commands not yet issued before offset `off`. -/
def Rank.waitingBefore (r : Rank) (off : Nat) : List (Nat × Nat) :=
  r.window.filter fun e => decide (e.1 < off) && !r.ahead.contains e.1

/-- The IMCFG in force for a command at offset `off`: the last one before it in the list since the TILE, else that at the TILE. -/
def Rank.imAt (r : Rank) (off : Nat) : Option Nat :=
  match (r.code.zipIdx.filter fun e => decide (r.base + 32 * e.2 < off) && e.1 % 256 == 0x22).getLast? with
  | some e => some e.1
  | none => r.tile.im

/-- R293: the origin (oy, ox) of an MMA's im2col source: with a line buffer, RANK × RROW is added. -/
def OnCore.imOrigin (o : OnCore) (im cmd : Nat) : Int × Int :=
  let src := cb im 16 4
  (sgn 12 (fld (cb cmd 16 4) 27 16) + (if src.testBit 31 then o.k * (o.rank.lb (src % 8)).rrow else 0), sgn 12 (fld (cb cmd 16 4) 11 0))

/-- R293: where element (ci, y, x) of the im2col source of an MMA lies: reference, offset, bytes, and x; none outside the image. -/
def OnCore.imPlace (o : OnCore) (im type k n : Nat) (oy ox : Int) : Option (TmRef × Nat × Nat × Nat) :=
  let kh := fld (cb im 10 1) 3 0
  let kw := fld (cb im 10 1) 7 4
  let w := 64 / 2 ^ cb im 14 1
  let ci := k / (kh * kw)
  let ky := k / kw % kh
  let kx := k % kw
  let y : Int := oy + (n / w : Nat) * fld (cb im 11 1) 7 4 + ky * fld (cb im 12 1) 7 4 - fld (cb im 13 1) 3 0
  let x : Int := ox + (n % w : Nat) * fld (cb im 11 1) 3 0 + kx * fld (cb im 12 1) 3 0 - fld (cb im 13 1) 7 4
  if cb im 4 2 ≤ ci ∨ x < 0 ∨ (cb im 6 2 : Int) ≤ x ∨ y < 0 ∨ (cb im 8 2 : Int) ≤ y then none
  else
    let bytes := if type = 6 then 2 else 1
    let at' := if type = 2 then x.toNat / 2 else x.toNat * bytes
    some (match o.ref (cb im 16 4) with
      | .plain p => (.plain p, ci * cb im 24 4 + y.toNat * cb im 20 4 + at', bytes, x.toNat)
      | .line j _ => (.line j y, ci * cb im 24 4 + at', bytes, x.toNat))

/-- R293: rows of the source line buffer that an im2col MMA reads: those of the elements within the image of its first K rows of B. -/
def imRows (o : OnCore) (im cmd : Nat) : List Int :=
  let at' := o.imOrigin im cmd
  ((List.range (min (cb cmd 6 2) (fld (cb im 10 1) 3 0 * fld (cb im 10 1) 7 4))).flatMap fun k => (List.range 64).filterMap fun n =>
    match o.imPlace im 0 k n at'.1 at'.2 with
    | some (.line _ y, _) => some y
    | _ => none).eraseDups

/-- Rows of line buffers that a command reads. -/
def OnCore.rowsRead (o : OnCore) (off cmd : Nat) : List (Nat × Int) :=
  let row := fun v => match o.ref v with
    | .line k r => [(k, r)]
    | .plain _ => []
  match cmd % 256 with
  | 0x11 => row (cb cmd 16 4)
  | 0x30 => row (cb cmd 12 4) ++ (if cb cmd 4 1 ≤ 5 then row (cb cmd 16 4) else [])
  | 0x20 => row (cb cmd 8 4) ++ (if cmd.testBit 42 then match o.rank.imAt off with
      | some im => if (cb im 16 4).testBit 31 then (imRows o im cmd).map fun y => (cb im 16 4 % 8, y) else []
      | none => []
    else row (cb cmd 16 4))
  | _ => []

/-- R287: the first and newest row that line buffer `k` holds where the command at list offset `off` stands: those of the LOADs issued, with
those of earlier LOADs of the list that have not. -/
def OnCore.spanAt (o : OnCore) (off k : Nat) : Option (Int × Int) :=
  (o.rank.waitingBefore off).foldl (fun sp e =>
    if e.2 % 256 = 0x10 then match o.ref (cb e.2 16 4), sp with
      | .line j row, none => if j = k then some (row, row) else none
      | .line j row, some (a, b) => if j = k then some (a, max b row) else some (a, b)
      | _, _ => sp
    else sp) (o.rank.lb k).span

/-- R287: the command reads a row that a LOAD before it in the list evicts, whether or not that LOAD has issued. -/
def OnCore.evicted (o : OnCore) (off cmd : Nat) : Bool :=
  (o.rowsRead off cmd).any fun e =>
    let l := o.rank.lb e.1
    l.en && decide (0 ≤ e.2) && decide (e.2 < (l.imgRows : Int)) && (o.spanAt off e.1).any fun sp => decide (e.2 < sp.1) || decide (e.2 ≤ sp.2 - l.rows)

/-- Token that a command sets. -/
def cmdTok (cmd : Nat) : Option Nat := if cmd.testBit 15 then some (fld cmd 11 8) else none

/-- R289: the command waits for a token: one of a transfer in flight, or of an earlier command that has not issued (DEDUCED). -/
def Rank.tokenWait (r : Rank) (off cmd : Nat) : Bool :=
  let mask := fld cmd 31 16
  let hit := fun (c : Nat) => match cmdTok c with
    | some k => mask.testBit k
    | none => false
  r.xfers.any (fun x => hit x.cmd) || (r.waitingBefore off).any fun e => hit e.2

/-- R279, R289: a DRAIN waits for the MMAs of its bank, an MMA for the DRAINs of its bank, an IMCFG for every DRAIN before it. -/
def Rank.bankWait (r : Rank) (off cmd : Nat) : Bool :=
  (r.waitingBefore off).any fun e => match cmd % 256, e.2 % 256 with
    | 0x21, 0x20 => cb cmd 4 1 % 2 == cb e.2 5 1 % 2
    | 0x20, 0x21 => cb cmd 5 1 % 2 == cb e.2 4 1 % 2
    | 0x22, 0x21 => true
    | _, _ => false

/-- The next command of a unit: no unit passes a command of the command unit that has not issued (log entry 25). -/
def Rank.nextOf (r : Rank) (unit : Nat) : Option (Nat × Nat) :=
  let w := r.window.filter fun e => !r.ahead.contains e.1
  match w.find? fun e => unitOf e.2 == 0 || unitOf e.2 == unit with
  | some e => if unitOf e.2 = unit then some e else none
  | none => none

/-- The command at offset `off` has issued. -/
def Rank.issue (r : Rank) (off : Nat) : Rank :=
  let done := off :: r.ahead
  let left := (r.window.filter fun e => !done.contains e.1).map fun e => e.1
  let next := left.headD (r.base + 32 * r.code.length)
  { r with off := next, ahead := done.filter fun x => decide (next < x) }

/-! ## Fetch (R288) -/

/-- An access of a rank's job by ferry `f`. -/
def OnCore.access (o : OnCore) (f addr len : Nat) (write : Bool) (data : List Byte) (tkt : Option Nat) : Access :=
  { req := .block Blk.FERRY f, heart := o.job.heart, part := some o.job.part, addr := addr, len := len, write := write
    data := data, tkt := tkt, stream := some o.job.stream, cls := some (if o.job.prio < 2 then 2 else 3) }

/-- A fetch of list bytes: the value, a wait where the memory holds it, or CMD_FETCH. -/
def State.listRead (s : State) (o : OnCore) (addr len : Nat) (ext : List Byte) : Got Nat × State :=
  let r := s.readRange (o.access (2 * coreGrove o.rank.core) addr len false [] none) false false { ext := ext }
  match r.1 with
  | .done => (.ok (leNat r.2.1), r.2.2)
  | .held => (.wait, s)
  | _ => (.fault CF.CMD_FETCH, r.2.2)

/-- R288: the command queue of 128 commands is filled, up to an END; where the command to issue next cannot be fetched the rank
faults. Reaching CMD_LEN acts as END. -/
def State.fillQueue (o : OnCore) (env : CoreEnv) : Nat → Rank → State → Got Rank × State
  | 0, r, s => (.ok r, s)
  | n + 1, r, s =>
    let off := r.base + 32 * r.code.length
    if r.off + 4096 ≤ off ∨ r.code.getLast?.any (fun c => c % 256 == 2) then (.ok r, s)
    else if o.job.cmdLen ≤ off then (.ok { r with code := r.code ++ [2] }, s)
    else
      let g := s.listRead o (o.job.cmdAddr + off) 32 (env.list.drop off)
      match g.1 with
      | .ok v => State.fillQueue o env n { r with code := r.code ++ [v] } g.2
      | .wait => if off ≤ r.off then (.wait, s) else (.ok r, s)
      | .fault c => if off ≤ r.off then (.fault c, g.2) else (.ok r, s)

/-- R288: the argument block, and the conditions on CMD_ADDR and CMD_LEN. -/
def State.readArgs (s : State) (o : OnCore) (ext : List Byte) : Got (List Nat) × State :=
  if !o.rank.args.isEmpty then (.ok o.rank.args, s)
  else if o.job.cmdAddr % 32 ≠ 0 ∨ o.job.cmdLen = 0 ∨ o.job.cmdLen % 32 ≠ 0 ∨ 2 ^ 24 < o.job.cmdLen then (.fault CF.BAD_FIELD, s)
  else
    let g := s.listRead o o.job.argAddr 64 ext
    (g.1.bind fun v => .ok ((List.range 8).map fun i => fld v (64 * i + 63) (64 * i)), g.2)

/-- The rank with its arguments read and its queue filled. -/
def State.prepare (s : State) (o : OnCore) (env : CoreEnv) : Got Rank × State :=
  let a := s.readArgs o env.args
  match a.1 with
  | .wait => (.wait, s)
  | .fault c => (.fault c, a.2)
  | .ok args => State.fillQueue o env 128 { o.rank with args := args } a.2

end Sys2Proof.Machine
end

