-- ==== Sys2Proof/Machine/Cores.lean ====
section
/-! DEFINITION. The commands of the matrix cores (R278 to R304, R410 to R418, R420, R426). A command acts on the rank that runs on
a core, where it is the next of its unit in the rank's list; all but LOAD and STORE complete as they issue (log entry 25). -/

namespace Sys2Proof.Machine

/-! ## Faults and progress -/

/-- R303, R428: the rank `o` faults at list offset `off`. -/
def State.coreFault (s : State) (o : OnCore) (off code : Nat) : State :=
  let c := o.rank.core
  let s := ((s.wr (Reg.CORE_FAULT_INFO c) (code + off / 32 * 256)).evt (corePage c) 0).putBit
    (Reg.GROVE_CORE_STAT (coreGrove c)) (4 + c % 4) true
  let s := if 1 ≤ code ∧ code ≤ 5 then s.cnt (Reg.CORE_DFAULT_CNT c) else s
  let s := if 4 ≤ code ∧ code ≤ 7 then s.infEntry (code + 1) c 0 code else s
  (s.leaveRank o.job.id o.k .stopped).stopFault o.job.id o.k code

/-- R361, R373: the first command of a rank: the job starts, and a pre-emption has its latency. -/
def State.beginRank (s : State) (o : OnCore) : State :=
  if o.rank.begun then s
  else
    let s := s.setRank o.job.id o.k fun r => { r with begun := true }
    let s := if o.job.start.isNone then (s.setJob o.job.id fun j => { j with start := some s.clk.base }).dispSync else s
    let s := s.runSync o.job.id
    if o.rank.urgent then
      let ns := (s.clk.base - o.rank.placed) * 5 / 2
      let s := s.wr Reg.DISP_PRE_MAX (max (s.rd Reg.DISP_PRE_MAX) (satN 32 ns))
      if 20000 < ns then (s.cnt Reg.DISP_PRE_SLOW_CNT).evt dispPage 2 else s
    else s

/-- A core of the job runs below full step or under the ramp limiter (R376). -/
def State.slow (s : State) (o : OnCore) : State :=
  let g := coreGrove o.rank.core
  if s.getF (Reg.THERM_STEP g) 4 0 < 16 ∨ (s.domains.getD g {}).ramp.isSome then s.setJob o.job.id fun j => { j with slowed := true } else s

/-- The rank that runs on core `c` and may issue a command. -/
def State.issuing (s : State) (c : Nat) : Option OnCore :=
  match s.running c with
  | some o => if o.rank.st = .run ∧ s.dom (coreGrove c) = 0 ∧ !s.stalled (corePage c) ∧ !(o.rank.replay.any fun r => r.wait) then some o else none
  | none => none

/-- R299: the rank's next command waits, or goes on; its cycles until now are counted first. -/
def State.waitRank (s : State) (o : OnCore) (b : Bool) : State :=
  if o.rank.waits = b then s else (s.countCycles o.rank.core).setRank o.job.id o.k fun r => { r with waits := b }

/-- What a command does to the rank and the state, once it may issue: `true` where it has issued, `false` where its effect stands
and it has not. -/
abbrev Effect := OnCore → Nat → Nat → State → Got Bool × State

/-- R289, R303, R410: the next command of unit `unit` of the rank on core `c` issues where `is` holds of it: `eff` gives its
effect. -/
def State.coreCmd (s : State) (c t unit : Nat) (env : CoreEnv) (is : Nat → Bool) (eff : Effect) : State :=
  let s := s.coreTick t
  match s.issuing c with
  | none => s
  | some o =>
    let p := s.prepare o env
    match p.1 with
    | .wait => s
    | .fault code => (p.2.beginRank o).coreFault o o.rank.off code
    | .ok r =>
      let q := p.2.setRank o.job.id o.k fun _ => r
      match r.nextOf unit with
      | none => q
      | some (off, cmd) =>
        if !is cmd then q
        else if r.tokenWait off cmd || r.bankWait off cmd then q.waitRank o true
        else
          let s := ((q.waitRank o false).slow o).beginRank o
          match s.running c with
          | none => s
          | some o =>
            if env.ctrl && o.job.checked then s.coreFault o off CF.CTRL_MISMATCH
            else if o.evicted off cmd then s.coreFault o off CF.LB_EVICTED
            else
              let g := eff o off cmd s
              match g.1 with
              | .wait => q.waitRank o true
              | .fault code => g.2.coreFault o off code
              | .ok false => g.2
              | .ok true => (g.2.setRank o.job.id o.k fun r => r.issue off).coreSync c

/-- The command of unit `unit` of core `c` that may issue at base tick `t`: the rank, the command's list offset, the command, and
the state in which its effect starts. -/
def State.nextIssue (s : State) (c t unit : Nat) (env : CoreEnv) : Option (OnCore × Nat × Nat × State) :=
  match (s.coreTick t).issuing c with
  | none => none
  | some o =>
    let p := (s.coreTick t).prepare o env
    match p.1 with
    | .ok r => match r.nextOf unit with
      | none => none
      | some (off, cmd) =>
        if r.tokenWait off cmd || r.bankWait off cmd then none
        else
          let w := (((p.2.setRank o.job.id o.k fun _ => r).waitRank o false).slow o).beginRank o
          match w.running c with
          | none => none
          | some o => if env.ctrl && o.job.checked || o.evicted off cmd then none else some (o, off, cmd, w)
    | _ => none

/-- R293: an element of the im2col source; elements outside read 0. -/
def State.imElem (s : State) (o : OnCore) (im type k n : Nat) (oy ox : Int) : Got Nat :=
  match o.imPlace im type k n oy ox with
  | none => .ok 0
  | some (r, off, bytes, x) => (s.refRead o.rank.core o.rank r off bytes).bind fun l =>
      .ok (if type = 2 then fld (l.getD 0 0).toNat (4 * (x % 2) + 3) (4 * (x % 2)) else leNat l)

/-- The ranges of tile memory that a command reads, as offset and length (R284, R285, R292, R293). -/
def OnCore.reads (o : OnCore) (off cmd : Nat) : List (Nat × Nat) :=
  let r := o.rank
  match cmd % 256 with
  | 0x11 => r.place (o.ref (cb cmd 16 4)) 0 (cb cmd 20 4)
  | 0x20 =>
    let ta := cb cmd 4 1 % 16
    let tb := cb cmd 4 1 / 16
    let ks := List.range (cb cmd 6 2)
    let a := ks.flatMap fun i => r.place (o.ref (cb cmd 8 4)) (i * cb cmd 12 4) (kvBytes ta)
    let sc := if ta = 2 then [(cb cmd 24 4, 2 * cb cmd 6 2), (cb cmd 28 4, 2 * cb cmd 6 2)] else []
    let b := if cmd.testBit 42 then
        let im := (r.imAt off).getD 0
        let at' := o.imOrigin im cmd
        ks.flatMap fun k => (List.range 64).flatMap fun n => match o.imPlace im tb k n at'.1 at'.2 with
          | some (t, p, len, _) => r.place t p len
          | none => []
      else ks.flatMap fun i => r.place (o.ref (cb cmd 16 4)) (i * cb cmd 20 4) (kvBytes tb)
    a ++ sc ++ b
  | 0x21 => ([cb cmd 16 4, cb cmd 20 4].filter fun v => v != 0xFFFFFFFF).map fun v => (v, 256)
  | 0x30 =>
    let n := cb cmd 20 4 * typeBytes (cb cmd 5 1 % 16)
    r.place (o.ref (cb cmd 12 4)) 0 n ++ if cb cmd 4 1 ≤ 5 then r.place (o.ref (cb cmd 16 4)) 0 n else []
  | _ => []

/-- A tile-memory error that the reads of a command meet (R420), real or forced through the core's window (R676): whether the command
faults. -/
def State.tmEcc (s : State) (o : OnCore) (off cmd : Nat) (env : CoreEnv) : Bool × State :=
  let c := o.rank.core
  let f := if (s.armed (corePage c)).isNone then 0
    else (o.reads off cmd).foldl (fun m e => max m (s.eccForced (corePage c) e.1 e.2 8)) 0
  let s := if f ≠ 0 then s.injected (corePage c) else s
  let e := max env.tm f
  if e = 0 then (false, s) else if e = 1 then (false, s.cnt (Reg.CORE_TM_CE c)) else (true, s.cnt (Reg.CORE_TM_UE c))

/-- A command that reads tile memory: `eff` on the values read, or the fault TM_UE. -/
def State.withEcc (s : State) (o : OnCore) (off cmd : Nat) (env : CoreEnv) (g : Got (State → State)) : Got Bool × State :=
  match g with
  | .wait => (.wait, s)
  | .fault code => (.fault code, s)
  | .ok f =>
    let e := s.tmEcc o off cmd env
    if e.1 then (.fault CF.TM_UE, e.2) else (.ok true, f e.2)

/-! ## Command unit -/

/-- R320: the tickets of the rank's STOREs are consumed as it passes TILE, BARRIER or END; a coefficient window keeps which job wrote it
(R33). -/
def State.passTickets (s : State) (id k : Nat) : State :=
  match (s.job id).bind fun j => j.ranks[k]? with
  | none => s
  | some r =>
    let s := s.each r.tickets fun s e => match s.ticketAt e.1 e.2 with
      | some t =>
        (if 16 ≤ e.1 ∧ t.win = 14 then { s with ales := updAt s.ales (e.1 - 16) fun (a : Ale) => { a with made := id :: a.made } }
          else s).consumeTicket e.1 t
      | none => s
    s.setRank id k fun r => { r with tickets := [] }

/-- A command of the command unit: the next one of the list, with every earlier command issued; `sync` also waits until all have
completed. `eff` sees the rank at its boundary. -/
def State.ctrlCmd (s : State) (c t : Nat) (env : CoreEnv) (is : Nat → Bool) (sync : Bool)
    (eff : OnCore → Nat → State → Got Bool × State) : State :=
  s.coreCmd c t 0 env is fun o off cmd s =>
    if off ≠ o.rank.off ∨ (sync ∧ !o.rank.xfers.isEmpty) then (.wait, s) else eff o cmd s

/-- NOP: core `c`, at base tick `t`. -/
def execCoreNop (c t : Nat) (env : CoreEnv) (s : State) : Host.Outcome State Fault Refusal :=
  .next (s.ctrlCmd c t env (fun cmd => cmd % 256 == 0x00) false fun _ _ s => (.ok true, s))

/-- R291, R295: the fields of a TILE. -/
def State.tileCheck (s : State) (o : OnCore) (cmd : Nat) : Got Unit :=
  if 512 < tileLive cmd then .fault CF.BAD_FIELD
  else if (tileInputs cmd).any fun e => decide (0x80000 < e.1 + e.2) then .fault CF.TM_RANGE
  else if 1024 * s.rd (Reg.GROVE_SAVE_SLOT (coreGrove o.rank.core))
      < ctxBytes (tileLive cmd) o.rank.lbs ((tileAcc cmd 0).toNat + (tileAcc cmd 1).toNat) then .fault CF.CTX_SIZE
  else .ok ()

/-- R291: a TILE takes effect: the tile's state is kept and the tickets of the former tile are consumed. -/
def State.tileEnter (s : State) (o : OnCore) (cmd : Nat) : State :=
  let c := o.rank.core
  let banks := (s.core c).banks
  let s := (s.passTickets o.job.id o.k).incWrap (Reg.CORE_TILE_CNT c) 31 0
  s.setRank o.job.id o.k fun r =>
    let off := r.off + 32
    let im := r.imAt r.off
    { r with code := r.code.drop ((r.off - r.base) / 32), base := r.off
             tile := { off := off, cmd := cmd, lbs := r.lbs, im := im, start := s.clk.base
                       banks := [if tileAcc cmd 0 then banks[0]? else none, if tileAcc cmd 1 then banks[1]? else none] } }

/-- TILE: a boundary (R295), where a stop or a pre-emption that is due acts instead of the command. -/
def execTile (c t : Nat) (env : CoreEnv) (s : State) : Host.Outcome State Fault Refusal :=
  let s := s.coreTick t
  let due := match s.issuing c with
    | some o => if o.rank.nextTile ≠ 0 ∧ o.rank.cmdAt o.rank.off % 256 = 1 ∧ o.rank.xfers.isEmpty ∧ (o.rank.window.map fun e => e.1).headD 0 = o.rank.off
        then some o else none
    | none => none
  let b := match due with
    | some o => s.boundary o
    | none => (false, s)
  .next (if b.1 then b.2 else
    s.ctrlCmd c t env (fun cmd => cmd % 256 == 0x01) true fun o cmd s =>
      match s.tileCheck o cmd with
      | .ok _ => (.ok true, s.tileEnter o cmd)
      | .wait => (.wait, s)
      | .fault code => (.fault code, s))

/-- END, or the end of the list: the rank ends once every earlier command has completed; a stop that is due acts instead. -/
def execCoreEnd (c t : Nat) (env : CoreEnv) (s : State) : Host.Outcome State Fault Refusal :=
  .next (s.ctrlCmd c t env (fun cmd => cmd % 256 == 0x02) true fun o _ s =>
    if o.job.stop.isSome then (.ok true, s.leaveRank o.job.id o.k .stopped)
    else (.ok true, (s.passTickets o.job.id o.k).leaveRank o.job.id o.k .done))

/-- BARRIER (R294): the rank waits; TILE or END must follow, and the job's other ranks must wait at the same ID. -/
def execBarrier (c t : Nat) (env : CoreEnv) (s : State) : Host.Outcome State Fault Refusal :=
  let s' := s.ctrlCmd c t env (fun cmd => cmd % 256 == 0x40) true fun o cmd s =>
    let next := o.rank.cmdAt (o.rank.off + 32) % 256
    if o.rank.base + 32 * o.rank.code.length ≤ o.rank.off + 32 then (.wait, s)
    else if next ≠ 1 ∧ next ≠ 2 then (.fault CF.BAD_FIELD, s)
    else
      let id := cb cmd 4 2
      if o.job.ranks.any fun r => r.bar.any fun b => b != id then (.fault CF.BARRIER_MISMATCH, s)
      else (.ok true, s.setRank o.job.id o.k fun r => { r with st := .barrier, bar := some id })
  .next (s'.barrierCheck c)

/-- BARRIER_RELEASE: at base tick `t` every rank of the job on core `c` has reached a BARRIER, and all pass. -/
def execBarrierRelease (c t : Nat) (s : State) : Host.Outcome State Fault Refusal :=
  let s := s.coreTick t
  .next (match s.running c with
    | none => s
    | some o =>
      if o.job.ranks.all fun r => r.bar.isSome then
        let s := s.each (List.range o.job.ranks.length) fun s k =>
          (s.passTickets o.job.id k).setRank o.job.id k fun r => { r with bar := none, st := if r.st = .barrier then .run else r.st }
        s.each o.job.ranks fun s r => if r.core < 64 then s.coreSync r.core else s
      else s)

/-- LBCFG (R286, R287, R292). -/
def execLbcfg (c t : Nat) (env : CoreEnv) (s : State) : Host.Outcome State Fault Refusal :=
  .next (s.ctrlCmd c t env (fun cmd => cmd % 256 == 0x50) false fun o cmd s =>
    let k := cb cmd 4 1 % 8
    let en := cmd.testBit 39
    let rb := cb cmd 6 2 * 64
    let rows := cb cmd 8 1
    let img := cb cmd 10 2
    if o.rank.xfers.any fun x => x.lb.any (fun e => e.1 == k) || (!x.load && (o.rowsRead x.off x.cmd).any fun e => e.1 == k) then (.wait, s)
    else if en && (decide (rb = 0) || decide (rows = 0) || decide (0x8000 < rows * rb) || decide (img = 0) || decide (4095 < img)) then
      (.fault CF.BAD_FIELD, s)
    else (.ok true, s.setRank o.job.id o.k fun r => { r with lbs := r.lbs.set k (if en then
      { en := true, rowBytes := rb, rows := rows, imgRows := img, rrow := sgn 16 (cb cmd 12 2) } else {}) }))

/-! ## Transfers (R290) -/

/-- R290: the effective address of a LOAD or STORE. -/
def OnCore.xferAddr (o : OnCore) (cmd : Nat) : Got Nat :=
  let d := cb cmd 4 8
  let v := fld d 47 0
  let mode := fld d 49 48
  let base := if mode = 0 then v else if mode = 1 then o.rank.args.getD (fld d 52 50) 0 + v
    else storeBase + 0x800000 * coreGrove o.rank.core + v
  if mode = 3 ∨ (mode = 2 ∧ 0x800000 ≤ v) then .fault CF.BAD_FIELD
  else .ok (((base : Int) + o.k * sgn 24 (cb cmd 12 4) * 64) % (2 ^ 48 : Nat)).toNat

/-- LEN of a LOAD or STORE, checked against its reference. -/
def OnCore.xferLen (o : OnCore) (cmd : Nat) : Got Nat :=
  let len := cb cmd 20 4
  if len < 64 ∨ 524288 < len ∨ len % 64 ≠ 0 then .fault CF.BAD_FIELD
  else match o.ref (cb cmd 16 4) with
    | .plain p => if p % 64 ≠ 0 then .fault CF.BAD_FIELD else .ok len
    | .line k _ => if (o.rank.lb k).en ∧ len = (o.rank.lb k).rowBytes then .ok len else .fault CF.BAD_FIELD

/-- R287, R291: whether a LOAD of row `row` of line buffer `k` at list offset `off` may issue. -/
def OnCore.rowLoad (o : OnCore) (off k : Nat) (row : Int) : Got Unit :=
  let l := o.rank.lb k
  let named := match l.span with
    | none => true
    | some (first, newest) => decide (row = newest + 1) || (decide (first ≤ row) && decide (newest - l.rows < row) && decide (row ≤ newest))
  let old := row - l.rows
  let reads := fun (e : Nat × Nat) => (o.rowsRead e.1 e.2).contains (k, old)
  if !named then .fault CF.BAD_FIELD
  else if decide (o.rank.tile.off ≠ 0) && (o.rank.code.zipIdx.any fun e =>
      decide (o.rank.tile.off ≤ o.rank.base + 32 * e.2) && decide (o.rank.base + 32 * e.2 < off) && reads (o.rank.base + 32 * e.2, e.1)) then
    .fault CF.INPUT_WRITE
  else if (o.rank.waitingBefore off).any reads || o.rank.xfers.any fun x => !x.load && reads (x.off, x.cmd) then .wait
  else .ok ()

/-- The span of a line buffer after a LOAD of `row`. -/
def LineBuf.loaded (l : LineBuf) (row : Int) : LineBuf :=
  { l with span := match l.span with
      | none => some (row, row)
      | some (first, newest) => some (first, max newest row) }

/-- R345, R360: bytes moved by a ferry count in BYTES, in KiB. -/
def State.ferryBytes (s : State) (f n : Nat) : State :=
  let b := (s.ferries.getD f {}).bytes + n
  ({ s with ferries := updAt s.ferries f fun F => { F with bytes := b % 1024 } }).addWrap (Reg.FERRY_BYTES f) 31 0 (b / 1024)

/-- R357, R360: a transfer of ferry `f` failed at `addr`. -/
def State.ferryErr (s : State) (f addr : Nat) : State :=
  ((s.cnt (Reg.FERRY_XFER_ERR_CNT f)).wr (Reg.FERRY_ERR_ADDR_LO f) addr).wr (Reg.FERRY_ERR_ADDR_HI f) (addr / 2 ^ 32 % 2 ^ 16)

/-- LOAD: the source is read as it issues; the data is in tile memory at LOAD_COMPLETE. -/
def State.loadIssue (env : CoreEnv) : Effect := fun o off cmd s =>
  let g := (o.xferAddr cmd).bind fun addr => (o.xferLen cmd).bind fun len => match o.ref (cb cmd 16 4) with
    | .plain p => (o.rank.writeOk p len).bind fun _ => .ok (addr, len, (none : Option (Nat × Int)))
    | .line k row => (o.rowLoad off k row).bind fun _ =>
        (Got.need (!(o.rank.place (.line k row) 0 len).any fun e => o.rank.hitsInput e.1 e.2) CF.INPUT_WRITE).bind fun _ =>
          .ok (addr, len, some (k, row))
  match g with
  | .wait => (.wait, s)
  | .fault code => (.fault code, s)
  | .ok (addr, len, lb) =>
    let mark := fun (s : State) => match lb with
      | some (k, row) => s.setRank o.job.id o.k fun r => { r with lbs := r.lbs.modify k fun l => l.loaded row }
      | none => s
    let outside := match lb with
      | some (k, row) => decide (row < 0) || decide (((o.rank.lb k).imgRows : Int) ≤ row)
      | none => false
    if outside then (.ok true, mark s)
    else
      let f := 2 * coreGrove o.rank.core
      let r := s.readRange (o.access f addr len false [] none) (decide (targetOf addr = .store (coreGrove o.rank.core))) false env.mem
      match r.1 with
      | .held => (.wait, s)
      | .done =>
        let x : Xfer := { off := off, cmd := cmd, load := true, addr := addr, lb := lb, data := r.2.1 }
        (.ok true, (mark (r.2.2.ferryBytes f len)).setRank o.job.id o.k fun r => { r with xfers := r.xfers ++ [x] })
      | _ => (.fault CF.XFER_ERR, r.2.2.ferryErr f addr)

/-- LOAD. -/
def execCoreLoad (c t : Nat) (env : CoreEnv) (s : State) : Host.Outcome State Fault Refusal :=
  .next (s.coreCmd c t 1 env (fun cmd => cmd % 256 == 0x10) (State.loadIssue env))

/-- R412: the state at the TILE command is restored, and the replay pass starts from that command, which completes once more (TILE_CNT;
log entry 25): the STOREs issued before the failure are not issued again. -/
def State.replayPass (s : State) (id k c : Nat) : State :=
  match (s.job id).bind fun j => j.ranks[k]? with
  | none => s
  | some r =>
    let s := (s.incWrap (Reg.CORE_TILE_CNT c) 31 0).setCore c fun C => { C with
      banks := C.banks.zipIdx.map fun e => match r.tile.banks.getD e.2 none with
        | some b => b
        | none => e.1 }
    s.setRank id k fun r => { r with
      off := r.tile.off, ahead := [], lbs := r.tile.lbs, im := r.tile.im
      tile := { r.tile with stores := 0, skip := r.tile.stores, start := s.clk.base }
      replay := r.replay.map fun p => { p with wait := false } }

/-- A transfer at offset `off` of the rank on core `c` leaves: a rank that has stopped frees its core with its last one, and a
replay that waited for it starts. -/
def State.xferGone (s : State) (o : OnCore) (off : Nat) : State :=
  let c := o.rank.core
  let s := s.setRank o.job.id o.k fun r => { r with xfers := r.xfers.filter fun x => x.off != off }
  let last := o.rank.xfers.all fun x => x.off == off
  let s := if last && o.rank.replay.any (fun p => p.wait) then s.replayPass o.job.id o.k c else s
  let s := ((s.runSync o.job.id).endCheck o.job.id).coreSync c
  if last && (o.rank.st == .stopped || o.rank.st == .done) then s.coreNext c else s

/-- LOAD_COMPLETE: at base tick `t` the LOAD at list offset `off` of the rank on core `c` has its data in tile memory. -/
def execLoadComplete (c off t : Nat) (s : State) : Host.Outcome State Fault Refusal :=
  let s := s.coreTick t
  .next (match s.running c with
    | none => s
    | some o => match o.rank.xfers.find? fun x => x.off == off && x.load with
      | none => s
      | some x =>
        let s := match x.lb with
          | some (k, row) =>
            let l := o.rank.lb k
            s.setIbytes (tileBase c + 0x78000 - 0x8000 * k + (row.toNat % l.rows) * l.rowBytes) x.data
          | none => s.setIbytes (tileBase c + cb x.cmd 16 4 % 0x80000) x.data
        s.xferGone o off)

/-- What a ticket request of a STORE comes to: a tag, none needed, a wait, or a permanent refusal. -/
inductive Asked where
  | tag (v : Nat)
  | none
  | wait
  | refused
  deriving DecidableEq, Repr

/-- R320: the request of a STORE or ferry transfer for its own range. -/
def State.askTicket (s : State) (k : Nat) (a : Access) (len : Nat) (store : Bool) : Asked × State :=
  if 24 ≤ k then
    let r := s.remoteAsk ((k - 24) / 2 ^ 28) { a with len := len }
    (if r.1 then .wait else .refused, r.2)
  else if s.officeHolds k then (.wait, s)
  else
    let r := s.ticketRequest k a (a.addr - tkBase k) len store
    if r.1 = TkCode.GRANTED then (.tag r.2.1, r.2.2)
    else if r.1 = TkCode.NOT_REQUIRED then (.none, r.2.2)
    else if tkTransient r.1 then (.wait, r.2.2) else (.refused, r.2.2)

/-- STORE: its ticket is asked for as it issues; it writes at STORE_COMPLETE. -/
def State.storeIssue (env : CoreEnv) : Effect := fun o off cmd s =>
  let c := o.rank.core
  let g := (o.xferAddr cmd).bind fun addr => (o.xferLen cmd).bind fun len =>
    (s.refRead c o.rank (o.ref (cb cmd 16 4)) 0 len).bind fun _ => .ok (addr, len)
  match g with
  | .wait => (.wait, s)
  | .fault code => (.fault code, s)
  | .ok (addr, len) =>
    let e := s.tmEcc o off cmd env
    let s := e.2
    if e.1 then (.fault CF.TM_UE, s)
    else
      let count := fun (s : State) => s.setRank o.job.id o.k fun r => { r with tile := { r.tile with stores := r.tile.stores + 1 } }
      if o.rank.tile.stores < o.rank.tile.skip then (.ok true, count s)
      else
        let x : Xfer := { off := off, cmd := cmd, load := false, addr := addr }
        let add := fun (s : State) (x : Xfer) => (count s).setRank o.job.id o.k fun r => { r with xfers := r.xfers ++ [x] }
        let own := decide (targetOf addr = .store (coreGrove c))
        match officeOf addr with
        | some k =>
          if cmd.testBit 85 && !own then
            let a := s.askTicket k (o.access (2 * coreGrove c + 1) addr len true [] none) len true
            match a.1 with
            | .tag v => (.ok true, add a.2 { x with tag := some v })
            | .none => (.ok true, add a.2 x)
            | .wait => (.ok true, add a.2 { x with ask := some s.clk.base })
            | .refused => (.fault CF.XFER_ERR, a.2.ferryErr (2 * coreGrove c + 1) addr)
          else (.ok true, add s x)
        | none => (.ok true, add s x)

/-- STORE. -/
def execCoreStore (c t : Nat) (env : CoreEnv) (s : State) : Host.Outcome State Fault Refusal :=
  .next (s.coreCmd c t 1 env (fun cmd => cmd % 256 == 0x11) (State.storeIssue env))

/-- A STORE whose writes have reached their target leaves its rank, which holds the ticket until its next TILE, BARRIER or END (R320). -/
def State.storeDone (s : State) (o : OnCore) (x : Xfer) : State :=
  let c := o.rank.core
  let s := s.ferryBytes (2 * coreGrove c + 1) (cb x.cmd 20 4)
  let s := match x.tag, officeOf x.addr with
    | some tag, some k =>
      if o.rank.st = RankSt.stopped then s.returnTickets c [(k, tag)]
      else s.setRank o.job.id o.k fun r => { r with tickets := r.tickets ++ [(k, tag)] }
    | _, _ => s
  s.xferGone o x.off

/-- A STORE fails (R303). -/
def State.storeFail (s : State) (o : OnCore) (x : Xfer) : State :=
  let c := o.rank.core
  let s := match x.tag, officeOf x.addr with
    | some tag, some k => s.returnTickets c [(k, tag)]
    | _, _ => s
  let s := (s.ferryErr (2 * coreGrove c + 1) x.addr).xferGone o x.off
  if o.rank.st = RankSt.stopped then s else s.coreFault o x.off CF.XFER_ERR

/-- A STORE whose bytes have left completes once every write beyond the device is acknowledged (R641, R651). -/
def State.storeEnd (s : State) (o : OnCore) (x : Xfer) : State :=
  let f : Requester := .block Blk.FERRY (2 * coreGrove o.rank.core + 1)
  match s.acks f x.addr (cb x.cmd 20 4) with
  | 0 => s.storeDone o x
  | 1 => s.setRank o.job.id o.k fun r => { r with xfers := r.xfers.map fun (y : Xfer) => if y.off = x.off then { y with sent := true } else y }
  | _ => (s.dropAcks f x.addr (cb x.cmd 20 4)).storeFail o x

/-- STORE_COMPLETE: at base tick `t` the STORE at list offset `off` of the rank on core `c` has written its bytes and been
acknowledged. -/
def execStoreComplete (c off t : Nat) (s : State) : Host.Outcome State Fault Refusal :=
  let s := s.coreTick t
  .next (match s.running c with
    | none => s
    | some o => match o.rank.xfers.find? fun x => x.off == off && !x.load && x.ask.isNone with
      | none => s
      | some x =>
        let f := 2 * coreGrove c + 1
        let len := cb x.cmd 20 4
        if x.sent then s.storeEnd o x else match s.refRead c o.rank (o.ref (cb x.cmd 16 4)) 0 len with
        | .ok data =>
          let own := decide (targetOf x.addr = .store (coreGrove c))
          let r := s.writeRange (o.access f x.addr len true data x.tag) own false {}
          match r.1 with
          | .held => s
          | .done => r.2.storeEnd o x
          | _ => r.2.storeFail o x
        | _ => s.xferGone o off)

/-- R320: what the answer to the request of a waiting STORE does. -/
def State.storeAsked (s : State) (o : OnCore) (x : Xfer) (k : Nat) (r : Asked) : State :=
  let c := o.rank.core
  let set := fun (s : State) (f : Xfer → Xfer) => s.setRank o.job.id o.k fun r => { r with
    xfers := r.xfers.map fun (y : Xfer) => if y.off = x.off then f y else y }
  match r with
  | .tag v => if o.rank.st = RankSt.stopped then (s.returnTickets c [(k, v)]).xferGone o x.off
    else set s fun y => { y with tag := some v, ask := none }
  | .none => set s fun y => { y with ask := none }
  | .wait => s
  | .refused => ((s.ferryErr (2 * coreGrove c + 1) x.addr).xferGone o x.off).coreFault o x.off CF.XFER_ERR

/-- R320: the STOREs of the rank on core `c` that wait for a ticket ask again. -/
def State.coreRetry (s : State) (c : Nat) : State :=
  match s.running c with
  | none => s
  | some o => s.each (o.rank.xfers.filter fun x => x.ask.isSome) fun s x => match officeOf x.addr with
    | none => s
    | some k =>
      let a := s.askTicket k (o.access (2 * coreGrove c + 1) x.addr (cb x.cmd 20 4) true [] none) (cb x.cmd 20 4) true
      a.2.storeAsked o x k a.1

/-- R320: a STORE of the rank on core `c` has waited TKT_WAIT µs for its ticket. -/
def State.coreWaitExpired (s : State) (c : Nat) : State :=
  match s.running c with
  | none => s
  | some o =>
    let lim := s.getF (Reg.GROVE_TKT_WAIT (coreGrove c)) 15 0 * 400
    match o.rank.xfers.find? fun x => x.ask.any fun t => decide (t + lim ≤ s.clk.base) with
    | none => s
    | some x =>
      let s := (s.ferryErr (2 * coreGrove c + 1) x.addr).xferGone o x.off
      if o.rank.st = .stopped then s else s.coreFault o x.off CF.XFER_ERR

/-! ## MAC array (R279 to R282, R293) -/

/-- IMCFG fields in range (R292, R297). -/
def imOk (cmd : Nat) : Bool :=
  let inR := fun (v lo hi : Nat) => decide (lo ≤ v) && decide (v ≤ hi)
  inR (cb cmd 4 2) 1 8192 && inR (cb cmd 6 2) 1 4095 && inR (cb cmd 8 2) 1 4095 && inR (fld (cb cmd 10 1) 3 0) 1 15
    && inR (fld (cb cmd 10 1) 7 4) 1 15 && inR (fld (cb cmd 11 1) 3 0) 1 15 && inR (fld (cb cmd 11 1) 7 4) 1 15
    && inR (fld (cb cmd 12 1) 3 0) 1 15 && inR (fld (cb cmd 12 1) 7 4) 1 15 && decide (cb cmd 14 1 ≤ 3)

/-- IMCFG. -/
def execImcfg (c t : Nat) (env : CoreEnv) (s : State) : Host.Outcome State Fault Refusal :=
  .next (s.coreCmd c t 2 env (fun cmd => cmd % 256 == 0x22) fun o _ cmd s =>
    if imOk cmd && (o.ref (cb cmd 16 4)).aligned then (.ok true, s.setRank o.job.id o.k fun r => { r with im := some cmd }) else (.fault CF.BAD_FIELD, s))

/-- The operands of an MMA (R280, R281, R292, R293). -/
def State.mmaIn (s : State) (o : OnCore) (off cmd : Nat) : Got MacIn :=
  let ta := cb cmd 4 1 % 16
  let tb := cb cmd 4 1 / 16
  let kk := cb cmd 6 2
  let c := o.rank.core
  let im := cmd.testBit 42
  if !macTypes ta tb || decide (kk < 64) || decide (8192 < kk) || decide (kk % 64 ≠ 0) || (im && (o.rank.imAt off).isNone)
      || !(o.ref (cb cmd 8 4)).aligned || (!im && !(o.ref (cb cmd 16 4)).aligned) then .fault CF.BAD_FIELD
  else
    let scales := fun (v : Nat) => if ta = 2 then s.refVecs c o.rank (.plain v) 64 64 (kk / 32) else .ok []
    (s.refVecs c o.rank (o.ref (cb cmd 8 4)) (cb cmd 12 4) (kvBytes ta) kk).bind fun a =>
    (scales (cb cmd 24 4)).bind fun sa => (scales (cb cmd 28 4)).bind fun sb =>
      let sc := fun (l : List (List Byte)) (j i : Nat) => sgn 8 ((l.getD j []).getD i 0).toNat
      let mk := fun (b : Nat → Nat → Nat) => ({
        ta := ta, tb := tb, k := kk, a := fun m k => kvElem ta (a.getD k []) m, b := b, ea := sc sa, eb := sc sb } : MacIn)
      if im then
        let im := (o.rank.imAt off).getD 0
        let at' := o.imOrigin im cmd
        let row := fun (k : Nat) => (List.range 64).foldr (fun n (acc : Got (List Nat)) => acc.bind fun l =>
          (s.imElem o im tb k n at'.1 at'.2).bind fun v => .ok (v :: l)) (.ok [])
        ((List.range kk).foldr (fun k (acc : Got (List (List Nat))) => acc.bind fun rows => (row k).bind fun r => .ok (r :: rows))
          (.ok [])).bind fun rows => .ok (mk fun k n => (rows.getD k []).getD n 0)
      else (s.refVecs c o.rank (o.ref (cb cmd 16 4)) (cb cmd 20 4) (kvBytes tb) kk).bind fun b =>
        .ok (mk fun k n => kvElem tb (b.getD k []) n)

/-- Steps of an MMA; the im2col generator supplies half rate where SX exceeds 2 or DX is not 1 (R293). -/
def OnCore.mmaSteps (o : OnCore) (off cmd : Nat) : Nat :=
  let n := macSteps (cb cmd 4 1 % 16) (cb cmd 6 2)
  match cmd.testBit 42, o.rank.imAt off with
  | true, some im => if fld (cb im 11 1) 3 0 ≤ 2 ∧ fld (cb im 12 1) 3 0 = 1 then n else 2 * n
  | _, _ => n

/-- The effect of an MMA (R280): one accumulator bank, and MAC_CYC. -/
def State.mma (env : CoreEnv) : Effect := fun o off cmd s =>
  let c := o.rank.core
  s.withEcc o off cmd env ((s.mmaIn o off cmd).bind fun x => .ok fun s =>
    (s.setCore c fun C => { C with banks := C.banks.modify (cb cmd 5 1 % 2) fun k => x.run (if cmd.testBit 41 then {} else k) }).addWrap
      (Reg.CORE_MAC_CYC c) 31 0 (o.mmaSteps off cmd))

/-- MMA. -/
def execMma (c t : Nat) (env : CoreEnv) (s : State) : Host.Outcome State Fault Refusal :=
  .next (s.coreCmd c t 2 env (fun cmd => cmd % 256 == 0x20) (State.mma env))

/-! ## DRAIN (R283, R284, R410 to R413, R418) -/

/-- Fields of a DRAIN: where each row of OUT goes, the epilogue, or a fault (R284, R292). -/
def State.drainSet (s : State) (o : OnCore) (off cmd : Nat) (float : Bool) : Got (List (Option Nat) × Epilogue) :=
  let c := o.rank.core
  let out := cb cmd 5 1
  let act := cb cmd 6 1 % 16
  let pool := cb cmd 6 1 / 16
  let w := match o.rank.imAt off with
    | some im => 64 / 2 ^ cb im 14 1
    | none => 64
  let win := poolWin pool
  let bias := cb cmd 16 4
  let scale := cb cmd 20 4
  let none' := 0xFFFFFFFF
  let bad := !outType out || decide (6 < act) || decide (4 < pool) || decide (w % win.2 ≠ 0) || decide (64 / w % win.1 ≠ 0)
    || (decide (bias ≠ none') && decide (bias % 4 ≠ 0)) || (decide (scale ≠ none') && decide (scale % 4 ≠ 0))
  let dst := o.ref (cb cmd 8 4)
  if bad || !dst.aligned then .fault CF.BAD_FIELD
  else
      let n := 64 / win.1 / win.2 * typeBytes out
      let vec := fun (v : Nat) => if v = none' then Got.ok ([] : List Byte) else s.refRead c o.rank (.plain v) 0 256
      let word := fun (l : List Byte) (m : Nat) => leNat ((l.drop (4 * m)).take 4)
      (vec bias).bind fun bl => (vec scale).bind fun sl =>
        let e : Epilogue := { out := out, act := act, pool := pool, leak := cb cmd 24 4, w := w
                              bias := fun m => if bias = none' then none else some (if float then val32 (word bl m) else Flt.ofRat (sgn 32 (word bl m)))
                              scale := fun m => if scale = none' then none else some (val32 (word sl m)) }
        ((List.range 64).foldr (fun m (g : Got (List (Option Nat))) =>
          (o.rank.dest dst (m * cb cmd 12 4) n).bind fun p => g.bind fun l => .ok (p :: l)) (.ok [])).bind fun l => .ok (l, e)

/-- The rows of a DRAIN are written. -/
def State.drainWrite (s : State) (c : Nat) (rows : List (Option Nat)) (e : Epilogue) (b : Bank) : State :=
  s.each rows.zipIdx fun s r => match r.1 with
    | some p => s.setIbytes (tileBase c + p) ((e.row b r.2).flatMap fun v => leBytes (typeBytes e.out) v)
    | none => s

/-- R418: a passing DRAIN counts toward the comparator probe. -/
def State.probeCount (s : State) (c : Nat) (fails : Bool) : State :=
  let n := (s.core c).drains + 1
  if s.bit Reg.SAFE_INF_CFG 4 ∧ s.getF Reg.SAFE_INF_CFG 15 8 * 16 ≤ n then
    let s := (s.setCore c fun C => { C with drains := 0 }).incWrap (Reg.CORE_PROBE_CNT c) 31 0
    if fails then ((s.setLatent c).infEntry InfT.PROBE_FAIL c 0 0).withdraw c else s
  else s.setCore c fun C => { C with drains := n }

/-- The upset that a DRAIN meets: the environment's, or one forced through the core's window (R676). -/
def State.drainFlip (s : State) (o : OnCore) (b : Nat) (env : CoreEnv) : Option Flip × Option (Nat × Nat) × State :=
  let c := o.rank.core
  let mk := fun (cfg addr : Nat) => ({ kind := fld cfg 7 4, m := fld addr 5 0, n := fld addr 13 8, bit := fld cfg 15 10 } : Flip)
  match o.rank.replay with
  | some r => match r.forced with
    | some (cfg, addr) => if cfg.testBit 8 then (some (mk cfg addr), none, s) else (env.flip, none, s)
    | none => (env.flip, none, s)
  | none => match s.armed (corePage c) with
    | some j => if fld j.cfg 3 0 = 3 ∧ fld j.addr 16 16 = b then (some (mk j.cfg j.addr), some (j.cfg, j.addr), s.injected (corePage c))
        else (env.flip, none, s)
    | none => (env.flip, none, s)

/-- R412: a DRAIN at `off` failed its tests: the bank is held as FIRST and the tile is replayed. -/
def State.replayStart (s : State) (o : OnCore) (off bank : Nat) (b : Bank) (f : Nat × Nat × Nat) (forced : Option (Nat × Nat)) : State :=
  let c := o.rank.core
  let s := s.wr (Reg.CORE_CHK_INFO c) (f.1 + bank * 256 + forced.isSome.toNat * 512 + 2 ^ 16 * f.2.1 + 2 ^ 24 * f.2.2)
  let s := (s.wr (Reg.CORE_CHK_CMD c) (off / 32)).putBit (Reg.CORE_CHK_STAT c) 5 true
  let busy := !o.rank.xfers.isEmpty
  let s := s.setRank o.job.id o.k fun r => { r with
    replay := some { first := b, tests := f.1, off := off, start := s.clk.base, row := f.2.1, col := f.2.2, wait := true, forced := forced } }
  (if busy then s else s.replayPass o.job.id o.k c).coreSync c

/-- R413: the outcome of a replay: class (a log type), replay tests, and whether the banks were equal. -/
def State.replayEnd (s : State) (o : OnCore) (r : Replay) (cls tests : Nat) (equal : Bool) : State :=
  let c := o.rank.core
  let ns := (s.clk.base - r.start) * 5 / 2
  let s := ((s.cnt (Reg.CORE_REPLAY_CNT c)).wr (Reg.CORE_REPLAY_MAX c) (max (s.rd (Reg.CORE_REPLAY_MAX c)) (satN 32 ns)))
  let s := ((s.putF (Reg.CORE_CHK_INFO c) 6 4 tests).putBit (Reg.CORE_CHK_INFO c) 7 equal).putF (Reg.CORE_CHK_STAT c) 19 16 cls
  let s := ((s.putBit (Reg.CORE_CHK_STAT c) 5 false).evt (corePage c) 2).infEntry cls c r.tests (if cls = InfT.CHECK_PATH_FAULT then 0 else cls - 1)
  let s := s.setRank o.job.id o.k fun r => { r with replay := none }
  (s.setJob o.job.id fun j => { j with replayed := true }).coreSync c

/-- R413: CHECK_PATH_FAULT: CPF_CNT and LATENT, and at CPF_LIMIT the core is withdrawn. -/
def State.checkPathFault (s : State) (c : Nat) : State :=
  let s := ((s.incSat (Reg.CORE_CHK_STAT c) 11 8).cnt (Reg.CORE_CPF_TOTAL c)).setLatent c
  if s.getF Reg.SAFE_INF_CFG 3 0 ≤ s.getF (Reg.CORE_CHK_STAT c) 11 8 then s.withdraw c else s

/-- R413: a discarded result: the core goes OFFLINE for PERSISTENT and REPLAY_FAIL; the rank faults. -/
def State.discard (s : State) (o : OnCore) (r : Replay) (off cls tests : Nat) (equal : Bool) : State :=
  let c := o.rank.core
  let s := (s.replayEnd o r cls tests equal).coreFault { o with rank := { o.rank with replay := none } } off (cls - 1)
  if cls = InfT.DATA_FAULT then s else s.leaveService c Svc.OFFLINE

/-- DRAIN (R283, R284, R412, R413). -/
def State.drain (env : CoreEnv) : Effect := fun o off cmd s =>
  let c := o.rank.core
  let bi := cb cmd 4 1 % 2
  let float := ((s.core c).banks.getD bi {}).float
  match s.drainSet o off cmd float with
  | .wait => (.wait, s)
  | .fault code => (.fault code, s)
  | .ok (p, e) =>
    let x := s.tmEcc o off cmd env
    if x.1 then (.fault CF.TM_UE, x.2)
    else
      let fl := x.2.drainFlip o bi env
      let s := fl.2.2
      let bank := match fl.1 with
        | some f => ((s.core c).banks.getD bi {}).flip f
        | none => (s.core c).banks.getD bi {}
      let f := bank.tests (s.getF (Reg.GROVE_CHK_CFG (coreGrove c)) 4 0) fl.1.isNone
      let write := fun (s : State) => (s.drainWrite c p e bank).probeCount c env.probe
      let vec := env.vec && o.job.checked
      match o.rank.replay with
      | none =>
        if f.1 ≠ 0 then (.ok false, s.replayStart o off bi bank f fl.2.1)
        else if vec then (.fault CF.VEC_MISMATCH, s) else (.ok true, write s)
      | some r =>
        if r.off ≠ off then
          if f.1 ≠ 0 then (.ok false, s.discard o r off InfT.REPLAY_FAIL f.1 false)
          else if vec then (.fault CF.VEC_MISMATCH, s) else (.ok true, write s)
        else
          let eq := decide (bank.c = r.first.c)
          if f.1 = 0 ∧ eq then
            let s := (s.replayEnd o r InfT.CHECK_PATH_FAULT 0 true).checkPathFault c
            if vec then (.fault CF.VEC_MISMATCH, s) else (.ok true, write s)
          else (.ok false, s.discard o r off (if f.1 = 0 then InfT.DATA_FAULT else if eq then InfT.PERSISTENT else InfT.REPLAY_FAIL) f.1 eq)

end Sys2Proof.Machine
end

