-- ==== Sys2Proof/Machine/Prot.lean ====
section
/-! DEFINITION. Speaker protection (R545 to R561) and the chime lanes (R533 to R535, R552, R553). -/

namespace Sys2Proof.Machine

def protPage : Nat := pageAddr Blk.PROT 0
def State.protCh (s : State) (j : Nat) : ProtCh := s.prot.chs.getD j {}
def State.setProtCh (s : State) (j : Nat) (f : ProtCh → ProtCh) : State :=
  { s with prot := { s.prot with chs := updAt s.prot.chs j f } }

namespace PrSt
abbrev NORMAL : Nat := 0
abbrev FAULT : Nat := 1
abbrev RETRY : Nat := 2
abbrev LOCKOUT : Nat := 3
end PrSt

/-! TYPE of a log entry (R561). -/
namespace PrLog
abbrev OC : Nat := 1
abbrev DC : Nat := 2
abbrev LOCKOUT : Nat := 3
abbrev RETRY_OK : Nat := 4
abbrev CHIME_LOST : Nat := 5
end PrLog

def State.protState (s : State) (j : Nat) : Nat := s.getF (Reg.PROT_CH_STAT j) 1 0

/-! ## The fault log (R554, R559, R561) -/

def State.protLogShow (s : State) : State :=
  let h := s.prot.log.headD (0, 0)
  ((s.wr Reg.PROT_LOG_EVT h.1).wr Reg.PROT_LOG_T h.2).putF Reg.PROT_LOG_STAT 4 0 s.prot.log.length

/-- R554: an entry of channel `j`, its IRQ_RAW bit and its pulse to the safety island; a full log drops the newest (R559). -/
def State.protReport (s : State) (type j irq : Nat) (forced : Bool) (peak : Nat) : State :=
  let e := j + type * 16 + forced.toNat * 128 + s.getF (Reg.PROT_CH_STAT j) 7 4 * 256 + 65536 * min peak 65535
  let s := if 16 ≤ s.prot.log.length then (s.incSat Reg.PROT_LOG_STAT 15 8).evt protPage 5
    else { s with prot := { s.prot with log := s.prot.log ++ [(e, s.timeLo)] } }.protLogShow
  (s.evt protPage irq).emit (.island Isl.PROT (type * 16 + j))

/-! ## Chime lanes on their effective masks (R535, R552, R553) -/

/-- A channel is in NORMAL and not held. -/
def State.usable (s : State) (j : Nat) : Bool := s.protState j == PrSt.NORMAL && !s.bit Reg.PROT_STAT j

/-- R552: the channel that channel `j` of a mask yields. -/
def State.chimeOn (s : State) (j : Nat) : Option Nat :=
  if s.usable j then some j
  else
    let f := s.getF (Reg.PROT_CH_CFG j) 3 0
    if s.bit Reg.PROT_CTL 1 && s.bit (Reg.PROT_CH_CFG j) 4 && s.usable f then some f else none

/-- Channels of lane `l`'s MASK. -/
def State.laneMask (s : State) (l : Nat) : List Nat := (List.range 16).filter fun j => s.bit (Reg.WSEQ_CHL_MASK l) j

/-- The effective mask of lane `l`. -/
def State.effMask (s : State) (l : Nat) : Nat :=
  ((s.laneMask l).filterMap fun j => s.chimeOn j).foldl (fun m j => m ||| 2 ^ j) 0

/-- R553: the channels of a playing lane that yield none; those not in `known` are reported. -/
def State.laneLost (s : State) (l known : Nat) : State :=
  if (s.lane l).play.isNone then { s with prot := { s.prot with lost := s.prot.lost.set l 0 } }
  else
    let lost := (s.laneMask l).filter fun j => (s.chimeOn j).isNone
    let s := { s with prot := { s.prot with lost := s.prot.lost.set l (lost.foldl (fun m j => m ||| 2 ^ j) 0) } }
    s.each (lost.filter fun j => !known.testBit j) fun s j => (s.cnt Reg.PROT_CHIME_LOST_CNT).protReport PrLog.CHIME_LOST j 3 false 0

/-- R552: both effective masks are evaluated again; a lane that plays follows at its next sample instant (R535). -/
def State.lanesSync (s : State) : State :=
  let s := (s.putF Reg.PROT_REROUTE_STAT 15 0 (s.effMask 0)).putF Reg.PROT_REROUTE_STAT 31 16 (s.effMask 1)
  let s := s.each [0, 1] fun s l => s.setLane l fun (x : Lane) =>
    if x.play.isNone then { x with mask := 0, due := none }
    else if x.mask = s.effMask l then { x with due := none }
    else if x.due.isSome then x else { x with due := some (s.laneNext l) }
  let s := s.each [0, 1] fun s l => s.laneLost l (s.prot.lost.getD l 0)
  s.chansSync

/-! ## The gate (R547, R550, R551) -/

/-- The causes that hold channel `j`, as CH_jj_STAT.HOLD has them. -/
def State.holdBits (s : State) (j : Nat) : Nat :=
  let g := pageAddr Blk.SENSE (j / 4) + Hdr.IRQ_RAW
  (decide (s.protState j = PrSt.FAULT)).toNat + (decide (s.protState j = PrSt.LOCKOUT)).toNat * 2 + (s.bit g 3 || s.bit g 4).toNat * 4
    + (s.bit Reg.PROT_FORCE_HOLD j).toNat * 8 + (!s.aEntry || s.bit Reg.PROT_STAT 16).toNat * 16 + s.prot.park.toNat * 32

/-- The gate follows the causes: a hold takes effect at once, and a release ramps unless `plain` (R550). -/
def State.gateOne (s : State) (plain : Bool) (j : Nat) : State :=
  let was := s.gated j
  let h := s.holdBits j
  let s := (s.putF (Reg.PROT_CH_STAT j) 13 8 h).putBit Reg.PROT_STAT j (decide (h ≠ 0))
  if was && decide (h = 0) then s.gateReleased j (!plain) else s.chanSync j

def State.gateSync (s : State) (plain : Bool) : State := (s.each (List.range 16) fun s j => s.gateOne plain j).lanesSync

/-! ## Faults (R545 to R549, R554) -/

/-- R549: a fault is declared on channel `j`. In FAULT and LOCKOUT the channel is held already: a detector declares nothing more there
(log entry 29), and a forced detection is a declaration that leaves the state as it is (R681). -/
def State.declare (s : State) (j type : Nat) (forced : Bool) (peak : Nat) : State :=
  let st := s.protState j
  if st = PrSt.FAULT ∨ st = PrSt.LOCKOUT then
    if forced then ((s.incSat (Reg.PROT_CH_STAT j) 31 16).protReport type j 0 forced peak).trigEvent 3 j else s
  else
    let s := s.setProtCh j fun (x : ProtCh) => { x with since := s.clk.base }
    let s := (if st = PrSt.RETRY then s.incSat (Reg.PROT_CH_STAT j) 7 4 else s).incSat (Reg.PROT_CH_STAT j) 31 16
    let s := (s.protReport type j 0 forced peak).trigEvent 3 j
    if s.getF (Reg.PROT_CH_STAT j) 7 4 < s.getF Reg.PROT_TIMING 27 24 then (s.putF (Reg.PROT_CH_STAT j) 2 0 PrSt.FAULT).gateSync false
    else ((s.putF (Reg.PROT_CH_STAT j) 2 0 (PrSt.LOCKOUT + 4)).gateSync false).protReport PrLog.LOCKOUT j 1 forced peak

/-- R676: a forced detection armed for channel `j` (SUB 0 a sample of SPK_I, 1 a DC evaluation). -/
def State.detectForced (s : State) (sub j : Nat) : Bool :=
  match s.armed protPage with
  | some f => decide (fld f.cfg 3 0 = 5) && decide (fld f.cfg 7 4 = sub) && decide (fld f.cfg 19 16 = j)
  | none => false

/-- R545: a code of SPK_I_jj reaches the detector; `lim` marks a limit code. -/
def State.protCurrent (s : State) (j : Nat) (code : Int) (lim : Bool) : State :=
  let x := s.protCh j
  let high := lim || decide (s.getF (Reg.PROT_CH_TH j) 13 0 < code.natAbs)
  let n := if high then x.run + 1 else 0
  let pk := if high then max (if x.run = 0 then 0 else x.peak) code.natAbs else 0
  let s := s.setProtCh j fun (x : ProtCh) => { x with run := n, peak := pk }
  if s.detectForced 0 j then (s.injected protPage).declare j PrLog.OC true pk
  else if 3 ≤ n then s.declare j PrLog.OC false pk else s

/-- R546: a code of SPK_V_jj reaches the DC detector. -/
def State.protVoltage (s : State) (j : Nat) (code : Int) : State :=
  s.setProtCh j fun (x : ProtCh) => { x with bin := (x.bin.1 + code, x.bin.2.1 + 1, max x.bin.2.2 code.natAbs) }

/-- R546: the mean over the last DC_WIN milliseconds exceeds DC_TH in magnitude. -/
def dcOver (l : List (Int × Nat × Nat)) (th : Nat) : Bool :=
  let sum := l.foldl (fun a b => a + b.1) 0
  let n := l.foldl (fun a b => a + b.2.1) 0
  decide (th * n < sum.natAbs)

/-! ## Commands of PROT -/

/-- DC_EVALUATE: at base tick `t` the DC detector of channel `j` evaluates, once per millisecond. -/
def execDcEvaluate (j t : Nat) (s : State) : Host.Outcome State Fault Refusal :=
  let s := s.tickTo t
  .next (if 16 ≤ j ∨ s.boot.held then s
    else
      let bins := ((s.protCh j).bin :: (s.protCh j).bins).take 255
      let s := s.setProtCh j fun (x : ProtCh) => { x with bins := bins, bin := (0, 0, 0) }
      let win := bins.take (s.getF Reg.PROT_DC_WIN 7 0)
      let peak := win.foldl (fun m b => max m b.2.2) 0
      if !s.bit Reg.PROT_CTL 0 then s
      else if s.detectForced 1 j then (s.injected protPage).declare j PrLog.DC true peak
      else if dcOver win (s.getF (Reg.PROT_CH_TH j) 29 16) then s.declare j PrLog.DC false peak else s)

/-- RETRY_TIMEOUT: at base tick `t` RETRY_MS have passed since the declaration on channel `j`. -/
def execRetryTimeout (j t : Nat) (s : State) : Host.Outcome State Fault Refusal :=
  let s := s.tickTo t
  .next (if j < 16 ∧ !s.boot.held ∧ s.protState j = PrSt.FAULT
      ∧ (s.protCh j).since + 400000 * s.getF Reg.PROT_TIMING 15 0 ≤ s.clk.base then
    (s.putF (Reg.PROT_CH_STAT j) 2 0 PrSt.RETRY).gateSync false else s)

/-- RETRY_OK: at base tick `t` OK_MS have passed without a fault since the switching of channel `j` resumed. -/
def execRetryOk (j t : Nat) (s : State) : Host.Outcome State Fault Refusal :=
  let s := s.tickTo t
  .next (if j < 16 ∧ s.protState j = PrSt.RETRY ∧ (s.chan j).ph = .on
      ∧ (s.chan j).at' + 400000 * s.getF Reg.PROT_OK_MS 15 0 ≤ s.clk.base then
    ((((s.putF (Reg.PROT_CH_STAT j) 2 0 PrSt.NORMAL).putF (Reg.PROT_CH_STAT j) 7 4 0).protReport PrLog.RETRY_OK j 2 false 0)).lanesSync else s)

/-- R549, R557: a write of `v` to CLR. -/
def State.writeClr (s : State) (req : Requester) (v : Nat) : State :=
  let js := (List.range 16).filter fun j => v.testBit j
  let s := if js.any fun j => s.protState j != PrSt.LOCKOUT then s.quiet req Reg.PROT_CLR Cause.RESERVED_ENC else s
  (s.each (js.filter fun j => s.protState j == PrSt.LOCKOUT) fun s j => s.putF (Reg.PROT_CH_STAT j) 7 0 PrSt.RETRY).gateSync false

/-- CLR: a write of `value` to PROT_00.CLR. -/
def execProtClr (req : Requester) (value : Nat) (s : State) : Host.Outcome State Fault Refusal :=
  .next (s.checkedWrite req Reg.PROT_CLR 4 fun s => s.writeClr req value)

/-- FORCE_HOLD: a write of `value`. -/
def execForceHold (req : Requester) (value : Nat) (s : State) : Host.Outcome State Fault Refusal :=
  .next (s.checkedWrite req Reg.PROT_FORCE_HOLD 4 fun s => (s.regStore req Reg.PROT_FORCE_HOLD value).gateSync false)

/-- PROT_SELF_CHECK: the comparators are tested; `ok` is false when one answers wrongly (R558). -/
def execProtSelfCheck (ok : Bool) (s : State) : Host.Outcome State Fault Refusal :=
  .next (if s.boot.held ∨ ok then s
    else (((s.putBit Reg.PROT_STAT 16 true).lvl protPage 4 true).gateSync false).funcLost Fn.PROTECT)

/-- R561: a write of `v` to LOG_POP. -/
def State.popProtLog (s : State) (v : Nat) : State :=
  if v.testBit 0 then { s with prot := { s.prot with log := s.prot.log.tail } }.protLogShow else s

/-- PROT_LOG_POP: a write of `value`. -/
def execProtLogPop (req : Requester) (value : Nat) (s : State) : Host.Outcome State Fault Refusal :=
  .next (s.checkedWrite req Reg.PROT_LOG_POP 4 fun s => s.popProtLog value)

/-- R560: PROT is released at Stage A entry: LOCKOUT fields restored as 1 enter LOCKOUT, START ends without a ramp and PROTECT is
ready. -/
def State.protRelease (s : State) : State :=
  let s := s.each (List.range 16) fun s j =>
    if s.bit (Reg.PROT_CH_STAT j) 2 then s.putF (Reg.PROT_CH_STAT j) 1 0 PrSt.LOCKOUT
    else s.putBit (Reg.PROT_CH_STAT j) 2 (s.protState j == PrSt.LOCKOUT)
  (s.gateSync true).funcSet Fn.PROTECT (!s.bit Reg.PROT_STAT 16)

/-! ## Commands of the chime lanes -/

/-- First byte after the chime data in WMEM, for a value of CHIME_CFG (R534). -/
def chimeEnd (cfg : Nat) : Nat := 0x4000 + 1024 * fld cfg 24 16

/-- R534: every chime-area descriptor is valid and its samples lie within the chime data. -/
def State.chimeValid (s : State) (cfg : Nat) : Bool :=
  (List.range (fld cfg 9 0)).all fun k => (s.seg k).valid && decide ((s.seg k).fin ≤ chimeEnd cfg)

/-- R534: a byte offset of WMEM lies in the chime area. -/
def State.chimeArea (s : State) (o : Nat) : Bool :=
  let cfg := s.rd Reg.WSEQ_CHIME_CFG
  decide (o < 16 * fld cfg 9 0) || (decide (0x4000 ≤ o) && decide (o < chimeEnd cfg))

/-- R534: a heartwood write of `v` to CHIME_CFG; READY = 1 is accepted only over a valid chime area. -/
def State.writeChimeCfg (s : State) (req : Requester) (v : Nat) : State :=
  let a := Reg.WSEQ_CHIME_CFG
  if v.testBit 31 ∧ !s.chimeValid v then
    (s.quiet req a Cause.RESERVED_ENC).regStore req a (putFld v 31 31 (s.getF a 31 31))
  else
    let s := s.regStore req a v
    let r := s.bit a 31
    (s.putBit Reg.WSEQ_STAT 16 r).funcSet Fn.CHIME r

/-- CHIME_READY_WRITE: a write of `value` to CHIME_CFG. -/
def execChimeReadyWrite (req : Requester) (value : Nat) (s : State) : Host.Outcome State Fault Refusal :=
  .next (s.heartWrite req Reg.WSEQ_CHIME_CFG fun s => s.writeChimeCfg req value)

/-- R535: lane `l` is released. -/
def State.laneRelease (s : State) (l : Nat) : State :=
  if (s.lane l).play.isNone then s
  else (((s.setLane l fun (x : Lane) => { x with play := none, mask := 0, due := none }).putBit (Reg.WSEQ_CHL_STAT l) 0 false).lanesSync).evt wseqPage 7

/-- R535: a write of `v` to CHL_ll_START. -/
def State.writeChimeStart (s : State) (req : Requester) (l v : Nat) : State :=
  if !v.testBit 31 then s
  else if !s.bit Reg.WSEQ_CHIME_CFG 31 ∨ s.getF Reg.WSEQ_CHIME_CFG 9 0 ≤ fld v 9 0 then
    s.quiet req (Reg.WSEQ_CHL_START l) Cause.RESERVED_ENC
  else
    let m := s.effMask l
    let late := (List.range 16).any fun j => m.testBit j && !s.chanActive j
    let at' := s.clk.base + 400 + (if late then s.getF Reg.WSEQ_PSEN_CFG 15 0 * 400 else 0)
    let s := s.setLane l fun (x : Lane) => { x with play := some { seg := fld v 9 0, rep := fld v 25 10, start := (at' : Rat) }, mask := m, due := none, fade := {} }
    let s := (s.putBit (Reg.WSEQ_CHL_STAT l) 0 true).putF (Reg.WSEQ_CHL_STAT l) 25 16 (fld v 9 0)
    ({ s with prot := { s.prot with lost := s.prot.lost.set l 0 } }).lanesSync

/-- CHIME_START: a write of `value` to CHL_START of lane `l`. -/
def execChimeStart (req : Requester) (l value : Nat) (s : State) : Host.Outcome State Fault Refusal :=
  .next (if l < 2 then s.heartWrite req (Reg.WSEQ_CHL_START l) fun s => s.writeChimeStart req l value else s)

/-- CHIME_STOP: a write of `value` to CHL_STOP of lane `l`. -/
def execChimeStop (req : Requester) (l value : Nat) (s : State) : Host.Outcome State Fault Refusal :=
  .next (if l < 2 then s.heartWrite req (Reg.WSEQ_CHL_STOP l) fun s => if value.testBit 0 then s.laneRelease l else s else s)

/-- CHIME_END: at base tick `t` lane `l` has supplied the last sample of its last repetition. -/
def execChimeEnd (l t : Nat) (s : State) : Host.Outcome State Fault Refusal :=
  let s := (s.tickTo t).lanesDue
  .next (match (s.lane l).play with
    | some p => if l < 2 ∧ p.rep ≠ 0 ∧ (((s.seg p.seg).len * p.rep : Nat) : Rat) ≤ s.playPos p (s.clk.base : Rat) then s.laneRelease l else s
    | none => s)

end Sys2Proof.Machine
end

