-- ==== Sys2Proof/Machine/Sense.lean ====
section
/-! DEFINITION. The sense bank (R472 to R480, R482, R486, R487, R490, R491): sequences, the spare converter and urgent
conversions. Pages 0 to 3 are the groups, page 4 the spare. -/

namespace Sys2Proof.Machine

def sensePage (g : Nat) : Nat := pageAddr Blk.SENSE g
def State.grp (s : State) (g : Nat) : SenseGroup := s.sns.groups.getD g {}
def State.setGrp (s : State) (g : Nat) (f : SenseGroup → SenseGroup) : State :=
  { s with sns := { s.sns with groups := updAt s.sns.groups g f } }

/-- SEQ_EN, FAILED and the converter that serves a group. -/
def State.seqOn (s : State) (g : Nat) : Bool := s.bit (Reg.SENSE_CTL g) 0
def State.grpFailed (s : State) (g : Nat) : Bool := s.bit (Reg.SENSE_STAT g) 5
def State.phys (s : State) (g : Nat) : Nat := s.getF (Reg.SENSE_STAT g) 2 0
/-- The spare converter, 7 where there is none. -/
def State.spare (s : State) : Nat := s.getF Reg.SENSE4_STAT 2 0
/-- CONV_STAT of a converter: 0 ACTIVE, 1 SPARE, 2 CALIBRATING, 3 FAILED. -/
def State.conv' (s : State) (c : Nat) : Nat := s.getF Reg.SENSE4_CONV_STAT (2 * c + 1) (2 * c)
def State.setConv (s : State) (c v : Nat) : State := s.putF Reg.SENSE4_CONV_STAT (2 * c + 1) (2 * c) v

/-- SENSE_04.STAT from the spare's state (R491); CAL_STALL is also a level. -/
def State.spareShow (s : State) : State :=
  let none' := decide (s.spare = 7)
  let s := s.putBit Reg.SENSE4_STAT 4 (!none' && decide (s.conv' s.spare = 2))
  let s := s.putBit Reg.SENSE4_STAT 5 (s.sns.groups.any fun g => g.inc.isSome)
  (s.putBit Reg.SENSE4_STAT 6 none').lvl (sensePage 4) 3 none'

/-- Converter `c` becomes the spare and is calibrated. -/
def State.makeSpare (s : State) (c : Nat) : State :=
  let s := (s.setConv c 2).putF Reg.SENSE4_STAT 2 0 c
  { s with sns := { s.sns with cal := some s.clk.base } }

/-- Converter `c` is lost: it reads FAILED, and the safety island is told. -/
def State.convLost (s : State) (c : Nat) (raise : Bool) : State :=
  let s := s.setConv c 3
  let s := if raise then s.evt (sensePage 4) 2 else s
  s.emit (.island Isl.AUDIO (Blk.SENSE * 256 + c))

/-- R477, R478: converter `inc` delivers group `g` from now on; the outgoing one becomes the spare, unless it has failed (`ok`
false). -/
def State.handover (s : State) (g inc : Nat) (ok : Bool) : State :=
  let out := s.phys g
  let s := ((s.putF (Reg.SENSE_STAT g) 2 0 inc).setConv inc 0).incWrap Reg.SENSE4_SWAP_CNT 31 0
  let s := (s.setGrp g fun (x : SenseGroup) => { x with inc := none, differs := false }).putBit (Reg.SENSE_STAT g) 4 false
  let s := { s with sns := { s.sns with turn := (g + 1) % 4, lastSwap := s.clk.base, retry := false, due := none, dying := false } }
  (if ok then s.makeSpare out else (s.convLost out true).putF Reg.SENSE4_STAT 2 0 7).spareShow

/-- R477, R478: the overlap frame of group `g` has ended; `refOk` is the check of the outgoing converter against the reference. -/
def State.overlapEnd (s : State) (g : Nat) (refOk : Bool) : State :=
  match (s.grp g).inc with
  | none => s
  | some inc =>
    if !(s.grp g).differs then s.handover g inc (!s.sns.dying)
    else
      let s := s.cnt Reg.SENSE4_MISMATCH_CNT
      if s.sns.retry then s.handover g inc (refOk && !s.sns.dying)
      else
        let s := (s.setGrp g fun (x : SenseGroup) => { x with inc := none, differs := false }).putBit (Reg.SENSE_STAT g) 4 false
        let s := s.makeSpare inc
        { s with sns := { s.sns with retry := true, turn := g, due := none } }.spareShow

/-- R486: the converter that serves group `g` fails: the spare takes over, or the group fails; a spare in the overlap frame of another group
is not available. -/
def State.servingFails (s : State) (g : Nat) : State :=
  if s.spare ≠ 7 ∧ s.conv' s.spare = 1 ∧ !(s.sns.groups.any fun x => x.inc.isSome) then
    { (s.setConv (s.phys g) 3) with sns := { s.sns with due := some g, dying := true } }
  else
    let s := ((s.convLost (s.phys g) true).putBit (Reg.SENSE_STAT g) 5 true).lvl (sensePage g) 3 true
    (s.gateSync false).funcLost Fn.SENSE

/-- R474, R480, R482: what takes effect at a frame boundary of group `g`: table, gains, the end of a hold, and a due swap. -/
def State.frameEnd (s : State) (g : Nat) (refOk fail : Bool) : State :=
  let s := (s.incWrap (Reg.SENSE_FRAME_CNT g) 31 0).overlapEnd g refOk
  let s := s.setGrp g fun (x : SenseGroup) => { x with slot := 0, table := x.pend.getD x.table, pend := none, gain := s.rd (Reg.SENSE_GAIN g) }
  let s := s.putBit (Reg.SENSE_STAT g) 6 false
  let s := if s.bit (sensePage g + Hdr.IRQ_RAW) 4 then (s.lvl (sensePage g) 4 false).gateSync false else s
  let s := if fail then s.servingFails g else s
  let s := if s.sns.due = some g ∧ (s.grp g).inc.isNone ∧ s.spare ≠ 7 ∧ s.conv' s.spare = 1 then
      (((s.setGrp g fun (x : SenseGroup) => { x with inc := some s.spare, differs := false }).putBit (Reg.SENSE_STAT g) 4 true)).spareShow else s
  let run := (List.range 4).all fun k => s.seqOn k && !s.grpFailed k && (s.grp k).pend.isNone && !s.bit (sensePage k + Hdr.IRQ_RAW) 4
  if s.released Blk.SENSE && run then s.funcReady Fn.SENSE else s

/-- Local input of a slot's code; code 12 takes the next general input (R472). -/
def SenseGroup.input (x : SenseGroup) : Nat :=
  let c := x.table.getD x.slot 12
  if c = 12 then 8 + x.rr % 4 else c

/-- A converter's result limited to 14 bits, and whether it was beyond full scale (R473). -/
def senseCode (raw : Int) : Int × Bool := (clampS 14 raw, decide (clampS 14 raw ≠ raw))

/-- R475, R476: the result of the next slot of group `g`: LAST, CLIP_CNT, and the detectors of PROT. -/
def State.sensed (s : State) (g : Nat) (raw other : Int) : State :=
  let x := s.grp g
  let i := x.input
  let c := senseCode raw
  let s := s.setGrp g fun (x : SenseGroup) => { x with
    slot := x.slot + 1, rr := if x.table.getD x.slot 12 = 12 then (x.rr + 1) % 4 else x.rr
    differs := x.differs || (x.inc.isSome && decide (s.getF Reg.SENSE4_CMP_TOL 7 0 < (c.1 - (senseCode other).1).natAbs)) }
  let s := s.wr (Reg.SENSE_LAST g i) (enc 16 c.1 + 2 ^ 31 * c.2.toNat)
  let s := if c.2 then (s.cnt (Reg.SENSE_CLIP_CNT g)).evt (sensePage g) 2 else s
  let lim := decide (c.1 = 8191) || decide (c.1 = -8192)
  if i < 4 then s.protCurrent (4 * g + i) c.1 lim else if i < 8 then s.protVoltage (4 * g + i - 4) c.1 else s

/-- R482: CTL of group `g` was written; `old` is its former value. -/
def State.senseCtl (s : State) (g old : Nat) : State :=
  if old.testBit 0 ∧ !s.seqOn g then
    ((s.setGrp g fun (x : SenseGroup) => { x with slot := 0, differs := false }).lvl (sensePage g) 4 true).gateSync false
  else s

/-- R480: a write of GAIN of group `g`: one that changes the gain of an SPK input while SEQ_EN is 1 has no effect. -/
def State.writeGain (s : State) (req : Requester) (g v : Nat) : State :=
  let a := Reg.SENSE_GAIN g
  let old := s.rd a
  if s.seqOn g ∧ fld v 15 0 ≠ fld old 15 0 then
    s.quiet req a Cause.RESERVED_ENC
  else
    let s := s.regStore req a v
    if s.seqOn g then s else s.setGrp g fun (x : SenseGroup) => { x with gain := s.rd a }

/-- Entries of the staged table (R490). -/
def State.staged (s : State) (g : Nat) : List Nat :=
  (List.range (s.getF (Reg.SENSE_SEQ_LEN g) 4 0)).map fun e =>
    if e < 8 then s.getF (Reg.SENSE_SEQ_LO g) (4 * e + 3) (4 * e) else s.getF (Reg.SENSE_SEQ_HI g) (4 * (e - 8) + 3) (4 * (e - 8))

/-- R474: a table is valid. -/
def tableValid (l : List Nat) : Bool :=
  decide (1 ≤ l.length) && decide (l.length ≤ 16) && l.all (fun c => decide (c ≤ 12)) && [0, 1, 2, 3].all fun c => l.contains c

/-- R474: the staged table is committed for the next frame boundary, where it is valid. -/
def State.commitTable (s : State) (g : Nat) : State :=
  (s.setGrp g fun (x : SenseGroup) => { x with pend := some (s.staged g) }).putBit (Reg.SENSE_STAT g) 6 true

def State.writeCommit (s : State) (req : Requester) (g v : Nat) : State :=
  if !v.testBit 0 then s
  else if tableValid (s.staged g) then s.commitTable g else s.quiet req (Reg.SENSE_SEQ_COMMIT g) Cause.RESERVED_ENC

/-- R487: the SENSE pages are released: the restored tables are committed as by SEQ_COMMIT. -/
def State.senseRelease (s : State) : State :=
  s.each (List.range 4) fun s g => if tableValid (s.staged g) then s.commitTable g else s.pageErr (sensePage g) 0x10C Cause.RESERVED_ENC true

/-! ## Urgent conversions (R479) -/

/-- Urgent request of a page. -/
def State.urg (s : State) (k : Nat) : Option (Nat × Nat) := if k < 4 then (s.grp k).urg else s.sns.urg
def State.setUrg (s : State) (k : Nat) (u : Option (Nat × Nat)) : State :=
  if k < 4 then s.setGrp k fun (x : SenseGroup) => { x with urg := u } else { s with sns := { s.sns with urg := u } }

/-- R479: the first cause that drops a request of page `k`; 0 none. -/
def State.urgCause (s : State) (k : Nat) : Nat :=
  if (if k < 4 then s.seqOn k else decide (s.spare = 7) || s.conv' s.spare == 2) then 1
  else if (if k < 4 then (s.grp k).inc.isSome else s.sns.groups.any fun g => g.inc.isSome) then 2
  else if (s.urg k).isSome then 3 else 0

/-- R479: a write of `v` to URG of page `k`. -/
def State.writeUrg (s : State) (req : Requester) (k v : Nat) : State :=
  let i := if k < 4 then fld v 3 0 else fld v 5 0
  if !v.testBit 31 then s
  else if (if k < 4 then 12 else 48) ≤ i then s.quiet req (Reg.SENSE_URG k) Cause.RESERVED_ENC
  else
    let c := s.urgCause k
    let s := s.putF (Reg.SENSE_URG_RESULT k) 31 30 0
    if c = 0 then s.setUrg k (some (i, s.clk.base))
    else (((s.cnt (Reg.SENSE_URG_DROP k)).putF (Reg.SENSE_URG_RESULT k) 29 28 c).putBit (Reg.SENSE_URG_RESULT k) 30 true).evt (sensePage k) 1

/-! ## Commands -/

/-- SENSE_CONVERSION: at base tick `t` the converter of group `g` delivers the result `raw` of its next slot, before limiting to 14
bits; `other` is what the incoming converter of an overlap frame gives. -/
def execSenseConversion (g : Nat) (raw other : Int) (t : Nat) (s : State) : Host.Outcome State Fault Refusal :=
  let s := s.tickTo t
  .next (if 4 ≤ g ∨ s.boot.held ∨ 2 ≤ s.park.stage ∨ !s.seqOn g ∨ s.grpFailed g then s
    else
      let s := if (s.grp g).table.length ≤ (s.grp g).slot then s.frameEnd g true false else s
      s.sensed g raw other)

/-- SENSE_FRAME_BOUNDARY: at base tick `t` group `g` has ended a pass of its table. `refOk` is the result of a check of an outgoing
converter against the reference (R478); `fail` tells that the converter serving the group has failed (R486). -/
def execSenseFrameBoundary (g : Nat) (refOk fail : Bool) (t : Nat) (s : State) : Host.Outcome State Fault Refusal :=
  let s := s.tickTo t
  .next (if 4 ≤ g ∨ s.boot.held ∨ 2 ≤ s.park.stage ∨ !s.seqOn g ∨ s.grpFailed g ∨ (s.grp g).slot < (s.grp g).table.length then s else s.frameEnd g refOk fail)

/-- SEQ_COMMIT: a write of `value` to SEQ_COMMIT of group `g`. -/
def execSeqCommit (req : Requester) (g value : Nat) (s : State) : Host.Outcome State Fault Refusal :=
  .next (if g < 4 then s.checkedWrite req (Reg.SENSE_SEQ_COMMIT g) 4 fun s => s.writeCommit req g value else s)

/-- SENSE_SWAP_DUE: at base tick `t` CAL_PERIOD has passed since the last swap, or a retry is open: the next group in order that has not
failed is due; it waits while that group's SEQ_EN is 0 (R482). -/
def execSenseSwapDue (t : Nat) (s : State) : Host.Outcome State Fault Refusal :=
  let s := s.tickTo t
  let z := s.sns
  .next (match (List.range 4).find? fun k => !s.grpFailed ((z.turn + k) % 4) with
    | none => s
    | some k =>
      let g := (z.turn + k) % 4
      if s.boot.held ∨ 2 ≤ s.park.stage ∨ !s.bit Reg.SENSE4_CTL 0 ∨ s.spare = 7 ∨ s.conv' s.spare ≠ 1 ∨ z.due.isSome ∨ !s.seqOn g
          ∨ (!z.retry ∧ s.clk.base < z.lastSwap + 400000 * s.getF Reg.SENSE4_CAL_PERIOD 15 0) then s
      else { s with sns := { s.sns with due := some g } })

/-- SPARE_CALIBRATION_DONE: at base tick `t` the 1 ms calibration of the spare converter ends, well or not (`ok`). -/
def execSpareCalibrationDone (ok : Bool) (t : Nat) (s : State) : Host.Outcome State Fault Refusal :=
  let s := s.tickTo t
  .next (match s.sns.cal with
    | none => s
    | some b =>
      if s.boot.held ∨ s.clk.base < b + 400000 ∨ s.spare = 7 ∨ !s.bit Reg.SENSE4_CTL 0 then s
      else
        let s := { s with sns := { s.sns with cal := none } }
        (if ok then s.setConv s.spare 1 else (s.convLost s.spare false).putF Reg.SENSE4_STAT 2 0 7).spareShow)

/-- URGENT_CONVERSION_REQUEST: a write of `value` to URG of page `k`. -/
def execUrgentConversionRequest (req : Requester) (k value : Nat) (s : State) : Host.Outcome State Fault Refusal :=
  .next (if k < 5 then s.checkedWrite req (Reg.SENSE_URG k) 4 fun s => s.writeUrg req k value else s)

/-- URGENT_CONVERSION_DONE: at base tick `t` the result `raw` of page `k`'s request is out, 125 ns after its slot. -/
def execUrgentConversionDone (k : Nat) (raw : Int) (t : Nat) (s : State) : Host.Outcome State Fault Refusal :=
  let s := s.tickTo t
  .next (match s.urg k with
    | none => s
    | some (i, b) =>
      if 5 ≤ k ∨ 2 ≤ s.park.stage ∨ s.clk.base < b + 50 then s
      else
        let g := if k < 4 then k else i % 16 / 4
        let c := senseCode raw
        let s := (s.setUrg k none).putF (Reg.SENSE_URG_RESULT k) 15 0 (enc 16 c.1)
        let s := (s.putBit (Reg.SENSE_URG_RESULT k) 31 true).evt (sensePage k) 0
        if c.2 then (s.cnt (Reg.SENSE_CLIP_CNT g)).evt (sensePage g) 2 else s)

end Sys2Proof.Machine
end

