-- ==== Sys2Proof/Machine/Strm.lean ====
section
/-! DEFINITION. The host streams, the data port and the load engine of the waveform sequencer (R533, R534, R536 to R539, R542). -/

namespace Sys2Proof.Machine

/-! ## Data port and load engine (R534, R538) -/

/-- Store the word `v` at MEM_ADDR value `a`. In PMEM a low word waits for the high word of its instruction. -/
def State.wseqWord (s : State) (a v : Nat) : State :=
  let o := fld a 18 2 * 4
  if a.testBit 31 then
    if pmemSize ≤ o then s
    else if o % 8 = 0 then { s with wseq := { s.wseq with low := some (o, v) } }
    else
      let s := match s.wseq.low with
        | some (l, w) => if l + 4 = o then s.setIle (pmemBase + l) 4 w else s
        | none => s
      { s with wseq := { s.wseq with low := none } }.setIle (pmemBase + o) 4 v
  else s.setIle (wmemBase + o) 4 v

/-- R538: the next word of the data port. -/
def State.memNext (s : State) : State := s.addWrap Reg.WSEQ_MEM_ADDR 18 2 1

/-- A write of `v` to MEM_DATA. -/
def State.writeMemData (s : State) (req : Requester) (v : Nat) : State :=
  let a := s.rd Reg.WSEQ_MEM_ADDR
  if !a.testBit 31 && s.chimeArea (fld a 18 2 * 4) then
    if !s.world req then s.quiet req Reg.WSEQ_MEM_DATA Cause.WORLD
    else if s.bit Reg.WSEQ_CHIME_CFG 31 then s.quiet req Reg.WSEQ_MEM_DATA Cause.RESERVED_ENC
    else (s.wseqWord a v).memNext
  else (s.wseqWord a v).memNext

/-- MEM_DATA_WRITE: a write of `value` to MEM_DATA. -/
def execMemDataWrite (req : Requester) (value : Nat) (s : State) : Host.Outcome State Fault Refusal :=
  .next (s.checkedWrite req Reg.WSEQ_MEM_DATA 4 fun s => s.writeMemData req (value % 2 ^ 32))

/-- A read of MEM_DATA; `ecc` is the ECC result of the word. A word with an uncorrectable error, or outside PMEM, returns a free
value. -/
def State.readMemData (s : State) (ecc : Nat) : State :=
  let a := s.rd Reg.WSEQ_MEM_ADDR
  let o := fld a 18 2 * 4
  let pm := a.testBit 31
  let e := s.wseqEcc ((if pm then 2 ^ 31 else 0) + o) ecc (!pm && s.chimeArea o)
  let s := e.2.memNext
  if 2 ≤ e.1 ∨ (pm ∧ pmemSize ≤ o) then
    let v := s.fresh 32
    v.2.respOk (leBytes 4 v.1)
  else s.respOk (s.ibytes ((if pm then pmemBase else wmemBase) + o) 4)

/-- MEM_DATA_READ. -/
def execMemDataRead (req : Requester) (ecc : Nat) (s : State) : Host.Outcome State Fault Refusal :=
  .next (s.checkedRead req Reg.WSEQ_MEM_DATA 4 fun s => s.readMemData ecc)

/-- A write of `v` to LD_GO; one while a load runs changes nothing. -/
def State.writeLdGo (s : State) (req : Requester) (v : Nat) : State :=
  if !v.testBit 0 ∨ s.wseq.load.isSome then s
  else
    let l : Load := { src := 2 ^ 32 * s.getF Reg.WSEQ_LD_SRC_HI 15 0 + s.getF Reg.WSEQ_LD_SRC_LO 31 2 * 4
                      dst := s.rd Reg.WSEQ_LD_DST, len := s.getF Reg.WSEQ_LD_LEN 19 2 * 4, heart := s.world req }
    { s with wseq := { s.wseq with load := some l } }.wr Reg.WSEQ_LD_STAT 1

/-- LOAD_ENGINE_GO: a write of `value` to LD_GO. -/
def execLoadEngineGo (req : Requester) (value : Nat) (s : State) : Host.Outcome State Fault Refusal :=
  .next (s.checkedWrite req Reg.WSEQ_LD_GO 4 fun s => s.writeLdGo req value)

/-- The load ends with an error, 0 for none. -/
def State.loadEnd (s : State) (err : Nat) : State :=
  ({ s with wseq := { s.wseq with load := none } }.wr Reg.WSEQ_LD_STAT (16 * err)).evt wseqPage (if err = 0 then 4 else 5)

/-- R534, R538: why a load is refused: 2 RANGE, 3 CHIME, 0 not. -/
def State.loadRefused (s : State) (l : Load) : Nat :=
  let o := fld l.dst 18 2 * 4
  if (if l.dst.testBit 31 then pmemSize else wmemSize) < o + l.len then 2
  else if !l.dst.testBit 31 && ((List.range (l.len / 4)).any fun k => s.chimeArea (o + 4 * k)) && (!l.heart || s.bit Reg.WSEQ_CHIME_CFG 31)
  then 3 else 0

/-- LOAD_ENGINE_DONE: at base tick `t` the load has been made; `env` is what its reads meet. An error stops it
and what was written stays (R542). -/
def execLoadEngineDone (t : Nat) (env : MemEnv) (s : State) : Host.Outcome State Fault Refusal :=
  let s := s.tickTo t
  .next (match s.wseq.load with
    | none => s
    | some l =>
      let c := s.loadRefused l
      if c ≠ 0 then s.loadEnd c
      else
        let r := State.readParts { req := .block Blk.WSEQ 0, heart := l.heart, addr := l.src, len := l.len } false false env
          (lineParts l.src l.len) [] s
        if r.1 = .held then s
        else
          let s := r.2.2.each (List.range (r.2.1.length / 4)) fun s k =>
            s.wseqWord (putFld l.dst 18 2 (fld l.dst 18 2 + k)) (leNat ((r.2.1.drop (4 * k)).take 4))
          s.loadEnd (if r.1 = .done then 0 else 1))

/-! ## Host streams (R536, R537) -/

def State.strm (s : State) (k : Nat) : Stream := s.wseq.strms.getD k {}
def State.setStrm (s : State) (k : Nat) (f : Stream → Stream) : State :=
  { s with wseq := { s.wseq with strms := updAt s.wseq.strms k f } }

/-- Bytes of a sample and of a frame of stream `k`; S24 takes four bytes, as in R529 (log entry 32). -/
def State.strmSize (s : State) (k : Nat) : Nat := if s.bit (Reg.WSEQ_STRM_CFG k) 1 then 4 else 2
def State.strmNch (s : State) (k : Nat) : Nat := s.getF (Reg.WSEQ_STRM_CFG k) 7 4
def State.strmSilent (s : State) (k : Nat) : Bool := s.bit (Reg.WSEQ_STRM_STAT k) 1
def State.urRamp (s : State) (k : Nat) : Nat := s.getF (Reg.WSEQ_STRM_UR_CFG k) 15 0 * 400

/-- R524, R537: a silent stream with UR_SCOPE = CHANNEL silences the main layer of channel `j`. -/
def State.urSilences (s : State) (j : Nat) : Bool :=
  (List.range 4).any fun k => s.strmSilent k && !s.bit (Reg.WSEQ_STRM_CFG k) 8 && s.bit (Reg.WSEQ_STRM_CFG k) (16 + j)

/-- The under-run factors follow the streams, over UR_RAMP of stream `k`. -/
def State.underSync (s : State) (k : Nat) : State :=
  s.each (List.range 16) fun s j =>
    let q := s.urSilences j
    (s.setChan j fun (c : Chan) => { c with under := c.under.to (if q then 0 else 1) s.clk.base (s.urRamp k) }).putBit
      (Reg.WSEQ_CH_STAT j) 4 q

/-- R537: an under-run; none is counted again while the silence holds (log entry 32). -/
def State.underrun (s : State) (k : Nat) : State :=
  if s.strmSilent k then s
  else
    let a := Reg.WSEQ_STRM_STAT k
    let s := (((s.putBit a 0 true).putBit a 1 true).incSat a 31 16).evt wseqPage 3
    (s.setStrm k fun (x : Stream) => { x with level := x.level.to 0 s.clk.base (s.urRamp k) }).underSync k

/-- R537: the silence ends once the FIFO holds RESUME × 64 bytes. -/
def State.strmResume (s : State) (k : Nat) : State :=
  if s.strmSilent k ∧ s.bit (Reg.WSEQ_STRM_CFG k) 0 ∧ s.getF (Reg.WSEQ_STRM_UR_CFG k) 23 16 * 64 ≤ (s.strm k).fifo.length then
    let s := s.putBit (Reg.WSEQ_STRM_STAT k) 1 false
    (s.setStrm k fun (x : Stream) => { x with level := x.level.to 1 s.clk.base (s.urRamp k) }).underSync k
  else s

/-- The samples of a frame. -/
def frameOf (size : Nat) (l : List Byte) : List Int :=
  (List.range (l.length / size)).map fun c =>
    let b := (l.drop (c * size)).take size
    if size = 2 then sgn 16 (leNat b) * 256 else sgn 24 (leNat b)

/-- R536, R537: the frame that an enabled stream gives to the ALE at a tick. -/
def State.streamTake (s : State) (k : Nat) : List Int × State :=
  let n := s.strmNch k * s.strmSize k
  let f := (s.strm k).fifo
  let eos := s.bit (Reg.WSEQ_STRM_CFG k) 2
  let s := if s.strmSilent k then s
    else if n ≤ f.length then s.setStrm k fun (x : Stream) => { x with fifo := f.drop n, frame := frameOf (s.strmSize k) (f.take n) }
    else if eos then s.setStrm k fun (x : Stream) => { x with frame := List.replicate (s.strmNch k) 0 }
    else s.underrun k
  let x := s.strm k
  (x.frame.map fun v => ((v : Rat) * x.level.val s.clk.base).floor, s)

/-- R542: a fetch of stream `k` fails: EN clears and an under-run follows. -/
def State.streamFail (s : State) (k : Nat) : State :=
  (((s.putBit (Reg.WSEQ_STRM_CFG k) 0 false).putBit (Reg.WSEQ_STRM_STAT k) 2 true).evt wseqPage 9).underrun k

/-- STREAM_FETCH: at base tick `t` stream `k` fetches a block; `env` is what the read meets. With EOS the last
block ends at TAIL (log entry 32). -/
def execStreamFetch (k t : Nat) (env : MemEnv) (s : State) : Host.Outcome State Fault Refusal :=
  let s := s.tickTo t
  let size := max (s.rd (Reg.WSEQ_STRM_SIZE k)) 1
  let head := s.rd (Reg.WSEQ_STRM_HEAD k) % size
  let avail := (s.rd (Reg.WSEQ_STRM_TAIL k) % size + size - head) % size
  let n := min 256 avail
  .next (if 4 ≤ k ∨ !s.released Blk.WSEQ ∨ !s.bit (Reg.WSEQ_STRM_CFG k) 0 then s
    else if !s.cEntry then s.streamFail k
    else if 8192 < (s.strm k).fifo.length + 256 ∨ n = 0 ∨ (n < 256 ∧ !s.bit (Reg.WSEQ_STRM_CFG k) 2) then s
    else
      let base := 2 ^ 32 * s.getF (Reg.WSEQ_STRM_BASE_HI k) 15 0 + s.getF (Reg.WSEQ_STRM_BASE_LO k) 31 8 * 256
      let r := s.blockRead Blk.WSEQ 0 (base + head) n env
      match r.1 with
      | .held => s
      | .done => ((r.2.2.setStrm k fun (x : Stream) => { x with fifo := x.fifo ++ r.2.1 }).wr (Reg.WSEQ_STRM_HEAD k)
          ((head + n) % size)).strmResume k
      | _ => r.2.2.streamFail k)

/-- R539: a write of `v` to STRM_ss_CFG: fields other than EN and EOS change only while EN is 0. Enabling clears ERR (log entry 32). -/
def State.writeStrmCfg (s : State) (req : Requester) (k v : Nat) : State :=
  let a := Reg.WSEQ_STRM_CFG k
  let old := s.rd a
  let hold := 0xFFFF01F2
  let s := if old.testBit 0 ∧ ((v ^^^ old) &&& hold) ≠ 0 then
      (s.quiet req a Cause.RESERVED_ENC).regStore req a ((v &&& (0xFFFFFFFF ^^^ hold)) ||| (old &&& hold))
    else s.regStore req a v
  if !old.testBit 0 && v.testBit 0 then (s.putBit (Reg.WSEQ_STRM_STAT k) 2 false).strmResume k else s

/-- R539, R540: a write of `v` to BASE or SIZE, at `a`, of stream `k`: only while EN is 0, and SIZE only in whole blocks. -/
def State.writeStrmRing (s : State) (req : Requester) (k a v : Nat) : State :=
  if s.bit (Reg.WSEQ_STRM_CFG k) 0 ∨ (a = Reg.WSEQ_STRM_SIZE k ∧ v % 256 ≠ 0) then s.quiet req a Cause.RESERVED_ENC
  else s.regStore req a v

end Sys2Proof.Machine
end

