-- ==== Sys2Proof/Machine/Ale.lean ====
section
/-! DEFINITION. The audio loop engine and the audio ports (R562 to R586). The programs of the loop cores are outside this model: their
accesses come as commands of requester ALE_nn. -/

namespace Sys2Proof.Machine

def alePage (n : Nat) : Nat := pageAddr Blk.ALE n
def aportPage (p : Nat) : Nat := pageAddr Blk.APORT p
def State.ale (s : State) (n : Nat) : Ale := s.ales.getD n {}
def State.setAle (s : State) (n : Nat) (f : Ale → Ale) : State := { s with ales := updAt s.ales n f }
def State.aport (s : State) (p : Nat) : Aport := s.aports.getD p {}
def State.setAport (s : State) (p : Nat) (f : Aport → Aport) : State := { s with aports := updAt s.aports p f }
/-- First byte of the TCM of core `n`. -/
def tcmOf (n : Nat) : Nat := tcmBase + 0x40000 * n
def State.aleRun (s : State) (n : Nat) : Bool := s.bit (Reg.ALE_CTL n) 0
def State.aleTk (s : State) (n : Nat) : Nat := s.getF (Reg.ALE_CTL n) 5 4
def State.aleState (s : State) (n v : Nat) : State := s.putF (Reg.ALE_STAT n) 1 0 v
/-- R567: the RNC core. -/
def State.rncCore (s : State) : Nat := s.getF Reg.RSTATE_STOW_CTL 6 4

/-- R582: FUNC_READY.RNC sets once the RNC core runs with a valid set and has completed a wake. -/
def State.rncSync (s : State) : State :=
  let n := s.rncCore
  if s.aleRun n && s.bit (Reg.ALE_CSET_STAT n) 2 && (s.ale n).woke then s.funcReady Fn.RNC else s

/-! ## Tick domains (R564, R565) -/

/-- RATE codes in kHz. -/
def tickKhz (code : Nat) : Nat := [8, 16, 24, 32, 48, 96, 192, 192].getD code 192
def State.tkKhz (s : State) (d : Nat) : Nat := tickKhz (s.getF (Reg.ALE_TK_CFG d) 2 0)
def State.tkEn (s : State) (d : Nat) : Bool := s.bit (Reg.ALE_TK_CFG d) 15
def State.tkFollow (s : State) (d : Nat) : Option Nat :=
  if s.bit (Reg.ALE_TK_CFG d) 4 then some (s.getF (Reg.ALE_TK_CFG d) 10 8) else none
def State.tkCnt (s : State) (d : Nat) : Nat := s.rd (Reg.ALE_TK_CNT d)
def State.tickDom (s : State) (d : Nat) : TickDom := s.ticks.getD d {}
def State.holdover (s : State) (d : Nat) : Bool := s.bit Reg.ALE_AUD_STAT (4 + d)
def State.pllLock (s : State) : Bool := s.bit Reg.ALE_AUD_STAT 0

/-- Index of the tick of domain `d` nearest base tick `t`, and its distance. -/
def State.nearTick (s : State) (d t : Nat) : Nat × Nat :=
  let x := s.tickDom d
  let k := s.tkCnt d
  if x.last ≤ t then
    let e := t - x.last
    if 2 * e ≤ x.period then (k, e) else (k + 1, x.period - e)
  else
    let e := x.last - t
    if 2 * e ≤ x.period then (k, e) else (k - 1, x.period - e)

/-! ## Rings in the TCMs (R570, R571) -/

/-- Core, first byte and length of the ring of a ROUTE entry, where it is enabled. -/
def ringOf (r copies : Nat) : Option (Nat × Nat × Nat) :=
  if r.testBit 3 then some (fld r 2 0, fld r 15 4 * 64, copies * 4 * 2 ^ fld r 19 16) else none

/-- R570, R571: every ring in use. -/
def State.audioRings (s : State) : List (Nat × Nat × Nat) :=
  ((List.range 9).flatMap fun p => if s.bit (Reg.APORT_CTL p) 0 then
      (List.range 32).filterMap fun k => ringOf (s.rd (Reg.APORT_ROUTE p k)) 1 else [])
  ++ (List.range 4).filterMap fun g => if s.bit (Reg.SENSE_CTL g) 1 then ringOf (s.rd (Reg.ALE_SNS_ROUTE g)) 12 else none

/-- A sample with index `k` goes to a ring that starts at `base` of core `n`'s TCM; a place that two rings share holds a free value. -/
def State.ringPut (s : State) (n base log2 k : Nat) (v : Int) : State :=
  let off := (base + 4 * (k % 2 ^ log2)) % 0x40000
  let a := tcmOf n + off
  if 2 ≤ (s.audioRings.filter fun r => decide (r.1 = n) && decide (r.2.1 ≤ off) && decide (off < r.2.1 + r.2.2)).length then
    let x := s.fresh 32
    x.2.setLe a 4 x.1
  else s.setLe a 4 (enc 32 v)

/-- Deposit a sample under a ROUTE entry. -/
def State.routePut (s : State) (r k : Nat) (v : Int) : State := s.ringPut (fld r 2 0) (fld r 15 4 * 64) (fld r 19 16) k v

/-- Slots of a TDM port and inputs of APORT_08. -/
def State.slots (s : State) (p : Nat) : Nat := if p = 8 then 32 else s.getF (Reg.APORT_CTL p) 20 16 + 1
def State.portTk (s : State) (p : Nat) : Nat := s.getF (Reg.APORT_CTL p) 5 4
def State.portEn (s : State) (p : Nat) : Bool := s.bit (Reg.APORT_CTL p) 0
/-- R569: domain of a PDM input, and whether it is INTERNAL at 48 kHz or less. -/
def State.pdmTk (s : State) (i : Nat) : Nat := s.getF (Reg.APORT_ROUTE 8 i) 22 21
def State.pdmTkOk (s : State) (i : Nat) : Bool := (s.tkFollow (s.pdmTk i)).isNone && decide (s.tkKhz (s.pdmTk i) ≤ 48)

/-- R581: receive slots and PDM inputs of domain `d` that have no clock deposit zero at tick `k`. -/
def State.zeroDeposits (s : State) (d k : Nat) : State :=
  let s := s.each (List.range 8) fun s p =>
    if s.portEn p && decide (s.portTk p = d) && (s.bit (Reg.APORT_STAT p) 1 || !s.pllLock) then
      s.each (List.range (s.slots p)) fun s j =>
        let r := s.rd (Reg.APORT_ROUTE p j)
        if r.testBit 3 && !r.testBit 20 then s.routePut r k 0 else s
    else s
  if s.portEn 8 && !s.pllLock then
    s.each (List.range 32) fun s i =>
      let r := s.rd (Reg.APORT_ROUTE 8 i)
      if r.testBit 3 && decide (s.pdmTk i = d) then s.routePut r k 0 else s
  else s

/-! ## Running ports (R581, R582) -/

/-- FUNC_READY.AUDIO_PORTS sets once a port is enabled and every enabled port runs. -/
def State.portsReady (s : State) : State :=
  let on := (List.range 9).filter s.portEn
  if on ≠ [] ∧ (on.all fun p => s.bit (Reg.APORT_STAT p) 0) then s.funcReady Fn.AUDIO_PORTS else s

/-- RUNNING of a port that makes its own clocks. -/
def State.portSync (s : State) (p : Nat) : State :=
  if p = 8 ∨ s.bit (Reg.APORT_CTL p) 1 then (s.putBit (Reg.APORT_STAT p) 0 (s.portEn p && s.pllLock)).portsReady
  else if s.portEn p then s
  else
    let s := (((s.putBit (Reg.APORT_STAT p) 0 false).putBit (Reg.APORT_STAT p) 1 false).lvl (aportPage p) 0 false)
    s.setAport p fun (x : Aport) => { x with lost := none }

/-- R586: TK_BAD. -/
def State.tkBadSync (s : State) : State :=
  let bad := (List.range 32).any fun i => s.bit (Reg.APORT_ROUTE 8 i) 3 && !s.pdmTkOk i
  (s.putBit (Reg.APORT_STAT 8) 1 bad).lvl (aportPage 8) 0 bad

/-! ## Lanes (R567) -/

def State.laneSrc (s : State) (j : Nat) : Nat := if j < 8 then s.getF Reg.ALE_LANE_SRC_LO (4 * j + 3) (4 * j)
  else s.getF Reg.ALE_LANE_SRC_HI (4 * (j - 8) + 3) (4 * (j - 8))
def State.laneOwned (s : State) (n j : Nat) : Bool := decide (s.laneSrc j = n + 8)
def State.angleLane (s : State) (j : Nat) : Bool := s.bit (Reg.WSEQ_CH_CFG j) 8

/-- An ALE sample of channel `j`: with instant `t`, or in ANGLE mode with the number of the first angle instant from `t` on (log entry
33). -/
def State.lanePut (s : State) (j t : Nat) (v : Int) : State :=
  let k := if s.angleLane j then (s.angleAt (s.getF (Reg.WSEQ_CH_CFG j) 10 9) t * (s.angSpt j : Rat) / turn).ceil.toNat else t
  s.setChan j fun (c : Chan) => { c with
    cut := {}
    ale := if c.ale.any fun e => e.1 == k then c.ale.map fun e => if e.1 = k ∧ e.2.isNone then (k, some v) else e
      else ((k, some v) :: c.ale).take 64 }

/-- A sample of channel `j` is expected with instant `t`. -/
def State.laneExpect (s : State) (j t : Nat) : State :=
  if s.angleLane j then s else s.setChan j fun (c : Chan) => { c with ale := ((t, none) :: c.ale).take 64 }

/-! ## Coefficient sets (R575, R577) -/

/-- R577: the sets of ALE `n` swap ports. -/
def State.csetSwitch (s : State) (n : Nat) : State :=
  let s := { s with mem := swapSets (csetIn n) s.mem }.setAle n fun (a : Ale) => { a with cset := none }
  let seq := s.le (csetAct n + 8) 4
  let st := Reg.ALE_CSET_STAT n
  let s := ((s.putBit st 0 (!s.bit st 0)).putBit st 1 false).putBit st 2 true
  let s := ((s.wr (Reg.ALE_CSET_SEQ n) seq).setLe (tcmOf n + 0xF4) 4 seq).incWrap (Reg.ALE_CSET_SW_CNT n) 31 0
  ((s.evt (alePage n) 5).armWindow (16 + n) 14).rncSync

/-- R575: CSET_CTL.EN is set: windows 14 and 15 cover the ports, and window 14 is armed. -/
def State.csetEnable (s : State) (n : Nat) : State :=
  let k := 16 + n
  let s := (s.wr (tkReg k (0x180 + 8 * 14)) 0x30000).wr (tkReg k (0x184 + 8 * 14)) 0x191
  let s := (s.wr (tkReg k (0x180 + 8 * 15)) 0x38000).wr (tkReg k (0x184 + 8 * 15)) 0x191
  s.armWindow k 14

/-- A write of `v` to CSET_CTL. -/
def State.writeCsetCtl (s : State) (req : Requester) (n v : Nat) : State :=
  let old := s.bit (Reg.ALE_CSET_CTL n) 0
  let s := (s.regStore req (Reg.ALE_CSET_CTL n) v).putBit (Reg.ALE_CSET_CTL n) 1 false
  let s := if !old && s.bit (Reg.ALE_CSET_CTL n) 0 then s.csetEnable n else s
  if v.testBit 1 then s.csetLand n else s

/-- COEFFICIENT_COMMIT: a write of `value` to CSET_CTL of ALE `n`. -/
def execCoefficientCommit (req : Requester) (n value : Nat) (s : State) : Host.Outcome State Fault Refusal :=
  .next (if n < 8 then s.checkedWrite req (Reg.ALE_CSET_CTL n) 4 fun s => s.writeCsetCtl req n value else s)

/-! ## A tick (R565 to R567, R571, R577) -/

/-- R571: STREAM_RATE of a sense group over the TK_00 rate, where it is 1, 2 or 4. -/
def State.senseRatio (s : State) (g : Nat) : Option Nat :=
  let r := [48, 96, 192, 192].getD (s.getF (Reg.SENSE_CTL g) 5 4) 192
  let k := s.tkKhz 0
  if r = k then some 1 else if r = 2 * k then some 2 else if r = 4 * k then some 4 else none

/-- R571: the samples that sense group `g` delivers for tick `k`; the decimation filter's output is a free value (log entry 27). -/
def State.senseDeposit (s : State) (g k : Nat) : State :=
  let r := s.rd (Reg.ALE_SNS_ROUTE g)
  if s.bit (Reg.SENSE_CTL g) 1 ∧ r.testBit 3 then
    match s.senseRatio g with
    | none => s
    | some q => s.each (List.range 12) fun s i => s.each (List.range q) fun s x =>
        let v := s.fresh 24
        v.2.ringPut (fld r 2 0) (fld r 15 4 * 64 + i * 4 * 2 ^ fld r 19 16) (fld r 19 16) (q * k + x) (sgn 24 v.1)
  else s

/-- R571: SENSE_RATE_BAD. -/
def State.senseRateSync (s : State) : State :=
  let bad := (List.range 4).any fun g => s.bit (Reg.SENSE_CTL g) 1 && s.bit (Reg.ALE_SNS_ROUTE g) 3 && (s.senseRatio g).isNone
  (s.putBit Reg.ALE_AUD_STAT 1 bad).lvl (alePage 0) 17 bad

/-- R571: the frame of each enabled stream goes to the IO block of STRM_DST. -/
def State.streamDeposit (s : State) : State :=
  s.each (List.range 4) fun s k =>
    if s.bit (Reg.WSEQ_STRM_CFG k) 0 then
      let f := s.streamTake k
      f.2.each (List.range (s.strmNch k)) fun s c => s.setLe (tcmOf (s.getF Reg.ALE_STRM_DST 2 0) + 0x40 + 0x20 * k + 4 * c) 4 (enc 32 (f.1.getD c 0))
    else s

/-- What a tick of domain `d` does at the present base tick. -/
def State.sampleTick (s : State) (d : Nat) : State :=
  let t := s.clk.base
  let s := s.incWrap (Reg.ALE_TK_CNT d) 31 0
  let k := s.tkCnt d
  let s := { s with ticks := updAt s.ticks d fun (x : TickDom) => { last := t, period := if x.last = 0 then 400000 / s.tkKhz d else t - x.last } }
  let s := s.each (List.range 8) fun s n =>
    if s.aleTk n ≠ d then s
    else
      let s := match (s.ale n).cset with
        | some l => if l < t ∧ (s.ale n).await = [] then s.csetSwitch n else s
        | none => s
      if s.aleRun n then
        let s := s.setAle n fun (a : Ale) => { a with wakes := a.wakes ++ [(k, t)] }
        s.each ((List.range 16).filter fun j => s.laneOwned n j) fun s j => s.laneExpect j (t + s.getF (Reg.ALE_WAKE_CFG n) 15 8 * 400)
      else s
  let s := s.zeroDeposits d k
  if d = 0 then
    let s := s.each ((List.range 16).filter fun j => !(s.laneSrc j).testBit 3) fun s j => s.lanePut j t 0
    let s := s.each (List.range 4) fun s g => s.senseDeposit g k
    s.streamDeposit.senseRateSync
  else s

/-- SAMPLE_TICK: at base tick `t` domain `d` ticks. A FOLLOW domain takes its ticks from TDM_FRAME unless its port is lost (R565, R581). -/
def execSampleTick (d t : Nat) (s : State) : Host.Outcome State Fault Refusal :=
  let s := s.tickTo t
  .next (if d < 4 ∧ s.released Blk.ALE ∧ s.tkEn d ∧ ((s.tkFollow d).isNone ∨ s.holdover d) ∧ s.park.stage < 2 then s.sampleTick d else s)

/-! ## Wakes (R566, R567) -/

/-- ALE_WAKE: at base tick `t` WAKE_OFS has passed since a tick of core `n`. -/
def execAleWake (n t : Nat) (s : State) : Host.Outcome State Fault Refusal :=
  let s := s.tickTo t
  .next (match (s.ale n).wakes with
    | [] => s
    | (k, b) :: l =>
      if 8 ≤ n ∨ !s.aleRun n ∨ s.clk.base < b + s.getF (Reg.ALE_WAKE_CFG n) 7 0 * 400 then s
      else
        let s := if (s.ale n).opened.isSome then (s.cnt (Reg.ALE_OVERRUN_CNT n)).evt (alePage n) 0 else s
        let s := s.setAle n fun (a : Ale) => { a with wakes := l, opened := some (k, b) }
        ((s.wr (Reg.ALE_WAKE_IDX n) k).setLe (tcmOf n + 0xF0) 4 k).aleState n 1)

/-- R567: the lanes of core `n` are sent with instant `t`; those of the RNC are zero without a valid set. -/
def State.sendLanes (s : State) (n t : Nat) : State :=
  let mute := !s.bit (Reg.ALE_CSET_STAT s.rncCore) 2
  s.each ((List.range 16).filter fun j => s.laneOwned n j) fun s j =>
    s.lanePut j t (if mute && s.bit Reg.ALE_RNC_CFG (16 + j) then 0 else sgn 24 (s.le (tcmOf n + 4 * j) 4))

/-- A write of `v` to DONE of core `n`. -/
def State.writeDone (s : State) (n v : Nat) : State :=
  if !v.testBit 0 then s
  else match (s.ale n).opened with
    | none => s
    | some (_, b) =>
      let t := b + s.getF (Reg.ALE_WAKE_CFG n) 15 8 * 400
      let s := (s.setAle n fun (a : Ale) => { a with opened := none, woke := true }).aleState n 2
      let s := if t + 1580 < s.clk.base then (s.cnt (Reg.ALE_LATE_CNT n)).evt (alePage n) 1 else s.sendLanes n t
      s.rncSync

/-- ALE_DONE: a write of `value` to DONE of core `n` at base tick `t`. -/
def execAleDone (req : Requester) (n value t : Nat) (s : State) : Host.Outcome State Fault Refusal :=
  let s := s.tickTo t
  .next (if n < 8 then s.checkedWrite req (Reg.ALE_DONE n) 4 fun s => s.writeDone n value else s)

/-- R581: core `n` stops with the fault of `code`: 1 TCM_UE, 2 DOUBLE_TRAP. -/
def State.aleFault (s : State) (n code : Nat) : State :=
  let s := ((s.putBit (Reg.ALE_CTL n) 0 false).aleState n 3).putF (Reg.ALE_STAT n) 7 4 code
  let s := if code = 1 then s.cnt (Reg.ALE_ECC_UE n) else s
  let s := (s.evt (alePage n) 2).emit (.island Isl.AUDIO n)
  let s := s.setAle n fun (a : Ale) => { a with wakes := [], opened := none, woke := false }
  let s := s.each ((List.range 16).filter fun j => s.laneOwned n j) fun s j =>
    s.setChan j fun (c : Chan) => { c with cut := c.cut.to 0 s.clk.base 400000 }
  if n = s.rncCore then s.funcLost Fn.RNC else s

/-- ALE_CORE_FAULT: at base tick `t` core `n` meets the fault of `code`. -/
def execAleCoreFault (n code t : Nat) (s : State) : Host.Outcome State Fault Refusal :=
  let s := s.tickTo t
  .next (if n < 8 ∧ s.aleRun n ∧ (code = 1 ∨ code = 2) then s.aleFault n code else s)

/-! ## Ports (R568 to R570, R581) -/

/-- The 24-bit code of a received slot of `w` bits. -/
def slotCode (w v : Nat) (d24 : Bool) : Nat :=
  let x := if w = 16 then v % 2 ^ 16 * 256 else v % 2 ^ w / 2 ^ (w - 24)
  if d24 then x else x / 256 * 256

def State.slotW (s : State) (p : Nat) : Nat := [16, 24, 32, 32].getD (s.getF (Reg.APORT_CTL p) 13 12) 32

/-- R570: the slots of frame `k` of port `p`. -/
def State.frameSlots (s : State) (p k : Nat) (rx : List Nat) : State :=
  let d24 := s.bit (Reg.APORT_CTL p) 14
  let route (j : Nat) : Nat := s.rd (Reg.APORT_ROUTE p j)
  let tx := (List.range (s.slots p)).map fun j =>
    let r := route j
    if r.testBit 3 && r.testBit 20 then
      let v := s.le (tcmOf (fld r 2 0) + (fld r 15 4 * 64 + 4 * (k % 2 ^ fld r 19 16)) % 0x40000) 4 % 2 ^ 24
      if d24 then v else v / 256 * 256
    else 0
  let s := s.emit (.audio p tx)
  s.each (List.range (s.slots p)) fun s j =>
    let r := route j
    if r.testBit 3 && !r.testBit 20 then s.routePut r k (sgn 24 (slotCode (s.slotW p) (rx.getD j 0) d24)) else s

/-- The domains that follow port `p`. -/
def State.followed (s : State) (p : Nat) : List Nat := (List.range 4).filter fun d => s.tkEn d && s.tkFollow d == some p

/-- R568: frame of port `p` that starts at the present base tick; a slave's gives its domain a tick, or takes the nearest one. -/
def State.portFrame (s : State) (p : Nat) (rx : List Nat) : State :=
  let t := s.clk.base
  let slave := !s.bit (Reg.APORT_CTL p) 1
  let s := s.setAport p fun _ => { start := t, lost := none }
  let s := if slave then
      (((s.putBit (Reg.APORT_STAT p) 0 true).putBit (Reg.APORT_STAT p) 1 false).lvl (aportPage p) 0 false).portsReady else s
  let s := if slave then s.each (s.followed p) fun s d => (s.putBit Reg.ALE_AUD_STAT (4 + d) false).sampleTick d else s
  let d := s.portTk p
  let n := s.nearTick d t
  let s := if slave && !(s.followed p).contains d && decide ((s.tickDom d).period < 4 * n.2) then
      (s.cnt (Reg.APORT_SLIP_CNT p)).evt (aportPage p) 1 else s
  (s.incWrap (Reg.APORT_FRAME_CNT p) 31 0).frameSlots p n.1 rx

/-- TDM_FRAME: a frame of TDM port `p` starts at base tick `t`; `rx` are the words of its slots on SDI. -/
def execTdmFrame (p : Nat) (rx : List Nat) (t : Nat) (s : State) : Host.Outcome State Fault Refusal :=
  let s := s.tickTo t
  .next (if p < 8 ∧ s.released Blk.APORT ∧ s.portEn p ∧ s.pllLock ∧ s.park.stage < 2 then s.portFrame p rx else s)

/-- PDM_SAMPLE: the decimator of PDM input `i` delivers the sample with tick index `k` at base tick `t`; `v` is its value before
saturation at full scale (R569). -/
def execPdmSample (i k : Nat) (v : Int) (t : Nat) (s : State) : Host.Outcome State Fault Refusal :=
  let s := s.tickTo t
  let r := s.rd (Reg.APORT_ROUTE 8 i)
  .next (if i < 32 ∧ s.released Blk.APORT ∧ s.portEn 8 ∧ s.pllLock ∧ s.bit (Reg.APORT_CTL 8) (4 + i / 8) ∧ r.testBit 3 ∧ s.pdmTkOk i
      ∧ s.tkEn (s.pdmTk i) ∧ s.park.stage < 2 then
    let clip := v < -8388607 ∨ 8388607 < v
    let s := if clip then (s.cnt (Reg.APORT_SLIP_CNT 8)).evt (aportPage 8) 1 else s
    s.routePut r k (max (-8388607) (min 8388607 v))
  else s)

/-- FRAME_START_LOST: at base tick `t` slave port `p` has had no frame start for 2 tick periods; 1 ms after that AUDIO_PORTS is lost. -/
def execFrameStartLost (p t : Nat) (s : State) : Host.Outcome State Fault Refusal :=
  let s := s.tickTo t
  let x := s.aport p
  .next (if 8 ≤ p ∨ !s.released Blk.APORT ∨ !s.portEn p ∨ s.bit (Reg.APORT_CTL p) 1 then s
    else match x.lost with
      | some b => if b + 400000 ≤ s.clk.base then s.funcLost Fn.AUDIO_PORTS else s
      | none =>
        if s.clk.base < x.start + 800000 / s.tkKhz (s.portTk p) then s
        else
          let s := (s.setAport p fun (y : Aport) => { y with lost := some s.clk.base }).putBit (Reg.APORT_STAT p) 0 false
          let s := (s.putBit (Reg.APORT_STAT p) 1 true).lvl (aportPage p) 0 true
          (s.emit (.audio p (List.replicate (s.slots p) 0))).each (s.followed p) fun s d => s.putBit Reg.ALE_AUD_STAT (4 + d) true)

/-- AUDIO_PLL_UNLOCK (R581). -/
def execAudioPllUnlock (s : State) : Host.Outcome State Fault Refusal :=
  .next (if s.released Blk.ALE ∧ s.pllLock then
    let s := (s.putBit Reg.ALE_AUD_STAT 0 false).lvl (alePage 0) 16 true
    (s.each (List.range 9) fun s p => s.putBit (Reg.APORT_STAT p) 0 false).funcLost Fn.AUDIO_PORTS
  else s)

/-- AUDIO_PLL_RELOCK: the PLL is in lock again: ports with clocks of their own run, slaves from their next frame start. -/
def execAudioPllRelock (s : State) : Host.Outcome State Fault Refusal :=
  .next (if s.released Blk.ALE ∧ !s.pllLock then
    let s := (s.putBit Reg.ALE_AUD_STAT 0 true).lvl (alePage 0) 16 false
    s.each (List.range 9) fun s p => s.portSync p
  else s)

/-! ## Export (R573, R574, R581) -/

namespace ExpErr
abbrev ACCESS : Nat := 1
abbrev TICKET : Nat := 2
abbrev POISON : Nat := 3
abbrev TIMEOUT : Nat := 4
end ExpErr

def State.expSync (s : State) (n : Nat) : State := s.putF (Reg.ALE_EXP_STAT n) 2 0 (s.ale n).queue.length
/-- The running transfer leaves the queue. -/
def State.expPop (s : State) (n : Nat) : State := (s.setAle n fun (a : Ale) => { a with queue := a.queue.tail, tag := none, ask := none, sent := false }).expSync n

/-- R574: a transfer fails and is discarded. -/
def State.expDrop (s : State) (n err : Nat) : State :=
  ((((s.expPop n).putF (Reg.ALE_EXP_STAT n) 6 4 err).cnt (Reg.ALE_EXP_DROP_CNT n)).evt (alePage n) 4)

/-- R574: what an answer other than a refusal does. -/
def State.expAsked (s : State) (n : Nat) (r : Asked) : State :=
  match r with
  | .tag v => s.setAle n fun (x : Ale) => { x with tag := some v, ask := none }
  | .none => s.setAle n fun (x : Ale) => { x with ask := none }
  | .wait => s.setAle n fun (x : Ale) => { x with ask := some (x.ask.getD s.clk.base) }
  | .refused => s

/-- R574: the running transfer asks for its ticket; one refused for good is discarded and the next asks. -/
def State.expAsk (n : Nat) : Nat → State → State
  | 0, s => s
  | fuel + 1, s =>
    match (s.ale n).queue.head? with
    | none => s
    | some q =>
      match q.tkt, officeOf q.dst with
      | true, some k =>
        let a := s.askTicket k (s.access (.block Blk.ALE n) q.dst q.len true []) q.len false
        match a.1 with
        | .refused => expAsk n fuel (a.2.expDrop n ExpErr.TICKET)
        | r => a.2.expAsked n r
      | _, _ => s

def State.expStart (s : State) (n : Nat) : State := s.expAsk n 4
/-- A transfer fails; the queue goes on. -/
def State.expFail (s : State) (n err : Nat) : State := (s.expDrop n err).expStart n

/-- R573: a write of `v` to EXP_PUSH. -/
def State.writeExpPush (s : State) (req : Requester) (n v : Nat) : State :=
  let len := s.getF (Reg.ALE_EXP_LEN n) 16 0
  if !v.testBit 0 then s
  else if len = 0 ∨ len % 64 ≠ 0 ∨ 65536 < len ∨ 4 ≤ (s.ale n).queue.length then s.quiet req (Reg.ALE_EXP_PUSH n) Cause.RESERVED_ENC
  else
    let q : Export := {
      src := s.getF (Reg.ALE_EXP_SRC n) 17 6 * 64
      dst := 2 ^ 32 * s.getF (Reg.ALE_EXP_DST_HI n) 15 0 + s.getF (Reg.ALE_EXP_DST_LO n) 31 6 * 64
      len := len, tkt := v.testBit 1, irq := v.testBit 2, db := v.testBit 4, ring := fld v 13 8 }
    let first := decide ((s.ale n).queue = [])
    let s := (s.setAle n fun (a : Ale) => { a with queue := a.queue ++ [q] }).expSync n
    if first then s.expStart n else s

/-- EXPORT_PUSH: a write of `value` to EXP_PUSH of ALE `n`. -/
def execExportPush (req : Requester) (n value : Nat) (s : State) : Host.Outcome State Fault Refusal :=
  .next (if n < 8 then s.checkedWrite req (Reg.ALE_EXP_PUSH n) 4 fun s => s.writeExpPush req n value else s)

/-- R574: an export whose bytes have left completes once every write beyond the device is acknowledged (R641, R651). -/
def State.expEnd (s : State) (n : Nat) (q : Export) : State :=
  match s.acks (.block Blk.ALE n) q.dst q.len with
  | 0 =>
    let s := (s.expPop n).incWrap (Reg.ALE_EXP_STAT n) 31 16
    let s := if q.irq then s.evt (alePage n) 3 else s
    (if q.db then s.blockDoorbell Blk.ALE n q.ring else s).expStart n
  | 1 => s.setAle n fun (x : Ale) => { x with sent := true }
  | _ => (s.dropAcks (.block Blk.ALE n) q.dst q.len).expFail n ExpErr.ACCESS

/-- EXPORT_DONE: at base tick `t` the running transfer of ALE `n` has written its bytes; `env` is what its TCM reads and
its writes meet. -/
def execExportDone (n : Nat) (env : MemEnv) (t : Nat) (s : State) : Host.Outcome State Fault Refusal :=
  let s := s.tickTo t
  .next (match (s.ale n).queue.head? with
    | none => s
    | some q =>
      if 8 ≤ n ∨ (s.ale n).ask.isSome ∨ s.getF (Reg.ALE_STAT n) 1 0 = 3 then s
      else if (s.ale n).sent then s.expEnd n q
      else
        let e := s.eccResult (alePage n) (tcmOf n) (s.access (.block Blk.ALE n) (tcmOf n + q.src) q.len false []) 8 env
        let s' := if e.1 = 1 then e.2.2.cnt (Reg.ALE_ECC_CE n) else if 2 ≤ e.1 then e.2.2.cnt (Reg.ALE_ECC_UE n) else e.2.2
        if 2 ≤ e.1 then s'.expFail n ExpErr.POISON
        else
          let data := (List.range q.len).map fun k => s'.byte (tcmOf n + (q.src + k) % 0x40000)
          let w := s'.writeRange { s'.access (.block Blk.ALE n) q.dst q.len true data with tkt := (s.ale n).tag } (decide (targetOf q.dst = .tcm n)) false env
          match w.1 with
          | .held => s
          | .done => w.2.expEnd n q
          | .error => w.2.expFail n ExpErr.ACCESS
          | .poison => w.2.expFail n ExpErr.POISON
          | .lost => w.2.expFail n ExpErr.TIMEOUT)

/-- R574: an export that waits for its ticket asks again. -/
def State.expRetry (s : State) (n : Nat) : State := if (s.ale n).ask.isSome then s.expStart n else s
/-- R574: it has waited EXP_WAIT µs. -/
def State.expWaitExpired (s : State) (n : Nat) : State :=
  match (s.ale n).ask with
  | some b => if b + s.getF (Reg.ALE_EXP_WAIT n) 15 0 * 400 ≤ s.clk.base then s.expFail n ExpErr.TICKET else s
  | none => s

/-! ## Register writes (R568, R578) -/

/-- A write of `v` to `a` of which the bits of `hold` may not change. -/
def State.heldWrite (s : State) (req : Requester) (a v hold : Nat) : State :=
  let old := s.rd a
  if ((v ^^^ old) &&& hold) ≠ 0 then (s.quiet req a Cause.RESERVED_ENC).regStore req a ((v &&& (0xFFFFFFFF ^^^ hold)) ||| (old &&& hold))
  else s.regStore req a v

/-- A write of `v` to CTL of ALE `n`. -/
def State.writeAleCtl (s : State) (req : Requester) (n v : Nat) : State :=
  let a := Reg.ALE_CTL n
  let old := s.bit a 0
  let s := s.heldWrite req a v (if old then 0x30 else 0)
  if !old && v.testBit 0 then (s.wr (Reg.ALE_STAT n) 1).expStart n
  else if old && !v.testBit 0 then
    let s := (s.setAle n fun (x : Ale) => { x with wakes := [], opened := none, woke := false }).aleState n 0
    if n = s.rncCore then s.funcLost Fn.RNC else s
  else s

/-- A write of `v` to WAKE_CFG: only while the core does not run, and OUT_OFS not below WAKE_OFS. -/
def State.writeWakeCfg (s : State) (req : Requester) (n v : Nat) : State :=
  if s.aleRun n ∨ fld v 15 8 < fld v 7 0 then s.quiet req (Reg.ALE_WAKE_CFG n) Cause.RESERVED_ENC else s.regStore req (Reg.ALE_WAKE_CFG n) v

/-- A core, port or PDM input uses domain `d`. -/
def State.tkUsed (s : State) (d : Nat) : Bool :=
  ((List.range 8).any fun n => s.aleRun n && decide (s.aleTk n = d)) || ((List.range 8).any fun p => s.portEn p && decide (s.portTk p = d))
    || (s.portEn 8 && (List.range 32).any fun i => s.bit (Reg.APORT_ROUTE 8 i) 3 && decide (s.pdmTk i = d))

/-- A write of `v` to TK_dd_CFG. -/
def State.writeTkCfg (s : State) (req : Requester) (d v : Nat) : State :=
  if s.tkUsed d then s.quiet req (Reg.ALE_TK_CFG d) Cause.RESERVED_ENC
  else ((s.regStore req (Reg.ALE_TK_CFG d) v).putBit Reg.ALE_AUD_STAT (4 + d) false).tkBadSync

/-- A write of `v` to SNS_ROUTE_gg. -/
def State.writeSnsRoute (s : State) (req : Requester) (g v : Nat) : State :=
  if s.bit (Reg.SENSE_CTL g) 1 then s.quiet req (Reg.ALE_SNS_ROUTE g) Cause.RESERVED_ENC else s.regStore req (Reg.ALE_SNS_ROUTE g) v

/-- R568: CTL value `v` of a TDM port is a master whose clock its domain and AMCLK cannot give. -/
def State.masterBad (s : State) (v : Nat) : Bool :=
  v.testBit 1 && ((s.tkFollow (fld v 5 4)).isSome
    || decide (49152 % (s.tkKhz (fld v 5 4) * (fld v 20 16 + 1) * [16, 24, 32, 32].getD (fld v 13 12) 32) ≠ 0))

/-- A write of `v` to CTL of port `p`: while EN is 1 only EN changes; a master setting that R568 reserves keeps MASTER, TK, SLOT_W and
SLOTS. -/
def State.writeAportCtl (s : State) (req : Requester) (p v : Nat) : State :=
  let a := Reg.APORT_CTL p
  let old := s.bit a 0
  let s := s.heldWrite req a v (if old then 0xFFFFFFFE else if p < 8 ∧ s.masterBad v then 0x001F3032 else 0)
  let s := if !old && s.bit a 0 then s.setAport p fun _ => { start := s.clk.base } else s
  let s := s.portSync p
  if (List.range 9).any s.portEn then s else s.funcLost Fn.AUDIO_PORTS

/-- A write of `v` to ROUTE entry `k` of port `p`: only while the port's EN is 0. -/
def State.writeAportRoute (s : State) (req : Requester) (p k v : Nat) : State :=
  if s.portEn p then s.quiet req (Reg.APORT_ROUTE p k) Cause.RESERVED_ENC
  else
    let s := s.regStore req (Reg.APORT_ROUTE p k) v
    if p = 8 then s.tkBadSync else s

/-! ## Release and P4 entry (R580, R582) -/

/-- R582: release at Stage B, with the retained fields and the coefficient set of the image in use restored. -/
def State.aleRelease (s : State) : State :=
  let n := s.rncCore
  let s := match s.boot.rnc with
    | some set =>
      let s := s.setBytes (csetAct n) set
      if s.csetValid (csetAct n) then
        let seq := s.le (csetAct n + 8) 4
        ((s.putBit (Reg.ALE_CSET_STAT n) 2 true).wr (Reg.ALE_CSET_SEQ n) seq).setLe (tcmOf n + 0xF4) 4 seq
      else (s.cnt (Reg.ALE_CSET_REJ n)).evt (alePage n) 6
    | none => s
  let s := s.each (List.range 8) fun s n => if s.bit (Reg.ALE_CSET_CTL n) 0 then s.csetEnable n else s
  let s := s.each ((List.range 8).filter fun n => s.bit Reg.ALE_AUD_CFG (8 + n)) fun s n => (s.putBit (Reg.ALE_CTL n) 0 true).aleState n 1
  let s := (s.putBit Reg.ALE_AUD_STAT 0 true).tkBadSync
  s.each (List.range 9) fun s p => (s.setAport p fun _ => { start := s.clk.base }).portSync p

/-- R580: at P4 entry cores and ports stop. -/
def State.alePark (s : State) : State :=
  let s := s.each (List.range 8) fun s n =>
    ((s.putBit (Reg.ALE_CTL n) 0 false).aleState n 0).setAle n fun (a : Ale) => { a with wakes := [], opened := none }
  s.each (List.range 9) fun s p => s.putBit (Reg.APORT_STAT p) 0 false

end Sys2Proof.Machine
end

