-- ==== Sys2Proof/Machine/Casc.lean ====
section
/-! DEFINITION. The cascade (R104, R654 to R658, R661, R662): sync frames, echo markers, a member that follows its master. -/

namespace Sys2Proof.Machine

def cascPage : Nat := pageAddr Blk.CASC 0

/-- STAT.STATE and ROLE of CASC_00 (R665). -/
def State.cascState (s : State) : Nat := s.getF Reg.CASC_STAT 2 0
def State.cascRole (s : State) : Nat := s.getF Reg.CASC_STAT 5 4
def State.cascSlot (s : State) : Nat := s.getF Reg.CASC_STAT 17 16
def State.setCasc (s : State) (f : Casc → Casc) : State := { s with casc := f s.casc }

/-- STAT.ALIGNED and its level (R657, R665). -/
def State.setAligned (s : State) (b : Bool) : State := (s.putBit Reg.CASC_STAT 6 b).lvl cascPage 2 b

/-- GROUP of this node in the committed tables (R659). -/
def State.cascGroup (s : State) : Nat := s.getF (Reg.RLINK_NODE_INFO s.nodeId) 19 16

/-- Members of the own group in the committed tables. -/
def State.cascMembers (s : State) : Nat :=
  ((List.range 64).filter fun n => s.nodeKnown n && decide (s.getF (Reg.RLINK_NODE_INFO n) 26 24 = 2)
    && decide (s.getF (Reg.RLINK_NODE_INFO n) 19 16 = s.cascGroup)).length

/-! ## The sync frame (R655, R656) -/

/-- One bit and one byte of CRC-16/CCITT-FALSE: polynomial 0x1021, most significant bit first (log entry 31). -/
def crc16Bit (c : Nat) : Nat := if c / 0x8000 % 2 = 1 then (c * 2 % 0x10000) ^^^ 0x1021 else c * 2 % 0x10000
def crc16Byte (c : Nat) (b : Byte) : Nat :=
  crc16Bit (crc16Bit (crc16Bit (crc16Bit (crc16Bit (crc16Bit (crc16Bit (crc16Bit (c ^^^ (b.toNat * 256)))))))))
def crc16 (l : List Byte) : Nat := l.foldl crc16Byte 0xFFFF

/-- Bytes of domain `d` in a frame. -/
def State.frameDom (s : State) (d : Nat) : List Byte :=
  leBytes 4 (s.rd (Reg.ANGLE_DOM_ANGLE d)) ++ leBytes 4 (s.rd (Reg.ANGLE_DOM_SPEED d))
  ++ leBytes 2 (enc 16 (clampS 16 (s.rdS (Reg.ANGLE_DOM_ACCEL d) / 256)))
  ++ leBytes 1 (s.effQ d + (s.slewing d).toNat * 4 + (s.stopped d).toNat * 8 + (s.bit (Reg.ANGLE_DOM_STAT d) 15).toNat * 16
    + (s.acquiring d).toNat * 32)

/-- Bytes of tick domain `d` in a frame: count and phase. -/
def State.frameTick (s : State) (d : Nat) : List Byte :=
  if s.tkEn d then
    let k := s.tickDom d
    leBytes 2 (s.tkCnt d) ++ leBytes 2 (min 65535 (65536 * (s.clk.base - k.last) / max k.period 1))
  else leBytes 4 0

/-- The frame that the master sends now; the next sample of FDIG_00 is number `n`. -/
def State.cascFrame (s : State) : List Byte :=
  let b := leBytes 1 s.casc.seq ++ leBytes 1 (s.cascGroup + min 3 s.cascMembers * 16) ++ leBytes 8 s.timeNs
    ++ (List.range 3).flatMap (fun d => s.frameDom d) ++ (List.range 4).flatMap (fun d => s.frameTick d)
    ++ leBytes 4 ((s.fdig 0).n - 1) ++ (List.range 3).flatMap fun k => leBytes 2 (min 65535 (s.rd (Reg.CASC_DLY (k + 1))))
  b ++ leBytes 2 (crc16 b)

/-- The field of `n` bytes at an offset of a frame. -/
def frameFld (l : List Byte) (off n : Nat) : Nat := leNat ((l.drop off).take n)

/-! ## Master -/

/-- R662: a marker of slot `k` + 1 did not come before the next frame. -/
def State.missMarker (s : State) (k : Nat) : State :=
  let m := s.casc.miss.getD k 16
  let s := s.setCasc fun c => { c with miss := c.miss.set k (min 16 (m + 1)) }
  if m = 15 then s.cnt Reg.CASC_FRAME_ERR else s

/-- ALIGNED of the master: every member's marker comes (log entry 38). -/
def State.masterAligned (s : State) : State :=
  let n := min 3 s.cascMembers
  s.setAligned (decide (0 < n) && (List.range n).all fun k => decide (s.casc.miss.getD k 16 < 16))

/-- SYNC_FRAME_TX: at base tick `t` the frame instant of the master comes, every 2 µs from 10 µs after the COMMIT on. -/
def execSyncFrameTx (t : Nat) (s : State) : Host.Outcome State Fault Refusal :=
  let s := s.tickTo t
  .next (if s.released Blk.CASC ∧ s.cascRole = 1 ∧ s.park.stage < 2 ∧ s.casc.since + 4000 ≤ s.clk.base
      ∧ (s.casc.lastTx = 0 ∨ s.casc.lastTx + 800 ≤ s.clk.base) then
    let s := s.emit (.casc 0 (s.cascFrame.map fun (b : Byte) => b.toNat))
    let s := s.each (List.range (min 3 s.cascMembers)) fun s k => s.missMarker k
    (s.setCasc fun c => { c with seq := (c.seq + 1) % 256, lastTx := s.clk.base }).masterAligned
  else s)

/-- ECHO_MARKER_RX: the master times the marker of `slot`: a round trip of `rt` ps (R655; log entry 38). -/
def execEchoMarkerRx (slot rt : Nat) (s : State) : Host.Outcome State Fault Refusal :=
  .next (if s.released Blk.CASC ∧ s.cascRole = 1 ∧ 1 ≤ slot ∧ slot ≤ 3 then
    ((s.wr (Reg.CASC_DLY slot) (min (rt / 2 - Config.turnaround) 0xFFFFFFFF)).setCasc fun c =>
      { c with miss := c.miss.set (slot - 1) 0 }).masterAligned
  else s)

/-! ## Member -/

/-- R104, R657: domain `d` takes the values of a frame whose instant lies `dly` ps before now; at adoption by a slew. -/
def State.domFollow (s : State) (d : Nat) (f : List Byte) (dly : Nat) (adopt : Bool) : State :=
  let t := s.clk.base
  let s := if s.bit Reg.ANGLE_CTL 0 then s.domRun d t else s
  let D := s.adom d
  let o := 10 + 11 * d
  let w : Rat := (sgn 32 (frameFld f (o + 4) 4) : Rat) / 256 / 400000
  let a : Rat := (sgn 16 (frameFld f (o + 8) 2) : Rat) / 160000000000
  let st := frameFld f (o + 10) 1
  let e : Rat := (dly : Rat) / 2500
  let own := (if adopt then D.pub else D.ref.eval t).floor
  let ang : Rat := ((own + sgn 32 (enc 32 ((frameFld f o 4 : Int) - own)) : Int) : Rat) + w * e + a * e * e / 2
  let ref : Pred := { t0 := t, ang := ang, w := w + a * e, a := a }
  let s := s.setDom d fun D => { D with ref := ref, dir := if w < 0 then -1 else if 0 < w then 1 else D.dir
                                        slew := if adopt then some { d0 := D.pub - ang, since := t } else D.slew
                                        qual := List.replicate 7 0 }
  let s := if adopt then ((((s.putF (Reg.ANGLE_DOM_STAT d) 6 4 7).putF (Reg.ANGLE_DOM_STAT d) 10 8 7).putBit
    (Reg.ANGLE_DOM_STAT d) 12 true).putBit (Reg.ANGLE_DOM_STAT d) 13 false).putF (Reg.ANGLE_DOM_STAT d) 31 20 7 else s
  (((s.putBit (Reg.ANGLE_DOM_STAT d) 14 (st.testBit 3)).putBit (Reg.ANGLE_DOM_STAT d) 16 (st.testBit 5)).setQ d (st % 4)).holdExp d
    (st.testBit 4)

/-- R657: TIME steps once to the master's, else its rate changes to a free value within MAX_PPM (R90); `locks` where the servo
reaches lock. -/
def State.timeFollow (s : State) (f : List Byte) (dly : Nat) (locks : Bool) : State :=
  let m := 2000000000 * frameFld f 2 8 + 2000000 * dly
  if !s.bit Reg.ANGLE_TIME_STAT 2 && s.bit Reg.ANGLE_TIME_CFG 0 then
    ({ s with clk := { s.clk with time := m }, ang := { s.ang with locked := true } }.putBit Reg.ANGLE_TIME_STAT 2 true).setTimeState 2
  else
    let lim : Int := 1000 * s.getF Reg.ANGLE_TIME_CFG 15 8
    let r := s.fresh 32
    let s := r.2.wrS Reg.ANGLE_TIME_RATE (max (-lim) (min lim (sgn 32 r.1)))
    let s := if locks then { s with ang := { s.ang with locked := true } } else s
    if locks then s.setTimeState 2 else if s.getF Reg.ANGLE_TIME_STAT 1 0 = 2 then s else s.setTimeState 1

/-- R657, R661: the FDIG PLL relocks to CASC_CLK: it loses its lock, which FDIG_PLL_RELOCK gives back (R484). -/
def State.fdigRelock (s : State) : State :=
  let s := s.setCasc fun c => { c with fdSet := false }
  if s.released Blk.FDIG ∧ s.bit (Reg.FDIG_STAT 0) 16 then
    (s.each [0, 1] fun s c => ((s.putBit (Reg.FDIG_STAT c) 16 false).evt (pageAddr Blk.FDIG c) 5).setFdig c fun x => { x with bg := none, fg := none }).fdigSync
  else s

/-- Sample period of FDIG channel `c` in ps (R462, R463, R483). -/
def State.fdPeriod (s : State) (c : Nat) : Nat :=
  match s.getF (Reg.FDIG_RATE c) 1 0 with
  | 1 => 400
  | 2 => 100
  | _ => 200

/-- R656, R657: once relocked, the sample numbers are set to the master's, extended to full width. -/
def State.fdigFollow (s : State) (m dly : Nat) : State :=
  if s.casc.fdSet || !s.released Blk.FDIG || !s.bit (Reg.FDIG_STAT 0) 16 then s
  else
    let s := s.each [0, 1] fun s c => s.setFdig c fun x =>
      { x with n := ((x.n : Int) + sgn 32 (enc 32 ((m : Int) + (dly / s.fdPeriod c : Nat) + 1 - (x.n : Int)))).toNat, off := none, swapN := none }
    s.setCasc fun c => { c with fdSet := true }

/-- R657: what a member does with the values of a frame taken. -/
def State.follow16 (s : State) (f : List Byte) (locks : Bool) : State :=
  let dly := frameFld f (63 + 2 * (s.cascSlot - 1)) 2
  let s := s.wr (Reg.CASC_DLY 1) dly
  let s := s.each (List.range 4) fun s d =>
    s.wrS (Reg.CASC_TK_OFS d) (if s.tkEn d then sgn 16 (enc 16 ((frameFld f (43 + 4 * d) 2 : Int) - (s.tkCnt d : Int))) else 0)
  if s.bit Reg.ANGLE_CTL 1 && s.bit Reg.ANGLE_CTL 0 && decide (16 ≤ s.casc.taken) then
    let adopt := !s.ang.follows || s.casc.lost
    let s := if adopt then ({ s with ang := { s.ang with follows := true } }.setCasc fun c => { c with lost := false }).fdigRelock else s
    let s := (s.timeFollow f dly locks).fdigFollow (frameFld f 59 4) dly
    if s.cascOn then (s.each (List.range 3) fun s d => s.domFollow d f dly adopt).publish else s
  else s

/-- SYNC_FRAME_RX: at base tick `t` the member receives the 71 bytes `f` of a frame (R656). `phase` is the phase error of its time base
in ps; every error is `within` its bound or some lies `beyond` twice its bound (R657); `locks` as TIME is. -/
def execSyncFrameRx (f : List Byte) (phase : Int) (within beyond locks : Bool) (t : Nat) (s : State) : Host.Outcome State Fault Refusal :=
  let s := s.tickTo t
  .next (if !s.released Blk.CASC ∨ s.cascRole ≠ 2 ∨ 2 ≤ s.park.stage then s
    else if f.length ≠ 71 || decide (frameFld f 69 2 ≠ crc16 (f.take 69))
        || s.casc.lastSeq.any fun q => decide (frameFld f 0 1 ≠ (q + 1) % 256) then s.cnt Reg.CASC_FRAME_ERR
    else
      let s := s.setCasc fun c => { c with lastSeq := some (frameFld f 0 1), lastRx := s.clk.base, taken := c.taken + 1, echo := some s.clk.base }
      let s := s.follow16 f locks
      let s := s.wrS Reg.CASC_PHASE_ERR phase
      let s := if !s.cascOn then s else if within then s.setAligned true else if beyond then s.setAligned false else s
      s.putF Reg.CASC_STAT 2 0 (if s.cascOn && (s.bit Reg.CASC_STAT 6 || decide (s.cascState = 3)) then 3 else 2))

/-- ECHO_MARKER_TX: at base tick `t` the slot of this member comes after a frame instant (R655). -/
def execEchoMarkerTx (t : Nat) (s : State) : Host.Outcome State Fault Refusal :=
  let s := s.tickTo t
  .next (match s.casc.echo with
    | some b =>
      if s.cascRole = 2 ∧ b + 280 + 120 * s.cascSlot ≤ s.clk.base then
        (s.emit (.casc 1 [s.cascSlot])).setCasc fun c => { c with echo := none }
      else s
    | none => s)

/-- MASTER_LOST: at base tick `t` no frame has come for 10 µs (R662). -/
def execMasterLost (t : Nat) (s : State) : Host.Outcome State Fault Refusal :=
  let s := s.tickTo t
  .next (if s.cascRole = 2 ∧ (s.cascState = 2 ∨ s.cascState = 3) ∧ s.casc.lastRx + 4000 ≤ s.clk.base then
    let on := s.cascOn
    let s := (s.putF Reg.CASC_STAT 2 0 4).cnt Reg.CASC_LOSS_CNT
    let s := ((s.evt cascPage 1).setAligned false).emit (.island Isl.FABRIC 16)
    let s := s.setCasc fun c => { c with lastSeq := none, taken := 0, echo := none, lost := true }
    if on then ((s.setTimeState 3).each (List.range 3) fun s d => s.domHold d s.clk.base).publish else s
  else s)

end Sys2Proof.Machine
end

