-- ==== Sys2Proof/Machine/Route.lean ====
section
/-! DEFINITION. The gateway's route table, classification, policing and translation (R618 to R622, R629, R630, R636). -/

namespace Sys2Proof.Machine

def gwPage : Nat := pageAddr Blk.GW 0
def State.setGw (s : State) (f : Gw → Gw) : State := { s with gw := f s.gw }

/-! ## Counters (R636) -/

/-- Counter at offset `off` of port `p`'s block. -/
def gwCnt (p off : Nat) : Nat :=
  if p < 4 then pageAddr Blk.ETH p + 0x300 + off else if p < 20 then pageAddr Blk.CANX (p - 4) + 0x300 + off
  else gwPage + 0x400 + (p - 20) * 0x40 + off

namespace GwC
abbrev RX_FRAMES : Nat := 0x00
abbrev TX_FRAMES : Nat := 0x04
abbrev NO_ROUTE : Nat := 0x08
abbrev RATE : Nat := 0x0C
abbrev FORMAT : Nat := 0x10
abbrev LINK_DOWN : Nat := 0x14
abbrev OVERFLOW : Nat := 0x18
abbrev AGE : Nat := 0x28
abbrev DROP_RULE : Nat := 0x38
end GwC

/-- A drop counted at a port; port 22 has no counters. -/
def State.gwDrop (s : State) (p off : Nat) : State := if p < 22 then s.cnt (gwCnt p off) else s

/-! ## Entries (R618, R619) -/

def sidBase : Nat := routeBase + 0x8000
/-- Word `w` of flow entry `i`, or of SID entry `i`. -/
def State.flowWord (s : State) (i w : Nat) : Nat := s.ile (routeBase + 16 * i + 4 * w) 4
def State.sidWord (s : State) (i w : Nat) : Nat := s.ile (sidBase + 16 * i + 4 * w) 4

def State.flowValid (s : State) (i : Nat) : Bool := (s.flowWord i 2).testBit 31 && !s.gw.bad.contains i
def State.sidValid (s : State) (i : Nat) : Bool := (s.sidWord i 1).testBit 31 && !s.gw.bad.contains (2048 + i)

/-- R618: words 2 and 3 of a flow entry have a reserved encoding. -/
def flowReserved (w2 : Nat) : Bool := (decide (23 ≤ fld w2 4 0) && decide (fld w2 4 0 ≤ 29)) || decide (fld w2 6 5 = 3)

/-- R635: the number of valid flow entries, and bit FORWARDING. -/
def State.gwStat (s : State) : State :=
  let n := ((List.range 2048).filter fun i => s.flowValid i).length
  (s.putF Reg.GW_STAT 27 16 n).putBit Reg.GW_STAT 0 (s.released Blk.GW && s.bit Reg.GW_CTL 0)

/-- R630: the words of an entry at its position: INDEX and TYPE are set, unused bits are zero. -/
def State.setFlow (s : State) (i w0 w1 w2 w3 : Nat) : State :=
  let a := routeBase + 16 * i
  let s := ((s.setIle a 4 w0).setIle (a + 4) 4 w1).setIle (a + 8) 4 (putFld (putFld w2 30 20 i) 7 7 0)
  ((s.setIle (a + 12) 4 (fld w3 21 0)).setGw fun g => { g with bad := g.bad.filter fun k => k != i }).gwStat
def State.setSid (s : State) (i w0 w1 : Nat) : State :=
  let a := sidBase + 16 * i
  let s := ((s.setIle a 4 w0).setIle (a + 4) 4 (w1 &&& 0xBFFFFFFF)).setIle (a + 8) 4 0
  (s.setIle (a + 12) 4 (i + 2 ^ 31)).setGw fun g => { g with bad := g.bad.filter fun k => k != 2048 + i }

/-! ## The data port (R630) -/

/-- The next word of the table. -/
def State.tblNext (s : State) : State := s.addWrap Reg.GW_TBL_ADDR 12 0 1

/-- A write of `v` to TBL_DATA. -/
def State.writeTblData (s : State) (req : Requester) (v : Nat) : State :=
  let a := s.rd Reg.GW_TBL_ADDR
  let sid := a.testBit 15
  let i := if sid then fld a 9 2 else fld a 12 2
  let w := fld a 1 0
  let slot := (if sid then 2048 + i else i) * 4
  let s := s.tblNext
  if w < 3 then s.setGw fun g => { g with stage := (slot + w, v) :: g.stage.filter fun e => e.1 != slot + w }
  else
    let word (k : Nat) : Nat := match s.gw.stage.find? fun e => e.1 == slot + k with
      | some e => e.2
      | none => if sid then s.sidWord i k else s.flowWord i k
    let clear := fun (s : State) => s.setGw fun g => { g with stage := g.stage.filter fun e => decide (e.1 / 4 ≠ slot / 4) }
    if sid then clear (s.setSid i (word 0) (word 1))
    else if flowReserved (word 2) then clear (s.quiet req Reg.GW_TBL_DATA Cause.RESERVED_ENC)
    else clear (s.setFlow i (word 0) (word 1) (word 2) v)

/-- TABLE_DATA_WRITE: a write of `value` to TBL_DATA. -/
def execTableDataWrite (req : Requester) (value : Nat) (s : State) : Host.Outcome State Fault Refusal :=
  .next (s.checkedWrite req Reg.GW_TBL_DATA 4 fun s => s.writeTblData req (value % 2 ^ 32))

/-- R633: the ECC result of a read of entry `k` (SID entries from 2048 on), with forced flips. -/
def State.tblEcc (s : State) (k env : Nat) : Nat × State :=
  let f := s.eccForced gwPage (16 * k) 16 8
  let s := if f ≠ 0 then s.injected gwPage else s
  let e := max env f
  (e, if e = 0 then s else if e = 1 then s.cnt Reg.GW_TBL_CE
    else (((s.cnt Reg.GW_TBL_UE).evt gwPage 4).emit (.island Isl.NET k)).setGw fun g => { g with bad := k :: g.bad })

/-- A read of TBL_DATA. -/
def State.readTblData (s : State) (ecc : Nat) : State :=
  let a := s.rd Reg.GW_TBL_ADDR
  let sid := a.testBit 15
  let i := if sid then fld a 9 2 else fld a 12 2
  let v := if sid then s.sidWord i (fld a 1 0) else s.flowWord i (fld a 1 0)
  ((s.tblEcc (if sid then 2048 + i else i) ecc).2.tblNext).respOk (leBytes 4 v)

/-- TABLE_DATA_READ: `ecc` is the ECC result of the entry. -/
def execTableDataRead (req : Requester) (ecc : Nat) (s : State) : Host.Outcome State Fault Refusal :=
  .next (s.checkedRead req Reg.GW_TBL_DATA 4 fun s => s.readTblData ecc)

/-! ## Classification (R619, R620) -/

/-- Big-endian value of bytes. -/
def beNat (l : List Byte) : Nat := leNat l.reverse
/-- The frame carries an IEEE 802.1Q tag. -/
def tagged (l : List Byte) : Bool := decide (beNat ((l.drop 12).take 2) = 0x8100)
def vidOf (l : List Byte) : Nat := if tagged l then beNat ((l.drop 14).take 2) % 4096 else 0
def pcpOf (l : List Byte) : Nat := if tagged l then beNat ((l.drop 14).take 2) / 8192 else 0
def typeOf (l : List Byte) : Nat := beNat ((l.drop (if tagged l then 16 else 12)).take 2)
/-- What follows the EtherType. -/
def payloadOf (l : List Byte) : List Byte := l.drop (if tagged l then 18 else 14)

/-- R619: the SID handle of an Ethernet frame. -/
def State.sidHandle (s : State) (l : List Byte) : Nat :=
  ((List.range 256).find? fun i => s.sidValid i && (s.ibytes (sidBase + 16 * i) 6 == l.take 6)
    && ((s.sidWord i 1).testBit 28 || decide (fld (s.sidWord i 1) 27 16 = vidOf l))).getD 0x1FF

/-- R618: the key of an Ethernet frame. -/
def State.ethKey (s : State) (l : List Byte) : Nat := s.sidHandle l + 2 ^ 12 * pcpOf l + 2 ^ 16 * typeOf l

/-- R618: IN_PORT `ip` names ingress port `p`. -/
def inPortIs (ip p : Nat) : Bool := ip = p || (decide (ip = 30) && decide (p < 4)) || (decide (ip = 31) && decide (4 ≤ p) && decide (p < 20))

/-- R620: the flow of a frame with key `key` from port `p`. -/
def State.flowOf (s : State) (p key : Nat) : Option Nat :=
  (List.range 2048).find? fun i => s.flowValid i && decide (fld (s.flowWord i 2) 4 0 ≠ 20) && decide (fld (s.flowWord i 2) 4 0 ≠ 21)
    && decide (fld (s.flowWord i 2) 4 0 ≠ 22) && inPortIs (fld (s.flowWord i 2) 4 0) p && ((key ^^^ s.flowWord i 0) &&& s.flowWord i 1) == 0

/-- A frame under the flow entry `i`. -/
def State.underFlow (s : State) (i : Nat) (f : GwFrame) : GwFrame :=
  let w := s.flowWord i 2
  { f with flow := some i, cls := fld w 9 8, wake := w.testBit 10 && decide (fld w 9 8 = 0), insp := decide (fld w 6 5 = 1)
           egress := fld (s.flowWord i 3) 21 0, xlate := fld w 13 12 }

/-! ## Policing (R138, R621) -/

/-- L of a frame. -/
def frameLen (f : GwFrame) : Nat := if f.eth then f.data.length + 4 else f.data.length + 8

/-- Line rate of a port in bit/s; of CAN its arbitration bit rate. -/
def State.lineRate (s : State) (p : Nat) : Rat :=
  if p < 4 then 1000000 * (([10, 100, 1000, 2500, 5000, 10000].getD (s.getF (Reg.ETH_STAT p) 3 1) 10 : Nat) : Rat)
  else
    let b := s.rd (Reg.CANX_NBT (p - 4))
    80000000 / (((fld b 4 0 + 1) * (1 + (fld b 14 8 + 1) + (fld b 22 16 + 1)) : Nat) : Rat)

def State.portLim (s : State) (p : Nat) : Nat := s.rd (if p < 4 then Reg.ETH_PORT_LIM p else Reg.CANX_PORT_LIM (p - 4))

/-- A bucket filled up to base tick `t` at `rate` bytes per tick, `depth` bytes deep. -/
def Bucket.fill (b : Bucket) (t : Nat) (rate depth : Rat) : Bucket := { tok := min depth (b.tok + rate * ((t - b.last : Nat) : Rat)), last := t }

/-- Bytes per base tick and depth of the bucket of a port and of a meter. -/
def State.portRate (s : State) (p : Nat) : Rat × Rat :=
  let v := s.portLim p
  (s.lineRate p * (fld v 7 0 : Rat) / 100 / 8 / 400000000, (fld v 31 16 * 64 : Nat))
def State.meterRate (s : State) (m : Nat) : Rat × Rat :=
  (1000 * (s.getF (Reg.GW_LIM_CIR m) 23 0 : Rat) / 8 / 400000000, (s.getF (Reg.GW_LIM_CBS m) 23 0 : Rat))

/-- R634: every bucket is full. -/
def State.gwFill (s : State) : State :=
  s.setGw fun g => { g with
    ports := (List.range 20).map fun p => { tok := (s.portRate p).2, last := s.clk.base }
    meters := (List.range 63).map fun m => { tok := (s.meterRate m).2, last := s.clk.base } }

/-- R621: whether a frame of port `p` is admitted, and the buckets after it. -/
def State.police (s : State) (p : Nat) (f : GwFrame) : Bool × State :=
  let t := s.clk.base
  let len : Rat := frameLen f
  let m := match f.flow with
    | some i => fld (s.flowWord i 2) 19 14
    | none => 63
  let usePort := decide (f.cls ≠ 0) && decide (fld (s.portLim p) 7 0 ≠ 0)
  let useMeter := decide (m < 63) && !f.wake
  let b := (s.gw.ports.getD p {}).fill t (s.portRate p).1 (s.portRate p).2
  let c := (s.gw.meters.getD m {}).fill t (s.meterRate m).1 (s.meterRate m).2
  let ok := (!usePort || decide (len ≤ b.tok)) && (!useMeter || decide (len ≤ c.tok))
  (ok, s.setGw fun g => { g with
    ports := g.ports.set p (if ok && usePort then { b with tok := b.tok - len } else b)
    meters := g.meters.set m (if ok && useMeter then { c with tok := c.tok - len } else c) })

/-! ## Translation (R622; the layouts of IEEE 1722-2016, log entry 36) -/

/-- Bytes of a value, most significant first. -/
def beBytes (n v : Nat) : List Byte := (leBytes n v).reverse

/-- The ACF CAN message of a CAN frame. -/
def acfCan (f : GwFrame) : List Byte :=
  let pad := (4 - f.data.length % 4) % 4
  let quads := (16 + f.data.length + pad) / 4
  leBytes 1 (2 + quads / 256) ++ leBytes 1 (quads % 256) ++ leBytes 1 (pad * 64 + fld f.key 29 29 * 8 + (if fld f.key 31 30 = 1 then 2 else 0))
    ++ leBytes 1 ((f.inPort - 4) % 32) ++ List.replicate 8 0 ++ beBytes 4 (fld f.key 28 0) ++ f.data ++ List.replicate pad 0

/-- An Ethernet frame without FCS is padded to 60 bytes. -/
def padEth (l : List Byte) : List Byte := l ++ List.replicate (60 - l.length) 0

/-- R622: the 1722 frame of profile `k` with sequence number `n` for a CAN frame that leaves on port `p`. -/
def State.avtpFrame (s : State) (p k n pcp : Nat) (f : GwFrame) : List Byte :=
  let m := acfCan f
  let v := s.rd (Reg.GW_XPROF_VID (k - 1))
  padEth (leBytes 4 (s.rd (Reg.GW_XPROF_DMAC (k - 1))) ++ leBytes 2 (fld v 15 0) ++ (Config.macAddr p).take 6 ++ beBytes 2 0x8100
    ++ beBytes 2 (8192 * pcp + fld v 27 16) ++ beBytes 2 0x22F0 ++ leBytes 1 0x82 ++ beBytes 2 (0x8000 + m.length) ++ leBytes 1 n
    ++ beBytes 8 (2 ^ 32 * s.rd (Reg.GW_XPROF_SID_HI (k - 1)) + s.rd (Reg.GW_XPROF_SID_LO (k - 1))) ++ m)

/-- The ACF CAN messages of a list of messages as (KEY, data), or none where it is malformed. -/
def acfParse : Nat → List Byte → Option (List (Nat × List Byte))
  | 0, _ => none
  | fuel + 1, l =>
    if l = [] then some []
    else
      let h := beNat (l.take 2)
      let len := h % 512 * 4
      if len < 4 ∨ l.length < len then none
      else match acfParse fuel (l.drop len) with
        | none => none
        | some r =>
          if h / 512 ≠ 1 then some r
          else
            let b := (l.getD 2 0).toNat
            let n := len - 16 - b / 64
            let fd := b.testBit 1
            if len < 16 + b / 64 ∨ (if fd then 64 else 8) < n then none
            else some ((beNat ((l.drop 12).take 4) % 2 ^ 29 + 2 ^ 29 * (b.testBit 3).toNat + 2 ^ 30 * fd.toNat, (l.drop 16).take n) :: r)

/-- R622: the CAN frames of an Ethernet frame, or none where it is no well-formed NTSCF AVTPDU. -/
def avtpParse (l : List Byte) : Option (List (Nat × List Byte)) :=
  let a := payloadOf l
  let n := beNat ((a.drop 1).take 2) % 2048
  if typeOf l ≠ 0x22F0 ∨ (a.getD 0 0).toNat ≠ 0x82 ∨ a.length < 12 + n then none else acfParse (n + 1) ((a.drop 12).take n)

/-! ## The speed message (R629) -/

/-- R629: the raw value in the data field of a frame. With BIG the bytes that hold it are taken most significant first (log entry 37). -/
def State.spdRaw (s : State) (f : GwFrame) : Option Nat :=
  let d := if f.eth then payloadOf f.data else f.data
  let start := s.getF Reg.GW_SPD_FMT 8 0
  let len := s.getF Reg.GW_SPD_FMT 15 12 + 1
  if d.length * 8 < start + len then none
  else if s.bit Reg.GW_SPD_FMT 16 then
    let n := (start % 8 + len + 7) / 8
    some (beNat ((d.drop (start / 8)).take n) / 2 ^ (start % 8) % 2 ^ len)
  else some (leNat d / 2 ^ start % 2 ^ len)

/-- R629: a frame feeds the speed message; `insp` marks one released by the island. -/
def State.feedSpeed (s : State) (f : GwFrame) (insp : Bool) : State :=
  let v := s.rd Reg.GW_SPD_SRC
  if v.testBit 15 ∧ f.flow = some (fld v 10 0) ∧ v.testBit 14 = insp then
    match s.spdRaw f with
    | none => (s.cnt Reg.GW_SPD_BAD).evt gwPage 6
    | some r =>
      let k : Int := ((r * s.getF Reg.GW_SPD_SCALE 15 0 / 256 : Nat) : Int) + sgn 16 (s.getF Reg.GW_SPD_SCALE 31 16)
      s.speedMessage (min 65535 (max 0 k)).toNat s.clk.base
  else s

end Sys2Proof.Machine
end

