-- ==== Sys2Proof/Machine/Gw.lean ====
section
/-! DEFINITION. The gateway's queues and ports (R136 to R138, R612, R615 to R617, R621 to R629, R632 to R638). -/

namespace Sys2Proof.Machine

/-! ## Ports -/

def State.ethOn (s : State) (p : Nat) : Bool := s.bit (Reg.ETH_CTL p) 0
def State.canState (s : State) (n : Nat) : Nat := s.getF (Reg.CANX_STAT n) 1 0
/-- The port can send: its link is up, or its controller is on and not bus-off; the host ring is enabled. -/
def State.gwReady (s : State) (p : Nat) : Bool :=
  if p < 4 then s.ethOn p && s.bit (Reg.ETH_STAT p) 0
  else if p < 20 then s.bit (Reg.CANX_CTL (p - 4)) 0 && decide (s.canState (p - 4) < 2)
  else if p = 21 then s.bit Reg.GW_HOST_CTL 0 else true
/-- A port that has a link or a controller (R624). -/
def gwLinked (p : Nat) : Bool := decide (p < 20)
/-- The gateway forwards (R133, R634). -/
def State.gwOn (s : State) : Bool := s.released Blk.GW && s.bit Reg.GW_CTL 0 && decide (s.park.stage < 2)

/-! ## Egress buffers (R136, R137, R623) -/

def State.buf (s : State) (p : Nat) : List GwFrame := s.gw.bufs.getD p []
def State.setBuf (s : State) (p : Nat) (l : List GwFrame) : State := s.setGw fun g => { g with bufs := g.bufs.set p l }

/-- The frames that take space in a buffer; the frame shown to the island is one of port 20. -/
def State.inBuf (s : State) (p : Nat) : List GwFrame := (if p = 20 then s.gw.head.toList else []) ++ s.buf p

/-- A frame fits: 16 KiB are reserved for SAFETY. -/
def bufFits (l : List GwFrame) (f : GwFrame) : Bool :=
  let safe := ((l.filter fun x => x.cls == 0).map frameLen).sum
  let rest := ((l.filter fun x => x.cls != 0).map frameLen).sum
  if f.cls = 0 then decide (safe + rest + frameLen f ≤ 262144) else decide (rest + (safe - 16384) + frameLen f ≤ 245760)

/-- The lowest class present. -/
def lowestClass (l : List GwFrame) : Nat := (l.map (·.cls)).foldl max 0

/-- Copy a frame into the buffer of port `p`. Where it does not fit, frames of lower classes are discarded oldest first; a wake frame then
takes the place of the oldest frame that is not one. -/
def State.enqueue (p : Nat) (f : GwFrame) : Nat → State → State
  | 0, s => s.setBuf p (s.buf p ++ [f])
  | fuel + 1, s =>
    if bufFits (s.inBuf p) f then s.setBuf p (s.buf p ++ [f])
    else
      let c := lowestClass (s.buf p)
      let gone := if f.cls < c then (s.buf p).find? fun x => x.cls == c else if f.wake then (s.buf p).find? fun x => !x.wake else none
      match gone with
      | some x => enqueue p f fuel ((s.setBuf p ((s.buf p).erase x)).gwDrop p (GwC.OVERFLOW + 4 * x.cls))
      | none => if f.wake then s.setBuf p (s.buf p ++ [f]) else s.gwDrop p (GwC.OVERFLOW + 4 * f.cls)

/-- The head of a buffer in strict class order, among the classes that `open'` admits. -/
def headOf (l : List GwFrame) (open' : Nat → Bool) : Option GwFrame :=
  (List.range 4).findSome? fun c => if open' c then l.find? fun x => x.cls == c else none

/-! ## The inspection queue (R626) -/

/-- The next frame of port 20 is shown to the island. -/
def State.inspNext (s : State) : State :=
  let s := match s.gw.head, headOf (s.buf 20) fun _ => true with
    | none, some f => (s.setBuf 20 ((s.buf 20).erase f)).setGw fun g => { g with head := some f, pos := 0 }
    | _, _ => s
  let s := match s.gw.head with
    | some f => (s.wr Reg.GW_INSP_HDR (f.flow.getD 0x7FF + 2 ^ 11 * f.inPort + 2 ^ 16 * (f.data.length % 4096) + 2 ^ 28 * f.cls + 2 ^ 30 * f.insp.toNat
        + 2 ^ 31)).wr Reg.GW_INSP_T f.rx
    | none => s.wr Reg.GW_INSP_HDR 0
  s.lvl gwPage 0 s.gw.head.isSome

/-- The head frame is removed. -/
def State.inspPop (s : State) : State := (s.setGw fun g => { g with head := none, pos := 0 }).inspNext

/-! ## Queueing (R136, R137, R623, R624) -/

/-- Copy a frame to port `p`, which may be down. -/
def State.toPort (s : State) (f : GwFrame) (p : Nat) : State :=
  let f := { f with at' := s.clk.base }
  let put := fun (s : State) (p : Nat) (f : GwFrame) => s.enqueue p f ((s.buf p).length + 1)
  if s.gwReady p then (if p = 20 then (put s 20 f).inspNext else put s p f)
  else if f.wake then (put s 20 { f with insp := false }).inspNext
  else if s.cDecl && gwLinked p then s.gwDrop p GwC.LINK_DOWN
  else put s p f

/-- R623: copy a frame to each port of a mask. -/
def State.toPorts (s : State) (f : GwFrame) (mask : Nat) : State :=
  s.each ((List.range 22).filter fun p => mask.testBit p) fun s p => s.toPort f p

/-- R618, R620, R621, R623, R624: a received frame. `ecc` is the ECC result of the entry that the lookup finds. -/
def State.gwFrameIn (s : State) (f : GwFrame) (ecc : Nat) : State :=
  let p := f.inPort
  let s := s.incWrap (gwCnt p GwC.RX_FRAMES) 31 0
  if !s.gwOn then s
  else
    let find (s : State) : Option Nat := s.flowOf p f.key
    let r : Option Nat × State := match find s with
      | none => (none, s)
      | some i =>
        let e := s.tblEcc i ecc
        if 2 ≤ e.1 then (find e.2, e.2) else (some i, e.2)
    let s := r.2
    match r.1 with
    | none =>
      if s.cDecl && s.bit Reg.GW_CTL 1 then
        let g := { f with cls := 3 }
        let q := s.police p g
        if q.1 then q.2.toPort g 21 else q.2.gwDrop p GwC.RATE
      else s.gwDrop p GwC.NO_ROUTE
    | some i =>
      if fld (s.flowWord i 2) 6 5 = 2 then s.gwDrop p GwC.DROP_RULE
      else
        let g := s.underFlow i f
        let q := s.police p g
        if !q.1 then q.2.gwDrop p GwC.RATE
        else
          let s := q.2.feedSpeed g false
          if g.insp then s.toPort g 20 else s.toPorts g g.egress

/-- ETH_FRAME_RX: at base tick `t` ETH port `p` has received a frame: its bytes from the destination address on, without FCS. -/
def execEthFrameRx (p : Nat) (data : List Byte) (ecc t : Nat) (s : State) : Host.Outcome State Fault Refusal :=
  let s := s.tickTo t
  .next (if p < 4 ∧ s.released Blk.ETH ∧ s.gwReady p ∧ 60 ≤ data.length ∧ data.length ≤ 1996 then
    s.gwFrameIn { eth := true, key := s.ethKey data, data := data, inPort := p, rx := s.timeNs, at' := s.clk.base } ecc
  else s)

/-- R616: a data field of `n` bytes fits format `fmt`, and MODE of the controller admits the format. -/
def canFits (fmt n : Nat) : Bool := if fmt = 0 then decide (n ≤ 8) else if fmt = 1 then decide (n ≤ 64) else decide (1 ≤ n) && decide (n ≤ 2048)
def State.canAdmits (s : State) (n fmt : Nat) : Bool := decide (fmt ≤ s.getF (Reg.CANX_CTL n) 2 1) && decide (fmt ≤ 2)

/-- CAN_FRAME_RX: at base tick `t` controller `n` has received a frame of format `fmt` (0 Classical, 1 FD, 2 XL) with identifier `id`; `xl` are
the further fields of CAN XL. -/
def execCanFrameRx (n fmt : Nat) (ide : Bool) (id xl : Nat) (data : List Byte) (ecc t : Nat) (s : State) : Host.Outcome State Fault Refusal :=
  let s := s.tickTo t
  .next (if n < 16 ∧ s.released Blk.CANX ∧ s.gwReady (4 + n) ∧ s.canAdmits n fmt ∧ canFits fmt data.length then
    s.gwFrameIn { eth := false, key := id % 2 ^ 29 + 2 ^ 29 * ide.toNat + 2 ^ 30 * fmt, xl := xl, data := data, inPort := 4 + n, rx := s.timeNs
                  at' := s.clk.base } ecc
  else s)

/-! ## Gate control (R615) -/

def State.qbv (s : State) (p : Nat) : Qbv := s.gw.qbv.getD p {}
def State.setQbv (s : State) (p : Nat) (f : Qbv → Qbv) : State := s.setGw fun g => { g with qbv := updAt g.qbv p f }

/-- Whether the gate of class `c` stays open for `n` ns from TIME `now`: through entries from `idx` on, the present one having begun at
`entry`, within the cycle and its repetitions. -/
def gateHolds (q : Qbv) (c : Nat) : Nat → Nat → Nat → Nat → Nat → Bool
  | 0, _, _, _, _ => true
  | fuel + 1, idx, entry, cycle, fin =>
    match q.list[idx]? with
    | none => true
    | some (g, d) =>
      if !g.testBit c then decide (fin ≤ entry)
      else
        let stop := if idx + 1 < q.list.length then min (entry + d) (cycle + q.cycle) else cycle + q.cycle
        if fin ≤ stop then true
        else if stop = cycle + q.cycle then gateHolds q c fuel 0 stop stop fin else gateHolds q c fuel (idx + 1) stop cycle fin

/-- R615: the gate of class `c` of port `p` is open and a frame of `len` bytes with its preamble completes before it closes. -/
def State.gateOpen (s : State) (p c len : Nat) : Bool :=
  let q := s.qbv p
  if !s.bit (Reg.ETH_QBV_CTL p) 0 || q.list.isEmpty then true
  else
    let ns := (1000000000 * (((len + 8) * 8 : Nat) : Rat) / s.lineRate p).ceil.toNat
    gateHolds q c 130 q.idx q.entry q.start (s.timeNs + ns)

/-- GATE_CONTROL_ENTRY: at base tick `t` the interval of port `p`'s present entry ends, or its cycle. -/
def execGateControlEntry (p t : Nat) (s : State) : Host.Outcome State Fault Refusal :=
  let s := s.tickTo t
  let q := s.qbv p
  let now := s.timeNs
  .next (if 4 ≤ p ∨ q.list = [] then s
    else if q.start + q.cycle ≤ now then
      (s.setQbv p fun q => { q with start := q.start + q.cycle, entry := q.start + q.cycle, idx := 0 }).putF (Reg.ETH_QBV_STAT p) 15 8 0
    else
      let d := ((q.list[q.idx]?).getD (0, 0)).2
      if q.idx + 1 < q.list.length ∧ q.entry + d ≤ now then
        (s.setQbv p fun q => { q with entry := q.entry + d, idx := q.idx + 1 }).putF (Reg.ETH_QBV_STAT p) 15 8 (q.idx + 1)
      else s)

/-- A write of `v` to QBV_CTL of port `p`. -/
def State.writeQbvCtl (s : State) (req : Requester) (p v : Nat) : State :=
  let s := (s.regStore req (Reg.ETH_QBV_CTL p) v).putBit (Reg.ETH_QBV_CTL p) 1 false
  if !v.testBit 1 then s
  else
    let n := s.getF (Reg.ETH_QBV_CTL p) 15 8
    let list := (List.range n).map fun i => (s.getF (Reg.ETH_GCL_GATES p i) 3 0, s.rd (Reg.ETH_GCL_TIME p i))
    let cycle := max (s.rd (Reg.ETH_QBV_CYCLE p)) 1
    let base := 2 ^ 32 * s.rd (Reg.ETH_QBV_BASE_HI p) + s.rd (Reg.ETH_QBV_BASE_LO p)
    let least := s.timeNs + 2 * cycle
    let due := if least ≤ base then base else base + (least - base + cycle - 1) / cycle * cycle
    (s.setQbv p fun q => { q with pend := some (list, cycle, due) }).putBit (Reg.ETH_QBV_STAT p) 0 true

/-- QBV_COMMIT: a write of `value` to QBV_CTL of port `p`. -/
def execQbvCommit (req : Requester) (p value : Nat) (s : State) : Host.Outcome State Fault Refusal :=
  .next (if p < 4 then s.checkedWrite req (Reg.ETH_QBV_CTL p) 4 fun s => s.writeQbvCtl req p value else s)

/-- QBV_LIST_ACTIVATE: at base tick `t` the first instant of port `p`'s committed list has come. -/
def execQbvListActivate (p t : Nat) (s : State) : Host.Outcome State Fault Refusal :=
  let s := s.tickTo t
  .next (match (s.qbv p).pend with
    | none => s
    | some (l, c, due) =>
      if 4 ≤ p ∨ s.timeNs < due then s
      else
        let s := s.setQbv p fun _ => { list := l, cycle := c, start := due, entry := due }
        ((s.putBit (Reg.ETH_QBV_STAT p) 0 false).putF (Reg.ETH_QBV_STAT p) 15 8 0).evt (pageAddr Blk.ETH p) 2)

/-! ## Sending (R616, R617, R622, R623, R628) -/

/-- A frame sent: one more of TX_FRAMES. -/
def State.gwSent (s : State) (p : Nat) : State := s.incWrap (gwCnt p GwC.TX_FRAMES) 31 0

/-- Send frame `f` on Ethernet port `p`. -/
def State.sendEth (s : State) (p : Nat) (f : GwFrame) : State :=
  let pcp := s.getF (Reg.ETH_PCP_MAP p) (4 * f.cls + 2) (4 * f.cls)
  if f.eth then
    let d := if tagged f.data then f.data.set 14 (BitVec.ofNat 8 (pcp * 32 + (f.data.getD 14 0).toNat % 32)) else f.data
    (s.emit (.frame p (padEth d))).gwSent p
  else if f.xlate = 0 ∨ fld f.key 31 30 = 2 then s.gwDrop p GwC.FORMAT
  else
    let n := s.gw.seq.getD f.xlate 0
    ((s.emit (.frame p (s.avtpFrame p f.xlate n pcp f))).gwSent p).setGw fun g => { g with seq := g.seq.set f.xlate ((n + 1) % 256) }

/-- Send a CAN frame on port `p`, where its controller admits it. -/
def State.sendCan (s : State) (p key xl : Nat) (data : List Byte) : State :=
  if s.canAdmits (p - 4) (fld key 31 30) && canFits (fld key 31 30) data.length then (s.emit (.can p key xl data)).gwSent p
  else s.gwDrop p GwC.FORMAT

/-- R628: the host's receive ring is full. -/
def State.hrxFull (s : State) : Bool :=
  let n := max (s.rd Reg.GW_HRX_SIZE) 1
  decide ((s.rd Reg.GW_HRX_TAIL + 1) % n = s.rd Reg.GW_HRX_HEAD % n)

/-- R633: a host ring access failed. -/
def State.hostFail (s : State) : State := (s.putBit Reg.GW_HOST_CTL 0 false).evt gwPage 3

/-- Write frame `f` to the host's receive ring; whether it has left the buffer. -/
def State.hostWrite (s : State) (f : GwFrame) : Bool × State :=
  let n := max (s.rd Reg.GW_HRX_SIZE) 1
  let tail := s.rd Reg.GW_HRX_TAIL % n
  let a := 2 ^ 32 * s.getF Reg.GW_HRX_BASE_HI 15 0 + 4096 * s.getF Reg.GW_HRX_BASE_LO 31 12 + 4096 * tail
  let hdr := leBytes 2 (f.flow.getD 0xFFFF) ++ leBytes 1 f.inPort ++ leBytes 1 f.cls ++ leBytes 2 f.data.length ++ leBytes 2 0 ++ leBytes 8 f.rx
    ++ List.replicate 48 0
  if s.hrxFull then (false, s)
  else
    let w := s.blockWrite Blk.GW 0 a (hdr ++ f.data) {}
    match w.1 with
    | .held => (false, s)
    | .done => (true, ((w.2.wr Reg.GW_HRX_TAIL ((tail + 1) % n)).evt gwPage 2).gwSent 21)
    | _ => (false, w.2.hostFail)

/-- Serve the buffer of port `p` once: whether a frame has left it. A controller in bus monitoring or restricted operation mode sends no
frame (R616). `ecc` is the ECC result of the frame read (R633). -/
def State.serveBuf (s : State) (p ecc : Nat) : Bool × State :=
  if !s.gwOn ∨ !s.gwReady p ∨ p = 20 then (false, s)
  else if 4 ≤ p ∧ p < 20 ∧ (s.bit (Reg.CANX_CTL (p - 4)) 4 ∨ s.bit (Reg.CANX_CTL (p - 4)) 5) then (false, s)
  else
    let head := if p < 4 then
        (List.range 4).findSome? fun c => ((s.buf p).find? fun x => x.cls == c).bind fun x => if s.gateOpen p c (frameLen x) then some x else none
      else headOf (s.buf p) fun _ => true
    match head with
    | none => (false, s)
    | some f =>
      let fe := s.eccForced gwPage 0 262144 8
      let s := if fe ≠ 0 then s.injected gwPage else s
      let pop := fun (s : State) => s.setBuf p ((s.buf p).erase f)
      if 2 ≤ max ecc fe then (true, ((pop s).cnt Reg.GW_BUF_UE).evt gwPage 5)
      else if p < 4 then (true, (pop s).sendEth p f)
      else if p < 20 then
        if !f.eth then (true, (pop s).sendCan p f.key f.xl f.data)
        else if f.xlate = 0 then (true, (pop s).gwDrop p GwC.FORMAT)
        else match avtpParse f.data with
          | none => (true, (pop s).gwDrop f.inPort GwC.FORMAT)
          | some l => (true, l.foldl (fun (s : State) e => s.sendCan p e.1 0 e.2) (pop s))
      else
        let r := s.hostWrite f
        (r.1, if r.1 then pop r.2 else r.2)

/-- EGRESS_TRANSMIT: at base tick `t` port `p` serves its head frame. -/
def execEgressTransmit (p ecc t : Nat) (s : State) : Host.Outcome State Fault Refusal :=
  .next (if p < 22 then ((s.tickTo t).serveBuf p ecc).2 else s.tickTo t)

/-- Serve a buffer until nothing leaves it. -/
def State.serveAll (p : Nat) : Nat → State → State
  | 0, s => s
  | n + 1, s =>
    let r := s.serveBuf p 0
    if r.1 then serveAll p n r.2 else r.2

/-- QUEUED_FRAME_DELIVERY: at base tick `t` the destination of port `p` is ready: its queued frames are delivered, highest class first
(R136). -/
def execQueuedFrameDelivery (p t : Nat) (s : State) : Host.Outcome State Fault Refusal :=
  let s := s.tickTo t
  .next (if p < 22 then s.serveAll p (s.buf p).length else s)

/-- R136: AGE_MAX of a class in ms. -/
def State.ageMax (s : State) (c : Nat) : Nat :=
  if c = 0 then s.getF Reg.GW_AGE_0 15 0 else if c = 1 then s.getF Reg.GW_AGE_0 31 16
  else if c = 2 then s.getF Reg.GW_AGE_1 15 0 else s.getF Reg.GW_AGE_1 31 16

/-- FRAME_AGE_EXPIRED: at base tick `t` the frames of port `p` queued longer than AGE_MAX of their class are discarded. -/
def execFrameAgeExpired (p t : Nat) (s : State) : Host.Outcome State Fault Refusal :=
  let s := s.tickTo t
  let old (f : GwFrame) : Bool := decide (s.ageMax f.cls ≠ 0) && decide (f.at' + 400000 * s.ageMax f.cls < s.clk.base)
  .next (if 22 ≤ p then s
    else
      let gone := (s.buf p).filter old
      (s.setBuf p ((s.buf p).filter fun f => !old f)).each gone fun s f => s.gwDrop p (GwC.AGE + 4 * f.cls))

/-! ## Inspection (R626) -/

/-- A write of `v` to INSP_VERDICT. -/
def State.writeVerdict (s : State) (req : Requester) (v : Nat) : State :=
  if !v.testBit 31 then s
  else if v % 4 = 3 then s.quiet req Reg.GW_INSP_VERDICT Cause.RESERVED_ENC
  else match s.gw.head with
    | none => s
    | some f =>
      let s := s.inspPop
      if v % 4 = 2 ∨ !f.insp then s
      else
        let s := s.feedSpeed f true
        s.toPorts { f with insp := false } ((if v % 4 = 0 then f.egress else fld v 27 6) &&& 0x2FFFFF)

/-- VERDICT_RELEASE: a write of INSP_VERDICT with GO and code 0. -/
def execVerdictRelease (req : Requester) (s : State) : Host.Outcome State Fault Refusal :=
  .next (s.checkedWrite req Reg.GW_INSP_VERDICT 4 fun s => s.writeVerdict req (2 ^ 31))
/-- VERDICT_RELEASE_MASK: with code 1 and MASK. -/
def execVerdictReleaseMask (req : Requester) (mask : Nat) (s : State) : Host.Outcome State Fault Refusal :=
  .next (s.checkedWrite req Reg.GW_INSP_VERDICT 4 fun s => s.writeVerdict req (2 ^ 31 + mask % 2 ^ 22 * 64 + 1))
/-- VERDICT_DROP: with code 2. -/
def execVerdictDrop (req : Requester) (s : State) : Host.Outcome State Fault Refusal :=
  .next (s.checkedWrite req Reg.GW_INSP_VERDICT 4 fun s => s.writeVerdict req (2 ^ 31 + 2))

/-- A read of INSP_DATA. -/
def State.readInspData (s : State) : State :=
  match s.gw.head with
  | none => s.respOk (List.replicate 4 0)
  | some f =>
    let d := (f.data.drop s.gw.pos).take 4
    (s.setGw fun g => { g with pos := g.pos + 4 }).respOk (d ++ List.replicate (4 - d.length) 0)

/-- INSP_DATA_READ. -/
def execInspDataRead (req : Requester) (s : State) : Host.Outcome State Fault Refusal :=
  .next (s.checkedRead req Reg.GW_INSP_DATA 4 fun s => s.readInspData)

/-- INSPECTION_TIMEOUT: at base tick `t` the head frame has been left for INSP_TMO µs. -/
def execInspectionTimeout (t : Nat) (s : State) : Host.Outcome State Fault Refusal :=
  let s := s.tickTo t
  .next (match s.gw.head with
    | none => s
    | some f =>
      if f.at' + s.getF Reg.GW_INSP_TMO 15 0 * 400 ≤ s.clk.base then
        (((s.cnt Reg.GW_INSP_TMO_CNT).evt gwPage 1).emit (.island Isl.NET 0x1000)).inspPop
      else s)

/-! ## Origination (R627, R628) -/

/-- R627: why an originated frame of `data` on flow `i` from port `p` is refused: 1 FLOW, 2 LENGTH, 3 FORMAT, 0 not. -/
def State.originBad (s : State) (p i n : Nat) : Nat :=
  if 2048 ≤ i ∨ !s.flowValid i ∨ fld (s.flowWord i 2) 4 0 ≠ p then 1
  else if fld (s.flowWord i 2) 13 12 = 0 then (if n < 14 ∨ 1996 < n then 2 else 0)
  else if fld (s.flowWord i 0) 31 30 = 3 then 3
  else if canFits (fld (s.flowWord i 0) 31 30) n then 0 else 2

/-- Originate `data` on flow `i` from port `p`: the error and the state. -/
def State.originate (s : State) (p i : Nat) (data : List Byte) : Nat × State :=
  let e := s.originBad p i data.length
  if e ≠ 0 then (e, if e = 1 then s.gwDrop p GwC.DROP_RULE else s)
  else
    let eth := decide (fld (s.flowWord i 2) 13 12 = 0)
    let f := s.underFlow i { eth := eth, key := s.flowWord i 0, data := data, inPort := p, rx := s.timeNs, at' := s.clk.base }
    let s := if p < 22 then s.incWrap (gwCnt p GwC.RX_FRAMES) 31 0 else s
    (0, if s.gwOn then s.toPorts { f with insp := false } f.egress else s)

/-- TX_DATA_WRITE: a write of `value` to TX_DATA. -/
def execTxDataWrite (req : Requester) (value : Nat) (s : State) : Host.Outcome State Fault Refusal :=
  .next (s.checkedWrite req Reg.GW_TX_DATA 4 fun s => s.setGw fun g => { g with tx := (g.tx ++ leBytes 4 value).take 4096 })

/-- A write of `v` to TX_CTL: with GO the data written so far is sent and forgotten. -/
def State.writeTxCtl (s : State) (v : Nat) : State :=
  if !v.testBit 31 then s
  else
    let n := fld v 27 16
    let d := s.gw.tx
    let s := s.setGw fun g => { g with tx := [] }
    if d.length < n then s.wr Reg.GW_TX_STAT 4
    else
      let r := s.originate 20 (fld v 10 0) (d.take n)
      r.2.wr Reg.GW_TX_STAT (2 * r.1)

/-- TX_ORIGINATE: a write of `value` to TX_CTL. -/
def execTxOriginate (req : Requester) (value : Nat) (s : State) : Host.Outcome State Fault Refusal :=
  .next (s.checkedWrite req Reg.GW_TX_CTL 4 fun s => s.writeTxCtl value)

/-- R628: a write of `v` to HOST_CTL. -/
def State.writeHostCtl (s : State) (req : Requester) (v : Nat) : State :=
  if v.testBit 0 && !s.cDecl then s.quiet req Reg.GW_HOST_CTL Cause.RESERVED_ENC else s.regStore req Reg.GW_HOST_CTL v

/-- HOST_ENABLE: a write of `value` to HOST_CTL. -/
def execHostEnable (req : Requester) (value : Nat) (s : State) : Host.Outcome State Fault Refusal :=
  .next (s.checkedWrite req Reg.GW_HOST_CTL 4 fun s => s.writeHostCtl req value)

/-- R628: consume the transmit ring from HTX_HEAD on; `ext` are the bytes of the entries that a ring outside the device holds. -/
def State.htxRun (ext : List Byte) : Nat → Nat → State → State
  | 0, _, s => s
  | fuel + 1, k, s =>
    let n := max (s.rd Reg.GW_HTX_SIZE) 1
    let head := s.rd Reg.GW_HTX_HEAD % n
    if !s.bit Reg.GW_HOST_CTL 0 ∨ head = s.rd Reg.GW_HTX_TAIL % n then s
    else
      let a := 2 ^ 32 * s.getF Reg.GW_HTX_BASE_HI 15 0 + 4096 * s.getF Reg.GW_HTX_BASE_LO 31 12 + 4096 * head
      let r := s.blockRead Blk.GW 0 a 64 { ext := ext.drop (4096 * k) }
      match r.1 with
      | .held => s
      | .done =>
        let len := leNat ((r.2.1.drop 4).take 2)
        let d := r.2.2.blockRead Blk.GW 0 (a + 64) (min len 4032) { ext := ext.drop (4096 * k + 64) }
        match d.1 with
        | .held => s
        | .done =>
          let o := d.2.2.originate 21 (leNat (r.2.1.take 2)) d.2.1
          htxRun ext fuel (k + 1) (o.2.wr Reg.GW_HTX_HEAD ((head + 1) % n))
        | _ => d.2.2.hostFail
      | _ => r.2.2.hostFail

/-- HOST_TX_ENTRY: a write of `value` to HTX_TAIL; the device consumes the entries before it. -/
def execHostTxEntry (req : Requester) (value : Nat) (ext : List Byte) (s : State) : Host.Outcome State Fault Refusal :=
  .next (s.checkedWrite req Reg.GW_HTX_TAIL 4 fun s => State.htxRun ext 4096 0 (s.regStore req Reg.GW_HTX_TAIL value))

/-! ## Links (R624, R633) -/

/-- R624: from declaration on, frames queued for a port that is down are discarded. -/
def State.linkFlush (s : State) (p : Nat) : State :=
  if s.cDecl && gwLinked p && !s.gwReady p then
    let n := (s.buf p).length
    (s.setBuf p []).addSat (gwCnt p GwC.LINK_DOWN) 31 0 n
  else s

/-- R632: declaration of Stage C with frames queued for down links. -/
def State.gwDeclared (s : State) : State := s.each (List.range 20) fun s p => s.linkFlush p

/-- ETH_LINK_CHANGE: the link of ETH port `p` goes up or down; `speed` is the SPEED code, fixed at 1 Gb/s for the
1000BASE-T1 ports (R613). -/
def execEthLinkChange (p : Nat) (up : Bool) (speed : Nat) (s : State) : Host.Outcome State Fault Refusal :=
  .next (if p < 4 ∧ s.released Blk.ETH ∧ (s.ethOn p ∨ !up) ∧ s.bit (Reg.ETH_STAT p) 0 ≠ up then
    (((s.putBit (Reg.ETH_STAT p) 0 up).putF (Reg.ETH_STAT p) 3 1 (if p < 2 then 2 else min speed 5)).evt (pageAddr Blk.ETH p) 0).linkFlush p
  else s)

/-- STATE of CAN controller `n`. -/
def State.setCanState (s : State) (n v : Nat) : State :=
  ((s.putF (Reg.CANX_STAT n) 1 0 v).lvl (pageAddr Blk.CANX n) 1 (decide (v = 2))).linkFlush (4 + n)

/-- CAN_ERROR_STATE_CHANGE: controller `n` changes to error state `st` with its error counters; `proto` marks a protocol error. Bus-off ends
only with AUTO_REC. -/
def execCanErrorStateChange (n st tec rec' : Nat) (proto : Bool) (s : State) : Host.Outcome State Fault Refusal :=
  .next (if 16 ≤ n ∨ !s.released Blk.CANX ∨ !s.bit (Reg.CANX_CTL n) 0 ∨ 2 < st then s
    else
      let s := if proto then s.evt (pageAddr Blk.CANX n) 2 else s
      if s.canState n = 2 ∧ !s.bit (Reg.CANX_CTL n) 6 then s
      else
        let old := s.canState n
        let s := (s.putF (Reg.CANX_STAT n) 15 8 tec).putF (Reg.CANX_STAT n) 23 16 rec'
        if st = old then s
        else
          let s := (s.setCanState n st).evt (pageAddr Blk.CANX n) 0
          if st = 0 then s else s.emit (.island Isl.NET (0x2000 + 16 * st + n)))

/-! ## Register writes, release, retained entries (R130, R633, R634, R638) -/

/-- R633: a write of `v` to GW_00.CTL. -/
def State.writeGwCtl (s : State) (req : Requester) (v : Nat) : State :=
  let s := s.regStore req Reg.GW_CTL v
  if v.testBit 0 then (s.funcReady Fn.GATEWAY).gwStat
  else ((s.setGw fun g => { g with bufs := List.replicate 22 [], head := none, pos := 0 }).inspNext.funcLost Fn.GATEWAY).gwStat

/-- R638: a write of `v` to CTL of CAN controller `n`: MODE changes only while EN is 0. -/
def State.writeCanCtl (s : State) (req : Requester) (n v : Nat) : State :=
  let a := Reg.CANX_CTL n
  let old := s.rd a
  let s := if old.testBit 0 ∧ ((v ^^^ old) &&& 6) ≠ 0 then (s.quiet req a Cause.RESERVED_ENC).regStore req a ((v &&& 0xFFFFFFF9) ||| (old &&& 6))
    else s.regStore req a v
  if old.testBit 0 = v.testBit 0 then s
  else (s.setCanState n (if v.testBit 0 then 0 else 3)).evt (pageAddr Blk.CANX n) 0

/-- R638: a write of `v` to a bit-timing register at `a` of CAN controller `n`: only while EN is 0. -/
def State.writeCanTiming (s : State) (req : Requester) (n a v : Nat) : State :=
  if s.bit (Reg.CANX_CTL n) 0 then s.quiet req a Cause.RESERVED_ENC else s.regStore req a v

/-- A write of `v` to CTL of ETH port `p`: disabling takes the link down. -/
def State.writeEthCtl (s : State) (req : Requester) (p v : Nat) : State :=
  let s := s.regStore req (Reg.ETH_CTL p) v
  if !v.testBit 0 && s.bit (Reg.ETH_STAT p) 0 then ((s.putBit (Reg.ETH_STAT p) 0 false).evt (pageAddr Blk.ETH p) 0).linkFlush p else s

/-- R130: the route records that a stow takes: entries marked RETAIN, at most 1,024 (R139). -/
def State.retainedRoutes (s : State) : List (List Byte) :=
  (((List.range 2048).filter fun i => (s.flowWord i 2).testBit 31 && (s.flowWord i 2).testBit 11).map (fun i => s.ibytes (routeBase + 16 * i) 16)
    ++ ((List.range 256).filter fun i => (s.sidWord i 1).testBit 31 && (s.sidWord i 1).testBit 29).map fun i => s.ibytes (sidBase + 16 * i) 16).take 1024

/-- R634: a retained route record is written to its position. -/
def State.restoreRoute (s : State) (r : List Byte) : State :=
  let w (k : Nat) : Nat := leNat ((r.drop (4 * k)).take 4)
  if (w 3).testBit 31 then s.setSid (fld (w 3) 7 0) (w 0) (w 1)
  else if flowReserved (w 2) then s.cnt Reg.GW_REST_BAD
  else s.setFlow (fld (w 2) 30 20) (w 0) (w 1) (w 2) (w 3)

/-- R634: release at Stage A entry, with the retained fields restored and the route records of the image in use. -/
def State.gwRelease (s : State) : State :=
  let s := (s.each s.boot.routes fun s r => s.restoreRoute r).gwFill
  let s := s.each (List.range 16) fun s n => s.putF (Reg.CANX_STAT n) 1 0 (if s.bit (Reg.CANX_CTL n) 0 then 0 else 3)
  (if s.bit Reg.GW_CTL 0 then s.funcReady Fn.GATEWAY else s).gwStat

/-- R632: P4 entry discards the buffers. -/
def State.gwPark (s : State) : State := (s.setGw fun g => { g with bufs := List.replicate 22 [], head := none, pos := 0 }).inspNext

/-! ## gPTP (R90, R614, R632) -/

def State.ptpRole (s : State) (p : Nat) : Nat := s.getF (Reg.ETH_PTP_CFG p) 1 0
def State.slavePort (s : State) : Option Nat := (List.range 4).find? fun p => s.ptpRole p == 2

/-- A write of `v` to PTP_CFG of port `p`: a second SLAVE is a reserved encoding of ROLE. -/
def State.writePtpCfg (s : State) (req : Requester) (p v : Nat) : State :=
  let a := Reg.ETH_PTP_CFG p
  let was := s.slavePort
  let s := if fld v 1 0 = 2 ∧ was.isSome ∧ was ≠ some p then (s.quiet req a Cause.RESERVED_ENC).regStore req a (putFld v 1 0 (s.ptpRole p))
    else s.regStore req a v
  match was, s.slavePort with
  | none, some _ => s.setTimeState 1
  | some _, none => s.gptpNone
  | _, _ => s

/-- GPTP_SYNC_RX: at base tick `t` a Sync of the SLAVE port `p` shows TIME to be `offset` ns behind; `locks` where the servo is in lock. -/
def execGptpSyncRx (p : Nat) (offset : Int) (locks : Bool) (t : Nat) (s : State) : Host.Outcome State Fault Refusal :=
  let s := s.tickTo t
  .next (if p < 4 ∧ s.released Blk.ETH ∧ s.gwReady p ∧ s.ptpRole p = 2 ∧ s.bit (Reg.ETH_PTP_STAT p) 0 then s.gptpOffset offset locks else s)

/-- GPTP_PDELAY_RX: at base tick `t` the peer-delay exchange of port `p` gives a mean link delay of `delay` ns. -/
def execGptpPdelayRx (p delay t : Nat) (s : State) : Host.Outcome State Fault Refusal :=
  let s := s.tickTo t
  .next (if p < 4 ∧ s.released Blk.ETH ∧ s.gwReady p then
    let a := Reg.ETH_PTP_STAT p
    let ok := decide (delay ≤ s.getF (Reg.ETH_PTP_CFG p) 31 16)
    let was := s.bit a 0
    let s := (s.putBit a 0 ok).putF a 31 16 (min delay 65535)
    if was && !ok && decide (s.ptpRole p = 2) then s.gptpLost.evt (pageAddr Blk.ETH p) 1 else s
  else s)

/-- GPTP_SYNC_TX: at base tick `t` a sync interval of MASTER port `p` ends: it sends TIME, relayed where a SLAVE port exists. -/
def execGptpSyncTx (p t : Nat) (s : State) : Host.Outcome State Fault Refusal :=
  let s := s.tickTo t
  .next (if p < 4 ∧ s.released Blk.ETH ∧ s.gwReady p ∧ s.ptpRole p = 1 then s.emit (.sync p s.timeNs s.slavePort.isSome) else s)

/-- GPTP_LOST: gPTP is lost on the SLAVE port. -/
def execGptpLost (t : Nat) (s : State) : Host.Outcome State Fault Refusal :=
  let s := s.tickTo t
  .next (if s.slavePort.isSome then s.gptpLost else s)

end Sys2Proof.Machine
end

