-- ==== Sys2Proof/Machine/Infer.lean ====
section
/-! DEFINITION. DRAIN, the VOP commands (R284, R285, R410), the command watchdog (R417) and the inference-safety commands of SAFE_00
(R414 to R421, R429 to R432). -/

namespace Sys2Proof.Machine

/-- DRAIN. -/
def execDrain (c t : Nat) (env : CoreEnv) (s : State) : Host.Outcome State Fault Refusal :=
  .next (s.coreCmd c t 3 env (fun cmd => cmd % 256 == 0x21) (State.drain env))

/-- Bytes of element `i` at a place of tile memory; a row outside the image reads zero (R287). -/
def State.vopByte (s : State) (c w : Nat) (p : Option Nat) (i : Nat) : Nat :=
  match p with
  | some a => leNat (s.ibytes (tileBase c + a + w * i) w)
  | none => 0

/-- R285: element `i` of a VOP with sources of type `st` at `a` and `b`: its value, or that of the group of 64 elements it stands for. -/
def State.vopValue (s : State) (c op st : Nat) (a b : Option Nat) (imm : Flt) (i : Nat) : Flt :=
  let x := fun (p : Option Nat) (i : Nat) => typeValue st (s.vopByte c (typeBytes st) p i)
  if 0x20 ≤ op then vopGroup op ((List.range 64).map fun k => x a (64 * i + k)) else vopElem op (x a i) (x b i) imm

/-- R285: the `n` results of a VOP, converted to the destination type `dt` and written at `d` one after the other in ascending order: a later
element reads what an earlier one wrote. -/
def State.vopWrite (s : State) (c op st dt : Nat) (a b : Option Nat) (imm : Flt) (d : Nat) (n : Nat) : State :=
  s.each (List.range n) fun s i =>
    s.setIbytes (tileBase c + d + typeBytes dt * i) (leBytes (typeBytes dt) (typeBits dt (s.vopValue c op st a b imm i)))

/-- R285: a VOP. -/
def State.vop (env : CoreEnv) : Effect := fun o off cmd s =>
  let c := o.rank.core
  let op := cb cmd 4 1
  let st := cb cmd 5 1 % 16
  let dt := cb cmd 5 1 / 16
  let n := cb cmd 20 4
  let two := decide (op ≤ 5)
  let group := decide (0x20 ≤ op)
  if !outType st || !outType dt || decide (n = 0) || decide (131072 < n) || (group && decide (n % 64 ≠ 0)) || !(o.ref (cb cmd 8 4)).aligned
        || !(o.ref (cb cmd 12 4)).aligned || (two && !(o.ref (cb cmd 16 4)).aligned) then (.fault CF.BAD_FIELD, s)
  else
      let src := fun (v : Nat) => (s.refRead c o.rank (o.ref v) 0 (n * typeBytes st)).bind fun _ =>
        .ok ((o.rank.place (o.ref v) 0 (n * typeBytes st)).head?.map fun e => e.1)
      let m := if group then n / 64 else n
      let g := (src (cb cmd 12 4)).bind fun a => (if two then src (cb cmd 16 4) else .ok none).bind fun b =>
        (o.rank.dest (o.ref (cb cmd 8 4)) 0 (m * typeBytes dt)).bind fun d => .ok (a, b, d)
      let bad := env.vec && o.job.checked
      let r := s.withEcc o off cmd env (g.bind fun l => .ok fun (s : State) => match l.2.2 with
        | some d => if bad then s else s.vopWrite c op st dt l.1 l.2.1 (val32 (cb cmd 24 4)) d m
        | none => s)
      match r.1 with
      | .ok _ => if bad then (.fault CF.VEC_MISMATCH, r.2) else r
      | _ => r

/-- A VOP with operation `op` on core `c`. -/
def State.vopCmd (s : State) (op c t : Nat) (env : CoreEnv) : State :=
  s.coreCmd c t 3 env (fun cmd => cmd % 256 == 0x30 && cb cmd 4 1 == op) (State.vop env)

/-- VOP ADD. -/
def execVopAdd (c t : Nat) (env : CoreEnv) (s : State) : Host.Outcome State Fault Refusal := .next (s.vopCmd 0x1 c t env)
/-- VOP MUL. -/
def execVopMul (c t : Nat) (env : CoreEnv) (s : State) : Host.Outcome State Fault Refusal := .next (s.vopCmd 0x2 c t env)
/-- VOP FMA. -/
def execVopFma (c t : Nat) (env : CoreEnv) (s : State) : Host.Outcome State Fault Refusal := .next (s.vopCmd 0x3 c t env)
/-- VOP MAX. -/
def execVopMax (c t : Nat) (env : CoreEnv) (s : State) : Host.Outcome State Fault Refusal := .next (s.vopCmd 0x4 c t env)
/-- VOP MIN. -/
def execVopMin (c t : Nat) (env : CoreEnv) (s : State) : Host.Outcome State Fault Refusal := .next (s.vopCmd 0x5 c t env)
/-- VOP CVT. -/
def execVopCvt (c t : Nat) (env : CoreEnv) (s : State) : Host.Outcome State Fault Refusal := .next (s.vopCmd 0x6 c t env)
/-- VOP RELU. -/
def execVopRelu (c t : Nat) (env : CoreEnv) (s : State) : Host.Outcome State Fault Refusal := .next (s.vopCmd 0x10 c t env)
/-- VOP GELU. -/
def execVopGelu (c t : Nat) (env : CoreEnv) (s : State) : Host.Outcome State Fault Refusal := .next (s.vopCmd 0x11 c t env)
/-- VOP SIGMOID. -/
def execVopSigmoid (c t : Nat) (env : CoreEnv) (s : State) : Host.Outcome State Fault Refusal := .next (s.vopCmd 0x12 c t env)
/-- VOP TANH. -/
def execVopTanh (c t : Nat) (env : CoreEnv) (s : State) : Host.Outcome State Fault Refusal := .next (s.vopCmd 0x13 c t env)
/-- VOP EXP. -/
def execVopExp (c t : Nat) (env : CoreEnv) (s : State) : Host.Outcome State Fault Refusal := .next (s.vopCmd 0x14 c t env)
/-- VOP RECIP. -/
def execVopRecip (c t : Nat) (env : CoreEnv) (s : State) : Host.Outcome State Fault Refusal := .next (s.vopCmd 0x15 c t env)
/-- VOP RSQRT. -/
def execVopRsqrt (c t : Nat) (env : CoreEnv) (s : State) : Host.Outcome State Fault Refusal := .next (s.vopCmd 0x16 c t env)
/-- VOP RSUM. -/
def execVopRsum (c t : Nat) (env : CoreEnv) (s : State) : Host.Outcome State Fault Refusal := .next (s.vopCmd 0x20 c t env)
/-- VOP RMAX. -/
def execVopRmax (c t : Nat) (env : CoreEnv) (s : State) : Host.Outcome State Fault Refusal := .next (s.vopCmd 0x21 c t env)

/-- R285: the operations of a VOP. -/
def vopOps : List Nat := [1, 2, 3, 4, 5, 6, 0x10, 0x11, 0x12, 0x13, 0x14, 0x15, 0x16, 0x20, 0x21]

/-- A VOP whose OP is none of R285 is BAD_FIELD; like any command fault it is met as the vector unit reaches it. -/
def State.badVop (s : State) (c t : Nat) (env : CoreEnv) : State :=
  s.coreCmd c t 3 env (fun cmd => cmd % 256 == 0x30 && !vopOps.contains (cb cmd 4 1)) fun _ _ _ s => (.fault CF.BAD_FIELD, s)

/-- BAD_OPCODE: the next command of the list has an opcode that is none of R292, or the next VOP an OP that is none of R285. -/
def execBadOpcode (c t : Nat) (env : CoreEnv) (s : State) : Host.Outcome State Fault Refusal :=
  .next ((s.ctrlCmd c t env (fun cmd => !([0x00, 0x01, 0x02, 0x10, 0x11, 0x20, 0x21, 0x22, 0x30, 0x40, 0x50].contains (cmd % 256))) false
    fun _ _ s => (.fault CF.BAD_OPCODE, s)).badVop c t env)

/-- CMD_WATCHDOG_EXPIRED: at base tick `t` the next command of unit `unit` (2 MAC, 3 vector) of core `c` has issued and not completed
within CMD_WDT × 4,096 grove cycles: CMD_HANG, and the core goes OFFLINE. -/
def execCmdWatchdogExpired (c unit t : Nat) (env : CoreEnv) (s : State) : Host.Outcome State Fault Refusal :=
  let s := s.coreTick t
  .next (match s.issuing c with
    | none => s
    | some o =>
      if unit ≠ 2 ∧ unit ≠ 3 then s
      else
        let p := s.prepare o env
        match p.1 with
        | .ok r => match r.nextOf unit with
          | some (off, cmd) =>
            if r.tokenWait off cmd || r.bankWait off cmd then s
            else
              let s := p.2.setRank o.job.id o.k fun _ => r
              (s.coreFault o off CF.CMD_HANG).leaveService c Svc.OFFLINE
          | none => s
        | _ => s)

/-! ## Commands of SAFE_00 (R416, R419, R421, R429 to R432) -/

/-- R421: whether a self-test of core `c` is accepted. -/
def State.testable (s : State) (c : Nat) : Bool :=
  (s.core c).testing.isNone && !s.bit Reg.SAFE_SELFTEST_STAT 0 && !s.groveClearing (coreGrove c)
    && s.allRanks.all fun o => !(o.rank.core == c && (o.rank.occupies || o.rank.st == .queued || o.rank.st == .saved)) && !(o.rank.slot == c && o.rank.st == .saved)

/-- R421: a write of `v` to SELFTEST. -/
def State.writeSelftest (s : State) (v : Nat) : State :=
  let c := v % 64
  if !v.testBit 31 then s
  else if s.cEntry && s.testable c then
    ((s.wr Reg.SAFE_SELFTEST_STAT (1 + c * 256)).wr (Reg.CORE_ST_RESULT c) 0).startTest c
  else s.putF Reg.SAFE_SELFTEST_STAT 17 16 3

/-- SELFTEST: a write of `value` to SAFE_00.SELFTEST. -/
def execSelftest (req : Requester) (value : Nat) (s : State) : Host.Outcome State Fault Refusal :=
  .next (s.heartWrite req Reg.SAFE_SELFTEST fun s => s.writeSelftest value)

/-- SELFTEST_DONE: at base tick `t` the self-test of core `c`, whose grove has woken to P0 and does not clear, ends; `step` is its first failing step, 0 where it passed; step 3 is a
comparator probe. The tests at start are logged only where they fail (DEDUCED). -/
def execSelftestDone (c step t : Nat) (s : State) : Host.Outcome State Fault Refusal :=
  let s := s.coreTick t
  .next (match (s.core c).testing with
    | none => s
    | some (svc, _) =>
      if 6 < step ∨ 64 ≤ c ∨ s.dom (coreGrove c) ≠ 0 ∨ s.groveClearing (coreGrove c) then s
      else
        let asked := s.bit Reg.SAFE_SELFTEST_STAT 0 && decide (s.getF Reg.SAFE_SELFTEST_STAT 13 8 = c)
        let s := (s.izero (tileBase c) 0x80000).setCore c fun C => { C with banks := [{}, {}], testing := none, passed := decide (step = 0) }
        let s := s.wr (Reg.CORE_ST_RESULT c) ((if step = 0 then 1 else 2) + step * 16)
        let s := if step = 0 ∨ 3 ≤ step then s.incWrap (Reg.CORE_PROBE_CNT c) 31 0 else s
        let s := if asked then s.wr Reg.SAFE_SELFTEST_STAT (c * 256 + 2 ^ 16 * (if step = 0 then 1 else 2) + 2 ^ 20 * step) else s
        let s := if asked || decide (step ≠ 0) then s.infEntry InfT.SELFTEST_DONE c 0 0 else s
        let s := s.setSvc c svc
        if step = 0 then s.coreNext c
        else if svc = Svc.OFFLINE then s else s.leaveService c Svc.OFFLINE)

/-- R416: a write of `v` to RESTORE. -/
def State.writeRestore (s : State) (req : Requester) (v : Nat) : State :=
  let c := v % 64
  if !v.testBit 31 then s
  else if s.cEntry && (decide (s.svc c = Svc.WITHDRAWN) || decide (s.svc c = Svc.OFFLINE)) && (s.core c).passed then
    (((s.putF (Reg.CORE_CHK_STAT c) 11 8 0).setSvc c Svc.IN_SERVICE).infEntry InfT.RESTORED c 0 0).coreNext c
  else s.quiet req Reg.SAFE_RESTORE Cause.RESERVED_ENC

/-- RESTORE: a write of `value` to SAFE_00.RESTORE. -/
def execRestore (req : Requester) (value : Nat) (s : State) : Host.Outcome State Fault Refusal :=
  .next (s.heartWrite req Reg.SAFE_RESTORE fun s => s.writeRestore req value)

/-- R431, R432: a write of `v` to CNT_CLR: the core's counters and REPLAY_MAX; CPF_CNT is RESTORE's (DEDUCED). -/
def State.writeCntClr (s : State) (v : Nat) : State :=
  if v.testBit 31 then
    let c := v % 64
    s.each [Reg.CORE_REPLAY_CNT c, Reg.CORE_CPF_TOTAL c, Reg.CORE_DFAULT_CNT c, Reg.CORE_TM_CE c, Reg.CORE_TM_UE c, Reg.CORE_PROBE_CNT c
      , Reg.CORE_REPLAY_MAX c] fun s a => s.wr a 0
  else s

/-- CNT_CLR: a write of `value` to SAFE_00.CNT_CLR. -/
def execCntClr (req : Requester) (value : Nat) (s : State) : Host.Outcome State Fault Refusal :=
  .next (s.checkedWrite req Reg.SAFE_CNT_CLR 4 fun s => s.writeCntClr value)

/-- RMON_EXPIRED: at base tick `t` ring monitor `k` has seen no record for TMO ms (R419). -/
def execRmonExpired (k t : Nat) (s : State) : Host.Outcome State Fault Refusal :=
  let s := s.tickTo t
  let cfg := s.rd (Reg.SAFE_RMON_CFG k)
  .next (if k < 4 ∧ s.cDecl ∧ cfg.testBit 31 ∧ !s.bit Reg.SAFE_RMON_STAT k
      ∧ s.rmon.getD k 0 + 400000 * s.getF (Reg.SAFE_RMON_TMO k) 15 0 ≤ s.clk.base then
    ((s.putBit Reg.SAFE_RMON_STAT k true).infEntry InfT.RMON_EXPIRED (fld cfg 5 0) 0 0).evt safePage 10
  else s)

/-- R432: a write of `v` to INF_LOG_POP. -/
def State.popInfLog (s : State) (v : Nat) : State :=
  if v.testBit 0 then { s with infLog := s.infLog.tail }.infSync else s

/-- INF_LOG_POP: a write of `value` to SAFE_00.INF_LOG_POP. -/
def execInfLogPop (req : Requester) (value : Nat) (s : State) : Host.Outcome State Fault Refusal :=
  .next (s.checkedWrite req Reg.SAFE_INF_LOG_POP 4 fun s => s.popInfLog value)

/-- R432: a W1C write of `v` to LATENT_LO (`hi` false) or _HI clears LATENT of those cores. -/
def State.writeLatent (s : State) (hi : Bool) (v : Nat) : State :=
  let a := if hi then Reg.SAFE_LATENT_HI else Reg.SAFE_LATENT_LO
  let base := if hi then 32 else 0
  let s := s.wr a (s.rd a &&& (0xFFFFFFFF ^^^ v))
  let s := s.each ((List.range 32).filter fun k => v.testBit k) fun s k => s.putBit (Reg.CORE_CHK_STAT (base + k)) 4 false
  s.lvl safePage 9 (decide (s.rd Reg.SAFE_LATENT_LO ≠ 0) || decide (s.rd Reg.SAFE_LATENT_HI ≠ 0))

/-- R419, R432: a write of `v` to CFG or TMO of monitor `k`: refused whole where it leaves EN 1 with TMO 0; else its timing
restarts (DEDUCED). -/
def State.writeRmon (s : State) (req : Requester) (a k v : Nat) : State :=
  let en := if a = Reg.SAFE_RMON_CFG k then v.testBit 31 else s.bit (Reg.SAFE_RMON_CFG k) 31
  let tmo := if a = Reg.SAFE_RMON_CFG k then s.getF (Reg.SAFE_RMON_TMO k) 15 0 else v % 65536
  if en && decide (tmo = 0) then s.quiet req a Cause.RESERVED_ENC
  else
    let s := s.regStore req a v
    { s with rmon := s.rmon.set k s.clk.base }

end Sys2Proof.Machine
end

