-- ==== Sys2Proof/Machine/Ferry.lean ====
section
/-! DEFINITION. The queues of the ferries (R345 to R348, R351, R353, R357, R360). -/

namespace Sys2Proof.Machine

def ferryPage (f : Nat) : Nat := pageAddr Blk.FERRY f
def State.ferry (s : State) (f : Nat) : Ferry := s.ferries.getD f {}
def State.setFerry (s : State) (f : Nat) (g : Ferry → Ferry) : State := { s with ferries := updAt s.ferries f g }

namespace FErr
abbrev ACCESS : Nat := 1
abbrev TICKET : Nat := 2
abbrev POISON : Nat := 3
abbrev TIMEOUT : Nat := 4
abbrev UNAVAILABLE : Nat := 5
end FErr

/-- STAT.BUSY and Q_STAT follow the queue. -/
def State.ferrySync (s : State) (f : Nat) : State :=
  let F := s.ferry f
  ((s.putF (Reg.FERRY_Q_STAT f) 4 0 F.queue.length).putBit (Reg.FERRY_Q_STAT f) 5 F.failed).putBit (Reg.FERRY_STAT f) 12 F.busy

/-- R344, R360: STAT bits 8:0 show the open transactions of ferry `f`. -/
def State.ferryOpen (s : State) (f : Nat) : State := s.putF (Reg.FERRY_STAT f) 8 0 (min 256 (s.openBy s.held fun a => a.ofFerry f))

/-- R347: a write of `v` to Q_PUSH. -/
def State.writeQPush (s : State) (req : Requester) (f v : Nat) : State :=
  let len := s.getF (Reg.FERRY_Q_LEN f) 24 0
  if !v.testBit 0 then s
  else if len = 0 ∨ len % 64 ≠ 0 ∨ 2 ^ 24 < len ∨ 16 ≤ (s.ferry f).queue.length then s.quiet req (Reg.FERRY_Q_PUSH f) Cause.RESERVED_ENC
  else
    let q : FerryOp := {
      src := 2 ^ 32 * s.getF (Reg.FERRY_Q_SRC_HI f) 15 0 + s.getF (Reg.FERRY_Q_SRC_LO f) 31 6 * 64
      dst := 2 ^ 32 * s.getF (Reg.FERRY_Q_DST_HI f) 15 0 + s.getF (Reg.FERRY_Q_DST_LO f) 31 6 * 64
      len := len, tkt := v.testBit 1, irq := v.testBit 2, bulk := v.testBit 3, db := v.testBit 4, ring := fld v 13 8 }
    (s.setFerry f fun F => { F with queue := F.queue ++ [q] }).ferrySync f

/-- FERRY_Q_PUSH: a write of `value` to Q_PUSH of ferry `f`. -/
def execFerryQPush (req : Requester) (f value : Nat) (s : State) : Host.Outcome State Fault Refusal :=
  .next (if f < 32 then s.checkedWrite req (Reg.FERRY_Q_PUSH f) 4 fun s => s.writeQPush req f value else s)

/-- The ticket that a ferry holds is returned. -/
def State.ferryReturn (s : State) (f : Nat) : State :=
  match (s.ferry f).tag, (s.ferry f).queue.head?.bind fun q => officeOf q.dst with
  | some tag, some k => s.giveBack k tag (Blk.FERRY * 256 + f)
  | _, _ => s

/-- R357: the running transfer of ferry `f` fails at `addr`: the queue halts with it. Its writes still open have nobody waiting. -/
def State.ferryFail (s : State) (f addr err : Nat) : State :=
  let s := match (s.ferry f).queue.head? with
    | some q => s.dropAcks (.block Blk.FERRY f) q.dst q.len
    | none => s
  let s := (((s.ferryReturn f).ferryErr f addr).putF (Reg.FERRY_Q_STAT f) 10 8 err).evt (ferryPage f) 1
  (s.setFerry f fun F => { F with busy := false, tag := none, ask := none, failed := true, sent := false, pos := 0 }).ferrySync f

/-- R348: what the answer to a ferry's request does. -/
def State.ferryAsked (s : State) (f : Nat) (q : FerryOp) (r : Asked) : State :=
  match r with
  | .tag v => s.setFerry f fun F => { F with tag := some v, ask := none }
  | .none => s.setFerry f fun F => { F with ask := none }
  | .wait => s.setFerry f fun F => { F with ask := some (F.ask.getD s.clk.base) }
  | .refused => s.ferryFail f q.dst FErr.TICKET

/-- R348: a ferry asks for the ticket of its running transfer. -/
def State.ferryAsk (s : State) (f : Nat) (q : FerryOp) : State :=
  match officeOf q.dst with
  | none => s.setFerry f fun F => { F with ask := none }
  | some k =>
    let a := s.askTicket k (s.access (.block Blk.FERRY f) q.dst q.len true []) q.len false
    a.2.ferryAsked f q a.1

/-- FERRY_TRANSFER_START: at base tick `t` the next queued transfer of ferry `f` starts (R347, R351, R353). -/
def execFerryTransferStart (f t : Nat) (s : State) : Host.Outcome State Fault Refusal :=
  let s := s.tickTo t
  .next (match (s.ferry f).queue.head? with
    | none => s
    | some q =>
      if (s.ferry f).busy ∨ (s.ferry f).failed ∨ !s.bit (Reg.FERRY_CTL f) 0 ∨ s.leaving.contains (f / 2) ∨ s.dom (f / 2) ≠ 0 ∨ 2 ≤ s.park.stage then s
      else
        let s := (s.setFerry f fun F => { F with busy := true, tag := none, ask := none, pos := 0 }).ferrySync f
        if q.tkt then s.ferryAsk f q else s)

/-- R346: an access of a queue transfer of ferry `f`, in the class pushed with it. -/
def State.ferryAccess (s : State) (f : Nat) (q : FerryOp) (addr : Nat) (write : Bool) (data : List Byte) : Access :=
  { s.access (.block Blk.FERRY f) addr 64 write data with cls := some (2 + q.bulk.toNat) }

/-- The error of R357 that the end of a piece comes to. -/
def ferryErrOf : Moved → Nat
  | .poison => FErr.POISON
  | .lost => FErr.TIMEOUT
  | _ => FErr.ACCESS

/-- How far a copy got: all pieces, up to a piece that is held, or to a failing address with its error. -/
inductive Copied where
  | all
  | upTo (o : Nat)
  | failed (addr err : Nat)
  deriving DecidableEq, Repr

/-- The pieces of a transfer, copied in order; a piece whose read or write is held is not copied. -/
def State.ferryCopy (f : Nat) (q : FerryOp) (tag : Option Nat) (env : MemEnv) : List Nat → State → Copied × State
  | [], s => (.all, s)
  | o :: t, s =>
    let r := s.readRange (s.ferryAccess f q (q.src + o) false []) false false { env with ext := env.ext.drop o }
    match r.1 with
    | .held => (.upTo o, s)
    | .done =>
      let w := r.2.2.writeRange { r.2.2.ferryAccess f q (q.dst + o) true r.2.1 with tkt := tag } false false env
      match w.1 with
      | .held => (.upTo o, s)
      | .done => ferryCopy f q tag env t w.2
      | e => (.failed (q.dst + o) (ferryErrOf e), w.2)
    | e => (.failed (q.src + o) (ferryErrOf e), r.2.2)

/-- Free values at the bytes of a range (R347: overlapping ranges leave the destination undefined). -/
def State.freeBytes (s : State) (a n : Nat) : State :=
  s.each (List.range n) fun s k =>
    let v := s.fresh 8
    v.2.setByte (a + k) (BitVec.ofNat 8 v.1)

/-- R347: a transfer completes. -/
def State.ferryDone (s : State) (f : Nat) (q : FerryOp) : State :=
  let s := ((s.ferryBytes f q.len).incWrap (Reg.FERRY_Q_STAT f) 31 16).setFerry f fun F =>
    { F with queue := F.queue.tail, busy := false, tag := none, sent := false, pos := 0 }
  let s := if q.irq then s.evt (ferryPage f) 0 else s
  let s := s.ferrySync f
  if q.db then s.blockDoorbell Blk.FERRY f q.ring else s

/-- The address of the first write of a block to a range that has ended in error (R357, R651). -/
def State.failedAck (s : State) (req : Requester) (lo len : Nat) : Nat :=
  ((s.fab.reqs.find? fun r => r.isAck req lo len && r.err).map fun r => r.acc.addr).getD lo

/-- A running transfer whose bytes have left completes once every write beyond the device is acknowledged; one that ended in error fails it
(R357, R641, R651). -/
def State.ferryEnd (s : State) (f : Nat) (q : FerryOp) : State :=
  let req := Requester.block Blk.FERRY f
  match s.acks req q.dst q.len with
  | 0 => if (s.ferry f).pos = q.len then s.ferryDone f q else s
  | 1 => s.setFerry f fun F => { F with sent := decide (F.pos = q.len) }
  | _ => s.ferryFail f (s.failedAck req q.dst q.len) FErr.ACCESS

/-- R159, R173: the ferries of grove `g` move nothing: it is not in P0, or P4 entry has stopped them. -/
def State.ferryStopped (s : State) (f : Nat) : Bool := decide (s.dom (f / 2) ≠ 0) || decide (2 ≤ s.park.stage)

/-- FERRY_TRANSFER_DONE: at base tick `t` the running transfer of ferry `f` moves what it still has to, up to an access that is held, and
completes where nothing is left; `env` is what its accesses meet, its bytes those that a source outside the device returns, by offset. -/
def execFerryTransferDone (f t : Nat) (env : MemEnv) (s : State) : Host.Outcome State Fault Refusal :=
  let s := s.tickTo t
  .next (match (s.ferry f).queue.head? with
    | none => s
    | some q =>
      if !(s.ferry f).busy ∨ (s.ferry f).ask.isSome ∨ s.ferryStopped f then s
      else if (s.ferry f).sent ∨ s.acks (.block Blk.FERRY f) q.dst q.len = 2 then s.ferryEnd f q
      else
        let r := State.ferryCopy f q (s.ferry f).tag env (((List.range (q.len / 64)).map fun k => 64 * k).filter fun o => (s.ferry f).pos ≤ o) s
        match r.1 with
        | .failed a e => r.2.ferryFail f a e
        | .upTo o => (r.2.setFerry f fun F => { F with pos := o }).ferryEnd f q
        | .all =>
          let s := if q.src < q.dst + q.len ∧ q.dst < q.src + q.len then r.2.freeBytes q.dst q.len else r.2
          (s.setFerry f fun F => { F with pos := q.len }).ferryEnd f q)

/-- R357: a write of `v` to CTL of ferry `f`: Q_EN written 1 after 0 discards a failed transfer. -/
def State.writeFerryCtl (s : State) (req : Requester) (f v : Nat) : State :=
  let old := s.bit (Reg.FERRY_CTL f) 0
  let s := s.regStore req (Reg.FERRY_CTL f) v
  if !old && v.testBit 0 && (s.ferry f).failed then (s.setFerry f fun F => { F with queue := F.queue.tail, failed := false }).ferrySync f else s

/-- R351: at the start of the clear of a leaving grove what its ferries still hold is discarded. -/
def State.ferryDiscard (s : State) (f : Nat) : State :=
  let F := s.ferry f
  let gone := if F.failed then F.queue.tail else F.queue
  if gone = [] then s
  else
    let s := (s.addSat (Reg.FERRY_XFER_ERR_CNT f) 31 0 gone.length).putF (Reg.FERRY_Q_STAT f) 10 8 FErr.UNAVAILABLE
    ((s.evt (ferryPage f) 1).setFerry f fun F => { F with queue := if F.failed then F.queue.take 1 else [] }).ferrySync f

/-- R351: when quiesce ends early a running transfer is aborted. -/
def State.ferryAbort (s : State) (f : Nat) : State :=
  match (s.ferry f).busy, (s.ferry f).queue.head? with
  | true, some q => s.ferryFail f q.dst FErr.UNAVAILABLE
  | _, _ => s

/-- R348: a ferry that waits for its ticket asks again. -/
def State.ferryRetry (s : State) (f : Nat) : State :=
  match (s.ferry f).ask, (s.ferry f).queue.head? with
  | some _, some q => s.ferryAsk f q
  | _, _ => s

/-- R348: it has waited TKT_WAIT µs. -/
def State.ferryWaitExpired (s : State) (f : Nat) : State :=
  match (s.ferry f).ask, (s.ferry f).queue.head? with
  | some t, some q => if t + s.getF (Reg.GROVE_TKT_WAIT (f / 2)) 15 0 * 400 ≤ s.clk.base then s.ferryFail f q.dst FErr.TICKET else s
  | _, _ => s

end Sys2Proof.Machine
end

