-- ==== Sys2Proof/Machine/Berth.lean ====
section
/-! DEFINITION. Triggers, berths and accumulation (R492 to R518), and the samples of the fast digitiser (R464). -/

namespace Sys2Proof.Machine

def berthPage : Nat := pageAddr Blk.BERTH 0
def trigPage (c : Nat) : Nat := pageAddr Blk.TRIG c

/-! ## A program's registers (R518) -/

def State.pCount (s : State) (p : Nat) : Nat := s.getF (Reg.BERTH_COUNT p) 16 0
def State.pLen (s : State) (p : Nat) : Nat := s.getF (Reg.BERTH_LEN p) 24 0
def State.pPre (s : State) (p : Nat) : Nat := s.getF (Reg.BERTH_PRE p) 24 0
def State.pFmt (s : State) (p : Nat) : Nat := s.getF (Reg.BERTH_FMT p) 1 0
def State.pDec (s : State) (p : Nat) : Nat := s.getF (Reg.BERTH_FMT p) 5 4
def State.pD (s : State) (p : Nat) : Nat := 2 ^ s.getF (Reg.BERTH_FMT p) 12 8
def State.pAcc (s : State) (p : Nat) : Nat := s.getF (Reg.BERTH_FMT p) 31 16
def State.pMode (s : State) (p : Nat) : Nat := s.getF (Reg.BERTH_MODE p) 1 0
/-- R506: the program accumulates. -/
def State.pAccum (s : State) (p : Nat) : Bool := decide (1 < s.pAcc p) || decide (s.pDec p = 3)
/-- Values that one interval gives (R505). -/
def State.pVals (s : State) (p : Nat) : Nat := if s.pDec p = 1 ∨ s.pDec p = 3 then 2 else 1
/-- Pre-trigger samples of an accumulating program. -/
def State.pPreSamples (s : State) (p : Nat) : Nat := (s.pPre p + s.pVals p - 1) / s.pVals p * s.pD p
/-- R502: bytes of `n` values. -/
def fmtBytes (fmt n : Nat) : Nat := if fmt = 0 then n / 16 * 24 else if fmt = 1 then 2 * n else 4 * n
def State.pStride (s : State) (p : Nat) : Nat := (fmtBytes (s.pFmt p) (s.pLen p) + 63) / 64 * 64
def State.pBase (s : State) (p : Nat) : Nat := s.getF (Reg.BERTH_BASE p) 24 6 * 64
def State.pHdr (s : State) (p : Nat) : Nat := s.getF (Reg.BERTH_HDR_BASE p) 24 6 * 64
def State.wrIdx (s : State) (p : Nat) : Nat := s.getF (Reg.BERTH_WR_IDX p) 15 0
/-- Physical address of berth `i` and of its header. -/
def State.berthAddr (s : State) (p i : Nat) : Nat := acqBase + s.pBase p + i * s.pStride p
def State.headAddr (s : State) (p i : Nat) : Nat := acqBase + s.pHdr p + 32 * i

/-! ## Access to the store (R503, R515) -/

/-- R503: RCHK_24 permits a write over a range by the BERTH_00 page's world without a tag. The check records no refusal (log entry 30). -/
def State.acqPermits (s : State) (addr len : Nat) : Bool :=
  (pageParts addr len).all fun q =>
    (s.regionDecide 24 { s.access (.block Blk.BERTH 0) q.1 q.2 true [] with part := none }).1 == 0

/-- Write the value of index `i` of a berth at `a` (R502). -/
def State.putVal (s : State) (fmt a i : Nat) (v : Int) : State :=
  if fmt = 0 then
    let b := a + i / 2 * 3
    let c := enc 12 v
    let w := s.le b 3
    s.setLe b 3 (if i % 2 = 0 then putFld w 11 0 c else putFld w 23 12 c)
  else if fmt = 1 then s.setLe (a + 2 * i) 2 (enc 16 v) else s.setLe (a + 4 * i) 4 (enc 32 v)

/-- A stored value of 16 or 32 bits. -/
def State.getVal (s : State) (fmt a i : Nat) : Int := if fmt = 1 then sgn 16 (s.le (a + 2 * i) 2) else sgn 32 (s.le (a + 4 * i) 4)

/-! ## Decimation (R505) -/

def Interval.add (x : Interval) (v : Int) : Interval :=
  if x.cnt = 0 then { cnt := 1, first := v, lo := v, hi := v, sum := v }
  else { cnt := x.cnt + 1, first := x.first, lo := min x.lo v, hi := max x.hi v, sum := x.sum + v }

/-- The values of an interval of `d` samples. -/
def Interval.vals (x : Interval) (dec d : Nat) : List Int :=
  match dec with
  | 0 => [x.first]
  | 2 => [(32 * x.sum + d) / (2 * d : Nat)]
  | _ => [x.lo, x.hi]

/-- R506: one value of an accumulating berth: the first acquisition writes it, a later one adds it or widens the pair. -/
def State.accVal (s : State) (p i : Nat) (v : Int) : State :=
  let a := s.berthAddr p (s.wrIdx p)
  if (s.prog p).acqs = 0 then s.putVal (s.pFmt p) a i v
  else
    let old := s.getVal (s.pFmt p) a i
    s.putVal (s.pFmt p) a i (if s.pDec p = 3 then (if (i + s.pPre p) % 2 = 0 then min old v else max old v) else old + v)

/-- Values of an interval go to the berth, at their place in time order or circularly (R504, R506); none beyond `stop`. -/
def State.storeVals (s : State) (p : Nat) (stop : Option Nat) : List Int → State
  | [] => s
  | v :: t =>
    let k := (s.prog p).k
    if (match stop with
      | some n => decide (n ≤ k)
      | none => false) then s
    else
      let s := if s.pAccum p then s.accVal p k v else s.putVal (s.pFmt p) (s.berthAddr p (s.wrIdx p)) (k % max (s.pLen p) 1) v
      storeVals (s.setProg p fun (g : Prog) => { g with k := k + 1 }) p stop t

/-- Values written when a berth or acquisition is complete, once its trigger is known (R504, R506). -/
def State.pTotal (s : State) (p : Nat) : Option Nat :=
  match (s.prog p).fire with
  | none => none
  | some f =>
    if s.pAccum p then some (s.pLen p)
    else some ((f.at' / s.pD p - ((s.prog p).start + s.pD p - 1) / s.pD p) * s.pVals p + s.pLen p - s.pPre p)

/-- One sample enters the interval under way; a full interval is stored. -/
def State.feed (s : State) (p : Nat) (v : Int) : State :=
  let x := (s.prog p).iv.add v
  if x.cnt < s.pD p then s.setProg p fun (g : Prog) => { g with iv := x }
  else (s.setProg p fun (g : Prog) => { g with iv := {} }).storeVals p (s.pTotal p) (x.vals (s.pDec p) (s.pD p))

/-! ## Phases of a program (R499, R504, R506 to R508) -/

def State.setPh (s : State) (p : Nat) (ph : ProgPh) : State := (s.setProg p fun (g : Prog) => { g with ph := ph }).trigShow p

/-- R508: a berth is free for the program after berth `w`. -/
def State.berthFree (s : State) (p w : Nat) : Bool :=
  match s.pMode p with
  | 1 => true
  | 2 => decide ((w + 1) % max (s.pCount p) 1 ≠ s.getF (Reg.BERTH_RD_IDX p) 15 0 % max (s.pCount p) 1)
  | 3 => decide ((s.rd (Reg.BERTH_DONE_CNT p) + 2 ^ 32 - (s.prog p).copied % 2 ^ 32) % 2 ^ 32 < s.pCount p)
  | _ => true

/-- R508: a program that waits for a berth goes on once one is free. -/
def State.berthRetry (s : State) (p : Nat) : State :=
  if (s.prog p).ph = .wait ∧ s.berthFree p (s.wrIdx p) then
    ((s.putF (Reg.BERTH_WR_IDX p) 15 0 ((s.wrIdx p + 1) % max (s.pCount p) 1)).setProg p fun (g : Prog) => { g with start := (s.fdig p).n }).setPh p .gap
  else s

/-- STREAM_FULL (R509): the ring is full while a program streams. -/
def State.streamShow (s : State) (p : Nat) : State :=
  let on := decide (s.pMode p = 3) && (!s.idle p || s.rd (Reg.BERTH_DONE_CNT p) != (s.prog p).copied % 2 ^ 32)
  let n := max (s.getF (Reg.BERTH_SCOUNT p) 23 0) 1
  s.lvl berthPage (5 + p) (on && decide ((s.rd (Reg.BERTH_STAIL p) + 1) % n = s.rd (Reg.BERTH_SHEAD p) % n))

/-- FLAGS gathered from sample `f0` on (R470, R505, R513): SWAP, CLIP and TAP_OFF. -/
def State.spanFlags (s : State) (p f0 : Nat) : Nat :=
  let hit (strict : Bool) : Option Nat → Nat
    | some n => if f0 + strict.toNat ≤ n then 1 else 0
    | none => 0
  hit true (s.fdig p).swapN * 8 + hit false (s.prog p).clip * 16 + hit false (s.fdig p).off * 32

/-- R507: the header of the berth being filled. -/
def State.writeHead (s : State) (p start accn flags : Nat) : State :=
  match (s.prog p).head with
  | none => s
  | some h =>
    let f := flags + 1 + h.fire.interp.toNat * 2 + h.fire.auto.toNat * 4 + h.fire.type * 256 + 4096 * s.getF (Reg.FDIG_RATE p) 1 0
    s.setBytes (s.headAddr p (s.wrIdx p))
      (leBytes 8 h.fire.pos ++ leBytes 8 h.time ++ leBytes 4 h.ang ++ leBytes 4 start ++ leBytes 2 accn ++ leBytes 2 f ++ leBytes 4 h.seq)

/-- R504, R508: the berth is complete: its header is written, DONE_CNT counts, and the program goes on, waits or is done. -/
def State.berthDone (s : State) (p : Nat) : State :=
  let s := (s.incWrap (Reg.BERTH_DONE_CNT p) 31 0)
  let s := if s.bit (Reg.BERTH_MODE p) 4 then s.evt berthPage p else s
  let w := s.wrIdx p
  let s := s.setProg p fun (g : Prog) => { g with fire := none, head := none, iv := {}, hist := [], k := 0, acqs := 0, flags := 0
                                                  start := (s.fdig p).n + 32 }
  let s := if s.pMode p = 0 ∧ w + 1 ≥ s.pCount p then
      ((s.setProgState p ProgSt.DONE).evt berthPage (2 + p)).setPh p .off
    else if s.berthFree p w then (s.putF (Reg.BERTH_WR_IDX p) 15 0 ((w + 1) % max (s.pCount p) 1)).setPh p .gap
    else s.setPh p .wait
  s.streamShow p

/-- R504: the last value of a berth without accumulation is written. -/
def State.plainDone (s : State) (p : Nat) : State :=
  match s.pTotal p with
  | none => s
  | some n =>
    let d := s.pD p
    let first := (((s.prog p).start + d - 1) / d + (n - s.pLen p) / s.pVals p) * d
    (s.writeHead p (n % max (s.pLen p) 1) 1 (s.spanFlags p first)).berthDone p

/-- R506: an acquisition is complete; the last one completes the berth, another one lets the channel fill its history again. -/
def State.acqDone (s : State) (p : Nat) : State :=
  match (s.prog p).fire with
  | none => s
  | some f =>
    let fl := (s.prog p).flags ||| s.spanFlags p (f.at' - s.pPreSamples p)
    let n := (s.prog p).acqs + 1
    if s.pAcc p ≤ n then (s.writeHead p 0 n fl).berthDone p
    else (s.setProg p fun (g : Prog) => { g with acqs := n, flags := fl, fire := none, k := 0, iv := {}, hist := [], start := (s.fdig p).n + 32 }).setPh p .gap

/-- The values of the capture under way are all written. -/
def State.captured (s : State) (p : Nat) : Bool :=
  (s.prog p).ph = .capture && (match s.pTotal p with
    | some n => decide (n ≤ (s.prog p).k)
    | none => false)

/-- BERTH_COMPLETE's effect, where it is due. -/
def State.finishDue (s : State) (p : Nat) : State :=
  if s.captured p then (if s.pAccum p then s.acqDone p else s.plainDone p) else s

/-- R504, R506: the channel becomes READY once its pre-trigger part is filled. -/
def State.prefillDue (s : State) (p : Nat) : State :=
  let g := s.prog p
  if g.ph = .fill ∧ (if s.pAccum p then decide (s.pPreSamples p ≤ g.hist.length) else decide (s.pPre p ≤ g.k)) then
    (s.setTrig p fun (x : TrigSt) => { x with ready := s.clk.base, was := false }).setPh p .ready
  else s

/-- R503, R506: the next berth starts, after the check of RCHK_24; between acquisitions of one berth nothing is checked. -/
def State.startDue (s : State) (p : Nat) : State :=
  let g := s.prog p
  if g.ph = .gap ∧ g.start ≤ (s.fdig p).n then
    if 0 < g.acqs then s.setPh p .fill
    else if s.acqPermits (s.berthAddr p (s.wrIdx p)) (s.pStride p) && s.acqPermits (s.headAddr p (s.wrIdx p)) 32 then
      let h := s.headAddr p (s.wrIdx p) + 0x1A
      (s.setLe h 2 (s.le h 2 / 2 * 2)).setPh p .fill
    else s.progError p 4
  else s

/-! ## Accepting triggers (R499 to R501) -/

/-- Sample period of a channel in ps (R462, R463, R483). -/
def State.period (s : State) (c : Nat) : Nat :=
  match s.getF (Reg.FDIG_RATE c) 1 0 with
  | 1 => 400
  | 2 => 100
  | _ => 200

/-- R500: the holdoff of unit `c` has ended at sample `n`. -/
def State.holdOver (s : State) (c n : Nat) : Bool :=
  match (s.trig c).hold with
  | none => true
  | some h =>
    match s.getF (Reg.TRIG_CTL c) 9 8 with
    | 1 => decide (1000 * (s.rd (Reg.TRIG_HOLD_T_LO c) + 2 ^ 32 * s.getF (Reg.TRIG_HOLD_T_HI c) 1 0) ≤ (n - h.from') * s.period c)
    | 2 => decide (s.getF (Reg.TRIG_HOLD_N c) 15 0 ≤ h.n)
    | 3 =>
      let d := s.getF (Reg.TRIG_CTL c) 11 10
      !s.stopped d && decide ((s.rd (Reg.TRIG_HOLD_ANG c) : Int) ≤ h.dir * ((s.adom d).shown - h.ang))
    | _ => true

/-- R507: the published angle that a header records; ANG_DOM 3 names no domain and its angle is a free value. -/
def State.headAngle (s : State) (p : Nat) : Nat × State :=
  let d := s.getF (Reg.BERTH_MODE p) 9 8
  if d = 3 then s.fresh 32 else (s.rd (Reg.ANGLE_DOM_ANGLE d), s)

/-- R506: the pre-trigger part of an acquisition, from samples in time order. -/
def State.feedAll (s : State) (p : Nat) : List Int → State
  | [] => s
  | v :: t => feedAll (s.feed p v) p t

/-- R506: an acquisition begins at sample `at'`: PRE values from the history, then the samples since. -/
def State.beginAcq (s : State) (p at' : Nat) : State :=
  let h := (s.prog p).hist
  let m := (s.fdig p).n - at'
  let pre := s.pPreSamples p
  let s := s.setProg p fun (g : Prog) => { g with k := 0, iv := {}, hist := [] }
  let old := ((h.drop m).take pre).reverse
  let skip := pre / s.pD p * s.pVals p - s.pPre p
  let vals := (List.range (pre / s.pD p)).flatMap fun i =>
    (((old.drop (i * s.pD p)).take (s.pD p)).foldl Interval.add {}).vals (s.pDec p) (s.pD p)
  let s := s.storeVals p none (vals.drop skip)
  s.feedAll p ((h.take m).reverse)

/-- R497, R496: an accepted trigger goes out: to the event network with EVT_OUT, and to the other unit under KIND 2. -/
def State.trigOut (s : State) (c : Nat) (f : Fire) : State :=
  let s := if s.bit (Reg.TRIG_CTL c) 13 then (s.emit (.pulse Blk.TRIG c)).netPulse 1 c (s.clk.base + 8) else s
  let o := 1 - c
  if s.getF (Reg.TRIG_CTL o) 3 0 = 7 ∧ s.getF (Reg.TRIG_EXT_SRC o) 2 0 = 2 ∧ !s.combined then
    s.setTrig o fun (x : TrigSt) => { x with fire := some f } else s

/-- R499: a trigger of unit `c` is accepted. -/
def State.accept (s : State) (c : Nat) (f : Fire) : State :=
  let s := s.incWrap (Reg.TRIG_SEQ c) 31 0
  let s := (s.wr (Reg.TRIG_POS_LO c) f.pos).evt (trigPage c) 0
  let s := s.setTrig c fun (x : TrigSt) => { x with pos := f.pos, ttime := s.timeNs }
  let d := s.getF (Reg.TRIG_CTL c) 11 10
  let s := s.setTrig c fun (x : TrigSt) => { x with
    ready := s.clk.base
    hold := if s.getF (Reg.TRIG_CTL c) 9 8 = 0 then none else some { from' := f.at', ang := (s.adom d).shown, dir := (s.adom d).dir } }
  let a := match f.ang with
    | some a => (a, s)
    | none => s.headAngle c
  let s := a.2
  let h : HeadRec := { fire := f, time := s.timeNs, ang := a.1, seq := s.rd (Reg.TRIG_SEQ c) }
  let s := s.setProg c fun (g : Prog) => { g with fire := some f, head := if g.head.isSome then g.head else some h }
  let s := s.setPh c .capture
  let s := if s.pAccum c then s.beginAcq c f.at' else s
  s.trigOut c f

/-- R499: a decided trigger of unit `c` is accepted, or counts as skipped in the first case that applies. -/
def State.trigTake (s : State) (c : Nat) (f : Fire) : State :=
  let s := (s.setTrig c fun (x : TrigSt) => { x with fire := none })
  match (s.prog c).ph with
  | .capture => if s.bit (Reg.FDIG_STAT c) 14 then s.cnt (Reg.TRIG_EARLY_SKIP c) else s.cnt (Reg.TRIG_BUSY_SKIP c)
  | .wait =>
    if s.bit (Reg.FDIG_STAT c) 14 then s.cnt (Reg.TRIG_EARLY_SKIP c)
    else
      let s := s.cnt (Reg.TRIG_NOBERTH_SKIP c)
      if (s.prog c).noberth then s else (s.evt berthPage 7).setProg c fun (g : Prog) => { g with noberth := true }
  | .ready =>
    if s.bit (Reg.FDIG_STAT c) 14 then s.cnt (Reg.TRIG_EARLY_SKIP c)
    else if s.holdOver c f.at' then s.accept c f
    else (s.cnt (Reg.TRIG_HOLD_SKIP c)).setTrig c fun (x : TrigSt) => { x with hold := x.hold.map fun h => { h with n := h.n + 1 } }
  | _ => s.cnt (Reg.TRIG_EARLY_SKIP c)

/-- A trigger decided at a sample that has been delivered. -/
def State.fireDue (s : State) (c : Nat) : State :=
  match (s.trig c).fire with
  | some f => if f.at' < (s.fdig c).n then s.trigTake c f else s
  | none => s

/-! ## Trigger conditions (R494, R495, R498) -/

/-- R498: position × 256 of a crossing of level `l` between sample `n` − 1 of code `a` and sample `n` of code `b`. -/
def crossPos (n : Nat) (l a b : Int) : Nat :=
  let den := (b - a).natAbs
  let num := (l - a).natAbs
  (n - 1) * 256 + (if den = 0 then 0 else (512 * num + den) / (2 * den))

/-- The crossings of the two levels at a sample (rising A, falling A, rising B, falling B). -/
structure Crossings where
  upA : Bool
  dnA : Bool
  upB : Bool
  dnB : Bool

/-- R495: crossings of the levels of unit `c` at a sample of code `v`. -/
def State.crossings (s : State) (c : Nat) (v : Int) : Crossings :=
  let x := s.trig c
  let la := sgn 16 (s.rd (Reg.TRIG_LEVEL_A c))
  let lb := sgn 16 (s.rd (Reg.TRIG_LEVEL_B c))
  { upA := x.below.getD 0 false && decide (la < v), dnA := x.above.getD 0 false && decide (v < la)
    upB := x.below.getD 1 false && decide (lb < v), dnB := x.above.getD 1 false && decide (v < lb) }

/-- R495: which sides of the hysteresis bands the signal has visited since the last crossing, and the crossings' sample numbers. -/
def State.trackLevels (s : State) (c n : Nat) (v : Int) (k : Crossings) : State :=
  let h : Int := s.getF (Reg.TRIG_HYST c) 7 0
  let la := sgn 16 (s.rd (Reg.TRIG_LEVEL_A c))
  let lb := sgn 16 (s.rd (Reg.TRIG_LEVEL_B c))
  s.setTrig c fun (x : TrigSt) => { x with
    below := [(x.below.getD 0 false && !k.upA) || decide (v ≤ la - h), (x.below.getD 1 false && !k.upB) || decide (v ≤ lb - h)]
    above := [(x.above.getD 0 false && !k.dnA) || decide (la + h ≤ v), (x.above.getD 1 false && !k.dnB) || decide (lb + h ≤ v)]
    rise := if k.upA then some n else x.rise
    fall := if k.dnA then some n else x.fall
    runtUp := if k.upA || k.dnA then false else if k.upB then true else if k.dnB then false else x.runtUp
    runtDn := if k.upB || k.dnB then false else if k.dnA then true else if k.upA then false else x.runtDn }

/-- R494: a width qualifies. -/
def State.widthOk (s : State) (c w : Nat) : Bool :=
  let lo := s.rd (Reg.TRIG_W_MIN c)
  let hi := s.rd (Reg.TRIG_W_MAX c)
  match s.getF (Reg.TRIG_CTL c) 7 6 with
  | 0 => decide (w < hi)
  | 1 => decide (lo < w)
  | 2 => decide (lo ≤ w) && decide (w ≤ hi)
  | _ => decide (w < lo) || decide (hi < w)

/-- R495: the four pattern inputs match PATTERN at a sample of code `v`. -/
def State.patternMatch (s : State) (c : Nat) (v : Int) : Bool :=
  let above (c : Nat) (v : Int) : Bool := decide (sgn 16 (s.rd (Reg.TRIG_LEVEL_A c)) < v)
  let ins := [above c v, above (1 - c) (s.fdig (1 - c)).last, s.extTrig.getD 0 false, s.extTrig.getD 1 false]
  (List.range 4).all fun k =>
    let p := if k = 1 ∧ s.combined then 2 else s.getF (Reg.TRIG_PATTERN c) (2 * k + 1) (2 * k)
    decide (p = 2) || (ins.getD k false == decide (p = 1))

/-- R494, R498: the trigger that unit `c`'s own condition decides at sample `n` of code `v`, the one before being `a`. -/
def State.condition (s : State) (c n : Nat) (a v : Int) (k : Crossings) : Option Fire :=
  let type := s.getF (Reg.TRIG_CTL c) 3 0
  let pol := s.getF (Reg.TRIG_CTL c) 5 4
  let up := decide (pol = 0) || decide (pol = 2)
  let dn := decide (pol = 1) || decide (pol = 2)
  let la := sgn 16 (s.rd (Reg.TRIG_LEVEL_A c))
  let lb := sgn 16 (s.rd (Reg.TRIG_LEVEL_B c))
  let x := s.trig c
  let cross (l : Int) : Option Fire := some { at' := n, pos := crossPos n l a v, interp := true, type := type }
  let here : Option Fire := some { at' := n, pos := n * 256, type := type }
  let width : Option Nat → Bool
    | some m => s.widthOk c (n - m)
    | none => false
  match type with
  | 0 => if (k.upA && up) || (k.dnA && dn) then cross la else none
  | 1 =>
    let now := (s.prog c).ph == .ready && (if pol = 1 then decide (v < la) else decide (la < v))
    if now && !x.was then here else none
  | 2 =>
    if la ≤ lb then none
    else if (k.upB && up) || (k.dnB && dn) then cross lb
    else if (k.dnA && up) || (k.upA && dn) then cross la else none
  | 3 => if (k.dnA && up && width x.rise) || (k.upA && dn && width x.fall) then cross la else none
  | 4 =>
    if la ≤ lb then none
    else if k.dnB && x.runtUp && up then cross lb
    else if k.upA && x.runtDn && dn then cross la else none
  | 5 =>
    if s.patternMatch c v && x.pat == some (s.rd (Reg.TRIG_W_MIN c) - 1) then here else none
  | _ => none

/-- The unit evaluates sample `n` of code `v` (R494): its condition, or an event that has arrived. -/
def State.evaluate (s : State) (c n : Nat) (a v : Int) : State :=
  let k := s.crossings c v
  let own := s.condition c n a v k
  let x := s.trig c
  let come := x.come.map fun f => { f with at' := n, pos := if f.interp then f.pos else n * 256 }
  let la := sgn 16 (s.rd (Reg.TRIG_LEVEL_A c))
  let was := (s.prog c).ph == .ready && (if s.getF (Reg.TRIG_CTL c) 5 4 = 1 then decide (v < la) else decide (la < v))
  let m := s.patternMatch c v
  let s := s.trackLevels c n v k
  s.setTrig c fun (y : TrigSt) => { y with
    was := was
    pat := if m then y.pat.map (· + 1) else some 0
    come := none
    fire := match own, come, y.fire with
      | some f, _, _ => some f
      | none, some f, _ => some f
      | none, none, f => f }

/-! ## Samples (R464, R504 to R506, R514) -/

/-- What is due before the next sample of channel `c`. -/
def State.stepsDue (s : State) (c : Nat) : State := ((((s.fireDue c).finishDue c).startDue c).prefillDue c)

/-- A sample enters the program of channel `c`; `ecc` is the result of an accumulation read (R514, R515). -/
def State.acquire (s : State) (c n : Nat) (v : Int) (clip : Bool) (ecc : Nat) : State :=
  let s := if clip then s.setProg c fun (g : Prog) => { g with clip := some n } else s
  let g := s.prog c
  match g.ph with
  | .fill | .ready =>
    if s.pAccum c then s.setProg c fun (g : Prog) => { g with hist := (v :: g.hist).take (max (s.pPreSamples c) 1) }
    else if n < (g.start + s.pD c - 1) / s.pD c * s.pD c then s else s.feed c v
  | .capture =>
    if s.pAccum c && decide (0 < g.acqs) && decide (s.pD c ≤ g.iv.cnt + 1) then
      let at' := s.berthAddr c (s.wrIdx c) + fmtBytes (s.pFmt c) g.k
      let e := s.eccResult berthPage acqBase (s.access (.block Blk.BERTH 0) at' 4 false []) 8 { word := at', ecc := ecc }
      if 2 ≤ e.1 then (e.2.2.cnt Reg.BERTH_ECC_UE).progError c 9
      else (if e.1 = 1 then e.2.2.cnt Reg.BERTH_ECC_CE else e.2.2).feed c v
    else s.feed c v
  | _ => s

/-- One sample of a channel. -/
def State.sampled (s : State) (c : Nat) (raw : Int) (ecc : Nat) : State :=
  let s := s.stepsDue c
  let x := s.fdig c
  let denied := s.bit (Reg.FDIG_STAT c) 12
  let off := denied || decide (s.getF (Reg.FDIG_INPUT c) 5 0 = 0)
  let raw := if off then s.offCode c else raw
  let v := clampS 12 raw
  let s := if v = raw then s else s.cnt (Reg.FDIG_CLIP_CNT c)
  let s := s.setFdig c fun (y : Fdig) => { y with
    n := x.n + 1, last := v, off := if denied then some x.n else y.off, ovld := if v = raw then y.ovld else s.clk.base }
  (s.acquire c x.n v (decide (v ≠ raw)) ecc).evaluate c x.n x.last v

/-! ## Arming (R510, R511) -/

/-- Store areas of a program: offset and bytes. -/
def State.areas (s : State) (p : Nat) : List (Nat × Nat) := [(s.pBase p, s.pCount p * s.pStride p), (s.pHdr p, 32 * s.pCount p)]
def overlaps (a b : Nat × Nat) : Bool := decide (a.1 < b.1 + b.2) && decide (b.1 < a.1 + a.2)

/-- R505, R510: the FORMAT conditions. -/
def State.formatBad (s : State) (p : Nat) : Bool :=
  let len := s.pLen p
  let pair := match s.pDec p, s.pFmt p with
    | 0, f => decide (f ≤ 2)
    | 1, f => decide (f ≤ 1) && decide (2 ≤ s.pD p) && decide (len % 2 = 0)
    | 2, f => decide (f = 1) || decide (f = 2)
    | _, f => decide (f = 1) && decide (len % 2 = 0)
  decide (len < 256) || decide (2 ^ 24 < len) || decide (len % 64 ≠ 0) || decide (len ≤ s.pPre p) || !pair
    || (decide (1 < s.pAcc p) && decide (s.pFmt p ≠ 2) && decide (s.pDec p ≠ 3)) || (decide (s.pFmt p = 2) && decide (s.pAcc p = 1))
    || (s.pAccum p && decide (2 ^ 20 < s.pPre p * s.pD p))

/-- R510: the first failing code of ARM; 0 none. -/
def State.armCause (s : State) (p : Nat) : Nat :=
  let o := 1 - p
  let act := !s.idle o
  if (s.areas p).any fun a => decide (0x2000000 < a.1 + a.2) then 1
  else if overlaps ((s.areas p).getD 0 (0, 0)) ((s.areas p).getD 1 (0, 0))
      || (act && ((s.areas p).any fun a => (s.areas o).any fun b => overlaps a b)) || (act && decide (65536 < s.pCount p + s.pCount o)) then 2
  else if s.formatBad p then 3
  else if (s.areas p).any fun a => !s.acqPermits (acqBase + a.1) a.2 then 4
  else if !s.bit Reg.BERTH_CTL 0 || !s.fdigRuns p || (decide (p = 1) && s.combined) then 5
  else if s.pMode p = 3 ∧ s.getF (Reg.BERTH_SCOUNT p) 23 0 < 2 then 6
  else 0

/-- R510: a write of ARM to program `p`. -/
def State.arm (s : State) (req : Requester) (p : Nat) : State :=
  if !s.idle p then s.quiet req (Reg.BERTH_ARM p) Cause.RESERVED_ENC
  else
    let e := s.armCause p
    if e ≠ 0 then (s.putF (Reg.BERTH_PSTAT p) 7 4 e).evt berthPage 4
    else
      let warn := (decide (s.getF (Reg.TRIG_CTL p) 3 0 = 2) || decide (s.getF (Reg.TRIG_CTL p) 3 0 = 4))
        && decide (sgn 16 (s.rd (Reg.TRIG_LEVEL_A p)) ≤ sgn 16 (s.rd (Reg.TRIG_LEVEL_B p)))
      let s := ((s.putF (Reg.BERTH_PSTAT p) 8 4 0).setProgState p ProgSt.ACTIVE).putBit (Reg.TRIG_STAT p) 4 warn
      let s := (s.wr (Reg.BERTH_WR_IDX p) 0).wr (Reg.BERTH_DONE_CNT p) 0
      let s := if s.pMode p = 3 then s.wr (Reg.BERTH_STAIL p) (s.rd (Reg.BERTH_SHEAD p)) else s
      let s := s.setTrig p fun (x : TrigSt) => { x with hold := none, fire := none, come := none, was := false }
      let s := s.setProg p fun _ => { ({} : Prog) with start := (s.fdig p).n }
      ((s.setPh p .gap).startDue p).streamShow p

/-- R511: a write of DISARM to program `p`. -/
def State.disarm (s : State) (p : Nat) : State :=
  let s := s.finishDue p
  if s.idle p then s
  else
    let g := s.prog p
    let s := if 0 < g.acqs then
        let s := s.writeHead p 0 g.acqs (g.flags + 64)
        let s := s.incWrap (Reg.BERTH_DONE_CNT p) 31 0
        if s.bit (Reg.BERTH_MODE p) 4 then s.evt berthPage p else s
      else s
    let s := s.setProg p fun (g : Prog) => { ({} : Prog) with copied := g.copied, copying := g.copying }
    let s := s.setTrig p fun (x : TrigSt) => { x with hold := none }
    ((s.setProgState p ProgSt.IDLE).trigShow p).streamShow p

/-- A write of `v` to ARM of program `p`. -/
def State.writeBerthArm (s : State) (req : Requester) (p v : Nat) : State :=
  let s := if v.testBit 0 then s.arm req p else s
  if v.testBit 1 then s.disarm p else s

/-- A write of `v` to FORCE of unit `c` (R494). -/
def State.writeForceTrig (s : State) (c v : Nat) : State := if v.testBit 0 then s.trigCome c none else s

/-- R510: a program register can be written only while its program is not ACTIVE, a TRIG register other than FORCE only while its
channel is idle; RD_IDX and SHEAD may free a berth or the ring (R508, R509). -/
def State.writeBerthReg (s : State) (req : Requester) (p off addr v : Nat) : State :=
  let s1 := s.regStore req addr v
  if off = 0x28 then s1.berthRetry p
  else if off = 0x40 then s1.streamShow p
  else if s.idle p then s1 else s.quiet req addr Cause.RESERVED_ENC

/-- The bits of TRIG registers whose written value is reserved by others (R13, R496, R512): levels beyond the codes, HOLD_T above 10^10 ns,
and KIND 2 in combined mode. -/
def State.trigReserved (s : State) (c addr v : Nat) : Nat :=
  if (addr = Reg.TRIG_LEVEL_A c ∨ addr = Reg.TRIG_LEVEL_B c) ∧ (sgn 16 v < -2048 ∨ 2047 < sgn 16 v) then 0xFFFF
  else if addr = Reg.TRIG_HOLD_T_LO c ∧ 10000000000 < v + 2 ^ 32 * s.getF (Reg.TRIG_HOLD_T_HI c) 1 0 then 0xFFFFFFFF
  else if addr = Reg.TRIG_HOLD_T_HI c ∧ 10000000000 < s.rd (Reg.TRIG_HOLD_T_LO c) + 2 ^ 32 * fld v 1 0 then 0x3
  else if addr = Reg.TRIG_EXT_SRC c ∧ fld v 2 0 = 2 ∧ s.combined then 0x7
  else 0

def State.writeTrigReg (s : State) (req : Requester) (c addr v : Nat) : State :=
  if s.idle c then s.regStoreBut req addr v (s.trigReserved c addr v) else s.quiet req addr Cause.RESERVED_ENC

/-- R515: SCOPE has left P3, and the store was cleared. -/
def State.berthLost (s : State) : State :=
  (s.each [0, 1] fun s p => if s.progState p = ProgSt.DONE then (s.setProgState p ProgSt.IDLE).putBit (Reg.BERTH_PSTAT p) 8 true else s).zero acqBase 0x2000000

/-! ## Commands -/

/-- FDIG_SAMPLE: at base tick `t` channel `c` delivers a sample; `raw` is the code of the selected source before limiting to 12 bits, and
`ecc` what an accumulation read meets. -/
def execFdigSample (c : Nat) (raw : Int) (ecc t : Nat) (s : State) : Host.Outcome State Fault Refusal :=
  let s := s.tickTo t
  .next (if c < 2 ∧ s.fdigRuns c ∧ s.park.stage < 2 then s.sampled c raw ecc else s)

/-- TRIGGER_FIRE: the trigger that unit `c` has decided is accepted or counted (R499). -/
def execTriggerFire (c : Nat) (s : State) : Host.Outcome State Fault Refusal :=
  .next (if c < 2 then ((s.finishDue c).prefillDue c).fireDue c else s)

/-- TRIGGER_FORCE: a write of `value` to FORCE of unit `c`. -/
def execTriggerForce (req : Requester) (c value : Nat) (s : State) : Host.Outcome State Fault Refusal :=
  .next (if c < 2 then s.checkedWrite req (Reg.TRIG_FORCE c) 4 fun s => s.writeForceTrig c value else s)

/-- EXT_TRIG_EDGE: an edge on EXT_TRIG_0i, `frac` / 256 of a sample after the last sample of each channel (R496). -/
def execExtTrigEdge (i : Nat) (rising : Bool) (frac : Nat) (s : State) : Host.Outcome State Fault Refusal :=
  let s := { s with extTrig := s.extTrig.set i rising }
  .next (if 2 ≤ i then s
    else s.each [0, 1] fun s c =>
      if s.released Blk.TRIG ∧ s.getF (Reg.TRIG_CTL c) 3 0 = 7 ∧ s.getF (Reg.TRIG_EXT_SRC c) 2 0 = i
          ∧ rising = !s.bit (Reg.TRIG_EXT_SRC c) 15 ∧ !(c = 1 ∧ s.combined) then
        s.setTrig c fun (x : TrigSt) => { x with
          come := some { at' := 0, pos := ((s.fdig c).n - 1) * 256 + frac % 256, interp := true, type := 7 } }
      else s)

/-- HOLDOFF_END: at base tick `t` the holdoff of unit `c` has ended (R500). -/
def execHoldoffEnd (c t : Nat) (s : State) : Host.Outcome State Fault Refusal :=
  let s := s.tickTo t
  .next (if c < 2 ∧ (s.trig c).hold.isSome ∧ s.holdOver c ((s.fdig c).n - 1) then
    (s.setTrig c fun (x : TrigSt) => { x with hold := none }).trigShow c else s)

/-- AUTO_TRIGGER: at base tick `t` channel `c` has been READY for AUTO_TMO µs without an accepted trigger (R501). -/
def execAutoTrigger (c t : Nat) (s : State) : Host.Outcome State Fault Refusal :=
  let s := (s.tickTo t).fireDue c
  .next (if c < 2 ∧ s.bit (Reg.TRIG_CTL c) 12 ∧ (s.prog c).ph = .ready ∧ 0 < (s.fdig c).n
      ∧ (s.trig c).ready + s.getF (Reg.TRIG_AUTO_TMO c) 23 0 * 400 ≤ s.clk.base then
    let n := (s.fdig c).n - 1
    let s := ((s.cnt (Reg.TRIG_AUTO_CNT c)).evt (trigPage c) 1).setTrig c fun (x : TrigSt) => { x with ready := s.clk.base }
    s.trigTake c { at' := n, pos := n * 256, auto := true, type := s.getF (Reg.TRIG_CTL c) 3 0 }
  else s)

/-- PROGRAM_ARM: a write of ARM to program `p`. -/
def execProgramArm (req : Requester) (p : Nat) (s : State) : Host.Outcome State Fault Refusal :=
  .next (if p < 2 then s.checkedWrite req (Reg.BERTH_ARM p) 4 fun s => s.writeBerthArm req p 1 else s)

/-- PROGRAM_DISARM: a write of DISARM to program `p`. -/
def execProgramDisarm (req : Requester) (p : Nat) (s : State) : Host.Outcome State Fault Refusal :=
  .next (if p < 2 then s.checkedWrite req (Reg.BERTH_ARM p) 4 fun s => s.writeBerthArm req p 2 else s)

/-- PREFILL_DONE: the pre-trigger part of program `p` is filled (R504). -/
def execPrefillDone (p t : Nat) (s : State) : Host.Outcome State Fault Refusal :=
  .next (if p < 2 then (s.tickTo t).prefillDue p else s.tickTo t)

/-- BERTH_COMPLETE: the last value or acquisition of program `p`'s berth is written (R504, R506). -/
def execBerthComplete (p t : Nat) (s : State) : Host.Outcome State Fault Refusal :=
  .next (if p < 2 then (s.tickTo t).finishDue p else s.tickTo t)

/-- BERTH_START: 32 sample periods after the last one completed, program `p`'s next berth starts (R503, R504). -/
def execBerthStart (p t : Nat) (s : State) : Host.Outcome State Fault Refusal :=
  .next (if p < 2 then (s.tickTo t).startDue p else s.tickTo t)

/-- STREAM_COPY_START: at base tick `t` the copy of program `p`'s oldest completed berth starts (R509). -/
def execStreamCopyStart (p t : Nat) (s : State) : Host.Outcome State Fault Refusal :=
  let s := s.tickTo t
  let n := max (s.getF (Reg.BERTH_SCOUNT p) 23 0) 1
  .next (if p < 2 ∧ s.pMode p = 3 ∧ s.rd (Reg.BERTH_DONE_CNT p) ≠ (s.prog p).copied % 2 ^ 32 ∧ (s.prog p).copying.isNone
      ∧ (s.rd (Reg.BERTH_STAIL p) + 1) % n ≠ s.rd (Reg.BERTH_SHEAD p) % n ∧ s.dom 24 ≠ 3 then
    s.setProg p fun (g : Prog) => { g with copying := some s.clk.base } else s)

/-- R514: the copy under way of program `p` fails. -/
def State.copyFail (s : State) (p : Nat) : State := ((s.setProg p fun (g : Prog) => { g with copying := none }).progError p 8).streamShow p

/-- STREAM_COPY_DONE: at base tick `t` the copy under way is acknowledged, or receives an error response (R509, R514). -/
def execStreamCopyDone (p t : Nat) (env : MemEnv) (s : State) : Host.Outcome State Fault Refusal :=
  let s := s.tickTo t
  .next (if 2 ≤ p ∨ (s.prog p).copying.isNone then s
    else
      let i := (s.prog p).copied % max (s.pCount p) 1
      let data := s.bytes (s.headAddr p i) 32 ++ leBytes 4 i ++ leBytes 28 p ++ s.bytes (s.berthAddr p i) (s.pStride p)
      let a := s.rd (Reg.BERTH_SBASE_LO p) + 2 ^ 32 * s.getF (Reg.BERTH_SBASE_HI p) 15 0 + s.rd (Reg.BERTH_STAIL p) * (64 + s.pStride p)
      let r := s.blockWrite Blk.BERTH 0 a data env
      match r.1 with
      | .held => s
      | .done =>
        let s := r.2.setProg p fun (g : Prog) => { g with copied := g.copied + 1, copying := none }
        let s := s.wr (Reg.BERTH_STAIL p) ((s.rd (Reg.BERTH_STAIL p) + 1) % max (s.getF (Reg.BERTH_SCOUNT p) 23 0) 1)
        (s.berthRetry p).streamShow p
      | _ => r.2.copyFail p)

end Sys2Proof.Machine
end

