-- ==== Sys2Proof/Machine/Cam.lean ====
section
/-! DEFINITION. The camera ports (R587 to R596, R604, R607 to R610). -/

namespace Sys2Proof.Machine

/-! ## Local time (R587) -/

/-- The local copy of TIME, in ns, of CAM_n (index n) or VOUT_n (index 4 + n): the TIME read at the last alignment and what the 400 MHz base
has counted since (log entry 34). -/
def State.localTime (s : State) (i : Nat) : Nat :=
  let x := s.locals.getD i (0, 0)
  x.2 + (s.clk.base - x.1) * 5 / 2

/-- The copies are aligned. -/
def State.alignLocal (s : State) : State := { s with locals := s.locals.map fun _ => (s.clk.base, s.timeNs) }

/-- LOCAL_TIME_ALIGN: at base tick `t` CAM and VOUT read TIME. -/
def execLocalTimeAlign (t : Nat) (s : State) : Host.Outcome State Fault Refusal :=
  let s := s.tickTo t
  .next (if s.released Blk.CAM then s.alignLocal else s)

/-! ## Parts of the state -/

def camPage (p : Nat) : Nat := pageAddr Blk.CAM p
def State.cam (s : State) (p : Nat) : Cam := s.cams.getD p {}
def State.camStr (s : State) (p k : Nat) : CamStr := (s.cam p).strs.getD k {}
def State.setCamStr (s : State) (p k : Nat) (f : CamStr → CamStr) : State :=
  { s with cams := updAt s.cams p fun (x : Cam) => { x with strs := updAt x.strs k f } }
def State.setCur (s : State) (p k : Nat) (f : CamFrame → CamFrame) : State :=
  s.setCamStr p k fun (x : CamStr) => { x with cur := x.cur.map f }

def State.camW (s : State) (p k : Nat) : Nat := s.getF (Reg.CAM_SIZE p k) 12 0
def State.camH (s : State) (p k : Nat) : Nat := s.getF (Reg.CAM_SIZE p k) 28 16
def State.camX0 (s : State) (p k : Nat) : Nat := s.getF (Reg.CAM_CROP p k) 12 0
def State.camY0 (s : State) (p k : Nat) : Nat := s.getF (Reg.CAM_CROP p k) 28 16
def State.camFmt (s : State) (p k : Nat) : Nat := s.getF (Reg.CAM_FMT p k) 3 0
def State.camSlots (s : State) (p k : Nat) : Nat := s.getF (Reg.CAM_RING p k) 4 0
def State.camLevel (s : State) (p k : Nat) : Nat := s.getF (Reg.CAM_SSTAT p k) 8 4
def State.camWr (s : State) (p k : Nat) : Nat := s.getF (Reg.CAM_SSTAT p k) 3 0
def State.camBase (s : State) (p k slot : Nat) : Nat :=
  2 ^ 32 * s.getF (Reg.CAM_BASE_HI p k) 15 0 + 4096 * s.getF (Reg.CAM_BASE_LO p k) 31 12 + slot * s.getF (Reg.CAM_STRIDE p k) 27 0

/-- R592: the next slot to fill is RD + LEVEL modulo SLOTS. -/
def State.camWrSync (s : State) (p k : Nat) : State :=
  s.putF (Reg.CAM_SSTAT p k) 3 0 ((s.getF (Reg.CAM_RD p k) 3 0 + s.camLevel p k) % max (s.camSlots p k) 1)

/-- Bytes that wait in the write buffer of port `p` (R596). -/
def State.camBuffered (s : State) (p : Nat) : Nat :=
  let size (f : CamFrame) : Nat := f.buf.foldl (fun n w => n + w.2.length) 0
  (s.cam p).strs.foldl (fun n x => n + (x.cur.map size).getD 0 + x.ended.foldl (fun m f => m + size f) 0) 0

/-- R589: stream `k` takes packets of virtual channel `vc`; long packets also need its data type. -/
def State.camTakes (s : State) (p k vc : Nat) : Bool := s.bit (Reg.CAM_SEL p k) 31 && decide (s.getF (Reg.CAM_SEL p k) 3 0 = vc)
/-- The port receives. -/
def State.camOn (s : State) (p : Nat) : Bool :=
  decide (p < 4) && s.released Blk.CAM && s.bit (Reg.CAM_CTL p) 0 && decide (s.park.stage < 2)

/-- R588: the header check of a packet: 0 correct, 1 corrected, 2 uncorrectable; whether the packet is used. -/
def State.camHeader (s : State) (p hdr : Nat) : Bool × State :=
  if hdr = 0 then (true, s)
  else if hdr = 1 then (true, (s.cnt (Reg.CAM_HDR_CE p)).evt (camPage p) 2)
  else
    let s := (s.cnt (Reg.CAM_HDR_UE p)).evt (camPage p) 2
    (false, s.each (List.range 4) fun s k => s.setCur p k fun f => { f with flags := f.flags ||| 16 })

/-! ## Formats (R590, R591) -/

/-- Samples of 10 bits, four in five bytes, and of 12 bits, two in three (the packing of CSI-2; log entry 34). -/
def unpack10 : List Byte → List Nat
  | a :: b :: c :: d :: e :: t =>
    let l := e.toNat
    (a.toNat * 4 + l % 4) :: (b.toNat * 4 + l / 4 % 4) :: (c.toNat * 4 + l / 16 % 4) :: (d.toNat * 4 + l / 64) :: unpack10 t
  | _ => []
def unpack12 : List Byte → List Nat
  | a :: b :: c :: t => (a.toNat * 16 + c.toNat % 16) :: (b.toNat * 16 + c.toNat / 16) :: unpack12 t
  | _ => []

/-- The components of a long packet, in order, for a data type. -/
def camSamples (dt : Nat) (l : List Byte) : List Nat :=
  if dt = 0x1F ∨ dt = 0x2B then unpack10 l else if dt = 0x2C then unpack12 l else l.map (·.toNat)

/-- Components per pixel. -/
def camPer (dt : Nat) : Nat := if dt = 0x24 then 3 else if dt = 0x1E ∨ dt = 0x1F then 2 else 1

/-- R591: pairs of data type and OUT_FMT that are not reserved. -/
def camPair (dt fmt : Nat) : Bool :=
  if fmt = 9 then [0x12, 0x1E, 0x1F, 0x24, 0x2A, 0x2B, 0x2C].contains dt || (decide (0x30 ≤ dt) && decide (dt ≤ 0x37))
  else if dt = 0x2A ∨ dt = 0x2B ∨ dt = 0x2C then fmt = 0 || fmt = 1
  else if dt = 0x1E then fmt = 3 || fmt = 2 || fmt = 0
  else if dt = 0x1F then fmt = 4 || fmt = 1
  else if dt = 0x24 then fmt = 5 else false

/-- Bytes of one pixel of plane 0, from the components of its line. -/
def camPixel (dt fmt : Nat) (l : List Nat) (x : Nat) : List Byte :=
  if fmt = 9 then leBytes 1 (l.getD x 0)
  else if dt = 0x24 then leBytes 4 (l.getD (3 * x) 0 + l.getD (3 * x + 1) 0 * 2 ^ 8 + 2 ^ 16 * l.getD (3 * x + 2) 0 + 0xFF000000)
  else if dt = 0x1E then leBytes 1 (l.getD (2 * x + 1) 0)
  else if dt = 0x1F then leBytes 2 (l.getD (2 * x + 1) 0 * 64)
  else
    let bits := if dt = 0x2A then 8 else if dt = 0x2B then 10 else 12
    if fmt = 0 then leBytes 1 (l.getD x 0 / 2 ^ (bits - 8)) else leBytes 2 (l.getD x 0 * 2 ^ (16 - bits))

/-- Cb and Cr of pairs `m0` to `m0 + n − 1` of a YUV422 line. -/
def camChroma (l : List Nat) (m0 n : Nat) : List Nat :=
  (List.range n).flatMap fun m => [l.getD (4 * (m0 + m)) 0, l.getD (4 * (m0 + m) + 2) 0]

/-- R591: chroma of two lines averaged, halves rounded up. -/
def chromaAvg (a b : List Nat) : List Nat := List.zipWith (fun x y => (x + y + 1) / 2) a b

/-! ## Writes to memory (R594, R596, R608) -/

/-- Make the writes that wait, oldest first, until one is held; a failure ends them and marks the frame. -/
def State.camWrite (p : Nat) (env : MemEnv) : List (Nat × List Byte) → State → List (Nat × List Byte) × Bool × State
  | [], s => ([], false, s)
  | (a, d) :: l, s =>
    let r := s.writeRange (s.access (.block Blk.CAM p) a d.length true d) false true env
    match r.1 with
    | .held => ((a, d) :: l, false, s)
    | .done => camWrite p env l r.2
    | _ => ([], true, r.2)

/-- R608: a write of port `p` failed. -/
def State.camWrErr (s : State) (p : Nat) : State := (s.putBit (Reg.CAM_STAT p) 4 true).evt (camPage p) 4

/-- The writes of a frame, with what remains of it. -/
def State.camDrain (s : State) (p : Nat) (f : CamFrame) (env : MemEnv) : CamFrame × State :=
  let r := State.camWrite p env f.buf s
  if r.2.1 then ({ f with buf := [], werr := true, flags := f.flags ||| 128 }, r.2.2.camWrErr p)
  else ({ f with buf := r.1 }, r.2.2)

/-! ## Frames (R592 to R595) -/

/-- A frame of stream `k` ends at the present time with the flags given. -/
def State.camEnd (s : State) (p k flags : Nat) : State :=
  let h := s.camH p k
  let eof := s.localTime p
  s.setCamStr p k fun (x : CamStr) => { x with
    inFrame := false, cur := none
    ended := match x.cur with
      | some f => x.ended ++ [{ f with eof := eof, flags := f.flags ||| flags ||| (if f.lines < h then 2 else 0) }]
      | none => x.ended }

/-- R593: FS at stream `k`: a frame still open ends, and the new one is captured or dropped. Slots of frames that wait for their records are
not free (log entry 34). -/
def State.camStart (s : State) (p k num : Nat) : State :=
  let s := if (s.camStr p k).inFrame then (s.camEnd p k 32).cnt (Reg.CAM_SYNC_ERR p) else s
  let s := s.incWrap (Reg.CAM_FRAME_CNT p k) 31 0
  let n := s.camSlots p k
  let x := s.camStr p k
  if n ≤ s.camLevel p k + x.ended.length then
    ((s.setCamStr p k fun (y : CamStr) => { y with inFrame := true, cur := none, drops := y.drops + 1 }).cnt (Reg.CAM_DROP_CNT p k)).evt (camPage p) 1
  else
    let f : CamFrame := { no := s.rd (Reg.CAM_FRAME_CNT p k), slot := (s.camWr p k + x.ended.length) % n, sof := s.localTime p
                          csi := num, drops := x.drops }
    s.setCamStr p k fun (y : CamStr) => { y with inFrame := true, cur := some f, drops := 0 }

/-- CSI_FRAME_START: at base tick `t` port `p` receives an FS packet of virtual channel `vc` with frame number `num`. -/
def execCsiFrameStart (p vc num hdr t : Nat) (s : State) : Host.Outcome State Fault Refusal :=
  let s := s.tickTo t
  .next (if !s.camOn p then s
    else
      let h := s.camHeader p hdr
      if !h.1 then h.2
      else
        let s := (h.2.putF (Reg.CAM_STAT p) 1 0 2).lvl (camPage p) 3 false
        let s := { s with cams := updAt s.cams p fun (x : Cam) => { x with lastFs := s.clk.base } }
        s.each ((List.range 4).filter fun k => s.camTakes p k vc) fun s k => s.camStart p k num)

/-- CSI_FRAME_END: at base tick `t` port `p` receives an FE packet of virtual channel `vc`. -/
def execCsiFrameEnd (p vc hdr t : Nat) (s : State) : Host.Outcome State Fault Refusal :=
  let s := s.tickTo t
  .next (if !s.camOn p then s
    else
      let h := s.camHeader p hdr
      if !h.1 then h.2
      else h.2.each ((List.range 4).filter fun k => h.2.camTakes p k vc && (h.2.camStr p k).inFrame) fun s k => s.camEnd p k 0)

/-- Bytes that a pixel of a line takes in the write buffer, chroma included. -/
def camCost (fmt : Nat) : Nat := [1, 2, 2, 2, 4, 4, 4, 4, 2].getD fmt 1

/-- R589, R591, R608: a line packet of stream `k` with data `l`; the write buffer of 64 KiB takes what it has room for, and no more than
`room` pixels where the packet's own timing fills it up. -/
def State.camLine (s : State) (p k dt : Nat) (l : List Byte) (crc : Bool) (room : Option Nat) : State :=
  match (s.camStr p k).cur with
  | none => s
  | some f =>
    let fmt := s.camFmt p k
    let bytes := decide (fmt = 9)
    let y0 := if bytes then 0 else s.camY0 p k
    let x0 := if bytes then 0 else s.camX0 p k
    let y := f.seen
    let f := { f with seen := y + 1, flags := f.flags ||| (if crc then 8 else 0) }
    if y < y0 then s.setCur p k fun _ => f
    else if y0 + s.camH p k ≤ y then s.setCur p k fun _ => { f with flags := f.flags ||| 4 }
    else
      let r := y - y0
      let c := if bytes then l.map (·.toNat) else camSamples dt l
      let total := if bytes then c.length else c.length / camPer dt
      let n := min (s.camW p k) (total - x0)
      let f := { f with lines := f.lines + 1, flags := f.flags ||| (if total < x0 + s.camW p k then 64 else 0) }
      let m := min (room.getD n) ((65536 - s.camBuffered p) / camCost fmt)
      let full := decide (m < n)
      let n := min m n
      let s := if full then (s.cnt (Reg.CAM_OVF_CNT p)).evt (camPage p) 5 else s
      let f := if full then { f with flags := f.flags ||| 256 } else f
      if f.werr then s.setCur p k fun _ => f
      else
        let b := s.camBase p k f.slot
        let pitch := s.getF (Reg.CAM_PITCH p k) 15 0
        let w0 := (b + r * pitch, (List.range n).flatMap fun i => camPixel dt fmt c (x0 + i))
        let ch := camChroma c (x0 / 2) (n / 2)
        let w1 : List (Nat × List Byte) :=
          if fmt = 3 then [(b + s.getF (Reg.CAM_C_OFS p k) 27 0 + r * pitch, ch.map (BitVec.ofNat 8 ·))]
          else if (fmt = 2 ∨ fmt = 4) ∧ r % 2 = 1 then
            [(b + s.getF (Reg.CAM_C_OFS p k) 27 0 + r / 2 * pitch,
              (chromaAvg f.chroma ch).flatMap fun v => if fmt = 2 then leBytes 1 v else leBytes 2 (v * 64))]
          else []
        let d := s.camDrain p { f with buf := f.buf ++ w0 :: w1, chroma := ch } {}
        d.2.setCur p k fun _ => d.1

/-- CSI_LONG_PACKET: port `p` receives a long packet of virtual channel `vc` and data type `dt`; `hdr` is its header check, `crc` a CRC
error, `room` where the write buffer fills up. -/
def execCsiLongPacket (p vc dt : Nat) (payload : List Byte) (hdr : Nat) (crc : Bool) (room : Option Nat) (t : Nat) (s : State) :
    Host.Outcome State Fault Refusal :=
  let s := s.tickTo t
  .next (if !s.camOn p then s
    else
      let h := s.camHeader p hdr
      if !h.1 then h.2
      else
        let s := if crc then (h.2.cnt (Reg.CAM_CRC_CNT p)).evt (camPage p) 2 else h.2
        s.each ((List.range 4).filter fun k => s.camTakes p k vc && decide (s.getF (Reg.CAM_SEL p k) 13 8 = dt)) fun s k =>
          s.camLine p k dt payload crc room)

/-- R595: the frame record. -/
def State.camRecord (s : State) (p k : Nat) (f : CamFrame) : List Byte :=
  leBytes 4 f.no ++ leBytes 4 (f.flags + if f.werr then 0 else 1) ++ leBytes 8 f.sof ++ leBytes 8 f.eof ++ leBytes 2 f.lines ++ leBytes 2 f.drops
    ++ leBytes 2 f.csi ++ leBytes 1 (s.getF (Reg.CAM_SEL p k) 3 0) ++ leBytes 1 (s.getF (Reg.CAM_SEL p k) 13 8) ++ List.replicate 32 0

/-- R594: the frame is complete. -/
def State.camComplete (s : State) (p k : Nat) (f : CamFrame) : State :=
  let s := (s.putF (Reg.CAM_SSTAT p k) 8 4 (s.camLevel p k + 1)).camWrSync p k
  let ring := s.rd (Reg.CAM_RING p k)
  let s := if ring.testBit 16 then s.evt (camPage p) 0 else s
  let s := if f.werr then s else s.funcReady Fn.CAMERA
  if ring.testBit 9 then s.blockDoorbell Blk.CAM p (fld ring 15 10) else s

/-- FRAME_COMPLETE: at base tick `t` the writes of the oldest ended frame of stream `k` of port `p` are acknowledged and its record is
written. A write still held changes nothing. -/
def execFrameComplete (p k t : Nat) (env : MemEnv) (s : State) : Host.Outcome State Fault Refusal :=
  let s := s.tickTo t
  .next (match (s.camStr p k).ended with
    | [] => s
    | f :: l =>
      let d := s.camDrain p f env
      let f := d.1
      if f.buf ≠ [] then d.2.setCamStr p k fun (x : CamStr) => { x with ended := f :: l }
      else
        let addr := 2 ^ 32 * s.getF (Reg.CAM_META_HI p k) 15 0 + s.getF (Reg.CAM_META_LO p k) 31 6 * 64 + 64 * f.slot
        let rec' := d.2.camRecord p k f
        let w := d.2.writeRange (d.2.access (.block Blk.CAM p) addr 64 true rec') false true env
        match w.1 with
        | .held => d.2.setCamStr p k fun (x : CamStr) => { x with ended := f :: l }
        | .done => (w.2.setCamStr p k fun (x : CamStr) => { x with ended := l }).camComplete p k f
        | _ => ((w.2.setCamStr p k fun (x : CamStr) => { x with ended := l, inFrame := false, cur := none }).putBit (Reg.CAM_SEL p k) 31 false).camWrErr p)

/-- R592: a write of `v` to RD of stream `k` of port `p`. -/
def State.writeCamRd (s : State) (req : Requester) (p k v : Nat) : State :=
  let n := max (s.camSlots p k) 1
  let a := Reg.CAM_RD p k
  let new := fld v 3 0
  let free := (new + n - s.getF a 3 0 % n) % n
  if n ≤ new ∨ s.camLevel p k < free then s.quiet req a Cause.RESERVED_ENC
  else ((s.putF a 3 0 new).putF (Reg.CAM_SSTAT p k) 8 4 (s.camLevel p k - free)).camWrSync p k

/-- SLOT_RELEASE: a write of `value` to RD of stream `k` of port `p`. -/
def execSlotRelease (req : Requester) (p k value : Nat) (s : State) : Host.Outcome State Fault Refusal :=
  .next (if p < 4 ∧ k < 4 then s.checkedWrite req (Reg.CAM_RD p k) 4 fun s => s.writeCamRd req p k value else s)

/-- NO_SIGNAL_TIMEOUT: at base tick `t` port `p` has had no FS for LOSS_MS ms. -/
def execNoSignalTimeout (p t : Nat) (s : State) : Host.Outcome State Fault Refusal :=
  let s := s.tickTo t
  .next (if s.camOn p ∧ s.getF (Reg.CAM_STAT p) 1 0 ≠ 3 ∧ (s.cam p).lastFs + 400000 * s.getF (Reg.CAM_LOSS_MS p) 15 0 ≤ s.clk.base then
    let s := (s.putF (Reg.CAM_STAT p) 1 0 3).lvl (camPage p) 3 true
    if (List.range 4).any fun q => s.getF (Reg.CAM_STAT q) 1 0 = 2 then s else s.funcLost Fn.CAMERA
  else s)

/-! ## Register writes (R591, R604) -/

/-- A write of `v` to CTL of port `p`: other fields than EN change only while EN is 0. -/
def State.writeCamCtl (s : State) (req : Requester) (p v : Nat) : State :=
  let a := Reg.CAM_CTL p
  let old := s.bit a 0
  let s := s.heldWrite req a v (if old then 0xFFFFFFFE else 0)
  if !old && v.testBit 0 then
    { s with cams := updAt s.cams p fun (x : Cam) => { x with lastFs := s.clk.base } }.wr (Reg.CAM_STAT p) 1
  else if old && !v.testBit 0 then
    let s := ((s.camDiscard p).putF (Reg.CAM_STAT p) 1 0 0).lvl (camPage p) 3 false
    if (List.range 4).any fun q => s.getF (Reg.CAM_STAT q) 1 0 = 2 then s else s.funcLost Fn.CAMERA
  else s

/-- R590, R591: the configuration of stream `k` with SEL value `v` is reserved. -/
def State.camReserved (s : State) (p k v : Nat) : Bool :=
  let fmt := s.camFmt p k
  !camPair (fld v 13 8) fmt || ([2, 3, 4].contains fmt && decide (s.camW p k % 2 = 1)) || ([2, 4].contains fmt && decide (s.camH p k % 2 = 1))

/-- A write of `v` to SEL of stream `k`. -/
def State.writeCamSel (s : State) (req : Requester) (p k v : Nat) : State :=
  let a := Reg.CAM_SEL p k
  let old := s.bit a 31
  let s := s.heldWrite req a v (if old then 0x3F0F else if s.camReserved p k v ∧ v.testBit 31 then 0x80000000 else 0)
  if old && !v.testBit 31 then s.setCamStr p k fun (x : CamStr) => { x with inFrame := false, cur := none } else s

/-- A write of `v` to another register of stream `k`, at `a`: only while SEL.EN is 0, on the boundaries of R606. -/
def State.writeCamStr (s : State) (req : Requester) (p k a v : Nat) : State :=
  if s.bit (Reg.CAM_SEL p k) 31 ∨ (a = Reg.CAM_STRIDE p k ∧ v % 4096 ≠ 0) ∨ (a = Reg.CAM_PITCH p k ∧ v % 64 ≠ 0)
      ∨ (a = Reg.CAM_C_OFS p k ∧ v % 64 ≠ 0) then
    s.quiet req a Cause.RESERVED_ENC
  else (s.regStore req a v).camWrSync p k

end Sys2Proof.Machine
end

