-- ==== Sys2Proof/Machine/Vout.lean ====
section
/-! DEFINITION. The display pipelines (R597 to R605, R607 to R609, R611). -/

namespace Sys2Proof.Machine

def voutPage (v : Nat) : Nat := pageAddr Blk.VOUT v
def State.vout (s : State) (v : Nat) : Vout := s.vouts.getD v {}
def State.setVout (s : State) (v : Nat) (f : Vout → Vout) : State := { s with vouts := updAt s.vouts v f }
def State.voutState (s : State) (v : Nat) : Nat := s.getF (Reg.VOUT_STAT v) 1 0
def State.voutEn (s : State) (v : Nat) : Bool := s.bit (Reg.VOUT_CTL v) 0
/-- IF selects eDP. -/
def State.isEdp (s : State) (v : Nat) : Bool := s.bit (Reg.VOUT_CTL v) 1

namespace VoutSt
abbrev OFF : Nat := 0
abbrev LINK_UP : Nat := 1
abbrev SCANNING : Nat := 2
abbrev FAILED : Nat := 3
end VoutSt

/-! ## The link (R597, R598, R608) -/

/-- Bits per pixel on the link. -/
def State.linkBits (s : State) (v : Nat) : Rat :=
  if s.bit (Reg.VOUT_CTL v) 2 then (s.getF (Reg.VOUT_DSC v) 9 0 : Rat) / 16 else if s.bit (Reg.VOUT_CTL v) 3 then 30 else 24

/-- R598: the link payload rate in kb/s. -/
def State.linkRate (s : State) (v : Nat) : Rat :=
  let lanes : Rat := s.getF (Reg.VOUT_LINK v) 2 0
  if s.isEdp v then lanes * ([1620000, 2700000, 5400000, 8100000].getD (s.getF (Reg.VOUT_LINK v) 5 4) 0 : Nat) * 8 / 10
  else 1000 * (lanes * (s.getF (Reg.VOUT_LINK v) 31 16 : Rat))

/-- R598: the check of the bandwidth. -/
def State.linkFits (s : State) (v : Nat) : Bool := decide ((s.getF (Reg.VOUT_PCLK v) 20 0 : Rat) * s.linkBits v ≤ s.linkRate v)

/-- R608: the link of pipeline `v` fails with the FAIL `code`. -/
def State.linkFail (s : State) (v code : Nat) : State :=
  let s := s.setVout v fun (x : Vout) => { x with training := false, failAt := s.clk.base }
  let s := ((s.putF (Reg.VOUT_STAT v) 1 0 VoutSt.FAILED).putF (Reg.VOUT_STAT v) 11 8 code).putBit (Reg.VOUT_STAT v) 4 false
  if code = 1 then s
  else
    let s := s.evt (voutPage v) 3
    if (List.range 2).any fun w => s.voutState w = VoutSt.SCANNING then s else s.funcLost Fn.DISPLAY

/-- A write of `x` to CTL of pipeline `v`: other fields than EN change only while EN is 0 (R604); DISPLAY is lost with the last pipeline
that scans (R36). -/
def State.writeVoutCtl (s : State) (req : Requester) (v x : Nat) : State :=
  let a := Reg.VOUT_CTL v
  let old := s.bit a 0
  let s := s.heldWrite req a x (if old then 0xFFFFFFFE else 0)
  if !old && x.testBit 0 then
    (s.setVout v fun (y : Vout) => { y with training := true, failAt := s.clk.base }).putBit (Reg.VOUT_STAT v) 7 false
  else if old && !x.testBit 0 then
    let s := s.setVout v fun (y : Vout) => { y with training := false, taken := false, urLine := none, fifos := [{}, {}, {}, {}] }
    let s := ((s.putF (Reg.VOUT_STAT v) 1 0 VoutSt.OFF).putF (Reg.VOUT_STAT v) 5 4 0).putF (Reg.VOUT_STAT v) 11 8 0
    if (List.range 2).any fun w => s.voutState w = VoutSt.SCANNING then s else s.funcLost Fn.DISPLAY
  else s

/-- VOUT_ENABLE: a write of `value` to CTL of pipeline `v`. -/
def execVoutEnable (req : Requester) (v value : Nat) (s : State) : Host.Outcome State Fault Refusal :=
  .next (if v < 2 then s.checkedWrite req (Reg.VOUT_CTL v) 4 fun s => s.writeVoutCtl req v value else s)

/-- LINK_TRAINING_DONE: at base tick `t` the training of pipeline `v` has ended (R598, R608, R609). -/
def execLinkTrainingDone (v : Nat) (ok : Bool) (t : Nat) (s : State) : Host.Outcome State Fault Refusal :=
  let s := s.tickTo t
  .next (if !s.voutEn v ∨ !(s.vout v).training then s
    else if !ok then s.linkFail v 2
    else if !s.linkFits v then s.linkFail v 1
    else
      let s := s.setVout v fun (x : Vout) => { x with training := false }
      ((s.putF (Reg.VOUT_STAT v) 1 0 VoutSt.SCANNING).putF (Reg.VOUT_STAT v) 11 8 0).funcReady Fn.DISPLAY)

/-- DISPLAY_LINK_RETRAIN: at base tick `t` a second has passed since a pipeline `v` whose training failed, or that lost HPD, last
tried (R608); one that fails for its bandwidth (R598) does not try again. -/
def execDisplayLinkRetrain (v t : Nat) (s : State) : Host.Outcome State Fault Refusal :=
  let s := s.tickTo t
  .next (if s.voutEn v ∧ s.voutState v = VoutSt.FAILED ∧ s.getF (Reg.VOUT_STAT v) 11 8 ≠ 1 ∧ !(s.vout v).training ∧ (s.vout v).failAt + 400000000 ≤ s.clk.base then
    s.setVout v fun (x : Vout) => { x with training := true, failAt := s.clk.base } else s)

/-- HPD of pipeline `v`. -/
def State.setHpd (s : State) (v : Nat) (b : Bool) : State := (s.putBit (Reg.VOUT_STAT v) 6 b).lvl (voutPage v) 4 b

/-- HPD_LOST: at base tick `t` HPD of pipeline `v` has been low for 2 ms. -/
def execHpdLost (v t : Nat) (s : State) : Host.Outcome State Fault Refusal :=
  let s := s.tickTo t
  .next (if v < 2 ∧ s.released Blk.VOUT then
    let s := s.setHpd v false
    if s.voutEn v && s.isEdp v then s.linkFail v 3 else s
  else s)

/-- HPD_RISE: HPD of pipeline `v` goes high. -/
def execHpdRise (v : Nat) (s : State) : Host.Outcome State Fault Refusal :=
  .next (if v < 2 ∧ s.released Blk.VOUT then s.setHpd v true else s)

/-! ## Layers (R590, R599, R601, R602) -/

/-- Registers CFG, POS, SIZE, P0_LO, P0_HI, P1_LO, P1_HI and PITCH of a layer. -/
def State.shadows (s : State) (v : Nat) : List (List Nat) :=
  (List.range 2).map fun l => (List.range 8).map fun k => s.rd (Reg.VOUT_CFG v l + 4 * k)

/-- Register `k` of layer `l` in use. -/
def State.inUse (s : State) (v l k : Nat) : Nat := ((s.vout v).use.getD l []).getD k 0
def State.plane (s : State) (v l k : Nat) : Nat := 2 ^ 32 * fld (s.inUse v l (4 + 2 * k)) 15 0 + fld (s.inUse v l (3 + 2 * k)) 31 6 * 64

/-- Bytes of a pixel of plane 0. -/
def pixelBytes (fmt : Nat) : Nat := [1, 2, 1, 1, 2, 4, 4, 4, 2].getD fmt 1

/-- Place of output pixel (x, y) in plane 0 of layer `l`, where the layer is enabled and holds it. -/
def State.layerAt (s : State) (v l x y : Nat) : Option (Nat × Nat) :=
  let cfg := s.inUse v l 0
  let x0 := fld (s.inUse v l 1) 12 0
  let y0 := fld (s.inUse v l 1) 28 16
  if cfg.testBit 0 ∧ x0 ≤ x ∧ x < x0 + fld (s.inUse v l 2) 12 0 ∧ y0 ≤ y ∧ y < y0 + fld (s.inUse v l 2) 28 16 then some (x - x0, y - y0)
  else none

/-- Address of a pixel's bytes in plane 0. -/
def State.pixelAddr (s : State) (v l : Nat) (c : Nat × Nat) : Nat :=
  s.plane v l 0 + c.2 * fld (s.inUse v l 7) 15 0 + c.1 * pixelBytes (fld (s.inUse v l 0) 7 4)

/-! ## The fetch FIFOs (R600, R601)

A plane is fetched as a stream of its rows, one after the other without the bytes between them that the pitch skips: a position in it is
row × bytes of a row + byte of the row. FIFO `2 × l + k` of a pipeline is that of plane `k` of layer `l`. -/

/-- Row `y` of the layer has its chroma in row `y / 2` of plane 1 (R590). -/
def halfRows (fmt : Nat) : Bool := fmt == 2 || fmt == 4

/-- Plane `k` exists in the format. -/
def hasPlane (fmt k : Nat) : Bool := k == 0 || (decide (2 ≤ fmt) && decide (fmt ≤ 4))

/-- Bytes of a row of a plane of layer `l`: in both planes a row of W pixels takes W containers. -/
def State.rowBytes (s : State) (v l : Nat) : Nat := fld (s.inUse v l 2) 12 0 * pixelBytes (fld (s.inUse v l 0) 7 4)

/-- Pixel clocks of the frame at base tick `b`: 0 before its first active line. -/
def State.scanned (s : State) (v b : Nat) : Nat := (b - (s.vout v).frameAt) * s.getF (Reg.VOUT_PCLK v) 20 0 / 400000

/-- The position in plane `k` of layer `l` that scan-out has reached after `n` pixel clocks of the frame. -/
def State.planePos (s : State) (v l k n : Nat) : Nat :=
  let fmt := fld (s.inUse v l 0) 7 4
  let total := max (s.getF (Reg.VOUT_HTIM v) 28 16) 1
  let y0 := fld (s.inUse v l 1) 28 16
  let h := fld (s.inUse v l 2) 28 16
  let half := k == 1 && halfRows fmt
  if n / total < y0 then 0
  else
    let y := min (n / total - y0) h
    let cols := if y < h then min (n % total - fld (s.inUse v l 1) 12 0) (fld (s.inUse v l 2) 12 0) else 0
    (if half then y / 2 else y) * s.rowBytes v l + (if half && y % 2 == 1 then s.rowBytes v l else cols * pixelBytes fmt)

/-- The first position of plane `k` that a pixel still to come can use: rows that two lines share stay until both are out. -/
def State.planeKeep (s : State) (v l k n : Nat) : Nat :=
  let p := s.planePos v l k n
  let r := max (s.rowBytes v l) 1
  if k = 1 ∧ halfRows (fld (s.inUse v l 0) 7 4) then (p - 1) / r * r else p

/-- The parts of the positions from `p` to `q` by row, at most as many as the rows they touch. -/
def rowSpans (row p q : Nat) : List (Nat × Nat) :=
  if row = 0 ∨ q ≤ p then []
  else (List.range ((q - 1) / row + 1 - p / row)).map fun i =>
    let y := p / row + i
    (max p (y * row), min q ((y + 1) * row) - max p (y * row))

/-- The bytes of a FIFO from position `p` on, where it holds all `n` of them. -/
def Fifo.bytes (f : Fifo) (p n : Nat) : Option (List Byte) :=
  (List.range n).mapM fun i => (f.held.find? fun e => e.1 == p + i).map (·.2)

def State.fifo (s : State) (v l k : Nat) : Fifo := (s.vout v).fifos.getD (2 * l + k) {}
def State.setFifo (s : State) (v l k : Nat) (f : Fifo → Fifo) : State :=
  s.setVout v fun (x : Vout) => { x with fifos := updAt x.fifos (2 * l + k) f }

/-- R608: a fetch of a layer of pipeline `v` is refused or poisoned. -/
def State.fetchError (s : State) (v : Nat) : State := (s.putBit (Reg.VOUT_STAT v) 7 true).evt (voutPage v) 5

/-- One fetch of `n` bytes at position `p` of plane `k` of layer `l`: its data enter the FIFO; one that fails abandons the rest of its row
(R601, R608), and one that its target holds changes nothing. -/
def State.planeFetch (s : State) (v l k p n : Nat) (env : MemEnv) : State :=
  let row := max (s.rowBytes v l) 1
  let pitch := if k = 0 then fld (s.inUse v l 7) 15 0 else fld (s.inUse v l 7) 31 16
  let r := s.blockRead Blk.VOUT v (s.plane v l k + p / row * pitch + p % row) n env
  match r.1 with
  | .held => s
  | .done => r.2.2.setFifo v l k fun f => { next := p + n, held := f.held ++ (List.range n).map fun i => (p + i, r.2.1.getD i 0) }
  | _ => (r.2.2.fetchError v).setFifo v l k fun f => { f with next := (p / row + 1) * row }

/-- Plane `k` of layer `l` is filled until it holds `ticks` of scan-out, or its 64 KiB. -/
def State.planeFill (s : State) (v l k ticks : Nat) (env : MemEnv) : State :=
  let keep := s.planeKeep v l k (s.scanned v s.clk.base)
  let s := s.setFifo v l k fun f => { f with held := f.held.filter fun e => decide (keep ≤ e.1) }
  let stop := min (s.planePos v l k (s.scanned v (s.clk.base + ticks))) (keep + 0x10000)
  (rowSpans (s.rowBytes v l) (max keep (s.fifo v l k).next) stop).foldl (fun s (e : Nat × Nat) =>
    if max keep (s.fifo v l k).next = e.1 then s.planeFetch v l k e.1 e.2 env else s) s

/-- R600: ahead of a refresh window of W ns every FIFO of the scanning pipelines is filled to hold at least W + 300 ns + PRE_NS. -/
def State.voutFill (s : State) (w : Nat) (env : MemEnv) : State :=
  s.each (List.range 2) fun s v =>
    if s.voutState v = VoutSt.SCANNING then
      s.each [(0, 0), (0, 1), (1, 0), (1, 1)] fun s (e : Nat × Nat) =>
        if (s.inUse v e.1 0).testBit 0 ∧ hasPlane (fld (s.inUse v e.1 0) 7 4) e.2 then
          s.planeFill v e.1 e.2 ((w + 300 + s.getF (Reg.VOUT_PRE_NS v) 15 0) * 2 / 5 + 1) env else s
    else s

/-- The bytes of plane `k` at position `p`: those its FIFO holds, else what memory holds. -/
def State.planeBytes (s : State) (v l k p n : Nat) : List Byte :=
  let row := max (s.rowBytes v l) 1
  let pitch := if k = 0 then fld (s.inUse v l 7) 15 0 else fld (s.inUse v l 7) 31 16
  ((s.fifo v l k).bytes p n).getD (s.bytes (s.plane v l k + p / row * pitch + p % row) n)

/-- R599: R, G, B in 10-bit codes and alpha of a layer's pixel. The conversion of YCbCr, and of Y16, is a free value of the layer's format,
CSC, luma and plane-1 address: the spec names the matrices and not their rounding (log entry 35). -/
def State.layerPixel (s : State) (v l : Nat) (c : Nat × Nat) : List Rat × Rat :=
  let cfg := s.inUse v l 0
  let fmt := fld cfg 7 4
  let w := leNat (s.planeBytes v l 0 (c.2 * s.rowBytes v l + c.1 * pixelBytes fmt) (pixelBytes fmt))
  let g : Rat := (fld cfg 23 16 : Rat) / 255
  let c8 (hi lo : Nat) : Rat := 1023 * (fld w hi lo : Rat) / 255
  if fmt = 0 then (List.replicate 3 (c8 7 0), g)
  else if fmt = 5 then ([c8 23 16, c8 15 8, c8 7 0], g)
  else if fmt = 6 then ([c8 23 16, c8 15 8, c8 7 0], (fld w 31 24 : Rat) / 255 * g)
  else if fmt = 7 then ([(fld w 29 20 : Rat), (fld w 19 10 : Rat), (fld w 9 0 : Rat)], (fld w 31 30 : Rat) / 3 * g)
  else if fmt = 8 then ([1023 * (fld w 15 11 : Rat) / 31, 1023 * (fld w 10 5 : Rat) / 63, 1023 * (fld w 4 0 : Rat) / 31], g)
  else
    let row := if fmt = 2 ∨ fmt = 4 then c.2 / 2 else c.2
    let n := pixelBytes fmt
    let chroma := leNat (s.planeBytes v l 1 (row * s.rowBytes v l + c.1 / 2 * 2 * n) (2 * n))
    ((List.range 3).map fun k => Config.yuv (fmt * 4 + fld cfg 9 8) k w chroma, g)

/-- R599: the composed pixel; `hide` lists layers that are transparent here. -/
def State.scanPixel (s : State) (v x y : Nat) (hide : List Nat) : List Rat :=
  let bg := s.rd (Reg.VOUT_BG_COLOUR v)
  let base : List Rat := [(fld bg 29 20 : Rat), (fld bg 19 10 : Rat), (fld bg 9 0 : Rat)]
  [0, 1].foldl (fun (out : List Rat) l =>
    match s.layerAt v l x y with
    | none => out
    | some c =>
      if hide.contains l then out
      else
        let p := s.layerPixel v l c
        List.zipWith (fun a b => p.2 * a + (1 - p.2) * b) p.1 out) base

/-- The FIFO of plane 0 of layer `l` holds the data of a pixel. -/
def State.inFifo (s : State) (v l : Nat) (c : Nat × Nat) : Bool :=
  let n := pixelBytes (fld (s.inUse v l 0) 7 4)
  ((s.fifo v l 0).bytes (c.2 * s.rowBytes v l + c.1 * n) n).isSome

/-- The fetch of layer `l` abandons line `y` of the layer and continues with the next one (R601). -/
def State.abandonLine (s : State) (v l y : Nat) : State :=
  let row := s.rowBytes v l
  let fmt := fld (s.inUse v l 0) 7 4
  let s := s.setFifo v l 0 fun f => { f with next := max f.next ((y + 1) * row) }
  if hasPlane fmt 1 && !(halfRows fmt && y % 2 == 0) then
    s.setFifo v l 1 fun f => { f with next := max f.next ((if halfRows fmt then y / 2 + 1 else y + 1) * row) }
  else s

/-- LAYER_UNDERRUN: at base tick `t` the data of layer `l` for pixel (x, y) is not in its FIFO: a fetch that is refused or poisoned, or one
that is late. The layer is transparent from there to the end of the line (R601, R608). A pixel whose data the FIFO holds is no
under-run. -/
def execLayerUnderrun (v l x y t : Nat) (env : MemEnv) (s : State) : Host.Outcome State Fault Refusal :=
  let s := s.tickTo t
  .next (if 2 ≤ v ∨ 2 ≤ l ∨ s.voutState v ≠ VoutSt.SCANNING then s
    else match s.layerAt v l x y with
    | none => s
    | some c =>
      if s.inFifo v l c then s else
      let w := s.freeExt 16
      let r := (if targetOf (s.pixelAddr v l c) = .dram then s else w.2).blockRead Blk.VOUT v (s.pixelAddr v l c)
        (pixelBytes (fld (s.inUse v l 0) 7 4)) { env with ext := w.1 }
      let s := match r.1 with
        | .done => r.2.2
        | .held => r.2.2
        | _ => r.2.2.fetchError v
      let s := s.abandonLine v l c.2
      let here := some (s.rd (Reg.VOUT_FRAME_CNT v), y)
      let seen := if (s.vout v).urLine = here then (s.vout v).urSeen else []
      let s := if seen.contains l then s else s.cnt (Reg.VOUT_UR_CNT v l)
      let s := if seen = [] then s.cnt (Reg.VOUT_UR_LINES v) else s
      let s := (s.setVout v fun (z : Vout) => { z with urLine := here, urSeen := l :: seen }).evt (voutPage v) 2
      s.emit (.pixel v x y (s.scanPixel v x y (l :: seen))))

/-! ## Flips (R602, R603) -/

/-- A write of `x` to FLIP. -/
def State.writeFlip (s : State) (v x : Nat) : State :=
  if x.testBit 0 then (s.setVout v fun (y : Vout) => { y with goAt := s.clk.base }).putBit (Reg.VOUT_STAT v) 5 true else s

/-- FLIP: a write of `value` to FLIP of pipeline `v`. -/
def execFlip (req : Requester) (v value : Nat) (s : State) : Host.Outcome State Fault Refusal :=
  .next (if v < 2 then s.checkedWrite req (Reg.VOUT_FLIP v) 4 fun s => s.writeFlip v value else s)

/-- A frame whose first active line is at base tick `b` follows; `drop` empties the FIFOs for it. -/
def State.newFrame (s : State) (v b : Nat) (drop : Bool) : State :=
  s.setVout v fun (x : Vout) => { x with frameAt := b, fifos := if drop then [{}, {}, {}, {}] else x.fifos }

/-- VBLANK_START: at base tick `t` the last active line of pipeline `v` ends. A FLIP.GO of the same cycle waits for the next one. -/
def execVblankStart (v t : Nat) (s : State) : Host.Outcome State Fault Refusal :=
  let s := s.tickTo t
  .next (if 2 ≤ v ∨ s.voutState v ≠ VoutSt.SCANNING then s
    else
      let s := (s.putBit (Reg.VOUT_STAT v) 4 true).evt (voutPage v) 0
      let s := if s.bit (Reg.VOUT_STAT v) 5 ∧ (s.vout v).goAt < s.clk.base then
          (s.setVout v fun (x : Vout) => { x with use := s.shadows v, taken := true }).putBit (Reg.VOUT_STAT v) 5 false else s
      let blank := (s.getF (Reg.VOUT_VTIM v) 28 16 - s.getF (Reg.VOUT_VTIM v) 12 0) * s.getF (Reg.VOUT_HTIM v) 28 16
      let s := s.newFrame v (s.clk.base + blank * 400000 / max (s.getF (Reg.VOUT_PCLK v) 20 0) 1) true
      if s.bit (Reg.VOUT_VBL_DB v) 0 then s.blockDoorbell Blk.VOUT v (s.getF (Reg.VOUT_VBL_DB v) 13 8) else s)

/-- FRAME_FIRST_LINE: at base tick `t` the first active line of a frame of pipeline `v` begins. -/
def execFrameFirstLine (v t : Nat) (s : State) : Host.Outcome State Fault Refusal :=
  let s := s.tickTo t
  .next (if 2 ≤ v ∨ s.voutState v ≠ VoutSt.SCANNING then s
    else
      let s := ((s.newFrame v s.clk.base (!s.bit (Reg.VOUT_STAT v) 4)).putBit (Reg.VOUT_STAT v) 4 false).incWrap (Reg.VOUT_FRAME_CNT v) 31 0
      if (s.vout v).taken then
        let now := s.localTime (4 + v)
        let s := s.setVout v fun (x : Vout) => { x with taken := false, flipHi := now / 2 ^ 32 }
        ((s.wr (Reg.VOUT_FLIP_T_LO v) now).wr (Reg.VOUT_FLIP_SEQ v) (s.rd (Reg.VOUT_FRAME_CNT v))).evt (voutPage v) 1
      else s)

/-- R611: a read of FLIP_T_LO latches FLIP_T_HI. -/
def State.latchFlip (s : State) (v : Nat) : State := s.wr (Reg.VOUT_FLIP_T_HI v) (s.vout v).flipHi

/-! ## AUX (R605) -/

/-- A write of `x` to AUX_CMD; one while a transaction runs changes nothing. -/
def State.writeAux (s : State) (req : Requester) (v x : Nat) : State :=
  if !x.testBit 31 then s
  else if !s.isEdp v || (s.vout v).training then s.quiet req (Reg.VOUT_AUX_CMD v) Cause.RESERVED_ENC
  else if s.bit (Reg.VOUT_AUX_STAT v) 0 then s
  else
    let d := if x.testBit 28 then
        ((List.range 4).flatMap fun k => leBytes 4 (s.rd (Reg.VOUT_AUX_DATA v k))).take (fld x 23 20 + 1) else []
    ((s.setVout v fun (y : Vout) => { y with aux := some (x, d) }).wr (Reg.VOUT_AUX_STAT v) 1).emit (.aux v x d)

/-- AUX_READ: a write of `value` to AUX_CMD of pipeline `v` with WRITE 0. -/
def execAuxRead (req : Requester) (v value : Nat) (s : State) : Host.Outcome State Fault Refusal :=
  .next (if v < 2 ∧ !value.testBit 28 then s.checkedWrite req (Reg.VOUT_AUX_CMD v) 4 fun s => s.writeAux req v value else s)
/-- AUX_WRITE: with WRITE 1. -/
def execAuxWrite (req : Requester) (v value : Nat) (s : State) : Host.Outcome State Fault Refusal :=
  .next (if v < 2 ∧ value.testBit 28 then s.checkedWrite req (Reg.VOUT_AUX_CMD v) 4 fun s => s.writeAux req v value else s)

/-- AUX_DONE: the transaction of pipeline `v` ends with RESULT `result` (1 ACK to 4 TIMEOUT) and the bytes of a read. -/
def execAuxDone (v result : Nat) (data : List Byte) (s : State) : Host.Outcome State Fault Refusal :=
  .next (match (s.vout v).aux with
    | none => s
    | some (x, _) =>
      if result = 0 ∨ 4 < result then s
      else
        let s := (s.setVout v fun (y : Vout) => { y with aux := none }).wr (Reg.VOUT_AUX_STAT v) (2 * result)
        if result = 1 ∧ !x.testBit 28 then
          s.each (List.range (fld x 23 20 + 1)) fun s i =>
            s.putF (Reg.VOUT_AUX_DATA v (i / 4)) (8 * (i % 4) + 7) (8 * (i % 4)) (data.getD i 0).toNat
        else s)

/-! ## Register writes, release and P4 entry (R604, R607, R609) -/

/-- R604: a write of `x` to a register of pipeline `v` that changes only while EN is 0. -/
def State.writeVoutReg (s : State) (req : Requester) (v a x : Nat) : State :=
  if s.voutEn v then s.quiet req a Cause.RESERVED_ENC else s.regStore req a x

/-- R604: an offset at or above 0x100 that may be written while a pipeline runs. -/
def voutLive (off : Nat) : Bool := decide (0x11C ≤ off)

/-- R590: the bits of layer registers whose written value another makes reserved: W odd for FMT 2 to 4, H odd for FMT 2 and 4, and an FMT
that the sizes in place do not allow. -/
def State.layerReserved (s : State) (v a x : Nat) : Nat :=
  let evens (fmt sz : Nat) : Nat :=
    (if 2 ≤ fmt ∧ fmt ≤ 4 ∧ sz.testBit 0 then 0x1FFF else 0) + (if (fmt = 2 ∨ fmt = 4) ∧ sz.testBit 16 then 0x1FFF0000 else 0)
  match (List.range 2).find? fun l => a == Reg.VOUT_SIZE v l || a == Reg.VOUT_CFG v l with
  | none => 0
  | some l =>
    if a = Reg.VOUT_SIZE v l then evens (s.getF (Reg.VOUT_CFG v l) 7 4) x
    else if evens (fld x 7 4) (s.rd (Reg.VOUT_SIZE v l)) = 0 then 0 else 0xF0

/-- R609: release at Stage C entry. -/
def State.mediaRelease (s : State) : State := s.alignLocal

/-- R607: at P4 entry ports and pipelines stop. -/
def State.mediaPark (s : State) : State :=
  let s := s.each (List.range 4) fun s p => ((s.camDiscard p).putBit (Reg.CAM_CTL p) 0 false).putF (Reg.CAM_STAT p) 1 0 0
  s.each (List.range 2) fun s v =>
    ((s.setVout v fun (x : Vout) => { x with training := false }).putBit (Reg.VOUT_CTL v) 0 false).putF (Reg.VOUT_STAT v) 1 0 VoutSt.OFF

end Sys2Proof.Machine
end

