-- ==== Sys2Proof/Machine/DramCtl.lean ====
section
/-! DEFINITION. What the DRAM controllers do of themselves (R433, R434, R437, R440, R445 to R453, R456 to R461): training and the
interleave set, ECC initialisation, the refresh grid, temperature, scrub and failure. -/

namespace Sys2Proof.Machine

def dmcPage (x : Nat) : Nat := pageAddr Blk.DMC x
def State.setDmcState (s : State) (x v : Nat) : State := s.putF (Reg.DMC_STAT x) 2 0 v

/-- The controllers, for a change that every page shows. -/
def State.eachDmc (s : State) (f : State → Nat → State) : State := s.each (List.range 4) f

/-- Controller `x` is populated (R434): by DRAM_CFG until it starts to train, then by the value it trained with (R453). -/
def State.populated (s : State) (x : Nat) : Bool :=
  let pop := if s.dmcState x = DmcSt.OFF ∨ s.dmcState x = DmcSt.UNPOPULATED then s.rd (Reg.DMC_DRAM_CFG x) else (s.dmc x).cfg
  fld pop 7 4 / 2 ^ x % 2 == 1

/-! ## Training (R449, R450, R453, R458) -/

/-- R449, R453: controller `x` starts to train with the configuration now in force; a mismatch of ECC_EN among the pages is noted with it
(R437). -/
def State.startTraining (s : State) (x : Nat) : State :=
  let bad := (List.range 4).any fun y => s.bit (Reg.DMC_CTL y) 1 != s.bit (Reg.DMC_CTL x) 1
  (s.setDmc x fun d => { d with ctl := s.rd (Reg.DMC_CTL x) % 64 + bad.toNat * 64, cfg := s.rd (Reg.DMC_DRAM_CFG x)
                                start := s.clk.base, passed := false }).setDmcState x DmcSt.TRAINING

/-- R449, R459: at Stage A entry each populated controller whose HOLD is 0 trains. -/
def State.dmcRelease (s : State) : State :=
  s.eachDmc fun s x =>
    if !s.populated x then s.setDmcState x DmcSt.UNPOPULATED
    else if s.bit (Reg.DMC_CTL x) 5 then s.setDmcState x DmcSt.OFF else s.startTraining x

/-- R436, R437: usable bytes of one channel of controller `x`. -/
def State.channelUsable (s : State) (x : Nat) : Nat :=
  let b := (s.dmc x).channelBytes
  if (s.dmc x).ctl.testBit 1 then b / 16 * 15 else b

/-- R450: the controllers of the set, in order, from those that passed. -/
def setOf (p : Nat → Bool) : List Nat :=
  if p 0 && p 1 && p 2 && p 3 then [0, 1, 2, 3]
  else if p 0 && p 1 then [0, 1]
  else if p 2 && p 3 then [2, 3]
  else ((List.range 4).filter p).take 1

/-- R445: W in ns by die density in Gb. -/
def windowNs (density : Nat) : Nat := if density ≤ 8 then 271 else if density ≤ 16 then 341 else 441

/-- tREFI in base ticks by RATE code (R446). -/
def refiTicks (rate : Nat) : Nat := match rate with
  | 0 => 1536
  | 1 => 768
  | _ => 384

/-- NEXT_START, and NEXT_ANGLE where ANG_EN is set, of controller `x` (R447); ANG_DOM 3 names no domain and gives a free value. -/
def State.showNext (s : State) (x : Nat) : State :=
  let b := s.grid.next.getD x 0
  let s := s.wr (Reg.DMC_NEXT_START x) (s.timeAt b % 2 ^ 32)
  if s.bit (Reg.DMC_RFSH_CFG x) 19 then
    let d := s.getF (Reg.DMC_RFSH_CFG x) 18 17
    if d = 3 then
      let r := s.fresh 32
      r.2.wr (Reg.DMC_NEXT_ANGLE x) r.1
    else
      let tau : Rat := ((b - s.clk.base : Nat) : Rat) / 400000
      let v : Rat := ((s.adom d).shown : Rat) + (s.rdS (Reg.ANGLE_DOM_SPEED d) : Rat) / 256 * tau
        + (s.rdS (Reg.ANGLE_DOM_ACCEL d) : Rat) / 256 * tau * tau / 2
      s.wr (Reg.DMC_NEXT_ANGLE x) (enc 32 v.floor)
  else s

/-- RATE and tREFI as every page shows them. -/
def State.showRate (s : State) : State :=
  s.eachDmc fun s x =>
    (if s.dmcState x = DmcSt.SELF_REFRESH then s else s.putF (Reg.DMC_RFSH_STAT x) 1 0 s.grid.rate).wr (Reg.DMC_TREFI x) (s.grid.step * 5 / 2)

/-- R445, R459: the set serves and the grid starts. -/
def State.startGrid (s : State) : State :=
  let t := s.clk.base
  let s := { s with grid := { on := true, t0 := t, next := (List.range 4).map fun x => t + x * 384 } }
  (s.eachDmc fun s x => if (s.dmc x).passed then (s.putF (Reg.DMC_RFSH_STAT x) 24 16 (windowNs (s.dmc x).density)).showNext x else s).showRate

/-- DEGRADED in every page with its level (R450, R457). -/
def State.dmcDegraded (s : State) : State :=
  s.eachDmc fun s x => (s.putBit (Reg.DMC_STAT x) 5 true).lvl (dmcPage x) 6 true

/-- R37, R451: FUNC_READY.DRAM sets once a controller of the set serves, and not before Stage C entry. -/
def State.dramReady (s : State) : State :=
  if s.cEntry && s.grid.on && s.dmcSet.any (fun y => s.dmcState y != DmcSt.FAILED) then s.funcReady Fn.DRAM else s

/-- R450: once every populated controller has finished, the interleave set is fixed, and serves. -/
def State.fixSet (s : State) : State :=
  let pop := (List.range 4).filter fun x => s.populated x
  let set := setOf fun x => (s.dmc x).passed
  if s.grid.on ∨ set = [] ∨ !pop.all (fun x => (s.dmc x).passed || s.dmcState x == DmcSt.FAILED) then s
  else
    let mask := (set.map fun x => 2 ^ x).sum
    let ways := match set.length with
      | 4 => 3
      | n => n
    let size := s.channelUsable (set.getD 0 0) * 4 * set.length / 0x100000
    let s := s.eachDmc fun s x => ((s.wr (Reg.DMC_IL_STAT x) (mask + ways * 16)).wr (Reg.DMC_DRAM_SIZE x) size).putBit (Reg.DMC_STAT x) 4
      (set.contains x)
    let s := if set.length < pop.length then s.dmcDegraded.emit (.island Isl.DMC 0) else s
    let s := if (s.dmc (set.getD 0 0)).ctl.testBit 1 then { s.zero dramBase (0x100000 * size) with poison := [] } else s
    s.startGrid.dramReady

/-- R460: the duration of training of controller `x`, to its end before initialisation (R449), is kept in TRN_STAT. -/
def State.trainTime (s : State) (x : Nat) : State :=
  if s.dmcState x = DmcSt.TRAINING then s.putF (Reg.DMC_TRN_STAT x) 31 16 (min 65535 ((s.clk.base - (s.dmc x).start) / 400000)) else s

/-- The end of training of controller `x`, with a FAIL_STEP that is 0 on a pass (R449, R458, R460). -/
def State.trained (s : State) (x step : Nat) : State :=
  let s := (s.putF (Reg.DMC_TRN_STAT x) 11 8 step).trainTime x
  let s := if step = 0 then
      (((s.putF (Reg.DMC_TRN_STAT x) 6 4 1).setDmc x fun d => { d with passed := true }).setDmcState x DmcSt.SERVING).evt (dmcPage x) 0
    else ((s.putF (Reg.DMC_TRN_STAT x) 6 4 2).setDmcState x DmcSt.FAILED).evt (dmcPage x) 1
  -- R458: with no controller passed, Stage C is not entered
  let s := if ((List.range 4).filter fun y => s.populated y).all fun y => s.dmcState y == DmcSt.FAILED then s.putBit Reg.RST_STAGE 5 true else s
  s.fixSet

/-- The rates that full training tries (R449 step 3). -/
def ratesTried (rate : Nat) (fallback : Bool) : List Nat := if fallback then (List.range (rate + 1)).reverse else [rate]

/-- R433, R434: density in Gb and ranks of a channel are supported. -/
def dieOk (density ranks : Nat) : Bool :=
  (ranks == 1 && [8, 12, 16, 24, 32].contains density) || (ranks == 2 && [8, 12, 16].contains density)

/-- Training is complete in a mode (1 FAST, 2 FULL) at a rate: initialisation follows where ECC_EN is set (R449 step 4). -/
def State.trainPass (s : State) (x mode rate : Nat) : State :=
  let s := (s.putF (Reg.DMC_TRN_STAT x) 1 0 mode).putF (Reg.DMC_TRN_STAT x) 14 12 rate
  if (s.dmc x).ctl.testBit 1 then (s.trainTime x).setDmcState x DmcSt.INIT else s.trained x 0

/-- DRAM_TRAINING_DONE: at base tick `t` training of controller `x` ends with what the environment reports. -/
def execDramTrainingDone (x : Nat) (r : Train) (t : Nat) (s : State) : Host.Outcome State Fault Refusal :=
  let s := s.tickTo t
  .next (if 4 ≤ x ∨ s.dmcState x ≠ DmcSt.TRAINING then s
    else
      let d := s.dmc x
      if r.mrFail then s.trained x 1
      else if r.differ ∨ d.ctl.testBit 6 then s.trained x 2
      else if !dieOk r.density r.ranks || r.option then s.trained x 3
      else
        let s := s.setDmc x fun d => { d with density := r.density, ranks := r.ranks }
        let tag := s.rd (Reg.DMC_TRN_TAG x)
        let rate := fld d.cfg 2 0
        if d.ctl.testBit 4 ∧ tag.testBit 31 ∧ tag % 2 ^ 24 = r.mr % 2 ^ 24 ∧ fld tag 26 24 = rate ∧ r.quick then s.trainPass x 1 rate
        else
          let tried := ratesTried rate (d.cfg.testBit 8)
          match tried.find? fun k => r.steps.getD k 0 == 0 with
          | some k =>
            let s := s.each (List.range 64) fun s i => s.wr (Reg.DMC_TRN x i) (r.trn.getD i 0)
            (s.wr (Reg.DMC_TRN_TAG x) (r.mr % 2 ^ 24 + 2 ^ 24 * k + 2 ^ 31)).trainPass x 2 k
          | none => ((s.putF (Reg.DMC_TRN_STAT x) 1 0 2).putF (Reg.DMC_TRN_STAT x) 14 12 (tried.getLastD 0)).trained x (r.steps.getD (tried.getLastD 0) 4 % 16))

/-- ECC_INIT_DONE: at base tick `t` the initialisation of controller `x` ends. -/
def execEccInitDone (x : Nat) (ok : Bool) (t : Nat) (s : State) : Host.Outcome State Fault Refusal :=
  let s := s.tickTo t
  .next (if x < 4 ∧ s.dmcState x = DmcSt.INIT then s.trained x (if ok then 0 else 10) else s)

/-- R449, R453: CTL of controller `x` was written; `held` is its HOLD before. -/
def State.dmcCtl (s : State) (x : Nat) (held : Bool) : State :=
  if held && !s.bit (Reg.DMC_CTL x) 5 && s.dmcState x == DmcSt.OFF && s.aEntry then s.startTraining x else s

/-- R434, R459: DRAM_CFG of a controller that has not started was written. -/
def State.dmcCfg (s : State) (x : Nat) : State :=
  if s.aEntry && (s.dmcState x == DmcSt.OFF || s.dmcState x == DmcSt.UNPOPULATED) then
    if !s.populated x then (s.setDmcState x DmcSt.UNPOPULATED).fixSet
    else if s.bit (Reg.DMC_CTL x) 5 then s.setDmcState x DmcSt.OFF else s.startTraining x
  else s

/-- DMC_HOLD_CLEAR: a write of `value` to CTL of controller `x`. -/
def execDmcHoldClear (req : Requester) (x value : Nat) (s : State) : Host.Outcome State Fault Refusal :=
  .next (if x < 4 then s.checkedWrite req (Reg.DMC_CTL x) 4 fun s =>
    (s.regStore req (Reg.DMC_CTL x) value).dmcCtl x (s.bit (Reg.DMC_CTL x) 5) else s)

/-! ## The refresh grid (R445 to R448, R452) -/

/-- The controller refreshes: it has passed and has not failed since. -/
def State.refreshes (s : State) (x : Nat) : Bool :=
  decide (x < 4) && s.grid.on && (s.dmc x).passed && decide (s.dmcState x ≠ DmcSt.FAILED)

/-- The first window of controller `x` on the grid after base tick `b`. -/
def Grid.after (g : Grid) (x b : Nat) : Nat :=
  let o := g.t0 + x * (g.step / 4)
  if b < o then o else o + ((b - o) / g.step + 1) * g.step

/-- R446: a new RATE takes effect at a window of DMC_A that starts at `b`; windows already announced keep their time. -/
def State.newGrid (s : State) (b rate : Nat) : State :=
  let g : Grid := { s.grid with t0 := b, step := refiTicks rate, rate := rate, newRate := none }
  let g := { g with next := (List.range 4).map fun x => if s.grid.announced.getD x false then s.grid.next.getD x 0 else b + x * (g.step / 4) }
  ({ s with grid := g }.eachDmc fun s x => s.evt (dmcPage x) 3).showRate

/-- REFRESH_WINDOW_START: at base tick `t` the next window of controller `x` begins; ahead of it the display pipelines fill their FIFOs
(R600), and `env` is what their reads meet. -/
def execRefreshWindowStart (x t : Nat) (env : MemEnv) (s : State) : Host.Outcome State Fault Refusal :=
  let s := s.tickTo t
  .next (let b := s.grid.next.getD x 0
    if s.refreshes x ∧ b ≤ s.clk.base then
      let s := if s.dmcSet.contains x then s.voutFill (s.getF (Reg.DMC_RFSH_STAT x) 24 16) env else s
      let s := match x, s.grid.newRate with
        | 0, some r => s.newGrid b r
        | _, _ => s
      let s := { s with grid := { s.grid with next := s.grid.next.set x (s.grid.after x b), announced := s.grid.announced.set x false } }
      let s := s.setDmc x fun d => { d with rows := [], window := some b }
      (s.incWrap (Reg.DMC_RFSH_CNT x) 31 0).showNext x
    else s)

/-- REFRESH_WINDOW_END: at base tick `t` the window of controller `x` has lasted W; jobs that it held back may start (R382). -/
def execRefreshWindowEnd (x t : Nat) (s : State) : Host.Outcome State Fault Refusal :=
  let s := s.tickTo t
  .next (match (s.dmc x).window with
    | some b => if x < 4 ∧ 2 * s.getF (Reg.DMC_RFSH_STAT x) 24 16 ≤ 5 * (s.clk.base - b) then (s.setDmc x fun d => { d with window := none }).each (List.range 64) fun s c => s.coreNext c else s
    | none => s)

/-- REFRESH_ANNOUNCE: at base tick `t` ANN_LEAD ns remain to the next window of controller `x`: a pulse of the event network with source
index `x` (R447). -/
def execRefreshAnnounce (x t : Nat) (s : State) : Host.Outcome State Fault Refusal :=
  let s := s.tickTo t
  .next (let lead := s.getF (Reg.DMC_RFSH_CFG x) 15 0
    if s.refreshes x ∧ s.bit (Reg.DMC_RFSH_CFG x) 16 ∧ lead ≠ 0 ∧ !s.grid.announced.getD x false
        ∧ 5 * (s.grid.next.getD x 0 - s.clk.base) ≤ 2 * lead then
      let s := { s with grid := { s.grid with announced := s.grid.announced.set x true } }
      (((s.emit (.pulse 2 x)).emit (.island Isl.DMC (256 + x))).trigEvent 4 x).netPulse 2 x s.clk.base
    else s)

/-- MR4_POLL: every channel of every controller is polled: MR_TEMP of each controller, the RATE code of the highest multiplier, and the
controllers with a channel above the MR4 range (R433, R446). -/
def execMr4Poll (codes : List Nat) (rate hot : Nat) (s : State) : Host.Outcome State Fault Refusal :=
  .next (if !s.grid.on then s
    else
      let s := s.eachDmc fun s x => if s.refreshes x then
        let s := s.wr (Reg.DMC_MR_TEMP x) (codes.getD x 0 % 2 ^ 16 &&& 0x7777)
        let h := hot.testBit x
        let was := s.bit (Reg.DMC_STAT x) 6
        let s := (s.putBit (Reg.DMC_STAT x) 6 h).lvl (dmcPage x) 7 h
        if h && !was then s.emit (.island Isl.DMC (512 + x)) else s
      else s
      let r := if hot % 16 = 0 then min rate 2 else 2
      { s with grid := { s.grid with newRate := if r = s.grid.rate then none else some r } })

/-! ## Rows, scrub, failure -/

/-- ROW_IDLE_CLOSE: at base tick `t` AUTO_IDLE ns have passed with no access to the row open in `bank` of channel `ch` (R440). -/
def execRowIdleClose (x ch bank t : Nat) (s : State) : Host.Outcome State Fault Refusal :=
  let s := s.tickTo t
  .next (if x < 4 then s.setDmc x fun d => { d with rows := d.rows.filter fun r =>
      !(r.ch == ch && r.bank == bank && r.hint == 0 && decide (2 * s.getF (Reg.DMC_AUTO_IDLE x) 15 0 ≤ 5 * (s.clk.base - r.last))) } else s)

/-- The DRAM offset of local offset `l` of channel `ch` of controller `x`: the inverse of R435. -/
def State.dramInv (s : State) (x ch l : Nat) : Nat :=
  let set := s.dmcSet
  let i := (set.takeWhile fun y => y != x).length
  let lo := ch * 512 + l % 512
  match set.length with
  | 4 =>
    let o := 0x2000 * (l / 512)
    o + 0x800 * (i ^^^ fld o 24 23) + lo
  | 2 =>
    let o := 0x1000 * (l / 512)
    o + 0x800 * (i ^^^ fld o 23 23) + lo
  | _ => 0x800 * (l / 512) + lo

/-- PATROL_SCRUB: controller `x` of the set reads its next 64 bytes; `ecc` is what the read meets: 0 good, 1 corrected, 2 uncorrectable,
3 an uncorrectable link error (R438, R455, R456). -/
def execPatrolScrub (x ecc : Nat) (s : State) : Host.Outcome State Fault Refusal :=
  .next (if x < 4 ∧ s.bit (Reg.DMC_STAT x) 4 ∧ s.dmcState x = DmcSt.SERVING ∧ s.bit (Reg.DMC_SCRUB_CFG x) 0 ∧ !s.dmcHolds x ∧ s.channelUsable x ≠ 0 then
    let cap := s.channelUsable x
    let c := (s.dmc x).scrub
    let a := dramBase + s.dramInv x (c / cap) (c % cap)
    let f := if (s.dmc x).ctl.testBit 1 then s.eccForced (dmcPage x) a 64 32 else 0
    let s := if f ≠ 0 then s.injected (dmcPage x) else s
    let e := max f (if (s.dmc x).ctl.testBit 1 ∨ ecc = 3 then ecc else 0)
    let s := if e = 1 then s.dmcCe x else if 2 ≤ e then s.dmcUe x (a / 32 * 32) true (decide (e = 3)) else s
    let n := c + 64
    if 4 * cap ≤ n then
      (((s.setDmc x fun d => { d with scrub := 0 }).putF (Reg.DMC_SCRUB_STAT x) 7 0 0).incWrap (Reg.DMC_SCRUB_STAT x) 31 16).evt (dmcPage x) 4
    else (s.setDmc x fun d => { d with scrub := n }).putF (Reg.DMC_SCRUB_STAT x) 7 0 (n * 100 / (4 * cap))
  else s)

/-- DMC_CTRL_FAIL: controller `x` of the set loses PHY lock, or a channel stops answering (R457). -/
def execDmcCtrlFail (x : Nat) (s : State) : Host.Outcome State Fault Refusal :=
  .next (if x < 4 ∧ s.bit (Reg.DMC_STAT x) 4 ∧ s.dmcState x ≠ DmcSt.FAILED then
    let s := ((s.setDmcState x DmcSt.FAILED).setDmc x fun d => { d with window := none, rows := [] }).dmcDegraded
    let s := (s.evt (dmcPage x) 5).emit (.island Isl.DMC x)
    if s.dmcSet.all fun y => s.dmcState y == DmcSt.FAILED then s.funcLost Fn.DRAM else s
  else s)

end Sys2Proof.Machine
end

