-- ==== Sys2Proof/Machine/Resize.lean ====
section
/-! DEFINITION. Resizing partitions (R254, R256, R258 to R264, R268, R271 to R274, R327). -/

namespace Sys2Proof.Machine

/-- The GROVE_MASK and ring bit that partition `p` has in a resize of the armed pages: NEXT values for those, else current ones. -/
def State.planGroves (s : State) (armed : List Nat) (p : Nat) : Nat :=
  (if armed.contains p then s.rd (Reg.PART_NEXT_GROVE_MASK p) else s.rd (Reg.PART_GROVE_MASK p)) % 65536
def State.planRings (s : State) (armed : List Nat) (p : Nat) : Nat :=
  if armed.contains p then s.rd (Reg.PART_NEXT_RING_MASK_LO p) + 2 ^ 32 * s.rd (Reg.PART_NEXT_RING_MASK_HI p)
  else s.rd (Reg.PART_RING_MASK_LO p) + 2 ^ 32 * s.rd (Reg.PART_RING_MASK_HI p)

/-- Sum over the partitions of a share. -/
def sharePlan (armed : List Nat) (next cur : Nat → Nat) : Nat := ((List.range 16).map fun p => if armed.contains p then next p else cur p).sum

/-- Two partitions have a bit in common. -/
def clash (f : Nat → Nat) : Bool := (List.range 16).any fun p => (List.range p).any fun q => decide (f p &&& f q ≠ 0)

/-- R259: FAIL of the validation: 0 none, 1 GROVE_CONFLICT, 2 RING_CONFLICT, 3 SHARE_SUM. -/
def State.resizeFail (s : State) (armed : List Nat) : Nat :=
  let f := fun (a : Nat → Nat) (p : Nat) => s.getF (a p) 8 0
  if clash (s.planGroves armed) then 1
  else if clash (s.planRings armed) then 2
  else if 256 < sharePlan armed (f Reg.PART_NEXT_ESHARE) s.share ∨ 256 < sharePlan armed (f Reg.PART_NEXT_MESH_SHARE) (f Reg.PART_MESH_SHARE)
      ∨ 256 < sharePlan armed (f Reg.PART_NEXT_DRAM_SHARE) (f Reg.PART_DRAM_SHARE) then 3
  else 0

def State.armedParts (s : State) : List Nat := (List.range 16).filter fun p => s.bit (Reg.PART_CTL p) 1

/-- The job has been on a core. -/
def Job.begun (j : Job) : Bool := j.start.isSome || j.ranks.any fun r => r.st != .queued

/-- R258, R259, R260, R262, R274: a write of `v` to RESIZE of partition `p`. Jobs of a leaving ring or of a partition with a mode change
that have not started stay queued through the resize: they leave the cores they wait for. -/
def State.writeResize (s : State) (req : Requester) (p v : Nat) : State :=
  if !v.testBit 0 then s
  else if !s.bit (Reg.PART_CTL p) 1 || s.resize.isSome then s.quiet req (Reg.PART_RESIZE p) Cause.RESERVED_ENC
  else
    let armed := s.armedParts
    let fail := s.resizeFail armed
    let s := s.each armed fun s q => s.putF (Reg.PART_RESIZE_STAT q) 11 8 fail
    if fail ≠ 0 then s.each armed fun s q => s.evt (partPage q) 2
    else
      let out := (List.range 16).filter fun g => armed.any fun q => s.bit (Reg.PART_GROVE_MASK q) g && !s.bit (Reg.PART_NEXT_GROVE_MASK q) g
      let s := s.each armed fun s q => (s.putF (Reg.PART_RESIZE_STAT q) 1 0 1).putBit (Reg.PART_STAT q) 0 true
      let s := { s with resize := some { armed := armed, page := p, start := s.clk.base }, leaving := out }
      let s := s.each (s.jobs.filter fun j => j.ph == .placed && !j.begun && (s.ringLeaving j.ring || s.modeChange j.part)) fun s j => s.unplace j
      (s.each out fun s g => s.putBit (Reg.TICKET_STAT g) 8 true).dispSync.ringsSync

/-- RESIZE_GO: a write of `value` to RESIZE of partition `p`. -/
def execResizeGo (req : Requester) (p value : Nat) (s : State) : Host.Outcome State Fault Refusal :=
  .next (if p < 16 then s.checkedWrite req (Reg.PART_RESIZE p) 4 fun s => s.writeResize req p value else s)

/-- R260: the job prevents the end of quiesce: it is placed with a rank on a leaving grove, or has started and not completed and is from a
leaving ring or of a mode-changing partition. -/
def State.blocksQuiesce (s : State) (j : Job) : Bool :=
  decide (j.ph = .placed ∨ (j.ph = .ended ∧ j.start.isSome)) &&
    (j.ranks.any (fun r => (s.leaving.contains (coreGrove r.core) && r.st != .done && r.st != .stopped) || (r.occupies && s.leaving.contains (coreGrove r.core)))
      || ((s.ringLeaving j.ring || s.modeChange j.part) && j.begun))

/-- R263, R312: the clear of a leaving grove: one in P3 counts as cleared, one in P0 starts, another waits for P0. -/
def State.clearLeaving (s : State) (g : Nat) : State :=
  if s.dom g = 3 then { s with resize := s.resize.map fun (r : Resize) => { r with todo := r.todo.filter fun x => x != g } }
  else if s.dom g = 0 then s.startClear g else s

/-- QUIESCE_END: at base tick `t` nothing prevents the end of quiesce any more, and the clear of the leaving groves begins (R260,
R263, R327, R351). -/
def execQuiesceEnd (t : Nat) (s : State) : Host.Outcome State Fault Refusal :=
  let s := s.tickTo t
  .next (match s.resize with
    | none => s
    | some r =>
      let busy := s.jobs.any s.blocksQuiesce || s.leaving.any fun g =>
        (s.ferry (2 * g)).busy || (s.ferry (2 * g + 1)).busy || (!r.early && !(s.office g).tickets.isEmpty)
      if r.clear || busy then s
      else
        let s := { s with resize := some { r with clear := true, todo := s.leaving } }
        let s := s.each r.armed fun s q => s.putF (Reg.PART_RESIZE_STAT q) 1 0 2
        let s := s.each s.leaving fun s g => (s.ferryDiscard (2 * g)).ferryDiscard (2 * g + 1)
        s.each s.leaving fun s g => s.clearLeaving g)

/-- RESIZE_QUIESCE_TIMEOUT: at base tick `t`, TMO µs after GO, the jobs and transfers that prevent the end of quiesce are stopped
(R261, R326, R351). -/
def execResizeQuiesceTimeout (t : Nat) (s : State) : Host.Outcome State Fault Refusal :=
  let s := s.tickTo t
  .next (match s.resize with
    | none => s
    | some r =>
      let tmo := s.getF (Reg.PART_RESIZE_CFG r.page) 15 0
      if r.clear ∨ r.early ∨ tmo = 0 ∨ s.clk.base < r.start + tmo * 400 then s
      else
        let s := { s with resize := some { r with early := true } }
        let s := s.each (s.jobs.filter s.blocksQuiesce) fun s j =>
          if j.ph = .ended then s
          else if j.start.isSome then s.stopJob j.id Disp.FAILED_CLEAR_PENDING 0 false else s.endUnstarted j Disp.FAILED_CLEAR_PENDING 0
        s.each s.leaving fun s g => (s.ferryAbort (2 * g)).ferryAbort (2 * g + 1))

/-- ESHARE of a page reads the ledger's share (R256). -/
def State.eshareSync (s : State) (p : Nat) : State := s.putF (Reg.PART_ESHARE p) 8 0 (s.share p)

/-- R264: the NEXT registers of partition `p` become current. -/
def State.commitPart (s : State) (p : Nat) : State :=
  let cp := fun (s : State) (e : Nat × Nat) => s.wr e.1 (s.rd e.2)
  let s := [(Reg.PART_GROVE_MASK p, Reg.PART_NEXT_GROVE_MASK p), (Reg.PART_RING_MASK_LO p, Reg.PART_NEXT_RING_MASK_LO p)
    , (Reg.PART_RING_MASK_HI p, Reg.PART_NEXT_RING_MASK_HI p), (Reg.PART_MODE p, Reg.PART_NEXT_MODE p)
    , (Reg.PART_MESH_SHARE p, Reg.PART_NEXT_MESH_SHARE p), (Reg.PART_DRAM_SHARE p, Reg.PART_NEXT_DRAM_SHARE p)].foldl cp s
  (s.putF (Reg.LEDGER_SHARE p) 8 0 (s.getF (Reg.PART_NEXT_ESHARE p) 8 0)).eshareSync p

/-- R262: a fetched job whose ring has left is admitted under the ring's new partition, or ends CANCELLED. -/
def State.readmit (s : State) (j : Job) : State :=
  match s.ringPart j.ring with
  | none => s.endUnstarted j Disp.CANCELLED 2
  | some p =>
    if p = j.part then s
    else
      let s := if j.debit ≠ 0 then s.refund j.part j.paid else s
      let j := { j with part := p, ph := .queued, debit := 0, paid := (0, 0) }
      let s := s.setJob j.id fun _ => j
      let k := s.capacityCause j
      if k ≠ 0 then s.finish j Disp.REFUSED_CAPACITY k
      else
        let u := s.unreachable j
        if u ≠ 0 then s.finish j Disp.REFUSED_DEADLINE u else s

/-- RESIZE_COMMIT: at base tick `t`, with every leaving grove cleared, the resize commits (R264). -/
def execResizeCommit (t : Nat) (s : State) : Host.Outcome State Fault Refusal :=
  let s := s.tickTo t
  .next (match s.resize with
    | none => s
    | some r =>
      if !r.clear || !r.todo.isEmpty then s
      else
        let us := satN 16 ((s.clk.base - r.start) / 400)
        let s := s.each r.armed fun s p => s.commitPart p
        let s := s.each r.armed fun s p =>
          let a := Reg.PART_RESIZE_STAT p
          ((((s.putBit (Reg.PART_CTL p) 1 false).putF a 1 0 0).putBit a 4 true).putF a 31 16 us).putBit (Reg.PART_STAT p) 0 false |>.evt (partPage p) 1
        let s := s.each s.leaving fun s g => s.putBit (Reg.TICKET_STAT g) 8 false
        let s := { s with resize := none, leaving := [] }
        let s := s.each (s.jobs.filter fun j => decide (j.ph = .queued ∨ j.ph = .passed)) fun s j => s.readmit j
        s.dispSync.ringsSync)

/-- R258: a write of `v` to a NEXT register, or to CTL, of a PART page has no effect while a resize is in progress. -/
def State.writePartNext (s : State) (req : Requester) (a v : Nat) : State :=
  if s.resize.isSome then s.quiet req a Cause.RESERVED_ENC else s.regStore req a v

/-- R256: a direct write of SHARE_pp in the ledger: ESHARE and NEXT_ESHARE follow one that takes effect. -/
def State.writeShareReg (s : State) (req : Requester) (p v : Nat) : State :=
  if s.shareRefused p v then s.writeShare req p v
  else
    let s := (s.writeShare req p v).eshareSync p
    s.putF (Reg.PART_NEXT_ESHARE p) 8 0 (s.share p)

end Sys2Proof.Machine
end

