-- ==== Sys2Proof/Machine/Image.lean ====
section
/-! DEFINITION. Boot images, tokens and the checks of signatures (R118 to R120, R210 to R213). -/

namespace Sys2Proof.Machine

/-- Field of `n` bytes at offset `off` of a header. -/
def hdrNat (h : List Byte) (off n : Nat) : Nat := leNat ((h.drop off).take n)
def hdrBytes (h : List Byte) (off n : Nat) : List Byte := (h.drop off).take n
def allZero (l : List Byte) : Bool := l.all fun b => decide (b = 0)

/-- Length of an image header (R119) and of a token (R211). -/
def headerLen : Nat := 5632

/-- R139: the largest body of a stage. -/
def bodyLimit (stage : Nat) : Nat := if stage = 1 then 0xC0000 else if stage = 2 then 0x200000 else 0x1000000

/-- R118: the header of an image of `stage` is well formed. -/
def headerOk (h : List Byte) (stage : Nat) : Bool :=
  decide (h.length = headerLen) && decide (hdrNat h 0 4 = 0x4942584F) && decide (hdrNat h 4 2 = 1) && decide (hdrNat h 6 1 = stage)
    && decide (hdrNat h 7 1 ≤ 3) && decide (hdrNat h 8 4 ≤ 64) && decide (hdrNat h 0xC 4 ≤ bodyLimit stage)
    && allZero (hdrBytes h 0x50 48) && allZero (hdrBytes h 0x15CD 51)

/-- R120: SHA-384 of ECDSA_PUB followed by MLDSA_PUB. -/
def keysHash (h : List Byte) : List Byte := Config.sha2 384 (hdrBytes h 0x80 96 ++ hdrBytes h 0x140 1952)

/-- R119: the two signatures over the signed block. -/
def ecdsaOk (h : List Byte) : Bool := Config.ecdsaVerify (hdrBytes h 0x80 96) (hdrBytes h 0 0x80) (hdrBytes h 0xE0 96)
def mldsaOk (h : List Byte) : Bool := Config.mldsaVerify (hdrBytes h 0x140 1952) (hdrBytes h 0 0x80) (hdrBytes h 0x8E0 3309)

/-- The lifecycle state in effect (R210). -/
def State.lifecycle (s : State) : Nat := s.getF Reg.SEC_LIFECYCLE 1 0

/-- R118, R120, R210: the keys of a header match fuse key slot `k`; in MANUFACTURE an unprogrammed slot matches the
manufacturing key hash. -/
def State.slotMatches (s : State) (h : List Byte) (k : Nat) : Bool :=
  !s.fuse.revoked.testBit k
    && (if s.fuse.programmed.testBit k then keysHash h == Config.keyHash k
        else decide (s.lifecycle = 0) && keysHash h == Config.mfgKeyHash)

/-- R118, R149: the code of a verification of an image of `stage` against key slot `k`: 1 pass, else the first reason. -/
def State.imageCode (s : State) (h body : List Byte) (stage k : Nat) : Nat :=
  if !headerOk h stage || !s.slotMatches h k then 2
  else if hdrNat h 8 4 < s.fuse.arb.getD (stage - 1) 0 then 3
  else if Config.sha2 384 body ≠ hdrBytes h 0x20 48 then 4
  else if !ecdsaOk h then 5
  else if !mldsaOk h then 6
  else 1

/-- R212: a token is well formed. -/
def tokenOk (h : List Byte) : Bool :=
  decide (h.length = headerLen) && decide (hdrNat h 0 4 = 0x4B544244) && decide (hdrNat h 4 2 = 1)
    && decide (1 ≤ hdrNat h 6 1) && decide (hdrNat h 6 1 ≤ 4) && decide (hdrNat h 7 1 < 16)
    && decide (1 ≤ hdrNat h 0x30 4) && decide (hdrNat h 0x30 4 ≤ 86400)
    && allZero (hdrBytes h 0x34 76) && allZero (hdrBytes h 0x15CD 51)

/-- R211: the signatures of a token and its key hash: the debug key hash, or the ROM's for LEVEL 3. -/
def State.tokenSigned (s : State) (h : List Byte) : Bool :=
  (if hdrNat h 6 1 = 3 then keysHash h == Config.mfgDebugHash else s.fuse.debugKey && keysHash h == Config.debugKeyHash)
    && ecdsaOk h && mldsaOk h

/-- The token carries this device's UID (R212). -/
def tokenUid (h : List Byte) : Bool := decide (hdrNat h 8 8 = Config.uid)

/-- R213: whether the lifecycle state grants a session of `level` with `flags`. -/
def State.grants (s : State) (level flags : Nat) : Bool :=
  let lc := s.lifecycle
  match level with
  | 1 => lc ≠ 0
  | 2 => if lc = 0 then false else if lc = 2 then flags.testBit 2 && s.fuse.fullInField else true
  | 3 => lc = 0
  | _ => false

end Sys2Proof.Machine
end

