-- ==== Sys2Proof/Machine/Sec.lean ====
section
/-! DEFINITION. Crossing mailboxes (R200 to R202, R223), hart worlds (R197, R199), debug sessions and the TAP (R211 to
R216, R224, R225, R231), lockstep and escalation (R218), and the entropy health test (R228). -/

namespace Sys2Proof.Machine

/-! ## Crossing mailboxes -/

/-- An event on bit `b` of the sapwood side of mailbox `i` (R202). -/
def State.sapEvt (s : State) (i b : Nat) : State := s.putBit (Reg.XMB_S_IRQ_PEND i) b true

/-- CTL of a direction: `h2s` is heartwood to sapwood. -/
def xmbCtl (i : Nat) (h2s : Bool) : Nat := if h2s then Reg.XMB_H2S_CTL i else Reg.XMB_S2H_CTL i
def xmbAck (i : Nat) (h2s : Bool) : Nat := if h2s then Reg.XMB_H2S_ACK i else Reg.XMB_S2H_ACK i
def xmbSeq (i : Nat) (h2s : Bool) : Nat := if h2s then Reg.XMB_H2S_SEQ i else Reg.XMB_S2H_SEQ i

/-- R201: a write to a message area or RING while PEND is 1. -/
def State.xmbBusy (s : State) (i : Nat) : State := s.incSat (Reg.XMB_XMB_STAT i) 15 0

/-- R201: a write of `v` to a direction's CTL. -/
def State.ringXmb (s : State) (i : Nat) (h2s : Bool) (v : Nat) : State :=
  if !v.testBit 0 then s
  else if s.bit (xmbCtl i h2s) 0 then s.xmbBusy i
  else
    let s := (s.putBit (xmbCtl i h2s) 0 true).incWrap (xmbSeq i h2s) 31 0
    if h2s then s.sapEvt i 0 else (s.evt (pageAddr Blk.XMB i) 0).xmbToIsland i

/-- R201: a write of `v` to a direction's ACK. -/
def State.ackXmb (s : State) (i : Nat) (h2s : Bool) (v : Nat) : State :=
  if v.testBit 0 && s.bit (xmbCtl i h2s) 0 then
    let s := s.putBit (xmbCtl i h2s) 0 false
    if h2s then (s.evt (pageAddr Blk.XMB i) 1).xmbToIsland i else s.sapEvt i 1
  else s

/-- XMB_RING: a write of `value` to the CTL of a direction of mailbox `i`. -/
def execXmbRing (req : Requester) (i : Nat) (h2s : Bool) (value : Nat) (s : State) : Host.Outcome State Fault Refusal :=
  .next (s.checkedWrite req (xmbCtl i h2s) 4 fun s => s.ringXmb i h2s value)

/-- XMB_ACK: a write of `value` to the ACK of a direction of mailbox `i`. -/
def execXmbAck (req : Requester) (i : Nat) (h2s : Bool) (value : Nat) (s : State) : Host.Outcome State Fault Refusal :=
  .next (s.checkedWrite req (xmbAck i h2s) 4 fun s => s.ackXmb i h2s value)

/-! ## Harts (R197) -/

/-- The entry address of a world (R233). -/
def State.entryOf (s : State) (heart : Bool) : Nat :=
  if heart then s.rd Reg.SEC_ENTRY_H_LO + 2 ^ 32 * s.getF Reg.SEC_ENTRY_H_HI 15 0
  else s.rd Reg.SEC_ENTRY_S_LO + 2 ^ 32 * s.getF Reg.SEC_ENTRY_S_HI 15 0

/-- R197: a write of `v` to HART_HOLD: a hart released after a change of world starts at the entry of its world with its registers
cleared and its caches written back (memory holds what its lines hold, log entry 20) and invalidated. APP_CPU is available while a
hart is not held (R36, R38). -/
def State.writeHold (s : State) (v : Nat) : State :=
  let old := s.rd Reg.SEC_HART_HOLD
  let s := s.wr Reg.SEC_HART_HOLD (v % 4096)
  let s := if s.cEntry then s.funcSet Fn.APP_CPU (decide (v % 4096 ≠ 4095)) else s
  s.each (List.range 12) fun s h =>
    if old.testBit h && !v.testBit h then
      { s with harts := updAt s.harts h fun H =>
          if H.changed then
            { H with pc := s.entryOf (s.bit Reg.SEC_HART_WORLD h), changed := false, regs := [], zeroed := true, lines := [] } else H }
    else s

/-- R197: a write of `v` to HART_WORLD: only bits of held harts change; a change to any other counts RESERVED_ENC. -/
def State.writeHartWorld (s : State) (req : Requester) (v : Nat) : State :=
  let old := s.rd Reg.SEC_HART_WORLD
  let diff := (old ^^^ v) % 4096
  let ok := diff &&& s.rd Reg.SEC_HART_HOLD
  let s := if diff ≠ ok then s.quiet req Reg.SEC_HART_WORLD Cause.RESERVED_ENC else s
  let s := s.wr Reg.SEC_HART_WORLD (old ^^^ ok)
  s.each (List.range 12) fun s h =>
    if ok.testBit h then { s with harts := updAt s.harts h fun (H : Hart) => { H with changed := true } } else s

/-- HART_HOLD_WRITE: a write of `value` to SEC_00.HART_HOLD. -/
def execHartHoldWrite (req : Requester) (value : Nat) (s : State) : Host.Outcome State Fault Refusal :=
  .next (s.checkedWrite req Reg.SEC_HART_HOLD 4 fun s => s.writeHold value)

/-! ## Debug sessions (R211 to R215) -/

def dbgPage : Nat := pageAddr Blk.DBG 0
def State.sessionLevel (s : State) : Nat := s.getF Reg.DBG_SESSION 1 0
def State.sessionFlag (s : State) (k : Nat) : Bool := decide (s.sessionLevel ≠ 0) && s.bit Reg.DBG_SESSION (4 + k)

/-- SESSION bits 31:16: seconds remaining, saturating (R236). -/
def State.sessionSync (s : State) : State :=
  if s.sessionLevel = 0 then s
  else s.putF Reg.DBG_SESSION 31 16 (min 0xFFFF (s.dbg.life - (s.clk.base - s.dbg.opened) / 400000000))

/-- A halted hart runs on from its saved pc; what its registers hold from then on is its program's. -/
def Hart.resumed (H : Hart) : Hart := if H.halted then { H with halted := false, regs := [], zeroed := false } else H

/-- R214: a session ends and is scrubbed: the nonce, the debug module's registers, triggers, pending system-bus accesses and the
pin-driving scan are dropped, halted harts resume, windows only it opened close (R681). -/
def State.endSession (s : State) : State :=
  if s.sessionLevel = 0 then s
  else
    let s := ((s.wr Reg.DBG_SESSION 0).wr Reg.DBG_SBA_WORLD 0).evt dbgPage 1
    let s := { s with dbg := { s.dbg with nonce := none, opened := 0, life := 0, pairHalted := [false, false], scan := 0, dm := [] }
                      harts := s.harts.map fun (H : Hart) => { H.resumed with haltReq := false, triggers := [] }
                      held := s.held.filter fun h => match h with
                        | .access a _ _ _ => a.req != Requester.debug
                        | .ticket _ a _ _ _ => a.req != Requester.debug }
    s.faultSync.permitSync

/-- R231: an authentication failure. -/
def State.authFailed (s : State) : State :=
  let s := (s.incSat Reg.DBG_AUTH_FAIL 3 0).evt dbgPage 2
  let s := { s with dbg := { s.dbg with lastFail := some s.clk.base } }
  if 8 ≤ s.getF Reg.DBG_AUTH_FAIL 3 0 then s.putBit Reg.DBG_AUTH_FAIL 8 true else s

/-- R211, R231: no token is examined: authentication locked out, debug disabled, or within 1 s of a failure. -/
def State.tokenRefused (s : State) : Bool :=
  s.bit Reg.DBG_AUTH_FAIL 8 || s.dbg.denied
    || (match s.dbg.lastFail with
        | some t => decide (s.clk.base < t + 400000000)
        | none => false)

/-- R211: SEC checks a token; on success the session opens at its LEVEL with its FLAGS. -/
def State.checkToken (s : State) (h : List Byte) : State :=
  let level := hdrNat h 6 1
  let flags := hdrNat h 7 1
  if tokenOk h && s.tokenSigned h && tokenUid h && decide (s.dbg.nonce = some (hdrBytes h 0x10 32)) && s.grants level flags then
    let s := s.wr Reg.DBG_SESSION (level + flags % 16 * 16)
    let s := { s with dbg := { s.dbg with opened := s.clk.base, life := hdrNat h 0x30 4, nonce := none } }
    (s.sessionSync.evt dbgPage 0).permitSync
  else s.authFailed

/-! ## The TAP (R216) -/

/-- R133, R216: every instruction of the chapter *debug* acts: from Stage A entry, outside P4, with the debug logic
powered. -/
def State.tapOpen (s : State) : Bool := s.aEntry && !s.boot.parked && s.boot.aon

/-- R217: the recovery instructions act: the boot ROM waits for an image. -/
def State.recovering (s : State) : Bool := s.boot.romWaits && s.boot.aon

/-- Instructions other than EXTEST, HIGHZ and CLAMP leave no pin-driving scan. -/
def State.setScan (s : State) (k : Nat) : State := { s with dbg := { s.dbg with scan := k } }

/-- BYPASS: the shifted bits come back one bit later, after a 0 (IEEE 1149.1). -/
def State.tapBypass (s : State) (data : List Byte) : State :=
  (s.setScan 0).emit (.tap (leBytes data.length (leNat data * 2 % 256 ^ data.length)))

/-- R213: pin-driving scan is granted. -/
def State.scanGranted (s : State) : Bool :=
  s.tapOpen && (decide (s.sessionLevel = 3) || (decide (s.sessionLevel = 2) && decide (s.lifecycle ≠ 2)))

/-- R216: the instruction of code `c` acts; every code without an instruction, and every one that is not available, acts as BYPASS. -/
def State.tapActs (s : State) (c : Nat) : Bool :=
  match c with
  | 0x00 => s.scanGranted
  | 0x01 => true
  | 0x02 => true
  | 0x04 => s.scanGranted
  | 0x05 => s.scanGranted
  | 0x10 => s.tapOpen && decide (s.sessionLevel ≠ 0)
  | 0x11 => s.tapOpen && decide (s.sessionLevel ≠ 0)
  | 0x20 => s.tapOpen
  | 0x21 => s.tapOpen
  | 0x22 => s.tapOpen
  | 0x23 => s.recovering
  | 0x24 => s.recovering
  | _ => false

/-- The TAP with code `c` in its 8-bit instruction register, where its logic has power: `f` is what the instruction does where it acts,
with `data` the bits shifted where it acts as BYPASS (R133, R216). -/
def State.tapRun (s : State) (c : Nat) (data : List Byte) (f : State → State) : State :=
  if !s.boot.aon then s
  else
    let s := { s with dbg := { s.dbg with ir := c % 256 } }
    if s.tapActs c then f (s.setScan 0) else s.tapBypass data

/-- EXTEST: `data` is shifted into the boundary register, `sample` are the balls it captured. On the channels that the protection gate or
the pad-level hold keeps silent those prevail over EXTEST, HIGHZ and CLAMP (R216, R697). -/
def execExtest (data sample : List Byte) (s : State) : Host.Outcome State Fault Refusal :=
  .next (s.tapRun 0x00 data fun s => ({ s with dbg := { s.dbg with boundary := data, scan := 1 } }).emit (.tap sample))

/-- IDCODE: the device identification of stepping B0 or A0 (DEV_ID bits 7:0, R3). -/
def execIdcode (s : State) : Host.Outcome State Fault Refusal :=
  .next (s.tapRun 0x01 [] fun s => s.emit (.tap (leBytes 4 (if Config.devId / 256 % 16 = 1 then 0x14200B47 else 0x04200B47))))

/-- SAMPLE_PRELOAD: the balls `sample` are read out and `data` loads the boundary register; no ball is driven. -/
def execSamplePreload (data sample : List Byte) (s : State) : Host.Outcome State Fault Refusal :=
  .next (s.tapRun 0x02 data fun s => ({ s with dbg := { s.dbg with boundary := data } }).emit (.tap sample))

/-- HIGHZ. -/
def execHighz (data : List Byte) (s : State) : Host.Outcome State Fault Refusal :=
  .next (s.tapRun 0x04 data fun s => s.setScan 2)

/-- CLAMP. -/
def execClamp (data : List Byte) (s : State) : Host.Outcome State Fault Refusal :=
  .next (s.tapRun 0x05 data fun s => s.setScan 3)

/-- BYPASS: 0xFF, or any code `code` that no other instruction has (R216). -/
def execBypass (code : Nat) (data : List Byte) (s : State) : Host.Outcome State Fault Refusal :=
  .next (if List.contains [0x00, 0x01, 0x02, 0x04, 0x05, 0x10, 0x11, 0x20, 0x21, 0x22, 0x23, 0x24] (code % 256) then s
    else s.tapRun (code % 256) data fun s => s)

/-- DTMCS: the debug transport control register of RISC-V External Debug Support 1.0, whose value the spec does not
state. -/
def execDtmcs (data : List Byte) (s : State) : Host.Outcome State Fault Refusal :=
  .next (s.tapRun 0x10 data fun s => (s.fresh 32).2.emit (.tap (leBytes 4 (s.fresh 32).1)))

/-- AUTH_NONCE: each read draws a new nonce; under TRNG_FAULT it returns zeros (R211, R228). -/
def execAuthNonce (data : List Byte) (s : State) : Host.Outcome State Fault Refusal :=
  .next (s.tapRun 0x20 data fun s =>
    if s.bit Reg.SEC_TRNG_STAT 0 then ({ s with dbg := { s.dbg with nonce := none } }).emit (.tap (List.replicate 32 0))
    else
      let n := leBytes 32 (s.fresh 256).1
      ({ (s.fresh 256).2 with dbg := { s.dbg with nonce := some n } }).emit (.tap n))

/-- AUTH_TOKEN: a token is shifted in at base tick `t`. In device state P3, or while P4 entry is in progress, it is discarded without
counting (R225). -/
def execAuthToken (token : List Byte) (t : Nat) (s : State) : Host.Outcome State Fault Refusal :=
  let s := s.tickTo t
  .next (s.tapRun 0x21 token fun s =>
    if s.tokenRefused || s.park.stage ≠ 0 || decide (s.getF Reg.PMU_DEV_STAT 2 0 = 3) || decide (s.sessionLevel ≠ 0) then s
    else s.checkToken token)

/-- AUTH_STAT: reads SESSION; `fin` writes END, which ends the session. -/
def execAuthStat (data : List Byte) (fin : Bool) (s : State) : Host.Outcome State Fault Refusal :=
  .next (s.tapRun 0x22 data fun s =>
    let s := s.sessionSync
    (s.emit (.tap (leBytes 4 (s.rd Reg.DBG_SESSION)))).when fin State.endSession)

/-- SESSION_EXPIRED: LIFETIME seconds have passed at base tick `t` (R211). -/
def execSessionExpired (t : Nat) (s : State) : Host.Outcome State Fault Refusal :=
  let s := s.tickTo t
  .next (if s.sessionLevel ≠ 0 ∧ s.dbg.opened + 400000000 * s.dbg.life ≤ s.clk.base then s.endSession else s)

/-! ## What a session reaches (R213) -/

/-- Harts of a world. -/
def State.reachesHart (s : State) (h : Nat) : Bool :=
  s.tapOpen && decide (h < 12) && (decide (2 ≤ s.sessionLevel) || (decide (s.sessionLevel = 1) && !s.bit Reg.SEC_HART_WORLD h))

/-- The safety island: halt and inspect. -/
def State.reachesIsland (s : State) : Bool :=
  s.tapOpen && (decide (s.sessionLevel = 3) || (decide (s.sessionLevel = 2) && decide (s.lifecycle ≠ 2) && s.sessionFlag 1))

/-- Application hart `h` halts: one that runs stops where its program is, with its program's registers. -/
def State.haltHart (s : State) (h : Nat) : State :=
  if (s.harts.getD h {}).halted then s
  else if s.bit Reg.SEC_HART_HOLD h then { s with harts := updAt s.harts h fun H => { H with halted := true } }
  else
    let f := s.fresh 64
    { f.2 with harts := updAt f.2.harts h fun (H : Hart) => { H with halted := true, pc := f.1, regs := [], zeroed := false } }

/-- The register of number `r` of a halted hart: known, cleared, or what its program left in it; dpc, 0x7B1, is the saved pc. -/
def State.hartReg (s : State) (h r : Nat) : Nat × State :=
  let H := s.harts.getD h {}
  if r = 0x7B1 then (H.pc, s)
  else match H.regs.lookup r with
    | some v => (v, s)
    | none => if H.zeroed then (0, s) else
      ((s.fresh 64).1, { (s.fresh 64).2 with harts := updAt s.harts h fun (H : Hart) => { H with regs := (r, (s.fresh 64).1) :: H.regs } })

/-- Register `r` of a halted hart takes `v`. -/
def State.setHartReg (s : State) (h r v : Nat) : State :=
  { s with harts := updAt s.harts h fun (H : Hart) =>
      if r = 0x7B1 then { H with pc := v % 2 ^ 64 } else { H with regs := (r, v % 2 ^ 64) :: H.regs.filter fun e => e.1 != r } }

/-- R213: an abstract command on register `r` of hart `h`: it acts on a hart in reach that is halted. -/
def State.abstractReg (s : State) (h r : Nat) (write : Bool) (v : Nat) : State :=
  if !(s.reachesHart h && (s.harts.getD h {}).halted) then s
  else if write then s.setHartReg h r v
  else (s.hartReg h r).2.emit (.tap (leBytes 8 (s.hartReg h r).1))

/-- R213, R214: breakpoint or trigger `k` of a halted hart in reach. -/
def State.abstractTrigger (s : State) (h k : Nat) (write : Bool) (v : Nat) : State :=
  let H := s.harts.getD h {}
  if !(s.reachesHart h && H.halted) then s
  else if write then { s with harts := updAt s.harts h fun (H : Hart) => { H with triggers := (k, v % 2 ^ 64) :: H.triggers.filter fun e => e.1 != k } }
  else s.emit (.tap (leBytes 8 ((H.triggers.lookup k).getD 0)))

/-- R214: a register of the debug module whose function the spec does not give: it holds what was written, and until then reads a free
value. -/
def State.dmReg (s : State) (a : Nat) (write : Bool) (v : Nat) : State :=
  if write then { s with dbg := { s.dbg with dm := (a, v % 2 ^ 32) :: s.dbg.dm.filter fun e => e.1 != a } }
  else match s.dbg.dm.lookup a with
    | some v => s.emit (.tap (leBytes 4 v))
    | none => (s.fresh 32).2.emit (.tap (leBytes 4 (s.fresh 32).1))

/-- R213: register inspection of a halted pair of the safety island, whose registers no rule describes. -/
def State.inspectPair (s : State) (p : Nat) : State :=
  if s.reachesIsland && s.dbg.pairHalted.getD p false then (s.fresh 64).2.emit (.tap (leBytes 8 (s.fresh 64).1)) else s

/-- Halt or resume a lockstep pair of the safety island. -/
def State.haltPair (s : State) (p : Nat) (b : Bool) : State :=
  if s.reachesIsland && decide (p < 2) then
    ({ s with dbg := { s.dbg with pairHalted := s.dbg.pairHalted.set p b } }).faultSync
  else s

/-- The world of system-bus accesses: 0 at SAP. -/
def State.setSbaWorld (s : State) (heart : Bool) : State :=
  if s.tapOpen && decide (s.sessionLevel ≠ 0) then s.putBit Reg.DBG_SBA_WORLD 0 (heart && decide (s.sessionLevel ≠ 1)) else s

/-! ## Lockstep, escalation and entropy (R218, R228) -/

/-- LOCKSTEP_MISMATCH: a mismatch in safety-island pair `p`. -/
def execLockstepMismatch (p : Nat) (s : State) : Host.Outcome State Fault Refusal :=
  .next (if p < 2 ∧ s.boot.romStarted then
    let s := (s.putBit Reg.SAFE_FAULT_OUT (8 + p) true).emit (.island Isl.LOCKSTEP (1 - p))
    let s := { s with dbg := { s.dbg with pairHalted := s.dbg.pairHalted.set p false } }
    if s.bit Reg.SAFE_FAULT_OUT 8 && s.bit Reg.SAFE_FAULT_OUT 9 then s.resetNow Rst.SAFETY else s.faultSync
  else s)

/-- ESCALATE: a write of `value` to SAFE_00.ESCALATE. -/
def execEscalate (req : Requester) (value : Nat) (s : State) : Host.Outcome State Fault Refusal :=
  .next (s.checkedWrite req Reg.SAFE_ESCALATE 4 fun s =>
    if value = 0x5346 then s.resetNow Rst.SAFETY else s.quiet req Reg.SAFE_ESCALATE Cause.RESERVED_ENC)

/-- TRNG_HEALTH_FAIL: an entropy health test fails. -/
def execTrngHealthFail (s : State) : Host.Outcome State Fault Refusal :=
  .next (if s.boot.romStarted then
    ((((s.putBit Reg.SEC_TRNG_STAT 0 true).incSat Reg.SEC_TRNG_STAT 15 8).lvl (pageAddr Blk.SEC 0) 2 true)).emit (.island Isl.TRNG 0)
  else s)

end Sys2Proof.Machine
end

