-- ==== Sys2Proof/Machine/SecOps.lean ====
section
/-! DEFINITION. The security engine's command ring and its opcodes (R207 to R210, R227 to R230). -/

namespace Sys2Proof.Machine

/-- A command of the ring (R207). -/
structure SecCmd where
  op : Nat
  flags : Nat
  kin : Nat
  kout : Nat
  len : Nat
  src : Nat
  dst : Nat
  aux : Nat
  auxLen : Nat
  deriving DecidableEq, Repr

/-- The fields of the 32 bytes of a command. -/
def secDecode (b : List Byte) : SecCmd :=
  { op := hdrNat b 0 1, flags := hdrNat b 1 1, kin := hdrNat b 2 1, kout := hdrNat b 3 1, len := hdrNat b 4 4, src := hdrNat b 8 6
    dst := hdrNat b 14 6, aux := hdrNat b 20 6, auxLen := hdrNat b 26 2 }

namespace SecRes
abbrev OK : Nat := 1
abbrev VERIFY_FAIL : Nat := 2
abbrev TAG_FAIL : Nat := 3
abbrev KEY_DENIED : Nat := 4
abbrev ACCESS : Nat := 5
abbrev LENGTH : Nat := 6
abbrev FUSE_FAIL : Nat := 7
abbrev NOT_PERMITTED : Nat := 8
abbrev TRNG_FAULT : Nat := 9
abbrev BAD_OPCODE : Nat := 10
end SecRes

/-- What a command ends in: none while a target holds one of its accesses, else its RESULT and the state. -/
abbrev SecEnd := Option (Nat × State)

/-- What the accesses of SEC to SRC and AUX meet, with the bytes they return where they lie outside the device, and whether a fuse operation
was confirmed (R229). -/
structure SecIn where
  src : MemEnv
  aux : MemEnv
  fuseOk : Bool
  deriving DecidableEq, Repr

/-- Read a range and go on with its bytes (R230). -/
def State.secRead (s : State) (addr len : Nat) (env : MemEnv) (k : List Byte → State → SecEnd) : SecEnd :=
  let r := s.blockRead Blk.SEC 0 addr len env
  match r.1 with
  | .done => k r.2.1 r.2.2
  | .held => none
  | _ => some (SecRes.ACCESS, r.2.2)

/-- Write a range and end with `res`. -/
def State.secWrite (s : State) (addr : Nat) (data : List Byte) (res : Nat) : SecEnd :=
  let r := s.blockWrite Blk.SEC 0 addr data {}
  match r.1 with
  | .done => some (res, r.2)
  | .held => none
  | _ => some (SecRes.ACCESS, r.2)

/-- R209, R233: a valid key slot may serve as KIN of an opcode. -/
def State.keyServes (s : State) (slot op : Nat) : Bool :=
  decide (slot < 16) && s.bit (Reg.SEC_KSLOT slot) 0 &&
    (match slot with
    | 0 => false
    | 1 => [0x01, 0x02, 0x30].contains op
    | 2 => [0x21, 0x33].contains op
    | 3 => [0x23, 0x33].contains op
    | _ => s.bit (Reg.SEC_KSLOT slot) (8 + op / 16 % 8))

def State.key (s : State) (slot : Nat) : List Byte := s.keys.getD slot []

/-- R209: what the boot ROM derives before Stage A entry: the lifecycle key and slots 00 to 03. -/
def lifecycleKey (lc : Nat) : List Byte := Config.kdf Config.rootKey [76, 67, BitVec.ofNat 8 lc]
def State.deriveFixed (s : State) : State :=
  s.each [0, 1, 2, 3] fun s k =>
    let s := { s with keys := s.keys.set k (Config.kdf (lifecycleKey s.lifecycle) (Config.slotContext k)) }
    s.wr (Reg.SEC_KSLOT k) (1 + Config.slotType k % 16 * 16
      + (if k = 1 then 2 ^ 0 + 2 ^ 3 else if k = 2 ∨ k = 3 then 2 ^ 2 + 2 ^ 3 else 0) * 256)

/-- A command that needs a key in KIN. -/
def State.withKey (s : State) (c : SecCmd) (f : List Byte → SecEnd) : SecEnd :=
  if s.keyServes c.kin c.op then f (s.key c.kin) else some (SecRes.KEY_DENIED, s)

/-- A command that needs random bits (R228). -/
def State.withRandom (s : State) (f : SecEnd) : SecEnd := if s.bit Reg.SEC_TRNG_STAT 0 then some (SecRes.TRNG_FAULT, s) else f

/-- Opcode 0x01: AUX holds the IV and the AAD; the tag follows the output. -/
def State.secEncrypt (s : State) (c : SecCmd) (x : SecIn) : SecEnd :=
  s.withKey c fun k =>
    if c.auxLen < 12 then some (SecRes.LENGTH, s)
    else s.secRead c.aux c.auxLen x.aux fun a s => s.secRead c.src c.len x.src fun p s =>
      s.secWrite c.dst (Config.gcmCipher k (a.take 12) (a.drop 12) p ++ Config.gcmTag k (a.take 12) (a.drop 12) p) SecRes.OK

/-- Opcode 0x02: the tag follows the input; on TAG_FAIL the output is zero. -/
def State.secDecrypt (s : State) (c : SecCmd) (x : SecIn) : SecEnd :=
  s.withKey c fun k =>
    if c.auxLen < 12 then some (SecRes.LENGTH, s)
    else s.secRead c.aux c.auxLen x.aux fun a s => s.secRead c.src (c.len + 16) x.src fun d s =>
      let p := Config.gcmPlain k (a.take 12) (a.drop 12) (d.take c.len)
      if Config.gcmTag k (a.take 12) (a.drop 12) p = d.drop c.len then s.secWrite c.dst p SecRes.OK
      else s.secWrite c.dst (List.replicate c.len 0) SecRes.TAG_FAIL

/-- Opcodes 0x10 to 0x12. -/
def State.secSha (s : State) (c : SecCmd) (x : SecIn) (bits : Nat) : SecEnd :=
  s.secRead c.src c.len x.src fun d s => s.secWrite c.dst (Config.sha2 bits d) SecRes.OK

/-- Opcode 0x13. -/
def State.secHmac (s : State) (c : SecCmd) (x : SecIn) : SecEnd :=
  s.withKey c fun k => s.secRead c.src c.len x.src fun d s => s.secWrite c.dst (Config.hmac384 k d) SecRes.OK

/-- Opcodes 0x20 and 0x22: AUX holds the public key, then the signature. -/
def State.secVerify (s : State) (c : SecCmd) (x : SecIn) (n keyLen sigLen : Nat) (ok : List Byte → List Byte → List Byte → Bool) : SecEnd :=
  if c.auxLen ≠ keyLen + sigLen then some (SecRes.LENGTH, s)
  else s.secRead c.src n x.src fun d s => s.secRead c.aux c.auxLen x.aux fun a s =>
    some (if ok (a.take keyLen) d (a.drop keyLen) then SecRes.OK else SecRes.VERIFY_FAIL, s)

/-- Opcodes 0x21 and 0x23. -/
def State.secSign (s : State) (c : SecCmd) (x : SecIn) (n : Nat) (sign : List Byte → List Byte → List Byte) : SecEnd :=
  s.withKey c fun k => s.withRandom (s.secRead c.src n x.src fun d s => s.secWrite c.dst (sign k d) SecRes.OK)

/-- Opcode 0x24: an image or token against fuse key slot KIN. R124: a verification of STAGE 0x02 or 0x03 that passes is
recorded in BOOT_STAT. -/
def State.secDual (s : State) (c : SecCmd) (x : SecIn) : SecEnd :=
  if 4 ≤ c.kin then some (SecRes.KEY_DENIED, s)
  else if c.len < headerLen then some (SecRes.LENGTH, s)
  else s.secRead c.src c.len x.src fun d s =>
    let h := d.take headerLen
    let stage := hdrNat h 6 1
    if hdrNat h 0 4 = 0x4B544244 then
      some (if tokenOk h && s.slotMatches h c.kin && ecdsaOk h && mldsaOk h then SecRes.OK else SecRes.VERIFY_FAIL, s)
    else if s.imageCode h ((d.drop headerLen).take (hdrNat h 0xC 4)) stage c.kin = 1 ∧ 1 ≤ stage ∧ stage ≤ 3 then
      some (SecRes.OK, if stage = 1 then s else s.putF Reg.RST_BOOT_STAT (8 * (stage - 1) + 2) (8 * (stage - 1)) 1)
    else some (SecRes.VERIFY_FAIL, s)

/-- Opcode 0x30: LEN gives the key type; the context is at AUX. -/
def State.secDerive (s : State) (c : SecCmd) (x : SecIn) : SecEnd :=
  if c.kout < 4 ∨ 16 ≤ c.kout then some (SecRes.KEY_DENIED, s)
  else s.withKey c fun k =>
    let go : SecEnd := s.secRead c.aux c.auxLen x.aux fun a s =>
      some (SecRes.OK, { s with keys := s.keys.set c.kout (Config.kdf k (leBytes 4 c.len ++ a)) }.wr (Reg.SEC_KSLOT c.kout)
        (1 + c.len % 16 * 16 + Config.keyUsage c.len % 256 * 256))
    if Config.keyAsym c.len then s.withRandom go else go

/-- Opcode 0x32. -/
def State.secClearKey (s : State) (c : SecCmd) : SecEnd :=
  if c.kout < 4 ∨ 16 ≤ c.kout then some (SecRes.KEY_DENIED, s)
  else if !s.bit (Reg.SEC_KSLOT c.kout) 0 then some (SecRes.KEY_DENIED, s)
  else some (SecRes.OK, ({ s with keys := s.keys.set c.kout [] }).wr (Reg.SEC_KSLOT c.kout) 0)

/-- Opcode 0x33. -/
def State.secExport (s : State) (c : SecCmd) : SecEnd :=
  s.withKey c fun k => s.secWrite c.dst (Config.publicKey (s.getF (Reg.SEC_KSLOT c.kin) 7 4) k) SecRes.OK

/-- Opcode 0x40: the bytes are free values. -/
def State.secRandom (s : State) (c : SecCmd) : SecEnd :=
  s.withRandom (let r := s.fresh (8 * c.len); r.2.secWrite c.dst (leBytes c.len r.1) SecRes.OK)

/-- R229: a fuse operation that is confirmed, or FUSE_FAIL with its event. -/
def State.fuseOp (s : State) (x : SecIn) (f : Fuses → Fuses) : SecEnd :=
  if x.fuseOk then
    some (SecRes.OK, ({ s with fuse := f s.fuse }.fuseRegs).wr Reg.SEC_LIFECYCLE (s.rd Reg.SEC_LIFECYCLE))
  else some (SecRes.FUSE_FAIL, s.evt (pageAddr Blk.SEC 0) 3)

/-- Opcode 0x50: LEN holds the slot. -/
def State.secRevoke (s : State) (c : SecCmd) (x : SecIn) : SecEnd :=
  if 4 ≤ c.len then some (SecRes.NOT_PERMITTED, s)
  else s.fuseOp x fun f => { f with revoked := f.revoked ||| 2 ^ c.len }

/-- Opcode 0x51: LEN holds the stage and the value; a value never falls. -/
def State.secRollback (s : State) (c : SecCmd) (x : SecIn) : SecEnd :=
  let st := c.len % 256
  let v := c.len / 256 % 256
  if 3 ≤ st ∨ 64 < v then some (SecRes.NOT_PERMITTED, s)
  else s.fuseOp x fun f => { f with arb := updAt f.arb st (max v) }

/-- R210: the new state takes effect at the next reset; LIFECYCLE.PENDING shows it until then. -/
def State.advanceTo (s : State) (x : SecIn) (target : Nat) : SecEnd :=
  (s.fuseOp x fun f => { f with lifecycle := target }).map fun r =>
    if r.1 = SecRes.OK then (r.1, (r.2.putF Reg.SEC_LIFECYCLE 9 8 target).putBit Reg.SEC_LIFECYCLE 12 true) else r

/-- Opcode 0x52: LEN holds the target state, AUX a token of LEVEL 4 for RETURN. The transition leaves the state in effect, and the fuses move
forward only, past a pending state too (R210). -/
def State.secAdvance (s : State) (c : SecCmd) (x : SecIn) : SecEnd :=
  let cur := s.lifecycle
  if c.len ≤ s.fuse.lifecycle then some (SecRes.NOT_PERMITTED, s)
  else if cur = 0 ∧ c.len = 1 then
    if s.fuse.programmed ≠ 0 ∧ s.fuse.debugKey then s.advanceTo x 1 else some (SecRes.NOT_PERMITTED, s)
  else if cur = 1 ∧ c.len = 2 then s.advanceTo x 2
  else if (cur = 1 ∨ cur = 2) ∧ c.len = 3 then
    s.secRead c.aux headerLen x.aux fun h s =>
      if tokenOk h && decide (hdrNat h 6 1 = 4) && s.tokenSigned h && tokenUid h then s.advanceTo x 3 else some (SecRes.NOT_PERMITTED, s)
  else some (SecRes.NOT_PERMITTED, s)

/-! ## The ring (R207) -/

/-- Entries of the ring. -/
def State.secSize (s : State) : Nat := max 1 (s.rd Reg.SEC_CMDQ_SIZE)
/-- Address of the entry SEC executes next. -/
def State.secEntry (s : State) : Nat :=
  s.rd Reg.SEC_CMDQ_BASE_LO + 2 ^ 32 * s.getF Reg.SEC_CMDQ_BASE_HI 15 0 + 32 * (s.rd Reg.SEC_CMDQ_HEAD % s.secSize)

/-- R207: RESULT is written into the command, HEAD advances, and the interrupts are raised. -/
def State.secFinish (s : State) (entry flags res : Nat) : Option State :=
  let r := s.blockWrite Blk.SEC 0 (entry + 28) [BitVec.ofNat 8 res] {}
  if r.1 = .held then none
  else
    let s := r.2.wr Reg.SEC_CMDQ_HEAD ((s.rd Reg.SEC_CMDQ_HEAD + 1) % s.secSize)
    let s := if flags.testBit 0 then s.evt (pageAddr Blk.SEC 0) 0 else s
    some (if res = SecRes.OK then s else s.evt (pageAddr Blk.SEC 0) 1)

/-- The command SEC executes next (R207): its address, the command, and the state in which its effect starts; none while the ring
is empty, cannot be read or its memory does not take the read. -/
def State.secNext (s : State) : Option (Nat × SecCmd × State) :=
  if !s.aEntry || decide (s.rd Reg.SEC_CMDQ_HEAD % s.secSize = s.rd Reg.SEC_CMDQ_TAIL % s.secSize) then none
  else
    let entry := s.secEntry
    let x := s.freeExt 32
    let r := (if targetOf entry = .dram then s else x.2).blockRead Blk.SEC 0 entry 32 { ext := x.1 }
    if r.1 = .done then some (entry, secDecode r.2.1, r.2.2) else none

/-- SEC executes the command at CMDQ_HEAD where its opcode is one of `ops`; `f` is its effect. -/
def State.secRun (s : State) (ops : Nat → Bool) (f : State → SecCmd → SecEnd) : State :=
  if !s.aEntry || decide (s.rd Reg.SEC_CMDQ_HEAD % s.secSize = s.rd Reg.SEC_CMDQ_TAIL % s.secSize) then s
  else
    let entry := s.secEntry
    let x := s.freeExt 32
    let r := (if targetOf entry = .dram then s else x.2).blockRead Blk.SEC 0 entry 32 { ext := x.1 }
    match r.1 with
    | .done =>
      let c := secDecode r.2.1
      if ops c.op then
        match f r.2.2 c with
        | some e => (e.2.secFinish entry c.flags e.1).getD s
        | none => s
      else s
    | .held => s
    | _ => (r.2.2.secFinish entry 0 SecRes.ACCESS).getD s

/-- R230, R356: the command at HEAD ends with ACCESS where an access of SEC has had no response. -/
def State.secTimeout (s : State) : State := if s.secNext.isSome then (s.secFinish s.secEntry 0 SecRes.ACCESS).getD s else s

/-- AES_GCM_ENCRYPT. In every SEC command `x` holds what reaches SEC from outside the device. -/
def execAesGcmEncrypt (src aux : MemEnv) (s : State) : Host.Outcome State Fault Refusal :=
  .next (s.secRun (· == 0x01) fun s c => s.secEncrypt c ⟨src, aux, true⟩)
/-- AES_GCM_DECRYPT. -/
def execAesGcmDecrypt (src aux : MemEnv) (s : State) : Host.Outcome State Fault Refusal :=
  .next (s.secRun (· == 0x02) fun s c => s.secDecrypt c ⟨src, aux, true⟩)
/-- SHA_256. -/
def execSha256 (src : MemEnv) (s : State) : Host.Outcome State Fault Refusal :=
  .next (s.secRun (· == 0x10) fun s c => s.secSha c ⟨src, {}, true⟩ 256)
/-- SHA_384. -/
def execSha384 (src : MemEnv) (s : State) : Host.Outcome State Fault Refusal :=
  .next (s.secRun (· == 0x11) fun s c => s.secSha c ⟨src, {}, true⟩ 384)
/-- SHA_512. -/
def execSha512 (src : MemEnv) (s : State) : Host.Outcome State Fault Refusal :=
  .next (s.secRun (· == 0x12) fun s c => s.secSha c ⟨src, {}, true⟩ 512)
/-- HMAC_SHA_384. -/
def execHmacSha384 (src : MemEnv) (s : State) : Host.Outcome State Fault Refusal :=
  .next (s.secRun (· == 0x13) fun s c => s.secHmac c ⟨src, {}, true⟩)
/-- ECDSA_VERIFY. -/
def execEcdsaVerify (src aux : MemEnv) (s : State) : Host.Outcome State Fault Refusal :=
  .next (s.secRun (· == 0x20) fun s c => s.secVerify c ⟨src, aux, true⟩ 48 96 96 Config.ecdsaVerify)
/-- ECDSA_SIGN. -/
def execEcdsaSign (src : MemEnv) (s : State) : Host.Outcome State Fault Refusal :=
  .next (s.secRun (· == 0x21) fun s c => s.secSign c ⟨src, {}, true⟩ 48 Config.ecdsaSign)
/-- ML_DSA_VERIFY. -/
def execMlDsaVerify (src aux : MemEnv) (s : State) : Host.Outcome State Fault Refusal :=
  .next (s.secRun (· == 0x22) fun s c => s.secVerify c ⟨src, aux, true⟩ c.len 1952 3309 Config.mldsaVerify)
/-- ML_DSA_SIGN. -/
def execMlDsaSign (src : MemEnv) (s : State) : Host.Outcome State Fault Refusal :=
  .next (s.secRun (· == 0x23) fun s c => s.secSign c ⟨src, {}, true⟩ c.len Config.mldsaSign)
/-- DUAL_VERIFY. -/
def execDualVerify (src : MemEnv) (s : State) : Host.Outcome State Fault Refusal :=
  .next (s.secRun (· == 0x24) fun s c => s.secDual c ⟨src, {}, true⟩)
/-- DERIVE. -/
def execDerive (aux : MemEnv) (s : State) : Host.Outcome State Fault Refusal :=
  .next (s.secRun (· == 0x30) fun s c => s.secDerive c ⟨{}, aux, true⟩)
/-- CLEAR_KEY_SLOT. -/
def execClearKeySlot (s : State) : Host.Outcome State Fault Refusal := .next (s.secRun (· == 0x32) fun s c => s.secClearKey c)
/-- EXPORT_PUBLIC_KEY. -/
def execExportPublicKey (s : State) : Host.Outcome State Fault Refusal := .next (s.secRun (· == 0x33) fun s c => s.secExport c)
/-- RANDOM_BYTES. -/
def execRandomBytes (s : State) : Host.Outcome State Fault Refusal := .next (s.secRun (· == 0x40) fun s c => s.secRandom c)
/-- REVOKE_FUSE_KEY_SLOT; `ok` where the fuse operation is confirmed. -/
def execRevokeFuseKeySlot (ok : Bool) (s : State) : Host.Outcome State Fault Refusal :=
  .next (s.secRun (· == 0x50) fun s c => s.secRevoke c ⟨{}, {}, ok⟩)
/-- RAISE_ANTI_ROLLBACK. -/
def execRaiseAntiRollback (ok : Bool) (s : State) : Host.Outcome State Fault Refusal :=
  .next (s.secRun (· == 0x51) fun s c => s.secRollback c ⟨{}, {}, ok⟩)
/-- ADVANCE_LIFECYCLE. -/
def execAdvanceLifecycle (aux : MemEnv) (ok : Bool) (s : State) : Host.Outcome State Fault Refusal :=
  .next (s.secRun (· == 0x52) fun s c => s.secAdvance c ⟨{}, aux, ok⟩)
/-- SEC_BAD_OPCODE: a command whose opcode is not in the table of R208. -/
def execSecBadOpcode (s : State) : Host.Outcome State Fault Refusal :=
  .next (s.secRun (fun o => !List.contains [0x01, 0x02, 0x10, 0x11, 0x12, 0x13, 0x20, 0x21, 0x22, 0x23, 0x24, 0x30, 0x32, 0x33, 0x40, 0x50, 0x51, 0x52] o)
    fun s _ => some (SecRes.BAD_OPCODE, s))

end Sys2Proof.Machine
end

