-- ==== Sys2Proof/Machine/Restore.lean ====
section
/-! DEFINITION. Retained state: records and restore sources (R15, R122, R125 to R128, R146), and the stow (R130, R131, R140 to R142,
R147). -/

namespace Sys2Proof.Machine

/-! ## Retained fields (R15, R72) -/

/-- Mask of the retained bits of a register; of the header, WORLD only. -/
def retMask (a : Nat) : Nat :=
  let c := regCode a
  let i := regInst a
  if a < regBase ∨ regEnd ≤ a ∨ instCount c ≤ i then 0
  else if regOff a = Hdr.WORLD then (if ownerFixed c then 0 else 3)
  else match findRow (pageRows c i) (regOff a) with
    | some (r, _) => r.ret
    | none => 0

/-- R13, R128, R705: the bits of a register that a record with value `v` sets: retained fields whose encoding is not reserved (log
entry 14). -/
def recordMask (a v : Nat) : Nat :=
  retMask a &&& (0xFFFFFFFF ^^^ reservedBits (limitCode (regCode a) (regInst a)) (regOff a) v)

/-- R128: the records of the registers `p` selects are applied; every other field keeps its Reset value. -/
def State.applyRecords (s : State) (p : Nat → Bool) : State :=
  s.each (s.boot.records.filter fun r => p r.1) fun s r =>
    let m := recordMask r.1 r.2
    s.wr r.1 ((s.rd r.1 &&& (0xFFFFFFFF ^^^ m)) ||| (r.2 &&& m))

/-- R113, R128: the records of the blocks released at point `k`. WORLD of every page that does not answer before is restored at Stage A entry
(point 1), when the headers become reachable (R71; log entry 12). -/
def State.applyPoint (s : State) (k : Nat) : State :=
  s.applyRecords fun a =>
    if regOff a = Hdr.WORLD ∧ 1 ≤ releasePoint (regCode a) then decide (k = 1) else decide (releasePoint (regCode a) = k)

/-! ## Images (R125, R126) -/

def imageLen : Nat := 0x10000
/-- R139: the most records and route entries an image holds. -/
def maxRecords : Nat := 2016
def maxRoutes : Nat := 1024

/-- The words of the register records of an image: offset word and value. -/
def imageRecords (img : List Byte) : List (Nat × Nat) :=
  (List.range (min (hdrNat img 0x14 2) maxRecords)).map fun k => (hdrNat img (0x100 + 8 * k) 4, hdrNat img (0x104 + 8 * k) 4)

/-- Strictly ascending. -/
def ascending : List Nat → Bool
  | a :: b :: t => decide (a < b) && ascending (b :: t)
  | _ => true

/-- R125, R209: the MAC of an image under the retention key. -/
def State.imageMac (s : State) (img : List Byte) : List Byte := (Config.hmac384 (s.key 0) (img.take 0x20 ++ img.drop 0x40)).take 32

namespace RestoreC
abbrev VALID : Nat := 1
abbrev MAGIC : Nat := 2
abbrev FORMAT : Nat := 3
abbrev DEV_ID : Nat := 4
abbrev CRC : Nat := 5
abbrev MAC : Nat := 6
abbrev READ_ERROR : Nat := 7
end RestoreC

/-- R126, R150: the cause of a candidate image, the tests in order. DEV_ID.PART and BIN are bits 31:12 (R3). -/
def State.imageCause (s : State) (img : List Byte) : Nat :=
  if hdrNat img 0 4 ≠ 0x45545352 then RestoreC.MAGIC
  else if hdrNat img 4 2 ≠ 1 then RestoreC.FORMAT
  else if hdrNat img 0xC 4 / 2 ^ 12 ≠ s.rd Reg.SYS_DEV_ID / 2 ^ 12 then RestoreC.DEV_ID
  else if hdrNat img 0x10 4 ≠ crc32c (img.drop 0x40) then RestoreC.CRC
  else if hdrBytes img 0x20 32 ≠ s.imageMac img then RestoreC.MAC
  else if !ascending ((imageRecords img).map (·.1)) then RestoreC.FORMAT
  else RestoreC.VALID

/-- R127: generation `a` is lower than `b`, modulo 2^32. -/
def genLower (a b : Nat) : Bool :=
  let d := (b + 2 ^ 32 - a) % 2 ^ 32
  decide (0 < d) && decide (d < 2 ^ 31)

/-! ## The flash directory (R122) -/

/-- A directory at flash offset `a` is correct. -/
def State.directoryOk (s : State) (a : Nat) : Bool :=
  decide (s.ile (flashBase + a + 4) 4 = crc32c (s.ibytes (flashBase + a + 8) 0xFF8))

/-- R122: the directory in use: the primary, else the copy, else none. `err0` and `err1` are read errors. -/
def State.findDirectory (s : State) (err0 err1 : Bool) : Option Nat :=
  if !err0 && s.directoryOk 0 then some 0 else if !err1 && s.directoryOk 0x1000 then some 0x1000 else none

/-- Flash offset of entry `e`. -/
def State.dirEntry (s : State) (e : Nat) : Option Nat := s.boot.directory.map fun d => s.ile (flashBase + d + 8 + 8 * e) 4

/-- Bytes of the flash at entry `e`. -/
def State.flashAt (s : State) (e off n : Nat) : Option (List Byte) := (s.dirEntry e).map fun a => s.ibytes (flashBase + a + off) n

/-! ## The choice of the restore source (R127, R128, R146) -/

/-- The cause of flash slot `k` of RSTATE; `err` is a read error. -/
def State.slotCause (s : State) (k : Nat) (err : Bool) : Nat :=
  match s.flashAt (6 + k) 0 imageLen with
  | some img => if err then RestoreC.READ_ERROR else s.imageCause img
  | none => RestoreC.READ_ERROR

def State.slotGen (s : State) (k : Nat) : Nat :=
  match s.flashAt (6 + k) 8 4 with
  | some l => leNat l
  | none => 0

/-- R705: the registers that never hold 0. -/
def neverZero (a : Nat) : Bool :=
  ((List.range 4).map Reg.ANGLE_WSS_RATIO ++ [Reg.ANGLE_MPOS_RATIO 0, Reg.ANGLE_MPOS_RATIO 1, Reg.ANGLE_SPD_CIRC]).contains a

/-- R128, R705: image `img` becomes the restore source `src`: its records, with those that name no retained field, or would restore 0 to a
register that never holds it, counted in BADREC. -/
def State.useImage (s : State) (src : Nat) (img : List Byte) : State :=
  let all := (imageRecords img).map fun r => (regBase + r.1, r.2)
  let good := all.filter fun r => decide (retMask r.1 ≠ 0) && !(neverZero r.1 && decide (r.2 &&& retMask r.1 = 0))
  let routes := if hdrNat img 6 1 % 2 = 1 then (List.range (min (hdrNat img 0x16 2) maxRoutes)).map fun k => hdrBytes img (0x4000 + 16 * k) 16 else []
  let s := { s with boot := { s.boot with records := good, routes := routes
                                          rnc := if hdrNat img 6 1 / 2 % 2 = 1 then some (img.drop 0x8000) else none } }
  (((s.putF Reg.RSTATE_RESTORE_STAT 1 0 src).putF Reg.RSTATE_RESTORE_STAT 31 16 (min 0xFFFF (all.length - good.length))).wr
    Reg.RSTATE_RESTORE_GEN (hdrNat img 8 4))

/-- R127, R150: the restore source is chosen: RSTATE, else the valid flash slot of higher GENERATION, which is copied into RSTATE, else
fuse defaults. Of equal generations slot 00 is taken (DEDUCED). -/
def State.chooseRestore (s : State) (err0 err1 : Bool) : State :=
  let img := s.bytes rstateBase imageLen
  let c := s.imageCause img
  let s := s.putF Reg.RSTATE_RESTORE_STAT 6 4 c
  if c = RestoreC.VALID then s.useImage 0 img
  else
    let c0 := s.slotCause 0 err0
    let c1 := s.slotCause 1 err1
    let s := (s.putF Reg.RSTATE_RESTORE_STAT 10 8 c0).putF Reg.RSTATE_RESTORE_STAT 14 12 c1
    let k := if c1 = RestoreC.VALID ∧ (c0 ≠ RestoreC.VALID ∨ genLower (s.slotGen 0) (s.slotGen 1)) then 1 else 0
    if c0 ≠ RestoreC.VALID ∧ c1 ≠ RestoreC.VALID then s.putF Reg.RSTATE_RESTORE_STAT 1 0 3
    else
      let img := (s.flashAt (6 + k) 0 imageLen).getD []
      (s.setBytes rstateBase img).useImage (1 + k) img

/-! ## The stow (R130, R131) -/

def rstatePage : Nat := pageAddr Blk.RSTATE 0

/-- R130: a write of `v` to STOW_CTL; GO reads 0 again when BUSY sets. DEDUCED: a GO that R141 refuses has no effect of its own; FLASH and
RNC_SRC of the same word take their values (log entry 63). -/
def State.writeStowCtl (s : State) (req : Requester) (v : Nat) : State :=
  let s := s.regStore req Reg.RSTATE_STOW_CTL (v / 2 * 2)
  if !v.testBit 0 then s
  else if s.bit Reg.RSTATE_STOW_STAT 0 || s.bit Reg.RSTATE_STOW_STAT 2 then s.incSat Reg.RSTATE_STOW_STAT 15 8
  else
    let a := Reg.RSTATE_STOW_STAT
    let s := ((((s.putBit a 0 true).putBit a 1 false).putBit a 3 false).putF a 6 4 0)
    { s.zero rstateBase 4 with boot := { s.boot with stow := some { magic := s.le rstateBase 4, flash := s.bit Reg.RSTATE_STOW_CTL 1 } } }

/-- STOW: a write of `value` to STOW_CTL. -/
def execStow (req : Requester) (value : Nat) (s : State) : Host.Outcome State Fault Refusal :=
  .next (s.checkedWrite req Reg.RSTATE_STOW_CTL 4 fun s => s.writeStowCtl req value)

/-- R130 step 2: the records of a stow: registers in which a retained field differs from its Reset value, ascending by address. -/
def State.stowRecords (s : State) : List (Nat × Nat) :=
  (s.regs.filter fun e => ((e.2.toNat ^^^ resetVal e.1) &&& retMask e.1) ≠ 0).map fun e => (e.1 - regBase, e.2.toNat)

/-- Bytes padded with zeros to `n`. -/
def padTo (l : List Byte) (n : Nat) : List Byte := (l ++ List.replicate (n - l.length) 0).take n

/-- R125, R130: the image a stow writes, with GENERATION `gen`. -/
def State.stowImage (s : State) (gen : Nat) : List Byte :=
  let n := s.getF Reg.RSTATE_STOW_CTL 6 4
  let recs := s.stowRecords
  let routes := s.retainedRoutes
  let body := List.replicate 192 0 ++ padTo (recs.flatMap fun r => leBytes 4 r.1 ++ leBytes 4 r.2) 0x3F00 ++ padTo routes.flatten 0x4000
    ++ s.bytes (csetAct n) 0x8000
  let head := leBytes 4 0x45545352 ++ leBytes 2 1 ++ leBytes 2 (s.aEntry.toNat + 2 * (s.bit (Reg.ALE_CSET_STAT n) 2).toNat) ++ leBytes 4 gen
    ++ leBytes 4 (s.rd Reg.SYS_DEV_ID) ++ leBytes 4 (crc32c body) ++ leBytes 2 recs.length ++ leBytes 2 routes.length ++ leBytes 8 s.timeNs
  head ++ padTo (s.imageMac (head ++ List.replicate 32 0 ++ body)) 32 ++ body

/-- R131: the flash slot a copy writes: an invalid one, else the one of lower GENERATION. -/
def State.stowSlot (s : State) : Nat :=
  if s.slotCause 0 false ≠ RestoreC.VALID then 0
  else if s.slotCause 1 false ≠ RestoreC.VALID then 1
  else if genLower (s.slotGen 1) (s.slotGen 0) then 1 else 0

/-- The flash copy begins: its slot is erased, and holds no valid image until the copy ends (R140). -/
def State.startFlash (s : State) : State :=
  let k := s.stowSlot
  let s := (s.putBit Reg.RSTATE_STOW_STAT 2 true).putBit Reg.RSTATE_STOW_STAT 7 (k == 1)
  match s.dirEntry (6 + k) with
  | some a => s.izero (flashBase + a) imageLen
  | none => s

/-- STOW_BUILD_DONE: at base tick `t` the build of the stow in progress ends (R130 steps 2 to 5; log entry 12). -/
def execStowBuildDone (t : Nat) (s : State) : Host.Outcome State Fault Refusal :=
  let s := s.tickTo t
  let a := Reg.RSTATE_STOW_STAT
  .next (match s.boot.stow with
    | none => s
    | some w =>
      let s := { s.putBit a 0 false with boot := { s.boot with stow := none } }
      if maxRecords < s.stowRecords.length then
        ((s.setLe rstateBase 4 w.magic).putF a 6 4 1).evt rstatePage 2
      else
        let gen := ((if w.magic = 0x45545352 then s.le (rstateBase + 8) 4 else 0) + 1) % 2 ^ 32
        let n := s.stowRecords.length
        let s := s.setBytes rstateBase (s.stowImage gen)
        let s := (((s.putBit a 1 true).evt rstatePage 0).wr Reg.RSTATE_STOW_GEN gen).wr Reg.RSTATE_STOW_RECS n
        if w.flash then s.startFlash else s)

/-- FLASH_COPY_DONE: at base tick `t` the flash copy ends; `fail` is 0, or 2 ERASE, 3 PROGRAM or 4 VERIFY (R131, R147). Without a directory
there is no slot to write, and the copy fails. -/
def execFlashCopyDone (fail t : Nat) (s : State) : Host.Outcome State Fault Refusal :=
  let s := s.tickTo t
  let a := Reg.RSTATE_STOW_STAT
  .next (if !s.bit a 2 then s
  else
    let k := s.getF a 7 7
    let s := s.putBit a 2 false
    match s.dirEntry (6 + k) with
    | some off =>
      if fail = 2 ∨ fail = 3 ∨ fail = 4 then (s.putF a 6 4 fail).evt rstatePage 2
      else ((s.setIbytes (flashBase + off) (s.bytes rstateBase imageLen)).putBit a 3 true).evt rstatePage 1
    | none => (s.putF a 6 4 (if fail = 3 ∨ fail = 4 then fail else 2)).evt rstatePage 2)

end Sys2Proof.Machine
end

