-- ==== Sys2Proof/Machine/Therm.lean ====
section
/-! DEFINITION. Temperatures, headroom, throttling, the trip, the cooling interface (R169 to R173, R176 to R178, R185,
R189, R191, R192, R194) and the states of power domains (R151, R154). Temperatures are in units of 0.125 °C. -/

namespace Sys2Proof.Machine

/-! ## Power domains (R151, R154, R193) -/

/-- R151: the deepest state of a domain. -/
def deepest (d : Nat) : Nat := if d < 16 ∨ d = 24 then 3 else if d < 24 then 2 else if d = 25 then 1 else 0

/-- R154: the device state: the shallowest state among the grove, CPU, MEDIA and SCOPE domains, one at its own deepest (or not
released) counting as P3; P4 while parked. -/
def State.devState (s : State) : Nat :=
  if s.boot.parked then 4
  else ((List.range 19 ++ [23, 24]).map fun d =>
    let v := s.dom d
    if deepest d ≤ v then 3 else v).foldl min 3

/-- The state of a domain changes: entries to P1 or deeper are counted. -/
def State.setDomState (s : State) (d v : Nat) : State :=
  let old := s.dom d
  let s := if old = v then s else
    (if (old = 0 ∨ old = 6) ∧ 1 ≤ v then s.incSat (Reg.PMU_DOM_STAT d) 31 16 else s).putF (Reg.PMU_DOM_STAT d) 2 0 v
  s.putF Reg.PMU_DEV_STAT 2 0 s.devState

/-! ## Readings (R169, R170, R189) -/

def thermPage : Nat := pageAddr Blk.THERM 0

/-- R169: a measurement in m°C rounded to 0.125 °C, ties toward the higher temperature. -/
def tempCode (milli : Int) : Int := (2 * milli + 125) / 250

def State.tsValid (s : State) (k : Nat) : Bool := s.bit (Reg.THERM_TS k) 31
def State.tsFault (s : State) (k : Nat) : Bool := s.bit (Reg.THERM_TS k) 30
/-- The reading of sensor `k`. -/
def State.temp (s : State) (k : Nat) : Int := sgn 16 (s.getF (Reg.THERM_TS k) 15 0)

def State.tThr (s : State) : Int := s.getF Reg.THERM_THR_CFG 7 0 * 8
def State.tHyst (s : State) : Int := s.getF Reg.THERM_THR_CFG 15 8 * 8
def State.tCrit (s : State) : Int := s.getF Reg.THERM_THR_CFG 23 16 * 8

/-- R170: the hottest valid sensor, of equal readings the lowest index. -/
def State.hottest (s : State) : Option Nat :=
  (List.range 24).foldl (fun b k =>
    if !s.tsValid k then b else match b with
      | none => some k
      | some j => if s.temp j < s.temp k then some k else b) none

/-- R170, R189: H in 1/256. -/
def State.headCode (s : State) : Nat :=
  match s.hottest with
  | none => if (List.range 24).any s.tsFault then 0 else 256
  | some k =>
    let t := s.temp k
    let knee : Int := s.getF Reg.THERM_HEAD_CFG 7 0 * 8
    let zero : Int := s.getF Reg.THERM_HEAD_CFG 15 8 * 8
    let h : Nat := if t ≤ knee then 256 else if zero ≤ t then 0 else ((zero - t) * 256 / (zero - knee)).toNat
    if (List.range 24).any s.tsFault then min h 192 else h

/-! ## Steps (R171, R172, R189) -/

def State.thrStep (s : State) (u : Nat) : Nat := s.getF (Reg.THERM_STEP u) 4 0
def State.stepMin (s : State) : Nat := s.getF Reg.THERM_STEP_LIM 4 0
def State.stepFault (s : State) : Nat := s.getF Reg.THERM_STEP_LIM 12 8

/-- A unit is held at or below `v`: a reduction raises THROTTLE once and counts the steps lost. -/
def State.lowerStep (s : State) (u v : Nat) : State :=
  if v < s.thrStep u then
    { ((s.addSat (Reg.THERM_STEP u) 15 8 (s.thrStep u - v)).putF (Reg.THERM_STEP u) 4 0 v).evt thermPage 0 with
      therm := { s.therm with up := if s.therm.up.testBit u then s.therm.up ^^^ 2 ^ u else s.therm.up } }
  else s

/-! ## Cooling (R176 to R178, R191) -/

/-- Point `k` of the duty curve: temperature in 0.125 °C, pump and fan duty. -/
def State.dutyPt (s : State) (k : Nat) : Int × Nat × Nat :=
  (s.getF (Reg.THERM_DUTY_PT k) 7 0 * 8, s.getF (Reg.THERM_DUTY_PT k) 15 8, s.getF (Reg.THERM_DUTY_PT k) 23 16)

/-- Linear interpolation between two points, rounded down. -/
def lerp (t0 t1 : Int) (d0 d1 : Nat) (t : Int) : Nat :=
  if t1 ≤ t0 then d1 else ((d0 : Int) + ((d1 : Int) - d0) * (t - t0) / (t1 - t0)).toNat

/-- R177: a duty of the curve at temperature `t`. -/
def State.dutyAt (s : State) (fan : Bool) (t : Int) : Nat :=
  let pt := fun k => let p := s.dutyPt k; (p.1, if fan then p.2.2 else p.2.1)
  let a := pt 0
  let b := pt 1
  let c := pt 2
  let d := pt 3
  if t ≤ a.1 then a.2
  else if t ≤ b.1 then lerp a.1 b.1 a.2 b.2 t
  else if t ≤ c.1 then lerp b.1 c.1 b.2 c.2 t
  else if t ≤ d.1 then lerp c.1 d.1 c.2 d.2 t
  else d.2

/-- R177, R192: the duty driven: full before Stage A, low in P4 and from step 3 of its entry (R159). `free` stands for the curve at no valid reading. -/
def State.duty (s : State) (fan : Bool) (free : Nat) : Nat :=
  if s.boot.parked || decide (2 ≤ s.park.stage) then 0
  else if !s.aEntry then 255
  else
    let en := s.bit Reg.THERM_COOL_CFG (if fan then 2 else 1)
    let hot := s.bit Reg.THERM_TRIP_STAT 0 || s.bit Reg.THERM_TRIP_STAT 1
    if hot then (if en then 255 else 0)
    else if s.bit Reg.THERM_DUTY_OVR 0 then (if fan then s.getF Reg.THERM_DUTY_OVR 23 16 else s.getF Reg.THERM_DUTY_OVR 15 8)
    else if !en then 0
    else match s.hottest with
      | some k => s.dutyAt fan (s.temp k)
      | none => free

/-- R178: URGENCY. -/
def State.urgency (s : State) : Nat :=
  if s.bit Reg.THERM_TRIP_STAT 0 || s.bit Reg.THERM_TRIP_STAT 1 then 3
  else if ((List.range 19).any fun u => decide (s.thrStep u < 16)) || decide (s.getF Reg.THERM_COOL_STAT 18 16 ≠ 0) then 2
  else if s.getF Reg.THERM_HEADROOM 8 0 < 256 then 1
  else 0

/-- COOL_HOT, COOL_FAULT, duties and URGENCY follow the state (R176, R177, R178, R191); a change of URGENCY is raised and a
request is due at once. -/
def State.coolSync (s : State) : State :=
  let hot := s.bit Reg.THERM_COOL_IN 31
    && decide (((s.getF Reg.THERM_COOL_REQ 15 8 * 8 : Nat) : Int) ≤ sgn 16 (s.getF Reg.THERM_COOL_IN 15 0))
  let s := s.putBit Reg.THERM_COOL_STAT 18 hot
  let s := s.lvl thermPage 3 (decide (s.getF Reg.THERM_COOL_STAT 19 16 ≠ 0))
  let f := s.fresh 8
  let s := if s.hottest.isNone && s.aEntry then f.2 else s
  let p := s.duty false f.1
  let n := s.duty true f.1
  let s : State := { (s.putF Reg.THERM_COOL_STAT 7 0 p).putF Reg.THERM_COOL_STAT 15 8 n with therm := { s.therm with pump := p, fan := n } }
  let u := s.urgency
  if u = s.getF Reg.THERM_COOL_STAT 21 20 then s
  else { (s.putF Reg.THERM_COOL_STAT 21 20 u).evt thermPage 5 with therm := { s.therm with due := true } }

/-! ## CRIT, TRIP and what follows a change of readings or configuration -/

/-- R170, R172, R189: HEADROOM, HOTTEST, CRIT, the caps on steps and the cooling outputs. -/
def State.thermSync (s : State) : State :=
  let s := s.putF Reg.THERM_HEADROOM 8 0 s.headCode
  let s := match s.hottest with
    | some k => (s.putF Reg.THERM_HOTTEST 4 0 k).putF Reg.THERM_HOTTEST 31 16 (enc 16 (s.temp k))
    | none => if (List.range 24).any s.tsFault then (s.putF Reg.THERM_HOTTEST 4 0 0x1F).putF Reg.THERM_HOTTEST 31 16 0x8000 else s
  let s := s.lvl thermPage 4 ((List.range 24).any s.tsFault)
  if !s.aEntry then s
  else
    let crit := (List.range 24).any fun k => s.tsValid k && decide (s.tCrit ≤ s.temp k)
    let s := if crit && !s.bit Reg.THERM_TRIP_STAT 0 then s.emit (.island Isl.THERM 1) else s
    let s := (s.putBit Reg.THERM_TRIP_STAT 0 crit).lvl thermPage 1 crit
    let s := s.each (List.range 19) fun s u =>
      if crit || ((List.range 24).all s.tsFault) then s.lowerStep u s.stepMin
      else if s.tsFault u then s.lowerStep u s.stepFault else s
    s.coolSync

/-- R173: the trip at sensor `k`: groves and SCOPE go to P3, CPU and MEDIA to P2. -/
def State.tripAt (s : State) (k : Nat) : State :=
  if s.bit Reg.THERM_TRIP_STAT 1 then s
  else
    let s := (((s.putBit Reg.THERM_TRIP_STAT 1 true).putF Reg.THERM_TRIP_STAT 12 8 k).evt thermPage 2).emit (.island Isl.THERM 2)
    s.each (List.range 19 ++ [23, 24]) fun s d => if s.dom d = 6 then s else
      { s.setDomState d (deepest d) with domains := updAt s.domains d fun (D : Domain) => { D with exit := none } }

/-- R169, R171, R189: one measurement of sensor `k`; `sw` marks that its unit is switching state. -/
def State.sense (s : State) (k : Nat) (milli : Int) (sw : Bool) : State :=
  let code := tempCode milli
  let x := s.therm.sensors.getD k {}
  let still := if some code ≠ x.code || !sw then s.clk.base else x.still
  let fault := s.tsFault k || decide (milli < -55000) || decide (160000 < milli) || (sw && decide (still + 4000000000 ≤ s.clk.base))
  let v := max (-320) (min 1200 code)
  let cool := if !fault && decide (v < s.tThr - s.tHyst) then some (x.cool.getD s.clk.base) else none
  let s := { s with therm := { s.therm with sensors := s.therm.sensors.set k { code := some code, still := still, cool := cool } } }
  s.wr (Reg.THERM_TS k) (enc 16 v + 2 ^ 30 * fault.toNat + 2 ^ 31 * (!fault).toNat)

/-- R171: the unit stepped down at an evaluation: the hottest whose valid reading exceeds T_THR, of equal ones the lower. -/
def State.hottestUnit (s : State) : Option Nat :=
  (List.range 19).foldl (fun b u =>
    if !(s.tsValid u && decide (s.tThr < s.temp u)) then b else match b with
      | none => some u
      | some j => if s.temp j < s.temp u then some u else b) none

/-- R171, R185: unit `u` is stepped up: at once, or, while the ramp limiter restricts its grove, once it allows it. -/
def State.stepUp (s : State) (u : Nat) : State :=
  if u < 16 ∧ s.bit (Reg.PMU_DOM_STAT u) 5 then { s with therm := { s.therm with up := s.therm.up ||| 2 ^ u } }
  else s.putF (Reg.THERM_STEP u) 4 0 (s.thrStep u + 1)

/-- R185: a step-up of unit `u` that waited completes, unless the unit is held lower by now. -/
def State.stepUpDone (s : State) (u : Nat) : State :=
  if s.therm.up.testBit u ∧ !s.bit (Reg.PMU_DOM_STAT u) 5 then
    let s := { s with therm := { s.therm with up := s.therm.up ^^^ 2 ^ u } }
    if s.thrStep u < 16 ∧ s.tsValid u ∧ !s.bit Reg.THERM_TRIP_STAT 0 then (s.putF (Reg.THERM_STEP u) 4 0 (s.thrStep u + 1)).coolSync else s
  else s

/-- THROTTLE_EVALUATE: an evaluation at base tick `t`. -/
def execThrottleEvaluate (t : Nat) (s : State) : Host.Outcome State Fault Refusal :=
  let s := s.tickTo t
  .next (if s.aEntry && !s.boot.parked && s.bit Reg.THERM_CTL 0 && !s.bit Reg.THERM_TRIP_STAT 0 then
    let s0 := s
    let s := match s.hottestUnit with
      | some u => if s.stepMin < s.thrStep u then s.lowerStep u (s.thrStep u - 1) else s
      | none => s
    let s := s.each (List.range 19) fun s u =>
      let cool := match (s0.therm.sensors.getD u {}).cool with
        | some c => decide (c + 400000 ≤ s.clk.base)
        | none => false
      if s0.thrStep u < 16 && s0.tsValid u && cool && !s0.therm.up.testBit u then s.stepUp u else s
    s.coolSync
  else s)

/-- R173: a write of `v` to TRIP_CLR. -/
def State.tripClear (s : State) (req : Requester) (v : Nat) : State :=
  if !v.testBit 0 then s
  else if ((List.range 24).any s.tsValid) && ((List.range 24).all fun k => !s.tsValid k || decide (s.temp k < s.tCrit - s.tHyst)) then
    (s.putBit Reg.THERM_TRIP_STAT 1 false).coolSync
  else s.quiet req Reg.THERM_TRIP_CLR Cause.RESERVED_ENC

/-- TRIP_CLR: a write of `value` to TRIP_CLR. -/
def execTripClr (req : Requester) (value : Nat) (s : State) : Host.Outcome State Fault Refusal :=
  .next (s.heartWrite req Reg.THERM_TRIP_CLR fun s => s.tripClear req value)

/-- COOL_TEMP_SAMPLE: the COOL_TEMP ball converts to the 10-bit `code` at base tick `t` (R176). DESIGN CHOICE: GAIN × code / 1,024 is rounded
down to 0.125 °C (log entry 64). -/
def execCoolTempSample (code t : Nat) (s : State) : Host.Outcome State Fault Refusal :=
  let s := s.tickTo t
  .next (if s.aEntry && !s.boot.parked && !s.bit Reg.THERM_COOL_CFG 0 then
    let v : Int := sgn 16 (s.getF Reg.THERM_COOL_LIN 15 0) + s.getF Reg.THERM_COOL_LIN 31 16 * (code % 1024) / 1024
    let s := (s.putF Reg.THERM_COOL_IN 15 0 (enc 16 (clampS 16 v))).putBit Reg.THERM_COOL_IN 31 true
    { s.putBit Reg.THERM_COOL_STAT 19 false with therm := { s.therm with coolAt := s.clk.base } }.coolSync
  else s)

/-- R176: COOL_IN was written; software's value counts where SRC is 1. -/
def State.coolInWritten (s : State) (old v : Nat) : State :=
  if s.bit Reg.THERM_COOL_CFG 0 then
    let s := (s.wr Reg.THERM_COOL_IN (v % 65536)).putBit Reg.THERM_COOL_IN 31 true
    { s.putBit Reg.THERM_COOL_STAT 19 false with therm := { s.therm with coolAt := s.clk.base } }.coolSync
  else s.wr Reg.THERM_COOL_IN old

/-- COOL_IN_STALE: at base tick `t` software's value is older than 1 s (R176). -/
def execCoolInStale (t : Nat) (s : State) : Host.Outcome State Fault Refusal :=
  let s := s.tickTo t
  .next (if s.aEntry && s.bit Reg.THERM_COOL_CFG 0 && decide (s.therm.coolAt + 400000000 < s.clk.base) then
    ((s.putBit Reg.THERM_COOL_STAT 19 true).putBit Reg.THERM_COOL_IN 31 false).coolSync
  else s)

/-- TACH_SAMPLE: the pulses of one second at the pump and fan tachometers, two per revolution (R177). -/
def execTachSample (pump fan t : Nat) (s : State) : Host.Outcome State Fault Refusal :=
  let s := s.tickTo t
  .next (if s.aEntry && !s.boot.parked then
    let p := min 0xFFFF (pump * 3)
    let f := min 0xFFFF (fan * 3)
    let s := s.wr Reg.THERM_TACH (p + 65536 * f)
    let miss := fun (v lim duty old : Nat) => if lim ≠ 0 ∧ v < lim ∧ 255 < 10 * duty then old + 1 else 0
    let pm := miss p (s.getF Reg.THERM_TACH_MIN 15 0) (s.getF Reg.THERM_COOL_STAT 7 0) s.therm.pumpMiss
    let fm := miss f (s.getF Reg.THERM_TACH_MIN 31 16) (s.getF Reg.THERM_COOL_STAT 15 8) s.therm.fanMiss
    let s := { s with therm := { s.therm with pumpMiss := pm, fanMiss := fm } }
    ((s.putBit Reg.THERM_COOL_STAT 16 (decide (2 ≤ pm))).putBit Reg.THERM_COOL_STAT 17 (decide (2 ≤ fm))).coolSync
  else s)

end Sys2Proof.Machine
end

