-- ==== Sys2Proof/Machine/Start.lean ====
section
/-! DEFINITION. The start stages (R113 to R117, R121, R123, R124, R132 to R134, R144, R145), recovery through the TAP (R217), resets and
supplies (R110, R111, R127, R149, R161, R689, R691, R697 to R699) and the PCIe link (R110, R133, R143). -/

namespace Sys2Proof.Machine

def rstPage : Nat := pageAddr Blk.RST 0

/-- R151, R192: domain `d` enters P0 at its release, or the state a thermal trip holds it in (R173, DEDUCED). -/
def State.domRelease (s : State) (d : Nat) : State :=
  { s.setDomState d (if s.bit Reg.THERM_TRIP_STAT 1 && (decide (d < 19) || d == 23 || d == 24) then deepest d else 0) with
    domains := updAt s.domains d fun (D : Domain) => { D with pwAt := s.clk.base } }

/-! ## Stage A (R113, R115, R123) -/

/-- R96, R108: the angle clock is released: enabled sources acquire and every domain holds. -/
def State.angleRelease (s : State) : State :=
  let s := if s.bit Reg.ANGLE_CTL 0 then s.each (List.range 6) fun s i => s.setSrcState i (if s.srcOn i then SrcSt.ACQUIRE else SrcSt.OFF)
    else s
  s.each (List.range 3) fun s d => s.domRestart d

/-- Stage A entry: the boot ROM is hidden, RESETOUT_N is released and the blocks of Stage A are released with their retained fields. Links
train from here (R663). -/
def State.enterA (s : State) : State :=
  let s := { s.putBit Reg.RST_STAGE 0 true with boot := { s.boot with romWaits := false, resetoutN := true } }
  let s := s.applyPoint 1
  let s := s.each [19, 20, 21, 22, 26] fun s d => s.domRelease d
  let s := (((s.angleRelease.protRelease.lanesSync.chansSync).gwRelease).dmcRelease).thermSync
  let s := s.each (List.range 4) fun s p => if s.bit (Reg.RLINK_CTL p) 0 then s.setLstate p 1 else s
  s.faultSync

/-! ## Stage B (R113, R124) -/

/-- The voice image has passed: ALE, APORT and SENSE are released. -/
def State.enterB (s : State) : State :=
  let s := { s with boot := { s.boot with voiceOk := true } }
  ((s.applyPoint 2).senseRelease).aleRelease

/-! ## Stage C (R113, R132, R134) -/

/-- Stage C declaration. -/
def State.declareC (s : State) : State :=
  if s.cDecl then s
  else
    let s := s.reach 4 Reg.RST_T_C_DECL 3
    let s := { s with boot := { s.boot with declAt := s.clk.base } }
    let s := { s with rmon := List.replicate 4 s.clk.base, domains := s.domains.map fun (D : Domain) => { D with busyAt := s.clk.base } }
    let s := s.gwDeclared
    let s := if s.bit Reg.SYS_STRAP 1 then s
      else if s.boot.pcieLink then (s.emit .pcieDrs).funcReady Fn.PCIE else s
    s.startDiscovery false

/-- STAGE_C_LIMIT ms have passed since the release or the wake event. -/
def State.pastLimit (s : State) : Bool := decide (s.boot.t0 + 400000 * s.getF Reg.RST_STAGE_CTL 31 16 ≤ s.clk.base)

/-- R275: every NEXT register equals its current register. -/
def State.partRelease (s : State) (p : Nat) : State :=
  let s := [(Reg.PART_NEXT_GROVE_MASK p, Reg.PART_GROVE_MASK p), (Reg.PART_NEXT_RING_MASK_LO p, Reg.PART_RING_MASK_LO p)
    , (Reg.PART_NEXT_RING_MASK_HI p, Reg.PART_RING_MASK_HI p), (Reg.PART_NEXT_MODE p, Reg.PART_MODE p)
    , (Reg.PART_NEXT_MESH_SHARE p, Reg.PART_MESH_SHARE p), (Reg.PART_NEXT_DRAM_SHARE p, Reg.PART_DRAM_SHARE p)].foldl
      (fun (s : State) e => s.wr e.1 (s.rd e.2)) s
  (s.eshareSync p).putF (Reg.PART_NEXT_ESHARE p) 8 0 (s.share p)

/-- R430: the service state a core starts in: that of its bits in OFFL and WDRAWN. -/
def State.coreRelease (s : State) (c : Nat) : State :=
  let bitOf (lo hi : Nat) : Bool := if c < 32 then s.bit lo c else s.bit hi (c - 32)
  let v := if bitOf Reg.SAFE_OFFL_LO Reg.SAFE_OFFL_HI then Svc.OFFLINE
    else if bitOf Reg.SAFE_WDRAWN_LO Reg.SAFE_WDRAWN_HI then Svc.WITHDRAWN else Svc.IN_SERVICE
  s.putF (Reg.CORE_CHK_STAT c) 1 0 v

/-- R663: a Rinjo Link port takes its restored configuration: a cleared EN takes its link down, another width or rate retrains it; `old` is
CTL before. -/
def State.rlinkApply (s : State) (p old : Nat) : State :=
  let v := s.rd (Reg.RLINK_CTL p)
  if v = old then s
  else if !v.testBit 0 then (if s.lstate p = 0 then s else let up := s.portUp p; let s := s.setLstate p 0; if up then s.linkChanged p else s)
  else if s.lstate p = 0 ∨ v / 2 ≠ old / 2 then (let up := s.portUp p; let s := s.setLstate p 1; if up then s.linkChanged p else s)
  else s

/-- Partitions, ledger, cores and groves at Stage C entry. Every grove is cleared (R333). -/
def State.releaseGroves (s : State) : State :=
  let s := (s.each (List.range 16) fun s p => s.partRelease p).ledgerRelease
  let s := s.each (List.range 64) fun s c => s.coreRelease c
  s.each ((List.range 16).filter fun g => s.dom g = 0) fun s g => s.startClear g

/-- The Rinjo Link ports and the cascade at Stage C entry (R663); `ctl` are the CTL registers before. -/
def State.releaseFabric (s : State) (ctl : List Nat) : State :=
  let s := s.each (List.range 4) fun s p => s.rlinkApply p (ctl.getD p 0)
  let s := (s.setFabState (if s.isRoot then 0 else 1)).putBit Reg.RLINK_FAB_STAT 14 s.isRoot
  { s with casc := { since := s.clk.base } }

/-- Hart 0 is released at `entry` (R117). -/
def State.startLoader (s : State) (entry : Nat) : State :=
  { s with boot := { s.boot with appOk := true }, harts := updAt s.harts 0 fun (H : Hart) => { H with pc := entry } }

/-- The blocks of Stage C are released with their retained fields. -/
def State.releaseC (s : State) : State :=
  let ctl := (List.range 4).map fun p => s.rd (Reg.RLINK_CTL p)
  let s := (s.applyPoint 3).each (List.range 19 ++ [23, 24, 25]) fun s d => s.domRelease d
  let s := s.releaseGroves
  let s := if s.dom 24 = 0 then s.fdigRelease else s
  ((((s.mediaRelease.releaseFabric ctl).dispSync).ringsSync)).dramReady

/-- Stage C entry: the blocks of Stage C are released, hart 0 starts the application loader at `entry`, and in root mode PCIE_PERST_N goes
high (R116). -/
def State.enterC (s : State) (entry : Nat) : State :=
  let s := (((s.startLoader entry).reach 3 Reg.RST_T_C_ENTRY 2).releaseC).funcReady Fn.APP_CPU
  let s := { s with boot := { s.boot with perstOut := s.bit Reg.SYS_STRAP 1 } }
  if s.pastLimit then s.declareC else s

/-- STAGE_C_LIMIT_EXPIRED: at base tick `t` STAGE_C_LIMIT ms have passed. -/
def execStageCLimitExpired (t : Nat) (s : State) : Host.Outcome State Fault Refusal :=
  let s := s.tickTo t
  .next (if s.cEntry && !s.cDecl && s.pastLimit then s.declareC else s)

/-- R132: a write of `v` to STAGE_CTL: DECLARE_C before Stage C entry has no effect. DEDUCED: that is the write of DECLARE_C; the other field
of the same word takes its value, as in R13 (log entry 63). -/
def State.writeStageCtl (s : State) (req : Requester) (v : Nat) : State :=
  if !v.testBit 0 then s.regStore req Reg.RST_STAGE_CTL v
  else if s.cEntry then (s.regStore req Reg.RST_STAGE_CTL v).declareC
  else (s.regStore req Reg.RST_STAGE_CTL (v - 1)).quiet req Reg.RST_STAGE_CTL Cause.RESERVED_ENC

/-- DECLARE_C: a write of `value` to STAGE_CTL. -/
def execDeclareC (req : Requester) (value : Nat) (s : State) : Host.Outcome State Fault Refusal :=
  .next (s.checkedWrite req Reg.RST_STAGE_CTL 4 fun s => s.writeStageCtl req value)

/-! ## The boot ROM and the images (R117, R118, R121, R122, R145) -/

/-- BOOT_ROM_START: at base tick `t` crystal, PLLs and fuses are ready: the boot ROM derives the fixed keys (R209), finds the directory and
chooses the restore source. The flags are read errors of the directory, its copy and the two RSTATE slots. -/
def execBootRomStart (err0 err1 slot0 slot1 : Bool) (t : Nat) (s : State) : Host.Outcome State Fault Refusal :=
  let s := s.tickTo t
  .next (if s.boot.held ∨ s.boot.romStarted ∨ s.boot.railsWait then s
  else
    let s := s.deriveFixed
    let s := { s with boot := { s.boot with romStarted := true, directory := s.findDirectory err0 err1 } }
    (s.chooseRestore slot0 slot1).applyPoint 0)

/-- BOOT_STAT byte of stage `k`: RESULT, SLOT, FIRST_FAIL and RECOVERY. -/
def State.setBootStat (s : State) (k result slot : Nat) : State :=
  (s.putF Reg.RST_BOOT_STAT (8 * k + 2) (8 * k) result).putBit Reg.RST_BOOT_STAT (8 * k + 3) (slot == 1)

/-- The bytes from which R217 step 1 clears the staging area. -/
def stagingLen : Nat := 0xC0000 + headerLen

/-- R217 step 1. -/
def State.recoveryWait (s : State) : State :=
  { s.zero islandBase stagingLen with dbg := { s.dbg with recState := 1, recCount := 0 } }

/-- R145: both slots of stage `k` (0 safety, 1 voice, 2 application loader) have failed. -/
def State.bootFailed (s : State) (k : Nat) : State :=
  let s := s.evt rstPage 4
  if k = 0 then
    if s.lifecycle = 0 ∨ s.lifecycle = 3 then { s.recoveryWait with boot := { s.boot with romWaits := true } } else s
  else if k = 2 then s.putBit Reg.RST_STAGE 5 true
  else s

/-- An image of stage `k` with header `h` and body `b` has passed: it is loaded (R117) and enables its stage. -/
def State.imagePassed (s : State) (k : Nat) (h b : List Byte) : State :=
  let s := s.setBytes (hdrNat h 0x10 8) b
  if k = 0 then s.enterA else if k = 1 then s.enterB else s.enterC (hdrNat h 0x18 8)

/-- R113, R117: an image of stage `k` is being verified: the blocks and memory it needs are there, and a slot is left. -/
def State.verifying (s : State) (k : Nat) : Bool :=
  s.boot.romStarted && decide (s.boot.slot.getD k 2 < 2)
    && (if k = 0 then !s.aEntry && !s.boot.romWaits
        else if k = 1 then s.aEntry && !s.boot.voiceOk
        else decide (k = 2) && s.aEntry && !s.boot.appOk && !s.cFailed && !s.dmcSet.isEmpty)

/-- IMAGE_VERIFY_DONE: at base tick `t` the verification of the slot now tried for stage `k` (0 safety, 1 voice, 2 application loader)
ends; `err` is a flash read error. -/
def execImageVerifyDone (k : Nat) (err : Bool) (t : Nat) (s : State) : Host.Outcome State Fault Refusal :=
  let s := s.tickTo t
  .next (if !s.verifying k then s
  else
    let slot := s.boot.slot.getD k 2
    let h := (s.flashAt (2 * k + slot) 0 headerLen).getD []
    let b := if headerOk h (k + 1) then (s.flashAt (2 * k + slot) headerLen (hdrNat h 0xC 4)).getD [] else []
    let code := if err || s.boot.directory.isNone then 7 else s.imageCode h b (k + 1) (hdrNat h 7 1)
    if code = 1 then ({ s.setBootStat k 1 slot with boot := { s.boot with slot := s.boot.slot.set k 2 } }).imagePassed k h b
    else
      let s := { s with boot := { s.boot with slot := s.boot.slot.set k (slot + 1) } }
      if slot = 0 then s.putF Reg.RST_BOOT_STAT (8 * k + 6) (8 * k + 4) code
      else (s.setBootStat k code 1).bootFailed k)

/-! ## Recovery through the TAP (R217) -/

/-- R217 step 5: an attempt fails with a code, and the ROM returns to step 1. -/
def State.recoveryFailed (s : State) (code : Nat) : State :=
  let s := (s.setBootStat 0 code 0).putBit Reg.RST_BOOT_STAT 7 true
  { s with dbg := { s.dbg with recFail := code } }.recoveryWait

/-- RECOVERY_DATA: the next 32-bit `word`; outside the wait the instruction acts as BYPASS. -/
def execRecoveryData (word : Nat) (s : State) : Host.Outcome State Fault Refusal :=
  .next (s.tapRun 0x23 (leBytes 4 word) fun s =>
  if s.dbg.recState = 3 ∨ s.dbg.recState = 4 then s
  else
    let n := s.dbg.recCount + 4
    let s := s.setLe (islandBase + s.dbg.recCount) 4 word
    let s := { s with dbg := { s.dbg with recState := 2, recCount := n } }
    if n < 16 then s
    else if s.le (islandBase + 6) 1 ≠ 1 ∨ 0xC0000 < s.le (islandBase + 0xC) 4 then s.recoveryFailed 2
    else if headerLen + s.le (islandBase + 0xC) 4 ≤ n then { s with dbg := { s.dbg with recState := 3 } }
    else s)

/-- RECOVERY_STAT. -/
def execRecoveryStat (data : List Byte) (s : State) : Host.Outcome State Fault Refusal :=
  .next (s.tapRun 0x24 data fun s => s.emit (.tap (leBytes 4 (s.dbg.recState + s.dbg.recFail * 16 + s.dbg.recCount * 256))))

/-- RECOVERY_VERIFY_DONE: at base tick `t` the verification of the staged image ends. -/
def execRecoveryVerifyDone (t : Nat) (s : State) : Host.Outcome State Fault Refusal :=
  let s := s.tickTo t
  .next (if !s.recovering ∨ s.dbg.recState ≠ 3 then s
  else
    let h := s.bytes islandBase headerLen
    let b := s.bytes (islandBase + headerLen) (hdrNat h 0xC 4)
    let code := s.imageCode h b 1 (hdrNat h 7 1)
    if code = 1 then
      ({ (s.setBootStat 0 1 0).putBit Reg.RST_BOOT_STAT 7 true with dbg := { s.dbg with recState := 4 } }).imagePassed 0 h b
    else s.recoveryFailed code)

/-! ## Reset pins and writes (R110, R111, R149) -/

/-- PORESET_ASSERT: PORESET_N falls at base tick `t`. A supply fault that holds the device keeps its record (R697). -/
def execPoresetAssert (t : Nat) (s : State) : Host.Outcome State Fault Refusal :=
  let s := s.tickTo t
  let s := { s with boot := { s.boot with poresetN := false } }
  .next (if s.boot.aon then s.resetAs Rst.POR s.boot.supply else s)

/-- PORESET_RELEASE: PORESET_N rises at base tick `t` with the straps at `straps`; `inRange` says that every rail and the reference are in
range, and have been for 1 ms after a fault. Otherwise the reset is held until they are (R697). -/
def execPoresetRelease (straps : Nat) (inRange : Bool) (t : Nat) (s : State) : Host.Outcome State Fault Refusal :=
  let s := s.tickTo t
  .next (if s.boot.poresetN then s
  else
    let s := { s with boot := { s.boot with poresetN := true } }
    if !s.boot.aon then s
    else if inRange then ({ s with boot := { s.boot with supply := false } }.latchStraps straps).tryRelease
    else { s with boot := { s.boot with supply := true } })

/-- WARMRESET_ASSERT: WARMRESET_N falls at base tick `t`. A POR prevails, and in P4 only a wake event or a POR ends the parked state. -/
def execWarmresetAssert (t : Nat) (s : State) : Host.Outcome State Fault Refusal :=
  let s := s.tickTo t
  let s := { s with boot := { s.boot with warmresetN := false } }
  .next (if !s.boot.aon ∨ s.boot.parked ∨ s.boot.held then s else s.resetAs Rst.WARM_PIN false)

/-- WARMRESET_RELEASE: WARMRESET_N rises at base tick `t`. -/
def execWarmresetRelease (t : Nat) (s : State) : Host.Outcome State Fault Refusal :=
  let s := s.tickTo t
  .next { s with boot := { s.boot with warmresetN := true } }.tryRelease

/-- R149: a write of `v` to SWRST. -/
def State.writeSwrst (s : State) (req : Requester) (v : Nat) : State :=
  if v = 0xA5 then s.resetNow Rst.SWRST else s.quiet req Reg.RST_SWRST Cause.RESERVED_ENC

/-- SWRST: a write of `value` to RST_00.SWRST. -/
def execSwrst (req : Requester) (value : Nat) (s : State) : Host.Outcome State Fault Refusal :=
  .next (s.checkedWrite req Reg.RST_SWRST 4 fun s => s.writeSwrst req value)

/-! ## Supplies (R127, R161, R689, R697 to R699, R702) -/

/-- R698: the device acts as if PORESET_N were driven low; `bit` of SUP_STAT and SUP_POR set. -/
def State.supplyFault (s : State) (bit : Nat) : State :=
  let s := s.resetAs Rst.POR true
  let s := (s.putBit Reg.SYS_SUP_STAT bit true).putBit Reg.SYS_SUP_STAT 16 true
  { s with boot := { s.boot with supply := true } }

/-- The monitors act: PWR_REQ and PORESET_N are high, and the rails asked for have come up (R689, R698). -/
def State.monitored (s : State) : Bool := s.boot.aon && s.boot.poresetN && s.boot.pwrReq && !s.boot.railsWait

/-- SUPPLY_FAULT: at base tick `t` rail `rail` of group 2 or 3 has been below its range for 1 µs. -/
def execSupplyFault (rail t : Nat) (s : State) : Host.Outcome State Fault Refusal :=
  let s := s.tickTo t
  .next (if 2 ≤ rail ∧ rail ≤ 9 ∧ s.monitored then s.supplyFault rail else s)

/-- REFERENCE_LOSS: at base tick `t` the reference clock has had no edge for 2 µs. -/
def execReferenceLoss (t : Nat) (s : State) : Host.Outcome State Fault Refusal :=
  let s := s.tickTo t
  .next (if s.monitored then s.supplyFault 17 else s)

/-- SUPPLY_RECOVERED: at base tick `t` every rail and the reference have run in range for 1 ms. -/
def execSupplyRecovered (straps t : Nat) (s : State) : Host.Outcome State Fault Refusal :=
  let s := s.tickTo t
  .next (if s.boot.supply ∧ s.boot.aon then
    let s := { s with boot := { s.boot with supply := false } }
    if s.boot.poresetN then (s.latchStraps straps).tryRelease else s
  else s)

/-- RAILS_IN_RANGE: at base tick `t` the rails asked for by PWR_REQ have read in range for 100 µs (R689). -/
def execRailsInRange (t : Nat) (s : State) : Host.Outcome State Fault Refusal :=
  let s := s.tickTo t
  .next (if s.boot.railsWait then { s with boot := { s.boot with railsWait := false } }.tryRelease else s)

/-- VDD_AON_LOSS: at base tick `t` VDD_AON leaves its range: P5. RSTATE and SUP_STAT are lost (log entry 4); what follows is a POR that
lasts until the rails have recovered. -/
def execVddAonLoss (t : Nat) (s : State) : Host.Outcome State Fault Refusal :=
  let s := (s.tickTo t).resetAs Rst.POR false
  .next { s.zero rstateBase 0x10000 with boot := { s.boot with aon := false, supply := true, railsWait := false } }

/-- VDD_AON_RISE: at base tick `t` VDD_AON rises into its range: the always-on island writes zero to the MAGIC word of RSTATE. -/
def execVddAonRise (t : Nat) (s : State) : Host.Outcome State Fault Refusal :=
  let s := s.tickTo t
  .next (if s.boot.aon then s else { s.zero rstateBase 4 with boot := { s.boot with aon := true } })

/-! ## PCIe (R110, R116, R133, R143) -/

/-- The strap PCIE_RC: the device is a PCIe root. -/
def State.pcieRoot (s : State) : Bool := s.bit Reg.SYS_STRAP 1

/-- PCIE_PERST: the input PCIE_PERST_N is driven (`low` or released): it resets only the PCIe controller. In root mode it is an output
(`Boot.perstOut`), and nothing drives it from outside. -/
def execPciePerst (low : Bool) (s : State) : Host.Outcome State Fault Refusal :=
  .next (if s.pcieRoot then s
  else
    let s := { s with boot := { s.boot with perstN := !low, pcieLink := s.boot.pcieLink && !low } }
    if low then s.funcLost Fn.PCIE else s)

/-- PCIE_LINK_CHANGE: the PCIe link trains up or goes down. As an endpoint it trains from Stage A entry, as a root from Stage C entry, and
accepts configuration requests from the declaration or at once. -/
def execPcieLinkChange (up : Bool) (s : State) : Host.Outcome State Fault Refusal :=
  .next (if !up then { s with boot := { s.boot with pcieLink := false } }.funcLost Fn.PCIE
  else if (if s.pcieRoot then s.cEntry else s.aEntry && s.boot.perstN) then
    let s := { s with boot := { s.boot with pcieLink := true } }
    if s.pcieRoot || s.cDecl then s.funcReady Fn.PCIE else s
  else s)

/-- PCIE_CONFIG_REQUEST: at base tick `t` a configuration request reaches the endpoint. -/
def execPcieConfigRequest (t : Nat) (s : State) : Host.Outcome State Fault Refusal :=
  let s := s.tickTo t
  .next (if !s.pcieRoot && s.boot.pcieLink then s.emit (.pcieConfig (!s.declaredBefore)) else s)

end Sys2Proof.Machine
end

