-- ==== Sys2Proof/Machine/Power.lean ====
section
/-! DEFINITION. Power states of the domains (R152 to R158, R173 to R175, R181, R182, R452), P4 and wake (R159, R160, R187, R215). -/

namespace Sys2Proof.Machine

def pmuPage : Nat := pageAddr Blk.PMU 0

/-! ## Pending work and tolerance (R155, R157) -/

/-- The power domain of a memory target. -/
def targetDom (s : State) (a : Nat) : Option Nat :=
  match targetOf a with
  | .store g => some g
  | .acq => some 24
  | .dram => some (19 + (s.dramMap (dramOff a)).1)
  | _ => none

/-- The address of the next LOAD of a rank. -/
def OnCore.nextLoad (o : OnCore) : Option Nat :=
  (o.rank.window.find? fun e => e.2 % 256 == 0x10 && !o.rank.ahead.contains e.1).bind fun e => match o.xferAddr e.2 with
    | .ok a => some a
    | _ => none

/-- R157, R328: a request waits for domain `d`: one that is held, or one of a transfer that waits where it is issued: a core's LOAD that
comes next, a STORE, a ferry's copy, or a sender's ask for a ticket. -/
def State.heldFor (s : State) (d : Nat) : Bool :=
  (s.held.any fun h => match h with
    | .access a _ _ _ => targetDom s a.addr == some d
    | .ticket k _ _ _ _ => decide (k = d))
  || (s.ferries.any fun F => F.busy && (match F.queue.head? with
    | some q => targetDom s (q.dst + F.pos) == some d || targetDom s (q.src + F.pos) == some d
    | none => false))
  || (s.ales.any fun x => match x.queue.head? with
    | some q => targetDom s q.dst == some d
    | none => false)
  || (s.allRanks.any fun o => o.rank.occupies && (
    o.rank.xfers.any (fun x => targetDom s x.addr == some d)
      || o.nextLoad.any fun a => targetDom s a == some d))

/-- R157: domain `d` has pending work. `cpu` are the clusters with a hart that is not in WFI, `pcie` says that the PCIe link is up and not
in a low-power link state. -/
def State.pendingWork (s : State) (d cpu : Nat) (pcie : Bool) : Bool :=
  if d < 16 then
    s.allRanks.any (fun o => coreGrove o.rank.core == d && (o.rank.occupies || o.rank.st == .queued || o.rank.st == .saved))
      || !(s.ferry (2 * d)).queue.isEmpty || !(s.ferry (2 * d + 1)).queue.isEmpty || !(s.office d).tickets.isEmpty || !(s.mopQ d).isEmpty
      || ((List.range 4).any fun n => (s.core (4 * d + n)).testing.isSome) || s.heldFor d || s.groveClearing d || (match s.resize with
        | some r => r.clear && r.todo.contains d
        | none => false)
  else if d < 19 then
    cpu.testBit (d - 16) || (List.range 4).any fun k =>
      let h := s.harts.getD (4 * (d - 16) + k) {}
      h.halted || (h.haltReq && s.sessionFlag 0) || s.irqPendingTo (4 * (d - 16) + k)
  else if d < 23 then
    s.heldFor d || s.dmcState (d - 19) == DmcSt.TRAINING || s.dmcState (d - 19) == DmcSt.INIT
  else if d = 23 then (List.range 4).any (fun p => s.bit (Reg.CAM_CTL p) 0) || (List.range 2).any fun v => s.bit (Reg.VOUT_CTL v) 0
  else if d = 24 then s.progs.any (fun p => p.ph != .off) || s.heldFor 24
  else if d = 25 then (List.range 4).any (fun p => s.lstate p == 1 || s.lstate p == 2) || (s.boot.pcieLink && pcie)
  else true

/-- R155: the tolerance of a domain in µs. -/
def State.tolerance (s : State) (d : Nat) : Nat :=
  let t := min (s.rd Reg.PMU_LTOL_SYS) (s.rd (Reg.PMU_LTOL_DOM d))
  if d < 16 then ((List.range 16).filter fun p => s.bit (Reg.PART_GROVE_MASK p) d).foldl (fun t p => min t (s.rd (Reg.PMU_LTOL_PART p))) t else t

/-- R153: exit bound of a state in µs. -/
def exitBound (v : Nat) : Nat := match v with
  | 0 => 0
  | 1 => 1
  | 2 => 40
  | _ => 2000

/-- R156, R193: IDLE_CFG as base ticks. -/
def State.idleTicks (s : State) (v : Nat) : Nat := match v with
  | 0 => 0
  | 1 => s.getF Reg.PMU_IDLE_CFG 7 0 * 400
  | 2 => 4000 * s.getF Reg.PMU_IDLE_CFG 15 8
  | _ => 400000 * s.getF Reg.PMU_IDLE_CFG 31 16

/-- R156: a domain may be in state `v` after `idle` base ticks without work. -/
def State.mayRest (s : State) (d idle v : Nat) : Bool :=
  decide (v ≤ s.getF (Reg.PMU_DOM_CAP d) 2 0) && decide (v ≤ deepest d) && (v == 0 || decide (exitBound v ≤ s.tolerance d)) && decide (s.idleTicks v ≤ idle)

/-- R156: the deepest state that meets the conditions. -/
def State.restState (s : State) (d idle : Nat) : Nat :=
  if s.mayRest d idle 3 then 3 else if s.mayRest d idle 2 then 2 else if s.mayRest d idle 1 then 1 else 0

/-- R174: whether keep-warm holds grove `g`: from below TFLOOR until TFLOOR + 3 °C. -/
def State.keepWarm (s : State) (g : Nat) : Bool :=
  let floor : Int := sgn 8 (s.getF Reg.PMU_KW_CFG 23 16) * 8
  s.bit Reg.PMU_KW_CFG g && s.tsValid g
    && (decide (s.temp g < floor) || ((s.domains.getD g {}).warm && decide (s.temp g < floor + 24)))

/-- R174: the warm load is suspended: a low refill, or a reading above T_THR. -/
def State.warmOff (s : State) : Bool :=
  decide (s.rd Reg.LEDGER_REFILL < s.getF Reg.PMU_KW_CFG 31 24 * 100)
    || (List.range 24).any fun k => s.tsValid k && decide (s.tThr < s.temp k)

/-- R174: the warm load of grove `g` in 1/4000 mW: it runs while keep-warm holds the grove and the grove has no work. -/
def State.warmLoad (s : State) (g : Nat) (work : Bool) : Nat :=
  if s.keepWarm g && !work && !s.warmOff then s.getF Reg.PMU_KW_CFG 31 24 * 400000 else 0

/-- R173: a trip holds the domain in its state. -/
def State.tripHolds (s : State) (d : Nat) : Bool := s.bit Reg.THERM_TRIP_STAT 1 && (decide (d < 19) || d == 23 || d == 24)

/-! ## Measured power and the ramp limiter (R163, R175, R185, R188, R193) -/

/-- R175, R188: the power that the ramp limiter lets grove `D` draw at base tick `now` where its work and warm load ask for `want`, in 1/4000
mW: it rises no faster than RAMP_UP and falls no faster than RAMP_DN (0.1 W/ms is 1 unit a tick); a fall that a throttle step-down, CRIT or
a trip asks for (`drop`) is not limited, and with a failed monitor (`fixed`) a rise from idle takes 2 ms. -/
def State.ramped (s : State) (D : Domain) (want : Nat) (drop fixed : Bool) : Nat :=
  let dt := s.clk.base - D.pwAt
  if fixed && decide (s.clk.base < D.workAt + 800000) then want * (s.clk.base - D.workAt) / 800000
  else if D.pw ≤ want then min want (D.pw + s.getF Reg.PMU_RAMP_CFG 7 0 * dt)
  else if drop then want else max want (D.pw - s.getF Reg.PMU_RAMP_CFG 15 8 * dt)

/-- R193: the power drawn from now on, and what of it is warm load and taper; entries older than the last 1 ms go. -/
def keepHist (now : Nat) : List (Nat × Nat × Nat) → List (Nat × Nat × Nat)
  | [] => []
  | e :: l => if e.1 + 400000 ≤ now then [e] else e :: keepHist now l

/-- R163, R166, R174, R175, R193, R306 (STAT.WARM): the power of domain `d` with pending work `work`, whose activity asks for `power` mW. -/
def State.drawPower (s : State) (d power : Nat) (work : Bool) : State :=
  let s := if d < 16 then s.meter d else s
  let D := s.domains.getD d {}
  let step := s.thrStep d
  let warm := if d < 16 then s.warmLoad d work else 0
  let want := 4000 * power + warm
  let D := if work && D.busyAt < D.pwAt then { D with workAt := s.clk.base } else D
  let pw := if d < 16 then
      s.ramped D want (decide (step < D.step) || s.bit Reg.THERM_TRIP_STAT 0 || s.tripHolds d) (s.ledger.monFault.testBit d) else want
  let limited := decide (pw ≠ want)
  let since := if limited then some (D.ramp.getD s.clk.base) else none
  let sat := match since with
    | some b => decide (b + 2000000 < s.clk.base)
    | none => false
  let s := if sat && !D.sat then s.evt pmuPage 1 else s
  let D := { D with
    pw := pw, extra := warm + (pw - want), pwAt := s.clk.base, step := step, warm := decide (d < 16) && s.keepWarm d, ramp := since, sat := sat
    issue := if pw < want then 64 * pw / want else 64
    hist := keepHist s.clk.base ((s.clk.base, pw, warm + (pw - want)) :: D.hist) }
  let s := { s with domains := updAt s.domains d fun _ => D }
  let s := (s.putBit (Reg.PMU_DOM_STAT d) 5 limited).putF (Reg.PMU_DOM_PWR d) 15 0 (min (s.domAvg d / 4000) 0xFFFF)
  if d < 16 then (s.each (List.range 4) fun s n => s.putBit (Reg.CORE_STAT (4 * d + n)) 8 (decide (warm ≠ 0))).stepUpDone d else s

/-! ## Entry and exit (R152, R153, R181, R182) -/

/-- A domain enters a deeper state at once; an exit in progress is overtaken. A cluster's caches are written back before P2 (R158). -/
def State.restAt (s : State) (d v : Nat) : State :=
  let s := s.setDomState d v
  let s := { s with domains := updAt s.domains d fun (D : Domain) => { D with exit := none } }
  let s := if 16 ≤ d ∧ d < 19 ∧ 2 ≤ v then
      { s with harts := s.harts.mapIdx fun h (H : Hart) => if h / 4 = d - 16 then { H with lines := [] } else H } else s
  if 19 ≤ d ∧ d < 23 ∧ v = 2 ∧ s.dmcState (d - 19) = DmcSt.SERVING then
    ((s.setDmc (d - 19) fun m => { m with rows := [] }).setDmcState (d - 19) DmcSt.SELF_REFRESH).putF (Reg.DMC_RFSH_STAT (d - 19)) 1 0 3
  else s

/-- A domain starts to leave its state for `v`. The clear of a grove that leaves P3 begins with the exit (R153, R311). -/
def State.leaveFor (s : State) (d v : Nat) : State :=
  let s := { s with domains := updAt s.domains d fun (D : Domain) => { D with exit := some v } }
  if d < 16 ∧ s.dom d = 3 then s.startClear d else s

/-- R156, R174, R175, R192, R193: one domain is evaluated; selection starts at the Stage C declaration, and until then a domain that no trip
holds is in P0. -/
def State.evalDomain (s : State) (cpu : Nat) (pcie : Bool) (power d : Nat) : State :=
  let p := s.pendingWork d cpu pcie
  let kw := decide (d < 16) && s.keepWarm d
  let a := Reg.PMU_DOM_STAT d
  let s := (((s.drawPower d power p).putBit a 3 p).putBit a 4 kw)
  let s := { s with domains := updAt s.domains d fun (D : Domain) => { D with busyAt := if p then s.clk.base else D.busyAt } }
  if s.tripHolds d then s
  else
    let cur := s.dom d
    let want := if !s.cDecl || !s.bit Reg.PMU_CTL 0 || p || kw then 0 else s.restState d (s.clk.base - (s.domains.getD d {}).busyAt)
    if want < cur then (if (s.domains.getD d {}).exit = some want then s else s.leaveFor d want)
    else if cur < want then s.restAt d want
    else s

/-- R214: the device state has reached P3: a session without KEEPALIVE ends. -/
def State.sessionPower (s : State) : State :=
  if s.getF Reg.PMU_DEV_STAT 2 0 = 3 && !s.sessionFlag 0 then s.endSession else s

/-- PMU_EVALUATE: the PMU evaluates every released domain at base tick `t`. `cpu` and `pcie` are as in `pendingWork`; `power` are the powers
in mW that the domains' activity draws, a grove's without the ramp limiter and the warm load. -/
def execPmuEvaluate (cpu : Nat) (pcie : Bool) (power : List Nat) (t : Nat) (s : State) : Host.Outcome State Fault Refusal :=
  let s := s.tickTo t
  .next (if s.aEntry ∧ !s.boot.parked then
    (s.each ((List.range 27).filter fun d => s.dom d ≠ 6) fun s d => s.evalDomain cpu pcie (power.getD d 0) d).sessionPower
  else s)

/-- THERM_SAMPLE: the 24 measurements in m°C at base tick `t`; `switching` marks the sensors whose unit switches state. The readings and
the trip act from release of PORESET_N (R192); a trip may end a session (R214). -/
def execThermSample (meas : List Int) (switching t : Nat) (s : State) : Host.Outcome State Fault Refusal :=
  let s := s.tickTo t
  .next (if s.boot.held || s.boot.parked || meas.length != 24 then s
  else
    let s := s.each (List.range 24) fun s k => s.sense k (meas.getD k 0) (switching.testBit k)
    let s := s.thermSync
    match s.hottest with
    | some k => if 1040 ≤ s.temp k then (s.tripAt k |>.when s.aEntry State.coolSync).sessionPower else s
    | none => s)

/-- What leaving state `cur` for `v` brings back (R152, R471, R452). -/
def State.wakeBlocks (s : State) (d cur v : Nat) : State :=
  if d = 24 then (if cur = 3 then s.berthLost.fdigRelease else s.fdigResume)
  else if 19 ≤ d ∧ d < 23 then
    if cur = 2 ∧ s.dmcState (d - 19) = DmcSt.SELF_REFRESH then
      (s.setDmcState (d - 19) DmcSt.SERVING).putF (Reg.DMC_RFSH_STAT (d - 19)) 1 0 s.grid.rate
    else s
  else if v ≠ 0 then s
  else if d < 16 then
    let s := match s.resize with
      | some r => if r.clear && r.todo.contains d then s.clearLeaving d else s
      | none => s
    s.each (List.range 4) fun s n => s.coreNext (4 * d + n)
  else if d < 19 then
    s.each ((List.range 4).filter fun k => (s.harts.getD (4 * (d - 16) + k) {}).haltReq) fun s k =>
      let s := s.haltHart (4 * (d - 16) + k)
      { s with harts := updAt s.harts (4 * (d - 16) + k) fun (H : Hart) => { H with haltReq := false } }
  else s

/-- DOMAIN_EXIT_COMPLETE: at base tick `t` domain `d` has left its state; a grove that was off has been cleared. -/
def execDomainExitComplete (d t : Nat) (s : State) : Host.Outcome State Fault Refusal :=
  let s := s.tickTo t
  .next (match (s.domains.getD d {}).exit with
    | none => s
    | some v =>
      let cur := s.dom d
      if s.tripHolds d ∨ (d < 16 ∧ cur = 3 ∧ s.groveClearing d) then s
      else
        let s := s.setDomState d v
        let s := { s with domains := updAt s.domains d fun (D : Domain) => { D with exit := none } }
        s.wakeBlocks d cur v)

/-! ## P4 (R141, R159, R215) -/

/-- R141, R159, R215: P4 entry waits: a stow or a flash copy is under way, or a session with KEEPALIVE is open. -/
def State.parkWaits (s : State) : Bool := s.bit Reg.RSTATE_STOW_STAT 0 || s.bit Reg.RSTATE_STOW_STAT 2 || s.sessionFlag 0

/-- Steps 2 and 3 of R159: the dispatcher, ferries, gateway, cores of the ALE and media stop, the gate holds every channel, and the cooling
outputs are driven low. -/
def State.parkStop (s : State) : State :=
  let s := { s with park := { s.park with stage := 2 }, prot := { s.prot with park := true } }
  ((((s.gwPark).mediaPark).alePark).gateSync false).coolSync

/-- R159: a write of `v` to PARK. -/
def State.writePark (s : State) (req : Requester) (v : Nat) : State :=
  if v ≠ 0x5041 then s.quiet req Reg.PMU_PARK Cause.RESERVED_ENC
  else if s.park.stage ≠ 0 then s
  else if s.parkWaits then { s.evt pmuPage 0 with park := { s.park with stage := 1 } }
  else s.parkStop

/-- PARK: a write of `value` to PMU_00.PARK. -/
def execPark (req : Requester) (value : Nat) (s : State) : Host.Outcome State Fault Refusal :=
  .next (s.checkedWrite req Reg.PMU_PARK 4 fun s => s.writePark req value)

/-- R160: a wake event with WAKE_STAT `w` starts a WAKE reset; the start waits for the rails (R689). -/
def State.wake (s : State) (w : Nat) : State :=
  let s := s.resetAs Rst.WAKE false
  let s := if s.boot.warmresetN then s.releaseReset else s
  s.wr Reg.PMU_WAKE_STAT w

/-- Step 4 of R159: power is removed from every domain. Only the always-on island, RSTATE and the enabled wake detectors remain; what a WAKE
reset keeps is what P4 keeps. A wake event that came meanwhile wakes the device at once (R187). -/
def State.powerOff (s : State) : State :=
  let cause := s.rd Reg.RST_RST_CAUSE
  let keep := [Reg.PMU_WAKE_CFG, Reg.PMU_WAKE_TIMER, Reg.PMU_WAKE_ID, Reg.PMU_WAKE_IDM].map fun a => (a, s.rd a)
  let w := s.park.wake
  let s := (s.endSession).resetAs Rst.WAKE false
  let s := (keep.foldl (fun (s : State) e => s.wr e.1 e.2) s).wr Reg.RST_RST_CAUSE cause
  let s := s.putF Reg.PMU_DEV_STAT 2 0 4
  let s := { s with
    boot := { s.boot with parked := true, pwrReq := false, railsWait := false }, park := { entered := s.clk.base } }
  match w with
  | some w => s.wake (w + 2 ^ 16)
  | none => s

/-- P4_ENTRY: at base tick `t` the PMU completes the entry requested, once nothing makes it wait. -/
def execP4Entry (t : Nat) (s : State) : Host.Outcome State Fault Refusal :=
  let s := s.tickTo t
  .next (if s.park.stage = 0 then s
  else if s.parkWaits then s.evt pmuPage 0
  else (if s.park.stage = 1 then s.parkStop else s).powerOff)

/-! ## Wake events (R160, R187) -/

/-- A wake event with WAKE_STAT `w`: in P4 it wakes the device; during P4 entry the first one is kept. -/
def State.wakeEvent (s : State) (w : Nat) : State :=
  if s.boot.parked then s.wake w
  else if s.park.stage ≠ 0 ∧ s.park.wake = none then { s with park := { s.park with wake := some w } }
  else s

/-- WAKE_PIN: at base tick `t` WAKE_N has been low for 10 µs. -/
def execWakePin (t : Nat) (s : State) : Host.Outcome State Fault Refusal :=
  let s := s.tickTo t
  .next (if s.bit Reg.PMU_WAKE_CFG 16 then s.wakeEvent 1 else s)

/-- WAKE_TIMER_EXPIRED: at base tick `t` WAKE_TIMER seconds have passed since P4 entry (DEDUCED). -/
def execWakeTimerExpired (t : Nat) (s : State) : Host.Outcome State Fault Refusal :=
  let s := s.tickTo t
  .next (if s.boot.parked ∧ s.bit Reg.PMU_WAKE_CFG 17 ∧ s.park.entered + 400000000 * s.rd Reg.PMU_WAKE_TIMER ≤ s.clk.base then s.wakeEvent 2 else s)

/-- CAN_WAKE_FRAME: at base tick `t` controller `n` sees a wake-up pattern (`kind` 0) or a frame that is no CAN XL frame (`kind` 1), with
identifier `id` in bits 28:0 and bit 29 for an extended one. CAN XL frames (`kind` 2) are no wake frames. -/
def execCanWakeFrame (n kind id t : Nat) (s : State) : Host.Outcome State Fault Refusal :=
  let s := s.tickTo t
  let m := s.rd Reg.PMU_WAKE_IDM
  .next (if n < 16 ∧ s.bit Reg.PMU_WAKE_CFG n
      ∧ (if s.bit Reg.PMU_WAKE_CFG 18 then kind = 1 ∧ id &&& m = s.rd Reg.PMU_WAKE_ID &&& m else kind = 0) then s.wakeEvent (3 + n * 256)
  else s)

end Sys2Proof.Machine
end

