-- ==== Sys2Proof/Machine/Access.lean ====
section
/-! DEFINITION. Register accesses as a whole (R43 to R59, R65 to R72): what a write or a read of each register does beyond its access codes,
and the accesses of 1, 2, 4 and 8 bytes built from them. -/

namespace Sys2Proof.Machine

/-- Index of an offset in an array of registers. -/
def idxOf (off base stride cnt : Nat) : Option Nat :=
  if base ≤ off ∧ (off - base) % stride = 0 ∧ (off - base) / stride < cnt then some ((off - base) / stride) else none

/-- A field that only heartwood may write (R173, R533): any other world counts WORLD. -/
def State.heartOnly (s : State) (req : Requester) (a : Nat) (f : State → State) : State :=
  if s.world req then f s else s.quiet req a Cause.WORLD

/-- RESERVED_ENC without effect where `bad`. -/
def State.unlessBad (s : State) (req : Requester) (a : Nat) (bad : Bool) (f : State → State) : State :=
  if bad then s.quiet req a Cause.RESERVED_ENC else f s

/-! ## Writes, block by block: `a` is the address, `off` its offset, `i` its instance and `v` the word -/

/-- The perturbation window (R670 to R684). -/
def State.writeWindow (s : State) (req : Requester) (a v : Nat) : State :=
  let page := pageOf a
  if a = Reg.PT_CTL page then s.writePtCtl page v
  else if a = Reg.PT_FORCE page then s.writeForce req page v
  else if a = Reg.PT_STALL_LEN page then
    s.unlessBad req a (decide (0 < v % 65536) && decide (s.rd (Reg.PT_STALL_PER page) ≤ v % 65536)) fun s => (s.regStore req a v).windowSync page
  else if a = Reg.PT_STALL_PER page then
    s.unlessBad req a (decide (0 < s.getF (Reg.PT_STALL_LEN page) 15 0) && decide (v ≤ s.getF (Reg.PT_STALL_LEN page) 15 0)) fun s =>
      (s.regStore req a v).windowSync page
  else (s.regStore req a v).windowSync page

def State.writeSYS (s : State) (req : Requester) (a v : Nat) : State :=
  let t := s.regStore req a v
  if a = Reg.SYS_FUNC_LOST then t.lvl (pageAddr Blk.SYS 0) 0 (decide (t.rd a ≠ 0))
  else if a = Reg.SYS_AERR_INFO then t.lvl (pageAddr Blk.SYS 0) 1 (t.bit a 31)
  else if a = Reg.SYS_SCOPE_PERMIT then t.permitWritten s
  else t

def State.writeANGLE (s : State) (req : Requester) (a off v : Nat) : State :=
  if a = Reg.ANGLE_CTL then (s.regStore req a v).angleCtl (s.rd a)
  else if a = Reg.ANGLE_PRED_CTL then s.writePredCtl req v
  else if a = Reg.ANGLE_LOG_POP then s.popAngLog v
  else match (List.range 7).find? (fun i => srcCfg i == a), idxOf off 0x400 16 64, (List.range 3).find? (fun d => Reg.ANGLE_DOM_CFG d == a || Reg.ANGLE_DOM_ALT d == a) with
    | some i, _, _ => (s.regStore req a v).srcConfigured i
    | none, some n, _ => s.writeAlarm req n v
    | none, none, some d => (s.regStore req a v).domNamed d (s.primary 0)
    | none, none, none => s.regStore req a v

def State.writeTHERM (s : State) (req : Requester) (a v : Nat) : State :=
  if a = Reg.THERM_TRIP_CLR then s.heartOnly req a fun s => s.tripClear req v
  else if a = Reg.THERM_COOL_IN then s.coolInWritten (s.rd a) v
  else if a = Reg.THERM_HEAD_CFG then
    s.unlessBad req a (decide (fld v 15 8 ≤ fld v 7 0)) fun s => (s.regStore req a v).thermSync
  else (s.regStore req a v).thermSync

def State.writeLEDGER (s : State) (req : Requester) (a off v : Nat) : State :=
  match idxOf off 0x140 4 16 with
  | some p => s.writeShareReg req p v
  | none => s.regStore req a v

def State.writeSEC (s : State) (req : Requester) (a v : Nat) : State :=
  if a = Reg.SEC_HART_WORLD then
    if s.bit (pageOf a + Hdr.PAGE_LOCK) 0 then s.regStore req a v else s.writeHartWorld req v
  else if a = Reg.SEC_HART_HOLD then s.writeHold v
  else s.regStore req a v

/-- R231: a heartwood write of DENY refuses new sessions until reset. -/
def State.writeDBG (s : State) (req : Requester) (a v : Nat) : State :=
  let s := s.regStore req a v
  if a = Reg.DBG_DBG_CTL ∧ s.bit a 0 ∧ s.world req then { s with dbg := { s.dbg with denied := true } } else s

/-- R204, R206: regions of a checker; TMODE is reserved where no ticket office stands behind it. -/
def State.writeRCHK (s : State) (req : Requester) (a i off v : Nat) : State :=
  let n := (off - 0x100) / 16
  if n < 32 ∧ (a = Reg.RCHK_BASE i n ∨ a = Reg.RCHK_LIMIT i n) then
    s.unlessBad req a (s.bit (Reg.RCHK_ATTR i n) 0) fun s => s.regStore req a v
  else if n < 32 ∧ a = Reg.RCHK_ATTR i n ∧ !((decide (8 ≤ i) && decide (i < 24)) || (decide (25 ≤ i) && decide (i < 33))) then
    s.regStore req a (v &&& 0xFFFFFF7F)
  else s.regStore req a v

/-- R201: message areas, RING and ACK of a mailbox. -/
def State.writeXMB (s : State) (req : Requester) (a i off v : Nat) : State :=
  if a = Reg.XMB_S2H_CTL i then s.ringXmb i false v
  else if a = Reg.XMB_H2S_CTL i then s.ringXmb i true v
  else if a = Reg.XMB_S2H_ACK i then s.ackXmb i false v
  else if a = Reg.XMB_H2S_ACK i then s.ackXmb i true v
  else if (0x100 ≤ off ∧ off < 0x140 ∧ s.bit (xmbCtl i false) 0) ∨ (0x180 ≤ off ∧ off < 0x1C0 ∧ s.bit (xmbCtl i true) 0) then s.xmbBusy i
  else s.regStore req a v

def State.writeSAFE (s : State) (req : Requester) (a off v : Nat) : State :=
  if a = Reg.SAFE_FAULT_OUT then (s.regStore req a v).faultSync
  else if a = Reg.SAFE_ESCALATE then (if v = 0x5346 then s.resetNow Rst.SAFETY else s.quiet req a Cause.RESERVED_ENC)
  else if a = Reg.SAFE_SELFTEST then s.heartOnly req a fun s => s.writeSelftest v
  else if a = Reg.SAFE_RESTORE then s.heartOnly req a fun s => s.writeRestore req v
  else if a = Reg.SAFE_CNT_CLR then s.writeCntClr v
  else if a = Reg.SAFE_LATENT_LO then s.writeLatent false v
  else if a = Reg.SAFE_LATENT_HI then s.writeLatent true v
  else if a = Reg.SAFE_INF_LOG_POP then s.popInfLog v
  else match idxOf off 0x240 4 8 with
    | some k => s.writeRmon req a (k / 2) v
    | none => s.regStore req a v

def State.writeRING (s : State) (req : Requester) (a i v : Nat) : State :=
  if a = Reg.RING_SQ_TAIL i then s.writeSqTail req i v
  else if a = Reg.RING_CQ_HEAD i then s.writeCqHead req i v
  else if a = Reg.RING_DOORBELL i then (if v.testBit 0 then s.addCredit i else s)
  else if a = Reg.RING_CTL i ∨ a = Reg.RING_SQ_BASE_LO i ∨ a = Reg.RING_SQ_BASE_HI i ∨ a = Reg.RING_SQ_SIZE i
      ∨ a = Reg.RING_CQ_BASE_LO i ∨ a = Reg.RING_CQ_BASE_HI i ∨ a = Reg.RING_CQ_SIZE i then s.writeRingCfg req a i v
  else s.regStore req a v

def State.writePART (s : State) (req : Requester) (a p off v : Nat) : State :=
  if a = Reg.PART_RESIZE p then s.writeResize req p v
  else if off = 0x010 ∨ (0x104 ≤ off ∧ off < 0x138) then s.writePartNext req a v
  else match idxOf off 0x400 4 128 with
    | some k => s.writeOwner req p (k / 2) (k % 2) v
    | none => s.regStore req a v

def State.writeDISP (s : State) (req : Requester) (a v : Nat) : State :=
  if a = Reg.DISP_CANCEL then s.heartOnly req a fun s => s.writeCancel v
  else if a = Reg.DISP_ACCT_SEL then s.writeAcctSel v
  else s.regStore req a v

def State.writeGROVE (s : State) (req : Requester) (a g v : Nat) : State :=
  if a = Reg.GROVE_MOP_GO g then s.writeMopGo req g v
  else if a = Reg.GROVE_CLEAR_GO g then s.writeClearGo req g v
  else s.regStore req a v

/-- A ticket office: `off` is the offset as TICKET numbers it. -/
def State.writeOffice (s : State) (req : Requester) (a k off v : Nat) : State :=
  if off = 0x104 then s.writeArm k v
  else if off = 0x10C then (s.regStore req a v).landedSync k
  else match idxOf off 0x180 4 32 with
    | some w => if w % 2 = 0 then s.writeWinBase req k (w / 2) v else s.writeWinCtl req k (w / 2) v
    | none => s.regStore req a v

def State.writeFERRY (s : State) (req : Requester) (a f v : Nat) : State :=
  if a = Reg.FERRY_CTL f then s.writeFerryCtl req f v
  else if a = Reg.FERRY_Q_PUSH f then s.writeQPush req f v
  else s.regStore req a v

def State.writeDMC (s : State) (req : Requester) (a x v : Nat) : State :=
  if a = Reg.DMC_CTL x then (s.regStore req a v).dmcCtl x (s.bit a 5)
  else if a = Reg.DMC_DRAM_CFG x then (s.regStore req a v).dmcCfg x
  else s.regStore req a v

def State.writeFDIG (s : State) (req : Requester) (a c v : Nat) : State :=
  if a = Reg.FDIG_CTL c then s.writeFdigCtl req c v
  else if a = Reg.FDIG_INPUT c ∨ a = Reg.FDIG_OFFSET c then s.writeFdigInput req c a v
  else s.regStore req a v

def State.writeSENSE (s : State) (req : Requester) (a g v : Nat) : State :=
  if a = Reg.SENSE_URG g then s.writeUrg req g v
  else if 4 ≤ g then s.regStore req a v
  else if a = Reg.SENSE_CTL g then (s.regStore req a v).senseCtl g (s.rd a)
  else if a = Reg.SENSE_GAIN g then s.writeGain req g v
  else if a = Reg.SENSE_SEQ_COMMIT g then s.writeCommit req g v
  else s.regStore req a v

def State.writeTRIG (s : State) (req : Requester) (a c v : Nat) : State :=
  if a = Reg.TRIG_FORCE c then s.writeForceTrig c v else s.writeTrigReg req c a v

def State.writeBERTH (s : State) (req : Requester) (a off v : Nat) : State :=
  let p := (off - 0x100) / 0x80
  if off < 0x100 ∨ 0x200 ≤ off then s.regStore req a v
  else if a = Reg.BERTH_ARM p then s.writeBerthArm req p v
  else s.writeBerthReg req p (off % 0x80) a v

/-- Threads, chime lanes and streams of WSEQ_00 (R527, R533, R539). -/
def State.writeWseqUnits (s : State) (req : Requester) (a off v : Nat) : State :=
  if off < 0x380 then
    let h := (off - 0x300) / 0x20
    if a = Reg.WSEQ_THR_CTL h then s.writeThrCtl h v
    else if a = Reg.WSEQ_THR_PC h then s.unlessBad req a (s.bit (Reg.WSEQ_THR_CTL h) 0) fun s => s.regStore req a v
    else if a = Reg.WSEQ_THR_CHMASK h then
      s.unlessBad req a (s.bit (Reg.WSEQ_THR_CTL h) 0
        || (List.range 4).any fun o => decide (o ≠ h) && decide (s.getF (Reg.WSEQ_THR_CHMASK o) 15 0 &&& v ≠ 0)) fun s => s.regStore req a v
    else s.regStore req a v
  else if off < 0x400 then
    let l := (off - 0x380) / 0x20
    s.heartOnly req a fun s =>
      if a = Reg.WSEQ_CHL_START l then s.writeChimeStart req l v
      else if a = Reg.WSEQ_CHL_STOP l then (if v.testBit 0 then s.laneRelease l else s)
      else (s.regStore req a v).lanesSync
  else
    let k := (off - 0x400) / 0x20
    if a = Reg.WSEQ_STRM_CFG k then s.writeStrmCfg req k v
    else if a = Reg.WSEQ_STRM_BASE_LO k ∨ a = Reg.WSEQ_STRM_BASE_HI k ∨ a = Reg.WSEQ_STRM_SIZE k then s.writeStrmRing req k a v
    else s.regStore req a v

def State.writeWSEQ (s : State) (req : Requester) (a off v : Nat) : State :=
  if a = Reg.WSEQ_CTL then (s.regStore req a v).chansSync
  else if a = Reg.WSEQ_MEM_DATA then s.writeMemData req v
  else if a = Reg.WSEQ_LD_GO then s.writeLdGo req v
  else if a = Reg.WSEQ_LINE_SW then s.each ((List.range 16).filter fun l => v.testBit l) fun s l => s.linePulse l s.clk.base
  else if a = Reg.WSEQ_CHIME_CFG then s.heartOnly req a fun s => s.writeChimeCfg req v
  else if a = Reg.WSEQ_TSET_PERIOD 0 ∨ (0x800 ≤ off ∧ off < 0x880) then s.heartOnly req a fun s => s.regStore req a v
  else if 0x300 ≤ off ∧ off < 0x480 then s.writeWseqUnits req a off v
  else match idxOf off 0x200 8 16, idxOf off 0x280 4 16 with
    | some j, _ => s.writeChanCfg req j v
    | none, some j => (s.regStore req a v).gainWritten j
    | none, none => s.regStore req a v

def State.writePROT (s : State) (req : Requester) (a v : Nat) : State :=
  if a = Reg.PROT_CLR then s.writeClr req v
  else if a = Reg.PROT_FORCE_HOLD then (s.regStore req a v).gateSync false
  else if a = Reg.PROT_LOG_POP then s.popProtLog v
  else (s.regStore req a v).lanesSync

def State.writeALE (s : State) (req : Requester) (a n off v : Nat) : State :=
  if a = Reg.ALE_CTL n then s.writeAleCtl req n v
  else if a = Reg.ALE_WAKE_CFG n then s.writeWakeCfg req n v
  else if a = Reg.ALE_DONE n then s.writeDone n v
  else if a = Reg.ALE_EXP_PUSH n then s.writeExpPush req n v
  else if a = Reg.ALE_CSET_CTL n then s.writeCsetCtl req n v
  else if 0x200 ≤ off ∧ off < 0x340 then s.writeOffice req a (16 + n) (off - 0x100) v
  else if n ≠ 0 then s.regStore req a v
  else match idxOf off 0x404 4 4, idxOf off 0x430 4 4 with
    | some d, _ => s.writeTkCfg req d v
    | none, some g => s.writeSnsRoute req g v
    | none, none => s.regStore req a v

def State.writeAPORT (s : State) (req : Requester) (a p off v : Nat) : State :=
  if a = Reg.APORT_CTL p then s.writeAportCtl req p v
  else match idxOf off 0x100 4 32 with
    | some k => s.writeAportRoute req p k v
    | none => s.regStore req a v

def State.writeCAM (s : State) (req : Requester) (a p off v : Nat) : State :=
  let k := (off - 0x100) / 0x40
  if a = Reg.CAM_CTL p then s.writeCamCtl req p v
  else if off < 0x100 ∨ 0x200 ≤ off then s.regStore req a v
  else if a = Reg.CAM_SEL p k then s.writeCamSel req p k v
  else if a = Reg.CAM_RD p k then s.writeCamRd req p k v
  else s.writeCamStr req p k a v

def State.writeVOUT (s : State) (req : Requester) (a v off x : Nat) : State :=
  if a = Reg.VOUT_CTL v then s.writeVoutCtl req v x
  else if a = Reg.VOUT_FLIP v then s.writeFlip v x
  else if a = Reg.VOUT_AUX_CMD v then s.writeAux req v x
  else if 0x100 ≤ off ∧ !voutLive off then s.writeVoutReg req v a x
  else s.regStoreBut req a x (s.layerReserved v a x)

/-- `ext` are the bytes that a host ring outside the device returns. -/
def State.writeGW (s : State) (req : Requester) (a v : Nat) (ext : List Byte) : State :=
  if a = Reg.GW_CTL then s.writeGwCtl req v
  else if a = Reg.GW_TBL_DATA then s.writeTblData req v
  else if a = Reg.GW_INSP_VERDICT then s.writeVerdict req v
  else if a = Reg.GW_TX_CTL then s.writeTxCtl v
  else if a = Reg.GW_TX_DATA then s.setGw fun g => { g with tx := (g.tx ++ leBytes 4 v).take 4096 }
  else if a = Reg.GW_HOST_CTL then s.writeHostCtl req v
  else if a = Reg.GW_HTX_TAIL then State.htxRun ext 4096 0 (s.regStore req a v)
  else s.regStore req a v

def State.writeETH (s : State) (req : Requester) (a p v : Nat) : State :=
  if a = Reg.ETH_CTL p then s.writeEthCtl req p v
  else if a = Reg.ETH_QBV_CTL p then s.writeQbvCtl req p v
  else if a = Reg.ETH_PTP_CFG p then s.writePtpCfg req p v
  else s.regStore req a v

def State.writeCANX (s : State) (req : Requester) (a n v : Nat) : State :=
  if a = Reg.CANX_CTL n then s.writeCanCtl req n v
  else if a = Reg.CANX_NBT n ∨ a = Reg.CANX_DBT n ∨ a = Reg.CANX_XBT n ∨ a = Reg.CANX_TDC n then s.writeCanTiming req n a v
  else s.regStore req a v

def State.writeRLINK (s : State) (req : Requester) (a p v : Nat) : State :=
  if a = Reg.RLINK_CTL p then (s.regStore req a v).rlinkApply p (s.rd a)
  else if a = Reg.RLINK_FAB_CTL then s.writeFabCtl req v
  else s.regStore req a v

def State.writePERTURB (s : State) (req : Requester) (a v : Nat) : State :=
  if a = Reg.PERTURB_CTL then s.heartOnly req a fun s => s.writePerturbCtl req v
  else (s.regStore req a v).permitSync

/-- A write of `v` to a block register at `a` that passed the checks. -/
def State.writeBlock (s : State) (req : Requester) (a v : Nat) (ext : List Byte) : State :=
  let i := regInst a
  let off := regOff a
  match regCode a with
  | 0x00 => s.writeSYS req a v
  | 0x01 => s.writeANGLE req a off v
  | 0x02 => if a = Reg.PMU_PARK then s.writePark req v else s.regStore req a v
  | 0x03 => s.writeTHERM req a v
  | 0x04 => if a = Reg.RST_STAGE_CTL then s.writeStageCtl req v else if a = Reg.RST_SWRST then s.writeSwrst req v else s.regStore req a v
  | 0x05 => if a = Reg.RSTATE_STOW_CTL then s.writeStowCtl req v else s.regStore req a v
  | 0x06 => s.writeSEC req a v
  | 0x09 => s.writeDBG req a v
  | 0x07 => s.writeRCHK req a i off v
  | 0x08 => s.writeXMB req a i off v
  | 0x0A => s.writePART req a i off v
  | 0x0B => s.writeRING req a i v
  | 0x0C => s.writeDISP req a v
  | 0x0D => s.writeGROVE req a i v
  | 0x0F => s.writeFERRY req a i v
  | 0x11 => s.writeOffice req a i off v
  | 0x12 => s.writeSAFE req a off v
  | 0x13 => s.writeDMC req a i v
  | 0x14 => s.writeFDIG req a i v
  | 0x15 => s.writeTRIG req a i v
  | 0x16 => s.writeBERTH req a off v
  | 0x17 => s.writeSENSE req a i v
  | 0x18 => s.writePROT req a v
  | 0x19 => s.writeWSEQ req a off v
  | 0x1A => s.writeALE req a i off v
  | 0x1B => s.writeAPORT req a i off v
  | 0x1C => s.writeCAM req a i off v
  | 0x1D => s.writeVOUT req a i off v
  | 0x1E => s.writeETH req a i v
  | 0x1F => s.writeCANX req a i v
  | 0x20 => s.writeGW req a v ext
  | 0x21 => s.writeRLINK req a i v
  | 0x23 => s.writeLEDGER req a off v
  | 0x24 => s.writePERTURB req a v
  | _ => s.regStore req a v

/-- A write of `v` to the register at `a` that passed the checks: header (R72), window or block register. -/
def State.writeReg (s : State) (req : Requester) (a v : Nat) (ext : List Byte) : State :=
  let off := regOff a
  if off = Hdr.PAGE_LOCK then s.lockPage req (pageOf a) v
  else if off = Hdr.WORLD then s.writeWorld req (pageOf a) v
  else if off = Hdr.IRQ_FORCE then s.forceIrq (pageOf a) v
  else if off = Hdr.IRQ_EN ∨ off = Hdr.IRQ_PEND then s.regStore req a v
  else if 0xF00 ≤ off then s.writeWindow req a v
  else s.writeBlock req a v ext

/-! ## Reads -/

/-- What a read of a register does before it returns its value. -/
def State.beforeRead (s : State) (a : Nat) : State :=
  let i := regInst a
  if a = Reg.ANGLE_TIME_LO then s.wr Reg.ANGLE_TIME_HI s.ang.timeHi
  else if regCode a = Blk.TRIG ∧ a = Reg.TRIG_POS_LO i then
    let x := s.trig i
    ((s.wr (Reg.TRIG_POS_HI i) (x.pos / 2 ^ 32)).wr (Reg.TRIG_TTIME_LO i) (x.ttime % 2 ^ 32)).wr (Reg.TRIG_TTIME_HI i) (x.ttime / 2 ^ 32)
  else if regCode a = Blk.VOUT ∧ a = Reg.VOUT_FLIP_T_LO i then s.latchFlip i
  else if a = Reg.DBG_SESSION then s.sessionSync
  else if regCode a = Blk.FERRY ∧ a = Reg.FERRY_STAT i then s.ferryOpen i
  else if regCode a = Blk.CORE ∧ (a = Reg.CORE_BUSY_CYC i ∨ a = Reg.CORE_STALL_CYC i) then s.countCycles i
  else if a = Reg.RST_RLINK_HINT then s.wr a s.retryHint
  else s

/-- A read of the register at `a` that passed the checks: the response holds its four bytes. `ecc` is the ECC result of a data port's
word. -/
def State.readReg (s : State) (a ecc : Nat) : State :=
  if a = Reg.WSEQ_MEM_DATA then s.readMemData ecc
  else if a = Reg.GW_TBL_DATA then s.readTblData ecc
  else if a = Reg.GW_INSP_DATA then s.readInspData
  else
    let r := (s.beforeRead a).regRead a
    r.2.respOk (leBytes 4 r.1)

/-! ## Accesses (R48) -/

/-- A write of one 32-bit word, with the checks. -/
def State.write32 (s : State) (req : Requester) (a v : Nat) (ext : List Byte) : State :=
  s.checkedWrite req a 4 fun s => s.writeReg req a (v % 2 ^ 32) ext

/-- A read of `size` bytes, at most 4, with the checks: the bytes of the register it lies in. -/
def State.read32 (s : State) (req : Requester) (a size ecc : Nat) : State :=
  s.checkedRead req a size fun s =>
    let s := s.readReg (a / 4 * 4) ecc
    s.respOk ((s.resp.data.drop (a % 4)).take size)

/-- The response of two halves of a 64-bit access. -/
def joinResp (x y : Resp) : Resp :=
  { data := x.data ++ y.data, err := x.err || y.err, cause := if x.err then x.cause else y.cause }

/-- R48: an access of `size` bytes to a register page. A 64-bit access is two 32-bit accesses, the lower offset first; a size that no
rule names completes with an error response, as a misaligned access does. -/
def State.regAccess (s : State) (req : Requester) (a size : Nat) (write : Bool) (v ecc : Nat) (ext : List Byte) : State :=
  if size = 8 ∧ a % 8 = 0 then
    if write then
      let s := s.write32 req a v ext
      let r := s.resp
      let s := s.write32 req (a + 4) (v / 2 ^ 32) ext
      { s with resp := joinResp r s.resp }
    else
      let s := s.read32 req a 4 ecc
      let r := s.resp
      let s := s.read32 req (a + 4) 4 ecc
      { s with resp := joinResp r s.resp }
  else if size = 4 ∧ write then s.write32 req a v ext
  else if (size = 1 ∨ size = 2 ∨ size = 4) ∧ !write then s.read32 req a size ecc
  else if write then s.checkedWrite req a size id
  else s.checkedRead req a size id

/-- REGISTER_WRITE: a write of `size` bytes of `value` to the register region; `ext` are the bytes that a host ring outside the device returns
where the write starts its reading (R628). The access crosses the mesh (R338, R340). -/
def execRegisterWrite (req : Requester) (addr size value : Nat) (ext : List Byte) (s : State) : Host.Outcome State Fault Refusal :=
  .next (if targetOf addr = .regs then (s.regAccess req addr size true value 0 ext).meshCrossed (s.access req addr size true []) false else s)

/-- READ_CLEAR: a read of `size` bytes of the register region, whose RC fields clear (R65, R70); `ecc` is the ECC result of a data port's
word. -/
def execReadClear (req : Requester) (addr size ecc : Nat) (s : State) : Host.Outcome State Fault Refusal :=
  .next (if targetOf addr = .regs then (s.regAccess req addr size false 0 ecc []).meshCrossed (s.access req addr size false []) false else s)

end Sys2Proof.Machine
end

