-- ==== Sys2Proof/Machine/Cooling.lean ====
section
/-! DEFINITION. The cooling request (R178). -/

namespace Sys2Proof.Machine

/-- R178: H × 255, rounded down; H is HEADROOM, in 1/256. -/
def State.headByte (s : State) : Nat := s.headCode * 255 / 256

/-- R178: T_hot + 40 °C, saturating at 0 and 255; free where no sensor reads. -/
def State.hotByte (s : State) : Nat × State :=
  match s.hottest with
  | none => s.fresh 8
  | some k => ((max 0 (min 255 (s.temp k / 8 + 40))).toNat, s)

/-- R178: the 8-byte payload. -/
def State.coolPayload (s : State) (hot : Nat) : List Byte :=
  let power := ((List.range 27).map fun d => s.getF (Reg.PMU_DOM_PWR d) 15 0).sum / 10
  leBytes 1 (s.therm.msg % 16 + s.urgency * 16) ++ leBytes 1 hot ++ leBytes 1 (s.getF Reg.THERM_COOL_REQ 7 0 + 40)
    ++ leBytes 1 (s.getF Reg.THERM_COOL_STAT 7 0) ++ leBytes 1 (s.getF Reg.THERM_COOL_STAT 15 8) ++ leBytes 1 s.headByte ++ leBytes 2 power

/-- COOLING_REQUEST: at base tick `t` PERIOD × 10 ms have passed since the last request, or URGENCY has changed (R178). -/
def execCoolingRequest (t : Nat) (s : State) : Host.Outcome State Fault Refusal :=
  let s := s.tickTo t
  .next (if s.aEntry ∧ s.bit Reg.THERM_COOL_CFG 3
      ∧ (s.therm.due ∨ s.therm.reqAt + 4000000 * s.getF Reg.THERM_COOL_CFG 15 8 ≤ s.clk.base) then
    let h := s.hotByte
    let d := h.2.coolPayload h.1
    let s := { h.2 with therm := { h.2.therm with msg := (h.2.therm.msg + 1) % 16, reqAt := h.2.clk.base, due := false } }
    (s.originate 22 (s.getF Reg.THERM_COOL_CFG 26 16) d).2
  else s)

end Sys2Proof.Machine
end

