-- ==== Sys2Proof/Machine/Memory.lean ====
section
/-! DEFINITION. Accesses of requesters to the whole physical map (R39, R158, R314, R336 to R343, R355, R356), requests that were held, mesh
timeouts, waiting senders (R320, R348, R574) and the debug module interface (R213 to R216). -/

namespace Sys2Proof.Machine

/-- An access at its target: a register page (R48, R49), with every effect of the register, or a memory. -/
def State.atTarget (s : State) (a : Access) (loc cacheable : Bool) (env : MemEnv) : Carried × State :=
  if targetOf a.addr = .regs then
    let s := (s.regAccess a.req a.addr a.len a.write (leNat a.data) env.ecc env.ext).meshCrossed a loc
    (if s.resp.err then .err s.resp.cause false else .ok s.resp.data, s)
  else s.serve a loc cacheable env

/-- R338, R355: an access crosses the mesh and is served. -/
def State.carry (s : State) (a : Access) (loc cacheable : Bool) (env : MemEnv) : Carried × State :=
  s.cross a loc env fun s => s.atTarget a loc cacheable env

/-- The response a requester sees: `n` bytes of a read. -/
def State.respond (s : State) (n : Nat) : Carried → State
  | .ok d => s.respOk d
  | .err c _ => s.respErr c n
  | _ => s

/-- R313, R563: an access that stays within its grove or its core. -/
def Access.isLocal (a : Access) : Bool :=
  match a.req, targetOf a.addr with
  | .block c i, .tcm n => c == Blk.ALE && i == n
  | .block c i, .store g => c == Blk.GROVE && i == g
  | _, _ => false

/-- An access joins those that wait; `back` is where its answer goes. -/
def State.hold (s : State) (a : Access) (cacheable : Bool) (back : Back) : State :=
  { s with held := s.held ++ [.access a cacheable back s.clk.base] }

/-- An access of a requester: it waits its turn (R308, R343, R344, R443), or is served, held by its target, or sent on. -/
def State.memAccess (s : State) (a : Access) (cacheable : Bool) (env : MemEnv) : State :=
  if s.mustWait a then s.hold a cacheable .here
  else
    let r := s.carry a a.isLocal cacheable env
    (if r.1 = .held then r.2.hold a cacheable .here else r.2).respond (if a.write then 0 else a.len) r.1

/-- MEMORY_ACCESS: `req` reads, fetches or writes `len` bytes. -/
def execMemoryAccess (req : Requester) (addr len : Nat) (write fetch : Bool) (data : List Byte) (cacheable : Bool) (tkt : Option Nat)
    (env : MemEnv) (s : State) : Host.Outcome State Fault Refusal :=
  .next (s.memAccess { s.access req addr len (write && !fetch) data with fetch := fetch, tkt := tkt } cacheable env)

/-- REMOTE_WRITE: `req` writes `data` to a grove store or an ALE TCM (R313, R314). -/
def execRemoteWrite (req : Requester) (addr : Nat) (data : List Byte) (tkt : Option Nat) (env : MemEnv) (s : State) :
    Host.Outcome State Fault Refusal :=
  .next (match officeOf addr with
    | some k => if k < 24 then s.memAccess { s.access req addr data.length true data with tkt := tkt } false env else s
    | none => s)

/-! ## Answers to the fabric (R641, R651, R652) -/

/-- Send an answer to the node that a request came from. -/
def State.fabAnswer (s : State) (m : Remote) (kind status : Nat) (poison : Bool) (words : List Nat) (len : Nat) : State :=
  let p := if s.nodeKnown m.node then s.routeTo m.node else m.port
  if s.portUp p then s.sendPacket p kind ([m.node, s.nodeId, status * 16 + poison.toNat * 2, m.src, m.tag] ++ words) len
  else if p < 4 then s.cnt (Reg.RLINK_NOROUTE_CNT p) else s

/-- The completion of an access from the fabric. -/
def State.fabComplete (s : State) (m : Remote) (write : Bool) : Carried → State
  | .ok d => s.fabAnswer m (if write then Pkt.WRA else Pkt.RDC) 0 false (d.map fun (b : Byte) => b.toNat) d.length
  | .err _ p => s.fabAnswer m (if write then Pkt.WRA else Pkt.RDC) 1 p [] 0
  | _ => s

/-- The answer to a held request, once served, goes to whoever waits for it. -/
def State.giveAnswer (s : State) (a : Access) (back : Back) (c : Carried) : State :=
  match back with
  | .here => s.respond (if a.write then 0 else a.len) c
  | .fabric m => s.fabComplete m a.write c
  | .nobody => s

/-! ## Held requests -/

/-- The answer to a ticket request that was held goes to whoever waits for it. -/
def State.giveTicket (s : State) (back : Back) (code tag : Nat) : State :=
  match back with
  | .here => s.respOk (leBytes 1 code ++ leBytes 1 tag)
  | .fabric m => s.fabAnswer m Pkt.TKT_ANS 0 false [code, tag] 0
  | .nobody => s

/-- HELD_ACCESS_SERVED: the held request of index `k` is served, where its turn has come and its target takes it (R158, R308, R328, R343,
R344, R443, R448). -/
def execHeldAccessServed (k : Nat) (env : MemEnv) (s : State) : Host.Outcome State Fault Refusal :=
  .next (match s.held[k]? with
    | none => s
    | some h =>
      if !s.mayServe k h then s
      else match h with
        | .access a cacheable back _ =>
          let r := { s.picked a with held := s.held.eraseIdx k }.carry a a.isLocal cacheable env
          if r.1 = .held then s else r.2.giveAnswer a back r.1
        | .ticket o a off len back =>
          if s.officeHolds o then s
          else
            let r := { s with held := s.held.eraseIdx k }.ticketRequest o a off len false
            r.2.2.giveTicket back r.1 r.2.1)

/-! ## Timeouts (R356) -/

/-- A held request of a requester whose transaction has timed out has nobody left to answer. -/
def Held.orphan (req : Requester) (addr len : Nat) : Held → Held
  | .access a c b t => .access a c (if a.req = req ∧ addr ≤ a.addr ∧ a.addr < addr + len then .nobody else b) t
  | .ticket o a f l b => .ticket o a f l b

/-- The issuer's stop counts a timeout; responses still to come are discarded. -/
def State.timedOut (s : State) (req : Requester) (addr len : Nat) : State :=
  let s := (s.meshTimeout (stopOf req)).dropAcks req addr len
  let l := s.fab.reqs.map fun (r : FabReq) => if r.acc.req = req ∧ addr ≤ r.acc.addr ∧ r.acc.addr < addr + len then { r with late := true } else r
  { s with fab := { s.fab with reqs := l }, held := s.held.map (Held.orphan req addr len) }

/-- R303, R356: a core transfer that times out faults its rank. -/
def State.coreTimeout (s : State) (c off : Nat) : State :=
  match s.running c with
  | none => s
  | some o => match o.rank.xfers.find? fun x => x.off == off with
    | none => s
    | some x =>
      let f := 2 * coreGrove c + (!x.load).toNat
      let s := s.timedOut (.block Blk.FERRY f) x.addr (cb x.cmd 20 4)
      if x.load then
        let s := (s.ferryErr f x.addr).xferGone o off
        if o.rank.st = RankSt.stopped then s else s.coreFault o off CF.XFER_ERR
      else s.storeFail o x

/-- R514: the copy of a completed berth of program `p` fails. -/
def State.copyTimeout (s : State) (p : Nat) : State := if (s.prog p).copying.isSome then s.copyFail p else s

/-- R608: the oldest frame of port `p` with writes that wait loses them. -/
def State.camTimeout (s : State) (p : Nat) : State :=
  match (List.range 4).find? fun k => (s.camStr p k).ended.any (fun f => !f.buf.isEmpty) || (s.camStr p k).cur.any fun f => !f.buf.isEmpty with
  | none => s
  | some k =>
    let lose (f : CamFrame) : CamFrame := { f with buf := [], werr := true, flags := f.flags ||| 128 }
    (s.setCamStr p k fun (x : CamStr) => { x with
      ended := match x.ended with
        | f :: l => lose f :: l
        | [] => []
      cur := if x.ended = [] then x.cur.map lose else x.cur }).camWrErr p

/-- R356: the transaction of a block that has had no response ends in error, as any error response to it does. -/
def State.blockTimeout (s : State) (c i : Nat) : State :=
  if c = Blk.GW then s.hostFail
  else if c = Blk.WSEQ then (if i < 4 then s.streamFail i else if s.wseq.load.isSome then s.loadEnd 1 else s)
  else if c = Blk.RING then (if s.nextRing = some i then s.fetchFail i else s)
  else if c = Blk.SEC then s.secTimeout
  else if c = Blk.BERTH then s.copyTimeout i
  else if c = Blk.CAM then s.camTimeout i
  else if c = Blk.VOUT then s.fetchError i
  else s

/-- MESH_TIMEOUT: a transaction of `who` has had no response within TMO µs (R356). -/
def execMeshTimeout (who : Issuer) (s : State) : Host.Outcome State Fault Refusal :=
  .next (if !s.aEntry then s else match who with
    | .access req addr len => (s.timedOut req addr len).respErr 0 len
    | .core c off => s.coreTimeout c off
    | .ferry f addr =>
      match (s.ferry f).queue.head?, (s.ferry f).busy with
      | some q, true => ((s.timedOut (.block Blk.FERRY f) q.src q.len).ferryFail f addr FErr.TIMEOUT)
      | _, _ => s
    | .exporter n =>
      match (s.ale n).queue.head? with
      | some q => (s.timedOut (.block Blk.ALE n) q.dst q.len).expFail n ExpErr.TIMEOUT
      | none => s
    | .block c i =>
      let req := Requester.block c i
      ((s.timedOut req 0 (2 ^ 48)).blockTimeout c i))

/-! ## Senders that wait for a ticket -/

/-- TICKET_RETRY: at base tick `t` a sender repeats its request (R320, R348, R574). -/
def execTicketRetry (who : Sender) (t : Nat) (s : State) : Host.Outcome State Fault Refusal :=
  let s := s.tickTo t
  .next (match who with
    | .core c => s.coreRetry c
    | .ferry f => s.ferryRetry f
    | .ale n => s.expRetry n)

/-- TKT_WAIT_EXPIRED: at base tick `t` a sender has waited as long as it may (R320, R348, R574). -/
def execTktWaitExpired (who : Sender) (t : Nat) (s : State) : Host.Outcome State Fault Refusal :=
  let s := s.tickTo t
  .next (match who with
    | .core c => s.coreWaitExpired c
    | .ferry f => s.ferryWaitExpired f
    | .ale n => s.expWaitExpired n)

/-! ## The debug module interface (R213, R215, R216) -/

/-- R213, R215: a halt request takes effect at once on a hart whose cluster is in P0, else when the cluster gets there. -/
def State.requestHalt (s : State) (h : Nat) : State :=
  if !s.reachesHart h then s
  else if s.dom (16 + h / 4) = 0 then s.haltHart h
  else { s with harts := updAt s.harts h fun (H : Hart) => { H with haltReq := true } }

/-- A hart resumes, and a halt request that waits is withdrawn. -/
def State.resumeHart (s : State) (h : Nat) : State :=
  if s.reachesHart h then { s with harts := updAt s.harts h fun (H : Hart) => { H.resumed with haltReq := false } } else s

/-- DMI: `data` are the bits shifted where the instruction acts as BYPASS. -/
def execDmi (act : DmiAct) (data : List Byte) (s : State) : Host.Outcome State Fault Refusal :=
  .next (s.tapRun 0x11 data fun s =>
    match act with
    | .halt h => s.requestHalt h
    | .resume h => s.resumeHart h
    | .haltIsland p => s.haltPair p true
    | .resumeIsland p => s.haltPair p false
    | .sbaWorld b => s.setSbaWorld b
    | .sba addr len write d env => s.memAccess (s.access .debug addr len write d) false env
    | .reg h r write v => s.abstractReg h r write v
    | .trigger h k write v => s.abstractTrigger h k write v
    | .inspect p => s.inspectPair p
    | .dm a write v => s.dmReg a write v)

end Sys2Proof.Machine
end

