-- ==== Sys2Proof/Machine/FabData.lean ====
section
/-! DEFINITION. Data and ticket packets that arrive on a Rinjo Link port (R133, R641, R642, R646, R651, R652). -/

namespace Sys2Proof.Machine

/-- The header words of a packet, as `sendOut` writes them. -/
def headWords (h : FabHead) : List Nat :=
  [h.dst, h.src, h.world.toNat + h.poison.toNat * 2 + h.tkt.isSome.toNat * 4, h.req, h.tag, h.addr, h.len - 1, h.tkt.getD 0]

/-- Where the answer goes. -/
def headBack (h : FabHead) (p : Nat) : Remote := { port := p, node := h.src, src := h.req, tag := h.tag }

/-- R652: what tells the requester apart from others of its port. -/
def headVia (h : FabHead) : Nat := 1 + 0x10000 * h.src + h.req

/-- The type of the answer to a request, none for a packet that has none. -/
def answerKind (kind : Nat) : Option Nat :=
  if kind = Pkt.RD then some Pkt.RDC else if kind = Pkt.WR then some Pkt.WRA else if kind = Pkt.TKT_REQ then some Pkt.TKT_ANS else none

/-- R133, R642: requests, which a node that has not declared Stage C answers NOT_READY. -/
def isRequest (kind : Nat) : Bool := kind = Pkt.RD || kind = Pkt.WR || kind = Pkt.TKT_REQ || kind = Pkt.TKT_RET

/-- A packet of type `kind` with `len` data bytes arrives on port `p`: before declaration a request is answered NOT_READY; one for
another node goes on by the routing table, or is answered with STATUS ERROR where its port is down (R646); `eff` is what one for
this node does. `data` are its data words. -/
def State.fabArrive (s : State) (p kind : Nat) (h : FabHead) (data : List Nat) (eff : State → State) : State :=
  if 4 ≤ p ∨ !s.portUp p then s
  else
    let s := s.gotPacket p data.length
    if !s.answersFabric then
      if isRequest kind then s.sendPacket p Pkt.NOT_READY ([h.src, s.nodeId, 2 * 16, h.req, h.tag] ++ s.notReadyBody) 16 else s
    else if s.hasId ∧ h.dst = s.nodeId then eff s
    else
      let q := s.routeTo h.dst
      if s.hasId ∧ s.nodeKnown h.dst ∧ s.portUp q then s.sendPacket q kind (headWords h ++ data) data.length
      else
        let s := if q < 4 then s.cnt (Reg.RLINK_NOROUTE_CNT q) else s
        match answerKind kind with
        | some a => s.fabAnswer (headBack h p) a 1 false [] 0
        | none => s

/-- R651: the attributes of an access from the fabric. -/
def State.inbound (s : State) (p : Nat) (h : FabHead) (write : Bool) (data : List Byte) : Access :=
  { s.access (.rlink p) h.addr h.len write data with part := none, tkt := h.tkt, via := headVia h, cls := some 3 }

/-- R651: the targets that serve the fabric. -/
def State.servesFabric (s : State) (addr : Nat) : Bool :=
  match targetOf addr with
  | .store _ => true
  | .acq => true
  | .tcm _ => true
  | .dram => addr < 0x400000000
  | .regs => s.fab.remoteReg
  | _ => false

/-- R651: an access from the fabric is served, held, or refused with cause UNMAPPED. -/
def State.fabServe (s : State) (p : Nat) (h : FabHead) (a : Access) (env : MemEnv) : State :=
  if !s.servesFabric h.addr then (s.reqErr a.req a.heart a.addr Cause.UNMAPPED a.write).fabComplete (headBack h p) a.write (.err Cause.UNMAPPED false)
  else if h.poison ∧ a.write then s.fabComplete (headBack h p) true (.err 0 true)
  else if s.mustWait a then s.hold a false (.fabric (headBack h p))
  else
    let r := s.carry a false false env
    if r.1 = .held then r.2.hold a false (.fabric (headBack h p))
    else r.2.fabComplete (headBack h p) a.write r.1

/-- RD: a read arrives on port `p` at base tick `t`. -/
def execFabRd (p : Nat) (h : FabHead) (t : Nat) (env : MemEnv) (s : State) : Host.Outcome State Fault Refusal :=
  .next ((s.tickTo t).fabArrive p Pkt.RD h [] fun s => s.fabServe p h (s.inbound p h false []) env)

/-- WR: a write of `data` arrives on port `p` at base tick `t`. -/
def execFabWr (p : Nat) (h : FabHead) (data : List Byte) (t : Nat) (env : MemEnv) (s : State) : Host.Outcome State Fault Refusal :=
  .next ((s.tickTo t).fabArrive p Pkt.WR h (data.map fun (b : Byte) => b.toNat) fun s => s.fabServe p h (s.inbound p h true data) env)

/-! ## Completions -/

/-- A completion with STATUS `status` for the open request of its TAG: the requester gets its response; a block that waits for its write
sees an error when it completes the transfer; a response after a timeout is discarded (R356, R651). -/
def State.fabDone (s : State) (h : FabHead) (status : Nat) (data : List Byte) : State :=
  match s.openReq h.src h.tag with
  | none => s
  | some r =>
    if r.ticket then s
    else
      let s := if status = 0 ∧ !h.poison then s.closeReq r.port r.tag else s.failReq r.port r.tag
      match r.late, r.acc.req with
      | true, _ => s
      | false, .block _ _ => s
      | false, _ => if status = 0 ∧ !h.poison then s.respOk (data.take r.acc.len) else s.respErr 0 (if r.acc.write then 0 else r.acc.len)

/-- RDC: a read completion arrives on port `p`. -/
def execFabRdc (p : Nat) (h : FabHead) (status : Nat) (data : List Byte) (s : State) : Host.Outcome State Fault Refusal :=
  .next (s.fabArrive p Pkt.RDC h (data.map fun (b : Byte) => b.toNat) fun s => s.fabDone h status data)

/-- WRA: a write acknowledgement arrives on port `p`. -/
def execFabWra (p : Nat) (h : FabHead) (status : Nat) (s : State) : Host.Outcome State Fault Refusal :=
  .next (s.fabArrive p Pkt.WRA h [] fun s => s.fabDone h status [])

/-! ## Tickets (R652) -/

/-- TKT_REQ: a ticket request for `h.len` bytes from `h.addr` arrives on port `p`. A memory without an office needs no ticket. -/
def execTktReq (p : Nat) (h : FabHead) (t : Nat) (s : State) : Host.Outcome State Fault Refusal :=
  .next ((s.tickTo t).fabArrive p Pkt.TKT_REQ h [] fun s =>
    let a := s.inbound p h true []
    match officeOf h.addr with
    | none => s.fabAnswer (headBack h p) Pkt.TKT_ANS 0 false [TkCode.NOT_REQUIRED, 0] 0
    | some k =>
      if 24 ≤ k then s.fabAnswer (headBack h p) Pkt.TKT_ANS 0 false [TkCode.NOT_REQUIRED, 0] 0
      else if s.officeHolds k then { s with held := s.held ++ [.ticket k a (h.addr - tkBase k) h.len (.fabric (headBack h p))] }
      else
        let r := s.ticketRequest k a (h.addr - tkBase k) h.len false
        r.2.2.fabAnswer (headBack h p) Pkt.TKT_ANS 0 false [r.1, r.2.1] 0)

/-- R316: what an answer code comes to for its sender. -/
def askedOf (code tag : Nat) : Asked :=
  if code = TkCode.GRANTED then .tag tag else if code = TkCode.NOT_REQUIRED then .none else if tkTransient code then .wait else .refused

/-- The cores of a ferry's grove with a STORE that waits for a ticket at an address. -/
def State.storeWaits (s : State) (f addr : Nat) : Option (OnCore × Xfer) :=
  ((List.range 4).filterMap fun n => match s.running (4 * (f / 2) + n) with
    | none => none
    | some o => (o.rank.xfers.find? fun x => x.ask.isSome && x.addr == addr).map fun x => (o, x)).head?

/-- R652: an answer reaches the sender that waits for it. A grant that nobody waits for is returned. -/
def State.ticketAnswered (s : State) (r : FabReq) (code tag : Nat) : State :=
  let k := 24 + rlinkOff r.acc.addr / 64
  let spare := if code = TkCode.GRANTED then s.giveBack k tag (reqCode r.acc.req) else s
  if r.late then spare
  else match r.acc.req with
    | .block c i =>
      if c = Blk.FERRY ∧ r.acc.cls.isNone then
        match (s.ferry i).ask, (s.ferry i).queue.head? with
        | some _, some q => if q.dst = r.acc.addr then s.ferryAsked i q (askedOf code tag) else spare
        | _, _ => spare
      else if c = Blk.FERRY then
        match s.storeWaits i r.acc.addr with
        | some (o, x) => s.storeAsked o x k (askedOf code tag)
        | none => spare
      else if c = Blk.ALE then
        match (s.ale i).ask, (s.ale i).queue.head? with
        | some _, some q =>
          if q.dst ≠ r.acc.addr then spare
          else if askedOf code tag = .refused then s.expFail i ExpErr.TICKET else s.expAsked i (askedOf code tag)
        | _, _ => spare
      else spare
    | _ => s.respOk (leBytes 1 code ++ leBytes 1 tag)

/-- TKT_ANS: the answer to a ticket request arrives on port `p`. -/
def execTktAns (p : Nat) (h : FabHead) (code tag : Nat) (s : State) : Host.Outcome State Fault Refusal :=
  .next (s.fabArrive p Pkt.TKT_ANS h [] fun s =>
    match s.openReq h.src h.tag with
    | none => s
    | some r => if r.ticket then (s.closeReq r.port r.tag).ticketAnswered r code tag else s)

/-- TKT_RET: a ticket returned by its remote holder arrives on port `p` at base tick `t`. -/
def execTktRet (p : Nat) (h : FabHead) (t : Nat) (s : State) : Host.Outcome State Fault Refusal :=
  .next ((s.tickTo t).fabArrive p Pkt.TKT_RET h [] fun s =>
    match officeOf h.addr with
    | some k => if k < 24 then s.returnTicket k (h.tkt.getD 0) (reqCode (.rlink p)) (headVia h) else s
    | none => s)

end Sys2Proof.Machine
end

