-- ==== Sys2Proof/Machine/Dispatch.lean ====
section
/-! DEFINITION. The dispatch of the commands: one arm per constructor of Instr. -/

namespace Sys2Proof.Machine

def exec (i : Instr) (s : State) : Host.Outcome State Fault Refusal :=
  match i with
  | .registerWrite req addr size value ext => Sys2Proof.Machine.execRegisterWrite req addr size value ext s
  | .readClear req addr size ecc => Sys2Proof.Machine.execReadClear req addr size ecc s
  | .pageLock req code inst value => Sys2Proof.Machine.execPageLock req code inst value s
  | .worldWrite req code inst value => Sys2Proof.Machine.execWorldWrite req code inst value s
  | .irqForce req code inst value => Sys2Proof.Machine.execIrqForce req code inst value s
  | .memoryAccess req addr len write fetch data cacheable tkt env => Sys2Proof.Machine.execMemoryAccess req addr len write fetch data cacheable tkt env s
  | .heldAccessServed k env => Sys2Proof.Machine.execHeldAccessServed k env s
  | .wssEdge idx rising pulse t => Sys2Proof.Machine.execWssEdge idx rising pulse t s
  | .dirPwTimeout idx t => Sys2Proof.Machine.execDirPwTimeout idx t s
  | .quadCount m up z t => Sys2Proof.Machine.execQuadCount m up z t s
  | .spiRdcSample m word t => Sys2Proof.Machine.execSpiRdcSample m word t s
  | .sourceSilenceTimeout idx t => Sys2Proof.Machine.execSourceSilenceTimeout idx t s
  | .speedMessageExpired t => Sys2Proof.Machine.execSpeedMessageExpired t s
  | .holdExpired d t => Sys2Proof.Machine.execHoldExpired d t s
  | .angleBusUpdate t => Sys2Proof.Machine.execAngleBusUpdate t s
  | .alarmEnable req n value => Sys2Proof.Machine.execAlarmEnable req n value s
  | .angleEnable req value => Sys2Proof.Machine.execAngleEnable req value s
  | .sourceConfigWrite req idx value => Sys2Proof.Machine.execSourceConfigWrite req idx value s
  | .prediction req value => Sys2Proof.Machine.execPrediction req value s
  | .logPop req value => Sys2Proof.Machine.execLogPop req value s
  | .gptpSyncRx p offset locks t => Sys2Proof.Machine.execGptpSyncRx p offset locks t s
  | .gptpPdelayRx p delay t => Sys2Proof.Machine.execGptpPdelayRx p delay t s
  | .gptpSyncTx p t => Sys2Proof.Machine.execGptpSyncTx p t s
  | .poresetAssert t => Sys2Proof.Machine.execPoresetAssert t s
  | .poresetRelease straps inRange t => Sys2Proof.Machine.execPoresetRelease straps inRange t s
  | .warmresetAssert t => Sys2Proof.Machine.execWarmresetAssert t s
  | .warmresetRelease t => Sys2Proof.Machine.execWarmresetRelease t s
  | .swrst req value => Sys2Proof.Machine.execSwrst req value s
  | .pciePerst low => Sys2Proof.Machine.execPciePerst low s
  | .bootRomStart err0 err1 slot0 slot1 t => Sys2Proof.Machine.execBootRomStart err0 err1 slot0 slot1 t s
  | .imageVerifyDone k err t => Sys2Proof.Machine.execImageVerifyDone k err t s
  | .declareC req value => Sys2Proof.Machine.execDeclareC req value s
  | .stageCLimitExpired t => Sys2Proof.Machine.execStageCLimitExpired t s
  | .pcieConfigRequest t => Sys2Proof.Machine.execPcieConfigRequest t s
  | .stow req value => Sys2Proof.Machine.execStow req value s
  | .stowBuildDone t => Sys2Proof.Machine.execStowBuildDone t s
  | .flashCopyDone fail t => Sys2Proof.Machine.execFlashCopyDone fail t s
  | .queuedFrameDelivery p t => Sys2Proof.Machine.execQueuedFrameDelivery p t s
  | .frameAgeExpired p t => Sys2Proof.Machine.execFrameAgeExpired p t s
  | .pmuEvaluate cpu pcie power t => Sys2Proof.Machine.execPmuEvaluate cpu pcie power t s
  | .domainExitComplete d t => Sys2Proof.Machine.execDomainExitComplete d t s
  | .park req value => Sys2Proof.Machine.execPark req value s
  | .p4Entry t => Sys2Proof.Machine.execP4Entry t s
  | .wakePin t => Sys2Proof.Machine.execWakePin t s
  | .wakeTimerExpired t => Sys2Proof.Machine.execWakeTimerExpired t s
  | .canWakeFrame n kind id t => Sys2Proof.Machine.execCanWakeFrame n kind id t s
  | .railsInRange t => Sys2Proof.Machine.execRailsInRange t s
  | .ledgerUpdate t => Sys2Proof.Machine.execLedgerUpdate t s
  | .ledgerTest p t => Sys2Proof.Machine.execLedgerTest p t s
  | .monitorFault g => Sys2Proof.Machine.execMonitorFault g s
  | .thermSample meas switching t => Sys2Proof.Machine.execThermSample meas switching t s
  | .throttleEvaluate t => Sys2Proof.Machine.execThrottleEvaluate t s
  | .tripClr req value => Sys2Proof.Machine.execTripClr req value s
  | .coolTempSample code t => Sys2Proof.Machine.execCoolTempSample code t s
  | .coolInStale t => Sys2Proof.Machine.execCoolInStale t s
  | .tachSample pump fan t => Sys2Proof.Machine.execTachSample pump fan t s
  | .coolingRequest t => Sys2Proof.Machine.execCoolingRequest t s
  | .hartHoldWrite req value => Sys2Proof.Machine.execHartHoldWrite req value s
  | .xmbRing req idx h2s value => Sys2Proof.Machine.execXmbRing req idx h2s value s
  | .xmbAck req idx h2s value => Sys2Proof.Machine.execXmbAck req idx h2s value s
  | .aesGcmEncrypt src aux => Sys2Proof.Machine.execAesGcmEncrypt src aux s
  | .aesGcmDecrypt src aux => Sys2Proof.Machine.execAesGcmDecrypt src aux s
  | .sha256 src => Sys2Proof.Machine.execSha256 src s
  | .sha384 src => Sys2Proof.Machine.execSha384 src s
  | .sha512 src => Sys2Proof.Machine.execSha512 src s
  | .hmacSha384 src => Sys2Proof.Machine.execHmacSha384 src s
  | .ecdsaVerify src aux => Sys2Proof.Machine.execEcdsaVerify src aux s
  | .ecdsaSign src => Sys2Proof.Machine.execEcdsaSign src s
  | .mlDsaVerify src aux => Sys2Proof.Machine.execMlDsaVerify src aux s
  | .mlDsaSign src => Sys2Proof.Machine.execMlDsaSign src s
  | .dualVerify src => Sys2Proof.Machine.execDualVerify src s
  | .derive aux => Sys2Proof.Machine.execDerive aux s
  | .clearKeySlot => Sys2Proof.Machine.execClearKeySlot s
  | .exportPublicKey => Sys2Proof.Machine.execExportPublicKey s
  | .randomBytes => Sys2Proof.Machine.execRandomBytes s
  | .revokeFuseKeySlot ok => Sys2Proof.Machine.execRevokeFuseKeySlot ok s
  | .raiseAntiRollback ok => Sys2Proof.Machine.execRaiseAntiRollback ok s
  | .advanceLifecycle aux ok => Sys2Proof.Machine.execAdvanceLifecycle aux ok s
  | .secBadOpcode => Sys2Proof.Machine.execSecBadOpcode s
  | .trngHealthFail => Sys2Proof.Machine.execTrngHealthFail s
  | .extest data sample => Sys2Proof.Machine.execExtest data sample s
  | .idcode => Sys2Proof.Machine.execIdcode s
  | .samplePreload data sample => Sys2Proof.Machine.execSamplePreload data sample s
  | .highz data => Sys2Proof.Machine.execHighz data s
  | .clamp data => Sys2Proof.Machine.execClamp data s
  | .dtmcs data => Sys2Proof.Machine.execDtmcs data s
  | .dmi act data => Sys2Proof.Machine.execDmi act data s
  | .authNonce data => Sys2Proof.Machine.execAuthNonce data s
  | .authToken token t => Sys2Proof.Machine.execAuthToken token t s
  | .authStat data fin => Sys2Proof.Machine.execAuthStat data fin s
  | .recoveryData word => Sys2Proof.Machine.execRecoveryData word s
  | .recoveryStat data => Sys2Proof.Machine.execRecoveryStat data s
  | .bypass code data => Sys2Proof.Machine.execBypass code data s
  | .recoveryVerifyDone t => Sys2Proof.Machine.execRecoveryVerifyDone t s
  | .sessionExpired t => Sys2Proof.Machine.execSessionExpired t s
  | .lockstepMismatch p => Sys2Proof.Machine.execLockstepMismatch p s
  | .escalate req value => Sys2Proof.Machine.execEscalate req value s
  | .sqTailDoorbell req idx value => Sys2Proof.Machine.execSqTailDoorbell req idx value s
  | .ringDoorbell req idx value => Sys2Proof.Machine.execRingDoorbell req idx value s
  | .externalDoorbell idx => Sys2Proof.Machine.execExternalDoorbell idx s
  | .descriptorFetch t env => Sys2Proof.Machine.execDescriptorFetch t env s
  | .ownerRecordWrite req p n w value => Sys2Proof.Machine.execOwnerRecordWrite req p n w value s
  | .resizeGo req p value => Sys2Proof.Machine.execResizeGo req p value s
  | .quiesceEnd t => Sys2Proof.Machine.execQuiesceEnd t s
  | .resizeQuiesceTimeout t => Sys2Proof.Machine.execResizeQuiesceTimeout t s
  | .resizeCommit t => Sys2Proof.Machine.execResizeCommit t s
  | .coreNop c t env => Sys2Proof.Machine.execCoreNop c t env s
  | .tile c t env => Sys2Proof.Machine.execTile c t env s
  | .coreEnd c t env => Sys2Proof.Machine.execCoreEnd c t env s
  | .coreLoad c t env => Sys2Proof.Machine.execCoreLoad c t env s
  | .loadComplete c off t => Sys2Proof.Machine.execLoadComplete c off t s
  | .coreStore c t env => Sys2Proof.Machine.execCoreStore c t env s
  | .storeComplete c off t => Sys2Proof.Machine.execStoreComplete c off t s
  | .mma c t env => Sys2Proof.Machine.execMma c t env s
  | .drain c t env => Sys2Proof.Machine.execDrain c t env s
  | .imcfg c t env => Sys2Proof.Machine.execImcfg c t env s
  | .vopAdd c t env => Sys2Proof.Machine.execVopAdd c t env s
  | .vopMul c t env => Sys2Proof.Machine.execVopMul c t env s
  | .vopFma c t env => Sys2Proof.Machine.execVopFma c t env s
  | .vopMax c t env => Sys2Proof.Machine.execVopMax c t env s
  | .vopMin c t env => Sys2Proof.Machine.execVopMin c t env s
  | .vopCvt c t env => Sys2Proof.Machine.execVopCvt c t env s
  | .vopRelu c t env => Sys2Proof.Machine.execVopRelu c t env s
  | .vopGelu c t env => Sys2Proof.Machine.execVopGelu c t env s
  | .vopSigmoid c t env => Sys2Proof.Machine.execVopSigmoid c t env s
  | .vopTanh c t env => Sys2Proof.Machine.execVopTanh c t env s
  | .vopExp c t env => Sys2Proof.Machine.execVopExp c t env s
  | .vopRecip c t env => Sys2Proof.Machine.execVopRecip c t env s
  | .vopRsqrt c t env => Sys2Proof.Machine.execVopRsqrt c t env s
  | .vopRsum c t env => Sys2Proof.Machine.execVopRsum c t env s
  | .vopRmax c t env => Sys2Proof.Machine.execVopRmax c t env s
  | .barrier c t env => Sys2Proof.Machine.execBarrier c t env s
  | .barrierRelease c t => Sys2Proof.Machine.execBarrierRelease c t s
  | .lbcfg c t env => Sys2Proof.Machine.execLbcfg c t env s
  | .badOpcode c t env => Sys2Proof.Machine.execBadOpcode c t env s
  | .tileMaxExpired c t => Sys2Proof.Machine.execTileMaxExpired c t s
  | .contextSaveDone c t => Sys2Proof.Machine.execContextSaveDone c t s
  | .contextRestoreDone c t => Sys2Proof.Machine.execContextRestoreDone c t s
  | .cmdWatchdogExpired c unit t env => Sys2Proof.Machine.execCmdWatchdogExpired c unit t env s
  | .mopFill req g irq => Sys2Proof.Machine.execMopFill req g irq s
  | .mopCopy req g irq => Sys2Proof.Machine.execMopCopy req g irq s
  | .mopStart g t => Sys2Proof.Machine.execMopStart g t s
  | .mopDone g t env => Sys2Proof.Machine.execMopDone g t env s
  | .clearGo req g value => Sys2Proof.Machine.execClearGo req g value s
  | .clearZeroDone g t => Sys2Proof.Machine.execClearZeroDone g t s
  | .clearVerifyDone g ok t => Sys2Proof.Machine.execClearVerifyDone g ok t s
  | .ticketRequest req k off len => Sys2Proof.Machine.execTicketRequest req k off len s
  | .remoteWrite req addr data tkt env => Sys2Proof.Machine.execRemoteWrite req addr data tkt env s
  | .ticketExpired k idx t => Sys2Proof.Machine.execTicketExpired k idx t s
  | .ticketReturn req k tag => Sys2Proof.Machine.execTicketReturn req k tag s
  | .ticketRetry who t => Sys2Proof.Machine.execTicketRetry who t s
  | .tktWaitExpired who t => Sys2Proof.Machine.execTktWaitExpired who t s
  | .windowArm req k value => Sys2Proof.Machine.execWindowArm req k value s
  | .meshTimeout who => Sys2Proof.Machine.execMeshTimeout who s
  | .ferryQPush req f value => Sys2Proof.Machine.execFerryQPush req f value s
  | .ferryTransferStart f t => Sys2Proof.Machine.execFerryTransferStart f t s
  | .ferryTransferDone f t env => Sys2Proof.Machine.execFerryTransferDone f t env s
  | .deadlineReevaluate t => Sys2Proof.Machine.execDeadlineReevaluate t s
  | .placement p t => Sys2Proof.Machine.execPlacement p t s
  | .jobComplete idx sq t => Sys2Proof.Machine.execJobComplete idx sq t s
  | .jobTimeout idx sq t => Sys2Proof.Machine.execJobTimeout idx sq t s
  | .cancel req value => Sys2Proof.Machine.execCancel req value s
  | .acctSel req ctx => Sys2Proof.Machine.execAcctSel req ctx s
  | .acctSelClear req ctx => Sys2Proof.Machine.execAcctSelClear req ctx s
  | .selftest req value => Sys2Proof.Machine.execSelftest req value s
  | .selftestDone c step t => Sys2Proof.Machine.execSelftestDone c step t s
  | .restore req value => Sys2Proof.Machine.execRestore req value s
  | .cntClr req value => Sys2Proof.Machine.execCntClr req value s
  | .rmonExpired k t => Sys2Proof.Machine.execRmonExpired k t s
  | .infLogPop req value => Sys2Proof.Machine.execInfLogPop req value s
  | .dmcHoldClear req x value => Sys2Proof.Machine.execDmcHoldClear req x value s
  | .dramTrainingDone x r t => Sys2Proof.Machine.execDramTrainingDone x r t s
  | .eccInitDone x ok t => Sys2Proof.Machine.execEccInitDone x ok t s
  | .refreshWindowStart x t env => Sys2Proof.Machine.execRefreshWindowStart x t env s
  | .refreshWindowEnd x t => Sys2Proof.Machine.execRefreshWindowEnd x t s
  | .refreshAnnounce x t => Sys2Proof.Machine.execRefreshAnnounce x t s
  | .mr4Poll codes rate hot => Sys2Proof.Machine.execMr4Poll codes rate hot s
  | .rowIdleClose x ch bank t => Sys2Proof.Machine.execRowIdleClose x ch bank t s
  | .patrolScrub x ecc => Sys2Proof.Machine.execPatrolScrub x ecc s
  | .dmcCtrlFail x => Sys2Proof.Machine.execDmcCtrlFail x s
  | .triggerFire c => Sys2Proof.Machine.execTriggerFire c s
  | .triggerForce req c value => Sys2Proof.Machine.execTriggerForce req c value s
  | .extTrigEdge idx rising frac => Sys2Proof.Machine.execExtTrigEdge idx rising frac s
  | .holdoffEnd c t => Sys2Proof.Machine.execHoldoffEnd c t s
  | .autoTrigger c t => Sys2Proof.Machine.execAutoTrigger c t s
  | .programArm req p => Sys2Proof.Machine.execProgramArm req p s
  | .programDisarm req p => Sys2Proof.Machine.execProgramDisarm req p s
  | .prefillDone p t => Sys2Proof.Machine.execPrefillDone p t s
  | .berthComplete p t => Sys2Proof.Machine.execBerthComplete p t s
  | .berthStart p t => Sys2Proof.Machine.execBerthStart p t s
  | .streamCopyStart p t => Sys2Proof.Machine.execStreamCopyStart p t s
  | .streamCopyDone p t env => Sys2Proof.Machine.execStreamCopyDone p t env s
  | .calSwapDue c t => Sys2Proof.Machine.execCalSwapDue c t s
  | .foregroundCalDone c fails t => Sys2Proof.Machine.execForegroundCalDone c fails t s
  | .scopePermitWrite req value => Sys2Proof.Machine.execScopePermitWrite req value s
  | .settlingDone c t => Sys2Proof.Machine.execSettlingDone c t s
  | .fdigPllUnlock => Sys2Proof.Machine.execFdigPllUnlock s
  | .fdigPllRelock t => Sys2Proof.Machine.execFdigPllRelock t s
  | .probeOverload c t => Sys2Proof.Machine.execProbeOverload c t s
  | .overloadRecover c t => Sys2Proof.Machine.execOverloadRecover c t s
  | .senseConversion g raw other t => Sys2Proof.Machine.execSenseConversion g raw other t s
  | .dcEvaluate j t => Sys2Proof.Machine.execDcEvaluate j t s
  | .senseFrameBoundary g refOk fail t => Sys2Proof.Machine.execSenseFrameBoundary g refOk fail t s
  | .seqCommit req g value => Sys2Proof.Machine.execSeqCommit req g value s
  | .senseSwapDue t => Sys2Proof.Machine.execSenseSwapDue t s
  | .urgentConversionRequest req k value => Sys2Proof.Machine.execUrgentConversionRequest req k value s
  | .urgentConversionDone k raw t => Sys2Proof.Machine.execUrgentConversionDone k raw t s
  | .retryTimeout j t => Sys2Proof.Machine.execRetryTimeout j t s
  | .retryOk j t => Sys2Proof.Machine.execRetryOk j t s
  | .protClr req value => Sys2Proof.Machine.execProtClr req value s
  | .forceHold req value => Sys2Proof.Machine.execForceHold req value s
  | .protSelfCheck ok => Sys2Proof.Machine.execProtSelfCheck ok s
  | .protLogPop req value => Sys2Proof.Machine.execProtLogPop req value s
  | .carrierCycleStart u t ecc word => Sys2Proof.Machine.execCarrierCycleStart u t ecc word s
  | .channelEnable req j value => Sys2Proof.Machine.execChannelEnable req j value s
  | .psenLeadEnd j t => Sys2Proof.Machine.execPsenLeadEnd j t s
  | .psenLagEnd j t => Sys2Proof.Machine.execPsenLagEnd j t s
  | .threadRun req h => Sys2Proof.Machine.execThreadRun req h s
  | .threadStop req h => Sys2Proof.Machine.execThreadStop req h s
  | .wseqNop h t ecc => Sys2Proof.Machine.execWseqNop h t ecc s
  | .thrPlay h t ecc => Sys2Proof.Machine.execThrPlay h t ecc s
  | .thrPlaya h t ecc => Sys2Proof.Machine.execThrPlaya h t ecc s
  | .thrVec h t ecc => Sys2Proof.Machine.execThrVec h t ecc s
  | .thrLoop h t ecc => Sys2Proof.Machine.execThrLoop h t ecc s
  | .thrEndl h t ecc => Sys2Proof.Machine.execThrEndl h t ecc s
  | .thrCall h t ecc => Sys2Proof.Machine.execThrCall h t ecc s
  | .thrRet h t ecc => Sys2Proof.Machine.execThrRet h t ecc s
  | .thrJmp h t ecc => Sys2Proof.Machine.execThrJmp h t ecc s
  | .thrWait h t ecc => Sys2Proof.Machine.execThrWait h t ecc s
  | .waitTimeExpired h t => Sys2Proof.Machine.execWaitTimeExpired h t s
  | .thrGain h t ecc => Sys2Proof.Machine.execThrGain h t ecc s
  | .thrSig h t ecc => Sys2Proof.Machine.execThrSig h t ecc s
  | .thrHalt h t ecc => Sys2Proof.Machine.execThrHalt h t ecc s
  | .badInstr h t ecc => Sys2Proof.Machine.execBadInstr h t ecc s
  | .segmentEnd h t => Sys2Proof.Machine.execSegmentEnd h t s
  | .switchLinePulse l t => Sys2Proof.Machine.execSwitchLinePulse l t s
  | .lineSw req value => Sys2Proof.Machine.execLineSw req value s
  | .chimeReadyWrite req value => Sys2Proof.Machine.execChimeReadyWrite req value s
  | .chimeStart req l value => Sys2Proof.Machine.execChimeStart req l value s
  | .chimeStop req l value => Sys2Proof.Machine.execChimeStop req l value s
  | .chimeEnd l t => Sys2Proof.Machine.execChimeEnd l t s
  | .streamFetch k t env => Sys2Proof.Machine.execStreamFetch k t env s
  | .memDataWrite req value => Sys2Proof.Machine.execMemDataWrite req value s
  | .memDataRead req ecc => Sys2Proof.Machine.execMemDataRead req ecc s
  | .loadEngineGo req value => Sys2Proof.Machine.execLoadEngineGo req value s
  | .loadEngineDone t env => Sys2Proof.Machine.execLoadEngineDone t env s
  | .sampleTick d t => Sys2Proof.Machine.execSampleTick d t s
  | .aleWake n t => Sys2Proof.Machine.execAleWake n t s
  | .aleDone req n value t => Sys2Proof.Machine.execAleDone req n value t s
  | .tdmFrame p rx t => Sys2Proof.Machine.execTdmFrame p rx t s
  | .pdmSample idx k v t => Sys2Proof.Machine.execPdmSample idx k v t s
  | .exportPush req n value => Sys2Proof.Machine.execExportPush req n value s
  | .exportDone n env t => Sys2Proof.Machine.execExportDone n env t s
  | .coefficientCommit req n value => Sys2Proof.Machine.execCoefficientCommit req n value s
  | .frameStartLost p t => Sys2Proof.Machine.execFrameStartLost p t s
  | .audioPllUnlock => Sys2Proof.Machine.execAudioPllUnlock s
  | .aleCoreFault n code t => Sys2Proof.Machine.execAleCoreFault n code t s
  | .localTimeAlign t => Sys2Proof.Machine.execLocalTimeAlign t s
  | .csiFrameStart p vc num hdr t => Sys2Proof.Machine.execCsiFrameStart p vc num hdr t s
  | .csiLongPacket p vc dt payload hdr crc room t => Sys2Proof.Machine.execCsiLongPacket p vc dt payload hdr crc room t s
  | .csiFrameEnd p vc hdr t => Sys2Proof.Machine.execCsiFrameEnd p vc hdr t s
  | .frameComplete p k t env => Sys2Proof.Machine.execFrameComplete p k t env s
  | .slotRelease req p k value => Sys2Proof.Machine.execSlotRelease req p k value s
  | .noSignalTimeout p t => Sys2Proof.Machine.execNoSignalTimeout p t s
  | .voutEnable req v value => Sys2Proof.Machine.execVoutEnable req v value s
  | .linkTrainingDone v ok t => Sys2Proof.Machine.execLinkTrainingDone v ok t s
  | .displayLinkRetrain v t => Sys2Proof.Machine.execDisplayLinkRetrain v t s
  | .hpdLost v t => Sys2Proof.Machine.execHpdLost v t s
  | .flip req v value => Sys2Proof.Machine.execFlip req v value s
  | .vblankStart v t => Sys2Proof.Machine.execVblankStart v t s
  | .frameFirstLine v t => Sys2Proof.Machine.execFrameFirstLine v t s
  | .layerUnderrun v l x y t env => Sys2Proof.Machine.execLayerUnderrun v l x y t env s
  | .auxRead req v value => Sys2Proof.Machine.execAuxRead req v value s
  | .auxWrite req v value => Sys2Proof.Machine.execAuxWrite req v value s
  | .auxDone v result data => Sys2Proof.Machine.execAuxDone v result data s
  | .ethFrameRx p data ecc t => Sys2Proof.Machine.execEthFrameRx p data ecc t s
  | .canFrameRx n fmt ide id xl data ecc t => Sys2Proof.Machine.execCanFrameRx n fmt ide id xl data ecc t s
  | .egressTransmit p ecc t => Sys2Proof.Machine.execEgressTransmit p ecc t s
  | .gateControlEntry p t => Sys2Proof.Machine.execGateControlEntry p t s
  | .qbvCommit req p value => Sys2Proof.Machine.execQbvCommit req p value s
  | .qbvListActivate p t => Sys2Proof.Machine.execQbvListActivate p t s
  | .verdictRelease req => Sys2Proof.Machine.execVerdictRelease req s
  | .verdictReleaseMask req mask => Sys2Proof.Machine.execVerdictReleaseMask req mask s
  | .verdictDrop req => Sys2Proof.Machine.execVerdictDrop req s
  | .inspDataRead req => Sys2Proof.Machine.execInspDataRead req s
  | .inspectionTimeout t => Sys2Proof.Machine.execInspectionTimeout t s
  | .txOriginate req value => Sys2Proof.Machine.execTxOriginate req value s
  | .txDataWrite req value => Sys2Proof.Machine.execTxDataWrite req value s
  | .hostEnable req value => Sys2Proof.Machine.execHostEnable req value s
  | .hostTxEntry req value ext => Sys2Proof.Machine.execHostTxEntry req value ext s
  | .tableDataWrite req value => Sys2Proof.Machine.execTableDataWrite req value s
  | .tableDataRead req ecc => Sys2Proof.Machine.execTableDataRead req ecc s
  | .ethLinkChange p up speed => Sys2Proof.Machine.execEthLinkChange p up speed s
  | .canErrorStateChange n st tec rec' proto => Sys2Proof.Machine.execCanErrorStateChange n st tec rec' proto s
  | .rlinkTrainingDone p ok width rate => Sys2Proof.Machine.execRlinkTrainingDone p ok width rate s
  | .linkLowPowerEntry p t => Sys2Proof.Machine.execLinkLowPowerEntry p t s
  | .rlinkRetrain p => Sys2Proof.Machine.execRlinkRetrain p s
  | .fabRd p h t env => Sys2Proof.Machine.execFabRd p h t env s
  | .fabRdc p h status data => Sys2Proof.Machine.execFabRdc p h status data s
  | .fabWr p h data t env => Sys2Proof.Machine.execFabWr p h data t env s
  | .fabWra p h status => Sys2Proof.Machine.execFabWra p h status s
  | .tktReq p h t => Sys2Proof.Machine.execTktReq p h t s
  | .tktAns p h code tag => Sys2Proof.Machine.execTktAns p h code tag s
  | .tktRet p h t => Sys2Proof.Machine.execTktRet p h t s
  | .fabProbe p rootUid fromUid path t => Sys2Proof.Machine.execFabProbe p rootUid fromUid path t s
  | .identify p uid dev links casc nbrPort => Sys2Proof.Machine.execIdentify p uid dev links casc nbrPort s
  | .notReady p hint => Sys2Proof.Machine.execNotReady p hint s
  | .assign p rootUid node role slot master table nbrs path t => Sys2Proof.Machine.execAssign p rootUid node role slot master table nbrs path t s
  | .fabCommit p rootUid path t => Sys2Proof.Machine.execFabCommit p rootUid path t s
  | .linkEvent p node links t => Sys2Proof.Machine.execLinkEvent p node links t s
  | .rediscover req value => Sys2Proof.Machine.execRediscover req value s
  | .probeRetry node port t => Sys2Proof.Machine.execProbeRetry node port t s
  | .discoveryTimeout t => Sys2Proof.Machine.execDiscoveryTimeout t s
  | .syncFrameTx t => Sys2Proof.Machine.execSyncFrameTx t s
  | .syncFrameRx f phase within beyond locks t => Sys2Proof.Machine.execSyncFrameRx f phase within beyond locks t s
  | .echoMarkerTx t => Sys2Proof.Machine.execEchoMarkerTx t s
  | .echoMarkerRx slot rt => Sys2Proof.Machine.execEchoMarkerRx slot rt s
  | .masterLost t => Sys2Proof.Machine.execMasterLost t s
  | .perturbCtlWrite req value => Sys2Proof.Machine.execPerturbCtlWrite req value s
  | .perturbEnable req code inst value => Sys2Proof.Machine.execPerturbEnable req code inst value s
  | .stallPulse code inst t => Sys2Proof.Machine.execStallPulse code inst t s
  | .jitterDraw => Sys2Proof.Machine.execJitterDraw s
  | .forceEcc1 req code inst value => Sys2Proof.Machine.execForceEcc1 req code inst value s
  | .forceEcc2 req code inst value => Sys2Proof.Machine.execForceEcc2 req code inst value s
  | .forceChk req code inst value => Sys2Proof.Machine.execForceChk req code inst value s
  | .forceTkt req code inst value => Sys2Proof.Machine.execForceTkt req code inst value s
  | .forceDetect req code inst value => Sys2Proof.Machine.execForceDetect req code inst value s
  | .forceCancel req code inst => Sys2Proof.Machine.execForceCancel req code inst s
  | .supplyFault rail t => Sys2Proof.Machine.execSupplyFault rail t s
  | .referenceLoss t => Sys2Proof.Machine.execReferenceLoss t s
  | .supplyRecovered straps t => Sys2Proof.Machine.execSupplyRecovered straps t s
  | .fdigSample c raw ecc t => Sys2Proof.Machine.execFdigSample c raw ecc t s
  | .sliceCalibrationDone c ok t => Sys2Proof.Machine.execSliceCalibrationDone c ok t s
  | .spareCalibrationDone ok t => Sys2Proof.Machine.execSpareCalibrationDone ok t s
  | .gptpLost t => Sys2Proof.Machine.execGptpLost t s
  | .audioPllRelock => Sys2Proof.Machine.execAudioPllRelock s
  | .pcieLinkChange up => Sys2Proof.Machine.execPcieLinkChange up s
  | .hpdRise v => Sys2Proof.Machine.execHpdRise v s
  | .vddAonRise t => Sys2Proof.Machine.execVddAonRise t s
  | .vddAonLoss t => Sys2Proof.Machine.execVddAonLoss t s

end Sys2Proof.Machine
end

