-- ==== Sys2Proof/Safety.lean ====
section
/-! DEFINITION. What the claims call a well-formed state. -/

namespace Sys2Proof.Machine

/-- The three sparse maps are in canonical form: keys strictly rising, nothing listed at its default. -/
def State.wf (s : State) : Bool := swf regDefault s.regs && swf memDefault s.mem && swf memDefault s.inner

/-- Every list that stands for a fixed number of like things (instances of a block, channels, threads, sources, ports) has exactly
that many elements (R3, R43). -/
structure State.Sized (s : State) : Prop where
  boot_slot : s.boot.slot.length = 3
  offices : s.offices.length = 24
  mops : s.mops.length = 16
  dmcs : s.dmcs.length = 4
  grid_next : s.grid.next.length = 4
  grid_announced : s.grid.announced.length = 4
  fab_retrains : s.fab.retrains.length = 4
  fab_lastUse : s.fab.lastUse.length = 4
  ang_srcs : s.ang.srcs.length = 7
  ang_doms : s.ang.doms.length = 3
  harts : s.harts.length = 12
  dbg_pairHalted : s.dbg.pairHalted.length = 2
  keys : s.keys.length = 16
  ledger_level : s.ledger.level.length = 16
  ledger_energy : s.ledger.energy.length = 16
  ledger_shares : s.ledger.shares.length = 16
  therm_sensors : s.therm.sensors.length = 24
  domains : s.domains.length = 27
  cores : s.cores.length = 64
  rings : s.rings.length = 64
  rmon : s.rmon.length = 4
  ferries : s.ferries.length = 32
  fdigs : s.fdigs.length = 2
  trigs : s.trigs.length = 2
  progs : s.progs.length = 2
  extTrig : s.extTrig.length = 2
  wseq_thrs : s.wseq.thrs.length = 4
  wseq_chans : s.wseq.chans.length = 16
  wseq_lanes : s.wseq.lanes.length = 2
  wseq_strms : s.wseq.strms.length = 4
  prot_chs : s.prot.chs.length = 16
  prot_lost : s.prot.lost.length = 2
  sns_groups : s.sns.groups.length = 4
  ales : s.ales.length = 8
  aports : s.aports.length = 9
  ticks : s.ticks.length = 4
  cams : s.cams.length = 4
  vouts : s.vouts.length = 2
  locals : s.locals.length = 6
  gw_bufs : s.gw.bufs.length = 22
  gw_ports : s.gw.ports.length = 20
  gw_meters : s.gw.meters.length = 63
  gw_seq : s.gw.seq.length = 4
  gw_qbv : s.gw.qbv.length = 4
  casc_miss : s.casc.miss.length = 3

/-- What every state that a run reaches satisfies. -/
def State.Inv (s : State) : Prop := s.wf = true ∧ s.Sized

/-- Which stores a command may write: memory (R39: DRAM, grove stores, TCMs, RSTATE), the memories no address reaches (tile memories, WSEQ memories,
acquisition state), the fuses (R208) and SEC's key slots (R209). -/
structure Stores where
  mem : Bool
  inner : Bool
  fuse : Bool
  keys : Bool
  deriving DecidableEq, Repr

/-- The stores each command may write; a command that names none leaves them all as they are. -/
def stores : Instr → Stores
  | .registerWrite .. => ⟨true, true, false, true⟩
  | .readClear .. => ⟨true, true, false, true⟩
  | .pageLock .. => ⟨false, false, false, false⟩
  | .worldWrite .. => ⟨false, false, false, false⟩
  | .irqForce .. => ⟨false, false, false, false⟩
  | .memoryAccess .. => ⟨true, true, false, true⟩
  | .heldAccessServed .. => ⟨true, true, false, true⟩
  | .wssEdge .. => ⟨false, false, false, false⟩
  | .dirPwTimeout .. => ⟨false, false, false, false⟩
  | .quadCount .. => ⟨false, false, false, false⟩
  | .spiRdcSample .. => ⟨false, false, false, false⟩
  | .sourceSilenceTimeout .. => ⟨false, false, false, false⟩
  | .speedMessageExpired .. => ⟨false, false, false, false⟩
  | .holdExpired .. => ⟨false, false, false, false⟩
  | .angleBusUpdate .. => ⟨false, false, false, false⟩
  | .alarmEnable .. => ⟨false, false, false, false⟩
  | .angleEnable .. => ⟨false, false, false, false⟩
  | .sourceConfigWrite .. => ⟨false, false, false, false⟩
  | .prediction .. => ⟨false, false, false, false⟩
  | .logPop .. => ⟨false, false, false, false⟩
  | .gptpSyncRx .. => ⟨false, false, false, false⟩
  | .gptpPdelayRx .. => ⟨false, false, false, false⟩
  | .gptpSyncTx .. => ⟨false, false, false, false⟩
  | .poresetAssert .. => ⟨true, true, false, true⟩
  | .poresetRelease .. => ⟨false, false, false, false⟩
  | .warmresetAssert .. => ⟨true, true, false, true⟩
  | .warmresetRelease .. => ⟨false, false, false, false⟩
  | .swrst .. => ⟨true, true, false, true⟩
  | .pciePerst .. => ⟨false, false, false, false⟩
  | .bootRomStart .. => ⟨true, false, false, true⟩
  | .imageVerifyDone .. => ⟨true, true, false, false⟩
  | .declareC .. => ⟨false, false, false, false⟩
  | .stageCLimitExpired .. => ⟨false, false, false, false⟩
  | .pcieConfigRequest .. => ⟨false, false, false, false⟩
  | .stow .. => ⟨true, false, false, false⟩
  | .stowBuildDone .. => ⟨true, true, false, false⟩
  | .flashCopyDone .. => ⟨false, true, false, false⟩
  | .queuedFrameDelivery .. => ⟨true, false, false, false⟩
  | .frameAgeExpired .. => ⟨false, false, false, false⟩
  | .pmuEvaluate .. => ⟨false, false, false, false⟩
  | .domainExitComplete .. => ⟨true, false, false, false⟩
  | .park .. => ⟨false, false, false, false⟩
  | .p4Entry .. => ⟨true, true, false, true⟩
  | .wakePin .. => ⟨true, true, false, true⟩
  | .wakeTimerExpired .. => ⟨true, true, false, true⟩
  | .canWakeFrame .. => ⟨true, true, false, true⟩
  | .railsInRange .. => ⟨false, false, false, false⟩
  | .ledgerUpdate .. => ⟨true, false, false, false⟩
  | .ledgerTest .. => ⟨true, false, false, false⟩
  | .monitorFault .. => ⟨false, false, false, false⟩
  | .thermSample .. => ⟨false, false, false, false⟩
  | .throttleEvaluate .. => ⟨false, false, false, false⟩
  | .tripClr .. => ⟨false, false, false, false⟩
  | .coolTempSample .. => ⟨false, false, false, false⟩
  | .coolInStale .. => ⟨false, false, false, false⟩
  | .tachSample .. => ⟨false, false, false, false⟩
  | .coolingRequest .. => ⟨false, false, false, false⟩
  | .hartHoldWrite .. => ⟨false, false, false, false⟩
  | .xmbRing .. => ⟨false, false, false, false⟩
  | .xmbAck .. => ⟨false, false, false, false⟩
  | .aesGcmEncrypt .. => ⟨true, false, false, false⟩
  | .aesGcmDecrypt .. => ⟨true, false, false, false⟩
  | .sha256 .. => ⟨true, false, false, false⟩
  | .sha384 .. => ⟨true, false, false, false⟩
  | .sha512 .. => ⟨true, false, false, false⟩
  | .hmacSha384 .. => ⟨true, false, false, false⟩
  | .ecdsaVerify .. => ⟨true, false, false, false⟩
  | .ecdsaSign .. => ⟨true, false, false, false⟩
  | .mlDsaVerify .. => ⟨true, false, false, false⟩
  | .mlDsaSign .. => ⟨true, false, false, false⟩
  | .dualVerify .. => ⟨true, false, false, false⟩
  | .derive .. => ⟨true, false, false, true⟩
  | .clearKeySlot => ⟨true, false, false, true⟩
  | .exportPublicKey => ⟨true, false, false, false⟩
  | .randomBytes => ⟨true, false, false, false⟩
  | .revokeFuseKeySlot .. => ⟨true, false, true, false⟩
  | .raiseAntiRollback .. => ⟨true, false, true, false⟩
  | .advanceLifecycle .. => ⟨true, false, true, false⟩
  | .secBadOpcode => ⟨true, false, false, false⟩
  | .trngHealthFail => ⟨false, false, false, false⟩
  | .extest .. => ⟨false, false, false, false⟩
  | .idcode => ⟨false, false, false, false⟩
  | .samplePreload .. => ⟨false, false, false, false⟩
  | .highz .. => ⟨false, false, false, false⟩
  | .clamp .. => ⟨false, false, false, false⟩
  | .dtmcs .. => ⟨false, false, false, false⟩
  | .dmi .. => ⟨true, true, false, true⟩
  | .authNonce .. => ⟨false, false, false, false⟩
  | .authToken .. => ⟨false, false, false, false⟩
  | .authStat .. => ⟨false, false, false, false⟩
  | .recoveryData .. => ⟨true, false, false, false⟩
  | .recoveryStat .. => ⟨false, false, false, false⟩
  | .bypass .. => ⟨false, false, false, false⟩
  | .recoveryVerifyDone .. => ⟨true, true, false, false⟩
  | .sessionExpired .. => ⟨false, false, false, false⟩
  | .lockstepMismatch .. => ⟨true, true, false, true⟩
  | .escalate .. => ⟨true, true, false, true⟩
  | .sqTailDoorbell .. => ⟨false, false, false, false⟩
  | .ringDoorbell .. => ⟨false, false, false, false⟩
  | .externalDoorbell .. => ⟨false, false, false, false⟩
  | .descriptorFetch .. => ⟨true, false, false, false⟩
  | .ownerRecordWrite .. => ⟨false, false, false, false⟩
  | .resizeGo .. => ⟨false, false, false, false⟩
  | .quiesceEnd .. => ⟨false, false, false, false⟩
  | .resizeQuiesceTimeout .. => ⟨true, false, false, false⟩
  | .resizeCommit .. => ⟨true, false, false, false⟩
  | .coreNop .. => ⟨true, false, false, false⟩
  | .tile .. => ⟨true, false, false, false⟩
  | .coreEnd .. => ⟨true, false, false, false⟩
  | .coreLoad .. => ⟨true, false, false, false⟩
  | .loadComplete .. => ⟨false, true, false, false⟩
  | .coreStore .. => ⟨true, false, false, false⟩
  | .storeComplete .. => ⟨true, false, false, false⟩
  | .mma .. => ⟨true, false, false, false⟩
  | .drain .. => ⟨true, true, false, false⟩
  | .imcfg .. => ⟨true, false, false, false⟩
  | .vopAdd .. => ⟨true, true, false, false⟩
  | .vopMul .. => ⟨true, true, false, false⟩
  | .vopFma .. => ⟨true, true, false, false⟩
  | .vopMax .. => ⟨true, true, false, false⟩
  | .vopMin .. => ⟨true, true, false, false⟩
  | .vopCvt .. => ⟨true, true, false, false⟩
  | .vopRelu .. => ⟨true, true, false, false⟩
  | .vopGelu .. => ⟨true, true, false, false⟩
  | .vopSigmoid .. => ⟨true, true, false, false⟩
  | .vopTanh .. => ⟨true, true, false, false⟩
  | .vopExp .. => ⟨true, true, false, false⟩
  | .vopRecip .. => ⟨true, true, false, false⟩
  | .vopRsqrt .. => ⟨true, true, false, false⟩
  | .vopRsum .. => ⟨true, true, false, false⟩
  | .vopRmax .. => ⟨true, true, false, false⟩
  | .barrier .. => ⟨true, false, false, false⟩
  | .barrierRelease .. => ⟨false, false, false, false⟩
  | .lbcfg .. => ⟨true, false, false, false⟩
  | .badOpcode .. => ⟨true, false, false, false⟩
  | .tileMaxExpired .. => ⟨false, false, false, false⟩
  | .contextSaveDone .. => ⟨true, false, false, false⟩
  | .contextRestoreDone .. => ⟨false, true, false, false⟩
  | .cmdWatchdogExpired .. => ⟨true, false, false, false⟩
  | .mopFill .. => ⟨false, false, false, false⟩
  | .mopCopy .. => ⟨false, false, false, false⟩
  | .mopStart .. => ⟨false, false, false, false⟩
  | .mopDone .. => ⟨true, false, false, false⟩
  | .clearGo .. => ⟨false, false, false, false⟩
  | .clearZeroDone .. => ⟨true, true, false, false⟩
  | .clearVerifyDone .. => ⟨false, false, false, false⟩
  | .ticketRequest .. => ⟨false, false, false, false⟩
  | .remoteWrite .. => ⟨true, true, false, true⟩
  | .ticketExpired .. => ⟨false, false, false, false⟩
  | .ticketReturn .. => ⟨false, false, false, false⟩
  | .ticketRetry .. => ⟨false, false, false, false⟩
  | .tktWaitExpired .. => ⟨false, false, false, false⟩
  | .windowArm .. => ⟨false, false, false, false⟩
  | .meshTimeout .. => ⟨true, false, false, false⟩
  | .ferryQPush .. => ⟨false, false, false, false⟩
  | .ferryTransferStart .. => ⟨false, false, false, false⟩
  | .ferryTransferDone .. => ⟨true, false, false, false⟩
  | .deadlineReevaluate .. => ⟨true, false, false, false⟩
  | .placement .. => ⟨false, false, false, false⟩
  | .jobComplete .. => ⟨true, false, false, false⟩
  | .jobTimeout .. => ⟨false, false, false, false⟩
  | .cancel .. => ⟨true, false, false, false⟩
  | .acctSel .. => ⟨false, false, false, false⟩
  | .acctSelClear .. => ⟨false, false, false, false⟩
  | .selftest .. => ⟨false, false, false, false⟩
  | .selftestDone .. => ⟨false, true, false, false⟩
  | .restore .. => ⟨false, false, false, false⟩
  | .cntClr .. => ⟨false, false, false, false⟩
  | .rmonExpired .. => ⟨false, false, false, false⟩
  | .infLogPop .. => ⟨false, false, false, false⟩
  | .dmcHoldClear .. => ⟨false, false, false, false⟩
  | .dramTrainingDone .. => ⟨true, false, false, false⟩
  | .eccInitDone .. => ⟨true, false, false, false⟩
  | .refreshWindowStart .. => ⟨true, false, false, false⟩
  | .refreshWindowEnd .. => ⟨false, false, false, false⟩
  | .refreshAnnounce .. => ⟨false, false, false, false⟩
  | .mr4Poll .. => ⟨false, false, false, false⟩
  | .rowIdleClose .. => ⟨false, false, false, false⟩
  | .patrolScrub .. => ⟨false, false, false, false⟩
  | .dmcCtrlFail .. => ⟨false, false, false, false⟩
  | .triggerFire .. => ⟨true, false, false, false⟩
  | .triggerForce .. => ⟨false, false, false, false⟩
  | .extTrigEdge .. => ⟨false, false, false, false⟩
  | .holdoffEnd .. => ⟨false, false, false, false⟩
  | .autoTrigger .. => ⟨true, false, false, false⟩
  | .programArm .. => ⟨true, false, false, false⟩
  | .programDisarm .. => ⟨true, false, false, false⟩
  | .prefillDone .. => ⟨false, false, false, false⟩
  | .berthComplete .. => ⟨true, false, false, false⟩
  | .berthStart .. => ⟨true, false, false, false⟩
  | .streamCopyStart .. => ⟨false, false, false, false⟩
  | .streamCopyDone .. => ⟨true, false, false, false⟩
  | .calSwapDue .. => ⟨false, false, false, false⟩
  | .foregroundCalDone .. => ⟨false, false, false, false⟩
  | .scopePermitWrite .. => ⟨false, false, false, false⟩
  | .settlingDone .. => ⟨false, false, false, false⟩
  | .fdigPllUnlock => ⟨false, false, false, false⟩
  | .fdigPllRelock .. => ⟨false, false, false, false⟩
  | .probeOverload .. => ⟨false, false, false, false⟩
  | .overloadRecover .. => ⟨false, false, false, false⟩
  | .senseConversion .. => ⟨false, false, false, false⟩
  | .dcEvaluate .. => ⟨false, false, false, false⟩
  | .senseFrameBoundary .. => ⟨false, false, false, false⟩
  | .seqCommit .. => ⟨false, false, false, false⟩
  | .senseSwapDue .. => ⟨false, false, false, false⟩
  | .urgentConversionRequest .. => ⟨false, false, false, false⟩
  | .urgentConversionDone .. => ⟨false, false, false, false⟩
  | .retryTimeout .. => ⟨false, false, false, false⟩
  | .retryOk .. => ⟨false, false, false, false⟩
  | .protClr .. => ⟨false, false, false, false⟩
  | .forceHold .. => ⟨false, false, false, false⟩
  | .protSelfCheck .. => ⟨false, false, false, false⟩
  | .protLogPop .. => ⟨false, false, false, false⟩
  | .carrierCycleStart .. => ⟨false, false, false, false⟩
  | .channelEnable .. => ⟨false, false, false, false⟩
  | .psenLeadEnd .. => ⟨false, false, false, false⟩
  | .psenLagEnd .. => ⟨false, false, false, false⟩
  | .threadRun .. => ⟨false, false, false, false⟩
  | .threadStop .. => ⟨false, false, false, false⟩
  | .wseqNop .. => ⟨false, false, false, false⟩
  | .thrPlay .. => ⟨false, false, false, false⟩
  | .thrPlaya .. => ⟨false, false, false, false⟩
  | .thrVec .. => ⟨false, false, false, false⟩
  | .thrLoop .. => ⟨false, false, false, false⟩
  | .thrEndl .. => ⟨false, false, false, false⟩
  | .thrCall .. => ⟨false, false, false, false⟩
  | .thrRet .. => ⟨false, false, false, false⟩
  | .thrJmp .. => ⟨false, false, false, false⟩
  | .thrWait .. => ⟨false, false, false, false⟩
  | .waitTimeExpired .. => ⟨false, false, false, false⟩
  | .thrGain .. => ⟨false, false, false, false⟩
  | .thrSig .. => ⟨false, false, false, false⟩
  | .thrHalt .. => ⟨false, false, false, false⟩
  | .badInstr .. => ⟨false, false, false, false⟩
  | .segmentEnd .. => ⟨false, false, false, false⟩
  | .switchLinePulse .. => ⟨false, false, false, false⟩
  | .lineSw .. => ⟨false, false, false, false⟩
  | .chimeReadyWrite .. => ⟨false, false, false, false⟩
  | .chimeStart .. => ⟨false, false, false, false⟩
  | .chimeStop .. => ⟨false, false, false, false⟩
  | .chimeEnd .. => ⟨false, false, false, false⟩
  | .streamFetch .. => ⟨true, false, false, false⟩
  | .memDataWrite .. => ⟨false, true, false, false⟩
  | .memDataRead .. => ⟨false, false, false, false⟩
  | .loadEngineGo .. => ⟨false, false, false, false⟩
  | .loadEngineDone .. => ⟨true, true, false, false⟩
  | .sampleTick .. => ⟨true, false, false, false⟩
  | .aleWake .. => ⟨true, false, false, false⟩
  | .aleDone .. => ⟨false, false, false, false⟩
  | .tdmFrame .. => ⟨true, false, false, false⟩
  | .pdmSample .. => ⟨true, false, false, false⟩
  | .exportPush .. => ⟨false, false, false, false⟩
  | .exportDone .. => ⟨true, false, false, false⟩
  | .coefficientCommit .. => ⟨false, false, false, false⟩
  | .frameStartLost .. => ⟨false, false, false, false⟩
  | .audioPllUnlock => ⟨false, false, false, false⟩
  | .aleCoreFault .. => ⟨false, false, false, false⟩
  | .localTimeAlign .. => ⟨false, false, false, false⟩
  | .csiFrameStart .. => ⟨false, false, false, false⟩
  | .csiLongPacket .. => ⟨true, false, false, false⟩
  | .csiFrameEnd .. => ⟨false, false, false, false⟩
  | .frameComplete .. => ⟨true, false, false, false⟩
  | .slotRelease .. => ⟨false, false, false, false⟩
  | .noSignalTimeout .. => ⟨false, false, false, false⟩
  | .voutEnable .. => ⟨false, false, false, false⟩
  | .linkTrainingDone .. => ⟨false, false, false, false⟩
  | .displayLinkRetrain .. => ⟨false, false, false, false⟩
  | .hpdLost .. => ⟨false, false, false, false⟩
  | .flip .. => ⟨false, false, false, false⟩
  | .vblankStart .. => ⟨false, false, false, false⟩
  | .frameFirstLine .. => ⟨false, false, false, false⟩
  | .layerUnderrun .. => ⟨true, false, false, false⟩
  | .auxRead .. => ⟨false, false, false, false⟩
  | .auxWrite .. => ⟨false, false, false, false⟩
  | .auxDone .. => ⟨false, false, false, false⟩
  | .ethFrameRx .. => ⟨false, false, false, false⟩
  | .canFrameRx .. => ⟨false, false, false, false⟩
  | .egressTransmit .. => ⟨true, false, false, false⟩
  | .gateControlEntry .. => ⟨false, false, false, false⟩
  | .qbvCommit .. => ⟨false, false, false, false⟩
  | .qbvListActivate .. => ⟨false, false, false, false⟩
  | .verdictRelease .. => ⟨false, false, false, false⟩
  | .verdictReleaseMask .. => ⟨false, false, false, false⟩
  | .verdictDrop .. => ⟨false, false, false, false⟩
  | .inspDataRead .. => ⟨false, false, false, false⟩
  | .inspectionTimeout .. => ⟨false, false, false, false⟩
  | .txOriginate .. => ⟨false, false, false, false⟩
  | .txDataWrite .. => ⟨false, false, false, false⟩
  | .hostEnable .. => ⟨false, false, false, false⟩
  | .hostTxEntry .. => ⟨true, false, false, false⟩
  | .tableDataWrite .. => ⟨false, true, false, false⟩
  | .tableDataRead .. => ⟨false, false, false, false⟩
  | .ethLinkChange .. => ⟨false, false, false, false⟩
  | .canErrorStateChange .. => ⟨false, false, false, false⟩
  | .rlinkTrainingDone .. => ⟨false, false, false, false⟩
  | .linkLowPowerEntry .. => ⟨false, false, false, false⟩
  | .rlinkRetrain .. => ⟨false, false, false, false⟩
  | .fabRd .. => ⟨true, true, false, true⟩
  | .fabRdc .. => ⟨false, false, false, false⟩
  | .fabWr .. => ⟨true, true, false, true⟩
  | .fabWra .. => ⟨false, false, false, false⟩
  | .tktReq .. => ⟨false, false, false, false⟩
  | .tktAns .. => ⟨false, false, false, false⟩
  | .tktRet .. => ⟨false, false, false, false⟩
  | .fabProbe .. => ⟨false, false, false, false⟩
  | .identify .. => ⟨false, false, false, false⟩
  | .notReady .. => ⟨false, false, false, false⟩
  | .assign .. => ⟨false, false, false, false⟩
  | .fabCommit .. => ⟨false, false, false, false⟩
  | .linkEvent .. => ⟨false, false, false, false⟩
  | .rediscover .. => ⟨false, false, false, false⟩
  | .probeRetry .. => ⟨false, false, false, false⟩
  | .discoveryTimeout .. => ⟨false, false, false, false⟩
  | .syncFrameTx .. => ⟨false, false, false, false⟩
  | .syncFrameRx .. => ⟨false, false, false, false⟩
  | .echoMarkerTx .. => ⟨false, false, false, false⟩
  | .echoMarkerRx .. => ⟨false, false, false, false⟩
  | .masterLost .. => ⟨false, false, false, false⟩
  | .perturbCtlWrite .. => ⟨false, false, false, false⟩
  | .perturbEnable .. => ⟨false, false, false, false⟩
  | .stallPulse .. => ⟨false, false, false, false⟩
  | .jitterDraw => ⟨false, false, false, false⟩
  | .forceEcc1 .. => ⟨false, false, false, false⟩
  | .forceEcc2 .. => ⟨false, false, false, false⟩
  | .forceChk .. => ⟨false, false, false, false⟩
  | .forceTkt .. => ⟨false, false, false, false⟩
  | .forceDetect .. => ⟨false, false, false, false⟩
  | .forceCancel .. => ⟨false, false, false, false⟩
  | .supplyFault .. => ⟨true, true, false, true⟩
  | .referenceLoss .. => ⟨true, true, false, true⟩
  | .supplyRecovered .. => ⟨false, false, false, false⟩
  | .fdigSample .. => ⟨true, false, false, false⟩
  | .sliceCalibrationDone .. => ⟨false, false, false, false⟩
  | .spareCalibrationDone .. => ⟨false, false, false, false⟩
  | .gptpLost .. => ⟨false, false, false, false⟩
  | .audioPllRelock => ⟨false, false, false, false⟩
  | .pcieLinkChange .. => ⟨false, false, false, false⟩
  | .hpdRise .. => ⟨false, false, false, false⟩
  | .vddAonRise .. => ⟨true, false, false, false⟩
  | .vddAonLoss .. => ⟨true, true, false, true⟩

end Sys2Proof.Machine
end

