-- ==== Sys2Proof/Certificates/Slice0/Obligations.lean ====
section
/-! DEFINITION. The statements about the block, for the provers. A statement of several clauses covers one command, or one case of a
command, in each clause: under hypotheses on the state and the operands alone, exec answers the next state the clause gives. -/

open Sys2Proof Sys2Proof.Machine

/-- For every command and state, step with the command at the front of the queue is exec of the command on the state with the rest of
the queue; with an empty queue the block idles (the model's choice, log entry 1). From spec/INDEX.md. -/
def Obligations.StepRunsFront : Prop :=
  (∀ (s : State) (c : Instr) (l : List Instr), step { s with pending := c :: l } = exec c { s with pending := l }) ∧
  ∀ s : State, s.pending = [] → step s = .next s

/-- The state at reset is well formed, its queue and outputs are empty, the reset outputs are low (R110), the device is held, no stage
is reached and every page is unlocked (R51). From spec/02_register_pages.md, spec/04_staged_start.md. -/
def Obligations.ResetState : Prop :=
  State.reset.Inv ∧ State.reset.pending = [] ∧ State.reset.out = [] ∧ State.reset.boot.held = true ∧ State.reset.boot.faultN = false ∧
  State.reset.rd Reg.RST_STAGE = 0 ∧ ∀ c i : Nat, c < 64 → i < 256 → State.reset.bit (pageAddr c i + Hdr.PAGE_LOCK) 0 = false

/-- No command ends in a fault or a refusal: exec answers a next state for every command in every state. From spec/INDEX.md. -/
def Obligations.EveryCommandAnswers : Prop :=
  ∀ (i : Instr) (s : State), ∃ t, exec i s = .next t

/-- From every state with canonical sparse maps and the fixed numbers of instances, a step leads to a state with both (the canonical
form of memory is the model's own, log entry 4). From spec/02_register_pages.md. -/
def Obligations.StepKeepsInv : Prop :=
  ∀ s t : State, s.Inv → step s = .next t → t.Inv

/-- A step leaves the rest of the queue as it was; the base clock and the counter of free values never go back, and what was driven
out stays driven out (the model's own trace and counter, log entries 3 and 9). From spec/03_angle_time_base.md, spec/INDEX.md. -/
def Obligations.StepMovesForward : Prop :=
  ∀ s t : State, step s = .next t → t.pending = s.pending.tail ∧ s.clk.base ≤ t.clk.base ∧ s.free ≤ t.free ∧ s.out <+: t.out

/-- For every command, the memories it is not listed for keep every byte: memory, the inner memories, the fuses and the key slots of
SEC. From spec/09_grove_store_tickets.md, spec/06_heartwood_sapwood_debug.md, spec/14_dram_controllers.md,
spec/17_waveform_sequencer.md. -/
def Obligations.CommandsStoreOnlyWhat : Prop :=
  ∀ (i : Instr) (s t : State), exec i s = .next t →
    ((stores i).mem = false → (∀ a : Nat, t.byte a = s.byte a)) ∧ ((stores i).inner = false → (∀ a : Nat, t.ibyte a = s.ibyte a)) ∧
    ((stores i).fuse = false → t.fuse = s.fuse) ∧ ((stores i).keys = false → t.keys = s.keys)

/-- A WORLD_WRITE that passes the access checks of its page: on a locked page, one that would change OWNER or SAP_READ has no effect, counts
with cause LOCKED and sets VIOL, and one that would not changes nothing (the model's reading of R50 beside R53, log entry 54); on any
other page one from sapwood or with FIXED set has no effect and counts with cause WORLD; otherwise OWNER and SAP_READ take the value
written. A write refused so changes no register but PAGE_LOCK, ERR_CNT and ERR_INFO of the page. From spec/02_register_pages.md. -/
def Obligations.WorldOwner : Prop :=
  ∀ (s : State) (req : Requester) (code inst value : Nat), s.verdict req (pageAddr code inst + Hdr.WORLD) 4 true = .go →
  if s.bit (pageAddr code inst + Hdr.PAGE_LOCK) 0 = true ∧ s.getF (pageAddr code inst + Hdr.WORLD) 1 0 = value % 4 then
    exec (.worldWrite req code inst value) s = .next (s.respOk [])
  else ∃ t, exec (.worldWrite req code inst value) s = .next t ∧
  (if s.bit (pageAddr code inst + Hdr.PAGE_LOCK) 0 = true ∨ s.world req = false ∨ s.bit (pageAddr code inst + Hdr.WORLD) 31 = true then
    t.getF (pageAddr code inst + Hdr.ERR_CNT) 15 0 = min (s.getF (pageAddr code inst + Hdr.ERR_CNT) 15 0 + 1) 0xFFFF ∧
    t.getF (pageAddr code inst + Hdr.ERR_INFO) 7 0 =
      (if s.bit (pageAddr code inst + Hdr.PAGE_LOCK) 0 = true then Cause.LOCKED else Cause.WORLD) ∧
    (s.bit (pageAddr code inst + Hdr.PAGE_LOCK) 0 = true → t.bit (pageAddr code inst + Hdr.PAGE_LOCK) 1 = true) ∧
    ∀ a, a ≠ pageAddr code inst + Hdr.PAGE_LOCK → a ≠ pageAddr code inst + Hdr.ERR_CNT → a ≠ pageAddr code inst + Hdr.ERR_INFO → t.rd a = s.rd a
  else t.getF (pageAddr code inst + Hdr.WORLD) 1 0 = value % 4)

/-- An aligned 32-bit or 64-bit access to a page whose code is populated and whose instance is absent reads zero, writes nothing and completes
without an error response, the mesh counting its packets as of every access; one to a code from 0x25 to 0x3F is an access to an unmapped
address. Rule R46. -/
def Obligations.AbsentPages : Prop :=
  ∀ (s : State) (req : Requester) (addr value ecc : Nat) (ext : List Byte), regBase ≤ addr → addr < regEnd →
  (instCount (regCode addr) ≠ 0 → instCount (regCode addr) ≤ regInst addr →
    (addr % 4 = 0 → exec (.registerWrite req addr 4 value ext) s = .next ((s.respOk []).meshCrossed (s.access req addr 4 true []) false) ∧
      exec (.readClear req addr 4 ecc) s = .next ((s.respOk (List.replicate 4 0)).meshCrossed (s.access req addr 4 false []) false)) ∧
    (addr % 8 = 0 → exec (.registerWrite req addr 8 value ext) s = .next ((s.respOk []).meshCrossed (s.access req addr 8 true []) false) ∧
      exec (.readClear req addr 8 ecc) s = .next ((s.respOk (List.replicate 8 0)).meshCrossed (s.access req addr 8 false []) false))) ∧
  (0x25 ≤ regCode addr → ∀ (n : Nat) (w : Bool), s.verdict req addr n w = .deny Cause.UNMAPPED false)

/-- With the 16 entries of the log used, a new entry is dropped and OVF_CNT increments, saturating; an entry below that is appended.
Rule R107. -/
def Obligations.AngleLogFull : Prop :=
  ∀ (s : State) (t type d from' to' fq tq info : Nat),
    (16 ≤ s.ang.log.length → (s.angLog t type d from' to' fq tq info).ang.log = s.ang.log ∧
      (s.angLog t type d from' to' fq tq info).getF Reg.ANGLE_LOG_STAT 15 8 = min (s.getF Reg.ANGLE_LOG_STAT 15 8 + 1) 255) ∧
    (s.ang.log.length < 16 → (s.angLog t type d from' to' fq tq info).ang.log.length = s.ang.log.length + 1)

/-- With the 16 entries of the log used, a report is dropped from the log and OVF_CNT increments, saturating. Rule R559. -/
def Obligations.ProtectionLogFull : Prop :=
  ∀ (s : State) (type j irq : Nat) (forced : Bool) (peak : Nat), irq < 32 → 16 ≤ s.prot.log.length →
    (s.protReport type j irq forced peak).prot.log = s.prot.log ∧
    (s.protReport type j irq forced peak).getF Reg.PROT_LOG_STAT 15 8 = min (s.getF Reg.PROT_LOG_STAT 15 8 + 1) 255

/-- An error counted in a page increments ERR_CNT.COUNT up to 0xFFFF, and an error recorded in SYS_00 increments AERR_CNT up to
0xFFFF_FFFF; at its maximum a counter holds its value. Rule R61. -/
def Obligations.ErrorCountersSaturate : Prop :=
  ∀ (s : State),
    (∀ (page off cause : Nat) (heart : Bool),
      (s.pageErr page off cause heart).getF (page + Hdr.ERR_CNT) 15 0 = min (s.getF (page + Hdr.ERR_CNT) 15 0 + 1) 0xFFFF) ∧
    ∀ (req : Requester) (heart : Bool) (addr cause : Nat) (write : Bool),
      (s.sysErr req heart addr cause write).rd Reg.SYS_AERR_CNT = min (s.rd Reg.SYS_AERR_CNT + 1) 0xFFFFFFFF

/-- While AERR_INFO.VALID is 1 an error leaves AERR_LO, AERR_HI and AERR_INFO as they are; while it is 0 an error is captured and
VALID sets; AERR_CNT counts in both cases; a write of AERR_INFO that passes the checks clears VALID where it writes 1 to it and
keeps it where it writes 0. Rule R62. -/
def Obligations.ErrorCapture : Prop :=
  ∀ (s : State) (req : Requester),
    (∀ (heart : Bool) (addr cause : Nat) (write : Bool),
      (s.sysErr req heart addr cause write).rd Reg.SYS_AERR_CNT = min (s.rd Reg.SYS_AERR_CNT + 1) 0xFFFFFFFF ∧
      (if s.bit Reg.SYS_AERR_INFO 31 = true then
        ∀ a, a ≠ Reg.SYS_AERR_CNT → (s.sysErr req heart addr cause write).rd a = s.rd a
      else (s.sysErr req heart addr cause write).rd Reg.SYS_AERR_LO = addr % 2 ^ 32 ∧
        (s.sysErr req heart addr cause write).rd Reg.SYS_AERR_HI = addr / 2 ^ 32 % 2 ^ 16 ∧
        (reqCode req < 2 ^ 16 → cause < 16 → (s.sysErr req heart addr cause write).bit Reg.SYS_AERR_INFO 31 = true))) ∧
    ∀ (value : Nat) (ext : List Byte), s.verdict req Reg.SYS_AERR_INFO 4 true = .go →
      ∃ t, exec (.registerWrite req Reg.SYS_AERR_INFO 4 value ext) s = .next t ∧
        t.bit Reg.SYS_AERR_INFO 31 = (s.bit Reg.SYS_AERR_INFO 31 && !value.testBit 31)

/-- A 32-bit write that its checks refuse with an error response returns the cause and changes no register but ERR_CNT and ERR_INFO of the
page and of the requester's page, the SYS_00 capture, the interrupt bits of SYS_00 and the packet counters of the mesh; nor any memory.
For a requester without a page the capture counts it. From spec/02_register_pages.md, spec/10_mesh_landings.md. -/
def Obligations.RefusedWriteChangesNothing : Prop :=
  ∀ (s : State) (req : Requester) (addr value cause : Nat) (count : Bool) (ext : List Byte), targetOf addr = .regs →
    s.verdict req addr 4 true = .deny cause count →
    ∃ t, exec (.registerWrite req addr 4 value ext) s = .next t ∧ t.resp.err = true ∧ t.resp.cause = cause ∧ t.resp.data = [] ∧
      t.mem = s.mem ∧ t.inner = s.inner ∧ t.fuse = s.fuse ∧ t.keys = s.keys ∧
      ∀ a, regCode a ≠ Blk.MESH → regOff a ≠ Hdr.ERR_CNT → regOff a ≠ Hdr.ERR_INFO → a ∉ [Reg.SYS_AERR_LO, Reg.SYS_AERR_HI, Reg.SYS_AERR_INFO, Reg.SYS_AERR_CNT,
        pageAddr Blk.SYS 0 + Hdr.IRQ_RAW, pageAddr Blk.SYS 0 + Hdr.IRQ_PEND] → t.rd a = s.rd a

/-- Each clause assumes that the access passes the checks of its page, or that the address is in the register region, and says what the
command leaves. A write of PAGE_LOCK sets LOCK where it writes 1 to bit 0 and keeps it otherwise, clears VIOL where it writes 1 to bit 1,
takes LOCK_WORLD from the writer where LOCK is newly set, and leaves every other register. A heartwood write of WORLD on a page with
neither LOCK nor FIXED set stores OWNER and SAP_READ, and a change of OWNER clears IRQ_EN and IRQ_PEND. A write of IRQ_FORCE sets the bits
of IRQ_PEND at which it writes 1 and which the page defines, and leaves every other register. A write of any size to the register region
is the register access of that size, counted on the mesh. A 32-bit write of IRQ_EN of an unlocked page outside MESH stores the bits that
the page defines and keeps the others. A read of any size of the register region is the register access of that size, counted on the mesh.
A 32-bit read of ERR_CNT of a page outside DBG and MESH returns it and clears its fields of the access type RC. From
spec/02_register_pages.md. -/
def Obligations.PageCommands : Prop :=
  ∀ s : State,
    (∀ (req : Requester) (code inst value : Nat), s.verdict req (pageAddr code inst + Hdr.PAGE_LOCK) 4 true = .go → ∃ v, exec (.pageLock req code inst value) s = .next v ∧ v.bit (pageAddr code inst + Hdr.PAGE_LOCK) 0 = (s.bit (pageAddr code inst + Hdr.PAGE_LOCK) 0 || value.testBit 0) ∧ v.bit (pageAddr code inst + Hdr.PAGE_LOCK) 1 = (s.bit (pageAddr code inst + Hdr.PAGE_LOCK) 1 && !value.testBit 1) ∧ v.bit (pageAddr code inst + Hdr.PAGE_LOCK) 8 = (if (value.testBit 0 && !s.bit (pageAddr code inst + Hdr.PAGE_LOCK) 0) = true then s.world req else s.bit (pageAddr code inst + Hdr.PAGE_LOCK) 8) ∧ ∀ a, a ≠ pageAddr code inst + Hdr.PAGE_LOCK → v.rd a = s.rd a) ∧
    (∀ (req : Requester) (code inst value : Nat), s.verdict req (pageAddr code inst + Hdr.WORLD) 4 true = .go → s.world req = true → s.bit (pageAddr code inst + Hdr.PAGE_LOCK) 0 = false → s.bit (pageAddr code inst + Hdr.WORLD) 31 = false → ∃ v, exec (.worldWrite req code inst value) s = .next v ∧ v.getF (pageAddr code inst + Hdr.WORLD) 1 0 = value % 4 ∧ (s.getF (pageAddr code inst + Hdr.WORLD) 0 0 ≠ value % 2 → v.rd (pageAddr code inst + Hdr.IRQ_EN) = 0 ∧ v.rd (pageAddr code inst + Hdr.IRQ_PEND) = 0)) ∧
    (∀ (req : Requester) (code inst value : Nat), s.verdict req (pageAddr code inst + Hdr.IRQ_FORCE) 4 true = .go → ∃ v, exec (.irqForce req code inst value) s = .next v ∧ v.rd (pageAddr code inst + Hdr.IRQ_PEND) = (s.rd (pageAddr code inst + Hdr.IRQ_PEND) ||| value &&& irqBits (regCode (pageAddr code inst)) (regInst (pageAddr code inst))) % 2 ^ 32 ∧ ∀ a, a ≠ pageAddr code inst + Hdr.IRQ_PEND → v.rd a = s.rd a) ∧
    (∀ (req : Requester) (addr size value : Nat) (ext : List Byte), targetOf addr = .regs → exec (.registerWrite req addr size value ext) s = .next ((s.regAccess req addr size true value 0 ext).meshCrossed (s.access req addr size true []) false)) ∧
    (∀ (req : Requester) (addr value : Nat) (ext : List Byte) (r : RegRow), targetOf addr = .regs → s.verdict req addr 4 true = .go → regOff addr = Hdr.IRQ_EN → s.bit (pageOf addr + Hdr.PAGE_LOCK) 0 = false → reservedBits (limitCode (regCode addr) (regInst addr)) (regOff addr) (value % 2 ^ 32) = 0 → rowOf addr = some r → r.w1s = 0 → r.w1c = 0 → r.rwl = 0 → regCode addr ≠ Blk.MESH → ∃ v, exec (.registerWrite req addr 4 value ext) s = .next v ∧ v.rd addr = (s.rd addr &&& (0xFFFFFFFF ^^^ r.rw) ||| value % 2 ^ 32 &&& r.rw) % 2 ^ 32) ∧
    (∀ (req : Requester) (addr size ecc : Nat), targetOf addr = .regs → exec (.readClear req addr size ecc) s = .next ((s.regAccess req addr size false 0 ecc []).meshCrossed (s.access req addr size false []) false)) ∧
    (∀ (req : Requester) (addr ecc : Nat), targetOf addr = .regs → s.verdict req addr 4 false = .go → addr % 4 = 0 → regOff addr = Hdr.ERR_CNT → regCode addr ≠ Blk.DBG → regCode addr ≠ Blk.MESH → ∃ v, exec (.readClear req addr 4 ecc) s = .next v ∧ v.resp.data = leBytes 4 (s.rd addr &&& (0xFFFFFFFF ^^^ woMask addr)) ∧ v.rd addr = s.rd addr &&& (0xFFFFFFFF ^^^ rcMask addr))

/-- The access a of a MEMORY_ACCESS is a write with its data where write is set and fetch is not, and a read of len bytes otherwise; that of a
REMOTE_WRITE is a write of its data. A MEMORY_ACCESS of any form is the access of its requester to its address. Where nothing goes before
it and its target answers without an error, it ends in a response with the bytes of the answer. A REMOTE_WRITE to a grove store or an ALE
TCM is the write with its ticket. Where nothing goes before it and its memory takes it, it ends in a response without an error. A held
access that may be served now, and that its target no longer holds, leaves the queue, is served, and its answer goes to whoever waits for
it. A held ticket request that may be served now, and whose office takes requests, leaves the queue, is answered by the office, and the
answer goes to whoever waits for it. From spec/02_register_pages.md, spec/09_grove_store_tickets.md, spec/10_mesh_landings.md. -/
def Obligations.MemoryAccesses : Prop :=
  ∀ s : State,
    (∀ (req : Requester) (addr len : Nat) (write fetch : Bool) (data : List Byte) (cacheable : Bool) (tkt : Option Nat) (env : MemEnv), exec (.memoryAccess req addr len write fetch data cacheable tkt env) s = .next (s.memAccess { s.access req addr len (write && !fetch) data with fetch := fetch, tkt := tkt } cacheable env)) ∧
    (∀ (req : Requester) (addr len : Nat) (write fetch : Bool) (data : List Byte) (cacheable : Bool) (tkt : Option Nat) (env : MemEnv) (d : List Byte), s.mustWait { s.access req addr len (write && !fetch) data with fetch := fetch, tkt := tkt } = false → (s.carry { s.access req addr len (write && !fetch) data with fetch := fetch, tkt := tkt } (Access.isLocal { s.access req addr len (write && !fetch) data with fetch := fetch, tkt := tkt }) cacheable env).1 = .ok d → ∃ v, exec (.memoryAccess req addr len write fetch data cacheable tkt env) s = .next v ∧ v.resp.data = d ∧ v.resp.err = false) ∧
    (∀ (req : Requester) (addr : Nat) (data : List Byte) (tkt : Option Nat) (env : MemEnv) (k : Nat), officeOf addr = some k → k < 24 → exec (.remoteWrite req addr data tkt env) s = .next (s.memAccess { s.access req addr data.length true data with tkt := tkt } false env)) ∧
    (∀ (req : Requester) (addr : Nat) (data : List Byte) (tkt : Option Nat) (env : MemEnv) (k : Nat) (d : List Byte), officeOf addr = some k → k < 24 → s.mustWait { s.access req addr data.length true data with tkt := tkt } = false → (s.carry { s.access req addr data.length true data with tkt := tkt } (Access.isLocal { s.access req addr data.length true data with tkt := tkt }) false env).1 = .ok d → ∃ v, exec (.remoteWrite req addr data tkt env) s = .next v ∧ v.resp.data = d ∧ v.resp.err = false) ∧
    (∀ (k : Nat) (env : MemEnv) (a : Access) (cacheable : Bool) (back : Back) (since : Nat), s.held[k]? = some (.access a cacheable back since) → s.mayServe k (.access a cacheable back since) = true → (State.carry { s.picked a with held := s.held.eraseIdx k } a a.isLocal cacheable env).1 ≠ .held → exec (.heldAccessServed k env) s = .next (State.giveAnswer (State.carry { s.picked a with held := s.held.eraseIdx k } a a.isLocal cacheable env).2 a back (State.carry { s.picked a with held := s.held.eraseIdx k } a a.isLocal cacheable env).1)) ∧
    (∀ (k : Nat) (env : MemEnv) (o : Nat) (a : Access) (off len : Nat) (back : Back), s.held[k]? = some (.ticket o a off len back) → s.mayServe k (.ticket o a off len back) = true → s.officeHolds o = false → exec (.heldAccessServed k env) s = .next (State.giveTicket (State.ticketRequest { s with held := s.held.eraseIdx k } o a off len false).2.2 back (State.ticketRequest { s with held := s.held.eraseIdx k } o a off len false).1 (State.ticketRequest { s with held := s.held.eraseIdx k } o a off len false).2.1))

/-- Each event takes place with the clocks run to its base tick, while the angle clock tracks. An edge of either direction on an enabled WSS,
of a pulse no shorter than the glitch filter, is taken as the CFG of the source says, after the losses that are due by then, and the
domains are shown. One of a shorter pulse is ignored. A pulse that lasts DIR_PW µs marks reverse travel; the tooth on its rising edge,
where EDGE takes one, is processed in reverse, after the losses that are due by then, and the domains are shown. A quadrature count stamps
TS with TIME and is an event of one count in the direction that CFG leaves, after the losses that are due by then. A position word stamps
TS; the first gives the position of the source, and a later one is an event of the signed difference from the last where that is not 0. A
source that has been silent for its time, and is not lost, falls silent: it is lost where other sources move, and silent in SRC_STAT
otherwise, and where nothing moves any more the domains stop. A speed message older than MAX_AGE ms makes the speed source lost. A domain
that has been at Q0 for HOLD_MAX ms, and has not shown it yet, sets HOLD_EXP and logs it. From spec/03_angle_time_base.md. -/
def Obligations.AngleSourceEvents : Prop :=
  ∀ s : State,
    (∀ (i : Nat) (rising : Bool) (pulse t : Nat), i < 4 → (s.tickTo t).tracking = true → (s.tickTo t).srcOn i = true → (s.tickTo t).getF (srcCfg i) 23 16 * 40 ≤ pulse → exec (.wssEdge i rising pulse t) s = .next ((((s.tickTo t).lossFirst i t).wssEdge i rising t).publish)) ∧
    (∀ (i : Nat) (rising : Bool) (pulse t : Nat), i < 4 → (s.tickTo t).tracking = true → (s.tickTo t).srcOn i = true → pulse < (s.tickTo t).getF (srcCfg i) 23 16 * 40 → exec (.wssEdge i rising pulse t) s = .next (s.tickTo t)) ∧
    (∀ (i t r : Nat), i < 4 → (s.tickTo t).tracking = true → (s.tickTo t).srcOn i = true → (s.tickTo t).getF (srcCfg i) 13 12 = 1 → ((s.tickTo t).src i).rise = some r → ((s.tickTo t).src i).rev = none → r + (s.tickTo t).getF (srcCfg i) 31 24 * 400 ≤ t → exec (.dirPwTimeout i t) s = .next (let u := ((s.tickTo t).lossFirst i t).setSrc i fun x => { x with rev := some true }; State.publish (if u.getF (srcCfg i) 9 8 ≠ 1 then u.wssTooth i r (-1) else u))) ∧
    (∀ (m : Nat) (up z : Bool) (t : Nat), m < 2 → (s.tickTo t).tracking = true → (s.tickTo t).getF (Reg.ANGLE_MPOS_CFG m) 1 0 = 1 → exec (.quadCount m up z t) s = .next (
      let s := s.tickTo t
      let fwd := up != s.bit (Reg.ANGLE_MPOS_CFG m) 2
      let s := (s.lossFirst (4 + m) t).wr (srcTs (4 + m)) (s.timeAt t % 2 ^ 32)
      (s.srcEvent (4 + m) t (s.pitch (4 + m)) (if fwd then 1 else -1) z false).publish)) ∧
    (∀ (m word t : Nat), m < 2 → (s.tickTo t).tracking = true → (s.tickTo t).getF (Reg.ANGLE_MPOS_CFG m) 1 0 = 2 → exec (.spiRdcSample m word t) s = .next (
      let s := s.tickTo t
      let wd := s.getF (Reg.ANGLE_MPOS_CFG m) 7 4 + 1
      let raw := word % 2 ^ wd * 2 ^ (24 - wd)
      let pos := if s.bit (Reg.ANGLE_MPOS_CFG m) 2 then (2 ^ 24 - raw) % 2 ^ 24 else raw
      let i := 4 + m
      let s := (s.lossFirst i t).wr (srcTs i) (s.timeAt t % 2 ^ 32)
      let old := (s.src i).word
      let s := s.setSrc i fun x => { x with word := some pos }
      match old with
      | none =>
        let s := (s.each (List.range 3) fun s d => s.setDom d fun D => { D with th := D.th.set i none }).setSrc i fun x => { x with th := pos }
        (s.acceptTooth i t 0 (s.src i).dir false true).publish
      | some old =>
        let d := sgn 24 ((pos + 2 ^ 24 - old) % 2 ^ 24)
        (if d = 0 then s else s.srcEvent i t ((d.natAbs : Nat) : Rat) (if d < 0 then -1 else 1) false false).publish)) ∧
    (∀ (i t : Nat), i < 6 → (s.tickTo t).tracking = true → (s.tickTo t).srcOn i = true → (s.tickTo t).srcState i ≠ SrcSt.LOST → (s.tickTo t).silentDue i = true → exec (.sourceSilenceTimeout i t) s = .next (((s.tickTo t).goSilent i (s.tickTo t).clk.base).publish)) ∧
    (∀ (t t1 n : Nat) (l : List (Nat × Nat)), (s.tickTo t).ang.msgs = (t1, n) :: l → (s.tickTo t).tracking = true → (s.tickTo t).ang.spdOk = true → 400000 * (s.tickTo t).getF Reg.ANGLE_SPD_CFG 15 0 < (s.tickTo t).clk.base - t1 → exec (.speedMessageExpired t) s = .next (State.loseSrc { (s.tickTo t) with ang := { (s.tickTo t).ang with spdOk := false } } 6 (s.tickTo t).clk.base 0).motionCheck.publish) ∧
    (∀ (d t : Nat), d < 3 → ((s.tickTo t).tracking || ((s.tickTo t).cascOn && decide ((s.tickTo t).getF Reg.CASC_STAT 2 0 = 4))) = true → (s.tickTo t).acquiring d = false → (s.tickTo t).effQ d = 0 → (s.tickTo t).bit (Reg.ANGLE_DOM_STAT d) 15 = false → ((s.tickTo t).adom d).holdAt + 400000 * (s.tickTo t).getF (Reg.ANGLE_DOM_LIMITS d) 23 8 ≤ (s.tickTo t).clk.base → exec (.holdExpired d t) s = .next ((((s.tickTo t).holdExp d true).angLog t LogT.HOLD_EXPIRED d 7 7 0 0 0).publish))

/-- A register write is one that passes its checks. A bus update shows every domain and TIME, ages the speed message, keeps the trail of
published angles, and updates the 64 alarms. It latches TIME_HI and leaves the clocks at its base tick. A write of ALM_nn_CFG is the write
of that alarm. One that leaves EN at 0 takes the alarm out of those that are late. A write of ANGLE_00.CTL stores it; where EN changes the
sources and domains start again or hold, and where CASCADE falls the following ends. A write of the CFG of a source stores it and starts
the source as it says. A write of PRED_CTL is the prediction it asks for. With GO and a domain it gives PRED_NS the predicted time. A
write of LOG_POP with 1 at bit 0 takes the oldest entry out of the log. The log is then the rest. A Sync on the SLAVE port of a link whose
peer delay is known steers TIME by its offset. A peer-delay exchange of a working port shows the delay, and whether it is within the
limit; gPTP is lost where the SLAVE port leaves it. Where the port was not within it before, PTP_STAT shows both. A MASTER port sends
TIME, relayed where a SLAVE port exists. The loss of gPTP on the SLAVE port puts TIME into HOLDOVER where it had acquired or locked and
the cascade is not followed. While the jitter of the perturbation window is in effect, every domain in DOM_MASK takes a new offset. From
spec/03_angle_time_base.md, spec/21_networks_gateway.md, spec/24_perturbation.md. -/
def Obligations.AngleCommands : Prop :=
  ∀ s : State,
    (∀ (t : Nat), (s.tickTo t).aEntry = true → exec (.angleBusUpdate t) s = .next (
      let s := s.tickTo t
      let old := (List.range 3).map fun d => (s.adom d).seen
      let s := (s.each (List.range 3) fun s d => s.domShow d s.clk.base).wr Reg.ANGLE_TIME_LO s.timeLo
      let s := { s with ang := { s.ang with timeHi := s.timeHi } }
      let s := match s.ang.msgs with
        | (tm, _) :: _ => s.putF Reg.ANGLE_SPD_VAL 31 16 (min 65535 ((s.clk.base - tm) / 400000))
        | [] => s
      let s := { s with ang := { s.ang with
        trail := pruneTrail s.clk.base ((s.clk.base, (List.range 3).map fun d => (s.adom d).shown) :: s.ang.trail) } }
      let s := s.each (List.range 3) fun s d => s.setDom d fun D => { D with seen := D.shown }
      s.each (List.range 64) fun s n => s.alarmUpdate old n)) ∧
    (∀ (t : Nat), (s.tickTo t).aEntry = true → ∃ v, exec (.angleBusUpdate t) s = .next v ∧ v.ang.timeHi = (s.tickTo t).timeHi ∧ v.clk = (s.tickTo t).clk) ∧
    (∀ (req : Requester) (n value : Nat), n < 64 → s.verdict req (Reg.ANGLE_ALM_CFG n) 4 true = .go → exec (.alarmEnable req n value) s = .next ((s.respOk []).writeAlarm req n value)) ∧
    (∀ (req : Requester) (n value : Nat), n < 64 → s.verdict req (Reg.ANGLE_ALM_CFG n) 4 true = .go → (State.regStore (s.respOk []) req (Reg.ANGLE_ALM_CFG n) value).bit (Reg.ANGLE_ALM_CFG n) 0 = false → ∃ v, exec (.alarmEnable req n value) s = .next v ∧ n ∉ v.ang.late) ∧
    (∀ (req : Requester) (value : Nat), s.verdict req Reg.ANGLE_CTL 4 true = .go → exec (.angleEnable req value) s = .next (((s.respOk []).regStore req Reg.ANGLE_CTL value).angleCtl ((s.respOk []).rd Reg.ANGLE_CTL))) ∧
    (∀ (req : Requester) (i value : Nat), i < 7 → s.verdict req (srcCfg i) 4 true = .go → exec (.sourceConfigWrite req i value) s = .next (((s.respOk []).regStore req (srcCfg i) value).srcConfigured i)) ∧
    (∀ (req : Requester) (value : Nat), s.verdict req Reg.ANGLE_PRED_CTL 4 true = .go → exec (.prediction req value) s = .next ((s.respOk []).writePredCtl req value)) ∧
    (∀ (req : Requester) (value : Nat), s.verdict req (Reg.ANGLE_PRED_CTL) 4 true = .go → value.testBit 31 = true → value % 4 ≠ 3 → ∃ v, exec (.prediction req value) s = .next v ∧ v.rd Reg.ANGLE_PRED_NS = s.predictNs (value % 4) (s.rd Reg.ANGLE_PRED_TARGET) % 2 ^ 32) ∧
    (∀ (req : Requester) (value : Nat), s.verdict req Reg.ANGLE_LOG_POP 4 true = .go → exec (.logPop req value) s = .next ((s.respOk []).popAngLog value)) ∧
    (∀ (req : Requester) (value : Nat), s.verdict req (Reg.ANGLE_LOG_POP) 4 true = .go → value.testBit 0 = true → ∃ v, exec (.logPop req value) s = .next v ∧ v.ang.log = s.ang.log.tail) ∧
    (∀ (p : Nat) (offset : Int) (locks : Bool) (t : Nat), p < 4 → (s.tickTo t).released Blk.ETH = true → (s.tickTo t).gwReady p = true → (s.tickTo t).ptpRole p = 2 → (s.tickTo t).bit (Reg.ETH_PTP_STAT p) 0 = true → exec (.gptpSyncRx p offset locks t) s = .next ((s.tickTo t).gptpOffset offset locks)) ∧
    (∀ (p delay t : Nat), p < 4 → (s.tickTo t).released Blk.ETH = true → (s.tickTo t).gwReady p = true → exec (.gptpPdelayRx p delay t) s = .next (
      let s := s.tickTo t
      let a := Reg.ETH_PTP_STAT p
      let ok := decide (delay ≤ s.getF (Reg.ETH_PTP_CFG p) 31 16)
      let was := s.bit a 0
      let s := (s.putBit a 0 ok).putF a 31 16 (min delay 65535)
      if was && !ok && decide (s.ptpRole p = 2) then s.gptpLost.evt (pageAddr Blk.ETH p) 1 else s)) ∧
    (∀ (p delay t : Nat), p < 4 → (s.tickTo t).released Blk.ETH = true → (s.tickTo t).gwReady p = true → (s.tickTo t).bit (Reg.ETH_PTP_STAT p) 0 = false → ∃ v, exec (.gptpPdelayRx p delay t) s = .next v ∧ v.bit (Reg.ETH_PTP_STAT p) 0 = decide (delay ≤ s.getF (Reg.ETH_PTP_CFG p) 31 16) ∧ v.getF (Reg.ETH_PTP_STAT p) 31 16 = min delay 65535) ∧
    (∀ (p t : Nat), p < 4 → (s.tickTo t).released Blk.ETH = true → (s.tickTo t).gwReady p = true → (s.tickTo t).ptpRole p = 1 → exec (.gptpSyncTx p t) s = .next ((s.tickTo t).emit (.sync p (s.tickTo t).timeNs (s.tickTo t).slavePort.isSome))) ∧
    (∀ (t : Nat), (s.tickTo t).slavePort.isSome = true → exec (.gptpLost t) s = .next ((s.tickTo t).gptpLost)) ∧
    (s.aEntry = true → s.bit Reg.ANGLE_STAT 0 = true → exec (.jitterDraw) s = .next (s.each (List.range 3) fun s d => s.drawJitter d))

/-- Each event takes place with the clocks run to its base tick. With VDD_AON present, the fall of PORESET_N starts a POR, which keeps the
record of a supply fault that holds the device. The rise of PORESET_N takes the straps and releases the reset where the rails and the
reference are in range, VDD_AON being present; otherwise it records the supply fault that goes on. The fall of WARMRESET_N, outside a POR,
P4 and a loss of VDD_AON, starts a warm reset. The rise of WARMRESET_N releases the reset where nothing else holds it. A write of SWRST is
the write of its key. The key resets the device. A fault of a monitored rail of group 2 or 3 is recorded and resets the device. SUP_STAT
shows its rail and VALID. The loss of the reference is recorded and resets the device. SUP_STAT shows it and VALID. The recovery of the
supplies, VDD_AON being present, ends the hold; with PORESET_N high the straps are taken and the reset is released where nothing else
holds it. The rise of VDD_AON brings the always-on island back and zeroes the MAGIC word of RSTATE. The loss of VDD_AON is a POR that
loses RSTATE, and holds the device until the rails recover. The device is then held. The rails asked for by PWR_REQ being in range, the
reset is released where nothing else holds it. From spec/04_staged_start.md, spec/25_package_electrical.md. -/
def Obligations.ResetPins : Prop :=
  ∀ s : State,
    (∀ (t : Nat), ({ (s.tickTo t) with boot := { (s.tickTo t).boot with poresetN := false } }).boot.aon = true → exec (.poresetAssert t) s = .next (
      let s := s.tickTo t
      let s := { s with boot := { s.boot with poresetN := false } }
      s.resetAs Rst.POR s.boot.supply)) ∧
    (∀ (straps : Nat) (inRange : Bool) (t : Nat), (s.tickTo t).boot.poresetN = false → exec (.poresetRelease straps inRange t) s = .next (
      let s := s.tickTo t
      let s := { s with boot := { s.boot with poresetN := true } }
      if !s.boot.aon then s
      else if inRange then ({ s with boot := { s.boot with supply := false } }.latchStraps straps).tryRelease
      else { s with boot := { s.boot with supply := true } })) ∧
    (∀ (t : Nat), ({ (s.tickTo t) with boot := { (s.tickTo t).boot with warmresetN := false } }).boot.aon = true → ({ (s.tickTo t) with boot := { (s.tickTo t).boot with warmresetN := false } }).boot.parked = false → ({ (s.tickTo t) with boot := { (s.tickTo t).boot with warmresetN := false } }).boot.held = false → exec (.warmresetAssert t) s = .next (
      let s := s.tickTo t
      let s := { s with boot := { s.boot with warmresetN := false } }
      s.resetAs Rst.WARM_PIN false)) ∧
    (∀ (t : Nat), exec (.warmresetRelease t) s = .next ({ (s.tickTo t) with boot := { (s.tickTo t).boot with warmresetN := true } }.tryRelease)) ∧
    (∀ (req : Requester) (value : Nat), s.verdict req Reg.RST_SWRST 4 true = .go → exec (.swrst req value) s = .next ((s.respOk []).writeSwrst req value)) ∧
    (∀ (req : Requester), s.verdict req Reg.RST_SWRST 4 true = .go → exec (.swrst req 0xA5) s = .next ((s.respOk []).resetNow Rst.SWRST)) ∧
    (∀ (rail t : Nat), 2 ≤ rail → rail ≤ 9 → (s.tickTo t).monitored = true → exec (.supplyFault rail t) s = .next ((s.tickTo t).supplyFault rail)) ∧
    (∀ (rail t : Nat), 2 ≤ rail → rail ≤ 9 → (s.tickTo t).monitored = true → ∃ v, exec (.supplyFault rail t) s = .next v ∧ v.bit Reg.SYS_SUP_STAT rail = true ∧ v.bit Reg.SYS_SUP_STAT 16 = true) ∧
    (∀ (t : Nat), (s.tickTo t).monitored = true → exec (.referenceLoss t) s = .next ((s.tickTo t).supplyFault 17)) ∧
    (∀ (t : Nat), (s.tickTo t).monitored = true → ∃ v, exec (.referenceLoss t) s = .next v ∧ v.bit Reg.SYS_SUP_STAT 17 = true ∧ v.bit Reg.SYS_SUP_STAT 16 = true) ∧
    (∀ (straps t : Nat), (s.tickTo t).boot.supply = true → (s.tickTo t).boot.aon = true → exec (.supplyRecovered straps t) s = .next (
      let s := s.tickTo t
      let s := { s with boot := { s.boot with supply := false } }
      if s.boot.poresetN then (s.latchStraps straps).tryRelease else s)) ∧
    (∀ (t : Nat), (s.tickTo t).boot.aon = false → exec (.vddAonRise t) s = .next ({ (s.tickTo t).zero rstateBase 4 with boot := { (s.tickTo t).boot with aon := true } })) ∧
    (∀ (t : Nat), exec (.vddAonLoss t) s = .next ({ ((s.tickTo t).resetAs Rst.POR false).zero rstateBase 0x10000 with boot := { ((s.tickTo t).resetAs Rst.POR false).boot with aon := false, supply := true, railsWait := false } })) ∧
    (∀ (t : Nat), ∃ v, exec (.vddAonLoss t) s = .next v ∧ v.boot.aon = false ∧ v.boot.supply = true ∧ v.boot.railsWait = false ∧ v.boot.held = true) ∧
    (∀ (t : Nat), (s.tickTo t).boot.railsWait = true → exec (.railsInRange t) s = .next ({ (s.tickTo t) with boot := { (s.tickTo t).boot with railsWait := false } }.tryRelease))

/-- With the device an endpoint, PCIE_PERST_N low takes the link down and loses FUNC PCIE, and its rise shows in the input. The link going
down loses FUNC PCIE. The link trains up as a root from Stage C entry, and as an endpoint from Stage A entry while PCIE_PERST_N is high;
FUNC PCIE is ready at once as a root, and from the declaration as an endpoint. The endpoint with a link answers a configuration request,
with a retry before the declaration. The boot ROM, once nothing holds the device, derives the fixed keys, finds the flash directory and
chooses the restore source, and the first release point is restored. The verification of a stage that is being verified loads the image
where it passed, and otherwise goes to the other slot or ends in the failure of the stage. A write of STAGE_CTL is the write of its
fields. With DECLARE_C, from Stage C entry on, it declares Stage C. The Stage C limit declares Stage C where it has been entered and not
declared. The verification of a staged recovery image, while the boot ROM waits for one, loads it where it passed and otherwise fails.
From spec/04_staged_start.md, spec/06_heartwood_sapwood_debug.md. -/
def Obligations.StartCommands : Prop :=
  ∀ s : State,
    (∀ (low : Bool), s.pcieRoot = false → exec (.pciePerst low) s = .next (
      let s := { s with boot := { s.boot with perstN := !low, pcieLink := s.boot.pcieLink && !low } }
      if low then s.funcLost Fn.PCIE else s)) ∧
    (exec (.pcieLinkChange false) s = .next (State.funcLost { s with boot := { s.boot with pcieLink := false } } Fn.PCIE)) ∧
    ((if s.pcieRoot = true then s.cEntry = true else s.aEntry = true ∧ s.boot.perstN = true) → exec (.pcieLinkChange true) s = .next (if s.pcieRoot = true ∨ s.cDecl = true then State.funcReady { s with boot := { s.boot with pcieLink := true } } Fn.PCIE else { s with boot := { s.boot with pcieLink := true } })) ∧
    (∀ (t : Nat), (s.tickTo t).pcieRoot = false → (s.tickTo t).boot.pcieLink = true → exec (.pcieConfigRequest t) s = .next ((s.tickTo t).emit (.pcieConfig (!(s.tickTo t).declaredBefore)))) ∧
    (∀ (err0 err1 slot0 slot1 : Bool) (t : Nat), (s.tickTo t).boot.held = false → (s.tickTo t).boot.romStarted = false → (s.tickTo t).boot.railsWait = false → exec (.bootRomStart err0 err1 slot0 slot1 t) s = .next (
      let s := s.tickTo t
      let s := s.deriveFixed
      let s := { s with boot := { s.boot with romStarted := true, directory := s.findDirectory err0 err1 } }
      (s.chooseRestore slot0 slot1).applyPoint 0)) ∧
    (∀ (k : Nat) (err : Bool) (t : Nat), (s.tickTo t).verifying k = true → exec (.imageVerifyDone k err t) s = .next (
      let s := s.tickTo t
      let slot := s.boot.slot.getD k 2
      let h := (s.flashAt (2 * k + slot) 0 headerLen).getD []
      let b := if headerOk h (k + 1) then (s.flashAt (2 * k + slot) headerLen (hdrNat h 0xC 4)).getD [] else []
      let code := if err || s.boot.directory.isNone then 7 else s.imageCode h b (k + 1) (hdrNat h 7 1)
      if code = 1 then ({ s.setBootStat k 1 slot with boot := { s.boot with slot := s.boot.slot.set k 2 } }).imagePassed k h b
      else
        let s := { s with boot := { s.boot with slot := s.boot.slot.set k (slot + 1) } }
        if slot = 0 then s.putF Reg.RST_BOOT_STAT (8 * k + 6) (8 * k + 4) code
        else (s.setBootStat k code 1).bootFailed k)) ∧
    (∀ (req : Requester) (value : Nat), s.verdict req Reg.RST_STAGE_CTL 4 true = .go → exec (.declareC req value) s = .next ((s.respOk []).writeStageCtl req value)) ∧
    (∀ (req : Requester) (value : Nat), s.verdict req Reg.RST_STAGE_CTL 4 true = .go → value.testBit 0 = true → s.cEntry = true → exec (.declareC req value) s = .next (State.regStore (s.respOk []) req Reg.RST_STAGE_CTL value).declareC) ∧
    (∀ (t : Nat), (s.tickTo t).cEntry = true → (s.tickTo t).cDecl = false → (s.tickTo t).pastLimit = true → exec (.stageCLimitExpired t) s = .next ((s.tickTo t).declareC)) ∧
    (∀ (t : Nat), (s.tickTo t).recovering = true → (s.tickTo t).dbg.recState = 3 → exec (.recoveryVerifyDone t) s = .next (
      let s := s.tickTo t
      let h := s.bytes islandBase headerLen
      let b := s.bytes (islandBase + headerLen) (hdrNat h 0xC 4)
      let code := s.imageCode h b 1 (hdrNat h 7 1)
      if code = 1 then
        ({ (s.setBootStat 0 1 0).putBit Reg.RST_BOOT_STAT 7 true with dbg := { s.dbg with recState := 4 } }).imagePassed 0 h b
      else s.recoveryFailed code))

/-- A write of STOW_CTL is the write of its fields. With GO and no stow running it takes the former magic word away and starts a build. The
end of a build writes the image of the records to RSTATE and goes on to the flash copy where that was asked for, or ends with error 1
where there are too many records. The end of a flash copy writes the image to the flash slot, or records its error. From
spec/04_staged_start.md. -/
def Obligations.StowCommands : Prop :=
  ∀ s : State,
    (∀ (req : Requester) (value : Nat), s.verdict req Reg.RSTATE_STOW_CTL 4 true = .go → exec (.stow req value) s = .next ((s.respOk []).writeStowCtl req value)) ∧
    (∀ (req : Requester) (value : Nat), s.verdict req (Reg.RSTATE_STOW_CTL) 4 true = .go → value.testBit 0 = true → (State.regStore (s.respOk []) req Reg.RSTATE_STOW_CTL (value / 2 * 2)).bit Reg.RSTATE_STOW_STAT 0 = false → (State.regStore (s.respOk []) req Reg.RSTATE_STOW_CTL (value / 2 * 2)).bit Reg.RSTATE_STOW_STAT 2 = false → ∃ v, exec (.stow req value) s = .next v ∧ v.boot.stow.isSome = true ∧ v.le rstateBase 4 = 0) ∧
    (∀ (t : Nat) (w : Stow), (s.tickTo t).boot.stow = some w → exec (.stowBuildDone t) s = .next (
      let s := s.tickTo t
      let a := Reg.RSTATE_STOW_STAT
      let s := { s.putBit a 0 false with boot := { s.boot with stow := none } }
      if maxRecords < s.stowRecords.length then
        ((s.setLe rstateBase 4 w.magic).putF a 6 4 1).evt rstatePage 2
      else
        let gen := ((if w.magic = 0x45545352 then s.le (rstateBase + 8) 4 else 0) + 1) % 2 ^ 32
        let n := s.stowRecords.length
        let s := s.setBytes rstateBase (s.stowImage gen)
        let s := (((s.putBit a 1 true).evt rstatePage 0).wr Reg.RSTATE_STOW_GEN gen).wr Reg.RSTATE_STOW_RECS n
        if w.flash then s.startFlash else s)) ∧
    (∀ (fail t : Nat), (s.tickTo t).bit (Reg.RSTATE_STOW_STAT) 2 = true → exec (.flashCopyDone fail t) s = .next (
      let s := s.tickTo t
      let a := Reg.RSTATE_STOW_STAT
      let k := s.getF a 7 7
      let s := s.putBit a 2 false
      match s.dirEntry (6 + k) with
      | some off =>
        if fail = 2 ∨ fail = 3 ∨ fail = 4 then (s.putF a 6 4 fail).evt rstatePage 2
        else ((s.setIbytes (flashBase + off) (s.bytes rstateBase imageLen)).putBit a 3 true).evt rstatePage 1
      | none => (s.putF a 6 4 (if fail = 3 ∨ fail = 4 then fail else 2)).evt rstatePage 2))

/-- Each event takes place with the clocks run to its base tick. From Stage A entry and outside P4, the PMU evaluates every domain that is not
off, and a debug session that has lost its power ends. A domain whose exit is under way, not held by a trip nor by its clear, takes its
new state and its blocks wake. A write of PARK is the write of its key. The key, with no entry under way and nothing to wait for, stops
the device for P4. An entry to P4 that is under way completes, stopping the device first where that is still due, once nothing makes it
wait. While something makes it wait, the PMU says so by its interrupt. WAKE_N, where it is enabled, is a wake event. The wake timer, where
it is enabled, is a wake event in P4. A wake-up pattern, or with the filter on a frame that is no CAN XL frame and whose identifier passes
it, on an enabled controller is a wake event. From spec/05_power_energy_thermal.md. -/
def Obligations.PowerCommands : Prop :=
  ∀ s : State,
    (∀ (cpu : Nat) (pcie : Bool) (power : List Nat) (t : Nat), (s.tickTo t).aEntry = true → (s.tickTo t).boot.parked = false → exec (.pmuEvaluate cpu pcie power t) s = .next (
      let s := s.tickTo t
      (s.each ((List.range 27).filter fun d => s.dom d ≠ 6) fun s d => s.evalDomain cpu pcie (power.getD d 0) d).sessionPower)) ∧
    (∀ (d t v : Nat), ((s.tickTo t).domains.getD d {}).exit = some v → (s.tickTo t).tripHolds d = false → ¬(d < 16 ∧ (s.tickTo t).dom d = 3 ∧ (s.tickTo t).groveClearing d) → exec (.domainExitComplete d t) s = .next (let u := (s.tickTo t).setDomState d v; State.wakeBlocks { u with domains := updAt u.domains d fun (D : Domain) => { D with exit := none } } d ((s.tickTo t).dom d) v)) ∧
    (∀ (req : Requester) (value : Nat), s.verdict req Reg.PMU_PARK 4 true = .go → exec (.park req value) s = .next ((s.respOk []).writePark req value)) ∧
    (∀ (req : Requester), s.verdict req Reg.PMU_PARK 4 true = .go → s.park.stage = 0 → (s.respOk []).parkWaits = false → exec (.park req 0x5041) s = .next (s.respOk []).parkStop) ∧
    (∀ (t : Nat), (s.tickTo t).park.stage ≠ 0 → (s.tickTo t).parkWaits = false → exec (.p4Entry t) s = .next (
      let s := s.tickTo t
      if s.parkWaits then s.evt pmuPage 0
       else (if s.park.stage = 1 then s.parkStop else s).powerOff)) ∧
    (∀ (t : Nat), (s.tickTo t).park.stage ≠ 0 → (s.tickTo t).parkWaits = true → exec (.p4Entry t) s = .next ((s.tickTo t).evt pmuPage 0)) ∧
    (∀ (t : Nat), (s.tickTo t).bit Reg.PMU_WAKE_CFG 16 = true → exec (.wakePin t) s = .next ((s.tickTo t).wakeEvent 1)) ∧
    (∀ (t : Nat), (s.tickTo t).boot.parked = true → (s.tickTo t).bit Reg.PMU_WAKE_CFG 17 = true → (s.tickTo t).park.entered + 400000000 * (s.tickTo t).rd Reg.PMU_WAKE_TIMER ≤ (s.tickTo t).clk.base → exec (.wakeTimerExpired t) s = .next ((s.tickTo t).wakeEvent 2)) ∧
    (∀ (n kind id t : Nat), n < 16 → (s.tickTo t).bit Reg.PMU_WAKE_CFG n = true → if (s.tickTo t).bit Reg.PMU_WAKE_CFG 18 then kind = 1 → id &&& ((s.tickTo t).rd Reg.PMU_WAKE_IDM) = (s.tickTo t).rd Reg.PMU_WAKE_ID &&& ((s.tickTo t).rd Reg.PMU_WAKE_IDM) else kind = 0 → exec (.canWakeFrame n kind id t) s = .next (
      let s := s.tickTo t
      s.wakeEvent (3 + n * 256)))

/-- Each event takes place with the clocks run to its base tick. From Stage C entry, the ledger is refilled, then tests the first job of each
partition where it waits. The first job of a partition, where it is queued and the device is not parking, is tested. A failed self-check
of a monitor is held, and shows in STAT and IRQ. With the device released and not parked, 24 measurements are read into the sensors; a
temperature of 130 °C or more trips, and a debug session that has lost its power ends. With the throttle on and no trip, the hottest unit
goes down one step where it may, and each unit that has been cool for its time goes up one; the cooling outputs follow. A heartwood write
of TRIP_CLR is the write of its fields. With every sensor that is valid below TCRIT less the hysteresis, and one valid, it clears the
trip. From spec/05_power_energy_thermal.md. -/
def Obligations.EnergyAndHeat : Prop :=
  ∀ s : State,
    (∀ (t : Nat), (s.coreTick t).cEntry = true → exec (.ledgerUpdate t) s = .next (
      let s := s.coreTick t
      (s.refill s.pOther).each (List.range 16) fun s p => match s.headJob p with
        | some j => if j.ph = .queued ∧ j.waited then s.testJob j else s
        | none => s)) ∧
    (∀ (p t : Nat) (j : Job), (s.coreTick t).headJob p = some j → j.ph = .queued → (s.coreTick t).park.stage < 2 → exec (.ledgerTest p t) s = .next ((s.coreTick t).testJob j)) ∧
    (∀ (g : Nat), g < 16 → s.cEntry = true → exec (.monitorFault g) s = .next (({ s with ledger := { s.ledger with monFault := s.ledger.monFault ||| 2 ^ g } }.putBit (ledgerPage + Hdr.STAT) 1 true).lvl ledgerPage 2 true)) ∧
    (∀ (meas : List Int) (switching t : Nat), (s.tickTo t).boot.held = false → (s.tickTo t).boot.parked = false → (meas.length != 24) = false → exec (.thermSample meas switching t) s = .next (
      let s := s.tickTo t
      let s := s.each (List.range 24) fun s k => s.sense k (meas.getD k 0) (switching.testBit k)
      let s := s.thermSync
      match s.hottest with
      | some k => if 1040 ≤ s.temp k then (s.tripAt k |>.when s.aEntry State.coolSync).sessionPower else s
      | none => s)) ∧
    (∀ (t : Nat), (s.tickTo t).aEntry = true → (s.tickTo t).boot.parked = false → (s.tickTo t).bit Reg.THERM_CTL 0 = true → (s.tickTo t).bit Reg.THERM_TRIP_STAT 0 = false → exec (.throttleEvaluate t) s = .next (
      let s := s.tickTo t
      let s0 := s
      let s := match s.hottestUnit with
        | some u => if s.stepMin < s.thrStep u then s.lowerStep u (s.thrStep u - 1) else s
        | none => s
      let s := s.each (List.range 19) fun s u =>
        let cool := match (s0.therm.sensors.getD u {}).cool with
          | some c => decide (c + 400000 ≤ s.clk.base)
          | none => false
        if s0.thrStep u < 16 && s0.tsValid u && cool && !s0.therm.up.testBit u then s.stepUp u else s
      s.coolSync)) ∧
    (∀ (req : Requester) (value : Nat), s.verdict req Reg.THERM_TRIP_CLR 4 true = .go → s.world req = true → exec (.tripClr req value) s = .next ((s.respOk []).tripClear req value)) ∧
    (∀ (req : Requester) (value : Nat), s.verdict req Reg.THERM_TRIP_CLR 4 true = .go → s.world req = true → value.testBit 0 = true → (List.range 24).any (State.tsValid (s.respOk [])) = true → ((List.range 24).all fun i => !State.tsValid (s.respOk []) i || decide (State.temp (s.respOk []) i < State.tCrit (s.respOk []) - State.tHyst (s.respOk []))) = true → exec (.tripClr req value) s = .next ((State.putBit (s.respOk []) Reg.THERM_TRIP_STAT 1 false).coolSync))

/-- Each event takes place with the clocks run to its base tick, from Stage A entry. Outside P4 and with the ball as the source, a conversion
writes COOL_IN by OFFSET and GAIN, rounded down to 0.125 °C (the model's choice, log entry 64), and the cooling outputs follow. A value of
software that is older than 1 s is marked stale and no longer valid, and the cooling outputs follow. Outside P4, the tachometers are
shown, and two samples below their minimum with the output driven mark the pump or the fan as failed. A cooling request that is due, or
whose period is over, is originated with the heat of the device, and its number advances. From spec/05_power_energy_thermal.md. -/
def Obligations.CoolingCommands : Prop :=
  ∀ s : State,
    (∀ (code t : Nat), (s.tickTo t).aEntry = true → (s.tickTo t).boot.parked = false → (s.tickTo t).bit Reg.THERM_COOL_CFG 0 = false → exec (.coolTempSample code t) s = .next (
      let s := s.tickTo t
      let v : Int := sgn 16 (s.getF Reg.THERM_COOL_LIN 15 0) + s.getF Reg.THERM_COOL_LIN 31 16 * (code % 1024) / 1024
      let s := (s.putF Reg.THERM_COOL_IN 15 0 (enc 16 (clampS 16 v))).putBit Reg.THERM_COOL_IN 31 true
      { s.putBit Reg.THERM_COOL_STAT 19 false with therm := { s.therm with coolAt := s.clk.base } }.coolSync)) ∧
    (∀ (t : Nat), (s.tickTo t).aEntry = true → (s.tickTo t).bit Reg.THERM_COOL_CFG 0 = true → (s.tickTo t).therm.coolAt + 400000000 < (s.tickTo t).clk.base → exec (.coolInStale t) s = .next ((((s.tickTo t).putBit Reg.THERM_COOL_STAT 19 true).putBit Reg.THERM_COOL_IN 31 false).coolSync)) ∧
    (∀ (pump fan t : Nat), (s.tickTo t).aEntry = true → (s.tickTo t).boot.parked = false → exec (.tachSample pump fan t) s = .next (
      let s := s.tickTo t
      let p := min 0xFFFF (pump * 3)
      let f := min 0xFFFF (fan * 3)
      let s := s.wr Reg.THERM_TACH (p + 65536 * f)
      let miss := fun (v lim duty old : Nat) => if lim ≠ 0 ∧ v < lim ∧ 255 < 10 * duty then old + 1 else 0
      let pm := miss p (s.getF Reg.THERM_TACH_MIN 15 0) (s.getF Reg.THERM_COOL_STAT 7 0) s.therm.pumpMiss
      let fm := miss f (s.getF Reg.THERM_TACH_MIN 31 16) (s.getF Reg.THERM_COOL_STAT 15 8) s.therm.fanMiss
      let s := { s with therm := { s.therm with pumpMiss := pm, fanMiss := fm } }
      ((s.putBit Reg.THERM_COOL_STAT 16 (decide (2 ≤ pm))).putBit Reg.THERM_COOL_STAT 17 (decide (2 ≤ fm))).coolSync)) ∧
    (∀ (t : Nat), (s.tickTo t).aEntry = true → (s.tickTo t).bit Reg.THERM_COOL_CFG 3 = true → (s.tickTo t).therm.due ∨ (s.tickTo t).therm.reqAt + 4000000 * (s.tickTo t).getF Reg.THERM_COOL_CFG 15 8 ≤ (s.tickTo t).clk.base → exec (.coolingRequest t) s = .next (
      let s := s.tickTo t
      let h := s.hotByte
      let d := h.2.coolPayload h.1
      let s := { h.2 with therm := { h.2.therm with msg := (h.2.therm.msg + 1) % 16, reqAt := h.2.clk.base, due := false } }
      (s.originate 22 (s.getF Reg.THERM_COOL_CFG 26 16) d).2))

/-- In each clause e, c and w are the ring entry, the command and the state from which SEC executes it, r is the result the command gives, and
v is the state once RESULT is written and HEAD has advanced (r and v are there once no access of SEC is held any more): the command of SEC
leaves v. AES_GCM_ENCRYPT encrypts and authenticates. AES_GCM_DECRYPT decrypts what authenticates. SHA_256 hashes. SHA_384 hashes. SHA_512
hashes. HMAC_SHA_384 authenticates. ECDSA_VERIFY checks a signature. ECDSA_SIGN signs. ML_DSA_VERIFY checks a signature. ML_DSA_SIGN
signs. DUAL_VERIFY checks both signatures of an image. DERIVE derives a key into a slot. CLEAR_KEY_SLOT clears a slot. EXPORT_PUBLIC_KEY
writes a public key. RANDOM_BYTES writes random bytes. REVOKE_FUSE_KEY_SLOT revokes a fuse key slot. RAISE_ANTI_ROLLBACK raises an
anti-rollback counter. ADVANCE_LIFECYCLE advances the lifecycle. An opcode that is not in the table ends with the result BAD_OPCODE. From
spec/06_heartwood_sapwood_debug.md. -/
def Obligations.SecCommands : Prop :=
  ∀ s : State,
    (∀ (src aux : MemEnv) (e : Nat) (c : SecCmd) (w : State) (r : Nat × State) (v : State), s.secNext = some (e, c, w) → c.op = 0x01 → w.secEncrypt c ⟨src, aux, true⟩ = some r → r.2.secFinish e c.flags r.1 = some v → exec (.aesGcmEncrypt src aux) s = .next v) ∧
    (∀ (src aux : MemEnv) (e : Nat) (c : SecCmd) (w : State) (r : Nat × State) (v : State), s.secNext = some (e, c, w) → c.op = 0x02 → w.secDecrypt c ⟨src, aux, true⟩ = some r → r.2.secFinish e c.flags r.1 = some v → exec (.aesGcmDecrypt src aux) s = .next v) ∧
    (∀ (src : MemEnv) (e : Nat) (c : SecCmd) (w : State) (r : Nat × State) (v : State), s.secNext = some (e, c, w) → c.op = 0x10 → w.secSha c ⟨src, {}, true⟩ 256 = some r → r.2.secFinish e c.flags r.1 = some v → exec (.sha256 src) s = .next v) ∧
    (∀ (src : MemEnv) (e : Nat) (c : SecCmd) (w : State) (r : Nat × State) (v : State), s.secNext = some (e, c, w) → c.op = 0x11 → w.secSha c ⟨src, {}, true⟩ 384 = some r → r.2.secFinish e c.flags r.1 = some v → exec (.sha384 src) s = .next v) ∧
    (∀ (src : MemEnv) (e : Nat) (c : SecCmd) (w : State) (r : Nat × State) (v : State), s.secNext = some (e, c, w) → c.op = 0x12 → w.secSha c ⟨src, {}, true⟩ 512 = some r → r.2.secFinish e c.flags r.1 = some v → exec (.sha512 src) s = .next v) ∧
    (∀ (src : MemEnv) (e : Nat) (c : SecCmd) (w : State) (r : Nat × State) (v : State), s.secNext = some (e, c, w) → c.op = 0x13 → w.secHmac c ⟨src, {}, true⟩ = some r → r.2.secFinish e c.flags r.1 = some v → exec (.hmacSha384 src) s = .next v) ∧
    (∀ (src aux : MemEnv) (e : Nat) (c : SecCmd) (w : State) (r : Nat × State) (v : State), s.secNext = some (e, c, w) → c.op = 0x20 → w.secVerify c ⟨src, aux, true⟩ 48 96 96 Config.ecdsaVerify = some r → r.2.secFinish e c.flags r.1 = some v → exec (.ecdsaVerify src aux) s = .next v) ∧
    (∀ (src : MemEnv) (e : Nat) (c : SecCmd) (w : State) (r : Nat × State) (v : State), s.secNext = some (e, c, w) → c.op = 0x21 → w.secSign c ⟨src, {}, true⟩ 48 Config.ecdsaSign = some r → r.2.secFinish e c.flags r.1 = some v → exec (.ecdsaSign src) s = .next v) ∧
    (∀ (src aux : MemEnv) (e : Nat) (c : SecCmd) (w : State) (r : Nat × State) (v : State), s.secNext = some (e, c, w) → c.op = 0x22 → w.secVerify c ⟨src, aux, true⟩ c.len 1952 3309 Config.mldsaVerify = some r → r.2.secFinish e c.flags r.1 = some v → exec (.mlDsaVerify src aux) s = .next v) ∧
    (∀ (src : MemEnv) (e : Nat) (c : SecCmd) (w : State) (r : Nat × State) (v : State), s.secNext = some (e, c, w) → c.op = 0x23 → w.secSign c ⟨src, {}, true⟩ c.len Config.mldsaSign = some r → r.2.secFinish e c.flags r.1 = some v → exec (.mlDsaSign src) s = .next v) ∧
    (∀ (src : MemEnv) (e : Nat) (c : SecCmd) (w : State) (r : Nat × State) (v : State), s.secNext = some (e, c, w) → c.op = 0x24 → w.secDual c ⟨src, {}, true⟩ = some r → r.2.secFinish e c.flags r.1 = some v → exec (.dualVerify src) s = .next v) ∧
    (∀ (aux : MemEnv) (e : Nat) (c : SecCmd) (w : State) (r : Nat × State) (v : State), s.secNext = some (e, c, w) → c.op = 0x30 → w.secDerive c ⟨{}, aux, true⟩ = some r → r.2.secFinish e c.flags r.1 = some v → exec (.derive aux) s = .next v) ∧
    (∀ (e : Nat) (c : SecCmd) (w : State) (r : Nat × State) (v : State), s.secNext = some (e, c, w) → c.op = 0x32 → w.secClearKey c = some r → r.2.secFinish e c.flags r.1 = some v → exec (.clearKeySlot) s = .next v) ∧
    (∀ (e : Nat) (c : SecCmd) (w : State) (r : Nat × State) (v : State), s.secNext = some (e, c, w) → c.op = 0x33 → w.secExport c = some r → r.2.secFinish e c.flags r.1 = some v → exec (.exportPublicKey) s = .next v) ∧
    (∀ (e : Nat) (c : SecCmd) (w : State) (r : Nat × State) (v : State), s.secNext = some (e, c, w) → c.op = 0x40 → w.secRandom c = some r → r.2.secFinish e c.flags r.1 = some v → exec (.randomBytes) s = .next v) ∧
    (∀ (ok : Bool) (e : Nat) (c : SecCmd) (w : State) (r : Nat × State) (v : State), s.secNext = some (e, c, w) → c.op = 0x50 → w.secRevoke c ⟨{}, {}, ok⟩ = some r → r.2.secFinish e c.flags r.1 = some v → exec (.revokeFuseKeySlot ok) s = .next v) ∧
    (∀ (ok : Bool) (e : Nat) (c : SecCmd) (w : State) (r : Nat × State) (v : State), s.secNext = some (e, c, w) → c.op = 0x51 → w.secRollback c ⟨{}, {}, ok⟩ = some r → r.2.secFinish e c.flags r.1 = some v → exec (.raiseAntiRollback ok) s = .next v) ∧
    (∀ (aux : MemEnv) (ok : Bool) (e : Nat) (c : SecCmd) (w : State) (r : Nat × State) (v : State), s.secNext = some (e, c, w) → c.op = 0x52 → w.secAdvance c ⟨{}, aux, ok⟩ = some r → r.2.secFinish e c.flags r.1 = some v → exec (.advanceLifecycle aux ok) s = .next v) ∧
    (∀ (e : Nat) (c : SecCmd) (w v : State), s.secNext = some (e, c, w) → c.op ∉ [0x01, 0x02, 0x10, 0x11, 0x12, 0x13, 0x20, 0x21, 0x22, 0x23, 0x24, 0x30, 0x32, 0x33, 0x40, 0x50, 0x51, 0x52] → w.secFinish e c.flags SecRes.BAD_OPCODE = some v → exec .secBadOpcode s = .next v)

/-- A register write is one that passes its checks. A write of HART_HOLD holds and releases harts. HART_HOLD reads as the 12 bits written. A
write of CTL of a direction of a mailbox is the ring of that direction. With FULL at 0, a 1 at bit 0 sets it, counts SEQ, and raises the
event of the receiving world. A write of ACK of a direction of a mailbox is the acknowledgement of that direction. With FULL at 1, a 1 at
bit 0 clears it and raises the event of the sending world. A failed health test, once the boot ROM has started, is recorded, counted,
raises the interrupt, and reaches the island. A mismatch in a pair, once the boot ROM has started, is shown in FAULT_OUT and told to the
other pair, and the pair is no longer halted; with both pairs so, the device resets. With the other pair running, FAULT_OUT shows the
pair. A write of ESCALATE with the key resets the device, and with any other value is a reserved encoding. From
spec/06_heartwood_sapwood_debug.md. -/
def Obligations.IslandCommands : Prop :=
  ∀ s : State,
    (∀ (req : Requester) (value : Nat), s.verdict req Reg.SEC_HART_HOLD 4 true = .go → exec (.hartHoldWrite req value) s = .next ((s.respOk []).writeHold value)) ∧
    (∀ (req : Requester) (value : Nat), s.verdict req (Reg.SEC_HART_HOLD) 4 true = .go → ∃ v, exec (.hartHoldWrite req value) s = .next v ∧ v.rd Reg.SEC_HART_HOLD = value % 4096) ∧
    (∀ (req : Requester) (i : Nat) (h2s : Bool) (value : Nat), s.verdict req (xmbCtl i h2s) 4 true = .go → exec (.xmbRing req i h2s value) s = .next ((s.respOk []).ringXmb i h2s value)) ∧
    (∀ (req : Requester) (i : Nat) (h2s : Bool) (value : Nat), s.verdict req (xmbCtl i h2s) 4 true = .go → value.testBit 0 = true → s.bit (xmbCtl i h2s) 0 = false → exec (.xmbRing req i h2s value) s = .next (let u := (State.putBit (s.respOk []) (xmbCtl i h2s) 0 true).incWrap (xmbSeq i h2s) 31 0; if h2s = true then u.sapEvt i 0 else (u.evt (pageAddr Blk.XMB i) 0).xmbToIsland i)) ∧
    (∀ (req : Requester) (i : Nat) (h2s : Bool) (value : Nat), s.verdict req (xmbAck i h2s) 4 true = .go → exec (.xmbAck req i h2s value) s = .next ((s.respOk []).ackXmb i h2s value)) ∧
    (∀ (req : Requester) (i : Nat) (h2s : Bool) (value : Nat), s.verdict req (xmbAck i h2s) 4 true = .go → value.testBit 0 = true → s.bit (xmbCtl i h2s) 0 = true → exec (.xmbAck req i h2s value) s = .next (let u := State.putBit (s.respOk []) (xmbCtl i h2s) 0 false; if h2s = true then (u.evt (pageAddr Blk.XMB i) 1).xmbToIsland i else u.sapEvt i 1)) ∧
    (s.boot.romStarted = true → exec (.trngHealthFail) s = .next (((((s.putBit Reg.SEC_TRNG_STAT 0 true).incSat Reg.SEC_TRNG_STAT 15 8).lvl (pageAddr Blk.SEC 0) 2 true)).emit (.island Isl.TRNG 0))) ∧
    (∀ (p : Nat), p < 2 → s.boot.romStarted = true → exec (.lockstepMismatch p) s = .next (
      let s := (s.putBit Reg.SAFE_FAULT_OUT (8 + p) true).emit (.island Isl.LOCKSTEP (1 - p))
      let s := { s with dbg := { s.dbg with pairHalted := s.dbg.pairHalted.set p false } }
      if s.bit Reg.SAFE_FAULT_OUT 8 && s.bit Reg.SAFE_FAULT_OUT 9 then s.resetNow Rst.SAFETY else s.faultSync)) ∧
    (∀ (p : Nat), p < 2 → s.boot.romStarted = true → s.bit Reg.SAFE_FAULT_OUT (9 - p) = false → ∃ v, exec (.lockstepMismatch p) s = .next v ∧ v.bit Reg.SAFE_FAULT_OUT (8 + p) = true) ∧
    (∀ (req : Requester) (value : Nat), s.verdict req Reg.SAFE_ESCALATE 4 true = .go → exec (.escalate req value) s = .next (if value = 0x5346 then (s.respOk []).resetNow Rst.SAFETY else (s.respOk []).quiet req Reg.SAFE_ESCALATE Cause.RESERVED_ENC))

/-- Each instruction is in effect where the TAP says so, with VDD_AON present: the instruction register takes its code and the balls are no
longer driven by the boundary register; its effect follows. EXTEST loads the boundary register, drives the balls from it, and shifts the
sample out. IDCODE shifts the identification out. SAMPLE_PRELOAD loads the boundary register and shifts the sample out. HIGHZ makes the
balls high-impedance. CLAMP holds the balls. BYPASS, and any code that no other instruction has, shifts the data out one bit later. DTMCS
shifts its register out (the spec states no value). DMI halts or resumes a hart or a pair, sets the world of the system bus access,
accesses the system bus, a register or trigger of a hart, inspects a pair, or accesses another register of the debug module. From
spec/06_heartwood_sapwood_debug.md. -/
def Obligations.TapCommands : Prop :=
  ∀ s : State,
    (∀ (data sample : List Byte), s.boot.aon = true → s.tapActs 0x00 = true → exec (.extest data sample) s = .next (({ (State.setScan { s with dbg := { s.dbg with ir := 0x00 % 256 } } 0) with dbg := { (State.setScan { s with dbg := { s.dbg with ir := 0x00 % 256 } } 0).dbg with boundary := data, scan := 1 } }).emit (.tap sample))) ∧
    (s.boot.aon = true → s.tapActs 0x01 = true → exec (.idcode) s = .next ((State.setScan { s with dbg := { s.dbg with ir := 0x01 % 256 } } 0).emit (.tap (leBytes 4 (if Config.devId / 256 % 16 = 1 then 0x14200B47 else 0x04200B47))))) ∧
    (∀ (data sample : List Byte), s.boot.aon = true → s.tapActs 0x02 = true → exec (.samplePreload data sample) s = .next (({ (State.setScan { s with dbg := { s.dbg with ir := 0x02 % 256 } } 0) with dbg := { (State.setScan { s with dbg := { s.dbg with ir := 0x02 % 256 } } 0).dbg with boundary := data } }).emit (.tap sample))) ∧
    (∀ (data : List Byte), s.boot.aon = true → s.tapActs 0x04 = true → exec (.highz data) s = .next ((State.setScan { s with dbg := { s.dbg with ir := 0x04 % 256 } } 0).setScan 2)) ∧
    (∀ (data : List Byte), s.boot.aon = true → s.tapActs 0x05 = true → exec (.clamp data) s = .next ((State.setScan { s with dbg := { s.dbg with ir := 0x05 % 256 } } 0).setScan 3)) ∧
    (∀ (code : Nat) (data : List Byte), s.boot.aon = true → code % 256 ∉ [0x00, 0x01, 0x02, 0x04, 0x05, 0x10, 0x11, 0x20, 0x21, 0x22, 0x23, 0x24] → exec (.bypass code data) s = .next (State.tapBypass { s with dbg := { s.dbg with ir := code % 256 } } data)) ∧
    (∀ (data : List Byte), s.boot.aon = true → s.tapActs 0x10 = true → exec (.dtmcs data) s = .next (((State.setScan { s with dbg := { s.dbg with ir := 0x10 % 256 } } 0).fresh 32).2.emit (.tap (leBytes 4 ((State.setScan { s with dbg := { s.dbg with ir := 0x10 % 256 } } 0).fresh 32).1)))) ∧
    (∀ (act : DmiAct) (data : List Byte), s.boot.aon = true → s.tapActs 0x11 = true → exec (.dmi act data) s = .next (
      let s := State.setScan { s with dbg := { s.dbg with ir := 0x11 % 256 } } 0
      match act with
      | .halt h => s.requestHalt h
      | .resume h => s.resumeHart h
      | .haltIsland p => s.haltPair p true
      | .resumeIsland p => s.haltPair p false
      | .sbaWorld b => s.setSbaWorld b
      | .sba addr len write d env => s.memAccess (s.access .debug addr len write d) false env
      | .reg h r write v => s.abstractReg h r write v
      | .trigger h k write v => s.abstractTrigger h k write v
      | .inspect p => s.inspectPair p
      | .dm a write v => s.dmReg a write v))

/-- Each instruction of the TAP is in effect where the TAP says so, with VDD_AON present: the instruction register takes its code and the
balls are no longer driven by the boundary register; its effect follows. AUTH_NONCE draws a nonce and shifts it out, or zeros under a
fault of the TRNG. AUTH_TOKEN is discarded where tokens are refused, in device state P3, while P4 entry is in progress, and in a session,
and is checked otherwise. AUTH_STAT shifts DBG.SESSION out and ends the session where END is written. A session ends when its lifetime is
over. RECOVERY_DATA, while the image is not complete, stores the next word; a header that is not of a safety image of a legal length
fails, and the last word ends the loading. RECOVERY_STAT shifts the state of the recovery out. From spec/06_heartwood_sapwood_debug.md,
spec/04_staged_start.md. -/
def Obligations.SessionCommands : Prop :=
  ∀ s : State,
    (∀ (data : List Byte), s.boot.aon = true → s.tapActs 0x20 = true → exec (.authNonce data) s = .next (
      let s := State.setScan { s with dbg := { s.dbg with ir := 0x20 % 256 } } 0
      if s.bit Reg.SEC_TRNG_STAT 0 then ({ s with dbg := { s.dbg with nonce := none } }).emit (.tap (List.replicate 32 0))
      else
        let n := leBytes 32 (s.fresh 256).1
        ({ (s.fresh 256).2 with dbg := { s.dbg with nonce := some n } }).emit (.tap n))) ∧
    (∀ (token : List Byte) (t : Nat), (s.tickTo t).boot.aon = true → (s.tickTo t).tapActs 0x21 = true → exec (.authToken token t) s = .next (
      let s := s.tickTo t
      let s := State.setScan { s with dbg := { s.dbg with ir := 0x21 % 256 } } 0
      if s.tokenRefused || s.park.stage ≠ 0 || decide (s.getF Reg.PMU_DEV_STAT 2 0 = 3) || decide (s.sessionLevel ≠ 0) then s
      else s.checkToken token)) ∧
    (∀ (data : List Byte) (fin : Bool), s.boot.aon = true → s.tapActs 0x22 = true → exec (.authStat data fin) s = .next (
      let s := State.setScan { s with dbg := { s.dbg with ir := 0x22 % 256 } } 0
      let s := s.sessionSync
      (s.emit (.tap (leBytes 4 (s.rd Reg.DBG_SESSION)))).when fin State.endSession)) ∧
    (∀ (t : Nat), (s.tickTo t).sessionLevel ≠ 0 → (s.tickTo t).dbg.opened + 400000000 * (s.tickTo t).dbg.life ≤ (s.tickTo t).clk.base → exec (.sessionExpired t) s = .next ((s.tickTo t).endSession)) ∧
    (∀ (word : Nat), s.boot.aon = true → s.tapActs 0x23 = true → exec (.recoveryData word) s = .next (
      let s := State.setScan { s with dbg := { s.dbg with ir := 0x23 % 256 } } 0
      if s.dbg.recState = 3 ∨ s.dbg.recState = 4 then s
      else
        let n := s.dbg.recCount + 4
        let s := s.setLe (islandBase + s.dbg.recCount) 4 word
        let s := { s with dbg := { s.dbg with recState := 2, recCount := n } }
        if n < 16 then s
        else if s.le (islandBase + 6) 1 ≠ 1 ∨ 0xC0000 < s.le (islandBase + 0xC) 4 then s.recoveryFailed 2
        else if headerLen + s.le (islandBase + 0xC) 4 ≤ n then { s with dbg := { s.dbg with recState := 3 } }
        else s)) ∧
    (∀ (data : List Byte), s.boot.aon = true → s.tapActs 0x24 = true → exec (.recoveryStat data) s = .next ((State.setScan { s with dbg := { s.dbg with ir := 0x24 % 256 } } 0).emit (.tap (leBytes 4 ((State.setScan { s with dbg := { s.dbg with ir := 0x24 % 256 } } 0).dbg.recState + (State.setScan { s with dbg := { s.dbg with ir := 0x24 % 256 } } 0).dbg.recFail * 16 + (State.setScan { s with dbg := { s.dbg with ir := 0x24 % 256 } } 0).dbg.recCount * 256)))))

/-- A register write is one that passes its checks. A write of SQ_TAIL stores a value below SQ_SIZE, and any other is a reserved encoding. A
tail within the ring is then read back. A write of DOORBELL with 1 at bit 0 adds a credit to the ring. A doorbell of the event network to
a ring is taken by that ring. The next ring in turn, one of a partition, has its descriptor read: it is taken, waits for its memory, or
the fetch fails. Once it is read it is taken. A write of a word of an owner record is the write of that record. Where nothing owns the
ring it is stored, and the ring shows it. A write of ACCT_SEL latches the entry of its context. With CLEAR it clears the entry as well.
From spec/07_partitions_rings.md, spec/11_dispatch_accounting.md. -/
def Obligations.RingCommands : Prop :=
  ∀ s : State,
    (∀ (req : Requester) (i value : Nat), i < 64 → s.verdict req (Reg.RING_SQ_TAIL i) 4 true = .go → exec (.sqTailDoorbell req i value) s = .next ((s.respOk []).writeSqTail req i value)) ∧
    (∀ (req : Requester) (i value : Nat), s.verdict req (Reg.RING_SQ_TAIL i) 4 true = .go → i < 64 → value < s.rd (Reg.RING_SQ_SIZE i) → ∃ v, exec (.sqTailDoorbell req i value) s = .next v ∧ v.rd (Reg.RING_SQ_TAIL i) = value % 2 ^ 32) ∧
    (∀ (req : Requester) (i value : Nat), i < 64 → s.verdict req (Reg.RING_DOORBELL i) 4 true = .go → value.testBit 0 = true → exec (.ringDoorbell req i value) s = .next ((s.respOk []).addCredit i)) ∧
    (∀ (i : Nat), i < 64 → exec (.externalDoorbell i) s = .next (s.extDoorbell i)) ∧
    (∀ (t : Nat) (env : MemEnv) (i p : Nat), (s.coreTick t).nextRing = some i → (s.coreTick t).ringPart i = some p → exec (.descriptorFetch t env) s = .next (
      let s := s.coreTick t
      let r := s.descRead i p env
      match r.1 with
      | .held => s
      | .done => r.2.2.takeDesc i p (leNat r.2.1)
      | _ => r.2.2.fetchFail i)) ∧
    (∀ (t : Nat) (env : MemEnv) (i p : Nat), (s.coreTick t).nextRing = some i → (s.coreTick t).ringPart i = some p → ((s.coreTick t).descRead i p env).1 = .done → exec (.descriptorFetch t env) s = .next (State.takeDesc ((s.coreTick t).descRead i p env).2.2 i p (leNat ((s.coreTick t).descRead i p env).2.1))) ∧
    (∀ (req : Requester) (p n w value : Nat), p < 16 → n < 64 → s.verdict req (if w = 0 then Reg.PART_OWN_W0 p n else Reg.PART_OWN_W1 p n) 4 true = .go → exec (.ownerRecordWrite req p n w value) s = .next ((s.respOk []).writeOwner req p n w value)) ∧
    (∀ (req : Requester) (p n w value : Nat), (s.verdict req (if w = 0 then Reg.PART_OWN_W0 p n else Reg.PART_OWN_W1 p n) 4 true = .go) → p < 16 → n < 64 → s.ownerValid p n = false → exec (.ownerRecordWrite req p n w value) s = .next ((State.regStore (s.respOk []) req (if w = 0 then Reg.PART_OWN_W0 p n else Reg.PART_OWN_W1 p n) value).ringSync n)) ∧
    (∀ (req : Requester) (ctx : Nat), s.verdict req Reg.DISP_ACCT_SEL 4 true = .go → exec (.acctSel req ctx) s = .next ((s.respOk []).writeAcctSel (ctx % 4096))) ∧
    (∀ (req : Requester) (ctx : Nat), s.verdict req Reg.DISP_ACCT_SEL 4 true = .go → exec (.acctSelClear req ctx) s = .next ((s.respOk []).writeAcctSel (ctx % 4096 + 2 ^ 16)))

/-- A write of RESIZE that passes its checks is the write of its fields. GO with NEXT registers that are not valid ends with the result of the
check in every armed partition, and its event. GO with a valid set of them starts the resize of the armed partitions. A resize that is
quiescing, with no job and no transfer left that prevents it, goes on to the clear: every armed partition shows it, the ferries of the
leaving groves discard their queues, and the groves are cleared. TMO µs after GO a resize that is still quiescing stops what prevents the
end of quiesce: a job that has started is stopped, one that has not ends at once, and the transfers of the leaving groves are aborted. A
resize with every leaving grove cleared commits: NEXT becomes current, its time and DONE show, the queued and passed jobs are admitted
again. From spec/07_partitions_rings.md. -/
def Obligations.ResizeCommands : Prop :=
  ∀ s : State,
    (∀ (req : Requester) (p value : Nat), p < 16 → s.verdict req (Reg.PART_RESIZE p) 4 true = .go → exec (.resizeGo req p value) s = .next ((s.respOk []).writeResize req p value)) ∧
    (∀ (req : Requester) (p value : Nat), s.verdict req (Reg.PART_RESIZE p) 4 true = .go → p < 16 → value.testBit 0 = true → s.bit (Reg.PART_CTL p) 1 = true → s.resize = none → State.resizeFail (s.respOk []) (State.armedParts (s.respOk [])) ≠ 0 → exec (.resizeGo req p value) s = .next ((State.each (s.respOk []) (State.armedParts (s.respOk [])) fun s q => s.putF (Reg.PART_RESIZE_STAT q) 11 8 (State.resizeFail (s.respOk []) (State.armedParts (s.respOk [])))).each (State.armedParts (s.respOk [])) fun s q => s.evt (partPage q) 2)) ∧
    (∀ (req : Requester) (p value : Nat), s.verdict req (Reg.PART_RESIZE p) 4 true = .go → p < 16 → value.testBit 0 = true → s.bit (Reg.PART_CTL p) 1 = true → s.resize = none → State.resizeFail (s.respOk []) (State.armedParts (s.respOk [])) = 0 → ∃ v, exec (.resizeGo req p value) s = .next v ∧ v.resize = some ({ armed := State.armedParts (s.respOk []), page := p, start := s.clk.base } : Resize)) ∧
    (∀ (t : Nat) (r : Resize), (s.tickTo t).resize = some r → exec (.quiesceEnd t) s = .next (
      let s := s.tickTo t
      let busy := s.jobs.any s.blocksQuiesce || s.leaving.any fun g =>
        (s.ferry (2 * g)).busy || (s.ferry (2 * g + 1)).busy || (!r.early && !(s.office g).tickets.isEmpty)
      if r.clear || busy then s
      else
        let s := { s with resize := some { r with clear := true, todo := s.leaving } }
        let s := s.each r.armed fun s q => s.putF (Reg.PART_RESIZE_STAT q) 1 0 2
        let s := s.each s.leaving fun s g => (s.ferryDiscard (2 * g)).ferryDiscard (2 * g + 1)
        s.each s.leaving fun s g => s.clearLeaving g)) ∧
    (∀ (t : Nat) (r : Resize), (s.tickTo t).resize = some r → r.clear = false → r.early = false → ((s.tickTo t).getF (Reg.PART_RESIZE_CFG r.page) 15 0) ≠ 0 → r.start + ((s.tickTo t).getF (Reg.PART_RESIZE_CFG r.page) 15 0) * 400 ≤ (s.tickTo t).clk.base → exec (.resizeQuiesceTimeout t) s = .next (
      let s := s.tickTo t
      let s := { s with resize := some { r with early := true } }
      let s := s.each (s.jobs.filter s.blocksQuiesce) fun s j =>
        if j.ph = .ended then s
        else if j.start.isSome then s.stopJob j.id Disp.FAILED_CLEAR_PENDING 0 false else s.endUnstarted j Disp.FAILED_CLEAR_PENDING 0
      s.each s.leaving fun s g => (s.ferryAbort (2 * g)).ferryAbort (2 * g + 1))) ∧
    (∀ (t : Nat) (r : Resize), (s.tickTo t).resize = some r → r.clear = true → r.todo.isEmpty = true → exec (.resizeCommit t) s = .next (
      let s := s.tickTo t
      let us := satN 16 ((s.clk.base - r.start) / 400)
      let s := s.each r.armed fun s p => s.commitPart p
      let s := s.each r.armed fun s p =>
        let a := Reg.PART_RESIZE_STAT p
        ((((s.putBit (Reg.PART_CTL p) 1 false).putF a 1 0 0).putBit a 4 true).putF a 31 16 us).putBit (Reg.PART_STAT p) 0 false |>.evt (partPage p) 1
      let s := s.each s.leaving fun s g => s.putBit (Reg.TICKET_STAT g) 8 false
      let s := { s with resize := none, leaving := [] }
      let s := s.each (s.jobs.filter fun j => decide (j.ph = .queued ∨ j.ph = .passed)) fun s j => s.readmit j
      s.dispSync.ringsSync))

/-- Each event takes place with the clocks run to its base tick. The angle deadlines are taken again, and with them the order of the jobs. The
first job of a partition, passed by the ledger, while the dispatcher is on and the device is not parking, is placed on the cores chosen
for it, or waits for cores or for the refresh window. A job that has ended, with nothing left to settle, is finished with its disposition.
One with ranks is first settled with its measured energy, then finished with the disposition of its ranks. A placed job that has run
longer than JOB_TMO of its class is stopped with FAILED_TIMEOUT. A heartwood write of CANCEL that passes its checks is the write of its
fields. With GO, a job that has started is stopped with CANCELLED, and one that has not ends with it. From spec/11_dispatch_accounting.md,
spec/05_power_energy_thermal.md. -/
def Obligations.JobCommands : Prop :=
  ∀ s : State,
    (∀ (t : Nat), exec (.deadlineReevaluate t) s = .next ({ (s.coreTick t) with jobs := (s.coreTick t).jobs.map (s.coreTick t).angleDeadline }.reevaluate)) ∧
    (∀ (p t : Nat) (j : Job), ((((s.coreTick t).replace p).each ((s.partGroves p).flatMap fun g => (List.range 4).map fun n => 4 * g + n) fun s c => s.coreNext c).headJob p) = some j → j.ph = .passed → (((s.coreTick t).replace p).each ((s.partGroves p).flatMap fun g => (List.range 4).map fun n => 4 * g + n) fun s c => s.coreNext c).bit Reg.DISP_CTL 0 = true → (((s.coreTick t).replace p).each ((s.partGroves p).flatMap fun g => (List.range 4).map fun n => 4 * g + n) fun s c => s.coreNext c).park.stage < 2 → exec (.placement p t) s = .next (
      let s := ((s.coreTick t).replace p).each ((s.partGroves p).flatMap fun g => (List.range 4).map fun n => 4 * g + n) fun s c => s.coreNext c
      if s.refreshHolds j then s.setJob j.id fun x => { x with held := true }
      else match s.chooseCores j with
        | none => s.setJob j.id fun x => { x with coreWait := true }
        | some (cs, vs) => s.placeOn j cs vs)) ∧
    (∀ (i sq t : Nat) (j : Job) (e : Nat × Nat), ((s.coreTick t).jobs.find? fun j => j.ring == i && j.sq == sq && j.ph == .ended) = some j → j.ranks.isEmpty = true → j.stop = some e → exec (.jobComplete i sq t) s = .next ((s.coreTick t).finish j e.1 e.2)) ∧
    (∀ (i sq t : Nat) (j k : Job), ((s.coreTick t).jobs.find? fun j => j.ring == i && j.sq == sq && j.ph == .ended) = some j → j.ranks.isEmpty = false → (((s.coreTick t).ledgerSettle j.part j.debit ((s.coreTick t).jobEnergy j)).setJob j.id fun x => { x with energy := (s.coreTick t).jobEnergy j, ranks := [], stop := some ((s.coreTick t).disposition j) }).job j.id = some k → exec (.jobComplete i sq t) s = .next (State.finish (((s.coreTick t).ledgerSettle j.part j.debit ((s.coreTick t).jobEnergy j)).setJob j.id fun x => { x with energy := (s.coreTick t).jobEnergy j, ranks := [], stop := some ((s.coreTick t).disposition j) }) k ((s.coreTick t).disposition j).1 ((s.coreTick t).disposition j).2)) ∧
    (∀ (i sq t : Nat) (j : Job), ((s.coreTick t).jobs.find? fun j => j.ring == i && j.sq == sq && j.ph == .placed) = some j → ((s.coreTick t).getF (Reg.DISP_JOB_TMO j.prio) 15 0) ≠ 0 → 1000 * ((s.coreTick t).getF (Reg.DISP_JOB_TMO j.prio) 15 0) < (s.coreTick t).jobRun j → j.stop.isNone = true → exec (.jobTimeout i sq t) s = .next (
      let s := s.coreTick t
      s.stopJob j.id Disp.FAILED_TIMEOUT 0 false)) ∧
    (∀ (req : Requester) (value : Nat), s.verdict req Reg.DISP_CANCEL 4 true = .go → s.world req = true → exec (.cancel req value) s = .next ((s.respOk []).writeCancel value)) ∧
    (∀ (req : Requester) (value : Nat) (j : Job), s.verdict req Reg.DISP_CANCEL 4 true = .go → s.world req = true → value.testBit 31 = true → (s.jobs.find? fun j => j.ring == value % 64 && j.sq == fld value 27 16 && decide (j.ph ≠ .ended)) = some j → exec (.cancel req value) s = .next (if j.start.isSome = true then (State.cancelStat (s.respOk []) 2).stopJob j.id Disp.CANCELLED 1 false else (State.cancelStat (s.respOk []) 1).endUnstarted j Disp.CANCELLED 1))

/-- In each clause off and cmd are the command that the command unit of core c issues next at base tick t, o is the rank, and w the state in
which it takes effect; where it issues, the rank goes on behind it and the core shows it. NOP has no other effect. TILE, with every
earlier transfer complete, nothing due at the boundary, and a tile that passes its checks, enters the tile. A stop or a pre-emption that
is due at the boundary acts instead of it. END, or the end of the list, with every earlier transfer complete, ends the rank: stopped where
a stop is due, and done, its tickets passed on, otherwise. BARRIER, followed by TILE or END and with no other rank at another ID, makes
the rank wait, and all pass where all have come. Where every rank of the job on a core has reached a BARRIER, all pass it, their tickets
passed on. LBCFG with EN 0, with no transfer under way that uses the buffer, takes it away. With EN 1 and fields within their limits it
declares it. A command whose opcode is not in the table faults the rank with BAD_OPCODE. A VOP that the vector unit issues next, once the
command unit has faulted what it has to fault, and whose operation is not in the table, faults the rank with BAD_FIELD. From
spec/08_groves_matrix_cores.md. -/
def Obligations.CoreControlCommands : Prop :=
  ∀ s : State,
    (∀ (c t : Nat) (env : CoreEnv) (o : OnCore) (off cmd : Nat) (w : State), s.nextIssue c t 0 env = some (o, off, cmd, w) → cmd % 256 = 0 → off = o.rank.off → exec (.coreNop c t env) s = .next (((w).setRank o.job.id o.k fun r => r.issue off).coreSync c)) ∧
    (∀ (c t : Nat) (env : CoreEnv) (o : OnCore) (off cmd : Nat) (w : State), (s.coreTick t).nextIssue c t 0 env = some (o, off, cmd, w) → cmd % 256 = 1 → off = o.rank.off → o.rank.xfers.isEmpty = true → (match (s.coreTick t).issuing c with | some x => ((s.coreTick t).boundary x).1 | none => false) = false → w.tileCheck o cmd = .ok () → exec (.tile c t env) s = .next (((w.tileEnter o cmd).setRank o.job.id o.k fun r => r.issue off).coreSync c)) ∧
    (∀ (c t : Nat) (env : CoreEnv) (o : OnCore), (s.coreTick t).issuing c = some o → o.rank.nextTile ≠ 0 → o.rank.cmdAt o.rank.off % 256 = 1 → o.rank.xfers.isEmpty = true → (o.rank.window.map fun e => e.1).headD 0 = o.rank.off → ((s.coreTick t).boundary o).1 = true → exec (.tile c t env) s = .next ((s.coreTick t).boundary o).2) ∧
    (∀ (c t : Nat) (env : CoreEnv) (o : OnCore) (off cmd : Nat) (w : State), s.nextIssue c t 0 env = some (o, off, cmd, w) → cmd % 256 = 2 → off = o.rank.off → o.rank.xfers.isEmpty = true → exec (.coreEnd c t env) s = .next (((if o.job.stop.isSome = true then w.leaveRank o.job.id o.k .stopped else (w.passTickets o.job.id o.k).leaveRank o.job.id o.k .done).setRank o.job.id o.k fun r => r.issue off).coreSync c)) ∧
    (∀ (c t : Nat) (env : CoreEnv) (o : OnCore) (off cmd : Nat) (w : State), s.nextIssue c t 0 env = some (o, off, cmd, w) → cmd % 256 = 0x40 → off = o.rank.off → o.rank.xfers.isEmpty = true → o.rank.off + 32 < o.rank.base + 32 * o.rank.code.length → (o.rank.cmdAt (o.rank.off + 32) % 256 = 1 ∨ o.rank.cmdAt (o.rank.off + 32) % 256 = 2) → (o.job.ranks.any fun r => r.bar.any fun b => b != cb cmd 4 2) = false → exec (.barrier c t env) s = .next ((((w.setRank o.job.id o.k fun r => { r with st := .barrier, bar := some (cb cmd 4 2) }).setRank o.job.id o.k fun r => r.issue off).coreSync c).barrierCheck c)) ∧
    (∀ (c t : Nat) (o : OnCore), (s.coreTick t).running c = some o → (o.job.ranks.all fun r => r.bar.isSome) = true → exec (.barrierRelease c t) s = .next (
      let s := s.coreTick t
      let s := s.each (List.range o.job.ranks.length) fun s k =>
        (s.passTickets o.job.id k).setRank o.job.id k fun r => { r with bar := none, st := if r.st = .barrier then .run else r.st }
      s.each o.job.ranks fun s r => if r.core < 64 then s.coreSync r.core else s)) ∧
    (∀ (c t : Nat) (env : CoreEnv) (o : OnCore) (off cmd : Nat) (w : State), s.nextIssue c t 0 env = some (o, off, cmd, w) → cmd % 256 = 0x50 → off = o.rank.off → (o.rank.xfers.any fun x => x.lb.any (fun e => e.1 == cb cmd 4 1 % 8) || (!x.load && (o.rowsRead x.off x.cmd).any fun e => e.1 == cb cmd 4 1 % 8)) = false → cmd.testBit 39 = false → exec (.lbcfg c t env) s = .next (((w.setRank o.job.id o.k fun r => { r with lbs := r.lbs.set (cb cmd 4 1 % 8) {} }).setRank o.job.id o.k fun r => r.issue off).coreSync c)) ∧
    (∀ (c t : Nat) (env : CoreEnv) (o : OnCore) (off cmd : Nat) (w : State), s.nextIssue c t 0 env = some (o, off, cmd, w) → cmd % 256 = 0x50 → off = o.rank.off → (o.rank.xfers.any fun x => x.lb.any (fun e => e.1 == cb cmd 4 1 % 8) || (!x.load && (o.rowsRead x.off x.cmd).any fun e => e.1 == cb cmd 4 1 % 8)) = false → cmd.testBit 39 = true → cb cmd 6 2 ≠ 0 → cb cmd 8 1 ≠ 0 → cb cmd 8 1 * (cb cmd 6 2 * 64) ≤ 0x8000 → cb cmd 10 2 ≠ 0 → cb cmd 10 2 ≤ 4095 → exec (.lbcfg c t env) s = .next (((w.setRank o.job.id o.k fun r => { r with lbs := r.lbs.set (cb cmd 4 1 % 8) { en := true, rowBytes := cb cmd 6 2 * 64, rows := cb cmd 8 1, imgRows := cb cmd 10 2, rrow := sgn 16 (cb cmd 12 2) } }).setRank o.job.id o.k fun r => r.issue off).coreSync c)) ∧
    (∀ (c t : Nat) (env : CoreEnv) (o : OnCore) (off cmd : Nat) (w : State), s.nextIssue c t 0 env = some (o, off, cmd, w) → cmd % 256 ∉ [0x00, 0x01, 0x02, 0x10, 0x11, 0x20, 0x21, 0x22, 0x30, 0x40, 0x50] → off = o.rank.off → exec (.badOpcode c t env) s = .next ((w.coreFault o off CF.BAD_OPCODE).badVop c t env)) ∧
    (∀ (c t : Nat) (env : CoreEnv) (o : OnCore) (off cmd : Nat) (w : State), (State.ctrlCmd s c t env (fun cmd => !([0x00, 0x01, 0x02, 0x10, 0x11, 0x20, 0x21, 0x22, 0x30, 0x40, 0x50].contains (cmd % 256))) false fun _ _ s => (.fault CF.BAD_OPCODE, s)).nextIssue c t 3 env = some (o, off, cmd, w) → cmd % 256 = 0x30 → cb cmd 4 1 ∉ vopOps → exec (.badOpcode c t env) s = .next (w.coreFault o off CF.BAD_FIELD))

/-- In each clause off and cmd are the command that its unit of core c issues next at base tick t, o is the rank, and w the state in which it
takes effect; where its operands pass their checks and nothing holds it, it issues with its effect: the rank goes on behind it and the
core shows it. LOAD reads its bytes. A LOAD of the rank on the core that completes puts its bytes into tile memory, or into its row of a
line buffer, and leaves the list of transfers. STORE takes its bytes, and asks for its ticket. A STORE of the rank on the core whose bytes
are written completes once it is acknowledged. One whose bytes are still to be written writes them first. MMA accumulates the product into
its bank. DRAIN writes its bank out, converted. A DRAIN whose check of the bank fails starts the replay of its tile, or discards the tile,
instead of issuing. IMCFG with legal fields is kept for the MMA commands that follow. From spec/08_groves_matrix_cores.md. -/
def Obligations.CoreDataCommands : Prop :=
  ∀ s : State,
    (∀ (c t : Nat) (env : CoreEnv) (o : OnCore) (off cmd : Nat) (w : State), s.nextIssue c t 1 env = some (o, off, cmd, w) → cmd % 256 = 0x10 → (State.loadIssue env o off cmd w).1 = .ok true → exec (.coreLoad c t env) s = .next ((((State.loadIssue env o off cmd w).2).setRank o.job.id o.k fun r => r.issue off).coreSync c)) ∧
    (∀ (c off t : Nat) (o : OnCore) (x : Xfer), (s.coreTick t).running c = some o → (o.rank.xfers.find? fun x => x.off == off && x.load) = some x → exec (.loadComplete c off t) s = .next (
      let s := s.coreTick t
      let s := match x.lb with
        | some (k, row) =>
          let l := o.rank.lb k
          s.setIbytes (tileBase c + 0x78000 - 0x8000 * k + (row.toNat % l.rows) * l.rowBytes) x.data
        | none => s.setIbytes (tileBase c + cb x.cmd 16 4 % 0x80000) x.data
      s.xferGone o off)) ∧
    (∀ (c t : Nat) (env : CoreEnv) (o : OnCore) (off cmd : Nat) (w : State), s.nextIssue c t 1 env = some (o, off, cmd, w) → cmd % 256 = 0x11 → (State.storeIssue env o off cmd w).1 = .ok true → exec (.coreStore c t env) s = .next ((((State.storeIssue env o off cmd w).2).setRank o.job.id o.k fun r => r.issue off).coreSync c)) ∧
    (∀ (c off t : Nat) (o : OnCore) (x : Xfer), (s.coreTick t).running c = some o → (o.rank.xfers.find? fun x => x.off == off && !x.load && x.ask.isNone) = some x → x.sent = true → exec (.storeComplete c off t) s = .next ((s.coreTick t).storeEnd o x)) ∧
    (∀ (c off t : Nat) (o : OnCore) (x : Xfer) (data : List Byte), (s.coreTick t).running c = some o → (o.rank.xfers.find? fun x => x.off == off && !x.load && x.ask.isNone) = some x → x.sent = false → (s.coreTick t).refRead c o.rank (o.ref (cb x.cmd 16 4)) 0 (cb x.cmd 20 4) = .ok data → ((s.coreTick t).writeRange (o.access (2 * coreGrove c + 1) x.addr (cb x.cmd 20 4) true data x.tag) (decide (targetOf x.addr = .store (coreGrove c))) false {}).1 = .done → exec (.storeComplete c off t) s = .next (State.storeEnd ((s.coreTick t).writeRange (o.access (2 * coreGrove c + 1) x.addr (cb x.cmd 20 4) true data x.tag) (decide (targetOf x.addr = .store (coreGrove c))) false {}).2 o x)) ∧
    (∀ (c t : Nat) (env : CoreEnv) (o : OnCore) (off cmd : Nat) (w : State), s.nextIssue c t 2 env = some (o, off, cmd, w) → cmd % 256 = 0x20 → (State.mma env o off cmd w).1 = .ok true → exec (.mma c t env) s = .next ((((State.mma env o off cmd w).2).setRank o.job.id o.k fun r => r.issue off).coreSync c)) ∧
    (∀ (c t : Nat) (env : CoreEnv) (o : OnCore) (off cmd : Nat) (w : State), s.nextIssue c t 3 env = some (o, off, cmd, w) → cmd % 256 = 0x21 → (State.drain env o off cmd w).1 = .ok true → exec (.drain c t env) s = .next ((((State.drain env o off cmd w).2).setRank o.job.id o.k fun r => r.issue off).coreSync c)) ∧
    (∀ (c t : Nat) (env : CoreEnv) (o : OnCore) (off cmd : Nat) (w : State), s.nextIssue c t 3 env = some (o, off, cmd, w) → cmd % 256 = 0x21 → (State.drain env o off cmd w).1 = .ok false → exec (.drain c t env) s = .next (State.drain env o off cmd w).2) ∧
    (∀ (c t : Nat) (env : CoreEnv) (o : OnCore) (off cmd : Nat) (w : State), s.nextIssue c t 2 env = some (o, off, cmd, w) → cmd % 256 = 0x22 → imOk cmd = true → (o.ref (cb cmd 16 4)).aligned = true → exec (.imcfg c t env) s = .next (((w.setRank o.job.id o.k fun r => { r with im := some cmd }).setRank o.job.id o.k fun r => r.issue off).coreSync c))

/-- In each clause off and cmd are the command that the vector unit of core c issues next at base tick t, a VOP of the operation named, o is
the rank, and w the state in which it takes effect; where its operands pass their checks and nothing holds it, it writes the results of
its elements to tile memory, the rank goes on behind it, and the core shows it. ADD. MUL. FMA. MAX. MIN. CVT. RELU. GELU. SIGMOID. TANH.
EXP. RECIP. RSQRT. RSUM. RMAX. From spec/08_groves_matrix_cores.md. -/
def Obligations.VopCommands : Prop :=
  ∀ s : State,
    (∀ (c t : Nat) (env : CoreEnv) (o : OnCore) (off cmd : Nat) (w : State), s.nextIssue c t 3 env = some (o, off, cmd, w) → cmd % 256 = 0x30 → cb cmd 4 1 = 0x1 → (State.vop env o off cmd w).1 = .ok true → exec (.vopAdd c t env) s = .next ((((State.vop env o off cmd w).2).setRank o.job.id o.k fun r => r.issue off).coreSync c)) ∧
    (∀ (c t : Nat) (env : CoreEnv) (o : OnCore) (off cmd : Nat) (w : State), s.nextIssue c t 3 env = some (o, off, cmd, w) → cmd % 256 = 0x30 → cb cmd 4 1 = 0x2 → (State.vop env o off cmd w).1 = .ok true → exec (.vopMul c t env) s = .next ((((State.vop env o off cmd w).2).setRank o.job.id o.k fun r => r.issue off).coreSync c)) ∧
    (∀ (c t : Nat) (env : CoreEnv) (o : OnCore) (off cmd : Nat) (w : State), s.nextIssue c t 3 env = some (o, off, cmd, w) → cmd % 256 = 0x30 → cb cmd 4 1 = 0x3 → (State.vop env o off cmd w).1 = .ok true → exec (.vopFma c t env) s = .next ((((State.vop env o off cmd w).2).setRank o.job.id o.k fun r => r.issue off).coreSync c)) ∧
    (∀ (c t : Nat) (env : CoreEnv) (o : OnCore) (off cmd : Nat) (w : State), s.nextIssue c t 3 env = some (o, off, cmd, w) → cmd % 256 = 0x30 → cb cmd 4 1 = 0x4 → (State.vop env o off cmd w).1 = .ok true → exec (.vopMax c t env) s = .next ((((State.vop env o off cmd w).2).setRank o.job.id o.k fun r => r.issue off).coreSync c)) ∧
    (∀ (c t : Nat) (env : CoreEnv) (o : OnCore) (off cmd : Nat) (w : State), s.nextIssue c t 3 env = some (o, off, cmd, w) → cmd % 256 = 0x30 → cb cmd 4 1 = 0x5 → (State.vop env o off cmd w).1 = .ok true → exec (.vopMin c t env) s = .next ((((State.vop env o off cmd w).2).setRank o.job.id o.k fun r => r.issue off).coreSync c)) ∧
    (∀ (c t : Nat) (env : CoreEnv) (o : OnCore) (off cmd : Nat) (w : State), s.nextIssue c t 3 env = some (o, off, cmd, w) → cmd % 256 = 0x30 → cb cmd 4 1 = 0x6 → (State.vop env o off cmd w).1 = .ok true → exec (.vopCvt c t env) s = .next ((((State.vop env o off cmd w).2).setRank o.job.id o.k fun r => r.issue off).coreSync c)) ∧
    (∀ (c t : Nat) (env : CoreEnv) (o : OnCore) (off cmd : Nat) (w : State), s.nextIssue c t 3 env = some (o, off, cmd, w) → cmd % 256 = 0x30 → cb cmd 4 1 = 0x10 → (State.vop env o off cmd w).1 = .ok true → exec (.vopRelu c t env) s = .next ((((State.vop env o off cmd w).2).setRank o.job.id o.k fun r => r.issue off).coreSync c)) ∧
    (∀ (c t : Nat) (env : CoreEnv) (o : OnCore) (off cmd : Nat) (w : State), s.nextIssue c t 3 env = some (o, off, cmd, w) → cmd % 256 = 0x30 → cb cmd 4 1 = 0x11 → (State.vop env o off cmd w).1 = .ok true → exec (.vopGelu c t env) s = .next ((((State.vop env o off cmd w).2).setRank o.job.id o.k fun r => r.issue off).coreSync c)) ∧
    (∀ (c t : Nat) (env : CoreEnv) (o : OnCore) (off cmd : Nat) (w : State), s.nextIssue c t 3 env = some (o, off, cmd, w) → cmd % 256 = 0x30 → cb cmd 4 1 = 0x12 → (State.vop env o off cmd w).1 = .ok true → exec (.vopSigmoid c t env) s = .next ((((State.vop env o off cmd w).2).setRank o.job.id o.k fun r => r.issue off).coreSync c)) ∧
    (∀ (c t : Nat) (env : CoreEnv) (o : OnCore) (off cmd : Nat) (w : State), s.nextIssue c t 3 env = some (o, off, cmd, w) → cmd % 256 = 0x30 → cb cmd 4 1 = 0x13 → (State.vop env o off cmd w).1 = .ok true → exec (.vopTanh c t env) s = .next ((((State.vop env o off cmd w).2).setRank o.job.id o.k fun r => r.issue off).coreSync c)) ∧
    (∀ (c t : Nat) (env : CoreEnv) (o : OnCore) (off cmd : Nat) (w : State), s.nextIssue c t 3 env = some (o, off, cmd, w) → cmd % 256 = 0x30 → cb cmd 4 1 = 0x14 → (State.vop env o off cmd w).1 = .ok true → exec (.vopExp c t env) s = .next ((((State.vop env o off cmd w).2).setRank o.job.id o.k fun r => r.issue off).coreSync c)) ∧
    (∀ (c t : Nat) (env : CoreEnv) (o : OnCore) (off cmd : Nat) (w : State), s.nextIssue c t 3 env = some (o, off, cmd, w) → cmd % 256 = 0x30 → cb cmd 4 1 = 0x15 → (State.vop env o off cmd w).1 = .ok true → exec (.vopRecip c t env) s = .next ((((State.vop env o off cmd w).2).setRank o.job.id o.k fun r => r.issue off).coreSync c)) ∧
    (∀ (c t : Nat) (env : CoreEnv) (o : OnCore) (off cmd : Nat) (w : State), s.nextIssue c t 3 env = some (o, off, cmd, w) → cmd % 256 = 0x30 → cb cmd 4 1 = 0x16 → (State.vop env o off cmd w).1 = .ok true → exec (.vopRsqrt c t env) s = .next ((((State.vop env o off cmd w).2).setRank o.job.id o.k fun r => r.issue off).coreSync c)) ∧
    (∀ (c t : Nat) (env : CoreEnv) (o : OnCore) (off cmd : Nat) (w : State), s.nextIssue c t 3 env = some (o, off, cmd, w) → cmd % 256 = 0x30 → cb cmd 4 1 = 0x20 → (State.vop env o off cmd w).1 = .ok true → exec (.vopRsum c t env) s = .next ((((State.vop env o off cmd w).2).setRank o.job.id o.k fun r => r.issue off).coreSync c)) ∧
    (∀ (c t : Nat) (env : CoreEnv) (o : OnCore) (off cmd : Nat) (w : State), s.nextIssue c t 3 env = some (o, off, cmd, w) → cmd % 256 = 0x30 → cb cmd 4 1 = 0x21 → (State.vop env o off cmd w).1 = .ok true → exec (.vopRmax c t env) s = .next ((((State.vop env o off cmd w).2).setRank o.job.id o.k fun r => r.issue off).coreSync c))

/-- Each event takes place with the clocks run to its base tick, for the rank that runs on the core. A stop or pre-emption that has waited
beyond the limit, while the rank is in a tile and in no replay, abandons the tile: it is counted and raises its events, the tile is
rewound, and the rank stops or is saved. A save that completes leaves the core to another rank with the context in its slot, or the rank
stopped where a stop is due. A restore that completes brings the context back, and the rank runs on, waits at its barrier, or stops where
a stop is due. A command of the matrix or vector unit that has issued and not completed in time faults its rank with CMD_HANG, and the
core goes OFFLINE. From spec/08_groves_matrix_cores.md, spec/13_inference_safety.md. -/
def Obligations.CoreSwitching : Prop :=
  ∀ s : State,
    (∀ (c t : Nat) (o : OnCore), (s.coreTick t).running c = some o → o.rank.st = .run → o.rank.replay.isNone = true → o.rank.tile.off ≠ 0 → o.job.stop.isSome ∨ (s.coreTick t).preemptDue c → o.rank.tile.start + (s.coreTick t).tileLimit o (firstRank ((s.coreTick t).queuedOn c)) ≤ (s.coreTick t).clk.base → exec (.tileMaxExpired c t) s = .next (
      let s := s.coreTick t
      let s := ((s.cnt (Reg.CORE_TILE_ABORT_CNT c)).evt (corePage c) 1).evt (grovePage (coreGrove c)) 0
      let s := s.rewind o
      if o.job.stop.isSome then s.leaveRank o.job.id o.k .stopped
      else match s.running c with
        | some o => s.beginSave o o.rank.tile.cmd
        | none => s)) ∧
    (∀ (c t : Nat) (o : OnCore), (s.coreTick t).running c = some o → o.rank.st = .saving → exec (.contextSaveDone c t) s = .next (
      let s := s.coreTick t
      let s := s.meter (coreGrove c)
      if o.job.stop.isSome then s.leaveRank o.job.id o.k .stopped
      else
        let s := (s.saveRank o).setRank o.job.id o.k fun r => { r with st := .saved }
        (((s.runSync o.job.id).coreSync c).coreNext c).strandedEnd (coreGrove c))) ∧
    (∀ (c t : Nat) (o : OnCore), (s.coreTick t).running c = some o → o.rank.st = .restoring → exec (.contextRestoreDone c t) s = .next (
      let s := s.coreTick t
      let s := (s.restoreRank o c).setRank o.job.id o.k fun r => { r with
        st := if r.bar.isSome then .barrier else .run, ctx := [], image := [], live := 0, tile := { r.tile with start := s.clk.base } }
      let s := (s.runSync o.job.id).coreSync c
      match s.running c with
      | some o => if o.job.stop.isSome then s.leaveRank o.job.id o.k .stopped else s
      | none => s)) ∧
    (∀ (c unit t : Nat) (env : CoreEnv) (o : OnCore) (r : Rank) (off cmd : Nat), (s.coreTick t).issuing c = some o → (unit = 2 ∨ unit = 3) → ((s.coreTick t).prepare o env).1 = .ok r → r.nextOf unit = some (off, cmd) → r.tokenWait off cmd = false → r.bankWait off cmd = false → exec (.cmdWatchdogExpired c unit t env) s = .next (((((s.coreTick t).prepare o env).2.setRank o.job.id o.k fun _ => r).coreFault o off CF.CMD_HANG).leaveService c Svc.OFFLINE))

/-- A register write is one that passes its checks. A write of MOP_GO with OP 1 is the request of a fill. With room in the queue and a legal
length it is queued with the fields of its registers. A write of MOP_GO with OP 2 is the request of a copy. With room in the queue and a
legal length it is queued with the fields of its registers. The first queued operation of a grove in P0, not yet running nor blocked,
starts, or ends with RANGE where it would run past the store. A running operation whose accesses are answered ends with its bytes written,
or with ACCESS where one of them failed. A write of CLEAR_GO is the write of its key. The key, from the heartwood, with no clear under way
and no partition that has the grove unless it is offline, starts its clear, which is then one that was asked for. A clear that has zeroed
the store and the tile memories and banks of a grove goes on to read them back. A clear that has read back ends, verified or failed. From
spec/08_groves_matrix_cores.md, spec/09_grove_store_tickets.md. -/
def Obligations.GroveStoreCommands : Prop :=
  ∀ s : State,
    (∀ (req : Requester) (g : Nat) (irq : Bool), g < 16 → s.verdict req (Reg.GROVE_MOP_GO g) 4 true = .go → exec (.mopFill req g irq) s = .next ((s.respOk []).writeMopGo req g (1 + irq.toNat * 256))) ∧
    (∀ (req : Requester) (g : Nat) (irq : Bool), s.verdict req (Reg.GROVE_MOP_GO g) 4 true = .go → g < 16 → (s.mopQ g).length < 4 → s.getF (Reg.GROVE_MOP_LEN g) 23 0 ≠ 0 → s.getF (Reg.GROVE_MOP_LEN g) 23 0 % 64 = 0 → s.getF (Reg.GROVE_MOP_LEN g) 23 0 ≤ 0x800000 → exec (.mopFill req g irq) s = .next (State.mopSync { (s.respOk []) with mops := updAt s.mops g fun q => q ++ [{ op := 1, irq := irq, dst := s.getF (Reg.GROVE_MOP_DST g) 22 6 * 64, src := s.getF (Reg.GROVE_MOP_SRC g) 22 6 * 64, len := s.getF (Reg.GROVE_MOP_LEN g) 23 0, val := s.rd (Reg.GROVE_MOP_VAL g) }] } g)) ∧
    (∀ (req : Requester) (g : Nat) (irq : Bool), g < 16 → s.verdict req (Reg.GROVE_MOP_GO g) 4 true = .go → exec (.mopCopy req g irq) s = .next ((s.respOk []).writeMopGo req g (2 + irq.toNat * 256))) ∧
    (∀ (req : Requester) (g : Nat) (irq : Bool), s.verdict req (Reg.GROVE_MOP_GO g) 4 true = .go → g < 16 → (s.mopQ g).length < 4 → s.getF (Reg.GROVE_MOP_LEN g) 23 0 ≠ 0 → s.getF (Reg.GROVE_MOP_LEN g) 23 0 % 64 = 0 → s.getF (Reg.GROVE_MOP_LEN g) 23 0 ≤ 0x800000 → exec (.mopCopy req g irq) s = .next (State.mopSync { (s.respOk []) with mops := updAt s.mops g fun q => q ++ [{ op := 2, irq := irq, dst := s.getF (Reg.GROVE_MOP_DST g) 22 6 * 64, src := s.getF (Reg.GROVE_MOP_SRC g) 22 6 * 64, len := s.getF (Reg.GROVE_MOP_LEN g) 23 0, val := s.rd (Reg.GROVE_MOP_VAL g) }] } g)) ∧
    (∀ (g t : Nat) (m : MemOp), ((s.tickTo t).mopQ g).head? = some m → m.running = false → (s.tickTo t).mopBlocked g m = false → (s.tickTo t).dom g = 0 → exec (.mopStart g t) s = .next (if 0x800000 < m.dst + m.len ∨ (m.op = 2 ∧ 0x800000 < m.src + m.len) then (s.tickTo t).mopEnd g MopErr.RANGE else State.mopSync { (s.tickTo t) with mops := updAt (s.tickTo t).mops g fun q => match q with | m :: l => { m with running := true } :: l | [] => [] } g)) ∧
    (∀ (g t : Nat) (env : MemEnv) (m : MemOp) (r : Bool × State), ((s.tickTo t).mopQ g).head? = some m → m.running = true → (s.tickTo t).dom g = 0 → (s.tickTo t).mopRun g m env = some r → exec (.mopDone g t env) s = .next (r.2.mopEnd g (if r.1 = true then MopErr.NONE else MopErr.ACCESS))) ∧
    (∀ (req : Requester) (g value : Nat), g < 16 → s.verdict req (Reg.GROVE_CLEAR_GO g) 4 true = .go → exec (.clearGo req g value) s = .next ((s.respOk []).writeClearGo req g value)) ∧
    (∀ (req : Requester) (g : Nat), s.verdict req (Reg.GROVE_CLEAR_GO g) 4 true = .go → g < 16 → s.world req = true → State.groveClearing (s.respOk []) g = false → ((s.groveOwner g).isNone || s.groveOffline g) = true → exec (.clearGo req g 0x434C) s = .next ((State.startClear (s.respOk []) g).clearAsked g true)) ∧
    (∀ (g t : Nat), g < 16 → (s.tickTo t).getF (Reg.GROVE_CLEAR_STAT g) 1 0 = 1 → exec (.clearZeroDone g t) s = .next (
      let s := s.tickTo t
      let s := (s.zero (storeBase + 0x800000 * g) 0x800000).putF (Reg.GROVE_CLEAR_STAT g) 1 0 2
      s.each (List.range 4) fun s n => (s.izero (tileBase (4 * g + n)) 0x80000).setCore (4 * g + n) fun C => { C with banks := [{}, {}] })) ∧
    (∀ (g : Nat) (ok : Bool) (t : Nat), g < 16 → (s.tickTo t).getF (Reg.GROVE_CLEAR_STAT g) 1 0 = 2 → exec (.clearVerifyDone g ok t) s = .next ((s.tickTo t).endClear g ok))

/-- A request to an office of a grove store or an ALE TCM is answered by that office, or held by its memory. A ticket that has been out for
TKT_LIFE µs expires. The return of a tag to its office gives the ticket back. A sender that waits repeats its request: a core its STORE, a
ferry its transfer, an engine its export. A sender that has waited as long as it may gives up, each with its own error. A write of ARM
that passes its checks is the write of that office. It arms the windows at whose bits it writes 1. From Stage A entry, a transaction
without a response is counted and ends in an error of its issuer: an error response to an access, a fault of a transfer of a core, the
failure of the transfer of a ferry or of the export of an engine, and the time-out of the work of a block. An access is answered by an
error with zeros. From spec/09_grove_store_tickets.md, spec/10_mesh_landings.md. -/
def Obligations.TicketCommands : Prop :=
  ∀ s : State,
    (∀ (req : Requester) (k off len : Nat), k < 24 → exec (.ticketRequest req k off len) s = .next (s.ticketAsk k (s.access req (tkBase k + off) len true []) off len)) ∧
    (∀ (k idx t : Nat) (x : Ticket), (((s.tickTo t).office k).tickets.find? fun x => x.idx == idx) = some x → x.grant + (s.tickTo t).getF (tkReg k 0x100) 15 0 * 400 ≤ (s.tickTo t).clk.base → exec (.ticketExpired k idx t) s = .next ((s.tickTo t).expireTicket k x)) ∧
    (∀ (req : Requester) (k tag : Nat), k < 24 → exec (.ticketReturn req k tag) s = .next (s.returnTicket k tag (reqCode req) 0)) ∧
    (∀ (who : Sender) (t : Nat), exec (.ticketRetry who t) s = .next (match who with | .core c => (s.tickTo t).coreRetry c | .ferry f => (s.tickTo t).ferryRetry f | .ale n => (s.tickTo t).expRetry n)) ∧
    (∀ (who : Sender) (t : Nat), exec (.tktWaitExpired who t) s = .next (match who with | .core c => (s.tickTo t).coreWaitExpired c | .ferry f => (s.tickTo t).ferryWaitExpired f | .ale n => (s.tickTo t).expWaitExpired n)) ∧
    (∀ (req : Requester) (k value : Nat), k < 24 → s.verdict req (tkReg k 0x104) 4 true = .go → exec (.windowArm req k value) s = .next ((s.respOk []).writeArm k value)) ∧
    (∀ (req : Requester) (k value : Nat), s.verdict req (tkReg k 0x104) 4 true = .go → k < 24 → exec (.windowArm req k value) s = .next (State.each (s.respOk []) ((List.range 16).filter fun w => value.testBit w) fun s w => s.armWindow k w)) ∧
    (∀ (who : Issuer), s.aEntry = true → exec (.meshTimeout who) s = .next (
      match who with
         | .access req addr len => (s.timedOut req addr len).respErr 0 len
         | .core c off => s.coreTimeout c off
         | .ferry f addr =>
           match (s.ferry f).queue.head?, (s.ferry f).busy with
           | some q, true => ((s.timedOut (.block Blk.FERRY f) q.src q.len).ferryFail f addr FErr.TIMEOUT)
           | _, _ => s
         | .exporter n =>
           match (s.ale n).queue.head? with
           | some q => (s.timedOut (.block Blk.ALE n) q.dst q.len).expFail n ExpErr.TIMEOUT
           | none => s
         | .block c i =>
           let req := Requester.block c i
           ((s.timedOut req 0 (2 ^ 48)).blockTimeout c i))) ∧
    (∀ (req : Requester) (addr len : Nat), s.aEntry = true → ∃ v, exec (.meshTimeout (.access req addr len)) s = .next v ∧ v.resp.err = true ∧ v.resp.data = List.replicate len 0)

/-- A write of Q_PUSH that passes its checks is the push of a transfer. With a legal length and room in the queue the transfer is queued with
the fields of its registers. The first queued transfer of an idle ferry starts, while the ferry is on, has not failed, its grove is in P0
and not leaving, and the device is not parking; it asks for its ticket where it uses one. The running transfer of a ferry that is not
stopped, once its ticket is there, moves what it still has to, and ends, goes on later from an access that is held, or fails. From
spec/10_mesh_landings.md. -/
def Obligations.FerryCommands : Prop :=
  ∀ s : State,
    (∀ (req : Requester) (f value : Nat), f < 32 → s.verdict req (Reg.FERRY_Q_PUSH f) 4 true = .go → exec (.ferryQPush req f value) s = .next ((s.respOk []).writeQPush req f value)) ∧
    (∀ (req : Requester) (f value : Nat), s.verdict req (Reg.FERRY_Q_PUSH f) 4 true = .go → f < 32 → value.testBit 0 = true → s.getF (Reg.FERRY_Q_LEN f) 24 0 ≠ 0 → s.getF (Reg.FERRY_Q_LEN f) 24 0 % 64 = 0 → s.getF (Reg.FERRY_Q_LEN f) 24 0 ≤ 2 ^ 24 → (s.ferry f).queue.length < 16 → exec (.ferryQPush req f value) s = .next (State.ferrySync (State.setFerry (s.respOk []) f fun F => { F with queue := F.queue ++ [{ src := 2 ^ 32 * s.getF (Reg.FERRY_Q_SRC_HI f) 15 0 + s.getF (Reg.FERRY_Q_SRC_LO f) 31 6 * 64, dst := 2 ^ 32 * s.getF (Reg.FERRY_Q_DST_HI f) 15 0 + s.getF (Reg.FERRY_Q_DST_LO f) 31 6 * 64, len := s.getF (Reg.FERRY_Q_LEN f) 24 0, tkt := value.testBit 1, irq := value.testBit 2, bulk := value.testBit 3, db := value.testBit 4, ring := fld value 13 8 }] }) f)) ∧
    (∀ (f t : Nat) (q : FerryOp), ((s.tickTo t).ferry f).queue.head? = some q → ((s.tickTo t).ferry f).busy = false → ((s.tickTo t).ferry f).failed = false → (s.tickTo t).bit (Reg.FERRY_CTL f) 0 = true → (s.tickTo t).leaving.contains (f / 2) = false → (s.tickTo t).dom (f / 2) = 0 → (s.tickTo t).park.stage < 2 → exec (.ferryTransferStart f t) s = .next (
      let s := s.tickTo t
      let s := (s.setFerry f fun F => { F with busy := true, tag := none, ask := none, pos := 0 }).ferrySync f
      if q.tkt then s.ferryAsk f q else s)) ∧
    (∀ (f t : Nat) (env : MemEnv) (q : FerryOp), ((s.tickTo t).ferry f).queue.head? = some q → ((s.tickTo t).ferry f).busy = true → ((s.tickTo t).ferry f).ask.isSome = false → (s.tickTo t).ferryStopped f = false → exec (.ferryTransferDone f t env) s = .next (
      let s := s.tickTo t
      if (s.ferry f).sent ∨ s.acks (.block Blk.FERRY f) q.dst q.len = 2 then s.ferryEnd f q
           else
             let r := State.ferryCopy f q (s.ferry f).tag env (((List.range (q.len / 64)).map fun k => 64 * k).filter fun o => (s.ferry f).pos ≤ o) s
             match r.1 with
             | .failed a e => r.2.ferryFail f a e
             | .upTo o => (r.2.setFerry f fun F => { F with pos := o }).ferryEnd f q
             | .all =>
               let s := if q.src < q.dst + q.len ∧ q.dst < q.src + q.len then r.2.freeBytes q.dst q.len else r.2
               (s.setFerry f fun F => { F with pos := q.len }).ferryEnd f q))

/-- A register write is one that passes its checks. A heartwood write of SELFTEST is the write of its fields. From Stage C entry, GO for a
core that may be tested starts its test. The test of a core whose grove is in P0 and not clearing ends: the tile memory and banks are
zeroed, the result shows, and the core returns to its state, or goes OFFLINE where a step failed. A heartwood write of RESTORE is the
write of its fields. From Stage C entry, GO for a core that is WITHDRAWN or OFFLINE and has passed its test brings it back to service. A
write of CNT_CLR is the write of its fields. GO clears seven counters of the core. From the declaration, a ring monitor that is on, has
not expired, and has seen no record for TMO ms expires: it shows, is logged, and raises its event. A write of INF_LOG_POP with 1 at bit 0
takes the oldest entry out of the log. The log is then the rest. From spec/13_inference_safety.md. -/
def Obligations.InferenceCommands : Prop :=
  ∀ s : State,
    (∀ (req : Requester) (value : Nat), s.verdict req Reg.SAFE_SELFTEST 4 true = .go → s.world req = true → exec (.selftest req value) s = .next ((s.respOk []).writeSelftest value)) ∧
    (∀ (req : Requester) (value : Nat), s.verdict req (Reg.SAFE_SELFTEST) 4 true = .go → s.world req = true → value.testBit 31 = true → s.cEntry = true → State.testable (s.respOk []) (value % 64) = true → exec (.selftest req value) s = .next (((State.wr (s.respOk []) Reg.SAFE_SELFTEST_STAT (1 + value % 64 * 256)).wr (Reg.CORE_ST_RESULT (value % 64)) 0).startTest (value % 64))) ∧
    (∀ (c step t : Nat) (svc y : Nat), ((s.coreTick t).core c).testing = some (svc, y) → step ≤ 6 → c < 64 → (s.coreTick t).dom (coreGrove c) = 0 → (s.coreTick t).groveClearing (coreGrove c) = false → exec (.selftestDone c step t) s = .next (
      let s := s.coreTick t
      let asked := s.bit Reg.SAFE_SELFTEST_STAT 0 && decide (s.getF Reg.SAFE_SELFTEST_STAT 13 8 = c)
      let s := (s.izero (tileBase c) 0x80000).setCore c fun C => { C with banks := [{}, {}], testing := none, passed := decide (step = 0) }
      let s := s.wr (Reg.CORE_ST_RESULT c) ((if step = 0 then 1 else 2) + step * 16)
      let s := if step = 0 ∨ 3 ≤ step then s.incWrap (Reg.CORE_PROBE_CNT c) 31 0 else s
      let s := if asked then s.wr Reg.SAFE_SELFTEST_STAT (c * 256 + 2 ^ 16 * (if step = 0 then 1 else 2) + 2 ^ 20 * step) else s
      let s := if asked || decide (step ≠ 0) then s.infEntry InfT.SELFTEST_DONE c 0 0 else s
      let s := s.setSvc c svc
      if step = 0 then s.coreNext c
      else if svc = Svc.OFFLINE then s else s.leaveService c Svc.OFFLINE)) ∧
    (∀ (req : Requester) (value : Nat), s.verdict req Reg.SAFE_RESTORE 4 true = .go → s.world req = true → exec (.restore req value) s = .next ((s.respOk []).writeRestore req value)) ∧
    (∀ (req : Requester) (value : Nat), s.verdict req (Reg.SAFE_RESTORE) 4 true = .go → s.world req = true → value.testBit 31 = true → s.cEntry = true → (s.svc (value % 64) = Svc.WITHDRAWN ∨ s.svc (value % 64) = Svc.OFFLINE) → (s.core (value % 64)).passed = true → exec (.restore req value) s = .next ((((State.putF (s.respOk []) (Reg.CORE_CHK_STAT (value % 64)) 11 8 0).setSvc (value % 64) Svc.IN_SERVICE).infEntry InfT.RESTORED (value % 64) 0 0).coreNext (value % 64))) ∧
    (∀ (req : Requester) (value : Nat), s.verdict req Reg.SAFE_CNT_CLR 4 true = .go → exec (.cntClr req value) s = .next ((s.respOk []).writeCntClr value)) ∧
    (∀ (req : Requester) (value : Nat), s.verdict req (Reg.SAFE_CNT_CLR) 4 true = .go → value.testBit 31 = true → ∃ v, exec (.cntClr req value) s = .next v ∧ v.rd (Reg.CORE_REPLAY_CNT (value % 64)) = 0 ∧ v.rd (Reg.CORE_CPF_TOTAL (value % 64)) = 0 ∧ v.rd (Reg.CORE_DFAULT_CNT (value % 64)) = 0 ∧ v.rd (Reg.CORE_TM_CE (value % 64)) = 0 ∧ v.rd (Reg.CORE_TM_UE (value % 64)) = 0 ∧ v.rd (Reg.CORE_PROBE_CNT (value % 64)) = 0 ∧ v.rd (Reg.CORE_REPLAY_MAX (value % 64)) = 0) ∧
    (∀ (k t : Nat), k < 4 → (s.tickTo t).cDecl = true → ((s.tickTo t).rd (Reg.SAFE_RMON_CFG k)).testBit 31 = true → (s.tickTo t).bit Reg.SAFE_RMON_STAT k = false → (s.tickTo t).rmon.getD k 0 + 400000 * (s.tickTo t).getF (Reg.SAFE_RMON_TMO k) 15 0 ≤ (s.tickTo t).clk.base → exec (.rmonExpired k t) s = .next (
      let s := s.tickTo t
      let cfg := s.rd (Reg.SAFE_RMON_CFG k)
      ((s.putBit Reg.SAFE_RMON_STAT k true).infEntry InfT.RMON_EXPIRED (fld cfg 5 0) 0 0).evt safePage 10)) ∧
    (∀ (req : Requester) (value : Nat), s.verdict req Reg.SAFE_INF_LOG_POP 4 true = .go → exec (.infLogPop req value) s = .next ((s.respOk []).popInfLog value)) ∧
    (∀ (req : Requester) (value : Nat), s.verdict req (Reg.SAFE_INF_LOG_POP) 4 true = .go → value.testBit 0 = true → ∃ v, exec (.infLogPop req value) s = .next v ∧ v.infLog = s.infLog.tail)

/-- Each event takes place with the clocks run to its base tick, where it names one. A write of CTL that passes its checks stores it, and acts
on the hold and the self-refresh as it says. A training ends with the code of its failure, from the stored results, or with the fastest
rate that trained. An initialisation ends in service, or with code 10. A window that is due begins: the display pipelines have filled
their FIFOs ahead of it, a new rate is taken with the window of the first controller, every row closes, and the next one is planned. A
window that has lasted its time ends, and the cores go on with what it held back. The next window is announced ANN_LEAD ns ahead, once, by
a pulse of the event network. A poll, while the grid runs, shows the temperatures, raises the interrupt of a controller above the range,
and chooses the next refresh rate. A row without a hint and without an access for AUTO_IDLE ns closes. A controller of the set that
serves, with scrubbing on, reads its next 64 bytes: an error is counted as its kind says, and the position goes on, or starts again with
its event. A controller of the set that loses its PHY or a channel fails, with its event; the function DRAM is lost where all have failed.
Its state is then FAILED. From spec/14_dram_controllers.md, spec/20_camera_display.md. -/
def Obligations.DramCommands : Prop :=
  ∀ s : State,
    (∀ (req : Requester) (x value : Nat), x < 4 → s.verdict req (Reg.DMC_CTL x) 4 true = .go → exec (.dmcHoldClear req x value) s = .next (((s.respOk []).regStore req (Reg.DMC_CTL x) value).dmcCtl x ((s.respOk []).bit (Reg.DMC_CTL x) 5))) ∧
    (∀ (x : Nat) (r : Train) (t : Nat), x < 4 → (s.tickTo t).dmcState x = DmcSt.TRAINING → exec (.dramTrainingDone x r t) s = .next (
      let s := s.tickTo t
      let d := s.dmc x
      if r.mrFail then s.trained x 1
      else if r.differ ∨ d.ctl.testBit 6 then s.trained x 2
      else if !dieOk r.density r.ranks || r.option then s.trained x 3
      else
        let s := s.setDmc x fun d => { d with density := r.density, ranks := r.ranks }
        let tag := s.rd (Reg.DMC_TRN_TAG x)
        let rate := fld d.cfg 2 0
        if d.ctl.testBit 4 ∧ tag.testBit 31 ∧ tag % 2 ^ 24 = r.mr % 2 ^ 24 ∧ fld tag 26 24 = rate ∧ r.quick then s.trainPass x 1 rate
        else
          let tried := ratesTried rate (d.cfg.testBit 8)
          match tried.find? fun k => r.steps.getD k 0 == 0 with
          | some k =>
            let s := s.each (List.range 64) fun s i => s.wr (Reg.DMC_TRN x i) (r.trn.getD i 0)
            (s.wr (Reg.DMC_TRN_TAG x) (r.mr % 2 ^ 24 + 2 ^ 24 * k + 2 ^ 31)).trainPass x 2 k
          | none => ((s.putF (Reg.DMC_TRN_STAT x) 1 0 2).putF (Reg.DMC_TRN_STAT x) 14 12 (tried.getLastD 0)).trained x (r.steps.getD (tried.getLastD 0) 4 % 16))) ∧
    (∀ (x : Nat) (ok : Bool) (t : Nat), x < 4 → (s.tickTo t).dmcState x = DmcSt.INIT → exec (.eccInitDone x ok t) s = .next ((s.tickTo t).trained x (if ok then 0 else 10))) ∧
    (∀ (x t : Nat) (env : MemEnv), (s.tickTo t).refreshes x = true → ((s.tickTo t).grid.next.getD x 0) ≤ (s.tickTo t).clk.base → exec (.refreshWindowStart x t env) s = .next (
      let s := s.tickTo t
      let b := s.grid.next.getD x 0
      let s := if s.dmcSet.contains x then s.voutFill (s.getF (Reg.DMC_RFSH_STAT x) 24 16) env else s
      let s := match x, s.grid.newRate with
        | 0, some r => s.newGrid b r
        | _, _ => s
      let s := { s with grid := { s.grid with next := s.grid.next.set x (s.grid.after x b), announced := s.grid.announced.set x false } }
      let s := s.setDmc x fun d => { d with rows := [], window := some b }
      (s.incWrap (Reg.DMC_RFSH_CNT x) 31 0).showNext x)) ∧
    (∀ (x t : Nat) (b : Nat), ((s.tickTo t).dmc x).window = some b → x < 4 → 2 * (s.tickTo t).getF (Reg.DMC_RFSH_STAT x) 24 16 ≤ 5 * ((s.tickTo t).clk.base - b) → exec (.refreshWindowEnd x t) s = .next (
      let s := s.tickTo t
      (s.setDmc x fun d => { d with window := none }).each (List.range 64) fun s c => s.coreNext c)) ∧
    (∀ (x t : Nat), (s.tickTo t).refreshes x = true → (s.tickTo t).bit (Reg.DMC_RFSH_CFG x) 16 = true → ((s.tickTo t).getF (Reg.DMC_RFSH_CFG x) 15 0) ≠ 0 → (s.tickTo t).grid.announced.getD x false = false → 5 * ((s.tickTo t).grid.next.getD x 0 - (s.tickTo t).clk.base) ≤ 2 * ((s.tickTo t).getF (Reg.DMC_RFSH_CFG x) 15 0) → exec (.refreshAnnounce x t) s = .next (
      let s := s.tickTo t
      let s := { s with grid := { s.grid with announced := s.grid.announced.set x true } }
      (((s.emit (.pulse 2 x)).emit (.island Isl.DMC (256 + x))).trigEvent 4 x).netPulse 2 x s.clk.base)) ∧
    (∀ (codes : List Nat) (rate hot : Nat), s.grid.on = true → exec (.mr4Poll codes rate hot) s = .next (
      let s := s.eachDmc fun s x => if s.refreshes x then
        let s := s.wr (Reg.DMC_MR_TEMP x) (codes.getD x 0 % 2 ^ 16 &&& 0x7777)
        let h := hot.testBit x
        let was := s.bit (Reg.DMC_STAT x) 6
        let s := (s.putBit (Reg.DMC_STAT x) 6 h).lvl (dmcPage x) 7 h
        if h && !was then s.emit (.island Isl.DMC (512 + x)) else s
      else s
      let r := if hot % 16 = 0 then min rate 2 else 2
      { s with grid := { s.grid with newRate := if r = s.grid.rate then none else some r } })) ∧
    (∀ (x ch bank t : Nat), x < 4 → exec (.rowIdleClose x ch bank t) s = .next (
      let s := s.tickTo t
      s.setDmc x fun d => { d with rows := d.rows.filter fun r =>
           !(r.ch == ch && r.bank == bank && r.hint == 0 && decide (2 * s.getF (Reg.DMC_AUTO_IDLE x) 15 0 ≤ 5 * (s.clk.base - r.last))) })) ∧
    (∀ (x ecc : Nat), x < 4 → s.bit (Reg.DMC_STAT x) 4 = true → s.dmcState x = DmcSt.SERVING → s.bit (Reg.DMC_SCRUB_CFG x) 0 = true → s.dmcHolds x = false → s.channelUsable x ≠ 0 → exec (.patrolScrub x ecc) s = .next (
      let cap := s.channelUsable x
      let c := (s.dmc x).scrub
      let a := dramBase + s.dramInv x (c / cap) (c % cap)
      let f := if (s.dmc x).ctl.testBit 1 then s.eccForced (dmcPage x) a 64 32 else 0
      let s := if f ≠ 0 then s.injected (dmcPage x) else s
      let e := max f (if (s.dmc x).ctl.testBit 1 ∨ ecc = 3 then ecc else 0)
      let s := if e = 1 then s.dmcCe x else if 2 ≤ e then s.dmcUe x (a / 32 * 32) true (decide (e = 3)) else s
      let n := c + 64
      if 4 * cap ≤ n then
        (((s.setDmc x fun d => { d with scrub := 0 }).putF (Reg.DMC_SCRUB_STAT x) 7 0 0).incWrap (Reg.DMC_SCRUB_STAT x) 31 16).evt (dmcPage x) 4
      else (s.setDmc x fun d => { d with scrub := n }).putF (Reg.DMC_SCRUB_STAT x) 7 0 (n * 100 / (4 * cap)))) ∧
    (∀ (x : Nat), x < 4 → s.bit (Reg.DMC_STAT x) 4 = true → s.dmcState x ≠ DmcSt.FAILED → exec (.dmcCtrlFail x) s = .next (
      let s := ((s.setDmcState x DmcSt.FAILED).setDmc x fun d => { d with window := none, rows := [] }).dmcDegraded
      let s := (s.evt (dmcPage x) 5).emit (.island Isl.DMC x)
      if s.dmcSet.all fun y => s.dmcState y == DmcSt.FAILED then s.funcLost Fn.DRAM else s)) ∧
    (∀ (x : Nat), x < 4 → s.bit (Reg.DMC_STAT x) 4 = true → s.dmcState x ≠ DmcSt.FAILED → ∃ v, exec (.dmcCtrlFail x) s = .next v ∧ v.dmcState x = DmcSt.FAILED)

/-- Each event takes place with the clocks run to its base tick, where it names one. The trigger that a unit has decided is accepted or
counted, after the end of its berth and pre-fill where they are due. A write of FORCE that passes its checks, with 1 at bit 0, is a
trigger of its unit. That trigger comes at the present sample. An edge on EXT_TRIG shows in its level, and is a trigger at its place
between two samples for each unit that waits for that edge of it. A holdoff that has ended is taken away, and the unit shows it. A unit
with AUTO whose program has been READY for AUTO_TMO µs takes an automatic trigger at its last sample, counted and with its event. From
spec/16_triggers_berths.md. -/
def Obligations.TriggerCommands : Prop :=
  ∀ s : State,
    (∀ (c : Nat), c < 2 → exec (.triggerFire c) s = .next (((s.finishDue c).prefillDue c).fireDue c)) ∧
    (∀ (req : Requester) (c value : Nat), c < 2 → s.verdict req (Reg.TRIG_FORCE c) 4 true = .go → exec (.triggerForce req c value) s = .next ((s.respOk []).writeForceTrig c value)) ∧
    (∀ (req : Requester) (c value : Nat), s.verdict req (Reg.TRIG_FORCE c) 4 true = .go → c < 2 → value.testBit 0 = true → exec (.triggerForce req c value) s = .next (State.trigCome (s.respOk []) c none)) ∧
    (∀ (i : Nat) (rising : Bool) (frac : Nat), i < 2 → exec (.extTrigEdge i rising frac) s = .next (State.each { s with extTrig := s.extTrig.set i rising } [0, 1] fun s c => if s.released Blk.TRIG = true ∧ s.getF (Reg.TRIG_CTL c) 3 0 = 7 ∧ s.getF (Reg.TRIG_EXT_SRC c) 2 0 = i ∧ rising = !s.bit (Reg.TRIG_EXT_SRC c) 15 ∧ ¬(c = 1 ∧ s.combined = true) then s.setTrig c fun (x : TrigSt) => { x with come := some { at' := 0, pos := ((s.fdig c).n - 1) * 256 + frac % 256, interp := true, type := 7 } } else s)) ∧
    (∀ (c t : Nat), c < 2 → ((s.tickTo t).trig c).hold.isSome = true → (s.tickTo t).holdOver c (((s.tickTo t).fdig c).n - 1) = true → exec (.holdoffEnd c t) s = .next (((s.tickTo t).setTrig c fun (x : TrigSt) => { x with hold := none }).trigShow c)) ∧
    (∀ (c t : Nat), c < 2 → ((s.tickTo t).fireDue c).bit (Reg.TRIG_CTL c) 12 = true → (((s.tickTo t).fireDue c).prog c).ph = .ready → 0 < (((s.tickTo t).fireDue c).fdig c).n → (((s.tickTo t).fireDue c).trig c).ready + ((s.tickTo t).fireDue c).getF (Reg.TRIG_AUTO_TMO c) 23 0 * 400 ≤ ((s.tickTo t).fireDue c).clk.base → exec (.autoTrigger c t) s = .next (
      let s := (s.tickTo t).fireDue c
      let n := (s.fdig c).n - 1
      let s := ((s.cnt (Reg.TRIG_AUTO_CNT c)).evt (trigPage c) 1).setTrig c fun (x : TrigSt) => { x with ready := s.clk.base }
      s.trigTake c { at' := n, pos := n * 256, auto := true, type := s.getF (Reg.TRIG_CTL c) 3 0 }))

/-- Each event takes place with the clocks run to its base tick. A write of ARM that passes its checks is the write of bit 0. It arms the
program. A write of DISARM that passes its checks is the write of bit 1. It disarms the program. The end of a pre-fill is taken where it
is due. The end of a berth is taken where it is due. The start of the next berth is taken where it is due. In stream mode, with a
completed berth to copy, no copy under way, room in the ring and the acquisition block powered, a copy starts. A copy under way writes the
header and values of its berth: the ring moves on, it waits for its memory, or the copy fails. From spec/16_triggers_berths.md. -/
def Obligations.BerthCommands : Prop :=
  ∀ s : State,
    (∀ (req : Requester) (p : Nat), p < 2 → s.verdict req (Reg.BERTH_ARM p) 4 true = .go → exec (.programArm req p) s = .next ((s.respOk []).writeBerthArm req p 1)) ∧
    (∀ (req : Requester) (p : Nat), s.verdict req (Reg.BERTH_ARM p) 4 true = .go → p < 2 → exec (.programArm req p) s = .next (State.arm (s.respOk []) req p)) ∧
    (∀ (req : Requester) (p : Nat), p < 2 → s.verdict req (Reg.BERTH_ARM p) 4 true = .go → exec (.programDisarm req p) s = .next ((s.respOk []).writeBerthArm req p 2)) ∧
    (∀ (req : Requester) (p : Nat), s.verdict req (Reg.BERTH_ARM p) 4 true = .go → p < 2 → exec (.programDisarm req p) s = .next (State.disarm (s.respOk []) p)) ∧
    (∀ (p t : Nat), exec (.prefillDone p t) s = .next (if p < 2 then (s.tickTo t).prefillDue p else s.tickTo t)) ∧
    (∀ (p t : Nat), exec (.berthComplete p t) s = .next (if p < 2 then (s.tickTo t).finishDue p else s.tickTo t)) ∧
    (∀ (p t : Nat), exec (.berthStart p t) s = .next (if p < 2 then (s.tickTo t).startDue p else s.tickTo t)) ∧
    (∀ (p t : Nat), p < 2 → (s.tickTo t).pMode p = 3 → (s.tickTo t).rd (Reg.BERTH_DONE_CNT p) ≠ ((s.tickTo t).prog p).copied % 2 ^ 32 → ((s.tickTo t).prog p).copying.isNone = true → ((s.tickTo t).rd (Reg.BERTH_STAIL p) + 1) % (max ((s.tickTo t).getF (Reg.BERTH_SCOUNT p) 23 0) 1) ≠ (s.tickTo t).rd (Reg.BERTH_SHEAD p) % (max ((s.tickTo t).getF (Reg.BERTH_SCOUNT p) 23 0) 1) → (s.tickTo t).dom 24 ≠ 3 → exec (.streamCopyStart p t) s = .next (
      let s := s.tickTo t
      s.setProg p fun (g : Prog) => { g with copying := some s.clk.base })) ∧
    (∀ (p t : Nat) (env : MemEnv), p < 2 → ((s.tickTo t).prog p).copying.isNone = false → exec (.streamCopyDone p t env) s = .next (
      let s := s.tickTo t
      let i := (s.prog p).copied % max (s.pCount p) 1
      let data := s.bytes (s.headAddr p i) 32 ++ leBytes 4 i ++ leBytes 28 p ++ s.bytes (s.berthAddr p i) (s.pStride p)
      let a := s.rd (Reg.BERTH_SBASE_LO p) + 2 ^ 32 * s.getF (Reg.BERTH_SBASE_HI p) 15 0 + s.rd (Reg.BERTH_STAIL p) * (64 + s.pStride p)
      let r := s.blockWrite Blk.BERTH 0 a data env
      match r.1 with
      | .held => s
      | .done =>
        let s := r.2.setProg p fun (g : Prog) => { g with copied := g.copied + 1, copying := none }
        let s := s.wr (Reg.BERTH_STAIL p) ((s.rd (Reg.BERTH_STAIL p) + 1) % max (s.getF (Reg.BERTH_SCOUNT p) 23 0) 1)
        (s.berthRetry p).streamShow p
      | _ => r.2.copyFail p))

/-- Each event takes place with the clocks run to its base tick, where it names one. A channel that runs, outside parking, delivers its
sample. A swap that is due, on a channel that is READY with calibration on, brings the spare slice in for the one that has served longest;
with calibration in idle time only, it is deferred while the channel is not idle, and counted once. The calibration of a spare slice ends:
within its range the slice waits its turn again, otherwise it is out of service, each with its event. A foreground calibration ends: the
slices out of range are out of service, the first of the others serve and the rest wait, with the events. A write of SCOPE_PERMIT that
passes its checks stores it, and the inputs and sequences follow. A channel whose input has settled no longer shows SETTLING. The PLL
losing lock shows in both channels with its event, and ends their calibrations. The PLL locking again starts the calibration of both
channels. A probe input beyond its range, its protection off, is held as an overload, with its event where it is new. STAT then shows it.
An overload that has recovered for 1 ms is no longer shown. From spec/15_digitiser_sense_bank.md. -/
def Obligations.FdigCommands : Prop :=
  ∀ s : State,
    (∀ (c : Nat) (raw : Int) (ecc t : Nat), c < 2 → (s.tickTo t).fdigRuns c = true → (s.tickTo t).park.stage < 2 → exec (.fdigSample c raw ecc t) s = .next ((s.tickTo t).sampled c raw ecc)) ∧
    (∀ (c t inc out : Nat), c < 2 → (s.tickTo t).getF (Reg.FDIG_CTL c) 2 1 ≠ 0 → (s.tickTo t).fdigState c = FdSt.READY → (s.tickTo t).dom 24 = 0 → (s.tickTo t).park.stage < 2 → ((s.tickTo t).fdig c).lastSwap + (s.tickTo t).calPeriod c ≤ (s.tickTo t).clk.base → (((s.tickTo t).slicesOf c).find? fun k => (s.tickTo t).slice k == 1) = some inc → (((s.tickTo t).slicesOf c).find? fun k => (s.tickTo t).slice k == 0) = some out → exec (.calSwapDue c t) s = .next (if (s.tickTo t).getF (Reg.FDIG_CTL c) 2 1 = 2 ∧ (s.tickTo t).idle c = false then (if ((s.tickTo t).fdig c).deferred = true then (s.tickTo t) else ((s.tickTo t).cnt (Reg.FDIG_CAL_DEFER_CNT c)).setFdig c fun x => { x with deferred := true }) else (s.tickTo t).sliceSwap c inc out)) ∧
    (∀ (c : Nat) (ok : Bool) (t b k : Nat), c < 2 → (s.tickTo t).getF (Reg.FDIG_CTL c) 2 1 ≠ 0 → ((s.tickTo t).fdig c).bg = some b → (((s.tickTo t).slicesOf c).find? fun k => (s.tickTo t).slice k == 2) = some k → (s.tickTo t).dom 24 = 0 → (s.tickTo t).park.stage < 2 → b + 800000 ≤ (s.tickTo t).clk.base → exec (.sliceCalibrationDone c ok t) s = .next (
      let s := (s.tickTo t).setFdig c fun x => { x with bg := none }
      if ok then ((s.setSlice k 1).requeue k).evt (pageAddr Blk.FDIG c) 0
      else ((s.setSlice k 3).evt (pageAddr Blk.FDIG c) 1).fdigSync)) ∧
    (∀ (c fails t : Nat) (b : Nat), ((s.tickTo t).fdig c).fg = some b → c < 2 → b + 2000000 ≤ (s.tickTo t).clk.base → (s.tickTo t).bit (Reg.FDIG_STAT c) 16 = true → ¬(c = 1 ∧ (s.tickTo t).combined) → exec (.foregroundCalDone c fails t) s = .next (
      let s := s.tickTo t
      let ks := if s.combined then List.range 18 else (List.range 9).map fun k => 9 * c + k
      let bad := ks.filter fun k => fails.testBit (if s.combined then k else k - 9 * c)
      let ok := ks.filter fun k => !bad.contains k
      let s := s.each bad fun s k => s.setSlice k 3
      let s := (s.each (ok.take s.ways) fun s k => s.setSlice k 0).each (ok.drop s.ways) fun s k => s.setSlice k 1
      let s := s.setFdig c fun x => { x with fg := none, lastSwap := s.clk.base, deferred := false }
      let s := if s.combined then s.setFdig 1 fun x => { x with fg := none, lastSwap := s.clk.base, deferred := false } else s
      let s := s.evt (pageAddr Blk.FDIG c) 0
      (if bad = [] then s else s.evt (pageAddr Blk.FDIG c) 1).fdigSync)) ∧
    (∀ (req : Requester) (value : Nat), s.verdict req Reg.SYS_SCOPE_PERMIT 4 true = .go → exec (.scopePermitWrite req value) s = .next (((s.respOk []).regStore req Reg.SYS_SCOPE_PERMIT value).permitWritten (s.respOk []))) ∧
    (∀ (c t : Nat), c < 2 → ((s.tickTo t).fdig c).settle + 800 ≤ (s.tickTo t).clk.base → exec (.settlingDone c t) s = .next ((s.tickTo t).putBit (Reg.FDIG_STAT c) 14 false)) ∧
    (s.released Blk.FDIG = true → s.bit (Reg.FDIG_STAT 0) 16 = true → exec (.fdigPllUnlock) s = .next ((s.each [0, 1] fun s c => ((s.putBit (Reg.FDIG_STAT c) 16 false).evt (pageAddr Blk.FDIG c) 5).setFdig c fun x => { x with bg := none, fg := none }).fdigSync)) ∧
    (∀ (t : Nat), (s.tickTo t).released Blk.FDIG = true → (s.tickTo t).bit (Reg.FDIG_STAT 0) 16 = false → exec (.fdigPllRelock t) s = .next ((s.tickTo t).fdigRelease)) ∧
    (∀ (c t : Nat), c < 2 → (s.tickTo t).released Blk.FDIG = true → 1 ≤ ((s.tickTo t).getF (Reg.FDIG_INPUT c) 5 0) → ((s.tickTo t).getF (Reg.FDIG_INPUT c) 5 0) ≤ 4 → (s.tickTo t).bit (Reg.FDIG_INPUT c) 12 = false → exec (.probeOverload c t) s = .next (
      let s := s.tickTo t
      let s := s.setFdig c fun x => { x with ovld := s.clk.base }
      if s.bit (Reg.FDIG_STAT c) 13 then s else (s.putBit (Reg.FDIG_STAT c) 13 true).evt (pageAddr Blk.FDIG c) 3)) ∧
    (∀ (c t : Nat), c < 2 → (s.tickTo t).released Blk.FDIG = true → 1 ≤ (s.tickTo t).getF (Reg.FDIG_INPUT c) 5 0 → (s.tickTo t).getF (Reg.FDIG_INPUT c) 5 0 ≤ 4 → (s.tickTo t).bit (Reg.FDIG_INPUT c) 12 = false → ∃ v, exec (.probeOverload c t) s = .next v ∧ v.bit (Reg.FDIG_STAT c) 13 = true) ∧
    (∀ (c t : Nat), c < 2 → ((s.tickTo t).fdig c).ovld + 400000 ≤ (s.tickTo t).clk.base → exec (.overloadRecover c t) s = .next ((s.tickTo t).putBit (Reg.FDIG_STAT c) 13 false))

/-- Each event takes place with the clocks run to its base tick, where it names one, with the device released and not parking. A conversion of
a running group that has not failed delivers the result of its slot, a frame that was still to end ending first. The end of a pass of the
table of such a group is the end of its frame. A write of SEQ_COMMIT that passes its checks is the write of its fields. With a valid
staged table it commits the table. A swap that is due, with the bank on, a spare converter that is ready and no swap under way, falls to
the next running group in order that has not failed. The calibration of the spare converter ends: it waits for its turn, or is lost. A
write of URG that passes its checks is the request of its page. With a channel of the group and no cause against it, an urgent conversion
of a group waits for its slot and the former result is no longer valid. With a cause against it, the request of the spare page is refused
with that cause. An urgent conversion whose result is out shows it, with its events. The request is then over and its result valid. From
spec/15_digitiser_sense_bank.md. -/
def Obligations.SenseCommands : Prop :=
  ∀ s : State,
    (∀ (g : Nat) (raw other : Int) (t : Nat), g < 4 → (s.tickTo t).boot.held = false → (s.tickTo t).park.stage < 2 → (s.tickTo t).seqOn g = true → (s.tickTo t).grpFailed g = false → exec (.senseConversion g raw other t) s = .next (
      let s := s.tickTo t
      let s := if (s.grp g).table.length ≤ (s.grp g).slot then s.frameEnd g true false else s
      s.sensed g raw other)) ∧
    (∀ (g : Nat) (refOk fail : Bool) (t : Nat), g < 4 → (s.tickTo t).boot.held = false → (s.tickTo t).park.stage < 2 → (s.tickTo t).seqOn g = true → (s.tickTo t).grpFailed g = false → ((s.tickTo t).grp g).table.length ≤ ((s.tickTo t).grp g).slot → exec (.senseFrameBoundary g refOk fail t) s = .next ((s.tickTo t).frameEnd g refOk fail)) ∧
    (∀ (req : Requester) (g value : Nat), g < 4 → s.verdict req (Reg.SENSE_SEQ_COMMIT g) 4 true = .go → exec (.seqCommit req g value) s = .next ((s.respOk []).writeCommit req g value)) ∧
    (∀ (req : Requester) (g value : Nat), s.verdict req (Reg.SENSE_SEQ_COMMIT g) 4 true = .go → g < 4 → value.testBit 0 = true → tableValid (s.staged g) = true → exec (.seqCommit req g value) s = .next (State.commitTable (s.respOk []) g)) ∧
    (∀ (t k : Nat), (((List.range 4).find? fun i => !(s.tickTo t).grpFailed (((s.tickTo t).sns.turn + i) % 4)) = some k) → (s.tickTo t).boot.held = false ∧ (s.tickTo t).park.stage < 2 → (s.tickTo t).bit Reg.SENSE4_CTL 0 = true → (s.tickTo t).spare ≠ 7 → (s.tickTo t).conv' (s.tickTo t).spare = 1 → (s.tickTo t).sns.due = none → (s.tickTo t).seqOn (((s.tickTo t).sns.turn + k) % 4) = true → ((s.tickTo t).sns.retry = true ∨ (s.tickTo t).sns.lastSwap + 400000 * (s.tickTo t).getF Reg.SENSE4_CAL_PERIOD 15 0 ≤ (s.tickTo t).clk.base) → ∃ v, exec (.senseSwapDue t) s = .next v ∧ v.sns.due = some (((s.tickTo t).sns.turn + k) % 4)) ∧
    (∀ (ok : Bool) (t : Nat) (b : Nat), (s.tickTo t).sns.cal = some b → (s.tickTo t).boot.held = false → b + 400000 ≤ (s.tickTo t).clk.base → (s.tickTo t).spare ≠ 7 → (s.tickTo t).bit Reg.SENSE4_CTL 0 = true → exec (.spareCalibrationDone ok t) s = .next (
      let s := s.tickTo t
      let s := { s with sns := { s.sns with cal := none } }
      (if ok then s.setConv s.spare 1 else (s.convLost s.spare false).putF Reg.SENSE4_STAT 2 0 7).spareShow)) ∧
    (∀ (req : Requester) (k value : Nat), k < 5 → s.verdict req (Reg.SENSE_URG k) 4 true = .go → exec (.urgentConversionRequest req k value) s = .next ((s.respOk []).writeUrg req k value)) ∧
    (∀ (req : Requester) (k value : Nat), s.verdict req (Reg.SENSE_URG k) 4 true = .go → k < 4 → s.sns.groups.length = 4 → value.testBit 31 = true → fld value 3 0 < 12 → s.urgCause k = 0 → ∃ v, exec (.urgentConversionRequest req k value) s = .next v ∧ v.urg k = some (fld value 3 0, s.clk.base) ∧ v.rd (Reg.SENSE_URG_RESULT k) / 2 ^ 30 = 0) ∧
    (∀ (req : Requester) (k value : Nat), s.verdict req (Reg.SENSE_URG k) 4 true = .go → k = 4 → value.testBit 31 = true → fld value 5 0 < 48 → s.urgCause k ≠ 0 → ∃ v, exec (.urgentConversionRequest req k value) s = .next v ∧ v.getF (Reg.SENSE_URG_RESULT k) 29 28 = s.urgCause k % 4 ∧ v.bit (Reg.SENSE_URG_RESULT k) 30 = true) ∧
    (∀ (k : Nat) (raw : Int) (t : Nat) (i b : Nat), (s.tickTo t).urg k = some (i, b) → k < 5 → (s.tickTo t).park.stage < 2 → b + 50 ≤ (s.tickTo t).clk.base → exec (.urgentConversionDone k raw t) s = .next (
      let s := s.tickTo t
      let g := if k < 4 then k else i % 16 / 4
      let c := senseCode raw
      let s := (s.setUrg k none).putF (Reg.SENSE_URG_RESULT k) 15 0 (enc 16 c.1)
      let s := (s.putBit (Reg.SENSE_URG_RESULT k) 31 true).evt (sensePage k) 0
      if c.2 then (s.cnt (Reg.SENSE_CLIP_CNT g)).evt (sensePage g) 2 else s)) ∧
    (∀ (k : Nat) (raw : Int) (t i b : Nat), k < 5 → (s.tickTo t).urg k = some (i, b) ∧ (s.tickTo t).park.stage < 2 → b + 50 ≤ (s.tickTo t).clk.base → (senseCode raw).2 = false → ∃ v, exec (.urgentConversionDone k raw t) s = .next v ∧ v.bit (Reg.SENSE_URG_RESULT k) 31 = true ∧ v.urg k = none)

/-- Each event takes place with the clocks run to its base tick, where it names one. The DC detector of a channel, the device released: the
millisecond joins the window, and where protection is on a forced detection or a window over its threshold is declared. A channel in FAULT
for RETRY_MS goes to RETRY and the gate follows. A channel in RETRY that has switched for OK_MS without a fault is NORMAL with no attempts
counted, and that is reported. A write of CLR that passes its checks is the write of its bits. Where every channel it names is in LOCKOUT,
those channels go to RETRY with no attempts and the gate follows. A write of FORCE_HOLD that passes its checks stores it and the gate
follows. A self-check that fails sets SELF_FAIL and its interrupt, holds the gate and loses PROTECT. A self-check that passes changes
nothing. A write of LOG_POP that passes its checks is the write of its bit. With bit 0 set it takes the oldest entry away. From
spec/18_speaker_protection.md. -/
def Obligations.ProtectionCommands : Prop :=
  ∀ s : State,
    (∀ (j t : Nat), j < 16 → (s.tickTo t).boot.held = false → exec (.dcEvaluate j t) s = .next (
      let s := s.tickTo t
      let bins := ((s.protCh j).bin :: (s.protCh j).bins).take 255
      let s := s.setProtCh j fun (x : ProtCh) => { x with bins := bins, bin := (0, 0, 0) }
      let win := bins.take (s.getF Reg.PROT_DC_WIN 7 0)
      let peak := win.foldl (fun m b => max m b.2.2) 0
      if !s.bit Reg.PROT_CTL 0 then s
      else if s.detectForced 1 j then (s.injected protPage).declare j PrLog.DC true peak
      else if dcOver win (s.getF (Reg.PROT_CH_TH j) 29 16) then s.declare j PrLog.DC false peak else s)) ∧
    (∀ (j t : Nat), j < 16 → (s.tickTo t).boot.held = false → (s.tickTo t).protState j = PrSt.FAULT → ((s.tickTo t).protCh j).since + 400000 * (s.tickTo t).getF Reg.PROT_TIMING 15 0 ≤ (s.tickTo t).clk.base → exec (.retryTimeout j t) s = .next (((s.tickTo t).putF (Reg.PROT_CH_STAT j) 2 0 PrSt.RETRY).gateSync false)) ∧
    (∀ (j t : Nat), j < 16 → (s.tickTo t).protState j = PrSt.RETRY → ((s.tickTo t).chan j).ph = .on → ((s.tickTo t).chan j).at' + 400000 * (s.tickTo t).getF Reg.PROT_OK_MS 15 0 ≤ (s.tickTo t).clk.base → exec (.retryOk j t) s = .next ((((((s.tickTo t).putF (Reg.PROT_CH_STAT j) 2 0 PrSt.NORMAL).putF (Reg.PROT_CH_STAT j) 7 4 0).protReport PrLog.RETRY_OK j 2 false 0)).lanesSync)) ∧
    (∀ (req : Requester) (value : Nat), s.verdict req Reg.PROT_CLR 4 true = .go → exec (.protClr req value) s = .next ((s.respOk []).writeClr req value)) ∧
    (∀ (req : Requester) (value : Nat), s.verdict req (Reg.PROT_CLR) 4 true = .go → (((List.range 16).filter fun j => value.testBit j).all (fun j => s.protState j == PrSt.LOCKOUT) = true) → exec (.protClr req value) s = .next ((State.each (s.respOk []) ((List.range 16).filter fun j => value.testBit j) fun s j => s.putF (Reg.PROT_CH_STAT j) 7 0 PrSt.RETRY).gateSync false)) ∧
    (∀ (req : Requester) (value : Nat), s.verdict req Reg.PROT_FORCE_HOLD 4 true = .go → exec (.forceHold req value) s = .next (((s.respOk []).regStore req Reg.PROT_FORCE_HOLD value).gateSync false)) ∧
    (s.boot.held = false → exec (.protSelfCheck (false)) s = .next ((((s.putBit Reg.PROT_STAT 16 true).lvl protPage 4 true).gateSync false).funcLost Fn.PROTECT)) ∧
    (exec (.protSelfCheck true) s = .next s) ∧
    (∀ (req : Requester) (value : Nat), s.verdict req Reg.PROT_LOG_POP 4 true = .go → exec (.protLogPop req value) s = .next ((s.respOk []).popProtLog value)) ∧
    (∀ (req : Requester) (value : Nat), s.verdict req (Reg.PROT_LOG_POP) 4 true = .go → value.testBit 0 = true → exec (.protLogPop req value) s = .next (State.protLogShow { (s.respOk []) with prot := { s.prot with log := s.prot.log.tail } }))

/-- Each event takes place with the clocks run to its base tick, a change of lane that is due being taken first, with WSEQ released. A cycle
of a channel that follows its thread and carries no chime is a boundary, at which a stopping channel enters its lag. A cycle of any other
channel takes its PCM sample, an uncorrectable word of WMEM met. A cycle of a thread gives its channels their edges. A write of CH_CFG
that passes its checks is the write of its fields. With EN 0 before, it stores them and the channel follows. A channel whose lead has
passed switches, its level rising where it was activated to. A channel whose lag has passed is off and releases its supply. From
spec/17_waveform_sequencer.md. -/
def Obligations.WseqChannelCommands : Prop :=
  ∀ s : State,
    (∀ (u t ecc word : Nat), ((s.tickTo t).lanesDue).released Blk.WSEQ = true → u < 16 → ((s.tickTo t).lanesDue).bit (Reg.WSEQ_CH_CFG u) 1 = true → ((s.tickTo t).lanesDue).chimed u = false → exec (.carrierCycleStart u t ecc word) s = .next (((s.tickTo t).lanesDue).chanBoundary u)) ∧
    (∀ (u t ecc word : Nat), ((s.tickTo t).lanesDue).released Blk.WSEQ = true → u < 16 → ¬(((s.tickTo t).lanesDue).bit (Reg.WSEQ_CH_CFG u) 1 = true ∧ ((s.tickTo t).lanesDue).chimed u = false) → exec (.carrierCycleStart u t ecc word) s = .next (
      let s := (s.tickTo t).lanesDue
      let kib := s.getF Reg.WSEQ_CHIME_CFG 24 16
      let e := s.wseqEcc (8 * word) ecc (decide (8 * word < 16 * s.getF Reg.WSEQ_CHIME_CFG 9 0)
        || (decide (0x4000 ≤ 8 * word) && decide (8 * word < 0x4000 + 1024 * kib)))
      e.2.pcmCycle u s.clk.base (if 2 ≤ e.1 then some word else none))) ∧
    (∀ (u t ecc word : Nat), ((s.tickTo t).lanesDue).released Blk.WSEQ = true → 16 ≤ u → u < 20 → exec (.carrierCycleStart u t ecc word) s = .next (((s.tickTo t).lanesDue).edgeCycle (u - 16))) ∧
    (∀ (req : Requester) (j value : Nat), j < 16 → s.verdict req (Reg.WSEQ_CH_CFG j) 4 true = .go → exec (.channelEnable req j value) s = .next ((s.respOk []).writeChanCfg req j value)) ∧
    (∀ (req : Requester) (j value : Nat), s.verdict req (Reg.WSEQ_CH_CFG j) 4 true = .go → j < 16 → s.bit (Reg.WSEQ_CH_CFG j) 0 = false → exec (.channelEnable req j value) s = .next ((State.regStore (s.respOk []) req (Reg.WSEQ_CH_CFG j) value).chanSync j)) ∧
    (∀ (j t : Nat), j < 16 → (((s.tickTo t).lanesDue).chan j).ph = .lead → (((s.tickTo t).lanesDue).chan j).at' + ((s.tickTo t).lanesDue).getF Reg.WSEQ_PSEN_CFG 15 0 * 400 ≤ ((s.tickTo t).lanesDue).clk.base → exec (.psenLeadEnd j t) s = .next (
      let s := (s.tickTo t).lanesDue
      s.setChan j fun (c : Chan) => { c with
        ph := .on, at' := s.clk.base, rises := false, first := true
        level := if c.rises then { v0 := 0, v1 := 1, at' := s.clk.base, dur := 400000 * s.getF Reg.PROT_TIMING 23 16 } else {} })) ∧
    (∀ (j t : Nat), j < 16 → (((s.tickTo t).lanesDue).chan j).ph = .lag → (((s.tickTo t).lanesDue).chan j).at' + ((s.tickTo t).lanesDue).getF Reg.WSEQ_PSEN_CFG 31 16 * 400 ≤ ((s.tickTo t).lanesDue).clk.base → exec (.psenLagEnd j t) s = .next (
      let s := (s.tickTo t).lanesDue
      s.setChan j fun (c : Chan) => { c with ph := .off, psen := false }))

/-- A thread instruction takes place with the clocks run to its base tick, where the thread runs and the word at its PC is read and has its
opcode. A write of RUN = 1 that passes its checks is that write. It runs the thread. A write of RUN = 0 that passes its checks is that
write. It stops a running thread. NOP goes to the next word. PLAY names the next segment. PLAYA names it at its line. VEC starts the
vector and goes on, follows the one under way once its last cycle has begun and there is time, or waits; a count of 0 is a free number of
cycles. With a count and no vector under way it starts. LOOP opens a loop and goes on, a ninth being a fault and a count of 0 a free
number of passes. With a count and fewer than eight open it opens one. ENDL goes back, closes the loop, or without a loop is a fault. With
passes left it goes back to the first word of the loop. With the last pass it closes the loop and goes on. CALL keeps the next address and
jumps, a ninth being a fault. With fewer than eight open it jumps. RET goes back to the address kept last, or without one is a fault. With
one kept it goes there. JMP jumps. WAIT with bit 8 waits for its time, and otherwise for its line. A wait for a time that has passed ends.
GAIN starts a ramp from the present gain and goes on. SIG writes its code with its event and goes on. HALT stops the thread. An opcode
above 12 is a fault of the thread. From spec/17_waveform_sequencer.md. -/
def Obligations.ThreadCommands : Prop :=
  ∀ s : State,
    (∀ (req : Requester) (h : Nat), h < 4 → s.verdict req (Reg.WSEQ_THR_CTL h) 4 true = .go → exec (.threadRun req h) s = .next ((s.respOk []).writeThrCtl h 1)) ∧
    (∀ (req : Requester) (h : Nat), s.verdict req (Reg.WSEQ_THR_CTL h) 4 true = .go → h < 4 → exec (.threadRun req h) s = .next (State.thrRun (s.respOk []) h)) ∧
    (∀ (req : Requester) (h : Nat), h < 4 → s.verdict req (Reg.WSEQ_THR_CTL h) 4 true = .go → exec (.threadStop req h) s = .next ((s.respOk []).writeThrCtl h 0)) ∧
    (∀ (req : Requester) (h : Nat), s.verdict req (Reg.WSEQ_THR_CTL h) 4 true = .go → h < 4 → s.bit (Reg.WSEQ_THR_CTL h) 0 = true → exec (.threadStop req h) s = .next (State.thrStop (s.respOk []) h ThrSt.IDLE)) ∧
    (∀ (h t ecc w : Nat) (v : State), s.thrWord h t ecc = some (w, v) → fld w 63 58 = 0 → exec (.wseqNop h t ecc) s = .next (v.thrNext h)) ∧
    (∀ (h t ecc w : Nat) (v : State), s.thrWord h t ecc = some (w, v) → fld w 63 58 = 1 → exec (.thrPlay h t ecc) s = .next (v.thrPlay h w none)) ∧
    (∀ (h t ecc w : Nat) (v : State), s.thrWord h t ecc = some (w, v) → fld w 63 58 = 2 → exec (.thrPlaya h t ecc) s = .next (v.thrPlay h w (some (fld w 29 26)))) ∧
    (∀ (h t ecc w : Nat) (v : State), s.thrWord h t ecc = some (w, v) → fld w 63 58 = 3 → exec (.thrVec h t ecc) s = .next (
      let s := v
      let r := s.fresh 16
      let n := if fld w 50 35 = 0 then r.1 + 1 else fld w 50 35
      let s := if fld w 50 35 = 0 then r.2 else s
      let v := (fld w 31 0, fld w 34 32, n)
      match (s.thr h).vec, (s.thr h).vecNext with
      | none, _ => (s.setThr h fun (x : Thread) => { x with vec := some v }).thrNext h
      | some (_, k, 0), none =>
        if (s.thr h).vecAt + s.getF (Reg.WSEQ_TSET_PERIOD k) 15 0 / 32 < s.clk.base + 4 then s
        else (s.setThr h fun (x : Thread) => { x with vecNext := some v }).thrNext h
      | _, _ => s)) ∧
    (∀ (h t ecc w : Nat) (v : State), s.thrWord h t ecc = some (w, v) → fld w 63 58 = 3 → fld w 50 35 ≠ 0 → (v.thr h).vec = none → exec (.thrVec h t ecc) s = .next ((v.setThr h fun (x : Thread) => { x with vec := some (fld w 31 0, fld w 34 32, fld w 50 35) }).thrNext h)) ∧
    (∀ (h t ecc w : Nat) (v : State), s.thrWord h t ecc = some (w, v) → fld w 63 58 = 4 → exec (.thrLoop h t ecc) s = .next (
      let s := v
      if 8 ≤ (s.thr h).loops.length then s.thrFault h ThrFault.LOOP
      else
        let r := s.fresh 16
        let n := if fld w 15 0 = 0 then r.1 + 1 else fld w 15 0
        let s := if fld w 15 0 = 0 then r.2 else s
        ((s.setThr h fun (x : Thread) => { x with loops := ((s.pc h + 1) % 0x4000, n) :: x.loops }).thrDepth h).thrNext h)) ∧
    (∀ (h t ecc w : Nat) (v : State), s.thrWord h t ecc = some (w, v) → fld w 63 58 = 4 → (v.thr h).loops.length < 8 → fld w 15 0 ≠ 0 → exec (.thrLoop h t ecc) s = .next (((v.setThr h fun (x : Thread) => { x with loops := ((v.pc h + 1) % 0x4000, fld w 15 0) :: x.loops }).thrDepth h).thrNext h)) ∧
    (∀ (h t ecc w : Nat) (v : State), s.thrWord h t ecc = some (w, v) → fld w 63 58 = 5 → exec (.thrEndl h t ecc) s = .next (
      let s := v
      match (s.thr h).loops with
      | [] => s.thrFault h ThrFault.LOOP
      | (a, n) :: l =>
        if 1 < n then ((s.setThr h fun (x : Thread) => { x with loops := (a, n - 1) :: l }).setThrState h ThrSt.RUN).setPc h a
        else ((s.setThr h fun (x : Thread) => { x with loops := l }).thrDepth h).thrNext h)) ∧
    (∀ (h t ecc w : Nat) (v : State), s.thrWord h t ecc = some (w, v) → fld w 63 58 = 5 → ((v.thr h).loops.head?.any (fun e => decide (1 < e.2)) = true) → exec (.thrEndl h t ecc) s = .next (
      match (v.thr h).loops with
      | (a, n) :: l => ((v.setThr h fun (x : Thread) => { x with loops := (a, n - 1) :: l }).setThrState h ThrSt.RUN).setPc h a
      | [] => v)) ∧
    (∀ (h t ecc w : Nat) (v : State), s.thrWord h t ecc = some (w, v) → fld w 63 58 = 5 → ((v.thr h).loops.head?.any (fun e => decide (e.2 ≤ 1)) = true) → exec (.thrEndl h t ecc) s = .next (((v.setThr h fun (x : Thread) => { x with loops := (v.thr h).loops.tail }).thrDepth h).thrNext h)) ∧
    (∀ (h t ecc w : Nat) (v : State), s.thrWord h t ecc = some (w, v) → fld w 63 58 = 6 → exec (.thrCall h t ecc) s = .next (
      let s := v
      if 8 ≤ (s.thr h).calls.length then s.thrFault h ThrFault.STACK
      else ((s.setThr h fun (x : Thread) => { x with calls := ((s.pc h + 1) % 0x4000) :: x.calls }).thrDepth h).setPc h (fld w 13 0))) ∧
    (∀ (h t ecc w : Nat) (v : State), s.thrWord h t ecc = some (w, v) → fld w 63 58 = 6 → (v.thr h).calls.length < 8 → exec (.thrCall h t ecc) s = .next (((v.setThr h fun (x : Thread) => { x with calls := ((v.pc h + 1) % 0x4000) :: x.calls }).thrDepth h).setPc h (fld w 13 0))) ∧
    (∀ (h t ecc w : Nat) (v : State), s.thrWord h t ecc = some (w, v) → fld w 63 58 = 7 → exec (.thrRet h t ecc) s = .next (
      let s := v
      match (s.thr h).calls with
      | [] => s.thrFault h ThrFault.STACK
      | a :: l => ((s.setThr h fun (x : Thread) => { x with calls := l }).thrDepth h).setPc h a)) ∧
    (∀ (h t ecc w : Nat) (v : State), s.thrWord h t ecc = some (w, v) → fld w 63 58 = 7 → (v.thr h).calls ≠ [] → exec (.thrRet h t ecc) s = .next (((v.setThr h fun (x : Thread) => { x with calls := (v.thr h).calls.tail }).thrDepth h).setPc h ((v.thr h).calls.headD 0))) ∧
    (∀ (h t ecc w : Nat) (v : State), s.thrWord h t ecc = some (w, v) → fld w 63 58 = 8 → exec (.thrJmp h t ecc) s = .next (v.setPc h (fld w 13 0))) ∧
    (∀ (h t ecc w : Nat) (v : State), s.thrWord h t ecc = some (w, v) → fld w 63 58 = 9 → exec (.thrWait h t ecc) s = .next (
      let s := v
      if w.testBit 8 then
        (s.setThr h fun (x : Thread) => { x with until' := s.clk.base + fld w 39 16 * 400 }).setThrState h ThrSt.WAIT_TIME
      else (s.setThr h fun (x : Thread) => { x with line := fld w 3 0 }).setThrState h ThrSt.WAIT_LINE)) ∧
    (∀ (h t : Nat), h < 4 → (s.tickTo t).bit (Reg.WSEQ_THR_CTL h) 0 = true → (s.tickTo t).thrState h = ThrSt.WAIT_TIME → ((s.tickTo t).thr h).until' ≤ (s.tickTo t).clk.base → exec (.waitTimeExpired h t) s = .next ((s.tickTo t).thrNext h)) ∧
    (∀ (h t ecc w : Nat) (v : State), s.thrWord h t ecc = some (w, v) → fld w 63 58 = 10 → exec (.thrGain h t ecc) s = .next (
      let s := v
      (s.setThr h fun (x : Thread) => { x with
        gain := { v0 := x.gain.val s.clk.base, v1 := (fld w 15 0 : Rat) / 32768, at' := s.clk.base, dur := fld w 31 16 * 400 } }).thrNext h)) ∧
    (∀ (h t ecc w : Nat) (v : State), s.thrWord h t ecc = some (w, v) → fld w 63 58 = 11 → exec (.thrSig h t ecc) s = .next (((v.putF (Reg.WSEQ_THR_STAT h) 31 24 (fld w 7 0)).evt wseqPage 0).thrNext h)) ∧
    (∀ (h t ecc w : Nat) (v : State), s.thrWord h t ecc = some (w, v) → fld w 63 58 = 12 → exec (.thrHalt h t ecc) s = .next (v.thrStop h ThrSt.IDLE)) ∧
    (∀ (h t ecc w : Nat) (v : State), s.thrWord h t ecc = some (w, v) → 12 < fld w 63 58 → exec (.badInstr h t ecc) s = .next (v.thrFault h ThrFault.BAD_INSTR))

/-- Each event takes place with the clocks run to its base tick, where it names one. The end of a segment with none to follow is a gap,
counted with its event. With one to follow that waits for its line it is an intended silence. Any other one begins at the end of the
first. A pulse on its way that has arrived pulses its line at its time. A write of LINE_SW that passes its checks pulses the lines of its
bits. A heartwood write of CHIME_CFG is the write of its fields. With READY 0 it stores them, and the state and CHIME follow READY as it
then stands. A heartwood write of CHL_START is the start it asks for. A heartwood write of CHL_STOP with bit 0 set releases the lane. The
end of a chime lane, after a change of lane that is due, releases the lane. From spec/17_waveform_sequencer.md,
spec/18_speaker_protection.md. -/
def Obligations.PlayCommands : Prop :=
  ∀ s : State,
    (∀ (h t : Nat) (c : Play), h < 4 → ((s.tickTo t).thr h).cur = some c → c.rep ≠ 0 → ((((s.tickTo t).seg c.seg).len * c.rep : Nat) : Rat) ≤ (s.tickTo t).playPos c ((s.tickTo t).clk.base : Rat) → ((s.tickTo t).thr h).next = none → exec (.segmentEnd h t) s = .next ((((s.tickTo t).setThr h fun (x : Thread) => { x with cur := none, past := [] }).cnt (Reg.WSEQ_THR_GAP_CNT h)).evt wseqPage 2)) ∧
    (∀ (h t : Nat) (c : Play) (n : Play), h < 4 → ((s.tickTo t).thr h).cur = some c → c.rep ≠ 0 → ((((s.tickTo t).seg c.seg).len * c.rep : Nat) : Rat) ≤ (s.tickTo t).playPos c ((s.tickTo t).clk.base : Rat) → ((s.tickTo t).thr h).next = some n → n.line.isNone = false → exec (.segmentEnd h t) s = .next ((s.tickTo t).setThr h fun (x : Thread) => { x with cur := none, past := [] })) ∧
    (∀ (h t : Nat) (c : Play) (n : Play), h < 4 → ((s.tickTo t).thr h).cur = some c → c.rep ≠ 0 → ((((s.tickTo t).seg c.seg).len * c.rep : Nat) : Rat) ≤ (s.tickTo t).playPos c ((s.tickTo t).clk.base : Rat) → ((s.tickTo t).thr h).next = some n → n.line = none → exec (.segmentEnd h t) s = .next (
      let s := (s.tickTo t)
      let g := s.seg c.seg
      let fin : Rat := ((g.len * c.rep : Nat) : Rat)
      let at' : Rat := if g.angle then (s.clk.base : Rat) else c.start + 400000000 * fin / (g.rate : Rat)
      s.thrBegin h n at' at' (if g.angle ∧ (s.seg n.seg).angle ∧ g.dom = (s.seg n.seg).dom
        then c.org.map fun o => o + fin * turn / (g.rate : Rat) else none) false)) ∧
    (∀ (l t : Nat) (e : Nat × Nat), (((s.tickTo t).wseq.lines.find? fun e => e.1 == l && decide (e.2 ≤ (s.tickTo t).clk.base)) = some e) → exec (.switchLinePulse l t) s = .next ({ (s.tickTo t) with wseq := { (s.tickTo t).wseq with lines := (s.tickTo t).wseq.lines.erase e } }.linePulse l e.2)) ∧
    (∀ (req : Requester) (value : Nat), s.verdict req (Reg.WSEQ_LINE_SW) 4 true = .go → exec (.lineSw req value) s = .next (State.each (s.respOk []) ((List.range 16).filter fun l => value.testBit l) fun s l => s.linePulse l s.clk.base)) ∧
    (∀ (req : Requester) (value : Nat), s.verdict req Reg.WSEQ_CHIME_CFG 4 true = .go → s.world req = true → exec (.chimeReadyWrite req value) s = .next ((s.respOk []).writeChimeCfg req value)) ∧
    (∀ (req : Requester) (value : Nat), s.verdict req (Reg.WSEQ_CHIME_CFG) 4 true = .go → s.world req = true → value.testBit 31 = false → exec (.chimeReadyWrite req value) s = .next ((State.putBit (State.regStore (s.respOk []) req Reg.WSEQ_CHIME_CFG value) Reg.WSEQ_STAT 16 ((State.regStore (s.respOk []) req Reg.WSEQ_CHIME_CFG value).bit Reg.WSEQ_CHIME_CFG 31)).funcSet Fn.CHIME ((State.regStore (s.respOk []) req Reg.WSEQ_CHIME_CFG value).bit Reg.WSEQ_CHIME_CFG 31))) ∧
    (∀ (req : Requester) (l value : Nat), l < 2 → s.verdict req (Reg.WSEQ_CHL_START l) 4 true = .go → s.world req = true → exec (.chimeStart req l value) s = .next ((s.respOk []).writeChimeStart req l value)) ∧
    (∀ (req : Requester) (l value : Nat), l < 2 → s.verdict req (Reg.WSEQ_CHL_STOP l) 4 true = .go → s.world req = true → value.testBit 0 = true → exec (.chimeStop req l value) s = .next ((s.respOk []).laneRelease l)) ∧
    (∀ (l t : Nat) (p : Play), (((s.tickTo t).lanesDue).lane l).play = some p → l < 2 → p.rep ≠ 0 → (((((s.tickTo t).lanesDue).seg p.seg).len * p.rep : Nat) : Rat) ≤ ((s.tickTo t).lanesDue).playPos p (((s.tickTo t).lanesDue).clk.base : Rat) → exec (.chimeEnd l t) s = .next (((s.tickTo t).lanesDue).laneRelease l))

/-- Each event takes place with the clocks run to its base tick, where it names one. An enabled stream, WSEQ released, reads its next block
where there is room and a block: the values go to its FIFO and the head moves, it waits for its memory, or it fails. A write of MEM_DATA
that passes its checks writes the word at its address. A whole block read without error joins the FIFO and the head moves 256 bytes on,
modulo the ring. A word of the program memory is written and the address moves on. A read of MEM_DATA that passes its checks reads the
word at its address. A write of LD_GO that passes its checks is the write of its bit. With bit 0 set and no load under way, a load starts.
A load that is refused ends with its cause; otherwise its bytes are read and written word by word, what was read before an error included,
or it waits for its memory. From spec/17_waveform_sequencer.md. -/
def Obligations.WseqMemoryCommands : Prop :=
  ∀ s : State,
    (∀ (k t : Nat) (env : MemEnv), k < 4 → (s.tickTo t).released Blk.WSEQ = true → (s.tickTo t).bit (Reg.WSEQ_STRM_CFG k) 0 = true → exec (.streamFetch k t env) s = .next (
      let s := s.tickTo t
      let size := max (s.rd (Reg.WSEQ_STRM_SIZE k)) 1
      let head := s.rd (Reg.WSEQ_STRM_HEAD k) % size
      let avail := (s.rd (Reg.WSEQ_STRM_TAIL k) % size + size - head) % size
      let n := min 256 avail
      if !s.cEntry then s.streamFail k
         else if 8192 < (s.strm k).fifo.length + 256 ∨ n = 0 ∨ (n < 256 ∧ !s.bit (Reg.WSEQ_STRM_CFG k) 2) then s
         else
           let base := 2 ^ 32 * s.getF (Reg.WSEQ_STRM_BASE_HI k) 15 0 + s.getF (Reg.WSEQ_STRM_BASE_LO k) 31 8 * 256
           let r := s.blockRead Blk.WSEQ 0 (base + head) n env
           match r.1 with
           | .held => s
           | .done => ((r.2.2.setStrm k fun (x : Stream) => { x with fifo := x.fifo ++ r.2.1 }).wr (Reg.WSEQ_STRM_HEAD k)
               ((head + n) % size)).strmResume k
           | _ => r.2.2.streamFail k)) ∧
    (∀ (req : Requester) (value : Nat), s.verdict req Reg.WSEQ_MEM_DATA 4 true = .go → exec (.memDataWrite req value) s = .next ((s.respOk []).writeMemData req (value % 2 ^ 32))) ∧
    (∀ (k t : Nat) (env : MemEnv) (d : List Byte) (v : State), k < 4 → (s.tickTo t).released Blk.WSEQ = true → (s.tickTo t).bit (Reg.WSEQ_STRM_CFG k) 0 = true → (s.tickTo t).cEntry = true → ((s.tickTo t).strm k).fifo.length + 256 ≤ 8192 → 256 ≤ ((s.tickTo t).rd (Reg.WSEQ_STRM_TAIL k) % max ((s.tickTo t).rd (Reg.WSEQ_STRM_SIZE k)) 1 + max ((s.tickTo t).rd (Reg.WSEQ_STRM_SIZE k)) 1 - (s.tickTo t).rd (Reg.WSEQ_STRM_HEAD k) % max ((s.tickTo t).rd (Reg.WSEQ_STRM_SIZE k)) 1) % max ((s.tickTo t).rd (Reg.WSEQ_STRM_SIZE k)) 1 → (s.tickTo t).blockRead Blk.WSEQ 0 (2 ^ 32 * (s.tickTo t).getF (Reg.WSEQ_STRM_BASE_HI k) 15 0 + (s.tickTo t).getF (Reg.WSEQ_STRM_BASE_LO k) 31 8 * 256 + (s.tickTo t).rd (Reg.WSEQ_STRM_HEAD k) % max ((s.tickTo t).rd (Reg.WSEQ_STRM_SIZE k)) 1) 256 env = (.done, d, v) → exec (.streamFetch k t env) s = .next (State.strmResume (State.wr (v.setStrm k fun (x : Stream) => { x with fifo := x.fifo ++ d }) (Reg.WSEQ_STRM_HEAD k) (((s.tickTo t).rd (Reg.WSEQ_STRM_HEAD k) % max ((s.tickTo t).rd (Reg.WSEQ_STRM_SIZE k)) 1 + 256) % max ((s.tickTo t).rd (Reg.WSEQ_STRM_SIZE k)) 1)) k)) ∧
    (∀ (req : Requester) (value : Nat), s.verdict req (Reg.WSEQ_MEM_DATA) 4 true = .go → s.bit Reg.WSEQ_MEM_ADDR 31 = true → exec (.memDataWrite req value) s = .next ((State.wseqWord (s.respOk []) (s.rd Reg.WSEQ_MEM_ADDR) (value % 2 ^ 32)).memNext)) ∧
    (∀ (req : Requester) (ecc : Nat), exec (.memDataRead req ecc) s = .next (s.checkedRead req Reg.WSEQ_MEM_DATA 4 fun s => s.readMemData ecc)) ∧
    (∀ (req : Requester) (value : Nat), s.verdict req Reg.WSEQ_LD_GO 4 true = .go → exec (.loadEngineGo req value) s = .next ((s.respOk []).writeLdGo req value)) ∧
    (∀ (req : Requester) (value : Nat), s.verdict req (Reg.WSEQ_LD_GO) 4 true = .go → value.testBit 0 = true → s.wseq.load = none → ∃ v, exec (.loadEngineGo req value) s = .next v ∧ v.wseq.load.isSome = true ∧ v.rd Reg.WSEQ_LD_STAT = 1) ∧
    (∀ (t : Nat) (env : MemEnv) (l : Load), (s.tickTo t).wseq.load = some l → exec (.loadEngineDone t env) s = .next (
      let s := s.tickTo t
      let c := s.loadRefused l
      if c ≠ 0 then s.loadEnd c
      else
        let r := State.readParts { req := .block Blk.WSEQ 0, heart := l.heart, addr := l.src, len := l.len } false false env
          (lineParts l.src l.len) [] s
        if r.1 = .held then s
        else
          let s := r.2.2.each (List.range (r.2.1.length / 4)) fun s k =>
            s.wseqWord (putFld l.dst 18 2 (fld l.dst 18 2 + k)) (leNat ((r.2.1.drop (4 * k)).take 4))
          s.loadEnd (if r.1 = .done then 0 else 1)))

/-- Each event takes place with the clocks run to its base tick, where it names one. An enabled domain, ALE released and not parking, that
follows no port or whose port is lost, ticks. A wake that is due at a running core opens its sample, writes its index to WAKE_IDX and the
TCM, and runs the core; where the sample before is still open that is an overrun, counted with its event. A write of DONE that passes its
checks ends the sample it names. A write of EXP_PUSH that passes its checks is the push of its fields. With a length allowed and one to
three transfers queued, the transfer joins the queue. The running transfer of a core that is not stopped, no ticket being asked for, ends
where it has been sent; otherwise its bytes are read from the TCM and written with its ticket, it waits for its memory, or it fails with
its cause. With both done without error, that transfer ends. A write of CSET_CTL that passes its checks is the commit of its fields. A
fault of a running core stops it with its code. From spec/19_audio_loop_engine.md. -/
def Obligations.AleCommands : Prop :=
  ∀ s : State,
    (∀ (d t : Nat), d < 4 → (s.tickTo t).released Blk.ALE = true → (s.tickTo t).tkEn d = true → ((s.tickTo t).tkFollow d).isNone ∨ (s.tickTo t).holdover d → (s.tickTo t).park.stage < 2 → exec (.sampleTick d t) s = .next ((s.tickTo t).sampleTick d)) ∧
    (∀ (n t : Nat) (k b : Nat) (l : List (Nat × Nat)), ((s.tickTo t).ale n).wakes = (k, b) :: l → n < 8 → (s.tickTo t).aleRun n = true → b + (s.tickTo t).getF (Reg.ALE_WAKE_CFG n) 7 0 * 400 ≤ (s.tickTo t).clk.base → exec (.aleWake n t) s = .next (
      let s := s.tickTo t
      let s := if (s.ale n).opened.isSome then (s.cnt (Reg.ALE_OVERRUN_CNT n)).evt (alePage n) 0 else s
      let s := s.setAle n fun (a : Ale) => { a with wakes := l, opened := some (k, b) }
      ((s.wr (Reg.ALE_WAKE_IDX n) k).setLe (tcmOf n + 0xF0) 4 k).aleState n 1)) ∧
    (∀ (req : Requester) (n value t : Nat), n < 8 → (s.tickTo t).verdict req (Reg.ALE_DONE n) 4 true = .go → exec (.aleDone req n value t) s = .next (
      let s := s.tickTo t
      let s := s.respOk []
      s.writeDone n value)) ∧
    (∀ (req : Requester) (n value : Nat), n < 8 → s.verdict req (Reg.ALE_EXP_PUSH n) 4 true = .go → exec (.exportPush req n value) s = .next ((s.respOk []).writeExpPush req n value)) ∧
    (∀ (req : Requester) (n value : Nat), s.verdict req (Reg.ALE_EXP_PUSH n) 4 true = .go → n < 8 → value.testBit 0 = true → s.getF (Reg.ALE_EXP_LEN n) 16 0 ≠ 0 → s.getF (Reg.ALE_EXP_LEN n) 16 0 % 64 = 0 → s.getF (Reg.ALE_EXP_LEN n) 16 0 ≤ 65536 → (s.ale n).queue.length < 4 → (s.ale n).queue ≠ [] → exec (.exportPush req n value) s = .next (State.expSync (State.setAle (s.respOk []) n fun (a : Ale) => { a with queue := a.queue ++ [{ src := s.getF (Reg.ALE_EXP_SRC n) 17 6 * 64, dst := 2 ^ 32 * s.getF (Reg.ALE_EXP_DST_HI n) 15 0 + s.getF (Reg.ALE_EXP_DST_LO n) 31 6 * 64, len := s.getF (Reg.ALE_EXP_LEN n) 16 0, tkt := value.testBit 1, irq := value.testBit 2, db := value.testBit 4, ring := fld value 13 8 }] }) n)) ∧
    (∀ (n : Nat) (env : MemEnv) (t : Nat) (q : Export), ((s.tickTo t).ale n).queue.head? = some q → n < 8 → ((s.tickTo t).ale n).ask.isSome = false → (s.tickTo t).getF (Reg.ALE_STAT n) 1 0 ≠ 3 → exec (.exportDone n env t) s = .next (
      let s := s.tickTo t
      if (s.ale n).sent then s.expEnd n q
           else
             let e := s.eccResult (alePage n) (tcmOf n) (s.access (.block Blk.ALE n) (tcmOf n + q.src) q.len false []) 8 env
             let s' := if e.1 = 1 then e.2.2.cnt (Reg.ALE_ECC_CE n) else if 2 ≤ e.1 then e.2.2.cnt (Reg.ALE_ECC_UE n) else e.2.2
             if 2 ≤ e.1 then s'.expFail n ExpErr.POISON
             else
               let data := (List.range q.len).map fun k => s'.byte (tcmOf n + (q.src + k) % 0x40000)
               let w := s'.writeRange { s'.access (.block Blk.ALE n) q.dst q.len true data with tkt := (s.ale n).tag } (decide (targetOf q.dst = .tcm n)) false env
               match w.1 with
               | .held => s
               | .done => w.2.expEnd n q
               | .error => w.2.expFail n ExpErr.ACCESS
               | .poison => w.2.expFail n ExpErr.POISON
               | .lost => w.2.expFail n ExpErr.TIMEOUT)) ∧
    (∀ (n : Nat) (env : MemEnv) (t : Nat) (q : Export) (o : Nat) (w x : State), n < 8 → ((s.tickTo t).ale n).queue.head? = some q → ((s.tickTo t).ale n).ask = none → (s.tickTo t).getF (Reg.ALE_STAT n) 1 0 ≠ 3 → ((s.tickTo t).ale n).sent = false → (s.tickTo t).eccResult (alePage n) (tcmOf n) ((s.tickTo t).access (.block Blk.ALE n) (tcmOf n + q.src) q.len false []) 8 env = (0, o, w) → w.writeRange { w.access (.block Blk.ALE n) q.dst q.len true ((List.range q.len).map fun k => w.byte (tcmOf n + (q.src + k) % 0x40000)) with tkt := ((s.tickTo t).ale n).tag } (decide (targetOf q.dst = .tcm n)) false env = (.done, x) → exec (.exportDone n env t) s = .next (x.expEnd n q)) ∧
    (∀ (req : Requester) (n value : Nat), n < 8 → s.verdict req (Reg.ALE_CSET_CTL n) 4 true = .go → exec (.coefficientCommit req n value) s = .next ((s.respOk []).writeCsetCtl req n value)) ∧
    (∀ (n code t : Nat), n < 8 → (s.tickTo t).aleRun n = true → code = 1 ∨ code = 2 → exec (.aleCoreFault n code t) s = .next ((s.tickTo t).aleFault n code))

/-- Each event takes place with the clocks run to its base tick, where it names one. A frame of an enabled port, the PLL locked, ports
released and not parking, gives its slots to their routes. A sample of an enabled PDM input with a route and a tick domain, saturated at
full scale with its count and event, goes to its route. An enabled slave port without a frame start for 2 tick periods is lost: it is
silent, and shows it with its interrupt to those that follow it; 1 ms after that AUDIO_PORTS is lost. One lost for 1 ms loses AUDIO_PORTS.
The audio PLL losing lock shows with its interrupt, no port runs, and AUDIO_PORTS is lost. The PLL locking again takes that back, and
every port follows. From spec/19_audio_loop_engine.md. -/
def Obligations.AudioPortCommands : Prop :=
  ∀ s : State,
    (∀ (p : Nat) (rx : List Nat) (t : Nat), p < 8 → (s.tickTo t).released Blk.APORT = true → (s.tickTo t).portEn p = true → (s.tickTo t).pllLock = true → (s.tickTo t).park.stage < 2 → exec (.tdmFrame p rx t) s = .next ((s.tickTo t).portFrame p rx)) ∧
    (∀ (i k : Nat) (v : Int) (t : Nat), i < 32 → (s.tickTo t).released Blk.APORT = true → (s.tickTo t).portEn 8 = true → (s.tickTo t).pllLock = true → (s.tickTo t).bit (Reg.APORT_CTL 8) (4 + i / 8) = true → ((s.tickTo t).rd (Reg.APORT_ROUTE 8 i)).testBit 3 = true → (s.tickTo t).pdmTkOk i = true → (s.tickTo t).tkEn ((s.tickTo t).pdmTk i) = true → (s.tickTo t).park.stage < 2 → exec (.pdmSample i k v t) s = .next (
      let s := s.tickTo t
      let r := s.rd (Reg.APORT_ROUTE 8 i)
      let clip := v < -8388607 ∨ 8388607 < v
      let s := if clip then (s.cnt (Reg.APORT_SLIP_CNT 8)).evt (aportPage 8) 1 else s
      s.routePut r k (max (-8388607) (min 8388607 v)))) ∧
    (∀ (p t : Nat), p < 8 → (s.tickTo t).released Blk.APORT = true → (s.tickTo t).portEn p = true → (s.tickTo t).bit (Reg.APORT_CTL p) 1 = false → exec (.frameStartLost p t) s = .next (
      let s := s.tickTo t
      let x := s.aport p
      match x.lost with
           | some b => if b + 400000 ≤ s.clk.base then s.funcLost Fn.AUDIO_PORTS else s
           | none =>
             if s.clk.base < x.start + 800000 / s.tkKhz (s.portTk p) then s
             else
               let s := (s.setAport p fun (y : Aport) => { y with lost := some s.clk.base }).putBit (Reg.APORT_STAT p) 0 false
               let s := (s.putBit (Reg.APORT_STAT p) 1 true).lvl (aportPage p) 0 true
               (s.emit (.audio p (List.replicate (s.slots p) 0))).each (s.followed p) fun s d => s.putBit Reg.ALE_AUD_STAT (4 + d) true)) ∧
    (∀ (p t b : Nat), p < 8 → (s.tickTo t).released Blk.APORT = true → (s.tickTo t).portEn p = true → (s.tickTo t).bit (Reg.APORT_CTL p) 1 = false → ((s.tickTo t).aport p).lost = some b → b + 400000 ≤ (s.tickTo t).clk.base → exec (.frameStartLost p t) s = .next ((s.tickTo t).funcLost Fn.AUDIO_PORTS)) ∧
    (s.released Blk.ALE = true → s.pllLock = true → exec (.audioPllUnlock) s = .next (
      let s := (s.putBit Reg.ALE_AUD_STAT 0 false).lvl (alePage 0) 16 true
      (s.each (List.range 9) fun s p => s.putBit (Reg.APORT_STAT p) 0 false).funcLost Fn.AUDIO_PORTS)) ∧
    (s.released Blk.ALE = true → s.pllLock = false → exec (.audioPllRelock) s = .next (
      let s := (s.putBit Reg.ALE_AUD_STAT 0 true).lvl (alePage 0) 16 false
      s.each (List.range 9) fun s p => s.portSync p))

/-- Each event takes place with the clocks run to its base tick, where it names one. CAM and VOUT, CAM released, align to TIME. A port that is
on and whose header passes has its signal, and starts a frame of each stream that takes the channel. A long packet, a CRC error counted
with its event, is a line of each stream that takes its channel and type. A frame end ends the frame of each stream that takes the channel
and is in one. The oldest ended frame of a stream writes what is left of its lines, then its record: it is complete, it waits for its
memory, or a write error ends the stream. With every write done it is complete. A write of RD that passes its checks is the release of its
slots. Within the slots filled, RD is then the value written. A port that is on and has had no frame start for LOSS_MS has no signal, with
its interrupt; where no port has one, CAMERA is lost. From spec/20_camera_display.md. -/
def Obligations.CameraCommands : Prop :=
  ∀ s : State,
    (∀ (t : Nat), (s.tickTo t).released Blk.CAM = true → exec (.localTimeAlign t) s = .next ((s.tickTo t).alignLocal)) ∧
    (∀ (p vc num hdr t : Nat), (s.tickTo t).camOn p = true → exec (.csiFrameStart p vc num hdr t) s = .next (
      let s := s.tickTo t
      let h := s.camHeader p hdr
      if !h.1 then h.2
      else
        let s := (h.2.putF (Reg.CAM_STAT p) 1 0 2).lvl (camPage p) 3 false
        let s := { s with cams := updAt s.cams p fun (x : Cam) => { x with lastFs := s.clk.base } }
        s.each ((List.range 4).filter fun k => s.camTakes p k vc) fun s k => s.camStart p k num)) ∧
    (∀ (p vc dt : Nat) (payload : List Byte) (hdr : Nat) (crc : Bool) (room : Option Nat) (t : Nat), (s.tickTo t).camOn p = true → exec (.csiLongPacket p vc dt payload hdr crc room t) s = .next (
      let s := s.tickTo t
      let h := s.camHeader p hdr
      if !h.1 then h.2
      else
        let s := if crc then (h.2.cnt (Reg.CAM_CRC_CNT p)).evt (camPage p) 2 else h.2
        s.each ((List.range 4).filter fun k => s.camTakes p k vc && decide (s.getF (Reg.CAM_SEL p k) 13 8 = dt)) fun s k =>
          s.camLine p k dt payload crc room)) ∧
    (∀ (p vc hdr t : Nat), (s.tickTo t).camOn p = true → exec (.csiFrameEnd p vc hdr t) s = .next (
      let s := s.tickTo t
      let h := s.camHeader p hdr
      if !h.1 then h.2
      else h.2.each ((List.range 4).filter fun k => h.2.camTakes p k vc && (h.2.camStr p k).inFrame) fun s k => s.camEnd p k 0)) ∧
    (∀ (p k t : Nat) (env : MemEnv) (f : CamFrame) (l : List CamFrame), ((s.tickTo t).camStr p k).ended = f :: l → exec (.frameComplete p k t env) s = .next (
      let s := s.tickTo t
      let d := s.camDrain p f env
      let f := d.1
      if f.buf ≠ [] then d.2.setCamStr p k fun (x : CamStr) => { x with ended := f :: l }
      else
        let addr := 2 ^ 32 * s.getF (Reg.CAM_META_HI p k) 15 0 + s.getF (Reg.CAM_META_LO p k) 31 6 * 64 + 64 * f.slot
        let rec' := d.2.camRecord p k f
        let w := d.2.writeRange (d.2.access (.block Blk.CAM p) addr 64 true rec') false true env
        match w.1 with
        | .held => d.2.setCamStr p k fun (x : CamStr) => { x with ended := f :: l }
        | .done => (w.2.setCamStr p k fun (x : CamStr) => { x with ended := l }).camComplete p k f
        | _ => ((w.2.setCamStr p k fun (x : CamStr) => { x with ended := l, inFrame := false, cur := none }).putBit (Reg.CAM_SEL p k) 31 false).camWrErr p)) ∧
    (∀ (p k t : Nat) (env : MemEnv) (f : CamFrame) (l : List CamFrame), ((s.tickTo t).camStr p k).ended = f :: l → ((s.tickTo t).camDrain p f env).1.buf = [] → (State.writeRange ((s.tickTo t).camDrain p f env).2 (((s.tickTo t).camDrain p f env).2.access (.block Blk.CAM p) (2 ^ 32 * (s.tickTo t).getF (Reg.CAM_META_HI p k) 15 0 + (s.tickTo t).getF (Reg.CAM_META_LO p k) 31 6 * 64 + 64 * ((s.tickTo t).camDrain p f env).1.slot) 64 true (((s.tickTo t).camDrain p f env).2.camRecord p k ((s.tickTo t).camDrain p f env).1)) false true env).1 = .done → exec (.frameComplete p k t env) s = .next (((State.writeRange ((s.tickTo t).camDrain p f env).2 (((s.tickTo t).camDrain p f env).2.access (.block Blk.CAM p) (2 ^ 32 * (s.tickTo t).getF (Reg.CAM_META_HI p k) 15 0 + (s.tickTo t).getF (Reg.CAM_META_LO p k) 31 6 * 64 + 64 * ((s.tickTo t).camDrain p f env).1.slot) 64 true (((s.tickTo t).camDrain p f env).2.camRecord p k ((s.tickTo t).camDrain p f env).1)) false true env).2.setCamStr p k fun (x : CamStr) => { x with ended := l }).camComplete p k ((s.tickTo t).camDrain p f env).1)) ∧
    (∀ (req : Requester) (p k value : Nat), p < 4 → k < 4 → s.verdict req (Reg.CAM_RD p k) 4 true = .go → exec (.slotRelease req p k value) s = .next ((s.respOk []).writeCamRd req p k value)) ∧
    (∀ (req : Requester) (p k value : Nat), s.verdict req (Reg.CAM_RD p k) 4 true = .go → p < 4 → k < 4 → fld value 3 0 < max (s.camSlots p k) 1 → (fld value 3 0 + max (s.camSlots p k) 1 - s.getF (Reg.CAM_RD p k) 3 0 % max (s.camSlots p k) 1) % max (s.camSlots p k) 1 ≤ s.camLevel p k → ∃ v, exec (.slotRelease req p k value) s = .next v ∧ v.getF (Reg.CAM_RD p k) 3 0 = fld value 3 0) ∧
    (∀ (p t : Nat), (s.tickTo t).camOn p = true → (s.tickTo t).getF (Reg.CAM_STAT p) 1 0 ≠ 3 → ((s.tickTo t).cam p).lastFs + 400000 * (s.tickTo t).getF (Reg.CAM_LOSS_MS p) 15 0 ≤ (s.tickTo t).clk.base → exec (.noSignalTimeout p t) s = .next (
      let s := s.tickTo t
      let s := (s.putF (Reg.CAM_STAT p) 1 0 3).lvl (camPage p) 3 true
      if (List.range 4).any fun q => s.getF (Reg.CAM_STAT q) 1 0 = 2 then s else s.funcLost Fn.CAMERA))

/-- Each event takes place with the clocks run to its base tick, where it names one. A write of CTL that passes its checks is the write of its
fields. Where it enables the pipeline, the link starts its training. The end of the training of an enabled pipeline: where it passed and
the link carries the timing the pipeline scans and DISPLAY is ready, otherwise the link has failed with its cause. Where it passed, it
scans. Where it failed, the link has failed with code 2. A link that failed, but for its bandwidth, trains again a second later. HPD being
low shows; an enabled eDP link then has failed. HPD being high shows. A write of FLIP that passes its checks is the request of its bit.
With GO set it waits for the next blanking. The blanking of a scanning pipeline begins with its event; a flip asked for before this tick
is taken, the next frame is fetched for, and the doorbell rings where it is set. The first line of a frame ends the blanking and counts
the frame; a flip taken gives its time and number with its event. A pixel of a layer whose data is not in its FIFO under-runs: the layer
is transparent for the rest of the line, and the counts, the event and the pixel sent show it. A write of AUX_CMD that passes its checks,
WRITE 0, is that command. With GO, on an eDP link not in training with no transaction under way, a read starts. A write of AUX_CMD that
passes its checks, WRITE 1, is that command. With GO, on such a link, a write starts. The end of a transaction shows its result, and the
bytes of a read that is acknowledged. From spec/20_camera_display.md. -/
def Obligations.DisplayCommands : Prop :=
  ∀ s : State,
    (∀ (req : Requester) (v value : Nat), v < 2 → s.verdict req (Reg.VOUT_CTL v) 4 true = .go → exec (.voutEnable req v value) s = .next ((s.respOk []).writeVoutCtl req v value)) ∧
    (∀ (req : Requester) (v value : Nat), s.verdict req (Reg.VOUT_CTL v) 4 true = .go → v < 2 → s.bit (Reg.VOUT_CTL v) 0 = false → value.testBit 0 = true → exec (.voutEnable req v value) s = .next ((State.setVout (State.heldWrite (s.respOk []) req (Reg.VOUT_CTL v) value 0) v fun (y : Vout) => { y with training := true, failAt := (State.heldWrite (s.respOk []) req (Reg.VOUT_CTL v) value 0).clk.base }).putBit (Reg.VOUT_STAT v) 7 false)) ∧
    (∀ (v : Nat) (ok : Bool) (t : Nat), (s.tickTo t).voutEn v = true → ((s.tickTo t).vout v).training = true → exec (.linkTrainingDone v ok t) s = .next (
      let s := s.tickTo t
      if !ok then s.linkFail v 2
         else if !s.linkFits v then s.linkFail v 1
         else
           let s := s.setVout v fun (x : Vout) => { x with training := false }
           ((s.putF (Reg.VOUT_STAT v) 1 0 VoutSt.SCANNING).putF (Reg.VOUT_STAT v) 11 8 0).funcReady Fn.DISPLAY)) ∧
    (∀ (v t : Nat), (s.tickTo t).voutEn v = true → ((s.tickTo t).vout v).training = true → (s.tickTo t).linkFits v = true → exec (.linkTrainingDone v (true) t) s = .next (((((s.tickTo t).setVout v fun (x : Vout) => { x with training := false }).putF (Reg.VOUT_STAT v) 1 0 VoutSt.SCANNING).putF (Reg.VOUT_STAT v) 11 8 0).funcReady Fn.DISPLAY)) ∧
    (∀ (v t : Nat), (s.tickTo t).voutEn v = true → ((s.tickTo t).vout v).training = true → exec (.linkTrainingDone v (false) t) s = .next ((s.tickTo t).linkFail v 2)) ∧
    (∀ (v t : Nat), (s.tickTo t).voutEn v = true → (s.tickTo t).voutState v = VoutSt.FAILED → (s.tickTo t).getF (Reg.VOUT_STAT v) 11 8 ≠ 1 → ((s.tickTo t).vout v).training = false → ((s.tickTo t).vout v).failAt + 400000000 ≤ (s.tickTo t).clk.base → exec (.displayLinkRetrain v t) s = .next ((s.tickTo t).setVout v fun (x : Vout) => { x with training := true, failAt := (s.tickTo t).clk.base })) ∧
    (∀ (v t : Nat), v < 2 → (s.tickTo t).released Blk.VOUT = true → exec (.hpdLost v t) s = .next (
      let s := s.tickTo t
      let s := s.setHpd v false
      if s.voutEn v && s.isEdp v then s.linkFail v 3 else s)) ∧
    (∀ (v : Nat), v < 2 → s.released Blk.VOUT = true → exec (.hpdRise v) s = .next (s.setHpd v true)) ∧
    (∀ (req : Requester) (v value : Nat), v < 2 → s.verdict req (Reg.VOUT_FLIP v) 4 true = .go → exec (.flip req v value) s = .next ((s.respOk []).writeFlip v value)) ∧
    (∀ (req : Requester) (v value : Nat), s.verdict req (Reg.VOUT_FLIP v) 4 true = .go → v < 2 → value.testBit 0 = true → exec (.flip req v value) s = .next ((State.setVout (s.respOk []) v fun (y : Vout) => { y with goAt := s.clk.base }).putBit (Reg.VOUT_STAT v) 5 true)) ∧
    (∀ (v t : Nat), v < 2 → (s.tickTo t).voutState v = VoutSt.SCANNING → exec (.vblankStart v t) s = .next (
      let s := s.tickTo t
      let s := (s.putBit (Reg.VOUT_STAT v) 4 true).evt (voutPage v) 0
      let s := if s.bit (Reg.VOUT_STAT v) 5 ∧ (s.vout v).goAt < s.clk.base then
          (s.setVout v fun (x : Vout) => { x with use := s.shadows v, taken := true }).putBit (Reg.VOUT_STAT v) 5 false else s
      let blank := (s.getF (Reg.VOUT_VTIM v) 28 16 - s.getF (Reg.VOUT_VTIM v) 12 0) * s.getF (Reg.VOUT_HTIM v) 28 16
      let s := s.newFrame v (s.clk.base + blank * 400000 / max (s.getF (Reg.VOUT_PCLK v) 20 0) 1) true
      if s.bit (Reg.VOUT_VBL_DB v) 0 then s.blockDoorbell Blk.VOUT v (s.getF (Reg.VOUT_VBL_DB v) 13 8) else s)) ∧
    (∀ (v t : Nat), v < 2 → (s.tickTo t).voutState v = VoutSt.SCANNING → exec (.frameFirstLine v t) s = .next (
      let s := s.tickTo t
      let s := ((s.newFrame v s.clk.base (!s.bit (Reg.VOUT_STAT v) 4)).putBit (Reg.VOUT_STAT v) 4 false).incWrap (Reg.VOUT_FRAME_CNT v) 31 0
      if (s.vout v).taken then
        let now := s.localTime (4 + v)
        let s := s.setVout v fun (x : Vout) => { x with taken := false, flipHi := now / 2 ^ 32 }
        ((s.wr (Reg.VOUT_FLIP_T_LO v) now).wr (Reg.VOUT_FLIP_SEQ v) (s.rd (Reg.VOUT_FRAME_CNT v))).evt (voutPage v) 1
      else s)) ∧
    (∀ (v l x y t : Nat) (env : MemEnv) (c : Nat × Nat), v < 2 → l < 2 → (s.tickTo t).voutState v = VoutSt.SCANNING → (s.tickTo t).layerAt v l x y = some c → (s.tickTo t).inFifo v l c = false → exec (.layerUnderrun v l x y t env) s = .next (
      let s := s.tickTo t
      let w := s.freeExt 16
      let r := (if targetOf (s.pixelAddr v l c) = .dram then s else w.2).blockRead Blk.VOUT v (s.pixelAddr v l c)
        (pixelBytes (fld (s.inUse v l 0) 7 4)) { env with ext := w.1 }
      let s := match r.1 with
        | .done => r.2.2
        | .held => r.2.2
        | _ => r.2.2.fetchError v
      let s := s.abandonLine v l c.2
      let here := some (s.rd (Reg.VOUT_FRAME_CNT v), y)
      let seen := if (s.vout v).urLine = here then (s.vout v).urSeen else []
      let s := if seen.contains l then s else s.cnt (Reg.VOUT_UR_CNT v l)
      let s := if seen = [] then s.cnt (Reg.VOUT_UR_LINES v) else s
      let s := (s.setVout v fun (z : Vout) => { z with urLine := here, urSeen := l :: seen }).evt (voutPage v) 2
      s.emit (.pixel v x y (s.scanPixel v x y (l :: seen))))) ∧
    (∀ (req : Requester) (v value : Nat), v < 2 → value.testBit 28 = false → s.verdict req (Reg.VOUT_AUX_CMD v) 4 true = .go → exec (.auxRead req v value) s = .next ((s.respOk []).writeAux req v value)) ∧
    (∀ (req : Requester) (v value : Nat), s.verdict req (Reg.VOUT_AUX_CMD v) 4 true = .go → v < 2 → value.testBit 28 = false → value.testBit 31 = true → State.isEdp (s.respOk []) v = true → (s.vout v).training = false → s.bit (Reg.VOUT_AUX_STAT v) 0 = false → ∃ u, exec (.auxRead req v value) s = .next u ∧ u.rd (Reg.VOUT_AUX_STAT v) = 1) ∧
    (∀ (req : Requester) (v value : Nat), v < 2 → value.testBit 28 = true → s.verdict req (Reg.VOUT_AUX_CMD v) 4 true = .go → exec (.auxWrite req v value) s = .next ((s.respOk []).writeAux req v value)) ∧
    (∀ (req : Requester) (v value : Nat), s.verdict req (Reg.VOUT_AUX_CMD v) 4 true = .go → v < 2 → value.testBit 28 = true → value.testBit 31 = true → State.isEdp (s.respOk []) v = true → (s.vout v).training = false → s.bit (Reg.VOUT_AUX_STAT v) 0 = false → ∃ u, exec (.auxWrite req v value) s = .next u ∧ u.rd (Reg.VOUT_AUX_STAT v) = 1) ∧
    (∀ (v result : Nat) (data : List Byte) (x : Nat) (y : List Byte), (s.vout v).aux = some (x, y) → result ≠ 0 → result ≤ 4 → exec (.auxDone v result data) s = .next (
      let s := (s.setVout v fun (y : Vout) => { y with aux := none }).wr (Reg.VOUT_AUX_STAT v) (2 * result)
      if result = 1 ∧ !x.testBit 28 then
        s.each (List.range (fld x 23 20 + 1)) fun s i =>
          s.putF (Reg.VOUT_AUX_DATA v (i / 4)) (8 * (i % 4) + 7) (8 * (i % 4)) (data.getD i 0).toNat
      else s))

/-- Each event takes place with the clocks run to its base tick, where it names one. A frame of an allowed length at a port that is ready, ETH
released, enters the gateway. A frame of a format the controller admits and a length its format has, at a controller that is ready, CANX
released, enters the gateway. A port serves its head frame. The frames queued at a port whose destination is ready are delivered. The
frames of a port queued for longer than the AGE_MAX of their class are discarded and counted. The gate list of a port goes on: to its
first entry at the end of its cycle, and to the next at the end of an entry. At the end of the cycle the first entry begins. A write of
QBV_CTL that passes its checks is the write of its fields. With COMMIT the staged list is pending. A list whose first instant has come is
in use, with its event. A change of a link, up only of a port that is on, shows with its speed and event, and the frames of a link that
went down are flushed. A controller that is on shows its error counters, and a changed state with its event to the island; out of bus-off
it comes only with AUTO_REC. From spec/21_networks_gateway.md. -/
def Obligations.NetworkCommands : Prop :=
  ∀ s : State,
    (∀ (p : Nat) (data : List Byte) (ecc t : Nat), p < 4 → (s.tickTo t).released Blk.ETH = true → (s.tickTo t).gwReady p = true → 60 ≤ data.length → data.length ≤ 1996 → exec (.ethFrameRx p data ecc t) s = .next ((s.tickTo t).gwFrameIn { eth := true, key := (s.tickTo t).ethKey data, data := data, inPort := p, rx := (s.tickTo t).timeNs, at' := (s.tickTo t).clk.base } ecc)) ∧
    (∀ (n fmt : Nat) (ide : Bool) (id xl : Nat) (data : List Byte) (ecc t : Nat), n < 16 → (s.tickTo t).released Blk.CANX = true → (s.tickTo t).gwReady (4 + n) = true → (s.tickTo t).canAdmits n fmt = true → canFits fmt data.length = true → exec (.canFrameRx n fmt ide id xl data ecc t) s = .next (
      let s := s.tickTo t
      s.gwFrameIn { eth := false, key := id % 2 ^ 29 + 2 ^ 29 * ide.toNat + 2 ^ 30 * fmt, xl := xl, data := data, inPort := 4 + n, rx := s.timeNs
                    at' := s.clk.base } ecc)) ∧
    (∀ (p ecc t : Nat), p < 22 → exec (.egressTransmit p ecc t) s = .next (((s.tickTo t).serveBuf p ecc).2)) ∧
    (∀ (p t : Nat), p < 22 → exec (.queuedFrameDelivery p t) s = .next ((s.tickTo t).serveAll p ((s.tickTo t).buf p).length)) ∧
    (∀ (p t : Nat), p < 22 → exec (.frameAgeExpired p t) s = .next (
      let gone := ((s.tickTo t).buf p).filter fun f => decide ((s.tickTo t).ageMax f.cls ≠ 0) && decide (f.at' + 400000 * (s.tickTo t).ageMax f.cls < (s.tickTo t).clk.base)
      ((s.tickTo t).setBuf p (((s.tickTo t).buf p).filter fun f => !(decide ((s.tickTo t).ageMax f.cls ≠ 0) && decide (f.at' + 400000 * (s.tickTo t).ageMax f.cls < (s.tickTo t).clk.base)))).each gone fun s f => s.gwDrop p (GwC.AGE + 4 * f.cls))) ∧
    (∀ (p t : Nat), p < 4 → ((s.tickTo t).qbv p).list ≠ [] → exec (.gateControlEntry p t) s = .next (
      let s := s.tickTo t
      let q := s.qbv p
      let now := s.timeNs
      if q.start + q.cycle ≤ now then
           (s.setQbv p fun q => { q with start := q.start + q.cycle, entry := q.start + q.cycle, idx := 0 }).putF (Reg.ETH_QBV_STAT p) 15 8 0
         else
           let d := ((q.list[q.idx]?).getD (0, 0)).2
           if q.idx + 1 < q.list.length ∧ q.entry + d ≤ now then
             (s.setQbv p fun q => { q with entry := q.entry + d, idx := q.idx + 1 }).putF (Reg.ETH_QBV_STAT p) 15 8 (q.idx + 1)
           else s)) ∧
    (∀ (p t : Nat), p < 4 → ((s.tickTo t).qbv p).list ≠ [] → ((s.tickTo t).qbv p).start + ((s.tickTo t).qbv p).cycle ≤ (s.tickTo t).timeNs → exec (.gateControlEntry p t) s = .next (((s.tickTo t).setQbv p fun q => { q with start := q.start + q.cycle, entry := q.start + q.cycle, idx := 0 }).putF (Reg.ETH_QBV_STAT p) 15 8 0)) ∧
    (∀ (req : Requester) (p value : Nat), p < 4 → s.verdict req (Reg.ETH_QBV_CTL p) 4 true = .go → exec (.qbvCommit req p value) s = .next ((s.respOk []).writeQbvCtl req p value)) ∧
    (∀ (req : Requester) (p value : Nat), s.verdict req (Reg.ETH_QBV_CTL p) 4 true = .go → p < 4 → s.gw.qbv.length = 4 → value.testBit 1 = true → ∃ v, exec (.qbvCommit req p value) s = .next v ∧ v.bit (Reg.ETH_QBV_STAT p) 0 = true ∧ (v.qbv p).pend.isSome = true) ∧
    (∀ (p t : Nat) (l : List (Nat × Nat)) (c due : Nat), ((s.tickTo t).qbv p).pend = some (l, c, due) → p < 4 → due ≤ (s.tickTo t).timeNs → exec (.qbvListActivate p t) s = .next (
      let s := s.tickTo t
      let s := s.setQbv p fun _ => { list := l, cycle := c, start := due, entry := due }
      ((s.putBit (Reg.ETH_QBV_STAT p) 0 false).putF (Reg.ETH_QBV_STAT p) 15 8 0).evt (pageAddr Blk.ETH p) 2)) ∧
    (∀ (p : Nat) (up : Bool) (speed : Nat), p < 4 → s.released Blk.ETH = true → s.ethOn p ∨ !up → s.bit (Reg.ETH_STAT p) 0 ≠ up → exec (.ethLinkChange p up speed) s = .next ((((s.putBit (Reg.ETH_STAT p) 0 up).putF (Reg.ETH_STAT p) 3 1 (if p < 2 then 2 else min speed 5)).evt (pageAddr Blk.ETH p) 0).linkFlush p)) ∧
    (∀ (n st tec rec' : Nat) (proto : Bool), n < 16 → s.released Blk.CANX = true → s.bit (Reg.CANX_CTL n) 0 = true → st ≤ 2 → exec (.canErrorStateChange n st tec rec' proto) s = .next (
      let s := if proto then s.evt (pageAddr Blk.CANX n) 2 else s
      if s.canState n = 2 ∧ !s.bit (Reg.CANX_CTL n) 6 then s
      else
        let old := s.canState n
        let s := (s.putF (Reg.CANX_STAT n) 15 8 tec).putF (Reg.CANX_STAT n) 23 16 rec'
        if st = old then s
        else
          let s := (s.setCanState n st).evt (pageAddr Blk.CANX n) 0
          if st = 0 then s else s.emit (.island Isl.NET (0x2000 + 16 * st + n))))

/-- A write of INSP_VERDICT with GO that passes its checks is that verdict. Code 0 sends the head frame, where it is held for inspection, to
its ports. So with code 1. It sends that frame to the ports of the mask. So with code 2. It discards the head frame. A read of INSP_DATA
that passes its checks reads on in the head frame. It answers the next four bytes, zero beyond the end. A head frame left for INSP_TMO is
counted with its event, reported to the island and discarded. A write of TX_CTL that passes its checks is the write of its fields. With GO
and fewer bytes than LEN the result is 2. With as many, the frame is originated with its result. A write of TX_DATA appends its bytes. A
write of HOST_CTL that passes its checks is the write of its fields. After the declaration it stores them. A write of HTX_TAIL sends the
entries before it. A write of TBL_DATA writes the word at its place. A read of TBL_DATA reads it. From spec/21_networks_gateway.md. -/
def Obligations.InspectionCommands : Prop :=
  ∀ s : State,
    (∀ (req : Requester), s.verdict req Reg.GW_INSP_VERDICT 4 true = .go → exec (.verdictRelease req) s = .next ((s.respOk []).writeVerdict req (2 ^ 31))) ∧
    (∀ (req : Requester) (f : GwFrame), s.verdict req (Reg.GW_INSP_VERDICT) 4 true = .go → s.gw.head = some f → f.insp = true → exec (.verdictRelease req) s = .next ((State.feedSpeed (State.inspPop (s.respOk [])) f true).toPorts { f with insp := false } (f.egress &&& 0x2FFFFF))) ∧
    (∀ (req : Requester) (mask : Nat), s.verdict req Reg.GW_INSP_VERDICT 4 true = .go → exec (.verdictReleaseMask req mask) s = .next ((s.respOk []).writeVerdict req (2 ^ 31 + mask % 2 ^ 22 * 64 + 1))) ∧
    (∀ (req : Requester) (mask : Nat) (f : GwFrame), s.verdict req (Reg.GW_INSP_VERDICT) 4 true = .go → s.gw.head = some f → f.insp = true → exec (.verdictReleaseMask req mask) s = .next ((State.feedSpeed (State.inspPop (s.respOk [])) f true).toPorts { f with insp := false } (fld (2 ^ 31 + mask % 2 ^ 22 * 64 + 1) 27 6 &&& 0x2FFFFF))) ∧
    (∀ (req : Requester), s.verdict req Reg.GW_INSP_VERDICT 4 true = .go → exec (.verdictDrop req) s = .next ((s.respOk []).writeVerdict req (2 ^ 31 + 2))) ∧
    (∀ (req : Requester) (f : GwFrame), s.verdict req (Reg.GW_INSP_VERDICT) 4 true = .go → s.gw.head = some f → exec (.verdictDrop req) s = .next (State.inspPop (s.respOk []))) ∧
    (∀ (req : Requester), exec (.inspDataRead req) s = .next (s.checkedRead req Reg.GW_INSP_DATA 4 fun s => s.readInspData)) ∧
    (∀ (req : Requester) (f : GwFrame), s.verdict req (Reg.GW_INSP_DATA) 4 false = .go → s.gw.head = some f → ∃ v, exec (.inspDataRead req) s = .next v ∧ v.resp.data = (f.data.drop s.gw.pos).take 4 ++ List.replicate (4 - ((f.data.drop s.gw.pos).take 4).length) 0 ∧ v.gw.pos = s.gw.pos + 4) ∧
    (∀ (t : Nat) (f : GwFrame), (s.tickTo t).gw.head = some f → f.at' + (s.tickTo t).getF Reg.GW_INSP_TMO 15 0 * 400 ≤ (s.tickTo t).clk.base → exec (.inspectionTimeout t) s = .next (
              ((((s.tickTo t).cnt Reg.GW_INSP_TMO_CNT).evt gwPage 1).emit (.island Isl.NET 0x1000)).inspPop
            )) ∧
    (∀ (req : Requester) (value : Nat), s.verdict req Reg.GW_TX_CTL 4 true = .go → exec (.txOriginate req value) s = .next ((s.respOk []).writeTxCtl value)) ∧
    (∀ (req : Requester) (value : Nat), s.verdict req (Reg.GW_TX_CTL) 4 true = .go → value.testBit 31 = true → s.gw.tx.length < fld value 27 16 → ∃ v, exec (.txOriginate req value) s = .next v ∧ v.rd Reg.GW_TX_STAT = 4) ∧
    (∀ (req : Requester) (value : Nat), s.verdict req (Reg.GW_TX_CTL) 4 true = .go → value.testBit 31 = true → fld value 27 16 ≤ s.gw.tx.length → exec (.txOriginate req value) s = .next (
      let r := State.originate (State.setGw (s.respOk []) fun g => { g with tx := [] }) 20 (fld value 10 0) (s.gw.tx.take (fld value 27 16))
      r.2.wr Reg.GW_TX_STAT (2 * r.1))) ∧
    (∀ (req : Requester) (value : Nat), s.verdict req (Reg.GW_TX_DATA) 4 true = .go → ∃ v, exec (.txDataWrite req value) s = .next v ∧ v.gw.tx = (s.gw.tx ++ leBytes 4 value).take 4096) ∧
    (∀ (req : Requester) (value : Nat), s.verdict req Reg.GW_HOST_CTL 4 true = .go → exec (.hostEnable req value) s = .next ((s.respOk []).writeHostCtl req value)) ∧
    (∀ (req : Requester) (value : Nat), s.verdict req (Reg.GW_HOST_CTL) 4 true = .go → s.cDecl = true → exec (.hostEnable req value) s = .next (State.regStore (s.respOk []) req Reg.GW_HOST_CTL value)) ∧
    (∀ (req : Requester) (value : Nat) (ext : List Byte), s.verdict req (Reg.GW_HTX_TAIL) 4 true = .go → exec (.hostTxEntry req value ext) s = .next (State.htxRun ext 4096 0 ((s.respOk []).regStore req Reg.GW_HTX_TAIL value))) ∧
    (∀ (req : Requester) (value : Nat), s.verdict req (Reg.GW_TBL_DATA) 4 true = .go → exec (.tableDataWrite req value) s = .next (State.writeTblData (s.respOk []) req (value % 2 ^ 32))) ∧
    (∀ (req : Requester) (ecc : Nat), s.verdict req (Reg.GW_TBL_DATA) 4 false = .go → exec (.tableDataRead req ecc) s = .next (s.readTblData ecc))

/-- Each event takes place with the clocks run to its base tick, where it names one. The end of the training of an enabled port that is
training, after Stage A: the port is up with the width and rate both have, or it trains again, the third failure in a row failing it with
its event. A port without a flit for LP_IDLE goes to low power. Eight replays of a flit are counted and the port trains again. A write of
FAB_CTL that passes its checks is the write of its bit. At the root, with bit 0 set, it discovers again. A deferred port whose HINT has
passed is no longer deferred, and is probed where no probe is out. After DISC_TMO discovery ends without the deferred ports. From
spec/22_rinjo_fabric_cascade.md. -/
def Obligations.FabricLinkCommands : Prop :=
  ∀ s : State,
    (∀ (p : Nat) (ok : Bool) (width rate : Nat), p < 4 → s.aEntry = true → s.bit (Reg.RLINK_CTL p) 0 = true → s.lstate p = 1 → exec (.rlinkTrainingDone p ok width rate) s = .next (
      if ok then
           let s := { s with fab := { s.fab with retrains := s.fab.retrains.set p 0 } }
           let w := min width (s.getF (Reg.RLINK_CTL p) 2 1)
           let r := max rate (s.getF (Reg.RLINK_CTL p) 3 3)
           (((s.setLstate p 2).putF (Reg.RLINK_STAT p) 5 4 w).putF (Reg.RLINK_STAT p) 6 6 r).linkChanged p
         else
           let n := s.fab.retrains.getD p 0 + 1
           let s := { s with fab := { s.fab with retrains := s.fab.retrains.set p n } }
           if 3 ≤ n then ((s.setLstate p 5).evt (pageAddr Blk.RLINK p) 1).linkChanged p else s.setLstate p 1)) ∧
    (∀ (p t : Nat), p < 4 → (s.tickTo t).lstate p = 2 → (s.tickTo t).fab.lastUse.getD p 0 + (s.tickTo t).getF (Reg.RLINK_LP_IDLE p) 15 0 * 400 ≤ (s.tickTo t).clk.base → exec (.linkLowPowerEntry p t) s = .next ((s.tickTo t).setLstate p 3)) ∧
    (∀ (p : Nat), s.portUp p = true → exec (.rlinkRetrain p) s = .next (((s.addSat (Reg.RLINK_REPLAY_CNT p) 31 0 8).cnt (Reg.RLINK_RETRAIN_CNT p)).setLstate p 1)) ∧
    (∀ (req : Requester) (value : Nat), s.verdict req Reg.RLINK_FAB_CTL 4 true = .go → exec (.rediscover req value) s = .next ((s.respOk []).writeFabCtl req value)) ∧
    (∀ (req : Requester) (value : Nat), s.verdict req (Reg.RLINK_FAB_CTL) 4 true = .go → value.testBit 0 = true → State.isRoot (s.respOk []) = true → exec (.rediscover req value) s = .next (State.rootHears (s.respOk []))) ∧
    (∀ (node port t : Nat) (d : Disc), (s.tickTo t).fab.disc = some d → (d.deferred.any fun e => e.node == node && e.port == port && decide (e.due ≤ (s.tickTo t).clk.base)) = true → exec (.probeRetry node port t) s = .next (if d.cur = none then (s.tickTo t).probeNext { d with deferred := d.deferred.filter fun e => !(e.node == node && e.port == port) } else (s.tickTo t).setDisc (some { d with deferred := d.deferred.filter fun e => !(e.node == node && e.port == port) }))) ∧
    (∀ (t : Nat) (d : Disc), (s.tickTo t).fab.disc = some d → d.start + 400000 * (s.tickTo t).getF Reg.RLINK_FAB_CFG 31 16 ≤ (s.tickTo t).clk.base → exec (.discoveryTimeout t) s = .next ((s.tickTo t).finishDiscovery { d with deferred := [], cur := none }))

/-- A packet arrives with the clocks run to its base tick, where it names one; where it is not for this node it is answered, sent on or
counted as for every packet, and the packet below is for this node, received on a port that is up with the device answering and holding an
ID. A read arrives. It is served. A read completion arrives. It ends its request with its data. A write arrives. It is served. A write
acknowledgement arrives. It ends its request. A ticket request arrives. Of an office that holds nothing it is decided and answered. Of a
memory without an office the answer is NOT_REQUIRED. A ticket answer arrives. It ends its open request with the answer. A returned ticket
arrives. It is returned to its office. From spec/22_rinjo_fabric_cascade.md. -/
def Obligations.FabricPacketCommands : Prop :=
  ∀ s : State,
    (∀ (p : Nat) (h : FabHead) (t : Nat) (env : MemEnv), exec (.fabRd p h t env) s = .next ((s.tickTo t).fabArrive p Pkt.RD h [] fun s => s.fabServe p h (s.inbound p h false []) env)) ∧
    (∀ (p : Nat) (h : FabHead) (t : Nat) (env : MemEnv), p < 4 → (s.tickTo t).portUp p = true → ((s.tickTo t).gotPacket p 0).answersFabric = true → ((s.tickTo t).gotPacket p 0).hasId = true → h.dst = ((s.tickTo t).gotPacket p 0).nodeId → exec (.fabRd p h t env) s = .next (((s.tickTo t).gotPacket p 0).fabServe p h (((s.tickTo t).gotPacket p 0).inbound p h false []) env)) ∧
    (∀ (p : Nat) (h : FabHead) (status : Nat) (data : List Byte), exec (.fabRdc p h status data) s = .next (s.fabArrive p Pkt.RDC h (data.map fun (b : Byte) => b.toNat) fun s => s.fabDone h status data)) ∧
    (∀ (p : Nat) (h : FabHead) (status : Nat) (data : List Byte), p < 4 → s.portUp p = true → (s.gotPacket p data.length).answersFabric = true → (s.gotPacket p data.length).hasId = true → h.dst = (s.gotPacket p data.length).nodeId → exec (.fabRdc p h status data) s = .next ((s.gotPacket p data.length).fabDone h status data)) ∧
    (∀ (p : Nat) (h : FabHead) (data : List Byte) (t : Nat) (env : MemEnv), exec (.fabWr p h data t env) s = .next ((s.tickTo t).fabArrive p Pkt.WR h (data.map fun (b : Byte) => b.toNat) fun s => s.fabServe p h (s.inbound p h true data) env)) ∧
    (∀ (p : Nat) (h : FabHead) (data : List Byte) (t : Nat) (env : MemEnv), p < 4 → (s.tickTo t).portUp p = true → ((s.tickTo t).gotPacket p data.length).answersFabric = true → ((s.tickTo t).gotPacket p data.length).hasId = true → h.dst = ((s.tickTo t).gotPacket p data.length).nodeId → exec (.fabWr p h data t env) s = .next (((s.tickTo t).gotPacket p data.length).fabServe p h (((s.tickTo t).gotPacket p data.length).inbound p h true data) env)) ∧
    (∀ (p : Nat) (h : FabHead) (status : Nat), exec (.fabWra p h status) s = .next (s.fabArrive p Pkt.WRA h [] fun s => s.fabDone h status [])) ∧
    (∀ (p : Nat) (h : FabHead) (status : Nat), p < 4 → s.portUp p = true → (s.gotPacket p 0).answersFabric = true → (s.gotPacket p 0).hasId = true → h.dst = (s.gotPacket p 0).nodeId → exec (.fabWra p h status) s = .next ((s.gotPacket p 0).fabDone h status [])) ∧
    (∀ (p : Nat) (h : FabHead) (t : Nat), exec (.tktReq p h t) s = .next (
      (s.tickTo t).fabArrive p Pkt.TKT_REQ h [] fun s =>
      let a := s.inbound p h true []
      match officeOf h.addr with
      | none => s.fabAnswer (headBack h p) Pkt.TKT_ANS 0 false [TkCode.NOT_REQUIRED, 0] 0
      | some k =>
        if 24 ≤ k then s.fabAnswer (headBack h p) Pkt.TKT_ANS 0 false [TkCode.NOT_REQUIRED, 0] 0
        else if s.officeHolds k then { s with held := s.held ++ [.ticket k a (h.addr - tkBase k) h.len (.fabric (headBack h p))] }
        else
          let r := s.ticketRequest k a (h.addr - tkBase k) h.len false
          r.2.2.fabAnswer (headBack h p) Pkt.TKT_ANS 0 false [r.1, r.2.1] 0)) ∧
    (∀ (p : Nat) (h : FabHead) (t : Nat) (k : Nat), p < 4 → (s.tickTo t).portUp p = true → ((s.tickTo t).gotPacket p 0).answersFabric = true → ((s.tickTo t).gotPacket p 0).hasId = true → h.dst = ((s.tickTo t).gotPacket p 0).nodeId → officeOf h.addr = some k → k < 24 → ((s.tickTo t).gotPacket p 0).officeHolds k = false → exec (.tktReq p h t) s = .next (
      let r := ((s.tickTo t).gotPacket p 0).ticketRequest k (((s.tickTo t).gotPacket p 0).inbound p h true []) (h.addr - tkBase k) h.len false
      r.2.2.fabAnswer (headBack h p) Pkt.TKT_ANS 0 false [r.1, r.2.1] 0)) ∧
    (∀ (p : Nat) (h : FabHead) (t : Nat), p < 4 → (s.tickTo t).portUp p = true → ((s.tickTo t).gotPacket p 0).answersFabric = true → ((s.tickTo t).gotPacket p 0).hasId = true → h.dst = ((s.tickTo t).gotPacket p 0).nodeId → officeOf h.addr = none → exec (.tktReq p h t) s = .next (((s.tickTo t).gotPacket p 0).fabAnswer (headBack h p) Pkt.TKT_ANS 0 false [TkCode.NOT_REQUIRED, 0] 0)) ∧
    (∀ (p : Nat) (h : FabHead) (code tag : Nat), exec (.tktAns p h code tag) s = .next (
      s.fabArrive p Pkt.TKT_ANS h [] fun s =>
      match s.openReq h.src h.tag with
      | none => s
      | some r => if r.ticket then (s.closeReq r.port r.tag).ticketAnswered r code tag else s)) ∧
    (∀ (p : Nat) (h : FabHead) (code tag : Nat) (r : FabReq), p < 4 → s.portUp p = true → (s.gotPacket p 0).answersFabric = true → (s.gotPacket p 0).hasId = true → h.dst = (s.gotPacket p 0).nodeId → (s.gotPacket p 0).openReq h.src h.tag = some r → r.ticket = true → exec (.tktAns p h code tag) s = .next (((s.gotPacket p 0).closeReq r.port r.tag).ticketAnswered r code tag)) ∧
    (∀ (p : Nat) (h : FabHead) (t : Nat), exec (.tktRet p h t) s = .next (
      (s.tickTo t).fabArrive p Pkt.TKT_RET h [] fun s =>
      match officeOf h.addr with
      | some k => if k < 24 then s.returnTicket k (h.tkt.getD 0) (reqCode (.rlink p)) (headVia h) else s
      | none => s)) ∧
    (∀ (p : Nat) (h : FabHead) (t : Nat) (k : Nat), p < 4 → (s.tickTo t).portUp p = true → ((s.tickTo t).gotPacket p 0).answersFabric = true → ((s.tickTo t).gotPacket p 0).hasId = true → h.dst = ((s.tickTo t).gotPacket p 0).nodeId → officeOf h.addr = some k → k < 24 → exec (.tktRet p h t) s = .next (((s.tickTo t).gotPacket p 0).returnTicket k (h.tkt.getD 0) (reqCode (.rlink p)) (headVia h)))

/-- Each packet arrives with the clocks run to its base tick, where it names one, on a port that is up. A probe is answered NOT_READY, sent on
along its path, takes the port out of a fabric of another root, or is answered with the identity of the node, which drops the tables of
another root. An identity is taken at a root that awaits it, the node, its ID and its link joining the map or the 64 IDs being used up,
and otherwise passed back. With no ID left the event shows and the next port is probed. At any node but the root it is passed back. A
NOT_READY is taken at a root that awaits it, deferring or excluding the port, and otherwise passed back. A HINT other than 255 defers the
port. An ASSIGN is answered NOT_READY, sent on along its path, or held at a node that has no ID or is of that root. A COMMIT is answered
NOT_READY, sent on along its path, or applies the ASSIGN of its root that is held. A LINK_EVENT is answered NOT_READY, makes the root
discover again, or is sent on towards it. From spec/22_rinjo_fabric_cascade.md. -/
def Obligations.FabricDiscoveryCommands : Prop :=
  ∀ s : State,
    (∀ (p rootUid fromUid : Nat) (path : List Nat) (t : Nat), (s.tickTo t).portUp p = true → exec (.fabProbe p rootUid fromUid path t) s = .next (
      let s := s.tickTo t
      let s := s.gotPacket p 16
      if !s.answersFabric then s.sendPacket p Pkt.NOT_READY s.notReadyBody 16
      else if path ≠ [] then s.passOn p Pkt.PROBE path [rootUid]
      else if s.isRoot && decide (rootUid ≠ s.uid) then (s.setLstate p 4).evt (pageAddr Blk.RLINK p) 2
      else
        let s := if s.hasId && !s.isRoot && decide (s.fab.root ≠ some rootUid) then s.dropTables else s
        s.sendPacket p Pkt.IDENTIFY [s.uid, s.rd Reg.SYS_DEV_ID, s.linksUp, s.rd Reg.CASC_CTL, fromUid, p] 32)) ∧
    (∀ (p uid dev links casc nbrPort : Nat), s.portUp p = true → exec (.identify p uid dev links casc nbrPort) s = .next (
      let s := s.gotPacket p 32
      match s.isRoot, s.fab.disc with
      | true, some d => match d.cur with
        | none => s
        | some q =>
          let d := { d with done := q :: d.done, cur := none }
          match s.idFor uid with
          | none => (s.evt (pageAddr Blk.RLINK 0) 10).probeNext d
          | some id =>
            let s := { s with fab := { s.fab with ids := if s.fab.ids.any fun e => e.1 == uid then s.fab.ids else (uid, id) :: s.fab.ids } }
            let from' := (d.found.find? fun n => n.id == q.1).getD ⟨0, 0, 0, 0, 0, 0, []⟩
            let d := { d with links := d.links ++ [(⟨q.1, q.2, id, nbrPort⟩ : FabLink)] }
            if d.found.any fun n => n.id == id then s.probeNext d
            else s.probeNext { d with found := d.found ++ [(⟨uid, id, dev, links, casc, from'.hops + 1, from'.path ++ [q.2]⟩ : FabNode)] }
      | _, _ => s.passBack p Pkt.IDENTIFY [uid, dev, links, casc, nbrPort])) ∧
    (∀ (p uid dev links casc nbrPort : Nat) (d : Disc) (q : Nat × Nat), s.portUp p = true → (s.gotPacket p 32).isRoot = true → (s.gotPacket p 32).fab.disc = some d → d.cur = some q → (s.gotPacket p 32).idFor uid = none → exec (.identify p uid dev links casc nbrPort) s = .next (((s.gotPacket p 32).evt (pageAddr Blk.RLINK 0) 10).probeNext { d with done := q :: d.done, cur := none })) ∧
    (∀ (p uid dev links casc nbrPort : Nat), s.portUp p = true → (s.gotPacket p 32).isRoot = false → exec (.identify p uid dev links casc nbrPort) s = .next ((s.gotPacket p 32).passBack p Pkt.IDENTIFY [uid, dev, links, casc, nbrPort])) ∧
    (∀ (p hint : Nat), s.portUp p = true → exec (.notReady p hint) s = .next (
      let s := s.gotPacket p 16
      match s.isRoot, s.fab.disc with
      | true, some d => match d.cur with
        | none => s
        | some q =>
          if hint = 255 then s.probeNext { d with done := q :: d.done, cur := none }
          else s.probeNext { d with deferred := d.deferred ++ [(⟨q.1, q.2, s.clk.base + 400000 * hint⟩ : Deferred)], cur := none }
      | _, _ => s.passBack p Pkt.NOT_READY [hint])) ∧
    (∀ (p hint : Nat) (d : Disc) (q : Nat × Nat), s.portUp p = true → (s.gotPacket p 16).isRoot = true → (s.gotPacket p 16).fab.disc = some d → d.cur = some q → hint ≠ 255 → exec (.notReady p hint) s = .next ((s.gotPacket p 16).probeNext { d with deferred := d.deferred ++ [(⟨q.1, q.2, (s.gotPacket p 16).clk.base + 400000 * hint⟩ : Deferred)], cur := none })) ∧
    (∀ (p rootUid node role slot master : Nat) (table : List FabEntry) (nbrs : List (Option Nat)) (path : List Nat) (t : Nat), (s.tickTo t).portUp p = true → exec (.assign p rootUid node role slot master table nbrs path t) s = .next (
      let s := s.tickTo t
      let s := s.gotPacket p 128
      if !s.answersFabric then s.sendPacket p Pkt.NOT_READY s.notReadyBody 16
      else if path ≠ [] then s.passOn p Pkt.ASSIGN path [rootUid, node, role, slot, master]
      else if s.isRoot then s
      else if !s.hasId || decide (s.fab.root = some rootUid) then
        { s with fab := { s.fab with assigned := some ⟨node, role, slot, master, table, nbrs⟩, root := some rootUid } }
      else s)) ∧
    (∀ (p rootUid : Nat) (path : List Nat) (t : Nat), (s.tickTo t).portUp p = true → exec (.fabCommit p rootUid path t) s = .next (
      let s := s.tickTo t
      let s := s.gotPacket p 0
      if !s.answersFabric then s.sendPacket p Pkt.NOT_READY s.notReadyBody 16
      else if path ≠ [] then s.passOn p Pkt.COMMIT path [rootUid]
      else match s.fab.assigned with
        | some a => if s.fab.root = some rootUid then s.commitTables a rootUid else s
        | none => s)) ∧
    (∀ (p node links t : Nat), (s.tickTo t).portUp p = true → exec (.linkEvent p node links t) s = .next (
      let s := s.tickTo t
      let s := s.gotPacket p 16
      if !s.answersFabric then s.sendPacket p Pkt.NOT_READY s.notReadyBody 16
      else if s.isRoot then s.rootHears
      else if s.hasId && s.portUp (s.routeTo 0) then s.sendPacket (s.routeTo 0) Pkt.LINK_EVENT [node, links] 16 else s))

/-- Each event takes place with the clocks run to its base tick, where it names one. A frame instant of a master that is not parking, from 10
µs after its COMMIT and 2 µs after the frame before, sends the frame and counts the marker as missing of each member. A frame at a member
that is not parking is an error where its length, CRC or sequence is wrong, and otherwise is followed, with the phase, the alignment and
the state it gives. One of a wrong length is counted as an error. The first one without error shows its phase and its sequence number and
time are kept. In its slot after a frame instant a member sends its marker. A marker at a master gives the delay of its member, half its
round trip less the turnaround. A member that has had no frame for 10 µs has lost its master: it shows it, counts it, is not aligned,
tells the island, and with the cascade on TIME holds over and the domains hold. Its state is then 4 and it is not aligned. From
spec/22_rinjo_fabric_cascade.md. -/
def Obligations.CascadeCommands : Prop :=
  ∀ s : State,
    (∀ (t : Nat), (s.tickTo t).released Blk.CASC = true → (s.tickTo t).cascRole = 1 → (s.tickTo t).park.stage < 2 → (s.tickTo t).casc.since + 4000 ≤ (s.tickTo t).clk.base → (s.tickTo t).casc.lastTx = 0 ∨ (s.tickTo t).casc.lastTx + 800 ≤ (s.tickTo t).clk.base → exec (.syncFrameTx t) s = .next (
      let s := s.tickTo t
      let s := s.emit (.casc 0 (s.cascFrame.map fun (b : Byte) => b.toNat))
      let s := s.each (List.range (min 3 s.cascMembers)) fun s k => s.missMarker k
      (s.setCasc fun c => { c with seq := (c.seq + 1) % 256, lastTx := s.clk.base }).masterAligned)) ∧
    (∀ (f : List Byte) (phase : Int) (within beyond locks : Bool) (t : Nat), (s.tickTo t).released Blk.CASC = true → (s.tickTo t).cascRole = 2 → (s.tickTo t).park.stage < 2 → exec (.syncFrameRx f phase within beyond locks t) s = .next (
      let s := s.tickTo t
      if f.length ≠ 71 || decide (frameFld f 69 2 ≠ crc16 (f.take 69))
             || s.casc.lastSeq.any fun q => decide (frameFld f 0 1 ≠ (q + 1) % 256) then s.cnt Reg.CASC_FRAME_ERR
         else
           let s := s.setCasc fun c => { c with lastSeq := some (frameFld f 0 1), lastRx := s.clk.base, taken := c.taken + 1, echo := some s.clk.base }
           let s := s.follow16 f locks
           let s := s.wrS Reg.CASC_PHASE_ERR phase
           let s := if !s.cascOn then s else if within then s.setAligned true else if beyond then s.setAligned false else s
           s.putF Reg.CASC_STAT 2 0 (if s.cascOn && (s.bit Reg.CASC_STAT 6 || decide (s.cascState = 3)) then 3 else 2))) ∧
    (∀ (f : List Byte) (phase : Int) (within beyond locks : Bool) (t : Nat), (s.tickTo t).released Blk.CASC = true → (s.tickTo t).cascRole = 2 → (s.tickTo t).park.stage < 2 → f.length ≠ 71 → exec (.syncFrameRx f phase within beyond locks t) s = .next ((s.tickTo t).cnt Reg.CASC_FRAME_ERR)) ∧
    (∀ (f : List Byte) (phase : Int) (within beyond locks : Bool) (t : Nat), (s.tickTo t).released Blk.CASC = true → (s.tickTo t).cascRole = 2 → (s.tickTo t).park.stage < 2 → f.length = 71 → frameFld f 69 2 = crc16 (f.take 69) → (s.tickTo t).casc.lastSeq = none → ∃ v, exec (.syncFrameRx f phase within beyond locks t) s = .next v ∧ v.rdS Reg.CASC_PHASE_ERR = clampS 32 phase ∧ v.casc.lastSeq = some (frameFld f 0 1) ∧ v.casc.lastRx = (s.tickTo t).clk.base) ∧
    (∀ (t : Nat) (b : Nat), (s.tickTo t).casc.echo = some b → (s.tickTo t).cascRole = 2 → b + 280 + 120 * (s.tickTo t).cascSlot ≤ (s.tickTo t).clk.base → exec (.echoMarkerTx t) s = .next (((s.tickTo t).emit (.casc 1 [(s.tickTo t).cascSlot])).setCasc fun c => { c with echo := none })) ∧
    (∀ (slot rt : Nat), s.released Blk.CASC = true → s.cascRole = 1 → 1 ≤ slot → slot ≤ 3 → exec (.echoMarkerRx slot rt) s = .next (
      ((s.wr (Reg.CASC_DLY slot) (min (rt / 2 - Config.turnaround) 0xFFFFFFFF)).setCasc fun c =>
        { c with miss := c.miss.set (slot - 1) 0 }).masterAligned)) ∧
    (∀ (t : Nat), (s.tickTo t).cascRole = 2 → (s.tickTo t).cascState = 2 ∨ (s.tickTo t).cascState = 3 → (s.tickTo t).casc.lastRx + 4000 ≤ (s.tickTo t).clk.base → exec (.masterLost t) s = .next (
      let s := s.tickTo t
      let on := s.cascOn
      let s := (s.putF Reg.CASC_STAT 2 0 4).cnt Reg.CASC_LOSS_CNT
      let s := ((s.evt cascPage 1).setAligned false).emit (.island Isl.FABRIC 16)
      let s := s.setCasc fun c => { c with lastSeq := none, taken := 0, echo := none, lost := true }
      if on then ((s.setTimeState 3).each (List.range 3) fun s d => s.domHold d s.clk.base).publish else s)) ∧
    (∀ (t : Nat), (s.tickTo t).cascRole = 2 → ((s.tickTo t).cascState = 2 ∨ (s.tickTo t).cascState = 3) → (s.tickTo t).casc.lastRx + 4000 ≤ (s.tickTo t).clk.base → ∃ v, exec (.masterLost t) s = .next v ∧ v.cascState = 4 ∧ v.bit Reg.CASC_STAT 6 = false)

/-- A heartwood write of PERTURB_CTL is the write of its fields. In any life cycle but CLOSED it stores them. In CLOSED one that would set
OPEN stores only bit 1 and is recorded. A write of PT_CTL of a page that passes its checks is the write of its fields. One with EN 0
stores them and the window follows. A stall pulse of an enabled window with stalls, its domain in P0, lasts STALL_LEN ns with the clocks
run to its base tick. A write of PT_FORCE with the type 1 configured is the force of its fields. With GO, a count and a type the page has,
it is armed. So with type 2. So it is. So with type 3. So it is, of a checker below 4. So with type 4. So it is. So with type 5. So it is,
with a count of 1. A write of PT_FORCE with CANCEL that passes its checks is that. It discards what remains. From spec/24_perturbation.md. -/
def Obligations.PerturbCommands : Prop :=
  ∀ s : State,
    (∀ (req : Requester) (value : Nat), s.verdict req Reg.PERTURB_CTL 4 true = .go → s.world req = true → exec (.perturbCtlWrite req value) s = .next ((s.respOk []).writePerturbCtl req value)) ∧
    (∀ (req : Requester) (value : Nat), s.verdict req (Reg.PERTURB_CTL) 4 true = .go → s.world req = true → s.getF Reg.SEC_LIFECYCLE 1 0 ≠ 2 → exec (.perturbCtlWrite req value) s = .next ((State.putF (s.respOk []) Reg.PERTURB_CTL 1 0 value).permitSync)) ∧
    (∀ (req : Requester) (value : Nat), s.verdict req (Reg.PERTURB_CTL) 4 true = .go → s.world req = true → s.getF Reg.SEC_LIFECYCLE 1 0 = 2 → value.testBit 0 = true → exec (.perturbCtlWrite req value) s = .next (((State.putBit (s.respOk []) Reg.PERTURB_CTL 1 (value.testBit 1)).quiet req Reg.PERTURB_CTL Cause.RESERVED_ENC).permitSync)) ∧
    (∀ (req : Requester) (code inst value : Nat), s.verdict req (Reg.PT_CTL (pageAddr code inst)) 4 true = .go → exec (.perturbEnable req code inst value) s = .next ((s.respOk []).writePtCtl (pageAddr code inst) value)) ∧
    (∀ (req : Requester) (code inst value : Nat), s.verdict req (Reg.PT_CTL (pageAddr code inst)) 4 true = .go → value.testBit 0 = false → exec (.perturbEnable req code inst value) s = .next ((State.putF (s.respOk []) (Reg.PT_CTL (pageAddr code inst)) 1 0 value).windowSync (pageAddr code inst))) ∧
    (∀ (code inst t : Nat), (s.tickTo t).bit (Reg.PT_CTL (pageAddr code inst)) 0 = true → (ptCap code).testBit 2 = true → (s.tickTo t).getF (Reg.PT_STALL_LEN (pageAddr code inst)) 15 0 ≠ 0 → (s.tickTo t).dom (domainOf code inst) = 0 → exec (.stallPulse code inst t) s = .next (
      let s := (s.tickTo t)
      let page := pageAddr code inst
      s.setShaker { s.shaker page with stallEnd := s.clk.base + (s.getF (Reg.PT_STALL_LEN page) 15 0 * 2 + 4) / 5 })) ∧
    (∀ (req : Requester) (code inst value : Nat), exec (.forceEcc1 req code inst value) s = .next (s.forceWrite req 1 code inst value)) ∧
    (∀ (req : Requester) (code inst value : Nat), s.verdict req (Reg.PT_FORCE (pageAddr code inst)) 4 true = .go → s.getF (Reg.PT_FORCE_CFG (pageAddr code inst)) 3 0 = 1 → value.testBit 30 = false → value.testBit 31 = true → forceKind 1 &&& ptCap (regCode (pageAddr code inst)) ≠ 0 → fld value 15 0 ≠ 0 → exec (.forceEcc1 req code inst value) s = .next ((State.putF { (s.respOk []) with injects := ⟨pageAddr code inst, s.rd (Reg.PT_FORCE_CFG (pageAddr code inst)), s.rd (Reg.PT_FORCE_ADDR_LO (pageAddr code inst)) + 2 ^ 32 * s.getF (Reg.PT_FORCE_ADDR_HI (pageAddr code inst)) 15 0⟩ :: s.injects.filter fun j => j.page != pageAddr code inst } (Reg.PT_STAT (pageAddr code inst)) 15 0 (fld value 15 0)).windowSync (pageAddr code inst))) ∧
    (∀ (req : Requester) (code inst value : Nat), exec (.forceEcc2 req code inst value) s = .next (s.forceWrite req 2 code inst value)) ∧
    (∀ (req : Requester) (code inst value : Nat), s.verdict req (Reg.PT_FORCE (pageAddr code inst)) 4 true = .go → s.getF (Reg.PT_FORCE_CFG (pageAddr code inst)) 3 0 = 2 → value.testBit 30 = false → value.testBit 31 = true → forceKind 2 &&& ptCap (regCode (pageAddr code inst)) ≠ 0 → fld value 15 0 ≠ 0 → exec (.forceEcc2 req code inst value) s = .next ((State.putF { (s.respOk []) with injects := ⟨pageAddr code inst, s.rd (Reg.PT_FORCE_CFG (pageAddr code inst)), s.rd (Reg.PT_FORCE_ADDR_LO (pageAddr code inst)) + 2 ^ 32 * s.getF (Reg.PT_FORCE_ADDR_HI (pageAddr code inst)) 15 0⟩ :: s.injects.filter fun j => j.page != pageAddr code inst } (Reg.PT_STAT (pageAddr code inst)) 15 0 (fld value 15 0)).windowSync (pageAddr code inst))) ∧
    (∀ (req : Requester) (code inst value : Nat), exec (.forceChk req code inst value) s = .next (s.forceWrite req 3 code inst value)) ∧
    (∀ (req : Requester) (code inst value : Nat), s.verdict req (Reg.PT_FORCE (pageAddr code inst)) 4 true = .go → s.getF (Reg.PT_FORCE_CFG (pageAddr code inst)) 3 0 = 3 → value.testBit 30 = false → value.testBit 31 = true → forceKind 3 &&& ptCap (regCode (pageAddr code inst)) ≠ 0 → fld value 15 0 ≠ 0 → s.getF (Reg.PT_FORCE_CFG (pageAddr code inst)) 7 4 < 4 → exec (.forceChk req code inst value) s = .next ((State.putF { (s.respOk []) with injects := ⟨pageAddr code inst, s.rd (Reg.PT_FORCE_CFG (pageAddr code inst)), s.rd (Reg.PT_FORCE_ADDR_LO (pageAddr code inst)) + 2 ^ 32 * s.getF (Reg.PT_FORCE_ADDR_HI (pageAddr code inst)) 15 0⟩ :: s.injects.filter fun j => j.page != pageAddr code inst } (Reg.PT_STAT (pageAddr code inst)) 15 0 (fld value 15 0)).windowSync (pageAddr code inst))) ∧
    (∀ (req : Requester) (code inst value : Nat), exec (.forceTkt req code inst value) s = .next (s.forceWrite req 4 code inst value)) ∧
    (∀ (req : Requester) (code inst value : Nat), s.verdict req (Reg.PT_FORCE (pageAddr code inst)) 4 true = .go → s.getF (Reg.PT_FORCE_CFG (pageAddr code inst)) 3 0 = 4 → value.testBit 30 = false → value.testBit 31 = true → forceKind 4 &&& ptCap (regCode (pageAddr code inst)) ≠ 0 → fld value 15 0 ≠ 0 → exec (.forceTkt req code inst value) s = .next ((State.putF { (s.respOk []) with injects := ⟨pageAddr code inst, s.rd (Reg.PT_FORCE_CFG (pageAddr code inst)), s.rd (Reg.PT_FORCE_ADDR_LO (pageAddr code inst)) + 2 ^ 32 * s.getF (Reg.PT_FORCE_ADDR_HI (pageAddr code inst)) 15 0⟩ :: s.injects.filter fun j => j.page != pageAddr code inst } (Reg.PT_STAT (pageAddr code inst)) 15 0 (fld value 15 0)).windowSync (pageAddr code inst))) ∧
    (∀ (req : Requester) (code inst value : Nat), exec (.forceDetect req code inst value) s = .next (s.forceWrite req 5 code inst value)) ∧
    (∀ (req : Requester) (code inst value : Nat), s.verdict req (Reg.PT_FORCE (pageAddr code inst)) 4 true = .go → s.getF (Reg.PT_FORCE_CFG (pageAddr code inst)) 3 0 = 5 → value.testBit 30 = false → value.testBit 31 = true → forceKind 5 &&& ptCap (regCode (pageAddr code inst)) ≠ 0 → fld value 15 0 ≠ 0 → fld value 15 0 = 1 → exec (.forceDetect req code inst value) s = .next ((State.putF { (s.respOk []) with injects := ⟨pageAddr code inst, s.rd (Reg.PT_FORCE_CFG (pageAddr code inst)), s.rd (Reg.PT_FORCE_ADDR_LO (pageAddr code inst)) + 2 ^ 32 * s.getF (Reg.PT_FORCE_ADDR_HI (pageAddr code inst)) 15 0⟩ :: s.injects.filter fun j => j.page != pageAddr code inst } (Reg.PT_STAT (pageAddr code inst)) 15 0 (fld value 15 0)).windowSync (pageAddr code inst))) ∧
    (∀ (req : Requester) (code inst : Nat), s.verdict req (Reg.PT_FORCE (pageAddr code inst)) 4 true = .go → exec (.forceCancel req code inst) s = .next ((s.respOk []).writeForce req (pageAddr code inst) (2 ^ 30))) ∧
    (∀ (req : Requester) (code inst : Nat), s.verdict req (Reg.PT_FORCE (pageAddr code inst)) 4 true = .go → exec (.forceCancel req code inst) s = .next ((State.putF { (s.respOk []) with injects := s.injects.filter fun j => j.page != pageAddr code inst } (Reg.PT_STAT (pageAddr code inst)) 15 0 0).windowSync (pageAddr code inst)))
end

