-- ==== Sys2Proof/Laws/Keeps.lean ====
section
/-! SUPPORT. What every operation of the block respects: the canonical form of the sparse maps, the sizes of the instance lists, the
queue, and that the clock, the free values and the outputs only go forward. One lemma per field and per primitive operation. -/

namespace Sys2Proof.Machine

/-! ## Sparse maps -/

section maps
variable {α : Type} [DecidableEq α] {d : Nat → α}

/-- Every listed key is above a bound. -/
def above (k : Nat) (m : List (Nat × α)) : Prop := ∀ e ∈ m, k < e.1

theorem swf_cons_iff {k : Nat} {v : α} {m : List (Nat × α)} :
    swf d ((k, v) :: m) = true ↔ v ≠ d k ∧ above k m ∧ swf d m = true := by
  induction m generalizing k v with
  | nil => simp [swf, above]
  | cons e t ih =>
    obtain ⟨k', v'⟩ := e
    constructor
    · intro h
      simp only [swf, Bool.and_eq_true, decide_eq_true_eq] at h
      refine ⟨h.1.2, ?_, h.2⟩
      intro e he
      rcases List.mem_cons.mp he with rfl | he
      · exact h.1.1
      · exact Nat.lt_trans h.1.1 ((ih.mp h.2).2.1 e he)
    · rintro ⟨a, b, c⟩
      simp only [swf, Bool.and_eq_true, decide_eq_true_eq]
      exact ⟨⟨b (k', v') (by simp), a⟩, c⟩

omit [DecidableEq α] in
theorem above_sins {k b : Nat} {v : α} {m : List (Nat × α)} (h : above b m) (hb : b < k) : above b (sins k v m) := by
  induction m with
  | nil => intro e he; simp only [sins, List.mem_singleton] at he; subst he; exact hb
  | cons e t ih =>
    have ht : above b t := fun e he => h e (List.mem_cons_of_mem _ he)
    intro x hx
    simp only [sins] at hx
    split at hx
    · rcases List.mem_cons.mp hx with rfl | hx
      · exact hb
      · exact h x hx
    · split at hx
      · rcases List.mem_cons.mp hx with rfl | hx
        · exact hb
        · exact ht x hx
      · rcases List.mem_cons.mp hx with rfl | hx
        · exact h _ (by simp)
        · exact ih ht x hx

theorem swf_sins {k : Nat} {v : α} {m : List (Nat × α)} (h : swf d m = true) (hv : v ≠ d k) : swf d (sins k v m) = true := by
  induction m with
  | nil => simp [sins, swf, hv]
  | cons e t ih =>
    obtain ⟨k', v'⟩ := e
    have q := swf_cons_iff.mp h
    simp only [sins]
    split
    · refine swf_cons_iff.mpr ⟨hv, ?_, h⟩
      intro e he
      rcases List.mem_cons.mp he with rfl | he
      · assumption
      · exact Nat.lt_trans ‹k < k'› (q.2.1 e he)
    · split
      · subst k'
        exact swf_cons_iff.mpr ⟨hv, q.2.1, q.2.2⟩
      · exact swf_cons_iff.mpr ⟨q.1, above_sins q.2.1 (by omega), ih q.2.2⟩

theorem swf_filter {p : Nat × α → Bool} {m : List (Nat × α)} (h : swf d m = true) : swf d (m.filter p) = true := by
  induction m with
  | nil => simpa using h
  | cons e t ih =>
    obtain ⟨k, v⟩ := e
    have q := swf_cons_iff.mp h
    rw [List.filter_cons]
    split
    · exact swf_cons_iff.mpr ⟨q.1, fun e he => q.2.1 e (List.mem_of_mem_filter he), ih q.2.2⟩
    · exact ih q.2.2

theorem swf_sput {k : Nat} {v : α} {m : List (Nat × α)} (h : swf d m = true) : swf d (sput d m k v) = true := by
  unfold sput
  split
  · exact swf_filter h
  · exact swf_sins h ‹_›

omit [DecidableEq α] in
theorem sget_sins {k a : Nat} {v : α} {m : List (Nat × α)} : sget d (sins k v m) a = if k = a then v else sget d m a := by
  induction m with
  | nil => simp [sins, sget]
  | cons e t ih =>
    obtain ⟨k', v'⟩ := e
    simp only [sins]
    split
    · simp [sget]
    · split
      · subst k'; by_cases h : k = a <;> simp [sget, h]
      · by_cases h : k = a
        · subst h
          have : ¬ k' = k := fun e => ‹¬ k = k'› e.symm
          simp [sget, ih, this]
        · simp [sget, ih, h]

omit [DecidableEq α] in
theorem sget_sdel {k a : Nat} {m : List (Nat × α)} : sget d (sdel k m) a = if k = a then d a else sget d m a := by
  induction m with
  | nil => simp [sdel, sget]
  | cons e t ih =>
    obtain ⟨k', v'⟩ := e
    unfold sdel at ih ⊢
    by_cases h : k' = k
    · subst k'
      by_cases h2 : k = a
      · subst h2; simpa [List.filter_cons] using ih
      · simpa [List.filter_cons, sget, h2] using ih
    · by_cases h2 : k = a
      · subst h2; simpa [List.filter_cons, sget, h] using ih
      · simp only [h2, if_false] at ih ⊢
        have e : decide (¬ k' = k) = true := by simpa using h
        simp only [List.filter_cons, ne_eq, e, if_true, sget]
        split
        · rfl
        · exact ih

/-- A read after a write: the written value at its key, the old value elsewhere. -/
theorem sget_sput {k a : Nat} {v : α} {m : List (Nat × α)} : sget d (sput d m k v) a = if k = a then v else sget d m a := by
  unfold sput
  split
  · rw [sget_sdel]; split
    · subst a; exact ‹v = d k›.symm
    · rfl
  · exact sget_sins

end maps

theorem swf_iff {α : Type} [DecidableEq α] {d : Nat → α} {m : List (Nat × α)} :
    swf d m = true ↔ m.Pairwise (fun x y => x.1 < y.1) ∧ ∀ e ∈ m, e.2 ≠ d e.1 := by
  induction m with
  | nil => simp [swf]
  | cons e t ih =>
    rw [swf_cons_iff (k := e.1) (v := e.2), ih, List.pairwise_cons, List.forall_mem_cons]
    exact ⟨fun ⟨a, b, c, d⟩ => ⟨⟨b, c⟩, a, d⟩, fun ⟨⟨b, c⟩, a, d⟩ => ⟨a, b, c, d⟩⟩

/-- Two neighbouring ranges of `h` bytes from `a` on swap places in a canonical map. -/
theorem swf_swap {m : List Host.Cell} {a h b : Nat} (hb : b = h + h) (hm : swf memDefault m = true) :
    swf memDefault ((m.filter fun e => decide (e.1 < a))
      ++ ((m.filter fun e => decide (a + h ≤ e.1) && decide (e.1 < a + b)).map fun e => (e.1 - h, e.2))
      ++ ((m.filter fun e => decide (a ≤ e.1) && decide (e.1 < a + h)).map fun e => (e.1 + h, e.2))
      ++ m.filter fun e => decide (a + b ≤ e.1)) = true := by
  obtain ⟨p, q⟩ := swf_iff.mp hm
  refine swf_iff.mpr ⟨?_, ?_⟩
  · simp only [List.pairwise_append, List.pairwise_map, List.mem_append, List.mem_map, List.mem_filter, Bool.and_eq_true,
      decide_eq_true_eq]
    refine ⟨⟨⟨p.filter _, (p.filter _).imp_of_mem ?_, ?_⟩, (p.filter _).imp ?_, ?_⟩, p.filter _, ?_⟩
    · intro x y hx hy g; simp only [List.mem_filter, Bool.and_eq_true, decide_eq_true_eq] at hx hy; omega
    · rintro x hx y ⟨z, hz, rfl⟩; omega
    · intro x y g; exact Nat.add_lt_add_right g _
    · rintro x (hx | ⟨w, hw, rfl⟩) y ⟨z, hz, rfl⟩ <;> omega
    · rintro x ((hx | ⟨w, hw, rfl⟩) | ⟨w, hw, rfl⟩) y hy <;> omega
  · intro e he
    simp only [List.mem_append, List.mem_map, List.mem_filter] at he
    rcases he with ((he | ⟨w, hw, rfl⟩) | ⟨w, hw, rfl⟩) | he
    · exact q e he.1
    · simpa only [memDefault] using q w hw.1
    · simpa only [memDefault] using q w hw.1
    · exact q e he.1

/-- The two sets of a coefficient memory swap places in a canonical map (R577). -/
theorem swf_swapSets {m : List Host.Cell} {a : Nat} (h : swf memDefault m = true) : swf memDefault (swapSets a m) = true :=
  swf_swap (by decide) h

theorem swf_putBytes {m : List Host.Cell} {a : Nat} {l : List Byte} (h : swf memDefault m = true) :
    swf memDefault (putBytes m a l) = true := by
  induction l generalizing m a with
  | nil => exact h
  | cons b t ih => exact ih (swf_sput h)

/-! ## What every operation keeps -/

/-- From `s` to `t`: canonical maps stay canonical, the instance lists keep their sizes, the queue is the same, and clock, free values
and outputs go forward only. With `pm`, `pi`, `pf`, `pk` true the memory, the inner memories, the fuses and the key slots are the same. -/
structure Keeps (pm pi pf pk : Bool) (s t : State) : Prop where
  wf : s.wf = true → t.wf = true
  sized : s.Sized → t.Sized
  pending : t.pending = s.pending
  base : s.clk.base ≤ t.clk.base
  free : s.free ≤ t.free
  out : s.out <+: t.out
  mem : pm = true → t.mem = s.mem
  inner : pi = true → t.inner = s.inner
  fuse : pf = true → t.fuse = s.fuse
  keys : pk = true → t.keys = s.keys

variable {pm pi pf pk : Bool}

theorem Keeps.refl (s : State) : Keeps pm pi pf pk s s := 
  ⟨id, id, rfl, Nat.le_refl _, Nat.le_refl _, List.prefix_rfl, fun _ => rfl, fun _ => rfl, fun _ => rfl, fun _ => rfl⟩

theorem Keeps.trans {s t u : State} (h : Keeps pm pi pf pk s t) (g : Keeps pm pi pf pk t u) : Keeps pm pi pf pk s u :=
  ⟨g.wf ∘ h.wf, g.sized ∘ h.sized, g.pending.trans h.pending, h.base.trans g.base, h.free.trans g.free, h.out.trans g.out,
    fun e => (g.mem e).trans (h.mem e), fun e => (g.inner e).trans (h.inner e), fun e => (g.fuse e).trans (h.fuse e),
    fun e => (g.keys e).trans (h.keys e)⟩

theorem Keeps.ite {s t u : State} {c : Prop} [Decidable c] (h : Keeps pm pi pf pk s t) (g : Keeps pm pi pf pk s u) : Keeps pm pi pf pk s (if c then t else u) := by
  split <;> assumption

theorem Keeps.ite2 {α : Type} {s : State} {c : Prop} [Decidable c] {x y : α × State} (h : Keeps pm pi pf pk s x.2) (g : Keeps pm pi pf pk s y.2) :
    Keeps pm pi pf pk s (if c then x else y).2 := by
  split <;> assumption

theorem Keeps.ite3 {α β : Type} {s : State} {c : Prop} [Decidable c] {x y : α × β × State} (h : Keeps pm pi pf pk s x.2.2) (g : Keeps pm pi pf pk s y.2.2) :
    Keeps pm pi pf pk s (if c then x else y).2.2 := by
  split <;> assumption

theorem Keeps.bif {s t u : State} {c : Bool} (h : Keeps pm pi pf pk s t) (g : Keeps pm pi pf pk s u) : Keeps pm pi pf pk s (bif c then t else u) := by
  cases c <;> assumption

theorem Keeps.with_resp {s t : State} {x : Resp} (h : Keeps pm pi pf pk s t) : Keeps pm pi pf pk s { t with resp := x } :=
  ⟨h.wf, fun g => have q := h.sized g; { q with }, h.pending, h.base, h.free, h.out, h.mem, h.inner, h.fuse, h.keys⟩
theorem Keeps.with_fuse {s t : State} {x : Fuses} (h : Keeps pm pi false pk s t) : Keeps pm pi false pk s { t with fuse := x } :=
  ⟨h.wf, fun g => have q := h.sized g; { q with }, h.pending, h.base, h.free, h.out, h.mem, h.inner, nofun, h.keys⟩
theorem Keeps.with_boot {s t : State} {x : Boot} (h : Keeps pm pi pf pk s t) (hslot : t.boot.slot.length = 3 → x.slot.length = 3) : Keeps pm pi pf pk s { t with boot := x } :=
  ⟨h.wf, fun g => have q := h.sized g; { q with boot_slot := hslot q.boot_slot }, h.pending, h.base, h.free, h.out, h.mem, h.inner, h.fuse, h.keys⟩
theorem Keeps.with_injects {s t : State} {x : List Inject} (h : Keeps pm pi pf pk s t) : Keeps pm pi pf pk s { t with injects := x } :=
  ⟨h.wf, fun g => have q := h.sized g; { q with }, h.pending, h.base, h.free, h.out, h.mem, h.inner, h.fuse, h.keys⟩
theorem Keeps.with_shakers {s t : State} {x : List Shaker} (h : Keeps pm pi pf pk s t) : Keeps pm pi pf pk s { t with shakers := x } :=
  ⟨h.wf, fun g => have q := h.sized g; { q with }, h.pending, h.base, h.free, h.out, h.mem, h.inner, h.fuse, h.keys⟩
theorem Keeps.with_held {s t : State} {x : List Held} (h : Keeps pm pi pf pk s t) : Keeps pm pi pf pk s { t with held := x } :=
  ⟨h.wf, fun g => have q := h.sized g; { q with }, h.pending, h.base, h.free, h.out, h.mem, h.inner, h.fuse, h.keys⟩
theorem Keeps.with_offices {s t : State} {x : List Office} (h : Keeps pm pi pf pk s t) (hx : t.offices.length = 24 → x.length = 24) : Keeps pm pi pf pk s { t with offices := x } :=
  ⟨h.wf, fun g => have q := h.sized g; { q with offices := hx q.offices }, h.pending, h.base, h.free, h.out, h.mem, h.inner, h.fuse, h.keys⟩
theorem Keeps.with_mops {s t : State} {x : List (List MemOp)} (h : Keeps pm pi pf pk s t) (hx : t.mops.length = 16 → x.length = 16) : Keeps pm pi pf pk s { t with mops := x } :=
  ⟨h.wf, fun g => have q := h.sized g; { q with mops := hx q.mops }, h.pending, h.base, h.free, h.out, h.mem, h.inner, h.fuse, h.keys⟩
theorem Keeps.with_leaving {s t : State} {x : List Nat} (h : Keeps pm pi pf pk s t) : Keeps pm pi pf pk s { t with leaving := x } :=
  ⟨h.wf, fun g => have q := h.sized g; { q with }, h.pending, h.base, h.free, h.out, h.mem, h.inner, h.fuse, h.keys⟩
theorem Keeps.with_dmcs {s t : State} {x : List Dmc} (h : Keeps pm pi pf pk s t) (hx : t.dmcs.length = 4 → x.length = 4) : Keeps pm pi pf pk s { t with dmcs := x } :=
  ⟨h.wf, fun g => have q := h.sized g; { q with dmcs := hx q.dmcs }, h.pending, h.base, h.free, h.out, h.mem, h.inner, h.fuse, h.keys⟩
theorem Keeps.with_grid {s t : State} {x : Grid} (h : Keeps pm pi pf pk s t) (hnext : t.grid.next.length = 4 → x.next.length = 4) (hannounced : t.grid.announced.length = 4 → x.announced.length = 4) : Keeps pm pi pf pk s { t with grid := x } :=
  ⟨h.wf, fun g => have q := h.sized g; { q with grid_next := hnext q.grid_next, grid_announced := hannounced q.grid_announced }, h.pending, h.base, h.free, h.out, h.mem, h.inner, h.fuse, h.keys⟩
theorem Keeps.with_poison {s t : State} {x : List Nat} (h : Keeps pm pi pf pk s t) : Keeps pm pi pf pk s { t with poison := x } :=
  ⟨h.wf, fun g => have q := h.sized g; { q with }, h.pending, h.base, h.free, h.out, h.mem, h.inner, h.fuse, h.keys⟩
theorem Keeps.with_fab {s t : State} {x : Fab} (h : Keeps pm pi pf pk s t) (hretrains : t.fab.retrains.length = 4 → x.retrains.length = 4) (hlastUse : t.fab.lastUse.length = 4 → x.lastUse.length = 4) : Keeps pm pi pf pk s { t with fab := x } :=
  ⟨h.wf, fun g => have q := h.sized g; { q with fab_retrains := hretrains q.fab_retrains, fab_lastUse := hlastUse q.fab_lastUse }, h.pending, h.base, h.free, h.out, h.mem, h.inner, h.fuse, h.keys⟩
theorem Keeps.with_ang {s t : State} {x : Ang} (h : Keeps pm pi pf pk s t) (hsrcs : t.ang.srcs.length = 7 → x.srcs.length = 7) (hdoms : t.ang.doms.length = 3 → x.doms.length = 3) : Keeps pm pi pf pk s { t with ang := x } :=
  ⟨h.wf, fun g => have q := h.sized g; { q with ang_srcs := hsrcs q.ang_srcs, ang_doms := hdoms q.ang_doms }, h.pending, h.base, h.free, h.out, h.mem, h.inner, h.fuse, h.keys⟩
theorem Keeps.with_harts {s t : State} {x : List Hart} (h : Keeps pm pi pf pk s t) (hx : t.harts.length = 12 → x.length = 12) : Keeps pm pi pf pk s { t with harts := x } :=
  ⟨h.wf, fun g => have q := h.sized g; { q with harts := hx q.harts }, h.pending, h.base, h.free, h.out, h.mem, h.inner, h.fuse, h.keys⟩
theorem Keeps.with_dbg {s t : State} {x : Dbg} (h : Keeps pm pi pf pk s t) (hpairHalted : t.dbg.pairHalted.length = 2 → x.pairHalted.length = 2) : Keeps pm pi pf pk s { t with dbg := x } :=
  ⟨h.wf, fun g => have q := h.sized g; { q with dbg_pairHalted := hpairHalted q.dbg_pairHalted }, h.pending, h.base, h.free, h.out, h.mem, h.inner, h.fuse, h.keys⟩
theorem Keeps.with_keys {s t : State} {x : List (List Byte)} (h : Keeps pm pi pf false s t) (hx : t.keys.length = 16 → x.length = 16) : Keeps pm pi pf false s { t with keys := x } :=
  ⟨h.wf, fun g => have q := h.sized g; { q with keys := hx q.keys }, h.pending, h.base, h.free, h.out, h.mem, h.inner, h.fuse, nofun⟩
theorem Keeps.with_park {s t : State} {x : Park} (h : Keeps pm pi pf pk s t) : Keeps pm pi pf pk s { t with park := x } :=
  ⟨h.wf, fun g => have q := h.sized g; { q with }, h.pending, h.base, h.free, h.out, h.mem, h.inner, h.fuse, h.keys⟩
theorem Keeps.with_ledger {s t : State} {x : Ledger} (h : Keeps pm pi pf pk s t) (hlevel : t.ledger.level.length = 16 → x.level.length = 16) (henergy : t.ledger.energy.length = 16 → x.energy.length = 16)
    (hshares : t.ledger.shares.length = 16 → x.shares.length = 16) : Keeps pm pi pf pk s { t with ledger := x } :=
  ⟨h.wf, fun g => have q := h.sized g; { q with ledger_level := hlevel q.ledger_level, ledger_energy := henergy q.ledger_energy, ledger_shares := hshares q.ledger_shares }, h.pending, h.base, h.free, h.out, h.mem, h.inner, h.fuse, h.keys⟩
theorem Keeps.with_therm {s t : State} {x : Therm} (h : Keeps pm pi pf pk s t) (hsensors : t.therm.sensors.length = 24 → x.sensors.length = 24) : Keeps pm pi pf pk s { t with therm := x } :=
  ⟨h.wf, fun g => have q := h.sized g; { q with therm_sensors := hsensors q.therm_sensors }, h.pending, h.base, h.free, h.out, h.mem, h.inner, h.fuse, h.keys⟩
theorem Keeps.with_domains {s t : State} {x : List Domain} (h : Keeps pm pi pf pk s t) (hx : t.domains.length = 27 → x.length = 27) : Keeps pm pi pf pk s { t with domains := x } :=
  ⟨h.wf, fun g => have q := h.sized g; { q with domains := hx q.domains }, h.pending, h.base, h.free, h.out, h.mem, h.inner, h.fuse, h.keys⟩
theorem Keeps.with_cores {s t : State} {x : List CoreSt} (h : Keeps pm pi pf pk s t) (hx : t.cores.length = 64 → x.length = 64) : Keeps pm pi pf pk s { t with cores := x } :=
  ⟨h.wf, fun g => have q := h.sized g; { q with cores := hx q.cores }, h.pending, h.base, h.free, h.out, h.mem, h.inner, h.fuse, h.keys⟩
theorem Keeps.with_jobs {s t : State} {x : List Job} (h : Keeps pm pi pf pk s t) : Keeps pm pi pf pk s { t with jobs := x } :=
  ⟨h.wf, fun g => have q := h.sized g; { q with }, h.pending, h.base, h.free, h.out, h.mem, h.inner, h.fuse, h.keys⟩
theorem Keeps.with_jobNo {s t : State} {x : Nat} (h : Keeps pm pi pf pk s t) : Keeps pm pi pf pk s { t with jobNo := x } :=
  ⟨h.wf, fun g => have q := h.sized g; { q with }, h.pending, h.base, h.free, h.out, h.mem, h.inner, h.fuse, h.keys⟩
theorem Keeps.with_rings {s t : State} {x : List RingSt} (h : Keeps pm pi pf pk s t) (hx : t.rings.length = 64 → x.length = 64) : Keeps pm pi pf pk s { t with rings := x } :=
  ⟨h.wf, fun g => have q := h.sized g; { q with rings := hx q.rings }, h.pending, h.base, h.free, h.out, h.mem, h.inner, h.fuse, h.keys⟩
theorem Keeps.with_ringTurn {s t : State} {x : Nat} (h : Keeps pm pi pf pk s t) : Keeps pm pi pf pk s { t with ringTurn := x } :=
  ⟨h.wf, fun g => have q := h.sized g; { q with }, h.pending, h.base, h.free, h.out, h.mem, h.inner, h.fuse, h.keys⟩
theorem Keeps.with_acct {s t : State} {x : List (Nat × Acct)} (h : Keeps pm pi pf pk s t) : Keeps pm pi pf pk s { t with acct := x } :=
  ⟨h.wf, fun g => have q := h.sized g; { q with }, h.pending, h.base, h.free, h.out, h.mem, h.inner, h.fuse, h.keys⟩
theorem Keeps.with_infLog {s t : State} {x : List (Nat × Nat)} (h : Keeps pm pi pf pk s t) : Keeps pm pi pf pk s { t with infLog := x } :=
  ⟨h.wf, fun g => have q := h.sized g; { q with }, h.pending, h.base, h.free, h.out, h.mem, h.inner, h.fuse, h.keys⟩
theorem Keeps.with_rmon {s t : State} {x : List Nat} (h : Keeps pm pi pf pk s t) (hx : t.rmon.length = 4 → x.length = 4) : Keeps pm pi pf pk s { t with rmon := x } :=
  ⟨h.wf, fun g => have q := h.sized g; { q with rmon := hx q.rmon }, h.pending, h.base, h.free, h.out, h.mem, h.inner, h.fuse, h.keys⟩
theorem Keeps.with_resize {s t : State} {x : Option Resize} (h : Keeps pm pi pf pk s t) : Keeps pm pi pf pk s { t with resize := x } :=
  ⟨h.wf, fun g => have q := h.sized g; { q with }, h.pending, h.base, h.free, h.out, h.mem, h.inner, h.fuse, h.keys⟩
theorem Keeps.with_ferries {s t : State} {x : List Ferry} (h : Keeps pm pi pf pk s t) (hx : t.ferries.length = 32 → x.length = 32) : Keeps pm pi pf pk s { t with ferries := x } :=
  ⟨h.wf, fun g => have q := h.sized g; { q with ferries := hx q.ferries }, h.pending, h.base, h.free, h.out, h.mem, h.inner, h.fuse, h.keys⟩
theorem Keeps.with_fdigs {s t : State} {x : List Fdig} (h : Keeps pm pi pf pk s t) (hx : t.fdigs.length = 2 → x.length = 2) : Keeps pm pi pf pk s { t with fdigs := x } :=
  ⟨h.wf, fun g => have q := h.sized g; { q with fdigs := hx q.fdigs }, h.pending, h.base, h.free, h.out, h.mem, h.inner, h.fuse, h.keys⟩
theorem Keeps.with_slices {s t : State} {x : List Nat} (h : Keeps pm pi pf pk s t) : Keeps pm pi pf pk s { t with slices := x } :=
  ⟨h.wf, fun g => have q := h.sized g; { q with }, h.pending, h.base, h.free, h.out, h.mem, h.inner, h.fuse, h.keys⟩
theorem Keeps.with_trigs {s t : State} {x : List TrigSt} (h : Keeps pm pi pf pk s t) (hx : t.trigs.length = 2 → x.length = 2) : Keeps pm pi pf pk s { t with trigs := x } :=
  ⟨h.wf, fun g => have q := h.sized g; { q with trigs := hx q.trigs }, h.pending, h.base, h.free, h.out, h.mem, h.inner, h.fuse, h.keys⟩
theorem Keeps.with_progs {s t : State} {x : List Prog} (h : Keeps pm pi pf pk s t) (hx : t.progs.length = 2 → x.length = 2) : Keeps pm pi pf pk s { t with progs := x } :=
  ⟨h.wf, fun g => have q := h.sized g; { q with progs := hx q.progs }, h.pending, h.base, h.free, h.out, h.mem, h.inner, h.fuse, h.keys⟩
theorem Keeps.with_extTrig {s t : State} {x : List Bool} (h : Keeps pm pi pf pk s t) (hx : t.extTrig.length = 2 → x.length = 2) : Keeps pm pi pf pk s { t with extTrig := x } :=
  ⟨h.wf, fun g => have q := h.sized g; { q with extTrig := hx q.extTrig }, h.pending, h.base, h.free, h.out, h.mem, h.inner, h.fuse, h.keys⟩
theorem Keeps.with_wseq {s t : State} {x : Wseq} (h : Keeps pm pi pf pk s t) (hthrs : t.wseq.thrs.length = 4 → x.thrs.length = 4) (hchans : t.wseq.chans.length = 16 → x.chans.length = 16) (hlanes : t.wseq.lanes.length = 2 → x.lanes.length = 2) (hstrms : t.wseq.strms.length = 4 → x.strms.length = 4) : Keeps pm pi pf pk s { t with wseq := x } :=
  ⟨h.wf, fun g => have q := h.sized g; { q with wseq_thrs := hthrs q.wseq_thrs, wseq_chans := hchans q.wseq_chans, wseq_lanes := hlanes q.wseq_lanes, wseq_strms := hstrms q.wseq_strms }, h.pending, h.base, h.free, h.out, h.mem, h.inner, h.fuse, h.keys⟩
theorem Keeps.with_prot {s t : State} {x : Prot} (h : Keeps pm pi pf pk s t) (hchs : t.prot.chs.length = 16 → x.chs.length = 16) (hlost : t.prot.lost.length = 2 → x.lost.length = 2) : Keeps pm pi pf pk s { t with prot := x } :=
  ⟨h.wf, fun g => have q := h.sized g; { q with prot_chs := hchs q.prot_chs, prot_lost := hlost q.prot_lost }, h.pending, h.base, h.free, h.out, h.mem, h.inner, h.fuse, h.keys⟩
theorem Keeps.with_sns {s t : State} {x : Sense} (h : Keeps pm pi pf pk s t) (hgroups : t.sns.groups.length = 4 → x.groups.length = 4) : Keeps pm pi pf pk s { t with sns := x } :=
  ⟨h.wf, fun g => have q := h.sized g; { q with sns_groups := hgroups q.sns_groups }, h.pending, h.base, h.free, h.out, h.mem, h.inner, h.fuse, h.keys⟩
theorem Keeps.with_ales {s t : State} {x : List Ale} (h : Keeps pm pi pf pk s t) (hx : t.ales.length = 8 → x.length = 8) : Keeps pm pi pf pk s { t with ales := x } :=
  ⟨h.wf, fun g => have q := h.sized g; { q with ales := hx q.ales }, h.pending, h.base, h.free, h.out, h.mem, h.inner, h.fuse, h.keys⟩
theorem Keeps.with_aports {s t : State} {x : List Aport} (h : Keeps pm pi pf pk s t) (hx : t.aports.length = 9 → x.length = 9) : Keeps pm pi pf pk s { t with aports := x } :=
  ⟨h.wf, fun g => have q := h.sized g; { q with aports := hx q.aports }, h.pending, h.base, h.free, h.out, h.mem, h.inner, h.fuse, h.keys⟩
theorem Keeps.with_ticks {s t : State} {x : List TickDom} (h : Keeps pm pi pf pk s t) (hx : t.ticks.length = 4 → x.length = 4) : Keeps pm pi pf pk s { t with ticks := x } :=
  ⟨h.wf, fun g => have q := h.sized g; { q with ticks := hx q.ticks }, h.pending, h.base, h.free, h.out, h.mem, h.inner, h.fuse, h.keys⟩
theorem Keeps.with_cams {s t : State} {x : List Cam} (h : Keeps pm pi pf pk s t) (hx : t.cams.length = 4 → x.length = 4) : Keeps pm pi pf pk s { t with cams := x } :=
  ⟨h.wf, fun g => have q := h.sized g; { q with cams := hx q.cams }, h.pending, h.base, h.free, h.out, h.mem, h.inner, h.fuse, h.keys⟩
theorem Keeps.with_vouts {s t : State} {x : List Vout} (h : Keeps pm pi pf pk s t) (hx : t.vouts.length = 2 → x.length = 2) : Keeps pm pi pf pk s { t with vouts := x } :=
  ⟨h.wf, fun g => have q := h.sized g; { q with vouts := hx q.vouts }, h.pending, h.base, h.free, h.out, h.mem, h.inner, h.fuse, h.keys⟩
theorem Keeps.with_locals {s t : State} {x : List (Nat × Nat)} (h : Keeps pm pi pf pk s t) (hx : t.locals.length = 6 → x.length = 6) : Keeps pm pi pf pk s { t with locals := x } :=
  ⟨h.wf, fun g => have q := h.sized g; { q with locals := hx q.locals }, h.pending, h.base, h.free, h.out, h.mem, h.inner, h.fuse, h.keys⟩
theorem Keeps.with_gw {s t : State} {x : Gw} (h : Keeps pm pi pf pk s t) (hbufs : t.gw.bufs.length = 22 → x.bufs.length = 22) (hports : t.gw.ports.length = 20 → x.ports.length = 20) (hmeters : t.gw.meters.length = 63 → x.meters.length = 63) (hseq : t.gw.seq.length = 4 → x.seq.length = 4) (hqbv : t.gw.qbv.length = 4 → x.qbv.length = 4) : Keeps pm pi pf pk s { t with gw := x } :=
  ⟨h.wf, fun g => have q := h.sized g; { q with gw_bufs := hbufs q.gw_bufs, gw_ports := hports q.gw_ports, gw_meters := hmeters q.gw_meters, gw_seq := hseq q.gw_seq, gw_qbv := hqbv q.gw_qbv }, h.pending, h.base, h.free, h.out, h.mem, h.inner, h.fuse, h.keys⟩
theorem Keeps.with_casc {s t : State} {x : Casc} (h : Keeps pm pi pf pk s t) (hmiss : t.casc.miss.length = 3 → x.miss.length = 3) : Keeps pm pi pf pk s { t with casc := x } :=
  ⟨h.wf, fun g => have q := h.sized g; { q with casc_miss := hmiss q.casc_miss }, h.pending, h.base, h.free, h.out, h.mem, h.inner, h.fuse, h.keys⟩

theorem State.wf_iff {s : State} : s.wf = true ↔
    swf regDefault s.regs = true ∧ swf memDefault s.mem = true ∧ swf memDefault s.inner = true := by
  simp [State.wf, Bool.and_eq_true, and_assoc]

theorem Keeps.with_regs {s t : State} {x : List (Nat × Word)} (h : Keeps pm pi pf pk s t)
    (hx : swf regDefault t.regs = true → swf regDefault x = true) : Keeps pm pi pf pk s { t with regs := x } :=
  ⟨fun g => have q := State.wf_iff.mp (h.wf g); State.wf_iff.mpr ⟨hx q.1, q.2⟩, fun g => have q := h.sized g; { q with },
    h.pending, h.base, h.free, h.out, h.mem, h.inner, h.fuse, h.keys⟩

theorem Keeps.with_mem {s t : State} {x : List Host.Cell} (h : Keeps false pi pf pk s t)
    (hx : swf memDefault t.mem = true → swf memDefault x = true) : Keeps false pi pf pk s { t with mem := x } :=
  ⟨fun g => have q := State.wf_iff.mp (h.wf g); State.wf_iff.mpr ⟨q.1, hx q.2.1, q.2.2⟩, fun g => have q := h.sized g; { q with },
    h.pending, h.base, h.free, h.out, nofun, h.inner, h.fuse, h.keys⟩

theorem Keeps.with_inner {s t : State} {x : List Host.Cell} (h : Keeps pm false pf pk s t)
    (hx : swf memDefault t.inner = true → swf memDefault x = true) : Keeps pm false pf pk s { t with inner := x } :=
  ⟨fun g => have q := State.wf_iff.mp (h.wf g); State.wf_iff.mpr ⟨q.1, q.2.1, hx q.2.2⟩, fun g => have q := h.sized g; { q with },
    h.pending, h.base, h.free, h.out, h.mem, nofun, h.fuse, h.keys⟩

theorem Keeps.with_clk {s t : State} {x : Clock} (h : Keeps pm pi pf pk s t) (hx : t.clk.base ≤ x.base) : Keeps pm pi pf pk s { t with clk := x } :=
  ⟨h.wf, fun g => have q := h.sized g; { q with }, h.pending, h.base.trans hx, h.free, h.out, h.mem, h.inner, h.fuse, h.keys⟩

theorem Keeps.with_free {s t : State} {x : Nat} (h : Keeps pm pi pf pk s t) (hx : t.free ≤ x) : Keeps pm pi pf pk s { t with free := x } :=
  ⟨h.wf, fun g => have q := h.sized g; { q with }, h.pending, h.base, h.free.trans hx, h.out, h.mem, h.inner, h.fuse, h.keys⟩

theorem Keeps.with_out {s t : State} {x : List Out} (h : Keeps pm pi pf pk s t) (hx : t.out <+: x) : Keeps pm pi pf pk s { t with out := x } :=
  ⟨h.wf, fun g => have q := h.sized g; { q with }, h.pending, h.base, h.free, h.out.trans hx, h.mem, h.inner, h.fuse, h.keys⟩

theorem Keeps.each {α : Type} {s t : State} {l : List α} {f : State → α → State} (hf : ∀ u x, Keeps pm pi pf pk s u → Keeps pm pi pf pk s (f u x))
    (h : Keeps pm pi pf pk s t) : Keeps pm pi pf pk s (t.each l f) := by
  unfold State.each
  induction l generalizing t with
  | nil => exact h
  | cons a l ih => exact ih (hf t a h)

theorem Keeps.foldl {α : Type} {s t : State} {l : List α} {f : State → α → State} (hf : ∀ u x, Keeps pm pi pf pk s u → Keeps pm pi pf pk s (f u x))
    (h : Keeps pm pi pf pk s t) : Keeps pm pi pf pk s (l.foldl f t) := Keeps.each hf h

theorem Keeps.when {s t : State} {b : Bool} {f : State → State} (hf : ∀ u, Keeps pm pi pf pk s u → Keeps pm pi pf pk s (f u)) (h : Keeps pm pi pf pk s t) :
    Keeps pm pi pf pk s (t.when b f) := by
  unfold State.when
  split
  · exact hf t h
  · exact h

/-- The same of an operation that may have nothing to answer yet. -/
def KeepsO (pm pi pf pk : Bool) {α : Type} (s : State) (x : Option (α × State)) : Prop := ∀ e, x = some e → Keeps pm pi pf pk s e.2

theorem KeepsO.some {α : Type} {s t : State} {a : α} (h : Keeps pm pi pf pk s t) : KeepsO pm pi pf pk s (some (a, t)) := by
  intro e he; cases he; exact h

theorem KeepsO.none {α : Type} {s : State} : KeepsO pm pi pf pk s (none : Option (α × State)) := fun _ he => nomatch he

theorem KeepsO.ite {α : Type} {s : State} {c : Prop} [Decidable c] {x y : Option (α × State)} (h : KeepsO pm pi pf pk s x) (g : KeepsO pm pi pf pk s y) :
    KeepsO pm pi pf pk s (if c then x else y) := by
  split <;> assumption

def KeepsS (pm pi pf pk : Bool) (s : State) (x : Option State) : Prop := ∀ t, x = some t → Keeps pm pi pf pk s t

theorem KeepsS.some {s t : State} (h : Keeps pm pi pf pk s t) : KeepsS pm pi pf pk s (some t) := by
  intro e he; cases he; exact h

theorem KeepsS.none {s : State} : KeepsS pm pi pf pk s none := fun _ he => nomatch he

theorem KeepsS.getD {s t : State} {x : Option State} (h : KeepsS pm pi pf pk s x) (g : Keeps pm pi pf pk s t) : Keeps pm pi pf pk s (x.getD t) := by
  cases x with
  | none => exact g
  | some u => exact h u rfl

end Sys2Proof.Machine
end

