-- ==== Sys2Proof/Laws/State.lean ====
section
/-! SUPPORT. What each primitive update of State leaves as it was: one lemma per field. -/

namespace Sys2Proof.Machine

variable {s : State}

@[simp] theorem State.setByte_regs {a : Nat} {v : Byte} : (s.setByte a v).regs = s.regs := rfl
@[simp] theorem State.setByte_inner {a : Nat} {v : Byte} : (s.setByte a v).inner = s.inner := rfl
@[simp] theorem State.setByte_clk {a : Nat} {v : Byte} : (s.setByte a v).clk = s.clk := rfl
@[simp] theorem State.setByte_resp {a : Nat} {v : Byte} : (s.setByte a v).resp = s.resp := rfl
@[simp] theorem State.setByte_out {a : Nat} {v : Byte} : (s.setByte a v).out = s.out := rfl
@[simp] theorem State.setByte_fuse {a : Nat} {v : Byte} : (s.setByte a v).fuse = s.fuse := rfl
@[simp] theorem State.setByte_boot {a : Nat} {v : Byte} : (s.setByte a v).boot = s.boot := rfl
@[simp] theorem State.setByte_injects {a : Nat} {v : Byte} : (s.setByte a v).injects = s.injects := rfl
@[simp] theorem State.setByte_shakers {a : Nat} {v : Byte} : (s.setByte a v).shakers = s.shakers := rfl
@[simp] theorem State.setByte_held {a : Nat} {v : Byte} : (s.setByte a v).held = s.held := rfl
@[simp] theorem State.setByte_offices {a : Nat} {v : Byte} : (s.setByte a v).offices = s.offices := rfl
@[simp] theorem State.setByte_mops {a : Nat} {v : Byte} : (s.setByte a v).mops = s.mops := rfl
@[simp] theorem State.setByte_leaving {a : Nat} {v : Byte} : (s.setByte a v).leaving = s.leaving := rfl
@[simp] theorem State.setByte_dmcs {a : Nat} {v : Byte} : (s.setByte a v).dmcs = s.dmcs := rfl
@[simp] theorem State.setByte_grid {a : Nat} {v : Byte} : (s.setByte a v).grid = s.grid := rfl
@[simp] theorem State.setByte_poison {a : Nat} {v : Byte} : (s.setByte a v).poison = s.poison := rfl
@[simp] theorem State.setByte_fab {a : Nat} {v : Byte} : (s.setByte a v).fab = s.fab := rfl
@[simp] theorem State.setByte_ang {a : Nat} {v : Byte} : (s.setByte a v).ang = s.ang := rfl
@[simp] theorem State.setByte_harts {a : Nat} {v : Byte} : (s.setByte a v).harts = s.harts := rfl
@[simp] theorem State.setByte_dbg {a : Nat} {v : Byte} : (s.setByte a v).dbg = s.dbg := rfl
@[simp] theorem State.setByte_keys {a : Nat} {v : Byte} : (s.setByte a v).keys = s.keys := rfl
@[simp] theorem State.setByte_park {a : Nat} {v : Byte} : (s.setByte a v).park = s.park := rfl
@[simp] theorem State.setByte_ledger {a : Nat} {v : Byte} : (s.setByte a v).ledger = s.ledger := rfl
@[simp] theorem State.setByte_therm {a : Nat} {v : Byte} : (s.setByte a v).therm = s.therm := rfl
@[simp] theorem State.setByte_domains {a : Nat} {v : Byte} : (s.setByte a v).domains = s.domains := rfl
@[simp] theorem State.setByte_cores {a : Nat} {v : Byte} : (s.setByte a v).cores = s.cores := rfl
@[simp] theorem State.setByte_jobs {a : Nat} {v : Byte} : (s.setByte a v).jobs = s.jobs := rfl
@[simp] theorem State.setByte_jobNo {a : Nat} {v : Byte} : (s.setByte a v).jobNo = s.jobNo := rfl
@[simp] theorem State.setByte_rings {a : Nat} {v : Byte} : (s.setByte a v).rings = s.rings := rfl
@[simp] theorem State.setByte_ringTurn {a : Nat} {v : Byte} : (s.setByte a v).ringTurn = s.ringTurn := rfl
@[simp] theorem State.setByte_acct {a : Nat} {v : Byte} : (s.setByte a v).acct = s.acct := rfl
@[simp] theorem State.setByte_infLog {a : Nat} {v : Byte} : (s.setByte a v).infLog = s.infLog := rfl
@[simp] theorem State.setByte_rmon {a : Nat} {v : Byte} : (s.setByte a v).rmon = s.rmon := rfl
@[simp] theorem State.setByte_resize {a : Nat} {v : Byte} : (s.setByte a v).resize = s.resize := rfl
@[simp] theorem State.setByte_ferries {a : Nat} {v : Byte} : (s.setByte a v).ferries = s.ferries := rfl
@[simp] theorem State.setByte_fdigs {a : Nat} {v : Byte} : (s.setByte a v).fdigs = s.fdigs := rfl
@[simp] theorem State.setByte_slices {a : Nat} {v : Byte} : (s.setByte a v).slices = s.slices := rfl
@[simp] theorem State.setByte_trigs {a : Nat} {v : Byte} : (s.setByte a v).trigs = s.trigs := rfl
@[simp] theorem State.setByte_progs {a : Nat} {v : Byte} : (s.setByte a v).progs = s.progs := rfl
@[simp] theorem State.setByte_extTrig {a : Nat} {v : Byte} : (s.setByte a v).extTrig = s.extTrig := rfl
@[simp] theorem State.setByte_wseq {a : Nat} {v : Byte} : (s.setByte a v).wseq = s.wseq := rfl
@[simp] theorem State.setByte_prot {a : Nat} {v : Byte} : (s.setByte a v).prot = s.prot := rfl
@[simp] theorem State.setByte_sns {a : Nat} {v : Byte} : (s.setByte a v).sns = s.sns := rfl
@[simp] theorem State.setByte_ales {a : Nat} {v : Byte} : (s.setByte a v).ales = s.ales := rfl
@[simp] theorem State.setByte_aports {a : Nat} {v : Byte} : (s.setByte a v).aports = s.aports := rfl
@[simp] theorem State.setByte_ticks {a : Nat} {v : Byte} : (s.setByte a v).ticks = s.ticks := rfl
@[simp] theorem State.setByte_cams {a : Nat} {v : Byte} : (s.setByte a v).cams = s.cams := rfl
@[simp] theorem State.setByte_vouts {a : Nat} {v : Byte} : (s.setByte a v).vouts = s.vouts := rfl
@[simp] theorem State.setByte_locals {a : Nat} {v : Byte} : (s.setByte a v).locals = s.locals := rfl
@[simp] theorem State.setByte_gw {a : Nat} {v : Byte} : (s.setByte a v).gw = s.gw := rfl
@[simp] theorem State.setByte_casc {a : Nat} {v : Byte} : (s.setByte a v).casc = s.casc := rfl
@[simp] theorem State.setByte_free {a : Nat} {v : Byte} : (s.setByte a v).free = s.free := rfl
@[simp] theorem State.setByte_pending {a : Nat} {v : Byte} : (s.setByte a v).pending = s.pending := rfl
@[simp] theorem State.setBytes_regs {a : Nat} {l : List Byte} : (s.setBytes a l).regs = s.regs := rfl
@[simp] theorem State.setBytes_inner {a : Nat} {l : List Byte} : (s.setBytes a l).inner = s.inner := rfl
@[simp] theorem State.setBytes_clk {a : Nat} {l : List Byte} : (s.setBytes a l).clk = s.clk := rfl
@[simp] theorem State.setBytes_resp {a : Nat} {l : List Byte} : (s.setBytes a l).resp = s.resp := rfl
@[simp] theorem State.setBytes_out {a : Nat} {l : List Byte} : (s.setBytes a l).out = s.out := rfl
@[simp] theorem State.setBytes_fuse {a : Nat} {l : List Byte} : (s.setBytes a l).fuse = s.fuse := rfl
@[simp] theorem State.setBytes_boot {a : Nat} {l : List Byte} : (s.setBytes a l).boot = s.boot := rfl
@[simp] theorem State.setBytes_injects {a : Nat} {l : List Byte} : (s.setBytes a l).injects = s.injects := rfl
@[simp] theorem State.setBytes_shakers {a : Nat} {l : List Byte} : (s.setBytes a l).shakers = s.shakers := rfl
@[simp] theorem State.setBytes_held {a : Nat} {l : List Byte} : (s.setBytes a l).held = s.held := rfl
@[simp] theorem State.setBytes_offices {a : Nat} {l : List Byte} : (s.setBytes a l).offices = s.offices := rfl
@[simp] theorem State.setBytes_mops {a : Nat} {l : List Byte} : (s.setBytes a l).mops = s.mops := rfl
@[simp] theorem State.setBytes_leaving {a : Nat} {l : List Byte} : (s.setBytes a l).leaving = s.leaving := rfl
@[simp] theorem State.setBytes_dmcs {a : Nat} {l : List Byte} : (s.setBytes a l).dmcs = s.dmcs := rfl
@[simp] theorem State.setBytes_grid {a : Nat} {l : List Byte} : (s.setBytes a l).grid = s.grid := rfl
@[simp] theorem State.setBytes_poison {a : Nat} {l : List Byte} : (s.setBytes a l).poison = s.poison := rfl
@[simp] theorem State.setBytes_fab {a : Nat} {l : List Byte} : (s.setBytes a l).fab = s.fab := rfl
@[simp] theorem State.setBytes_ang {a : Nat} {l : List Byte} : (s.setBytes a l).ang = s.ang := rfl
@[simp] theorem State.setBytes_harts {a : Nat} {l : List Byte} : (s.setBytes a l).harts = s.harts := rfl
@[simp] theorem State.setBytes_dbg {a : Nat} {l : List Byte} : (s.setBytes a l).dbg = s.dbg := rfl
@[simp] theorem State.setBytes_keys {a : Nat} {l : List Byte} : (s.setBytes a l).keys = s.keys := rfl
@[simp] theorem State.setBytes_park {a : Nat} {l : List Byte} : (s.setBytes a l).park = s.park := rfl
@[simp] theorem State.setBytes_ledger {a : Nat} {l : List Byte} : (s.setBytes a l).ledger = s.ledger := rfl
@[simp] theorem State.setBytes_therm {a : Nat} {l : List Byte} : (s.setBytes a l).therm = s.therm := rfl
@[simp] theorem State.setBytes_domains {a : Nat} {l : List Byte} : (s.setBytes a l).domains = s.domains := rfl
@[simp] theorem State.setBytes_cores {a : Nat} {l : List Byte} : (s.setBytes a l).cores = s.cores := rfl
@[simp] theorem State.setBytes_jobs {a : Nat} {l : List Byte} : (s.setBytes a l).jobs = s.jobs := rfl
@[simp] theorem State.setBytes_jobNo {a : Nat} {l : List Byte} : (s.setBytes a l).jobNo = s.jobNo := rfl
@[simp] theorem State.setBytes_rings {a : Nat} {l : List Byte} : (s.setBytes a l).rings = s.rings := rfl
@[simp] theorem State.setBytes_ringTurn {a : Nat} {l : List Byte} : (s.setBytes a l).ringTurn = s.ringTurn := rfl
@[simp] theorem State.setBytes_acct {a : Nat} {l : List Byte} : (s.setBytes a l).acct = s.acct := rfl
@[simp] theorem State.setBytes_infLog {a : Nat} {l : List Byte} : (s.setBytes a l).infLog = s.infLog := rfl
@[simp] theorem State.setBytes_rmon {a : Nat} {l : List Byte} : (s.setBytes a l).rmon = s.rmon := rfl
@[simp] theorem State.setBytes_resize {a : Nat} {l : List Byte} : (s.setBytes a l).resize = s.resize := rfl
@[simp] theorem State.setBytes_ferries {a : Nat} {l : List Byte} : (s.setBytes a l).ferries = s.ferries := rfl
@[simp] theorem State.setBytes_fdigs {a : Nat} {l : List Byte} : (s.setBytes a l).fdigs = s.fdigs := rfl
@[simp] theorem State.setBytes_slices {a : Nat} {l : List Byte} : (s.setBytes a l).slices = s.slices := rfl
@[simp] theorem State.setBytes_trigs {a : Nat} {l : List Byte} : (s.setBytes a l).trigs = s.trigs := rfl
@[simp] theorem State.setBytes_progs {a : Nat} {l : List Byte} : (s.setBytes a l).progs = s.progs := rfl
@[simp] theorem State.setBytes_extTrig {a : Nat} {l : List Byte} : (s.setBytes a l).extTrig = s.extTrig := rfl
@[simp] theorem State.setBytes_wseq {a : Nat} {l : List Byte} : (s.setBytes a l).wseq = s.wseq := rfl
@[simp] theorem State.setBytes_prot {a : Nat} {l : List Byte} : (s.setBytes a l).prot = s.prot := rfl
@[simp] theorem State.setBytes_sns {a : Nat} {l : List Byte} : (s.setBytes a l).sns = s.sns := rfl
@[simp] theorem State.setBytes_ales {a : Nat} {l : List Byte} : (s.setBytes a l).ales = s.ales := rfl
@[simp] theorem State.setBytes_aports {a : Nat} {l : List Byte} : (s.setBytes a l).aports = s.aports := rfl
@[simp] theorem State.setBytes_ticks {a : Nat} {l : List Byte} : (s.setBytes a l).ticks = s.ticks := rfl
@[simp] theorem State.setBytes_cams {a : Nat} {l : List Byte} : (s.setBytes a l).cams = s.cams := rfl
@[simp] theorem State.setBytes_vouts {a : Nat} {l : List Byte} : (s.setBytes a l).vouts = s.vouts := rfl
@[simp] theorem State.setBytes_locals {a : Nat} {l : List Byte} : (s.setBytes a l).locals = s.locals := rfl
@[simp] theorem State.setBytes_gw {a : Nat} {l : List Byte} : (s.setBytes a l).gw = s.gw := rfl
@[simp] theorem State.setBytes_casc {a : Nat} {l : List Byte} : (s.setBytes a l).casc = s.casc := rfl
@[simp] theorem State.setBytes_free {a : Nat} {l : List Byte} : (s.setBytes a l).free = s.free := rfl
@[simp] theorem State.setBytes_pending {a : Nat} {l : List Byte} : (s.setBytes a l).pending = s.pending := rfl
@[simp] theorem State.setLe_regs {a n v : Nat} : (s.setLe a n v).regs = s.regs := rfl
@[simp] theorem State.setLe_inner {a n v : Nat} : (s.setLe a n v).inner = s.inner := rfl
@[simp] theorem State.setLe_clk {a n v : Nat} : (s.setLe a n v).clk = s.clk := rfl
@[simp] theorem State.setLe_resp {a n v : Nat} : (s.setLe a n v).resp = s.resp := rfl
@[simp] theorem State.setLe_out {a n v : Nat} : (s.setLe a n v).out = s.out := rfl
@[simp] theorem State.setLe_fuse {a n v : Nat} : (s.setLe a n v).fuse = s.fuse := rfl
@[simp] theorem State.setLe_boot {a n v : Nat} : (s.setLe a n v).boot = s.boot := rfl
@[simp] theorem State.setLe_injects {a n v : Nat} : (s.setLe a n v).injects = s.injects := rfl
@[simp] theorem State.setLe_shakers {a n v : Nat} : (s.setLe a n v).shakers = s.shakers := rfl
@[simp] theorem State.setLe_held {a n v : Nat} : (s.setLe a n v).held = s.held := rfl
@[simp] theorem State.setLe_offices {a n v : Nat} : (s.setLe a n v).offices = s.offices := rfl
@[simp] theorem State.setLe_mops {a n v : Nat} : (s.setLe a n v).mops = s.mops := rfl
@[simp] theorem State.setLe_leaving {a n v : Nat} : (s.setLe a n v).leaving = s.leaving := rfl
@[simp] theorem State.setLe_dmcs {a n v : Nat} : (s.setLe a n v).dmcs = s.dmcs := rfl
@[simp] theorem State.setLe_grid {a n v : Nat} : (s.setLe a n v).grid = s.grid := rfl
@[simp] theorem State.setLe_poison {a n v : Nat} : (s.setLe a n v).poison = s.poison := rfl
@[simp] theorem State.setLe_fab {a n v : Nat} : (s.setLe a n v).fab = s.fab := rfl
@[simp] theorem State.setLe_ang {a n v : Nat} : (s.setLe a n v).ang = s.ang := rfl
@[simp] theorem State.setLe_harts {a n v : Nat} : (s.setLe a n v).harts = s.harts := rfl
@[simp] theorem State.setLe_dbg {a n v : Nat} : (s.setLe a n v).dbg = s.dbg := rfl
@[simp] theorem State.setLe_keys {a n v : Nat} : (s.setLe a n v).keys = s.keys := rfl
@[simp] theorem State.setLe_park {a n v : Nat} : (s.setLe a n v).park = s.park := rfl
@[simp] theorem State.setLe_ledger {a n v : Nat} : (s.setLe a n v).ledger = s.ledger := rfl
@[simp] theorem State.setLe_therm {a n v : Nat} : (s.setLe a n v).therm = s.therm := rfl
@[simp] theorem State.setLe_domains {a n v : Nat} : (s.setLe a n v).domains = s.domains := rfl
@[simp] theorem State.setLe_cores {a n v : Nat} : (s.setLe a n v).cores = s.cores := rfl
@[simp] theorem State.setLe_jobs {a n v : Nat} : (s.setLe a n v).jobs = s.jobs := rfl
@[simp] theorem State.setLe_jobNo {a n v : Nat} : (s.setLe a n v).jobNo = s.jobNo := rfl
@[simp] theorem State.setLe_rings {a n v : Nat} : (s.setLe a n v).rings = s.rings := rfl
@[simp] theorem State.setLe_ringTurn {a n v : Nat} : (s.setLe a n v).ringTurn = s.ringTurn := rfl
@[simp] theorem State.setLe_acct {a n v : Nat} : (s.setLe a n v).acct = s.acct := rfl
@[simp] theorem State.setLe_infLog {a n v : Nat} : (s.setLe a n v).infLog = s.infLog := rfl
@[simp] theorem State.setLe_rmon {a n v : Nat} : (s.setLe a n v).rmon = s.rmon := rfl
@[simp] theorem State.setLe_resize {a n v : Nat} : (s.setLe a n v).resize = s.resize := rfl
@[simp] theorem State.setLe_ferries {a n v : Nat} : (s.setLe a n v).ferries = s.ferries := rfl
@[simp] theorem State.setLe_fdigs {a n v : Nat} : (s.setLe a n v).fdigs = s.fdigs := rfl
@[simp] theorem State.setLe_slices {a n v : Nat} : (s.setLe a n v).slices = s.slices := rfl
@[simp] theorem State.setLe_trigs {a n v : Nat} : (s.setLe a n v).trigs = s.trigs := rfl
@[simp] theorem State.setLe_progs {a n v : Nat} : (s.setLe a n v).progs = s.progs := rfl
@[simp] theorem State.setLe_extTrig {a n v : Nat} : (s.setLe a n v).extTrig = s.extTrig := rfl
@[simp] theorem State.setLe_wseq {a n v : Nat} : (s.setLe a n v).wseq = s.wseq := rfl
@[simp] theorem State.setLe_prot {a n v : Nat} : (s.setLe a n v).prot = s.prot := rfl
@[simp] theorem State.setLe_sns {a n v : Nat} : (s.setLe a n v).sns = s.sns := rfl
@[simp] theorem State.setLe_ales {a n v : Nat} : (s.setLe a n v).ales = s.ales := rfl
@[simp] theorem State.setLe_aports {a n v : Nat} : (s.setLe a n v).aports = s.aports := rfl
@[simp] theorem State.setLe_ticks {a n v : Nat} : (s.setLe a n v).ticks = s.ticks := rfl
@[simp] theorem State.setLe_cams {a n v : Nat} : (s.setLe a n v).cams = s.cams := rfl
@[simp] theorem State.setLe_vouts {a n v : Nat} : (s.setLe a n v).vouts = s.vouts := rfl
@[simp] theorem State.setLe_locals {a n v : Nat} : (s.setLe a n v).locals = s.locals := rfl
@[simp] theorem State.setLe_gw {a n v : Nat} : (s.setLe a n v).gw = s.gw := rfl
@[simp] theorem State.setLe_casc {a n v : Nat} : (s.setLe a n v).casc = s.casc := rfl
@[simp] theorem State.setLe_free {a n v : Nat} : (s.setLe a n v).free = s.free := rfl
@[simp] theorem State.setLe_pending {a n v : Nat} : (s.setLe a n v).pending = s.pending := rfl
@[simp] theorem State.zero_regs {a n : Nat} : (s.zero a n).regs = s.regs := rfl
@[simp] theorem State.zero_inner {a n : Nat} : (s.zero a n).inner = s.inner := rfl
@[simp] theorem State.zero_clk {a n : Nat} : (s.zero a n).clk = s.clk := rfl
@[simp] theorem State.zero_resp {a n : Nat} : (s.zero a n).resp = s.resp := rfl
@[simp] theorem State.zero_out {a n : Nat} : (s.zero a n).out = s.out := rfl
@[simp] theorem State.zero_fuse {a n : Nat} : (s.zero a n).fuse = s.fuse := rfl
@[simp] theorem State.zero_boot {a n : Nat} : (s.zero a n).boot = s.boot := rfl
@[simp] theorem State.zero_injects {a n : Nat} : (s.zero a n).injects = s.injects := rfl
@[simp] theorem State.zero_shakers {a n : Nat} : (s.zero a n).shakers = s.shakers := rfl
@[simp] theorem State.zero_held {a n : Nat} : (s.zero a n).held = s.held := rfl
@[simp] theorem State.zero_offices {a n : Nat} : (s.zero a n).offices = s.offices := rfl
@[simp] theorem State.zero_mops {a n : Nat} : (s.zero a n).mops = s.mops := rfl
@[simp] theorem State.zero_leaving {a n : Nat} : (s.zero a n).leaving = s.leaving := rfl
@[simp] theorem State.zero_dmcs {a n : Nat} : (s.zero a n).dmcs = s.dmcs := rfl
@[simp] theorem State.zero_grid {a n : Nat} : (s.zero a n).grid = s.grid := rfl
@[simp] theorem State.zero_poison {a n : Nat} : (s.zero a n).poison = s.poison := rfl
@[simp] theorem State.zero_fab {a n : Nat} : (s.zero a n).fab = s.fab := rfl
@[simp] theorem State.zero_ang {a n : Nat} : (s.zero a n).ang = s.ang := rfl
@[simp] theorem State.zero_harts {a n : Nat} : (s.zero a n).harts = s.harts := rfl
@[simp] theorem State.zero_dbg {a n : Nat} : (s.zero a n).dbg = s.dbg := rfl
@[simp] theorem State.zero_keys {a n : Nat} : (s.zero a n).keys = s.keys := rfl
@[simp] theorem State.zero_park {a n : Nat} : (s.zero a n).park = s.park := rfl
@[simp] theorem State.zero_ledger {a n : Nat} : (s.zero a n).ledger = s.ledger := rfl
@[simp] theorem State.zero_therm {a n : Nat} : (s.zero a n).therm = s.therm := rfl
@[simp] theorem State.zero_domains {a n : Nat} : (s.zero a n).domains = s.domains := rfl
@[simp] theorem State.zero_cores {a n : Nat} : (s.zero a n).cores = s.cores := rfl
@[simp] theorem State.zero_jobs {a n : Nat} : (s.zero a n).jobs = s.jobs := rfl
@[simp] theorem State.zero_jobNo {a n : Nat} : (s.zero a n).jobNo = s.jobNo := rfl
@[simp] theorem State.zero_rings {a n : Nat} : (s.zero a n).rings = s.rings := rfl
@[simp] theorem State.zero_ringTurn {a n : Nat} : (s.zero a n).ringTurn = s.ringTurn := rfl
@[simp] theorem State.zero_acct {a n : Nat} : (s.zero a n).acct = s.acct := rfl
@[simp] theorem State.zero_infLog {a n : Nat} : (s.zero a n).infLog = s.infLog := rfl
@[simp] theorem State.zero_rmon {a n : Nat} : (s.zero a n).rmon = s.rmon := rfl
@[simp] theorem State.zero_resize {a n : Nat} : (s.zero a n).resize = s.resize := rfl
@[simp] theorem State.zero_ferries {a n : Nat} : (s.zero a n).ferries = s.ferries := rfl
@[simp] theorem State.zero_fdigs {a n : Nat} : (s.zero a n).fdigs = s.fdigs := rfl
@[simp] theorem State.zero_slices {a n : Nat} : (s.zero a n).slices = s.slices := rfl
@[simp] theorem State.zero_trigs {a n : Nat} : (s.zero a n).trigs = s.trigs := rfl
@[simp] theorem State.zero_progs {a n : Nat} : (s.zero a n).progs = s.progs := rfl
@[simp] theorem State.zero_extTrig {a n : Nat} : (s.zero a n).extTrig = s.extTrig := rfl
@[simp] theorem State.zero_wseq {a n : Nat} : (s.zero a n).wseq = s.wseq := rfl
@[simp] theorem State.zero_prot {a n : Nat} : (s.zero a n).prot = s.prot := rfl
@[simp] theorem State.zero_sns {a n : Nat} : (s.zero a n).sns = s.sns := rfl
@[simp] theorem State.zero_ales {a n : Nat} : (s.zero a n).ales = s.ales := rfl
@[simp] theorem State.zero_aports {a n : Nat} : (s.zero a n).aports = s.aports := rfl
@[simp] theorem State.zero_ticks {a n : Nat} : (s.zero a n).ticks = s.ticks := rfl
@[simp] theorem State.zero_cams {a n : Nat} : (s.zero a n).cams = s.cams := rfl
@[simp] theorem State.zero_vouts {a n : Nat} : (s.zero a n).vouts = s.vouts := rfl
@[simp] theorem State.zero_locals {a n : Nat} : (s.zero a n).locals = s.locals := rfl
@[simp] theorem State.zero_gw {a n : Nat} : (s.zero a n).gw = s.gw := rfl
@[simp] theorem State.zero_casc {a n : Nat} : (s.zero a n).casc = s.casc := rfl
@[simp] theorem State.zero_free {a n : Nat} : (s.zero a n).free = s.free := rfl
@[simp] theorem State.zero_pending {a n : Nat} : (s.zero a n).pending = s.pending := rfl
@[simp] theorem State.setIbyte_regs {a : Nat} {v : Byte} : (s.setIbyte a v).regs = s.regs := rfl
@[simp] theorem State.setIbyte_mem {a : Nat} {v : Byte} : (s.setIbyte a v).mem = s.mem := rfl
@[simp] theorem State.setIbyte_clk {a : Nat} {v : Byte} : (s.setIbyte a v).clk = s.clk := rfl
@[simp] theorem State.setIbyte_resp {a : Nat} {v : Byte} : (s.setIbyte a v).resp = s.resp := rfl
@[simp] theorem State.setIbyte_out {a : Nat} {v : Byte} : (s.setIbyte a v).out = s.out := rfl
@[simp] theorem State.setIbyte_fuse {a : Nat} {v : Byte} : (s.setIbyte a v).fuse = s.fuse := rfl
@[simp] theorem State.setIbyte_boot {a : Nat} {v : Byte} : (s.setIbyte a v).boot = s.boot := rfl
@[simp] theorem State.setIbyte_injects {a : Nat} {v : Byte} : (s.setIbyte a v).injects = s.injects := rfl
@[simp] theorem State.setIbyte_shakers {a : Nat} {v : Byte} : (s.setIbyte a v).shakers = s.shakers := rfl
@[simp] theorem State.setIbyte_held {a : Nat} {v : Byte} : (s.setIbyte a v).held = s.held := rfl
@[simp] theorem State.setIbyte_offices {a : Nat} {v : Byte} : (s.setIbyte a v).offices = s.offices := rfl
@[simp] theorem State.setIbyte_mops {a : Nat} {v : Byte} : (s.setIbyte a v).mops = s.mops := rfl
@[simp] theorem State.setIbyte_leaving {a : Nat} {v : Byte} : (s.setIbyte a v).leaving = s.leaving := rfl
@[simp] theorem State.setIbyte_dmcs {a : Nat} {v : Byte} : (s.setIbyte a v).dmcs = s.dmcs := rfl
@[simp] theorem State.setIbyte_grid {a : Nat} {v : Byte} : (s.setIbyte a v).grid = s.grid := rfl
@[simp] theorem State.setIbyte_poison {a : Nat} {v : Byte} : (s.setIbyte a v).poison = s.poison := rfl
@[simp] theorem State.setIbyte_fab {a : Nat} {v : Byte} : (s.setIbyte a v).fab = s.fab := rfl
@[simp] theorem State.setIbyte_ang {a : Nat} {v : Byte} : (s.setIbyte a v).ang = s.ang := rfl
@[simp] theorem State.setIbyte_harts {a : Nat} {v : Byte} : (s.setIbyte a v).harts = s.harts := rfl
@[simp] theorem State.setIbyte_dbg {a : Nat} {v : Byte} : (s.setIbyte a v).dbg = s.dbg := rfl
@[simp] theorem State.setIbyte_keys {a : Nat} {v : Byte} : (s.setIbyte a v).keys = s.keys := rfl
@[simp] theorem State.setIbyte_park {a : Nat} {v : Byte} : (s.setIbyte a v).park = s.park := rfl
@[simp] theorem State.setIbyte_ledger {a : Nat} {v : Byte} : (s.setIbyte a v).ledger = s.ledger := rfl
@[simp] theorem State.setIbyte_therm {a : Nat} {v : Byte} : (s.setIbyte a v).therm = s.therm := rfl
@[simp] theorem State.setIbyte_domains {a : Nat} {v : Byte} : (s.setIbyte a v).domains = s.domains := rfl
@[simp] theorem State.setIbyte_cores {a : Nat} {v : Byte} : (s.setIbyte a v).cores = s.cores := rfl
@[simp] theorem State.setIbyte_jobs {a : Nat} {v : Byte} : (s.setIbyte a v).jobs = s.jobs := rfl
@[simp] theorem State.setIbyte_jobNo {a : Nat} {v : Byte} : (s.setIbyte a v).jobNo = s.jobNo := rfl
@[simp] theorem State.setIbyte_rings {a : Nat} {v : Byte} : (s.setIbyte a v).rings = s.rings := rfl
@[simp] theorem State.setIbyte_ringTurn {a : Nat} {v : Byte} : (s.setIbyte a v).ringTurn = s.ringTurn := rfl
@[simp] theorem State.setIbyte_acct {a : Nat} {v : Byte} : (s.setIbyte a v).acct = s.acct := rfl
@[simp] theorem State.setIbyte_infLog {a : Nat} {v : Byte} : (s.setIbyte a v).infLog = s.infLog := rfl
@[simp] theorem State.setIbyte_rmon {a : Nat} {v : Byte} : (s.setIbyte a v).rmon = s.rmon := rfl
@[simp] theorem State.setIbyte_resize {a : Nat} {v : Byte} : (s.setIbyte a v).resize = s.resize := rfl
@[simp] theorem State.setIbyte_ferries {a : Nat} {v : Byte} : (s.setIbyte a v).ferries = s.ferries := rfl
@[simp] theorem State.setIbyte_fdigs {a : Nat} {v : Byte} : (s.setIbyte a v).fdigs = s.fdigs := rfl
@[simp] theorem State.setIbyte_slices {a : Nat} {v : Byte} : (s.setIbyte a v).slices = s.slices := rfl
@[simp] theorem State.setIbyte_trigs {a : Nat} {v : Byte} : (s.setIbyte a v).trigs = s.trigs := rfl
@[simp] theorem State.setIbyte_progs {a : Nat} {v : Byte} : (s.setIbyte a v).progs = s.progs := rfl
@[simp] theorem State.setIbyte_extTrig {a : Nat} {v : Byte} : (s.setIbyte a v).extTrig = s.extTrig := rfl
@[simp] theorem State.setIbyte_wseq {a : Nat} {v : Byte} : (s.setIbyte a v).wseq = s.wseq := rfl
@[simp] theorem State.setIbyte_prot {a : Nat} {v : Byte} : (s.setIbyte a v).prot = s.prot := rfl
@[simp] theorem State.setIbyte_sns {a : Nat} {v : Byte} : (s.setIbyte a v).sns = s.sns := rfl
@[simp] theorem State.setIbyte_ales {a : Nat} {v : Byte} : (s.setIbyte a v).ales = s.ales := rfl
@[simp] theorem State.setIbyte_aports {a : Nat} {v : Byte} : (s.setIbyte a v).aports = s.aports := rfl
@[simp] theorem State.setIbyte_ticks {a : Nat} {v : Byte} : (s.setIbyte a v).ticks = s.ticks := rfl
@[simp] theorem State.setIbyte_cams {a : Nat} {v : Byte} : (s.setIbyte a v).cams = s.cams := rfl
@[simp] theorem State.setIbyte_vouts {a : Nat} {v : Byte} : (s.setIbyte a v).vouts = s.vouts := rfl
@[simp] theorem State.setIbyte_locals {a : Nat} {v : Byte} : (s.setIbyte a v).locals = s.locals := rfl
@[simp] theorem State.setIbyte_gw {a : Nat} {v : Byte} : (s.setIbyte a v).gw = s.gw := rfl
@[simp] theorem State.setIbyte_casc {a : Nat} {v : Byte} : (s.setIbyte a v).casc = s.casc := rfl
@[simp] theorem State.setIbyte_free {a : Nat} {v : Byte} : (s.setIbyte a v).free = s.free := rfl
@[simp] theorem State.setIbyte_pending {a : Nat} {v : Byte} : (s.setIbyte a v).pending = s.pending := rfl
@[simp] theorem State.setIbytes_regs {a : Nat} {l : List Byte} : (s.setIbytes a l).regs = s.regs := rfl
@[simp] theorem State.setIbytes_mem {a : Nat} {l : List Byte} : (s.setIbytes a l).mem = s.mem := rfl
@[simp] theorem State.setIbytes_clk {a : Nat} {l : List Byte} : (s.setIbytes a l).clk = s.clk := rfl
@[simp] theorem State.setIbytes_resp {a : Nat} {l : List Byte} : (s.setIbytes a l).resp = s.resp := rfl
@[simp] theorem State.setIbytes_out {a : Nat} {l : List Byte} : (s.setIbytes a l).out = s.out := rfl
@[simp] theorem State.setIbytes_fuse {a : Nat} {l : List Byte} : (s.setIbytes a l).fuse = s.fuse := rfl
@[simp] theorem State.setIbytes_boot {a : Nat} {l : List Byte} : (s.setIbytes a l).boot = s.boot := rfl
@[simp] theorem State.setIbytes_injects {a : Nat} {l : List Byte} : (s.setIbytes a l).injects = s.injects := rfl
@[simp] theorem State.setIbytes_shakers {a : Nat} {l : List Byte} : (s.setIbytes a l).shakers = s.shakers := rfl
@[simp] theorem State.setIbytes_held {a : Nat} {l : List Byte} : (s.setIbytes a l).held = s.held := rfl
@[simp] theorem State.setIbytes_offices {a : Nat} {l : List Byte} : (s.setIbytes a l).offices = s.offices := rfl
@[simp] theorem State.setIbytes_mops {a : Nat} {l : List Byte} : (s.setIbytes a l).mops = s.mops := rfl
@[simp] theorem State.setIbytes_leaving {a : Nat} {l : List Byte} : (s.setIbytes a l).leaving = s.leaving := rfl
@[simp] theorem State.setIbytes_dmcs {a : Nat} {l : List Byte} : (s.setIbytes a l).dmcs = s.dmcs := rfl
@[simp] theorem State.setIbytes_grid {a : Nat} {l : List Byte} : (s.setIbytes a l).grid = s.grid := rfl
@[simp] theorem State.setIbytes_poison {a : Nat} {l : List Byte} : (s.setIbytes a l).poison = s.poison := rfl
@[simp] theorem State.setIbytes_fab {a : Nat} {l : List Byte} : (s.setIbytes a l).fab = s.fab := rfl
@[simp] theorem State.setIbytes_ang {a : Nat} {l : List Byte} : (s.setIbytes a l).ang = s.ang := rfl
@[simp] theorem State.setIbytes_harts {a : Nat} {l : List Byte} : (s.setIbytes a l).harts = s.harts := rfl
@[simp] theorem State.setIbytes_dbg {a : Nat} {l : List Byte} : (s.setIbytes a l).dbg = s.dbg := rfl
@[simp] theorem State.setIbytes_keys {a : Nat} {l : List Byte} : (s.setIbytes a l).keys = s.keys := rfl
@[simp] theorem State.setIbytes_park {a : Nat} {l : List Byte} : (s.setIbytes a l).park = s.park := rfl
@[simp] theorem State.setIbytes_ledger {a : Nat} {l : List Byte} : (s.setIbytes a l).ledger = s.ledger := rfl
@[simp] theorem State.setIbytes_therm {a : Nat} {l : List Byte} : (s.setIbytes a l).therm = s.therm := rfl
@[simp] theorem State.setIbytes_domains {a : Nat} {l : List Byte} : (s.setIbytes a l).domains = s.domains := rfl
@[simp] theorem State.setIbytes_cores {a : Nat} {l : List Byte} : (s.setIbytes a l).cores = s.cores := rfl
@[simp] theorem State.setIbytes_jobs {a : Nat} {l : List Byte} : (s.setIbytes a l).jobs = s.jobs := rfl
@[simp] theorem State.setIbytes_jobNo {a : Nat} {l : List Byte} : (s.setIbytes a l).jobNo = s.jobNo := rfl
@[simp] theorem State.setIbytes_rings {a : Nat} {l : List Byte} : (s.setIbytes a l).rings = s.rings := rfl
@[simp] theorem State.setIbytes_ringTurn {a : Nat} {l : List Byte} : (s.setIbytes a l).ringTurn = s.ringTurn := rfl
@[simp] theorem State.setIbytes_acct {a : Nat} {l : List Byte} : (s.setIbytes a l).acct = s.acct := rfl
@[simp] theorem State.setIbytes_infLog {a : Nat} {l : List Byte} : (s.setIbytes a l).infLog = s.infLog := rfl
@[simp] theorem State.setIbytes_rmon {a : Nat} {l : List Byte} : (s.setIbytes a l).rmon = s.rmon := rfl
@[simp] theorem State.setIbytes_resize {a : Nat} {l : List Byte} : (s.setIbytes a l).resize = s.resize := rfl
@[simp] theorem State.setIbytes_ferries {a : Nat} {l : List Byte} : (s.setIbytes a l).ferries = s.ferries := rfl
@[simp] theorem State.setIbytes_fdigs {a : Nat} {l : List Byte} : (s.setIbytes a l).fdigs = s.fdigs := rfl
@[simp] theorem State.setIbytes_slices {a : Nat} {l : List Byte} : (s.setIbytes a l).slices = s.slices := rfl
@[simp] theorem State.setIbytes_trigs {a : Nat} {l : List Byte} : (s.setIbytes a l).trigs = s.trigs := rfl
@[simp] theorem State.setIbytes_progs {a : Nat} {l : List Byte} : (s.setIbytes a l).progs = s.progs := rfl
@[simp] theorem State.setIbytes_extTrig {a : Nat} {l : List Byte} : (s.setIbytes a l).extTrig = s.extTrig := rfl
@[simp] theorem State.setIbytes_wseq {a : Nat} {l : List Byte} : (s.setIbytes a l).wseq = s.wseq := rfl
@[simp] theorem State.setIbytes_prot {a : Nat} {l : List Byte} : (s.setIbytes a l).prot = s.prot := rfl
@[simp] theorem State.setIbytes_sns {a : Nat} {l : List Byte} : (s.setIbytes a l).sns = s.sns := rfl
@[simp] theorem State.setIbytes_ales {a : Nat} {l : List Byte} : (s.setIbytes a l).ales = s.ales := rfl
@[simp] theorem State.setIbytes_aports {a : Nat} {l : List Byte} : (s.setIbytes a l).aports = s.aports := rfl
@[simp] theorem State.setIbytes_ticks {a : Nat} {l : List Byte} : (s.setIbytes a l).ticks = s.ticks := rfl
@[simp] theorem State.setIbytes_cams {a : Nat} {l : List Byte} : (s.setIbytes a l).cams = s.cams := rfl
@[simp] theorem State.setIbytes_vouts {a : Nat} {l : List Byte} : (s.setIbytes a l).vouts = s.vouts := rfl
@[simp] theorem State.setIbytes_locals {a : Nat} {l : List Byte} : (s.setIbytes a l).locals = s.locals := rfl
@[simp] theorem State.setIbytes_gw {a : Nat} {l : List Byte} : (s.setIbytes a l).gw = s.gw := rfl
@[simp] theorem State.setIbytes_casc {a : Nat} {l : List Byte} : (s.setIbytes a l).casc = s.casc := rfl
@[simp] theorem State.setIbytes_free {a : Nat} {l : List Byte} : (s.setIbytes a l).free = s.free := rfl
@[simp] theorem State.setIbytes_pending {a : Nat} {l : List Byte} : (s.setIbytes a l).pending = s.pending := rfl
@[simp] theorem State.setIle_regs {a n v : Nat} : (s.setIle a n v).regs = s.regs := rfl
@[simp] theorem State.setIle_mem {a n v : Nat} : (s.setIle a n v).mem = s.mem := rfl
@[simp] theorem State.setIle_clk {a n v : Nat} : (s.setIle a n v).clk = s.clk := rfl
@[simp] theorem State.setIle_resp {a n v : Nat} : (s.setIle a n v).resp = s.resp := rfl
@[simp] theorem State.setIle_out {a n v : Nat} : (s.setIle a n v).out = s.out := rfl
@[simp] theorem State.setIle_fuse {a n v : Nat} : (s.setIle a n v).fuse = s.fuse := rfl
@[simp] theorem State.setIle_boot {a n v : Nat} : (s.setIle a n v).boot = s.boot := rfl
@[simp] theorem State.setIle_injects {a n v : Nat} : (s.setIle a n v).injects = s.injects := rfl
@[simp] theorem State.setIle_shakers {a n v : Nat} : (s.setIle a n v).shakers = s.shakers := rfl
@[simp] theorem State.setIle_held {a n v : Nat} : (s.setIle a n v).held = s.held := rfl
@[simp] theorem State.setIle_offices {a n v : Nat} : (s.setIle a n v).offices = s.offices := rfl
@[simp] theorem State.setIle_mops {a n v : Nat} : (s.setIle a n v).mops = s.mops := rfl
@[simp] theorem State.setIle_leaving {a n v : Nat} : (s.setIle a n v).leaving = s.leaving := rfl
@[simp] theorem State.setIle_dmcs {a n v : Nat} : (s.setIle a n v).dmcs = s.dmcs := rfl
@[simp] theorem State.setIle_grid {a n v : Nat} : (s.setIle a n v).grid = s.grid := rfl
@[simp] theorem State.setIle_poison {a n v : Nat} : (s.setIle a n v).poison = s.poison := rfl
@[simp] theorem State.setIle_fab {a n v : Nat} : (s.setIle a n v).fab = s.fab := rfl
@[simp] theorem State.setIle_ang {a n v : Nat} : (s.setIle a n v).ang = s.ang := rfl
@[simp] theorem State.setIle_harts {a n v : Nat} : (s.setIle a n v).harts = s.harts := rfl
@[simp] theorem State.setIle_dbg {a n v : Nat} : (s.setIle a n v).dbg = s.dbg := rfl
@[simp] theorem State.setIle_keys {a n v : Nat} : (s.setIle a n v).keys = s.keys := rfl
@[simp] theorem State.setIle_park {a n v : Nat} : (s.setIle a n v).park = s.park := rfl
@[simp] theorem State.setIle_ledger {a n v : Nat} : (s.setIle a n v).ledger = s.ledger := rfl
@[simp] theorem State.setIle_therm {a n v : Nat} : (s.setIle a n v).therm = s.therm := rfl
@[simp] theorem State.setIle_domains {a n v : Nat} : (s.setIle a n v).domains = s.domains := rfl
@[simp] theorem State.setIle_cores {a n v : Nat} : (s.setIle a n v).cores = s.cores := rfl
@[simp] theorem State.setIle_jobs {a n v : Nat} : (s.setIle a n v).jobs = s.jobs := rfl
@[simp] theorem State.setIle_jobNo {a n v : Nat} : (s.setIle a n v).jobNo = s.jobNo := rfl
@[simp] theorem State.setIle_rings {a n v : Nat} : (s.setIle a n v).rings = s.rings := rfl
@[simp] theorem State.setIle_ringTurn {a n v : Nat} : (s.setIle a n v).ringTurn = s.ringTurn := rfl
@[simp] theorem State.setIle_acct {a n v : Nat} : (s.setIle a n v).acct = s.acct := rfl
@[simp] theorem State.setIle_infLog {a n v : Nat} : (s.setIle a n v).infLog = s.infLog := rfl
@[simp] theorem State.setIle_rmon {a n v : Nat} : (s.setIle a n v).rmon = s.rmon := rfl
@[simp] theorem State.setIle_resize {a n v : Nat} : (s.setIle a n v).resize = s.resize := rfl
@[simp] theorem State.setIle_ferries {a n v : Nat} : (s.setIle a n v).ferries = s.ferries := rfl
@[simp] theorem State.setIle_fdigs {a n v : Nat} : (s.setIle a n v).fdigs = s.fdigs := rfl
@[simp] theorem State.setIle_slices {a n v : Nat} : (s.setIle a n v).slices = s.slices := rfl
@[simp] theorem State.setIle_trigs {a n v : Nat} : (s.setIle a n v).trigs = s.trigs := rfl
@[simp] theorem State.setIle_progs {a n v : Nat} : (s.setIle a n v).progs = s.progs := rfl
@[simp] theorem State.setIle_extTrig {a n v : Nat} : (s.setIle a n v).extTrig = s.extTrig := rfl
@[simp] theorem State.setIle_wseq {a n v : Nat} : (s.setIle a n v).wseq = s.wseq := rfl
@[simp] theorem State.setIle_prot {a n v : Nat} : (s.setIle a n v).prot = s.prot := rfl
@[simp] theorem State.setIle_sns {a n v : Nat} : (s.setIle a n v).sns = s.sns := rfl
@[simp] theorem State.setIle_ales {a n v : Nat} : (s.setIle a n v).ales = s.ales := rfl
@[simp] theorem State.setIle_aports {a n v : Nat} : (s.setIle a n v).aports = s.aports := rfl
@[simp] theorem State.setIle_ticks {a n v : Nat} : (s.setIle a n v).ticks = s.ticks := rfl
@[simp] theorem State.setIle_cams {a n v : Nat} : (s.setIle a n v).cams = s.cams := rfl
@[simp] theorem State.setIle_vouts {a n v : Nat} : (s.setIle a n v).vouts = s.vouts := rfl
@[simp] theorem State.setIle_locals {a n v : Nat} : (s.setIle a n v).locals = s.locals := rfl
@[simp] theorem State.setIle_gw {a n v : Nat} : (s.setIle a n v).gw = s.gw := rfl
@[simp] theorem State.setIle_casc {a n v : Nat} : (s.setIle a n v).casc = s.casc := rfl
@[simp] theorem State.setIle_free {a n v : Nat} : (s.setIle a n v).free = s.free := rfl
@[simp] theorem State.setIle_pending {a n v : Nat} : (s.setIle a n v).pending = s.pending := rfl
@[simp] theorem State.izero_regs {a n : Nat} : (s.izero a n).regs = s.regs := rfl
@[simp] theorem State.izero_mem {a n : Nat} : (s.izero a n).mem = s.mem := rfl
@[simp] theorem State.izero_clk {a n : Nat} : (s.izero a n).clk = s.clk := rfl
@[simp] theorem State.izero_resp {a n : Nat} : (s.izero a n).resp = s.resp := rfl
@[simp] theorem State.izero_out {a n : Nat} : (s.izero a n).out = s.out := rfl
@[simp] theorem State.izero_fuse {a n : Nat} : (s.izero a n).fuse = s.fuse := rfl
@[simp] theorem State.izero_boot {a n : Nat} : (s.izero a n).boot = s.boot := rfl
@[simp] theorem State.izero_injects {a n : Nat} : (s.izero a n).injects = s.injects := rfl
@[simp] theorem State.izero_shakers {a n : Nat} : (s.izero a n).shakers = s.shakers := rfl
@[simp] theorem State.izero_held {a n : Nat} : (s.izero a n).held = s.held := rfl
@[simp] theorem State.izero_offices {a n : Nat} : (s.izero a n).offices = s.offices := rfl
@[simp] theorem State.izero_mops {a n : Nat} : (s.izero a n).mops = s.mops := rfl
@[simp] theorem State.izero_leaving {a n : Nat} : (s.izero a n).leaving = s.leaving := rfl
@[simp] theorem State.izero_dmcs {a n : Nat} : (s.izero a n).dmcs = s.dmcs := rfl
@[simp] theorem State.izero_grid {a n : Nat} : (s.izero a n).grid = s.grid := rfl
@[simp] theorem State.izero_poison {a n : Nat} : (s.izero a n).poison = s.poison := rfl
@[simp] theorem State.izero_fab {a n : Nat} : (s.izero a n).fab = s.fab := rfl
@[simp] theorem State.izero_ang {a n : Nat} : (s.izero a n).ang = s.ang := rfl
@[simp] theorem State.izero_harts {a n : Nat} : (s.izero a n).harts = s.harts := rfl
@[simp] theorem State.izero_dbg {a n : Nat} : (s.izero a n).dbg = s.dbg := rfl
@[simp] theorem State.izero_keys {a n : Nat} : (s.izero a n).keys = s.keys := rfl
@[simp] theorem State.izero_park {a n : Nat} : (s.izero a n).park = s.park := rfl
@[simp] theorem State.izero_ledger {a n : Nat} : (s.izero a n).ledger = s.ledger := rfl
@[simp] theorem State.izero_therm {a n : Nat} : (s.izero a n).therm = s.therm := rfl
@[simp] theorem State.izero_domains {a n : Nat} : (s.izero a n).domains = s.domains := rfl
@[simp] theorem State.izero_cores {a n : Nat} : (s.izero a n).cores = s.cores := rfl
@[simp] theorem State.izero_jobs {a n : Nat} : (s.izero a n).jobs = s.jobs := rfl
@[simp] theorem State.izero_jobNo {a n : Nat} : (s.izero a n).jobNo = s.jobNo := rfl
@[simp] theorem State.izero_rings {a n : Nat} : (s.izero a n).rings = s.rings := rfl
@[simp] theorem State.izero_ringTurn {a n : Nat} : (s.izero a n).ringTurn = s.ringTurn := rfl
@[simp] theorem State.izero_acct {a n : Nat} : (s.izero a n).acct = s.acct := rfl
@[simp] theorem State.izero_infLog {a n : Nat} : (s.izero a n).infLog = s.infLog := rfl
@[simp] theorem State.izero_rmon {a n : Nat} : (s.izero a n).rmon = s.rmon := rfl
@[simp] theorem State.izero_resize {a n : Nat} : (s.izero a n).resize = s.resize := rfl
@[simp] theorem State.izero_ferries {a n : Nat} : (s.izero a n).ferries = s.ferries := rfl
@[simp] theorem State.izero_fdigs {a n : Nat} : (s.izero a n).fdigs = s.fdigs := rfl
@[simp] theorem State.izero_slices {a n : Nat} : (s.izero a n).slices = s.slices := rfl
@[simp] theorem State.izero_trigs {a n : Nat} : (s.izero a n).trigs = s.trigs := rfl
@[simp] theorem State.izero_progs {a n : Nat} : (s.izero a n).progs = s.progs := rfl
@[simp] theorem State.izero_extTrig {a n : Nat} : (s.izero a n).extTrig = s.extTrig := rfl
@[simp] theorem State.izero_wseq {a n : Nat} : (s.izero a n).wseq = s.wseq := rfl
@[simp] theorem State.izero_prot {a n : Nat} : (s.izero a n).prot = s.prot := rfl
@[simp] theorem State.izero_sns {a n : Nat} : (s.izero a n).sns = s.sns := rfl
@[simp] theorem State.izero_ales {a n : Nat} : (s.izero a n).ales = s.ales := rfl
@[simp] theorem State.izero_aports {a n : Nat} : (s.izero a n).aports = s.aports := rfl
@[simp] theorem State.izero_ticks {a n : Nat} : (s.izero a n).ticks = s.ticks := rfl
@[simp] theorem State.izero_cams {a n : Nat} : (s.izero a n).cams = s.cams := rfl
@[simp] theorem State.izero_vouts {a n : Nat} : (s.izero a n).vouts = s.vouts := rfl
@[simp] theorem State.izero_locals {a n : Nat} : (s.izero a n).locals = s.locals := rfl
@[simp] theorem State.izero_gw {a n : Nat} : (s.izero a n).gw = s.gw := rfl
@[simp] theorem State.izero_casc {a n : Nat} : (s.izero a n).casc = s.casc := rfl
@[simp] theorem State.izero_free {a n : Nat} : (s.izero a n).free = s.free := rfl
@[simp] theorem State.izero_pending {a n : Nat} : (s.izero a n).pending = s.pending := rfl
@[simp] theorem State.emit_regs {o : Out} : (s.emit o).regs = s.regs := rfl
@[simp] theorem State.emit_mem {o : Out} : (s.emit o).mem = s.mem := rfl
@[simp] theorem State.emit_inner {o : Out} : (s.emit o).inner = s.inner := rfl
@[simp] theorem State.emit_clk {o : Out} : (s.emit o).clk = s.clk := rfl
@[simp] theorem State.emit_resp {o : Out} : (s.emit o).resp = s.resp := rfl
@[simp] theorem State.emit_fuse {o : Out} : (s.emit o).fuse = s.fuse := rfl
@[simp] theorem State.emit_boot {o : Out} : (s.emit o).boot = s.boot := rfl
@[simp] theorem State.emit_injects {o : Out} : (s.emit o).injects = s.injects := rfl
@[simp] theorem State.emit_shakers {o : Out} : (s.emit o).shakers = s.shakers := rfl
@[simp] theorem State.emit_held {o : Out} : (s.emit o).held = s.held := rfl
@[simp] theorem State.emit_offices {o : Out} : (s.emit o).offices = s.offices := rfl
@[simp] theorem State.emit_mops {o : Out} : (s.emit o).mops = s.mops := rfl
@[simp] theorem State.emit_leaving {o : Out} : (s.emit o).leaving = s.leaving := rfl
@[simp] theorem State.emit_dmcs {o : Out} : (s.emit o).dmcs = s.dmcs := rfl
@[simp] theorem State.emit_grid {o : Out} : (s.emit o).grid = s.grid := rfl
@[simp] theorem State.emit_poison {o : Out} : (s.emit o).poison = s.poison := rfl
@[simp] theorem State.emit_fab {o : Out} : (s.emit o).fab = s.fab := rfl
@[simp] theorem State.emit_ang {o : Out} : (s.emit o).ang = s.ang := rfl
@[simp] theorem State.emit_harts {o : Out} : (s.emit o).harts = s.harts := rfl
@[simp] theorem State.emit_dbg {o : Out} : (s.emit o).dbg = s.dbg := rfl
@[simp] theorem State.emit_keys {o : Out} : (s.emit o).keys = s.keys := rfl
@[simp] theorem State.emit_park {o : Out} : (s.emit o).park = s.park := rfl
@[simp] theorem State.emit_ledger {o : Out} : (s.emit o).ledger = s.ledger := rfl
@[simp] theorem State.emit_therm {o : Out} : (s.emit o).therm = s.therm := rfl
@[simp] theorem State.emit_domains {o : Out} : (s.emit o).domains = s.domains := rfl
@[simp] theorem State.emit_cores {o : Out} : (s.emit o).cores = s.cores := rfl
@[simp] theorem State.emit_jobs {o : Out} : (s.emit o).jobs = s.jobs := rfl
@[simp] theorem State.emit_jobNo {o : Out} : (s.emit o).jobNo = s.jobNo := rfl
@[simp] theorem State.emit_rings {o : Out} : (s.emit o).rings = s.rings := rfl
@[simp] theorem State.emit_ringTurn {o : Out} : (s.emit o).ringTurn = s.ringTurn := rfl
@[simp] theorem State.emit_acct {o : Out} : (s.emit o).acct = s.acct := rfl
@[simp] theorem State.emit_infLog {o : Out} : (s.emit o).infLog = s.infLog := rfl
@[simp] theorem State.emit_rmon {o : Out} : (s.emit o).rmon = s.rmon := rfl
@[simp] theorem State.emit_resize {o : Out} : (s.emit o).resize = s.resize := rfl
@[simp] theorem State.emit_ferries {o : Out} : (s.emit o).ferries = s.ferries := rfl
@[simp] theorem State.emit_fdigs {o : Out} : (s.emit o).fdigs = s.fdigs := rfl
@[simp] theorem State.emit_slices {o : Out} : (s.emit o).slices = s.slices := rfl
@[simp] theorem State.emit_trigs {o : Out} : (s.emit o).trigs = s.trigs := rfl
@[simp] theorem State.emit_progs {o : Out} : (s.emit o).progs = s.progs := rfl
@[simp] theorem State.emit_extTrig {o : Out} : (s.emit o).extTrig = s.extTrig := rfl
@[simp] theorem State.emit_wseq {o : Out} : (s.emit o).wseq = s.wseq := rfl
@[simp] theorem State.emit_prot {o : Out} : (s.emit o).prot = s.prot := rfl
@[simp] theorem State.emit_sns {o : Out} : (s.emit o).sns = s.sns := rfl
@[simp] theorem State.emit_ales {o : Out} : (s.emit o).ales = s.ales := rfl
@[simp] theorem State.emit_aports {o : Out} : (s.emit o).aports = s.aports := rfl
@[simp] theorem State.emit_ticks {o : Out} : (s.emit o).ticks = s.ticks := rfl
@[simp] theorem State.emit_cams {o : Out} : (s.emit o).cams = s.cams := rfl
@[simp] theorem State.emit_vouts {o : Out} : (s.emit o).vouts = s.vouts := rfl
@[simp] theorem State.emit_locals {o : Out} : (s.emit o).locals = s.locals := rfl
@[simp] theorem State.emit_gw {o : Out} : (s.emit o).gw = s.gw := rfl
@[simp] theorem State.emit_casc {o : Out} : (s.emit o).casc = s.casc := rfl
@[simp] theorem State.emit_free {o : Out} : (s.emit o).free = s.free := rfl
@[simp] theorem State.emit_pending {o : Out} : (s.emit o).pending = s.pending := rfl
@[simp] theorem State.tickTo_regs {t : Nat} : (s.tickTo t).regs = s.regs := rfl
@[simp] theorem State.tickTo_mem {t : Nat} : (s.tickTo t).mem = s.mem := rfl
@[simp] theorem State.tickTo_inner {t : Nat} : (s.tickTo t).inner = s.inner := rfl
@[simp] theorem State.tickTo_resp {t : Nat} : (s.tickTo t).resp = s.resp := rfl
@[simp] theorem State.tickTo_out {t : Nat} : (s.tickTo t).out = s.out := rfl
@[simp] theorem State.tickTo_fuse {t : Nat} : (s.tickTo t).fuse = s.fuse := rfl
@[simp] theorem State.tickTo_boot {t : Nat} : (s.tickTo t).boot = s.boot := rfl
@[simp] theorem State.tickTo_injects {t : Nat} : (s.tickTo t).injects = s.injects := rfl
@[simp] theorem State.tickTo_shakers {t : Nat} : (s.tickTo t).shakers = s.shakers := rfl
@[simp] theorem State.tickTo_held {t : Nat} : (s.tickTo t).held = s.held := rfl
@[simp] theorem State.tickTo_offices {t : Nat} : (s.tickTo t).offices = s.offices := rfl
@[simp] theorem State.tickTo_mops {t : Nat} : (s.tickTo t).mops = s.mops := rfl
@[simp] theorem State.tickTo_leaving {t : Nat} : (s.tickTo t).leaving = s.leaving := rfl
@[simp] theorem State.tickTo_dmcs {t : Nat} : (s.tickTo t).dmcs = s.dmcs := rfl
@[simp] theorem State.tickTo_grid {t : Nat} : (s.tickTo t).grid = s.grid := rfl
@[simp] theorem State.tickTo_poison {t : Nat} : (s.tickTo t).poison = s.poison := rfl
@[simp] theorem State.tickTo_fab {t : Nat} : (s.tickTo t).fab = s.fab := rfl
@[simp] theorem State.tickTo_ang {t : Nat} : (s.tickTo t).ang = s.ang := rfl
@[simp] theorem State.tickTo_harts {t : Nat} : (s.tickTo t).harts = s.harts := rfl
@[simp] theorem State.tickTo_dbg {t : Nat} : (s.tickTo t).dbg = s.dbg := rfl
@[simp] theorem State.tickTo_keys {t : Nat} : (s.tickTo t).keys = s.keys := rfl
@[simp] theorem State.tickTo_park {t : Nat} : (s.tickTo t).park = s.park := rfl
@[simp] theorem State.tickTo_ledger {t : Nat} : (s.tickTo t).ledger = s.ledger := rfl
@[simp] theorem State.tickTo_therm {t : Nat} : (s.tickTo t).therm = s.therm := rfl
@[simp] theorem State.tickTo_domains {t : Nat} : (s.tickTo t).domains = s.domains := rfl
@[simp] theorem State.tickTo_cores {t : Nat} : (s.tickTo t).cores = s.cores := rfl
@[simp] theorem State.tickTo_jobs {t : Nat} : (s.tickTo t).jobs = s.jobs := rfl
@[simp] theorem State.tickTo_jobNo {t : Nat} : (s.tickTo t).jobNo = s.jobNo := rfl
@[simp] theorem State.tickTo_rings {t : Nat} : (s.tickTo t).rings = s.rings := rfl
@[simp] theorem State.tickTo_ringTurn {t : Nat} : (s.tickTo t).ringTurn = s.ringTurn := rfl
@[simp] theorem State.tickTo_acct {t : Nat} : (s.tickTo t).acct = s.acct := rfl
@[simp] theorem State.tickTo_infLog {t : Nat} : (s.tickTo t).infLog = s.infLog := rfl
@[simp] theorem State.tickTo_rmon {t : Nat} : (s.tickTo t).rmon = s.rmon := rfl
@[simp] theorem State.tickTo_resize {t : Nat} : (s.tickTo t).resize = s.resize := rfl
@[simp] theorem State.tickTo_ferries {t : Nat} : (s.tickTo t).ferries = s.ferries := rfl
@[simp] theorem State.tickTo_fdigs {t : Nat} : (s.tickTo t).fdigs = s.fdigs := rfl
@[simp] theorem State.tickTo_slices {t : Nat} : (s.tickTo t).slices = s.slices := rfl
@[simp] theorem State.tickTo_trigs {t : Nat} : (s.tickTo t).trigs = s.trigs := rfl
@[simp] theorem State.tickTo_progs {t : Nat} : (s.tickTo t).progs = s.progs := rfl
@[simp] theorem State.tickTo_extTrig {t : Nat} : (s.tickTo t).extTrig = s.extTrig := rfl
@[simp] theorem State.tickTo_wseq {t : Nat} : (s.tickTo t).wseq = s.wseq := rfl
@[simp] theorem State.tickTo_prot {t : Nat} : (s.tickTo t).prot = s.prot := rfl
@[simp] theorem State.tickTo_sns {t : Nat} : (s.tickTo t).sns = s.sns := rfl
@[simp] theorem State.tickTo_ales {t : Nat} : (s.tickTo t).ales = s.ales := rfl
@[simp] theorem State.tickTo_aports {t : Nat} : (s.tickTo t).aports = s.aports := rfl
@[simp] theorem State.tickTo_ticks {t : Nat} : (s.tickTo t).ticks = s.ticks := rfl
@[simp] theorem State.tickTo_cams {t : Nat} : (s.tickTo t).cams = s.cams := rfl
@[simp] theorem State.tickTo_vouts {t : Nat} : (s.tickTo t).vouts = s.vouts := rfl
@[simp] theorem State.tickTo_locals {t : Nat} : (s.tickTo t).locals = s.locals := rfl
@[simp] theorem State.tickTo_gw {t : Nat} : (s.tickTo t).gw = s.gw := rfl
@[simp] theorem State.tickTo_casc {t : Nat} : (s.tickTo t).casc = s.casc := rfl
@[simp] theorem State.tickTo_free {t : Nat} : (s.tickTo t).free = s.free := rfl
@[simp] theorem State.tickTo_pending {t : Nat} : (s.tickTo t).pending = s.pending := rfl
@[simp] theorem State.respOk_regs {l : List Byte} : (s.respOk l).regs = s.regs := rfl
@[simp] theorem State.respOk_mem {l : List Byte} : (s.respOk l).mem = s.mem := rfl
@[simp] theorem State.respOk_inner {l : List Byte} : (s.respOk l).inner = s.inner := rfl
@[simp] theorem State.respOk_clk {l : List Byte} : (s.respOk l).clk = s.clk := rfl
@[simp] theorem State.respOk_out {l : List Byte} : (s.respOk l).out = s.out := rfl
@[simp] theorem State.respOk_fuse {l : List Byte} : (s.respOk l).fuse = s.fuse := rfl
@[simp] theorem State.respOk_boot {l : List Byte} : (s.respOk l).boot = s.boot := rfl
@[simp] theorem State.respOk_injects {l : List Byte} : (s.respOk l).injects = s.injects := rfl
@[simp] theorem State.respOk_shakers {l : List Byte} : (s.respOk l).shakers = s.shakers := rfl
@[simp] theorem State.respOk_held {l : List Byte} : (s.respOk l).held = s.held := rfl
@[simp] theorem State.respOk_offices {l : List Byte} : (s.respOk l).offices = s.offices := rfl
@[simp] theorem State.respOk_mops {l : List Byte} : (s.respOk l).mops = s.mops := rfl
@[simp] theorem State.respOk_leaving {l : List Byte} : (s.respOk l).leaving = s.leaving := rfl
@[simp] theorem State.respOk_dmcs {l : List Byte} : (s.respOk l).dmcs = s.dmcs := rfl
@[simp] theorem State.respOk_grid {l : List Byte} : (s.respOk l).grid = s.grid := rfl
@[simp] theorem State.respOk_poison {l : List Byte} : (s.respOk l).poison = s.poison := rfl
@[simp] theorem State.respOk_fab {l : List Byte} : (s.respOk l).fab = s.fab := rfl
@[simp] theorem State.respOk_ang {l : List Byte} : (s.respOk l).ang = s.ang := rfl
@[simp] theorem State.respOk_harts {l : List Byte} : (s.respOk l).harts = s.harts := rfl
@[simp] theorem State.respOk_dbg {l : List Byte} : (s.respOk l).dbg = s.dbg := rfl
@[simp] theorem State.respOk_keys {l : List Byte} : (s.respOk l).keys = s.keys := rfl
@[simp] theorem State.respOk_park {l : List Byte} : (s.respOk l).park = s.park := rfl
@[simp] theorem State.respOk_ledger {l : List Byte} : (s.respOk l).ledger = s.ledger := rfl
@[simp] theorem State.respOk_therm {l : List Byte} : (s.respOk l).therm = s.therm := rfl
@[simp] theorem State.respOk_domains {l : List Byte} : (s.respOk l).domains = s.domains := rfl
@[simp] theorem State.respOk_cores {l : List Byte} : (s.respOk l).cores = s.cores := rfl
@[simp] theorem State.respOk_jobs {l : List Byte} : (s.respOk l).jobs = s.jobs := rfl
@[simp] theorem State.respOk_jobNo {l : List Byte} : (s.respOk l).jobNo = s.jobNo := rfl
@[simp] theorem State.respOk_rings {l : List Byte} : (s.respOk l).rings = s.rings := rfl
@[simp] theorem State.respOk_ringTurn {l : List Byte} : (s.respOk l).ringTurn = s.ringTurn := rfl
@[simp] theorem State.respOk_acct {l : List Byte} : (s.respOk l).acct = s.acct := rfl
@[simp] theorem State.respOk_infLog {l : List Byte} : (s.respOk l).infLog = s.infLog := rfl
@[simp] theorem State.respOk_rmon {l : List Byte} : (s.respOk l).rmon = s.rmon := rfl
@[simp] theorem State.respOk_resize {l : List Byte} : (s.respOk l).resize = s.resize := rfl
@[simp] theorem State.respOk_ferries {l : List Byte} : (s.respOk l).ferries = s.ferries := rfl
@[simp] theorem State.respOk_fdigs {l : List Byte} : (s.respOk l).fdigs = s.fdigs := rfl
@[simp] theorem State.respOk_slices {l : List Byte} : (s.respOk l).slices = s.slices := rfl
@[simp] theorem State.respOk_trigs {l : List Byte} : (s.respOk l).trigs = s.trigs := rfl
@[simp] theorem State.respOk_progs {l : List Byte} : (s.respOk l).progs = s.progs := rfl
@[simp] theorem State.respOk_extTrig {l : List Byte} : (s.respOk l).extTrig = s.extTrig := rfl
@[simp] theorem State.respOk_wseq {l : List Byte} : (s.respOk l).wseq = s.wseq := rfl
@[simp] theorem State.respOk_prot {l : List Byte} : (s.respOk l).prot = s.prot := rfl
@[simp] theorem State.respOk_sns {l : List Byte} : (s.respOk l).sns = s.sns := rfl
@[simp] theorem State.respOk_ales {l : List Byte} : (s.respOk l).ales = s.ales := rfl
@[simp] theorem State.respOk_aports {l : List Byte} : (s.respOk l).aports = s.aports := rfl
@[simp] theorem State.respOk_ticks {l : List Byte} : (s.respOk l).ticks = s.ticks := rfl
@[simp] theorem State.respOk_cams {l : List Byte} : (s.respOk l).cams = s.cams := rfl
@[simp] theorem State.respOk_vouts {l : List Byte} : (s.respOk l).vouts = s.vouts := rfl
@[simp] theorem State.respOk_locals {l : List Byte} : (s.respOk l).locals = s.locals := rfl
@[simp] theorem State.respOk_gw {l : List Byte} : (s.respOk l).gw = s.gw := rfl
@[simp] theorem State.respOk_casc {l : List Byte} : (s.respOk l).casc = s.casc := rfl
@[simp] theorem State.respOk_free {l : List Byte} : (s.respOk l).free = s.free := rfl
@[simp] theorem State.respOk_pending {l : List Byte} : (s.respOk l).pending = s.pending := rfl
@[simp] theorem State.respErr_regs {c n : Nat} : (s.respErr c n).regs = s.regs := rfl
@[simp] theorem State.respErr_mem {c n : Nat} : (s.respErr c n).mem = s.mem := rfl
@[simp] theorem State.respErr_inner {c n : Nat} : (s.respErr c n).inner = s.inner := rfl
@[simp] theorem State.respErr_clk {c n : Nat} : (s.respErr c n).clk = s.clk := rfl
@[simp] theorem State.respErr_out {c n : Nat} : (s.respErr c n).out = s.out := rfl
@[simp] theorem State.respErr_fuse {c n : Nat} : (s.respErr c n).fuse = s.fuse := rfl
@[simp] theorem State.respErr_boot {c n : Nat} : (s.respErr c n).boot = s.boot := rfl
@[simp] theorem State.respErr_injects {c n : Nat} : (s.respErr c n).injects = s.injects := rfl
@[simp] theorem State.respErr_shakers {c n : Nat} : (s.respErr c n).shakers = s.shakers := rfl
@[simp] theorem State.respErr_held {c n : Nat} : (s.respErr c n).held = s.held := rfl
@[simp] theorem State.respErr_offices {c n : Nat} : (s.respErr c n).offices = s.offices := rfl
@[simp] theorem State.respErr_mops {c n : Nat} : (s.respErr c n).mops = s.mops := rfl
@[simp] theorem State.respErr_leaving {c n : Nat} : (s.respErr c n).leaving = s.leaving := rfl
@[simp] theorem State.respErr_dmcs {c n : Nat} : (s.respErr c n).dmcs = s.dmcs := rfl
@[simp] theorem State.respErr_grid {c n : Nat} : (s.respErr c n).grid = s.grid := rfl
@[simp] theorem State.respErr_poison {c n : Nat} : (s.respErr c n).poison = s.poison := rfl
@[simp] theorem State.respErr_fab {c n : Nat} : (s.respErr c n).fab = s.fab := rfl
@[simp] theorem State.respErr_ang {c n : Nat} : (s.respErr c n).ang = s.ang := rfl
@[simp] theorem State.respErr_harts {c n : Nat} : (s.respErr c n).harts = s.harts := rfl
@[simp] theorem State.respErr_dbg {c n : Nat} : (s.respErr c n).dbg = s.dbg := rfl
@[simp] theorem State.respErr_keys {c n : Nat} : (s.respErr c n).keys = s.keys := rfl
@[simp] theorem State.respErr_park {c n : Nat} : (s.respErr c n).park = s.park := rfl
@[simp] theorem State.respErr_ledger {c n : Nat} : (s.respErr c n).ledger = s.ledger := rfl
@[simp] theorem State.respErr_therm {c n : Nat} : (s.respErr c n).therm = s.therm := rfl
@[simp] theorem State.respErr_domains {c n : Nat} : (s.respErr c n).domains = s.domains := rfl
@[simp] theorem State.respErr_cores {c n : Nat} : (s.respErr c n).cores = s.cores := rfl
@[simp] theorem State.respErr_jobs {c n : Nat} : (s.respErr c n).jobs = s.jobs := rfl
@[simp] theorem State.respErr_jobNo {c n : Nat} : (s.respErr c n).jobNo = s.jobNo := rfl
@[simp] theorem State.respErr_rings {c n : Nat} : (s.respErr c n).rings = s.rings := rfl
@[simp] theorem State.respErr_ringTurn {c n : Nat} : (s.respErr c n).ringTurn = s.ringTurn := rfl
@[simp] theorem State.respErr_acct {c n : Nat} : (s.respErr c n).acct = s.acct := rfl
@[simp] theorem State.respErr_infLog {c n : Nat} : (s.respErr c n).infLog = s.infLog := rfl
@[simp] theorem State.respErr_rmon {c n : Nat} : (s.respErr c n).rmon = s.rmon := rfl
@[simp] theorem State.respErr_resize {c n : Nat} : (s.respErr c n).resize = s.resize := rfl
@[simp] theorem State.respErr_ferries {c n : Nat} : (s.respErr c n).ferries = s.ferries := rfl
@[simp] theorem State.respErr_fdigs {c n : Nat} : (s.respErr c n).fdigs = s.fdigs := rfl
@[simp] theorem State.respErr_slices {c n : Nat} : (s.respErr c n).slices = s.slices := rfl
@[simp] theorem State.respErr_trigs {c n : Nat} : (s.respErr c n).trigs = s.trigs := rfl
@[simp] theorem State.respErr_progs {c n : Nat} : (s.respErr c n).progs = s.progs := rfl
@[simp] theorem State.respErr_extTrig {c n : Nat} : (s.respErr c n).extTrig = s.extTrig := rfl
@[simp] theorem State.respErr_wseq {c n : Nat} : (s.respErr c n).wseq = s.wseq := rfl
@[simp] theorem State.respErr_prot {c n : Nat} : (s.respErr c n).prot = s.prot := rfl
@[simp] theorem State.respErr_sns {c n : Nat} : (s.respErr c n).sns = s.sns := rfl
@[simp] theorem State.respErr_ales {c n : Nat} : (s.respErr c n).ales = s.ales := rfl
@[simp] theorem State.respErr_aports {c n : Nat} : (s.respErr c n).aports = s.aports := rfl
@[simp] theorem State.respErr_ticks {c n : Nat} : (s.respErr c n).ticks = s.ticks := rfl
@[simp] theorem State.respErr_cams {c n : Nat} : (s.respErr c n).cams = s.cams := rfl
@[simp] theorem State.respErr_vouts {c n : Nat} : (s.respErr c n).vouts = s.vouts := rfl
@[simp] theorem State.respErr_locals {c n : Nat} : (s.respErr c n).locals = s.locals := rfl
@[simp] theorem State.respErr_gw {c n : Nat} : (s.respErr c n).gw = s.gw := rfl
@[simp] theorem State.respErr_casc {c n : Nat} : (s.respErr c n).casc = s.casc := rfl
@[simp] theorem State.respErr_free {c n : Nat} : (s.respErr c n).free = s.free := rfl
@[simp] theorem State.respErr_pending {c n : Nat} : (s.respErr c n).pending = s.pending := rfl
@[simp] theorem State.setReg_mem {a : Nat} {v : Word} : (s.setReg a v).mem = s.mem := rfl
@[simp] theorem State.setReg_inner {a : Nat} {v : Word} : (s.setReg a v).inner = s.inner := rfl
@[simp] theorem State.setReg_clk {a : Nat} {v : Word} : (s.setReg a v).clk = s.clk := rfl
@[simp] theorem State.setReg_resp {a : Nat} {v : Word} : (s.setReg a v).resp = s.resp := rfl
@[simp] theorem State.setReg_out {a : Nat} {v : Word} : (s.setReg a v).out = s.out := rfl
@[simp] theorem State.setReg_fuse {a : Nat} {v : Word} : (s.setReg a v).fuse = s.fuse := rfl
@[simp] theorem State.setReg_boot {a : Nat} {v : Word} : (s.setReg a v).boot = s.boot := rfl
@[simp] theorem State.setReg_injects {a : Nat} {v : Word} : (s.setReg a v).injects = s.injects := rfl
@[simp] theorem State.setReg_shakers {a : Nat} {v : Word} : (s.setReg a v).shakers = s.shakers := rfl
@[simp] theorem State.setReg_held {a : Nat} {v : Word} : (s.setReg a v).held = s.held := rfl
@[simp] theorem State.setReg_offices {a : Nat} {v : Word} : (s.setReg a v).offices = s.offices := rfl
@[simp] theorem State.setReg_mops {a : Nat} {v : Word} : (s.setReg a v).mops = s.mops := rfl
@[simp] theorem State.setReg_leaving {a : Nat} {v : Word} : (s.setReg a v).leaving = s.leaving := rfl
@[simp] theorem State.setReg_dmcs {a : Nat} {v : Word} : (s.setReg a v).dmcs = s.dmcs := rfl
@[simp] theorem State.setReg_grid {a : Nat} {v : Word} : (s.setReg a v).grid = s.grid := rfl
@[simp] theorem State.setReg_poison {a : Nat} {v : Word} : (s.setReg a v).poison = s.poison := rfl
@[simp] theorem State.setReg_fab {a : Nat} {v : Word} : (s.setReg a v).fab = s.fab := rfl
@[simp] theorem State.setReg_ang {a : Nat} {v : Word} : (s.setReg a v).ang = s.ang := rfl
@[simp] theorem State.setReg_harts {a : Nat} {v : Word} : (s.setReg a v).harts = s.harts := rfl
@[simp] theorem State.setReg_dbg {a : Nat} {v : Word} : (s.setReg a v).dbg = s.dbg := rfl
@[simp] theorem State.setReg_keys {a : Nat} {v : Word} : (s.setReg a v).keys = s.keys := rfl
@[simp] theorem State.setReg_park {a : Nat} {v : Word} : (s.setReg a v).park = s.park := rfl
@[simp] theorem State.setReg_ledger {a : Nat} {v : Word} : (s.setReg a v).ledger = s.ledger := rfl
@[simp] theorem State.setReg_therm {a : Nat} {v : Word} : (s.setReg a v).therm = s.therm := rfl
@[simp] theorem State.setReg_domains {a : Nat} {v : Word} : (s.setReg a v).domains = s.domains := rfl
@[simp] theorem State.setReg_cores {a : Nat} {v : Word} : (s.setReg a v).cores = s.cores := rfl
@[simp] theorem State.setReg_jobs {a : Nat} {v : Word} : (s.setReg a v).jobs = s.jobs := rfl
@[simp] theorem State.setReg_jobNo {a : Nat} {v : Word} : (s.setReg a v).jobNo = s.jobNo := rfl
@[simp] theorem State.setReg_rings {a : Nat} {v : Word} : (s.setReg a v).rings = s.rings := rfl
@[simp] theorem State.setReg_ringTurn {a : Nat} {v : Word} : (s.setReg a v).ringTurn = s.ringTurn := rfl
@[simp] theorem State.setReg_acct {a : Nat} {v : Word} : (s.setReg a v).acct = s.acct := rfl
@[simp] theorem State.setReg_infLog {a : Nat} {v : Word} : (s.setReg a v).infLog = s.infLog := rfl
@[simp] theorem State.setReg_rmon {a : Nat} {v : Word} : (s.setReg a v).rmon = s.rmon := rfl
@[simp] theorem State.setReg_resize {a : Nat} {v : Word} : (s.setReg a v).resize = s.resize := rfl
@[simp] theorem State.setReg_ferries {a : Nat} {v : Word} : (s.setReg a v).ferries = s.ferries := rfl
@[simp] theorem State.setReg_fdigs {a : Nat} {v : Word} : (s.setReg a v).fdigs = s.fdigs := rfl
@[simp] theorem State.setReg_slices {a : Nat} {v : Word} : (s.setReg a v).slices = s.slices := rfl
@[simp] theorem State.setReg_trigs {a : Nat} {v : Word} : (s.setReg a v).trigs = s.trigs := rfl
@[simp] theorem State.setReg_progs {a : Nat} {v : Word} : (s.setReg a v).progs = s.progs := rfl
@[simp] theorem State.setReg_extTrig {a : Nat} {v : Word} : (s.setReg a v).extTrig = s.extTrig := rfl
@[simp] theorem State.setReg_wseq {a : Nat} {v : Word} : (s.setReg a v).wseq = s.wseq := rfl
@[simp] theorem State.setReg_prot {a : Nat} {v : Word} : (s.setReg a v).prot = s.prot := rfl
@[simp] theorem State.setReg_sns {a : Nat} {v : Word} : (s.setReg a v).sns = s.sns := rfl
@[simp] theorem State.setReg_ales {a : Nat} {v : Word} : (s.setReg a v).ales = s.ales := rfl
@[simp] theorem State.setReg_aports {a : Nat} {v : Word} : (s.setReg a v).aports = s.aports := rfl
@[simp] theorem State.setReg_ticks {a : Nat} {v : Word} : (s.setReg a v).ticks = s.ticks := rfl
@[simp] theorem State.setReg_cams {a : Nat} {v : Word} : (s.setReg a v).cams = s.cams := rfl
@[simp] theorem State.setReg_vouts {a : Nat} {v : Word} : (s.setReg a v).vouts = s.vouts := rfl
@[simp] theorem State.setReg_locals {a : Nat} {v : Word} : (s.setReg a v).locals = s.locals := rfl
@[simp] theorem State.setReg_gw {a : Nat} {v : Word} : (s.setReg a v).gw = s.gw := rfl
@[simp] theorem State.setReg_casc {a : Nat} {v : Word} : (s.setReg a v).casc = s.casc := rfl
@[simp] theorem State.setReg_free {a : Nat} {v : Word} : (s.setReg a v).free = s.free := rfl
@[simp] theorem State.setReg_pending {a : Nat} {v : Word} : (s.setReg a v).pending = s.pending := rfl
@[simp] theorem State.wr_mem {a v : Nat} : (s.wr a v).mem = s.mem := rfl
@[simp] theorem State.wr_inner {a v : Nat} : (s.wr a v).inner = s.inner := rfl
@[simp] theorem State.wr_clk {a v : Nat} : (s.wr a v).clk = s.clk := rfl
@[simp] theorem State.wr_resp {a v : Nat} : (s.wr a v).resp = s.resp := rfl
@[simp] theorem State.wr_out {a v : Nat} : (s.wr a v).out = s.out := rfl
@[simp] theorem State.wr_fuse {a v : Nat} : (s.wr a v).fuse = s.fuse := rfl
@[simp] theorem State.wr_boot {a v : Nat} : (s.wr a v).boot = s.boot := rfl
@[simp] theorem State.wr_injects {a v : Nat} : (s.wr a v).injects = s.injects := rfl
@[simp] theorem State.wr_shakers {a v : Nat} : (s.wr a v).shakers = s.shakers := rfl
@[simp] theorem State.wr_held {a v : Nat} : (s.wr a v).held = s.held := rfl
@[simp] theorem State.wr_offices {a v : Nat} : (s.wr a v).offices = s.offices := rfl
@[simp] theorem State.wr_mops {a v : Nat} : (s.wr a v).mops = s.mops := rfl
@[simp] theorem State.wr_leaving {a v : Nat} : (s.wr a v).leaving = s.leaving := rfl
@[simp] theorem State.wr_dmcs {a v : Nat} : (s.wr a v).dmcs = s.dmcs := rfl
@[simp] theorem State.wr_grid {a v : Nat} : (s.wr a v).grid = s.grid := rfl
@[simp] theorem State.wr_poison {a v : Nat} : (s.wr a v).poison = s.poison := rfl
@[simp] theorem State.wr_fab {a v : Nat} : (s.wr a v).fab = s.fab := rfl
@[simp] theorem State.wr_ang {a v : Nat} : (s.wr a v).ang = s.ang := rfl
@[simp] theorem State.wr_harts {a v : Nat} : (s.wr a v).harts = s.harts := rfl
@[simp] theorem State.wr_dbg {a v : Nat} : (s.wr a v).dbg = s.dbg := rfl
@[simp] theorem State.wr_keys {a v : Nat} : (s.wr a v).keys = s.keys := rfl
@[simp] theorem State.wr_park {a v : Nat} : (s.wr a v).park = s.park := rfl
@[simp] theorem State.wr_ledger {a v : Nat} : (s.wr a v).ledger = s.ledger := rfl
@[simp] theorem State.wr_therm {a v : Nat} : (s.wr a v).therm = s.therm := rfl
@[simp] theorem State.wr_domains {a v : Nat} : (s.wr a v).domains = s.domains := rfl
@[simp] theorem State.wr_cores {a v : Nat} : (s.wr a v).cores = s.cores := rfl
@[simp] theorem State.wr_jobs {a v : Nat} : (s.wr a v).jobs = s.jobs := rfl
@[simp] theorem State.wr_jobNo {a v : Nat} : (s.wr a v).jobNo = s.jobNo := rfl
@[simp] theorem State.wr_rings {a v : Nat} : (s.wr a v).rings = s.rings := rfl
@[simp] theorem State.wr_ringTurn {a v : Nat} : (s.wr a v).ringTurn = s.ringTurn := rfl
@[simp] theorem State.wr_acct {a v : Nat} : (s.wr a v).acct = s.acct := rfl
@[simp] theorem State.wr_infLog {a v : Nat} : (s.wr a v).infLog = s.infLog := rfl
@[simp] theorem State.wr_rmon {a v : Nat} : (s.wr a v).rmon = s.rmon := rfl
@[simp] theorem State.wr_resize {a v : Nat} : (s.wr a v).resize = s.resize := rfl
@[simp] theorem State.wr_ferries {a v : Nat} : (s.wr a v).ferries = s.ferries := rfl
@[simp] theorem State.wr_fdigs {a v : Nat} : (s.wr a v).fdigs = s.fdigs := rfl
@[simp] theorem State.wr_slices {a v : Nat} : (s.wr a v).slices = s.slices := rfl
@[simp] theorem State.wr_trigs {a v : Nat} : (s.wr a v).trigs = s.trigs := rfl
@[simp] theorem State.wr_progs {a v : Nat} : (s.wr a v).progs = s.progs := rfl
@[simp] theorem State.wr_extTrig {a v : Nat} : (s.wr a v).extTrig = s.extTrig := rfl
@[simp] theorem State.wr_wseq {a v : Nat} : (s.wr a v).wseq = s.wseq := rfl
@[simp] theorem State.wr_prot {a v : Nat} : (s.wr a v).prot = s.prot := rfl
@[simp] theorem State.wr_sns {a v : Nat} : (s.wr a v).sns = s.sns := rfl
@[simp] theorem State.wr_ales {a v : Nat} : (s.wr a v).ales = s.ales := rfl
@[simp] theorem State.wr_aports {a v : Nat} : (s.wr a v).aports = s.aports := rfl
@[simp] theorem State.wr_ticks {a v : Nat} : (s.wr a v).ticks = s.ticks := rfl
@[simp] theorem State.wr_cams {a v : Nat} : (s.wr a v).cams = s.cams := rfl
@[simp] theorem State.wr_vouts {a v : Nat} : (s.wr a v).vouts = s.vouts := rfl
@[simp] theorem State.wr_locals {a v : Nat} : (s.wr a v).locals = s.locals := rfl
@[simp] theorem State.wr_gw {a v : Nat} : (s.wr a v).gw = s.gw := rfl
@[simp] theorem State.wr_casc {a v : Nat} : (s.wr a v).casc = s.casc := rfl
@[simp] theorem State.wr_free {a v : Nat} : (s.wr a v).free = s.free := rfl
@[simp] theorem State.wr_pending {a v : Nat} : (s.wr a v).pending = s.pending := rfl
@[simp] theorem State.putF_mem {a hi lo v : Nat} : (s.putF a hi lo v).mem = s.mem := rfl
@[simp] theorem State.putF_inner {a hi lo v : Nat} : (s.putF a hi lo v).inner = s.inner := rfl
@[simp] theorem State.putF_clk {a hi lo v : Nat} : (s.putF a hi lo v).clk = s.clk := rfl
@[simp] theorem State.putF_resp {a hi lo v : Nat} : (s.putF a hi lo v).resp = s.resp := rfl
@[simp] theorem State.putF_out {a hi lo v : Nat} : (s.putF a hi lo v).out = s.out := rfl
@[simp] theorem State.putF_fuse {a hi lo v : Nat} : (s.putF a hi lo v).fuse = s.fuse := rfl
@[simp] theorem State.putF_boot {a hi lo v : Nat} : (s.putF a hi lo v).boot = s.boot := rfl
@[simp] theorem State.putF_injects {a hi lo v : Nat} : (s.putF a hi lo v).injects = s.injects := rfl
@[simp] theorem State.putF_shakers {a hi lo v : Nat} : (s.putF a hi lo v).shakers = s.shakers := rfl
@[simp] theorem State.putF_held {a hi lo v : Nat} : (s.putF a hi lo v).held = s.held := rfl
@[simp] theorem State.putF_offices {a hi lo v : Nat} : (s.putF a hi lo v).offices = s.offices := rfl
@[simp] theorem State.putF_mops {a hi lo v : Nat} : (s.putF a hi lo v).mops = s.mops := rfl
@[simp] theorem State.putF_leaving {a hi lo v : Nat} : (s.putF a hi lo v).leaving = s.leaving := rfl
@[simp] theorem State.putF_dmcs {a hi lo v : Nat} : (s.putF a hi lo v).dmcs = s.dmcs := rfl
@[simp] theorem State.putF_grid {a hi lo v : Nat} : (s.putF a hi lo v).grid = s.grid := rfl
@[simp] theorem State.putF_poison {a hi lo v : Nat} : (s.putF a hi lo v).poison = s.poison := rfl
@[simp] theorem State.putF_fab {a hi lo v : Nat} : (s.putF a hi lo v).fab = s.fab := rfl
@[simp] theorem State.putF_ang {a hi lo v : Nat} : (s.putF a hi lo v).ang = s.ang := rfl
@[simp] theorem State.putF_harts {a hi lo v : Nat} : (s.putF a hi lo v).harts = s.harts := rfl
@[simp] theorem State.putF_dbg {a hi lo v : Nat} : (s.putF a hi lo v).dbg = s.dbg := rfl
@[simp] theorem State.putF_keys {a hi lo v : Nat} : (s.putF a hi lo v).keys = s.keys := rfl
@[simp] theorem State.putF_park {a hi lo v : Nat} : (s.putF a hi lo v).park = s.park := rfl
@[simp] theorem State.putF_ledger {a hi lo v : Nat} : (s.putF a hi lo v).ledger = s.ledger := rfl
@[simp] theorem State.putF_therm {a hi lo v : Nat} : (s.putF a hi lo v).therm = s.therm := rfl
@[simp] theorem State.putF_domains {a hi lo v : Nat} : (s.putF a hi lo v).domains = s.domains := rfl
@[simp] theorem State.putF_cores {a hi lo v : Nat} : (s.putF a hi lo v).cores = s.cores := rfl
@[simp] theorem State.putF_jobs {a hi lo v : Nat} : (s.putF a hi lo v).jobs = s.jobs := rfl
@[simp] theorem State.putF_jobNo {a hi lo v : Nat} : (s.putF a hi lo v).jobNo = s.jobNo := rfl
@[simp] theorem State.putF_rings {a hi lo v : Nat} : (s.putF a hi lo v).rings = s.rings := rfl
@[simp] theorem State.putF_ringTurn {a hi lo v : Nat} : (s.putF a hi lo v).ringTurn = s.ringTurn := rfl
@[simp] theorem State.putF_acct {a hi lo v : Nat} : (s.putF a hi lo v).acct = s.acct := rfl
@[simp] theorem State.putF_infLog {a hi lo v : Nat} : (s.putF a hi lo v).infLog = s.infLog := rfl
@[simp] theorem State.putF_rmon {a hi lo v : Nat} : (s.putF a hi lo v).rmon = s.rmon := rfl
@[simp] theorem State.putF_resize {a hi lo v : Nat} : (s.putF a hi lo v).resize = s.resize := rfl
@[simp] theorem State.putF_ferries {a hi lo v : Nat} : (s.putF a hi lo v).ferries = s.ferries := rfl
@[simp] theorem State.putF_fdigs {a hi lo v : Nat} : (s.putF a hi lo v).fdigs = s.fdigs := rfl
@[simp] theorem State.putF_slices {a hi lo v : Nat} : (s.putF a hi lo v).slices = s.slices := rfl
@[simp] theorem State.putF_trigs {a hi lo v : Nat} : (s.putF a hi lo v).trigs = s.trigs := rfl
@[simp] theorem State.putF_progs {a hi lo v : Nat} : (s.putF a hi lo v).progs = s.progs := rfl
@[simp] theorem State.putF_extTrig {a hi lo v : Nat} : (s.putF a hi lo v).extTrig = s.extTrig := rfl
@[simp] theorem State.putF_wseq {a hi lo v : Nat} : (s.putF a hi lo v).wseq = s.wseq := rfl
@[simp] theorem State.putF_prot {a hi lo v : Nat} : (s.putF a hi lo v).prot = s.prot := rfl
@[simp] theorem State.putF_sns {a hi lo v : Nat} : (s.putF a hi lo v).sns = s.sns := rfl
@[simp] theorem State.putF_ales {a hi lo v : Nat} : (s.putF a hi lo v).ales = s.ales := rfl
@[simp] theorem State.putF_aports {a hi lo v : Nat} : (s.putF a hi lo v).aports = s.aports := rfl
@[simp] theorem State.putF_ticks {a hi lo v : Nat} : (s.putF a hi lo v).ticks = s.ticks := rfl
@[simp] theorem State.putF_cams {a hi lo v : Nat} : (s.putF a hi lo v).cams = s.cams := rfl
@[simp] theorem State.putF_vouts {a hi lo v : Nat} : (s.putF a hi lo v).vouts = s.vouts := rfl
@[simp] theorem State.putF_locals {a hi lo v : Nat} : (s.putF a hi lo v).locals = s.locals := rfl
@[simp] theorem State.putF_gw {a hi lo v : Nat} : (s.putF a hi lo v).gw = s.gw := rfl
@[simp] theorem State.putF_casc {a hi lo v : Nat} : (s.putF a hi lo v).casc = s.casc := rfl
@[simp] theorem State.putF_free {a hi lo v : Nat} : (s.putF a hi lo v).free = s.free := rfl
@[simp] theorem State.putF_pending {a hi lo v : Nat} : (s.putF a hi lo v).pending = s.pending := rfl
@[simp] theorem State.putBit_mem {a k : Nat} {b : Bool} : (s.putBit a k b).mem = s.mem := rfl
@[simp] theorem State.putBit_inner {a k : Nat} {b : Bool} : (s.putBit a k b).inner = s.inner := rfl
@[simp] theorem State.putBit_clk {a k : Nat} {b : Bool} : (s.putBit a k b).clk = s.clk := rfl
@[simp] theorem State.putBit_resp {a k : Nat} {b : Bool} : (s.putBit a k b).resp = s.resp := rfl
@[simp] theorem State.putBit_out {a k : Nat} {b : Bool} : (s.putBit a k b).out = s.out := rfl
@[simp] theorem State.putBit_fuse {a k : Nat} {b : Bool} : (s.putBit a k b).fuse = s.fuse := rfl
@[simp] theorem State.putBit_boot {a k : Nat} {b : Bool} : (s.putBit a k b).boot = s.boot := rfl
@[simp] theorem State.putBit_injects {a k : Nat} {b : Bool} : (s.putBit a k b).injects = s.injects := rfl
@[simp] theorem State.putBit_shakers {a k : Nat} {b : Bool} : (s.putBit a k b).shakers = s.shakers := rfl
@[simp] theorem State.putBit_held {a k : Nat} {b : Bool} : (s.putBit a k b).held = s.held := rfl
@[simp] theorem State.putBit_offices {a k : Nat} {b : Bool} : (s.putBit a k b).offices = s.offices := rfl
@[simp] theorem State.putBit_mops {a k : Nat} {b : Bool} : (s.putBit a k b).mops = s.mops := rfl
@[simp] theorem State.putBit_leaving {a k : Nat} {b : Bool} : (s.putBit a k b).leaving = s.leaving := rfl
@[simp] theorem State.putBit_dmcs {a k : Nat} {b : Bool} : (s.putBit a k b).dmcs = s.dmcs := rfl
@[simp] theorem State.putBit_grid {a k : Nat} {b : Bool} : (s.putBit a k b).grid = s.grid := rfl
@[simp] theorem State.putBit_poison {a k : Nat} {b : Bool} : (s.putBit a k b).poison = s.poison := rfl
@[simp] theorem State.putBit_fab {a k : Nat} {b : Bool} : (s.putBit a k b).fab = s.fab := rfl
@[simp] theorem State.putBit_ang {a k : Nat} {b : Bool} : (s.putBit a k b).ang = s.ang := rfl
@[simp] theorem State.putBit_harts {a k : Nat} {b : Bool} : (s.putBit a k b).harts = s.harts := rfl
@[simp] theorem State.putBit_dbg {a k : Nat} {b : Bool} : (s.putBit a k b).dbg = s.dbg := rfl
@[simp] theorem State.putBit_keys {a k : Nat} {b : Bool} : (s.putBit a k b).keys = s.keys := rfl
@[simp] theorem State.putBit_park {a k : Nat} {b : Bool} : (s.putBit a k b).park = s.park := rfl
@[simp] theorem State.putBit_ledger {a k : Nat} {b : Bool} : (s.putBit a k b).ledger = s.ledger := rfl
@[simp] theorem State.putBit_therm {a k : Nat} {b : Bool} : (s.putBit a k b).therm = s.therm := rfl
@[simp] theorem State.putBit_domains {a k : Nat} {b : Bool} : (s.putBit a k b).domains = s.domains := rfl
@[simp] theorem State.putBit_cores {a k : Nat} {b : Bool} : (s.putBit a k b).cores = s.cores := rfl
@[simp] theorem State.putBit_jobs {a k : Nat} {b : Bool} : (s.putBit a k b).jobs = s.jobs := rfl
@[simp] theorem State.putBit_jobNo {a k : Nat} {b : Bool} : (s.putBit a k b).jobNo = s.jobNo := rfl
@[simp] theorem State.putBit_rings {a k : Nat} {b : Bool} : (s.putBit a k b).rings = s.rings := rfl
@[simp] theorem State.putBit_ringTurn {a k : Nat} {b : Bool} : (s.putBit a k b).ringTurn = s.ringTurn := rfl
@[simp] theorem State.putBit_acct {a k : Nat} {b : Bool} : (s.putBit a k b).acct = s.acct := rfl
@[simp] theorem State.putBit_infLog {a k : Nat} {b : Bool} : (s.putBit a k b).infLog = s.infLog := rfl
@[simp] theorem State.putBit_rmon {a k : Nat} {b : Bool} : (s.putBit a k b).rmon = s.rmon := rfl
@[simp] theorem State.putBit_resize {a k : Nat} {b : Bool} : (s.putBit a k b).resize = s.resize := rfl
@[simp] theorem State.putBit_ferries {a k : Nat} {b : Bool} : (s.putBit a k b).ferries = s.ferries := rfl
@[simp] theorem State.putBit_fdigs {a k : Nat} {b : Bool} : (s.putBit a k b).fdigs = s.fdigs := rfl
@[simp] theorem State.putBit_slices {a k : Nat} {b : Bool} : (s.putBit a k b).slices = s.slices := rfl
@[simp] theorem State.putBit_trigs {a k : Nat} {b : Bool} : (s.putBit a k b).trigs = s.trigs := rfl
@[simp] theorem State.putBit_progs {a k : Nat} {b : Bool} : (s.putBit a k b).progs = s.progs := rfl
@[simp] theorem State.putBit_extTrig {a k : Nat} {b : Bool} : (s.putBit a k b).extTrig = s.extTrig := rfl
@[simp] theorem State.putBit_wseq {a k : Nat} {b : Bool} : (s.putBit a k b).wseq = s.wseq := rfl
@[simp] theorem State.putBit_prot {a k : Nat} {b : Bool} : (s.putBit a k b).prot = s.prot := rfl
@[simp] theorem State.putBit_sns {a k : Nat} {b : Bool} : (s.putBit a k b).sns = s.sns := rfl
@[simp] theorem State.putBit_ales {a k : Nat} {b : Bool} : (s.putBit a k b).ales = s.ales := rfl
@[simp] theorem State.putBit_aports {a k : Nat} {b : Bool} : (s.putBit a k b).aports = s.aports := rfl
@[simp] theorem State.putBit_ticks {a k : Nat} {b : Bool} : (s.putBit a k b).ticks = s.ticks := rfl
@[simp] theorem State.putBit_cams {a k : Nat} {b : Bool} : (s.putBit a k b).cams = s.cams := rfl
@[simp] theorem State.putBit_vouts {a k : Nat} {b : Bool} : (s.putBit a k b).vouts = s.vouts := rfl
@[simp] theorem State.putBit_locals {a k : Nat} {b : Bool} : (s.putBit a k b).locals = s.locals := rfl
@[simp] theorem State.putBit_gw {a k : Nat} {b : Bool} : (s.putBit a k b).gw = s.gw := rfl
@[simp] theorem State.putBit_casc {a k : Nat} {b : Bool} : (s.putBit a k b).casc = s.casc := rfl
@[simp] theorem State.putBit_free {a k : Nat} {b : Bool} : (s.putBit a k b).free = s.free := rfl
@[simp] theorem State.putBit_pending {a k : Nat} {b : Bool} : (s.putBit a k b).pending = s.pending := rfl
@[simp] theorem State.addSat_mem {a hi lo n : Nat} : (s.addSat a hi lo n).mem = s.mem := rfl
@[simp] theorem State.addSat_inner {a hi lo n : Nat} : (s.addSat a hi lo n).inner = s.inner := rfl
@[simp] theorem State.addSat_clk {a hi lo n : Nat} : (s.addSat a hi lo n).clk = s.clk := rfl
@[simp] theorem State.addSat_resp {a hi lo n : Nat} : (s.addSat a hi lo n).resp = s.resp := rfl
@[simp] theorem State.addSat_out {a hi lo n : Nat} : (s.addSat a hi lo n).out = s.out := rfl
@[simp] theorem State.addSat_fuse {a hi lo n : Nat} : (s.addSat a hi lo n).fuse = s.fuse := rfl
@[simp] theorem State.addSat_boot {a hi lo n : Nat} : (s.addSat a hi lo n).boot = s.boot := rfl
@[simp] theorem State.addSat_injects {a hi lo n : Nat} : (s.addSat a hi lo n).injects = s.injects := rfl
@[simp] theorem State.addSat_shakers {a hi lo n : Nat} : (s.addSat a hi lo n).shakers = s.shakers := rfl
@[simp] theorem State.addSat_held {a hi lo n : Nat} : (s.addSat a hi lo n).held = s.held := rfl
@[simp] theorem State.addSat_offices {a hi lo n : Nat} : (s.addSat a hi lo n).offices = s.offices := rfl
@[simp] theorem State.addSat_mops {a hi lo n : Nat} : (s.addSat a hi lo n).mops = s.mops := rfl
@[simp] theorem State.addSat_leaving {a hi lo n : Nat} : (s.addSat a hi lo n).leaving = s.leaving := rfl
@[simp] theorem State.addSat_dmcs {a hi lo n : Nat} : (s.addSat a hi lo n).dmcs = s.dmcs := rfl
@[simp] theorem State.addSat_grid {a hi lo n : Nat} : (s.addSat a hi lo n).grid = s.grid := rfl
@[simp] theorem State.addSat_poison {a hi lo n : Nat} : (s.addSat a hi lo n).poison = s.poison := rfl
@[simp] theorem State.addSat_fab {a hi lo n : Nat} : (s.addSat a hi lo n).fab = s.fab := rfl
@[simp] theorem State.addSat_ang {a hi lo n : Nat} : (s.addSat a hi lo n).ang = s.ang := rfl
@[simp] theorem State.addSat_harts {a hi lo n : Nat} : (s.addSat a hi lo n).harts = s.harts := rfl
@[simp] theorem State.addSat_dbg {a hi lo n : Nat} : (s.addSat a hi lo n).dbg = s.dbg := rfl
@[simp] theorem State.addSat_keys {a hi lo n : Nat} : (s.addSat a hi lo n).keys = s.keys := rfl
@[simp] theorem State.addSat_park {a hi lo n : Nat} : (s.addSat a hi lo n).park = s.park := rfl
@[simp] theorem State.addSat_ledger {a hi lo n : Nat} : (s.addSat a hi lo n).ledger = s.ledger := rfl
@[simp] theorem State.addSat_therm {a hi lo n : Nat} : (s.addSat a hi lo n).therm = s.therm := rfl
@[simp] theorem State.addSat_domains {a hi lo n : Nat} : (s.addSat a hi lo n).domains = s.domains := rfl
@[simp] theorem State.addSat_cores {a hi lo n : Nat} : (s.addSat a hi lo n).cores = s.cores := rfl
@[simp] theorem State.addSat_jobs {a hi lo n : Nat} : (s.addSat a hi lo n).jobs = s.jobs := rfl
@[simp] theorem State.addSat_jobNo {a hi lo n : Nat} : (s.addSat a hi lo n).jobNo = s.jobNo := rfl
@[simp] theorem State.addSat_rings {a hi lo n : Nat} : (s.addSat a hi lo n).rings = s.rings := rfl
@[simp] theorem State.addSat_ringTurn {a hi lo n : Nat} : (s.addSat a hi lo n).ringTurn = s.ringTurn := rfl
@[simp] theorem State.addSat_acct {a hi lo n : Nat} : (s.addSat a hi lo n).acct = s.acct := rfl
@[simp] theorem State.addSat_infLog {a hi lo n : Nat} : (s.addSat a hi lo n).infLog = s.infLog := rfl
@[simp] theorem State.addSat_rmon {a hi lo n : Nat} : (s.addSat a hi lo n).rmon = s.rmon := rfl
@[simp] theorem State.addSat_resize {a hi lo n : Nat} : (s.addSat a hi lo n).resize = s.resize := rfl
@[simp] theorem State.addSat_ferries {a hi lo n : Nat} : (s.addSat a hi lo n).ferries = s.ferries := rfl
@[simp] theorem State.addSat_fdigs {a hi lo n : Nat} : (s.addSat a hi lo n).fdigs = s.fdigs := rfl
@[simp] theorem State.addSat_slices {a hi lo n : Nat} : (s.addSat a hi lo n).slices = s.slices := rfl
@[simp] theorem State.addSat_trigs {a hi lo n : Nat} : (s.addSat a hi lo n).trigs = s.trigs := rfl
@[simp] theorem State.addSat_progs {a hi lo n : Nat} : (s.addSat a hi lo n).progs = s.progs := rfl
@[simp] theorem State.addSat_extTrig {a hi lo n : Nat} : (s.addSat a hi lo n).extTrig = s.extTrig := rfl
@[simp] theorem State.addSat_wseq {a hi lo n : Nat} : (s.addSat a hi lo n).wseq = s.wseq := rfl
@[simp] theorem State.addSat_prot {a hi lo n : Nat} : (s.addSat a hi lo n).prot = s.prot := rfl
@[simp] theorem State.addSat_sns {a hi lo n : Nat} : (s.addSat a hi lo n).sns = s.sns := rfl
@[simp] theorem State.addSat_ales {a hi lo n : Nat} : (s.addSat a hi lo n).ales = s.ales := rfl
@[simp] theorem State.addSat_aports {a hi lo n : Nat} : (s.addSat a hi lo n).aports = s.aports := rfl
@[simp] theorem State.addSat_ticks {a hi lo n : Nat} : (s.addSat a hi lo n).ticks = s.ticks := rfl
@[simp] theorem State.addSat_cams {a hi lo n : Nat} : (s.addSat a hi lo n).cams = s.cams := rfl
@[simp] theorem State.addSat_vouts {a hi lo n : Nat} : (s.addSat a hi lo n).vouts = s.vouts := rfl
@[simp] theorem State.addSat_locals {a hi lo n : Nat} : (s.addSat a hi lo n).locals = s.locals := rfl
@[simp] theorem State.addSat_gw {a hi lo n : Nat} : (s.addSat a hi lo n).gw = s.gw := rfl
@[simp] theorem State.addSat_casc {a hi lo n : Nat} : (s.addSat a hi lo n).casc = s.casc := rfl
@[simp] theorem State.addSat_free {a hi lo n : Nat} : (s.addSat a hi lo n).free = s.free := rfl
@[simp] theorem State.addSat_pending {a hi lo n : Nat} : (s.addSat a hi lo n).pending = s.pending := rfl
@[simp] theorem State.addWrap_mem {a hi lo n : Nat} : (s.addWrap a hi lo n).mem = s.mem := rfl
@[simp] theorem State.addWrap_inner {a hi lo n : Nat} : (s.addWrap a hi lo n).inner = s.inner := rfl
@[simp] theorem State.addWrap_clk {a hi lo n : Nat} : (s.addWrap a hi lo n).clk = s.clk := rfl
@[simp] theorem State.addWrap_resp {a hi lo n : Nat} : (s.addWrap a hi lo n).resp = s.resp := rfl
@[simp] theorem State.addWrap_out {a hi lo n : Nat} : (s.addWrap a hi lo n).out = s.out := rfl
@[simp] theorem State.addWrap_fuse {a hi lo n : Nat} : (s.addWrap a hi lo n).fuse = s.fuse := rfl
@[simp] theorem State.addWrap_boot {a hi lo n : Nat} : (s.addWrap a hi lo n).boot = s.boot := rfl
@[simp] theorem State.addWrap_injects {a hi lo n : Nat} : (s.addWrap a hi lo n).injects = s.injects := rfl
@[simp] theorem State.addWrap_shakers {a hi lo n : Nat} : (s.addWrap a hi lo n).shakers = s.shakers := rfl
@[simp] theorem State.addWrap_held {a hi lo n : Nat} : (s.addWrap a hi lo n).held = s.held := rfl
@[simp] theorem State.addWrap_offices {a hi lo n : Nat} : (s.addWrap a hi lo n).offices = s.offices := rfl
@[simp] theorem State.addWrap_mops {a hi lo n : Nat} : (s.addWrap a hi lo n).mops = s.mops := rfl
@[simp] theorem State.addWrap_leaving {a hi lo n : Nat} : (s.addWrap a hi lo n).leaving = s.leaving := rfl
@[simp] theorem State.addWrap_dmcs {a hi lo n : Nat} : (s.addWrap a hi lo n).dmcs = s.dmcs := rfl
@[simp] theorem State.addWrap_grid {a hi lo n : Nat} : (s.addWrap a hi lo n).grid = s.grid := rfl
@[simp] theorem State.addWrap_poison {a hi lo n : Nat} : (s.addWrap a hi lo n).poison = s.poison := rfl
@[simp] theorem State.addWrap_fab {a hi lo n : Nat} : (s.addWrap a hi lo n).fab = s.fab := rfl
@[simp] theorem State.addWrap_ang {a hi lo n : Nat} : (s.addWrap a hi lo n).ang = s.ang := rfl
@[simp] theorem State.addWrap_harts {a hi lo n : Nat} : (s.addWrap a hi lo n).harts = s.harts := rfl
@[simp] theorem State.addWrap_dbg {a hi lo n : Nat} : (s.addWrap a hi lo n).dbg = s.dbg := rfl
@[simp] theorem State.addWrap_keys {a hi lo n : Nat} : (s.addWrap a hi lo n).keys = s.keys := rfl
@[simp] theorem State.addWrap_park {a hi lo n : Nat} : (s.addWrap a hi lo n).park = s.park := rfl
@[simp] theorem State.addWrap_ledger {a hi lo n : Nat} : (s.addWrap a hi lo n).ledger = s.ledger := rfl
@[simp] theorem State.addWrap_therm {a hi lo n : Nat} : (s.addWrap a hi lo n).therm = s.therm := rfl
@[simp] theorem State.addWrap_domains {a hi lo n : Nat} : (s.addWrap a hi lo n).domains = s.domains := rfl
@[simp] theorem State.addWrap_cores {a hi lo n : Nat} : (s.addWrap a hi lo n).cores = s.cores := rfl
@[simp] theorem State.addWrap_jobs {a hi lo n : Nat} : (s.addWrap a hi lo n).jobs = s.jobs := rfl
@[simp] theorem State.addWrap_jobNo {a hi lo n : Nat} : (s.addWrap a hi lo n).jobNo = s.jobNo := rfl
@[simp] theorem State.addWrap_rings {a hi lo n : Nat} : (s.addWrap a hi lo n).rings = s.rings := rfl
@[simp] theorem State.addWrap_ringTurn {a hi lo n : Nat} : (s.addWrap a hi lo n).ringTurn = s.ringTurn := rfl
@[simp] theorem State.addWrap_acct {a hi lo n : Nat} : (s.addWrap a hi lo n).acct = s.acct := rfl
@[simp] theorem State.addWrap_infLog {a hi lo n : Nat} : (s.addWrap a hi lo n).infLog = s.infLog := rfl
@[simp] theorem State.addWrap_rmon {a hi lo n : Nat} : (s.addWrap a hi lo n).rmon = s.rmon := rfl
@[simp] theorem State.addWrap_resize {a hi lo n : Nat} : (s.addWrap a hi lo n).resize = s.resize := rfl
@[simp] theorem State.addWrap_ferries {a hi lo n : Nat} : (s.addWrap a hi lo n).ferries = s.ferries := rfl
@[simp] theorem State.addWrap_fdigs {a hi lo n : Nat} : (s.addWrap a hi lo n).fdigs = s.fdigs := rfl
@[simp] theorem State.addWrap_slices {a hi lo n : Nat} : (s.addWrap a hi lo n).slices = s.slices := rfl
@[simp] theorem State.addWrap_trigs {a hi lo n : Nat} : (s.addWrap a hi lo n).trigs = s.trigs := rfl
@[simp] theorem State.addWrap_progs {a hi lo n : Nat} : (s.addWrap a hi lo n).progs = s.progs := rfl
@[simp] theorem State.addWrap_extTrig {a hi lo n : Nat} : (s.addWrap a hi lo n).extTrig = s.extTrig := rfl
@[simp] theorem State.addWrap_wseq {a hi lo n : Nat} : (s.addWrap a hi lo n).wseq = s.wseq := rfl
@[simp] theorem State.addWrap_prot {a hi lo n : Nat} : (s.addWrap a hi lo n).prot = s.prot := rfl
@[simp] theorem State.addWrap_sns {a hi lo n : Nat} : (s.addWrap a hi lo n).sns = s.sns := rfl
@[simp] theorem State.addWrap_ales {a hi lo n : Nat} : (s.addWrap a hi lo n).ales = s.ales := rfl
@[simp] theorem State.addWrap_aports {a hi lo n : Nat} : (s.addWrap a hi lo n).aports = s.aports := rfl
@[simp] theorem State.addWrap_ticks {a hi lo n : Nat} : (s.addWrap a hi lo n).ticks = s.ticks := rfl
@[simp] theorem State.addWrap_cams {a hi lo n : Nat} : (s.addWrap a hi lo n).cams = s.cams := rfl
@[simp] theorem State.addWrap_vouts {a hi lo n : Nat} : (s.addWrap a hi lo n).vouts = s.vouts := rfl
@[simp] theorem State.addWrap_locals {a hi lo n : Nat} : (s.addWrap a hi lo n).locals = s.locals := rfl
@[simp] theorem State.addWrap_gw {a hi lo n : Nat} : (s.addWrap a hi lo n).gw = s.gw := rfl
@[simp] theorem State.addWrap_casc {a hi lo n : Nat} : (s.addWrap a hi lo n).casc = s.casc := rfl
@[simp] theorem State.addWrap_free {a hi lo n : Nat} : (s.addWrap a hi lo n).free = s.free := rfl
@[simp] theorem State.addWrap_pending {a hi lo n : Nat} : (s.addWrap a hi lo n).pending = s.pending := rfl
@[simp] theorem State.incSat_mem {a hi lo : Nat} : (s.incSat a hi lo).mem = s.mem := rfl
@[simp] theorem State.incSat_inner {a hi lo : Nat} : (s.incSat a hi lo).inner = s.inner := rfl
@[simp] theorem State.incSat_clk {a hi lo : Nat} : (s.incSat a hi lo).clk = s.clk := rfl
@[simp] theorem State.incSat_resp {a hi lo : Nat} : (s.incSat a hi lo).resp = s.resp := rfl
@[simp] theorem State.incSat_out {a hi lo : Nat} : (s.incSat a hi lo).out = s.out := rfl
@[simp] theorem State.incSat_fuse {a hi lo : Nat} : (s.incSat a hi lo).fuse = s.fuse := rfl
@[simp] theorem State.incSat_boot {a hi lo : Nat} : (s.incSat a hi lo).boot = s.boot := rfl
@[simp] theorem State.incSat_injects {a hi lo : Nat} : (s.incSat a hi lo).injects = s.injects := rfl
@[simp] theorem State.incSat_shakers {a hi lo : Nat} : (s.incSat a hi lo).shakers = s.shakers := rfl
@[simp] theorem State.incSat_held {a hi lo : Nat} : (s.incSat a hi lo).held = s.held := rfl
@[simp] theorem State.incSat_offices {a hi lo : Nat} : (s.incSat a hi lo).offices = s.offices := rfl
@[simp] theorem State.incSat_mops {a hi lo : Nat} : (s.incSat a hi lo).mops = s.mops := rfl
@[simp] theorem State.incSat_leaving {a hi lo : Nat} : (s.incSat a hi lo).leaving = s.leaving := rfl
@[simp] theorem State.incSat_dmcs {a hi lo : Nat} : (s.incSat a hi lo).dmcs = s.dmcs := rfl
@[simp] theorem State.incSat_grid {a hi lo : Nat} : (s.incSat a hi lo).grid = s.grid := rfl
@[simp] theorem State.incSat_poison {a hi lo : Nat} : (s.incSat a hi lo).poison = s.poison := rfl
@[simp] theorem State.incSat_fab {a hi lo : Nat} : (s.incSat a hi lo).fab = s.fab := rfl
@[simp] theorem State.incSat_ang {a hi lo : Nat} : (s.incSat a hi lo).ang = s.ang := rfl
@[simp] theorem State.incSat_harts {a hi lo : Nat} : (s.incSat a hi lo).harts = s.harts := rfl
@[simp] theorem State.incSat_dbg {a hi lo : Nat} : (s.incSat a hi lo).dbg = s.dbg := rfl
@[simp] theorem State.incSat_keys {a hi lo : Nat} : (s.incSat a hi lo).keys = s.keys := rfl
@[simp] theorem State.incSat_park {a hi lo : Nat} : (s.incSat a hi lo).park = s.park := rfl
@[simp] theorem State.incSat_ledger {a hi lo : Nat} : (s.incSat a hi lo).ledger = s.ledger := rfl
@[simp] theorem State.incSat_therm {a hi lo : Nat} : (s.incSat a hi lo).therm = s.therm := rfl
@[simp] theorem State.incSat_domains {a hi lo : Nat} : (s.incSat a hi lo).domains = s.domains := rfl
@[simp] theorem State.incSat_cores {a hi lo : Nat} : (s.incSat a hi lo).cores = s.cores := rfl
@[simp] theorem State.incSat_jobs {a hi lo : Nat} : (s.incSat a hi lo).jobs = s.jobs := rfl
@[simp] theorem State.incSat_jobNo {a hi lo : Nat} : (s.incSat a hi lo).jobNo = s.jobNo := rfl
@[simp] theorem State.incSat_rings {a hi lo : Nat} : (s.incSat a hi lo).rings = s.rings := rfl
@[simp] theorem State.incSat_ringTurn {a hi lo : Nat} : (s.incSat a hi lo).ringTurn = s.ringTurn := rfl
@[simp] theorem State.incSat_acct {a hi lo : Nat} : (s.incSat a hi lo).acct = s.acct := rfl
@[simp] theorem State.incSat_infLog {a hi lo : Nat} : (s.incSat a hi lo).infLog = s.infLog := rfl
@[simp] theorem State.incSat_rmon {a hi lo : Nat} : (s.incSat a hi lo).rmon = s.rmon := rfl
@[simp] theorem State.incSat_resize {a hi lo : Nat} : (s.incSat a hi lo).resize = s.resize := rfl
@[simp] theorem State.incSat_ferries {a hi lo : Nat} : (s.incSat a hi lo).ferries = s.ferries := rfl
@[simp] theorem State.incSat_fdigs {a hi lo : Nat} : (s.incSat a hi lo).fdigs = s.fdigs := rfl
@[simp] theorem State.incSat_slices {a hi lo : Nat} : (s.incSat a hi lo).slices = s.slices := rfl
@[simp] theorem State.incSat_trigs {a hi lo : Nat} : (s.incSat a hi lo).trigs = s.trigs := rfl
@[simp] theorem State.incSat_progs {a hi lo : Nat} : (s.incSat a hi lo).progs = s.progs := rfl
@[simp] theorem State.incSat_extTrig {a hi lo : Nat} : (s.incSat a hi lo).extTrig = s.extTrig := rfl
@[simp] theorem State.incSat_wseq {a hi lo : Nat} : (s.incSat a hi lo).wseq = s.wseq := rfl
@[simp] theorem State.incSat_prot {a hi lo : Nat} : (s.incSat a hi lo).prot = s.prot := rfl
@[simp] theorem State.incSat_sns {a hi lo : Nat} : (s.incSat a hi lo).sns = s.sns := rfl
@[simp] theorem State.incSat_ales {a hi lo : Nat} : (s.incSat a hi lo).ales = s.ales := rfl
@[simp] theorem State.incSat_aports {a hi lo : Nat} : (s.incSat a hi lo).aports = s.aports := rfl
@[simp] theorem State.incSat_ticks {a hi lo : Nat} : (s.incSat a hi lo).ticks = s.ticks := rfl
@[simp] theorem State.incSat_cams {a hi lo : Nat} : (s.incSat a hi lo).cams = s.cams := rfl
@[simp] theorem State.incSat_vouts {a hi lo : Nat} : (s.incSat a hi lo).vouts = s.vouts := rfl
@[simp] theorem State.incSat_locals {a hi lo : Nat} : (s.incSat a hi lo).locals = s.locals := rfl
@[simp] theorem State.incSat_gw {a hi lo : Nat} : (s.incSat a hi lo).gw = s.gw := rfl
@[simp] theorem State.incSat_casc {a hi lo : Nat} : (s.incSat a hi lo).casc = s.casc := rfl
@[simp] theorem State.incSat_free {a hi lo : Nat} : (s.incSat a hi lo).free = s.free := rfl
@[simp] theorem State.incSat_pending {a hi lo : Nat} : (s.incSat a hi lo).pending = s.pending := rfl
@[simp] theorem State.incWrap_mem {a hi lo : Nat} : (s.incWrap a hi lo).mem = s.mem := rfl
@[simp] theorem State.incWrap_inner {a hi lo : Nat} : (s.incWrap a hi lo).inner = s.inner := rfl
@[simp] theorem State.incWrap_clk {a hi lo : Nat} : (s.incWrap a hi lo).clk = s.clk := rfl
@[simp] theorem State.incWrap_resp {a hi lo : Nat} : (s.incWrap a hi lo).resp = s.resp := rfl
@[simp] theorem State.incWrap_out {a hi lo : Nat} : (s.incWrap a hi lo).out = s.out := rfl
@[simp] theorem State.incWrap_fuse {a hi lo : Nat} : (s.incWrap a hi lo).fuse = s.fuse := rfl
@[simp] theorem State.incWrap_boot {a hi lo : Nat} : (s.incWrap a hi lo).boot = s.boot := rfl
@[simp] theorem State.incWrap_injects {a hi lo : Nat} : (s.incWrap a hi lo).injects = s.injects := rfl
@[simp] theorem State.incWrap_shakers {a hi lo : Nat} : (s.incWrap a hi lo).shakers = s.shakers := rfl
@[simp] theorem State.incWrap_held {a hi lo : Nat} : (s.incWrap a hi lo).held = s.held := rfl
@[simp] theorem State.incWrap_offices {a hi lo : Nat} : (s.incWrap a hi lo).offices = s.offices := rfl
@[simp] theorem State.incWrap_mops {a hi lo : Nat} : (s.incWrap a hi lo).mops = s.mops := rfl
@[simp] theorem State.incWrap_leaving {a hi lo : Nat} : (s.incWrap a hi lo).leaving = s.leaving := rfl
@[simp] theorem State.incWrap_dmcs {a hi lo : Nat} : (s.incWrap a hi lo).dmcs = s.dmcs := rfl
@[simp] theorem State.incWrap_grid {a hi lo : Nat} : (s.incWrap a hi lo).grid = s.grid := rfl
@[simp] theorem State.incWrap_poison {a hi lo : Nat} : (s.incWrap a hi lo).poison = s.poison := rfl
@[simp] theorem State.incWrap_fab {a hi lo : Nat} : (s.incWrap a hi lo).fab = s.fab := rfl
@[simp] theorem State.incWrap_ang {a hi lo : Nat} : (s.incWrap a hi lo).ang = s.ang := rfl
@[simp] theorem State.incWrap_harts {a hi lo : Nat} : (s.incWrap a hi lo).harts = s.harts := rfl
@[simp] theorem State.incWrap_dbg {a hi lo : Nat} : (s.incWrap a hi lo).dbg = s.dbg := rfl
@[simp] theorem State.incWrap_keys {a hi lo : Nat} : (s.incWrap a hi lo).keys = s.keys := rfl
@[simp] theorem State.incWrap_park {a hi lo : Nat} : (s.incWrap a hi lo).park = s.park := rfl
@[simp] theorem State.incWrap_ledger {a hi lo : Nat} : (s.incWrap a hi lo).ledger = s.ledger := rfl
@[simp] theorem State.incWrap_therm {a hi lo : Nat} : (s.incWrap a hi lo).therm = s.therm := rfl
@[simp] theorem State.incWrap_domains {a hi lo : Nat} : (s.incWrap a hi lo).domains = s.domains := rfl
@[simp] theorem State.incWrap_cores {a hi lo : Nat} : (s.incWrap a hi lo).cores = s.cores := rfl
@[simp] theorem State.incWrap_jobs {a hi lo : Nat} : (s.incWrap a hi lo).jobs = s.jobs := rfl
@[simp] theorem State.incWrap_jobNo {a hi lo : Nat} : (s.incWrap a hi lo).jobNo = s.jobNo := rfl
@[simp] theorem State.incWrap_rings {a hi lo : Nat} : (s.incWrap a hi lo).rings = s.rings := rfl
@[simp] theorem State.incWrap_ringTurn {a hi lo : Nat} : (s.incWrap a hi lo).ringTurn = s.ringTurn := rfl
@[simp] theorem State.incWrap_acct {a hi lo : Nat} : (s.incWrap a hi lo).acct = s.acct := rfl
@[simp] theorem State.incWrap_infLog {a hi lo : Nat} : (s.incWrap a hi lo).infLog = s.infLog := rfl
@[simp] theorem State.incWrap_rmon {a hi lo : Nat} : (s.incWrap a hi lo).rmon = s.rmon := rfl
@[simp] theorem State.incWrap_resize {a hi lo : Nat} : (s.incWrap a hi lo).resize = s.resize := rfl
@[simp] theorem State.incWrap_ferries {a hi lo : Nat} : (s.incWrap a hi lo).ferries = s.ferries := rfl
@[simp] theorem State.incWrap_fdigs {a hi lo : Nat} : (s.incWrap a hi lo).fdigs = s.fdigs := rfl
@[simp] theorem State.incWrap_slices {a hi lo : Nat} : (s.incWrap a hi lo).slices = s.slices := rfl
@[simp] theorem State.incWrap_trigs {a hi lo : Nat} : (s.incWrap a hi lo).trigs = s.trigs := rfl
@[simp] theorem State.incWrap_progs {a hi lo : Nat} : (s.incWrap a hi lo).progs = s.progs := rfl
@[simp] theorem State.incWrap_extTrig {a hi lo : Nat} : (s.incWrap a hi lo).extTrig = s.extTrig := rfl
@[simp] theorem State.incWrap_wseq {a hi lo : Nat} : (s.incWrap a hi lo).wseq = s.wseq := rfl
@[simp] theorem State.incWrap_prot {a hi lo : Nat} : (s.incWrap a hi lo).prot = s.prot := rfl
@[simp] theorem State.incWrap_sns {a hi lo : Nat} : (s.incWrap a hi lo).sns = s.sns := rfl
@[simp] theorem State.incWrap_ales {a hi lo : Nat} : (s.incWrap a hi lo).ales = s.ales := rfl
@[simp] theorem State.incWrap_aports {a hi lo : Nat} : (s.incWrap a hi lo).aports = s.aports := rfl
@[simp] theorem State.incWrap_ticks {a hi lo : Nat} : (s.incWrap a hi lo).ticks = s.ticks := rfl
@[simp] theorem State.incWrap_cams {a hi lo : Nat} : (s.incWrap a hi lo).cams = s.cams := rfl
@[simp] theorem State.incWrap_vouts {a hi lo : Nat} : (s.incWrap a hi lo).vouts = s.vouts := rfl
@[simp] theorem State.incWrap_locals {a hi lo : Nat} : (s.incWrap a hi lo).locals = s.locals := rfl
@[simp] theorem State.incWrap_gw {a hi lo : Nat} : (s.incWrap a hi lo).gw = s.gw := rfl
@[simp] theorem State.incWrap_casc {a hi lo : Nat} : (s.incWrap a hi lo).casc = s.casc := rfl
@[simp] theorem State.incWrap_free {a hi lo : Nat} : (s.incWrap a hi lo).free = s.free := rfl
@[simp] theorem State.incWrap_pending {a hi lo : Nat} : (s.incWrap a hi lo).pending = s.pending := rfl
@[simp] theorem State.cnt_mem {a : Nat} : (s.cnt a).mem = s.mem := rfl
@[simp] theorem State.cnt_inner {a : Nat} : (s.cnt a).inner = s.inner := rfl
@[simp] theorem State.cnt_clk {a : Nat} : (s.cnt a).clk = s.clk := rfl
@[simp] theorem State.cnt_resp {a : Nat} : (s.cnt a).resp = s.resp := rfl
@[simp] theorem State.cnt_out {a : Nat} : (s.cnt a).out = s.out := rfl
@[simp] theorem State.cnt_fuse {a : Nat} : (s.cnt a).fuse = s.fuse := rfl
@[simp] theorem State.cnt_boot {a : Nat} : (s.cnt a).boot = s.boot := rfl
@[simp] theorem State.cnt_injects {a : Nat} : (s.cnt a).injects = s.injects := rfl
@[simp] theorem State.cnt_shakers {a : Nat} : (s.cnt a).shakers = s.shakers := rfl
@[simp] theorem State.cnt_held {a : Nat} : (s.cnt a).held = s.held := rfl
@[simp] theorem State.cnt_offices {a : Nat} : (s.cnt a).offices = s.offices := rfl
@[simp] theorem State.cnt_mops {a : Nat} : (s.cnt a).mops = s.mops := rfl
@[simp] theorem State.cnt_leaving {a : Nat} : (s.cnt a).leaving = s.leaving := rfl
@[simp] theorem State.cnt_dmcs {a : Nat} : (s.cnt a).dmcs = s.dmcs := rfl
@[simp] theorem State.cnt_grid {a : Nat} : (s.cnt a).grid = s.grid := rfl
@[simp] theorem State.cnt_poison {a : Nat} : (s.cnt a).poison = s.poison := rfl
@[simp] theorem State.cnt_fab {a : Nat} : (s.cnt a).fab = s.fab := rfl
@[simp] theorem State.cnt_ang {a : Nat} : (s.cnt a).ang = s.ang := rfl
@[simp] theorem State.cnt_harts {a : Nat} : (s.cnt a).harts = s.harts := rfl
@[simp] theorem State.cnt_dbg {a : Nat} : (s.cnt a).dbg = s.dbg := rfl
@[simp] theorem State.cnt_keys {a : Nat} : (s.cnt a).keys = s.keys := rfl
@[simp] theorem State.cnt_park {a : Nat} : (s.cnt a).park = s.park := rfl
@[simp] theorem State.cnt_ledger {a : Nat} : (s.cnt a).ledger = s.ledger := rfl
@[simp] theorem State.cnt_therm {a : Nat} : (s.cnt a).therm = s.therm := rfl
@[simp] theorem State.cnt_domains {a : Nat} : (s.cnt a).domains = s.domains := rfl
@[simp] theorem State.cnt_cores {a : Nat} : (s.cnt a).cores = s.cores := rfl
@[simp] theorem State.cnt_jobs {a : Nat} : (s.cnt a).jobs = s.jobs := rfl
@[simp] theorem State.cnt_jobNo {a : Nat} : (s.cnt a).jobNo = s.jobNo := rfl
@[simp] theorem State.cnt_rings {a : Nat} : (s.cnt a).rings = s.rings := rfl
@[simp] theorem State.cnt_ringTurn {a : Nat} : (s.cnt a).ringTurn = s.ringTurn := rfl
@[simp] theorem State.cnt_acct {a : Nat} : (s.cnt a).acct = s.acct := rfl
@[simp] theorem State.cnt_infLog {a : Nat} : (s.cnt a).infLog = s.infLog := rfl
@[simp] theorem State.cnt_rmon {a : Nat} : (s.cnt a).rmon = s.rmon := rfl
@[simp] theorem State.cnt_resize {a : Nat} : (s.cnt a).resize = s.resize := rfl
@[simp] theorem State.cnt_ferries {a : Nat} : (s.cnt a).ferries = s.ferries := rfl
@[simp] theorem State.cnt_fdigs {a : Nat} : (s.cnt a).fdigs = s.fdigs := rfl
@[simp] theorem State.cnt_slices {a : Nat} : (s.cnt a).slices = s.slices := rfl
@[simp] theorem State.cnt_trigs {a : Nat} : (s.cnt a).trigs = s.trigs := rfl
@[simp] theorem State.cnt_progs {a : Nat} : (s.cnt a).progs = s.progs := rfl
@[simp] theorem State.cnt_extTrig {a : Nat} : (s.cnt a).extTrig = s.extTrig := rfl
@[simp] theorem State.cnt_wseq {a : Nat} : (s.cnt a).wseq = s.wseq := rfl
@[simp] theorem State.cnt_prot {a : Nat} : (s.cnt a).prot = s.prot := rfl
@[simp] theorem State.cnt_sns {a : Nat} : (s.cnt a).sns = s.sns := rfl
@[simp] theorem State.cnt_ales {a : Nat} : (s.cnt a).ales = s.ales := rfl
@[simp] theorem State.cnt_aports {a : Nat} : (s.cnt a).aports = s.aports := rfl
@[simp] theorem State.cnt_ticks {a : Nat} : (s.cnt a).ticks = s.ticks := rfl
@[simp] theorem State.cnt_cams {a : Nat} : (s.cnt a).cams = s.cams := rfl
@[simp] theorem State.cnt_vouts {a : Nat} : (s.cnt a).vouts = s.vouts := rfl
@[simp] theorem State.cnt_locals {a : Nat} : (s.cnt a).locals = s.locals := rfl
@[simp] theorem State.cnt_gw {a : Nat} : (s.cnt a).gw = s.gw := rfl
@[simp] theorem State.cnt_casc {a : Nat} : (s.cnt a).casc = s.casc := rfl
@[simp] theorem State.cnt_free {a : Nat} : (s.cnt a).free = s.free := rfl
@[simp] theorem State.cnt_pending {a : Nat} : (s.cnt a).pending = s.pending := rfl
@[simp] theorem State.evt_mem {p k : Nat} : (s.evt p k).mem = s.mem := rfl
@[simp] theorem State.evt_inner {p k : Nat} : (s.evt p k).inner = s.inner := rfl
@[simp] theorem State.evt_clk {p k : Nat} : (s.evt p k).clk = s.clk := rfl
@[simp] theorem State.evt_resp {p k : Nat} : (s.evt p k).resp = s.resp := rfl
@[simp] theorem State.evt_out {p k : Nat} : (s.evt p k).out = s.out := rfl
@[simp] theorem State.evt_fuse {p k : Nat} : (s.evt p k).fuse = s.fuse := rfl
@[simp] theorem State.evt_boot {p k : Nat} : (s.evt p k).boot = s.boot := rfl
@[simp] theorem State.evt_injects {p k : Nat} : (s.evt p k).injects = s.injects := rfl
@[simp] theorem State.evt_shakers {p k : Nat} : (s.evt p k).shakers = s.shakers := rfl
@[simp] theorem State.evt_held {p k : Nat} : (s.evt p k).held = s.held := rfl
@[simp] theorem State.evt_offices {p k : Nat} : (s.evt p k).offices = s.offices := rfl
@[simp] theorem State.evt_mops {p k : Nat} : (s.evt p k).mops = s.mops := rfl
@[simp] theorem State.evt_leaving {p k : Nat} : (s.evt p k).leaving = s.leaving := rfl
@[simp] theorem State.evt_dmcs {p k : Nat} : (s.evt p k).dmcs = s.dmcs := rfl
@[simp] theorem State.evt_grid {p k : Nat} : (s.evt p k).grid = s.grid := rfl
@[simp] theorem State.evt_poison {p k : Nat} : (s.evt p k).poison = s.poison := rfl
@[simp] theorem State.evt_fab {p k : Nat} : (s.evt p k).fab = s.fab := rfl
@[simp] theorem State.evt_ang {p k : Nat} : (s.evt p k).ang = s.ang := rfl
@[simp] theorem State.evt_harts {p k : Nat} : (s.evt p k).harts = s.harts := rfl
@[simp] theorem State.evt_dbg {p k : Nat} : (s.evt p k).dbg = s.dbg := rfl
@[simp] theorem State.evt_keys {p k : Nat} : (s.evt p k).keys = s.keys := rfl
@[simp] theorem State.evt_park {p k : Nat} : (s.evt p k).park = s.park := rfl
@[simp] theorem State.evt_ledger {p k : Nat} : (s.evt p k).ledger = s.ledger := rfl
@[simp] theorem State.evt_therm {p k : Nat} : (s.evt p k).therm = s.therm := rfl
@[simp] theorem State.evt_domains {p k : Nat} : (s.evt p k).domains = s.domains := rfl
@[simp] theorem State.evt_cores {p k : Nat} : (s.evt p k).cores = s.cores := rfl
@[simp] theorem State.evt_jobs {p k : Nat} : (s.evt p k).jobs = s.jobs := rfl
@[simp] theorem State.evt_jobNo {p k : Nat} : (s.evt p k).jobNo = s.jobNo := rfl
@[simp] theorem State.evt_rings {p k : Nat} : (s.evt p k).rings = s.rings := rfl
@[simp] theorem State.evt_ringTurn {p k : Nat} : (s.evt p k).ringTurn = s.ringTurn := rfl
@[simp] theorem State.evt_acct {p k : Nat} : (s.evt p k).acct = s.acct := rfl
@[simp] theorem State.evt_infLog {p k : Nat} : (s.evt p k).infLog = s.infLog := rfl
@[simp] theorem State.evt_rmon {p k : Nat} : (s.evt p k).rmon = s.rmon := rfl
@[simp] theorem State.evt_resize {p k : Nat} : (s.evt p k).resize = s.resize := rfl
@[simp] theorem State.evt_ferries {p k : Nat} : (s.evt p k).ferries = s.ferries := rfl
@[simp] theorem State.evt_fdigs {p k : Nat} : (s.evt p k).fdigs = s.fdigs := rfl
@[simp] theorem State.evt_slices {p k : Nat} : (s.evt p k).slices = s.slices := rfl
@[simp] theorem State.evt_trigs {p k : Nat} : (s.evt p k).trigs = s.trigs := rfl
@[simp] theorem State.evt_progs {p k : Nat} : (s.evt p k).progs = s.progs := rfl
@[simp] theorem State.evt_extTrig {p k : Nat} : (s.evt p k).extTrig = s.extTrig := rfl
@[simp] theorem State.evt_wseq {p k : Nat} : (s.evt p k).wseq = s.wseq := rfl
@[simp] theorem State.evt_prot {p k : Nat} : (s.evt p k).prot = s.prot := rfl
@[simp] theorem State.evt_sns {p k : Nat} : (s.evt p k).sns = s.sns := rfl
@[simp] theorem State.evt_ales {p k : Nat} : (s.evt p k).ales = s.ales := rfl
@[simp] theorem State.evt_aports {p k : Nat} : (s.evt p k).aports = s.aports := rfl
@[simp] theorem State.evt_ticks {p k : Nat} : (s.evt p k).ticks = s.ticks := rfl
@[simp] theorem State.evt_cams {p k : Nat} : (s.evt p k).cams = s.cams := rfl
@[simp] theorem State.evt_vouts {p k : Nat} : (s.evt p k).vouts = s.vouts := rfl
@[simp] theorem State.evt_locals {p k : Nat} : (s.evt p k).locals = s.locals := rfl
@[simp] theorem State.evt_gw {p k : Nat} : (s.evt p k).gw = s.gw := rfl
@[simp] theorem State.evt_casc {p k : Nat} : (s.evt p k).casc = s.casc := rfl
@[simp] theorem State.evt_free {p k : Nat} : (s.evt p k).free = s.free := rfl
@[simp] theorem State.evt_pending {p k : Nat} : (s.evt p k).pending = s.pending := rfl
@[simp] theorem State.fresh_regs {w : Nat} : (s.fresh w).2.regs = s.regs := rfl
@[simp] theorem State.fresh_mem {w : Nat} : (s.fresh w).2.mem = s.mem := rfl
@[simp] theorem State.fresh_inner {w : Nat} : (s.fresh w).2.inner = s.inner := rfl
@[simp] theorem State.fresh_clk {w : Nat} : (s.fresh w).2.clk = s.clk := rfl
@[simp] theorem State.fresh_resp {w : Nat} : (s.fresh w).2.resp = s.resp := rfl
@[simp] theorem State.fresh_out {w : Nat} : (s.fresh w).2.out = s.out := rfl
@[simp] theorem State.fresh_fuse {w : Nat} : (s.fresh w).2.fuse = s.fuse := rfl
@[simp] theorem State.fresh_boot {w : Nat} : (s.fresh w).2.boot = s.boot := rfl
@[simp] theorem State.fresh_injects {w : Nat} : (s.fresh w).2.injects = s.injects := rfl
@[simp] theorem State.fresh_shakers {w : Nat} : (s.fresh w).2.shakers = s.shakers := rfl
@[simp] theorem State.fresh_held {w : Nat} : (s.fresh w).2.held = s.held := rfl
@[simp] theorem State.fresh_offices {w : Nat} : (s.fresh w).2.offices = s.offices := rfl
@[simp] theorem State.fresh_mops {w : Nat} : (s.fresh w).2.mops = s.mops := rfl
@[simp] theorem State.fresh_leaving {w : Nat} : (s.fresh w).2.leaving = s.leaving := rfl
@[simp] theorem State.fresh_dmcs {w : Nat} : (s.fresh w).2.dmcs = s.dmcs := rfl
@[simp] theorem State.fresh_grid {w : Nat} : (s.fresh w).2.grid = s.grid := rfl
@[simp] theorem State.fresh_poison {w : Nat} : (s.fresh w).2.poison = s.poison := rfl
@[simp] theorem State.fresh_fab {w : Nat} : (s.fresh w).2.fab = s.fab := rfl
@[simp] theorem State.fresh_ang {w : Nat} : (s.fresh w).2.ang = s.ang := rfl
@[simp] theorem State.fresh_harts {w : Nat} : (s.fresh w).2.harts = s.harts := rfl
@[simp] theorem State.fresh_dbg {w : Nat} : (s.fresh w).2.dbg = s.dbg := rfl
@[simp] theorem State.fresh_keys {w : Nat} : (s.fresh w).2.keys = s.keys := rfl
@[simp] theorem State.fresh_park {w : Nat} : (s.fresh w).2.park = s.park := rfl
@[simp] theorem State.fresh_ledger {w : Nat} : (s.fresh w).2.ledger = s.ledger := rfl
@[simp] theorem State.fresh_therm {w : Nat} : (s.fresh w).2.therm = s.therm := rfl
@[simp] theorem State.fresh_domains {w : Nat} : (s.fresh w).2.domains = s.domains := rfl
@[simp] theorem State.fresh_cores {w : Nat} : (s.fresh w).2.cores = s.cores := rfl
@[simp] theorem State.fresh_jobs {w : Nat} : (s.fresh w).2.jobs = s.jobs := rfl
@[simp] theorem State.fresh_jobNo {w : Nat} : (s.fresh w).2.jobNo = s.jobNo := rfl
@[simp] theorem State.fresh_rings {w : Nat} : (s.fresh w).2.rings = s.rings := rfl
@[simp] theorem State.fresh_ringTurn {w : Nat} : (s.fresh w).2.ringTurn = s.ringTurn := rfl
@[simp] theorem State.fresh_acct {w : Nat} : (s.fresh w).2.acct = s.acct := rfl
@[simp] theorem State.fresh_infLog {w : Nat} : (s.fresh w).2.infLog = s.infLog := rfl
@[simp] theorem State.fresh_rmon {w : Nat} : (s.fresh w).2.rmon = s.rmon := rfl
@[simp] theorem State.fresh_resize {w : Nat} : (s.fresh w).2.resize = s.resize := rfl
@[simp] theorem State.fresh_ferries {w : Nat} : (s.fresh w).2.ferries = s.ferries := rfl
@[simp] theorem State.fresh_fdigs {w : Nat} : (s.fresh w).2.fdigs = s.fdigs := rfl
@[simp] theorem State.fresh_slices {w : Nat} : (s.fresh w).2.slices = s.slices := rfl
@[simp] theorem State.fresh_trigs {w : Nat} : (s.fresh w).2.trigs = s.trigs := rfl
@[simp] theorem State.fresh_progs {w : Nat} : (s.fresh w).2.progs = s.progs := rfl
@[simp] theorem State.fresh_extTrig {w : Nat} : (s.fresh w).2.extTrig = s.extTrig := rfl
@[simp] theorem State.fresh_wseq {w : Nat} : (s.fresh w).2.wseq = s.wseq := rfl
@[simp] theorem State.fresh_prot {w : Nat} : (s.fresh w).2.prot = s.prot := rfl
@[simp] theorem State.fresh_sns {w : Nat} : (s.fresh w).2.sns = s.sns := rfl
@[simp] theorem State.fresh_ales {w : Nat} : (s.fresh w).2.ales = s.ales := rfl
@[simp] theorem State.fresh_aports {w : Nat} : (s.fresh w).2.aports = s.aports := rfl
@[simp] theorem State.fresh_ticks {w : Nat} : (s.fresh w).2.ticks = s.ticks := rfl
@[simp] theorem State.fresh_cams {w : Nat} : (s.fresh w).2.cams = s.cams := rfl
@[simp] theorem State.fresh_vouts {w : Nat} : (s.fresh w).2.vouts = s.vouts := rfl
@[simp] theorem State.fresh_locals {w : Nat} : (s.fresh w).2.locals = s.locals := rfl
@[simp] theorem State.fresh_gw {w : Nat} : (s.fresh w).2.gw = s.gw := rfl
@[simp] theorem State.fresh_casc {w : Nat} : (s.fresh w).2.casc = s.casc := rfl
@[simp] theorem State.fresh_pending {w : Nat} : (s.fresh w).2.pending = s.pending := rfl

end Sys2Proof.Machine
end

