-- ==== Sys2Proof/Laws/Ops.lean ====
section
/-! SUPPORT. What the primitive operations do: a read after a write of a register, a field, a bit or a byte, and the checks of a
register access when they pass. -/

namespace Sys2Proof.Machine

variable {s : State} {a b v hi lo : Nat}

/-! ## Registers -/

theorem State.rd_lt : s.rd a < 2 ^ 32 := (s.reg a).isLt

theorem State.reg_setReg {w : Word} : (s.setReg a w).reg b = if a = b then w else s.reg b := sget_sput

theorem State.rd_wr : (s.wr a v).rd b = if a = b then v % 2 ^ 32 else s.rd b := by
  unfold State.rd State.wr
  rw [State.reg_setReg]
  split
  · exact BitVec.toNat_ofNat ..
  · rfl

@[simp] theorem State.rd_wr_same : (s.wr a v).rd a = v % 2 ^ 32 := by rw [State.rd_wr, if_pos rfl]

theorem State.rd_wr_ne (h : a ≠ b) : (s.wr a v).rd b = s.rd b := by rw [State.rd_wr, if_neg h]

/-! ## Fields -/

theorem fld_lt {w : Nat} : fld w hi lo < 2 ^ (hi + 1 - lo) := Nat.mod_lt _ (Nat.two_pow_pos _)

/-- A word is its bits above a field, the field, and the bits below. -/
theorem fld_split (w : Nat) (h : lo ≤ hi) :
    w = 2 ^ (hi + 1) * (w / 2 ^ (hi + 1)) + 2 ^ lo * fld w hi lo + w % 2 ^ lo := by
  have e : 2 ^ (hi + 1) = 2 ^ lo * 2 ^ (hi + 1 - lo) := by rw [← Nat.pow_add]; congr 1; omega
  have h1 := Nat.div_add_mod w (2 ^ lo)
  have h2 := Nat.div_add_mod (w / 2 ^ lo) (2 ^ (hi + 1 - lo))
  rw [Nat.div_div_eq_div_mul, ← e] at h2
  unfold fld
  have h3 := congrArg (2 ^ lo * ·) h2
  simp only [Nat.mul_add] at h3
  rw [← Nat.mul_assoc, ← e] at h3
  omega

theorem putFld_eq (w : Nat) (h : lo ≤ hi) :
    putFld w hi lo v = 2 ^ (hi + 1) * (w / 2 ^ (hi + 1)) + 2 ^ lo * (v % 2 ^ (hi + 1 - lo)) + w % 2 ^ lo := by
  have e := fld_split w h
  unfold putFld
  omega

theorem putFld_lt {w : Nat} (h : lo ≤ hi) (hh : hi < 32) (hw : w < 2 ^ 32) : putFld w hi lo v < 2 ^ 32 := by
  rw [putFld_eq w h]
  have e : 2 ^ (hi + 1) = 2 ^ lo * 2 ^ (hi + 1 - lo) := by rw [← Nat.pow_add]; congr 1; omega
  have e2 : (2 : Nat) ^ 32 = 2 ^ (hi + 1) * 2 ^ (31 - hi) := by rw [← Nat.pow_add]; congr 1; omega
  have h1 : w / 2 ^ (hi + 1) < 2 ^ (31 - hi) := by
    rw [Nat.div_lt_iff_lt_mul (Nat.two_pow_pos _), Nat.mul_comm, ← e2]; exact hw
  have h2 : v % 2 ^ (hi + 1 - lo) < 2 ^ (hi + 1 - lo) := Nat.mod_lt _ (Nat.two_pow_pos _)
  have h3 : w % 2 ^ lo < 2 ^ lo := Nat.mod_lt _ (Nat.two_pow_pos _)
  have h4 : 2 ^ lo * (v % 2 ^ (hi + 1 - lo)) + 2 ^ lo ≤ 2 ^ (hi + 1) := by
    rw [e, ← Nat.mul_succ]; exact Nat.mul_le_mul_left _ h2
  have h5 : 2 ^ (hi + 1) * (w / 2 ^ (hi + 1)) + 2 ^ (hi + 1) ≤ 2 ^ 32 := by
    rw [e2, ← Nat.mul_succ]; exact Nat.mul_le_mul_left _ h1
  omega

theorem fld_putFld {w : Nat} (h : lo ≤ hi) : fld (putFld w hi lo v) hi lo = v % 2 ^ (hi + 1 - lo) := by
  rw [putFld_eq w h]
  have e : 2 ^ (hi + 1) = 2 ^ lo * 2 ^ (hi + 1 - lo) := by rw [← Nat.pow_add]; congr 1; omega
  unfold fld
  rw [e, Nat.mul_assoc, ← Nat.mul_add, Nat.add_comm, Nat.add_mul_div_left _ _ (Nat.two_pow_pos _),
    Nat.div_eq_of_lt (Nat.mod_lt _ (Nat.two_pow_pos _)), Nat.zero_add, Nat.mul_add_mod, Nat.mod_mod]

/-- A field above the one that is set keeps its value. -/
theorem fld_putFld_above {w hi' lo' : Nat} (h : lo ≤ hi) (hl : hi < lo') : fld (putFld w hi lo v) hi' lo' = fld w hi' lo' := by
  have e : 2 ^ lo' = 2 ^ (hi + 1) * 2 ^ (lo' - (hi + 1)) := by rw [← Nat.pow_add]; congr 1; omega
  have hA : putFld w hi lo v / 2 ^ (hi + 1) = w / 2 ^ (hi + 1) := by
    have h2 : v % 2 ^ (hi + 1 - lo) < 2 ^ (hi + 1 - lo) := Nat.mod_lt _ (Nat.two_pow_pos _)
    have h3 : w % 2 ^ lo < 2 ^ lo := Nat.mod_lt _ (Nat.two_pow_pos _)
    have e3 : 2 ^ (hi + 1) = 2 ^ lo * 2 ^ (hi + 1 - lo) := by rw [← Nat.pow_add]; congr 1; omega
    have h4 : 2 ^ lo * (v % 2 ^ (hi + 1 - lo)) + 2 ^ lo ≤ 2 ^ (hi + 1) := by
      rw [e3, ← Nat.mul_succ]; exact Nat.mul_le_mul_left _ h2
    have h5 : 2 ^ lo * (v % 2 ^ (hi + 1 - lo)) + w % 2 ^ lo < 2 ^ (hi + 1) := Nat.lt_of_lt_of_le (Nat.add_lt_add_left h3 _) h4
    rw [putFld_eq w h, Nat.add_assoc, Nat.mul_add_div (Nat.two_pow_pos _), Nat.div_eq_of_lt h5, Nat.add_zero]
  have key : putFld w hi lo v / 2 ^ lo' = w / 2 ^ lo' := by
    rw [e, ← Nat.div_div_eq_div_mul, hA, Nat.div_div_eq_div_mul]
  unfold fld
  rw [key]

/-- A field below the one that is set keeps its value. -/
theorem fld_putFld_below {w hi' lo' : Nat} (h : lo ≤ hi) (h' : lo' ≤ hi') (hl : hi' < lo) :
    fld (putFld w hi lo v) hi' lo' = fld w hi' lo' := by
  have key : putFld w hi lo v % 2 ^ (hi' + 1) = w % 2 ^ (hi' + 1) := by
    have e := fld_split w h
    have d1 : 2 ^ (hi' + 1) ∣ 2 ^ lo := Nat.pow_dvd_pow 2 hl
    have d2 : 2 ^ (hi' + 1) ∣ 2 ^ (hi + 1) := Nat.pow_dvd_pow 2 (by omega)
    rw [putFld_eq w h]
    conv_rhs => rw [e]
    obtain ⟨c, hc⟩ := d1
    obtain ⟨d, hd⟩ := d2
    rw [hd, hc]
    simp only [Nat.mul_assoc]
    rw [← Nat.mul_add, ← Nat.mul_add, Nat.mul_add_mod, Nat.mul_add_mod]
  have sp : ∀ x : Nat, fld x hi' lo' = x % 2 ^ (hi' + 1) / 2 ^ lo' := by
    intro x
    have e : 2 ^ (hi' + 1) = 2 ^ lo' * 2 ^ (hi' + 1 - lo') := by rw [← Nat.pow_add]; congr 1; omega
    unfold fld
    rw [e, Nat.mod_mul_right_div_self]
  rw [sp, sp, key]

theorem State.getF_putF (h : lo ≤ hi) (hh : hi < 32) : (s.putF a hi lo v).getF a hi lo = v % 2 ^ (hi + 1 - lo) := by
  unfold State.getF State.putF
  rw [State.rd_wr_same, Nat.mod_eq_of_lt (putFld_lt h hh State.rd_lt), fld_putFld h]

theorem State.rd_putF_ne (h : a ≠ b) : (s.putF a hi lo v).rd b = s.rd b := State.rd_wr_ne h

theorem State.getF_putF_ne {hi' lo' : Nat} (h : a ≠ b) : (s.putF a hi lo v).getF b hi' lo' = s.getF b hi' lo' := by
  unfold State.getF; rw [State.rd_putF_ne h]

theorem State.getF_putF_other {hi' lo' : Nat} (h : lo ≤ hi) (hh : hi < 32) (h' : lo' ≤ hi') (d : hi < lo' ∨ hi' < lo) :
    (s.putF a hi lo v).getF a hi' lo' = s.getF a hi' lo' := by
  unfold State.getF State.putF
  rw [State.rd_wr_same, Nat.mod_eq_of_lt (putFld_lt h hh State.rd_lt)]
  rcases d with d | d
  · exact fld_putFld_above h d
  · exact fld_putFld_below h h' d

theorem State.bit_putBit {k : Nat} {x : Bool} (h : k < 32) : (s.putBit a k x).bit a k = x := by
  unfold State.bit State.putBit
  rw [State.getF_putF (Nat.le_refl _) h]
  cases x <;> simp

theorem State.bit_putBit_other {k j : Nat} {x : Bool} (h : k < 32) (d : k ≠ j) : (s.putBit a k x).bit a j = s.bit a j := by
  unfold State.bit State.putBit
  rw [State.getF_putF_other (Nat.le_refl _) h (Nat.le_refl _) (by omega)]

theorem State.rd_putBit_ne {k : Nat} {x : Bool} (h : a ≠ b) : (s.putBit a k x).rd b = s.rd b := State.rd_wr_ne h

theorem State.bit_putBit_ne {k j : Nat} {x : Bool} (h : a ≠ b) : (s.putBit a k x).bit b j = s.bit b j := by
  unfold State.bit; exact congrArg (· == 1) (State.getF_putF_ne h)

/-- An event leaves its bit of IRQ_PEND set (R56). -/
theorem State.bit_evt {p k : Nat} (h : k < 32) : (s.evt p k).bit (p + Hdr.IRQ_PEND) k = true := State.bit_putBit h

theorem State.rd_evt_ne {p k : Nat} (h : p + Hdr.IRQ_PEND ≠ b) : (s.evt p k).rd b = s.rd b := State.rd_putBit_ne h

/-- A field that saturates at its largest value (R61). -/
theorem State.getF_addSat {n : Nat} (h : lo ≤ hi) (hh : hi < 32) :
    (s.addSat a hi lo n).getF a hi lo = min (s.getF a hi lo + n) (2 ^ (hi + 1 - lo) - 1) := by
  unfold State.addSat
  rw [State.getF_putF h hh]
  apply Nat.mod_eq_of_lt
  have := Nat.two_pow_pos (hi + 1 - lo)
  omega

theorem State.getF_addWrap {n : Nat} (h : lo ≤ hi) (hh : hi < 32) :
    (s.addWrap a hi lo n).getF a hi lo = (s.getF a hi lo + n) % 2 ^ (hi + 1 - lo) := State.getF_putF h hh

theorem State.getF_word : s.getF a 31 0 = s.rd a := by
  unfold State.getF fld
  simp only [Nat.pow_zero, Nat.div_one]
  exact Nat.mod_eq_of_lt State.rd_lt

theorem State.rd_cnt : (s.cnt a).rd a = min (s.rd a + 1) (2 ^ 32 - 1) := by
  have h := State.getF_addSat (s := s) (a := a) (n := 1) (Nat.zero_le 31) (by decide)
  rw [State.getF_word, State.getF_word] at h
  exact h

/-! ## Memory -/

theorem State.byte_setByte {x : Byte} : (s.setByte a x).byte b = if a = b then x else s.byte b := sget_sput

theorem sget_putBytes_before {m : List Host.Cell} {l : List Byte} (h : b < a) :
    sget memDefault (putBytes m a l) b = sget memDefault m b := by
  induction l generalizing m a with
  | nil => rfl
  | cons x t ih => rw [putBytes, ih (by omega), sget_sput, if_neg (by omega)]

/-- What `setBytes` wrote at `a + k` is byte `k` of the list; every other byte is as before. -/
theorem sget_putBytes {m : List Host.Cell} {l : List Byte} :
    sget memDefault (putBytes m a l) b = if a ≤ b ∧ b < a + l.length then l.getD (b - a) 0 else sget memDefault m b := by
  induction l generalizing m a with
  | nil => simp [putBytes]
  | cons x t ih =>
    rw [putBytes, ih, sget_sput, List.length_cons]
    by_cases h : a = b
    · subst h; simp
    · by_cases h2 : a + 1 ≤ b ∧ b < a + 1 + t.length
      · rw [if_pos h2, if_pos (by omega), show b - a = (b - (a + 1)) + 1 by omega, List.getD_cons_succ]
      · rw [if_neg h2, if_neg h, if_neg (by omega)]

theorem State.byte_setBytes {l : List Byte} :
    (s.setBytes a l).byte b = if a ≤ b ∧ b < a + l.length then l.getD (b - a) 0 else s.byte b := sget_putBytes

theorem State.ibyte_setIbytes {l : List Byte} :
    (s.setIbytes a l).ibyte b = if a ≤ b ∧ b < a + l.length then l.getD (b - a) 0 else s.ibyte b := sget_putBytes

theorem leBytes_length {n v : Nat} : (leBytes n v).length = n := by
  induction n generalizing v with
  | zero => rfl
  | succ n ih => rw [leBytes, List.length_cons, ih]

/-! ## Lists of instances -/

theorem getD_updAt {α : Type} {l : List α} {k : Nat} {f : α → α} {d : α} (h : k < l.length) :
    (updAt l k f).getD k d = f (l.getD k d) := by
  unfold updAt
  simp [List.getD_eq_getElem?_getD, h]

theorem getD_updAt_ne {α : Type} {l : List α} {k j : Nat} {f : α → α} {d : α} (h : k ≠ j) :
    (updAt l k f).getD j d = l.getD j d := by
  unfold updAt
  simp [List.getD_eq_getElem?_getD, h]

/-! ## Checks and the queue -/

theorem State.checkedWrite_go {req : Requester} {n : Nat} {f : State → State} (h : s.verdict req a n true = .go) :
    s.checkedWrite req a n f = f (s.respOk []) := by
  unfold State.checkedWrite; rw [h]

theorem State.checkedRead_go {req : Requester} {n : Nat} {f : State → State} (h : s.verdict req a n false = .go) :
    s.checkedRead req a n f = f s := by
  unfold State.checkedRead; rw [h]

theorem State.heartWrite_go {req : Requester} {f : State → State} (h : s.verdict req a 4 true = .go) (hw : s.world req = true) :
    s.heartWrite req a f = f (s.respOk []) := by
  unfold State.heartWrite; rw [State.checkedWrite_go h]; exact if_pos hw

theorem step_cons {c : Instr} {l : List Instr} : step { s with pending := c :: l } = exec c { s with pending := l } := rfl

end Sys2Proof.Machine
end

