-- ==== Sys2Proof/Laws/Issue.lean ====
section
/-! SUPPORT. What the shared operations that run the next command of SEC, of a matrix core, of a WSEQ thread and of the TAP answer. -/

namespace Sys2Proof.Machine

theorem State.secRun_next {s w : State} {e : Nat} {c : SecCmd} {ops : Nat → Bool} {f : State → SecCmd → SecEnd}
    (h : s.secNext = some (e, c, w)) (ho : ops c.op = true) :
    s.secRun ops f = match f w c with
      | some r => (r.2.secFinish e c.flags r.1).getD s
      | none => s := by
  unfold State.secNext at h
  unfold State.secRun
  by_cases hn : (!s.aEntry || decide (s.rd Reg.SEC_CMDQ_HEAD % s.secSize = s.rd Reg.SEC_CMDQ_TAIL % s.secSize)) = true
  · rw [if_pos hn] at h; cases h
  · rw [if_neg hn] at h ⊢
    simp only at h ⊢
    generalize (if targetOf s.secEntry = Target.dram then s else (s.freeExt 32).2).blockRead Blk.SEC 0 s.secEntry 32 { ext := (s.freeExt 32).1 } = r at h ⊢
    by_cases hd : r.1 = .done
    · rw [if_pos hd] at h
      simp only [Option.some.injEq, Prod.mk.injEq] at h
      obtain ⟨rfl, rfl, rfl⟩ := h
      simp only [hd, ho, if_true]
      all_goals (cases f r.2.2 (secDecode r.2.1) <;> rfl)
    · rw [if_neg hd] at h; cases h

theorem State.nextIssue_some {s w : State} {c t unit off cmd : Nat} {env : CoreEnv} {o : OnCore}
    (h : s.nextIssue c t unit env = some (o, off, cmd, w)) :
    ∃ o₀ r, (s.coreTick t).issuing c = some o₀ ∧ ((s.coreTick t).prepare o₀ env).1 = .ok r ∧ r.nextOf unit = some (off, cmd) ∧
      (r.tokenWait off cmd = false ∧ r.bankWait off cmd = false) ∧ w.running c = some o ∧
      w = ((((((s.coreTick t).prepare o₀ env).2.setRank o₀.job.id o₀.k fun _ => r).waitRank o₀ false).slow o₀).beginRank o₀) ∧
      (env.ctrl && o.job.checked) = false ∧ o.evicted off cmd = false := by
  unfold State.nextIssue at h
  cases h₀ : (s.coreTick t).issuing c with
  | none => rw [h₀] at h; cases h
  | some o₀ =>
    simp only [h₀] at h
    cases h₁ : ((s.coreTick t).prepare o₀ env).1 with
    | wait => rw [h₁] at h; cases h
    | fault k => rw [h₁] at h; cases h
    | ok r =>
      simp only [h₁] at h
      cases h₂ : r.nextOf unit with
      | none => rw [h₂] at h; cases h
      | some x =>
        obtain ⟨off', cmd'⟩ := x
        simp only [h₂] at h
        by_cases h₃ : (r.tokenWait off' cmd' || r.bankWait off' cmd') = true
        · rw [if_pos h₃] at h; cases h
        · rw [if_neg h₃] at h
          simp only [Bool.or_eq_true, not_or, Bool.not_eq_true] at h₃
          cases h₄ : (((((((s.coreTick t).prepare o₀ env).2.setRank o₀.job.id o₀.k fun _ => r).waitRank o₀ false).slow o₀).beginRank o₀)).running c with
          | none => rw [h₄] at h; cases h
          | some o' =>
            simp only [h₄] at h
            by_cases h₆ : (env.ctrl && o'.job.checked || o'.evicted off' cmd') = true
            · rw [if_pos h₆] at h; cases h
            · rw [if_neg h₆] at h
              simp only [Option.some.injEq, Prod.mk.injEq] at h
              obtain ⟨rfl, rfl, rfl, rfl⟩ := h
              simp only [Bool.or_eq_true, not_or, Bool.not_eq_true] at h₆
              exact ⟨o₀, r, rfl, h₁, h₂, h₃, h₄, rfl, h₆⟩

theorem State.coreCmd_next {s w : State} {c t unit off cmd : Nat} {env : CoreEnv} {o : OnCore} {is : Nat → Bool}
    {eff : Effect} (h : s.nextIssue c t unit env = some (o, off, cmd, w)) (hi : is cmd = true)
    (he : (eff o off cmd w).1 = .ok true) :
    s.coreCmd c t unit env is eff = ((eff o off cmd w).2.setRank o.job.id o.k fun r => r.issue off).coreSync c := by
  obtain ⟨o₀, r, h₀, h₁, h₂, h₃, h₄, h₅, h₆, h₇⟩ := State.nextIssue_some h
  subst h₅
  unfold State.coreCmd
  simp only [h₀, h₁, h₂, h₄, hi, h₃.1, h₃.2, Bool.not_true, Bool.or_self, Bool.false_eq_true, if_false, h₆, h₇, he]

theorem State.coreCmd_fault {s w : State} {c t unit off cmd code : Nat} {env : CoreEnv} {o : OnCore} {is : Nat → Bool}
    {eff : Effect} (h : s.nextIssue c t unit env = some (o, off, cmd, w)) (hi : is cmd = true)
    (he : (eff o off cmd w).1 = .fault code) :
    s.coreCmd c t unit env is eff = (eff o off cmd w).2.coreFault o off code := by
  obtain ⟨o₀, r, h₀, h₁, h₂, h₃, h₄, h₅, h₆, h₇⟩ := State.nextIssue_some h
  subst h₅
  unfold State.coreCmd
  simp only [h₀, h₁, h₂, h₄, hi, h₃.1, h₃.2, Bool.not_true, Bool.or_self, Bool.false_eq_true, if_false, h₆, h₇, he]

theorem State.thrInstr_next {s v : State} {h t ecc w : Nat} {sel : Nat → Bool} {eff : State → Nat → State}
    (hw : s.thrWord h t ecc = some (w, v)) (hs : sel (fld w 63 58) = true) : s.thrInstr h t ecc sel eff = eff v w := by
  unfold State.thrWord at hw
  unfold State.thrInstr
  simp only at hw ⊢
  split at hw
  · cases hw
  · rename_i hn
    rw [if_neg hn]
    split at hw
    · cases hw
    · rename_i he
      simp only [Option.some.injEq, Prod.mk.injEq] at hw
      obtain ⟨rfl, rfl⟩ := hw
      rw [if_pos hs, if_neg he]

theorem State.tapRun_acts {s : State} {c : Nat} {data : List Byte} {f : State → State} (ha : s.boot.aon = true)
    (hc : s.tapActs c = true) : s.tapRun c data f = f (State.setScan { s with dbg := { s.dbg with ir := c % 256 } } 0) := by
  unfold State.tapRun
  rw [if_neg (by simp [ha])]
  exact if_pos hc

theorem State.tapRun_bypass {s : State} {c : Nat} {data : List Byte} {f : State → State} (ha : s.boot.aon = true)
    (hc : s.tapActs c = false) : s.tapRun c data f = State.tapBypass { s with dbg := { s.dbg with ir := c % 256 } } data := by
  unfold State.tapRun
  rw [if_neg (by simp [ha])]
  exact if_neg (by rw [show State.tapActs { s with dbg := { s.dbg with ir := c % 256 } } c = s.tapActs c from rfl, hc]; decide)

end Sys2Proof.Machine
end

