-- ==== Sys2Proof/Laws/KeepsOps.lean ====
section
/-! SUPPORT. What the operations of Machine/Ops.lean keep. -/

set_option linter.all false

namespace Sys2Proof.Machine

variable {pm pi pf pk : Bool}

theorem State.setReg_keeps {s0 s : State} {a : Nat} {v : Word} (hK : Keeps pm pi pf pk s0 s) : Keeps pm pi pf pk s0 (s.setReg a v) :=
  hK.with_regs swf_sput

theorem State.wr_keeps {s0 s : State} {a : Nat} {v : Nat} (hK : Keeps pm pi pf pk s0 s) :
    Keeps pm pi pf pk s0 (State.wr s a v) := by
  unfold State.wr
  repeat' (first
    | (with_reducible first
      | assumption | apply Keeps.ite | apply State.setReg_keeps)
    | extract_lets | exact id | exact Nat.le_refl _ | split | (intro q; simpa [updAt] using q)
    | (intro q; exact (List.length_modify ..).trans q) | (intro q; exact (List.length_set ..).trans q))

theorem State.putF_keeps {s0 s : State} {a : Nat} {hi : Nat} {lo : Nat} {v : Nat} (hK : Keeps pm pi pf pk s0 s) :
    Keeps pm pi pf pk s0 (State.putF s a hi lo v) := by
  unfold State.putF
  repeat' (first
    | (with_reducible first
      | assumption | apply Keeps.ite | apply State.wr_keeps)
    | extract_lets | exact id | exact Nat.le_refl _ | split | (intro q; simpa [updAt] using q)
    | (intro q; exact (List.length_modify ..).trans q) | (intro q; exact (List.length_set ..).trans q))

theorem State.putBit_keeps {s0 s : State} {a : Nat} {i : Nat} {b : Bool} (hK : Keeps pm pi pf pk s0 s) :
    Keeps pm pi pf pk s0 (State.putBit s a i b) := by
  unfold State.putBit
  repeat' (first
    | (with_reducible first
      | assumption | apply Keeps.ite | apply State.putF_keeps)
    | extract_lets | exact id | exact Nat.le_refl _ | split | (intro q; simpa [updAt] using q)
    | (intro q; exact (List.length_modify ..).trans q) | (intro q; exact (List.length_set ..).trans q))

theorem State.addSat_keeps {s0 s : State} {a : Nat} {hi : Nat} {lo : Nat} {n : Nat} (hK : Keeps pm pi pf pk s0 s) :
    Keeps pm pi pf pk s0 (State.addSat s a hi lo n) := by
  unfold State.addSat
  repeat' (first
    | (with_reducible first
      | assumption | apply Keeps.ite | apply State.putF_keeps)
    | extract_lets | exact id | exact Nat.le_refl _ | split | (intro q; simpa [updAt] using q)
    | (intro q; exact (List.length_modify ..).trans q) | (intro q; exact (List.length_set ..).trans q))

theorem State.incSat_keeps {s0 s : State} {a : Nat} {hi : Nat} {lo : Nat} (hK : Keeps pm pi pf pk s0 s) :
    Keeps pm pi pf pk s0 (State.incSat s a hi lo) := by
  unfold State.incSat
  repeat' (first
    | (with_reducible first
      | assumption | apply Keeps.ite | apply State.addSat_keeps)
    | extract_lets | exact id | exact Nat.le_refl _ | split | (intro q; simpa [updAt] using q)
    | (intro q; exact (List.length_modify ..).trans q) | (intro q; exact (List.length_set ..).trans q))

theorem State.addWrap_keeps {s0 s : State} {a : Nat} {hi : Nat} {lo : Nat} {n : Nat} (hK : Keeps pm pi pf pk s0 s) :
    Keeps pm pi pf pk s0 (State.addWrap s a hi lo n) := by
  unfold State.addWrap
  repeat' (first
    | (with_reducible first
      | assumption | apply Keeps.ite | apply State.putF_keeps)
    | extract_lets | exact id | exact Nat.le_refl _ | split | (intro q; simpa [updAt] using q)
    | (intro q; exact (List.length_modify ..).trans q) | (intro q; exact (List.length_set ..).trans q))

theorem State.incWrap_keeps {s0 s : State} {a : Nat} {hi : Nat} {lo : Nat} (hK : Keeps pm pi pf pk s0 s) :
    Keeps pm pi pf pk s0 (State.incWrap s a hi lo) := by
  unfold State.incWrap
  repeat' (first
    | (with_reducible first
      | assumption | apply Keeps.ite | apply State.addWrap_keeps)
    | extract_lets | exact id | exact Nat.le_refl _ | split | (intro q; simpa [updAt] using q)
    | (intro q; exact (List.length_modify ..).trans q) | (intro q; exact (List.length_set ..).trans q))

theorem State.cnt_keeps {s0 s : State} {a : Nat} (hK : Keeps pm pi pf pk s0 s) :
    Keeps pm pi pf pk s0 (State.cnt s a) := by
  unfold State.cnt
  repeat' (first
    | (with_reducible first
      | assumption | apply Keeps.ite | apply State.incSat_keeps)
    | extract_lets | exact id | exact Nat.le_refl _ | split | (intro q; simpa [updAt] using q)
    | (intro q; exact (List.length_modify ..).trans q) | (intro q; exact (List.length_set ..).trans q))

theorem State.wrS_keeps {s0 s : State} {a : Nat} {v : Int} (hK : Keeps pm pi pf pk s0 s) :
    Keeps pm pi pf pk s0 (State.wrS s a v) := by
  unfold State.wrS
  repeat' (first
    | (with_reducible first
      | assumption | apply Keeps.ite | apply State.wr_keeps)
    | extract_lets | exact id | exact Nat.le_refl _ | split | (intro q; simpa [updAt] using q)
    | (intro q; exact (List.length_modify ..).trans q) | (intro q; exact (List.length_set ..).trans q))

theorem State.setByte_keeps {s0 s : State} {a : Nat} {v : Byte} (hK : Keeps false pi pf pk s0 s) : Keeps false pi pf pk s0 (s.setByte a v) :=
  hK.with_mem swf_sput

theorem State.setIbyte_keeps {s0 s : State} {a : Nat} {v : Byte} (hK : Keeps pm false pf pk s0 s) : Keeps pm false pf pk s0 (s.setIbyte a v) :=
  hK.with_inner swf_sput

theorem State.setBytes_keeps {s0 s : State} {a : Nat} {l : List Byte} (hK : Keeps false pi pf pk s0 s) : Keeps false pi pf pk s0 (s.setBytes a l) :=
  hK.with_mem swf_putBytes

theorem State.setIbytes_keeps {s0 s : State} {a : Nat} {l : List Byte} (hK : Keeps pm false pf pk s0 s) : Keeps pm false pf pk s0 (s.setIbytes a l) :=
  hK.with_inner swf_putBytes

theorem State.setLe_keeps {s0 s : State} {a : Nat} {n : Nat} {v : Nat} (hK : Keeps false pi pf pk s0 s) :
    Keeps false pi pf pk s0 (State.setLe s a n v) := by
  unfold State.setLe
  repeat' (first
    | (with_reducible first
      | assumption | apply Keeps.ite | apply State.setBytes_keeps)
    | extract_lets | exact id | exact Nat.le_refl _ | split | (intro q; simpa [updAt] using q)
    | (intro q; exact (List.length_modify ..).trans q) | (intro q; exact (List.length_set ..).trans q))

theorem State.setIle_keeps {s0 s : State} {a : Nat} {n : Nat} {v : Nat} (hK : Keeps pm false pf pk s0 s) :
    Keeps pm false pf pk s0 (State.setIle s a n v) := by
  unfold State.setIle
  repeat' (first
    | (with_reducible first
      | assumption | apply Keeps.ite | apply State.setIbytes_keeps)
    | extract_lets | exact id | exact Nat.le_refl _ | split | (intro q; simpa [updAt] using q)
    | (intro q; exact (List.length_modify ..).trans q) | (intro q; exact (List.length_set ..).trans q))

theorem State.zero_keeps {s0 s : State} {a n : Nat} (hK : Keeps false pi pf pk s0 s) : Keeps false pi pf pk s0 (s.zero a n) :=
  hK.with_mem swf_filter

theorem State.izero_keeps {s0 s : State} {a n : Nat} (hK : Keeps pm false pf pk s0 s) : Keeps pm false pf pk s0 (s.izero a n) :=
  hK.with_inner swf_filter

theorem State.fresh_keeps {s0 s : State} {w : Nat} (hK : Keeps pm pi pf pk s0 s) : Keeps pm pi pf pk s0 (s.fresh w).2 :=
  hK.with_free (Nat.le_succ _)

theorem State.emit_keeps {s0 s : State} {o : Out} (hK : Keeps pm pi pf pk s0 s) : Keeps pm pi pf pk s0 (s.emit o) :=
  hK.with_out (List.prefix_append _ _)

theorem State.tickTo_keeps {s0 s : State} {t : Nat} (hK : Keeps pm pi pf pk s0 s) : Keeps pm pi pf pk s0 (s.tickTo t) :=
  hK.with_clk (Nat.le_max_left _ _)

end Sys2Proof.Machine
end

