-- ==== Sys2Proof/Laws/KeepsFlags.lean ====
section
/-! SUPPORT. What the operations of Machine/Flags.lean keep. -/

set_option linter.all false

namespace Sys2Proof.Machine

variable {pm pi pf pk : Bool}

theorem State.evt_keeps {s0 s : State} {page : Nat} {b : Nat} (hK : Keeps pm pi pf pk s0 s) :
    Keeps pm pi pf pk s0 (State.evt s page b) := by
  unfold State.evt
  repeat' (first
    | (with_reducible first
      | assumption | apply Keeps.ite | apply State.putBit_keeps)
    | extract_lets | exact id | exact Nat.le_refl _ | split | (intro q; simpa [updAt] using q)
    | (intro q; exact (List.length_modify ..).trans q) | (intro q; exact (List.length_set ..).trans q))

theorem State.lvl_keeps {s0 s : State} {page : Nat} {b : Nat} {v : Bool} (hK : Keeps pm pi pf pk s0 s) :
    Keeps pm pi pf pk s0 (State.lvl s page b v) := by
  unfold State.lvl
  repeat' (first
    | (with_reducible first
      | assumption | apply Keeps.ite | apply State.evt_keeps | apply State.putBit_keeps)
    | extract_lets | exact id | exact Nat.le_refl _ | split | (intro q; simpa [updAt] using q)
    | (intro q; exact (List.length_modify ..).trans q) | (intro q; exact (List.length_set ..).trans q))

theorem State.reach_keeps {s0 s : State} {k : Nat} {reg : Nat} {irq : Nat} (hK : Keeps pm pi pf pk s0 s) :
    Keeps pm pi pf pk s0 (State.reach s k reg irq) := by
  unfold State.reach
  repeat' (first
    | (with_reducible first
      | assumption | apply Keeps.ite | apply State.evt_keeps | apply State.wr_keeps | apply State.putBit_keeps)
    | extract_lets | exact id | exact Nat.le_refl _ | split | (intro q; simpa [updAt] using q)
    | (intro q; exact (List.length_modify ..).trans q) | (intro q; exact (List.length_set ..).trans q))

theorem State.readyA_keeps {s0 s : State} (hK : Keeps pm pi pf pk s0 s) :
    Keeps pm pi pf pk s0 (State.readyA s) := by
  unfold State.readyA
  repeat' (first
    | (with_reducible first
      | assumption | apply Keeps.ite | apply State.reach_keeps)
    | extract_lets | exact id | exact Nat.le_refl _ | split | apply Keeps.with_boot | (intro q; simpa [updAt] using q)
    | (intro q; exact (List.length_modify ..).trans q) | (intro q; exact (List.length_set ..).trans q))

theorem State.readyB_keeps {s0 s : State} (hK : Keeps pm pi pf pk s0 s) :
    Keeps pm pi pf pk s0 (State.readyB s) := by
  unfold State.readyB
  repeat' (first
    | (with_reducible first
      | assumption | apply Keeps.ite | apply State.reach_keeps)
    | extract_lets | exact id | exact Nat.le_refl _ | split | (intro q; simpa [updAt] using q)
    | (intro q; exact (List.length_modify ..).trans q) | (intro q; exact (List.length_set ..).trans q))

theorem State.funcReady_keeps {s0 s : State} {k : Nat} (hK : Keeps pm pi pf pk s0 s) :
    Keeps pm pi pf pk s0 (State.funcReady s k) := by
  unfold State.funcReady
  repeat' (first
    | (with_reducible first
      | assumption | apply Keeps.ite | apply State.readyB_keeps | apply State.readyA_keeps | apply State.putBit_keeps)
    | extract_lets | exact id | exact Nat.le_refl _ | split | (intro q; simpa [updAt] using q)
    | (intro q; exact (List.length_modify ..).trans q) | (intro q; exact (List.length_set ..).trans q))

theorem State.funcLost_keeps {s0 s : State} {k : Nat} (hK : Keeps pm pi pf pk s0 s) :
    Keeps pm pi pf pk s0 (State.funcLost s k) := by
  unfold State.funcLost
  repeat' (first
    | (with_reducible first
      | assumption | apply Keeps.ite | apply State.lvl_keeps | apply State.putBit_keeps | apply State.emit_keeps)
    | extract_lets | exact id | exact Nat.le_refl _ | split | (intro q; simpa [updAt] using q)
    | (intro q; exact (List.length_modify ..).trans q) | (intro q; exact (List.length_set ..).trans q))

theorem State.funcSet_keeps {s0 s : State} {k : Nat} {b : Bool} (hK : Keeps pm pi pf pk s0 s) :
    Keeps pm pi pf pk s0 (State.funcSet s k b) := by
  unfold State.funcSet
  repeat' (first
    | (with_reducible first
      | assumption | apply Keeps.ite | apply State.funcReady_keeps | apply State.funcLost_keeps)
    | extract_lets | exact id | exact Nat.le_refl _ | split | (intro q; simpa [updAt] using q)
    | (intro q; exact (List.length_modify ..).trans q) | (intro q; exact (List.length_set ..).trans q))

theorem State.pageErr_keeps {s0 s : State} {page : Nat} {off : Nat} {cause : Nat} {heart : Bool} (hK : Keeps pm pi pf pk s0 s) :
    Keeps pm pi pf pk s0 (State.pageErr s page off cause heart) := by
  unfold State.pageErr
  repeat' (first
    | (with_reducible first
      | assumption | apply Keeps.ite | apply State.wr_keeps | apply State.incSat_keeps)
    | extract_lets | exact id | exact Nat.le_refl _ | split | (intro q; simpa [updAt] using q)
    | (intro q; exact (List.length_modify ..).trans q) | (intro q; exact (List.length_set ..).trans q))

theorem State.sysErr_keeps {s0 s : State} {req : Requester} {heart : Bool} {addr : Nat} {cause : Nat} {write : Bool} (hK : Keeps pm pi pf pk s0 s) :
    Keeps pm pi pf pk s0 (State.sysErr s req heart addr cause write) := by
  unfold State.sysErr
  repeat' (first
    | (with_reducible first
      | assumption | apply Keeps.ite | apply State.cnt_keeps | apply State.lvl_keeps | apply State.wr_keeps)
    | extract_lets | exact id | exact Nat.le_refl _ | split | (intro q; simpa [updAt] using q)
    | (intro q; exact (List.length_modify ..).trans q) | (intro q; exact (List.length_set ..).trans q))

theorem State.reqErr_keeps {s0 s : State} {req : Requester} {heart : Bool} {addr : Nat} {cause : Nat} {write : Bool} (hK : Keeps pm pi pf pk s0 s) :
    Keeps pm pi pf pk s0 (State.reqErr s req heart addr cause write) := by
  unfold State.reqErr
  repeat' (first
    | (with_reducible first
      | assumption | apply Keeps.ite | apply State.pageErr_keeps | apply State.sysErr_keeps)
    | extract_lets | exact id | exact Nat.le_refl _ | split | (intro q; simpa [updAt] using q)
    | (intro q; exact (List.length_modify ..).trans q) | (intro q; exact (List.length_set ..).trans q))

theorem State.respErr_keeps {s0 s : State} {cause : Nat} {n : Nat} (hK : Keeps pm pi pf pk s0 s) :
    Keeps pm pi pf pk s0 (State.respErr s cause n) := by
  unfold State.respErr
  repeat' (first
    | (with_reducible first
      | assumption | apply Keeps.ite)
    | extract_lets | exact id | exact Nat.le_refl _ | split | apply Keeps.with_resp | (intro q; simpa [updAt] using q)
    | (intro q; exact (List.length_modify ..).trans q) | (intro q; exact (List.length_set ..).trans q))

theorem State.respOk_keeps {s0 s : State} {data : List Byte} (hK : Keeps pm pi pf pk s0 s) :
    Keeps pm pi pf pk s0 (State.respOk s data) := by
  unfold State.respOk
  repeat' (first
    | (with_reducible first
      | assumption | apply Keeps.ite)
    | extract_lets | exact id | exact Nat.le_refl _ | split | apply Keeps.with_resp | (intro q; simpa [updAt] using q)
    | (intro q; exact (List.length_modify ..).trans q) | (intro q; exact (List.length_set ..).trans q))

theorem State.refuse_keeps {s0 s : State} {req : Requester} {addr : Nat} {cause : Nat} {n : Nat} {write : Bool} (hK : Keeps pm pi pf pk s0 s) :
    Keeps pm pi pf pk s0 (State.refuse s req addr cause n write) := by
  unfold State.refuse
  repeat' (first
    | (with_reducible first
      | assumption | apply Keeps.ite | apply State.respErr_keeps | apply State.reqErr_keeps)
    | extract_lets | exact id | exact Nat.le_refl _ | split | (intro q; simpa [updAt] using q)
    | (intro q; exact (List.length_modify ..).trans q) | (intro q; exact (List.length_set ..).trans q))

theorem State.quiet_keeps {s0 s : State} {req : Requester} {addr : Nat} {cause : Nat} (hK : Keeps pm pi pf pk s0 s) :
    Keeps pm pi pf pk s0 (State.quiet s req addr cause) := by
  unfold State.quiet
  repeat' (first
    | (with_reducible first
      | assumption | apply Keeps.ite | apply State.respOk_keeps | apply State.pageErr_keeps)
    | extract_lets | exact id | exact Nat.le_refl _ | split | (intro q; simpa [updAt] using q)
    | (intro q; exact (List.length_modify ..).trans q) | (intro q; exact (List.length_set ..).trans q))

end Sys2Proof.Machine
end

