-- ==== Sys2Proof/Laws/KeepsAngle.lean ====
section
/-! SUPPORT. What the operations of Machine/Angle.lean keep. -/

set_option linter.all false

namespace Sys2Proof.Machine

variable {pm pi pf pk : Bool}

theorem State.setSrc_keeps {s0 s : State} {i : Nat} {f : AngSrc → AngSrc} (hK : Keeps pm pi pf pk s0 s) :
    Keeps pm pi pf pk s0 (State.setSrc s i f) := by
  unfold State.setSrc
  repeat' (first
    | (with_reducible first
      | assumption | apply Keeps.ite)
    | extract_lets | exact id | exact Nat.le_refl _ | split | apply Keeps.with_ang | (intro q; simpa [updAt] using q)
    | (intro q; exact (List.length_modify ..).trans q) | (intro q; exact (List.length_set ..).trans q))

theorem State.setDom_keeps {s0 s : State} {d : Nat} {f : AngDom → AngDom} (hK : Keeps pm pi pf pk s0 s) :
    Keeps pm pi pf pk s0 (State.setDom s d f) := by
  unfold State.setDom
  repeat' (first
    | (with_reducible first
      | assumption | apply Keeps.ite)
    | extract_lets | exact id | exact Nat.le_refl _ | split | apply Keeps.with_ang | (intro q; simpa [updAt] using q)
    | (intro q; exact (List.length_modify ..).trans q) | (intro q; exact (List.length_set ..).trans q))

theorem State.setSrcState_keeps {s0 s : State} {i : Nat} {v : Nat} (hK : Keeps pm pi pf pk s0 s) :
    Keeps pm pi pf pk s0 (State.setSrcState s i v) := by
  unfold State.setSrcState
  repeat' (first
    | (with_reducible first
      | assumption | apply Keeps.ite | apply State.putF_keeps)
    | extract_lets | exact id | exact Nat.le_refl _ | split | (intro q; simpa [updAt] using q)
    | (intro q; exact (List.length_modify ..).trans q) | (intro q; exact (List.length_set ..).trans q))

theorem State.noCount_keeps {s0 s : State} {i : Nat} (hK : Keeps pm pi pf pk s0 s) :
    Keeps pm pi pf pk s0 (State.noCount s i) := by
  unfold State.noCount
  repeat' (first
    | (with_reducible first
      | assumption | apply Keeps.ite | apply State.putF_keeps)
    | extract_lets | exact id | exact Nat.le_refl _ | split | (intro q; simpa [updAt] using q)
    | (intro q; exact (List.length_modify ..).trans q) | (intro q; exact (List.length_set ..).trans q))

theorem State.holdExp_keeps {s0 s : State} {d : Nat} {b : Bool} (hK : Keeps pm pi pf pk s0 s) :
    Keeps pm pi pf pk s0 (State.holdExp s d b) := by
  unfold State.holdExp
  repeat' (first
    | (with_reducible first
      | assumption | apply Keeps.ite | apply State.putBit_keeps | apply State.lvl_keeps)
    | extract_lets | exact id | exact Nat.le_refl _ | split | (intro q; simpa [updAt] using q)
    | (intro q; exact (List.length_modify ..).trans q) | (intro q; exact (List.length_set ..).trans q))

theorem State.setQ_keeps {s0 s : State} {d : Nat} {q : Nat} (hK : Keeps pm pi pf pk s0 s) :
    Keeps pm pi pf pk s0 (State.setQ s d q) := by
  unfold State.setQ
  repeat' (first
    | (with_reducible first
      | assumption | apply Keeps.ite | apply State.putF_keeps | apply State.funcSet_keeps | apply State.holdExp_keeps)
    | extract_lets | exact id | exact Nat.le_refl _ | split | (intro q; simpa [updAt] using q)
    | (intro q; exact (List.length_modify ..).trans q) | (intro q; exact (List.length_set ..).trans q)
    | (intro q; exact (List.length_map ..).trans q))

theorem State.angLogSync_keeps {s0 s : State} (hK : Keeps pm pi pf pk s0 s) :
    Keeps pm pi pf pk s0 (State.angLogSync s) := by
  unfold State.angLogSync
  repeat' (first
    | (with_reducible first
      | assumption | apply Keeps.ite | apply State.putBit_keeps | apply State.putF_keeps | apply State.wr_keeps)
    | extract_lets | exact id | exact Nat.le_refl _ | split | (intro q; simpa [updAt] using q)
    | (intro q; exact (List.length_modify ..).trans q) | (intro q; exact (List.length_set ..).trans q))

theorem State.angLog_keeps {s0 s : State} {t : Nat} {type : Nat} {d : Nat} {from' : Nat} {to' : Nat} {fq : Nat} {tq : Nat} {info : Nat} (hK : Keeps pm pi pf pk s0 s) :
    Keeps pm pi pf pk s0 (State.angLog s t type d from' to' fq tq info) := by
  unfold State.angLog
  repeat' (first
    | (with_reducible first
      | assumption | apply Keeps.ite | apply State.evt_keeps | apply State.incSat_keeps | apply State.angLogSync_keeps)
    | extract_lets | exact id | exact Nat.le_refl _ | split | apply Keeps.with_ang | (intro q; simpa [updAt] using q)
    | (intro q; exact (List.length_modify ..).trans q) | (intro q; exact (List.length_set ..).trans q))

theorem State.domRun_keeps {s0 s : State} {d : Nat} {t : Nat} (hK : Keeps pm pi pf pk s0 s) :
    Keeps pm pi pf pk s0 (State.domRun s d t) := by
  unfold State.domRun
  repeat' (first
    | (with_reducible first
      | assumption | apply Keeps.ite | apply State.setDom_keeps | apply State.angLog_keeps | apply State.putBit_keeps
      | apply State.setQ_keeps | apply State.putF_keeps)
    | extract_lets | exact id | exact Nat.le_refl _ | split | (intro q; simpa [updAt] using q)
    | (intro q; exact (List.length_modify ..).trans q) | (intro q; exact (List.length_set ..).trans q))

theorem State.startSlew_keeps {s0 s : State} {d : Nat} {i : Nat} {t : Nat} {regrid : Bool} (hK : Keeps pm pi pf pk s0 s) :
    Keeps pm pi pf pk s0 (State.startSlew s d i t regrid) := by
  unfold State.startSlew
  repeat' (first
    | (with_reducible first
      | assumption | apply Keeps.ite | apply State.setDom_keeps | apply State.putBit_keeps | apply State.putF_keeps
      | apply State.setQ_keeps)
    | extract_lets | exact id | exact Nat.le_refl _ | split | (intro q; simpa [updAt] using q)
    | (intro q; exact (List.length_modify ..).trans q) | (intro q; exact (List.length_set ..).trans q)
    | (intro q; exact (List.length_map ..).trans q))

theorem State.domHold_keeps {s0 s : State} {d : Nat} {t : Nat} (hK : Keeps pm pi pf pk s0 s) :
    Keeps pm pi pf pk s0 (State.domHold s d t) := by
  unfold State.domHold
  repeat' (first
    | (with_reducible first
      | assumption | apply Keeps.ite | apply State.domRun_keeps | apply State.setDom_keeps | apply State.setQ_keeps
      | apply State.putBit_keeps | apply State.putF_keeps)
    | extract_lets | exact id | exact Nat.le_refl _ | split | (intro q; simpa [updAt] using q)
    | (intro q; exact (List.length_modify ..).trans q) | (intro q; exact (List.length_set ..).trans q)
    | (intro q; exact (List.length_map ..).trans q))

theorem State.refLost_keeps {s0 s : State} {d : Nat} {t : Nat} (hK : Keeps pm pi pf pk s0 s) :
    Keeps pm pi pf pk s0 (State.refLost s d t) := by
  unfold State.refLost
  repeat' (first
    | (with_reducible first
      | assumption | apply Keeps.ite | apply State.domRun_keeps | apply State.domHold_keeps
      | apply State.startSlew_keeps | apply State.evt_keeps | apply State.angLog_keeps)
    | extract_lets | exact id | exact Nat.le_refl _ | split | (intro q; simpa [updAt] using q)
    | (intro q; exact (List.length_modify ..).trans q) | (intro q; exact (List.length_set ..).trans q)
    | (intro q; exact (List.length_map ..).trans q))

theorem State.qualShow_keeps {s0 s : State} {d : Nat} (hK : Keeps pm pi pf pk s0 s) :
    Keeps pm pi pf pk s0 (State.qualShow s d) := by
  unfold State.qualShow
  repeat' (first
    | (with_reducible first
      | assumption | apply Keeps.ite | apply State.putF_keeps)
    | extract_lets | exact id | exact Nat.le_refl _ | split | (intro q; simpa [updAt] using q)
    | (intro q; exact (List.length_modify ..).trans q) | (intro q; exact (List.length_set ..).trans q))

theorem State.learnDrop_keeps {s0 s : State} {i : Nat} (hK : Keeps pm pi pf pk s0 s) :
    Keeps pm pi pf pk s0 (State.learnDrop s i) := by
  unfold State.learnDrop
  repeat' (first
    | (with_reducible first
      | assumption | apply Keeps.ite | refine Keeps.each (fun _ _ _ => ?_) ?_ | apply State.setSrc_keeps)
    | extract_lets | exact id | exact Nat.le_refl _ | split | (intro q; simpa [updAt] using q)
    | (intro q; exact (List.length_modify ..).trans q) | (intro q; exact (List.length_set ..).trans q))

theorem State.loseSrc_keeps {s0 s : State} {i : Nat} {t : Nat} {info : Nat} (hK : Keeps pm pi pf pk s0 s) :
    Keeps pm pi pf pk s0 (State.loseSrc s i t info) := by
  unfold State.loseSrc
  repeat' (first
    | (with_reducible first
      | assumption | apply Keeps.ite | apply State.learnDrop_keeps | apply State.setSrc_keeps
      | apply State.noCount_keeps | apply State.setSrcState_keeps | refine Keeps.each (fun _ _ _ => ?_) ?_
      | apply State.qualShow_keeps | apply State.setDom_keeps | apply State.angLog_keeps | apply State.evt_keeps
      | apply State.refLost_keeps)
    | extract_lets | exact id | exact Nat.le_refl _ | split | (intro q; simpa [updAt] using q)
    | (intro q; exact (List.length_modify ..).trans q) | (intro q; exact (List.length_set ..).trans q)
    | (intro q; exact (List.length_map ..).trans q))

theorem State.startMoving_keeps {s0 s : State} {d : Nat} {t : Nat} (hK : Keeps pm pi pf pk s0 s) :
    Keeps pm pi pf pk s0 (State.startMoving s d t) := by
  unfold State.startMoving
  repeat' (first
    | (with_reducible first
      | assumption | apply Keeps.ite | apply State.setDom_keeps | apply State.putBit_keeps | apply State.evt_keeps
      | apply State.angLog_keeps)
    | extract_lets | exact id | exact Nat.le_refl _ | split | (intro q; simpa [updAt] using q)
    | (intro q; exact (List.length_modify ..).trans q) | (intro q; exact (List.length_set ..).trans q)
    | (intro q; exact (List.length_map ..).trans q))

theorem State.boundAt_keeps {s0 s : State} {d : Nat} {i : Nat} {th : Rat} {first : Bool} {t : Nat} (hK : Keeps pm pi pf pk s0 s) :
    Keeps pm pi pf pk s0 (State.boundAt s d i th first t) := by
  unfold State.boundAt
  repeat' (first
    | (with_reducible first
      | assumption | apply Keeps.ite | apply State.wr_keeps | apply State.setDom_keeps)
    | extract_lets | exact id | exact Nat.le_refl _ | split | (intro q; simpa [updAt] using q)
    | (intro q; exact (List.length_modify ..).trans q) | (intro q; exact (List.length_set ..).trans q)
    | (intro q; exact (List.length_map ..).trans q))

theorem State.qualified_keeps {s0 s : State} {d : Nat} {i : Nat} {t : Nat} (hK : Keeps pm pi pf pk s0 s) :
    Keeps pm pi pf pk s0 (State.qualified s d i t) := by
  unfold State.qualified
  repeat' (first
    | (with_reducible first
      | assumption | apply Keeps.ite | apply State.setSrcState_keeps | apply State.setDom_keeps
      | apply State.setQ_keeps | apply State.putF_keeps | apply State.putBit_keeps | apply State.startMoving_keeps
      | apply State.evt_keeps | apply State.angLog_keeps | apply State.startSlew_keeps)
    | extract_lets | exact id | exact Nat.le_refl _ | split | (intro q; simpa [updAt] using q)
    | (intro q; exact (List.length_modify ..).trans q) | (intro q; exact (List.length_set ..).trans q)
    | (intro q; exact (List.length_map ..).trans q))

theorem State.countRef_keeps {s0 s : State} {d : Nat} {i : Nat} {t : Nat} (hK : Keeps pm pi pf pk s0 s) :
    Keeps pm pi pf pk s0 (State.countRef s d i t) := by
  unfold State.countRef
  repeat' (first
    | (with_reducible first
      | assumption | apply Keeps.ite | apply State.setDom_keeps | apply State.qualShow_keeps | apply State.putF_keeps
      | apply State.qualified_keeps)
    | extract_lets | exact id | exact Nat.le_refl _ | split | (intro q; simpa [updAt] using q)
    | (intro q; exact (List.length_modify ..).trans q) | (intro q; exact (List.length_set ..).trans q))

theorem State.domTooth_keeps {s0 s : State} {d : Nat} {i : Nat} {t : Nat} {adv : Rat} {idx : Bool} {turns : Bool} (hK : Keeps pm pi pf pk s0 s) :
    Keeps pm pi pf pk s0 (State.domTooth s d i t adv idx turns) := by
  unfold State.domTooth
  repeat' (first
    | (with_reducible first
      | assumption | apply Keeps.ite | apply State.domRun_keeps | apply State.setDom_keeps | apply State.evt_keeps
      | apply State.angLog_keeps | apply State.startMoving_keeps | apply State.putBit_keeps | apply State.putF_keeps
      | apply State.boundAt_keeps | apply State.countRef_keeps)
    | extract_lets | exact id | exact Nat.le_refl _ | split | (intro q; simpa [updAt] using q)
    | (intro q; exact (List.length_modify ..).trans q) | (intro q; exact (List.length_set ..).trans q)
    | (intro q; exact (List.length_map ..).trans q))

theorem State.learnTooth_keeps {s0 s : State} {t : Nat} (hK : Keeps pm pi pf pk s0 s) :
    Keeps pm pi pf pk s0 (State.learnTooth s t) := by
  unfold State.learnTooth
  repeat' (first
    | (with_reducible first
      | assumption | apply Keeps.ite | refine Keeps.each (fun _ _ _ => ?_) ?_ | apply State.setSrc_keeps
      | apply State.wr_keeps)
    | extract_lets | exact id | exact Nat.le_refl _ | split | (intro q; simpa [updAt] using q)
    | (intro q; exact (List.length_modify ..).trans q) | (intro q; exact (List.length_set ..).trans q))

theorem State.stopDom_keeps {s0 s : State} {d : Nat} {t : Nat} (hK : Keeps pm pi pf pk s0 s) :
    Keeps pm pi pf pk s0 (State.stopDom s d t) := by
  unfold State.stopDom
  repeat' (first
    | (with_reducible first
      | assumption | apply Keeps.ite | apply State.domRun_keeps | apply State.setDom_keeps | apply State.evt_keeps
      | apply State.angLog_keeps | apply State.putBit_keeps)
    | extract_lets | exact id | exact Nat.le_refl _ | split | (intro q; simpa [updAt] using q)
    | (intro q; exact (List.length_modify ..).trans q) | (intro q; exact (List.length_set ..).trans q)
    | (intro q; exact (List.length_map ..).trans q))

theorem State.motionCheck_keeps {s0 s : State} (hK : Keeps pm pi pf pk s0 s) :
    Keeps pm pi pf pk s0 (State.motionCheck s) := by
  unfold State.motionCheck
  repeat' (first
    | (with_reducible first
      | assumption | apply Keeps.ite | refine Keeps.each (fun _ _ _ => ?_) ?_ | apply State.loseSrc_keeps
      | apply State.stopDom_keeps)
    | extract_lets | exact id | exact Nat.le_refl _ | split | (intro q; simpa [updAt] using q)
    | (intro q; exact (List.length_modify ..).trans q) | (intro q; exact (List.length_set ..).trans q)
    | (intro q; exact (List.length_map ..).trans q))

theorem State.goSilent_keeps {s0 s : State} {i : Nat} {t : Nat} (hK : Keeps pm pi pf pk s0 s) :
    Keeps pm pi pf pk s0 (State.goSilent s i t) := by
  unfold State.goSilent
  repeat' (first
    | (with_reducible first
      | assumption | apply Keeps.ite | apply State.motionCheck_keeps | apply State.loseSrc_keeps
      | apply State.learnDrop_keeps | apply State.setSrc_keeps | apply State.setSrcState_keeps)
    | extract_lets | exact id | exact Nat.le_refl _ | split | (intro q; simpa [updAt] using q)
    | (intro q; exact (List.length_modify ..).trans q) | (intro q; exact (List.length_set ..).trans q)
    | (intro q; exact (List.length_map ..).trans q))

theorem State.msgExpire_keeps {s0 s : State} {t : Nat} (hK : Keeps pm pi pf pk s0 s) :
    Keeps pm pi pf pk s0 (State.msgExpire s t) := by
  unfold State.msgExpire
  repeat' (first
    | (with_reducible first
      | assumption | apply Keeps.ite | apply State.motionCheck_keeps | apply State.loseSrc_keeps)
    | extract_lets | exact id | exact Nat.le_refl _ | split | apply Keeps.with_ang | (intro q; simpa [updAt] using q)
    | (intro q; exact (List.length_modify ..).trans q) | (intro q; exact (List.length_set ..).trans q)
    | (intro q; exact (List.length_map ..).trans q))

theorem State.lossFirst_keeps {s0 s : State} {i : Nat} {t : Nat} (hK : Keeps pm pi pf pk s0 s) :
    Keeps pm pi pf pk s0 (State.lossFirst s i t) := by
  unfold State.lossFirst
  repeat' (first
    | (with_reducible first
      | assumption | apply Keeps.ite | refine Keeps.each (fun _ _ _ => ?_) ?_ | apply State.goSilent_keeps
      | apply State.msgExpire_keeps)
    | extract_lets | exact id | exact Nat.le_refl _ | split | (intro q; simpa [updAt] using q)
    | (intro q; exact (List.length_modify ..).trans q) | (intro q; exact (List.length_set ..).trans q)
    | (intro q; exact (List.length_map ..).trans q))

theorem State.rejectTooth_keeps {s0 s : State} {i : Nat} (hK : Keeps pm pi pf pk s0 s) :
    Keeps pm pi pf pk s0 (State.rejectTooth s i) := by
  unfold State.rejectTooth
  repeat' (first
    | (with_reducible first
      | assumption | apply Keeps.ite | apply State.learnDrop_keeps | apply State.noCount_keeps
      | apply State.incSat_keeps | refine Keeps.each (fun _ _ _ => ?_) ?_ | apply State.qualShow_keeps
      | apply State.setDom_keeps | apply State.motionCheck_keeps | apply State.loseSrc_keeps
      | apply State.setSrc_keeps)
    | extract_lets | exact id | exact Nat.le_refl _ | split | (intro q; simpa [updAt] using q)
    | (intro q; exact (List.length_modify ..).trans q) | (intro q; exact (List.length_set ..).trans q)
    | (intro q; exact (List.length_map ..).trans q))

theorem State.acceptTooth_keeps {s0 s : State} {i : Nat} {t : Nat} {adv : Rat} {dir : Int} {idx : Bool} {restart : Bool} (hK : Keeps pm pi pf pk s0 s) :
    Keeps pm pi pf pk s0 (State.acceptTooth s i t adv dir idx restart) := by
  unfold State.acceptTooth
  repeat' (first
    | (with_reducible first
      | assumption | apply Keeps.ite | apply State.setSrc_keeps | apply State.wr_keeps | apply State.setSrcState_keeps
      | apply State.putBit_keeps | apply State.learnTooth_keeps | apply State.motionCheck_keeps
      | refine Keeps.each (fun _ _ _ => ?_) ?_ | apply State.domTooth_keeps)
    | extract_lets | exact id | exact Nat.le_refl _ | split | (intro q; simpa [updAt] using q)
    | (intro q; exact (List.length_modify ..).trans q) | (intro q; exact (List.length_set ..).trans q)
    | (intro q; exact (List.length_map ..).trans q))

theorem State.srcEvent_keeps {s0 s : State} {i : Nat} {t : Nat} {step : Rat} {dir : Int} {idx : Bool} {tooth : Bool} (hK : Keeps pm pi pf pk s0 s) :
    Keeps pm pi pf pk s0 (State.srcEvent s i t step dir idx tooth) := by
  unfold State.srcEvent
  repeat' (first
    | (with_reducible first
      | assumption | apply Keeps.ite | apply State.acceptTooth_keeps | apply State.rejectTooth_keeps)
    | extract_lets | exact id | exact Nat.le_refl _ | split | (intro q; simpa [updAt] using q)
    | (intro q; exact (List.length_modify ..).trans q) | (intro q; exact (List.length_set ..).trans q)
    | (intro q; exact (List.length_map ..).trans q))

theorem State.omegaSeen_keeps {s0 s : State} {d : Nat} {t : Nat} (hK : Keeps pm pi pf pk s0 s) :
    Keeps pm pi pf pk s0 (State.omegaSeen s d t) := by
  unfold State.omegaSeen
  repeat' (first
    | (with_reducible first
      | assumption | apply Keeps.ite | apply State.setDom_keeps)
    | extract_lets | exact id | exact Nat.le_refl _ | split | (intro q; simpa [updAt] using q)
    | (intro q; exact (List.length_modify ..).trans q) | (intro q; exact (List.length_set ..).trans q)
    | (intro q; exact (List.length_map ..).trans q))

theorem State.showAt_keeps {s0 s : State} {d : Nat} {t : Nat} (hK : Keeps pm pi pf pk s0 s) :
    Keeps pm pi pf pk s0 (State.showAt s d t) := by
  unfold State.showAt
  repeat' (first
    | (with_reducible first
      | assumption | apply Keeps.ite | apply State.omegaSeen_keeps | apply State.domRun_keeps | apply State.wr_keeps
      | apply State.setDom_keeps | apply State.wrS_keeps)
    | extract_lets | exact id | exact Nat.le_refl _ | split | (intro q; simpa [updAt] using q)
    | (intro q; exact (List.length_modify ..).trans q) | (intro q; exact (List.length_set ..).trans q)
    | (intro q; exact (List.length_map ..).trans q))

theorem State.domShow_keeps {s0 s : State} {d : Nat} {t : Nat} (hK : Keeps pm pi pf pk s0 s) :
    Keeps pm pi pf pk s0 (State.domShow s d t) := by
  unfold State.domShow
  repeat' (first
    | (with_reducible first
      | assumption | apply Keeps.ite | apply State.showAt_keeps)
    | extract_lets | exact id | exact Nat.le_refl _ | split | (intro q; simpa [updAt] using q)
    | (intro q; exact (List.length_modify ..).trans q) | (intro q; exact (List.length_set ..).trans q)
    | (intro q; exact (List.length_map ..).trans q))

theorem State.publish_keeps {s0 s : State} (hK : Keeps pm pi pf pk s0 s) :
    Keeps pm pi pf pk s0 (State.publish s) := by
  unfold State.publish
  repeat' (first
    | (with_reducible first
      | assumption | apply Keeps.ite | refine Keeps.each (fun _ _ _ => ?_) ?_ | apply State.domShow_keeps)
    | extract_lets | exact id | exact Nat.le_refl _ | split | (intro q; simpa [updAt] using q)
    | (intro q; exact (List.length_modify ..).trans q) | (intro q; exact (List.length_set ..).trans q)
    | (intro q; exact (List.length_map ..).trans q))

theorem State.wssTooth_keeps {s0 s : State} {i : Nat} {t : Nat} {dir : Int} (hK : Keeps pm pi pf pk s0 s) :
    Keeps pm pi pf pk s0 (State.wssTooth s i t dir) := by
  unfold State.wssTooth
  repeat' (first
    | (with_reducible first
      | assumption | apply Keeps.ite | apply State.srcEvent_keeps)
    | extract_lets | exact id | exact Nat.le_refl _ | split | (intro q; simpa [updAt] using q)
    | (intro q; exact (List.length_modify ..).trans q) | (intro q; exact (List.length_set ..).trans q)
    | (intro q; exact (List.length_map ..).trans q))

theorem State.wssEdge_keeps {s0 s : State} {i : Nat} {rising : Bool} {t : Nat} (hK : Keeps pm pi pf pk s0 s) :
    Keeps pm pi pf pk s0 (State.wssEdge s i rising t) := by
  unfold State.wssEdge
  repeat' (first
    | (with_reducible first
      | assumption | apply Keeps.ite | apply State.setSrc_keeps | apply State.wssTooth_keeps)
    | extract_lets | exact id | exact Nat.le_refl _ | split | (intro q; simpa [updAt] using q)
    | (intro q; exact (List.length_modify ..).trans q) | (intro q; exact (List.length_set ..).trans q)
    | (intro q; exact (List.length_map ..).trans q))

theorem State.speedMessage_keeps {s0 s : State} {v : Nat} {t : Nat} (hK : Keeps pm pi pf pk s0 s) :
    Keeps pm pi pf pk s0 (State.speedMessage s v t) := by
  unfold State.speedMessage
  repeat' (first
    | (with_reducible first
      | assumption | apply Keeps.ite | apply State.lossFirst_keeps | apply State.wr_keeps | apply State.setSrc_keeps
      | refine Keeps.each (fun _ _ _ => ?_) ?_ | apply State.domRun_keeps | apply State.startMoving_keeps
      | apply State.setDom_keeps | apply State.boundAt_keeps | apply State.countRef_keeps | apply State.publish_keeps
      | apply State.motionCheck_keeps)
    | extract_lets | exact id | exact Nat.le_refl _ | split | apply Keeps.with_ang | (intro q; simpa [updAt] using q)
    | (intro q; exact (List.length_modify ..).trans q) | (intro q; exact (List.length_set ..).trans q)
    | (intro q; exact (List.length_map ..).trans q))

theorem State.srcConfigured_keeps {s0 s : State} {i : Nat} (hK : Keeps pm pi pf pk s0 s) :
    Keeps pm pi pf pk s0 (State.srcConfigured s i) := by
  unfold State.srcConfigured
  repeat' (first
    | (with_reducible first
      | assumption | apply Keeps.ite | apply State.loseSrc_keeps | apply State.setSrc_keeps
      | apply State.publish_keeps | apply State.motionCheck_keeps | apply State.learnDrop_keeps
      | apply State.noCount_keeps | apply State.setSrcState_keeps)
    | extract_lets | exact id | exact Nat.le_refl _ | split | (intro q; simpa [updAt] using q)
    | (intro q; exact (List.length_modify ..).trans q) | (intro q; exact (List.length_set ..).trans q)
    | (intro q; exact (List.length_map ..).trans q))

theorem State.domNamed_keeps {s0 s : State} {d : Nat} {old : Nat} (hK : Keeps pm pi pf pk s0 s) :
    Keeps pm pi pf pk s0 (State.domNamed s d old) := by
  unfold State.domNamed
  repeat' (first
    | (with_reducible first
      | assumption | apply Keeps.ite | refine Keeps.each (fun _ _ _ => ?_) ?_ | apply State.setSrc_keeps
      | apply State.publish_keeps | apply State.setQ_keeps)
    | extract_lets | exact id | exact Nat.le_refl _ | split | (intro q; simpa [updAt] using q)
    | (intro q; exact (List.length_modify ..).trans q) | (intro q; exact (List.length_set ..).trans q)
    | (intro q; exact (List.length_map ..).trans q))

theorem State.domRestart_keeps {s0 s : State} {d : Nat} (hK : Keeps pm pi pf pk s0 s) :
    Keeps pm pi pf pk s0 (State.domRestart s d) := by
  unfold State.domRestart
  repeat' (first
    | (with_reducible first
      | assumption | apply Keeps.ite | apply State.setDom_keeps | apply State.wr_keeps | apply State.holdExp_keeps
      | apply State.setQ_keeps)
    | extract_lets | exact id | exact Nat.le_refl _ | split | (intro q; simpa [updAt] using q)
    | (intro q; exact (List.length_modify ..).trans q) | (intro q; exact (List.length_set ..).trans q)
    | (intro q; exact (List.length_map ..).trans q))

theorem State.endFollow_keeps {s0 s : State} (hK : Keeps pm pi pf pk s0 s) :
    Keeps pm pi pf pk s0 (State.endFollow s) := by
  unfold State.endFollow
  repeat' (first
    | (with_reducible first
      | assumption | apply Keeps.ite | refine Keeps.each (fun _ _ _ => ?_) ?_ | apply State.domHold_keeps)
    | extract_lets | exact id | exact Nat.le_refl _ | split | apply Keeps.with_ang | (intro q; simpa [updAt] using q)
    | (intro q; exact (List.length_modify ..).trans q) | (intro q; exact (List.length_set ..).trans q))

theorem State.angleCtl_keeps {s0 s : State} {old : Nat} (hK : Keeps pm pi pf pk s0 s) :
    Keeps pm pi pf pk s0 (State.angleCtl s old) := by
  unfold State.angleCtl
  repeat' (first
    | (with_reducible first
      | assumption | apply Keeps.ite | apply State.endFollow_keeps | refine Keeps.each (fun _ _ _ => ?_) ?_
      | apply State.setSrcState_keeps | apply State.domRestart_keeps | apply State.showAt_keeps)
    | extract_lets | exact id | exact Nat.le_refl _ | apply Keeps.with_ang | (intro q; simpa [updAt] using q)
    | (intro q; exact (List.length_modify ..).trans q) | (intro q; exact (List.length_set ..).trans q)
    | (intro q; exact (List.length_map ..).trans q) | split)

theorem State.writePredCtl_keeps {s0 s : State} {req : Requester} {v : Nat} (hK : Keeps pm pi pf pk s0 s) :
    Keeps pm pi pf pk s0 (State.writePredCtl s req v) := by
  unfold State.writePredCtl
  repeat' (first
    | (with_reducible first
      | assumption | apply Keeps.ite | apply State.quiet_keeps | apply State.wr_keeps)
    | extract_lets | exact id | exact Nat.le_refl _ | split | (intro q; simpa [updAt] using q)
    | (intro q; exact (List.length_modify ..).trans q) | (intro q; exact (List.length_set ..).trans q))

theorem State.popAngLog_keeps {s0 s : State} {v : Nat} (hK : Keeps pm pi pf pk s0 s) :
    Keeps pm pi pf pk s0 (State.popAngLog s v) := by
  unfold State.popAngLog
  repeat' (first
    | (with_reducible first
      | assumption | apply Keeps.ite | apply State.angLogSync_keeps)
    | extract_lets | exact id | exact Nat.le_refl _ | split | apply Keeps.with_ang | (intro q; simpa [updAt] using q)
    | (intro q; exact (List.length_modify ..).trans q) | (intro q; exact (List.length_set ..).trans q))

theorem State.setTimeState_keeps {s0 s : State} {v : Nat} (hK : Keeps pm pi pf pk s0 s) :
    Keeps pm pi pf pk s0 (State.setTimeState s v) := by
  unfold State.setTimeState
  repeat' (first
    | (with_reducible first
      | assumption | apply Keeps.ite | apply State.evt_keeps | apply State.angLog_keeps | apply State.putF_keeps)
    | extract_lets | exact id | exact Nat.le_refl _ | split | (intro q; simpa [updAt] using q)
    | (intro q; exact (List.length_modify ..).trans q) | (intro q; exact (List.length_set ..).trans q))

theorem State.gptpOffset_keeps {s0 s : State} {offset : Int} {locks : Bool} (hK : Keeps pm pi pf pk s0 s) :
    Keeps pm pi pf pk s0 (State.gptpOffset s offset locks) := by
  unfold State.gptpOffset
  repeat' (first
    | (with_reducible first
      | assumption | apply Keeps.ite | apply State.wrS_keeps | apply State.putBit_keeps | apply State.fresh_keeps
      | apply State.setTimeState_keeps)
    | extract_lets | exact id | exact Nat.le_refl _ | apply Keeps.with_clk | apply Keeps.with_ang | (intro q; simpa [updAt] using q)
    | (intro q; exact (List.length_modify ..).trans q) | (intro q; exact (List.length_set ..).trans q)
    | (intro q; exact (List.length_map ..).trans q) | split | (intro q; simp only [List.length_modify, List.length_set, List.length_map, updAt]; exact q))

theorem State.gptpLost_keeps {s0 s : State} (hK : Keeps pm pi pf pk s0 s) :
    Keeps pm pi pf pk s0 (State.gptpLost s) := by
  unfold State.gptpLost
  repeat' (first
    | (with_reducible first
      | assumption | apply Keeps.ite | apply State.setTimeState_keeps)
    | extract_lets | exact id | exact Nat.le_refl _ | split | (intro q; simpa [updAt] using q)
    | (intro q; exact (List.length_modify ..).trans q) | (intro q; exact (List.length_set ..).trans q))

theorem State.gptpNone_keeps {s0 s : State} (hK : Keeps pm pi pf pk s0 s) :
    Keeps pm pi pf pk s0 (State.gptpNone s) := by
  unfold State.gptpNone
  repeat' (first
    | (with_reducible first
      | assumption | apply Keeps.ite | apply State.wr_keeps | apply State.setTimeState_keeps)
    | extract_lets | exact id | exact Nat.le_refl _ | split | (intro q; simpa [updAt] using q)
    | (intro q; exact (List.length_modify ..).trans q) | (intro q; exact (List.length_set ..).trans q))

end Sys2Proof.Machine
end

