-- ==== Sys2Proof/Laws/KeepsFabric.lean ====
section
/-! SUPPORT. What the operations of Machine/Fabric.lean keep. -/

set_option linter.all false

namespace Sys2Proof.Machine

variable {pm pi pf pk : Bool}

theorem State.setLstate_keeps {s0 s : State} {p : Nat} {v : Nat} (hK : Keeps pm pi pf pk s0 s) :
    Keeps pm pi pf pk s0 (State.setLstate s p v) := by
  unfold State.setLstate
  repeat' (first
    | (with_reducible first
      | assumption | apply Keeps.ite | apply State.putF_keeps)
    | extract_lets | exact id | exact Nat.le_refl _ | split | (intro q; simpa [updAt] using q)
    | (intro q; exact (List.length_modify ..).trans q) | (intro q; exact (List.length_set ..).trans q))

theorem State.usePort_keeps {s0 s : State} {p : Nat} (hK : Keeps pm pi pf pk s0 s) :
    Keeps pm pi pf pk s0 (State.usePort s p) := by
  unfold State.usePort
  repeat' (first
    | (with_reducible first
      | assumption | apply Keeps.ite | apply State.setLstate_keeps)
    | extract_lets | exact id | exact Nat.le_refl _ | split | apply Keeps.with_fab | (intro q; simpa [updAt] using q)
    | (intro q; exact (List.length_modify ..).trans q) | (intro q; exact (List.length_set ..).trans q))

theorem State.sendPacket_keeps {s0 s : State} {p : Nat} {kind : Nat} {words : List Nat} {len : Nat} (hK : Keeps pm pi pf pk s0 s) :
    Keeps pm pi pf pk s0 (State.sendPacket s p kind words len) := by
  unfold State.sendPacket
  repeat' (first
    | (with_reducible first
      | assumption | apply Keeps.ite | apply State.emit_keeps | apply State.addWrap_keeps | apply State.usePort_keeps)
    | extract_lets | exact id | exact Nat.le_refl _ | split | (intro q; simpa [updAt] using q)
    | (intro q; exact (List.length_modify ..).trans q) | (intro q; exact (List.length_set ..).trans q))

theorem State.gotPacket_keeps {s0 s : State} {p : Nat} {len : Nat} (hK : Keeps pm pi pf pk s0 s) :
    Keeps pm pi pf pk s0 (State.gotPacket s p len) := by
  unfold State.gotPacket
  repeat' (first
    | (with_reducible first
      | assumption | apply Keeps.ite | apply State.addWrap_keeps | apply State.usePort_keeps)
    | extract_lets | exact id | exact Nat.le_refl _ | split | (intro q; simpa [updAt] using q)
    | (intro q; exact (List.length_modify ..).trans q) | (intro q; exact (List.length_set ..).trans q))

theorem State.setFabState_keeps {s0 s : State} {v : Nat} (hK : Keeps pm pi pf pk s0 s) :
    Keeps pm pi pf pk s0 (State.setFabState s v) := by
  unfold State.setFabState
  repeat' (first
    | (with_reducible first
      | assumption | apply Keeps.ite | apply State.putF_keeps)
    | extract_lets | exact id | exact Nat.le_refl _ | split | (intro q; simpa [updAt] using q)
    | (intro q; exact (List.length_modify ..).trans q) | (intro q; exact (List.length_set ..).trans q))

theorem State.clearTables_keeps {s0 s : State} (hK : Keeps pm pi pf pk s0 s) :
    Keeps pm pi pf pk s0 (State.clearTables s) := by
  unfold State.clearTables
  repeat' (first
    | (with_reducible first
      | assumption | apply Keeps.ite | refine Keeps.each (fun _ _ _ => ?_) ?_ | apply State.wr_keeps)
    | extract_lets | exact id | exact Nat.le_refl _ | split | (intro q; simpa [updAt] using q)
    | (intro q; exact (List.length_modify ..).trans q) | (intro q; exact (List.length_set ..).trans q))

theorem State.setRole_keeps {s0 s : State} {role : Nat} {slot : Nat} {master : Nat} (hK : Keeps pm pi pf pk s0 s) :
    Keeps pm pi pf pk s0 (State.setRole s role slot master) := by
  unfold State.setRole
  repeat' (first
    | (with_reducible first
      | assumption | apply Keeps.ite | apply State.endFollow_keeps | apply State.wr_keeps | apply State.lvl_keeps
      | apply State.evt_keeps)
    | extract_lets | exact id | exact Nat.le_refl _ | split | apply Keeps.with_casc | (intro q; simpa [updAt] using q)
    | (intro q; exact (List.length_modify ..).trans q) | (intro q; exact (List.length_set ..).trans q))

theorem State.latchFabric_keeps {s0 s : State} (hK : Keeps pm pi pf pk s0 s) :
    Keeps pm pi pf pk s0 (State.latchFabric s) := by
  unfold State.latchFabric
  repeat' (first
    | (with_reducible first
      | assumption | apply Keeps.ite)
    | extract_lets | exact id | exact Nat.le_refl _ | split | apply Keeps.with_fab | (intro q; simpa [updAt] using q)
    | (intro q; exact (List.length_modify ..).trans q) | (intro q; exact (List.length_set ..).trans q)
    | (intro q; exact (List.length_map ..).trans q))

theorem State.commitTables_keeps {s0 s : State} {a : Assigned} {root : Nat} (hK : Keeps pm pi pf pk s0 s) :
    Keeps pm pi pf pk s0 (s.commitTables a root) := by
  unfold State.commitTables
  extract_lets old first s1 s2 s3 s4 new s5
  have h1 : Keeps pm pi pf pk s0 s1 := Keeps.each (fun _ _ h => State.wr_keeps (State.wr_keeps (State.wr_keeps (State.wr_keeps h))))
    (State.clearTables_keeps (State.latchFabric_keeps hK))
  have h2 : Keeps pm pi pf pk s0 s2 := Keeps.each (fun _ _ h => by split <;> exact State.putBit_keeps (State.putF_keeps h)) h1
  have h3 : Keeps pm pi pf pk s0 s3 := State.putF_keeps (State.putBit_keeps (State.putBit_keeps (State.putF_keeps (State.setFabState_keeps h2))))
  have h4 : Keeps pm pi pf pk s0 s4 := State.evt_keeps (State.funcReady_keeps (State.incWrap_keeps h3))
  have h5 : Keeps pm pi pf pk s0 s5 := Keeps.ite (State.evt_keeps h4) h4
  exact State.setRole_keeps (h5.with_fab id id)

theorem State.setDisc_keeps {s0 s : State} {d : Option Disc} (hK : Keeps pm pi pf pk s0 s) :
    Keeps pm pi pf pk s0 (State.setDisc s d) := by
  unfold State.setDisc
  repeat' (first
    | (with_reducible first
      | assumption | apply Keeps.ite)
    | extract_lets | exact id | exact Nat.le_refl _ | split | apply Keeps.with_fab | (intro q; simpa [updAt] using q)
    | (intro q; exact (List.length_modify ..).trans q) | (intro q; exact (List.length_set ..).trans q))

theorem State.finishDiscovery_keeps {s0 s : State} {d : Disc} (hK : Keeps pm pi pf pk s0 s) :
    Keeps pm pi pf pk s0 (State.finishDiscovery s d) := by
  unfold State.finishDiscovery
  repeat' (first
    | (with_reducible first
      | assumption | apply Keeps.ite | refine Keeps.each (fun _ _ _ => ?_) ?_ | apply State.sendPacket_keeps
      | apply State.commitTables_keeps)
    | extract_lets | exact id | exact Nat.le_refl _ | split | apply Keeps.with_fab | (intro q; simpa [updAt] using q)
    | (intro q; exact (List.length_modify ..).trans q) | (intro q; exact (List.length_set ..).trans q))

theorem State.probeNext_keeps {s0 s : State} {d : Disc} (hK : Keeps pm pi pf pk s0 s) :
    Keeps pm pi pf pk s0 (State.probeNext s d) := by
  unfold State.probeNext
  repeat' (first
    | (with_reducible first
      | assumption | apply Keeps.ite | apply State.sendPacket_keeps | apply State.setDisc_keeps
      | apply State.finishDiscovery_keeps)
    | extract_lets | exact id | exact Nat.le_refl _ | split | (intro q; simpa [updAt] using q)
    | (intro q; exact (List.length_modify ..).trans q) | (intro q; exact (List.length_set ..).trans q))

theorem State.startDiscovery_keeps {s0 s : State} {restarted : Bool} (hK : Keeps pm pi pf pk s0 s) :
    Keeps pm pi pf pk s0 (State.startDiscovery s restarted) := by
  unfold State.startDiscovery
  repeat' (first
    | (with_reducible first
      | assumption | apply Keeps.ite | apply State.putBit_keeps | apply State.setFabState_keeps | apply State.probeNext_keeps)
    | extract_lets | exact id | exact Nat.le_refl _ | split | apply Keeps.with_fab | (intro q; simpa [updAt] using q)
    | (intro q; exact (List.length_modify ..).trans q) | (intro q; exact (List.length_set ..).trans q))

theorem State.rootHears_keeps {s0 s : State} (hK : Keeps pm pi pf pk s0 s) :
    Keeps pm pi pf pk s0 (State.rootHears s) := by
  unfold State.rootHears
  repeat' (first
    | (with_reducible first
      | assumption | apply Keeps.ite | apply State.startDiscovery_keeps)
    | extract_lets | exact id | exact Nat.le_refl _ | split | (intro q; simpa [updAt] using q)
    | (intro q; exact (List.length_modify ..).trans q) | (intro q; exact (List.length_set ..).trans q))

theorem State.linkChanged_keeps {s0 s : State} {p : Nat} (hK : Keeps pm pi pf pk s0 s) :
    Keeps pm pi pf pk s0 (State.linkChanged s p) := by
  unfold State.linkChanged
  repeat' (first
    | (with_reducible first
      | assumption | apply Keeps.ite | apply State.evt_keeps | apply State.funcLost_keeps
      | apply State.rootHears_keeps | apply State.putBit_keeps | apply State.sendPacket_keeps)
    | extract_lets | exact id | exact Nat.le_refl _ | split | (intro q; simpa [updAt] using q)
    | (intro q; exact (List.length_modify ..).trans q) | (intro q; exact (List.length_set ..).trans q)
    | (intro q; exact (List.length_map ..).trans q))

theorem State.pendSync_keeps {s0 s : State} {p : Nat} (hK : Keeps pm pi pf pk s0 s) :
    Keeps pm pi pf pk s0 (State.pendSync s p) := by
  unfold State.pendSync
  repeat' (first
    | (with_reducible first
      | assumption | apply Keeps.ite | apply State.putF_keeps)
    | extract_lets | exact id | exact Nat.le_refl _ | split | (intro q; simpa [updAt] using q)
    | (intro q; exact (List.length_modify ..).trans q) | (intro q; exact (List.length_set ..).trans q))

theorem State.sendOut_keeps {s0 s : State} {node : Nat} {a : Access} (hK : Keeps pm pi pf pk s0 s) :
    Keeps pm pi pf pk s0 (State.sendOut s node a) := by
  unfold State.sendOut
  repeat' (first
    | (with_reducible first
      | assumption | apply Keeps.ite | apply State.sendPacket_keeps | apply State.pendSync_keeps)
    | extract_lets | exact id | exact Nat.le_refl _ | split | apply Keeps.with_fab | (intro q; simpa [updAt] using q)
    | (intro q; exact (List.length_modify ..).trans q) | (intro q; exact (List.length_set ..).trans q))

theorem State.closeReq_keeps {s0 s : State} {p : Nat} {tag : Nat} (hK : Keeps pm pi pf pk s0 s) :
    Keeps pm pi pf pk s0 (State.closeReq s p tag) := by
  unfold State.closeReq
  repeat' (first
    | (with_reducible first
      | assumption | apply Keeps.ite | apply State.pendSync_keeps)
    | extract_lets | exact id | exact Nat.le_refl _ | split | apply Keeps.with_fab | (intro q; simpa [updAt] using q)
    | (intro q; exact (List.length_modify ..).trans q) | (intro q; exact (List.length_set ..).trans q))

theorem State.failReq_keeps {s0 s : State} {p : Nat} {tag : Nat} (hK : Keeps pm pi pf pk s0 s) :
    Keeps pm pi pf pk s0 (State.failReq s p tag) := by
  unfold State.failReq
  repeat' (first
    | (with_reducible first
      | assumption | apply Keeps.ite | apply State.pendSync_keeps)
    | extract_lets | exact id | exact Nat.le_refl _ | split | apply Keeps.with_fab | (intro q; simpa [updAt] using q)
    | (intro q; exact (List.length_modify ..).trans q) | (intro q; exact (List.length_set ..).trans q))

theorem State.dropAcks_keeps {s0 s : State} {req : Requester} {lo : Nat} {len : Nat} (hK : Keeps pm pi pf pk s0 s) :
    Keeps pm pi pf pk s0 (State.dropAcks s req lo len) := by
  unfold State.dropAcks
  repeat' (first
    | (with_reducible first
      | assumption | apply Keeps.ite)
    | extract_lets | exact id | exact Nat.le_refl _ | split | apply Keeps.with_fab | (intro q; simpa [updAt] using q)
    | (intro q; exact (List.length_modify ..).trans q) | (intro q; exact (List.length_set ..).trans q))

theorem State.remoteAsk_keeps {s0 s : State} {node : Nat} {a : Access} (hK : Keeps pm pi pf pk s0 s) :
    Keeps pm pi pf pk s0 (State.remoteAsk s node a).2 := by
  unfold State.remoteAsk
  repeat' (first
    | (with_reducible first
      | assumption | apply Keeps.ite | apply Keeps.ite2 | apply State.cnt_keeps | apply State.sendPacket_keeps
      | apply State.pendSync_keeps)
    | extract_lets | exact id | exact Nat.le_refl _ | split | apply Keeps.with_fab | (intro q; simpa [updAt] using q)
    | (intro q; exact (List.length_modify ..).trans q) | (intro q; exact (List.length_set ..).trans q))

theorem State.remoteReturn_keeps {s0 s : State} {g : Nat} {tag : Nat} {req : Nat} (hK : Keeps pm pi pf pk s0 s) :
    Keeps pm pi pf pk s0 (State.remoteReturn s g tag req) := by
  unfold State.remoteReturn
  repeat' (first
    | (with_reducible first
      | assumption | apply Keeps.ite | apply State.sendPacket_keeps)
    | extract_lets | exact id | exact Nat.le_refl _ | split | (intro q; simpa [updAt] using q)
    | (intro q; exact (List.length_modify ..).trans q) | (intro q; exact (List.length_set ..).trans q))

theorem State.dropTables_keeps {s0 s : State} (hK : Keeps pm pi pf pk s0 s) :
    Keeps pm pi pf pk s0 (State.dropTables s) := by
  unfold State.dropTables
  repeat' (first
    | (with_reducible first
      | assumption | apply Keeps.ite | refine Keeps.each (fun _ _ _ => ?_) ?_ | apply State.pendSync_keeps
      | apply State.funcLost_keeps | apply State.putF_keeps | apply State.putBit_keeps | apply State.setFabState_keeps
      | apply State.clearTables_keeps)
    | extract_lets | exact id | exact Nat.le_refl _ | split | apply Keeps.with_fab | (intro q; simpa [updAt] using q)
    | (intro q; exact (List.length_modify ..).trans q) | (intro q; exact (List.length_set ..).trans q)
    | (intro q; exact (List.length_map ..).trans q))

theorem State.passOn_keeps {s0 s : State} {p : Nat} {kind : Nat} {path : List Nat} {body : List Nat} (hK : Keeps pm pi pf pk s0 s) :
    Keeps pm pi pf pk s0 (State.passOn s p kind path body) := by
  unfold State.passOn
  repeat' (first
    | (with_reducible first
      | assumption | apply Keeps.ite | apply State.sendPacket_keeps)
    | extract_lets | exact id | exact Nat.le_refl _ | split | apply Keeps.with_fab | (intro q; simpa [updAt] using q)
    | (intro q; exact (List.length_modify ..).trans q) | (intro q; exact (List.length_set ..).trans q))

theorem State.passBack_keeps {s0 s : State} {p : Nat} {kind : Nat} {body : List Nat} (hK : Keeps pm pi pf pk s0 s) :
    Keeps pm pi pf pk s0 (State.passBack s p kind body) := by
  unfold State.passBack
  repeat' (first
    | (with_reducible first
      | assumption | apply Keeps.ite | apply State.sendPacket_keeps)
    | extract_lets | exact id | exact Nat.le_refl _ | split | (intro q; simpa [updAt] using q)
    | (intro q; exact (List.length_modify ..).trans q) | (intro q; exact (List.length_set ..).trans q))

theorem State.writeFabCtl_keeps {s0 s : State} {req : Requester} {v : Nat} (hK : Keeps pm pi pf pk s0 s) :
    Keeps pm pi pf pk s0 (State.writeFabCtl s req v) := by
  unfold State.writeFabCtl
  repeat' (first
    | (with_reducible first
      | assumption | apply Keeps.ite | apply State.rootHears_keeps | apply State.quiet_keeps)
    | extract_lets | exact id | exact Nat.le_refl _ | split | (intro q; simpa [updAt] using q)
    | (intro q; exact (List.length_modify ..).trans q) | (intro q; exact (List.length_set ..).trans q))

end Sys2Proof.Machine
end

