-- ==== Sys2Proof/Laws/KeepsMesh.lean ====
section
/-! SUPPORT. What the operations of Machine/Mesh.lean keep. -/

set_option linter.all false

namespace Sys2Proof.Machine

variable {pm pi pf pk : Bool}

theorem State.packet_keeps {s0 s : State} {src : Nat} {dst : Nat} {cls : Nat} {len : Nat} (hK : Keeps pm pi pf pk s0 s) :
    Keeps pm pi pf pk s0 (State.packet s src dst cls len) := by
  unfold State.packet
  repeat' (first
    | (with_reducible first
      | assumption | apply Keeps.ite | apply State.addWrap_keeps | refine Keeps.each (fun _ _ _ => ?_) ?_)
    | extract_lets | exact id | exact Nat.le_refl _ | split | (intro q; simpa [updAt] using q)
    | (intro q; exact (List.length_modify ..).trans q) | (intro q; exact (List.length_set ..).trans q)
    | (intro q; exact (List.length_map ..).trans q))

theorem State.transit_keeps {s0 s : State} {src : Nat} {dst : Nat} {cls : Nat} {req : Nat} {resp : Nat} (hK : Keeps pm pi pf pk s0 s) :
    Keeps pm pi pf pk s0 (State.transit s src dst cls req resp) := by
  unfold State.transit
  repeat' (first
    | (with_reducible first
      | assumption | apply Keeps.ite | apply State.packet_keeps)
    | extract_lets | exact id | exact Nat.le_refl _ | split | (intro q; simpa [updAt] using q)
    | (intro q; exact (List.length_modify ..).trans q) | (intro q; exact (List.length_set ..).trans q)
    | (intro q; exact (List.length_map ..).trans q))

theorem State.flitCe_keeps {s0 s : State} {stop : Nat} (hK : Keeps pm pi pf pk s0 s) :
    Keeps pm pi pf pk s0 (State.flitCe s stop) := by
  unfold State.flitCe
  repeat' (first
    | (with_reducible first
      | assumption | apply Keeps.ite | apply State.cnt_keeps)
    | extract_lets | exact id | exact Nat.le_refl _ | split | (intro q; simpa [updAt] using q)
    | (intro q; exact (List.length_modify ..).trans q) | (intro q; exact (List.length_set ..).trans q))

theorem State.flitUe_keeps {s0 s : State} {stop : Nat} {port : Nat} {cls : Nat} {header : Bool} (hK : Keeps pm pi pf pk s0 s) :
    Keeps pm pi pf pk s0 (State.flitUe s stop port cls header) := by
  unfold State.flitUe
  repeat' (first
    | (with_reducible first
      | assumption | apply Keeps.ite | apply State.emit_keeps | apply State.evt_keeps | apply State.cnt_keeps
      | apply State.wr_keeps)
    | extract_lets | exact id | exact Nat.le_refl _ | split | (intro q; simpa [updAt] using q)
    | (intro q; exact (List.length_modify ..).trans q) | (intro q; exact (List.length_set ..).trans q))

theorem State.meshTimeout_keeps {s0 s : State} {stop : Nat} (hK : Keeps pm pi pf pk s0 s) :
    Keeps pm pi pf pk s0 (State.meshTimeout s stop) := by
  unfold State.meshTimeout
  repeat' (first
    | (with_reducible first
      | assumption | apply Keeps.ite | apply State.evt_keeps | apply State.cnt_keeps)
    | extract_lets | exact id | exact Nat.le_refl _ | split | (intro q; simpa [updAt] using q)
    | (intro q; exact (List.length_modify ..).trans q) | (intro q; exact (List.length_set ..).trans q))

end Sys2Proof.Machine
end

