-- ==== Sys2Proof/Laws/KeepsDram.lean ====
section
/-! SUPPORT. What the operations of Machine/Dram.lean keep. -/

set_option linter.all false

namespace Sys2Proof.Machine

variable {pm pi pf pk : Bool}

theorem State.setDmc_keeps {s0 s : State} {x : Nat} {f : Dmc → Dmc} (hK : Keeps pm pi pf pk s0 s) :
    Keeps pm pi pf pk s0 (State.setDmc s x f) := by
  unfold State.setDmc
  repeat' (first
    | (with_reducible first
      | assumption | apply Keeps.ite)
    | extract_lets | exact id | exact Nat.le_refl _ | split | apply Keeps.with_dmcs | (intro q; simpa [updAt] using q)
    | (intro q; exact (List.length_modify ..).trans q) | (intro q; exact (List.length_set ..).trans q))

theorem State.arbNote_keeps {s0 s : State} {x : Nat} {cls : Nat} {b : Nat} {hit : Bool} (hK : Keeps pm pi pf pk s0 s) :
    Keeps pm pi pf pk s0 (State.arbNote s x cls b hit) := by
  unfold State.arbNote
  repeat' (first
    | (with_reducible first
      | assumption | apply Keeps.ite | apply State.setDmc_keeps)
    | extract_lets | exact id | exact Nat.le_refl _ | split | (intro q; simpa [updAt] using q)
    | (intro q; exact (List.length_modify ..).trans q) | (intro q; exact (List.length_set ..).trans q)
    | (intro q; exact (List.length_map ..).trans q))

theorem State.dmcServe_keeps {s0 s : State} {x : Nat} {ch : Nat} {l : Nat} {hint : Nat} {cls : Nat} {len : Nat} {write : Bool} (hK : Keeps pm pi pf pk s0 s) :
    Keeps pm pi pf pk s0 (State.dmcServe s x ch l hint cls len write) := by
  unfold State.dmcServe
  repeat' (first
    | (with_reducible first
      | assumption | apply Keeps.ite | apply State.arbNote_keeps | apply State.setDmc_keeps
      | apply State.incWrap_keeps | apply State.wr_keeps)
    | extract_lets | exact id | exact Nat.le_refl _ | split | (intro q; simpa [updAt] using q)
    | (intro q; exact (List.length_modify ..).trans q) | (intro q; exact (List.length_set ..).trans q)
    | (intro q; exact (List.length_map ..).trans q))

theorem State.dmcCe_keeps {s0 s : State} {x : Nat} (hK : Keeps pm pi pf pk s0 s) :
    Keeps pm pi pf pk s0 (State.dmcCe s x) := by
  unfold State.dmcCe
  repeat' (first
    | (with_reducible first
      | assumption | apply Keeps.ite | apply State.cnt_keeps)
    | extract_lets | exact id | exact Nat.le_refl _ | split | (intro q; simpa [updAt] using q)
    | (intro q; exact (List.length_modify ..).trans q) | (intro q; exact (List.length_set ..).trans q))

theorem State.dmcUe_keeps {s0 s : State} {x : Nat} {addr : Nat} {scrub : Bool} {link : Bool} (hK : Keeps pm pi pf pk s0 s) :
    Keeps pm pi pf pk s0 (State.dmcUe s x addr scrub link) := by
  unfold State.dmcUe
  repeat' (first
    | (with_reducible first
      | assumption | apply Keeps.ite | apply State.emit_keeps | apply State.evt_keeps | apply State.cnt_keeps
      | apply State.wr_keeps)
    | extract_lets | exact id | exact Nat.le_refl _ | split | (intro q; simpa [updAt] using q)
    | (intro q; exact (List.length_modify ..).trans q) | (intro q; exact (List.length_set ..).trans q))

end Sys2Proof.Machine
end

