-- ==== Sys2Proof/Laws/KeepsOperands.lean ====
section
/-! SUPPORT. What the operations of Machine/Operands.lean keep. -/

set_option linter.all false

namespace Sys2Proof.Machine

variable {pm pi pf pk : Bool}

theorem State.regionRefused_keeps {s0 s : State} {r : Nat} {a : Access} {cause : Nat} (hK : Keeps pm pi pf pk s0 s) :
    Keeps pm pi pf pk s0 (State.regionRefused s r a cause) := by
  unfold State.regionRefused
  repeat' (first
    | (with_reducible first
      | assumption | apply Keeps.ite | apply State.evt_keeps | apply State.cnt_keeps | apply State.wr_keeps
      | apply State.emit_keeps)
    | extract_lets | exact id | exact Nat.le_refl _ | split | (intro q; simpa [updAt] using q)
    | (intro q; exact (List.length_modify ..).trans q) | (intro q; exact (List.length_set ..).trans q))

theorem State.regionCheck_keeps {s0 s : State} {r : Nat} {a : Access} (hK : Keeps pm pi pf pk s0 s) :
    Keeps pm pi pf pk s0 (State.regionCheck s r a).2.2 := by
  unfold State.regionCheck
  repeat' (first
    | (with_reducible first
      | assumption | apply Keeps.ite | apply Keeps.ite3 | apply State.regionRefused_keeps)
    | extract_lets | exact id | exact Nat.le_refl _ | split | (intro q; simpa [updAt] using q)
    | (intro q; exact (List.length_modify ..).trans q) | (intro q; exact (List.length_set ..).trans q))

end Sys2Proof.Machine
end

