-- ==== Sys2Proof/Laws/KeepsRegAccess.lean ====
section
/-! SUPPORT. What the operations of Machine/RegAccess.lean keep. -/

set_option linter.all false

namespace Sys2Proof.Machine

variable {pm pi pf pk : Bool}

theorem State.denyRec_keeps {s0 s : State} {req : Requester} {heart : Bool} {addr : Nat} {cause : Nat} {count : Bool} {write : Bool} (hK : Keeps pm pi pf pk s0 s) :
    Keeps pm pi pf pk s0 (State.denyRec s req heart addr cause count write) := by
  unfold State.denyRec
  repeat' (first
    | (with_reducible first
      | assumption | apply Keeps.ite | apply State.pageErr_keeps | apply State.sysErr_keeps | apply State.reqErr_keeps)
    | extract_lets | exact id | exact Nat.le_refl _ | split | (intro q; simpa [updAt] using q)
    | (intro q; exact (List.length_modify ..).trans q) | (intro q; exact (List.length_set ..).trans q)
    | (intro q; exact (List.length_map ..).trans q))

theorem State.denied_keeps {s0 s : State} {req : Requester} {addr : Nat} {n : Nat} {cause : Nat} {count : Bool} {write : Bool} (hK : Keeps pm pi pf pk s0 s) :
    Keeps pm pi pf pk s0 (State.denied s req addr n cause count write) := by
  unfold State.denied
  repeat' (first
    | (with_reducible first
      | assumption | apply Keeps.ite | apply State.respErr_keeps | apply State.denyRec_keeps)
    | extract_lets | exact id | exact Nat.le_refl _ | split | (intro q; simpa [updAt] using q)
    | (intro q; exact (List.length_modify ..).trans q) | (intro q; exact (List.length_set ..).trans q)
    | (intro q; exact (List.length_map ..).trans q))

theorem State.regRead_keeps {s0 s : State} {addr : Nat} (hK : Keeps pm pi pf pk s0 s) :
    Keeps pm pi pf pk s0 (State.regRead s addr).2 := by
  unfold State.regRead
  repeat' (first
    | (with_reducible first
      | assumption | apply Keeps.ite | apply Keeps.ite2 | apply State.wr_keeps)
    | extract_lets | exact id | exact Nat.le_refl _ | split | (intro q; simpa [updAt] using q)
    | (intro q; exact (List.length_modify ..).trans q) | (intro q; exact (List.length_set ..).trans q))

theorem State.regStoreBut_keeps {s0 s : State} {req : Requester} {addr : Nat} {v : Nat} {keep : Nat} (hK : Keeps pm pi pf pk s0 s) :
    Keeps pm pi pf pk s0 (State.regStoreBut s req addr v keep) := by
  unfold State.regStoreBut
  repeat' (first
    | (with_reducible first
      | assumption | apply Keeps.ite | apply State.respOk_keeps | apply State.wr_keeps | apply State.quiet_keeps
      | apply State.putBit_keeps)
    | extract_lets | exact id | exact Nat.le_refl _ | split | (intro q; simpa [updAt] using q)
    | (intro q; exact (List.length_modify ..).trans q) | (intro q; exact (List.length_set ..).trans q)
    | (intro q; exact (List.length_map ..).trans q))

theorem State.regStore_keeps {s0 s : State} {req : Requester} {addr : Nat} {v : Nat} (hK : Keeps pm pi pf pk s0 s) :
    Keeps pm pi pf pk s0 (State.regStore s req addr v) := by
  unfold State.regStore
  repeat' (first
    | (with_reducible first
      | assumption | apply Keeps.ite | apply State.regStoreBut_keeps)
    | extract_lets | exact id | exact Nat.le_refl _ | split | (intro q; simpa [updAt] using q)
    | (intro q; exact (List.length_modify ..).trans q) | (intro q; exact (List.length_set ..).trans q)
    | (intro q; exact (List.length_map ..).trans q))

theorem State.checkedWrite_keeps {s0 s : State} {req : Requester} {addr : Nat} {size : Nat} {eff : State → State} (h_eff : ∀ u, Keeps pm pi pf pk s0 u → Keeps pm pi pf pk s0 (eff u)) (hK : Keeps pm pi pf pk s0 s) :
    Keeps pm pi pf pk s0 (State.checkedWrite s req addr size eff) := by
  unfold State.checkedWrite
  repeat' (first
    | (with_reducible first
      | assumption | apply Keeps.ite | apply State.respOk_keeps | apply State.denied_keeps | apply State.quiet_keeps
      | apply h_eff)
    | extract_lets | exact id | exact Nat.le_refl _ | split | (intro q; simpa [updAt] using q)
    | (intro q; exact (List.length_modify ..).trans q) | (intro q; exact (List.length_set ..).trans q))

theorem State.heartWrite_keeps {s0 s : State} {req : Requester} {addr : Nat} {eff : State → State} (h_eff : ∀ u, Keeps pm pi pf pk s0 u → Keeps pm pi pf pk s0 (eff u)) (hK : Keeps pm pi pf pk s0 s) :
    Keeps pm pi pf pk s0 (State.heartWrite s req addr eff) := by
  unfold State.heartWrite
  repeat' (first
    | (with_reducible first
      | assumption | apply Keeps.ite | refine State.checkedWrite_keeps (fun _ _ => ?_) ?_ | apply State.quiet_keeps
      | apply h_eff)
    | extract_lets | exact id | exact Nat.le_refl _ | split | (intro q; simpa [updAt] using q)
    | (intro q; exact (List.length_modify ..).trans q) | (intro q; exact (List.length_set ..).trans q))

theorem State.checkedRead_keeps {s0 s : State} {req : Requester} {addr : Nat} {size : Nat} {eff : State → State} (h_eff : ∀ u, Keeps pm pi pf pk s0 u → Keeps pm pi pf pk s0 (eff u)) (hK : Keeps pm pi pf pk s0 s) :
    Keeps pm pi pf pk s0 (State.checkedRead s req addr size eff) := by
  unfold State.checkedRead
  repeat' (first
    | (with_reducible first
      | assumption | apply Keeps.ite | apply State.respOk_keeps | apply State.denied_keeps | apply h_eff)
    | extract_lets | exact id | exact Nat.le_refl _ | split | (intro q; simpa [updAt] using q)
    | (intro q; exact (List.length_modify ..).trans q) | (intro q; exact (List.length_set ..).trans q))

end Sys2Proof.Machine
end

