-- ==== Sys2Proof/Laws/KeepsPerturb.lean ====
section
/-! SUPPORT. What the operations of Machine/Perturb.lean keep. -/

set_option linter.all false

namespace Sys2Proof.Machine

variable {pm pi pf pk : Bool}

theorem State.countActive_keeps {s0 s : State} (hK : Keeps pm pi pf pk s0 s) :
    Keeps pm pi pf pk s0 (State.countActive s) := by
  unfold State.countActive
  repeat' (first
    | (with_reducible first
      | assumption | apply Keeps.ite | apply State.lvl_keeps | apply State.putF_keeps | apply State.emit_keeps)
    | extract_lets | exact id | exact Nat.le_refl _ | split | (intro q; simpa [updAt] using q)
    | (intro q; exact (List.length_modify ..).trans q) | (intro q; exact (List.length_set ..).trans q))

theorem State.windowSync_keeps {s0 s : State} {page : Nat} (hK : Keeps pm pi pf pk s0 s) :
    Keeps pm pi pf pk s0 (State.windowSync s page) := by
  unfold State.windowSync
  repeat' (first
    | (with_reducible first
      | assumption | apply Keeps.ite | apply State.putBit_keeps | apply State.countActive_keeps)
    | extract_lets | exact id | exact Nat.le_refl _ | split | (intro q; simpa [updAt] using q)
    | (intro q; exact (List.length_modify ..).trans q) | (intro q; exact (List.length_set ..).trans q))

theorem State.closeWindows_keeps {s0 s : State} {closed : Nat → Bool} (hK : Keeps pm pi pf pk s0 s) : Keeps pm pi pf pk s0 (s.closeWindows closed) := by
  unfold State.closeWindows
  apply State.windowSync_keeps
  exact ((hK.with_regs swf_filter).with_injects).with_shakers

theorem State.closeShut_keeps {s0 s : State} (hK : Keeps pm pi pf pk s0 s) :
    Keeps pm pi pf pk s0 (State.closeShut s) := by
  unfold State.closeShut
  repeat' (first
    | (with_reducible first
      | assumption | apply Keeps.ite | apply State.closeWindows_keeps)
    | extract_lets | exact id | exact Nat.le_refl _ | split | (intro q; simpa [updAt] using q)
    | (intro q; exact (List.length_modify ..).trans q) | (intro q; exact (List.length_set ..).trans q))

theorem State.permitSync_keeps {s0 s : State} (hK : Keeps pm pi pf pk s0 s) :
    Keeps pm pi pf pk s0 (State.permitSync s) := by
  unfold State.permitSync
  repeat' (first
    | (with_reducible first
      | assumption | apply Keeps.ite | apply State.putBit_keeps | apply State.closeShut_keeps)
    | extract_lets | exact id | exact Nat.le_refl _ | split | (intro q; simpa [updAt] using q)
    | (intro q; exact (List.length_modify ..).trans q) | (intro q; exact (List.length_set ..).trans q))

theorem State.writePerturbCtl_keeps {s0 s : State} {req : Requester} {v : Nat} (hK : Keeps pm pi pf pk s0 s) :
    Keeps pm pi pf pk s0 (State.writePerturbCtl s req v) := by
  unfold State.writePerturbCtl
  repeat' (first
    | (with_reducible first
      | assumption | apply Keeps.ite | apply State.permitSync_keeps | apply State.quiet_keeps
      | apply State.putBit_keeps | apply State.putF_keeps)
    | extract_lets | exact id | exact Nat.le_refl _ | split | (intro q; simpa [updAt] using q)
    | (intro q; exact (List.length_modify ..).trans q) | (intro q; exact (List.length_set ..).trans q)
    | (intro q; exact (List.length_map ..).trans q))

theorem State.setShaker_keeps {s0 s : State} {k : Shaker} (hK : Keeps pm pi pf pk s0 s) :
    Keeps pm pi pf pk s0 (State.setShaker s k) := by
  unfold State.setShaker
  repeat' (first
    | (with_reducible first
      | assumption | apply Keeps.ite)
    | extract_lets | exact id | exact Nat.le_refl _ | split | apply Keeps.with_shakers | (intro q; simpa [updAt] using q)
    | (intro q; exact (List.length_modify ..).trans q) | (intro q; exact (List.length_set ..).trans q))

theorem State.writePtCtl_keeps {s0 s : State} {page : Nat} {v : Nat} (hK : Keeps pm pi pf pk s0 s) :
    Keeps pm pi pf pk s0 (State.writePtCtl s page v) := by
  unfold State.writePtCtl
  repeat' (first
    | (with_reducible first
      | assumption | apply Keeps.ite | apply State.putF_keeps | apply State.setShaker_keeps | apply State.windowSync_keeps)
    | extract_lets | exact id | exact Nat.le_refl _ | split | (intro q; simpa [updAt] using q)
    | (intro q; exact (List.length_modify ..).trans q) | (intro q; exact (List.length_set ..).trans q))

theorem State.writeForce_keeps {s0 s : State} {req : Requester} {page : Nat} {v : Nat} (hK : Keeps pm pi pf pk s0 s) :
    Keeps pm pi pf pk s0 (State.writeForce s req page v) := by
  unfold State.writeForce
  repeat' (first
    | (with_reducible first
      | assumption | apply Keeps.ite | apply State.windowSync_keeps | apply State.putF_keeps | apply State.quiet_keeps)
    | extract_lets | exact id | exact Nat.le_refl _ | split | apply Keeps.with_injects | (intro q; simpa [updAt] using q)
    | (intro q; exact (List.length_modify ..).trans q) | (intro q; exact (List.length_set ..).trans q))

theorem State.injected_keeps {s0 s : State} {page : Nat} (hK : Keeps pm pi pf pk s0 s) :
    Keeps pm pi pf pk s0 (State.injected s page) := by
  unfold State.injected
  repeat' (first
    | (with_reducible first
      | assumption | apply Keeps.ite | apply State.windowSync_keeps | apply State.evt_keeps | apply State.cnt_keeps
      | apply State.putF_keeps)
    | extract_lets | exact id | exact Nat.le_refl _ | split | (intro q; simpa [updAt] using q)
    | (intro q; exact (List.length_modify ..).trans q) | (intro q; exact (List.length_set ..).trans q))

theorem State.dropEcc_keeps {s0 s : State} {page : Nat} (hK : Keeps pm pi pf pk s0 s) :
    Keeps pm pi pf pk s0 (State.dropEcc s page) := by
  unfold State.dropEcc
  repeat' (first
    | (with_reducible first
      | assumption | apply Keeps.ite | apply State.windowSync_keeps | apply State.putF_keeps)
    | extract_lets | exact id | exact Nat.le_refl _ | split | apply Keeps.with_injects | (intro q; simpa [updAt] using q)
    | (intro q; exact (List.length_modify ..).trans q) | (intro q; exact (List.length_set ..).trans q))

theorem State.forceWrite_keeps {s0 s : State} {req : Requester} {type : Nat} {code : Nat} {inst : Nat} {value : Nat} (hK : Keeps pm pi pf pk s0 s) :
    Keeps pm pi pf pk s0 (State.forceWrite s req type code inst value) := by
  unfold State.forceWrite
  repeat' (first
    | (with_reducible first
      | assumption | apply Keeps.ite | refine State.checkedWrite_keeps (fun _ _ => ?_) ?_ | apply State.writeForce_keeps)
    | extract_lets | exact id | exact Nat.le_refl _ | split | (intro q; simpa [updAt] using q)
    | (intro q; exact (List.length_modify ..).trans q) | (intro q; exact (List.length_set ..).trans q))

end Sys2Proof.Machine
end

