-- ==== Sys2Proof/Laws/KeepsTickets.lean ====
section
/-! SUPPORT. What the operations of Machine/Tickets.lean keep. -/

set_option linter.all false

namespace Sys2Proof.Machine

variable {pm pi pf pk : Bool}

theorem State.setOffice_keeps {s0 s : State} {k : Nat} {f : Office → Office} (hK : Keeps pm pi pf pk s0 s) :
    Keeps pm pi pf pk s0 (State.setOffice s k f) := by
  unfold State.setOffice
  repeat' (first
    | (with_reducible first
      | assumption | apply Keeps.ite)
    | extract_lets | exact id | exact Nat.le_refl _ | split | apply Keeps.with_offices | (intro q; simpa [updAt] using q)
    | (intro q; exact (List.length_modify ..).trans q) | (intro q; exact (List.length_set ..).trans q))

theorem State.tkEvt_keeps {s0 s : State} {k : Nat} {bit : Nat} {aleBit : Nat} (hK : Keeps pm pi pf pk s0 s) :
    Keeps pm pi pf pk s0 (State.tkEvt s k bit aleBit) := by
  unfold State.tkEvt
  repeat' (first
    | (with_reducible first
      | assumption | apply Keeps.ite | apply State.evt_keeps)
    | extract_lets | exact id | exact Nat.le_refl _ | split | (intro q; simpa [updAt] using q)
    | (intro q; exact (List.length_modify ..).trans q) | (intro q; exact (List.length_set ..).trans q))

theorem State.officeSync_keeps {s0 s : State} {k : Nat} {w : Nat} (hK : Keeps pm pi pf pk s0 s) :
    Keeps pm pi pf pk s0 (State.officeSync s k w) := by
  unfold State.officeSync
  repeat' (first
    | (with_reducible first
      | assumption | apply Keeps.ite | apply State.wr_keeps | apply State.putF_keeps)
    | extract_lets | exact id | exact Nat.le_refl _ | split | (intro q; simpa [updAt] using q)
    | (intro q; exact (List.length_modify ..).trans q) | (intro q; exact (List.length_set ..).trans q))

theorem State.landedSync_keeps {s0 s : State} {k : Nat} (hK : Keeps pm pi pf pk s0 s) :
    Keeps pm pi pf pk s0 (State.landedSync s k) := by
  unfold State.landedSync
  repeat' (first
    | (with_reducible first
      | assumption | apply Keeps.ite | apply State.lvl_keeps)
    | extract_lets | exact id | exact Nat.le_refl _ | split | (intro q; simpa [updAt] using q)
    | (intro q; exact (List.length_modify ..).trans q) | (intro q; exact (List.length_set ..).trans q))

theorem State.setArmed_keeps {s0 s : State} {k : Nat} {w : Nat} {b : Bool} (hK : Keeps pm pi pf pk s0 s) :
    Keeps pm pi pf pk s0 (State.setArmed s k w b) := by
  unfold State.setArmed
  repeat' (first
    | (with_reducible first
      | assumption | apply Keeps.ite | apply State.putBit_keeps)
    | extract_lets | exact id | exact Nat.le_refl _ | split | (intro q; simpa [updAt] using q)
    | (intro q; exact (List.length_modify ..).trans q) | (intro q; exact (List.length_set ..).trans q))

theorem State.armWindow_keeps {s0 s : State} {k : Nat} {w : Nat} (hK : Keeps pm pi pf pk s0 s) :
    Keeps pm pi pf pk s0 (State.armWindow s k w) := by
  unfold State.armWindow
  repeat' (first
    | (with_reducible first
      | assumption | apply Keeps.ite | apply State.putBit_keeps | apply State.setArmed_keeps
      | apply State.landedSync_keeps | apply State.officeSync_keeps | apply State.setOffice_keeps)
    | extract_lets | exact id | exact Nat.le_refl _ | split | apply Keeps.with_ales | (intro q; simpa [updAt] using q)
    | (intro q; exact (List.length_modify ..).trans q) | (intro q; exact (List.length_set ..).trans q)
    | (intro q; exact (List.length_map ..).trans q))

theorem State.writeArm_keeps {s0 s : State} {k : Nat} {v : Nat} (hK : Keeps pm pi pf pk s0 s) :
    Keeps pm pi pf pk s0 (State.writeArm s k v) := by
  unfold State.writeArm
  repeat' (first
    | (with_reducible first
      | assumption | apply Keeps.ite | refine Keeps.each (fun _ _ _ => ?_) ?_ | apply State.armWindow_keeps)
    | extract_lets | exact id | exact Nat.le_refl _ | split | (intro q; simpa [updAt] using q)
    | (intro q; exact (List.length_modify ..).trans q) | (intro q; exact (List.length_set ..).trans q))

theorem State.csetLand_keeps {s0 s : State} {n : Nat} (hK : Keeps pm pi pf pk s0 s) :
    Keeps pm pi pf pk s0 (State.csetLand s n) := by
  unfold State.csetLand
  repeat' (first
    | (with_reducible first
      | assumption | apply Keeps.ite | apply State.putBit_keeps | apply State.armWindow_keeps | apply State.evt_keeps
      | apply State.cnt_keeps)
    | extract_lets | exact id | exact Nat.le_refl _ | split | apply Keeps.with_ales | (intro q; simpa [updAt] using q)
    | (intro q; exact (List.length_modify ..).trans q) | (intro q; exact (List.length_set ..).trans q)
    | (intro q; exact (List.length_map ..).trans q))

theorem State.csetJob_keeps {s0 s : State} {id : Nat} {done : Bool} (hK : Keeps pm pi pf pk s0 s) :
    Keeps pm pi pf pk s0 (State.csetJob s id done) := by
  unfold State.csetJob
  repeat' (first
    | (with_reducible first
      | assumption | apply Keeps.ite | refine Keeps.each (fun _ _ _ => ?_) ?_ | apply State.armWindow_keeps
      | apply State.putBit_keeps)
    | extract_lets | exact id | exact Nat.le_refl _ | split | apply Keeps.with_ales | (intro q; simpa [updAt] using q)
    | (intro q; exact (List.length_modify ..).trans q) | (intro q; exact (List.length_set ..).trans q)
    | (intro q; exact (List.length_map ..).trans q))

theorem State.landGranules_keeps {s0 s : State} {k : Nat} {t : Ticket} (hK : Keeps pm pi pf pk s0 s) :
    Keeps pm pi pf pk s0 (State.landGranules s k t) := by
  unfold State.landGranules
  repeat' (first
    | (with_reducible first
      | assumption | apply Keeps.ite | apply State.setOffice_keeps | apply State.officeSync_keeps
      | apply State.setArmed_keeps | apply State.landedSync_keeps | apply State.putBit_keeps | apply State.csetLand_keeps)
    | extract_lets | exact id | exact Nat.le_refl _ | split | (intro q; simpa [updAt] using q)
    | (intro q; exact (List.length_modify ..).trans q) | (intro q; exact (List.length_set ..).trans q))

theorem State.freeTicket_keeps {s0 s : State} {k : Nat} {t : Ticket} (hK : Keeps pm pi pf pk s0 s) :
    Keeps pm pi pf pk s0 (State.freeTicket s k t) := by
  unfold State.freeTicket
  repeat' (first
    | (with_reducible first
      | assumption | apply Keeps.ite | apply State.officeSync_keeps | apply State.setOffice_keeps)
    | extract_lets | exact id | exact Nat.le_refl _ | split | (intro q; simpa [updAt] using q)
    | (intro q; exact (List.length_modify ..).trans q) | (intro q; exact (List.length_set ..).trans q))

theorem State.voidTicket_keeps {s0 s : State} {k : Nat} {t : Ticket} (hK : Keeps pm pi pf pk s0 s) :
    Keeps pm pi pf pk s0 (State.voidTicket s k t) := by
  unfold State.voidTicket
  repeat' (first
    | (with_reducible first
      | assumption | apply Keeps.ite | apply State.officeSync_keeps | apply State.setOffice_keeps)
    | extract_lets | exact id | exact Nat.le_refl _ | split | (intro q; simpa [updAt] using q)
    | (intro q; exact (List.length_modify ..).trans q) | (intro q; exact (List.length_set ..).trans q)
    | (intro q; exact (List.length_map ..).trans q))

theorem State.consumeTicket_keeps {s0 s : State} {k : Nat} {t : Ticket} (hK : Keeps pm pi pf pk s0 s) :
    Keeps pm pi pf pk s0 (State.consumeTicket s k t) := by
  unfold State.consumeTicket
  repeat' (first
    | (with_reducible first
      | assumption | apply Keeps.ite | apply State.landGranules_keeps | apply State.freeTicket_keeps)
    | extract_lets | exact id | exact Nat.le_refl _ | split | (intro q; simpa [updAt] using q)
    | (intro q; exact (List.length_modify ..).trans q) | (intro q; exact (List.length_set ..).trans q))

theorem State.ticketRequest_keeps {s0 s : State} {k : Nat} {a : Access} {off : Nat} {len : Nat} {store : Bool} (hK : Keeps pm pi pf pk s0 s) :
    Keeps pm pi pf pk s0 (State.ticketRequest s k a off len store).2.2 := by
  unfold State.ticketRequest
  repeat' (first
    | (with_reducible first
      | assumption | apply Keeps.ite | apply Keeps.ite3 | apply State.transit_keeps | apply State.officeSync_keeps
      | apply State.setOffice_keeps | apply State.cnt_keeps | apply State.injected_keeps
      | apply State.voidTicket_keeps | apply State.tkEvt_keeps)
    | extract_lets | exact id | exact Nat.le_refl _ | split | (intro q; simpa [updAt] using q)
    | (intro q; exact (List.length_modify ..).trans q) | (intro q; exact (List.length_set ..).trans q)
    | (intro q; exact (List.length_map ..).trans q))

theorem State.dropWrite_keeps {s0 s : State} {k : Nat} {a : Access} {off : Nat} {cause : Nat} (hK : Keeps pm pi pf pk s0 s) :
    Keeps pm pi pf pk s0 (State.dropWrite s k a off cause) := by
  unfold State.dropWrite
  repeat' (first
    | (with_reducible first
      | assumption | apply Keeps.ite | apply State.tkEvt_keeps | apply State.cnt_keeps | apply State.wr_keeps)
    | extract_lets | exact id | exact Nat.le_refl _ | split | (intro q; simpa [updAt] using q)
    | (intro q; exact (List.length_modify ..).trans q) | (intro q; exact (List.length_set ..).trans q))

theorem State.countWrite_keeps {s0 s : State} {k : Nat} {a : Access} (hK : Keeps pm pi pf pk s0 s) :
    Keeps pm pi pf pk s0 (State.countWrite s k a) := by
  unfold State.countWrite
  repeat' (first
    | (with_reducible first
      | assumption | apply Keeps.ite | apply State.consumeTicket_keeps | apply State.setOffice_keeps)
    | extract_lets | exact id | exact Nat.le_refl _ | split | (intro q; simpa [updAt] using q)
    | (intro q; exact (List.length_modify ..).trans q) | (intro q; exact (List.length_set ..).trans q))

theorem State.returnTicket_keeps {s0 s : State} {k : Nat} {tag : Nat} {req : Nat} {via : Nat} (hK : Keeps pm pi pf pk s0 s) :
    Keeps pm pi pf pk s0 (State.returnTicket s k tag req via) := by
  unfold State.returnTicket
  repeat' (first
    | (with_reducible first
      | assumption | apply Keeps.ite | apply State.cnt_keeps | apply State.voidTicket_keeps)
    | extract_lets | exact id | exact Nat.le_refl _ | split | (intro q; simpa [updAt] using q)
    | (intro q; exact (List.length_modify ..).trans q) | (intro q; exact (List.length_set ..).trans q)
    | (intro q; exact (List.length_map ..).trans q))

theorem State.expireTicket_keeps {s0 s : State} {k : Nat} {t : Ticket} (hK : Keeps pm pi pf pk s0 s) :
    Keeps pm pi pf pk s0 (State.expireTicket s k t) := by
  unfold State.expireTicket
  repeat' (first
    | (with_reducible first
      | assumption | apply Keeps.ite | apply State.tkEvt_keeps | apply State.cnt_keeps | apply State.voidTicket_keeps)
    | extract_lets | exact id | exact Nat.le_refl _ | split | (intro q; simpa [updAt] using q)
    | (intro q; exact (List.length_modify ..).trans q) | (intro q; exact (List.length_set ..).trans q)
    | (intro q; exact (List.length_map ..).trans q))

theorem State.purgeOffice_keeps {s0 s : State} {k : Nat} (hK : Keeps pm pi pf pk s0 s) :
    Keeps pm pi pf pk s0 (State.purgeOffice s k) := by
  unfold State.purgeOffice
  repeat' (first
    | (with_reducible first
      | assumption | apply Keeps.ite | apply State.setOffice_keeps | apply State.wr_keeps | apply State.landedSync_keeps
      | refine Keeps.each (fun _ _ _ => ?_) ?_ | apply State.officeSync_keeps)
    | extract_lets | exact id | exact Nat.le_refl _ | split | (intro q; simpa [updAt] using q)
    | (intro q; exact (List.length_modify ..).trans q) | (intro q; exact (List.length_set ..).trans q))

theorem State.writeWinBase_keeps {s0 s : State} {req : Requester} {k : Nat} {w : Nat} {v : Nat} (hK : Keeps pm pi pf pk s0 s) :
    Keeps pm pi pf pk s0 (State.writeWinBase s req k w v) := by
  unfold State.writeWinBase
  repeat' (first
    | (with_reducible first
      | assumption | apply Keeps.ite | apply State.quiet_keeps | apply State.wr_keeps)
    | extract_lets | exact id | exact Nat.le_refl _ | split | (intro q; simpa [updAt] using q)
    | (intro q; exact (List.length_modify ..).trans q) | (intro q; exact (List.length_set ..).trans q))

theorem State.writeWinCtl_keeps {s0 s : State} {req : Requester} {k : Nat} {w : Nat} {v : Nat} (hK : Keeps pm pi pf pk s0 s) :
    Keeps pm pi pf pk s0 (State.writeWinCtl s req k w v) := by
  unfold State.writeWinCtl
  repeat' (first
    | (with_reducible first
      | assumption | apply Keeps.ite | apply State.quiet_keeps | apply State.putBit_keeps | apply State.wr_keeps)
    | extract_lets | exact id | exact Nat.le_refl _ | split | (intro q; simpa [updAt] using q)
    | (intro q; exact (List.length_modify ..).trans q) | (intro q; exact (List.length_set ..).trans q)
    | (intro q; exact (List.length_map ..).trans q))

theorem State.ticketAsk_keeps {s0 s : State} {k : Nat} {a : Access} {off : Nat} {len : Nat} (hK : Keeps pm pi pf pk s0 s) :
    Keeps pm pi pf pk s0 (State.ticketAsk s k a off len) := by
  unfold State.ticketAsk
  repeat' (first
    | (with_reducible first
      | assumption | apply Keeps.ite | apply State.ticketRequest_keeps | apply State.respOk_keeps)
    | extract_lets | exact id | exact Nat.le_refl _ | split | apply Keeps.with_held | (intro q; simpa [updAt] using q)
    | (intro q; exact (List.length_modify ..).trans q) | (intro q; exact (List.length_set ..).trans q))

end Sys2Proof.Machine
end

