-- ==== Sys2Proof/Laws/KeepsServe.lean ====
section
/-! SUPPORT. What the operations of Machine/Serve.lean keep. -/

set_option linter.all false

namespace Sys2Proof.Machine

variable {pm pi pf pk : Bool}

theorem State.serveErr_keeps {s0 s : State} {a : Access} {cause : Nat} (hK : Keeps pm pi pf pk s0 s) :
    Keeps pm pi pf pk s0 (State.serveErr s a cause).2 := by
  unfold State.serveErr
  repeat' (first
    | (with_reducible first
      | assumption | apply Keeps.ite | apply Keeps.ite2 | apply State.reqErr_keeps)
    | extract_lets | exact id | exact Nat.le_refl _ | split | (intro q; simpa [updAt] using q)
    | (intro q; exact (List.length_modify ..).trans q) | (intro q; exact (List.length_set ..).trans q))

theorem State.serveData_keeps {s0 s : State} {a : Access} (hK : Keeps false pi pf pk s0 s) :
    Keeps false pi pf pk s0 (State.serveData s a).2 := by
  unfold State.serveData
  repeat' (first
    | (with_reducible first
      | assumption | apply Keeps.ite | apply Keeps.ite2 | apply State.setBytes_keeps)
    | extract_lets | exact id | exact Nat.le_refl _ | split | (intro q; simpa [updAt] using q)
    | (intro q; exact (List.length_modify ..).trans q) | (intro q; exact (List.length_set ..).trans q))

theorem State.eccResult_keeps {s0 s : State} {page : Nat} {base : Nat} {a : Access} {n : Nat} {env : MemEnv} (hK : Keeps pm pi pf pk s0 s) :
    Keeps pm pi pf pk s0 (State.eccResult s page base a n env).2.2 := by
  unfold State.eccResult
  repeat' (first
    | (with_reducible first
      | assumption | apply Keeps.ite | apply Keeps.ite3 | apply State.injected_keeps)
    | extract_lets | exact id | exact Nat.le_refl _ | split | (intro q; simpa [updAt] using q)
    | (intro q; exact (List.length_modify ..).trans q) | (intro q; exact (List.length_set ..).trans q)
    | (intro q; exact (List.length_map ..).trans q))

theorem State.storeEcc_keeps {s0 s : State} {g : Nat} {off : Nat} {ecc : Nat} (hK : Keeps pm pi pf pk s0 s) :
    Keeps pm pi pf pk s0 (State.storeEcc s g off ecc) := by
  unfold State.storeEcc
  repeat' (first
    | (with_reducible first
      | assumption | apply Keeps.ite | apply State.cnt_keeps | apply State.emit_keeps | apply State.evt_keeps
      | apply State.wr_keeps)
    | extract_lets | exact id | exact Nat.le_refl _ | split | (intro q; simpa [updAt] using q)
    | (intro q; exact (List.length_modify ..).trans q) | (intro q; exact (List.length_set ..).trans q))

theorem State.remoteWrite_keeps {s0 s : State} {k : Nat} {a : Access} {ticketed : Bool} (hK : Keeps false pi pf pk s0 s) :
    Keeps false pi pf pk s0 (State.remoteWrite s k a ticketed).2 := by
  unfold State.remoteWrite
  repeat' (first
    | (with_reducible first
      | assumption | apply Keeps.ite | apply Keeps.ite2 | apply State.dropWrite_keeps | apply State.serveData_keeps
      | apply State.countWrite_keeps)
    | extract_lets | exact id | exact Nat.le_refl _ | split | (intro q; simpa [updAt] using q)
    | (intro q; exact (List.length_modify ..).trans q) | (intro q; exact (List.length_set ..).trans q))

theorem State.atWork_keeps {s0 s : State} {d : Nat} (hK : Keeps pm pi pf pk s0 s) :
    Keeps pm pi pf pk s0 (State.atWork s d) := by
  unfold State.atWork
  repeat' (first
    | (with_reducible first
      | assumption | apply Keeps.ite)
    | extract_lets | exact id | exact Nat.le_refl _ | split | apply Keeps.with_domains | (intro q; simpa [updAt] using q)
    | (intro q; exact (List.length_modify ..).trans q) | (intro q; exact (List.length_set ..).trans q)
    | (intro q; exact (List.length_map ..).trans q))

theorem State.serveStore_keeps {s0 s : State} {g : Nat} {a : Access} {loc : Bool} {env : MemEnv} (hK : Keeps false pi pf pk s0 s) :
    Keeps false pi pf pk s0 (State.serveStore s g a loc env).2 := by
  unfold State.serveStore
  repeat' (first
    | (with_reducible first
      | assumption | apply Keeps.ite | apply Keeps.ite2 | apply State.serveErr_keeps | apply State.atWork_keeps
      | apply State.regionCheck_keeps | apply State.serveData_keeps | apply State.remoteWrite_keeps
      | apply State.eccResult_keeps | apply State.storeEcc_keeps)
    | extract_lets | exact id | exact Nat.le_refl _ | split | (intro q; simpa [updAt] using q)
    | (intro q; exact (List.length_modify ..).trans q) | (intro q; exact (List.length_set ..).trans q)
    | (intro q; exact (List.length_map ..).trans q))

theorem State.serveTcm_keeps {s0 s : State} {n : Nat} {a : Access} {loc : Bool} {env : MemEnv} (hK : Keeps false pi pf pk s0 s) :
    Keeps false pi pf pk s0 (State.serveTcm s n a loc env).2 := by
  unfold State.serveTcm
  repeat' (first
    | (with_reducible first
      | assumption | apply Keeps.ite | apply Keeps.ite2 | apply State.serveErr_keeps | apply State.regionCheck_keeps
      | apply State.serveData_keeps | apply State.remoteWrite_keeps | apply State.eccResult_keeps
      | apply State.cnt_keeps)
    | extract_lets | exact id | exact Nat.le_refl _ | split | (intro q; simpa [updAt] using q)
    | (intro q; exact (List.length_modify ..).trans q) | (intro q; exact (List.length_set ..).trans q)
    | (intro q; exact (List.length_map ..).trans q))

theorem State.serveAcq_keeps {s0 s : State} {a : Access} {env : MemEnv} (hK : Keeps false pi pf pk s0 s) :
    Keeps false pi pf pk s0 (State.serveAcq s a env).2 := by
  unfold State.serveAcq
  repeat' (first
    | (with_reducible first
      | assumption | apply Keeps.ite | apply Keeps.ite2 | apply State.serveErr_keeps | apply State.atWork_keeps
      | apply State.regionCheck_keeps | apply State.serveData_keeps | apply State.eccResult_keeps
      | apply State.cnt_keeps)
    | extract_lets | exact id | exact Nat.le_refl _ | split | (intro q; simpa [updAt] using q)
    | (intro q; exact (List.length_modify ..).trans q) | (intro q; exact (List.length_set ..).trans q)
    | (intro q; exact (List.length_map ..).trans q))

theorem State.sliceServe_keeps {s0 s : State} {x : Nat} {ch : Nat} {l : Nat} {code : Nat} {cls : Nat} {heart : Bool} {line : Nat} (hK : Keeps pm pi pf pk s0 s) :
    Keeps pm pi pf pk s0 (State.sliceServe s x ch l code cls heart line) := by
  unfold State.sliceServe
  repeat' (first
    | (with_reducible first
      | assumption | apply Keeps.ite | apply State.fresh_keeps | apply State.setDmc_keeps | apply State.dmcServe_keeps)
    | extract_lets | exact id | exact Nat.le_refl _ | split | (intro q; simpa [updAt] using q)
    | (intro q; exact (List.length_modify ..).trans q) | (intro q; exact (List.length_set ..).trans q)
    | (intro q; exact (List.length_map ..).trans q))

theorem State.cpuFill_keeps {s0 s : State} {req : Requester} {line : Nat} {heart : Bool} (hK : Keeps pm pi pf pk s0 s) :
    Keeps pm pi pf pk s0 (State.cpuFill s req line heart) := by
  unfold State.cpuFill
  repeat' (first
    | (with_reducible first
      | assumption | apply Keeps.ite)
    | extract_lets | exact id | exact Nat.le_refl _ | split | apply Keeps.with_harts | (intro q; simpa [updAt] using q)
    | (intro q; exact (List.length_modify ..).trans q) | (intro q; exact (List.length_set ..).trans q)
    | (intro q; exact (List.length_map ..).trans q))

theorem State.serveDram_keeps {s0 s : State} {a : Access} {cacheable : Bool} {env : MemEnv} (hK : Keeps false pi pf pk s0 s) :
    Keeps false pi pf pk s0 (State.serveDram s a cacheable env).2 := by
  unfold State.serveDram
  repeat' (first
    | (with_reducible first
      | assumption | apply Keeps.ite | apply Keeps.ite2 | apply State.serveErr_keeps | apply State.atWork_keeps
      | apply State.regionCheck_keeps | apply State.eccResult_keeps | apply State.cpuFill_keeps
      | apply State.sliceServe_keeps | apply State.dmcServe_keeps | apply State.dmcCe_keeps | apply State.dmcUe_keeps
      | apply State.serveData_keeps)
    | extract_lets | exact id | exact Nat.le_refl _ | split | apply Keeps.with_poison | (intro q; simpa [updAt] using q)
    | (intro q; exact (List.length_modify ..).trans q) | (intro q; exact (List.length_set ..).trans q)
    | (intro q; exact (List.length_map ..).trans q))

theorem State.serveReg4_keeps {s0 s : State} {a : Access} (hK : Keeps pm pi pf pk s0 s) :
    Keeps pm pi pf pk s0 (State.serveReg4 s a).2 := by
  unfold State.serveReg4
  repeat' (first
    | (with_reducible first
      | assumption | apply Keeps.ite | apply Keeps.ite2 | apply State.regStore_keeps | apply State.regRead_keeps
      | apply State.denyRec_keeps | apply State.pageErr_keeps)
    | extract_lets | exact id | exact Nat.le_refl _ | split | apply Keeps.with_resp | (intro q; simpa [updAt] using q)
    | (intro q; exact (List.length_modify ..).trans q) | (intro q; exact (List.length_set ..).trans q)
    | (intro q; exact (List.length_map ..).trans q))

theorem State.serveReg_keeps {s0 s : State} {a : Access} (hK : Keeps pm pi pf pk s0 s) :
    Keeps pm pi pf pk s0 (State.serveReg s a).2 := by
  unfold State.serveReg
  repeat' (first
    | (with_reducible first
      | assumption | apply Keeps.ite | apply Keeps.ite2 | apply State.serveReg4_keeps)
    | extract_lets | exact id | exact Nat.le_refl _ | split | (intro q; simpa [updAt] using q)
    | (intro q; exact (List.length_modify ..).trans q) | (intro q; exact (List.length_set ..).trans q)
    | (intro q; exact (List.length_map ..).trans q))

theorem State.meshCrossed_keeps {s0 s : State} {a : Access} {loc : Bool} (hK : Keeps pm pi pf pk s0 s) :
    Keeps pm pi pf pk s0 (State.meshCrossed s a loc) := by
  unfold State.meshCrossed
  repeat' (first
    | (with_reducible first
      | assumption | apply Keeps.ite | apply State.transit_keeps)
    | extract_lets | exact id | exact Nat.le_refl _ | split | (intro q; simpa [updAt] using q)
    | (intro q; exact (List.length_modify ..).trans q) | (intro q; exact (List.length_set ..).trans q)
    | (intro q; exact (List.length_map ..).trans q))

theorem State.serveAt_keeps {s0 s : State} {a : Access} {loc : Bool} {cacheable : Bool} {env : MemEnv} (hK : Keeps false pi pf pk s0 s) :
    Keeps false pi pf pk s0 (State.serveAt s a loc cacheable env).2 := by
  unfold State.serveAt
  extract_lets t r c
  clear_value t
  repeat' (first
    | (with_reducible first
      | assumption | apply Keeps.ite | apply Keeps.ite2 | apply State.serveStore_keeps | apply State.serveErr_keeps
      | apply State.serveReg_keeps | apply State.regionCheck_keeps | apply State.serveData_keeps
      | apply State.serveAcq_keeps | apply State.serveTcm_keeps | apply State.serveDram_keeps | apply State.cnt_keeps
      | apply State.sendOut_keeps | apply State.emit_keeps)
    | extract_lets | exact id | exact Nat.le_refl _ | split | (intro q; simpa [updAt] using q)
    | (intro q; exact (List.length_modify ..).trans q) | (intro q; exact (List.length_set ..).trans q)
    | (intro q; exact (List.length_map ..).trans q))

theorem State.serve_keeps {s0 s : State} {a : Access} {loc : Bool} {cacheable : Bool} {env : MemEnv} (hK : Keeps false pi pf pk s0 s) :
    Keeps false pi pf pk s0 (State.serve s a loc cacheable env).2 := by
  unfold State.serve
  repeat' (first
    | (with_reducible first
      | assumption | apply Keeps.ite | apply Keeps.ite2 | apply State.serveAt_keeps | apply State.meshCrossed_keeps)
    | extract_lets | exact id | exact Nat.le_refl _ | split | (intro q; simpa [updAt] using q)
    | (intro q; exact (List.length_modify ..).trans q) | (intro q; exact (List.length_set ..).trans q)
    | (intro q; exact (List.length_map ..).trans q))

theorem State.cross_keeps {s0 s : State} {a : Access} {loc : Bool} {env : MemEnv} {eff : State → Carried × State} (h_eff : ∀ u, Keeps pm pi pf pk s0 u → Keeps pm pi pf pk s0 (eff u).2) (hK : Keeps pm pi pf pk s0 s) :
    Keeps pm pi pf pk s0 (State.cross s a loc env eff).2 := by
  unfold State.cross
  repeat' (first
    | (with_reducible first
      | assumption | apply Keeps.ite | apply Keeps.ite2 | apply State.injected_keeps | apply State.flitCe_keeps
      | apply State.flitUe_keeps | apply h_eff)
    | extract_lets | exact id | exact Nat.le_refl _ | split | (intro q; simpa [updAt] using q)
    | (intro q; exact (List.length_modify ..).trans q) | (intro q; exact (List.length_set ..).trans q)
    | (intro q; exact (List.length_map ..).trans q))

theorem State.blockServe_keeps {s0 s : State} {loc : Bool} {cacheable : Bool} {env : MemEnv} {a : Access} (hK : Keeps false pi pf pk s0 s) :
    Keeps false pi pf pk s0 (State.blockServe loc cacheable env a s).2 := by
  unfold State.blockServe
  repeat' (first
    | (with_reducible first
      | assumption | apply Keeps.ite | apply Keeps.ite2 | refine State.cross_keeps (fun _ _ => ?_) ?_
      | apply State.serve_keeps)
    | extract_lets | exact id | exact Nat.le_refl _ | split | (intro q; simpa [updAt] using q)
    | (intro q; exact (List.length_modify ..).trans q) | (intro q; exact (List.length_set ..).trans q)
    | (intro q; exact (List.length_map ..).trans q))

end Sys2Proof.Machine
end

