-- ==== Sys2Proof/Laws/KeepsMove.lean ====
section
/-! SUPPORT. What the operations of Machine/Move.lean keep. -/

set_option linter.all false

namespace Sys2Proof.Machine

variable {pm pi pf pk : Bool}

theorem State.noAnswer_keeps {s0 s : State} {a : Access} (hK : Keeps pm pi pf pk s0 s) :
    Keeps pm pi pf pk s0 (State.noAnswer s a) := by
  unfold State.noAnswer
  repeat' (first
    | (with_reducible first
      | assumption | apply Keeps.ite | apply State.meshTimeout_keeps)
    | extract_lets | exact id | exact Nat.le_refl _ | split | (intro q; simpa [updAt] using q)
    | (intro q; exact (List.length_modify ..).trans q) | (intro q; exact (List.length_set ..).trans q)
    | (intro q; exact (List.length_map ..).trans q))

theorem State.readParts_keeps {s0 a_6 : State} {a : Access} {loc : Bool} {cacheable : Bool} {env : MemEnv} {a_4 : List (Nat × Nat)} {a_5 : List Byte} (hK : Keeps false pi pf pk s0 a_6) :
    Keeps false pi pf pk s0 (State.readParts a loc cacheable env a_4 a_5 a_6).2.2 := by
  induction a_4 generalizing a_5 a_6 with
  | nil =>
    unfold State.readParts
    repeat' (first
      | (with_reducible first
        | assumption | apply Keeps.ite | apply Keeps.ite3 | apply State.blockServe_keeps | apply State.noAnswer_keeps)
      | extract_lets | exact id | exact Nat.le_refl _ | split | (intro q; simpa [updAt] using q)
      | (intro q; exact (List.length_modify ..).trans q) | (intro q; exact (List.length_set ..).trans q)
      | (intro q; exact (List.length_map ..).trans q))
  | cons _ _ ih =>
    unfold State.readParts
    repeat' (first
      | (with_reducible first
        | assumption | apply Keeps.ite | apply ih | apply Keeps.ite3 | apply State.blockServe_keeps
        | apply State.noAnswer_keeps)
      | extract_lets | exact id | exact Nat.le_refl _ | split | (intro q; simpa [updAt] using q)
      | (intro q; exact (List.length_modify ..).trans q) | (intro q; exact (List.length_set ..).trans q)
      | (intro q; exact (List.length_map ..).trans q))

theorem State.writeParts_keeps {s0 a_5 : State} {a : Access} {loc : Bool} {cacheable : Bool} {env : MemEnv} {a_4 : List (Nat × Nat)} (hK : Keeps false pi pf pk s0 a_5) :
    Keeps false pi pf pk s0 (State.writeParts a loc cacheable env a_4 a_5).2 := by
  induction a_4 generalizing a_5 with
  | nil =>
    unfold State.writeParts
    repeat' (first
      | (with_reducible first
        | assumption | apply Keeps.ite | apply Keeps.ite2 | apply State.blockServe_keeps | apply State.noAnswer_keeps)
      | extract_lets | exact id | exact Nat.le_refl _ | split | (intro q; simpa [updAt] using q)
      | (intro q; exact (List.length_modify ..).trans q) | (intro q; exact (List.length_set ..).trans q)
      | (intro q; exact (List.length_map ..).trans q))
  | cons _ _ ih =>
    unfold State.writeParts
    repeat' (first
      | (with_reducible first
        | assumption | apply Keeps.ite | apply ih | apply Keeps.ite2 | apply State.blockServe_keeps
        | apply State.noAnswer_keeps)
      | extract_lets | exact id | exact Nat.le_refl _ | split | (intro q; simpa [updAt] using q)
      | (intro q; exact (List.length_modify ..).trans q) | (intro q; exact (List.length_set ..).trans q)
      | (intro q; exact (List.length_map ..).trans q))

theorem State.readRange_keeps {s0 s : State} {a : Access} {loc : Bool} {cacheable : Bool} {env : MemEnv} (hK : Keeps false pi pf pk s0 s) :
    Keeps false pi pf pk s0 (State.readRange s a loc cacheable env).2.2 := by
  unfold State.readRange
  repeat' (first
    | (with_reducible first
      | assumption | apply Keeps.ite | apply Keeps.ite3 | apply State.readParts_keeps)
    | extract_lets | exact id | exact Nat.le_refl _ | split | (intro q; simpa [updAt] using q)
    | (intro q; exact (List.length_modify ..).trans q) | (intro q; exact (List.length_set ..).trans q)
    | (intro q; exact (List.length_map ..).trans q))

theorem State.freeExt_keeps {s0 s : State} {n : Nat} (hK : Keeps pm pi pf pk s0 s) :
    Keeps pm pi pf pk s0 (State.freeExt s n).2 := by
  unfold State.freeExt
  repeat' (first
    | (with_reducible first
      | assumption | apply Keeps.ite | apply Keeps.ite2 | apply State.fresh_keeps)
    | extract_lets | exact id | exact Nat.le_refl _ | split | (intro q; simpa [updAt] using q)
    | (intro q; exact (List.length_modify ..).trans q) | (intro q; exact (List.length_set ..).trans q))

theorem State.writeRange_keeps {s0 s : State} {a : Access} {loc : Bool} {cacheable : Bool} {env : MemEnv} (hK : Keeps false pi pf pk s0 s) :
    Keeps false pi pf pk s0 (State.writeRange s a loc cacheable env).2 := by
  unfold State.writeRange
  repeat' (first
    | (with_reducible first
      | assumption | apply Keeps.ite | apply Keeps.ite2 | apply State.writeParts_keeps)
    | extract_lets | exact id | exact Nat.le_refl _ | split | (intro q; simpa [updAt] using q)
    | (intro q; exact (List.length_modify ..).trans q) | (intro q; exact (List.length_set ..).trans q)
    | (intro q; exact (List.length_map ..).trans q))

theorem State.blockRead_keeps {s0 s : State} {c : Nat} {i : Nat} {addr : Nat} {len : Nat} {env : MemEnv} (hK : Keeps false pi pf pk s0 s) :
    Keeps false pi pf pk s0 (State.blockRead s c i addr len env).2.2 := by
  unfold State.blockRead
  repeat' (first
    | (with_reducible first
      | assumption | apply Keeps.ite | apply Keeps.ite3 | apply State.readRange_keeps)
    | extract_lets | exact id | exact Nat.le_refl _ | split | (intro q; simpa [updAt] using q)
    | (intro q; exact (List.length_modify ..).trans q) | (intro q; exact (List.length_set ..).trans q)
    | (intro q; exact (List.length_map ..).trans q))

theorem State.blockWrite_keeps {s0 s : State} {c : Nat} {i : Nat} {addr : Nat} {data : List Byte} {env : MemEnv} (hK : Keeps false pi pf pk s0 s) :
    Keeps false pi pf pk s0 (State.blockWrite s c i addr data env).2 := by
  unfold State.blockWrite
  repeat' (first
    | (with_reducible first
      | assumption | apply Keeps.ite | apply Keeps.ite2 | apply State.writeRange_keeps)
    | extract_lets | exact id | exact Nat.le_refl _ | split | (intro q; simpa [updAt] using q)
    | (intro q; exact (List.length_modify ..).trans q) | (intro q; exact (List.length_set ..).trans q)
    | (intro q; exact (List.length_map ..).trans q))

end Sys2Proof.Machine
end

