-- ==== Sys2Proof/Laws/KeepsRings.lean ====
section
/-! SUPPORT. What the operations of Machine/Rings.lean keep. -/

set_option linter.all false

namespace Sys2Proof.Machine

variable {pm pi pf pk : Bool}

theorem State.setRing_keeps {s0 s : State} {i : Nat} {f : RingSt → RingSt} (hK : Keeps pm pi pf pk s0 s) :
    Keeps pm pi pf pk s0 (State.setRing s i f) := by
  unfold State.setRing
  repeat' (first
    | (with_reducible first
      | assumption | apply Keeps.ite)
    | extract_lets | exact id | exact Nat.le_refl _ | split | apply Keeps.with_rings | (intro q; simpa [updAt] using q)
    | (intro q; exact (List.length_modify ..).trans q) | (intro q; exact (List.length_set ..).trans q))

theorem State.ringSync_keeps {s0 s : State} {i : Nat} (hK : Keeps pm pi pf pk s0 s) :
    Keeps pm pi pf pk s0 (State.ringSync s i) := by
  unfold State.ringSync
  repeat' (first
    | (with_reducible first
      | assumption | apply Keeps.ite | apply State.putBit_keeps | apply State.putF_keeps | apply State.lvl_keeps)
    | extract_lets | exact id | exact Nat.le_refl _ | split | (intro q; simpa [updAt] using q)
    | (intro q; exact (List.length_modify ..).trans q) | (intro q; exact (List.length_set ..).trans q))

theorem State.ringsSync_keeps {s0 s : State} (hK : Keeps pm pi pf pk s0 s) :
    Keeps pm pi pf pk s0 (State.ringsSync s) := by
  unfold State.ringsSync
  repeat' (first
    | (with_reducible first
      | assumption | apply Keeps.ite | refine Keeps.each (fun _ _ _ => ?_) ?_ | apply State.ringSync_keeps)
    | extract_lets | exact id | exact Nat.le_refl _ | split | (intro q; simpa [updAt] using q)
    | (intro q; exact (List.length_modify ..).trans q) | (intro q; exact (List.length_set ..).trans q))

theorem State.addCredit_keeps {s0 s : State} {i : Nat} (hK : Keeps pm pi pf pk s0 s) :
    Keeps pm pi pf pk s0 (State.addCredit s i) := by
  unfold State.addCredit
  repeat' (first
    | (with_reducible first
      | assumption | apply Keeps.ite | apply State.ringSync_keeps | apply State.setRing_keeps | apply State.cnt_keeps)
    | extract_lets | exact id | exact Nat.le_refl _ | split | (intro q; simpa [updAt] using q)
    | (intro q; exact (List.length_modify ..).trans q) | (intro q; exact (List.length_set ..).trans q))

theorem State.extDoorbell_keeps {s0 s : State} {i : Nat} (hK : Keeps pm pi pf pk s0 s) :
    Keeps pm pi pf pk s0 (State.extDoorbell s i) := by
  unfold State.extDoorbell
  repeat' (first
    | (with_reducible first
      | assumption | apply Keeps.ite | apply State.evt_keeps | apply State.cnt_keeps | apply State.addCredit_keeps)
    | extract_lets | exact id | exact Nat.le_refl _ | split | (intro q; simpa [updAt] using q)
    | (intro q; exact (List.length_modify ..).trans q) | (intro q; exact (List.length_set ..).trans q))

theorem State.blockDoorbell_keeps {s0 s : State} {c : Nat} {n : Nat} {i : Nat} (hK : Keeps pm pi pf pk s0 s) :
    Keeps pm pi pf pk s0 (State.blockDoorbell s c n i) := by
  unfold State.blockDoorbell
  repeat' (first
    | (with_reducible first
      | assumption | apply Keeps.ite | apply State.extDoorbell_keeps | apply State.transit_keeps)
    | extract_lets | exact id | exact Nat.le_refl _ | split | (intro q; simpa [updAt] using q)
    | (intro q; exact (List.length_modify ..).trans q) | (intro q; exact (List.length_set ..).trans q)
    | (intro q; exact (List.length_map ..).trans q))

theorem State.setJob_keeps {s0 s : State} {id : Nat} {f : Job → Job} (hK : Keeps pm pi pf pk s0 s) :
    Keeps pm pi pf pk s0 (State.setJob s id f) := by
  unfold State.setJob
  repeat' (first
    | (with_reducible first
      | assumption | apply Keeps.ite)
    | extract_lets | exact id | exact Nat.le_refl _ | split | apply Keeps.with_jobs | (intro q; simpa [updAt] using q)
    | (intro q; exact (List.length_modify ..).trans q) | (intro q; exact (List.length_set ..).trans q))

theorem State.dispSync_keeps {s0 s : State} (hK : Keeps pm pi pf pk s0 s) :
    Keeps pm pi pf pk s0 (State.dispSync s) := by
  unfold State.dispSync
  repeat' (first
    | (with_reducible first
      | assumption | apply Keeps.ite | apply State.wr_keeps | refine Keeps.each (fun _ _ _ => ?_) ?_)
    | extract_lets | exact id | exact Nat.le_refl _ | split | (intro q; simpa [updAt] using q)
    | (intro q; exact (List.length_modify ..).trans q) | (intro q; exact (List.length_set ..).trans q))

theorem State.rmonRecord_keeps {s0 s : State} {i : Nat} {disp : Nat} (hK : Keeps pm pi pf pk s0 s) :
    Keeps pm pi pf pk s0 (State.rmonRecord s i disp) := by
  unfold State.rmonRecord
  repeat' (first
    | (with_reducible first
      | assumption | apply Keeps.ite | refine Keeps.each (fun _ _ _ => ?_) ?_ | apply State.putBit_keeps)
    | extract_lets | exact id | exact Nat.le_refl _ | split | apply Keeps.with_rmon | (intro q; simpa [updAt] using q)
    | (intro q; exact (List.length_modify ..).trans q) | (intro q; exact (List.length_set ..).trans q))

theorem State.account_keeps {s0 s : State} {j : Job} (hK : Keeps pm pi pf pk s0 s) :
    Keeps pm pi pf pk s0 (State.account s j) := by
  unfold State.account
  repeat' (first
    | (with_reducible first
      | assumption | apply Keeps.ite | apply State.evt_keeps)
    | extract_lets | exact id | exact Nat.le_refl _ | split | apply Keeps.with_acct | (intro q; simpa [updAt] using q)
    | (intro q; exact (List.length_modify ..).trans q) | (intro q; exact (List.length_set ..).trans q)
    | (intro q; exact (List.length_map ..).trans q))

theorem State.disposed_keeps {s0 s : State} {j : Job} {disp : Nat} (hK : Keeps pm pi pf pk s0 s) :
    Keeps pm pi pf pk s0 (State.disposed s j disp) := by
  unfold State.disposed
  repeat' (first
    | (with_reducible first
      | assumption | apply Keeps.ite | apply State.csetJob_keeps | apply State.account_keeps | apply State.evt_keeps
      | apply State.cnt_keeps | apply State.putF_keeps)
    | extract_lets | exact id | exact Nat.le_refl _ | split | (intro q; simpa [updAt] using q)
    | (intro q; exact (List.length_modify ..).trans q) | (intro q; exact (List.length_set ..).trans q)
    | (intro q; exact (List.length_map ..).trans q))

theorem State.dropJob_keeps {s0 s : State} {j : Job} (hK : Keeps pm pi pf pk s0 s) :
    Keeps pm pi pf pk s0 (State.dropJob s j) := by
  unfold State.dropJob
  repeat' (first
    | (with_reducible first
      | assumption | apply Keeps.ite | apply State.ringSync_keeps | apply State.dispSync_keeps)
    | extract_lets | exact id | exact Nat.le_refl _ | split | apply Keeps.with_jobs | (intro q; simpa [updAt] using q)
    | (intro q; exact (List.length_modify ..).trans q) | (intro q; exact (List.length_set ..).trans q))

theorem State.finish_keeps {s0 s : State} {j : Job} {disp : Nat} {cause : Nat} (hK : Keeps false pi pf pk s0 s) :
    Keeps false pi pf pk s0 (State.finish s j disp cause) := by
  unfold State.finish
  repeat' (first
    | (with_reducible first
      | assumption | apply Keeps.ite | apply State.dropJob_keeps | apply State.disposed_keeps | apply State.cnt_keeps
      | apply State.writeRange_keeps | apply State.ringSync_keeps | apply State.setJob_keeps | apply State.wr_keeps
      | apply State.setRing_keeps | apply State.evt_keeps | apply State.rmonRecord_keeps | apply State.putBit_keeps)
    | extract_lets | exact id | exact Nat.le_refl _ | split | (intro q; simpa [updAt] using q)
    | (intro q; exact (List.length_modify ..).trans q) | (intro q; exact (List.length_set ..).trans q)
    | (intro q; exact (List.length_map ..).trans q))

theorem State.writeSqTail_keeps {s0 s : State} {req : Requester} {i : Nat} {v : Nat} (hK : Keeps pm pi pf pk s0 s) :
    Keeps pm pi pf pk s0 (State.writeSqTail s req i v) := by
  unfold State.writeSqTail
  repeat' (first
    | (with_reducible first
      | assumption | apply Keeps.ite | apply State.quiet_keeps | apply State.wr_keeps)
    | extract_lets | exact id | exact Nat.le_refl _ | split | (intro q; simpa [updAt] using q)
    | (intro q; exact (List.length_modify ..).trans q) | (intro q; exact (List.length_set ..).trans q))

theorem State.writeCqHead_keeps {s0 s : State} {req : Requester} {i : Nat} {v : Nat} (hK : Keeps pm pi pf pk s0 s) :
    Keeps pm pi pf pk s0 (State.writeCqHead s req i v) := by
  unfold State.writeCqHead
  repeat' (first
    | (with_reducible first
      | assumption | apply Keeps.ite | apply State.quiet_keeps | apply State.ringSync_keeps | apply State.wr_keeps)
    | extract_lets | exact id | exact Nat.le_refl _ | split | (intro q; simpa [updAt] using q)
    | (intro q; exact (List.length_modify ..).trans q) | (intro q; exact (List.length_set ..).trans q))

theorem State.writeRingCfg_keeps {s0 s : State} {req : Requester} {a : Nat} {i : Nat} {v : Nat} (hK : Keeps pm pi pf pk s0 s) :
    Keeps pm pi pf pk s0 (State.writeRingCfg s req a i v) := by
  unfold State.writeRingCfg
  repeat' (first
    | (with_reducible first
      | assumption | apply Keeps.ite | apply State.quiet_keeps | apply State.regStore_keeps
      | apply State.setRing_keeps | apply State.putBit_keeps | apply State.ringSync_keeps)
    | extract_lets | exact id | exact Nat.le_refl _ | split | (intro q; simpa [updAt] using q)
    | (intro q; exact (List.length_modify ..).trans q) | (intro q; exact (List.length_set ..).trans q)
    | (intro q; exact (List.length_map ..).trans q))

theorem State.writeOwner_keeps {s0 s : State} {req : Requester} {p : Nat} {n : Nat} {w : Nat} {v : Nat} (hK : Keeps pm pi pf pk s0 s) :
    Keeps pm pi pf pk s0 (State.writeOwner s req p n w v) := by
  unfold State.writeOwner
  repeat' (first
    | (with_reducible first
      | assumption | apply Keeps.ite | apply State.ringSync_keeps | apply State.regStore_keeps | apply State.quiet_keeps)
    | extract_lets | exact id | exact Nat.le_refl _ | split | (intro q; simpa [updAt] using q)
    | (intro q; exact (List.length_modify ..).trans q) | (intro q; exact (List.length_set ..).trans q))

theorem State.writeAcctSel_keeps {s0 s : State} {v : Nat} (hK : Keeps pm pi pf pk s0 s) :
    Keeps pm pi pf pk s0 (State.writeAcctSel s v) := by
  unfold State.writeAcctSel
  repeat' (first
    | (with_reducible first
      | assumption | apply Keeps.ite | apply State.wr_keeps)
    | extract_lets | exact id | exact Nat.le_refl _ | split | apply Keeps.with_acct | (intro q; simpa [updAt] using q)
    | (intro q; exact (List.length_modify ..).trans q) | (intro q; exact (List.length_set ..).trans q))

end Sys2Proof.Machine
end

