-- ==== Sys2Proof/Laws/KeepsRanks.lean ====
section
/-! SUPPORT. What the operations of Machine/Ranks.lean keep. -/

set_option linter.all false

namespace Sys2Proof.Machine

variable {pm pi pf pk : Bool}

theorem State.setCore_keeps {s0 s : State} {c : Nat} {f : CoreSt → CoreSt} (hK : Keeps pm pi pf pk s0 s) :
    Keeps pm pi pf pk s0 (State.setCore s c f) := by
  unfold State.setCore
  repeat' (first
    | (with_reducible first
      | assumption | apply Keeps.ite)
    | extract_lets | exact id | exact Nat.le_refl _ | split | apply Keeps.with_cores | (intro q; simpa [updAt] using q)
    | (intro q; exact (List.length_modify ..).trans q) | (intro q; exact (List.length_set ..).trans q))

theorem State.infSync_keeps {s0 s : State} (hK : Keeps pm pi pf pk s0 s) :
    Keeps pm pi pf pk s0 (State.infSync s) := by
  unfold State.infSync
  repeat' (first
    | (with_reducible first
      | assumption | apply Keeps.ite | apply State.putF_keeps | apply State.wr_keeps | apply State.lvl_keeps)
    | extract_lets | exact id | exact Nat.le_refl _ | split | (intro q; simpa [updAt] using q)
    | (intro q; exact (List.length_modify ..).trans q) | (intro q; exact (List.length_set ..).trans q))

theorem State.infEntry_keeps {s0 s : State} {type : Nat} {n : Nat} {tests : Nat} {code : Nat} (hK : Keeps pm pi pf pk s0 s) :
    Keeps pm pi pf pk s0 (State.infEntry s type n tests code) := by
  unfold State.infEntry
  repeat' (first
    | (with_reducible first
      | assumption | apply Keeps.ite | apply State.emit_keeps | apply State.incSat_keeps | apply State.infSync_keeps)
    | extract_lets | exact id | exact Nat.le_refl _ | split | apply Keeps.with_infLog | (intro q; simpa [updAt] using q)
    | (intro q; exact (List.length_modify ..).trans q) | (intro q; exact (List.length_set ..).trans q))

theorem State.putMap_keeps {s0 s : State} {lo : Nat} {hi : Nat} {c : Nat} {b : Bool} (hK : Keeps pm pi pf pk s0 s) :
    Keeps pm pi pf pk s0 (State.putMap s lo hi c b) := by
  unfold State.putMap
  repeat' (first
    | (with_reducible first
      | assumption | apply Keeps.ite | apply State.putBit_keeps)
    | extract_lets | exact id | exact Nat.le_refl _ | split | (intro q; simpa [updAt] using q)
    | (intro q; exact (List.length_modify ..).trans q) | (intro q; exact (List.length_set ..).trans q))

theorem State.setLatent_keeps {s0 s : State} {c : Nat} (hK : Keeps pm pi pf pk s0 s) :
    Keeps pm pi pf pk s0 (State.setLatent s c) := by
  unfold State.setLatent
  repeat' (first
    | (with_reducible first
      | assumption | apply Keeps.ite | apply State.lvl_keeps | apply State.putMap_keeps | apply State.putBit_keeps)
    | extract_lets | exact id | exact Nat.le_refl _ | split | (intro q; simpa [updAt] using q)
    | (intro q; exact (List.length_modify ..).trans q) | (intro q; exact (List.length_set ..).trans q))

theorem State.setRank_keeps {s0 s : State} {id : Nat} {k : Nat} {f : Rank → Rank} (hK : Keeps pm pi pf pk s0 s) :
    Keeps pm pi pf pk s0 (State.setRank s id k f) := by
  unfold State.setRank
  repeat' (first
    | (with_reducible first
      | assumption | apply Keeps.ite | apply State.setJob_keeps)
    | extract_lets | exact id | exact Nat.le_refl _ | split | (intro q; simpa [updAt] using q)
    | (intro q; exact (List.length_modify ..).trans q) | (intro q; exact (List.length_set ..).trans q))

theorem State.coreSync_keeps {s0 s : State} {c : Nat} (hK : Keeps pm pi pf pk s0 s) : Keeps pm pi pf pk s0 (s.coreSync c) := by
  unfold State.coreSync
  extract_lets o st s1
  have h1 : Keeps pm pi pf pk s0 s1 := State.putBit_keeps (State.putF_keeps hK)
  clear_value s1 o
  split <;> exact State.wr_keeps (State.wr_keeps (State.wr_keeps (State.wr_keeps h1)))

theorem State.runSync_keeps {s0 s : State} {id : Nat} (hK : Keeps pm pi pf pk s0 s) :
    Keeps pm pi pf pk s0 (State.runSync s id) := by
  unfold State.runSync
  repeat' (first
    | (with_reducible first
      | assumption | apply Keeps.ite | apply State.setJob_keeps)
    | extract_lets | exact id | exact Nat.le_refl _ | split | (intro q; simpa [updAt] using q)
    | (intro q; exact (List.length_modify ..).trans q) | (intro q; exact (List.length_set ..).trans q))

theorem State.countCycles_keeps {s0 s : State} {c : Nat} (hK : Keeps pm pi pf pk s0 s) :
    Keeps pm pi pf pk s0 (State.countCycles s c) := by
  unfold State.countCycles
  repeat' (first
    | (with_reducible first
      | assumption | apply Keeps.ite | apply State.setCore_keeps | apply State.addWrap_keeps)
    | extract_lets | exact id | exact Nat.le_refl _ | split | (intro q; simpa [updAt] using q)
    | (intro q; exact (List.length_modify ..).trans q) | (intro q; exact (List.length_set ..).trans q)
    | (intro q; exact (List.length_map ..).trans q))

theorem State.meter_keeps {s0 s : State} {g : Nat} (hK : Keeps pm pi pf pk s0 s) :
    Keeps pm pi pf pk s0 (State.meter s g) := by
  unfold State.meter
  repeat' (first
    | (with_reducible first
      | assumption | apply Keeps.ite | refine Keeps.each (fun _ _ _ => ?_) ?_ | apply State.setJob_keeps
      | apply State.countCycles_keeps)
    | extract_lets | exact id | exact Nat.le_refl _ | split | apply Keeps.with_domains | (intro q; simpa [updAt] using q)
    | (intro q; exact (List.length_modify ..).trans q) | (intro q; exact (List.length_set ..).trans q)
    | (intro q; exact (List.length_map ..).trans q))

theorem State.startRank_keeps {s0 s : State} {id : Nat} {k : Nat} {c : Nat} (hK : Keeps pm pi pf pk s0 s) :
    Keeps pm pi pf pk s0 (State.startRank s id k c) := by
  unfold State.startRank
  repeat' (first
    | (with_reducible first
      | assumption | apply Keeps.ite | apply State.meter_keeps | apply State.setRank_keeps
      | apply State.coreSync_keeps | apply State.runSync_keeps | apply State.putBit_keeps)
    | extract_lets | exact id | exact Nat.le_refl _ | split | (intro q; simpa [updAt] using q)
    | (intro q; exact (List.length_modify ..).trans q) | (intro q; exact (List.length_set ..).trans q)
    | (intro q; exact (List.length_map ..).trans q))

theorem State.coreNext_keeps {s0 s : State} {c : Nat} (hK : Keeps pm pi pf pk s0 s) :
    Keeps pm pi pf pk s0 (State.coreNext s c) := by
  unfold State.coreNext
  repeat' (first
    | (with_reducible first
      | assumption | apply Keeps.ite | refine Keeps.each (fun _ _ _ => ?_) ?_ | apply State.setJob_keeps
      | apply State.coreSync_keeps | apply State.startRank_keeps | apply State.runSync_keeps
      | apply State.setRank_keeps | apply State.meter_keeps)
    | extract_lets | exact id | exact Nat.le_refl _ | split | (intro q; simpa [updAt] using q)
    | (intro q; exact (List.length_modify ..).trans q) | (intro q; exact (List.length_set ..).trans q)
    | (intro q; exact (List.length_map ..).trans q))

theorem State.giveBack_keeps {s0 s : State} {k : Nat} {tag : Nat} {req : Nat} (hK : Keeps pm pi pf pk s0 s) :
    Keeps pm pi pf pk s0 (State.giveBack s k tag req) := by
  unfold State.giveBack
  repeat' (first
    | (with_reducible first
      | assumption | apply Keeps.ite | apply State.returnTicket_keeps | apply State.remoteReturn_keeps)
    | extract_lets | exact id | exact Nat.le_refl _ | split | (intro q; simpa [updAt] using q)
    | (intro q; exact (List.length_modify ..).trans q) | (intro q; exact (List.length_set ..).trans q))

theorem State.returnTickets_keeps {s0 s : State} {c : Nat} {l : List (Nat × Nat)} (hK : Keeps pm pi pf pk s0 s) :
    Keeps pm pi pf pk s0 (State.returnTickets s c l) := by
  unfold State.returnTickets
  repeat' (first
    | (with_reducible first
      | assumption | apply Keeps.ite | refine Keeps.each (fun _ _ _ => ?_) ?_ | apply State.giveBack_keeps)
    | extract_lets | exact id | exact Nat.le_refl _ | split | (intro q; simpa [updAt] using q)
    | (intro q; exact (List.length_modify ..).trans q) | (intro q; exact (List.length_set ..).trans q))

theorem State.endCheck_keeps {s0 s : State} {id : Nat} (hK : Keeps pm pi pf pk s0 s) :
    Keeps pm pi pf pk s0 (State.endCheck s id) := by
  unfold State.endCheck
  repeat' (first
    | (with_reducible first
      | assumption | apply Keeps.ite | apply State.setJob_keeps)
    | extract_lets | exact id | exact Nat.le_refl _ | split | (intro q; simpa [updAt] using q)
    | (intro q; exact (List.length_modify ..).trans q) | (intro q; exact (List.length_set ..).trans q))

theorem State.leaveRank_keeps {s0 s : State} {id : Nat} {k : Nat} {st : RankSt} (hK : Keeps pm pi pf pk s0 s) :
    Keeps pm pi pf pk s0 (State.leaveRank s id k st) := by
  unfold State.leaveRank
  repeat' (first
    | (with_reducible first
      | assumption | apply Keeps.ite | apply State.meter_keeps | apply State.returnTickets_keeps
      | apply State.setRank_keeps | apply State.putBit_keeps | apply State.coreSync_keeps | apply State.endCheck_keeps
      | apply State.runSync_keeps | apply State.coreNext_keeps)
    | extract_lets | exact id | exact Nat.le_refl _ | split | (intro q; simpa [updAt] using q)
    | (intro q; exact (List.length_modify ..).trans q) | (intro q; exact (List.length_set ..).trans q)
    | (intro q; exact (List.length_map ..).trans q))

theorem State.stopRanks_keeps {s0 s : State} {id : Nat} {now : Bool} {below : Nat} (hK : Keeps pm pi pf pk s0 s) :
    Keeps pm pi pf pk s0 (State.stopRanks s id now below) := by
  unfold State.stopRanks
  repeat' (first
    | (with_reducible first
      | assumption | apply Keeps.ite | refine Keeps.each (fun _ _ _ => ?_) ?_ | apply State.leaveRank_keeps
      | apply State.endCheck_keeps)
    | extract_lets | exact id | exact Nat.le_refl _ | split | (intro q; simpa [updAt] using q)
    | (intro q; exact (List.length_modify ..).trans q) | (intro q; exact (List.length_set ..).trans q)
    | (intro q; exact (List.length_map ..).trans q))

theorem State.stopJob_keeps {s0 s : State} {id : Nat} {disp : Nat} {cause : Nat} {now : Bool} (hK : Keeps pm pi pf pk s0 s) :
    Keeps pm pi pf pk s0 (State.stopJob s id disp cause now) := by
  unfold State.stopJob
  repeat' (first
    | (with_reducible first
      | assumption | apply Keeps.ite | apply State.stopRanks_keeps | apply State.setJob_keeps)
    | extract_lets | exact id | exact Nat.le_refl _ | split | (intro q; simpa [updAt] using q)
    | (intro q; exact (List.length_modify ..).trans q) | (intro q; exact (List.length_set ..).trans q)
    | (intro q; exact (List.length_map ..).trans q))

theorem State.strandedEnd_keeps {s0 s : State} {g : Nat} (hK : Keeps pm pi pf pk s0 s) :
    Keeps pm pi pf pk s0 (State.strandedEnd s g) := by
  unfold State.strandedEnd
  repeat' (first
    | (with_reducible first
      | assumption | apply Keeps.ite | refine Keeps.each (fun _ _ _ => ?_) ?_ | apply State.stopJob_keeps)
    | extract_lets | exact id | exact Nat.le_refl _ | split | (intro q; simpa [updAt] using q)
    | (intro q; exact (List.length_modify ..).trans q) | (intro q; exact (List.length_set ..).trans q)
    | (intro q; exact (List.length_map ..).trans q))

theorem State.stopFault_keeps {s0 s : State} {id : Nat} {k : Nat} {code : Nat} (hK : Keeps pm pi pf pk s0 s) :
    Keeps pm pi pf pk s0 (State.stopFault s id k code) := by
  unfold State.stopFault
  repeat' (first
    | (with_reducible first
      | assumption | apply Keeps.ite | apply State.stopRanks_keeps | apply State.setJob_keeps)
    | extract_lets | exact id | exact Nat.le_refl _ | split | (intro q; simpa [updAt] using q)
    | (intro q; exact (List.length_modify ..).trans q) | (intro q; exact (List.length_set ..).trans q)
    | (intro q; exact (List.length_map ..).trans q))

theorem State.coreTick_keeps {s0 s : State} {t : Nat} (hK : Keeps pm pi pf pk s0 s) :
    Keeps pm pi pf pk s0 (State.coreTick s t) := by
  unfold State.coreTick
  repeat' (first
    | (with_reducible first
      | assumption | apply Keeps.ite | apply State.tickTo_keeps | refine Keeps.each (fun _ _ _ => ?_) ?_
      | apply State.stopRanks_keeps)
    | extract_lets | exact id | exact Nat.le_refl _ | split | (intro q; simpa [updAt] using q)
    | (intro q; exact (List.length_modify ..).trans q) | (intro q; exact (List.length_set ..).trans q)
    | (intro q; exact (List.length_map ..).trans q))

theorem State.beginSave_keeps {s0 s : State} {o : OnCore} {cmd : Nat} (hK : Keeps pm pi pf pk s0 s) :
    Keeps pm pi pf pk s0 (State.beginSave s o cmd) := by
  unfold State.beginSave
  repeat' (first
    | (with_reducible first
      | assumption | apply Keeps.ite | apply State.coreSync_keeps | apply State.runSync_keeps | apply State.setRank_keeps)
    | extract_lets | exact id | exact Nat.le_refl _ | split | (intro q; simpa [updAt] using q)
    | (intro q; exact (List.length_modify ..).trans q) | (intro q; exact (List.length_set ..).trans q))

theorem State.boundary_keeps {s0 s : State} {o : OnCore} (hK : Keeps pm pi pf pk s0 s) :
    Keeps pm pi pf pk s0 (State.boundary s o).2 := by
  unfold State.boundary
  repeat' (first
    | (with_reducible first
      | assumption | apply Keeps.ite | apply Keeps.ite2 | apply State.leaveRank_keeps | apply State.beginSave_keeps)
    | extract_lets | exact id | exact Nat.le_refl _ | split | (intro q; simpa [updAt] using q)
    | (intro q; exact (List.length_modify ..).trans q) | (intro q; exact (List.length_set ..).trans q))

theorem State.barrierCheck_keeps {s0 s : State} {c : Nat} (hK : Keeps pm pi pf pk s0 s) :
    Keeps pm pi pf pk s0 (State.barrierCheck s c) := by
  unfold State.barrierCheck
  repeat' (first
    | (with_reducible first
      | assumption | apply Keeps.ite | apply State.boundary_keeps)
    | extract_lets | exact id | exact Nat.le_refl _ | split | (intro q; simpa [updAt] using q)
    | (intro q; exact (List.length_modify ..).trans q) | (intro q; exact (List.length_set ..).trans q))

theorem State.rewind_keeps {s0 s : State} {o : OnCore} (hK : Keeps pm pi pf pk s0 s) :
    Keeps pm pi pf pk s0 (State.rewind s o) := by
  unfold State.rewind
  repeat' (first
    | (with_reducible first
      | assumption | apply Keeps.ite | apply State.returnTickets_keeps | apply State.setCore_keeps
      | apply State.setRank_keeps)
    | extract_lets | exact id | exact Nat.le_refl _ | split | (intro q; simpa [updAt] using q)
    | (intro q; exact (List.length_modify ..).trans q) | (intro q; exact (List.length_set ..).trans q))

theorem State.saveRanges_keeps {s0 s : State} {c : Nat} {a : Nat} {a_3 : List (Nat × Nat)} (hK : Keeps false pi pf pk s0 s) :
    Keeps false pi pf pk s0 (State.saveRanges s c a a_3) := by
  induction a_3 generalizing a s with
  | nil =>
    unfold State.saveRanges
    repeat' (first
      | (with_reducible first
        | assumption | apply Keeps.ite | apply ih | apply State.setBytes_keeps)
      | extract_lets | split)
  | cons _ _ ih =>
    unfold State.saveRanges
    repeat' (first
      | (with_reducible first
        | assumption | apply Keeps.ite | apply ih | apply State.setBytes_keeps)
      | extract_lets | split)

theorem State.loadRanges_keeps {s0 s : State} {c : Nat} {a : Nat} {a_3 : List (Nat × Nat)} (hK : Keeps pm false pf pk s0 s) :
    Keeps pm false pf pk s0 (State.loadRanges s c a a_3) := by
  induction a_3 generalizing a s with
  | nil =>
    unfold State.loadRanges
    repeat' (first
      | (with_reducible first
        | assumption | apply Keeps.ite | apply ih | apply State.setIbytes_keeps)
      | extract_lets | split)
  | cons _ _ ih =>
    unfold State.loadRanges
    repeat' (first
      | (with_reducible first
        | assumption | apply Keeps.ite | apply ih | apply State.setIbytes_keeps)
      | extract_lets | split)

theorem State.freeBank_keeps {s0 s : State} (hK : Keeps pm pi pf pk s0 s) :
    Keeps pm pi pf pk s0 (State.freeBank s).2 := by
  unfold State.freeBank
  repeat' (first
    | (with_reducible first
      | assumption | apply Keeps.ite | apply Keeps.ite2 | apply State.fresh_keeps)
    | extract_lets | exact id | exact Nat.le_refl _ | split | (intro q; simpa [updAt] using q)
    | (intro q; exact (List.length_modify ..).trans q) | (intro q; exact (List.length_set ..).trans q)
    | (intro q; exact (List.length_map ..).trans q))

theorem State.saveRank_keeps {s0 s : State} {o : OnCore} (hK : Keeps false pi pf pk s0 s) :
    Keeps false pi pf pk s0 (State.saveRank s o) := by
  unfold State.saveRank
  repeat' (first
    | (with_reducible first
      | assumption | apply Keeps.ite | apply State.fresh_keeps | apply State.saveRanges_keeps
      | apply State.setRank_keeps | apply State.setBytes_keeps)
    | extract_lets | exact id | exact Nat.le_refl _ | split | (intro q; simpa [updAt] using q)
    | (intro q; exact (List.length_modify ..).trans q) | (intro q; exact (List.length_set ..).trans q)
    | (intro q; exact (List.length_map ..).trans q))

theorem State.restoreRank_keeps {s0 s : State} {o : OnCore} {c : Nat} (hK : Keeps pm false pf pk s0 s) :
    Keeps pm false pf pk s0 (State.restoreRank s o c) := by
  unfold State.restoreRank
  repeat' (first
    | (with_reducible first
      | assumption | apply Keeps.ite | apply State.loadRanges_keeps | apply State.setCore_keeps
      | apply State.freeBank_keeps | apply State.fresh_keeps | apply State.setRank_keeps)
    | extract_lets | exact id | exact Nat.le_refl _ | split | (intro q; simpa [updAt] using q)
    | (intro q; exact (List.length_modify ..).trans q) | (intro q; exact (List.length_set ..).trans q)
    | (intro q; exact (List.length_map ..).trans q))

theorem State.grovesSync_keeps {s0 s : State} (hK : Keeps pm pi pf pk s0 s) :
    Keeps pm pi pf pk s0 (State.grovesSync s) := by
  unfold State.grovesSync
  repeat' (first
    | (with_reducible first
      | assumption | apply Keeps.ite | apply State.funcReady_keeps | apply State.funcLost_keeps)
    | extract_lets | exact id | exact Nat.le_refl _ | split | (intro q; simpa [updAt] using q)
    | (intro q; exact (List.length_modify ..).trans q) | (intro q; exact (List.length_set ..).trans q))

theorem State.setSvc_keeps {s0 s : State} {c : Nat} {v : Nat} (hK : Keeps pm pi pf pk s0 s) :
    Keeps pm pi pf pk s0 (State.setSvc s c v) := by
  unfold State.setSvc
  repeat' (first
    | (with_reducible first
      | assumption | apply Keeps.ite | apply State.evt_keeps | apply State.putF_keeps | apply State.putMap_keeps
      | apply State.grovesSync_keeps | apply State.coreSync_keeps)
    | extract_lets | exact id | exact Nat.le_refl _ | split | (intro q; simpa [updAt] using q)
    | (intro q; exact (List.length_modify ..).trans q) | (intro q; exact (List.length_set ..).trans q))

theorem State.leaveService_keeps {s0 s : State} {c : Nat} {v : Nat} (hK : Keeps pm pi pf pk s0 s) :
    Keeps pm pi pf pk s0 (State.leaveService s c v) := by
  unfold State.leaveService
  repeat' (first
    | (with_reducible first
      | assumption | apply Keeps.ite | apply State.infEntry_keeps | apply State.setSvc_keeps
      | apply State.setCore_keeps | refine Keeps.each (fun _ _ _ => ?_) ?_ | apply State.setJob_keeps
      | apply State.setRank_keeps | apply State.strandedEnd_keeps | apply State.coreNext_keeps)
    | extract_lets | exact id | exact Nat.le_refl _ | split | (intro q; simpa [updAt] using q)
    | (intro q; exact (List.length_modify ..).trans q) | (intro q; exact (List.length_set ..).trans q)
    | (intro q; exact (List.length_map ..).trans q))

theorem State.withdraw_keeps {s0 s : State} {c : Nat} (hK : Keeps pm pi pf pk s0 s) :
    Keeps pm pi pf pk s0 (State.withdraw s c) := by
  unfold State.withdraw
  repeat' (first
    | (with_reducible first
      | assumption | apply Keeps.ite | apply State.leaveService_keeps)
    | extract_lets | exact id | exact Nat.le_refl _ | split | (intro q; simpa [updAt] using q)
    | (intro q; exact (List.length_modify ..).trans q) | (intro q; exact (List.length_set ..).trans q))

end Sys2Proof.Machine
end

