-- ==== Sys2Proof/Laws/KeepsTileMem.lean ====
section
/-! SUPPORT. What the operations of Machine/TileMem.lean keep. -/

set_option linter.all false

namespace Sys2Proof.Machine

variable {pm pi pf pk : Bool}

theorem State.listRead_keeps {s0 s : State} {o : OnCore} {addr : Nat} {len : Nat} {ext : List Byte} (hK : Keeps false pi pf pk s0 s) :
    Keeps false pi pf pk s0 (State.listRead s o addr len ext).2 := by
  unfold State.listRead
  repeat' (first
    | (with_reducible first
      | assumption | apply Keeps.ite | apply Keeps.ite2 | apply State.readRange_keeps)
    | extract_lets | exact id | exact Nat.le_refl _ | split | (intro q; simpa [updAt] using q)
    | (intro q; exact (List.length_modify ..).trans q) | (intro q; exact (List.length_set ..).trans q)
    | (intro q; exact (List.length_map ..).trans q))

theorem State.fillQueue_keeps {s0 a_4 : State} {o : OnCore} {env : CoreEnv} {a_2 : Nat} {a_3 : Rank} (hK : Keeps false pi pf pk s0 a_4) :
    Keeps false pi pf pk s0 (State.fillQueue o env a_2 a_3 a_4).2 := by
  induction a_2 generalizing a_3 a_4 with
  | zero =>
    unfold State.fillQueue
    repeat' (first
      | (with_reducible first
        | assumption | apply Keeps.ite | apply ih | apply Keeps.ite2 | apply State.listRead_keeps)
      | extract_lets | split)
  | succ _ ih =>
    unfold State.fillQueue
    repeat' (first
      | (with_reducible first
        | assumption | apply Keeps.ite | apply ih | apply Keeps.ite2 | apply State.listRead_keeps)
      | extract_lets | split)

theorem State.readArgs_keeps {s0 s : State} {o : OnCore} {ext : List Byte} (hK : Keeps false pi pf pk s0 s) :
    Keeps false pi pf pk s0 (State.readArgs s o ext).2 := by
  unfold State.readArgs
  repeat' (first
    | (with_reducible first
      | assumption | apply Keeps.ite | apply Keeps.ite2 | apply State.listRead_keeps)
    | extract_lets | exact id | exact Nat.le_refl _ | split | (intro q; simpa [updAt] using q)
    | (intro q; exact (List.length_modify ..).trans q) | (intro q; exact (List.length_set ..).trans q))

theorem State.prepare_keeps {s0 s : State} {o : OnCore} {env : CoreEnv} (hK : Keeps false pi pf pk s0 s) :
    Keeps false pi pf pk s0 (State.prepare s o env).2 := by
  unfold State.prepare
  repeat' (first
    | (with_reducible first
      | assumption | apply Keeps.ite | apply Keeps.ite2 | apply State.readArgs_keeps | apply State.fillQueue_keeps)
    | extract_lets | exact id | exact Nat.le_refl _ | split | (intro q; simpa [updAt] using q)
    | (intro q; exact (List.length_modify ..).trans q) | (intro q; exact (List.length_set ..).trans q))

end Sys2Proof.Machine
end

