-- ==== Sys2Proof/Laws/KeepsCores.lean ====
section
/-! SUPPORT. What the operations of Machine/Cores.lean keep. -/

set_option linter.all false

namespace Sys2Proof.Machine

variable {pm pi pf pk : Bool}

theorem State.coreFault_keeps {s0 s : State} {o : OnCore} {off : Nat} {code : Nat} (hK : Keeps pm pi pf pk s0 s) :
    Keeps pm pi pf pk s0 (State.coreFault s o off code) := by
  unfold State.coreFault
  repeat' (first
    | (with_reducible first
      | assumption | apply Keeps.ite | apply State.putBit_keeps | apply State.evt_keeps | apply State.wr_keeps
      | apply State.cnt_keeps | apply State.infEntry_keeps | apply State.stopFault_keeps | apply State.leaveRank_keeps)
    | extract_lets | exact id | exact Nat.le_refl _ | split | (intro q; simpa [updAt] using q)
    | (intro q; exact (List.length_modify ..).trans q) | (intro q; exact (List.length_set ..).trans q)
    | (intro q; exact (List.length_map ..).trans q))

theorem State.beginRank_keeps {s0 s : State} {o : OnCore} (hK : Keeps pm pi pf pk s0 s) :
    Keeps pm pi pf pk s0 (State.beginRank s o) := by
  unfold State.beginRank
  repeat' (first
    | (with_reducible first
      | assumption | apply Keeps.ite | apply State.setRank_keeps | apply State.dispSync_keeps | apply State.setJob_keeps
      | apply State.runSync_keeps | apply State.wr_keeps | apply State.evt_keeps | apply State.cnt_keeps)
    | extract_lets | exact id | exact Nat.le_refl _ | split | (intro q; simpa [updAt] using q)
    | (intro q; exact (List.length_modify ..).trans q) | (intro q; exact (List.length_set ..).trans q))

theorem State.slow_keeps {s0 s : State} {o : OnCore} (hK : Keeps pm pi pf pk s0 s) :
    Keeps pm pi pf pk s0 (State.slow s o) := by
  unfold State.slow
  repeat' (first
    | (with_reducible first
      | assumption | apply Keeps.ite | apply State.setJob_keeps)
    | extract_lets | exact id | exact Nat.le_refl _ | split | (intro q; simpa [updAt] using q)
    | (intro q; exact (List.length_modify ..).trans q) | (intro q; exact (List.length_set ..).trans q))

theorem State.waitRank_keeps {s0 s : State} {o : OnCore} {b : Bool} (hK : Keeps pm pi pf pk s0 s) :
    Keeps pm pi pf pk s0 (State.waitRank s o b) := by
  unfold State.waitRank
  repeat' (first
    | (with_reducible first
      | assumption | apply Keeps.ite | apply State.setRank_keeps | apply State.countCycles_keeps)
    | extract_lets | exact id | exact Nat.le_refl _ | split | (intro q; simpa [updAt] using q)
    | (intro q; exact (List.length_modify ..).trans q) | (intro q; exact (List.length_set ..).trans q)
    | (intro q; exact (List.length_map ..).trans q))

theorem State.coreCmd_keeps {s0 s : State} {c : Nat} {t : Nat} {unit : Nat} {env : CoreEnv} {is : Nat → Bool} {eff : Effect} (h_eff : ∀ x0 x1 x2 u, Keeps false pi pf pk s0 u → Keeps false pi pf pk s0 (eff x0 x1 x2 u).2) (hK : Keeps false pi pf pk s0 s) :
    Keeps false pi pf pk s0 (State.coreCmd s c t unit env is eff) := by
  unfold State.coreCmd
  repeat' (first
    | (with_reducible first
      | assumption | apply Keeps.ite | apply State.coreTick_keeps | apply State.prepare_keeps
      | apply State.coreFault_keeps | apply State.beginRank_keeps | apply State.setRank_keeps
      | apply State.waitRank_keeps | apply State.slow_keeps | apply State.coreSync_keeps | apply h_eff)
    | extract_lets | exact id | exact Nat.le_refl _ | split | (intro q; simpa [updAt] using q)
    | (intro q; exact (List.length_modify ..).trans q) | (intro q; exact (List.length_set ..).trans q)
    | (intro q; exact (List.length_map ..).trans q))

theorem State.tmEcc_keeps {s0 s : State} {o : OnCore} {off : Nat} {cmd : Nat} {env : CoreEnv} (hK : Keeps pm pi pf pk s0 s) :
    Keeps pm pi pf pk s0 (State.tmEcc s o off cmd env).2 := by
  unfold State.tmEcc
  repeat' (first
    | (with_reducible first
      | assumption | apply Keeps.ite | apply Keeps.ite2 | apply State.injected_keeps | apply State.cnt_keeps)
    | extract_lets | exact id | exact Nat.le_refl _ | split | (intro q; simpa [updAt] using q)
    | (intro q; exact (List.length_modify ..).trans q) | (intro q; exact (List.length_set ..).trans q))

theorem State.withEcc_keeps {s0 s : State} {o : OnCore} {off cmd : Nat} {env : CoreEnv} {g : Got (State → State)}
    (hg : ∀ f, g = .ok f → ∀ u, Keeps pm pi pf pk s0 u → Keeps pm pi pf pk s0 (f u)) (hK : Keeps pm pi pf pk s0 s) : Keeps pm pi pf pk s0 (s.withEcc o off cmd env g).2 := by
  unfold State.withEcc
  split
  · exact hK
  · exact hK
  · have h := State.tmEcc_keeps (o := o) (off := off) (cmd := cmd) (env := env) hK
    exact Keeps.ite2 h (hg _ rfl _ h)

theorem State.passTickets_keeps {s0 s : State} {id : Nat} {k : Nat} (hK : Keeps pm pi pf pk s0 s) :
    Keeps pm pi pf pk s0 (State.passTickets s id k) := by
  unfold State.passTickets
  repeat' (first
    | (with_reducible first
      | assumption | apply Keeps.ite | refine Keeps.each (fun _ _ _ => ?_) ?_ | apply State.consumeTicket_keeps
      | apply State.setRank_keeps)
    | extract_lets | exact id | exact Nat.le_refl _ | split | apply Keeps.with_ales | (intro q; simpa [updAt] using q)
    | (intro q; exact (List.length_modify ..).trans q) | (intro q; exact (List.length_set ..).trans q)
    | (intro q; exact (List.length_map ..).trans q))

theorem State.ctrlCmd_keeps {s0 s : State} {c : Nat} {t : Nat} {env : CoreEnv} {is : Nat → Bool} {sync : Bool} {eff : OnCore → Nat → State → Got Bool × State} (h_eff : ∀ x0 x1 u, Keeps false pi pf pk s0 u → Keeps false pi pf pk s0 (eff x0 x1 u).2) (hK : Keeps false pi pf pk s0 s) :
    Keeps false pi pf pk s0 (State.ctrlCmd s c t env is sync eff) := by
  unfold State.ctrlCmd
  repeat' (first
    | (with_reducible first
      | assumption | apply Keeps.ite | refine State.coreCmd_keeps (fun _ _ _ _ _ => ?_) ?_ | apply h_eff)
    | extract_lets | exact id | exact Nat.le_refl _ | split | (intro q; simpa [updAt] using q)
    | (intro q; exact (List.length_modify ..).trans q) | (intro q; exact (List.length_set ..).trans q)
    | (intro q; exact (List.length_map ..).trans q))

theorem State.tileEnter_keeps {s0 s : State} {o : OnCore} {cmd : Nat} (hK : Keeps pm pi pf pk s0 s) :
    Keeps pm pi pf pk s0 (State.tileEnter s o cmd) := by
  unfold State.tileEnter
  repeat' (first
    | (with_reducible first
      | assumption | apply Keeps.ite | apply State.incWrap_keeps | apply State.passTickets_keeps | apply State.setRank_keeps)
    | extract_lets | exact id | exact Nat.le_refl _ | split | (intro q; simpa [updAt] using q)
    | (intro q; exact (List.length_modify ..).trans q) | (intro q; exact (List.length_set ..).trans q))

theorem State.ferryBytes_keeps {s0 s : State} {f : Nat} {n : Nat} (hK : Keeps pm pi pf pk s0 s) :
    Keeps pm pi pf pk s0 (State.ferryBytes s f n) := by
  unfold State.ferryBytes
  repeat' (first
    | (with_reducible first
      | assumption | apply Keeps.ite | apply State.addWrap_keeps)
    | extract_lets | exact id | exact Nat.le_refl _ | split | apply Keeps.with_ferries | (intro q; simpa [updAt] using q)
    | (intro q; exact (List.length_modify ..).trans q) | (intro q; exact (List.length_set ..).trans q))

theorem State.ferryErr_keeps {s0 s : State} {f : Nat} {addr : Nat} (hK : Keeps pm pi pf pk s0 s) :
    Keeps pm pi pf pk s0 (State.ferryErr s f addr) := by
  unfold State.ferryErr
  repeat' (first
    | (with_reducible first
      | assumption | apply Keeps.ite | apply State.wr_keeps | apply State.cnt_keeps)
    | extract_lets | exact id | exact Nat.le_refl _ | split | (intro q; simpa [updAt] using q)
    | (intro q; exact (List.length_modify ..).trans q) | (intro q; exact (List.length_set ..).trans q))

theorem State.loadIssue_keeps {s0 s : State} {env : CoreEnv} {o : OnCore} {off cmd : Nat} (hK : Keeps false pi pf pk s0 s) :
    Keeps false pi pf pk s0 (State.loadIssue env o off cmd s).2 := by
  unfold State.loadIssue
  extract_lets g
  clear_value g
  split
  · exact hK
  · exact hK
  · extract_lets mark outside r x
    have hm : ∀ u, Keeps false pi pf pk s0 u → Keeps false pi pf pk s0 (mark u) := fun u h => by
      simp only [mark]; split
      · exact State.setRank_keeps h
      · exact h
    have hr : Keeps false pi pf pk s0 r.2.2 := State.readRange_keeps hK
    refine Keeps.ite2 (hm _ hK) ?_
    split
    · exact hK
    · exact State.setRank_keeps (hm _ (State.ferryBytes_keeps hr))
    · exact State.ferryErr_keeps hr

theorem State.replayPass_keeps {s0 s : State} {id : Nat} {k : Nat} {c : Nat} (hK : Keeps pm pi pf pk s0 s) :
    Keeps pm pi pf pk s0 (State.replayPass s id k c) := by
  unfold State.replayPass
  repeat' (first
    | (with_reducible first
      | assumption | apply Keeps.ite | apply State.setCore_keeps | apply State.incWrap_keeps | apply State.setRank_keeps)
    | extract_lets | exact id | exact Nat.le_refl _ | split | (intro q; simpa [updAt] using q)
    | (intro q; exact (List.length_modify ..).trans q) | (intro q; exact (List.length_set ..).trans q))

theorem State.xferGone_keeps {s0 s : State} {o : OnCore} {off : Nat} (hK : Keeps pm pi pf pk s0 s) :
    Keeps pm pi pf pk s0 (State.xferGone s o off) := by
  unfold State.xferGone
  repeat' (first
    | (with_reducible first
      | assumption | apply Keeps.ite | apply State.setRank_keeps | apply State.replayPass_keeps | apply State.coreSync_keeps
      | apply State.endCheck_keeps | apply State.runSync_keeps | apply State.coreNext_keeps)
    | extract_lets | exact id | exact Nat.le_refl _ | split | (intro q; simpa [updAt] using q)
    | (intro q; exact (List.length_modify ..).trans q) | (intro q; exact (List.length_set ..).trans q))

theorem State.askTicket_keeps {s0 s : State} {k : Nat} {a : Access} {len : Nat} {store : Bool} (hK : Keeps pm pi pf pk s0 s) :
    Keeps pm pi pf pk s0 (State.askTicket s k a len store).2 := by
  unfold State.askTicket
  repeat' (first
    | (with_reducible first
      | assumption | apply Keeps.ite | apply Keeps.ite2 | apply State.remoteAsk_keeps | apply State.ticketRequest_keeps)
    | extract_lets | exact id | exact Nat.le_refl _ | split | (intro q; simpa [updAt] using q)
    | (intro q; exact (List.length_modify ..).trans q) | (intro q; exact (List.length_set ..).trans q))

theorem State.storeIssue_keeps {s0 a_4 : State} {env : CoreEnv} {a_1 : OnCore} {a_2 : Nat} {a_3 : Nat} (hK : Keeps pm pi pf pk s0 a_4) :
    Keeps pm pi pf pk s0 (State.storeIssue env a_1 a_2 a_3 a_4).2 := by
  unfold State.storeIssue
  extract_lets c g e s1 count add
  clear_value g
  repeat' (first
    | (with_reducible first
      | assumption | apply Keeps.ite | apply Keeps.ite2 | apply State.tmEcc_keeps | apply State.setRank_keeps
      | apply State.askTicket_keeps | apply State.ferryErr_keeps)
    | extract_lets | exact id | exact Nat.le_refl _ | split | (intro q; simpa [updAt] using q)
    | (intro q; exact (List.length_modify ..).trans q) | (intro q; exact (List.length_set ..).trans q))

theorem State.storeDone_keeps {s0 s : State} {o : OnCore} {x : Xfer} (hK : Keeps pm pi pf pk s0 s) :
    Keeps pm pi pf pk s0 (State.storeDone s o x) := by
  unfold State.storeDone
  repeat' (first
    | (with_reducible first
      | assumption | apply Keeps.ite | apply State.ferryBytes_keeps | apply State.returnTickets_keeps
      | apply State.setRank_keeps | apply State.xferGone_keeps)
    | extract_lets | exact id | exact Nat.le_refl _ | split | (intro q; simpa [updAt] using q)
    | (intro q; exact (List.length_modify ..).trans q) | (intro q; exact (List.length_set ..).trans q))

theorem State.storeFail_keeps {s0 s : State} {o : OnCore} {x : Xfer} (hK : Keeps pm pi pf pk s0 s) :
    Keeps pm pi pf pk s0 (State.storeFail s o x) := by
  unfold State.storeFail
  repeat' (first
    | (with_reducible first
      | assumption | apply Keeps.ite | apply State.returnTickets_keeps | apply State.xferGone_keeps
      | apply State.ferryErr_keeps | apply State.coreFault_keeps)
    | extract_lets | exact id | exact Nat.le_refl _ | split | (intro q; simpa [updAt] using q)
    | (intro q; exact (List.length_modify ..).trans q) | (intro q; exact (List.length_set ..).trans q))

theorem State.storeEnd_keeps {s0 s : State} {o : OnCore} {x : Xfer} (hK : Keeps pm pi pf pk s0 s) :
    Keeps pm pi pf pk s0 (State.storeEnd s o x) := by
  unfold State.storeEnd
  repeat' (first
    | (with_reducible first
      | assumption | apply Keeps.ite | apply State.storeDone_keeps | apply State.setRank_keeps | apply State.storeFail_keeps
      | apply State.dropAcks_keeps)
    | extract_lets | exact id | exact Nat.le_refl _ | split | (intro q; simpa [updAt] using q)
    | (intro q; exact (List.length_modify ..).trans q) | (intro q; exact (List.length_set ..).trans q))

theorem State.storeAsked_keeps {s0 s : State} {o : OnCore} {x : Xfer} {k : Nat} {r : Asked} (hK : Keeps pm pi pf pk s0 s) :
    Keeps pm pi pf pk s0 (State.storeAsked s o x k r) := by
  unfold State.storeAsked
  repeat' (first
    | (with_reducible first
      | assumption | apply Keeps.ite | apply State.setRank_keeps | apply State.xferGone_keeps
      | apply State.returnTickets_keeps | apply State.coreFault_keeps | apply State.ferryErr_keeps)
    | extract_lets | exact id | exact Nat.le_refl _ | split | (intro q; simpa [updAt] using q)
    | (intro q; exact (List.length_modify ..).trans q) | (intro q; exact (List.length_set ..).trans q))

theorem State.coreRetry_keeps {s0 s : State} {c : Nat} (hK : Keeps pm pi pf pk s0 s) :
    Keeps pm pi pf pk s0 (State.coreRetry s c) := by
  unfold State.coreRetry
  repeat' (first
    | (with_reducible first
      | assumption | apply Keeps.ite | refine Keeps.each (fun _ _ _ => ?_) ?_ | apply State.askTicket_keeps
      | apply State.storeAsked_keeps)
    | extract_lets | exact id | exact Nat.le_refl _ | split | (intro q; simpa [updAt] using q)
    | (intro q; exact (List.length_modify ..).trans q) | (intro q; exact (List.length_set ..).trans q))

theorem State.coreWaitExpired_keeps {s0 s : State} {c : Nat} (hK : Keeps pm pi pf pk s0 s) :
    Keeps pm pi pf pk s0 (State.coreWaitExpired s c) := by
  unfold State.coreWaitExpired
  repeat' (first
    | (with_reducible first
      | assumption | apply Keeps.ite | apply State.xferGone_keeps | apply State.ferryErr_keeps | apply State.coreFault_keeps)
    | extract_lets | exact id | exact Nat.le_refl _ | split | (intro q; simpa [updAt] using q)
    | (intro q; exact (List.length_modify ..).trans q) | (intro q; exact (List.length_set ..).trans q))

theorem Got.bind_ok {α β : Type} {g : Got α} {k : α → β} {f : β} (h : (g.bind fun x => .ok (k x)) = .ok f) : ∃ x, f = k x := by
  cases g with
  | ok x => exact ⟨x, (Got.ok.inj h).symm⟩
  | wait => cases h
  | fault c => cases h

theorem State.mma_keeps {s0 s : State} {env : CoreEnv} {o : OnCore} {off cmd : Nat} (hK : Keeps pm pi pf pk s0 s) :
    Keeps pm pi pf pk s0 (State.mma env o off cmd s).2 := by
  unfold State.mma
  refine State.withEcc_keeps (fun f hf u hu => ?_) hK
  obtain ⟨x, rfl⟩ := Got.bind_ok hf
  exact State.addWrap_keeps (State.setCore_keeps hu)

theorem State.drainWrite_keeps {s0 s : State} {c : Nat} {rows : List (Option Nat)} {e : Epilogue} {b : Bank} (hK : Keeps pm false pf pk s0 s) :
    Keeps pm false pf pk s0 (State.drainWrite s c rows e b) := by
  unfold State.drainWrite
  repeat' (first
    | (with_reducible first
      | assumption | apply Keeps.ite | refine Keeps.each (fun _ _ _ => ?_) ?_ | apply State.setIbytes_keeps)
    | extract_lets | exact id | exact Nat.le_refl _ | split | (intro q; simpa [updAt] using q)
    | (intro q; exact (List.length_modify ..).trans q) | (intro q; exact (List.length_set ..).trans q)
    | (intro q; exact (List.length_map ..).trans q))

theorem State.probeCount_keeps {s0 s : State} {c : Nat} {fails : Bool} (hK : Keeps pm pi pf pk s0 s) :
    Keeps pm pi pf pk s0 (State.probeCount s c fails) := by
  unfold State.probeCount
  repeat' (first
    | (with_reducible first
      | assumption | apply Keeps.ite | apply State.incWrap_keeps | apply State.setCore_keeps | apply State.withdraw_keeps
      | apply State.infEntry_keeps | apply State.setLatent_keeps)
    | extract_lets | exact id | exact Nat.le_refl _ | split | (intro q; simpa [updAt] using q)
    | (intro q; exact (List.length_modify ..).trans q) | (intro q; exact (List.length_set ..).trans q))

theorem State.drainFlip_keeps {s0 s : State} {o : OnCore} {b : Nat} {env : CoreEnv} (hK : Keeps pm pi pf pk s0 s) :
    Keeps pm pi pf pk s0 (State.drainFlip s o b env).2.2 := by
  unfold State.drainFlip
  repeat' (first
    | (with_reducible first
      | assumption | apply KeepsO.ite | apply Keeps.ite | refine KeepsS.getD ?_ ?_ | apply State.injected_keeps
      | apply KeepsO.some | exact KeepsO.none | apply KeepsS.some | exact KeepsS.none)
    | extract_lets | exact id | exact Nat.le_refl _ | split | (intro q; simpa [updAt] using q)
    | (intro q; exact (List.length_modify ..).trans q) | (intro q; exact (List.length_set ..).trans q))

theorem State.replayStart_keeps {s0 s : State} {o : OnCore} {off : Nat} {bank : Nat} {b : Bank} {f : Nat × Nat × Nat} {forced : Option (Nat × Nat)} (hK : Keeps pm pi pf pk s0 s) :
    Keeps pm pi pf pk s0 (State.replayStart s o off bank b f forced) := by
  unfold State.replayStart
  repeat' (first
    | (with_reducible first
      | assumption | apply Keeps.ite | apply State.wr_keeps | apply State.putBit_keeps | apply State.setRank_keeps
      | apply State.coreSync_keeps | apply State.replayPass_keeps)
    | extract_lets | exact id | exact Nat.le_refl _ | split | (intro q; simpa [updAt] using q)
    | (intro q; exact (List.length_modify ..).trans q) | (intro q; exact (List.length_set ..).trans q))

theorem State.replayEnd_keeps {s0 s : State} {o : OnCore} {r : Replay} {cls : Nat} {tests : Nat} {equal : Bool} (hK : Keeps pm pi pf pk s0 s) :
    Keeps pm pi pf pk s0 (State.replayEnd s o r cls tests equal) := by
  unfold State.replayEnd
  repeat' (first
    | (with_reducible first
      | assumption | apply Keeps.ite | apply State.wr_keeps | apply State.cnt_keeps | apply State.putF_keeps
      | apply State.putBit_keeps | apply State.infEntry_keeps | apply State.evt_keeps | apply State.setRank_keeps
      | apply State.coreSync_keeps | apply State.setJob_keeps)
    | extract_lets | exact id | exact Nat.le_refl _ | split | (intro q; simpa [updAt] using q)
    | (intro q; exact (List.length_modify ..).trans q) | (intro q; exact (List.length_set ..).trans q))

theorem State.checkPathFault_keeps {s0 s : State} {c : Nat} (hK : Keeps pm pi pf pk s0 s) :
    Keeps pm pi pf pk s0 (State.checkPathFault s c) := by
  unfold State.checkPathFault
  repeat' (first
    | (with_reducible first
      | assumption | apply Keeps.ite | apply State.setLatent_keeps | apply State.cnt_keeps | apply State.incSat_keeps
      | apply State.withdraw_keeps)
    | extract_lets | exact id | exact Nat.le_refl _ | split | (intro q; simpa [updAt] using q)
    | (intro q; exact (List.length_modify ..).trans q) | (intro q; exact (List.length_set ..).trans q))

theorem State.discard_keeps {s0 s : State} {o : OnCore} {r : Replay} {off : Nat} {cls : Nat} {tests : Nat} {equal : Bool} (hK : Keeps pm pi pf pk s0 s) :
    Keeps pm pi pf pk s0 (State.discard s o r off cls tests equal) := by
  unfold State.discard
  repeat' (first
    | (with_reducible first
      | assumption | apply Keeps.ite | apply State.coreFault_keeps | apply State.replayEnd_keeps
      | apply State.leaveService_keeps)
    | extract_lets | exact id | exact Nat.le_refl _ | split | (intro q; simpa [updAt] using q)
    | (intro q; exact (List.length_modify ..).trans q) | (intro q; exact (List.length_set ..).trans q))

theorem State.drain_keeps {s0 a_4 : State} {env : CoreEnv} {a_1 : OnCore} {a_2 : Nat} {a_3 : Nat} (hK : Keeps pm false pf pk s0 a_4) :
    Keeps pm false pf pk s0 (State.drain env a_1 a_2 a_3 a_4).2 := by
  unfold State.drain
  repeat' (first
    | (with_reducible first
      | assumption | apply Keeps.ite | apply Keeps.ite2 | apply State.tmEcc_keeps | apply State.drainFlip_keeps
      | apply State.probeCount_keeps | apply State.drainWrite_keeps | apply State.replayStart_keeps
      | apply State.discard_keeps | apply State.checkPathFault_keeps | apply State.replayEnd_keeps)
    | extract_lets | exact id | exact Nat.le_refl _ | split | (intro q; simpa [updAt] using q)
    | (intro q; exact (List.length_modify ..).trans q) | (intro q; exact (List.length_set ..).trans q))

end Sys2Proof.Machine
end

