-- ==== Sys2Proof/Laws/KeepsWseq.lean ====
section
/-! SUPPORT. What the operations of Machine/Wseq.lean keep. -/

set_option linter.all false

namespace Sys2Proof.Machine

variable {pm pi pf pk : Bool}

theorem State.setThr_keeps {s0 s : State} {h : Nat} {f : Thread → Thread} (hK : Keeps pm pi pf pk s0 s) :
    Keeps pm pi pf pk s0 (State.setThr s h f) := by
  unfold State.setThr
  repeat' (first
    | (with_reducible first
      | assumption | apply Keeps.ite)
    | extract_lets | exact id | exact Nat.le_refl _ | split | apply Keeps.with_wseq | (intro q; simpa [updAt] using q)
    | (intro q; exact (List.length_modify ..).trans q) | (intro q; exact (List.length_set ..).trans q))

theorem State.setChan_keeps {s0 s : State} {j : Nat} {f : Chan → Chan} (hK : Keeps pm pi pf pk s0 s) :
    Keeps pm pi pf pk s0 (State.setChan s j f) := by
  unfold State.setChan
  repeat' (first
    | (with_reducible first
      | assumption | apply Keeps.ite)
    | extract_lets | exact id | exact Nat.le_refl _ | split | apply Keeps.with_wseq | (intro q; simpa [updAt] using q)
    | (intro q; exact (List.length_modify ..).trans q) | (intro q; exact (List.length_set ..).trans q))

theorem State.setLane_keeps {s0 s : State} {l : Nat} {f : Lane → Lane} (hK : Keeps pm pi pf pk s0 s) :
    Keeps pm pi pf pk s0 (State.setLane s l f) := by
  unfold State.setLane
  repeat' (first
    | (with_reducible first
      | assumption | apply Keeps.ite)
    | extract_lets | exact id | exact Nat.le_refl _ | split | apply Keeps.with_wseq | (intro q; simpa [updAt] using q)
    | (intro q; exact (List.length_modify ..).trans q) | (intro q; exact (List.length_set ..).trans q))

theorem State.wseqEcc_keeps {s0 s : State} {a : Nat} {env : Nat} {chime : Bool} (hK : Keeps pm pi pf pk s0 s) :
    Keeps pm pi pf pk s0 (State.wseqEcc s a env chime).2 := by
  unfold State.wseqEcc
  repeat' (first
    | (with_reducible first
      | assumption | apply Keeps.ite | apply Keeps.ite2 | apply State.injected_keeps | apply State.cnt_keeps
      | apply State.evt_keeps | apply State.emit_keeps)
    | extract_lets | exact id | exact Nat.le_refl _ | split | (intro q; simpa [updAt] using q)
    | (intro q; exact (List.length_modify ..).trans q) | (intro q; exact (List.length_set ..).trans q))

theorem State.setThrState_keeps {s0 s : State} {h : Nat} {v : Nat} (hK : Keeps pm pi pf pk s0 s) :
    Keeps pm pi pf pk s0 (State.setThrState s h v) := by
  unfold State.setThrState
  repeat' (first
    | (with_reducible first
      | assumption | apply Keeps.ite | apply State.putF_keeps)
    | extract_lets | exact id | exact Nat.le_refl _ | split | (intro q; simpa [updAt] using q)
    | (intro q; exact (List.length_modify ..).trans q) | (intro q; exact (List.length_set ..).trans q))

theorem State.setPc_keeps {s0 s : State} {h : Nat} {v : Nat} (hK : Keeps pm pi pf pk s0 s) :
    Keeps pm pi pf pk s0 (State.setPc s h v) := by
  unfold State.setPc
  repeat' (first
    | (with_reducible first
      | assumption | apply Keeps.ite | apply State.wr_keeps)
    | extract_lets | exact id | exact Nat.le_refl _ | split | (intro q; simpa [updAt] using q)
    | (intro q; exact (List.length_modify ..).trans q) | (intro q; exact (List.length_set ..).trans q))

theorem State.thrDepth_keeps {s0 s : State} {h : Nat} (hK : Keeps pm pi pf pk s0 s) :
    Keeps pm pi pf pk s0 (State.thrDepth s h) := by
  unfold State.thrDepth
  repeat' (first
    | (with_reducible first
      | assumption | apply Keeps.ite | apply State.putF_keeps)
    | extract_lets | exact id | exact Nat.le_refl _ | split | (intro q; simpa [updAt] using q)
    | (intro q; exact (List.length_modify ..).trans q) | (intro q; exact (List.length_set ..).trans q))

theorem State.thrStop_keeps {s0 s : State} {h : Nat} {st : Nat} (hK : Keeps pm pi pf pk s0 s) :
    Keeps pm pi pf pk s0 (State.thrStop s h st) := by
  unfold State.thrStop
  repeat' (first
    | (with_reducible first
      | assumption | apply Keeps.ite | apply State.setThr_keeps | apply State.setThrState_keeps | apply State.putBit_keeps)
    | extract_lets | exact id | exact Nat.le_refl _ | split | (intro q; simpa [updAt] using q)
    | (intro q; exact (List.length_modify ..).trans q) | (intro q; exact (List.length_set ..).trans q))

theorem State.thrFault_keeps {s0 s : State} {h : Nat} {code : Nat} (hK : Keeps pm pi pf pk s0 s) :
    Keeps pm pi pf pk s0 (State.thrFault s h code) := by
  unfold State.thrFault
  repeat' (first
    | (with_reducible first
      | assumption | apply Keeps.ite | apply State.evt_keeps | apply State.putF_keeps | apply State.thrStop_keeps)
    | extract_lets | exact id | exact Nat.le_refl _ | split | (intro q; simpa [updAt] using q)
    | (intro q; exact (List.length_modify ..).trans q) | (intro q; exact (List.length_set ..).trans q))

theorem State.thrRun_keeps {s0 s : State} {h : Nat} (hK : Keeps pm pi pf pk s0 s) :
    Keeps pm pi pf pk s0 (State.thrRun s h) := by
  unfold State.thrRun
  repeat' (first
    | (with_reducible first
      | assumption | apply Keeps.ite | apply State.setThr_keeps | apply State.thrDepth_keeps | apply State.setThrState_keeps
      | apply State.putF_keeps | apply State.putBit_keeps)
    | extract_lets | exact id | exact Nat.le_refl _ | split | (intro q; simpa [updAt] using q)
    | (intro q; exact (List.length_modify ..).trans q) | (intro q; exact (List.length_set ..).trans q))

theorem State.writeThrCtl_keeps {s0 s : State} {h : Nat} {v : Nat} (hK : Keeps pm pi pf pk s0 s) :
    Keeps pm pi pf pk s0 (State.writeThrCtl s h v) := by
  unfold State.writeThrCtl
  repeat' (first
    | (with_reducible first
      | assumption | apply Keeps.ite | apply State.thrRun_keeps | apply State.thrStop_keeps)
    | extract_lets | exact id | exact Nat.le_refl _ | split | (intro q; simpa [updAt] using q)
    | (intro q; exact (List.length_modify ..).trans q) | (intro q; exact (List.length_set ..).trans q))

theorem State.thrInstr_keeps {s0 s : State} {h : Nat} {t : Nat} {ecc : Nat} {sel : Nat → Bool} {eff : State → Nat → State} (h_eff : ∀ u x1, Keeps pm pi pf pk s0 u → Keeps pm pi pf pk s0 (eff u x1)) (hK : Keeps pm pi pf pk s0 s) :
    Keeps pm pi pf pk s0 (State.thrInstr s h t ecc sel eff) := by
  unfold State.thrInstr
  repeat' (first
    | (with_reducible first
      | assumption | apply Keeps.ite | apply State.tickTo_keeps | apply State.wseqEcc_keeps
      | apply State.thrFault_keeps | apply h_eff)
    | extract_lets | exact id | exact Nat.le_refl _ | split | (intro q; simpa [updAt] using q)
    | (intro q; exact (List.length_modify ..).trans q) | (intro q; exact (List.length_set ..).trans q)
    | (intro q; exact (List.length_map ..).trans q))

theorem State.thrWord_keeps {s0 s : State} {h : Nat} {t : Nat} {ecc : Nat} (hK : Keeps pm pi pf pk s0 s) :
    KeepsO pm pi pf pk s0 (State.thrWord s h t ecc) := by
  unfold State.thrWord
  repeat' (first
    | (with_reducible first
      | assumption | apply KeepsO.ite | apply Keeps.ite | refine KeepsS.getD ?_ ?_ | apply State.tickTo_keeps
      | apply State.wseqEcc_keeps | apply KeepsO.some | exact KeepsO.none | apply KeepsS.some | exact KeepsS.none)
    | extract_lets | exact id | exact Nat.le_refl _ | split | (intro q; simpa [updAt] using q)
    | (intro q; exact (List.length_modify ..).trans q) | (intro q; exact (List.length_set ..).trans q))

theorem State.thrNext_keeps {s0 s : State} {h : Nat} (hK : Keeps pm pi pf pk s0 s) :
    Keeps pm pi pf pk s0 (State.thrNext s h) := by
  unfold State.thrNext
  repeat' (first
    | (with_reducible first
      | assumption | apply Keeps.ite | apply State.setPc_keeps | apply State.setThrState_keeps)
    | extract_lets | exact id | exact Nat.le_refl _ | split | (intro q; simpa [updAt] using q)
    | (intro q; exact (List.length_modify ..).trans q) | (intro q; exact (List.length_set ..).trans q))

theorem State.thrBegin_keeps {s0 s : State} {h : Nat} {p : Play} {ends : Rat} {at' : Rat} {org : Option Rat} {cross : Bool} (hK : Keeps pm pi pf pk s0 s) :
    Keeps pm pi pf pk s0 (State.thrBegin s h p ends at' org cross) := by
  unfold State.thrBegin
  repeat' (first
    | (with_reducible first
      | assumption | apply Keeps.ite | apply State.setThr_keeps)
    | extract_lets | exact id | exact Nat.le_refl _ | split | (intro q; simpa [updAt] using q)
    | (intro q; exact (List.length_modify ..).trans q) | (intro q; exact (List.length_set ..).trans q)
    | (intro q; exact (List.length_map ..).trans q))

theorem State.thrBound_keeps {s0 s : State} {h : Nat} (hK : Keeps pm pi pf pk s0 s) :
    Keeps pm pi pf pk s0 (State.thrBound s h) := by
  unfold State.thrBound
  repeat' (first
    | (with_reducible first
      | assumption | apply Keeps.ite | apply State.setThr_keeps)
    | extract_lets | exact id | exact Nat.le_refl _ | split | (intro q; simpa [updAt] using q)
    | (intro q; exact (List.length_modify ..).trans q) | (intro q; exact (List.length_set ..).trans q))

theorem State.thrPlay_keeps {s0 s : State} {h : Nat} {w : Nat} {line : Option Nat} (hK : Keeps pm pi pf pk s0 s) :
    Keeps pm pi pf pk s0 (State.thrPlay s h w line) := by
  unfold State.thrPlay
  repeat' (first
    | (with_reducible first
      | assumption | apply Keeps.ite | apply State.setThrState_keeps | apply State.thrFault_keeps
      | apply State.thrBegin_keeps | apply State.thrBound_keeps | apply State.setThr_keeps | apply State.thrNext_keeps)
    | extract_lets | exact id | exact Nat.le_refl _ | split | (intro q; simpa [updAt] using q)
    | (intro q; exact (List.length_modify ..).trans q) | (intro q; exact (List.length_set ..).trans q)
    | (intro q; exact (List.length_map ..).trans q))

theorem State.lineThread_keeps {s0 s : State} {l : Nat} {p : Nat} {h : Nat} (hK : Keeps pm pi pf pk s0 s) :
    Keeps pm pi pf pk s0 (State.lineThread s l p h) := by
  unfold State.lineThread
  repeat' (first
    | (with_reducible first
      | assumption | apply Keeps.ite | apply State.thrBegin_keeps | apply State.thrBound_keeps
      | apply State.setThr_keeps | apply State.thrNext_keeps)
    | extract_lets | exact id | exact Nat.le_refl _ | split | (intro q; simpa [updAt] using q)
    | (intro q; exact (List.length_modify ..).trans q) | (intro q; exact (List.length_set ..).trans q)
    | (intro q; exact (List.length_map ..).trans q))

theorem State.linePulse_keeps {s0 s : State} {l : Nat} {p : Nat} (hK : Keeps pm pi pf pk s0 s) :
    Keeps pm pi pf pk s0 (State.linePulse s l p) := by
  unfold State.linePulse
  repeat' (first
    | (with_reducible first
      | assumption | apply Keeps.ite | apply State.cnt_keeps | refine Keeps.each (fun _ _ _ => ?_) ?_
      | apply State.lineThread_keeps)
    | extract_lets | exact id | exact Nat.le_refl _ | split | (intro q; simpa [updAt] using q)
    | (intro q; exact (List.length_modify ..).trans q) | (intro q; exact (List.length_set ..).trans q))

theorem State.netPulse_keeps {s0 s : State} {kind : Nat} {i : Nat} {t : Nat} (hK : Keeps pm pi pf pk s0 s) :
    Keeps pm pi pf pk s0 (State.netPulse s kind i t) := by
  unfold State.netPulse
  repeat' (first
    | (with_reducible first
      | assumption | apply Keeps.ite | refine Keeps.each (fun _ _ _ => ?_) ?_)
    | extract_lets | exact id | exact Nat.le_refl _ | split | apply Keeps.with_wseq | (intro q; simpa [updAt] using q)
    | (intro q; exact (List.length_modify ..).trans q) | (intro q; exact (List.length_set ..).trans q))

theorem State.alarmLine_keeps {s0 s : State} {l : Nat} (hK : Keeps pm pi pf pk s0 s) :
    Keeps pm pi pf pk s0 (State.alarmLine s l) := by
  unfold State.alarmLine
  repeat' (first
    | (with_reducible first
      | assumption | apply Keeps.ite)
    | extract_lets | exact id | exact Nat.le_refl _ | split | apply Keeps.with_wseq | (intro q; simpa [updAt] using q)
    | (intro q; exact (List.length_modify ..).trans q) | (intro q; exact (List.length_set ..).trans q))

theorem State.laneDue_keeps {s0 s : State} {l : Nat} (hK : Keeps pm pi pf pk s0 s) :
    Keeps pm pi pf pk s0 (State.laneDue s l) := by
  unfold State.laneDue
  repeat' (first
    | (with_reducible first
      | assumption | apply Keeps.ite | apply State.setLane_keeps)
    | extract_lets | exact id | exact Nat.le_refl _ | split | (intro q; simpa [updAt] using q)
    | (intro q; exact (List.length_modify ..).trans q) | (intro q; exact (List.length_set ..).trans q)
    | (intro q; exact (List.length_map ..).trans q))

theorem State.chanSync_keeps {s0 s : State} {j : Nat} (hK : Keeps pm pi pf pk s0 s) :
    Keeps pm pi pf pk s0 (State.chanSync s j) := by
  unfold State.chanSync
  repeat' (first
    | (with_reducible first
      | assumption | apply Keeps.ite | apply State.setChan_keeps | apply State.putBit_keeps)
    | extract_lets | exact id | exact Nat.le_refl _ | split | (intro q; simpa [updAt] using q)
    | (intro q; exact (List.length_modify ..).trans q) | (intro q; exact (List.length_set ..).trans q))

theorem State.chansSync_keeps {s0 s : State} (hK : Keeps pm pi pf pk s0 s) :
    Keeps pm pi pf pk s0 (State.chansSync s) := by
  unfold State.chansSync
  repeat' (first
    | (with_reducible first
      | assumption | apply Keeps.ite | refine Keeps.each (fun _ _ _ => ?_) ?_ | apply State.chanSync_keeps)
    | extract_lets | exact id | exact Nat.le_refl _ | split | (intro q; simpa [updAt] using q)
    | (intro q; exact (List.length_modify ..).trans q) | (intro q; exact (List.length_set ..).trans q))

theorem State.lanesDue_keeps {s0 s : State} (hK : Keeps pm pi pf pk s0 s) :
    Keeps pm pi pf pk s0 (State.lanesDue s) := by
  unfold State.lanesDue
  repeat' (first
    | (with_reducible first
      | assumption | apply Keeps.ite | apply State.chansSync_keeps | refine Keeps.each (fun _ _ _ => ?_) ?_
      | apply State.laneDue_keeps)
    | extract_lets | exact id | exact Nat.le_refl _ | split | (intro q; simpa [updAt] using q)
    | (intro q; exact (List.length_modify ..).trans q) | (intro q; exact (List.length_set ..).trans q)
    | (intro q; exact (List.length_map ..).trans q))

theorem State.gateReleased_keeps {s0 s : State} {j : Nat} {ramp : Bool} (hK : Keeps pm pi pf pk s0 s) :
    Keeps pm pi pf pk s0 (State.gateReleased s j ramp) := by
  unfold State.gateReleased
  repeat' (first
    | (with_reducible first
      | assumption | apply Keeps.ite | apply State.chanSync_keeps | apply State.setChan_keeps)
    | extract_lets | exact id | exact Nat.le_refl _ | split | (intro q; simpa [updAt] using q)
    | (intro q; exact (List.length_modify ..).trans q) | (intro q; exact (List.length_set ..).trans q)
    | (intro q; exact (List.length_map ..).trans q))

theorem State.gainWritten_keeps {s0 s : State} {j : Nat} (hK : Keeps pm pi pf pk s0 s) :
    Keeps pm pi pf pk s0 (State.gainWritten s j) := by
  unfold State.gainWritten
  repeat' (first
    | (with_reducible first
      | assumption | apply Keeps.ite | apply State.setChan_keeps)
    | extract_lets | exact id | exact Nat.le_refl _ | split | (intro q; simpa [updAt] using q)
    | (intro q; exact (List.length_modify ..).trans q) | (intro q; exact (List.length_set ..).trans q))

theorem State.aleLate_keeps {s0 s : State} {j : Nat} {t : Nat} (hK : Keeps pm pi pf pk s0 s) :
    Keeps pm pi pf pk s0 (State.aleLate s j t) := by
  unfold State.aleLate
  repeat' (first
    | (with_reducible first
      | assumption | apply Keeps.ite | apply State.evt_keeps | apply State.addSat_keeps | apply State.setChan_keeps)
    | extract_lets | exact id | exact Nat.le_refl _ | split | (intro q; simpa [updAt] using q)
    | (intro q; exact (List.length_modify ..).trans q) | (intro q; exact (List.length_set ..).trans q))

theorem State.angFade_keeps {s0 s : State} {j : Nat} {t : Nat} (hK : Keeps pm pi pf pk s0 s) :
    Keeps pm pi pf pk s0 (State.angFade s j t) := by
  unfold State.angFade
  repeat' (first
    | (with_reducible first
      | assumption | apply Keeps.ite | apply State.putBit_keeps | apply State.setChan_keeps)
    | extract_lets | exact id | exact Nat.le_refl _ | split | (intro q; simpa [updAt] using q)
    | (intro q; exact (List.length_modify ..).trans q) | (intro q; exact (List.length_set ..).trans q))

theorem State.playFades_keeps {s0 s : State} {t : Nat} (hK : Keeps pm pi pf pk s0 s) :
    Keeps pm pi pf pk s0 (State.playFades s t) := by
  unfold State.playFades
  repeat' (first
    | (with_reducible first
      | assumption | apply Keeps.ite)
    | extract_lets | exact id | exact Nat.le_refl _ | split | apply Keeps.with_wseq | (intro q; simpa [updAt] using q)
    | (intro q; exact (List.length_modify ..).trans q) | (intro q; exact (List.length_set ..).trans q))

theorem State.chanBoundary_keeps {s0 s : State} {j : Nat} (hK : Keeps pm pi pf pk s0 s) :
    Keeps pm pi pf pk s0 (State.chanBoundary s j) := by
  unfold State.chanBoundary
  repeat' (first
    | (with_reducible first
      | assumption | apply Keeps.ite | apply State.setChan_keeps)
    | extract_lets | exact id | exact Nat.le_refl _ | split | (intro q; simpa [updAt] using q)
    | (intro q; exact (List.length_modify ..).trans q) | (intro q; exact (List.length_set ..).trans q))

theorem State.pcmCycle_keeps {s0 s : State} {j : Nat} {t : Nat} {bad : Option Nat} (hK : Keeps pm pi pf pk s0 s) :
    Keeps pm pi pf pk s0 (State.pcmCycle s j t bad) := by
  unfold State.pcmCycle
  repeat' (first
    | (with_reducible first
      | assumption | apply Keeps.ite | apply State.angFade_keeps | apply State.aleLate_keeps
      | apply State.chanBoundary_keeps | apply State.playFades_keeps | apply State.putBit_keeps
      | apply State.setChan_keeps)
    | extract_lets | exact id | exact Nat.le_refl _ | split | (intro q; simpa [updAt] using q)
    | (intro q; exact (List.length_modify ..).trans q) | (intro q; exact (List.length_set ..).trans q)
    | (intro q; exact (List.length_map ..).trans q))

theorem State.edgeDrive_keeps {s0 s : State} {h : Nat} {k : Nat} {data : Nat} (hK : Keeps pm pi pf pk s0 s) :
    Keeps pm pi pf pk s0 (State.edgeDrive s h k data) := by
  unfold State.edgeDrive
  repeat' (first
    | (with_reducible first
      | assumption | apply Keeps.ite | refine Keeps.each (fun _ _ _ => ?_) ?_ | apply State.chanBoundary_keeps
      | apply State.setChan_keeps | apply State.putBit_keeps)
    | extract_lets | exact id | exact Nat.le_refl _ | split | (intro q; simpa [updAt] using q)
    | (intro q; exact (List.length_modify ..).trans q) | (intro q; exact (List.length_set ..).trans q))

theorem State.edgeCycle_keeps {s0 s : State} {h : Nat} (hK : Keeps pm pi pf pk s0 s) :
    Keeps pm pi pf pk s0 (State.edgeCycle s h) := by
  unfold State.edgeCycle
  repeat' (first
    | (with_reducible first
      | assumption | apply Keeps.ite | refine Keeps.each (fun _ _ _ => ?_) ?_ | apply State.setChan_keeps
      | apply State.chanBoundary_keeps | apply State.setThr_keeps | apply State.edgeDrive_keeps
      | apply State.cnt_keeps)
    | extract_lets | exact id | exact Nat.le_refl _ | split | (intro q; simpa [updAt] using q)
    | (intro q; exact (List.length_modify ..).trans q) | (intro q; exact (List.length_set ..).trans q)
    | (intro q; exact (List.length_map ..).trans q))

theorem State.writeChanCfg_keeps {s0 s : State} {req : Requester} {j : Nat} {v : Nat} (hK : Keeps pm pi pf pk s0 s) :
    Keeps pm pi pf pk s0 (State.writeChanCfg s req j v) := by
  unfold State.writeChanCfg
  repeat' (first
    | (with_reducible first
      | assumption | apply Keeps.ite | apply State.chanSync_keeps | apply State.regStore_keeps | apply State.quiet_keeps)
    | extract_lets | exact id | exact Nat.le_refl _ | split | (intro q; simpa [updAt] using q)
    | (intro q; exact (List.length_modify ..).trans q) | (intro q; exact (List.length_set ..).trans q))

end Sys2Proof.Machine
end

