-- ==== Sys2Proof/Laws/KeepsStrm.lean ====
section
/-! SUPPORT. What the operations of Machine/Strm.lean keep. -/

set_option linter.all false

namespace Sys2Proof.Machine

variable {pm pi pf pk : Bool}

theorem State.wseqWord_keeps {s0 s : State} {a v : Nat} (hK : Keeps pm false pf pk s0 s) : Keeps pm false pf pk s0 (s.wseqWord a v) := by
  unfold State.wseqWord
  extract_lets o
  split
  · split
    · exact hK
    · split
      · exact hK.with_wseq id id id id
      · refine State.setIle_keeps (Keeps.with_wseq ?_ id id id id)
        show Keeps pm false pf pk s0 (match s.wseq.low with
          | some (l, w) => if l + 4 = o then s.setIle (pmemBase + l) 4 w else s
          | none => s)
        split
        · exact Keeps.ite (State.setIle_keeps hK) hK
        · exact hK
  · exact State.setIle_keeps hK

theorem State.memNext_keeps {s0 s : State} (hK : Keeps pm pi pf pk s0 s) :
    Keeps pm pi pf pk s0 (State.memNext s) := by
  unfold State.memNext
  repeat' (first
    | (with_reducible first
      | assumption | apply Keeps.ite | apply State.addWrap_keeps)
    | extract_lets | exact id | exact Nat.le_refl _ | split | (intro q; simpa [updAt] using q)
    | (intro q; exact (List.length_modify ..).trans q) | (intro q; exact (List.length_set ..).trans q))

theorem State.writeMemData_keeps {s0 s : State} {req : Requester} {v : Nat} (hK : Keeps pm false pf pk s0 s) :
    Keeps pm false pf pk s0 (State.writeMemData s req v) := by
  unfold State.writeMemData
  repeat' (first
    | (with_reducible first
      | assumption | apply Keeps.ite | apply State.quiet_keeps | apply State.memNext_keeps | apply State.wseqWord_keeps)
    | extract_lets | exact id | exact Nat.le_refl _ | split | (intro q; simpa [updAt] using q)
    | (intro q; exact (List.length_modify ..).trans q) | (intro q; exact (List.length_set ..).trans q))

theorem State.readMemData_keeps {s0 s : State} {ecc : Nat} (hK : Keeps pm pi pf pk s0 s) :
    Keeps pm pi pf pk s0 (State.readMemData s ecc) := by
  unfold State.readMemData
  repeat' (first
    | (with_reducible first
      | assumption | apply Keeps.ite | apply State.wseqEcc_keeps | apply State.memNext_keeps | apply State.fresh_keeps
      | apply State.respOk_keeps)
    | extract_lets | exact id | exact Nat.le_refl _ | split | (intro q; simpa [updAt] using q)
    | (intro q; exact (List.length_modify ..).trans q) | (intro q; exact (List.length_set ..).trans q))

theorem State.writeLdGo_keeps {s0 s : State} {req : Requester} {v : Nat} (hK : Keeps pm pi pf pk s0 s) :
    Keeps pm pi pf pk s0 (State.writeLdGo s req v) := by
  unfold State.writeLdGo
  repeat' (first
    | (with_reducible first
      | assumption | apply Keeps.ite | apply State.wr_keeps)
    | extract_lets | exact id | exact Nat.le_refl _ | split | apply Keeps.with_wseq | (intro q; simpa [updAt] using q)
    | (intro q; exact (List.length_modify ..).trans q) | (intro q; exact (List.length_set ..).trans q))

theorem State.loadEnd_keeps {s0 s : State} {err : Nat} (hK : Keeps pm pi pf pk s0 s) :
    Keeps pm pi pf pk s0 (State.loadEnd s err) := by
  unfold State.loadEnd
  repeat' (first
    | (with_reducible first
      | assumption | apply Keeps.ite | apply State.evt_keeps | apply State.wr_keeps)
    | extract_lets | exact id | exact Nat.le_refl _ | split | apply Keeps.with_wseq | (intro q; simpa [updAt] using q)
    | (intro q; exact (List.length_modify ..).trans q) | (intro q; exact (List.length_set ..).trans q))

theorem State.setStrm_keeps {s0 s : State} {k : Nat} {f : Stream → Stream} (hK : Keeps pm pi pf pk s0 s) :
    Keeps pm pi pf pk s0 (State.setStrm s k f) := by
  unfold State.setStrm
  repeat' (first
    | (with_reducible first
      | assumption | apply Keeps.ite)
    | extract_lets | exact id | exact Nat.le_refl _ | split | apply Keeps.with_wseq | (intro q; simpa [updAt] using q)
    | (intro q; exact (List.length_modify ..).trans q) | (intro q; exact (List.length_set ..).trans q))

theorem State.underSync_keeps {s0 s : State} {k : Nat} (hK : Keeps pm pi pf pk s0 s) :
    Keeps pm pi pf pk s0 (State.underSync s k) := by
  unfold State.underSync
  repeat' (first
    | (with_reducible first
      | assumption | apply Keeps.ite | refine Keeps.each (fun _ _ _ => ?_) ?_ | apply State.putBit_keeps
      | apply State.setChan_keeps)
    | extract_lets | exact id | exact Nat.le_refl _ | split | (intro q; simpa [updAt] using q)
    | (intro q; exact (List.length_modify ..).trans q) | (intro q; exact (List.length_set ..).trans q))

theorem State.underrun_keeps {s0 s : State} {k : Nat} (hK : Keeps pm pi pf pk s0 s) :
    Keeps pm pi pf pk s0 (State.underrun s k) := by
  unfold State.underrun
  repeat' (first
    | (with_reducible first
      | assumption | apply Keeps.ite | apply State.evt_keeps | apply State.incSat_keeps | apply State.putBit_keeps
      | apply State.underSync_keeps | apply State.setStrm_keeps)
    | extract_lets | exact id | exact Nat.le_refl _ | split | (intro q; simpa [updAt] using q)
    | (intro q; exact (List.length_modify ..).trans q) | (intro q; exact (List.length_set ..).trans q))

theorem State.strmResume_keeps {s0 s : State} {k : Nat} (hK : Keeps pm pi pf pk s0 s) :
    Keeps pm pi pf pk s0 (State.strmResume s k) := by
  unfold State.strmResume
  repeat' (first
    | (with_reducible first
      | assumption | apply Keeps.ite | apply State.putBit_keeps | apply State.underSync_keeps | apply State.setStrm_keeps)
    | extract_lets | exact id | exact Nat.le_refl _ | split | (intro q; simpa [updAt] using q)
    | (intro q; exact (List.length_modify ..).trans q) | (intro q; exact (List.length_set ..).trans q))

theorem State.streamTake_keeps {s0 s : State} {k : Nat} (hK : Keeps pm pi pf pk s0 s) :
    Keeps pm pi pf pk s0 (State.streamTake s k).2 := by
  unfold State.streamTake
  repeat' (first
    | (with_reducible first
      | assumption | apply Keeps.ite | apply Keeps.ite2 | apply State.setStrm_keeps | apply State.underrun_keeps)
    | extract_lets | exact id | exact Nat.le_refl _ | split | (intro q; simpa [updAt] using q)
    | (intro q; exact (List.length_modify ..).trans q) | (intro q; exact (List.length_set ..).trans q))

theorem State.streamFail_keeps {s0 s : State} {k : Nat} (hK : Keeps pm pi pf pk s0 s) :
    Keeps pm pi pf pk s0 (State.streamFail s k) := by
  unfold State.streamFail
  repeat' (first
    | (with_reducible first
      | assumption | apply Keeps.ite | apply State.underrun_keeps | apply State.evt_keeps | apply State.putBit_keeps)
    | extract_lets | exact id | exact Nat.le_refl _ | split | (intro q; simpa [updAt] using q)
    | (intro q; exact (List.length_modify ..).trans q) | (intro q; exact (List.length_set ..).trans q))

theorem State.writeStrmCfg_keeps {s0 s : State} {req : Requester} {k : Nat} {v : Nat} (hK : Keeps pm pi pf pk s0 s) :
    Keeps pm pi pf pk s0 (State.writeStrmCfg s req k v) := by
  unfold State.writeStrmCfg
  repeat' (first
    | (with_reducible first
      | assumption | apply Keeps.ite | apply State.regStore_keeps | apply State.quiet_keeps | apply State.strmResume_keeps
      | apply State.putBit_keeps)
    | extract_lets | exact id | exact Nat.le_refl _ | split | (intro q; simpa [updAt] using q)
    | (intro q; exact (List.length_modify ..).trans q) | (intro q; exact (List.length_set ..).trans q))

theorem State.writeStrmRing_keeps {s0 s : State} {req : Requester} {k : Nat} {a : Nat} {v : Nat} (hK : Keeps pm pi pf pk s0 s) :
    Keeps pm pi pf pk s0 (State.writeStrmRing s req k a v) := by
  unfold State.writeStrmRing
  repeat' (first
    | (with_reducible first
      | assumption | apply Keeps.ite | apply State.quiet_keeps | apply State.regStore_keeps)
    | extract_lets | exact id | exact Nat.le_refl _ | split | (intro q; simpa [updAt] using q)
    | (intro q; exact (List.length_modify ..).trans q) | (intro q; exact (List.length_set ..).trans q))

end Sys2Proof.Machine
end

