-- ==== Sys2Proof/Laws/KeepsAle.lean ====
section
/-! SUPPORT. What the operations of Machine/Ale.lean keep. -/

set_option linter.all false

namespace Sys2Proof.Machine

variable {pm pi pf pk : Bool}

theorem State.setAle_keeps {s0 s : State} {n : Nat} {f : Ale → Ale} (hK : Keeps pm pi pf pk s0 s) :
    Keeps pm pi pf pk s0 (State.setAle s n f) := by
  unfold State.setAle
  repeat' (first
    | (with_reducible first
      | assumption | apply Keeps.ite)
    | extract_lets | exact id | exact Nat.le_refl _ | split | apply Keeps.with_ales | (intro q; simpa [updAt] using q)
    | (intro q; exact (List.length_modify ..).trans q) | (intro q; exact (List.length_set ..).trans q))

theorem State.setAport_keeps {s0 s : State} {p : Nat} {f : Aport → Aport} (hK : Keeps pm pi pf pk s0 s) :
    Keeps pm pi pf pk s0 (State.setAport s p f) := by
  unfold State.setAport
  repeat' (first
    | (with_reducible first
      | assumption | apply Keeps.ite)
    | extract_lets | exact id | exact Nat.le_refl _ | split | apply Keeps.with_aports | (intro q; simpa [updAt] using q)
    | (intro q; exact (List.length_modify ..).trans q) | (intro q; exact (List.length_set ..).trans q))

theorem State.aleState_keeps {s0 s : State} {n : Nat} {v : Nat} (hK : Keeps pm pi pf pk s0 s) :
    Keeps pm pi pf pk s0 (State.aleState s n v) := by
  unfold State.aleState
  repeat' (first
    | (with_reducible first
      | assumption | apply Keeps.ite | apply State.putF_keeps)
    | extract_lets | exact id | exact Nat.le_refl _ | split | (intro q; simpa [updAt] using q)
    | (intro q; exact (List.length_modify ..).trans q) | (intro q; exact (List.length_set ..).trans q))

theorem State.rncSync_keeps {s0 s : State} (hK : Keeps pm pi pf pk s0 s) :
    Keeps pm pi pf pk s0 (State.rncSync s) := by
  unfold State.rncSync
  repeat' (first
    | (with_reducible first
      | assumption | apply Keeps.ite | apply State.funcReady_keeps)
    | extract_lets | exact id | exact Nat.le_refl _ | split | (intro q; simpa [updAt] using q)
    | (intro q; exact (List.length_modify ..).trans q) | (intro q; exact (List.length_set ..).trans q))

theorem State.ringPut_keeps {s0 s : State} {n : Nat} {base : Nat} {log2 : Nat} {k : Nat} {v : Int} (hK : Keeps false pi pf pk s0 s) :
    Keeps false pi pf pk s0 (State.ringPut s n base log2 k v) := by
  unfold State.ringPut
  repeat' (first
    | (with_reducible first
      | assumption | apply Keeps.ite | apply State.fresh_keeps | apply State.setLe_keeps)
    | extract_lets | exact id | exact Nat.le_refl _ | split | (intro q; simpa [updAt] using q)
    | (intro q; exact (List.length_modify ..).trans q) | (intro q; exact (List.length_set ..).trans q))

theorem State.routePut_keeps {s0 s : State} {r : Nat} {k : Nat} {v : Int} (hK : Keeps false pi pf pk s0 s) :
    Keeps false pi pf pk s0 (State.routePut s r k v) := by
  unfold State.routePut
  repeat' (first
    | (with_reducible first
      | assumption | apply Keeps.ite | apply State.ringPut_keeps)
    | extract_lets | exact id | exact Nat.le_refl _ | split | (intro q; simpa [updAt] using q)
    | (intro q; exact (List.length_modify ..).trans q) | (intro q; exact (List.length_set ..).trans q))

theorem State.zeroDeposits_keeps {s0 s : State} {d : Nat} {k : Nat} (hK : Keeps false pi pf pk s0 s) :
    Keeps false pi pf pk s0 (State.zeroDeposits s d k) := by
  unfold State.zeroDeposits
  repeat' (first
    | (with_reducible first
      | assumption | apply Keeps.ite | refine Keeps.each (fun _ _ _ => ?_) ?_ | apply State.routePut_keeps)
    | extract_lets | exact id | exact Nat.le_refl _ | split | (intro q; simpa [updAt] using q)
    | (intro q; exact (List.length_modify ..).trans q) | (intro q; exact (List.length_set ..).trans q))

theorem State.portsReady_keeps {s0 s : State} (hK : Keeps pm pi pf pk s0 s) :
    Keeps pm pi pf pk s0 (State.portsReady s) := by
  unfold State.portsReady
  repeat' (first
    | (with_reducible first
      | assumption | apply Keeps.ite | apply State.funcReady_keeps)
    | extract_lets | exact id | exact Nat.le_refl _ | split | (intro q; simpa [updAt] using q)
    | (intro q; exact (List.length_modify ..).trans q) | (intro q; exact (List.length_set ..).trans q))

theorem State.portSync_keeps {s0 s : State} {p : Nat} (hK : Keeps pm pi pf pk s0 s) :
    Keeps pm pi pf pk s0 (State.portSync s p) := by
  unfold State.portSync
  repeat' (first
    | (with_reducible first
      | assumption | apply Keeps.ite | apply State.portsReady_keeps | apply State.putBit_keeps | apply State.lvl_keeps
      | apply State.setAport_keeps)
    | extract_lets | exact id | exact Nat.le_refl _ | split | (intro q; simpa [updAt] using q)
    | (intro q; exact (List.length_modify ..).trans q) | (intro q; exact (List.length_set ..).trans q))

theorem State.tkBadSync_keeps {s0 s : State} (hK : Keeps pm pi pf pk s0 s) :
    Keeps pm pi pf pk s0 (State.tkBadSync s) := by
  unfold State.tkBadSync
  repeat' (first
    | (with_reducible first
      | assumption | apply Keeps.ite | apply State.lvl_keeps | apply State.putBit_keeps)
    | extract_lets | exact id | exact Nat.le_refl _ | split | (intro q; simpa [updAt] using q)
    | (intro q; exact (List.length_modify ..).trans q) | (intro q; exact (List.length_set ..).trans q))

theorem State.lanePut_keeps {s0 s : State} {j : Nat} {t : Nat} {v : Int} (hK : Keeps pm pi pf pk s0 s) :
    Keeps pm pi pf pk s0 (State.lanePut s j t v) := by
  unfold State.lanePut
  repeat' (first
    | (with_reducible first
      | assumption | apply Keeps.ite | apply State.setChan_keeps)
    | extract_lets | exact id | exact Nat.le_refl _ | split | (intro q; simpa [updAt] using q)
    | (intro q; exact (List.length_modify ..).trans q) | (intro q; exact (List.length_set ..).trans q))

theorem State.laneExpect_keeps {s0 s : State} {j : Nat} {t : Nat} (hK : Keeps pm pi pf pk s0 s) :
    Keeps pm pi pf pk s0 (State.laneExpect s j t) := by
  unfold State.laneExpect
  repeat' (first
    | (with_reducible first
      | assumption | apply Keeps.ite | apply State.setChan_keeps)
    | extract_lets | exact id | exact Nat.le_refl _ | split | (intro q; simpa [updAt] using q)
    | (intro q; exact (List.length_modify ..).trans q) | (intro q; exact (List.length_set ..).trans q))

theorem State.csetSwitch_keeps {s0 s : State} {n : Nat} (hK : Keeps false pi pf pk s0 s) : Keeps false pi pf pk s0 (s.csetSwitch n) := by
  unfold State.csetSwitch
  extract_lets s1
  have h1 : Keeps false pi pf pk s0 s1 := State.setAle_keeps (hK.with_mem swf_swapSets)
  clear_value s1
  repeat' (first
    | (with_reducible first
      | assumption | apply State.rncSync_keeps | apply State.armWindow_keeps | apply State.evt_keeps | apply State.incWrap_keeps
      | apply State.setLe_keeps | apply State.wr_keeps | apply State.putBit_keeps)
    | extract_lets)

theorem State.csetEnable_keeps {s0 s : State} {n : Nat} (hK : Keeps pm pi pf pk s0 s) :
    Keeps pm pi pf pk s0 (State.csetEnable s n) := by
  unfold State.csetEnable
  repeat' (first
    | (with_reducible first
      | assumption | apply Keeps.ite | apply State.wr_keeps | apply State.armWindow_keeps)
    | extract_lets | exact id | exact Nat.le_refl _ | split | (intro q; simpa [updAt] using q)
    | (intro q; exact (List.length_modify ..).trans q) | (intro q; exact (List.length_set ..).trans q))

theorem State.writeCsetCtl_keeps {s0 s : State} {req : Requester} {n : Nat} {v : Nat} (hK : Keeps pm pi pf pk s0 s) :
    Keeps pm pi pf pk s0 (State.writeCsetCtl s req n v) := by
  unfold State.writeCsetCtl
  repeat' (first
    | (with_reducible first
      | assumption | apply Keeps.ite | apply State.putBit_keeps | apply State.regStore_keeps | apply State.csetEnable_keeps
      | apply State.csetLand_keeps)
    | extract_lets | exact id | exact Nat.le_refl _ | split | (intro q; simpa [updAt] using q)
    | (intro q; exact (List.length_modify ..).trans q) | (intro q; exact (List.length_set ..).trans q))

theorem State.senseDeposit_keeps {s0 s : State} {g : Nat} {k : Nat} (hK : Keeps false pi pf pk s0 s) :
    Keeps false pi pf pk s0 (State.senseDeposit s g k) := by
  unfold State.senseDeposit
  repeat' (first
    | (with_reducible first
      | assumption | apply Keeps.ite | refine Keeps.each (fun _ _ _ => ?_) ?_ | apply State.fresh_keeps
      | apply State.ringPut_keeps)
    | extract_lets | exact id | exact Nat.le_refl _ | split | (intro q; simpa [updAt] using q)
    | (intro q; exact (List.length_modify ..).trans q) | (intro q; exact (List.length_set ..).trans q))

theorem State.senseRateSync_keeps {s0 s : State} (hK : Keeps pm pi pf pk s0 s) :
    Keeps pm pi pf pk s0 (State.senseRateSync s) := by
  unfold State.senseRateSync
  repeat' (first
    | (with_reducible first
      | assumption | apply Keeps.ite | apply State.lvl_keeps | apply State.putBit_keeps)
    | extract_lets | exact id | exact Nat.le_refl _ | split | (intro q; simpa [updAt] using q)
    | (intro q; exact (List.length_modify ..).trans q) | (intro q; exact (List.length_set ..).trans q))

theorem State.streamDeposit_keeps {s0 s : State} (hK : Keeps false pi pf pk s0 s) :
    Keeps false pi pf pk s0 (State.streamDeposit s) := by
  unfold State.streamDeposit
  repeat' (first
    | (with_reducible first
      | assumption | apply Keeps.ite | refine Keeps.each (fun _ _ _ => ?_) ?_ | apply State.streamTake_keeps
      | apply State.setLe_keeps)
    | extract_lets | exact id | exact Nat.le_refl _ | split | (intro q; simpa [updAt] using q)
    | (intro q; exact (List.length_modify ..).trans q) | (intro q; exact (List.length_set ..).trans q))

theorem State.sampleTick_keeps {s0 s : State} {d : Nat} (hK : Keeps false pi pf pk s0 s) :
    Keeps false pi pf pk s0 (State.sampleTick s d) := by
  unfold State.sampleTick
  repeat' (first
    | (with_reducible first
      | assumption | apply Keeps.ite | apply State.incWrap_keeps | refine Keeps.each (fun _ _ _ => ?_) ?_
      | apply State.csetSwitch_keeps | apply State.setAle_keeps | apply State.laneExpect_keeps
      | apply State.zeroDeposits_keeps | apply State.lanePut_keeps | apply State.senseDeposit_keeps
      | apply State.senseRateSync_keeps | apply State.streamDeposit_keeps)
    | extract_lets | exact id | exact Nat.le_refl _ | split | apply Keeps.with_ticks | (intro q; simpa [updAt] using q)
    | (intro q; exact (List.length_modify ..).trans q) | (intro q; exact (List.length_set ..).trans q)
    | (intro q; exact (List.length_map ..).trans q))

theorem State.sendLanes_keeps {s0 s : State} {n : Nat} {t : Nat} (hK : Keeps pm pi pf pk s0 s) :
    Keeps pm pi pf pk s0 (State.sendLanes s n t) := by
  unfold State.sendLanes
  repeat' (first
    | (with_reducible first
      | assumption | apply Keeps.ite | refine Keeps.each (fun _ _ _ => ?_) ?_ | apply State.lanePut_keeps)
    | extract_lets | exact id | exact Nat.le_refl _ | split | (intro q; simpa [updAt] using q)
    | (intro q; exact (List.length_modify ..).trans q) | (intro q; exact (List.length_set ..).trans q)
    | (intro q; exact (List.length_map ..).trans q))

theorem State.writeDone_keeps {s0 s : State} {n : Nat} {v : Nat} (hK : Keeps pm pi pf pk s0 s) :
    Keeps pm pi pf pk s0 (State.writeDone s n v) := by
  unfold State.writeDone
  repeat' (first
    | (with_reducible first
      | assumption | apply Keeps.ite | apply State.aleState_keeps | apply State.setAle_keeps | apply State.evt_keeps
      | apply State.cnt_keeps | apply State.sendLanes_keeps | apply State.rncSync_keeps)
    | extract_lets | exact id | exact Nat.le_refl _ | split | (intro q; simpa [updAt] using q)
    | (intro q; exact (List.length_modify ..).trans q) | (intro q; exact (List.length_set ..).trans q))

theorem State.aleFault_keeps {s0 s : State} {n : Nat} {code : Nat} (hK : Keeps pm pi pf pk s0 s) :
    Keeps pm pi pf pk s0 (State.aleFault s n code) := by
  unfold State.aleFault
  repeat' (first
    | (with_reducible first
      | assumption | apply Keeps.ite | apply State.putF_keeps | apply State.aleState_keeps | apply State.putBit_keeps
      | apply State.cnt_keeps | apply State.emit_keeps | apply State.evt_keeps | apply State.setAle_keeps
      | refine Keeps.each (fun _ _ _ => ?_) ?_ | apply State.setChan_keeps | apply State.funcLost_keeps)
    | extract_lets | exact id | exact Nat.le_refl _ | split | (intro q; simpa [updAt] using q)
    | (intro q; exact (List.length_modify ..).trans q) | (intro q; exact (List.length_set ..).trans q))

theorem State.frameSlots_keeps {s0 s : State} {p : Nat} {k : Nat} {rx : List Nat} (hK : Keeps false pi pf pk s0 s) :
    Keeps false pi pf pk s0 (State.frameSlots s p k rx) := by
  unfold State.frameSlots
  repeat' (first
    | (with_reducible first
      | assumption | apply Keeps.ite | apply State.emit_keeps | refine Keeps.each (fun _ _ _ => ?_) ?_
      | apply State.routePut_keeps)
    | extract_lets | exact id | exact Nat.le_refl _ | split | (intro q; simpa [updAt] using q)
    | (intro q; exact (List.length_modify ..).trans q) | (intro q; exact (List.length_set ..).trans q))

theorem State.portFrame_keeps {s0 s : State} {p : Nat} {rx : List Nat} (hK : Keeps false pi pf pk s0 s) :
    Keeps false pi pf pk s0 (State.portFrame s p rx) := by
  unfold State.portFrame
  repeat' (first
    | (with_reducible first
      | assumption | apply Keeps.ite | apply State.setAport_keeps | apply State.portsReady_keeps
      | apply State.lvl_keeps | apply State.putBit_keeps | refine Keeps.each (fun _ _ _ => ?_) ?_
      | apply State.sampleTick_keeps | apply State.evt_keeps | apply State.cnt_keeps | apply State.frameSlots_keeps
      | apply State.incWrap_keeps)
    | extract_lets | exact id | exact Nat.le_refl _ | split | (intro q; simpa [updAt] using q)
    | (intro q; exact (List.length_modify ..).trans q) | (intro q; exact (List.length_set ..).trans q)
    | (intro q; exact (List.length_map ..).trans q))

theorem State.expSync_keeps {s0 s : State} {n : Nat} (hK : Keeps pm pi pf pk s0 s) :
    Keeps pm pi pf pk s0 (State.expSync s n) := by
  unfold State.expSync
  repeat' (first
    | (with_reducible first
      | assumption | apply Keeps.ite | apply State.putF_keeps)
    | extract_lets | exact id | exact Nat.le_refl _ | split | (intro q; simpa [updAt] using q)
    | (intro q; exact (List.length_modify ..).trans q) | (intro q; exact (List.length_set ..).trans q))

theorem State.expPop_keeps {s0 s : State} {n : Nat} (hK : Keeps pm pi pf pk s0 s) :
    Keeps pm pi pf pk s0 (State.expPop s n) := by
  unfold State.expPop
  repeat' (first
    | (with_reducible first
      | assumption | apply Keeps.ite | apply State.expSync_keeps | apply State.setAle_keeps)
    | extract_lets | exact id | exact Nat.le_refl _ | split | (intro q; simpa [updAt] using q)
    | (intro q; exact (List.length_modify ..).trans q) | (intro q; exact (List.length_set ..).trans q))

theorem State.expDrop_keeps {s0 s : State} {n : Nat} {err : Nat} (hK : Keeps pm pi pf pk s0 s) :
    Keeps pm pi pf pk s0 (State.expDrop s n err) := by
  unfold State.expDrop
  repeat' (first
    | (with_reducible first
      | assumption | apply Keeps.ite | apply State.evt_keeps | apply State.cnt_keeps | apply State.putF_keeps
      | apply State.expPop_keeps)
    | extract_lets | exact id | exact Nat.le_refl _ | split | (intro q; simpa [updAt] using q)
    | (intro q; exact (List.length_modify ..).trans q) | (intro q; exact (List.length_set ..).trans q))

theorem State.expAsked_keeps {s0 s : State} {n : Nat} {r : Asked} (hK : Keeps pm pi pf pk s0 s) :
    Keeps pm pi pf pk s0 (State.expAsked s n r) := by
  unfold State.expAsked
  repeat' (first
    | (with_reducible first
      | assumption | apply Keeps.ite | apply State.setAle_keeps)
    | extract_lets | exact id | exact Nat.le_refl _ | split | (intro q; simpa [updAt] using q)
    | (intro q; exact (List.length_modify ..).trans q) | (intro q; exact (List.length_set ..).trans q))

theorem State.expAsk_keeps {s0 a_2 : State} {n : Nat} {a_1 : Nat} (hK : Keeps pm pi pf pk s0 a_2) :
    Keeps pm pi pf pk s0 (State.expAsk n a_1 a_2) := by
  induction a_1 generalizing a_2 with
  | zero =>
    unfold State.expAsk
    repeat' (first
      | (with_reducible first
        | assumption | apply Keeps.ite | apply ih | apply State.askTicket_keeps | apply State.expDrop_keeps
        | apply State.expAsked_keeps)
      | extract_lets | split)
  | succ _ ih =>
    unfold State.expAsk
    repeat' (first
      | (with_reducible first
        | assumption | apply Keeps.ite | apply ih | apply State.askTicket_keeps | apply State.expDrop_keeps
        | apply State.expAsked_keeps)
      | extract_lets | split)

theorem State.expStart_keeps {s0 s : State} {n : Nat} (hK : Keeps pm pi pf pk s0 s) :
    Keeps pm pi pf pk s0 (State.expStart s n) := by
  unfold State.expStart
  repeat' (first
    | (with_reducible first
      | assumption | apply Keeps.ite | apply State.expAsk_keeps)
    | extract_lets | exact id | exact Nat.le_refl _ | split | (intro q; simpa [updAt] using q)
    | (intro q; exact (List.length_modify ..).trans q) | (intro q; exact (List.length_set ..).trans q))

theorem State.expFail_keeps {s0 s : State} {n : Nat} {err : Nat} (hK : Keeps pm pi pf pk s0 s) :
    Keeps pm pi pf pk s0 (State.expFail s n err) := by
  unfold State.expFail
  repeat' (first
    | (with_reducible first
      | assumption | apply Keeps.ite | apply State.expStart_keeps | apply State.expDrop_keeps)
    | extract_lets | exact id | exact Nat.le_refl _ | split | (intro q; simpa [updAt] using q)
    | (intro q; exact (List.length_modify ..).trans q) | (intro q; exact (List.length_set ..).trans q))

theorem State.writeExpPush_keeps {s0 s : State} {req : Requester} {n : Nat} {v : Nat} (hK : Keeps pm pi pf pk s0 s) :
    Keeps pm pi pf pk s0 (State.writeExpPush s req n v) := by
  unfold State.writeExpPush
  repeat' (first
    | (with_reducible first
      | assumption | apply Keeps.ite | apply State.quiet_keeps | apply State.expSync_keeps | apply State.setAle_keeps
      | apply State.expStart_keeps)
    | extract_lets | exact id | exact Nat.le_refl _ | split | (intro q; simpa [updAt] using q)
    | (intro q; exact (List.length_modify ..).trans q) | (intro q; exact (List.length_set ..).trans q))

theorem State.expEnd_keeps {s0 s : State} {n : Nat} {q : Export} (hK : Keeps pm pi pf pk s0 s) :
    Keeps pm pi pf pk s0 (State.expEnd s n q) := by
  unfold State.expEnd
  repeat' (first
    | (with_reducible first
      | assumption | apply Keeps.ite | apply State.incWrap_keeps | apply State.expPop_keeps | apply State.evt_keeps
      | apply State.expStart_keeps | apply State.blockDoorbell_keeps | apply State.setAle_keeps
      | apply State.expFail_keeps | apply State.dropAcks_keeps)
    | extract_lets | exact id | exact Nat.le_refl _ | split | (intro q; simpa [updAt] using q)
    | (intro q; exact (List.length_modify ..).trans q) | (intro q; exact (List.length_set ..).trans q)
    | (intro q; exact (List.length_map ..).trans q))

theorem State.expRetry_keeps {s0 s : State} {n : Nat} (hK : Keeps pm pi pf pk s0 s) :
    Keeps pm pi pf pk s0 (State.expRetry s n) := by
  unfold State.expRetry
  repeat' (first
    | (with_reducible first
      | assumption | apply Keeps.ite | apply State.expStart_keeps)
    | extract_lets | exact id | exact Nat.le_refl _ | split | (intro q; simpa [updAt] using q)
    | (intro q; exact (List.length_modify ..).trans q) | (intro q; exact (List.length_set ..).trans q))

theorem State.expWaitExpired_keeps {s0 s : State} {n : Nat} (hK : Keeps pm pi pf pk s0 s) :
    Keeps pm pi pf pk s0 (State.expWaitExpired s n) := by
  unfold State.expWaitExpired
  repeat' (first
    | (with_reducible first
      | assumption | apply Keeps.ite | apply State.expFail_keeps)
    | extract_lets | exact id | exact Nat.le_refl _ | split | (intro q; simpa [updAt] using q)
    | (intro q; exact (List.length_modify ..).trans q) | (intro q; exact (List.length_set ..).trans q))

theorem State.heldWrite_keeps {s0 s : State} {req : Requester} {a : Nat} {v : Nat} {hold : Nat} (hK : Keeps pm pi pf pk s0 s) :
    Keeps pm pi pf pk s0 (State.heldWrite s req a v hold) := by
  unfold State.heldWrite
  repeat' (first
    | (with_reducible first
      | assumption | apply Keeps.ite | apply State.regStore_keeps | apply State.quiet_keeps)
    | extract_lets | exact id | exact Nat.le_refl _ | split | (intro q; simpa [updAt] using q)
    | (intro q; exact (List.length_modify ..).trans q) | (intro q; exact (List.length_set ..).trans q))

theorem State.writeAleCtl_keeps {s0 s : State} {req : Requester} {n : Nat} {v : Nat} (hK : Keeps pm pi pf pk s0 s) :
    Keeps pm pi pf pk s0 (State.writeAleCtl s req n v) := by
  unfold State.writeAleCtl
  repeat' (first
    | (with_reducible first
      | assumption | apply Keeps.ite | apply State.heldWrite_keeps | apply State.expStart_keeps | apply State.wr_keeps
      | apply State.aleState_keeps | apply State.setAle_keeps | apply State.funcLost_keeps)
    | extract_lets | exact id | exact Nat.le_refl _ | split | (intro q; simpa [updAt] using q)
    | (intro q; exact (List.length_modify ..).trans q) | (intro q; exact (List.length_set ..).trans q)
    | (intro q; exact (List.length_map ..).trans q))

theorem State.writeWakeCfg_keeps {s0 s : State} {req : Requester} {n : Nat} {v : Nat} (hK : Keeps pm pi pf pk s0 s) :
    Keeps pm pi pf pk s0 (State.writeWakeCfg s req n v) := by
  unfold State.writeWakeCfg
  repeat' (first
    | (with_reducible first
      | assumption | apply Keeps.ite | apply State.quiet_keeps | apply State.regStore_keeps)
    | extract_lets | exact id | exact Nat.le_refl _ | split | (intro q; simpa [updAt] using q)
    | (intro q; exact (List.length_modify ..).trans q) | (intro q; exact (List.length_set ..).trans q))

theorem State.writeTkCfg_keeps {s0 s : State} {req : Requester} {d : Nat} {v : Nat} (hK : Keeps pm pi pf pk s0 s) :
    Keeps pm pi pf pk s0 (State.writeTkCfg s req d v) := by
  unfold State.writeTkCfg
  repeat' (first
    | (with_reducible first
      | assumption | apply Keeps.ite | apply State.quiet_keeps | apply State.tkBadSync_keeps | apply State.putBit_keeps
      | apply State.regStore_keeps)
    | extract_lets | exact id | exact Nat.le_refl _ | split | (intro q; simpa [updAt] using q)
    | (intro q; exact (List.length_modify ..).trans q) | (intro q; exact (List.length_set ..).trans q))

theorem State.writeSnsRoute_keeps {s0 s : State} {req : Requester} {g : Nat} {v : Nat} (hK : Keeps pm pi pf pk s0 s) :
    Keeps pm pi pf pk s0 (State.writeSnsRoute s req g v) := by
  unfold State.writeSnsRoute
  repeat' (first
    | (with_reducible first
      | assumption | apply Keeps.ite | apply State.quiet_keeps | apply State.regStore_keeps)
    | extract_lets | exact id | exact Nat.le_refl _ | split | (intro q; simpa [updAt] using q)
    | (intro q; exact (List.length_modify ..).trans q) | (intro q; exact (List.length_set ..).trans q))

theorem State.writeAportCtl_keeps {s0 s : State} {req : Requester} {p : Nat} {v : Nat} (hK : Keeps pm pi pf pk s0 s) :
    Keeps pm pi pf pk s0 (State.writeAportCtl s req p v) := by
  unfold State.writeAportCtl
  repeat' (first
    | (with_reducible first
      | assumption | apply Keeps.ite | apply State.heldWrite_keeps | apply State.setAport_keeps
      | apply State.portSync_keeps | apply State.funcLost_keeps)
    | extract_lets | exact id | exact Nat.le_refl _ | split | (intro q; simpa [updAt] using q)
    | (intro q; exact (List.length_modify ..).trans q) | (intro q; exact (List.length_set ..).trans q)
    | (intro q; exact (List.length_map ..).trans q))

theorem State.writeAportRoute_keeps {s0 s : State} {req : Requester} {p : Nat} {k : Nat} {v : Nat} (hK : Keeps pm pi pf pk s0 s) :
    Keeps pm pi pf pk s0 (State.writeAportRoute s req p k v) := by
  unfold State.writeAportRoute
  repeat' (first
    | (with_reducible first
      | assumption | apply Keeps.ite | apply State.quiet_keeps | apply State.regStore_keeps | apply State.tkBadSync_keeps)
    | extract_lets | exact id | exact Nat.le_refl _ | split | (intro q; simpa [updAt] using q)
    | (intro q; exact (List.length_modify ..).trans q) | (intro q; exact (List.length_set ..).trans q))

theorem State.aleRelease_keeps {s0 s : State} (hK : Keeps false pi pf pk s0 s) :
    Keeps false pi pf pk s0 (State.aleRelease s) := by
  unfold State.aleRelease
  repeat' (first
    | (with_reducible first
      | assumption | apply Keeps.ite | apply State.setBytes_keeps | apply State.setLe_keeps | apply State.wr_keeps
      | apply State.putBit_keeps | apply State.evt_keeps | apply State.cnt_keeps
      | refine Keeps.each (fun _ _ _ => ?_) ?_ | apply State.csetEnable_keeps | apply State.aleState_keeps
      | apply State.tkBadSync_keeps | apply State.portSync_keeps | apply State.setAport_keeps)
    | extract_lets | exact id | exact Nat.le_refl _ | split | (intro q; simpa [updAt] using q)
    | (intro q; exact (List.length_modify ..).trans q) | (intro q; exact (List.length_set ..).trans q)
    | (intro q; exact (List.length_map ..).trans q))

theorem State.alePark_keeps {s0 s : State} (hK : Keeps pm pi pf pk s0 s) :
    Keeps pm pi pf pk s0 (State.alePark s) := by
  unfold State.alePark
  repeat' (first
    | (with_reducible first
      | assumption | apply Keeps.ite | refine Keeps.each (fun _ _ _ => ?_) ?_ | apply State.setAle_keeps
      | apply State.aleState_keeps | apply State.putBit_keeps)
    | extract_lets | exact id | exact Nat.le_refl _ | split | (intro q; simpa [updAt] using q)
    | (intro q; exact (List.length_modify ..).trans q) | (intro q; exact (List.length_set ..).trans q))

end Sys2Proof.Machine
end

