-- ==== Sys2Proof/Laws/KeepsFdig.lean ====
section
/-! SUPPORT. What the operations of Machine/Fdig.lean keep. -/

set_option linter.all false

namespace Sys2Proof.Machine

variable {pm pi pf pk : Bool}

theorem State.setFdig_keeps {s0 s : State} {c : Nat} {f : Fdig → Fdig} (hK : Keeps pm pi pf pk s0 s) :
    Keeps pm pi pf pk s0 (State.setFdig s c f) := by
  unfold State.setFdig
  repeat' (first
    | (with_reducible first
      | assumption | apply Keeps.ite)
    | extract_lets | exact id | exact Nat.le_refl _ | split | apply Keeps.with_fdigs | (intro q; simpa [updAt] using q)
    | (intro q; exact (List.length_modify ..).trans q) | (intro q; exact (List.length_set ..).trans q))

theorem State.setTrig_keeps {s0 s : State} {c : Nat} {f : TrigSt → TrigSt} (hK : Keeps pm pi pf pk s0 s) :
    Keeps pm pi pf pk s0 (State.setTrig s c f) := by
  unfold State.setTrig
  repeat' (first
    | (with_reducible first
      | assumption | apply Keeps.ite)
    | extract_lets | exact id | exact Nat.le_refl _ | split | apply Keeps.with_trigs | (intro q; simpa [updAt] using q)
    | (intro q; exact (List.length_modify ..).trans q) | (intro q; exact (List.length_set ..).trans q))

theorem State.setProg_keeps {s0 s : State} {p : Nat} {f : Prog → Prog} (hK : Keeps pm pi pf pk s0 s) :
    Keeps pm pi pf pk s0 (State.setProg s p f) := by
  unfold State.setProg
  repeat' (first
    | (with_reducible first
      | assumption | apply Keeps.ite)
    | extract_lets | exact id | exact Nat.le_refl _ | split | apply Keeps.with_progs | (intro q; simpa [updAt] using q)
    | (intro q; exact (List.length_modify ..).trans q) | (intro q; exact (List.length_set ..).trans q))

theorem State.setProgState_keeps {s0 s : State} {p : Nat} {v : Nat} (hK : Keeps pm pi pf pk s0 s) :
    Keeps pm pi pf pk s0 (State.setProgState s p v) := by
  unfold State.setProgState
  repeat' (first
    | (with_reducible first
      | assumption | apply Keeps.ite | apply State.putF_keeps)
    | extract_lets | exact id | exact Nat.le_refl _ | split | (intro q; simpa [updAt] using q)
    | (intro q; exact (List.length_modify ..).trans q) | (intro q; exact (List.length_set ..).trans q))

theorem State.trigShow_keeps {s0 s : State} {c : Nat} (hK : Keeps pm pi pf pk s0 s) :
    Keeps pm pi pf pk s0 (State.trigShow s c) := by
  unfold State.trigShow
  repeat' (first
    | (with_reducible first
      | assumption | apply Keeps.ite | apply State.putF_keeps)
    | extract_lets | exact id | exact Nat.le_refl _ | split | (intro q; simpa [updAt] using q)
    | (intro q; exact (List.length_modify ..).trans q) | (intro q; exact (List.length_set ..).trans q))

theorem State.progError_keeps {s0 s : State} {p : Nat} {err : Nat} (hK : Keeps pm pi pf pk s0 s) :
    Keeps pm pi pf pk s0 (State.progError s p err) := by
  unfold State.progError
  repeat' (first
    | (with_reducible first
      | assumption | apply Keeps.ite | apply State.setProg_keeps | apply State.setProgState_keeps | apply State.setTrig_keeps
      | apply State.trigShow_keeps | apply State.evt_keeps | apply State.putF_keeps)
    | extract_lets | exact id | exact Nat.le_refl _ | split | (intro q; simpa [updAt] using q)
    | (intro q; exact (List.length_modify ..).trans q) | (intro q; exact (List.length_set ..).trans q))

theorem State.setSlice_keeps {s0 s : State} {k : Nat} {v : Nat} (hK : Keeps pm pi pf pk s0 s) :
    Keeps pm pi pf pk s0 (State.setSlice s k v) := by
  unfold State.setSlice
  repeat' (first
    | (with_reducible first
      | assumption | apply Keeps.ite | apply State.putF_keeps)
    | extract_lets | exact id | exact Nat.le_refl _ | split | (intro q; simpa [updAt] using q)
    | (intro q; exact (List.length_modify ..).trans q) | (intro q; exact (List.length_set ..).trans q))

theorem State.fdigShow_keeps {s0 s : State} {c : Nat} (hK : Keeps pm pi pf pk s0 s) :
    Keeps pm pi pf pk s0 (State.fdigShow s c) := by
  unfold State.fdigShow
  repeat' (first
    | (with_reducible first
      | assumption | apply Keeps.ite | apply State.putF_keeps | apply State.putBit_keeps | apply State.lvl_keeps
      | apply State.progError_keeps | apply State.funcSet_keeps | apply State.trigShow_keeps)
    | extract_lets | exact id | exact Nat.le_refl _ | split | (intro q; simpa [updAt] using q)
    | (intro q; exact (List.length_modify ..).trans q) | (intro q; exact (List.length_set ..).trans q))

theorem State.fdigSync_keeps {s0 s : State} (hK : Keeps pm pi pf pk s0 s) :
    Keeps pm pi pf pk s0 (State.fdigSync s) := by
  unfold State.fdigSync
  repeat' (first
    | (with_reducible first
      | assumption | apply Keeps.ite | apply State.fdigShow_keeps)
    | extract_lets | exact id | exact Nat.le_refl _ | split | (intro q; simpa [updAt] using q)
    | (intro q; exact (List.length_modify ..).trans q) | (intro q; exact (List.length_set ..).trans q))

theorem State.permitShow_keeps {s0 s : State} {c : Nat} {was : Bool} (hK : Keeps pm pi pf pk s0 s) :
    Keeps pm pi pf pk s0 (State.permitShow s c was) := by
  unfold State.permitShow
  repeat' (first
    | (with_reducible first
      | assumption | apply Keeps.ite | apply State.putBit_keeps | apply State.evt_keeps)
    | extract_lets | exact id | exact Nat.le_refl _ | split | (intro q; simpa [updAt] using q)
    | (intro q; exact (List.length_modify ..).trans q) | (intro q; exact (List.length_set ..).trans q))

theorem State.permitWritten_keeps {s0 s : State} {old : State} (hK : Keeps pm pi pf pk s0 s) :
    Keeps pm pi pf pk s0 (State.permitWritten s old) := by
  unfold State.permitWritten
  repeat' (first
    | (with_reducible first
      | assumption | apply Keeps.ite | apply State.permitShow_keeps)
    | extract_lets | exact id | exact Nat.le_refl _ | split | (intro q; simpa [updAt] using q)
    | (intro q; exact (List.length_modify ..).trans q) | (intro q; exact (List.length_set ..).trans q)
    | (intro q; exact (List.length_map ..).trans q))

theorem State.writeFdigInput_keeps {s0 s : State} {req : Requester} {c : Nat} {addr : Nat} {v : Nat} (hK : Keeps pm pi pf pk s0 s) :
    Keeps pm pi pf pk s0 (State.writeFdigInput s req c addr v) := by
  unfold State.writeFdigInput
  repeat' (first
    | (with_reducible first
      | assumption | apply Keeps.ite | apply State.quiet_keeps | apply State.regStore_keeps | apply State.permitShow_keeps
      | apply State.setFdig_keeps | apply State.putBit_keeps)
    | extract_lets | exact id | exact Nat.le_refl _ | split | (intro q; simpa [updAt] using q)
    | (intro q; exact (List.length_modify ..).trans q) | (intro q; exact (List.length_set ..).trans q))

theorem State.writeFdigCtl_keeps {s0 s : State} {req : Requester} {c : Nat} {v : Nat} (hK : Keeps pm pi pf pk s0 s) :
    Keeps pm pi pf pk s0 (State.writeFdigCtl s req c v) := by
  unfold State.writeFdigCtl
  repeat' (first
    | (with_reducible first
      | assumption | apply Keeps.ite | apply State.quiet_keeps | apply State.fdigSync_keeps
      | apply State.regStore_keeps)
    | extract_lets | exact id | exact Nat.le_refl _ | split | (intro q; simpa [updAt] using q)
    | (intro q; exact (List.length_modify ..).trans q) | (intro q; exact (List.length_set ..).trans q)
    | (intro q; exact (List.length_map ..).trans q))

theorem State.trigCome_keeps {s0 s : State} {c : Nat} {ang : Option Nat} (hK : Keeps pm pi pf pk s0 s) :
    Keeps pm pi pf pk s0 (State.trigCome s c ang) := by
  unfold State.trigCome
  repeat' (first
    | (with_reducible first
      | assumption | apply Keeps.ite | apply State.setTrig_keeps)
    | extract_lets | exact id | exact Nat.le_refl _ | split | (intro q; simpa [updAt] using q)
    | (intro q; exact (List.length_modify ..).trans q) | (intro q; exact (List.length_set ..).trans q))

theorem State.trigAlarm_keeps {s0 s : State} {c : Nat} {a : Nat} {ang : Nat} (hK : Keeps pm pi pf pk s0 s) :
    Keeps pm pi pf pk s0 (State.trigAlarm s c a ang) := by
  unfold State.trigAlarm
  repeat' (first
    | (with_reducible first
      | assumption | apply Keeps.ite | apply State.trigCome_keeps)
    | extract_lets | exact id | exact Nat.le_refl _ | split | (intro q; simpa [updAt] using q)
    | (intro q; exact (List.length_modify ..).trans q) | (intro q; exact (List.length_set ..).trans q))

theorem State.trigEvent_keeps {s0 s : State} {kind : Nat} {i : Nat} (hK : Keeps pm pi pf pk s0 s) :
    Keeps pm pi pf pk s0 (State.trigEvent s kind i) := by
  unfold State.trigEvent
  repeat' (first
    | (with_reducible first
      | assumption | apply Keeps.ite | refine Keeps.each (fun _ _ _ => ?_) ?_ | apply State.trigCome_keeps)
    | extract_lets | exact id | exact Nat.le_refl _ | split | (intro q; simpa [updAt] using q)
    | (intro q; exact (List.length_modify ..).trans q) | (intro q; exact (List.length_set ..).trans q))

theorem State.startForeground_keeps {s0 s : State} {c : Nat} (hK : Keeps pm pi pf pk s0 s) :
    Keeps pm pi pf pk s0 (State.startForeground s c) := by
  unfold State.startForeground
  repeat' (first
    | (with_reducible first
      | assumption | apply Keeps.ite | apply State.setFdig_keeps | refine Keeps.each (fun _ _ _ => ?_) ?_
      | apply State.setSlice_keeps)
    | extract_lets | exact id | exact Nat.le_refl _ | split | (intro q; simpa [updAt] using q)
    | (intro q; exact (List.length_modify ..).trans q) | (intro q; exact (List.length_set ..).trans q))

theorem State.fdigRelease_keeps {s0 s : State} (hK : Keeps pm pi pf pk s0 s) :
    Keeps pm pi pf pk s0 (State.fdigRelease s) := by
  unfold State.fdigRelease
  repeat' (first
    | (with_reducible first
      | assumption | apply Keeps.ite | refine Keeps.each (fun _ _ _ => ?_) ?_ | apply State.putBit_keeps
      | apply State.fdigSync_keeps | apply State.permitShow_keeps | apply State.startForeground_keeps)
    | extract_lets | exact id | exact Nat.le_refl _ | split | (intro q; simpa [updAt] using q)
    | (intro q; exact (List.length_modify ..).trans q) | (intro q; exact (List.length_set ..).trans q))

theorem State.fdigResume_keeps {s0 s : State} (hK : Keeps pm pi pf pk s0 s) :
    Keeps pm pi pf pk s0 (State.fdigResume s) := by
  unfold State.fdigResume
  repeat' (first
    | (with_reducible first
      | assumption | apply Keeps.ite | refine Keeps.each (fun _ _ _ => ?_) ?_ | apply State.setFdig_keeps)
    | extract_lets | exact id | exact Nat.le_refl _ | split | (intro q; simpa [updAt] using q)
    | (intro q; exact (List.length_modify ..).trans q) | (intro q; exact (List.length_set ..).trans q))

theorem State.requeue_keeps {s0 s : State} {k : Nat} (hK : Keeps pm pi pf pk s0 s) :
    Keeps pm pi pf pk s0 (State.requeue s k) := by
  unfold State.requeue
  repeat' (first
    | (with_reducible first
      | assumption | apply Keeps.ite)
    | extract_lets | exact id | exact Nat.le_refl _ | split | apply Keeps.with_slices | (intro q; simpa [updAt] using q)
    | (intro q; exact (List.length_modify ..).trans q) | (intro q; exact (List.length_set ..).trans q))

theorem State.sliceSwap_keeps {s0 s : State} {c : Nat} {inc : Nat} {out : Nat} (hK : Keeps pm pi pf pk s0 s) :
    Keeps pm pi pf pk s0 (State.sliceSwap s c inc out) := by
  unfold State.sliceSwap
  repeat' (first
    | (with_reducible first
      | assumption | apply Keeps.ite | apply State.requeue_keeps | apply State.setSlice_keeps | apply State.wr_keeps
      | apply State.incWrap_keeps | apply State.setFdig_keeps)
    | extract_lets | exact id | exact Nat.le_refl _ | split | (intro q; simpa [updAt] using q)
    | (intro q; exact (List.length_modify ..).trans q) | (intro q; exact (List.length_set ..).trans q))

end Sys2Proof.Machine
end

