-- ==== Sys2Proof/Laws/KeepsAngleBus.lean ====
section
/-! SUPPORT. What the operations of Machine/AngleBus.lean keep. -/

set_option linter.all false

namespace Sys2Proof.Machine

variable {pm pi pf pk : Bool}

theorem State.writeAlarm_keeps {s0 s : State} {req : Requester} {n : Nat} {v : Nat} (hK : Keeps pm pi pf pk s0 s) :
    Keeps pm pi pf pk s0 (State.writeAlarm s req n v) := by
  unfold State.writeAlarm
  repeat' (first
    | (with_reducible first
      | assumption | apply Keeps.ite | apply State.regStore_keeps)
    | extract_lets | exact id | exact Nat.le_refl _ | split | apply Keeps.with_ang | (intro q; simpa [updAt] using q)
    | (intro q; exact (List.length_modify ..).trans q) | (intro q; exact (List.length_set ..).trans q))

theorem State.alarmAdvance_keeps {s0 s : State} {n : Nat} {v : Nat} (hK : Keeps pm pi pf pk s0 s) :
    Keeps pm pi pf pk s0 (State.alarmAdvance s n v) := by
  unfold State.alarmAdvance
  repeat' (first
    | (with_reducible first
      | assumption | apply Keeps.ite | apply State.addSat_keeps | apply State.wr_keeps | apply State.putBit_keeps)
    | extract_lets | exact id | exact Nat.le_refl _ | split | (intro q; simpa [updAt] using q)
    | (intro q; exact (List.length_modify ..).trans q) | (intro q; exact (List.length_set ..).trans q))

theorem State.alarmActs_keeps {s0 s : State} {n : Nat} {v : Nat} (hK : Keeps pm pi pf pk s0 s) :
    Keeps pm pi pf pk s0 (State.alarmActs s n v) := by
  unfold State.alarmActs
  repeat' (first
    | (with_reducible first
      | assumption | apply Keeps.ite | apply State.trigAlarm_keeps | apply State.extDoorbell_keeps
      | apply State.alarmLine_keeps | apply State.evt_keeps | apply State.putBit_keeps)
    | extract_lets | exact id | exact Nat.le_refl _ | split | (intro q; simpa [updAt] using q)
    | (intro q; exact (List.length_modify ..).trans q) | (intro q; exact (List.length_set ..).trans q))

theorem State.alarmUpdate_keeps {s0 s : State} {old : List Int} {n : Nat} (hK : Keeps pm pi pf pk s0 s) :
    Keeps pm pi pf pk s0 (State.alarmUpdate s old n) := by
  unfold State.alarmUpdate
  repeat' (first
    | (with_reducible first
      | assumption | apply Keeps.ite | apply State.alarmAdvance_keeps | apply State.incSat_keeps | apply State.putBit_keeps
      | apply State.wr_keeps | apply State.alarmActs_keeps)
    | extract_lets | exact id | exact Nat.le_refl _ | split | apply Keeps.with_ang | (intro q; simpa [updAt] using q)
    | (intro q; exact (List.length_modify ..).trans q) | (intro q; exact (List.length_set ..).trans q))

theorem State.drawJitter_keeps {s0 s : State} {d : Nat} (hK : Keeps pm pi pf pk s0 s) :
    Keeps pm pi pf pk s0 (State.drawJitter s d) := by
  unfold State.drawJitter
  repeat' (first
    | (with_reducible first
      | assumption | apply Keeps.ite | apply State.setDom_keeps | apply State.setShaker_keeps)
    | extract_lets | exact id | exact Nat.le_refl _ | split | (intro q; simpa [updAt] using q)
    | (intro q; exact (List.length_modify ..).trans q) | (intro q; exact (List.length_set ..).trans q))

end Sys2Proof.Machine
end

