-- ==== Sys2Proof/Laws/KeepsBerth.lean ====
section
/-! SUPPORT. What the operations of Machine/Berth.lean keep. -/

set_option linter.all false

namespace Sys2Proof.Machine

variable {pm pi pf pk : Bool}

theorem State.putVal_keeps {s0 s : State} {fmt : Nat} {a : Nat} {i : Nat} {v : Int} (hK : Keeps false pi pf pk s0 s) :
    Keeps false pi pf pk s0 (State.putVal s fmt a i v) := by
  unfold State.putVal
  repeat' (first
    | (with_reducible first
      | assumption | apply Keeps.ite | apply State.setLe_keeps)
    | extract_lets | exact id | exact Nat.le_refl _ | split | (intro q; simpa [updAt] using q)
    | (intro q; exact (List.length_modify ..).trans q) | (intro q; exact (List.length_set ..).trans q))

theorem State.accVal_keeps {s0 s : State} {p : Nat} {i : Nat} {v : Int} (hK : Keeps false pi pf pk s0 s) :
    Keeps false pi pf pk s0 (State.accVal s p i v) := by
  unfold State.accVal
  repeat' (first
    | (with_reducible first
      | assumption | apply Keeps.ite | apply State.putVal_keeps)
    | extract_lets | exact id | exact Nat.le_refl _ | split | (intro q; simpa [updAt] using q)
    | (intro q; exact (List.length_modify ..).trans q) | (intro q; exact (List.length_set ..).trans q))

theorem State.storeVals_keeps {s0 s : State} {p : Nat} {stop : Option Nat} {a_3 : List Int} (hK : Keeps false pi pf pk s0 s) :
    Keeps false pi pf pk s0 (State.storeVals s p stop a_3) := by
  induction a_3 generalizing s with
  | nil =>
    unfold State.storeVals
    repeat' (first
      | (with_reducible first
        | assumption | apply Keeps.ite | apply ih | apply State.accVal_keeps | apply State.putVal_keeps
        | apply State.setProg_keeps)
      | extract_lets | split)
  | cons _ _ ih =>
    unfold State.storeVals
    repeat' (first
      | (with_reducible first
        | assumption | apply Keeps.ite | apply ih | apply State.accVal_keeps | apply State.putVal_keeps
        | apply State.setProg_keeps)
      | extract_lets | split)

theorem State.feed_keeps {s0 s : State} {p : Nat} {v : Int} (hK : Keeps false pi pf pk s0 s) :
    Keeps false pi pf pk s0 (State.feed s p v) := by
  unfold State.feed
  repeat' (first
    | (with_reducible first
      | assumption | apply Keeps.ite | apply State.setProg_keeps | apply State.storeVals_keeps)
    | extract_lets | exact id | exact Nat.le_refl _ | split | (intro q; simpa [updAt] using q)
    | (intro q; exact (List.length_modify ..).trans q) | (intro q; exact (List.length_set ..).trans q))

theorem State.setPh_keeps {s0 s : State} {p : Nat} {ph : ProgPh} (hK : Keeps pm pi pf pk s0 s) :
    Keeps pm pi pf pk s0 (State.setPh s p ph) := by
  unfold State.setPh
  repeat' (first
    | (with_reducible first
      | assumption | apply Keeps.ite | apply State.trigShow_keeps | apply State.setProg_keeps)
    | extract_lets | exact id | exact Nat.le_refl _ | split | (intro q; simpa [updAt] using q)
    | (intro q; exact (List.length_modify ..).trans q) | (intro q; exact (List.length_set ..).trans q))

theorem State.berthRetry_keeps {s0 s : State} {p : Nat} (hK : Keeps pm pi pf pk s0 s) :
    Keeps pm pi pf pk s0 (State.berthRetry s p) := by
  unfold State.berthRetry
  repeat' (first
    | (with_reducible first
      | assumption | apply Keeps.ite | apply State.setPh_keeps | apply State.setProg_keeps | apply State.putF_keeps)
    | extract_lets | exact id | exact Nat.le_refl _ | split | (intro q; simpa [updAt] using q)
    | (intro q; exact (List.length_modify ..).trans q) | (intro q; exact (List.length_set ..).trans q))

theorem State.streamShow_keeps {s0 s : State} {p : Nat} (hK : Keeps pm pi pf pk s0 s) :
    Keeps pm pi pf pk s0 (State.streamShow s p) := by
  unfold State.streamShow
  repeat' (first
    | (with_reducible first
      | assumption | apply Keeps.ite | apply State.lvl_keeps)
    | extract_lets | exact id | exact Nat.le_refl _ | split | (intro q; simpa [updAt] using q)
    | (intro q; exact (List.length_modify ..).trans q) | (intro q; exact (List.length_set ..).trans q))

theorem State.writeHead_keeps {s0 s : State} {p : Nat} {start : Nat} {accn : Nat} {flags : Nat} (hK : Keeps false pi pf pk s0 s) :
    Keeps false pi pf pk s0 (State.writeHead s p start accn flags) := by
  unfold State.writeHead
  repeat' (first
    | (with_reducible first
      | assumption | apply Keeps.ite | apply State.setBytes_keeps)
    | extract_lets | exact id | exact Nat.le_refl _ | split | (intro q; simpa [updAt] using q)
    | (intro q; exact (List.length_modify ..).trans q) | (intro q; exact (List.length_set ..).trans q))

theorem State.berthDone_keeps {s0 s : State} {p : Nat} (hK : Keeps pm pi pf pk s0 s) :
    Keeps pm pi pf pk s0 (State.berthDone s p) := by
  unfold State.berthDone
  repeat' (first
    | (with_reducible first
      | assumption | apply Keeps.ite | apply State.incWrap_keeps | apply State.evt_keeps | apply State.setProg_keeps
      | apply State.setPh_keeps | apply State.setProgState_keeps | apply State.putF_keeps | apply State.streamShow_keeps)
    | extract_lets | exact id | exact Nat.le_refl _ | split | (intro q; simpa [updAt] using q)
    | (intro q; exact (List.length_modify ..).trans q) | (intro q; exact (List.length_set ..).trans q))

theorem State.plainDone_keeps {s0 s : State} {p : Nat} (hK : Keeps false pi pf pk s0 s) :
    Keeps false pi pf pk s0 (State.plainDone s p) := by
  unfold State.plainDone
  repeat' (first
    | (with_reducible first
      | assumption | apply Keeps.ite | apply State.berthDone_keeps | apply State.writeHead_keeps)
    | extract_lets | exact id | exact Nat.le_refl _ | split | (intro q; simpa [updAt] using q)
    | (intro q; exact (List.length_modify ..).trans q) | (intro q; exact (List.length_set ..).trans q))

theorem State.acqDone_keeps {s0 s : State} {p : Nat} (hK : Keeps false pi pf pk s0 s) :
    Keeps false pi pf pk s0 (State.acqDone s p) := by
  unfold State.acqDone
  repeat' (first
    | (with_reducible first
      | assumption | apply Keeps.ite | apply State.berthDone_keeps | apply State.writeHead_keeps | apply State.setPh_keeps
      | apply State.setProg_keeps)
    | extract_lets | exact id | exact Nat.le_refl _ | split | (intro q; simpa [updAt] using q)
    | (intro q; exact (List.length_modify ..).trans q) | (intro q; exact (List.length_set ..).trans q))

theorem State.finishDue_keeps {s0 s : State} {p : Nat} (hK : Keeps false pi pf pk s0 s) :
    Keeps false pi pf pk s0 (State.finishDue s p) := by
  unfold State.finishDue
  repeat' (first
    | (with_reducible first
      | assumption | apply Keeps.ite | apply State.acqDone_keeps | apply State.plainDone_keeps)
    | extract_lets | exact id | exact Nat.le_refl _ | split | (intro q; simpa [updAt] using q)
    | (intro q; exact (List.length_modify ..).trans q) | (intro q; exact (List.length_set ..).trans q))

theorem State.prefillDue_keeps {s0 s : State} {p : Nat} (hK : Keeps pm pi pf pk s0 s) :
    Keeps pm pi pf pk s0 (State.prefillDue s p) := by
  unfold State.prefillDue
  repeat' (first
    | (with_reducible first
      | assumption | apply Keeps.ite | apply State.setPh_keeps | apply State.setTrig_keeps)
    | extract_lets | exact id | exact Nat.le_refl _ | split | (intro q; simpa [updAt] using q)
    | (intro q; exact (List.length_modify ..).trans q) | (intro q; exact (List.length_set ..).trans q))

theorem State.startDue_keeps {s0 s : State} {p : Nat} (hK : Keeps false pi pf pk s0 s) :
    Keeps false pi pf pk s0 (State.startDue s p) := by
  unfold State.startDue
  repeat' (first
    | (with_reducible first
      | assumption | apply Keeps.ite | apply State.setPh_keeps | apply State.setLe_keeps | apply State.progError_keeps)
    | extract_lets | exact id | exact Nat.le_refl _ | split | (intro q; simpa [updAt] using q)
    | (intro q; exact (List.length_modify ..).trans q) | (intro q; exact (List.length_set ..).trans q))

theorem State.headAngle_keeps {s0 s : State} {p : Nat} (hK : Keeps pm pi pf pk s0 s) :
    Keeps pm pi pf pk s0 (State.headAngle s p).2 := by
  unfold State.headAngle
  repeat' (first
    | (with_reducible first
      | assumption | apply Keeps.ite | apply Keeps.ite2 | apply State.fresh_keeps)
    | extract_lets | exact id | exact Nat.le_refl _ | split | (intro q; simpa [updAt] using q)
    | (intro q; exact (List.length_modify ..).trans q) | (intro q; exact (List.length_set ..).trans q))

theorem State.feedAll_keeps {s0 s : State} {p : Nat} {a_2 : List Int} (hK : Keeps false pi pf pk s0 s) :
    Keeps false pi pf pk s0 (State.feedAll s p a_2) := by
  induction a_2 generalizing s with
  | nil =>
    unfold State.feedAll
    repeat' (first
      | (with_reducible first
        | assumption | apply Keeps.ite | apply ih | apply State.feed_keeps)
      | extract_lets | split)
  | cons _ _ ih =>
    unfold State.feedAll
    repeat' (first
      | (with_reducible first
        | assumption | apply Keeps.ite | apply ih | apply State.feed_keeps)
      | extract_lets | split)

theorem State.beginAcq_keeps {s0 s : State} {p : Nat} {at' : Nat} (hK : Keeps false pi pf pk s0 s) :
    Keeps false pi pf pk s0 (State.beginAcq s p at') := by
  unfold State.beginAcq
  repeat' (first
    | (with_reducible first
      | assumption | apply Keeps.ite | apply State.setProg_keeps | apply State.storeVals_keeps | apply State.feedAll_keeps)
    | extract_lets | exact id | exact Nat.le_refl _ | split | (intro q; simpa [updAt] using q)
    | (intro q; exact (List.length_modify ..).trans q) | (intro q; exact (List.length_set ..).trans q))

theorem State.trigOut_keeps {s0 s : State} {c : Nat} {f : Fire} (hK : Keeps pm pi pf pk s0 s) :
    Keeps pm pi pf pk s0 (State.trigOut s c f) := by
  unfold State.trigOut
  repeat' (first
    | (with_reducible first
      | assumption | apply Keeps.ite | apply State.netPulse_keeps | apply State.emit_keeps | apply State.setTrig_keeps)
    | extract_lets | exact id | exact Nat.le_refl _ | split | (intro q; simpa [updAt] using q)
    | (intro q; exact (List.length_modify ..).trans q) | (intro q; exact (List.length_set ..).trans q))

theorem State.accept_keeps {s0 s : State} {c : Nat} {f : Fire} (hK : Keeps false pi pf pk s0 s) :
    Keeps false pi pf pk s0 (State.accept s c f) := by
  unfold State.accept
  repeat' (first
    | (with_reducible first
      | assumption | apply Keeps.ite | apply State.incWrap_keeps | apply State.evt_keeps | apply State.wr_keeps
      | apply State.setTrig_keeps | apply State.headAngle_keeps | apply State.setProg_keeps | apply State.setPh_keeps
      | apply State.beginAcq_keeps | apply State.trigOut_keeps)
    | extract_lets | exact id | exact Nat.le_refl _ | split | (intro q; simpa [updAt] using q)
    | (intro q; exact (List.length_modify ..).trans q) | (intro q; exact (List.length_set ..).trans q))

theorem State.trigTake_keeps {s0 s : State} {c : Nat} {f : Fire} (hK : Keeps false pi pf pk s0 s) :
    Keeps false pi pf pk s0 (State.trigTake s c f) := by
  unfold State.trigTake
  repeat' (first
    | (with_reducible first
      | assumption | apply Keeps.ite | apply State.setTrig_keeps | apply State.cnt_keeps | apply State.setProg_keeps
      | apply State.evt_keeps | apply State.accept_keeps)
    | extract_lets | exact id | exact Nat.le_refl _ | split | (intro q; simpa [updAt] using q)
    | (intro q; exact (List.length_modify ..).trans q) | (intro q; exact (List.length_set ..).trans q))

theorem State.fireDue_keeps {s0 s : State} {c : Nat} (hK : Keeps false pi pf pk s0 s) :
    Keeps false pi pf pk s0 (State.fireDue s c) := by
  unfold State.fireDue
  repeat' (first
    | (with_reducible first
      | assumption | apply Keeps.ite | apply State.trigTake_keeps)
    | extract_lets | exact id | exact Nat.le_refl _ | split | (intro q; simpa [updAt] using q)
    | (intro q; exact (List.length_modify ..).trans q) | (intro q; exact (List.length_set ..).trans q))

theorem State.trackLevels_keeps {s0 s : State} {c : Nat} {n : Nat} {v : Int} {k : Crossings} (hK : Keeps pm pi pf pk s0 s) :
    Keeps pm pi pf pk s0 (State.trackLevels s c n v k) := by
  unfold State.trackLevels
  repeat' (first
    | (with_reducible first
      | assumption | apply Keeps.ite | apply State.setTrig_keeps)
    | extract_lets | exact id | exact Nat.le_refl _ | split | (intro q; simpa [updAt] using q)
    | (intro q; exact (List.length_modify ..).trans q) | (intro q; exact (List.length_set ..).trans q))

theorem State.evaluate_keeps {s0 s : State} {c : Nat} {n : Nat} {a : Int} {v : Int} (hK : Keeps pm pi pf pk s0 s) :
    Keeps pm pi pf pk s0 (State.evaluate s c n a v) := by
  unfold State.evaluate
  repeat' (first
    | (with_reducible first
      | assumption | apply Keeps.ite | apply State.trackLevels_keeps | apply State.setTrig_keeps)
    | extract_lets | exact id | exact Nat.le_refl _ | split | (intro q; simpa [updAt] using q)
    | (intro q; exact (List.length_modify ..).trans q) | (intro q; exact (List.length_set ..).trans q))

theorem State.stepsDue_keeps {s0 s : State} {c : Nat} (hK : Keeps false pi pf pk s0 s) :
    Keeps false pi pf pk s0 (State.stepsDue s c) := by
  unfold State.stepsDue
  repeat' (first
    | (with_reducible first
      | assumption | apply Keeps.ite | apply State.prefillDue_keeps | apply State.startDue_keeps
      | apply State.finishDue_keeps | apply State.fireDue_keeps)
    | extract_lets | exact id | exact Nat.le_refl _ | split | (intro q; simpa [updAt] using q)
    | (intro q; exact (List.length_modify ..).trans q) | (intro q; exact (List.length_set ..).trans q))

theorem State.acquire_keeps {s0 s : State} {c : Nat} {n : Nat} {v : Int} {clip : Bool} {ecc : Nat} (hK : Keeps false pi pf pk s0 s) :
    Keeps false pi pf pk s0 (State.acquire s c n v clip ecc) := by
  unfold State.acquire
  repeat' (first
    | (with_reducible first
      | assumption | apply Keeps.ite | apply State.setProg_keeps | apply State.feed_keeps
      | apply State.eccResult_keeps | apply State.progError_keeps | apply State.cnt_keeps)
    | extract_lets | exact id | exact Nat.le_refl _ | split | (intro q; simpa [updAt] using q)
    | (intro q; exact (List.length_modify ..).trans q) | (intro q; exact (List.length_set ..).trans q)
    | (intro q; exact (List.length_map ..).trans q))

theorem State.sampled_keeps {s0 s : State} {c : Nat} {raw : Int} {ecc : Nat} (hK : Keeps false pi pf pk s0 s) :
    Keeps false pi pf pk s0 (State.sampled s c raw ecc) := by
  unfold State.sampled
  repeat' (first
    | (with_reducible first
      | assumption | apply Keeps.ite | apply State.stepsDue_keeps | apply State.cnt_keeps | apply State.setFdig_keeps
      | apply State.evaluate_keeps | apply State.acquire_keeps)
    | extract_lets | exact id | exact Nat.le_refl _ | split | (intro q; simpa [updAt] using q)
    | (intro q; exact (List.length_modify ..).trans q) | (intro q; exact (List.length_set ..).trans q))

theorem State.arm_keeps {s0 s : State} {req : Requester} {p : Nat} (hK : Keeps false pi pf pk s0 s) :
    Keeps false pi pf pk s0 (State.arm s req p) := by
  unfold State.arm
  repeat' (first
    | (with_reducible first
      | assumption | apply Keeps.ite | apply State.quiet_keeps | apply State.evt_keeps | apply State.putF_keeps
      | apply State.putBit_keeps | apply State.setProgState_keeps | apply State.wr_keeps | apply State.setTrig_keeps
      | apply State.setProg_keeps | apply State.streamShow_keeps | apply State.startDue_keeps | apply State.setPh_keeps)
    | extract_lets | exact id | exact Nat.le_refl _ | split | (intro q; simpa [updAt] using q)
    | (intro q; exact (List.length_modify ..).trans q) | (intro q; exact (List.length_set ..).trans q))

theorem State.disarm_keeps {s0 s : State} {p : Nat} (hK : Keeps false pi pf pk s0 s) :
    Keeps false pi pf pk s0 (State.disarm s p) := by
  unfold State.disarm
  repeat' (first
    | (with_reducible first
      | assumption | apply Keeps.ite | apply State.finishDue_keeps | apply State.writeHead_keeps | apply State.incWrap_keeps
      | apply State.evt_keeps | apply State.setProg_keeps | apply State.setTrig_keeps | apply State.streamShow_keeps
      | apply State.trigShow_keeps | apply State.setProgState_keeps)
    | extract_lets | exact id | exact Nat.le_refl _ | split | (intro q; simpa [updAt] using q)
    | (intro q; exact (List.length_modify ..).trans q) | (intro q; exact (List.length_set ..).trans q))

theorem State.writeBerthArm_keeps {s0 s : State} {req : Requester} {p : Nat} {v : Nat} (hK : Keeps false pi pf pk s0 s) :
    Keeps false pi pf pk s0 (State.writeBerthArm s req p v) := by
  unfold State.writeBerthArm
  repeat' (first
    | (with_reducible first
      | assumption | apply Keeps.ite | apply State.arm_keeps | apply State.disarm_keeps)
    | extract_lets | exact id | exact Nat.le_refl _ | split | (intro q; simpa [updAt] using q)
    | (intro q; exact (List.length_modify ..).trans q) | (intro q; exact (List.length_set ..).trans q))

theorem State.writeForceTrig_keeps {s0 s : State} {c : Nat} {v : Nat} (hK : Keeps pm pi pf pk s0 s) :
    Keeps pm pi pf pk s0 (State.writeForceTrig s c v) := by
  unfold State.writeForceTrig
  repeat' (first
    | (with_reducible first
      | assumption | apply Keeps.ite | apply State.trigCome_keeps)
    | extract_lets | exact id | exact Nat.le_refl _ | split | (intro q; simpa [updAt] using q)
    | (intro q; exact (List.length_modify ..).trans q) | (intro q; exact (List.length_set ..).trans q))

theorem State.writeBerthReg_keeps {s0 s : State} {req : Requester} {p : Nat} {off : Nat} {addr : Nat} {v : Nat} (hK : Keeps pm pi pf pk s0 s) :
    Keeps pm pi pf pk s0 (State.writeBerthReg s req p off addr v) := by
  unfold State.writeBerthReg
  repeat' (first
    | (with_reducible first
      | assumption | apply Keeps.ite | apply State.regStore_keeps | apply State.berthRetry_keeps
      | apply State.streamShow_keeps | apply State.quiet_keeps)
    | extract_lets | exact id | exact Nat.le_refl _ | split | (intro q; simpa [updAt] using q)
    | (intro q; exact (List.length_modify ..).trans q) | (intro q; exact (List.length_set ..).trans q))

theorem State.writeTrigReg_keeps {s0 s : State} {req : Requester} {c : Nat} {addr : Nat} {v : Nat} (hK : Keeps pm pi pf pk s0 s) :
    Keeps pm pi pf pk s0 (State.writeTrigReg s req c addr v) := by
  unfold State.writeTrigReg
  repeat' (first
    | (with_reducible first
      | assumption | apply Keeps.ite | apply State.regStoreBut_keeps | apply State.quiet_keeps)
    | extract_lets | exact id | exact Nat.le_refl _ | split | (intro q; simpa [updAt] using q)
    | (intro q; exact (List.length_modify ..).trans q) | (intro q; exact (List.length_set ..).trans q)
    | (intro q; exact (List.length_map ..).trans q))

theorem State.berthLost_keeps {s0 s : State} (hK : Keeps false pi pf pk s0 s) :
    Keeps false pi pf pk s0 (State.berthLost s) := by
  unfold State.berthLost
  repeat' (first
    | (with_reducible first
      | assumption | apply Keeps.ite | apply State.zero_keeps | refine Keeps.each (fun _ _ _ => ?_) ?_
      | apply State.putBit_keeps | apply State.setProgState_keeps)
    | extract_lets | exact id | exact Nat.le_refl _ | split | (intro q; simpa [updAt] using q)
    | (intro q; exact (List.length_modify ..).trans q) | (intro q; exact (List.length_set ..).trans q))

theorem State.copyFail_keeps {s0 s : State} {p : Nat} (hK : Keeps pm pi pf pk s0 s) :
    Keeps pm pi pf pk s0 (State.copyFail s p) := by
  unfold State.copyFail
  repeat' (first
    | (with_reducible first
      | assumption | apply Keeps.ite | apply State.streamShow_keeps | apply State.progError_keeps
      | apply State.setProg_keeps)
    | extract_lets | exact id | exact Nat.le_refl _ | split | (intro q; simpa [updAt] using q)
    | (intro q; exact (List.length_modify ..).trans q) | (intro q; exact (List.length_set ..).trans q)
    | (intro q; exact (List.length_map ..).trans q))

end Sys2Proof.Machine
end

