-- ==== Sys2Proof/Laws/KeepsCam.lean ====
section
/-! SUPPORT. What the operations of Machine/Cam.lean keep. -/

set_option linter.all false

namespace Sys2Proof.Machine

variable {pm pi pf pk : Bool}

theorem State.alignLocal_keeps {s0 s : State} (hK : Keeps pm pi pf pk s0 s) :
    Keeps pm pi pf pk s0 (State.alignLocal s) := by
  unfold State.alignLocal
  repeat' (first
    | (with_reducible first
      | assumption | apply Keeps.ite)
    | extract_lets | exact id | exact Nat.le_refl _ | split | apply Keeps.with_locals | (intro q; simpa [updAt] using q)
    | (intro q; exact (List.length_modify ..).trans q) | (intro q; exact (List.length_set ..).trans q))

theorem State.setCamStr_keeps {s0 s : State} {p : Nat} {k : Nat} {f : CamStr → CamStr} (hK : Keeps pm pi pf pk s0 s) :
    Keeps pm pi pf pk s0 (State.setCamStr s p k f) := by
  unfold State.setCamStr
  repeat' (first
    | (with_reducible first
      | assumption | apply Keeps.ite)
    | extract_lets | exact id | exact Nat.le_refl _ | split | apply Keeps.with_cams | (intro q; simpa [updAt] using q)
    | (intro q; exact (List.length_modify ..).trans q) | (intro q; exact (List.length_set ..).trans q))

theorem State.setCur_keeps {s0 s : State} {p : Nat} {k : Nat} {f : CamFrame → CamFrame} (hK : Keeps pm pi pf pk s0 s) :
    Keeps pm pi pf pk s0 (State.setCur s p k f) := by
  unfold State.setCur
  repeat' (first
    | (with_reducible first
      | assumption | apply Keeps.ite | apply State.setCamStr_keeps)
    | extract_lets | exact id | exact Nat.le_refl _ | split | (intro q; simpa [updAt] using q)
    | (intro q; exact (List.length_modify ..).trans q) | (intro q; exact (List.length_set ..).trans q))

theorem State.camWrSync_keeps {s0 s : State} {p : Nat} {k : Nat} (hK : Keeps pm pi pf pk s0 s) :
    Keeps pm pi pf pk s0 (State.camWrSync s p k) := by
  unfold State.camWrSync
  repeat' (first
    | (with_reducible first
      | assumption | apply Keeps.ite | apply State.putF_keeps)
    | extract_lets | exact id | exact Nat.le_refl _ | split | (intro q; simpa [updAt] using q)
    | (intro q; exact (List.length_modify ..).trans q) | (intro q; exact (List.length_set ..).trans q)
    | (intro q; exact (List.length_map ..).trans q))

theorem State.camHeader_keeps {s0 s : State} {p : Nat} {hdr : Nat} (hK : Keeps pm pi pf pk s0 s) :
    Keeps pm pi pf pk s0 (State.camHeader s p hdr).2 := by
  unfold State.camHeader
  repeat' (first
    | (with_reducible first
      | assumption | apply Keeps.ite | apply Keeps.ite2 | apply State.evt_keeps | apply State.cnt_keeps
      | refine Keeps.each (fun _ _ _ => ?_) ?_ | apply State.setCur_keeps)
    | extract_lets | exact id | exact Nat.le_refl _ | split | (intro q; simpa [updAt] using q)
    | (intro q; exact (List.length_modify ..).trans q) | (intro q; exact (List.length_set ..).trans q))

theorem State.camWrite_keeps {s0 a_3 : State} {p : Nat} {env : MemEnv} {a : List (Nat × List Byte)} (hK : Keeps false pi pf pk s0 a_3) :
    Keeps false pi pf pk s0 (State.camWrite p env a a_3).2.2 := by
  induction a generalizing a_3 with
  | nil =>
    unfold State.camWrite
    repeat' (first
      | (with_reducible first
        | assumption | apply Keeps.ite | apply Keeps.ite3 | apply State.writeRange_keeps)
      | extract_lets | exact id | exact Nat.le_refl _ | split | (intro q; simpa [updAt] using q)
      | (intro q; exact (List.length_modify ..).trans q) | (intro q; exact (List.length_set ..).trans q)
      | (intro q; exact (List.length_map ..).trans q))
  | cons _ _ ih =>
    unfold State.camWrite
    repeat' (first
      | (with_reducible first
        | assumption | apply Keeps.ite | apply ih | apply Keeps.ite3 | apply State.writeRange_keeps)
      | extract_lets | exact id | exact Nat.le_refl _ | split | (intro q; simpa [updAt] using q)
      | (intro q; exact (List.length_modify ..).trans q) | (intro q; exact (List.length_set ..).trans q)
      | (intro q; exact (List.length_map ..).trans q))

theorem State.camWrErr_keeps {s0 s : State} {p : Nat} (hK : Keeps pm pi pf pk s0 s) :
    Keeps pm pi pf pk s0 (State.camWrErr s p) := by
  unfold State.camWrErr
  repeat' (first
    | (with_reducible first
      | assumption | apply Keeps.ite | apply State.evt_keeps | apply State.putBit_keeps)
    | extract_lets | exact id | exact Nat.le_refl _ | split | (intro q; simpa [updAt] using q)
    | (intro q; exact (List.length_modify ..).trans q) | (intro q; exact (List.length_set ..).trans q))

theorem State.camDrain_keeps {s0 s : State} {p : Nat} {f : CamFrame} {env : MemEnv} (hK : Keeps false pi pf pk s0 s) :
    Keeps false pi pf pk s0 (State.camDrain s p f env).2 := by
  unfold State.camDrain
  repeat' (first
    | (with_reducible first
      | assumption | apply Keeps.ite | apply Keeps.ite2 | apply State.camWrite_keeps | apply State.camWrErr_keeps)
    | extract_lets | exact id | exact Nat.le_refl _ | split | (intro q; simpa [updAt] using q)
    | (intro q; exact (List.length_modify ..).trans q) | (intro q; exact (List.length_set ..).trans q)
    | (intro q; exact (List.length_map ..).trans q))

theorem State.camEnd_keeps {s0 s : State} {p : Nat} {k : Nat} {flags : Nat} (hK : Keeps pm pi pf pk s0 s) :
    Keeps pm pi pf pk s0 (State.camEnd s p k flags) := by
  unfold State.camEnd
  repeat' (first
    | (with_reducible first
      | assumption | apply Keeps.ite | apply State.setCamStr_keeps)
    | extract_lets | exact id | exact Nat.le_refl _ | split | (intro q; simpa [updAt] using q)
    | (intro q; exact (List.length_modify ..).trans q) | (intro q; exact (List.length_set ..).trans q))

theorem State.camStart_keeps {s0 s : State} {p : Nat} {k : Nat} {num : Nat} (hK : Keeps pm pi pf pk s0 s) :
    Keeps pm pi pf pk s0 (State.camStart s p k num) := by
  unfold State.camStart
  repeat' (first
    | (with_reducible first
      | assumption | apply Keeps.ite | apply State.cnt_keeps | apply State.camEnd_keeps | apply State.incWrap_keeps
      | apply State.evt_keeps | apply State.setCamStr_keeps)
    | extract_lets | exact id | exact Nat.le_refl _ | split | (intro q; simpa [updAt] using q)
    | (intro q; exact (List.length_modify ..).trans q) | (intro q; exact (List.length_set ..).trans q))

theorem State.camLine_keeps {s0 s : State} {p : Nat} {k : Nat} {dt : Nat} {l : List Byte} {crc : Bool} {room : Option Nat} (hK : Keeps false pi pf pk s0 s) :
    Keeps false pi pf pk s0 (State.camLine s p k dt l crc room) := by
  unfold State.camLine
  repeat' (first
    | (with_reducible first
      | assumption | apply Keeps.ite | apply State.setCur_keeps | apply State.evt_keeps | apply State.cnt_keeps
      | apply State.camDrain_keeps)
    | extract_lets | exact id | exact Nat.le_refl _ | split | (intro q; simpa [updAt] using q)
    | (intro q; exact (List.length_modify ..).trans q) | (intro q; exact (List.length_set ..).trans q)
    | (intro q; exact (List.length_map ..).trans q))

theorem State.camComplete_keeps {s0 s : State} {p : Nat} {k : Nat} {f : CamFrame} (hK : Keeps pm pi pf pk s0 s) :
    Keeps pm pi pf pk s0 (State.camComplete s p k f) := by
  unfold State.camComplete
  repeat' (first
    | (with_reducible first
      | assumption | apply Keeps.ite | apply State.camWrSync_keeps | apply State.putF_keeps | apply State.evt_keeps
      | apply State.funcReady_keeps | apply State.blockDoorbell_keeps)
    | extract_lets | exact id | exact Nat.le_refl _ | split | (intro q; simpa [updAt] using q)
    | (intro q; exact (List.length_modify ..).trans q) | (intro q; exact (List.length_set ..).trans q)
    | (intro q; exact (List.length_map ..).trans q))

theorem State.writeCamRd_keeps {s0 s : State} {req : Requester} {p : Nat} {k : Nat} {v : Nat} (hK : Keeps pm pi pf pk s0 s) :
    Keeps pm pi pf pk s0 (State.writeCamRd s req p k v) := by
  unfold State.writeCamRd
  repeat' (first
    | (with_reducible first
      | assumption | apply Keeps.ite | apply State.quiet_keeps | apply State.camWrSync_keeps | apply State.putF_keeps)
    | extract_lets | exact id | exact Nat.le_refl _ | split | (intro q; simpa [updAt] using q)
    | (intro q; exact (List.length_modify ..).trans q) | (intro q; exact (List.length_set ..).trans q)
    | (intro q; exact (List.length_map ..).trans q))

theorem State.writeCamCtl_keeps {s0 s : State} {req : Requester} {p : Nat} {v : Nat} (hK : Keeps pm pi pf pk s0 s) :
    Keeps pm pi pf pk s0 (State.writeCamCtl s req p v) := by
  unfold State.writeCamCtl
  repeat' (first
    | (with_reducible first
      | assumption | apply Keeps.ite | apply State.heldWrite_keeps | apply State.wr_keeps | apply State.lvl_keeps
      | apply State.putF_keeps | apply State.camDiscard_keeps | apply State.funcLost_keeps)
    | extract_lets | exact id | exact Nat.le_refl _ | split | apply Keeps.with_cams | (intro q; simpa [updAt] using q)
    | (intro q; exact (List.length_modify ..).trans q) | (intro q; exact (List.length_set ..).trans q)
    | (intro q; exact (List.length_map ..).trans q))

theorem State.writeCamSel_keeps {s0 s : State} {req : Requester} {p : Nat} {k : Nat} {v : Nat} (hK : Keeps pm pi pf pk s0 s) :
    Keeps pm pi pf pk s0 (State.writeCamSel s req p k v) := by
  unfold State.writeCamSel
  repeat' (first
    | (with_reducible first
      | assumption | apply Keeps.ite | apply State.heldWrite_keeps | apply State.setCamStr_keeps)
    | extract_lets | exact id | exact Nat.le_refl _ | split | (intro q; simpa [updAt] using q)
    | (intro q; exact (List.length_modify ..).trans q) | (intro q; exact (List.length_set ..).trans q))

theorem State.writeCamStr_keeps {s0 s : State} {req : Requester} {p : Nat} {k : Nat} {a : Nat} {v : Nat} (hK : Keeps pm pi pf pk s0 s) :
    Keeps pm pi pf pk s0 (State.writeCamStr s req p k a v) := by
  unfold State.writeCamStr
  repeat' (first
    | (with_reducible first
      | assumption | apply Keeps.ite | apply State.quiet_keeps | apply State.camWrSync_keeps
      | apply State.regStore_keeps)
    | extract_lets | exact id | exact Nat.le_refl _ | split | (intro q; simpa [updAt] using q)
    | (intro q; exact (List.length_modify ..).trans q) | (intro q; exact (List.length_set ..).trans q)
    | (intro q; exact (List.length_map ..).trans q))

end Sys2Proof.Machine
end

