-- ==== Sys2Proof/Laws/KeepsDramCtl.lean ====
section
/-! SUPPORT. What the operations of Machine/DramCtl.lean keep. -/

set_option linter.all false

namespace Sys2Proof.Machine

variable {pm pi pf pk : Bool}

theorem State.setDmcState_keeps {s0 s : State} {x : Nat} {v : Nat} (hK : Keeps pm pi pf pk s0 s) :
    Keeps pm pi pf pk s0 (State.setDmcState s x v) := by
  unfold State.setDmcState
  repeat' (first
    | (with_reducible first
      | assumption | apply Keeps.ite | apply State.putF_keeps)
    | extract_lets | exact id | exact Nat.le_refl _ | split | (intro q; simpa [updAt] using q)
    | (intro q; exact (List.length_modify ..).trans q) | (intro q; exact (List.length_set ..).trans q))

theorem State.eachDmc_keeps {s0 s : State} {f : State → Nat → State} (h_f : ∀ u x1, Keeps pm pi pf pk s0 u → Keeps pm pi pf pk s0 (f u x1)) (hK : Keeps pm pi pf pk s0 s) :
    Keeps pm pi pf pk s0 (State.eachDmc s f) := by
  unfold State.eachDmc
  repeat' (first
    | (with_reducible first
      | assumption | apply Keeps.ite | refine Keeps.each (fun _ _ _ => ?_) ?_ | apply h_f)
    | extract_lets | exact id | exact Nat.le_refl _ | split | (intro q; simpa [updAt] using q)
    | (intro q; exact (List.length_modify ..).trans q) | (intro q; exact (List.length_set ..).trans q)
    | (intro q; exact (List.length_map ..).trans q))

theorem State.startTraining_keeps {s0 s : State} {x : Nat} (hK : Keeps pm pi pf pk s0 s) :
    Keeps pm pi pf pk s0 (State.startTraining s x) := by
  unfold State.startTraining
  repeat' (first
    | (with_reducible first
      | assumption | apply Keeps.ite | apply State.setDmcState_keeps | apply State.setDmc_keeps)
    | extract_lets | exact id | exact Nat.le_refl _ | split | (intro q; simpa [updAt] using q)
    | (intro q; exact (List.length_modify ..).trans q) | (intro q; exact (List.length_set ..).trans q))

theorem State.dmcRelease_keeps {s0 s : State} (hK : Keeps pm pi pf pk s0 s) :
    Keeps pm pi pf pk s0 (State.dmcRelease s) := by
  unfold State.dmcRelease
  repeat' (first
    | (with_reducible first
      | assumption | apply Keeps.ite | refine State.eachDmc_keeps (fun _ _ _ => ?_) ?_ | apply State.setDmcState_keeps
      | apply State.startTraining_keeps)
    | extract_lets | exact id | exact Nat.le_refl _ | split | (intro q; simpa [updAt] using q)
    | (intro q; exact (List.length_modify ..).trans q) | (intro q; exact (List.length_set ..).trans q))

theorem State.showNext_keeps {s0 s : State} {x : Nat} (hK : Keeps pm pi pf pk s0 s) :
    Keeps pm pi pf pk s0 (State.showNext s x) := by
  unfold State.showNext
  repeat' (first
    | (with_reducible first
      | assumption | apply Keeps.ite | apply State.wr_keeps | apply State.fresh_keeps)
    | extract_lets | exact id | exact Nat.le_refl _ | split | (intro q; simpa [updAt] using q)
    | (intro q; exact (List.length_modify ..).trans q) | (intro q; exact (List.length_set ..).trans q))

theorem State.showRate_keeps {s0 s : State} (hK : Keeps pm pi pf pk s0 s) :
    Keeps pm pi pf pk s0 (State.showRate s) := by
  unfold State.showRate
  repeat' (first
    | (with_reducible first
      | assumption | apply Keeps.ite | refine State.eachDmc_keeps (fun _ _ _ => ?_) ?_ | apply State.wr_keeps
      | apply State.putF_keeps)
    | extract_lets | exact id | exact Nat.le_refl _ | split | (intro q; simpa [updAt] using q)
    | (intro q; exact (List.length_modify ..).trans q) | (intro q; exact (List.length_set ..).trans q))

theorem State.startGrid_keeps {s0 s : State} (hK : Keeps pm pi pf pk s0 s) :
    Keeps pm pi pf pk s0 (State.startGrid s) := by
  unfold State.startGrid
  repeat' (first
    | (with_reducible first
      | assumption | apply Keeps.ite | apply State.showRate_keeps | refine State.eachDmc_keeps (fun _ _ _ => ?_) ?_
      | apply State.showNext_keeps | apply State.putF_keeps)
    | extract_lets | exact id | exact Nat.le_refl _ | split | apply Keeps.with_grid | (intro q; simpa [updAt] using q)
    | (intro q; exact (List.length_modify ..).trans q) | (intro q; exact (List.length_set ..).trans q))

theorem State.dmcDegraded_keeps {s0 s : State} (hK : Keeps pm pi pf pk s0 s) :
    Keeps pm pi pf pk s0 (State.dmcDegraded s) := by
  unfold State.dmcDegraded
  repeat' (first
    | (with_reducible first
      | assumption | apply Keeps.ite | refine State.eachDmc_keeps (fun _ _ _ => ?_) ?_ | apply State.lvl_keeps
      | apply State.putBit_keeps)
    | extract_lets | exact id | exact Nat.le_refl _ | split | (intro q; simpa [updAt] using q)
    | (intro q; exact (List.length_modify ..).trans q) | (intro q; exact (List.length_set ..).trans q))

theorem State.dramReady_keeps {s0 s : State} (hK : Keeps pm pi pf pk s0 s) :
    Keeps pm pi pf pk s0 (State.dramReady s) := by
  unfold State.dramReady
  repeat' (first
    | (with_reducible first
      | assumption | apply Keeps.ite | apply State.funcReady_keeps)
    | extract_lets | exact id | exact Nat.le_refl _ | split | (intro q; simpa [updAt] using q)
    | (intro q; exact (List.length_modify ..).trans q) | (intro q; exact (List.length_set ..).trans q)
    | (intro q; exact (List.length_map ..).trans q))

theorem State.fixSet_keeps {s0 s : State} (hK : Keeps false pi pf pk s0 s) :
    Keeps false pi pf pk s0 (State.fixSet s) := by
  unfold State.fixSet
  repeat' (first
    | (with_reducible first
      | assumption | apply Keeps.ite | refine State.eachDmc_keeps (fun _ _ _ => ?_) ?_ | apply State.putBit_keeps
      | apply State.wr_keeps | apply State.emit_keeps | apply State.dmcDegraded_keeps | apply State.zero_keeps
      | apply State.dramReady_keeps | apply State.startGrid_keeps)
    | extract_lets | exact id | exact Nat.le_refl _ | split | apply Keeps.with_poison | (intro q; simpa [updAt] using q)
    | (intro q; exact (List.length_modify ..).trans q) | (intro q; exact (List.length_set ..).trans q)
    | (intro q; exact (List.length_map ..).trans q))

theorem State.trainTime_keeps {s0 s : State} {x : Nat} (hK : Keeps pm pi pf pk s0 s) :
    Keeps pm pi pf pk s0 (State.trainTime s x) := by
  unfold State.trainTime
  repeat' (first
    | (with_reducible first
      | assumption | apply Keeps.ite | apply State.putF_keeps)
    | extract_lets | exact id | exact Nat.le_refl _ | split | (intro q; simpa [updAt] using q)
    | (intro q; exact (List.length_modify ..).trans q) | (intro q; exact (List.length_set ..).trans q)
    | (intro q; exact (List.length_map ..).trans q))

theorem State.trained_keeps {s0 s : State} {x : Nat} {step : Nat} (hK : Keeps false pi pf pk s0 s) :
    Keeps false pi pf pk s0 (State.trained s x step) := by
  unfold State.trained
  repeat' (first
    | (with_reducible first
      | assumption | apply Keeps.ite | apply State.trainTime_keeps | apply State.putF_keeps | apply State.evt_keeps
      | apply State.setDmcState_keeps | apply State.setDmc_keeps | apply State.putBit_keeps | apply State.fixSet_keeps)
    | extract_lets | exact id | exact Nat.le_refl _ | split | (intro q; simpa [updAt] using q)
    | (intro q; exact (List.length_modify ..).trans q) | (intro q; exact (List.length_set ..).trans q)
    | (intro q; exact (List.length_map ..).trans q))

theorem State.trainPass_keeps {s0 s : State} {x : Nat} {mode : Nat} {rate : Nat} (hK : Keeps false pi pf pk s0 s) :
    Keeps false pi pf pk s0 (State.trainPass s x mode rate) := by
  unfold State.trainPass
  repeat' (first
    | (with_reducible first
      | assumption | apply Keeps.ite | apply State.putF_keeps | apply State.setDmcState_keeps
      | apply State.trainTime_keeps | apply State.trained_keeps)
    | extract_lets | exact id | exact Nat.le_refl _ | split | (intro q; simpa [updAt] using q)
    | (intro q; exact (List.length_modify ..).trans q) | (intro q; exact (List.length_set ..).trans q)
    | (intro q; exact (List.length_map ..).trans q))

theorem State.dmcCtl_keeps {s0 s : State} {x : Nat} {held : Bool} (hK : Keeps pm pi pf pk s0 s) :
    Keeps pm pi pf pk s0 (State.dmcCtl s x held) := by
  unfold State.dmcCtl
  repeat' (first
    | (with_reducible first
      | assumption | apply Keeps.ite | apply State.startTraining_keeps)
    | extract_lets | exact id | exact Nat.le_refl _ | split | (intro q; simpa [updAt] using q)
    | (intro q; exact (List.length_modify ..).trans q) | (intro q; exact (List.length_set ..).trans q))

theorem State.dmcCfg_keeps {s0 s : State} {x : Nat} (hK : Keeps false pi pf pk s0 s) :
    Keeps false pi pf pk s0 (State.dmcCfg s x) := by
  unfold State.dmcCfg
  repeat' (first
    | (with_reducible first
      | assumption | apply Keeps.ite | apply State.fixSet_keeps | apply State.setDmcState_keeps
      | apply State.startTraining_keeps)
    | extract_lets | exact id | exact Nat.le_refl _ | split | (intro q; simpa [updAt] using q)
    | (intro q; exact (List.length_modify ..).trans q) | (intro q; exact (List.length_set ..).trans q))

theorem State.newGrid_keeps {s0 s : State} {b : Nat} {rate : Nat} (hK : Keeps pm pi pf pk s0 s) :
    Keeps pm pi pf pk s0 (State.newGrid s b rate) := by
  unfold State.newGrid
  repeat' (first
    | (with_reducible first
      | assumption | apply Keeps.ite | apply State.showRate_keeps | refine State.eachDmc_keeps (fun _ _ _ => ?_) ?_
      | apply State.evt_keeps)
    | extract_lets | exact id | exact Nat.le_refl _ | split | apply Keeps.with_grid | (intro q; simpa [updAt] using q)
    | (intro q; exact (List.length_modify ..).trans q) | (intro q; exact (List.length_set ..).trans q))

end Sys2Proof.Machine
end

