-- ==== Sys2Proof/Laws/KeepsFerry.lean ====
section
/-! SUPPORT. What the operations of Machine/Ferry.lean keep. -/

set_option linter.all false

namespace Sys2Proof.Machine

variable {pm pi pf pk : Bool}

theorem State.setFerry_keeps {s0 s : State} {f : Nat} {g : Ferry → Ferry} (hK : Keeps pm pi pf pk s0 s) :
    Keeps pm pi pf pk s0 (State.setFerry s f g) := by
  unfold State.setFerry
  repeat' (first
    | (with_reducible first
      | assumption | apply Keeps.ite)
    | extract_lets | exact id | exact Nat.le_refl _ | split | apply Keeps.with_ferries | (intro q; simpa [updAt] using q)
    | (intro q; exact (List.length_modify ..).trans q) | (intro q; exact (List.length_set ..).trans q))

theorem State.ferrySync_keeps {s0 s : State} {f : Nat} (hK : Keeps pm pi pf pk s0 s) :
    Keeps pm pi pf pk s0 (State.ferrySync s f) := by
  unfold State.ferrySync
  repeat' (first
    | (with_reducible first
      | assumption | apply Keeps.ite | apply State.putBit_keeps | apply State.putF_keeps)
    | extract_lets | exact id | exact Nat.le_refl _ | split | (intro q; simpa [updAt] using q)
    | (intro q; exact (List.length_modify ..).trans q) | (intro q; exact (List.length_set ..).trans q))

theorem State.ferryOpen_keeps {s0 s : State} {f : Nat} (hK : Keeps pm pi pf pk s0 s) :
    Keeps pm pi pf pk s0 (State.ferryOpen s f) := by
  unfold State.ferryOpen
  repeat' (first
    | (with_reducible first
      | assumption | apply Keeps.ite | apply State.putF_keeps)
    | extract_lets | exact id | exact Nat.le_refl _ | split | (intro q; simpa [updAt] using q)
    | (intro q; exact (List.length_modify ..).trans q) | (intro q; exact (List.length_set ..).trans q)
    | (intro q; exact (List.length_map ..).trans q))

theorem State.writeQPush_keeps {s0 s : State} {req : Requester} {f : Nat} {v : Nat} (hK : Keeps pm pi pf pk s0 s) :
    Keeps pm pi pf pk s0 (State.writeQPush s req f v) := by
  unfold State.writeQPush
  repeat' (first
    | (with_reducible first
      | assumption | apply Keeps.ite | apply State.quiet_keeps | apply State.ferrySync_keeps | apply State.setFerry_keeps)
    | extract_lets | exact id | exact Nat.le_refl _ | split | (intro q; simpa [updAt] using q)
    | (intro q; exact (List.length_modify ..).trans q) | (intro q; exact (List.length_set ..).trans q))

theorem State.ferryReturn_keeps {s0 s : State} {f : Nat} (hK : Keeps pm pi pf pk s0 s) :
    Keeps pm pi pf pk s0 (State.ferryReturn s f) := by
  unfold State.ferryReturn
  repeat' (first
    | (with_reducible first
      | assumption | apply Keeps.ite | apply State.giveBack_keeps)
    | extract_lets | exact id | exact Nat.le_refl _ | split | (intro q; simpa [updAt] using q)
    | (intro q; exact (List.length_modify ..).trans q) | (intro q; exact (List.length_set ..).trans q))

theorem State.ferryFail_keeps {s0 s : State} {f : Nat} {addr : Nat} {err : Nat} (hK : Keeps pm pi pf pk s0 s) :
    Keeps pm pi pf pk s0 (State.ferryFail s f addr err) := by
  unfold State.ferryFail
  repeat' (first
    | (with_reducible first
      | assumption | apply Keeps.ite | apply State.dropAcks_keeps | apply State.evt_keeps | apply State.putF_keeps
      | apply State.ferryErr_keeps | apply State.ferryReturn_keeps | apply State.ferrySync_keeps
      | apply State.setFerry_keeps)
    | extract_lets | exact id | exact Nat.le_refl _ | split | (intro q; simpa [updAt] using q)
    | (intro q; exact (List.length_modify ..).trans q) | (intro q; exact (List.length_set ..).trans q)
    | (intro q; exact (List.length_map ..).trans q))

theorem State.ferryAsked_keeps {s0 s : State} {f : Nat} {q : FerryOp} {r : Asked} (hK : Keeps pm pi pf pk s0 s) :
    Keeps pm pi pf pk s0 (State.ferryAsked s f q r) := by
  unfold State.ferryAsked
  repeat' (first
    | (with_reducible first
      | assumption | apply Keeps.ite | apply State.setFerry_keeps | apply State.ferryFail_keeps)
    | extract_lets | exact id | exact Nat.le_refl _ | split | (intro q; simpa [updAt] using q)
    | (intro q; exact (List.length_modify ..).trans q) | (intro q; exact (List.length_set ..).trans q))

theorem State.ferryAsk_keeps {s0 s : State} {f : Nat} {q : FerryOp} (hK : Keeps pm pi pf pk s0 s) :
    Keeps pm pi pf pk s0 (State.ferryAsk s f q) := by
  unfold State.ferryAsk
  repeat' (first
    | (with_reducible first
      | assumption | apply Keeps.ite | apply State.setFerry_keeps | apply State.askTicket_keeps
      | apply State.ferryAsked_keeps)
    | extract_lets | exact id | exact Nat.le_refl _ | split | (intro q; simpa [updAt] using q)
    | (intro q; exact (List.length_modify ..).trans q) | (intro q; exact (List.length_set ..).trans q))

theorem State.ferryCopy_keeps {s0 a_5 : State} {f : Nat} {q : FerryOp} {tag : Option Nat} {env : MemEnv} {a : List Nat} (hK : Keeps false pi pf pk s0 a_5) :
    Keeps false pi pf pk s0 (State.ferryCopy f q tag env a a_5).2 := by
  induction a generalizing a_5 with
  | nil =>
    unfold State.ferryCopy
    repeat' (first
      | (with_reducible first
        | assumption | apply Keeps.ite | apply Keeps.ite2 | apply State.readRange_keeps | apply State.writeRange_keeps)
      | extract_lets | exact id | exact Nat.le_refl _ | split | (intro q; simpa [updAt] using q)
      | (intro q; exact (List.length_modify ..).trans q) | (intro q; exact (List.length_set ..).trans q)
      | (intro q; exact (List.length_map ..).trans q))
  | cons _ _ ih =>
    unfold State.ferryCopy
    repeat' (first
      | (with_reducible first
        | assumption | apply Keeps.ite | apply ih | apply Keeps.ite2 | apply State.readRange_keeps
        | apply State.writeRange_keeps)
      | extract_lets | exact id | exact Nat.le_refl _ | split | (intro q; simpa [updAt] using q)
      | (intro q; exact (List.length_modify ..).trans q) | (intro q; exact (List.length_set ..).trans q)
      | (intro q; exact (List.length_map ..).trans q))

theorem State.freeBytes_keeps {s0 s : State} {a : Nat} {n : Nat} (hK : Keeps false pi pf pk s0 s) :
    Keeps false pi pf pk s0 (State.freeBytes s a n) := by
  unfold State.freeBytes
  repeat' (first
    | (with_reducible first
      | assumption | apply Keeps.ite | refine Keeps.each (fun _ _ _ => ?_) ?_ | apply State.fresh_keeps
      | apply State.setByte_keeps)
    | extract_lets | exact id | exact Nat.le_refl _ | split | (intro q; simpa [updAt] using q)
    | (intro q; exact (List.length_modify ..).trans q) | (intro q; exact (List.length_set ..).trans q))

theorem State.ferryDone_keeps {s0 s : State} {f : Nat} {q : FerryOp} (hK : Keeps pm pi pf pk s0 s) :
    Keeps pm pi pf pk s0 (State.ferryDone s f q) := by
  unfold State.ferryDone
  repeat' (first
    | (with_reducible first
      | assumption | apply Keeps.ite | apply State.setFerry_keeps | apply State.incWrap_keeps
      | apply State.ferryBytes_keeps | apply State.evt_keeps | apply State.ferrySync_keeps
      | apply State.blockDoorbell_keeps)
    | extract_lets | exact id | exact Nat.le_refl _ | split | (intro q; simpa [updAt] using q)
    | (intro q; exact (List.length_modify ..).trans q) | (intro q; exact (List.length_set ..).trans q)
    | (intro q; exact (List.length_map ..).trans q))

theorem State.ferryEnd_keeps {s0 s : State} {f : Nat} {q : FerryOp} (hK : Keeps pm pi pf pk s0 s) :
    Keeps pm pi pf pk s0 (State.ferryEnd s f q) := by
  unfold State.ferryEnd
  repeat' (first
    | (with_reducible first
      | assumption | apply Keeps.ite | apply State.ferryDone_keeps | apply State.setFerry_keeps
      | apply State.ferryFail_keeps)
    | extract_lets | exact id | exact Nat.le_refl _ | split | (intro q; simpa [updAt] using q)
    | (intro q; exact (List.length_modify ..).trans q) | (intro q; exact (List.length_set ..).trans q)
    | (intro q; exact (List.length_map ..).trans q))

theorem State.writeFerryCtl_keeps {s0 s : State} {req : Requester} {f : Nat} {v : Nat} (hK : Keeps pm pi pf pk s0 s) :
    Keeps pm pi pf pk s0 (State.writeFerryCtl s req f v) := by
  unfold State.writeFerryCtl
  repeat' (first
    | (with_reducible first
      | assumption | apply Keeps.ite | apply State.regStore_keeps | apply State.ferrySync_keeps | apply State.setFerry_keeps)
    | extract_lets | exact id | exact Nat.le_refl _ | split | (intro q; simpa [updAt] using q)
    | (intro q; exact (List.length_modify ..).trans q) | (intro q; exact (List.length_set ..).trans q))

theorem State.ferryDiscard_keeps {s0 s : State} {f : Nat} (hK : Keeps pm pi pf pk s0 s) :
    Keeps pm pi pf pk s0 (State.ferryDiscard s f) := by
  unfold State.ferryDiscard
  repeat' (first
    | (with_reducible first
      | assumption | apply Keeps.ite | apply State.putF_keeps | apply State.addSat_keeps | apply State.ferrySync_keeps
      | apply State.setFerry_keeps | apply State.evt_keeps)
    | extract_lets | exact id | exact Nat.le_refl _ | split | (intro q; simpa [updAt] using q)
    | (intro q; exact (List.length_modify ..).trans q) | (intro q; exact (List.length_set ..).trans q))

theorem State.ferryAbort_keeps {s0 s : State} {f : Nat} (hK : Keeps pm pi pf pk s0 s) :
    Keeps pm pi pf pk s0 (State.ferryAbort s f) := by
  unfold State.ferryAbort
  repeat' (first
    | (with_reducible first
      | assumption | apply Keeps.ite | apply State.ferryFail_keeps)
    | extract_lets | exact id | exact Nat.le_refl _ | split | (intro q; simpa [updAt] using q)
    | (intro q; exact (List.length_modify ..).trans q) | (intro q; exact (List.length_set ..).trans q))

theorem State.ferryRetry_keeps {s0 s : State} {f : Nat} (hK : Keeps pm pi pf pk s0 s) :
    Keeps pm pi pf pk s0 (State.ferryRetry s f) := by
  unfold State.ferryRetry
  repeat' (first
    | (with_reducible first
      | assumption | apply Keeps.ite | apply State.ferryAsk_keeps)
    | extract_lets | exact id | exact Nat.le_refl _ | split | (intro q; simpa [updAt] using q)
    | (intro q; exact (List.length_modify ..).trans q) | (intro q; exact (List.length_set ..).trans q))

theorem State.ferryWaitExpired_keeps {s0 s : State} {f : Nat} (hK : Keeps pm pi pf pk s0 s) :
    Keeps pm pi pf pk s0 (State.ferryWaitExpired s f) := by
  unfold State.ferryWaitExpired
  repeat' (first
    | (with_reducible first
      | assumption | apply Keeps.ite | apply State.ferryFail_keeps)
    | extract_lets | exact id | exact Nat.le_refl _ | split | (intro q; simpa [updAt] using q)
    | (intro q; exact (List.length_modify ..).trans q) | (intro q; exact (List.length_set ..).trans q))

end Sys2Proof.Machine
end

