-- ==== Sys2Proof/Laws/KeepsGrove.lean ====
section
/-! SUPPORT. What the operations of Machine/Grove.lean keep. -/

set_option linter.all false

namespace Sys2Proof.Machine

variable {pm pi pf pk : Bool}

theorem State.mopSync_keeps {s0 s : State} {g : Nat} (hK : Keeps pm pi pf pk s0 s) :
    Keeps pm pi pf pk s0 (State.mopSync s g) := by
  unfold State.mopSync
  repeat' (first
    | (with_reducible first
      | assumption | apply Keeps.ite | apply State.putBit_keeps | apply State.putF_keeps)
    | extract_lets | exact id | exact Nat.le_refl _ | split | (intro q; simpa [updAt] using q)
    | (intro q; exact (List.length_modify ..).trans q) | (intro q; exact (List.length_set ..).trans q))

theorem State.mopEnd_keeps {s0 s : State} {g : Nat} {err : Nat} (hK : Keeps pm pi pf pk s0 s) :
    Keeps pm pi pf pk s0 (State.mopEnd s g err) := by
  unfold State.mopEnd
  repeat' (first
    | (with_reducible first
      | assumption | apply Keeps.ite | apply State.putF_keeps | apply State.evt_keeps | apply State.incWrap_keeps
      | apply State.mopSync_keeps)
    | extract_lets | exact id | exact Nat.le_refl _ | split | apply Keeps.with_mops | (intro q; simpa [updAt] using q)
    | (intro q; exact (List.length_modify ..).trans q) | (intro q; exact (List.length_set ..).trans q))

theorem State.writeMopGo_keeps {s0 s : State} {req : Requester} {g : Nat} {v : Nat} (hK : Keeps pm pi pf pk s0 s) :
    Keeps pm pi pf pk s0 (State.writeMopGo s req g v) := by
  unfold State.writeMopGo
  repeat' (first
    | (with_reducible first
      | assumption | apply Keeps.ite | apply State.quiet_keeps | apply State.mopSync_keeps)
    | extract_lets | exact id | exact Nat.le_refl _ | split | apply Keeps.with_mops | (intro q; simpa [updAt] using q)
    | (intro q; exact (List.length_modify ..).trans q) | (intro q; exact (List.length_set ..).trans q))

theorem State.mopRead_keeps {s0 a_4 : State} {g : Nat} {env : MemEnv} {a : List Nat} {a_3 : List (List Byte)} (hK : Keeps false pi pf pk s0 a_4) :
    Keeps false pi pf pk s0 (State.mopRead g env a a_3 a_4).2.2.2 := by
  induction a generalizing a_3 a_4 with
  | nil =>
    unfold State.mopRead
    repeat' (first
      | (with_reducible first
        | assumption | apply Keeps.ite | apply State.blockServe_keeps)
      | extract_lets | exact id | exact Nat.le_refl _ | split | (intro q; simpa [updAt] using q)
      | (intro q; exact (List.length_modify ..).trans q) | (intro q; exact (List.length_set ..).trans q)
      | (intro q; exact (List.length_map ..).trans q))
  | cons _ _ ih =>
    unfold State.mopRead
    repeat' (first
      | (with_reducible first
        | assumption | apply Keeps.ite | apply ih | apply State.blockServe_keeps)
      | extract_lets | exact id | exact Nat.le_refl _ | split | (intro q; simpa [updAt] using q)
      | (intro q; exact (List.length_modify ..).trans q) | (intro q; exact (List.length_set ..).trans q)
      | (intro q; exact (List.length_map ..).trans q))

theorem State.mopWrite_keeps {s0 a_3 : State} {g : Nat} {env : MemEnv} {a : List (Nat × List Byte)} (hK : Keeps false pi pf pk s0 a_3) :
    Keeps false pi pf pk s0 (State.mopWrite g env a a_3).2 := by
  induction a generalizing a_3 with
  | nil =>
    unfold State.mopWrite
    repeat' (first
      | (with_reducible first
        | assumption | apply Keeps.ite | apply Keeps.ite2 | apply State.blockServe_keeps)
      | extract_lets | exact id | exact Nat.le_refl _ | split | (intro q; simpa [updAt] using q)
      | (intro q; exact (List.length_modify ..).trans q) | (intro q; exact (List.length_set ..).trans q)
      | (intro q; exact (List.length_map ..).trans q))
  | cons _ _ ih =>
    unfold State.mopWrite
    repeat' (first
      | (with_reducible first
        | assumption | apply Keeps.ite | apply ih | apply Keeps.ite2 | apply State.blockServe_keeps)
      | extract_lets | exact id | exact Nat.le_refl _ | split | (intro q; simpa [updAt] using q)
      | (intro q; exact (List.length_modify ..).trans q) | (intro q; exact (List.length_set ..).trans q)
      | (intro q; exact (List.length_map ..).trans q))

theorem State.mopRun_keeps {s0 s : State} {g : Nat} {m : MemOp} {env : MemEnv} (hK : Keeps false pi pf pk s0 s) :
    KeepsO false pi pf pk s0 (State.mopRun s g m env) := by
  unfold State.mopRun
  repeat' (first
    | (with_reducible first
      | assumption | apply KeepsO.ite | apply Keeps.ite | refine KeepsS.getD ?_ ?_ | apply State.mopWrite_keeps
      | apply State.mopRead_keeps | apply KeepsO.some | exact KeepsO.none | apply KeepsS.some | exact KeepsS.none)
    | extract_lets | exact id | exact Nat.le_refl _ | split | (intro q; simpa [updAt] using q)
    | (intro q; exact (List.length_modify ..).trans q) | (intro q; exact (List.length_set ..).trans q)
    | (intro q; exact (List.length_map ..).trans q))

theorem State.startClear_keeps {s0 s : State} {g : Nat} (hK : Keeps pm pi pf pk s0 s) :
    Keeps pm pi pf pk s0 (State.startClear s g) := by
  unfold State.startClear
  repeat' (first
    | (with_reducible first
      | assumption | apply Keeps.ite | refine Keeps.each (fun _ _ _ => ?_) ?_ | apply State.purgeOffice_keeps
      | apply State.mopEnd_keeps | apply State.putBit_keeps | apply State.incWrap_keeps | apply State.putF_keeps
      | apply State.dropEcc_keeps | apply State.coreSync_keeps)
    | extract_lets | exact id | exact Nat.le_refl _ | split | (intro q; simpa [updAt] using q)
    | (intro q; exact (List.length_modify ..).trans q) | (intro q; exact (List.length_set ..).trans q))

theorem State.clearAsked_keeps {s0 s : State} {g : Nat} {b : Bool} (hK : Keeps pm pi pf pk s0 s) :
    Keeps pm pi pf pk s0 (State.clearAsked s g b) := by
  unfold State.clearAsked
  repeat' (first
    | (with_reducible first
      | assumption | apply Keeps.ite)
    | extract_lets | exact id | exact Nat.le_refl _ | split | apply Keeps.with_domains | (intro q; simpa [updAt] using q)
    | (intro q; exact (List.length_modify ..).trans q) | (intro q; exact (List.length_set ..).trans q)
    | (intro q; exact (List.length_map ..).trans q))

theorem State.writeClearGo_keeps {s0 s : State} {req : Requester} {g : Nat} {v : Nat} (hK : Keeps pm pi pf pk s0 s) :
    Keeps pm pi pf pk s0 (State.writeClearGo s req g v) := by
  unfold State.writeClearGo
  repeat' (first
    | (with_reducible first
      | assumption | apply Keeps.ite | apply State.clearAsked_keeps | apply State.startClear_keeps
      | apply State.quiet_keeps)
    | extract_lets | exact id | exact Nat.le_refl _ | split | (intro q; simpa [updAt] using q)
    | (intro q; exact (List.length_modify ..).trans q) | (intro q; exact (List.length_set ..).trans q)
    | (intro q; exact (List.length_map ..).trans q))

theorem State.startTest_keeps {s0 s : State} {c : Nat} (hK : Keeps pm pi pf pk s0 s) :
    Keeps pm pi pf pk s0 (State.startTest s c) := by
  unfold State.startTest
  repeat' (first
    | (with_reducible first
      | assumption | apply Keeps.ite | apply State.setSvc_keeps | apply State.setCore_keeps)
    | extract_lets | exact id | exact Nat.le_refl _ | split | (intro q; simpa [updAt] using q)
    | (intro q; exact (List.length_modify ..).trans q) | (intro q; exact (List.length_set ..).trans q)
    | (intro q; exact (List.length_map ..).trans q))

theorem State.endClear_keeps {s0 s : State} {g : Nat} {ok : Bool} (hK : Keeps pm pi pf pk s0 s) :
    Keeps pm pi pf pk s0 (State.endClear s g ok) := by
  unfold State.endClear
  repeat' (first
    | (with_reducible first
      | assumption | apply Keeps.ite | apply State.putBit_keeps | apply State.putF_keeps
      | apply State.clearAsked_keeps | apply State.evt_keeps | apply State.emit_keeps | apply State.lvl_keeps
      | apply State.grovesSync_keeps | refine Keeps.each (fun _ _ _ => ?_) ?_ | apply State.startTest_keeps
      | apply State.coreNext_keeps)
    | extract_lets | exact id | exact Nat.le_refl _ | split | apply Keeps.with_resize | (intro q; simpa [updAt] using q)
    | (intro q; exact (List.length_modify ..).trans q) | (intro q; exact (List.length_set ..).trans q)
    | (intro q; exact (List.length_map ..).trans q))

end Sys2Proof.Machine
end

