-- ==== Sys2Proof/Laws/KeepsRoute.lean ====
section
/-! SUPPORT. What the operations of Machine/Route.lean keep. -/

set_option linter.all false

namespace Sys2Proof.Machine

variable {pm pi pf pk : Bool}

theorem State.setGw_keeps {s0 s : State} {f : Gw → Gw}
    (hf : ∀ g : Gw, (g.bufs.length = 22 → (f g).bufs.length = 22) ∧ (g.ports.length = 20 → (f g).ports.length = 20)
      ∧ (g.meters.length = 63 → (f g).meters.length = 63) ∧ (g.seq.length = 4 → (f g).seq.length = 4)
      ∧ (g.qbv.length = 4 → (f g).qbv.length = 4)) (hK : Keeps pm pi pf pk s0 s) : Keeps pm pi pf pk s0 (s.setGw f) :=
  have h := hf s.gw
  hK.with_gw h.1 h.2.1 h.2.2.1 h.2.2.2.1 h.2.2.2.2

theorem State.gwDrop_keeps {s0 s : State} {p : Nat} {off : Nat} (hK : Keeps pm pi pf pk s0 s) :
    Keeps pm pi pf pk s0 (State.gwDrop s p off) := by
  unfold State.gwDrop
  repeat' (first
    | (with_reducible first
      | assumption | apply Keeps.ite | apply State.cnt_keeps)
    | extract_lets | exact id | exact Nat.le_refl _ | split | (intro q; simpa [updAt] using q)
    | (intro q; exact (List.length_modify ..).trans q) | (intro q; exact (List.length_set ..).trans q))

theorem State.gwStat_keeps {s0 s : State} (hK : Keeps pm pi pf pk s0 s) :
    Keeps pm pi pf pk s0 (State.gwStat s) := by
  unfold State.gwStat
  repeat' (first
    | (with_reducible first
      | assumption | apply Keeps.ite | apply State.putBit_keeps | apply State.putF_keeps)
    | extract_lets | exact id | exact Nat.le_refl _ | split | (intro q; simpa [updAt] using q)
    | (intro q; exact (List.length_modify ..).trans q) | (intro q; exact (List.length_set ..).trans q))

theorem State.setFlow_keeps {s0 s : State} {i : Nat} {w0 : Nat} {w1 : Nat} {w2 : Nat} {w3 : Nat} (hK : Keeps pm false pf pk s0 s) :
    Keeps pm false pf pk s0 (State.setFlow s i w0 w1 w2 w3) := by
  unfold State.setFlow
  repeat' (first
    | (with_reducible first
      | assumption | apply Keeps.ite | apply State.setIle_keeps | apply State.gwStat_keeps | apply State.setGw_keeps)
    | extract_lets | exact id | exact Nat.le_refl _ | split | (intro q; simpa [updAt] using q)
    | (intro q; exact (List.length_modify ..).trans q) | (intro q; exact (List.length_set ..).trans q)
    | exact fun _ => ⟨id, id, id, id, id⟩ | exact fun _ => rfl
    | (intro g; refine ⟨?_, ?_, ?_, ?_, ?_⟩ <;> intro q <;> simp [updAt, q]))

theorem State.setSid_keeps {s0 s : State} {i : Nat} {w0 : Nat} {w1 : Nat} (hK : Keeps pm false pf pk s0 s) :
    Keeps pm false pf pk s0 (State.setSid s i w0 w1) := by
  unfold State.setSid
  repeat' (first
    | (with_reducible first
      | assumption | apply Keeps.ite | apply State.setIle_keeps | apply State.setGw_keeps)
    | extract_lets | exact id | exact Nat.le_refl _ | split | (intro q; simpa [updAt] using q)
    | (intro q; exact (List.length_modify ..).trans q) | (intro q; exact (List.length_set ..).trans q)
    | exact fun _ => ⟨id, id, id, id, id⟩ | exact fun _ => rfl
    | (intro g; refine ⟨?_, ?_, ?_, ?_, ?_⟩ <;> intro q <;> simp [updAt, q]))

theorem State.tblNext_keeps {s0 s : State} (hK : Keeps pm pi pf pk s0 s) :
    Keeps pm pi pf pk s0 (State.tblNext s) := by
  unfold State.tblNext
  repeat' (first
    | (with_reducible first
      | assumption | apply Keeps.ite | apply State.addWrap_keeps)
    | extract_lets | exact id | exact Nat.le_refl _ | split | (intro q; simpa [updAt] using q)
    | (intro q; exact (List.length_modify ..).trans q) | (intro q; exact (List.length_set ..).trans q))

theorem State.writeTblData_keeps {s0 s : State} {req : Requester} {v : Nat} (hK : Keeps pm false pf pk s0 s) :
    Keeps pm false pf pk s0 (State.writeTblData s req v) := by
  unfold State.writeTblData
  repeat' (first
    | (with_reducible first
      | assumption | apply Keeps.ite | apply State.tblNext_keeps | apply State.setGw_keeps | apply State.setSid_keeps
      | apply State.quiet_keeps | apply State.setFlow_keeps)
    | extract_lets | exact id | exact Nat.le_refl _ | split | (intro q; simpa [updAt] using q)
    | (intro q; exact (List.length_modify ..).trans q) | (intro q; exact (List.length_set ..).trans q)
    | exact fun _ => ⟨id, id, id, id, id⟩ | exact fun _ => rfl
    | (intro g; refine ⟨?_, ?_, ?_, ?_, ?_⟩ <;> intro q <;> simp [updAt, q]))

theorem State.tblEcc_keeps {s0 s : State} {k : Nat} {env : Nat} (hK : Keeps pm pi pf pk s0 s) :
    Keeps pm pi pf pk s0 (State.tblEcc s k env).2 := by
  unfold State.tblEcc
  repeat' (first
    | (with_reducible first
      | assumption | apply Keeps.ite | apply Keeps.ite2 | apply State.injected_keeps | apply State.cnt_keeps
      | apply State.setGw_keeps | apply State.emit_keeps | apply State.evt_keeps)
    | extract_lets | exact id | exact Nat.le_refl _ | split | (intro q; simpa [updAt] using q)
    | (intro q; exact (List.length_modify ..).trans q) | (intro q; exact (List.length_set ..).trans q)
    | exact fun _ => ⟨id, id, id, id, id⟩ | exact fun _ => rfl
    | (intro g; refine ⟨?_, ?_, ?_, ?_, ?_⟩ <;> intro q <;> simp [updAt, q]))

theorem State.readTblData_keeps {s0 s : State} {ecc : Nat} (hK : Keeps pm pi pf pk s0 s) :
    Keeps pm pi pf pk s0 (State.readTblData s ecc) := by
  unfold State.readTblData
  repeat' (first
    | (with_reducible first
      | assumption | apply Keeps.ite | apply State.respOk_keeps | apply State.tblNext_keeps | apply State.tblEcc_keeps)
    | extract_lets | exact id | exact Nat.le_refl _ | split | (intro q; simpa [updAt] using q)
    | (intro q; exact (List.length_modify ..).trans q) | (intro q; exact (List.length_set ..).trans q))

theorem State.gwFill_keeps {s0 s : State} (hK : Keeps pm pi pf pk s0 s) :
    Keeps pm pi pf pk s0 (State.gwFill s) := by
  unfold State.gwFill
  repeat' (first
    | (with_reducible first
      | assumption | apply Keeps.ite | apply State.setGw_keeps)
    | extract_lets | exact id | exact Nat.le_refl _ | split | (intro q; simpa [updAt] using q)
    | (intro q; exact (List.length_modify ..).trans q) | (intro q; exact (List.length_set ..).trans q)
    | exact fun _ => ⟨id, id, id, id, id⟩ | exact fun _ => rfl
    | (intro g; refine ⟨?_, ?_, ?_, ?_, ?_⟩ <;> intro q <;> simp [updAt, q]))

theorem State.police_keeps {s0 s : State} {p : Nat} {f : GwFrame} (hK : Keeps pm pi pf pk s0 s) :
    Keeps pm pi pf pk s0 (State.police s p f).2 := by
  unfold State.police
  repeat' (first
    | (with_reducible first
      | assumption | apply Keeps.ite | apply Keeps.ite2 | apply State.setGw_keeps)
    | extract_lets | exact id | exact Nat.le_refl _ | split | (intro q; simpa [updAt] using q)
    | (intro q; exact (List.length_modify ..).trans q) | (intro q; exact (List.length_set ..).trans q)
    | exact fun _ => ⟨id, id, id, id, id⟩ | exact fun _ => rfl
    | (intro g; refine ⟨?_, ?_, ?_, ?_, ?_⟩ <;> intro q <;> simp [updAt, q]))

theorem State.feedSpeed_keeps {s0 s : State} {f : GwFrame} {insp : Bool} (hK : Keeps pm pi pf pk s0 s) :
    Keeps pm pi pf pk s0 (State.feedSpeed s f insp) := by
  unfold State.feedSpeed
  repeat' (first
    | (with_reducible first
      | assumption | apply Keeps.ite | apply State.evt_keeps | apply State.cnt_keeps | apply State.speedMessage_keeps)
    | extract_lets | exact id | exact Nat.le_refl _ | split | (intro q; simpa [updAt] using q)
    | (intro q; exact (List.length_modify ..).trans q) | (intro q; exact (List.length_set ..).trans q))

end Sys2Proof.Machine
end

