-- ==== Sys2Proof/Laws/KeepsGw.lean ====
section
/-! SUPPORT. What the operations of Machine/Gw.lean keep. -/

set_option linter.all false

namespace Sys2Proof.Machine

variable {pm pi pf pk : Bool}

theorem State.setBuf_keeps {s0 s : State} {p : Nat} {l : List GwFrame} (hK : Keeps pm pi pf pk s0 s) :
    Keeps pm pi pf pk s0 (State.setBuf s p l) := by
  unfold State.setBuf
  repeat' (first
    | (with_reducible first
      | assumption | apply Keeps.ite | apply State.setGw_keeps)
    | extract_lets | exact id | exact Nat.le_refl _ | split | (intro q; simpa [updAt] using q)
    | (intro q; exact (List.length_modify ..).trans q) | (intro q; exact (List.length_set ..).trans q)
    | exact fun _ => ⟨id, id, id, id, id⟩ | exact fun _ => rfl
    | (intro g; refine ⟨?_, ?_, ?_, ?_, ?_⟩ <;> intro q <;> simp [updAt, q]))

theorem State.enqueue_keeps {s0 s : State} {p : Nat} {f : GwFrame} {n : Nat} (hK : Keeps pm pi pf pk s0 s) :
    Keeps pm pi pf pk s0 (State.enqueue p f n s) := by
  induction n generalizing s with
  | zero => exact State.setBuf_keeps hK
  | succ n ih =>
    unfold State.enqueue
    split
    · exact State.setBuf_keeps hK
    · extract_lets c gone
      clear_value gone
      cases gone with
      | none => exact Keeps.ite (State.setBuf_keeps hK) (State.gwDrop_keeps hK)
      | some x => exact ih (State.gwDrop_keeps (State.setBuf_keeps hK))

theorem State.inspNext_keeps {s0 s : State} (hK : Keeps pm pi pf pk s0 s) :
    Keeps pm pi pf pk s0 (State.inspNext s) := by
  unfold State.inspNext
  repeat' (first
    | (with_reducible first
      | assumption | apply Keeps.ite | apply State.setGw_keeps | apply State.setBuf_keeps | apply State.wr_keeps
      | apply State.lvl_keeps)
    | extract_lets | exact id | exact Nat.le_refl _ | split | (intro q; simpa [updAt] using q)
    | (intro q; exact (List.length_modify ..).trans q) | (intro q; exact (List.length_set ..).trans q)
    | exact fun _ => ⟨id, id, id, id, id⟩ | exact fun _ => rfl
    | (intro g; refine ⟨?_, ?_, ?_, ?_, ?_⟩ <;> intro q <;> simp [updAt, q]))

theorem State.inspPop_keeps {s0 s : State} (hK : Keeps pm pi pf pk s0 s) :
    Keeps pm pi pf pk s0 (State.inspPop s) := by
  unfold State.inspPop
  repeat' (first
    | (with_reducible first
      | assumption | apply Keeps.ite | apply State.inspNext_keeps | apply State.setGw_keeps)
    | extract_lets | exact id | exact Nat.le_refl _ | split | (intro q; simpa [updAt] using q)
    | (intro q; exact (List.length_modify ..).trans q) | (intro q; exact (List.length_set ..).trans q)
    | exact fun _ => ⟨id, id, id, id, id⟩ | exact fun _ => rfl
    | (intro g; refine ⟨?_, ?_, ?_, ?_, ?_⟩ <;> intro q <;> simp [updAt, q]))

theorem State.toPort_keeps {s0 s : State} {f : GwFrame} {p : Nat} (hK : Keeps pm pi pf pk s0 s) :
    Keeps pm pi pf pk s0 (State.toPort s f p) := by
  unfold State.toPort
  repeat' (first
    | (with_reducible first
      | assumption | apply Keeps.ite | apply State.enqueue_keeps | apply State.inspNext_keeps | apply State.gwDrop_keeps)
    | extract_lets | exact id | exact Nat.le_refl _ | split | (intro q; simpa [updAt] using q)
    | (intro q; exact (List.length_modify ..).trans q) | (intro q; exact (List.length_set ..).trans q))

theorem State.toPorts_keeps {s0 s : State} {f : GwFrame} {mask : Nat} (hK : Keeps pm pi pf pk s0 s) :
    Keeps pm pi pf pk s0 (State.toPorts s f mask) := by
  unfold State.toPorts
  repeat' (first
    | (with_reducible first
      | assumption | apply Keeps.ite | refine Keeps.each (fun _ _ _ => ?_) ?_ | apply State.toPort_keeps)
    | extract_lets | exact id | exact Nat.le_refl _ | split | (intro q; simpa [updAt] using q)
    | (intro q; exact (List.length_modify ..).trans q) | (intro q; exact (List.length_set ..).trans q))

theorem gwFind_keeps {s0 s : State} {ecc : Nat} {find : State → Option Nat} {k : Option Nat} (hK : Keeps pm pi pf pk s0 s) :
    Keeps pm pi pf pk s0 (match k with
      | none => (none, s)
      | some i =>
        let e := s.tblEcc i ecc
        if 2 ≤ e.1 then (find e.2, e.2) else (some i, e.2) : Option Nat × State).2 := by
  cases k with
  | none => exact hK
  | some i => exact Keeps.ite2 (State.tblEcc_keeps hK) (State.tblEcc_keeps hK)

theorem State.gwFrameIn_keeps {s0 s : State} {f : GwFrame} {ecc : Nat} (hK : Keeps pm pi pf pk s0 s) :
    Keeps pm pi pf pk s0 (s.gwFrameIn f ecc) := by
  unfold State.gwFrameIn
  extract_lets p s1 find r s2
  clear_value find
  have h1 : Keeps pm pi pf pk s0 s1 := State.incWrap_keeps hK
  have h2 : Keeps pm pi pf pk s0 s2 := gwFind_keeps (find := find) (k := find s1) h1
  generalize r.1 = k
  clear_value s2
  refine Keeps.ite h1 ?_
  cases k
  all_goals
    repeat' (first
      | (with_reducible first
        | assumption | apply Keeps.ite | apply State.police_keeps | apply State.toPort_keeps | apply State.gwDrop_keeps
        | apply State.feedSpeed_keeps | apply State.toPorts_keeps)
      | extract_lets | split)

theorem State.setQbv_keeps {s0 s : State} {p : Nat} {f : Qbv → Qbv} (hK : Keeps pm pi pf pk s0 s) :
    Keeps pm pi pf pk s0 (State.setQbv s p f) := by
  unfold State.setQbv
  repeat' (first
    | (with_reducible first
      | assumption | apply Keeps.ite | apply State.setGw_keeps)
    | extract_lets | exact id | exact Nat.le_refl _ | split | (intro q; simpa [updAt] using q)
    | (intro q; exact (List.length_modify ..).trans q) | (intro q; exact (List.length_set ..).trans q)
    | exact fun _ => ⟨id, id, id, id, id⟩ | exact fun _ => rfl
    | (intro g; refine ⟨?_, ?_, ?_, ?_, ?_⟩ <;> intro q <;> simp [updAt, q]))

theorem State.writeQbvCtl_keeps {s0 s : State} {req : Requester} {p : Nat} {v : Nat} (hK : Keeps pm pi pf pk s0 s) :
    Keeps pm pi pf pk s0 (State.writeQbvCtl s req p v) := by
  unfold State.writeQbvCtl
  repeat' (first
    | (with_reducible first
      | assumption | apply Keeps.ite | apply State.putBit_keeps | apply State.regStore_keeps | apply State.setQbv_keeps)
    | extract_lets | exact id | exact Nat.le_refl _ | split | (intro q; simpa [updAt] using q)
    | (intro q; exact (List.length_modify ..).trans q) | (intro q; exact (List.length_set ..).trans q))

theorem State.gwSent_keeps {s0 s : State} {p : Nat} (hK : Keeps pm pi pf pk s0 s) :
    Keeps pm pi pf pk s0 (State.gwSent s p) := by
  unfold State.gwSent
  repeat' (first
    | (with_reducible first
      | assumption | apply Keeps.ite | apply State.incWrap_keeps)
    | extract_lets | exact id | exact Nat.le_refl _ | split | (intro q; simpa [updAt] using q)
    | (intro q; exact (List.length_modify ..).trans q) | (intro q; exact (List.length_set ..).trans q))

theorem State.sendEth_keeps {s0 s : State} {p : Nat} {f : GwFrame} (hK : Keeps pm pi pf pk s0 s) :
    Keeps pm pi pf pk s0 (State.sendEth s p f) := by
  unfold State.sendEth
  repeat' (first
    | (with_reducible first
      | assumption | apply Keeps.ite | apply State.gwSent_keeps | apply State.emit_keeps | apply State.gwDrop_keeps
      | apply State.setGw_keeps)
    | extract_lets | exact id | exact Nat.le_refl _ | split | (intro q; simpa [updAt] using q)
    | (intro q; exact (List.length_modify ..).trans q) | (intro q; exact (List.length_set ..).trans q)
    | exact fun _ => ⟨id, id, id, id, id⟩ | exact fun _ => rfl
    | (intro g; refine ⟨?_, ?_, ?_, ?_, ?_⟩ <;> intro q <;> simp [updAt, q]))

theorem State.sendCan_keeps {s0 s : State} {p : Nat} {key : Nat} {xl : Nat} {data : List Byte} (hK : Keeps pm pi pf pk s0 s) :
    Keeps pm pi pf pk s0 (State.sendCan s p key xl data) := by
  unfold State.sendCan
  repeat' (first
    | (with_reducible first
      | assumption | apply Keeps.ite | apply State.gwSent_keeps | apply State.emit_keeps | apply State.gwDrop_keeps)
    | extract_lets | exact id | exact Nat.le_refl _ | split | (intro q; simpa [updAt] using q)
    | (intro q; exact (List.length_modify ..).trans q) | (intro q; exact (List.length_set ..).trans q))

theorem State.hostFail_keeps {s0 s : State} (hK : Keeps pm pi pf pk s0 s) :
    Keeps pm pi pf pk s0 (State.hostFail s) := by
  unfold State.hostFail
  repeat' (first
    | (with_reducible first
      | assumption | apply Keeps.ite | apply State.evt_keeps | apply State.putBit_keeps)
    | extract_lets | exact id | exact Nat.le_refl _ | split | (intro q; simpa [updAt] using q)
    | (intro q; exact (List.length_modify ..).trans q) | (intro q; exact (List.length_set ..).trans q))

theorem State.hostWrite_keeps {s0 s : State} {f : GwFrame} (hK : Keeps false pi pf pk s0 s) :
    Keeps false pi pf pk s0 (State.hostWrite s f).2 := by
  unfold State.hostWrite
  repeat' (first
    | (with_reducible first
      | assumption | apply Keeps.ite | apply Keeps.ite2 | apply State.blockWrite_keeps | apply State.gwSent_keeps
      | apply State.evt_keeps | apply State.wr_keeps | apply State.hostFail_keeps)
    | extract_lets | exact id | exact Nat.le_refl _ | split | (intro q; simpa [updAt] using q)
    | (intro q; exact (List.length_modify ..).trans q) | (intro q; exact (List.length_set ..).trans q)
    | (intro q; exact (List.length_map ..).trans q))

theorem State.serveBuf_keeps {s0 s : State} {p : Nat} {ecc : Nat} (hK : Keeps false pi pf pk s0 s) :
    Keeps false pi pf pk s0 (State.serveBuf s p ecc).2 := by
  unfold State.serveBuf
  refine Keeps.ite2 hK (Keeps.ite2 hK ?_)
  extract_lets head fe s1 pop r
  have h1 : Keeps false pi pf pk s0 s1 := Keeps.ite (State.injected_keeps hK) hK
  clear_value head
  cases head with
  | none => exact hK
  | some f =>
    have hp : ∀ u, Keeps false pi pf pk s0 u → Keeps false pi pf pk s0 (u.setBuf p ((u.buf p).erase f)) := fun u h => State.setBuf_keeps h
    dsimp only
    repeat' (first
      | (with_reducible first
        | assumption | apply Keeps.ite | apply Keeps.ite2 | apply State.evt_keeps | apply State.cnt_keeps | apply State.sendEth_keeps
        | apply State.sendCan_keeps | apply State.gwDrop_keeps | apply State.hostWrite_keeps | apply hp)
      | split | refine Keeps.foldl (fun _ _ _ => ?_) ?_)

theorem State.serveAll_keeps {s0 a_2 : State} {p : Nat} {a_1 : Nat} (hK : Keeps false pi pf pk s0 a_2) :
    Keeps false pi pf pk s0 (State.serveAll p a_1 a_2) := by
  induction a_1 generalizing a_2 with
  | zero =>
    unfold State.serveAll
    repeat' (first
      | (with_reducible first
        | assumption | apply Keeps.ite | apply ih | apply State.serveBuf_keeps)
      | extract_lets | split)
  | succ _ ih =>
    unfold State.serveAll
    repeat' (first
      | (with_reducible first
        | assumption | apply Keeps.ite | apply ih | apply State.serveBuf_keeps)
      | extract_lets | split)

theorem State.writeVerdict_keeps {s0 s : State} {req : Requester} {v : Nat} (hK : Keeps pm pi pf pk s0 s) :
    Keeps pm pi pf pk s0 (State.writeVerdict s req v) := by
  unfold State.writeVerdict
  repeat' (first
    | (with_reducible first
      | assumption | apply Keeps.ite | apply State.quiet_keeps | apply State.inspPop_keeps | apply State.feedSpeed_keeps
      | apply State.toPorts_keeps)
    | extract_lets | exact id | exact Nat.le_refl _ | split | (intro q; simpa [updAt] using q)
    | (intro q; exact (List.length_modify ..).trans q) | (intro q; exact (List.length_set ..).trans q))

theorem State.readInspData_keeps {s0 s : State} (hK : Keeps pm pi pf pk s0 s) :
    Keeps pm pi pf pk s0 (State.readInspData s) := by
  unfold State.readInspData
  repeat' (first
    | (with_reducible first
      | assumption | apply Keeps.ite | apply State.respOk_keeps | apply State.setGw_keeps)
    | extract_lets | exact id | exact Nat.le_refl _ | split | (intro q; simpa [updAt] using q)
    | (intro q; exact (List.length_modify ..).trans q) | (intro q; exact (List.length_set ..).trans q)
    | exact fun _ => ⟨id, id, id, id, id⟩ | exact fun _ => rfl
    | (intro g; refine ⟨?_, ?_, ?_, ?_, ?_⟩ <;> intro q <;> simp [updAt, q]))

theorem State.originate_keeps {s0 s : State} {p : Nat} {i : Nat} {data : List Byte} (hK : Keeps pm pi pf pk s0 s) :
    Keeps pm pi pf pk s0 (State.originate s p i data).2 := by
  unfold State.originate
  repeat' (first
    | (with_reducible first
      | assumption | apply Keeps.ite | apply Keeps.ite2 | apply State.gwDrop_keeps | apply State.incWrap_keeps
      | apply State.toPorts_keeps)
    | extract_lets | exact id | exact Nat.le_refl _ | split | (intro q; simpa [updAt] using q)
    | (intro q; exact (List.length_modify ..).trans q) | (intro q; exact (List.length_set ..).trans q))

theorem State.writeTxCtl_keeps {s0 s : State} {v : Nat} (hK : Keeps pm pi pf pk s0 s) :
    Keeps pm pi pf pk s0 (State.writeTxCtl s v) := by
  unfold State.writeTxCtl
  repeat' (first
    | (with_reducible first
      | assumption | apply Keeps.ite | apply State.setGw_keeps | apply State.wr_keeps | apply State.originate_keeps)
    | extract_lets | exact id | exact Nat.le_refl _ | split | (intro q; simpa [updAt] using q)
    | (intro q; exact (List.length_modify ..).trans q) | (intro q; exact (List.length_set ..).trans q)
    | exact fun _ => ⟨id, id, id, id, id⟩ | exact fun _ => rfl
    | (intro g; refine ⟨?_, ?_, ?_, ?_, ?_⟩ <;> intro q <;> simp [updAt, q]))

theorem State.writeHostCtl_keeps {s0 s : State} {req : Requester} {v : Nat} (hK : Keeps pm pi pf pk s0 s) :
    Keeps pm pi pf pk s0 (State.writeHostCtl s req v) := by
  unfold State.writeHostCtl
  repeat' (first
    | (with_reducible first
      | assumption | apply Keeps.ite | apply State.quiet_keeps | apply State.regStore_keeps)
    | extract_lets | exact id | exact Nat.le_refl _ | split | (intro q; simpa [updAt] using q)
    | (intro q; exact (List.length_modify ..).trans q) | (intro q; exact (List.length_set ..).trans q))

theorem State.htxRun_keeps {s0 a_3 : State} {ext : List Byte} {a : Nat} {a_2 : Nat} (hK : Keeps false pi pf pk s0 a_3) :
    Keeps false pi pf pk s0 (State.htxRun ext a a_2 a_3) := by
  induction a generalizing a_2 a_3 with
  | zero =>
    unfold State.htxRun
    repeat' (first
      | (with_reducible first
        | assumption | apply Keeps.ite | apply State.blockRead_keeps | apply State.originate_keeps
        | apply State.wr_keeps | apply State.hostFail_keeps)
      | extract_lets | exact id | exact Nat.le_refl _ | split | (intro q; simpa [updAt] using q)
      | (intro q; exact (List.length_modify ..).trans q) | (intro q; exact (List.length_set ..).trans q)
      | (intro q; exact (List.length_map ..).trans q))
  | succ _ ih =>
    unfold State.htxRun
    repeat' (first
      | (with_reducible first
        | assumption | apply Keeps.ite | apply ih | apply State.blockRead_keeps | apply State.originate_keeps
        | apply State.wr_keeps | apply State.hostFail_keeps)
      | extract_lets | exact id | exact Nat.le_refl _ | split | (intro q; simpa [updAt] using q)
      | (intro q; exact (List.length_modify ..).trans q) | (intro q; exact (List.length_set ..).trans q)
      | (intro q; exact (List.length_map ..).trans q))

theorem State.linkFlush_keeps {s0 s : State} {p : Nat} (hK : Keeps pm pi pf pk s0 s) :
    Keeps pm pi pf pk s0 (State.linkFlush s p) := by
  unfold State.linkFlush
  repeat' (first
    | (with_reducible first
      | assumption | apply Keeps.ite | apply State.addSat_keeps | apply State.setBuf_keeps)
    | extract_lets | exact id | exact Nat.le_refl _ | split | (intro q; simpa [updAt] using q)
    | (intro q; exact (List.length_modify ..).trans q) | (intro q; exact (List.length_set ..).trans q))

theorem State.gwDeclared_keeps {s0 s : State} (hK : Keeps pm pi pf pk s0 s) :
    Keeps pm pi pf pk s0 (State.gwDeclared s) := by
  unfold State.gwDeclared
  repeat' (first
    | (with_reducible first
      | assumption | apply Keeps.ite | refine Keeps.each (fun _ _ _ => ?_) ?_ | apply State.linkFlush_keeps)
    | extract_lets | exact id | exact Nat.le_refl _ | split | (intro q; simpa [updAt] using q)
    | (intro q; exact (List.length_modify ..).trans q) | (intro q; exact (List.length_set ..).trans q))

theorem State.setCanState_keeps {s0 s : State} {n : Nat} {v : Nat} (hK : Keeps pm pi pf pk s0 s) :
    Keeps pm pi pf pk s0 (State.setCanState s n v) := by
  unfold State.setCanState
  repeat' (first
    | (with_reducible first
      | assumption | apply Keeps.ite | apply State.linkFlush_keeps | apply State.lvl_keeps | apply State.putF_keeps)
    | extract_lets | exact id | exact Nat.le_refl _ | split | (intro q; simpa [updAt] using q)
    | (intro q; exact (List.length_modify ..).trans q) | (intro q; exact (List.length_set ..).trans q))

theorem State.writeGwCtl_keeps {s0 s : State} {req : Requester} {v : Nat} (hK : Keeps pm pi pf pk s0 s) :
    Keeps pm pi pf pk s0 (State.writeGwCtl s req v) := by
  unfold State.writeGwCtl
  repeat' (first
    | (with_reducible first
      | assumption | apply Keeps.ite | apply State.regStore_keeps | apply State.gwStat_keeps | apply State.funcReady_keeps
      | apply State.funcLost_keeps | apply State.inspNext_keeps | apply State.setGw_keeps)
    | extract_lets | exact id | exact Nat.le_refl _ | split | (intro q; simpa [updAt] using q)
    | (intro q; exact (List.length_modify ..).trans q) | (intro q; exact (List.length_set ..).trans q)
    | exact fun _ => ⟨id, id, id, id, id⟩ | exact fun _ => rfl
    | (intro g; refine ⟨?_, ?_, ?_, ?_, ?_⟩ <;> intro q <;> simp [updAt, q]))

theorem State.writeCanCtl_keeps {s0 s : State} {req : Requester} {n : Nat} {v : Nat} (hK : Keeps pm pi pf pk s0 s) :
    Keeps pm pi pf pk s0 (State.writeCanCtl s req n v) := by
  unfold State.writeCanCtl
  repeat' (first
    | (with_reducible first
      | assumption | apply Keeps.ite | apply State.regStore_keeps | apply State.quiet_keeps | apply State.evt_keeps
      | apply State.setCanState_keeps)
    | extract_lets | exact id | exact Nat.le_refl _ | split | (intro q; simpa [updAt] using q)
    | (intro q; exact (List.length_modify ..).trans q) | (intro q; exact (List.length_set ..).trans q))

theorem State.writeCanTiming_keeps {s0 s : State} {req : Requester} {n : Nat} {a : Nat} {v : Nat} (hK : Keeps pm pi pf pk s0 s) :
    Keeps pm pi pf pk s0 (State.writeCanTiming s req n a v) := by
  unfold State.writeCanTiming
  repeat' (first
    | (with_reducible first
      | assumption | apply Keeps.ite | apply State.quiet_keeps | apply State.regStore_keeps)
    | extract_lets | exact id | exact Nat.le_refl _ | split | (intro q; simpa [updAt] using q)
    | (intro q; exact (List.length_modify ..).trans q) | (intro q; exact (List.length_set ..).trans q))

theorem State.writeEthCtl_keeps {s0 s : State} {req : Requester} {p : Nat} {v : Nat} (hK : Keeps pm pi pf pk s0 s) :
    Keeps pm pi pf pk s0 (State.writeEthCtl s req p v) := by
  unfold State.writeEthCtl
  repeat' (first
    | (with_reducible first
      | assumption | apply Keeps.ite | apply State.regStore_keeps | apply State.linkFlush_keeps | apply State.evt_keeps
      | apply State.putBit_keeps)
    | extract_lets | exact id | exact Nat.le_refl _ | split | (intro q; simpa [updAt] using q)
    | (intro q; exact (List.length_modify ..).trans q) | (intro q; exact (List.length_set ..).trans q))

theorem State.restoreRoute_keeps {s0 s : State} {r : List Byte} (hK : Keeps pm false pf pk s0 s) :
    Keeps pm false pf pk s0 (State.restoreRoute s r) := by
  unfold State.restoreRoute
  repeat' (first
    | (with_reducible first
      | assumption | apply Keeps.ite | apply State.setSid_keeps | apply State.cnt_keeps | apply State.setFlow_keeps)
    | extract_lets | exact id | exact Nat.le_refl _ | split | (intro q; simpa [updAt] using q)
    | (intro q; exact (List.length_modify ..).trans q) | (intro q; exact (List.length_set ..).trans q))

theorem State.gwRelease_keeps {s0 s : State} (hK : Keeps pm false pf pk s0 s) :
    Keeps pm false pf pk s0 (State.gwRelease s) := by
  unfold State.gwRelease
  repeat' (first
    | (with_reducible first
      | assumption | apply Keeps.ite | apply State.gwFill_keeps | refine Keeps.each (fun _ _ _ => ?_) ?_
      | apply State.restoreRoute_keeps | apply State.putF_keeps | apply State.gwStat_keeps | apply State.funcReady_keeps)
    | extract_lets | exact id | exact Nat.le_refl _ | split | (intro q; simpa [updAt] using q)
    | (intro q; exact (List.length_modify ..).trans q) | (intro q; exact (List.length_set ..).trans q))

theorem State.gwPark_keeps {s0 s : State} (hK : Keeps pm pi pf pk s0 s) :
    Keeps pm pi pf pk s0 (State.gwPark s) := by
  unfold State.gwPark
  repeat' (first
    | (with_reducible first
      | assumption | apply Keeps.ite | apply State.inspNext_keeps | apply State.setGw_keeps)
    | extract_lets | exact id | exact Nat.le_refl _ | split | (intro q; simpa [updAt] using q)
    | (intro q; exact (List.length_modify ..).trans q) | (intro q; exact (List.length_set ..).trans q)
    | exact fun _ => ⟨id, id, id, id, id⟩ | exact fun _ => rfl
    | (intro g; refine ⟨?_, ?_, ?_, ?_, ?_⟩ <;> intro q <;> simp [updAt, q]))

theorem State.writePtpCfg_keeps {s0 s : State} {req : Requester} {p : Nat} {v : Nat} (hK : Keeps pm pi pf pk s0 s) :
    Keeps pm pi pf pk s0 (State.writePtpCfg s req p v) := by
  unfold State.writePtpCfg
  repeat' (first
    | (with_reducible first
      | assumption | apply Keeps.ite | apply State.regStore_keeps | apply State.quiet_keeps | apply State.setTimeState_keeps
      | apply State.gptpNone_keeps)
    | extract_lets | exact id | exact Nat.le_refl _ | split | (intro q; simpa [updAt] using q)
    | (intro q; exact (List.length_modify ..).trans q) | (intro q; exact (List.length_set ..).trans q))

end Sys2Proof.Machine
end

