-- ==== Sys2Proof/Laws/KeepsInfer.lean ====
section
/-! SUPPORT. What the operations of Machine/Infer.lean keep. -/

set_option linter.all false

namespace Sys2Proof.Machine

variable {pm pi pf pk : Bool}

theorem State.vopWrite_keeps {s0 s : State} {c : Nat} {op : Nat} {st : Nat} {dt : Nat} {a : Option Nat} {b : Option Nat} {imm : Flt} {d : Nat} {n : Nat} (hK : Keeps pm false pf pk s0 s) :
    Keeps pm false pf pk s0 (State.vopWrite s c op st dt a b imm d n) := by
  unfold State.vopWrite
  repeat' (first
    | (with_reducible first
      | assumption | apply Keeps.ite | refine Keeps.each (fun _ _ _ => ?_) ?_ | apply State.setIbytes_keeps)
    | extract_lets | exact id | exact Nat.le_refl _ | split | (intro q; simpa [updAt] using q)
    | (intro q; exact (List.length_modify ..).trans q) | (intro q; exact (List.length_set ..).trans q)
    | (intro q; exact (List.length_map ..).trans q))

theorem State.vop_keeps {s0 s : State} {env : CoreEnv} {o : OnCore} {off cmd : Nat} (hK : Keeps pm false pf pk s0 s) :
    Keeps pm false pf pk s0 (State.vop env o off cmd s).2 := by
  unfold State.vop
  extract_lets c op st dt n two group src m g bad r
  have hr : Keeps pm false pf pk s0 r.2 := State.withEcc_keeps (fun f hf u hu => by
    obtain ⟨x, rfl⟩ := Got.bind_ok hf
    dsimp only
    split
    · exact Keeps.ite hu (State.vopWrite_keeps hu)
    · exact hu) hK
  refine Keeps.ite2 hK ?_
  split
  · exact Keeps.ite2 hr hr
  · exact hr

theorem State.vopCmd_keeps {s0 s : State} {op : Nat} {c : Nat} {t : Nat} {env : CoreEnv} (hK : Keeps false false pf pk s0 s) :
    Keeps false false pf pk s0 (State.vopCmd s op c t env) := by
  unfold State.vopCmd
  repeat' (first
    | (with_reducible first
      | assumption | apply Keeps.ite | refine State.coreCmd_keeps (fun _ _ _ _ _ => ?_) ?_ | apply State.vop_keeps)
    | extract_lets | exact id | exact Nat.le_refl _ | split | (intro q; simpa [updAt] using q)
    | (intro q; exact (List.length_modify ..).trans q) | (intro q; exact (List.length_set ..).trans q))

theorem State.badVop_keeps {s0 s : State} {c : Nat} {t : Nat} {env : CoreEnv} (hK : Keeps false pi pf pk s0 s) :
    Keeps false pi pf pk s0 (State.badVop s c t env) := by
  unfold State.badVop
  repeat' (first
    | (with_reducible first
      | assumption | apply Keeps.ite | refine State.coreCmd_keeps (fun _ _ _ _ _ => ?_) ?_)
    | extract_lets | exact id | exact Nat.le_refl _ | split | (intro q; simpa [updAt] using q)
    | (intro q; exact (List.length_modify ..).trans q) | (intro q; exact (List.length_set ..).trans q))

theorem State.writeSelftest_keeps {s0 s : State} {v : Nat} (hK : Keeps pm pi pf pk s0 s) :
    Keeps pm pi pf pk s0 (State.writeSelftest s v) := by
  unfold State.writeSelftest
  repeat' (first
    | (with_reducible first
      | assumption | apply Keeps.ite | apply State.startTest_keeps | apply State.wr_keeps | apply State.putF_keeps)
    | extract_lets | exact id | exact Nat.le_refl _ | split | (intro q; simpa [updAt] using q)
    | (intro q; exact (List.length_modify ..).trans q) | (intro q; exact (List.length_set ..).trans q))

theorem State.writeRestore_keeps {s0 s : State} {req : Requester} {v : Nat} (hK : Keeps pm pi pf pk s0 s) :
    Keeps pm pi pf pk s0 (State.writeRestore s req v) := by
  unfold State.writeRestore
  repeat' (first
    | (with_reducible first
      | assumption | apply Keeps.ite | apply State.coreNext_keeps | apply State.infEntry_keeps | apply State.setSvc_keeps
      | apply State.putF_keeps | apply State.quiet_keeps)
    | extract_lets | exact id | exact Nat.le_refl _ | split | (intro q; simpa [updAt] using q)
    | (intro q; exact (List.length_modify ..).trans q) | (intro q; exact (List.length_set ..).trans q))

theorem State.writeCntClr_keeps {s0 s : State} {v : Nat} (hK : Keeps pm pi pf pk s0 s) :
    Keeps pm pi pf pk s0 (State.writeCntClr s v) := by
  unfold State.writeCntClr
  repeat' (first
    | (with_reducible first
      | assumption | apply Keeps.ite | refine Keeps.each (fun _ _ _ => ?_) ?_ | apply State.wr_keeps)
    | extract_lets | exact id | exact Nat.le_refl _ | split | (intro q; simpa [updAt] using q)
    | (intro q; exact (List.length_modify ..).trans q) | (intro q; exact (List.length_set ..).trans q))

theorem State.popInfLog_keeps {s0 s : State} {v : Nat} (hK : Keeps pm pi pf pk s0 s) :
    Keeps pm pi pf pk s0 (State.popInfLog s v) := by
  unfold State.popInfLog
  repeat' (first
    | (with_reducible first
      | assumption | apply Keeps.ite | apply State.infSync_keeps)
    | extract_lets | exact id | exact Nat.le_refl _ | split | apply Keeps.with_infLog | (intro q; simpa [updAt] using q)
    | (intro q; exact (List.length_modify ..).trans q) | (intro q; exact (List.length_set ..).trans q))

theorem State.writeLatent_keeps {s0 s : State} {hi : Bool} {v : Nat} (hK : Keeps pm pi pf pk s0 s) :
    Keeps pm pi pf pk s0 (State.writeLatent s hi v) := by
  unfold State.writeLatent
  repeat' (first
    | (with_reducible first
      | assumption | apply Keeps.ite | apply State.wr_keeps | refine Keeps.each (fun _ _ _ => ?_) ?_
      | apply State.putBit_keeps | apply State.lvl_keeps)
    | extract_lets | exact id | exact Nat.le_refl _ | split | (intro q; simpa [updAt] using q)
    | (intro q; exact (List.length_modify ..).trans q) | (intro q; exact (List.length_set ..).trans q))

theorem State.writeRmon_keeps {s0 s : State} {req : Requester} {a : Nat} {k : Nat} {v : Nat} (hK : Keeps pm pi pf pk s0 s) :
    Keeps pm pi pf pk s0 (State.writeRmon s req a k v) := by
  unfold State.writeRmon
  repeat' (first
    | (with_reducible first
      | assumption | apply Keeps.ite | apply State.quiet_keeps | apply State.regStore_keeps)
    | extract_lets | exact id | exact Nat.le_refl _ | split | apply Keeps.with_rmon | (intro q; simpa [updAt] using q)
    | (intro q; exact (List.length_modify ..).trans q) | (intro q; exact (List.length_set ..).trans q))

end Sys2Proof.Machine
end

