-- ==== Sys2Proof/Laws/KeepsLedger.lean ====
section
/-! SUPPORT. What the operations of Machine/Ledger.lean keep. -/

set_option linter.all false

namespace Sys2Proof.Machine

variable {pm pi pf pk : Bool}

theorem State.ledgerTake_keeps {s0 s : State} (hK : Keeps pm pi pf pk s0 s) :
    Keeps pm pi pf pk s0 (State.ledgerTake s) := by
  unfold State.ledgerTake
  repeat' (first
    | (with_reducible first
      | assumption | apply Keeps.ite)
    | extract_lets | exact id | exact Nat.le_refl _ | split | apply Keeps.with_ledger | (intro q; simpa [updAt] using q)
    | (intro q; exact (List.length_modify ..).trans q) | (intro q; exact (List.length_set ..).trans q)
    | (intro q; exact (List.length_map ..).trans q))

theorem State.ledgerSync_keeps {s0 s : State} (hK : Keeps pm pi pf pk s0 s) :
    Keeps pm pi pf pk s0 (State.ledgerSync s) := by
  unfold State.ledgerSync
  repeat' (first
    | (with_reducible first
      | assumption | apply Keeps.ite | refine Keeps.each (fun _ _ _ => ?_) ?_ | apply State.wr_keeps)
    | extract_lets | exact id | exact Nat.le_refl _ | split | (intro q; simpa [updAt] using q)
    | (intro q; exact (List.length_modify ..).trans q) | (intro q; exact (List.length_set ..).trans q))

theorem State.setLevel_keeps {s0 s : State} {p : Nat} {v : Int} (hK : Keeps pm pi pf pk s0 s) :
    Keeps pm pi pf pk s0 (State.setLevel s p v) := by
  unfold State.setLevel
  repeat' (first
    | (with_reducible first
      | assumption | apply Keeps.ite)
    | extract_lets | exact id | exact Nat.le_refl _ | split | apply Keeps.with_ledger | (intro q; simpa [updAt] using q)
    | (intro q; exact (List.length_modify ..).trans q) | (intro q; exact (List.length_set ..).trans q))

theorem State.spill_keeps {s0 s : State} {n : Nat} (hK : Keeps pm pi pf pk s0 s) :
    Keeps pm pi pf pk s0 (State.spill s n) := by
  unfold State.spill
  repeat' (first
    | (with_reducible first
      | assumption | apply Keeps.ite | apply State.addSat_keeps)
    | extract_lets | exact id | exact Nat.le_refl _ | split | apply Keeps.with_ledger | (intro q; simpa [updAt] using q)
    | (intro q; exact (List.length_modify ..).trans q) | (intro q; exact (List.length_set ..).trans q))

theorem State.toPool_keeps {s0 s : State} {n : Nat} (hK : Keeps pm pi pf pk s0 s) :
    Keeps pm pi pf pk s0 (State.toPool s n) := by
  unfold State.toPool
  repeat' (first
    | (with_reducible first
      | assumption | apply Keeps.ite | apply State.spill_keeps)
    | extract_lets | exact id | exact Nat.le_refl _ | split | apply Keeps.with_ledger | (intro q; simpa [updAt] using q)
    | (intro q; exact (List.length_modify ..).trans q) | (intro q; exact (List.length_set ..).trans q))

theorem State.credit_keeps {s0 s : State} {p : Nat} {n : Nat} (hK : Keeps pm pi pf pk s0 s) :
    Keeps pm pi pf pk s0 (State.credit s p n) := by
  unfold State.credit
  repeat' (first
    | (with_reducible first
      | assumption | apply Keeps.ite | apply State.setLevel_keeps | apply State.toPool_keeps)
    | extract_lets | exact id | exact Nat.le_refl _ | split | (intro q; simpa [updAt] using q)
    | (intro q; exact (List.length_modify ..).trans q) | (intro q; exact (List.length_set ..).trans q))

theorem State.debit_keeps {s0 s : State} {p : Nat} {n : Nat} (hK : Keeps pm pi pf pk s0 s) :
    Keeps pm pi pf pk s0 (State.debit s p n) := by
  unfold State.debit
  repeat' (first
    | (with_reducible first
      | assumption | apply Keeps.ite | apply State.setLevel_keeps | apply State.evt_keeps | apply State.addSat_keeps)
    | extract_lets | exact id | exact Nat.le_refl _ | split | apply Keeps.with_ledger | (intro q; simpa [updAt] using q)
    | (intro q; exact (List.length_modify ..).trans q) | (intro q; exact (List.length_set ..).trans q))

theorem State.ledgerTrim_keeps {s0 s : State} (hK : Keeps pm pi pf pk s0 s) :
    Keeps pm pi pf pk s0 (State.ledgerTrim s) := by
  unfold State.ledgerTrim
  repeat' (first
    | (with_reducible first
      | assumption | apply Keeps.ite | apply State.toPool_keeps | refine Keeps.each (fun _ _ _ => ?_) ?_
      | apply State.credit_keeps)
    | extract_lets | exact id | exact Nat.le_refl _ | split | (intro q; simpa [updAt] using q)
    | (intro q; exact (List.length_modify ..).trans q) | (intro q; exact (List.length_set ..).trans q))

theorem State.refill_keeps {s0 s : State} {pOther : Nat} (hK : Keeps pm pi pf pk s0 s) :
    Keeps pm pi pf pk s0 (State.refill s pOther) := by
  unfold State.refill
  repeat' (first
    | (with_reducible first
      | assumption | apply Keeps.ite | apply State.ledgerTake_keeps | apply State.putBit_keeps | apply State.wr_keeps
      | apply State.ledgerTrim_keeps | apply State.lvl_keeps | refine Keeps.each (fun _ _ _ => ?_) ?_
      | apply State.credit_keeps | apply State.ledgerSync_keeps | apply State.toPool_keeps)
    | extract_lets | exact id | exact Nat.le_refl _ | split | (intro q; simpa [updAt] using q)
    | (intro q; exact (List.length_modify ..).trans q) | (intro q; exact (List.length_set ..).trans q)
    | (intro q; exact (List.length_map ..).trans q))

theorem State.ledgerStart_keeps {s0 s : State} {p : Nat} {c : Nat} (hK : Keeps pm pi pf pk s0 s) :
    Keeps pm pi pf pk s0 (State.ledgerStart s p c) := by
  unfold State.ledgerStart
  repeat' (first
    | (with_reducible first
      | assumption | apply Keeps.ite | apply State.setLevel_keeps | apply State.ledgerSync_keeps | apply State.debit_keeps)
    | extract_lets | exact id | exact Nat.le_refl _ | split | apply Keeps.with_ledger | (intro q; simpa [updAt] using q)
    | (intro q; exact (List.length_modify ..).trans q) | (intro q; exact (List.length_set ..).trans q))

theorem State.refund_keeps {s0 s : State} {p : Nat} {paid : Nat × Nat} (hK : Keeps pm pi pf pk s0 s) :
    Keeps pm pi pf pk s0 (State.refund s p paid) := by
  unfold State.refund
  repeat' (first
    | (with_reducible first
      | assumption | apply Keeps.ite | apply State.ledgerSync_keeps | apply State.toPool_keeps
      | apply State.credit_keeps)
    | extract_lets | exact id | exact Nat.le_refl _ | split | (intro q; simpa [updAt] using q)
    | (intro q; exact (List.length_modify ..).trans q) | (intro q; exact (List.length_set ..).trans q)
    | (intro q; exact (List.length_map ..).trans q))

theorem State.ledgerSettle_keeps {s0 s : State} {p : Nat} {e : Nat} {m : Nat} (hK : Keeps pm pi pf pk s0 s) :
    Keeps pm pi pf pk s0 (State.ledgerSettle s p e m) := by
  unfold State.ledgerSettle
  repeat' (first
    | (with_reducible first
      | assumption | apply Keeps.ite | apply State.credit_keeps | apply State.debit_keeps | apply State.ledgerSync_keeps
      | apply State.addWrap_keeps)
    | extract_lets | exact id | exact Nat.le_refl _ | apply Keeps.with_ledger | split | (intro q; simpa [updAt] using q)
    | (intro q; exact (List.length_modify ..).trans q) | (intro q; exact (List.length_set ..).trans q))

theorem State.writeShare_keeps {s0 s : State} {req : Requester} {p : Nat} {v : Nat} (hK : Keeps pm pi pf pk s0 s) :
    Keeps pm pi pf pk s0 (State.writeShare s req p v) := by
  unfold State.writeShare
  repeat' (first
    | (with_reducible first
      | assumption | apply Keeps.ite | apply State.quiet_keeps | apply State.putF_keeps)
    | extract_lets | exact id | exact Nat.le_refl _ | split | (intro q; simpa [updAt] using q)
    | (intro q; exact (List.length_modify ..).trans q) | (intro q; exact (List.length_set ..).trans q)
    | (intro q; exact (List.length_map ..).trans q))

theorem State.ledgerRelease_keeps {s0 s : State} (hK : Keeps pm pi pf pk s0 s) :
    Keeps pm pi pf pk s0 (State.ledgerRelease s) := by
  unfold State.ledgerRelease
  repeat' (first
    | (with_reducible first
      | assumption | apply Keeps.ite | apply State.ledgerTake_keeps | refine Keeps.each (fun _ _ _ => ?_) ?_
      | apply State.setLevel_keeps | apply State.ledgerSync_keeps)
    | extract_lets | exact id | exact Nat.le_refl _ | split | apply Keeps.with_ledger | (intro q; simpa [updAt] using q)
    | (intro q; exact (List.length_modify ..).trans q) | (intro q; exact (List.length_set ..).trans q)
    | (intro q; exact (List.length_map ..).trans q))

end Sys2Proof.Machine
end

