-- ==== Sys2Proof/Laws/KeepsJobs.lean ====
section
/-! SUPPORT. What the operations of Machine/Jobs.lean keep. -/

set_option linter.all false

namespace Sys2Proof.Machine

variable {pm pi pf pk : Bool}

theorem State.enterJob_keeps {s0 s : State} {j : Job} {bad : Bool} (hK : Keeps false pi pf pk s0 s) : Keeps false pi pf pk s0 (s.enterJob j bad) := by
  unfold State.enterJob
  extract_lets s1
  have h1 : Keeps false pi pf pk s0 s1 := (hK.with_jobs (x := s.jobs ++ [j])).with_jobNo
  repeat' (first
    | (with_reducible first
      | assumption | apply Keeps.ite | apply State.cnt_keeps | apply State.evt_keeps | apply State.wr_keeps
      | apply State.finish_keeps | apply State.setJob_keeps | apply State.ringSync_keeps | apply State.dispSync_keeps)
    | extract_lets | split)

theorem State.descRead_keeps {s0 s : State} {i : Nat} {p : Nat} {env : MemEnv} (hK : Keeps false pi pf pk s0 s) :
    Keeps false pi pf pk s0 (State.descRead s i p env).2.2 := by
  unfold State.descRead
  repeat' (first
    | (with_reducible first
      | assumption | apply Keeps.ite | apply Keeps.ite3 | apply State.readRange_keeps)
    | extract_lets | exact id | exact Nat.le_refl _ | split | (intro q; simpa [updAt] using q)
    | (intro q; exact (List.length_modify ..).trans q) | (intro q; exact (List.length_set ..).trans q)
    | (intro q; exact (List.length_map ..).trans q))

theorem State.takeDesc_keeps {s0 s : State} {i : Nat} {p : Nat} {d : Nat} (hK : Keeps false pi pf pk s0 s) :
    Keeps false pi pf pk s0 (State.takeDesc s i p d) := by
  unfold State.takeDesc
  repeat' (first
    | (with_reducible first
      | assumption | apply Keeps.ite | apply State.setRing_keeps | apply State.wr_keeps | apply State.enterJob_keeps)
    | extract_lets | exact id | exact Nat.le_refl _ | split | apply Keeps.with_ringTurn | (intro q; simpa [updAt] using q)
    | (intro q; exact (List.length_modify ..).trans q) | (intro q; exact (List.length_set ..).trans q))

theorem State.fetchFail_keeps {s0 s : State} {i : Nat} (hK : Keeps pm pi pf pk s0 s) :
    Keeps pm pi pf pk s0 (State.fetchFail s i) := by
  unfold State.fetchFail
  repeat' (first
    | (with_reducible first
      | assumption | apply Keeps.ite | apply State.evt_keeps | apply State.putBit_keeps)
    | extract_lets | exact id | exact Nat.le_refl _ | split | apply Keeps.with_ringTurn | (intro q; simpa [updAt] using q)
    | (intro q; exact (List.length_modify ..).trans q) | (intro q; exact (List.length_set ..).trans q)
    | (intro q; exact (List.length_map ..).trans q))

theorem State.testJob_keeps {s0 s : State} {j : Job} (hK : Keeps false pi pf pk s0 s) :
    Keeps false pi pf pk s0 (State.testJob s j) := by
  unfold State.testJob
  repeat' (first
    | (with_reducible first
      | assumption | apply Keeps.ite | apply State.finish_keeps | apply State.cnt_keeps | apply State.setJob_keeps
      | apply State.ledgerStart_keeps)
    | extract_lets | exact id | exact Nat.le_refl _ | split | (intro q; simpa [updAt] using q)
    | (intro q; exact (List.length_modify ..).trans q) | (intro q; exact (List.length_set ..).trans q)
    | (intro q; exact (List.length_map ..).trans q))

theorem State.placeOn_keeps {s0 s : State} {j : Job} {cores : List Nat} {victims : List Nat} (hK : Keeps pm pi pf pk s0 s) :
    Keeps pm pi pf pk s0 (State.placeOn s j cores victims) := by
  unfold State.placeOn
  repeat' (first
    | (with_reducible first
      | assumption | apply Keeps.ite | refine Keeps.each (fun _ _ _ => ?_) ?_ | apply State.setJob_keeps
      | apply State.addSat_keeps | apply State.barrierCheck_keeps | apply State.dispSync_keeps | apply State.coreNext_keeps)
    | extract_lets | exact id | exact Nat.le_refl _ | split | (intro q; simpa [updAt] using q)
    | (intro q; exact (List.length_modify ..).trans q) | (intro q; exact (List.length_set ..).trans q))

theorem State.replace_keeps {s0 s : State} {p : Nat} (hK : Keeps pm pi pf pk s0 s) :
    Keeps pm pi pf pk s0 (State.replace s p) := by
  unfold State.replace
  repeat' (first
    | (with_reducible first
      | assumption | apply Keeps.ite | refine Keeps.each (fun _ _ _ => ?_) ?_ | apply State.coreNext_keeps
      | apply State.setRank_keeps)
    | extract_lets | exact id | exact Nat.le_refl _ | split | (intro q; simpa [updAt] using q)
    | (intro q; exact (List.length_modify ..).trans q) | (intro q; exact (List.length_set ..).trans q))

theorem State.endUnstarted_keeps {s0 s : State} {j : Job} {disp : Nat} {cause : Nat} (hK : Keeps false pi pf pk s0 s) :
    Keeps false pi pf pk s0 (State.endUnstarted s j disp cause) := by
  unfold State.endUnstarted
  repeat' (first
    | (with_reducible first
      | assumption | apply Keeps.ite | apply State.refund_keeps | apply State.setJob_keeps
      | refine Keeps.each (fun _ _ _ => ?_) ?_ | apply State.coreNext_keeps | apply State.finish_keeps)
    | extract_lets | exact id | exact Nat.le_refl _ | split | (intro q; simpa [updAt] using q)
    | (intro q; exact (List.length_modify ..).trans q) | (intro q; exact (List.length_set ..).trans q)
    | (intro q; exact (List.length_map ..).trans q))

theorem State.reevaluate_keeps {s0 s : State} (hK : Keeps false pi pf pk s0 s) :
    Keeps false pi pf pk s0 (State.reevaluate s) := by
  unfold State.reevaluate
  repeat' (first
    | (with_reducible first
      | assumption | apply Keeps.ite | refine Keeps.each (fun _ _ _ => ?_) ?_ | apply State.endUnstarted_keeps)
    | extract_lets | exact id | exact Nat.le_refl _ | split | (intro q; simpa [updAt] using q)
    | (intro q; exact (List.length_modify ..).trans q) | (intro q; exact (List.length_set ..).trans q)
    | (intro q; exact (List.length_map ..).trans q))

theorem State.unplace_keeps {s0 s : State} {j : Job} (hK : Keeps pm pi pf pk s0 s) :
    Keeps pm pi pf pk s0 (State.unplace s j) := by
  unfold State.unplace
  repeat' (first
    | (with_reducible first
      | assumption | apply Keeps.ite | apply State.setJob_keeps | refine Keeps.each (fun _ _ _ => ?_) ?_
      | apply State.coreNext_keeps)
    | extract_lets | exact id | exact Nat.le_refl _ | split | (intro q; simpa [updAt] using q)
    | (intro q; exact (List.length_modify ..).trans q) | (intro q; exact (List.length_set ..).trans q)
    | (intro q; exact (List.length_map ..).trans q))

theorem State.cancelStat_keeps {s0 s : State} {v : Nat} (hK : Keeps pm pi pf pk s0 s) :
    Keeps pm pi pf pk s0 (State.cancelStat s v) := by
  unfold State.cancelStat
  repeat' (first
    | (with_reducible first
      | assumption | apply Keeps.ite | apply State.putF_keeps)
    | extract_lets | exact id | exact Nat.le_refl _ | split | (intro q; simpa [updAt] using q)
    | (intro q; exact (List.length_modify ..).trans q) | (intro q; exact (List.length_set ..).trans q))

theorem State.writeCancel_keeps {s0 s : State} {v : Nat} (hK : Keeps false pi pf pk s0 s) :
    Keeps false pi pf pk s0 (State.writeCancel s v) := by
  unfold State.writeCancel
  repeat' (first
    | (with_reducible first
      | assumption | apply Keeps.ite | apply State.cancelStat_keeps | apply State.stopJob_keeps
      | apply State.endUnstarted_keeps)
    | extract_lets | exact id | exact Nat.le_refl _ | split | (intro q; simpa [updAt] using q)
    | (intro q; exact (List.length_modify ..).trans q) | (intro q; exact (List.length_set ..).trans q))

end Sys2Proof.Machine
end

