-- ==== Sys2Proof/Laws/KeepsProt.lean ====
section
/-! SUPPORT. What the operations of Machine/Prot.lean keep. -/

set_option linter.all false

namespace Sys2Proof.Machine

variable {pm pi pf pk : Bool}

theorem State.setProtCh_keeps {s0 s : State} {j : Nat} {f : ProtCh → ProtCh} (hK : Keeps pm pi pf pk s0 s) :
    Keeps pm pi pf pk s0 (State.setProtCh s j f) := by
  unfold State.setProtCh
  repeat' (first
    | (with_reducible first
      | assumption | apply Keeps.ite)
    | extract_lets | exact id | exact Nat.le_refl _ | split | apply Keeps.with_prot | (intro q; simpa [updAt] using q)
    | (intro q; exact (List.length_modify ..).trans q) | (intro q; exact (List.length_set ..).trans q))

theorem State.protLogShow_keeps {s0 s : State} (hK : Keeps pm pi pf pk s0 s) :
    Keeps pm pi pf pk s0 (State.protLogShow s) := by
  unfold State.protLogShow
  repeat' (first
    | (with_reducible first
      | assumption | apply Keeps.ite | apply State.putF_keeps | apply State.wr_keeps)
    | extract_lets | exact id | exact Nat.le_refl _ | split | (intro q; simpa [updAt] using q)
    | (intro q; exact (List.length_modify ..).trans q) | (intro q; exact (List.length_set ..).trans q))

theorem State.protReport_keeps {s0 s : State} {type : Nat} {j : Nat} {irq : Nat} {forced : Bool} {peak : Nat} (hK : Keeps pm pi pf pk s0 s) :
    Keeps pm pi pf pk s0 (State.protReport s type j irq forced peak) := by
  unfold State.protReport
  repeat' (first
    | (with_reducible first
      | assumption | apply Keeps.ite | apply State.evt_keeps | apply State.incSat_keeps | apply State.protLogShow_keeps
      | apply State.emit_keeps)
    | extract_lets | exact id | exact Nat.le_refl _ | split | apply Keeps.with_prot | (intro q; simpa [updAt] using q)
    | (intro q; exact (List.length_modify ..).trans q) | (intro q; exact (List.length_set ..).trans q))

theorem State.laneLost_keeps {s0 s : State} {l : Nat} {known : Nat} (hK : Keeps pm pi pf pk s0 s) :
    Keeps pm pi pf pk s0 (State.laneLost s l known) := by
  unfold State.laneLost
  repeat' (first
    | (with_reducible first
      | assumption | apply Keeps.ite | refine Keeps.each (fun _ _ _ => ?_) ?_ | apply State.protReport_keeps
      | apply State.cnt_keeps)
    | extract_lets | exact id | exact Nat.le_refl _ | split | apply Keeps.with_prot | (intro q; simpa [updAt] using q)
    | (intro q; exact (List.length_modify ..).trans q) | (intro q; exact (List.length_set ..).trans q))

theorem State.lanesSync_keeps {s0 s : State} (hK : Keeps pm pi pf pk s0 s) :
    Keeps pm pi pf pk s0 (State.lanesSync s) := by
  unfold State.lanesSync
  repeat' (first
    | (with_reducible first
      | assumption | apply Keeps.ite | apply State.putF_keeps | refine Keeps.each (fun _ _ _ => ?_) ?_
      | apply State.setLane_keeps | apply State.laneLost_keeps | apply State.chansSync_keeps)
    | extract_lets | exact id | exact Nat.le_refl _ | split | (intro q; simpa [updAt] using q)
    | (intro q; exact (List.length_modify ..).trans q) | (intro q; exact (List.length_set ..).trans q)
    | (intro q; exact (List.length_map ..).trans q))

theorem State.gateOne_keeps {s0 s : State} {plain : Bool} {j : Nat} (hK : Keeps pm pi pf pk s0 s) :
    Keeps pm pi pf pk s0 (State.gateOne s plain j) := by
  unfold State.gateOne
  repeat' (first
    | (with_reducible first
      | assumption | apply Keeps.ite | apply State.putBit_keeps | apply State.putF_keeps | apply State.gateReleased_keeps
      | apply State.chanSync_keeps)
    | extract_lets | exact id | exact Nat.le_refl _ | split | (intro q; simpa [updAt] using q)
    | (intro q; exact (List.length_modify ..).trans q) | (intro q; exact (List.length_set ..).trans q))

theorem State.gateSync_keeps {s0 s : State} {plain : Bool} (hK : Keeps pm pi pf pk s0 s) :
    Keeps pm pi pf pk s0 (State.gateSync s plain) := by
  unfold State.gateSync
  repeat' (first
    | (with_reducible first
      | assumption | apply Keeps.ite | apply State.lanesSync_keeps | refine Keeps.each (fun _ _ _ => ?_) ?_
      | apply State.gateOne_keeps)
    | extract_lets | exact id | exact Nat.le_refl _ | split | (intro q; simpa [updAt] using q)
    | (intro q; exact (List.length_modify ..).trans q) | (intro q; exact (List.length_set ..).trans q))

theorem State.declare_keeps {s0 s : State} {j : Nat} {type : Nat} {forced : Bool} {peak : Nat} (hK : Keeps pm pi pf pk s0 s) :
    Keeps pm pi pf pk s0 (State.declare s j type forced peak) := by
  unfold State.declare
  repeat' (first
    | (with_reducible first
      | assumption | apply Keeps.ite | apply State.trigEvent_keeps | apply State.protReport_keeps
      | apply State.incSat_keeps | apply State.setProtCh_keeps | apply State.gateSync_keeps | apply State.putF_keeps)
    | extract_lets | exact id | exact Nat.le_refl _ | split | (intro q; simpa [updAt] using q)
    | (intro q; exact (List.length_modify ..).trans q) | (intro q; exact (List.length_set ..).trans q)
    | (intro q; exact (List.length_map ..).trans q))

theorem State.protCurrent_keeps {s0 s : State} {j : Nat} {code : Int} {lim : Bool} (hK : Keeps pm pi pf pk s0 s) :
    Keeps pm pi pf pk s0 (State.protCurrent s j code lim) := by
  unfold State.protCurrent
  repeat' (first
    | (with_reducible first
      | assumption | apply Keeps.ite | apply State.setProtCh_keeps | apply State.declare_keeps | apply State.injected_keeps)
    | extract_lets | exact id | exact Nat.le_refl _ | split | (intro q; simpa [updAt] using q)
    | (intro q; exact (List.length_modify ..).trans q) | (intro q; exact (List.length_set ..).trans q))

theorem State.protVoltage_keeps {s0 s : State} {j : Nat} {code : Int} (hK : Keeps pm pi pf pk s0 s) :
    Keeps pm pi pf pk s0 (State.protVoltage s j code) := by
  unfold State.protVoltage
  repeat' (first
    | (with_reducible first
      | assumption | apply Keeps.ite | apply State.setProtCh_keeps)
    | extract_lets | exact id | exact Nat.le_refl _ | split | (intro q; simpa [updAt] using q)
    | (intro q; exact (List.length_modify ..).trans q) | (intro q; exact (List.length_set ..).trans q))

theorem State.writeClr_keeps {s0 s : State} {req : Requester} {v : Nat} (hK : Keeps pm pi pf pk s0 s) :
    Keeps pm pi pf pk s0 (State.writeClr s req v) := by
  unfold State.writeClr
  repeat' (first
    | (with_reducible first
      | assumption | apply Keeps.ite | apply State.quiet_keeps | apply State.gateSync_keeps
      | refine Keeps.each (fun _ _ _ => ?_) ?_ | apply State.putF_keeps)
    | extract_lets | exact id | exact Nat.le_refl _ | split | (intro q; simpa [updAt] using q)
    | (intro q; exact (List.length_modify ..).trans q) | (intro q; exact (List.length_set ..).trans q))

theorem State.popProtLog_keeps {s0 s : State} {v : Nat} (hK : Keeps pm pi pf pk s0 s) :
    Keeps pm pi pf pk s0 (State.popProtLog s v) := by
  unfold State.popProtLog
  repeat' (first
    | (with_reducible first
      | assumption | apply Keeps.ite | apply State.protLogShow_keeps)
    | extract_lets | exact id | exact Nat.le_refl _ | split | apply Keeps.with_prot | (intro q; simpa [updAt] using q)
    | (intro q; exact (List.length_modify ..).trans q) | (intro q; exact (List.length_set ..).trans q))

theorem State.protRelease_keeps {s0 s : State} (hK : Keeps pm pi pf pk s0 s) :
    Keeps pm pi pf pk s0 (State.protRelease s) := by
  unfold State.protRelease
  repeat' (first
    | (with_reducible first
      | assumption | apply Keeps.ite | refine Keeps.each (fun _ _ _ => ?_) ?_ | apply State.putF_keeps
      | apply State.putBit_keeps | apply State.funcSet_keeps | apply State.gateSync_keeps)
    | extract_lets | exact id | exact Nat.le_refl _ | split | (intro q; simpa [updAt] using q)
    | (intro q; exact (List.length_modify ..).trans q) | (intro q; exact (List.length_set ..).trans q)
    | (intro q; exact (List.length_map ..).trans q))

theorem State.writeChimeCfg_keeps {s0 s : State} {req : Requester} {v : Nat} (hK : Keeps pm pi pf pk s0 s) :
    Keeps pm pi pf pk s0 (State.writeChimeCfg s req v) := by
  unfold State.writeChimeCfg
  repeat' (first
    | (with_reducible first
      | assumption | apply Keeps.ite | apply State.regStore_keeps | apply State.quiet_keeps | apply State.funcSet_keeps
      | apply State.putBit_keeps)
    | extract_lets | exact id | exact Nat.le_refl _ | split | (intro q; simpa [updAt] using q)
    | (intro q; exact (List.length_modify ..).trans q) | (intro q; exact (List.length_set ..).trans q))

theorem State.laneRelease_keeps {s0 s : State} {l : Nat} (hK : Keeps pm pi pf pk s0 s) :
    Keeps pm pi pf pk s0 (State.laneRelease s l) := by
  unfold State.laneRelease
  repeat' (first
    | (with_reducible first
      | assumption | apply Keeps.ite | apply State.evt_keeps | apply State.lanesSync_keeps | apply State.putBit_keeps
      | apply State.setLane_keeps)
    | extract_lets | exact id | exact Nat.le_refl _ | split | (intro q; simpa [updAt] using q)
    | (intro q; exact (List.length_modify ..).trans q) | (intro q; exact (List.length_set ..).trans q)
    | (intro q; exact (List.length_map ..).trans q))

theorem State.writeChimeStart_keeps {s0 s : State} {req : Requester} {l : Nat} {v : Nat} (hK : Keeps pm pi pf pk s0 s) :
    Keeps pm pi pf pk s0 (State.writeChimeStart s req l v) := by
  unfold State.writeChimeStart
  repeat' (first
    | (with_reducible first
      | assumption | apply Keeps.ite | apply State.quiet_keeps | apply State.setLane_keeps | apply State.putF_keeps
      | apply State.putBit_keeps | apply State.lanesSync_keeps)
    | extract_lets | exact id | exact Nat.le_refl _ | split | apply Keeps.with_prot | (intro q; simpa [updAt] using q)
    | (intro q; exact (List.length_modify ..).trans q) | (intro q; exact (List.length_set ..).trans q)
    | (intro q; exact (List.length_map ..).trans q))

end Sys2Proof.Machine
end

