-- ==== Sys2Proof/Laws/KeepsReset.lean ====
section
/-! SUPPORT. What the operations of Machine/Reset.lean keep. -/

set_option linter.all false

namespace Sys2Proof.Machine

variable {pm pi pf pk : Bool}

theorem State.freeDram_keeps {s0 s : State} {l : List Nat} (hK : Keeps false pi pf pk s0 s) :
    Keeps false pi pf pk s0 (State.freeDram s l) := by
  unfold State.freeDram
  repeat' (first
    | (with_reducible first
      | assumption | apply Keeps.ite | refine Keeps.each (fun _ _ _ => ?_) ?_ | apply State.fresh_keeps
      | apply State.setByte_keeps)
    | extract_lets | exact id | exact Nat.le_refl _ | split | (intro q; simpa [updAt] using q)
    | (intro q; exact (List.length_modify ..).trans q) | (intro q; exact (List.length_set ..).trans q)
    | (intro q; exact (List.length_map ..).trans q))

theorem State.fuseRegs_keeps {s0 s : State} (hK : Keeps pm pi pf pk s0 s) :
    Keeps pm pi pf pk s0 (State.fuseRegs s) := by
  unfold State.fuseRegs
  repeat' (first
    | (with_reducible first
      | assumption | apply Keeps.ite | apply State.wr_keeps | refine Keeps.each (fun _ _ _ => ?_) ?_)
    | extract_lets | exact id | exact Nat.le_refl _ | split | (intro q; simpa [updAt] using q)
    | (intro q; exact (List.length_modify ..).trans q) | (intro q; exact (List.length_set ..).trans q))

theorem State.resetAs_keeps {s0 s : State} {k : Nat} {sup : Bool} (hK : Keeps false false pf false s0 s) :
    Keeps false false pf false s0 (s.resetAs k sup) := by
  unfold State.resetAs
  extract_lets r0 r1 r2
  have h1 : Keeps false false pf false s0 r1 :=
    ⟨fun g => have q := State.wf_iff.mp (hK.wf g); State.wf_iff.mpr ⟨swf_filter q.1, swf_filter q.2.1, swf_filter q.2.2⟩,
      fun _ => by constructor <;> rfl, hK.pending, hK.base, hK.free, hK.out, nofun, nofun, hK.fuse, nofun⟩
  have h2 : Keeps false false pf false s0 r2 := State.fuseRegs_keeps (State.freeDram_keeps h1)
  split
  · exact State.wr_keeps h2
  · exact State.putBit_keeps h2

theorem State.latchStraps_keeps {s0 s : State} {straps : Nat} (hK : Keeps pm pi pf pk s0 s) :
    Keeps pm pi pf pk s0 (State.latchStraps s straps) := by
  unfold State.latchStraps
  repeat' (first
    | (with_reducible first
      | assumption | apply Keeps.ite | apply State.wr_keeps)
    | extract_lets | exact id | exact Nat.le_refl _ | split | apply Keeps.with_boot | (intro q; simpa [updAt] using q)
    | (intro q; exact (List.length_modify ..).trans q) | (intro q; exact (List.length_set ..).trans q))

theorem State.releaseReset_keeps {s0 s : State} (hK : Keeps pm pi pf pk s0 s) : Keeps pm pi pf pk s0 s.releaseReset := by
  unfold State.releaseReset
  refine Keeps.each (fun _ _ _ => State.putF_keeps ‹_›) ?_
  have h := (hK.with_boot (x := { s.boot with held := false, t0 := s.clk.base }) fun q => q).with_clk
    (x := { base := s.clk.base, time := 0 }) (Nat.le_refl _)
  exact (h.with_sns (x := { lastSwap := s.clk.base }) (fun _ => rfl)).with_therm (fun q => q)

theorem State.tryRelease_keeps {s0 s : State} (hK : Keeps pm pi pf pk s0 s) :
    Keeps pm pi pf pk s0 (State.tryRelease s) := by
  unfold State.tryRelease
  repeat' (first
    | (with_reducible first
      | assumption | apply Keeps.ite | apply State.releaseReset_keeps)
    | extract_lets | exact id | exact Nat.le_refl _ | split | (intro q; simpa [updAt] using q)
    | (intro q; exact (List.length_modify ..).trans q) | (intro q; exact (List.length_set ..).trans q))

theorem State.resetNow_keeps {s0 s : State} {k : Nat} (hK : Keeps false false pf false s0 s) :
    Keeps false false pf false s0 (State.resetNow s k) := by
  unfold State.resetNow
  repeat' (first
    | (with_reducible first
      | assumption | apply Keeps.ite | apply State.tryRelease_keeps | apply State.resetAs_keeps)
    | extract_lets | exact id | exact Nat.le_refl _ | split | (intro q; simpa [updAt] using q)
    | (intro q; exact (List.length_modify ..).trans q) | (intro q; exact (List.length_set ..).trans q))

theorem State.faultSync_keeps {s0 s : State} (hK : Keeps pm pi pf pk s0 s) :
    Keeps pm pi pf pk s0 (State.faultSync s) := by
  unfold State.faultSync
  repeat' (first
    | (with_reducible first
      | assumption | apply Keeps.ite | apply State.putBit_keeps | apply State.funcSet_keeps)
    | extract_lets | exact id | exact Nat.le_refl _ | split | apply Keeps.with_boot | (intro q; simpa [updAt] using q)
    | (intro q; exact (List.length_modify ..).trans q) | (intro q; exact (List.length_set ..).trans q))

end Sys2Proof.Machine
end

