-- ==== Sys2Proof/Laws/KeepsResize.lean ====
section
/-! SUPPORT. What the operations of Machine/Resize.lean keep. -/

set_option linter.all false

namespace Sys2Proof.Machine

variable {pm pi pf pk : Bool}

theorem State.writeResize_keeps {s0 s : State} {req : Requester} {p v : Nat} (hK : Keeps pm pi pf pk s0 s) :
    Keeps pm pi pf pk s0 (s.writeResize req p v) := by
  unfold State.writeResize
  refine Keeps.ite hK (Keeps.ite (State.quiet_keeps hK) ?_)
  extract_lets armed fail s1 out s2 s3 s4
  have h1 : Keeps pm pi pf pk s0 s1 := Keeps.each (fun _ _ h => State.putF_keeps h) hK
  have h2 : Keeps pm pi pf pk s0 s2 := Keeps.each (fun _ _ h => State.putBit_keeps (State.putF_keeps h)) h1
  have h4 : Keeps pm pi pf pk s0 s4 := Keeps.each (fun _ _ h => State.unplace_keeps h)
    (Keeps.with_leaving (Keeps.with_resize h2 (x := some { armed := armed, page := p, start := s2.clk.base })) (x := out))
  refine Keeps.ite (Keeps.each (fun _ _ h => State.evt_keeps h) h1) ?_
  exact State.ringsSync_keeps (State.dispSync_keeps (Keeps.each (fun _ _ h => State.putBit_keeps h) h4))

theorem State.clearLeaving_keeps {s0 s : State} {g : Nat} (hK : Keeps pm pi pf pk s0 s) :
    Keeps pm pi pf pk s0 (State.clearLeaving s g) := by
  unfold State.clearLeaving
  repeat' (first
    | (with_reducible first
      | assumption | apply Keeps.ite | apply State.startClear_keeps)
    | extract_lets | exact id | exact Nat.le_refl _ | split | apply Keeps.with_resize | (intro q; simpa [updAt] using q)
    | (intro q; exact (List.length_modify ..).trans q) | (intro q; exact (List.length_set ..).trans q))

theorem State.eshareSync_keeps {s0 s : State} {p : Nat} (hK : Keeps pm pi pf pk s0 s) :
    Keeps pm pi pf pk s0 (State.eshareSync s p) := by
  unfold State.eshareSync
  repeat' (first
    | (with_reducible first
      | assumption | apply Keeps.ite | apply State.putF_keeps)
    | extract_lets | exact id | exact Nat.le_refl _ | split | (intro q; simpa [updAt] using q)
    | (intro q; exact (List.length_modify ..).trans q) | (intro q; exact (List.length_set ..).trans q))

theorem State.commitPart_keeps {s0 s : State} {p : Nat} (hK : Keeps pm pi pf pk s0 s) :
    Keeps pm pi pf pk s0 (State.commitPart s p) := by
  unfold State.commitPart
  repeat' (first
    | (with_reducible first
      | assumption | apply Keeps.ite | apply State.wr_keeps | apply State.eshareSync_keeps | apply State.putF_keeps)
    | extract_lets | exact id | exact Nat.le_refl _ | split | (intro q; simpa [updAt] using q)
    | (intro q; exact (List.length_modify ..).trans q) | (intro q; exact (List.length_set ..).trans q)
    | refine Keeps.foldl (fun _ _ _ => ?_) ?_)

theorem State.readmit_keeps {s0 s : State} {j : Job} (hK : Keeps false pi pf pk s0 s) :
    Keeps false pi pf pk s0 (State.readmit s j) := by
  unfold State.readmit
  repeat' (first
    | (with_reducible first
      | assumption | apply Keeps.ite | apply State.endUnstarted_keeps | apply State.refund_keeps
      | apply State.setJob_keeps | apply State.finish_keeps)
    | extract_lets | exact id | exact Nat.le_refl _ | split | (intro q; simpa [updAt] using q)
    | (intro q; exact (List.length_modify ..).trans q) | (intro q; exact (List.length_set ..).trans q)
    | (intro q; exact (List.length_map ..).trans q))

theorem State.writePartNext_keeps {s0 s : State} {req : Requester} {a : Nat} {v : Nat} (hK : Keeps pm pi pf pk s0 s) :
    Keeps pm pi pf pk s0 (State.writePartNext s req a v) := by
  unfold State.writePartNext
  repeat' (first
    | (with_reducible first
      | assumption | apply Keeps.ite | apply State.quiet_keeps | apply State.regStore_keeps)
    | extract_lets | exact id | exact Nat.le_refl _ | split | (intro q; simpa [updAt] using q)
    | (intro q; exact (List.length_modify ..).trans q) | (intro q; exact (List.length_set ..).trans q))

theorem State.writeShareReg_keeps {s0 s : State} {req : Requester} {p : Nat} {v : Nat} (hK : Keeps pm pi pf pk s0 s) :
    Keeps pm pi pf pk s0 (State.writeShareReg s req p v) := by
  unfold State.writeShareReg
  repeat' (first
    | (with_reducible first
      | assumption | apply Keeps.ite | apply State.writeShare_keeps | apply State.eshareSync_keeps
      | apply State.putF_keeps)
    | extract_lets | exact id | exact Nat.le_refl _ | split | (intro q; simpa [updAt] using q)
    | (intro q; exact (List.length_modify ..).trans q) | (intro q; exact (List.length_set ..).trans q)
    | (intro q; exact (List.length_map ..).trans q))

end Sys2Proof.Machine
end

