-- ==== Sys2Proof/Laws/KeepsSec.lean ====
section
/-! SUPPORT. What the operations of Machine/Sec.lean keep. -/

set_option linter.all false

namespace Sys2Proof.Machine

variable {pm pi pf pk : Bool}

theorem State.sapEvt_keeps {s0 s : State} {i : Nat} {b : Nat} (hK : Keeps pm pi pf pk s0 s) :
    Keeps pm pi pf pk s0 (State.sapEvt s i b) := by
  unfold State.sapEvt
  repeat' (first
    | (with_reducible first
      | assumption | apply Keeps.ite | apply State.putBit_keeps)
    | extract_lets | exact id | exact Nat.le_refl _ | split | (intro q; simpa [updAt] using q)
    | (intro q; exact (List.length_modify ..).trans q) | (intro q; exact (List.length_set ..).trans q))

theorem State.xmbBusy_keeps {s0 s : State} {i : Nat} (hK : Keeps pm pi pf pk s0 s) :
    Keeps pm pi pf pk s0 (State.xmbBusy s i) := by
  unfold State.xmbBusy
  repeat' (first
    | (with_reducible first
      | assumption | apply Keeps.ite | apply State.incSat_keeps)
    | extract_lets | exact id | exact Nat.le_refl _ | split | (intro q; simpa [updAt] using q)
    | (intro q; exact (List.length_modify ..).trans q) | (intro q; exact (List.length_set ..).trans q))

theorem State.ringXmb_keeps {s0 s : State} {i : Nat} {h2s : Bool} {v : Nat} (hK : Keeps pm pi pf pk s0 s) :
    Keeps pm pi pf pk s0 (State.ringXmb s i h2s v) := by
  unfold State.ringXmb
  repeat' (first
    | (with_reducible first
      | assumption | apply Keeps.ite | apply State.xmbBusy_keeps | apply State.incWrap_keeps
      | apply State.putBit_keeps | apply State.sapEvt_keeps | apply State.xmbToIsland_keeps | apply State.evt_keeps)
    | extract_lets | exact id | exact Nat.le_refl _ | split | (intro q; simpa [updAt] using q)
    | (intro q; exact (List.length_modify ..).trans q) | (intro q; exact (List.length_set ..).trans q)
    | (intro q; exact (List.length_map ..).trans q))

theorem State.ackXmb_keeps {s0 s : State} {i : Nat} {h2s : Bool} {v : Nat} (hK : Keeps pm pi pf pk s0 s) :
    Keeps pm pi pf pk s0 (State.ackXmb s i h2s v) := by
  unfold State.ackXmb
  repeat' (first
    | (with_reducible first
      | assumption | apply Keeps.ite | apply State.putBit_keeps | apply State.xmbToIsland_keeps
      | apply State.evt_keeps | apply State.sapEvt_keeps)
    | extract_lets | exact id | exact Nat.le_refl _ | split | (intro q; simpa [updAt] using q)
    | (intro q; exact (List.length_modify ..).trans q) | (intro q; exact (List.length_set ..).trans q)
    | (intro q; exact (List.length_map ..).trans q))

theorem State.writeHold_keeps {s0 s : State} {v : Nat} (hK : Keeps pm pi pf pk s0 s) :
    Keeps pm pi pf pk s0 (State.writeHold s v) := by
  unfold State.writeHold
  repeat' (first
    | (with_reducible first
      | assumption | apply Keeps.ite | apply State.wr_keeps | apply State.funcSet_keeps
      | refine Keeps.each (fun _ _ _ => ?_) ?_)
    | extract_lets | exact id | exact Nat.le_refl _ | split | apply Keeps.with_harts | (intro q; simpa [updAt] using q)
    | (intro q; exact (List.length_modify ..).trans q) | (intro q; exact (List.length_set ..).trans q)
    | (intro q; exact (List.length_map ..).trans q))

theorem State.writeHartWorld_keeps {s0 s : State} {req : Requester} {v : Nat} (hK : Keeps pm pi pf pk s0 s) :
    Keeps pm pi pf pk s0 (State.writeHartWorld s req v) := by
  unfold State.writeHartWorld
  repeat' (first
    | (with_reducible first
      | assumption | apply Keeps.ite | apply State.quiet_keeps | apply State.wr_keeps
      | refine Keeps.each (fun _ _ _ => ?_) ?_)
    | extract_lets | exact id | exact Nat.le_refl _ | split | apply Keeps.with_harts | (intro q; simpa [updAt] using q)
    | (intro q; exact (List.length_modify ..).trans q) | (intro q; exact (List.length_set ..).trans q))

theorem State.sessionSync_keeps {s0 s : State} (hK : Keeps pm pi pf pk s0 s) :
    Keeps pm pi pf pk s0 (State.sessionSync s) := by
  unfold State.sessionSync
  repeat' (first
    | (with_reducible first
      | assumption | apply Keeps.ite | apply State.putF_keeps)
    | extract_lets | exact id | exact Nat.le_refl _ | split | (intro q; simpa [updAt] using q)
    | (intro q; exact (List.length_modify ..).trans q) | (intro q; exact (List.length_set ..).trans q))

theorem State.endSession_keeps {s0 s : State} (hK : Keeps pm pi pf pk s0 s) : Keeps pm pi pf pk s0 s.endSession := by
  unfold State.endSession
  split
  · exact hK
  · extract_lets s1 d s2
    have h1 : Keeps pm pi pf pk s0 s1 := State.evt_keeps (State.wr_keeps (State.wr_keeps hK))
    refine State.permitSync_keeps (State.faultSync_keeps ?_)
    exact (((h1.with_dbg (x := { s1.dbg with nonce := none, opened := 0, life := 0, pairHalted := [false, false], scan := 0, dm := [] })
      (fun _ => rfl)).with_harts fun q => (List.length_map ..).trans q)).with_held

theorem State.authFailed_keeps {s0 s : State} (hK : Keeps pm pi pf pk s0 s) :
    Keeps pm pi pf pk s0 (State.authFailed s) := by
  unfold State.authFailed
  repeat' (first
    | (with_reducible first
      | assumption | apply Keeps.ite | apply State.evt_keeps | apply State.incSat_keeps | apply State.putBit_keeps)
    | extract_lets | exact id | exact Nat.le_refl _ | split | apply Keeps.with_dbg | (intro q; simpa [updAt] using q)
    | (intro q; exact (List.length_modify ..).trans q) | (intro q; exact (List.length_set ..).trans q))

theorem State.checkToken_keeps {s0 s : State} {h : List Byte} (hK : Keeps pm pi pf pk s0 s) :
    Keeps pm pi pf pk s0 (State.checkToken s h) := by
  unfold State.checkToken
  repeat' (first
    | (with_reducible first
      | assumption | apply Keeps.ite | apply State.wr_keeps | apply State.permitSync_keeps | apply State.evt_keeps
      | apply State.sessionSync_keeps | apply State.authFailed_keeps)
    | extract_lets | exact id | exact Nat.le_refl _ | split | apply Keeps.with_dbg | (intro q; simpa [updAt] using q)
    | (intro q; exact (List.length_modify ..).trans q) | (intro q; exact (List.length_set ..).trans q))

theorem State.setScan_keeps {s0 s : State} {k : Nat} (hK : Keeps pm pi pf pk s0 s) :
    Keeps pm pi pf pk s0 (State.setScan s k) := by
  unfold State.setScan
  repeat' (first
    | (with_reducible first
      | assumption | apply Keeps.ite)
    | extract_lets | exact id | exact Nat.le_refl _ | split | apply Keeps.with_dbg | (intro q; simpa [updAt] using q)
    | (intro q; exact (List.length_modify ..).trans q) | (intro q; exact (List.length_set ..).trans q))

theorem State.tapBypass_keeps {s0 s : State} {data : List Byte} (hK : Keeps pm pi pf pk s0 s) :
    Keeps pm pi pf pk s0 (State.tapBypass s data) := by
  unfold State.tapBypass
  repeat' (first
    | (with_reducible first
      | assumption | apply Keeps.ite | apply State.emit_keeps | apply State.setScan_keeps)
    | extract_lets | exact id | exact Nat.le_refl _ | split | (intro q; simpa [updAt] using q)
    | (intro q; exact (List.length_modify ..).trans q) | (intro q; exact (List.length_set ..).trans q))

theorem State.tapRun_keeps {s0 s : State} {c : Nat} {data : List Byte} {f : State → State} (h_f : ∀ u, Keeps pm pi pf pk s0 u → Keeps pm pi pf pk s0 (f u)) (hK : Keeps pm pi pf pk s0 s) :
    Keeps pm pi pf pk s0 (State.tapRun s c data f) := by
  unfold State.tapRun
  repeat' (first
    | (with_reducible first
      | assumption | apply Keeps.ite | apply State.setScan_keeps | apply State.tapBypass_keeps | apply h_f)
    | extract_lets | exact id | exact Nat.le_refl _ | split | apply Keeps.with_dbg | (intro q; simpa [updAt] using q)
    | (intro q; exact (List.length_modify ..).trans q) | (intro q; exact (List.length_set ..).trans q)
    | (intro q; exact (List.length_map ..).trans q))

theorem State.haltHart_keeps {s0 s : State} {h : Nat} (hK : Keeps pm pi pf pk s0 s) :
    Keeps pm pi pf pk s0 (State.haltHart s h) := by
  unfold State.haltHart
  repeat' (first
    | (with_reducible first
      | assumption | apply Keeps.ite | apply State.fresh_keeps)
    | extract_lets | exact id | exact Nat.le_refl _ | split | apply Keeps.with_harts | (intro q; simpa [updAt] using q)
    | (intro q; exact (List.length_modify ..).trans q) | (intro q; exact (List.length_set ..).trans q)
    | (intro q; exact (List.length_map ..).trans q))

theorem State.hartReg_keeps {s0 s : State} {h : Nat} {r : Nat} (hK : Keeps pm pi pf pk s0 s) :
    Keeps pm pi pf pk s0 (State.hartReg s h r).2 := by
  unfold State.hartReg
  repeat' (first
    | (with_reducible first
      | assumption | apply Keeps.ite | apply Keeps.ite2 | apply State.fresh_keeps)
    | extract_lets | exact id | exact Nat.le_refl _ | split | apply Keeps.with_harts | (intro q; simpa [updAt] using q)
    | (intro q; exact (List.length_modify ..).trans q) | (intro q; exact (List.length_set ..).trans q)
    | (intro q; exact (List.length_map ..).trans q))

theorem State.setHartReg_keeps {s0 s : State} {h : Nat} {r : Nat} {v : Nat} (hK : Keeps pm pi pf pk s0 s) :
    Keeps pm pi pf pk s0 (State.setHartReg s h r v) := by
  unfold State.setHartReg
  repeat' (first
    | (with_reducible first
      | assumption | apply Keeps.ite)
    | extract_lets | exact id | exact Nat.le_refl _ | split | apply Keeps.with_harts | (intro q; simpa [updAt] using q)
    | (intro q; exact (List.length_modify ..).trans q) | (intro q; exact (List.length_set ..).trans q)
    | (intro q; exact (List.length_map ..).trans q))

theorem State.abstractReg_keeps {s0 s : State} {h : Nat} {r : Nat} {write : Bool} {v : Nat} (hK : Keeps pm pi pf pk s0 s) :
    Keeps pm pi pf pk s0 (State.abstractReg s h r write v) := by
  unfold State.abstractReg
  repeat' (first
    | (with_reducible first
      | assumption | apply Keeps.ite | apply State.setHartReg_keeps | apply State.emit_keeps
      | apply State.hartReg_keeps)
    | extract_lets | exact id | exact Nat.le_refl _ | split | (intro q; simpa [updAt] using q)
    | (intro q; exact (List.length_modify ..).trans q) | (intro q; exact (List.length_set ..).trans q)
    | (intro q; exact (List.length_map ..).trans q))

theorem State.abstractTrigger_keeps {s0 s : State} {h : Nat} {k : Nat} {write : Bool} {v : Nat} (hK : Keeps pm pi pf pk s0 s) :
    Keeps pm pi pf pk s0 (State.abstractTrigger s h k write v) := by
  unfold State.abstractTrigger
  repeat' (first
    | (with_reducible first
      | assumption | apply Keeps.ite | apply State.emit_keeps)
    | extract_lets | exact id | exact Nat.le_refl _ | split | apply Keeps.with_harts | (intro q; simpa [updAt] using q)
    | (intro q; exact (List.length_modify ..).trans q) | (intro q; exact (List.length_set ..).trans q)
    | (intro q; exact (List.length_map ..).trans q))

theorem State.dmReg_keeps {s0 s : State} {a : Nat} {write : Bool} {v : Nat} (hK : Keeps pm pi pf pk s0 s) :
    Keeps pm pi pf pk s0 (State.dmReg s a write v) := by
  unfold State.dmReg
  repeat' (first
    | (with_reducible first
      | assumption | apply Keeps.ite | apply State.emit_keeps | apply State.fresh_keeps)
    | extract_lets | exact id | exact Nat.le_refl _ | split | apply Keeps.with_dbg | (intro q; simpa [updAt] using q)
    | (intro q; exact (List.length_modify ..).trans q) | (intro q; exact (List.length_set ..).trans q)
    | (intro q; exact (List.length_map ..).trans q))

theorem State.inspectPair_keeps {s0 s : State} {p : Nat} (hK : Keeps pm pi pf pk s0 s) :
    Keeps pm pi pf pk s0 (State.inspectPair s p) := by
  unfold State.inspectPair
  repeat' (first
    | (with_reducible first
      | assumption | apply Keeps.ite | apply State.emit_keeps | apply State.fresh_keeps)
    | extract_lets | exact id | exact Nat.le_refl _ | split | (intro q; simpa [updAt] using q)
    | (intro q; exact (List.length_modify ..).trans q) | (intro q; exact (List.length_set ..).trans q)
    | (intro q; exact (List.length_map ..).trans q))

theorem State.haltPair_keeps {s0 s : State} {p : Nat} {b : Bool} (hK : Keeps pm pi pf pk s0 s) :
    Keeps pm pi pf pk s0 (State.haltPair s p b) := by
  unfold State.haltPair
  repeat' (first
    | (with_reducible first
      | assumption | apply Keeps.ite | apply State.faultSync_keeps)
    | extract_lets | exact id | exact Nat.le_refl _ | split | apply Keeps.with_dbg | (intro q; simpa [updAt] using q)
    | (intro q; exact (List.length_modify ..).trans q) | (intro q; exact (List.length_set ..).trans q))

theorem State.setSbaWorld_keeps {s0 s : State} {heart : Bool} (hK : Keeps pm pi pf pk s0 s) :
    Keeps pm pi pf pk s0 (State.setSbaWorld s heart) := by
  unfold State.setSbaWorld
  repeat' (first
    | (with_reducible first
      | assumption | apply Keeps.ite | apply State.putBit_keeps)
    | extract_lets | exact id | exact Nat.le_refl _ | split | (intro q; simpa [updAt] using q)
    | (intro q; exact (List.length_modify ..).trans q) | (intro q; exact (List.length_set ..).trans q))

end Sys2Proof.Machine
end

