-- ==== Sys2Proof/Laws/KeepsTherm.lean ====
section
/-! SUPPORT. What the operations of Machine/Therm.lean keep. -/

set_option linter.all false

namespace Sys2Proof.Machine

variable {pm pi pf pk : Bool}

theorem State.setDomState_keeps {s0 s : State} {d : Nat} {v : Nat} (hK : Keeps pm pi pf pk s0 s) :
    Keeps pm pi pf pk s0 (State.setDomState s d v) := by
  unfold State.setDomState
  repeat' (first
    | (with_reducible first
      | assumption | apply Keeps.ite | apply State.putF_keeps | apply State.incSat_keeps)
    | extract_lets | exact id | exact Nat.le_refl _ | split | (intro q; simpa [updAt] using q)
    | (intro q; exact (List.length_modify ..).trans q) | (intro q; exact (List.length_set ..).trans q))

theorem State.lowerStep_keeps {s0 s : State} {u : Nat} {v : Nat} (hK : Keeps pm pi pf pk s0 s) :
    Keeps pm pi pf pk s0 (State.lowerStep s u v) := by
  unfold State.lowerStep
  repeat' (first
    | (with_reducible first
      | assumption | apply Keeps.ite | apply State.evt_keeps | apply State.putF_keeps | apply State.addSat_keeps)
    | extract_lets | exact id | exact Nat.le_refl _ | split | apply Keeps.with_therm | (intro q; simpa [updAt] using q)
    | (intro q; exact (List.length_modify ..).trans q) | (intro q; exact (List.length_set ..).trans q)
    | (intro q; exact (List.length_map ..).trans q))

theorem State.coolSync_keeps {s0 s : State} (hK : Keeps pm pi pf pk s0 s) :
    Keeps pm pi pf pk s0 (State.coolSync s) := by
  unfold State.coolSync
  repeat' (first
    | (with_reducible first
      | assumption | apply Keeps.ite | apply State.putBit_keeps | apply State.lvl_keeps | apply State.fresh_keeps
      | apply State.putF_keeps | apply State.evt_keeps)
    | extract_lets | exact id | exact Nat.le_refl _ | split | apply Keeps.with_therm | (intro q; simpa [updAt] using q)
    | (intro q; exact (List.length_modify ..).trans q) | (intro q; exact (List.length_set ..).trans q)
    | (intro q; exact (List.length_map ..).trans q))

theorem State.thermSync_keeps {s0 s : State} (hK : Keeps pm pi pf pk s0 s) :
    Keeps pm pi pf pk s0 (State.thermSync s) := by
  unfold State.thermSync
  repeat' (first
    | (with_reducible first
      | assumption | apply Keeps.ite | apply State.putF_keeps | apply State.lvl_keeps | apply State.emit_keeps
      | apply State.putBit_keeps | refine Keeps.each (fun _ _ _ => ?_) ?_ | apply State.lowerStep_keeps
      | apply State.coolSync_keeps)
    | extract_lets | exact id | exact Nat.le_refl _ | split | (intro q; simpa [updAt] using q)
    | (intro q; exact (List.length_modify ..).trans q) | (intro q; exact (List.length_set ..).trans q))

theorem State.setDomState_domains {s : State} {d v : Nat} : (s.setDomState d v).domains = s.domains := by
  unfold State.setDomState
  extract_lets old t
  show t.domains = s.domains
  simp only [t]
  split
  · rfl
  · split <;> rfl

theorem State.tripAt_keeps {s0 s : State} {k : Nat} (hK : Keeps pm pi pf pk s0 s) : Keeps pm pi pf pk s0 (s.tripAt k) := by
  unfold State.tripAt
  split
  · exact hK
  · refine Keeps.each (fun u d hu => ?_)
      (State.emit_keeps (State.evt_keeps (State.putF_keeps (State.putBit_keeps hK))))
    refine Keeps.ite hu ((State.setDomState_keeps hu).with_domains fun q => ?_)
    rw [State.setDomState_domains] at q
    exact (List.length_modify ..).trans q

theorem State.sense_keeps {s0 s : State} {k : Nat} {milli : Int} {sw : Bool} (hK : Keeps pm pi pf pk s0 s) :
    Keeps pm pi pf pk s0 (State.sense s k milli sw) := by
  unfold State.sense
  repeat' (first
    | (with_reducible first
      | assumption | apply Keeps.ite | apply State.wr_keeps)
    | extract_lets | exact id | exact Nat.le_refl _ | split | apply Keeps.with_therm | (intro q; simpa [updAt] using q)
    | (intro q; exact (List.length_modify ..).trans q) | (intro q; exact (List.length_set ..).trans q)
    | (intro q; exact (List.length_map ..).trans q))

theorem State.stepUp_keeps {s0 s : State} {u : Nat} (hK : Keeps pm pi pf pk s0 s) :
    Keeps pm pi pf pk s0 (State.stepUp s u) := by
  unfold State.stepUp
  repeat' (first
    | (with_reducible first
      | assumption | apply Keeps.ite | apply State.putF_keeps)
    | extract_lets | exact id | exact Nat.le_refl _ | split | apply Keeps.with_therm | (intro q; simpa [updAt] using q)
    | (intro q; exact (List.length_modify ..).trans q) | (intro q; exact (List.length_set ..).trans q)
    | (intro q; exact (List.length_map ..).trans q))

theorem State.stepUpDone_keeps {s0 s : State} {u : Nat} (hK : Keeps pm pi pf pk s0 s) :
    Keeps pm pi pf pk s0 (State.stepUpDone s u) := by
  unfold State.stepUpDone
  repeat' (first
    | (with_reducible first
      | assumption | apply Keeps.ite | apply State.coolSync_keeps | apply State.putF_keeps)
    | extract_lets | exact id | exact Nat.le_refl _ | split | apply Keeps.with_therm | (intro q; simpa [updAt] using q)
    | (intro q; exact (List.length_modify ..).trans q) | (intro q; exact (List.length_set ..).trans q)
    | (intro q; exact (List.length_map ..).trans q))

theorem State.tripClear_keeps {s0 s : State} {req : Requester} {v : Nat} (hK : Keeps pm pi pf pk s0 s) :
    Keeps pm pi pf pk s0 (State.tripClear s req v) := by
  unfold State.tripClear
  repeat' (first
    | (with_reducible first
      | assumption | apply Keeps.ite | apply State.coolSync_keeps | apply State.putBit_keeps | apply State.quiet_keeps)
    | extract_lets | exact id | exact Nat.le_refl _ | split | (intro q; simpa [updAt] using q)
    | (intro q; exact (List.length_modify ..).trans q) | (intro q; exact (List.length_set ..).trans q))

theorem State.coolInWritten_keeps {s0 s : State} {old : Nat} {v : Nat} (hK : Keeps pm pi pf pk s0 s) :
    Keeps pm pi pf pk s0 (State.coolInWritten s old v) := by
  unfold State.coolInWritten
  repeat' (first
    | (with_reducible first
      | assumption | apply Keeps.ite | apply State.putBit_keeps | apply State.wr_keeps | apply State.coolSync_keeps)
    | extract_lets | exact id | exact Nat.le_refl _ | split | apply Keeps.with_therm | (intro q; simpa [updAt] using q)
    | (intro q; exact (List.length_modify ..).trans q) | (intro q; exact (List.length_set ..).trans q))

end Sys2Proof.Machine
end

