-- ==== Sys2Proof/Laws/KeepsVout.lean ====
section
/-! SUPPORT. What the operations of Machine/Vout.lean keep. -/

set_option linter.all false

namespace Sys2Proof.Machine

variable {pm pi pf pk : Bool}

theorem State.setVout_keeps {s0 s : State} {v : Nat} {f : Vout → Vout} (hK : Keeps pm pi pf pk s0 s) :
    Keeps pm pi pf pk s0 (State.setVout s v f) := by
  unfold State.setVout
  repeat' (first
    | (with_reducible first
      | assumption | apply Keeps.ite)
    | extract_lets | exact id | exact Nat.le_refl _ | split | apply Keeps.with_vouts | (intro q; simpa [updAt] using q)
    | (intro q; exact (List.length_modify ..).trans q) | (intro q; exact (List.length_set ..).trans q))

theorem State.linkFail_keeps {s0 s : State} {v : Nat} {code : Nat} (hK : Keeps pm pi pf pk s0 s) :
    Keeps pm pi pf pk s0 (State.linkFail s v code) := by
  unfold State.linkFail
  repeat' (first
    | (with_reducible first
      | assumption | apply Keeps.ite | apply State.setVout_keeps | apply State.putBit_keeps | apply State.putF_keeps
      | apply State.evt_keeps | apply State.funcLost_keeps)
    | extract_lets | exact id | exact Nat.le_refl _ | split | (intro q; simpa [updAt] using q)
    | (intro q; exact (List.length_modify ..).trans q) | (intro q; exact (List.length_set ..).trans q))

theorem State.writeVoutCtl_keeps {s0 s : State} {req : Requester} {v : Nat} {x : Nat} (hK : Keeps pm pi pf pk s0 s) :
    Keeps pm pi pf pk s0 (State.writeVoutCtl s req v x) := by
  unfold State.writeVoutCtl
  repeat' (first
    | (with_reducible first
      | assumption | apply Keeps.ite | apply State.heldWrite_keeps | apply State.putBit_keeps
      | apply State.setVout_keeps | apply State.putF_keeps | apply State.funcLost_keeps)
    | extract_lets | exact id | exact Nat.le_refl _ | split | (intro q; simpa [updAt] using q)
    | (intro q; exact (List.length_modify ..).trans q) | (intro q; exact (List.length_set ..).trans q)
    | (intro q; exact (List.length_map ..).trans q))

theorem State.setHpd_keeps {s0 s : State} {v : Nat} {b : Bool} (hK : Keeps pm pi pf pk s0 s) :
    Keeps pm pi pf pk s0 (State.setHpd s v b) := by
  unfold State.setHpd
  repeat' (first
    | (with_reducible first
      | assumption | apply Keeps.ite | apply State.lvl_keeps | apply State.putBit_keeps)
    | extract_lets | exact id | exact Nat.le_refl _ | split | (intro q; simpa [updAt] using q)
    | (intro q; exact (List.length_modify ..).trans q) | (intro q; exact (List.length_set ..).trans q))

theorem State.setFifo_keeps {s0 s : State} {v : Nat} {l : Nat} {k : Nat} {f : Fifo → Fifo} (hK : Keeps pm pi pf pk s0 s) :
    Keeps pm pi pf pk s0 (State.setFifo s v l k f) := by
  unfold State.setFifo
  repeat' (first
    | (with_reducible first
      | assumption | apply Keeps.ite | apply State.setVout_keeps)
    | extract_lets | exact id | exact Nat.le_refl _ | split | (intro q; simpa [updAt] using q)
    | (intro q; exact (List.length_modify ..).trans q) | (intro q; exact (List.length_set ..).trans q)
    | (intro q; exact (List.length_map ..).trans q))

theorem State.fetchError_keeps {s0 s : State} {v : Nat} (hK : Keeps pm pi pf pk s0 s) :
    Keeps pm pi pf pk s0 (State.fetchError s v) := by
  unfold State.fetchError
  repeat' (first
    | (with_reducible first
      | assumption | apply Keeps.ite | apply State.evt_keeps | apply State.putBit_keeps)
    | extract_lets | exact id | exact Nat.le_refl _ | split | (intro q; simpa [updAt] using q)
    | (intro q; exact (List.length_modify ..).trans q) | (intro q; exact (List.length_set ..).trans q)
    | (intro q; exact (List.length_map ..).trans q))

theorem State.planeFetch_keeps {s0 s : State} {v : Nat} {l : Nat} {k : Nat} {p : Nat} {n : Nat} {env : MemEnv} (hK : Keeps false pi pf pk s0 s) :
    Keeps false pi pf pk s0 (State.planeFetch s v l k p n env) := by
  unfold State.planeFetch
  repeat' (first
    | (with_reducible first
      | assumption | apply Keeps.ite | apply State.blockRead_keeps | apply State.setFifo_keeps
      | apply State.fetchError_keeps)
    | extract_lets | exact id | exact Nat.le_refl _ | split | (intro q; simpa [updAt] using q)
    | (intro q; exact (List.length_modify ..).trans q) | (intro q; exact (List.length_set ..).trans q)
    | (intro q; exact (List.length_map ..).trans q))

theorem State.planeFill_keeps {s0 s : State} {v : Nat} {l : Nat} {k : Nat} {ticks : Nat} {env : MemEnv} (hK : Keeps false pi pf pk s0 s) :
    Keeps false pi pf pk s0 (State.planeFill s v l k ticks env) := by
  unfold State.planeFill
  repeat' (first
    | (with_reducible first
      | assumption | apply Keeps.ite | apply State.setFifo_keeps | apply State.planeFetch_keeps
      | refine Keeps.foldl (fun _ _ _ => ?_) ?_)
    | extract_lets | exact id | exact Nat.le_refl _ | split | (intro q; simpa [updAt] using q)
    | (intro q; exact (List.length_modify ..).trans q) | (intro q; exact (List.length_set ..).trans q)
    | (intro q; exact (List.length_map ..).trans q))

theorem State.voutFill_keeps {s0 s : State} {w : Nat} {env : MemEnv} (hK : Keeps false pi pf pk s0 s) :
    Keeps false pi pf pk s0 (State.voutFill s w env) := by
  unfold State.voutFill
  repeat' (first
    | (with_reducible first
      | assumption | apply Keeps.ite | refine Keeps.each (fun _ _ _ => ?_) ?_ | apply State.planeFill_keeps)
    | extract_lets | exact id | exact Nat.le_refl _ | split | (intro q; simpa [updAt] using q)
    | (intro q; exact (List.length_modify ..).trans q) | (intro q; exact (List.length_set ..).trans q)
    | (intro q; exact (List.length_map ..).trans q))

theorem State.abandonLine_keeps {s0 s : State} {v : Nat} {l : Nat} {y : Nat} (hK : Keeps pm pi pf pk s0 s) :
    Keeps pm pi pf pk s0 (State.abandonLine s v l y) := by
  unfold State.abandonLine
  repeat' (first
    | (with_reducible first
      | assumption | apply Keeps.ite | apply State.setFifo_keeps)
    | extract_lets | exact id | exact Nat.le_refl _ | split | (intro q; simpa [updAt] using q)
    | (intro q; exact (List.length_modify ..).trans q) | (intro q; exact (List.length_set ..).trans q)
    | (intro q; exact (List.length_map ..).trans q))

theorem State.writeFlip_keeps {s0 s : State} {v : Nat} {x : Nat} (hK : Keeps pm pi pf pk s0 s) :
    Keeps pm pi pf pk s0 (State.writeFlip s v x) := by
  unfold State.writeFlip
  repeat' (first
    | (with_reducible first
      | assumption | apply Keeps.ite | apply State.putBit_keeps | apply State.setVout_keeps)
    | extract_lets | exact id | exact Nat.le_refl _ | split | (intro q; simpa [updAt] using q)
    | (intro q; exact (List.length_modify ..).trans q) | (intro q; exact (List.length_set ..).trans q))

theorem State.newFrame_keeps {s0 s : State} {v : Nat} {b : Nat} {drop : Bool} (hK : Keeps pm pi pf pk s0 s) :
    Keeps pm pi pf pk s0 (State.newFrame s v b drop) := by
  unfold State.newFrame
  repeat' (first
    | (with_reducible first
      | assumption | apply Keeps.ite | apply State.setVout_keeps)
    | extract_lets | exact id | exact Nat.le_refl _ | split | (intro q; simpa [updAt] using q)
    | (intro q; exact (List.length_modify ..).trans q) | (intro q; exact (List.length_set ..).trans q)
    | (intro q; exact (List.length_map ..).trans q))

theorem State.latchFlip_keeps {s0 s : State} {v : Nat} (hK : Keeps pm pi pf pk s0 s) :
    Keeps pm pi pf pk s0 (State.latchFlip s v) := by
  unfold State.latchFlip
  repeat' (first
    | (with_reducible first
      | assumption | apply Keeps.ite | apply State.wr_keeps)
    | extract_lets | exact id | exact Nat.le_refl _ | split | (intro q; simpa [updAt] using q)
    | (intro q; exact (List.length_modify ..).trans q) | (intro q; exact (List.length_set ..).trans q))

theorem State.writeAux_keeps {s0 s : State} {req : Requester} {v : Nat} {x : Nat} (hK : Keeps pm pi pf pk s0 s) :
    Keeps pm pi pf pk s0 (State.writeAux s req v x) := by
  unfold State.writeAux
  repeat' (first
    | (with_reducible first
      | assumption | apply Keeps.ite | apply State.quiet_keeps | apply State.emit_keeps | apply State.wr_keeps
      | apply State.setVout_keeps)
    | extract_lets | exact id | exact Nat.le_refl _ | split | (intro q; simpa [updAt] using q)
    | (intro q; exact (List.length_modify ..).trans q) | (intro q; exact (List.length_set ..).trans q))

theorem State.writeVoutReg_keeps {s0 s : State} {req : Requester} {v : Nat} {a : Nat} {x : Nat} (hK : Keeps pm pi pf pk s0 s) :
    Keeps pm pi pf pk s0 (State.writeVoutReg s req v a x) := by
  unfold State.writeVoutReg
  repeat' (first
    | (with_reducible first
      | assumption | apply Keeps.ite | apply State.quiet_keeps | apply State.regStore_keeps)
    | extract_lets | exact id | exact Nat.le_refl _ | split | (intro q; simpa [updAt] using q)
    | (intro q; exact (List.length_modify ..).trans q) | (intro q; exact (List.length_set ..).trans q))

theorem State.mediaRelease_keeps {s0 s : State} (hK : Keeps pm pi pf pk s0 s) :
    Keeps pm pi pf pk s0 (State.mediaRelease s) := by
  unfold State.mediaRelease
  repeat' (first
    | (with_reducible first
      | assumption | apply Keeps.ite | apply State.alignLocal_keeps)
    | extract_lets | exact id | exact Nat.le_refl _ | split | (intro q; simpa [updAt] using q)
    | (intro q; exact (List.length_modify ..).trans q) | (intro q; exact (List.length_set ..).trans q))

theorem State.mediaPark_keeps {s0 s : State} (hK : Keeps pm pi pf pk s0 s) :
    Keeps pm pi pf pk s0 (State.mediaPark s) := by
  unfold State.mediaPark
  repeat' (first
    | (with_reducible first
      | assumption | apply Keeps.ite | refine Keeps.each (fun _ _ _ => ?_) ?_ | apply State.putF_keeps
      | apply State.putBit_keeps | apply State.camDiscard_keeps | apply State.setVout_keeps)
    | extract_lets | exact id | exact Nat.le_refl _ | split | (intro q; simpa [updAt] using q)
    | (intro q; exact (List.length_modify ..).trans q) | (intro q; exact (List.length_set ..).trans q))

end Sys2Proof.Machine
end

