-- ==== Sys2Proof/Laws/KeepsPower.lean ====
section
/-! SUPPORT. What the operations of Machine/Power.lean keep. -/

set_option linter.all false

namespace Sys2Proof.Machine

variable {pm pi pf pk : Bool}

theorem State.drawPower_keeps {s0 s : State} {d : Nat} {power : Nat} {work : Bool} (hK : Keeps pm pi pf pk s0 s) :
    Keeps pm pi pf pk s0 (State.drawPower s d power work) := by
  unfold State.drawPower
  extract_lets s1 D step warm want D1 pw limited since sat s2 D2 s3 s4
  have h1 : Keeps pm pi pf pk s0 s1 := Keeps.ite (State.meter_keeps hK) hK
  have h2 : Keeps pm pi pf pk s0 s2 := Keeps.ite (State.evt_keeps h1) h1
  have h3 : Keeps pm pi pf pk s0 s3 := h2.with_domains fun q => (List.length_modify ..).trans q
  have h4 : Keeps pm pi pf pk s0 s4 := State.putF_keeps (State.putBit_keeps h3)
  exact Keeps.ite (State.stepUpDone_keeps (Keeps.each (fun _ _ h => State.putBit_keeps h) h4)) h4

theorem State.restAt_keeps {s0 s : State} {d : Nat} {v : Nat} (hK : Keeps pm pi pf pk s0 s) :
    Keeps pm pi pf pk s0 (State.restAt s d v) := by
  unfold State.restAt
  repeat' (first
    | (with_reducible first
      | assumption | apply Keeps.ite | apply State.setDomState_keeps | apply State.putF_keeps
      | apply State.setDmcState_keeps | apply State.setDmc_keeps)
    | extract_lets | exact id | exact Nat.le_refl _ | split | apply Keeps.with_domains | apply Keeps.with_harts | (intro q; simpa [updAt] using q)
    | (intro q; exact (List.length_modify ..).trans q) | (intro q; exact (List.length_set ..).trans q)
    | (intro q; exact (List.length_map ..).trans q))

theorem State.leaveFor_keeps {s0 s : State} {d : Nat} {v : Nat} (hK : Keeps pm pi pf pk s0 s) :
    Keeps pm pi pf pk s0 (State.leaveFor s d v) := by
  unfold State.leaveFor
  repeat' (first
    | (with_reducible first
      | assumption | apply Keeps.ite | apply State.startClear_keeps)
    | extract_lets | exact id | exact Nat.le_refl _ | split | apply Keeps.with_domains | (intro q; simpa [updAt] using q)
    | (intro q; exact (List.length_modify ..).trans q) | (intro q; exact (List.length_set ..).trans q))

theorem State.evalDomain_keeps {s0 s : State} {cpu : Nat} {pcie : Bool} {power : Nat} {d : Nat} (hK : Keeps pm pi pf pk s0 s) :
    Keeps pm pi pf pk s0 (State.evalDomain s cpu pcie power d) := by
  unfold State.evalDomain
  repeat' (first
    | (with_reducible first
      | assumption | apply Keeps.ite | apply State.putBit_keeps | apply State.drawPower_keeps
      | apply State.leaveFor_keeps | apply State.restAt_keeps)
    | extract_lets | exact id | exact Nat.le_refl _ | split | apply Keeps.with_domains | (intro q; simpa [updAt] using q)
    | (intro q; exact (List.length_modify ..).trans q) | (intro q; exact (List.length_set ..).trans q)
    | (intro q; exact (List.length_map ..).trans q))

theorem State.sessionPower_keeps {s0 s : State} (hK : Keeps pm pi pf pk s0 s) :
    Keeps pm pi pf pk s0 (State.sessionPower s) := by
  unfold State.sessionPower
  repeat' (first
    | (with_reducible first
      | assumption | apply Keeps.ite | apply State.endSession_keeps)
    | extract_lets | exact id | exact Nat.le_refl _ | split | (intro q; simpa [updAt] using q)
    | (intro q; exact (List.length_modify ..).trans q) | (intro q; exact (List.length_set ..).trans q))

theorem State.wakeBlocks_keeps {s0 s : State} {d : Nat} {cur : Nat} {v : Nat} (hK : Keeps false pi pf pk s0 s) :
    Keeps false pi pf pk s0 (State.wakeBlocks s d cur v) := by
  unfold State.wakeBlocks
  repeat' (first
    | (with_reducible first
      | assumption | apply Keeps.ite | apply State.fdigRelease_keeps | apply State.berthLost_keeps
      | apply State.fdigResume_keeps | apply State.putF_keeps | apply State.setDmcState_keeps
      | apply State.clearLeaving_keeps | refine Keeps.each (fun _ _ _ => ?_) ?_ | apply State.coreNext_keeps
      | apply State.haltHart_keeps)
    | extract_lets | exact id | exact Nat.le_refl _ | split | apply Keeps.with_harts | (intro q; simpa [updAt] using q)
    | (intro q; exact (List.length_modify ..).trans q) | (intro q; exact (List.length_set ..).trans q)
    | (intro q; exact (List.length_map ..).trans q))

theorem State.parkStop_keeps {s0 s : State} (hK : Keeps pm pi pf pk s0 s) : Keeps pm pi pf pk s0 s.parkStop := by
  unfold State.parkStop
  extract_lets park1 prot1 s1
  have h1 : Keeps pm pi pf pk s0 s1 := (hK.with_park (x := { s.park with stage := 2 })).with_prot id id
  exact State.coolSync_keeps (State.gateSync_keeps (State.alePark_keeps (State.mediaPark_keeps (State.gwPark_keeps h1))))

theorem State.writePark_keeps {s0 s : State} {req : Requester} {v : Nat} (hK : Keeps pm pi pf pk s0 s) :
    Keeps pm pi pf pk s0 (State.writePark s req v) := by
  unfold State.writePark
  repeat' (first
    | (with_reducible first
      | assumption | apply Keeps.ite | apply State.quiet_keeps | apply State.evt_keeps | apply State.parkStop_keeps)
    | extract_lets | exact id | exact Nat.le_refl _ | split | apply Keeps.with_park | (intro q; simpa [updAt] using q)
    | (intro q; exact (List.length_modify ..).trans q) | (intro q; exact (List.length_set ..).trans q))

theorem State.wake_keeps {s0 s : State} {w : Nat} (hK : Keeps false false pf false s0 s) :
    Keeps false false pf false s0 (State.wake s w) := by
  unfold State.wake
  repeat' (first
    | (with_reducible first
      | assumption | apply Keeps.ite | apply State.resetAs_keeps | apply State.releaseReset_keeps | apply State.wr_keeps)
    | extract_lets | exact id | exact Nat.le_refl _ | split | (intro q; simpa [updAt] using q)
    | (intro q; exact (List.length_modify ..).trans q) | (intro q; exact (List.length_set ..).trans q))

theorem State.powerOff_keeps {s0 s : State} (hK : Keeps false false pf false s0 s) : Keeps false false pf false s0 s.powerOff := by
  unfold State.powerOff
  extract_lets cause keep w s1 s2 s3 bt s4
  have h1 : Keeps false false pf false s0 s1 := State.resetAs_keeps (State.endSession_keeps hK)
  have h2 : Keeps false false pf false s0 s2 := State.wr_keeps (Keeps.foldl (fun _ _ h => State.wr_keeps h) h1)
  have h3 : Keeps false false pf false s0 s3 := State.putF_keeps h2
  clear_value s3
  have h4 : Keeps false false pf false s0 s4 := (h3.with_boot (x := { s3.boot with parked := true, pwrReq := false, railsWait := false }) id).with_park
  clear_value s4 w
  split
  · exact State.wake_keeps h4
  · exact h4

theorem State.wakeEvent_keeps {s0 s : State} {w : Nat} (hK : Keeps false false pf false s0 s) :
    Keeps false false pf false s0 (State.wakeEvent s w) := by
  unfold State.wakeEvent
  repeat' (first
    | (with_reducible first
      | assumption | apply Keeps.ite | apply State.wake_keeps)
    | extract_lets | exact id | exact Nat.le_refl _ | split | apply Keeps.with_park | (intro q; simpa [updAt] using q)
    | (intro q; exact (List.length_modify ..).trans q) | (intro q; exact (List.length_set ..).trans q))

end Sys2Proof.Machine
end

