-- ==== Sys2Proof/Laws/KeepsRestore.lean ====
section
/-! SUPPORT. What the operations of Machine/Restore.lean keep. -/

set_option linter.all false

namespace Sys2Proof.Machine

variable {pm pi pf pk : Bool}

theorem State.applyRecords_keeps {s0 s : State} {p : Nat → Bool} (hK : Keeps pm pi pf pk s0 s) :
    Keeps pm pi pf pk s0 (State.applyRecords s p) := by
  unfold State.applyRecords
  repeat' (first
    | (with_reducible first
      | assumption | apply Keeps.ite | refine Keeps.each (fun _ _ _ => ?_) ?_ | apply State.wr_keeps)
    | extract_lets | exact id | exact Nat.le_refl _ | split | (intro q; simpa [updAt] using q)
    | (intro q; exact (List.length_modify ..).trans q) | (intro q; exact (List.length_set ..).trans q))

theorem State.applyPoint_keeps {s0 s : State} {k : Nat} (hK : Keeps pm pi pf pk s0 s) :
    Keeps pm pi pf pk s0 (State.applyPoint s k) := by
  unfold State.applyPoint
  repeat' (first
    | (with_reducible first
      | assumption | apply Keeps.ite | apply State.applyRecords_keeps)
    | extract_lets | exact id | exact Nat.le_refl _ | split | (intro q; simpa [updAt] using q)
    | (intro q; exact (List.length_modify ..).trans q) | (intro q; exact (List.length_set ..).trans q)
    | (intro q; exact (List.length_map ..).trans q))

theorem State.useImage_keeps {s0 s : State} {src : Nat} {img : List Byte} (hK : Keeps pm pi pf pk s0 s) :
    Keeps pm pi pf pk s0 (State.useImage s src img) := by
  unfold State.useImage
  repeat' (first
    | (with_reducible first
      | assumption | apply Keeps.ite | apply State.wr_keeps | apply State.putF_keeps)
    | extract_lets | exact id | exact Nat.le_refl _ | split | apply Keeps.with_boot | (intro q; simpa [updAt] using q)
    | (intro q; exact (List.length_modify ..).trans q) | (intro q; exact (List.length_set ..).trans q)
    | (intro q; exact (List.length_map ..).trans q))

theorem State.chooseRestore_keeps {s0 s : State} {err0 : Bool} {err1 : Bool} (hK : Keeps false pi pf pk s0 s) :
    Keeps false pi pf pk s0 (State.chooseRestore s err0 err1) := by
  unfold State.chooseRestore
  repeat' (first
    | (with_reducible first
      | assumption | apply Keeps.ite | apply State.putF_keeps | apply State.useImage_keeps | apply State.setBytes_keeps)
    | extract_lets | exact id | exact Nat.le_refl _ | split | (intro q; simpa [updAt] using q)
    | (intro q; exact (List.length_modify ..).trans q) | (intro q; exact (List.length_set ..).trans q))

theorem State.writeStowCtl_keeps {s0 s : State} {req : Requester} {v : Nat} (hK : Keeps false pi pf pk s0 s) :
    Keeps false pi pf pk s0 (State.writeStowCtl s req v) := by
  unfold State.writeStowCtl
  repeat' (first
    | (with_reducible first
      | assumption | apply Keeps.ite | apply State.regStore_keeps | apply State.incSat_keeps | apply State.putF_keeps
      | apply State.putBit_keeps | apply State.zero_keeps)
    | extract_lets | exact id | exact Nat.le_refl _ | split | apply Keeps.with_boot | (intro q; simpa [updAt] using q)
    | (intro q; exact (List.length_modify ..).trans q) | (intro q; exact (List.length_set ..).trans q))

theorem State.startFlash_keeps {s0 s : State} (hK : Keeps pm false pf pk s0 s) :
    Keeps pm false pf pk s0 (State.startFlash s) := by
  unfold State.startFlash
  repeat' (first
    | (with_reducible first
      | assumption | apply Keeps.ite | apply State.putBit_keeps | apply State.izero_keeps)
    | extract_lets | exact id | exact Nat.le_refl _ | split | (intro q; simpa [updAt] using q)
    | (intro q; exact (List.length_modify ..).trans q) | (intro q; exact (List.length_set ..).trans q))

end Sys2Proof.Machine
end

