-- ==== Sys2Proof/Laws/KeepsSense.lean ====
section
/-! SUPPORT. What the operations of Machine/Sense.lean keep. -/

set_option linter.all false

namespace Sys2Proof.Machine

variable {pm pi pf pk : Bool}

theorem State.setGrp_keeps {s0 s : State} {g : Nat} {f : SenseGroup → SenseGroup} (hK : Keeps pm pi pf pk s0 s) :
    Keeps pm pi pf pk s0 (State.setGrp s g f) := by
  unfold State.setGrp
  repeat' (first
    | (with_reducible first
      | assumption | apply Keeps.ite)
    | extract_lets | exact id | exact Nat.le_refl _ | split | apply Keeps.with_sns | (intro q; simpa [updAt] using q)
    | (intro q; exact (List.length_modify ..).trans q) | (intro q; exact (List.length_set ..).trans q))

theorem State.setConv_keeps {s0 s : State} {c : Nat} {v : Nat} (hK : Keeps pm pi pf pk s0 s) :
    Keeps pm pi pf pk s0 (State.setConv s c v) := by
  unfold State.setConv
  repeat' (first
    | (with_reducible first
      | assumption | apply Keeps.ite | apply State.putF_keeps)
    | extract_lets | exact id | exact Nat.le_refl _ | split | (intro q; simpa [updAt] using q)
    | (intro q; exact (List.length_modify ..).trans q) | (intro q; exact (List.length_set ..).trans q))

theorem State.spareShow_keeps {s0 s : State} (hK : Keeps pm pi pf pk s0 s) :
    Keeps pm pi pf pk s0 (State.spareShow s) := by
  unfold State.spareShow
  repeat' (first
    | (with_reducible first
      | assumption | apply Keeps.ite | apply State.putBit_keeps | apply State.lvl_keeps)
    | extract_lets | exact id | exact Nat.le_refl _ | split | (intro q; simpa [updAt] using q)
    | (intro q; exact (List.length_modify ..).trans q) | (intro q; exact (List.length_set ..).trans q))

theorem State.makeSpare_keeps {s0 s : State} {c : Nat} (hK : Keeps pm pi pf pk s0 s) :
    Keeps pm pi pf pk s0 (State.makeSpare s c) := by
  unfold State.makeSpare
  repeat' (first
    | (with_reducible first
      | assumption | apply Keeps.ite | apply State.putF_keeps | apply State.setConv_keeps)
    | extract_lets | exact id | exact Nat.le_refl _ | split | apply Keeps.with_sns | (intro q; simpa [updAt] using q)
    | (intro q; exact (List.length_modify ..).trans q) | (intro q; exact (List.length_set ..).trans q))

theorem State.convLost_keeps {s0 s : State} {c : Nat} {raise : Bool} (hK : Keeps pm pi pf pk s0 s) :
    Keeps pm pi pf pk s0 (State.convLost s c raise) := by
  unfold State.convLost
  repeat' (first
    | (with_reducible first
      | assumption | apply Keeps.ite | apply State.setConv_keeps | apply State.evt_keeps | apply State.emit_keeps)
    | extract_lets | exact id | exact Nat.le_refl _ | split | (intro q; simpa [updAt] using q)
    | (intro q; exact (List.length_modify ..).trans q) | (intro q; exact (List.length_set ..).trans q))

theorem State.handover_keeps {s0 s : State} {g : Nat} {inc : Nat} {ok : Bool} (hK : Keeps pm pi pf pk s0 s) :
    Keeps pm pi pf pk s0 (State.handover s g inc ok) := by
  unfold State.handover
  repeat' (first
    | (with_reducible first
      | assumption | apply Keeps.ite | apply State.incWrap_keeps | apply State.setConv_keeps | apply State.putF_keeps
      | apply State.putBit_keeps | apply State.setGrp_keeps | apply State.spareShow_keeps | apply State.makeSpare_keeps
      | apply State.convLost_keeps)
    | extract_lets | exact id | exact Nat.le_refl _ | split | apply Keeps.with_sns | (intro q; simpa [updAt] using q)
    | (intro q; exact (List.length_modify ..).trans q) | (intro q; exact (List.length_set ..).trans q))

theorem State.overlapEnd_keeps {s0 s : State} {g : Nat} {refOk : Bool} (hK : Keeps pm pi pf pk s0 s) :
    Keeps pm pi pf pk s0 (State.overlapEnd s g refOk) := by
  unfold State.overlapEnd
  repeat' (first
    | (with_reducible first
      | assumption | apply Keeps.ite | apply State.handover_keeps | apply State.cnt_keeps | apply State.putBit_keeps
      | apply State.setGrp_keeps | apply State.makeSpare_keeps | apply State.spareShow_keeps)
    | extract_lets | exact id | exact Nat.le_refl _ | split | apply Keeps.with_sns | (intro q; simpa [updAt] using q)
    | (intro q; exact (List.length_modify ..).trans q) | (intro q; exact (List.length_set ..).trans q))

theorem State.servingFails_keeps {s0 s : State} {g : Nat} (hK : Keeps pm pi pf pk s0 s) :
    Keeps pm pi pf pk s0 (State.servingFails s g) := by
  unfold State.servingFails
  repeat' (first
    | (with_reducible first
      | assumption | apply Keeps.ite | apply State.setConv_keeps | apply State.lvl_keeps | apply State.putBit_keeps
      | apply State.convLost_keeps | apply State.funcLost_keeps | apply State.gateSync_keeps)
    | extract_lets | exact id | exact Nat.le_refl _ | split | apply Keeps.with_sns | (intro q; simpa [updAt] using q)
    | (intro q; exact (List.length_modify ..).trans q) | (intro q; exact (List.length_set ..).trans q)
    | (intro q; exact (List.length_map ..).trans q))

theorem State.frameEnd_keeps {s0 s : State} {g : Nat} {refOk : Bool} {fail : Bool} (hK : Keeps pm pi pf pk s0 s) :
    Keeps pm pi pf pk s0 (State.frameEnd s g refOk fail) := by
  unfold State.frameEnd
  repeat' (first
    | (with_reducible first
      | assumption | apply Keeps.ite | apply State.overlapEnd_keeps | apply State.incWrap_keeps | apply State.setGrp_keeps
      | apply State.putBit_keeps | apply State.gateSync_keeps | apply State.lvl_keeps | apply State.servingFails_keeps
      | apply State.spareShow_keeps | apply State.funcReady_keeps)
    | extract_lets | exact id | exact Nat.le_refl _ | split | (intro q; simpa [updAt] using q)
    | (intro q; exact (List.length_modify ..).trans q) | (intro q; exact (List.length_set ..).trans q))

theorem State.sensed_keeps {s0 s : State} {g : Nat} {raw : Int} {other : Int} (hK : Keeps pm pi pf pk s0 s) :
    Keeps pm pi pf pk s0 (State.sensed s g raw other) := by
  unfold State.sensed
  repeat' (first
    | (with_reducible first
      | assumption | apply Keeps.ite | apply State.setGrp_keeps | apply State.wr_keeps | apply State.evt_keeps
      | apply State.cnt_keeps | apply State.protCurrent_keeps | apply State.protVoltage_keeps)
    | extract_lets | exact id | exact Nat.le_refl _ | split | (intro q; simpa [updAt] using q)
    | (intro q; exact (List.length_modify ..).trans q) | (intro q; exact (List.length_set ..).trans q))

theorem State.senseCtl_keeps {s0 s : State} {g : Nat} {old : Nat} (hK : Keeps pm pi pf pk s0 s) :
    Keeps pm pi pf pk s0 (State.senseCtl s g old) := by
  unfold State.senseCtl
  repeat' (first
    | (with_reducible first
      | assumption | apply Keeps.ite | apply State.gateSync_keeps | apply State.lvl_keeps | apply State.setGrp_keeps)
    | extract_lets | exact id | exact Nat.le_refl _ | split | (intro q; simpa [updAt] using q)
    | (intro q; exact (List.length_modify ..).trans q) | (intro q; exact (List.length_set ..).trans q))

theorem State.writeGain_keeps {s0 s : State} {req : Requester} {g : Nat} {v : Nat} (hK : Keeps pm pi pf pk s0 s) :
    Keeps pm pi pf pk s0 (State.writeGain s req g v) := by
  unfold State.writeGain
  repeat' (first
    | (with_reducible first
      | assumption | apply Keeps.ite | apply State.quiet_keeps | apply State.regStore_keeps | apply State.setGrp_keeps)
    | extract_lets | exact id | exact Nat.le_refl _ | split | (intro q; simpa [updAt] using q)
    | (intro q; exact (List.length_modify ..).trans q) | (intro q; exact (List.length_set ..).trans q)
    | (intro q; exact (List.length_map ..).trans q))

theorem State.commitTable_keeps {s0 s : State} {g : Nat} (hK : Keeps pm pi pf pk s0 s) :
    Keeps pm pi pf pk s0 (State.commitTable s g) := by
  unfold State.commitTable
  repeat' (first
    | (with_reducible first
      | assumption | apply Keeps.ite | apply State.putBit_keeps | apply State.setGrp_keeps)
    | extract_lets | exact id | exact Nat.le_refl _ | split | (intro q; simpa [updAt] using q)
    | (intro q; exact (List.length_modify ..).trans q) | (intro q; exact (List.length_set ..).trans q))

theorem State.writeCommit_keeps {s0 s : State} {req : Requester} {g : Nat} {v : Nat} (hK : Keeps pm pi pf pk s0 s) :
    Keeps pm pi pf pk s0 (State.writeCommit s req g v) := by
  unfold State.writeCommit
  repeat' (first
    | (with_reducible first
      | assumption | apply Keeps.ite | apply State.commitTable_keeps | apply State.quiet_keeps)
    | extract_lets | exact id | exact Nat.le_refl _ | split | (intro q; simpa [updAt] using q)
    | (intro q; exact (List.length_modify ..).trans q) | (intro q; exact (List.length_set ..).trans q))

theorem State.senseRelease_keeps {s0 s : State} (hK : Keeps pm pi pf pk s0 s) :
    Keeps pm pi pf pk s0 (State.senseRelease s) := by
  unfold State.senseRelease
  repeat' (first
    | (with_reducible first
      | assumption | apply Keeps.ite | refine Keeps.each (fun _ _ _ => ?_) ?_ | apply State.commitTable_keeps
      | apply State.pageErr_keeps)
    | extract_lets | exact id | exact Nat.le_refl _ | split | (intro q; simpa [updAt] using q)
    | (intro q; exact (List.length_modify ..).trans q) | (intro q; exact (List.length_set ..).trans q)
    | (intro q; exact (List.length_map ..).trans q))

theorem State.setUrg_keeps {s0 s : State} {k : Nat} {u : Option (Nat × Nat)} (hK : Keeps pm pi pf pk s0 s) :
    Keeps pm pi pf pk s0 (State.setUrg s k u) := by
  unfold State.setUrg
  repeat' (first
    | (with_reducible first
      | assumption | apply Keeps.ite | apply State.setGrp_keeps)
    | extract_lets | exact id | exact Nat.le_refl _ | split | apply Keeps.with_sns | (intro q; simpa [updAt] using q)
    | (intro q; exact (List.length_modify ..).trans q) | (intro q; exact (List.length_set ..).trans q))

theorem State.writeUrg_keeps {s0 s : State} {req : Requester} {k : Nat} {v : Nat} (hK : Keeps pm pi pf pk s0 s) :
    Keeps pm pi pf pk s0 (State.writeUrg s req k v) := by
  unfold State.writeUrg
  repeat' (first
    | (with_reducible first
      | assumption | apply Keeps.ite | apply State.quiet_keeps | apply State.putF_keeps | apply State.setUrg_keeps
      | apply State.evt_keeps | apply State.putBit_keeps | apply State.cnt_keeps)
    | extract_lets | exact id | exact Nat.le_refl _ | split | (intro q; simpa [updAt] using q)
    | (intro q; exact (List.length_modify ..).trans q) | (intro q; exact (List.length_set ..).trans q))

end Sys2Proof.Machine
end

