-- ==== Sys2Proof/Laws/KeepsStart.lean ====
section
/-! SUPPORT. What the operations of Machine/Start.lean keep. -/

set_option linter.all false

namespace Sys2Proof.Machine

variable {pm pi pf pk : Bool}

theorem State.domRelease_keeps {s0 s : State} {d : Nat} (hK : Keeps pm pi pf pk s0 s) : Keeps pm pi pf pk s0 (s.domRelease d) :=
  (State.setDomState_keeps hK).with_domains fun q => by
    rw [State.setDomState_domains] at q
    exact (List.length_modify ..).trans q

theorem State.angleRelease_keeps {s0 s : State} (hK : Keeps pm pi pf pk s0 s) :
    Keeps pm pi pf pk s0 (State.angleRelease s) := by
  unfold State.angleRelease
  repeat' (first
    | (with_reducible first
      | assumption | apply Keeps.ite | refine Keeps.each (fun _ _ _ => ?_) ?_ | apply State.setSrcState_keeps
      | apply State.domRestart_keeps)
    | extract_lets | exact id | exact Nat.le_refl _ | split | (intro q; simpa [updAt] using q)
    | (intro q; exact (List.length_modify ..).trans q) | (intro q; exact (List.length_set ..).trans q))

theorem State.enterA_keeps {s0 s : State} (hK : Keeps pm false pf pk s0 s) :
    Keeps pm false pf pk s0 (State.enterA s) := by
  unfold State.enterA
  repeat' (first
    | (with_reducible first
      | assumption | apply Keeps.ite | apply State.putBit_keeps | apply State.applyPoint_keeps
      | refine Keeps.each (fun _ _ _ => ?_) ?_ | apply State.domRelease_keeps | apply State.thermSync_keeps
      | apply State.dmcRelease_keeps | apply State.gwRelease_keeps | apply State.chansSync_keeps
      | apply State.lanesSync_keeps | apply State.protRelease_keeps | apply State.angleRelease_keeps
      | apply State.setLstate_keeps | apply State.faultSync_keeps)
    | extract_lets | exact id | exact Nat.le_refl _ | split | apply Keeps.with_boot | (intro q; simpa [updAt] using q)
    | (intro q; exact (List.length_modify ..).trans q) | (intro q; exact (List.length_set ..).trans q))

theorem State.enterB_keeps {s0 s : State} (hK : Keeps false pi pf pk s0 s) :
    Keeps false pi pf pk s0 (State.enterB s) := by
  unfold State.enterB
  repeat' (first
    | (with_reducible first
      | assumption | apply Keeps.ite | apply State.aleRelease_keeps | apply State.senseRelease_keeps
      | apply State.applyPoint_keeps)
    | extract_lets | exact id | exact Nat.le_refl _ | split | apply Keeps.with_boot | (intro q; simpa [updAt] using q)
    | (intro q; exact (List.length_modify ..).trans q) | (intro q; exact (List.length_set ..).trans q))

theorem State.declareC_keeps {s0 s : State} (hK : Keeps pm pi pf pk s0 s) : Keeps pm pi pf pk s0 s.declareC := by
  unfold State.declareC
  refine Keeps.ite hK ?_
  extract_lets s1 b s2 s3 s4 s5
  have h1 : Keeps pm pi pf pk s0 s1 := State.reach_keeps hK
  have h2 : Keeps pm pi pf pk s0 s2 := h1.with_boot fun q => q
  have h3 : Keeps pm pi pf pk s0 s3 :=
    (h2.with_domains (x := s2.domains.map fun (D : Domain) => { D with busyAt := s2.clk.base })
      fun q => (List.length_map ..).trans q).with_rmon fun _ => rfl
  have h4 : Keeps pm pi pf pk s0 s4 := State.gwDeclared_keeps h3
  exact State.startDiscovery_keeps (Keeps.ite h4 (Keeps.ite (State.funcReady_keeps (State.emit_keeps h4)) h4))

theorem State.partRelease_keeps {s0 s : State} {p : Nat} (hK : Keeps pm pi pf pk s0 s) :
    Keeps pm pi pf pk s0 (State.partRelease s p) := by
  unfold State.partRelease
  repeat' (first
    | (with_reducible first
      | assumption | apply Keeps.ite | apply State.wr_keeps | apply State.putF_keeps | apply State.eshareSync_keeps)
    | extract_lets | exact id | exact Nat.le_refl _ | split | (intro q; simpa [updAt] using q)
    | (intro q; exact (List.length_modify ..).trans q) | (intro q; exact (List.length_set ..).trans q)
    | refine Keeps.foldl (fun _ _ _ => ?_) ?_)

theorem State.coreRelease_keeps {s0 s : State} {c : Nat} (hK : Keeps pm pi pf pk s0 s) :
    Keeps pm pi pf pk s0 (State.coreRelease s c) := by
  unfold State.coreRelease
  repeat' (first
    | (with_reducible first
      | assumption | apply Keeps.ite | apply State.putF_keeps)
    | extract_lets | exact id | exact Nat.le_refl _ | split | (intro q; simpa [updAt] using q)
    | (intro q; exact (List.length_modify ..).trans q) | (intro q; exact (List.length_set ..).trans q))

theorem State.rlinkApply_keeps {s0 s : State} {p : Nat} {old : Nat} (hK : Keeps pm pi pf pk s0 s) :
    Keeps pm pi pf pk s0 (State.rlinkApply s p old) := by
  unfold State.rlinkApply
  repeat' (first
    | (with_reducible first
      | assumption | apply Keeps.ite | apply State.setLstate_keeps | apply State.linkChanged_keeps)
    | extract_lets | exact id | exact Nat.le_refl _ | split | (intro q; simpa [updAt] using q)
    | (intro q; exact (List.length_modify ..).trans q) | (intro q; exact (List.length_set ..).trans q))

theorem State.releaseGroves_keeps {s0 s : State} (hK : Keeps pm pi pf pk s0 s) :
    Keeps pm pi pf pk s0 (State.releaseGroves s) := by
  unfold State.releaseGroves
  repeat' (first
    | (with_reducible first
      | assumption | apply Keeps.ite | apply State.ledgerRelease_keeps | refine Keeps.each (fun _ _ _ => ?_) ?_
      | apply State.partRelease_keeps | apply State.coreRelease_keeps | apply State.startClear_keeps)
    | extract_lets | exact id | exact Nat.le_refl _ | split | (intro q; simpa [updAt] using q)
    | (intro q; exact (List.length_modify ..).trans q) | (intro q; exact (List.length_set ..).trans q))

theorem State.releaseFabric_keeps {s0 s : State} {ctl : List Nat} (hK : Keeps pm pi pf pk s0 s) : Keeps pm pi pf pk s0 (s.releaseFabric ctl) := by
  unfold State.releaseFabric
  extract_lets s1 s2
  have h1 : Keeps pm pi pf pk s0 s1 := Keeps.each (fun _ _ h => State.rlinkApply_keeps h) hK
  have h2 : Keeps pm pi pf pk s0 s2 := State.putBit_keeps (State.setFabState_keeps h1)
  clear_value s2
  exact h2.with_casc fun _ => rfl

theorem State.startLoader_keeps {s0 s : State} {entry : Nat} (hK : Keeps pm pi pf pk s0 s) : Keeps pm pi pf pk s0 (s.startLoader entry) :=
  (hK.with_boot (x := { s.boot with appOk := true }) id).with_harts fun q => (List.length_modify ..).trans q

theorem State.releaseC_keeps {s0 s : State} (hK : Keeps pm pi pf pk s0 s) :
    Keeps pm pi pf pk s0 (State.releaseC s) := by
  unfold State.releaseC
  repeat' (first
    | (with_reducible first
      | assumption | apply Keeps.ite | refine Keeps.each (fun _ _ _ => ?_) ?_ | apply State.applyPoint_keeps
      | apply State.domRelease_keeps | apply State.releaseGroves_keeps | apply State.fdigRelease_keeps
      | apply State.dramReady_keeps | apply State.ringsSync_keeps | apply State.dispSync_keeps
      | apply State.releaseFabric_keeps | apply State.mediaRelease_keeps)
    | extract_lets | exact id | exact Nat.le_refl _ | split | (intro q; simpa [updAt] using q)
    | (intro q; exact (List.length_modify ..).trans q) | (intro q; exact (List.length_set ..).trans q)
    | (intro q; exact (List.length_map ..).trans q))

theorem State.enterC_keeps {s0 s : State} {entry : Nat} (hK : Keeps pm pi pf pk s0 s) :
    Keeps pm pi pf pk s0 (State.enterC s entry) := by
  unfold State.enterC
  repeat' (first
    | (with_reducible first
      | assumption | apply Keeps.ite | apply State.funcReady_keeps | apply State.releaseC_keeps
      | apply State.reach_keeps | apply State.startLoader_keeps | apply State.declareC_keeps)
    | extract_lets | exact id | exact Nat.le_refl _ | split | apply Keeps.with_boot | (intro q; simpa [updAt] using q)
    | (intro q; exact (List.length_modify ..).trans q) | (intro q; exact (List.length_set ..).trans q)
    | (intro q; exact (List.length_map ..).trans q))

theorem State.writeStageCtl_keeps {s0 s : State} {req : Requester} {v : Nat} (hK : Keeps pm pi pf pk s0 s) :
    Keeps pm pi pf pk s0 (State.writeStageCtl s req v) := by
  unfold State.writeStageCtl
  repeat' (first
    | (with_reducible first
      | assumption | apply Keeps.ite | apply State.regStore_keeps | apply State.declareC_keeps | apply State.quiet_keeps)
    | extract_lets | exact id | exact Nat.le_refl _ | split | (intro q; simpa [updAt] using q)
    | (intro q; exact (List.length_modify ..).trans q) | (intro q; exact (List.length_set ..).trans q))

theorem State.setBootStat_keeps {s0 s : State} {k : Nat} {result : Nat} {slot : Nat} (hK : Keeps pm pi pf pk s0 s) :
    Keeps pm pi pf pk s0 (State.setBootStat s k result slot) := by
  unfold State.setBootStat
  repeat' (first
    | (with_reducible first
      | assumption | apply Keeps.ite | apply State.putBit_keeps | apply State.putF_keeps)
    | extract_lets | exact id | exact Nat.le_refl _ | split | (intro q; simpa [updAt] using q)
    | (intro q; exact (List.length_modify ..).trans q) | (intro q; exact (List.length_set ..).trans q))

theorem State.recoveryWait_keeps {s0 s : State} (hK : Keeps false pi pf pk s0 s) :
    Keeps false pi pf pk s0 (State.recoveryWait s) := by
  unfold State.recoveryWait
  repeat' (first
    | (with_reducible first
      | assumption | apply Keeps.ite | apply State.zero_keeps)
    | extract_lets | exact id | exact Nat.le_refl _ | split | apply Keeps.with_dbg | (intro q; simpa [updAt] using q)
    | (intro q; exact (List.length_modify ..).trans q) | (intro q; exact (List.length_set ..).trans q))

theorem State.bootFailed_keeps {s0 s : State} {k : Nat} (hK : Keeps false pi pf pk s0 s) :
    Keeps false pi pf pk s0 (State.bootFailed s k) := by
  unfold State.bootFailed
  repeat' (first
    | (with_reducible first
      | assumption | apply Keeps.ite | apply State.evt_keeps | apply State.recoveryWait_keeps | apply State.putBit_keeps)
    | extract_lets | exact id | exact Nat.le_refl _ | split | apply Keeps.with_boot | (intro q; simpa [updAt] using q)
    | (intro q; exact (List.length_modify ..).trans q) | (intro q; exact (List.length_set ..).trans q))

theorem State.imagePassed_keeps {s0 s : State} {k : Nat} {h : List Byte} {b : List Byte} (hK : Keeps false false pf pk s0 s) :
    Keeps false false pf pk s0 (State.imagePassed s k h b) := by
  unfold State.imagePassed
  repeat' (first
    | (with_reducible first
      | assumption | apply Keeps.ite | apply State.setBytes_keeps | apply State.enterA_keeps | apply State.enterB_keeps
      | apply State.enterC_keeps)
    | extract_lets | exact id | exact Nat.le_refl _ | split | (intro q; simpa [updAt] using q)
    | (intro q; exact (List.length_modify ..).trans q) | (intro q; exact (List.length_set ..).trans q))

theorem State.recoveryFailed_keeps {s0 s : State} {code : Nat} (hK : Keeps false pi pf pk s0 s) :
    Keeps false pi pf pk s0 (State.recoveryFailed s code) := by
  unfold State.recoveryFailed
  repeat' (first
    | (with_reducible first
      | assumption | apply Keeps.ite | apply State.putBit_keeps | apply State.setBootStat_keeps
      | apply State.recoveryWait_keeps)
    | extract_lets | exact id | exact Nat.le_refl _ | split | apply Keeps.with_dbg | (intro q; simpa [updAt] using q)
    | (intro q; exact (List.length_modify ..).trans q) | (intro q; exact (List.length_set ..).trans q))

theorem State.writeSwrst_keeps {s0 s : State} {req : Requester} {v : Nat} (hK : Keeps false false pf false s0 s) :
    Keeps false false pf false s0 (State.writeSwrst s req v) := by
  unfold State.writeSwrst
  repeat' (first
    | (with_reducible first
      | assumption | apply Keeps.ite | apply State.resetNow_keeps | apply State.quiet_keeps)
    | extract_lets | exact id | exact Nat.le_refl _ | split | (intro q; simpa [updAt] using q)
    | (intro q; exact (List.length_modify ..).trans q) | (intro q; exact (List.length_set ..).trans q))

theorem State.supplyFault_keeps {s0 s : State} {bit : Nat} (hK : Keeps false false pf false s0 s) :
    Keeps false false pf false s0 (State.supplyFault s bit) := by
  unfold State.supplyFault
  repeat' (first
    | (with_reducible first
      | assumption | apply Keeps.ite | apply State.resetAs_keeps | apply State.putBit_keeps)
    | extract_lets | exact id | exact Nat.le_refl _ | split | apply Keeps.with_boot | (intro q; simpa [updAt] using q)
    | (intro q; exact (List.length_modify ..).trans q) | (intro q; exact (List.length_set ..).trans q))

end Sys2Proof.Machine
end

