-- ==== Sys2Proof/Laws/KeepsAccess.lean ====
section
/-! SUPPORT. What the operations of Machine/Access.lean keep. -/

set_option linter.all false

namespace Sys2Proof.Machine

variable {pm pi pf pk : Bool}

theorem State.heartOnly_keeps {s0 s : State} {req : Requester} {a : Nat} {f : State → State} (h_f : ∀ u, Keeps pm pi pf pk s0 u → Keeps pm pi pf pk s0 (f u)) (hK : Keeps pm pi pf pk s0 s) :
    Keeps pm pi pf pk s0 (State.heartOnly s req a f) := by
  unfold State.heartOnly
  repeat' (first
    | (with_reducible first
      | assumption | apply Keeps.ite | apply State.quiet_keeps | apply h_f)
    | extract_lets | exact id | exact Nat.le_refl _ | split | (intro q; simpa [updAt] using q)
    | (intro q; exact (List.length_modify ..).trans q) | (intro q; exact (List.length_set ..).trans q))

theorem State.unlessBad_keeps {s0 s : State} {req : Requester} {a : Nat} {bad : Bool} {f : State → State} (h_f : ∀ u, Keeps pm pi pf pk s0 u → Keeps pm pi pf pk s0 (f u)) (hK : Keeps pm pi pf pk s0 s) :
    Keeps pm pi pf pk s0 (State.unlessBad s req a bad f) := by
  unfold State.unlessBad
  repeat' (first
    | (with_reducible first
      | assumption | apply Keeps.ite | apply State.quiet_keeps | apply h_f)
    | extract_lets | exact id | exact Nat.le_refl _ | split | (intro q; simpa [updAt] using q)
    | (intro q; exact (List.length_modify ..).trans q) | (intro q; exact (List.length_set ..).trans q))

theorem State.writeWindow_keeps {s0 s : State} {req : Requester} {a : Nat} {v : Nat} (hK : Keeps pm pi pf pk s0 s) :
    Keeps pm pi pf pk s0 (State.writeWindow s req a v) := by
  unfold State.writeWindow
  repeat' (first
    | (with_reducible first
      | assumption | apply Keeps.ite | apply State.writePtCtl_keeps | apply State.writeForce_keeps
      | refine State.unlessBad_keeps (fun _ _ => ?_) ?_ | apply State.windowSync_keeps | apply State.regStore_keeps)
    | extract_lets | exact id | exact Nat.le_refl _ | split | (intro q; simpa [updAt] using q)
    | (intro q; exact (List.length_modify ..).trans q) | (intro q; exact (List.length_set ..).trans q))

theorem State.writeSYS_keeps {s0 s : State} {req : Requester} {a : Nat} {v : Nat} (hK : Keeps pm pi pf pk s0 s) :
    Keeps pm pi pf pk s0 (State.writeSYS s req a v) := by
  unfold State.writeSYS
  repeat' (first
    | (with_reducible first
      | assumption | apply Keeps.ite | apply State.regStore_keeps | apply State.lvl_keeps | apply State.permitWritten_keeps)
    | extract_lets | exact id | exact Nat.le_refl _ | split | (intro q; simpa [updAt] using q)
    | (intro q; exact (List.length_modify ..).trans q) | (intro q; exact (List.length_set ..).trans q))

theorem State.writeANGLE_keeps {s0 s : State} {req : Requester} {a : Nat} {off : Nat} {v : Nat} (hK : Keeps pm pi pf pk s0 s) :
    Keeps pm pi pf pk s0 (State.writeANGLE s req a off v) := by
  unfold State.writeANGLE
  repeat' (first
    | (with_reducible first
      | assumption | apply Keeps.ite | apply State.angleCtl_keeps | apply State.regStore_keeps
      | apply State.writePredCtl_keeps | apply State.popAngLog_keeps | apply State.srcConfigured_keeps
      | apply State.writeAlarm_keeps | apply State.domNamed_keeps)
    | extract_lets | exact id | exact Nat.le_refl _ | split | (intro q; simpa [updAt] using q)
    | (intro q; exact (List.length_modify ..).trans q) | (intro q; exact (List.length_set ..).trans q)
    | (intro q; exact (List.length_map ..).trans q))

theorem State.writeTHERM_keeps {s0 s : State} {req : Requester} {a : Nat} {v : Nat} (hK : Keeps pm pi pf pk s0 s) :
    Keeps pm pi pf pk s0 (State.writeTHERM s req a v) := by
  unfold State.writeTHERM
  repeat' (first
    | (with_reducible first
      | assumption | apply Keeps.ite | refine State.heartOnly_keeps (fun _ _ => ?_) ?_ | apply State.tripClear_keeps
      | apply State.coolInWritten_keeps | refine State.unlessBad_keeps (fun _ _ => ?_) ?_ | apply State.thermSync_keeps
      | apply State.regStore_keeps)
    | extract_lets | exact id | exact Nat.le_refl _ | split | (intro q; simpa [updAt] using q)
    | (intro q; exact (List.length_modify ..).trans q) | (intro q; exact (List.length_set ..).trans q))

theorem State.writeLEDGER_keeps {s0 s : State} {req : Requester} {a : Nat} {off : Nat} {v : Nat} (hK : Keeps pm pi pf pk s0 s) :
    Keeps pm pi pf pk s0 (State.writeLEDGER s req a off v) := by
  unfold State.writeLEDGER
  repeat' (first
    | (with_reducible first
      | assumption | apply Keeps.ite | apply State.writeShareReg_keeps | apply State.regStore_keeps)
    | extract_lets | exact id | exact Nat.le_refl _ | split | (intro q; simpa [updAt] using q)
    | (intro q; exact (List.length_modify ..).trans q) | (intro q; exact (List.length_set ..).trans q))

theorem State.writeSEC_keeps {s0 s : State} {req : Requester} {a : Nat} {v : Nat} (hK : Keeps pm pi pf pk s0 s) :
    Keeps pm pi pf pk s0 (State.writeSEC s req a v) := by
  unfold State.writeSEC
  repeat' (first
    | (with_reducible first
      | assumption | apply Keeps.ite | apply State.regStore_keeps | apply State.writeHartWorld_keeps
      | apply State.writeHold_keeps)
    | extract_lets | exact id | exact Nat.le_refl _ | split | (intro q; simpa [updAt] using q)
    | (intro q; exact (List.length_modify ..).trans q) | (intro q; exact (List.length_set ..).trans q))

theorem State.writeDBG_keeps {s0 s : State} {req : Requester} {a : Nat} {v : Nat} (hK : Keeps pm pi pf pk s0 s) :
    Keeps pm pi pf pk s0 (State.writeDBG s req a v) := by
  unfold State.writeDBG
  repeat' (first
    | (with_reducible first
      | assumption | apply Keeps.ite | apply State.regStore_keeps)
    | extract_lets | exact id | exact Nat.le_refl _ | split | apply Keeps.with_dbg | (intro q; simpa [updAt] using q)
    | (intro q; exact (List.length_modify ..).trans q) | (intro q; exact (List.length_set ..).trans q)
    | (intro q; exact (List.length_map ..).trans q))

theorem State.writeRCHK_keeps {s0 s : State} {req : Requester} {a : Nat} {i : Nat} {off : Nat} {v : Nat} (hK : Keeps pm pi pf pk s0 s) :
    Keeps pm pi pf pk s0 (State.writeRCHK s req a i off v) := by
  unfold State.writeRCHK
  repeat' (first
    | (with_reducible first
      | assumption | apply Keeps.ite | refine State.unlessBad_keeps (fun _ _ => ?_) ?_ | apply State.regStore_keeps)
    | extract_lets | exact id | exact Nat.le_refl _ | split | (intro q; simpa [updAt] using q)
    | (intro q; exact (List.length_modify ..).trans q) | (intro q; exact (List.length_set ..).trans q)
    | (intro q; exact (List.length_map ..).trans q))

theorem State.writeXMB_keeps {s0 s : State} {req : Requester} {a : Nat} {i : Nat} {off : Nat} {v : Nat} (hK : Keeps pm pi pf pk s0 s) :
    Keeps pm pi pf pk s0 (State.writeXMB s req a i off v) := by
  unfold State.writeXMB
  repeat' (first
    | (with_reducible first
      | assumption | apply Keeps.ite | apply State.ringXmb_keeps | apply State.ackXmb_keeps | apply State.xmbBusy_keeps
      | apply State.regStore_keeps)
    | extract_lets | exact id | exact Nat.le_refl _ | split | (intro q; simpa [updAt] using q)
    | (intro q; exact (List.length_modify ..).trans q) | (intro q; exact (List.length_set ..).trans q))

theorem State.writeSAFE_keeps {s0 s : State} {req : Requester} {a : Nat} {off : Nat} {v : Nat} (hK : Keeps false false pf false s0 s) :
    Keeps false false pf false s0 (State.writeSAFE s req a off v) := by
  unfold State.writeSAFE
  repeat' (first
    | (with_reducible first
      | assumption | apply Keeps.ite | apply State.faultSync_keeps | apply State.regStore_keeps | apply State.resetNow_keeps
      | apply State.quiet_keeps | refine State.heartOnly_keeps (fun _ _ => ?_) ?_ | apply State.writeSelftest_keeps
      | apply State.writeRestore_keeps | apply State.writeCntClr_keeps | apply State.writeLatent_keeps
      | apply State.popInfLog_keeps | apply State.writeRmon_keeps)
    | extract_lets | exact id | exact Nat.le_refl _ | split | (intro q; simpa [updAt] using q)
    | (intro q; exact (List.length_modify ..).trans q) | (intro q; exact (List.length_set ..).trans q))

theorem State.writeRING_keeps {s0 s : State} {req : Requester} {a : Nat} {i : Nat} {v : Nat} (hK : Keeps pm pi pf pk s0 s) :
    Keeps pm pi pf pk s0 (State.writeRING s req a i v) := by
  unfold State.writeRING
  repeat' (first
    | (with_reducible first
      | assumption | apply Keeps.ite | apply State.writeSqTail_keeps | apply State.writeCqHead_keeps
      | apply State.addCredit_keeps | apply State.writeRingCfg_keeps | apply State.regStore_keeps)
    | extract_lets | exact id | exact Nat.le_refl _ | split | (intro q; simpa [updAt] using q)
    | (intro q; exact (List.length_modify ..).trans q) | (intro q; exact (List.length_set ..).trans q))

theorem State.writePART_keeps {s0 s : State} {req : Requester} {a : Nat} {p : Nat} {off : Nat} {v : Nat} (hK : Keeps pm pi pf pk s0 s) :
    Keeps pm pi pf pk s0 (State.writePART s req a p off v) := by
  unfold State.writePART
  repeat' (first
    | (with_reducible first
      | assumption | apply Keeps.ite | apply State.writeResize_keeps | apply State.writePartNext_keeps
      | apply State.writeOwner_keeps | apply State.regStore_keeps)
    | extract_lets | exact id | exact Nat.le_refl _ | split | (intro q; simpa [updAt] using q)
    | (intro q; exact (List.length_modify ..).trans q) | (intro q; exact (List.length_set ..).trans q))

theorem State.writeDISP_keeps {s0 s : State} {req : Requester} {a : Nat} {v : Nat} (hK : Keeps false pi pf pk s0 s) :
    Keeps false pi pf pk s0 (State.writeDISP s req a v) := by
  unfold State.writeDISP
  repeat' (first
    | (with_reducible first
      | assumption | apply Keeps.ite | refine State.heartOnly_keeps (fun _ _ => ?_) ?_ | apply State.writeCancel_keeps
      | apply State.writeAcctSel_keeps | apply State.regStore_keeps)
    | extract_lets | exact id | exact Nat.le_refl _ | split | (intro q; simpa [updAt] using q)
    | (intro q; exact (List.length_modify ..).trans q) | (intro q; exact (List.length_set ..).trans q))

theorem State.writeGROVE_keeps {s0 s : State} {req : Requester} {a : Nat} {g : Nat} {v : Nat} (hK : Keeps pm pi pf pk s0 s) :
    Keeps pm pi pf pk s0 (State.writeGROVE s req a g v) := by
  unfold State.writeGROVE
  repeat' (first
    | (with_reducible first
      | assumption | apply Keeps.ite | apply State.writeMopGo_keeps | apply State.writeClearGo_keeps
      | apply State.regStore_keeps)
    | extract_lets | exact id | exact Nat.le_refl _ | split | (intro q; simpa [updAt] using q)
    | (intro q; exact (List.length_modify ..).trans q) | (intro q; exact (List.length_set ..).trans q))

theorem State.writeOffice_keeps {s0 s : State} {req : Requester} {a : Nat} {k : Nat} {off : Nat} {v : Nat} (hK : Keeps pm pi pf pk s0 s) :
    Keeps pm pi pf pk s0 (State.writeOffice s req a k off v) := by
  unfold State.writeOffice
  repeat' (first
    | (with_reducible first
      | assumption | apply Keeps.ite | apply State.writeArm_keeps | apply State.landedSync_keeps | apply State.regStore_keeps
      | apply State.writeWinBase_keeps | apply State.writeWinCtl_keeps)
    | extract_lets | exact id | exact Nat.le_refl _ | split | (intro q; simpa [updAt] using q)
    | (intro q; exact (List.length_modify ..).trans q) | (intro q; exact (List.length_set ..).trans q))

theorem State.writeFERRY_keeps {s0 s : State} {req : Requester} {a : Nat} {f : Nat} {v : Nat} (hK : Keeps pm pi pf pk s0 s) :
    Keeps pm pi pf pk s0 (State.writeFERRY s req a f v) := by
  unfold State.writeFERRY
  repeat' (first
    | (with_reducible first
      | assumption | apply Keeps.ite | apply State.writeFerryCtl_keeps | apply State.writeQPush_keeps
      | apply State.regStore_keeps)
    | extract_lets | exact id | exact Nat.le_refl _ | split | (intro q; simpa [updAt] using q)
    | (intro q; exact (List.length_modify ..).trans q) | (intro q; exact (List.length_set ..).trans q))

theorem State.writeDMC_keeps {s0 s : State} {req : Requester} {a : Nat} {x : Nat} {v : Nat} (hK : Keeps false pi pf pk s0 s) :
    Keeps false pi pf pk s0 (State.writeDMC s req a x v) := by
  unfold State.writeDMC
  repeat' (first
    | (with_reducible first
      | assumption | apply Keeps.ite | apply State.dmcCtl_keeps | apply State.regStore_keeps | apply State.dmcCfg_keeps)
    | extract_lets | exact id | exact Nat.le_refl _ | split | (intro q; simpa [updAt] using q)
    | (intro q; exact (List.length_modify ..).trans q) | (intro q; exact (List.length_set ..).trans q))

theorem State.writeFDIG_keeps {s0 s : State} {req : Requester} {a : Nat} {c : Nat} {v : Nat} (hK : Keeps pm pi pf pk s0 s) :
    Keeps pm pi pf pk s0 (State.writeFDIG s req a c v) := by
  unfold State.writeFDIG
  repeat' (first
    | (with_reducible first
      | assumption | apply Keeps.ite | apply State.writeFdigCtl_keeps | apply State.writeFdigInput_keeps
      | apply State.regStore_keeps)
    | extract_lets | exact id | exact Nat.le_refl _ | split | (intro q; simpa [updAt] using q)
    | (intro q; exact (List.length_modify ..).trans q) | (intro q; exact (List.length_set ..).trans q))

theorem State.writeSENSE_keeps {s0 s : State} {req : Requester} {a : Nat} {g : Nat} {v : Nat} (hK : Keeps pm pi pf pk s0 s) :
    Keeps pm pi pf pk s0 (State.writeSENSE s req a g v) := by
  unfold State.writeSENSE
  repeat' (first
    | (with_reducible first
      | assumption | apply Keeps.ite | apply State.writeUrg_keeps | apply State.regStore_keeps | apply State.senseCtl_keeps
      | apply State.writeGain_keeps | apply State.writeCommit_keeps)
    | extract_lets | exact id | exact Nat.le_refl _ | split | (intro q; simpa [updAt] using q)
    | (intro q; exact (List.length_modify ..).trans q) | (intro q; exact (List.length_set ..).trans q))

theorem State.writeTRIG_keeps {s0 s : State} {req : Requester} {a : Nat} {c : Nat} {v : Nat} (hK : Keeps pm pi pf pk s0 s) :
    Keeps pm pi pf pk s0 (State.writeTRIG s req a c v) := by
  unfold State.writeTRIG
  repeat' (first
    | (with_reducible first
      | assumption | apply Keeps.ite | apply State.writeForceTrig_keeps | apply State.writeTrigReg_keeps)
    | extract_lets | exact id | exact Nat.le_refl _ | split | (intro q; simpa [updAt] using q)
    | (intro q; exact (List.length_modify ..).trans q) | (intro q; exact (List.length_set ..).trans q))

theorem State.writeBERTH_keeps {s0 s : State} {req : Requester} {a : Nat} {off : Nat} {v : Nat} (hK : Keeps false pi pf pk s0 s) :
    Keeps false pi pf pk s0 (State.writeBERTH s req a off v) := by
  unfold State.writeBERTH
  repeat' (first
    | (with_reducible first
      | assumption | apply Keeps.ite | apply State.regStore_keeps | apply State.writeBerthArm_keeps
      | apply State.writeBerthReg_keeps)
    | extract_lets | exact id | exact Nat.le_refl _ | split | (intro q; simpa [updAt] using q)
    | (intro q; exact (List.length_modify ..).trans q) | (intro q; exact (List.length_set ..).trans q))

theorem State.writeWseqUnits_keeps {s0 s : State} {req : Requester} {a : Nat} {off : Nat} {v : Nat} (hK : Keeps pm pi pf pk s0 s) :
    Keeps pm pi pf pk s0 (State.writeWseqUnits s req a off v) := by
  unfold State.writeWseqUnits
  repeat' (first
    | (with_reducible first
      | assumption | apply Keeps.ite | apply State.writeThrCtl_keeps | refine State.unlessBad_keeps (fun _ _ => ?_) ?_
      | apply State.regStore_keeps | refine State.heartOnly_keeps (fun _ _ => ?_) ?_ | apply State.writeChimeStart_keeps
      | apply State.laneRelease_keeps | apply State.lanesSync_keeps | apply State.writeStrmCfg_keeps
      | apply State.writeStrmRing_keeps)
    | extract_lets | exact id | exact Nat.le_refl _ | split | (intro q; simpa [updAt] using q)
    | (intro q; exact (List.length_modify ..).trans q) | (intro q; exact (List.length_set ..).trans q))

theorem State.writeWSEQ_keeps {s0 s : State} {req : Requester} {a : Nat} {off : Nat} {v : Nat} (hK : Keeps pm false pf pk s0 s) :
    Keeps pm false pf pk s0 (State.writeWSEQ s req a off v) := by
  unfold State.writeWSEQ
  repeat' (first
    | (with_reducible first
      | assumption | apply Keeps.ite | apply State.chansSync_keeps | apply State.regStore_keeps
      | apply State.writeMemData_keeps | apply State.writeLdGo_keeps | refine Keeps.each (fun _ _ _ => ?_) ?_
      | apply State.linePulse_keeps | refine State.heartOnly_keeps (fun _ _ => ?_) ?_
      | apply State.writeChimeCfg_keeps | apply State.writeWseqUnits_keeps | apply State.writeChanCfg_keeps
      | apply State.gainWritten_keeps)
    | extract_lets | exact id | exact Nat.le_refl _ | split | (intro q; simpa [updAt] using q)
    | (intro q; exact (List.length_modify ..).trans q) | (intro q; exact (List.length_set ..).trans q)
    | (intro q; exact (List.length_map ..).trans q))

theorem State.writePROT_keeps {s0 s : State} {req : Requester} {a : Nat} {v : Nat} (hK : Keeps pm pi pf pk s0 s) :
    Keeps pm pi pf pk s0 (State.writePROT s req a v) := by
  unfold State.writePROT
  repeat' (first
    | (with_reducible first
      | assumption | apply Keeps.ite | apply State.writeClr_keeps | apply State.gateSync_keeps | apply State.regStore_keeps
      | apply State.popProtLog_keeps | apply State.lanesSync_keeps)
    | extract_lets | exact id | exact Nat.le_refl _ | split | (intro q; simpa [updAt] using q)
    | (intro q; exact (List.length_modify ..).trans q) | (intro q; exact (List.length_set ..).trans q))

theorem State.writeALE_keeps {s0 s : State} {req : Requester} {a : Nat} {n : Nat} {off : Nat} {v : Nat} (hK : Keeps pm pi pf pk s0 s) :
    Keeps pm pi pf pk s0 (State.writeALE s req a n off v) := by
  unfold State.writeALE
  repeat' (first
    | (with_reducible first
      | assumption | apply Keeps.ite | apply State.writeAleCtl_keeps | apply State.writeWakeCfg_keeps
      | apply State.writeDone_keeps | apply State.writeExpPush_keeps | apply State.writeCsetCtl_keeps
      | apply State.writeOffice_keeps | apply State.regStore_keeps | apply State.writeTkCfg_keeps
      | apply State.writeSnsRoute_keeps)
    | extract_lets | exact id | exact Nat.le_refl _ | split | (intro q; simpa [updAt] using q)
    | (intro q; exact (List.length_modify ..).trans q) | (intro q; exact (List.length_set ..).trans q))

theorem State.writeAPORT_keeps {s0 s : State} {req : Requester} {a : Nat} {p : Nat} {off : Nat} {v : Nat} (hK : Keeps pm pi pf pk s0 s) :
    Keeps pm pi pf pk s0 (State.writeAPORT s req a p off v) := by
  unfold State.writeAPORT
  repeat' (first
    | (with_reducible first
      | assumption | apply Keeps.ite | apply State.writeAportCtl_keeps | apply State.writeAportRoute_keeps
      | apply State.regStore_keeps)
    | extract_lets | exact id | exact Nat.le_refl _ | split | (intro q; simpa [updAt] using q)
    | (intro q; exact (List.length_modify ..).trans q) | (intro q; exact (List.length_set ..).trans q))

theorem State.writeCAM_keeps {s0 s : State} {req : Requester} {a : Nat} {p : Nat} {off : Nat} {v : Nat} (hK : Keeps pm pi pf pk s0 s) :
    Keeps pm pi pf pk s0 (State.writeCAM s req a p off v) := by
  unfold State.writeCAM
  repeat' (first
    | (with_reducible first
      | assumption | apply Keeps.ite | apply State.writeCamCtl_keeps | apply State.regStore_keeps
      | apply State.writeCamSel_keeps | apply State.writeCamRd_keeps | apply State.writeCamStr_keeps)
    | extract_lets | exact id | exact Nat.le_refl _ | split | (intro q; simpa [updAt] using q)
    | (intro q; exact (List.length_modify ..).trans q) | (intro q; exact (List.length_set ..).trans q))

theorem State.writeVOUT_keeps {s0 s : State} {req : Requester} {a : Nat} {v : Nat} {off : Nat} {x : Nat} (hK : Keeps pm pi pf pk s0 s) :
    Keeps pm pi pf pk s0 (State.writeVOUT s req a v off x) := by
  unfold State.writeVOUT
  repeat' (first
    | (with_reducible first
      | assumption | apply Keeps.ite | apply State.writeVoutCtl_keeps | apply State.writeFlip_keeps
      | apply State.writeAux_keeps | apply State.writeVoutReg_keeps | apply State.regStoreBut_keeps)
    | extract_lets | exact id | exact Nat.le_refl _ | split | (intro q; simpa [updAt] using q)
    | (intro q; exact (List.length_modify ..).trans q) | (intro q; exact (List.length_set ..).trans q)
    | (intro q; exact (List.length_map ..).trans q))

theorem State.writeGW_keeps {s0 s : State} {req : Requester} {a : Nat} {v : Nat} {ext : List Byte} (hK : Keeps false false pf pk s0 s) :
    Keeps false false pf pk s0 (State.writeGW s req a v ext) := by
  unfold State.writeGW
  repeat' (first
    | (with_reducible first
      | assumption | apply Keeps.ite | apply State.writeGwCtl_keeps | apply State.writeTblData_keeps
      | apply State.writeVerdict_keeps | apply State.writeTxCtl_keeps | apply State.setGw_keeps
      | apply State.writeHostCtl_keeps | apply State.htxRun_keeps | apply State.regStore_keeps)
    | extract_lets | exact id | exact Nat.le_refl _ | split | (intro q; simpa [updAt] using q)
    | (intro q; exact (List.length_modify ..).trans q) | (intro q; exact (List.length_set ..).trans q)
    | exact fun _ => ⟨id, id, id, id, id⟩ | exact fun _ => rfl
    | (intro g; refine ⟨?_, ?_, ?_, ?_, ?_⟩ <;> intro q <;> simp [updAt, q]))

theorem State.writeETH_keeps {s0 s : State} {req : Requester} {a : Nat} {p : Nat} {v : Nat} (hK : Keeps pm pi pf pk s0 s) :
    Keeps pm pi pf pk s0 (State.writeETH s req a p v) := by
  unfold State.writeETH
  repeat' (first
    | (with_reducible first
      | assumption | apply Keeps.ite | apply State.writeEthCtl_keeps | apply State.writeQbvCtl_keeps
      | apply State.writePtpCfg_keeps | apply State.regStore_keeps)
    | extract_lets | exact id | exact Nat.le_refl _ | split | (intro q; simpa [updAt] using q)
    | (intro q; exact (List.length_modify ..).trans q) | (intro q; exact (List.length_set ..).trans q))

theorem State.writeCANX_keeps {s0 s : State} {req : Requester} {a : Nat} {n : Nat} {v : Nat} (hK : Keeps pm pi pf pk s0 s) :
    Keeps pm pi pf pk s0 (State.writeCANX s req a n v) := by
  unfold State.writeCANX
  repeat' (first
    | (with_reducible first
      | assumption | apply Keeps.ite | apply State.writeCanCtl_keeps | apply State.writeCanTiming_keeps
      | apply State.regStore_keeps)
    | extract_lets | exact id | exact Nat.le_refl _ | split | (intro q; simpa [updAt] using q)
    | (intro q; exact (List.length_modify ..).trans q) | (intro q; exact (List.length_set ..).trans q))

theorem State.writeRLINK_keeps {s0 s : State} {req : Requester} {a : Nat} {p : Nat} {v : Nat} (hK : Keeps pm pi pf pk s0 s) :
    Keeps pm pi pf pk s0 (State.writeRLINK s req a p v) := by
  unfold State.writeRLINK
  repeat' (first
    | (with_reducible first
      | assumption | apply Keeps.ite | apply State.rlinkApply_keeps | apply State.regStore_keeps
      | apply State.writeFabCtl_keeps)
    | extract_lets | exact id | exact Nat.le_refl _ | split | (intro q; simpa [updAt] using q)
    | (intro q; exact (List.length_modify ..).trans q) | (intro q; exact (List.length_set ..).trans q))

theorem State.writePERTURB_keeps {s0 s : State} {req : Requester} {a : Nat} {v : Nat} (hK : Keeps pm pi pf pk s0 s) :
    Keeps pm pi pf pk s0 (State.writePERTURB s req a v) := by
  unfold State.writePERTURB
  repeat' (first
    | (with_reducible first
      | assumption | apply Keeps.ite | refine State.heartOnly_keeps (fun _ _ => ?_) ?_ | apply State.writePerturbCtl_keeps
      | apply State.permitSync_keeps | apply State.regStore_keeps)
    | extract_lets | exact id | exact Nat.le_refl _ | split | (intro q; simpa [updAt] using q)
    | (intro q; exact (List.length_modify ..).trans q) | (intro q; exact (List.length_set ..).trans q))

theorem State.writeBlock_keeps {s0 s : State} {req : Requester} {a : Nat} {v : Nat} {ext : List Byte} (hK : Keeps false false pf false s0 s) :
    Keeps false false pf false s0 (State.writeBlock s req a v ext) := by
  unfold State.writeBlock
  repeat' (first
    | (with_reducible first
      | assumption | apply Keeps.ite | apply State.writeSYS_keeps | apply State.writeANGLE_keeps
      | apply State.writePark_keeps | apply State.regStore_keeps | apply State.writeTHERM_keeps
      | apply State.writeStageCtl_keeps | apply State.writeSwrst_keeps | apply State.writeStowCtl_keeps
      | apply State.writeSEC_keeps | apply State.writeDBG_keeps | apply State.writeRCHK_keeps
      | apply State.writeXMB_keeps | apply State.writePART_keeps | apply State.writeRING_keeps
      | apply State.writeDISP_keeps | apply State.writeGROVE_keeps | apply State.writeFERRY_keeps
      | apply State.writeOffice_keeps | apply State.writeSAFE_keeps | apply State.writeDMC_keeps
      | apply State.writeFDIG_keeps | apply State.writeTRIG_keeps | apply State.writeBERTH_keeps
      | apply State.writeSENSE_keeps | apply State.writePROT_keeps | apply State.writeWSEQ_keeps
      | apply State.writeALE_keeps | apply State.writeAPORT_keeps | apply State.writeCAM_keeps
      | apply State.writeVOUT_keeps | apply State.writeETH_keeps | apply State.writeCANX_keeps
      | apply State.writeGW_keeps | apply State.writeRLINK_keeps | apply State.writeLEDGER_keeps
      | apply State.writePERTURB_keeps)
    | extract_lets | exact id | exact Nat.le_refl _ | split | (intro q; simpa [updAt] using q)
    | (intro q; exact (List.length_modify ..).trans q) | (intro q; exact (List.length_set ..).trans q)
    | (intro q; exact (List.length_map ..).trans q))

theorem State.writeReg_keeps {s0 s : State} {req : Requester} {a : Nat} {v : Nat} {ext : List Byte} (hK : Keeps false false pf false s0 s) :
    Keeps false false pf false s0 (State.writeReg s req a v ext) := by
  unfold State.writeReg
  repeat' (first
    | (with_reducible first
      | assumption | apply Keeps.ite | apply State.lockPage_keeps | apply State.writeWorld_keeps | apply State.forceIrq_keeps
      | apply State.regStore_keeps | apply State.writeWindow_keeps | apply State.writeBlock_keeps)
    | extract_lets | exact id | exact Nat.le_refl _ | split | (intro q; simpa [updAt] using q)
    | (intro q; exact (List.length_modify ..).trans q) | (intro q; exact (List.length_set ..).trans q))

theorem State.beforeRead_keeps {s0 s : State} {a : Nat} (hK : Keeps pm pi pf pk s0 s) :
    Keeps pm pi pf pk s0 (State.beforeRead s a) := by
  unfold State.beforeRead
  repeat' (first
    | (with_reducible first
      | assumption | apply Keeps.ite | apply State.wr_keeps | apply State.latchFlip_keeps
      | apply State.sessionSync_keeps | apply State.ferryOpen_keeps | apply State.countCycles_keeps)
    | extract_lets | exact id | exact Nat.le_refl _ | split | (intro q; simpa [updAt] using q)
    | (intro q; exact (List.length_modify ..).trans q) | (intro q; exact (List.length_set ..).trans q)
    | (intro q; exact (List.length_map ..).trans q))

theorem State.readReg_keeps {s0 s : State} {a : Nat} {ecc : Nat} (hK : Keeps pm pi pf pk s0 s) :
    Keeps pm pi pf pk s0 (State.readReg s a ecc) := by
  unfold State.readReg
  repeat' (first
    | (with_reducible first
      | assumption | apply Keeps.ite | apply State.readMemData_keeps | apply State.readTblData_keeps
      | apply State.readInspData_keeps | apply State.regRead_keeps | apply State.beforeRead_keeps | apply State.respOk_keeps)
    | extract_lets | exact id | exact Nat.le_refl _ | split | (intro q; simpa [updAt] using q)
    | (intro q; exact (List.length_modify ..).trans q) | (intro q; exact (List.length_set ..).trans q))

theorem State.write32_keeps {s0 s : State} {req : Requester} {a : Nat} {v : Nat} {ext : List Byte} (hK : Keeps false false pf false s0 s) :
    Keeps false false pf false s0 (State.write32 s req a v ext) := by
  unfold State.write32
  repeat' (first
    | (with_reducible first
      | assumption | apply Keeps.ite | refine State.checkedWrite_keeps (fun _ _ => ?_) ?_ | apply State.writeReg_keeps)
    | extract_lets | exact id | exact Nat.le_refl _ | split | (intro q; simpa [updAt] using q)
    | (intro q; exact (List.length_modify ..).trans q) | (intro q; exact (List.length_set ..).trans q))

theorem State.read32_keeps {s0 s : State} {req : Requester} {a : Nat} {size : Nat} {ecc : Nat} (hK : Keeps pm pi pf pk s0 s) :
    Keeps pm pi pf pk s0 (State.read32 s req a size ecc) := by
  unfold State.read32
  repeat' (first
    | (with_reducible first
      | assumption | apply Keeps.ite | refine State.checkedRead_keeps (fun _ _ => ?_) ?_ | apply State.readReg_keeps
      | apply State.respOk_keeps)
    | extract_lets | exact id | exact Nat.le_refl _ | split | (intro q; simpa [updAt] using q)
    | (intro q; exact (List.length_modify ..).trans q) | (intro q; exact (List.length_set ..).trans q))

theorem State.regAccess_keeps {s0 s : State} {req : Requester} {a : Nat} {size : Nat} {write : Bool} {v : Nat} {ecc : Nat} {ext : List Byte} (hK : Keeps false false pf false s0 s) :
    Keeps false false pf false s0 (State.regAccess s req a size write v ecc ext) := by
  unfold State.regAccess
  repeat' (first
    | (with_reducible first
      | assumption | apply Keeps.ite | apply State.write32_keeps | apply State.read32_keeps
      | refine State.checkedWrite_keeps (fun _ _ => ?_) ?_ | refine State.checkedRead_keeps (fun _ _ => ?_) ?_)
    | extract_lets | exact id | exact Nat.le_refl _ | split | apply Keeps.with_resp | (intro q; simpa [updAt] using q)
    | (intro q; exact (List.length_modify ..).trans q) | (intro q; exact (List.length_set ..).trans q)
    | (intro q; exact (List.length_map ..).trans q))

end Sys2Proof.Machine
end

