-- ==== Sys2Proof/Laws/KeepsCasc.lean ====
section
/-! SUPPORT. What the operations of Machine/Casc.lean keep. -/

set_option linter.all false

namespace Sys2Proof.Machine

variable {pm pi pf pk : Bool}

theorem State.setCasc_keeps {s0 s : State} {f : Casc → Casc} (hf : ∀ c, (f c).miss.length = c.miss.length) (hK : Keeps pm pi pf pk s0 s) :
    Keeps pm pi pf pk s0 (s.setCasc f) := hK.with_casc fun q => (hf _).trans q

theorem State.setAligned_keeps {s0 s : State} {b : Bool} (hK : Keeps pm pi pf pk s0 s) :
    Keeps pm pi pf pk s0 (State.setAligned s b) := by
  unfold State.setAligned
  repeat' (first
    | (with_reducible first
      | assumption | apply Keeps.ite | apply State.lvl_keeps | apply State.putBit_keeps)
    | extract_lets | exact id | exact Nat.le_refl _ | split | (intro q; simpa [updAt] using q)
    | (intro q; exact (List.length_modify ..).trans q) | (intro q; exact (List.length_set ..).trans q))

theorem State.missMarker_keeps {s0 s : State} {k : Nat} (hK : Keeps pm pi pf pk s0 s) :
    Keeps pm pi pf pk s0 (State.missMarker s k) := by
  unfold State.missMarker
  repeat' (first
    | (with_reducible first
      | assumption | apply Keeps.ite | apply State.setCasc_keeps | apply State.cnt_keeps)
    | extract_lets | exact id | exact Nat.le_refl _ | split | (intro q; simpa [updAt] using q)
    | (intro q; exact (List.length_modify ..).trans q) | (intro q; exact (List.length_set ..).trans q)
    | exact fun _ => ⟨id, id, id, id, id⟩ | exact fun _ => rfl
    | (intro g; refine ⟨?_, ?_, ?_, ?_, ?_⟩ <;> intro q <;> simp [updAt, q]))

theorem State.masterAligned_keeps {s0 s : State} (hK : Keeps pm pi pf pk s0 s) :
    Keeps pm pi pf pk s0 (State.masterAligned s) := by
  unfold State.masterAligned
  repeat' (first
    | (with_reducible first
      | assumption | apply Keeps.ite | apply State.setAligned_keeps)
    | extract_lets | exact id | exact Nat.le_refl _ | split | (intro q; simpa [updAt] using q)
    | (intro q; exact (List.length_modify ..).trans q) | (intro q; exact (List.length_set ..).trans q))

theorem State.domFollow_keeps {s0 s : State} {d : Nat} {f : List Byte} {dly : Nat} {adopt : Bool} (hK : Keeps pm pi pf pk s0 s) :
    Keeps pm pi pf pk s0 (State.domFollow s d f dly adopt) := by
  unfold State.domFollow
  repeat' (first
    | (with_reducible first
      | assumption | apply Keeps.ite | apply State.domRun_keeps | apply State.setDom_keeps | apply State.putF_keeps
      | apply State.putBit_keeps | apply State.holdExp_keeps | apply State.setQ_keeps)
    | extract_lets | exact id | exact Nat.le_refl _ | split | (intro q; simpa [updAt] using q)
    | (intro q; exact (List.length_modify ..).trans q) | (intro q; exact (List.length_set ..).trans q))

theorem State.timeFollow_keeps {s0 s : State} {f : List Byte} {dly : Nat} {locks : Bool} (hK : Keeps pm pi pf pk s0 s) :
    Keeps pm pi pf pk s0 (State.timeFollow s f dly locks) := by
  unfold State.timeFollow
  extract_lets m c1 c2 lim r s1 c3 s2
  split
  · exact State.setTimeState_keeps (State.putBit_keeps
      ((hK.with_clk (x := { s.clk with time := m }) (Nat.le_refl _)).with_ang (fun q => q) (fun q => q)))
  · have h1 : Keeps pm pi pf pk s0 s1 := State.wrS_keeps (State.fresh_keeps hK)
    have h2 : Keeps pm pi pf pk s0 s2 := Keeps.ite (h1.with_ang (fun q => q) (fun q => q)) h1
    exact Keeps.ite (State.setTimeState_keeps h2) (Keeps.ite h2 (State.setTimeState_keeps h2))

theorem State.fdigRelock_keeps {s0 s : State} (hK : Keeps pm pi pf pk s0 s) :
    Keeps pm pi pf pk s0 (State.fdigRelock s) := by
  unfold State.fdigRelock
  repeat' (first
    | (with_reducible first
      | assumption | apply Keeps.ite | apply State.setCasc_keeps | apply State.fdigSync_keeps
      | refine Keeps.each (fun _ _ _ => ?_) ?_ | apply State.setFdig_keeps | apply State.evt_keeps | apply State.putBit_keeps)
    | extract_lets | exact id | exact Nat.le_refl _ | split | (intro q; simpa [updAt] using q)
    | (intro q; exact (List.length_modify ..).trans q) | (intro q; exact (List.length_set ..).trans q)
    | exact fun _ => ⟨id, id, id, id, id⟩ | exact fun _ => rfl
    | (intro g; refine ⟨?_, ?_, ?_, ?_, ?_⟩ <;> intro q <;> simp [updAt, q]))

theorem State.fdigFollow_keeps {s0 s : State} {m : Nat} {dly : Nat} (hK : Keeps pm pi pf pk s0 s) :
    Keeps pm pi pf pk s0 (State.fdigFollow s m dly) := by
  unfold State.fdigFollow
  repeat' (first
    | (with_reducible first
      | assumption | apply Keeps.ite | refine Keeps.each (fun _ _ _ => ?_) ?_ | apply State.setFdig_keeps
      | apply State.setCasc_keeps)
    | extract_lets | exact id | exact Nat.le_refl _ | split | (intro q; simpa [updAt] using q)
    | (intro q; exact (List.length_modify ..).trans q) | (intro q; exact (List.length_set ..).trans q)
    | exact fun _ => ⟨id, id, id, id, id⟩ | exact fun _ => rfl
    | (intro g; refine ⟨?_, ?_, ?_, ?_, ?_⟩ <;> intro q <;> simp [updAt, q]))

theorem State.follow16_keeps {s0 s : State} {f : List Byte} {locks : Bool} (hK : Keeps pm pi pf pk s0 s) :
    Keeps pm pi pf pk s0 (State.follow16 s f locks) := by
  unfold State.follow16
  repeat' (first
    | (with_reducible first
      | assumption | apply Keeps.ite | apply State.wr_keeps | refine Keeps.each (fun _ _ _ => ?_) ?_
      | apply State.wrS_keeps | apply State.fdigRelock_keeps | apply State.setCasc_keeps
      | apply State.fdigFollow_keeps | apply State.timeFollow_keeps | apply State.publish_keeps
      | apply State.domFollow_keeps)
    | extract_lets | exact id | exact Nat.le_refl _ | split | apply Keeps.with_ang | (intro q; simpa [updAt] using q)
    | (intro q; exact (List.length_modify ..).trans q) | (intro q; exact (List.length_set ..).trans q)
    | (intro q; exact (List.length_map ..).trans q))

end Sys2Proof.Machine
end

