-- ==== Sys2Proof/Laws/KeepsSecOps.lean ====
section
/-! SUPPORT. What the operations of Machine/SecOps.lean keep. -/

set_option linter.all false

namespace Sys2Proof.Machine

variable {pm pi pf pk : Bool}

theorem State.secRead_keeps {s0 s : State} {addr : Nat} {len : Nat} {env : MemEnv} {k : List Byte → State → SecEnd} (h_k : ∀ x0 u, Keeps false pi pf pk s0 u → KeepsO false pi pf pk s0 (k x0 u)) (hK : Keeps false pi pf pk s0 s) :
    KeepsO false pi pf pk s0 (State.secRead s addr len env k) := by
  unfold State.secRead
  repeat' (first
    | (with_reducible first
      | assumption | apply KeepsO.ite | apply Keeps.ite | refine KeepsS.getD ?_ ?_ | apply State.blockRead_keeps
      | apply h_k | apply KeepsO.some | exact KeepsO.none | apply KeepsS.some | exact KeepsS.none)
    | extract_lets | exact id | exact Nat.le_refl _ | split | (intro q; simpa [updAt] using q)
    | (intro q; exact (List.length_modify ..).trans q) | (intro q; exact (List.length_set ..).trans q)
    | (intro q; exact (List.length_map ..).trans q))

theorem State.secWrite_keeps {s0 s : State} {addr : Nat} {data : List Byte} {res : Nat} (hK : Keeps false pi pf pk s0 s) :
    KeepsO false pi pf pk s0 (State.secWrite s addr data res) := by
  unfold State.secWrite
  repeat' (first
    | (with_reducible first
      | assumption | apply KeepsO.ite | apply Keeps.ite | refine KeepsS.getD ?_ ?_ | apply State.blockWrite_keeps
      | apply KeepsO.some | exact KeepsO.none | apply KeepsS.some | exact KeepsS.none)
    | extract_lets | exact id | exact Nat.le_refl _ | split | (intro q; simpa [updAt] using q)
    | (intro q; exact (List.length_modify ..).trans q) | (intro q; exact (List.length_set ..).trans q)
    | (intro q; exact (List.length_map ..).trans q))

theorem State.deriveFixed_keeps {s0 s : State} (hK : Keeps pm pi pf false s0 s) :
    Keeps pm pi pf false s0 (State.deriveFixed s) := by
  unfold State.deriveFixed
  repeat' (first
    | (with_reducible first
      | assumption | apply Keeps.ite | refine Keeps.each (fun _ _ _ => ?_) ?_ | apply State.wr_keeps)
    | extract_lets | exact id | exact Nat.le_refl _ | split | apply Keeps.with_keys | (intro q; simpa [updAt] using q)
    | (intro q; exact (List.length_modify ..).trans q) | (intro q; exact (List.length_set ..).trans q))

theorem State.withKey_keeps {s0 s : State} {c : SecCmd} {f : List Byte → SecEnd} (h_f : ∀ x0, KeepsO pm pi pf pk s0 (f x0)) (hK : Keeps pm pi pf pk s0 s) :
    KeepsO pm pi pf pk s0 (State.withKey s c f) := by
  unfold State.withKey
  repeat' (first
    | (with_reducible first
      | assumption | apply KeepsO.ite | apply Keeps.ite | refine KeepsS.getD ?_ ?_ | apply h_f | apply KeepsO.some
      | exact KeepsO.none | apply KeepsS.some | exact KeepsS.none)
    | extract_lets | exact id | exact Nat.le_refl _ | split | (intro q; simpa [updAt] using q)
    | (intro q; exact (List.length_modify ..).trans q) | (intro q; exact (List.length_set ..).trans q)
    | (intro q; exact (List.length_map ..).trans q))

theorem State.withRandom_keeps {s0 s : State} {f : SecEnd} (h_f : KeepsO pm pi pf pk s0 f) (hK : Keeps pm pi pf pk s0 s) :
    KeepsO pm pi pf pk s0 (State.withRandom s f) := by
  unfold State.withRandom
  repeat' (first
    | (with_reducible first
      | assumption | apply KeepsO.ite | apply Keeps.ite | refine KeepsS.getD ?_ ?_ | apply h_f | apply KeepsO.some
      | exact KeepsO.none | apply KeepsS.some | exact KeepsS.none)
    | extract_lets | exact id | exact Nat.le_refl _ | split | (intro q; simpa [updAt] using q)
    | (intro q; exact (List.length_modify ..).trans q) | (intro q; exact (List.length_set ..).trans q))

theorem State.secEncrypt_keeps {s0 s : State} {c : SecCmd} {x : SecIn} (hK : Keeps false pi pf pk s0 s) :
    KeepsO false pi pf pk s0 (State.secEncrypt s c x) := by
  unfold State.secEncrypt
  repeat' (first
    | (with_reducible first
      | assumption | apply KeepsO.ite | apply Keeps.ite | refine KeepsS.getD ?_ ?_
      | refine State.withKey_keeps (fun _ => ?_) ?_ | refine State.secRead_keeps (fun _ _ _ => ?_) ?_
      | apply State.secWrite_keeps | apply KeepsO.some | exact KeepsO.none | apply KeepsS.some | exact KeepsS.none)
    | extract_lets | exact id | exact Nat.le_refl _ | split | (intro q; simpa [updAt] using q)
    | (intro q; exact (List.length_modify ..).trans q) | (intro q; exact (List.length_set ..).trans q))

theorem State.secDecrypt_keeps {s0 s : State} {c : SecCmd} {x : SecIn} (hK : Keeps false pi pf pk s0 s) :
    KeepsO false pi pf pk s0 (State.secDecrypt s c x) := by
  unfold State.secDecrypt
  repeat' (first
    | (with_reducible first
      | assumption | apply KeepsO.ite | apply Keeps.ite | refine KeepsS.getD ?_ ?_
      | refine State.withKey_keeps (fun _ => ?_) ?_ | refine State.secRead_keeps (fun _ _ _ => ?_) ?_
      | apply State.secWrite_keeps | apply KeepsO.some | exact KeepsO.none | apply KeepsS.some | exact KeepsS.none)
    | extract_lets | exact id | exact Nat.le_refl _ | split | (intro q; simpa [updAt] using q)
    | (intro q; exact (List.length_modify ..).trans q) | (intro q; exact (List.length_set ..).trans q))

theorem State.secSha_keeps {s0 s : State} {c : SecCmd} {x : SecIn} {bits : Nat} (hK : Keeps false pi pf pk s0 s) :
    KeepsO false pi pf pk s0 (State.secSha s c x bits) := by
  unfold State.secSha
  repeat' (first
    | (with_reducible first
      | assumption | apply KeepsO.ite | apply Keeps.ite | refine KeepsS.getD ?_ ?_
      | refine State.secRead_keeps (fun _ _ _ => ?_) ?_ | apply State.secWrite_keeps | apply KeepsO.some | exact KeepsO.none
      | apply KeepsS.some | exact KeepsS.none)
    | extract_lets | exact id | exact Nat.le_refl _ | split | (intro q; simpa [updAt] using q)
    | (intro q; exact (List.length_modify ..).trans q) | (intro q; exact (List.length_set ..).trans q))

theorem State.secHmac_keeps {s0 s : State} {c : SecCmd} {x : SecIn} (hK : Keeps false pi pf pk s0 s) :
    KeepsO false pi pf pk s0 (State.secHmac s c x) := by
  unfold State.secHmac
  repeat' (first
    | (with_reducible first
      | assumption | apply KeepsO.ite | apply Keeps.ite | refine KeepsS.getD ?_ ?_
      | refine State.withKey_keeps (fun _ => ?_) ?_ | refine State.secRead_keeps (fun _ _ _ => ?_) ?_
      | apply State.secWrite_keeps | apply KeepsO.some | exact KeepsO.none | apply KeepsS.some | exact KeepsS.none)
    | extract_lets | exact id | exact Nat.le_refl _ | split | (intro q; simpa [updAt] using q)
    | (intro q; exact (List.length_modify ..).trans q) | (intro q; exact (List.length_set ..).trans q))

theorem State.secVerify_keeps {s0 s : State} {c : SecCmd} {x : SecIn} {n : Nat} {keyLen : Nat} {sigLen : Nat} {ok : List Byte → List Byte → List Byte → Bool} (hK : Keeps false pi pf pk s0 s) :
    KeepsO false pi pf pk s0 (State.secVerify s c x n keyLen sigLen ok) := by
  unfold State.secVerify
  repeat' (first
    | (with_reducible first
      | assumption | apply KeepsO.ite | apply Keeps.ite | refine KeepsS.getD ?_ ?_
      | refine State.secRead_keeps (fun _ _ _ => ?_) ?_ | apply KeepsO.some | exact KeepsO.none | apply KeepsS.some
      | exact KeepsS.none)
    | extract_lets | exact id | exact Nat.le_refl _ | split | (intro q; simpa [updAt] using q)
    | (intro q; exact (List.length_modify ..).trans q) | (intro q; exact (List.length_set ..).trans q))

theorem State.secSign_keeps {s0 s : State} {c : SecCmd} {x : SecIn} {n : Nat} {sign : List Byte → List Byte → List Byte} (hK : Keeps false pi pf pk s0 s) :
    KeepsO false pi pf pk s0 (State.secSign s c x n sign) := by
  unfold State.secSign
  repeat' (first
    | (with_reducible first
      | assumption | apply KeepsO.ite | apply Keeps.ite | refine KeepsS.getD ?_ ?_
      | refine State.withKey_keeps (fun _ => ?_) ?_ | refine State.withRandom_keeps ?_ ?_
      | refine State.secRead_keeps (fun _ _ _ => ?_) ?_ | apply State.secWrite_keeps | apply KeepsO.some | exact KeepsO.none
      | apply KeepsS.some | exact KeepsS.none)
    | extract_lets | exact id | exact Nat.le_refl _ | split | (intro q; simpa [updAt] using q)
    | (intro q; exact (List.length_modify ..).trans q) | (intro q; exact (List.length_set ..).trans q))

theorem State.secDual_keeps {s0 s : State} {c : SecCmd} {x : SecIn} (hK : Keeps false pi pf pk s0 s) :
    KeepsO false pi pf pk s0 (State.secDual s c x) := by
  unfold State.secDual
  repeat' (first
    | (with_reducible first
      | assumption | apply KeepsO.ite | apply Keeps.ite | refine KeepsS.getD ?_ ?_
      | refine State.secRead_keeps (fun _ _ _ => ?_) ?_ | apply State.putF_keeps | apply KeepsO.some | exact KeepsO.none
      | apply KeepsS.some | exact KeepsS.none)
    | extract_lets | exact id | exact Nat.le_refl _ | split | (intro q; simpa [updAt] using q)
    | (intro q; exact (List.length_modify ..).trans q) | (intro q; exact (List.length_set ..).trans q))

theorem State.secDerive_keeps {s0 s : State} {c : SecCmd} {x : SecIn} (hK : Keeps false pi pf false s0 s) :
    KeepsO false pi pf false s0 (State.secDerive s c x) := by
  unfold State.secDerive
  repeat' (first
    | (with_reducible first
      | assumption | apply KeepsO.ite | apply Keeps.ite | refine KeepsS.getD ?_ ?_
      | refine State.withKey_keeps (fun _ => ?_) ?_ | refine State.secRead_keeps (fun _ _ _ => ?_) ?_ | apply State.wr_keeps
      | refine State.withRandom_keeps ?_ ?_ | apply KeepsO.some | exact KeepsO.none | apply KeepsS.some | exact KeepsS.none)
    | extract_lets | exact id | exact Nat.le_refl _ | split | apply Keeps.with_keys | (intro q; simpa [updAt] using q)
    | (intro q; exact (List.length_modify ..).trans q) | (intro q; exact (List.length_set ..).trans q))

theorem State.secClearKey_keeps {s0 s : State} {c : SecCmd} (hK : Keeps pm pi pf false s0 s) :
    KeepsO pm pi pf false s0 (State.secClearKey s c) := by
  unfold State.secClearKey
  repeat' (first
    | (with_reducible first
      | assumption | apply KeepsO.ite | apply Keeps.ite | refine KeepsS.getD ?_ ?_ | apply State.wr_keeps | apply KeepsO.some
      | exact KeepsO.none | apply KeepsS.some | exact KeepsS.none)
    | extract_lets | exact id | exact Nat.le_refl _ | split | apply Keeps.with_keys | (intro q; simpa [updAt] using q)
    | (intro q; exact (List.length_modify ..).trans q) | (intro q; exact (List.length_set ..).trans q))

theorem State.secExport_keeps {s0 s : State} {c : SecCmd} (hK : Keeps false pi pf pk s0 s) :
    KeepsO false pi pf pk s0 (State.secExport s c) := by
  unfold State.secExport
  repeat' (first
    | (with_reducible first
      | assumption | apply KeepsO.ite | apply Keeps.ite | refine KeepsS.getD ?_ ?_
      | refine State.withKey_keeps (fun _ => ?_) ?_ | apply State.secWrite_keeps | apply KeepsO.some | exact KeepsO.none
      | apply KeepsS.some | exact KeepsS.none)
    | extract_lets | exact id | exact Nat.le_refl _ | split | (intro q; simpa [updAt] using q)
    | (intro q; exact (List.length_modify ..).trans q) | (intro q; exact (List.length_set ..).trans q))

theorem State.secRandom_keeps {s0 s : State} {c : SecCmd} (hK : Keeps false pi pf pk s0 s) :
    KeepsO false pi pf pk s0 (State.secRandom s c) := by
  unfold State.secRandom
  repeat' (first
    | (with_reducible first
      | assumption | apply KeepsO.ite | apply Keeps.ite | refine KeepsS.getD ?_ ?_ | refine State.withRandom_keeps ?_ ?_
      | apply State.fresh_keeps | apply State.secWrite_keeps | apply KeepsO.some | exact KeepsO.none | apply KeepsS.some
      | exact KeepsS.none)
    | extract_lets | exact id | exact Nat.le_refl _ | split | (intro q; simpa [updAt] using q)
    | (intro q; exact (List.length_modify ..).trans q) | (intro q; exact (List.length_set ..).trans q))

theorem State.fuseOp_keeps {s0 s : State} {x : SecIn} {f : Fuses → Fuses} (hK : Keeps pm pi false pk s0 s) :
    KeepsO pm pi false pk s0 (State.fuseOp s x f) := by
  unfold State.fuseOp
  repeat' (first
    | (with_reducible first
      | assumption | apply KeepsO.ite | apply Keeps.ite | refine KeepsS.getD ?_ ?_ | apply State.wr_keeps
      | apply State.fuseRegs_keeps | apply State.evt_keeps | apply KeepsO.some | exact KeepsO.none | apply KeepsS.some
      | exact KeepsS.none)
    | extract_lets | exact id | exact Nat.le_refl _ | split | apply Keeps.with_fuse | (intro q; simpa [updAt] using q)
    | (intro q; exact (List.length_modify ..).trans q) | (intro q; exact (List.length_set ..).trans q))

theorem State.secRevoke_keeps {s0 s : State} {c : SecCmd} {x : SecIn} (hK : Keeps pm pi false pk s0 s) :
    KeepsO pm pi false pk s0 (State.secRevoke s c x) := by
  unfold State.secRevoke
  repeat' (first
    | (with_reducible first
      | assumption | apply KeepsO.ite | apply Keeps.ite | refine KeepsS.getD ?_ ?_ | apply State.fuseOp_keeps
      | apply KeepsO.some | exact KeepsO.none | apply KeepsS.some | exact KeepsS.none)
    | extract_lets | exact id | exact Nat.le_refl _ | split | (intro q; simpa [updAt] using q)
    | (intro q; exact (List.length_modify ..).trans q) | (intro q; exact (List.length_set ..).trans q))

theorem State.secRollback_keeps {s0 s : State} {c : SecCmd} {x : SecIn} (hK : Keeps pm pi false pk s0 s) :
    KeepsO pm pi false pk s0 (State.secRollback s c x) := by
  unfold State.secRollback
  repeat' (first
    | (with_reducible first
      | assumption | apply KeepsO.ite | apply Keeps.ite | refine KeepsS.getD ?_ ?_ | apply State.fuseOp_keeps
      | apply KeepsO.some | exact KeepsO.none | apply KeepsS.some | exact KeepsS.none)
    | extract_lets | exact id | exact Nat.le_refl _ | split | (intro q; simpa [updAt] using q)
    | (intro q; exact (List.length_modify ..).trans q) | (intro q; exact (List.length_set ..).trans q))

theorem State.advanceTo_keeps {s0 s : State} {x : SecIn} {target : Nat} (hK : Keeps pm pi false pk s0 s) : KeepsO pm pi false pk s0 (s.advanceTo x target) := by
  intro e he
  unfold State.advanceTo at he
  obtain ⟨r, hr, rfl⟩ := Option.map_eq_some_iff.mp he
  have h := State.fuseOp_keeps hK r hr
  split
  · exact State.putBit_keeps (State.putF_keeps h)
  · exact h

theorem State.secAdvance_keeps {s0 s : State} {c : SecCmd} {x : SecIn} (hK : Keeps false pi false pk s0 s) :
    KeepsO false pi false pk s0 (State.secAdvance s c x) := by
  unfold State.secAdvance
  repeat' (first
    | (with_reducible first
      | assumption | apply KeepsO.ite | apply Keeps.ite | refine KeepsS.getD ?_ ?_ | apply State.advanceTo_keeps
      | refine State.secRead_keeps (fun _ _ _ => ?_) ?_ | apply KeepsO.some | exact KeepsO.none | apply KeepsS.some
      | exact KeepsS.none)
    | extract_lets | exact id | exact Nat.le_refl _ | split | (intro q; simpa [updAt] using q)
    | (intro q; exact (List.length_modify ..).trans q) | (intro q; exact (List.length_set ..).trans q)
    | (intro q; exact (List.length_map ..).trans q))

theorem State.secFinish_keeps {s0 s : State} {entry : Nat} {flags : Nat} {res : Nat} (hK : Keeps false pi pf pk s0 s) :
    KeepsS false pi pf pk s0 (State.secFinish s entry flags res) := by
  unfold State.secFinish
  repeat' (first
    | (with_reducible first
      | assumption | apply KeepsO.ite | apply Keeps.ite | refine KeepsS.getD ?_ ?_ | apply State.blockWrite_keeps
      | apply State.wr_keeps | apply State.evt_keeps | apply KeepsO.some | exact KeepsO.none | apply KeepsS.some
      | exact KeepsS.none)
    | extract_lets | exact id | exact Nat.le_refl _ | split | (intro q; simpa [updAt] using q)
    | (intro q; exact (List.length_modify ..).trans q) | (intro q; exact (List.length_set ..).trans q)
    | (intro q; exact (List.length_map ..).trans q))

theorem State.secRun_keeps {s0 s : State} {ops : Nat → Bool} {f : State → SecCmd → SecEnd}
    (h_f : ∀ u c, Keeps false pi pf pk s0 u → KeepsO false pi pf pk s0 (f u c)) (hK : Keeps false pi pf pk s0 s) : Keeps false pi pf pk s0 (s.secRun ops f) := by
  unfold State.secRun
  split
  · exact hK
  · extract_lets entry x r c
    have h : Keeps false pi pf pk s0 r.2.2 := State.blockRead_keeps (Keeps.ite hK (State.freeExt_keeps hK))
    split
    · split
      · split
        · exact (State.secFinish_keeps (h_f _ _ h _ ‹_›)).getD hK
        · exact hK
      · exact hK
    · exact hK
    · exact (State.secFinish_keeps h).getD hK

theorem State.secTimeout_keeps {s0 s : State} (hK : Keeps false pi pf pk s0 s) : Keeps false pi pf pk s0 s.secTimeout :=
  Keeps.ite ((State.secFinish_keeps hK).getD hK) hK

end Sys2Proof.Machine
end

