-- ==== Sys2Proof/Laws/KeepsMemory.lean ====
section
/-! SUPPORT. What the operations of Machine/Memory.lean keep. -/

set_option linter.all false

namespace Sys2Proof.Machine

variable {pm pi pf pk : Bool}

theorem State.atTarget_keeps {s0 s : State} {a : Access} {loc : Bool} {cacheable : Bool} {env : MemEnv} (hK : Keeps false false pf false s0 s) :
    Keeps false false pf false s0 (State.atTarget s a loc cacheable env).2 := by
  unfold State.atTarget
  repeat' (first
    | (with_reducible first
      | assumption | apply Keeps.ite | apply Keeps.ite2 | apply State.meshCrossed_keeps | apply State.regAccess_keeps
      | apply State.serve_keeps)
    | extract_lets | exact id | exact Nat.le_refl _ | split | (intro q; simpa [updAt] using q)
    | (intro q; exact (List.length_modify ..).trans q) | (intro q; exact (List.length_set ..).trans q)
    | (intro q; exact (List.length_map ..).trans q))

theorem State.carry_keeps {s0 s : State} {a : Access} {loc : Bool} {cacheable : Bool} {env : MemEnv} (hK : Keeps false false pf false s0 s) :
    Keeps false false pf false s0 (State.carry s a loc cacheable env).2 := by
  unfold State.carry
  repeat' (first
    | (with_reducible first
      | assumption | apply Keeps.ite | apply Keeps.ite2 | refine State.cross_keeps (fun _ _ => ?_) ?_
      | apply State.atTarget_keeps)
    | extract_lets | exact id | exact Nat.le_refl _ | split | (intro q; simpa [updAt] using q)
    | (intro q; exact (List.length_modify ..).trans q) | (intro q; exact (List.length_set ..).trans q)
    | (intro q; exact (List.length_map ..).trans q))

theorem State.respond_keeps {s0 s : State} {n : Nat} {a : Carried} (hK : Keeps pm pi pf pk s0 s) :
    Keeps pm pi pf pk s0 (State.respond s n a) := by
  unfold State.respond
  repeat' (first
    | (with_reducible first
      | assumption | apply Keeps.ite | apply State.respOk_keeps | apply State.respErr_keeps)
    | extract_lets | exact id | exact Nat.le_refl _ | split | (intro q; simpa [updAt] using q)
    | (intro q; exact (List.length_modify ..).trans q) | (intro q; exact (List.length_set ..).trans q)
    | (intro q; exact (List.length_map ..).trans q))

theorem State.hold_keeps {s0 s : State} {a : Access} {cacheable : Bool} {back : Back} (hK : Keeps pm pi pf pk s0 s) :
    Keeps pm pi pf pk s0 (State.hold s a cacheable back) := by
  unfold State.hold
  repeat' (first
    | (with_reducible first
      | assumption | apply Keeps.ite)
    | extract_lets | exact id | exact Nat.le_refl _ | split | apply Keeps.with_held | (intro q; simpa [updAt] using q)
    | (intro q; exact (List.length_modify ..).trans q) | (intro q; exact (List.length_set ..).trans q)
    | (intro q; exact (List.length_map ..).trans q))

theorem State.memAccess_keeps {s0 s : State} {a : Access} {cacheable : Bool} {env : MemEnv} (hK : Keeps false false pf false s0 s) :
    Keeps false false pf false s0 (State.memAccess s a cacheable env) := by
  unfold State.memAccess
  repeat' (first
    | (with_reducible first
      | assumption | apply Keeps.ite | apply State.hold_keeps | apply State.carry_keeps | apply State.respond_keeps)
    | extract_lets | exact id | exact Nat.le_refl _ | split | (intro q; simpa [updAt] using q)
    | (intro q; exact (List.length_modify ..).trans q) | (intro q; exact (List.length_set ..).trans q)
    | (intro q; exact (List.length_map ..).trans q))

theorem State.fabAnswer_keeps {s0 s : State} {m : Remote} {kind : Nat} {status : Nat} {poison : Bool} {words : List Nat} {len : Nat} (hK : Keeps pm pi pf pk s0 s) :
    Keeps pm pi pf pk s0 (State.fabAnswer s m kind status poison words len) := by
  unfold State.fabAnswer
  repeat' (first
    | (with_reducible first
      | assumption | apply Keeps.ite | apply State.sendPacket_keeps | apply State.cnt_keeps)
    | extract_lets | exact id | exact Nat.le_refl _ | split | (intro q; simpa [updAt] using q)
    | (intro q; exact (List.length_modify ..).trans q) | (intro q; exact (List.length_set ..).trans q))

theorem State.fabComplete_keeps {s0 s : State} {m : Remote} {write : Bool} {a : Carried} (hK : Keeps pm pi pf pk s0 s) :
    Keeps pm pi pf pk s0 (State.fabComplete s m write a) := by
  unfold State.fabComplete
  repeat' (first
    | (with_reducible first
      | assumption | apply Keeps.ite | apply State.fabAnswer_keeps)
    | extract_lets | exact id | exact Nat.le_refl _ | split | (intro q; simpa [updAt] using q)
    | (intro q; exact (List.length_modify ..).trans q) | (intro q; exact (List.length_set ..).trans q)
    | (intro q; exact (List.length_map ..).trans q))

theorem State.giveAnswer_keeps {s0 s : State} {a : Access} {back : Back} {c : Carried} (hK : Keeps pm pi pf pk s0 s) :
    Keeps pm pi pf pk s0 (State.giveAnswer s a back c) := by
  unfold State.giveAnswer
  repeat' (first
    | (with_reducible first
      | assumption | apply Keeps.ite | apply State.respond_keeps | apply State.fabComplete_keeps)
    | extract_lets | exact id | exact Nat.le_refl _ | split | (intro q; simpa [updAt] using q)
    | (intro q; exact (List.length_modify ..).trans q) | (intro q; exact (List.length_set ..).trans q))

theorem State.giveTicket_keeps {s0 s : State} {back : Back} {code : Nat} {tag : Nat} (hK : Keeps pm pi pf pk s0 s) :
    Keeps pm pi pf pk s0 (State.giveTicket s back code tag) := by
  unfold State.giveTicket
  repeat' (first
    | (with_reducible first
      | assumption | apply Keeps.ite | apply State.respOk_keeps | apply State.fabAnswer_keeps)
    | extract_lets | exact id | exact Nat.le_refl _ | split | (intro q; simpa [updAt] using q)
    | (intro q; exact (List.length_modify ..).trans q) | (intro q; exact (List.length_set ..).trans q)
    | (intro q; exact (List.length_map ..).trans q))

theorem State.timedOut_keeps {s0 s : State} {req : Requester} {addr len : Nat} (hK : Keeps pm pi pf pk s0 s) :
    Keeps pm pi pf pk s0 (s.timedOut req addr len) := by
  unfold State.timedOut
  extract_lets s1 l
  have h1 : Keeps pm pi pf pk s0 s1 := State.dropAcks_keeps (State.meshTimeout_keeps hK)
  exact (h1.with_fab (x := { s1.fab with reqs := l }) id id).with_held

theorem State.coreTimeout_keeps {s0 s : State} {c : Nat} {off : Nat} (hK : Keeps pm pi pf pk s0 s) :
    Keeps pm pi pf pk s0 (State.coreTimeout s c off) := by
  unfold State.coreTimeout
  repeat' (first
    | (with_reducible first
      | assumption | apply Keeps.ite | apply State.timedOut_keeps | apply State.xferGone_keeps | apply State.ferryErr_keeps
      | apply State.coreFault_keeps | apply State.storeFail_keeps)
    | extract_lets | exact id | exact Nat.le_refl _ | split | (intro q; simpa [updAt] using q)
    | (intro q; exact (List.length_modify ..).trans q) | (intro q; exact (List.length_set ..).trans q))

theorem State.copyTimeout_keeps {s0 s : State} {p : Nat} (hK : Keeps pm pi pf pk s0 s) :
    Keeps pm pi pf pk s0 (State.copyTimeout s p) := by
  unfold State.copyTimeout
  repeat' (first
    | (with_reducible first
      | assumption | apply Keeps.ite | apply State.copyFail_keeps)
    | extract_lets | exact id | exact Nat.le_refl _ | split | (intro q; simpa [updAt] using q)
    | (intro q; exact (List.length_modify ..).trans q) | (intro q; exact (List.length_set ..).trans q)
    | (intro q; exact (List.length_map ..).trans q))

theorem State.camTimeout_keeps {s0 s : State} {p : Nat} (hK : Keeps pm pi pf pk s0 s) :
    Keeps pm pi pf pk s0 (State.camTimeout s p) := by
  unfold State.camTimeout
  repeat' (first
    | (with_reducible first
      | assumption | apply Keeps.ite | apply State.camWrErr_keeps | apply State.setCamStr_keeps)
    | extract_lets | exact id | exact Nat.le_refl _ | split | (intro q; simpa [updAt] using q)
    | (intro q; exact (List.length_modify ..).trans q) | (intro q; exact (List.length_set ..).trans q)
    | (intro q; exact (List.length_map ..).trans q))

theorem State.blockTimeout_keeps {s0 s : State} {c : Nat} {i : Nat} (hK : Keeps false pi pf pk s0 s) :
    Keeps false pi pf pk s0 (State.blockTimeout s c i) := by
  unfold State.blockTimeout
  repeat' (first
    | (with_reducible first
      | assumption | apply Keeps.ite | apply State.hostFail_keeps | apply State.streamFail_keeps
      | apply State.loadEnd_keeps | apply State.fetchFail_keeps | apply State.secTimeout_keeps
      | apply State.copyTimeout_keeps | apply State.camTimeout_keeps | apply State.fetchError_keeps)
    | extract_lets | exact id | exact Nat.le_refl _ | split | (intro q; simpa [updAt] using q)
    | (intro q; exact (List.length_modify ..).trans q) | (intro q; exact (List.length_set ..).trans q)
    | (intro q; exact (List.length_map ..).trans q))

theorem State.requestHalt_keeps {s0 s : State} {h : Nat} (hK : Keeps pm pi pf pk s0 s) :
    Keeps pm pi pf pk s0 (State.requestHalt s h) := by
  unfold State.requestHalt
  repeat' (first
    | (with_reducible first
      | assumption | apply Keeps.ite | apply State.haltHart_keeps)
    | extract_lets | exact id | exact Nat.le_refl _ | split | apply Keeps.with_harts | (intro q; simpa [updAt] using q)
    | (intro q; exact (List.length_modify ..).trans q) | (intro q; exact (List.length_set ..).trans q)
    | (intro q; exact (List.length_map ..).trans q))

theorem State.resumeHart_keeps {s0 s : State} {h : Nat} (hK : Keeps pm pi pf pk s0 s) :
    Keeps pm pi pf pk s0 (State.resumeHart s h) := by
  unfold State.resumeHart
  repeat' (first
    | (with_reducible first
      | assumption | apply Keeps.ite)
    | extract_lets | exact id | exact Nat.le_refl _ | split | apply Keeps.with_harts | (intro q; simpa [updAt] using q)
    | (intro q; exact (List.length_modify ..).trans q) | (intro q; exact (List.length_set ..).trans q)
    | (intro q; exact (List.length_map ..).trans q))

end Sys2Proof.Machine
end

