-- ==== Sys2Proof/Laws/KeepsFabData.lean ====
section
/-! SUPPORT. What the operations of Machine/FabData.lean keep. -/

set_option linter.all false

namespace Sys2Proof.Machine

variable {pm pi pf pk : Bool}

theorem State.fabArrive_keeps {s0 s : State} {p : Nat} {kind : Nat} {h : FabHead} {data : List Nat} {eff : State → State} (h_eff : ∀ u, Keeps pm pi pf pk s0 u → Keeps pm pi pf pk s0 (eff u)) (hK : Keeps pm pi pf pk s0 s) :
    Keeps pm pi pf pk s0 (State.fabArrive s p kind h data eff) := by
  unfold State.fabArrive
  repeat' (first
    | (with_reducible first
      | assumption | apply Keeps.ite | apply State.gotPacket_keeps | apply State.sendPacket_keeps | apply State.cnt_keeps
      | apply State.fabAnswer_keeps | apply h_eff)
    | extract_lets | exact id | exact Nat.le_refl _ | split | (intro q; simpa [updAt] using q)
    | (intro q; exact (List.length_modify ..).trans q) | (intro q; exact (List.length_set ..).trans q))

theorem State.fabServe_keeps {s0 s : State} {p : Nat} {h : FabHead} {a : Access} {env : MemEnv} (hK : Keeps false false pf false s0 s) :
    Keeps false false pf false s0 (State.fabServe s p h a env) := by
  unfold State.fabServe
  repeat' (first
    | (with_reducible first
      | assumption | apply Keeps.ite | apply State.fabComplete_keeps | apply State.reqErr_keeps
      | apply State.hold_keeps | apply State.carry_keeps)
    | extract_lets | exact id | exact Nat.le_refl _ | split | (intro q; simpa [updAt] using q)
    | (intro q; exact (List.length_modify ..).trans q) | (intro q; exact (List.length_set ..).trans q)
    | (intro q; exact (List.length_map ..).trans q))

theorem State.fabDone_keeps {s0 s : State} {h : FabHead} {status : Nat} {data : List Byte} (hK : Keeps pm pi pf pk s0 s) :
    Keeps pm pi pf pk s0 (State.fabDone s h status data) := by
  unfold State.fabDone
  repeat' (first
    | (with_reducible first
      | assumption | apply Keeps.ite | apply State.closeReq_keeps | apply State.failReq_keeps | apply State.respOk_keeps
      | apply State.respErr_keeps)
    | extract_lets | exact id | exact Nat.le_refl _ | split | (intro q; simpa [updAt] using q)
    | (intro q; exact (List.length_modify ..).trans q) | (intro q; exact (List.length_set ..).trans q))

theorem State.ticketAnswered_keeps {s0 s : State} {r : FabReq} {code : Nat} {tag : Nat} (hK : Keeps pm pi pf pk s0 s) :
    Keeps pm pi pf pk s0 (State.ticketAnswered s r code tag) := by
  unfold State.ticketAnswered
  repeat' (first
    | (with_reducible first
      | assumption | apply Keeps.ite | apply State.giveBack_keeps | apply State.ferryAsked_keeps
      | apply State.storeAsked_keeps | apply State.expFail_keeps | apply State.expAsked_keeps | apply State.respOk_keeps)
    | extract_lets | exact id | exact Nat.le_refl _ | split | (intro q; simpa [updAt] using q)
    | (intro q; exact (List.length_modify ..).trans q) | (intro q; exact (List.length_set ..).trans q))

end Sys2Proof.Machine
end

