-- ==== Sys2Proof/Laws/KeepsQueue.lean ====
section
/-! SUPPORT. What the operations of Machine/Queue.lean keep. -/

set_option linter.all false

namespace Sys2Proof.Machine

variable {pm pi pf pk : Bool}

theorem State.picked_keeps {s0 s : State} {a : Access} (hK : Keeps pm pi pf pk s0 s) :
    Keeps pm pi pf pk s0 (State.picked s a) := by
  unfold State.picked
  repeat' (first
    | (with_reducible first
      | assumption | apply Keeps.ite | apply State.setDmc_keeps)
    | extract_lets | exact id | exact Nat.le_refl _ | split | (intro q; simpa [updAt] using q)
    | (intro q; exact (List.length_modify ..).trans q) | (intro q; exact (List.length_set ..).trans q)
    | (intro q; exact (List.length_map ..).trans q))

end Sys2Proof.Machine
end

