-- ==== Sys2Proof/Laws/Mesh.lean ====
section
/-! SUPPORT. What crossing the mesh can do: it counts in MESH registers and changes nothing else. -/

namespace Sys2Proof.Machine

theorem groveStop_lt (g : Nat) : groveStop g < 25 := by
  unfold groveStop
  by_cases h : g < 16
  · interval_cases g <;> decide
  · rw [List.getD_eq_default _ _ (by simp; omega)]; decide

theorem dmcStop_lt (x : Nat) : dmcStop x < 25 := by
  unfold dmcStop
  by_cases h : x < 4
  · interval_cases x <;> decide
  · rw [List.getD_eq_default _ _ (by simp; omega)]; decide

theorem blockStop_lt (c i : Nat) : blockStop c i < 25 := by
  unfold blockStop
  have g := groveStop_lt
  have d := dmcStop_lt
  repeat' split
  all_goals first
    | omega
    | exact g _
    | exact d _

theorem stopOf_lt (r : Requester) : stopOf r < 25 := by
  cases r <;> simp only [stopOf] <;> first | omega | exact blockStop_lt _ _

theorem targetStop_lt (a x : Nat) (t : Target) : targetStop a x t < 25 := by
  cases t <;> simp only [targetStop] <;>
    first | omega | exact groveStop_lt _ | exact blockStop_lt _ _ | exact dmcStop_lt _

/-- Every stop a route visits is a stop of the mesh, and every port is one of its five. -/
theorem route_lt {src dst : Nat} (hs : src < 25) (hd : dst < 25) {e : Nat × Nat} (he : e ∈ route src dst) : e.1 < 25 ∧ e.2 < 5 := by
  simp only [route, List.mem_append, List.mem_map, List.mem_range, List.mem_singleton] at he
  rcases he with (((⟨k, hk, rfl⟩ | ⟨k, hk, rfl⟩) | ⟨k, hk, rfl⟩) | ⟨k, hk, rfl⟩) | rfl <;> constructor <;> (try simp only) <;> omega

/-- What an operation that writes MESH registers alone keeps. -/
structure MeshOnly (s t : State) : Prop where
  rd : ∀ a, regCode a ≠ Blk.MESH → t.rd a = s.rd a
  mem : t.mem = s.mem
  inner : t.inner = s.inner
  fuse : t.fuse = s.fuse
  keys : t.keys = s.keys
  resp : t.resp = s.resp

theorem MeshOnly.refl (s : State) : MeshOnly s s := ⟨fun _ _ => rfl, rfl, rfl, rfl, rfl, rfl⟩

theorem MeshOnly.trans {s t u : State} (h : MeshOnly s t) (g : MeshOnly t u) : MeshOnly s u :=
  ⟨fun a ha => (g.rd a ha).trans (h.rd a ha), g.mem.trans h.mem, g.inner.trans h.inner, g.fuse.trans h.fuse, g.keys.trans h.keys,
    g.resp.trans h.resp⟩

theorem MeshOnly.addWrap {s : State} {a hi lo n : Nat} (h : regCode a = Blk.MESH) : MeshOnly s (s.addWrap a hi lo n) :=
  ⟨fun _ hb => State.rd_putF_ne (fun e => hb (e ▸ h)), rfl, rfl, rfl, rfl, rfl⟩

theorem regCode_mesh {i off : Nat} (hi : i < 25) (ho : off < 0x1000) : regCode (pageAddr Blk.MESH i + off) = Blk.MESH := by
  unfold regCode pageAddr
  simp only [Blk.MESH]
  omega

theorem MeshOnly.foldl {f : State → Nat × Nat → State} {l : List (Nat × Nat)} (h : ∀ s, ∀ e ∈ l, MeshOnly s (f s e)) (s : State) :
    MeshOnly s (l.foldl f s) := by
  induction l generalizing s with
  | nil => exact MeshOnly.refl s
  | cons e l ih => exact (h s e (by simp)).trans (ih (fun s x hx => h s x (by simp [hx])) _)

theorem State.packet_meshOnly {s : State} {src dst cls len : Nat} (hs : src < 25) (hd : dst < 25) (hc : cls < 4) :
    MeshOnly s (s.packet src dst cls len) := by
  unfold State.packet
  refine MeshOnly.trans (t := if s.bit (Reg.MESH_CTL src) 0 then s.addWrap (Reg.MESH_INJ src cls) 31 0 (flits len) else s) ?_ ?_
  · split
    · exact MeshOnly.addWrap (by rw [Reg.MESH_INJ, Nat.add_assoc]; exact regCode_mesh hs (by omega))
    · exact MeshOnly.refl s
  · refine MeshOnly.foldl (fun u e he => ?_) _
    split
    · have h := route_lt hs hd he
      exact MeshOnly.addWrap (by rw [Reg.MESH_FLITS, Nat.add_assoc]; exact regCode_mesh h.1 (by omega))
    · exact MeshOnly.refl u

/-- An access that crosses the mesh counts in MESH registers alone (R359). -/
theorem State.meshCrossed_meshOnly {s : State} {a : Access} {loc : Bool} (hc : a.class < 4) : MeshOnly s (s.meshCrossed a loc) := by
  unfold State.meshCrossed
  split
  · rename_i x y h
    unfold State.meshEnds at h
    simp only at h
    split at h
    · cases h
    · cases h
      have h1 := stopOf_lt a.req
      have h2 : s.stopAt a < 25 := targetStop_lt _ _ _
      unfold State.transit
      exact (State.packet_meshOnly h1 h2 hc).trans (State.packet_meshOnly h2 h1 hc)
  · exact MeshOnly.refl s

end Sys2Proof.Machine
end

