-- ==== Sys2Proof/Machine/Package.lean ====
section
/-! DEFINITION. The package (R685 to R687, R692): ball names, the net of every ball, the supplies and the pin classes. -/

namespace Sys2Proof.Machine

/-! ## Ball coordinates (R685) -/

/-- Row labels, from row 1 on. -/
def rowLabels : List String :=
  ["A", "B", "C", "D", "E", "F", "G", "H", "J", "K", "L", "M", "N", "P", "T", "U", "V", "W", "Y",
   "AA", "AB", "AC", "AD", "AE", "AF", "AG", "AH", "AJ", "AK", "AL", "AM", "AN", "AP", "AT", "AU", "AV", "AW", "AY",
   "BA", "BB", "BC", "BD", "BE", "BF", "BG", "BH"]

/-- The ball at row index `r` and column `c`: its row label and its column. -/
def ballName (r c : Nat) : Option (String × Nat) :=
  if 1 ≤ r ∧ 1 ≤ c ∧ c ≤ 46 then (rowLabels[r - 1]?).map fun l => (l, c) else none

/-! ## Nets

A net's name is a list of parts, each with its two-digit number where it has one: PWM_10 is `[("PWM", some 10)]`, and
DMC_A_CH_00_DQ_00 is `[("DMC_A", none), ("CH", some 0), ("DQ", some 0)]`. -/

abbrev Net : Type := List (String × Option Nat)

def net (n : String) : Net := [(n, none)]
def netN (n : String) (k : Nat) : Net := [(n, some k)]
def vss : Net := net "VSS"
/-- The positive ball, then the negative one. -/
def pair (n : Net) : List Net := [n ++ net "P", n ++ net "N"]
def nets (l : List String) : List Net := l.map net
def numbered (n : String) (k : Nat) : List Net := (List.range k).map (netN n)
/-- The transmit and receive pairs of a lane. -/
def txrx (n : Net) : List Net := ["TX_P", "TX_N", "RX_P", "RX_N"].map fun x => n ++ net x

/-! ## The lists of the signal regions (R686) -/

def listHOST : List Net :=
  List.replicate 2 (net "VDD_AON") ++ List.replicate 2 (net "VDDIO_AON")
  ++ nets ["PORESET_N", "WARMRESET_N", "RESETOUT_N", "FAULT_N", "WAKE_N", "PWR_REQ", "XTAL_IN", "XTAL_OUT"]
  ++ List.replicate 2 (net "VDDA_18") ++ nets ["RL_ROOT", "PCIE_RC"] ++ numbered "BOOT_MODE" 2
  ++ nets ["XTAL_BYP", "TEST_EN", "TCK", "TMS", "TDI", "TDO", "TRST_N", "XSPI_CLK", "XSPI_CS_N", "XSPI_DQS"]
  ++ numbered "XSPI_DQ" 8 ++ nets ["XSPI_RESET_N"] ++ List.replicate 4 (net "VDDIO_18")
  ++ (List.range 8).flatMap fun n => ["BCLK", "FS", "SDI", "SDO"].map fun x => netN "APORT" n ++ net x

def listFABRIC : List Net :=
  pair (net "PCIE_REFCLK") ++ nets ["PCIE_PERST_N"]
  ++ ((List.range 8).flatMap fun l => txrx (net "PCIE" ++ netN "L" l))
  ++ ((List.range 4).flatMap fun p => (List.range 4).flatMap fun l => txrx (netN "RLINK" p ++ netN "L" l))
  ++ pair (net "CASC_CLK") ++ pair (net "CASC_SYNC") ++ List.replicate 2 (net "VDDIO_33")

def listSAFETY : List Net :=
  ((List.range 16).flatMap fun n => [netN "CAN" n ++ net "TX", netN "CAN" n ++ net "RX"])
  ++ nets ["WSS_A", "WSS_B", "WSS_C", "WSS_D"] ++ numbered "MPOS_A_IO" 4 ++ numbered "MPOS_B_IO" 4
  ++ ([0, 1].flatMap fun n => pair (netN "ETH" n ++ net "MDI")) ++ txrx (netN "ETH" 2) ++ txrx (netN "ETH" 3)
  ++ pair (net "USX_REFCLK") ++ nets ["COOL_TEMP", "PUMP_PWM", "FAN_PWM", "PUMP_TACH", "FAN_TACH"]
  ++ List.replicate 2 (net "VDDIO_AON") ++ List.replicate 2 (net "VDDIO_33") ++ List.replicate 2 (net "VDDA_18")

/-- The list of a controller's region, `p` its prefix. -/
def listDMC (p : String) : List Net :=
  [net p ++ net "RESET_N", net p ++ net "ZQ"] ++ (List.range 4).flatMap fun c =>
    (nets ["CK_T", "CK_C"] ++ numbered "CS" 2 ++ numbered "CA" 7
      ++ ([0, 1].flatMap fun k => [netN "WCK" k ++ net "T", netN "WCK" k ++ net "C"])
      ++ ([0, 1].flatMap fun k => [netN "RDQS" k ++ net "T", netN "RDQS" k ++ net "C"])
      ++ numbered "DQ" 16 ++ numbered "DMI" 2).map fun n => net p ++ netN "CH" c ++ n

def listMEDIA : List Net :=
  ((List.range 4).flatMap fun n => pair (netN "CAM" n ++ net "CLK") ++ (List.range 4).flatMap fun d => pair (netN "CAM" n ++ netN "D" d))
  ++ ((List.range 2).flatMap fun n => pair (netN "VOUT" n ++ net "CLK")
    ++ ((List.range 4).flatMap fun m => pair (netN "VOUT" n ++ netN "ML" m)) ++ pair (netN "VOUT" n ++ net "AUX") ++ [netN "VOUT" n ++ net "HPD"])
  ++ List.replicate 4 (net "VDDA_18") ++ List.replicate 2 (net "VDDIO_18")

def listACOUSTIC_A : List Net :=
  (["PRB_A", "PRB_B", "PRB_C", "PRB_D"].flatMap fun n => pair (net n))
  ++ (["SPK_I", "SPK_V", "GEN"].flatMap fun n => (List.range 16).flatMap fun k => pair (netN n k)) ++ List.replicate 8 (net "VDDA_18")

def listACOUSTIC_D : List Net :=
  numbered "PWM" 32 ++ numbered "PSEN" 16 ++ numbered "PDM_CLK" 4 ++ numbered "PDM_DAT" 16 ++ numbered "EXT_TRIG" 2
  ++ List.replicate 2 (net "VDDIO_33") ++ List.replicate 2 (net "VDDIO_18")

/-- A signal region: first and last row, first and last column, list. -/
structure Region where
  r0 : Nat
  r1 : Nat
  c0 : Nat
  c1 : Nat
  list : List Net
  deriving DecidableEq, Repr

def regions : List Region := [
  ⟨1, 8, 1, 12, listHOST⟩, ⟨1, 8, 13, 34, listFABRIC⟩, ⟨1, 8, 35, 46, listSAFETY⟩,
  ⟨9, 23, 1, 12, listDMC "DMC_A"⟩, ⟨24, 38, 1, 12, listDMC "DMC_C"⟩, ⟨9, 23, 35, 46, listDMC "DMC_B"⟩, ⟨24, 38, 35, 46, listDMC "DMC_D"⟩,
  ⟨39, 46, 1, 12, listMEDIA⟩, ⟨39, 46, 13, 34, listACOUSTIC_A⟩, ⟨39, 46, 35, 46, listACOUSTIC_D⟩]

/-- A position of a signal region is no VSS of the grid. -/
def isSignal (r c : Nat) : Bool := decide ((r + c) % 6 ≠ 0)

/-- Signal positions of a region before (r, c), in raster order. -/
def Region.before (g : Region) (r c : Nat) : Nat :=
  ((List.range (r - g.r0)).map fun i => ((List.range (g.c1 + 1 - g.c0)).filter fun j => isSignal (g.r0 + i) (g.c0 + j)).length).sum
    + ((List.range (c - g.c0)).filter fun j => isSignal r (g.c0 + j)).length

/-- The core region's rule. -/
def coreNet (r c : Nat) : Net :=
  if c = 13 ∨ c = 34 then (if r % 2 = 1 then net "VDDQ_DMC" else vss)
  else if (r + c) % 2 = 1 then vss
  else if r ≤ 10 then net "VDD_PHY" else if r ≤ 14 then net "VDD_SOC" else if r ≤ 33 then net "VDD_GROVE" else net "VDD_SRAM"

/-- R686: the net of the ball at row index `r` and column `c`. -/
def ballNet (r c : Nat) : Net :=
  match regions.find? fun g => decide (g.r0 ≤ r) && decide (r ≤ g.r1) && decide (g.c0 ≤ c) && decide (c ≤ g.c1) with
  | some g => if isSignal r c then g.list.getD (g.before r c) vss else vss
  | none => coreNet r c

/-! ## Supplies (R687) -/

/-- A rail: index in SUP_STAT, operating range in mV (for VDDIO_AON each of its two), maximum current in mA, group. -/
structure Rail where
  index : Nat
  name : String
  ranges : List (Nat × Nat)
  milliamp : Nat
  group : Nat
  deriving DecidableEq, Repr

def rails : List Rail := [
  ⟨0, "VDD_AON", [(720, 800)], 100, 1⟩, ⟨1, "VDDIO_AON", [(1710, 1890), (3135, 3465)], 100, 1⟩,
  ⟨2, "VDD_SOC", [(720, 800)], 25000, 2⟩, ⟨3, "VDD_GROVE", [(720, 800)], 105000, 2⟩, ⟨4, "VDD_SRAM", [(770, 850)], 15000, 2⟩,
  ⟨5, "VDD_PHY", [(820, 890)], 12000, 2⟩, ⟨6, "VDDQ_DMC", [(470, 570)], 3000, 3⟩, ⟨7, "VDDA_18", [(1710, 1890)], 2500, 3⟩,
  ⟨8, "VDDIO_18", [(1710, 1890)], 400, 3⟩, ⟨9, "VDDIO_33", [(3135, 3465)], 600, 3⟩]

/-- A rail is in its operating range at `mv` millivolts. -/
def Rail.inRange (x : Rail) (mv : Nat) : Bool := x.ranges.any fun q => decide (q.1 ≤ mv) && decide (mv ≤ q.2)

/-! ## Pin classes (R692) -/

inductive PinClass where
  | aon
  | od
  | io18
  | io33
  | pwm
  | mlvds
  | sense
  | probe
  | cool
  | xtal
  | hs
  | supply
  deriving DecidableEq, Repr

/-- The class of a net; those of R692's last row are HS. -/
def classOfNet (n : Net) : PinClass :=
  let h := (n.headD ("", none)).1
  if h = "VSS" || rails.any (fun x => x.name == h) then .supply
  else if ["PORESET_N", "WARMRESET_N", "RESETOUT_N", "WAKE_N", "PWR_REQ", "RL_ROOT", "PCIE_RC", "BOOT_MODE", "XTAL_BYP", "TEST_EN", "CAN"].contains h
  then .aon
  else if h = "FAULT_N" then .od
  else if ["XSPI_CLK", "XSPI_CS_N", "XSPI_DQS", "XSPI_DQ", "XSPI_RESET_N", "TCK", "TMS", "TDI", "TDO", "TRST_N", "APORT", "PDM_CLK", "PDM_DAT",
      "MPOS_A_IO", "MPOS_B_IO", "EXT_TRIG", "PCIE_PERST_N"].contains h || (h == "VOUT" && n.contains ("HPD", none)) then .io18
  else if ["WSS_A", "WSS_B", "WSS_C", "WSS_D", "PUMP_PWM", "FAN_PWM", "PUMP_TACH", "FAN_TACH"].contains h then .io33
  else if h = "PWM" ∨ h = "PSEN" then .pwm
  else if h = "CASC_CLK" ∨ h = "CASC_SYNC" then .mlvds
  else if ["SPK_I", "SPK_V", "GEN"].contains h then .sense
  else if ["PRB_A", "PRB_B", "PRB_C", "PRB_D"].contains h then .probe
  else if h = "COOL_TEMP" then .cool
  else if h = "XTAL_IN" ∨ h = "XTAL_OUT" then .xtal
  else .hs

end Sys2Proof.Machine
end

