-- ==== Sys2Proof/WellFormed.lean ====
section
/-! DEFINITION. The commands whose operands are in range: the instance numbers, words and addresses the spec gives each command
(R39, R43, R44, R48, R74). -/
namespace Sys2Proof

/-- Instances of each block code of R44; 0 where no block has the code. -/
def blockCount (code : Nat) : Nat :=
  ([1, 1, 1, 1, 1, 1, 1, 34, 32, 1, 16, 64, 1, 16, 64, 32, 25, 16, 1, 4, 2, 2, 1, 5, 1, 1, 8, 9, 4, 2, 4, 16, 1, 4, 1, 1, 1] : List Nat).getD code 0

/-- A page that is present (R44). -/
def pageOk (code inst : Nat) : Bool := decide (inst < blockCount code)

/-- Access sizes of R48 and the smaller ones that R68 records. -/
def sizeOk (n : Nat) : Bool := n == 1 || n == 2 || n == 4 || n == 8

/-- A requester of R74: a hart, a lockstep pair, the debug port, a present block, a port, PCIe. -/
def Requester.wf : Requester → Bool
  | .hart n => decide (n < 12)
  | .island p => decide (p < 2)
  | .debug => true
  | .block c i => pageOk c i
  | .rlink p => decide (p < 4)
  | .pcie => true

/-- The operands that number an instance, a register value or an address lie in the range the spec gives them. -/
def Instr.wf : Instr → Bool
  | .registerWrite req addr size value _ => req.wf && decide (addr < 2 ^ 48) && sizeOk size && decide (value < 2 ^ 64)
  | .readClear req addr size ecc => req.wf && decide (addr < 2 ^ 48) && sizeOk size && decide (ecc ≤ 3)
  | .pageLock req code inst value => req.wf && pageOk code inst && decide (value < 2 ^ 32)
  | .worldWrite req code inst value => req.wf && pageOk code inst && decide (value < 2 ^ 32)
  | .irqForce req code inst value => req.wf && pageOk code inst && decide (value < 2 ^ 32)
  | .memoryAccess req addr _ _ _ _ _ _ _ => req.wf && decide (addr < 2 ^ 48)
  | .heldAccessServed _ _ => true
  | .wssEdge i _ _ _ => decide (i < 4)
  | .dirPwTimeout i _ => decide (i < 4)
  | .quadCount m _ _ _ => decide (m < 2)
  | .spiRdcSample m _ _ => decide (m < 2)
  | .sourceSilenceTimeout i _ => decide (i < 6)
  | .speedMessageExpired _ => true
  | .holdExpired d _ => decide (d < 3)
  | .angleBusUpdate _ => true
  | .alarmEnable req n value => req.wf && decide (n < 64) && decide (value < 2 ^ 32)
  | .angleEnable req value => req.wf && decide (value < 2 ^ 32)
  | .sourceConfigWrite req i value => req.wf && decide (i < 7) && decide (value < 2 ^ 32)
  | .prediction req value => req.wf && decide (value < 2 ^ 32)
  | .logPop req value => req.wf && decide (value < 2 ^ 32)
  | .gptpSyncRx p _ _ _ => decide (p < 4)
  | .gptpPdelayRx p _ _ => decide (p < 4)
  | .gptpSyncTx p _ => decide (p < 4)
  | .poresetAssert _ => true
  | .poresetRelease _ _ _ => true
  | .warmresetAssert _ => true
  | .warmresetRelease _ => true
  | .swrst req value => req.wf && decide (value < 2 ^ 32)
  | .pciePerst _ => true
  | .bootRomStart _ _ _ _ _ => true
  | .imageVerifyDone k _ _ => decide (k < 2)
  | .declareC req value => req.wf && decide (value < 2 ^ 32)
  | .stageCLimitExpired _ => true
  | .pcieConfigRequest _ => true
  | .stow req value => req.wf && decide (value < 2 ^ 32)
  | .stowBuildDone _ => true
  | .flashCopyDone _ _ => true
  | .queuedFrameDelivery p _ => decide (p < 22)
  | .frameAgeExpired p _ => decide (p < 22)
  | .pmuEvaluate _ _ _ _ => true
  | .domainExitComplete d _ => decide (d < 27)
  | .park req value => req.wf && decide (value < 2 ^ 32)
  | .p4Entry _ => true
  | .wakePin _ => true
  | .wakeTimerExpired _ => true
  | .canWakeFrame n _ _ _ => decide (n < 16)
  | .railsInRange _ => true
  | .ledgerUpdate _ => true
  | .ledgerTest p _ => decide (p < 16)
  | .monitorFault g => decide (g < 16)
  | .thermSample _ _ _ => true
  | .throttleEvaluate _ => true
  | .tripClr req value => req.wf && decide (value < 2 ^ 32)
  | .coolTempSample _ _ => true
  | .coolInStale _ => true
  | .tachSample _ _ _ => true
  | .coolingRequest _ => true
  | .hartHoldWrite req value => req.wf && decide (value < 2 ^ 32)
  | .xmbRing req i _ value => req.wf && decide (i < 32) && decide (value < 2 ^ 32)
  | .xmbAck req i _ value => req.wf && decide (i < 32) && decide (value < 2 ^ 32)
  | .aesGcmEncrypt _ _ => true
  | .aesGcmDecrypt _ _ => true
  | .sha256 _ => true
  | .sha384 _ => true
  | .sha512 _ => true
  | .hmacSha384 _ => true
  | .ecdsaVerify _ _ => true
  | .ecdsaSign _ => true
  | .mlDsaVerify _ _ => true
  | .mlDsaSign _ => true
  | .dualVerify _ => true
  | .derive _ => true
  | .clearKeySlot => true
  | .exportPublicKey => true
  | .randomBytes => true
  | .revokeFuseKeySlot _ => true
  | .raiseAntiRollback _ => true
  | .advanceLifecycle _ _ => true
  | .secBadOpcode => true
  | .trngHealthFail => true
  | .extest _ _ => true
  | .idcode => true
  | .samplePreload _ _ => true
  | .highz _ => true
  | .clamp _ => true
  | .dtmcs _ => true
  | .dmi _ _ => true
  | .authNonce _ => true
  | .authToken _ _ => true
  | .authStat _ _ => true
  | .recoveryData _ => true
  | .recoveryStat _ => true
  | .bypass code _ => decide (code < 256)
  | .recoveryVerifyDone _ => true
  | .sessionExpired _ => true
  | .lockstepMismatch p => decide (p < 2)
  | .escalate req value => req.wf && decide (value < 2 ^ 32)
  | .sqTailDoorbell req i value => req.wf && decide (i < 64) && decide (value < 2 ^ 32)
  | .ringDoorbell req i value => req.wf && decide (i < 64) && decide (value < 2 ^ 32)
  | .externalDoorbell i => decide (i < 64)
  | .descriptorFetch _ _ => true
  | .ownerRecordWrite req p n w value => req.wf && decide (p < 16) && decide (n < 64) && decide (w < 2) && decide (value < 2 ^ 32)
  | .resizeGo req p value => req.wf && decide (p < 16) && decide (value < 2 ^ 32)
  | .quiesceEnd _ => true
  | .resizeQuiesceTimeout _ => true
  | .resizeCommit _ => true
  | .coreNop c _ _ => decide (c < 64)
  | .tile c _ _ => decide (c < 64)
  | .coreEnd c _ _ => decide (c < 64)
  | .coreLoad c _ _ => decide (c < 64)
  | .loadComplete c _ _ => decide (c < 64)
  | .coreStore c _ _ => decide (c < 64)
  | .storeComplete c _ _ => decide (c < 64)
  | .mma c _ _ => decide (c < 64)
  | .drain c _ _ => decide (c < 64)
  | .imcfg c _ _ => decide (c < 64)
  | .vopAdd c _ _ => decide (c < 64)
  | .vopMul c _ _ => decide (c < 64)
  | .vopFma c _ _ => decide (c < 64)
  | .vopMax c _ _ => decide (c < 64)
  | .vopMin c _ _ => decide (c < 64)
  | .vopCvt c _ _ => decide (c < 64)
  | .vopRelu c _ _ => decide (c < 64)
  | .vopGelu c _ _ => decide (c < 64)
  | .vopSigmoid c _ _ => decide (c < 64)
  | .vopTanh c _ _ => decide (c < 64)
  | .vopExp c _ _ => decide (c < 64)
  | .vopRecip c _ _ => decide (c < 64)
  | .vopRsqrt c _ _ => decide (c < 64)
  | .vopRsum c _ _ => decide (c < 64)
  | .vopRmax c _ _ => decide (c < 64)
  | .barrier c _ _ => decide (c < 64)
  | .barrierRelease c _ => decide (c < 64)
  | .lbcfg c _ _ => decide (c < 64)
  | .badOpcode c _ _ => decide (c < 64)
  | .tileMaxExpired c _ => decide (c < 64)
  | .contextSaveDone c _ => decide (c < 64)
  | .contextRestoreDone c _ => decide (c < 64)
  | .cmdWatchdogExpired c _ _ _ => decide (c < 64)
  | .mopFill req g _ => req.wf && decide (g < 16)
  | .mopCopy req g _ => req.wf && decide (g < 16)
  | .mopStart g _ => decide (g < 16)
  | .mopDone g _ _ => decide (g < 16)
  | .clearGo req g value => req.wf && decide (g < 16) && decide (value < 2 ^ 32)
  | .clearZeroDone g _ => decide (g < 16)
  | .clearVerifyDone g _ _ => decide (g < 16)
  | .ticketRequest req k _ _ => req.wf && decide (k < 24)
  | .remoteWrite req addr _ _ _ => req.wf && decide (addr < 2 ^ 48)
  | .ticketExpired k _ _ => decide (k < 24)
  | .ticketReturn req k _ => req.wf && decide (k < 24)
  | .ticketRetry _ _ => true
  | .tktWaitExpired _ _ => true
  | .windowArm req k value => req.wf && decide (k < 24) && decide (value < 2 ^ 32)
  | .meshTimeout _ => true
  | .ferryQPush req f value => req.wf && decide (f < 32) && decide (value < 2 ^ 32)
  | .ferryTransferStart f _ => decide (f < 32)
  | .ferryTransferDone f _ _ => decide (f < 32)
  | .deadlineReevaluate _ => true
  | .placement p _ => decide (p < 16)
  | .jobComplete _ _ _ => true
  | .jobTimeout _ _ _ => true
  | .cancel req value => req.wf && decide (value < 2 ^ 32)
  | .acctSel req _ => req.wf
  | .acctSelClear req _ => req.wf
  | .selftest req value => req.wf && decide (value < 2 ^ 32)
  | .selftestDone c _ _ => decide (c < 64)
  | .restore req value => req.wf && decide (value < 2 ^ 32)
  | .cntClr req value => req.wf && decide (value < 2 ^ 32)
  | .rmonExpired k _ => decide (k < 4)
  | .infLogPop req value => req.wf && decide (value < 2 ^ 32)
  | .dmcHoldClear req x value => req.wf && decide (x < 4) && decide (value < 2 ^ 32)
  | .dramTrainingDone x _ _ => decide (x < 4)
  | .eccInitDone x _ _ => decide (x < 4)
  | .refreshWindowStart x _ _ => decide (x < 4)
  | .refreshWindowEnd x _ => decide (x < 4)
  | .refreshAnnounce x _ => decide (x < 4)
  | .mr4Poll _ _ _ => true
  | .rowIdleClose x _ _ _ => decide (x < 4)
  | .patrolScrub x ecc => decide (x < 4) && decide (ecc ≤ 3)
  | .dmcCtrlFail x => decide (x < 4)
  | .triggerFire c => decide (c < 2)
  | .triggerForce req c value => req.wf && decide (c < 2) && decide (value < 2 ^ 32)
  | .extTrigEdge i _ _ => decide (i < 2)
  | .holdoffEnd c _ => decide (c < 2)
  | .autoTrigger c _ => decide (c < 2)
  | .programArm req p => req.wf && decide (p < 2)
  | .programDisarm req p => req.wf && decide (p < 2)
  | .prefillDone p _ => decide (p < 2)
  | .berthComplete p _ => decide (p < 2)
  | .berthStart p _ => decide (p < 2)
  | .streamCopyStart p _ => decide (p < 2)
  | .streamCopyDone p _ _ => decide (p < 2)
  | .calSwapDue c _ => decide (c < 2)
  | .foregroundCalDone c _ _ => decide (c < 2)
  | .scopePermitWrite req value => req.wf && decide (value < 2 ^ 32)
  | .settlingDone c _ => decide (c < 2)
  | .fdigPllUnlock => true
  | .fdigPllRelock _ => true
  | .probeOverload c _ => decide (c < 2)
  | .overloadRecover c _ => decide (c < 2)
  | .senseConversion g _ _ _ => decide (g < 4)
  | .dcEvaluate j _ => decide (j < 16)
  | .senseFrameBoundary g _ _ _ => decide (g < 4)
  | .seqCommit req g value => req.wf && decide (g < 4) && decide (value < 2 ^ 32)
  | .senseSwapDue _ => true
  | .urgentConversionRequest req k value => req.wf && decide (k < 5) && decide (value < 2 ^ 32)
  | .urgentConversionDone k _ _ => decide (k < 5)
  | .retryTimeout j _ => decide (j < 16)
  | .retryOk j _ => decide (j < 16)
  | .protClr req value => req.wf && decide (value < 2 ^ 32)
  | .forceHold req value => req.wf && decide (value < 2 ^ 32)
  | .protSelfCheck _ => true
  | .protLogPop req value => req.wf && decide (value < 2 ^ 32)
  | .carrierCycleStart u _ ecc _ => decide (u < 20) && decide (ecc ≤ 3)
  | .channelEnable req j value => req.wf && decide (j < 16) && decide (value < 2 ^ 32)
  | .psenLeadEnd j _ => decide (j < 16)
  | .psenLagEnd j _ => decide (j < 16)
  | .threadRun req h => req.wf && decide (h < 4)
  | .threadStop req h => req.wf && decide (h < 4)
  | .wseqNop h _ ecc => decide (h < 4) && decide (ecc ≤ 3)
  | .thrPlay h _ ecc => decide (h < 4) && decide (ecc ≤ 3)
  | .thrPlaya h _ ecc => decide (h < 4) && decide (ecc ≤ 3)
  | .thrVec h _ ecc => decide (h < 4) && decide (ecc ≤ 3)
  | .thrLoop h _ ecc => decide (h < 4) && decide (ecc ≤ 3)
  | .thrEndl h _ ecc => decide (h < 4) && decide (ecc ≤ 3)
  | .thrCall h _ ecc => decide (h < 4) && decide (ecc ≤ 3)
  | .thrRet h _ ecc => decide (h < 4) && decide (ecc ≤ 3)
  | .thrJmp h _ ecc => decide (h < 4) && decide (ecc ≤ 3)
  | .thrWait h _ ecc => decide (h < 4) && decide (ecc ≤ 3)
  | .waitTimeExpired h _ => decide (h < 4)
  | .thrGain h _ ecc => decide (h < 4) && decide (ecc ≤ 3)
  | .thrSig h _ ecc => decide (h < 4) && decide (ecc ≤ 3)
  | .thrHalt h _ ecc => decide (h < 4) && decide (ecc ≤ 3)
  | .badInstr h _ ecc => decide (h < 4) && decide (ecc ≤ 3)
  | .segmentEnd h _ => decide (h < 4)
  | .switchLinePulse l _ => decide (l < 16)
  | .lineSw req value => req.wf && decide (value < 2 ^ 32)
  | .chimeReadyWrite req value => req.wf && decide (value < 2 ^ 32)
  | .chimeStart req l value => req.wf && decide (l < 2) && decide (value < 2 ^ 32)
  | .chimeStop req l value => req.wf && decide (l < 2) && decide (value < 2 ^ 32)
  | .chimeEnd l _ => decide (l < 2)
  | .streamFetch k _ _ => decide (k < 4)
  | .memDataWrite req value => req.wf && decide (value < 2 ^ 32)
  | .memDataRead req ecc => req.wf && decide (ecc ≤ 3)
  | .loadEngineGo req value => req.wf && decide (value < 2 ^ 32)
  | .loadEngineDone _ _ => true
  | .sampleTick d _ => decide (d < 4)
  | .aleWake n _ => decide (n < 8)
  | .aleDone req n value _ => req.wf && decide (n < 8) && decide (value < 2 ^ 32)
  | .tdmFrame p _ _ => decide (p < 8)
  | .pdmSample i _ _ _ => decide (i < 32)
  | .exportPush req n value => req.wf && decide (n < 8) && decide (value < 2 ^ 32)
  | .exportDone n _ _ => decide (n < 8)
  | .coefficientCommit req n value => req.wf && decide (n < 8) && decide (value < 2 ^ 32)
  | .frameStartLost p _ => decide (p < 8)
  | .audioPllUnlock => true
  | .aleCoreFault n _ _ => decide (n < 8)
  | .localTimeAlign _ => true
  | .csiFrameStart p _ _ _ _ => decide (p < 4)
  | .csiLongPacket p _ _ _ _ _ _ _ => decide (p < 4)
  | .csiFrameEnd p _ _ _ => decide (p < 4)
  | .frameComplete p k _ _ => decide (p < 4) && decide (k < 4)
  | .slotRelease req p k value => req.wf && decide (p < 4) && decide (k < 4) && decide (value < 2 ^ 32)
  | .noSignalTimeout p _ => decide (p < 4)
  | .voutEnable req v value => req.wf && decide (v < 2) && decide (value < 2 ^ 32)
  | .linkTrainingDone v _ _ => decide (v < 2)
  | .displayLinkRetrain v _ => decide (v < 2)
  | .hpdLost v _ => decide (v < 2)
  | .flip req v value => req.wf && decide (v < 2) && decide (value < 2 ^ 32)
  | .vblankStart v _ => decide (v < 2)
  | .frameFirstLine v _ => decide (v < 2)
  | .layerUnderrun v l x y _ _ => decide (v < 2) && decide (l < 2) && decide (x < 3840) && decide (y < 2160)
  | .auxRead req v value => req.wf && decide (v < 2) && decide (value < 2 ^ 32)
  | .auxWrite req v value => req.wf && decide (v < 2) && decide (value < 2 ^ 32)
  | .auxDone v _ _ => decide (v < 2)
  | .ethFrameRx p _ ecc _ => decide (p < 4) && decide (ecc ≤ 3)
  | .canFrameRx n _ _ _ _ _ ecc _ => decide (n < 16) && decide (ecc ≤ 3)
  | .egressTransmit p ecc _ => decide (p < 22) && decide (ecc ≤ 3)
  | .gateControlEntry p _ => decide (p < 4)
  | .qbvCommit req p value => req.wf && decide (p < 4) && decide (value < 2 ^ 32)
  | .qbvListActivate p _ => decide (p < 4)
  | .verdictRelease req => req.wf
  | .verdictReleaseMask req _ => req.wf
  | .verdictDrop req => req.wf
  | .inspDataRead req => req.wf
  | .inspectionTimeout _ => true
  | .txOriginate req value => req.wf && decide (value < 2 ^ 32)
  | .txDataWrite req value => req.wf && decide (value < 2 ^ 32)
  | .hostEnable req value => req.wf && decide (value < 2 ^ 32)
  | .hostTxEntry req value _ => req.wf && decide (value < 2 ^ 32)
  | .tableDataWrite req value => req.wf && decide (value < 2 ^ 32)
  | .tableDataRead req ecc => req.wf && decide (ecc ≤ 3)
  | .ethLinkChange p _ _ => decide (p < 4)
  | .canErrorStateChange n st _ _ _ => decide (n < 16) && decide (st < 3)
  | .rlinkTrainingDone p _ _ _ => decide (p < 4)
  | .linkLowPowerEntry p _ => decide (p < 4)
  | .rlinkRetrain p => decide (p < 4)
  | .fabRd p _ _ _ => decide (p < 4)
  | .fabRdc p _ _ _ => decide (p < 4)
  | .fabWr p _ _ _ _ => decide (p < 4)
  | .fabWra p _ _ => decide (p < 4)
  | .tktReq p _ _ => decide (p < 4)
  | .tktAns p _ _ _ => decide (p < 4)
  | .tktRet p _ _ => decide (p < 4)
  | .fabProbe p _ _ _ _ => decide (p < 4)
  | .identify p _ _ _ _ _ => decide (p < 4)
  | .notReady p _ => decide (p < 4)
  | .assign p _ node _ _ _ _ _ _ _ => decide (p < 4) && decide (node < 64)
  | .fabCommit p _ _ _ => decide (p < 4)
  | .linkEvent p node _ _ => decide (p < 4) && decide (node < 64)
  | .rediscover req value => req.wf && decide (value < 2 ^ 32)
  | .probeRetry node port _ => decide (node < 64) && decide (port < 4)
  | .discoveryTimeout _ => true
  | .syncFrameTx _ => true
  | .syncFrameRx _ _ _ _ _ _ => true
  | .echoMarkerTx _ => true
  | .echoMarkerRx slot _ => decide (slot < 4)
  | .masterLost _ => true
  | .perturbCtlWrite req value => req.wf && decide (value < 2 ^ 32)
  | .perturbEnable req code inst value => req.wf && pageOk code inst && decide (value < 2 ^ 32)
  | .stallPulse code inst _ => pageOk code inst
  | .jitterDraw => true
  | .forceEcc1 req code inst value => req.wf && pageOk code inst && decide (value < 2 ^ 32)
  | .forceEcc2 req code inst value => req.wf && pageOk code inst && decide (value < 2 ^ 32)
  | .forceChk req code inst value => req.wf && pageOk code inst && decide (value < 2 ^ 32)
  | .forceTkt req code inst value => req.wf && pageOk code inst && decide (value < 2 ^ 32)
  | .forceDetect req code inst value => req.wf && pageOk code inst && decide (value < 2 ^ 32)
  | .forceCancel req code inst => req.wf && pageOk code inst
  | .supplyFault rail _ => decide (rail < 16)
  | .referenceLoss _ => true
  | .supplyRecovered _ _ => true
  | .fdigSample c _ ecc _ => decide (c < 2) && decide (ecc ≤ 3)
  | .sliceCalibrationDone c _ _ => decide (c < 2)
  | .spareCalibrationDone _ _ => true
  | .gptpLost _ => true
  | .audioPllRelock => true
  | .pcieLinkChange _ => true
  | .hpdRise v => decide (v < 2)
  | .vddAonRise _ => true
  | .vddAonLoss _ => true

end Sys2Proof
end

