-- ==== Sys2Proof/Tests/Slice0.lean ====
section
/-! SUPPORT. Tests: well-formedness refuses an ill-formed term of each check; for every statement with hypotheses, states and operands
that meet them. -/

set_option linter.all false

open Sys2Proof

namespace Sys2Proof.Machine

set_option Elab.async false

/-- A device whose start is complete: every stage reached, every domain in P0, nothing held, and the store of grove 0 open to
partition 0. -/
def live : State :=
  let s : State := { State.reset with boot := { State.reset.boot with held := false, romStarted := true, voiceOk := true, appOk := true, poresetN := true, warmresetN := true, pwrReq := true, railsWait := false, supply := false, aon := true } }
  (((((List.range 27).foldl (fun (s : State) d => s.wr (Reg.PMU_DOM_STAT d) 0) s).wr Reg.RST_STAGE 0x1F).wr (Reg.RCHK_ATTR 8 0) 0xFFFF007F).wr (Reg.RCHK_LIMIT 8 0) 0xFFFFFFFF).wr (Reg.PART_GROVE_MASK 0) 1
/-- `live` with a command of opcode `op` in SEC's ring. -/
def secS (op : Nat) : State :=
  (((live.setBytes storeBase (leBytes 1 op ++ List.replicate 31 0)).wr Reg.SEC_CMDQ_BASE_LO storeBase).wr Reg.SEC_CMDQ_SIZE 4).wr Reg.SEC_CMDQ_TAIL 1
/-- `live` with a debug session of level 3. -/
def dbgS : State := live.wr Reg.DBG_SESSION 0x50003
/-- `live` waiting for a recovery image. -/
def recS : State := { live with boot := { live.boot with romWaits := true } }

/-- A job of partition 0 with the given phase and ranks. -/
def jobW (ph : JobPh) (ranks : List Rank) : Job :=
  { id := 0, ring := 0, sq := 0, part := 0, ctx := 0, world := false, heart := false, tag := 0, prio := 1, eclass := 0, dlMode := 0, dlDom := 0, checked := false, irq := false, fence := false, stream := 0, ncores := 1, cmdAddr := storeBase, cmdLen := 64, argAddr := storeBase, est := 0, fetched := 0, ph := ph, ranks := ranks }
/-- A rank on core 0 that runs the commands `l`. -/
def rankW (l : List Nat) : Rank := { core := 0, st := .run, code := l ++ [2], args := List.replicate 8 0 }
/-- `live` with one job, whose one rank is `r`. -/
def jobS (r : Rank) : State := { live with jobs := [jobW .placed [r]], jobNo := 1 }
/-- `live` with core 0 running the commands `l`. -/
def coreS (l : List Nat) : State := jobS (rankW l)
/-- A LOAD to tile memory that is in flight, a STORE likewise, and the ranks that wait for them. -/
def xferX : Xfer := { off := 0, cmd := 0x10, load := true, addr := storeBase, data := List.replicate 64 1 }
def rankX : Rank := { rankW [0x10] with xfers := [xferX] }
def xferY : Xfer := { off := 0, cmd := 0x11 + 64 * 2 ^ 160, load := false, addr := storeBase }
def rankY : Rank := { rankW [0x11] with xfers := [xferY] }
/-- A rank inside a tile. -/
def rankT : Rank := { rankW [] with tile := { off := 32 } }
/-- `live` with ring 0 enabled and one descriptor in it. -/
def ringS : State :=
  (((((((live.wr (Reg.PART_RING_MASK_LO 0) 1).wr (Reg.PART_OWN_W0 0 0) 0x80000000).wr (Reg.RING_CQ_SIZE 0) 16).wr (Reg.RING_CTL 0) 1).wr (Reg.RING_SQ_SIZE 0) 4).wr (Reg.RING_SQ_TAIL 0) 1).wr (Reg.RING_SQ_BASE_LO 0) storeBase)
def mopX : MemOp := { op := 1, irq := false, dst := 0, src := 0, len := 64, val := 5 }
def tkX : Ticket := { idx := 0, gen := 0, req := 0, heart := false, start := 0, len := 64, win := 0 }
def fopX : FerryOp := { src := storeBase, dst := storeBase + 64, len := 64, tkt := false, irq := false, bulk := false, db := false, ring := 0 }
/-- `live` with DMC_A in the set and the refresh grid running. -/
def dramS : State :=
  { ((live.wr (Reg.DMC_STAT 0) 0x10).setDmcState 0 DmcSt.SERVING).setDmc 0 (fun d => { d with passed := true }) with grid := { live.grid with on := true } }
/-- `live` with trigger unit 0 in a holdoff that is over. -/
def trigS : State := live.setTrig 0 fun x => { x with hold := some { from' := 0, n := 0, ang := 0, dir := 1 } }
/-- `live` with capture program 0 ready and AUTO set. -/
def autoS : State :=
  (((live.wr (Reg.TRIG_CTL 0) 0x1000).wr (Reg.TRIG_AUTO_TMO 0) 1).setProg 0 fun g => { g with ph := .ready }).setFdig 0 fun x => { x with n := 10 }
/-- `live` with capture program 0 streaming, one copy due. -/
def strmCopyS : State := ((live.wr (Reg.BERTH_MODE 0) 3).wr (Reg.BERTH_DONE_CNT 0) 1).wr (Reg.BERTH_SCOUNT 0) 4
/-- `live` with digitiser channel 0 at work. -/
def fdigS : State := live.wr (Reg.FDIG_STAT 0) (0x10000 + FdSt.READY)
/-- `live` with the sequence of sense group 0 on and converter 4 a spare. -/
def senseS : State := (((live.wr (Reg.SENSE_CTL 0) 1).wr Reg.SENSE4_CTL 1).wr Reg.SENSE4_STAT 4).setConv 4 1
/-- `live` with a staged table of four slots. -/
def senseS3 : State := (live.wr (Reg.SENSE_SEQ_LEN 0) 4).wr (Reg.SENSE_SEQ_LO 0) 0x3210
/-- `live` with thread 0 at the instruction `w`. -/
def thrS (w : Nat) : State := ((live.setIle pmemBase 8 w).wr (Reg.WSEQ_THR_CTL 0) 1).setThrState 0 ThrSt.RUN
def playX : Play := { seg := 0, rep := 1 }
/-- `live` with ALE_00 running in tick domain 0. -/
def aleS : State := (live.wr (Reg.ALE_CTL 0) 1).wr (Reg.ALE_TK_CFG 0) 0x8000
def expX : Export := { src := 0, dst := storeBase, len := 64, tkt := false, irq := false, db := false, ring := 0 }
/-- `live` with audio port 0 enabled and the audio PLL locked. -/
def portS : State := ((live.wr Reg.ALE_AUD_STAT 1).wr (Reg.APORT_CTL 0) 1).wr (Reg.ALE_TK_CFG 0) 0x8000
def camX : CamFrame := { no := 0, slot := 0, sof := 0, csi := 0, drops := 0 }
/-- `live` with a frame of camera 0, stream 0, that has ended, its metadata in the store of grove 0. -/
def camS : State := (live.wr (Reg.CAM_META_LO 0 0) storeBase).setCamStr 0 0 fun x => { x with ended := [camX] }
/-- `live` with display output 0 in training, scanning, and scanning with layer 0 shown. -/
def voutS : State := ((live.wr (Reg.VOUT_CTL 0) 1).wr (Reg.VOUT_PCLK 0) 0).setVout 0 fun x => { x with training := true }
def scanS : State := (live.wr (Reg.VOUT_CTL 0) 1).putF (Reg.VOUT_STAT 0) 1 0 VoutSt.SCANNING
def layerS : State := scanS.setVout 0 fun x => { x with use := [[1, 0, 0x00100010], []] }
/-- `live` with output 0 an eDP link. -/
def edpS : State := live.wr (Reg.VOUT_CTL 0) 3
/-- `live` with the gateway on and Ethernet port 0 linked, and with CAN controller 0 on. -/
def gwS : State := ((live.wr Reg.GW_CTL 1).wr (Reg.ETH_CTL 0) 1).wr (Reg.ETH_STAT 0) 1
def canS : State := ((live.wr Reg.GW_CTL 1).wr (Reg.CANX_CTL 0) 1).wr (Reg.CANX_STAT 0) 0
def gwfX : GwFrame := { eth := true, data := [1], inPort := 0, rx := 0, at' := 0, insp := true }
/-- `live` with fabric port 0 up; the same as the root of its fabric, and as node 0 of one. -/
def linkS : State := (live.wr (Reg.RLINK_CTL 0) 1).wr (Reg.RLINK_STAT 0) 2
def rootS : State := linkS.putBit Reg.SYS_STRAP 0 true
def nodeS : State := linkS.wr Reg.RLINK_FAB_STAT 0x8000
def discX : Disc := { start := 0, found := [], deferred := [⟨0, 0, 0⟩] }
def idFullS : State :=
  { rootS with fab := { rootS.fab with ids := (List.range 64).map fun k => (k, k), disc := some { discX with cur := some (0, 0) } } }
def reqX : FabReq := { port := 0, tag := 3, acc := live.access (.island 0) (rlinkBase + 0x400000000) 4 true [], ticket := true }
def frameX : List Byte := List.replicate 69 0 ++ leBytes 2 (crc16 (List.replicate 69 0))
/-- `live` with the perturbation windows open. -/
def openS : State := ((live.wr Reg.PERTURB_CTL 1).wr Reg.PERTURB_CODE_EN_LO 0xFFFFFFFF).wr Reg.PERTURB_CODE_EN_HI 0xFFFFFFFF

/-- `nodeS` with the declaration past. -/
def nodeT : State := { nodeS with clk := { nodeS.clk with base := 1 } }
def expS : State := aleS.setAle 0 fun a => { a with queue := [expX] }
def strmFetchS : State :=
  ((((live.wr (Reg.WSEQ_STRM_CFG 0) 1).wr (Reg.WSEQ_STRM_SIZE 0) 4096).wr (Reg.WSEQ_STRM_TAIL 0) 1024).wr (Reg.WSEQ_STRM_BASE_LO 0) (storeBase % 2 ^ 32)).wr (Reg.WSEQ_STRM_BASE_HI 0) (storeBase / 2 ^ 32)

theorem any_some {α : Type} {o : Option α} {p : α → Prop} [DecidablePred p] (h : (o.any fun x => decide (p x)) = true) :
    ∃ x, o = some x ∧ p x := by
  cases o with
  | none => cases h
  | some x => exact ⟨x, rfl, of_decide_eq_true h⟩

theorem sec_some {st : State} {P : SecCmd → Prop} [DecidablePred P] {f : State → SecCmd → SecEnd}
    (h : (st.secNext.any fun z => decide (P z.2.1) && ((f z.2.2 z.2.1).any fun r => (r.2.secFinish z.1 z.2.1.flags r.1).isSome)) = true) :
    ∃ (e : Nat) (c : SecCmd) (w : State) (r : Nat × State) (v : State), st.secNext = some (e, c, w) ∧ P c ∧ f w c = some r ∧
      r.2.secFinish e c.flags r.1 = some v := by
  cases h0 : st.secNext with
  | none => rw [h0] at h; cases h
  | some z =>
    rw [h0] at h
    simp only [Option.any_some, Bool.and_eq_true, decide_eq_true_eq] at h
    obtain ⟨h1, h2⟩ := h
    cases h3 : f z.2.2 z.2.1 with
    | none => rw [h3] at h2; cases h2
    | some r =>
      rw [h3] at h2
      exact ⟨z.1, z.2.1, z.2.2, r, _, rfl, h1, h3, (Option.some_get h2).symm⟩

theorem reset_inv : State.reset.Inv := by constructor; decide; constructor <;> decide

theorem test_witness_StepRunsFront : ∃ s : State, s.pending = [] := ⟨State.reset, rfl⟩

theorem test_witness_ResetState : ∃ c i : Nat, c < 64 ∧ i < 256 := ⟨63, 255, by decide, by decide⟩

theorem test_witness_StepKeepsInv : ∃ s t : State, s.Inv ∧ step s = .next t := ⟨State.reset, State.reset, reset_inv, rfl⟩

theorem test_witness_StepMovesForward : ∃ s t : State, step s = .next t := ⟨State.reset, State.reset, rfl⟩

theorem test_witness_CommandsStoreOnlyWhat : ∃ (i : Instr) (s t : State), exec i s = .next t ∧ (stores i).mem = false ∧ (stores i).inner = false ∧ (stores i).fuse = false ∧ (stores i).keys = false := ⟨.hpdRise 0, State.reset, _, rfl, rfl, rfl, rfl, rfl⟩

theorem test_witness_WorldOwner_0 : ∃ (s : State) (req : Requester) (code inst value : Nat), s.verdict req (pageAddr code inst + Hdr.WORLD) 4 true = .go ∧ s.bit (pageAddr code inst + Hdr.PAGE_LOCK) 0 = false ∧ s.world req = true ∧ s.bit (pageAddr code inst + Hdr.WORLD) 31 = false :=
  ⟨live, .island 0, 0x0B, 63, 0, by decide +kernel⟩

theorem test_witness_WorldOwner_1 : ∃ (s : State) (req : Requester) (code inst value : Nat), s.verdict req (pageAddr code inst + Hdr.WORLD) 4 true = .go ∧ s.bit (pageAddr code inst + Hdr.PAGE_LOCK) 0 = true ∧ s.getF (pageAddr code inst + Hdr.WORLD) 1 0 = value % 4 :=
  ⟨live.wr (pageAddr 0x0B 0 + Hdr.PAGE_LOCK) 1, .island 0, 0x0B, 0, (live.getF (pageAddr 0x0B 0 + Hdr.WORLD) 1 0), by decide +kernel⟩

theorem test_witness_WorldOwner_2 : ∃ (s : State) (req : Requester) (code inst value : Nat), s.verdict req (pageAddr code inst + Hdr.WORLD) 4 true = .go ∧ s.bit (pageAddr code inst + Hdr.PAGE_LOCK) 0 = true ∧ s.getF (pageAddr code inst + Hdr.WORLD) 1 0 ≠ value % 4 :=
  ⟨live.wr (pageAddr 0x0B 0 + Hdr.PAGE_LOCK) 1, .island 0, 0x0B, 0, 3 - (live.getF (pageAddr 0x0B 0 + Hdr.WORLD) 1 0), by decide +kernel⟩

theorem test_witness_WorldOwner_3 : ∃ (s : State) (req : Requester) (code inst value : Nat), s.verdict req (pageAddr code inst + Hdr.WORLD) 4 true = .go ∧ s.bit (pageAddr code inst + Hdr.PAGE_LOCK) 0 = false ∧ s.bit (pageAddr code inst + Hdr.WORLD) 31 = true :=
  ⟨live, .island 0, 0x02, 0, 1, by decide +kernel⟩

theorem test_witness_AbsentPages_0 : ∃ addr : Nat, regBase ≤ addr ∧ addr < regEnd ∧ instCount (regCode addr) ≠ 0 ∧ instCount (regCode addr) ≤ regInst addr ∧ addr % 4 = 0 ∧ addr % 8 = 0 := ⟨pageAddr 0x0E 64, by decide +kernel⟩

theorem test_witness_AbsentPages_1 : ∃ addr : Nat, regBase ≤ addr ∧ addr < regEnd ∧ 0x25 ≤ regCode addr := ⟨pageAddr 0x3F 255 + 0xFFC, by decide +kernel⟩

theorem test_witness_AngleLogFull_0 : ∃ s : State, 16 ≤ s.ang.log.length := ⟨{ State.reset with ang := { State.reset.ang with log := List.replicate 16 (0, 0) } }, by decide⟩

theorem test_witness_AngleLogFull_1 : ∃ s : State, s.ang.log.length < 16 := ⟨{ State.reset with ang := { State.reset.ang with log := List.replicate 15 (0, 0) } }, by decide⟩

theorem test_witness_ProtectionLogFull : ∃ (s : State) (irq : Nat), irq < 32 ∧ 16 ≤ s.prot.log.length := ⟨{ State.reset with prot := { State.reset.prot with log := List.replicate 16 (0, 0) } }, 31, by decide⟩

theorem test_witness_ErrorCapture_0 : ∃ (s : State) (req : Requester), s.verdict req Reg.SYS_AERR_INFO 4 true = .go ∧ s.bit Reg.SYS_AERR_INFO 31 = true := ⟨live.wr Reg.SYS_AERR_INFO 0x80000000, .island 0, by decide +kernel⟩

theorem test_witness_ErrorCapture_1 : ∃ (req : Requester) (cause : Nat), reqCode req < 2 ^ 16 ∧ cause < 16 := ⟨.hart 11, 15, by decide⟩

theorem test_witness_RefusedWriteChangesNothing_0 : ∃ (s : State) (req : Requester) (addr cause : Nat) (count : Bool), targetOf addr = .regs ∧ s.verdict req addr 4 true = .deny cause count := ⟨live, .island 0, pageAddr 0x3F 255 + 0xFFC, Cause.UNMAPPED, false, by decide +kernel⟩

theorem test_witness_RefusedWriteChangesNothing_1 : ∃ (s : State) (req : Requester) (addr cause : Nat), targetOf addr = .regs ∧ s.verdict req addr 4 true = .deny cause true := ⟨live, .block 0x0B 0, pageAddr 0x02 0 + 0x100, Cause.WORLD, by decide +kernel⟩

theorem test_witness_PageCommands :
    (∃ (s : State) (req : Requester) (code inst value : Nat), s.verdict req (pageAddr code inst + Hdr.PAGE_LOCK) 4 true = .go) ∧
    (∃ (s : State) (req : Requester) (code inst value : Nat), s.verdict req (pageAddr code inst + Hdr.WORLD) 4 true = .go ∧ s.world req = true ∧ s.bit (pageAddr code inst + Hdr.PAGE_LOCK) 0 = false ∧ s.bit (pageAddr code inst + Hdr.WORLD) 31 = false) ∧
    (∃ (s : State) (req : Requester) (code inst value : Nat), s.verdict req (pageAddr code inst + Hdr.IRQ_FORCE) 4 true = .go) ∧
    (∃ (s : State) (req : Requester) (addr size value : Nat) (ext : List Byte), targetOf addr = .regs) ∧
    (∃ (s : State) (req : Requester) (addr value : Nat) (ext : List Byte) (r : RegRow), targetOf addr = .regs ∧ s.verdict req addr 4 true = .go ∧ regOff addr = Hdr.IRQ_EN ∧ s.bit (pageOf addr + Hdr.PAGE_LOCK) 0 = false ∧ reservedBits (limitCode (regCode addr) (regInst addr)) (regOff addr) (value % 2 ^ 32) = 0 ∧ rowOf addr = some r ∧ r.w1s = 0 ∧ r.w1c = 0 ∧ r.rwl = 0 ∧ regCode addr ≠ Blk.MESH) ∧
    (∃ (s : State) (req : Requester) (addr size ecc : Nat), targetOf addr = .regs) ∧
    (∃ (s : State) (req : Requester) (addr ecc : Nat), targetOf addr = .regs ∧ s.verdict req addr 4 false = .go ∧ addr % 4 = 0 ∧ regOff addr = Hdr.ERR_CNT ∧ regCode addr ≠ Blk.DBG ∧ regCode addr ≠ Blk.MESH) :=
  ⟨⟨live, (.island 0), (Blk.ANGLE), (0), (1), by decide +kernel⟩,
   ⟨live, (.island 0), (Blk.CORE), (0), (0), by decide +kernel⟩,
   ⟨live, (.island 0), (Blk.ANGLE), (0), (5), by decide +kernel⟩,
   ⟨live, (.island 0), ((angPage + Hdr.IRQ_EN)), (4), (3), ([]), by decide +kernel⟩,
   ⟨live, (.island 0), ((angPage + Hdr.IRQ_EN)), (3), ([]), ((⟨Hdr.IRQ_EN, 4, 1, [0], irqBits Blk.ANGLE 0, 0, 0, 0, 0, 0, 0⟩ : RegRow)), by decide +kernel⟩,
   ⟨live, (.island 0), ((angPage + Hdr.ERR_CNT)), (4), (0), by decide +kernel⟩,
   ⟨live, (.island 0), ((angPage + Hdr.ERR_CNT)), (0), by decide +kernel⟩⟩

theorem test_witness_MemoryAccesses :
    (∃ (s : State) (req : Requester) (addr len : Nat) (write fetch : Bool) (data : List Byte) (cacheable : Bool) (tkt : Option Nat) (env : MemEnv) (d : List Byte), s.mustWait { s.access req addr len (write && !fetch) data with fetch := fetch, tkt := tkt } = false ∧ (s.carry { s.access req addr len (write && !fetch) data with fetch := fetch, tkt := tkt } (Access.isLocal { s.access req addr len (write && !fetch) data with fetch := fetch, tkt := tkt }) cacheable env).1 = .ok d) ∧
    (∃ (s : State) (req : Requester) (addr : Nat) (data : List Byte) (tkt : Option Nat) (env : MemEnv) (k : Nat), officeOf addr = some k ∧ k < 24) ∧
    (∃ (s : State) (req : Requester) (addr : Nat) (data : List Byte) (tkt : Option Nat) (env : MemEnv) (k : Nat) (d : List Byte), officeOf addr = some k ∧ k < 24 ∧ s.mustWait { s.access req addr data.length true data with tkt := tkt } = false ∧ (s.carry { s.access req addr data.length true data with tkt := tkt } (Access.isLocal { s.access req addr data.length true data with tkt := tkt }) false env).1 = .ok d) ∧
    (∃ (s : State) (k : Nat) (env : MemEnv) (a : Access) (cacheable : Bool) (back : Back) (since : Nat), s.held[k]? = some (.access a cacheable back since) ∧ s.mayServe k (.access a cacheable back since) = true ∧ (State.carry { s.picked a with held := s.held.eraseIdx k } a a.isLocal cacheable env).1 ≠ .held) ∧
    (∃ (s : State) (k : Nat) (env : MemEnv) (o : Nat) (a : Access) (off len : Nat) (back : Back), s.held[k]? = some (.ticket o a off len back) ∧ s.mayServe k (.ticket o a off len back) = true ∧ s.officeHolds o = false) :=
  ⟨⟨live, (.island 0), (0x40000000), (4), (false), (false), ([]), (false), (none), (({} : MemEnv)), ([0, 0, 0, 0]), by decide +kernel⟩,
   ⟨live, (.island 0), (0x40000000), ([1#8, 2#8, 3#8, 4#8]), (none), (({} : MemEnv)), (0), by decide +kernel⟩,
   ⟨live, (.island 0), (0x40000000), ([1#8, 2#8, 3#8, 4#8]), (none), (({} : MemEnv)), (0), ([]), by decide +kernel⟩,
   ⟨{ live with held := [.access (live.access (.island 0) 0x40000000 4 false []) false .here 0] }, (0), (({} : MemEnv)), (live.access (.island 0) 0x40000000 4 false []), (false), (.here), (0), by decide +kernel⟩,
   ⟨{ live with held := [.ticket 0 (live.access (.island 0) 0x40000000 64 true []) 0 64 .here] }, (0), (({} : MemEnv)), (0), (live.access (.island 0) 0x40000000 64 true []), (0), (64), (.here), by decide +kernel⟩⟩

theorem test_witness_AngleSourceEvents :
    (∃ (s : State) (i : Nat) (rising : Bool) (pulse t : Nat), i < 4 ∧ (s.tickTo t).tracking = true ∧ (s.tickTo t).srcOn i = true ∧ (s.tickTo t).getF (srcCfg i) 23 16 * 40 ≤ pulse) ∧
    (∃ (s : State) (i : Nat) (rising : Bool) (pulse t : Nat), i < 4 ∧ (s.tickTo t).tracking = true ∧ (s.tickTo t).srcOn i = true ∧ pulse < (s.tickTo t).getF (srcCfg i) 23 16 * 40) ∧
    (∃ (s : State) (i t r : Nat), i < 4 ∧ (s.tickTo t).tracking = true ∧ (s.tickTo t).srcOn i = true ∧ (s.tickTo t).getF (srcCfg i) 13 12 = 1 ∧ ((s.tickTo t).src i).rise = some r ∧ ((s.tickTo t).src i).rev = none ∧ r + (s.tickTo t).getF (srcCfg i) 31 24 * 400 ≤ t) ∧
    (∃ (s : State) (m : Nat) (up z : Bool) (t : Nat), m < 2 ∧ (s.tickTo t).tracking = true ∧ (s.tickTo t).getF (Reg.ANGLE_MPOS_CFG m) 1 0 = 1) ∧
    (∃ (s : State) (m word t : Nat), m < 2 ∧ (s.tickTo t).tracking = true ∧ (s.tickTo t).getF (Reg.ANGLE_MPOS_CFG m) 1 0 = 2) ∧
    (∃ (s : State) (i t : Nat), i < 6 ∧ (s.tickTo t).tracking = true ∧ (s.tickTo t).srcOn i = true ∧ (s.tickTo t).srcState i ≠ SrcSt.LOST ∧ (s.tickTo t).silentDue i = true) ∧
    (∃ (s : State) (t t1 n : Nat) (l : List (Nat × Nat)), (s.tickTo t).ang.msgs = (t1, n) :: l ∧ (s.tickTo t).tracking = true ∧ (s.tickTo t).ang.spdOk = true ∧ 400000 * (s.tickTo t).getF Reg.ANGLE_SPD_CFG 15 0 < (s.tickTo t).clk.base - t1) ∧
    (∃ (s : State) (d t : Nat), d < 3 ∧ ((s.tickTo t).tracking || ((s.tickTo t).cascOn && decide ((s.tickTo t).getF Reg.CASC_STAT 2 0 = 4))) = true ∧ (s.tickTo t).acquiring d = false ∧ (s.tickTo t).effQ d = 0 ∧ (s.tickTo t).bit (Reg.ANGLE_DOM_STAT d) 15 = false ∧ ((s.tickTo t).adom d).holdAt + 400000 * (s.tickTo t).getF (Reg.ANGLE_DOM_LIMITS d) 23 8 ≤ (s.tickTo t).clk.base) :=
  ⟨⟨(live.wr (srcCfg 0) 0x000A4230), (0), (true), (1000), (100), by decide +kernel⟩,
   ⟨(live.wr (srcCfg 0) 0x000A4230), (0), (true), (0), (100), by decide +kernel⟩,
   ⟨((live.wr (srcCfg 0) 0x010A5030).setSrc 0 fun x => { x with rise := some 5 }), (0), (100000), (5), by decide +kernel⟩,
   ⟨(live.wr (Reg.ANGLE_MPOS_CFG 0) 1), (0), (true), (true), (5), by decide +kernel⟩,
   ⟨(live.wr (Reg.ANGLE_MPOS_CFG 0) 0xF2), (0), (77), (9), by decide +kernel⟩,
   ⟨(((live.wr (srcCfg 0) 0x000A4230).wr (srcCfg 1) 0x000A4230).wr (srcStat 0) 2 |>.wr (srcStat 1) 2 |>.wr (Reg.ANGLE_DOM_ALT 0) 0x7771 |>.setSrc 0 (fun x => { x with teeth := [(0, 0)], per := 100 }) |>.setSrc 1 fun x => { x with teeth := [(0, 0), (0, 0)], speed := turn / 40000000 }), (0), (4000000), by decide +kernel⟩,
   ⟨{ live with ang := { live.ang with msgs := [(0, 100)], spdOk := true } }, (400000000), (0), (100), ([]), by decide +kernel⟩,
   ⟨(live.wr (Reg.ANGLE_DOM_STAT 0) 0x70), (0), (0xFFFFFFFFFF), by decide +kernel⟩⟩

theorem test_witness_AngleCommands :
    (∃ (s : State) (t : Nat), (s.tickTo t).aEntry = true) ∧
    (∃ (s : State) (t : Nat), (s.tickTo t).aEntry = true) ∧
    (∃ (s : State) (req : Requester) (n value : Nat), n < 64 ∧ s.verdict req (Reg.ANGLE_ALM_CFG n) 4 true = .go) ∧
    (∃ (s : State) (req : Requester) (n value : Nat), n < 64 ∧ s.verdict req (Reg.ANGLE_ALM_CFG n) 4 true = .go ∧ (State.regStore (s.respOk []) req (Reg.ANGLE_ALM_CFG n) value).bit (Reg.ANGLE_ALM_CFG n) 0 = false) ∧
    (∃ (s : State) (req : Requester) (value : Nat), s.verdict req Reg.ANGLE_CTL 4 true = .go) ∧
    (∃ (s : State) (req : Requester) (i value : Nat), i < 7 ∧ s.verdict req (srcCfg i) 4 true = .go) ∧
    (∃ (s : State) (req : Requester) (value : Nat), s.verdict req Reg.ANGLE_PRED_CTL 4 true = .go) ∧
    (∃ (s : State) (req : Requester) (value : Nat), s.verdict req (Reg.ANGLE_PRED_CTL) 4 true = .go ∧ value.testBit 31 = true ∧ value % 4 ≠ 3) ∧
    (∃ (s : State) (req : Requester) (value : Nat), s.verdict req Reg.ANGLE_LOG_POP 4 true = .go) ∧
    (∃ (s : State) (req : Requester) (value : Nat), s.verdict req (Reg.ANGLE_LOG_POP) 4 true = .go ∧ value.testBit 0 = true) ∧
    (∃ (s : State) (p : Nat) (offset : Int) (locks : Bool) (t : Nat), p < 4 ∧ (s.tickTo t).released Blk.ETH = true ∧ (s.tickTo t).gwReady p = true ∧ (s.tickTo t).ptpRole p = 2 ∧ (s.tickTo t).bit (Reg.ETH_PTP_STAT p) 0 = true) ∧
    (∃ (s : State) (p delay t : Nat), p < 4 ∧ (s.tickTo t).released Blk.ETH = true ∧ (s.tickTo t).gwReady p = true) ∧
    (∃ (s : State) (p delay t : Nat), p < 4 ∧ (s.tickTo t).released Blk.ETH = true ∧ (s.tickTo t).gwReady p = true ∧ (s.tickTo t).bit (Reg.ETH_PTP_STAT p) 0 = false) ∧
    (∃ (s : State) (p t : Nat), p < 4 ∧ (s.tickTo t).released Blk.ETH = true ∧ (s.tickTo t).gwReady p = true ∧ (s.tickTo t).ptpRole p = 1) ∧
    (∃ (s : State) (t : Nat), (s.tickTo t).slavePort.isSome = true) ∧
    (∃ (s : State), s.aEntry = true ∧ s.bit Reg.ANGLE_STAT 0 = true) :=
  ⟨⟨live, (400), by decide +kernel⟩,
   ⟨live, (400), by decide +kernel⟩,
   ⟨live, (.island 0), (0), (0), by decide +kernel⟩,
   ⟨live, (.island 0), (0), (0), by decide +kernel⟩,
   ⟨live, (.island 0), (1), by decide +kernel⟩,
   ⟨live, (.island 0), (0), (0x000A8030), by decide +kernel⟩,
   ⟨live, (.island 0), (0x80000000), by decide +kernel⟩,
   ⟨live, (.island 0), (0x80000000), by decide +kernel⟩,
   ⟨live, (.island 0), (1), by decide +kernel⟩,
   ⟨live, (.island 0), (1), by decide +kernel⟩,
   ⟨((((live.wr Reg.GW_CTL 1).wr (Reg.ETH_CTL 0) 3).wr (Reg.ETH_STAT 0) 1).wr (Reg.ETH_PTP_CFG 0) 2 |>.wr (Reg.ETH_PTP_STAT 0) 1), (0), (0), (true), (10), by decide +kernel⟩,
   ⟨((((live.wr Reg.GW_CTL 1).wr (Reg.ETH_CTL 0) 3).wr (Reg.ETH_STAT 0) 1).wr (Reg.ETH_PTP_CFG 0) 2), (0), (500), (0), by decide +kernel⟩,
   ⟨((((live.wr Reg.GW_CTL 1).wr (Reg.ETH_CTL 0) 3).wr (Reg.ETH_STAT 0) 1).wr (Reg.ETH_PTP_CFG 0) 2), (0), (500), (0), by decide +kernel⟩,
   ⟨((((live.wr Reg.GW_CTL 1).wr (Reg.ETH_CTL 0) 3).wr (Reg.ETH_STAT 0) 1).wr (Reg.ETH_PTP_CFG 0) 1), (0), (10), by decide +kernel⟩,
   ⟨((((live.wr Reg.GW_CTL 1).wr (Reg.ETH_CTL 0) 3).wr (Reg.ETH_STAT 0) 1).wr (Reg.ETH_PTP_CFG 0) 2 |>.wr Reg.ANGLE_TIME_STAT 2), (10), by decide +kernel⟩,
   ⟨(live.wr Reg.ANGLE_STAT 1), by decide +kernel⟩⟩

theorem test_witness_ResetPins :
    (∃ (s : State) (t : Nat), ({ (s.tickTo t) with boot := { (s.tickTo t).boot with poresetN := false } }).boot.aon = true) ∧
    (∃ (s : State) (straps : Nat) (inRange : Bool) (t : Nat), (s.tickTo t).boot.poresetN = false) ∧
    (∃ (s : State) (t : Nat), ({ (s.tickTo t) with boot := { (s.tickTo t).boot with warmresetN := false } }).boot.aon = true ∧ ({ (s.tickTo t) with boot := { (s.tickTo t).boot with warmresetN := false } }).boot.parked = false ∧ ({ (s.tickTo t) with boot := { (s.tickTo t).boot with warmresetN := false } }).boot.held = false) ∧
    (∃ (s : State) (req : Requester) (value : Nat), s.verdict req Reg.RST_SWRST 4 true = .go) ∧
    (∃ (s : State) (req : Requester), s.verdict req Reg.RST_SWRST 4 true = .go) ∧
    (∃ (s : State) (rail t : Nat), 2 ≤ rail ∧ rail ≤ 9 ∧ (s.tickTo t).monitored = true) ∧
    (∃ (s : State) (rail t : Nat), 2 ≤ rail ∧ rail ≤ 9 ∧ (s.tickTo t).monitored = true) ∧
    (∃ (s : State) (t : Nat), (s.tickTo t).monitored = true) ∧
    (∃ (s : State) (t : Nat), (s.tickTo t).monitored = true) ∧
    (∃ (s : State) (straps t : Nat), (s.tickTo t).boot.supply = true ∧ (s.tickTo t).boot.aon = true) ∧
    (∃ (s : State) (t : Nat), (s.tickTo t).boot.aon = false) ∧
    (∃ (s : State) (t : Nat), (s.tickTo t).boot.railsWait = true) :=
  ⟨⟨live, (3), by decide +kernel⟩,
   ⟨{ live with boot := { live.boot with poresetN := false } }, (0), (true), (3), by decide +kernel⟩,
   ⟨live, (3), by decide +kernel⟩,
   ⟨live, (.island 0), (0xA5), by decide +kernel⟩,
   ⟨live, (.island 0), by decide +kernel⟩,
   ⟨live, (3), (5), by decide +kernel⟩,
   ⟨live, (3), (5), by decide +kernel⟩,
   ⟨live, (5), by decide +kernel⟩,
   ⟨live, (5), by decide +kernel⟩,
   ⟨{ live with boot := { live.boot with supply := true } }, (0), (3), by decide +kernel⟩,
   ⟨{ live with boot := { live.boot with aon := false } }, (3), by decide +kernel⟩,
   ⟨{ live with boot := { live.boot with railsWait := true } }, (3), by decide +kernel⟩⟩

theorem test_witness_StartCommands :
    (∃ (s : State) (low : Bool), s.pcieRoot = false) ∧
    (∃ (s : State), (if s.pcieRoot = true then s.cEntry = true else s.aEntry = true ∧ s.boot.perstN = true)) ∧
    (∃ (s : State) (t : Nat), (s.tickTo t).pcieRoot = false ∧ (s.tickTo t).boot.pcieLink = true) ∧
    (∃ (s : State) (err0 err1 slot0 slot1 : Bool) (t : Nat), (s.tickTo t).boot.held = false ∧ (s.tickTo t).boot.romStarted = false ∧ (s.tickTo t).boot.railsWait = false) ∧
    (∃ (s : State) (k : Nat) (err : Bool) (t : Nat), (s.tickTo t).verifying k = true) ∧
    (∃ (s : State) (req : Requester) (value : Nat), s.verdict req Reg.RST_STAGE_CTL 4 true = .go) ∧
    (∃ (s : State) (req : Requester) (value : Nat), s.verdict req Reg.RST_STAGE_CTL 4 true = .go ∧ value.testBit 0 = true ∧ s.cEntry = true) ∧
    (∃ (s : State) (t : Nat), (s.tickTo t).cEntry = true ∧ (s.tickTo t).cDecl = false ∧ (s.tickTo t).pastLimit = true) ∧
    (∃ (s : State) (t : Nat), (s.tickTo t).recovering = true ∧ (s.tickTo t).dbg.recState = 3) :=
  ⟨⟨live, (true), by decide +kernel⟩,
   ⟨live, by decide +kernel⟩,
   ⟨{ live with boot := { live.boot with pcieLink := true } }, (3), by decide +kernel⟩,
   ⟨{ live with boot := { live.boot with romStarted := false } }, (false), (false), (false), (false), (3), by decide +kernel⟩,
   ⟨{ live with boot := { live.boot with voiceOk := false } }, (1), (true), (3), by decide +kernel⟩,
   ⟨live, (.island 0), (1), by decide +kernel⟩,
   ⟨live, (.island 0), (1), by decide +kernel⟩,
   ⟨(live.wr Reg.RST_STAGE 0xF), (40000000000), by decide +kernel⟩,
   ⟨{ recS with dbg := { live.dbg with recState := 3 } }, (0), by decide +kernel⟩⟩

theorem test_witness_StowCommands :
    (∃ (s : State) (req : Requester) (value : Nat), s.verdict req Reg.RSTATE_STOW_CTL 4 true = .go) ∧
    (∃ (s : State) (req : Requester) (value : Nat), s.verdict req (Reg.RSTATE_STOW_CTL) 4 true = .go ∧ value.testBit 0 = true ∧ (State.regStore (s.respOk []) req Reg.RSTATE_STOW_CTL (value / 2 * 2)).bit Reg.RSTATE_STOW_STAT 0 = false ∧ (State.regStore (s.respOk []) req Reg.RSTATE_STOW_CTL (value / 2 * 2)).bit Reg.RSTATE_STOW_STAT 2 = false) ∧
    (∃ (s : State) (t : Nat) (w : Stow), (s.tickTo t).boot.stow = some w) ∧
    (∃ (s : State) (fail t : Nat), (s.tickTo t).bit (Reg.RSTATE_STOW_STAT) 2 = true) :=
  ⟨⟨live, (.island 0), (1), by decide +kernel⟩,
   ⟨live, (.island 0), (1), by decide +kernel⟩,
   ⟨{ live with boot := { live.boot with stow := some { magic := 0, flash := false } } }, (0), ({ magic := 0, flash := false }), by decide +kernel⟩,
   ⟨(live.wr Reg.RSTATE_STOW_STAT 4), (0), (0), by decide +kernel⟩⟩

theorem test_witness_PowerCommands :
    (∃ (s : State) (cpu : Nat) (pcie : Bool) (power : List Nat) (t : Nat), (s.tickTo t).aEntry = true ∧ (s.tickTo t).boot.parked = false) ∧
    (∃ (s : State) (d t v : Nat), ((s.tickTo t).domains.getD d {}).exit = some v ∧ (s.tickTo t).tripHolds d = false ∧ ¬(d < 16 ∧ (s.tickTo t).dom d = 3 ∧ (s.tickTo t).groveClearing d)) ∧
    (∃ (s : State) (req : Requester) (value : Nat), s.verdict req Reg.PMU_PARK 4 true = .go) ∧
    (∃ (s : State) (req : Requester), s.verdict req Reg.PMU_PARK 4 true = .go ∧ s.park.stage = 0 ∧ (s.respOk []).parkWaits = false) ∧
    (∃ (s : State) (t : Nat), (s.tickTo t).park.stage ≠ 0 ∧ (s.tickTo t).parkWaits = false) ∧
    (∃ (s : State) (t : Nat), (s.tickTo t).park.stage ≠ 0 ∧ (s.tickTo t).parkWaits = true) ∧
    (∃ (s : State) (t : Nat), (s.tickTo t).bit Reg.PMU_WAKE_CFG 16 = true) ∧
    (∃ (s : State) (t : Nat), (s.tickTo t).boot.parked = true ∧ (s.tickTo t).bit Reg.PMU_WAKE_CFG 17 = true ∧ (s.tickTo t).park.entered + 400000000 * (s.tickTo t).rd Reg.PMU_WAKE_TIMER ≤ (s.tickTo t).clk.base) ∧
    (∃ (s : State) (n kind id t : Nat), n < 16 ∧ (s.tickTo t).bit Reg.PMU_WAKE_CFG n = true ∧ if (s.tickTo t).bit Reg.PMU_WAKE_CFG 18 then kind = 1 ∧ id &&& ((s.tickTo t).rd Reg.PMU_WAKE_IDM) = (s.tickTo t).rd Reg.PMU_WAKE_ID &&& ((s.tickTo t).rd Reg.PMU_WAKE_IDM) else kind = 0) :=
  ⟨⟨live, (0), (true), ([]), (0), by decide +kernel⟩,
   ⟨{ live with domains := updAt live.domains 3 fun D => { D with exit := some 0 } }, (3), (0), (0), by decide +kernel⟩,
   ⟨live, (.island 0), (0x5041), by decide +kernel⟩,
   ⟨live, (.island 0), by decide +kernel⟩,
   ⟨{ live with park := { live.park with stage := 1 } }, (0), by decide +kernel⟩,
   ⟨({ live with park := { live.park with stage := 1 } }).wr Reg.RSTATE_STOW_STAT 1, (0), by decide +kernel⟩,
   ⟨(live.wr Reg.PMU_WAKE_CFG 0x10000), (0), by decide +kernel⟩,
   ⟨({ live with boot := { live.boot with parked := true } }.wr Reg.PMU_WAKE_CFG 0x20000).wr Reg.PMU_WAKE_TIMER 1, (800000000), by decide +kernel⟩,
   ⟨((live.wr Reg.PMU_WAKE_CFG 0x40004).wr Reg.PMU_WAKE_ID 0x123).wr Reg.PMU_WAKE_IDM 0xFF0, (2), (1), (0x120), (0), by decide +kernel⟩⟩

theorem test_witness_EnergyAndHeat :
    (∃ (s : State) (t : Nat), (s.coreTick t).cEntry = true) ∧
    (∃ (s : State) (p t : Nat) (j : Job), (s.coreTick t).headJob p = some j ∧ j.ph = .queued ∧ (s.coreTick t).park.stage < 2) ∧
    (∃ (s : State) (g : Nat), g < 16 ∧ s.cEntry = true) ∧
    (∃ (s : State) (meas : List Int) (switching t : Nat), (s.tickTo t).boot.held = false ∧ (s.tickTo t).boot.parked = false ∧ (meas.length != 24) = false) ∧
    (∃ (s : State) (t : Nat), (s.tickTo t).aEntry = true ∧ (s.tickTo t).boot.parked = false ∧ (s.tickTo t).bit Reg.THERM_CTL 0 = true ∧ (s.tickTo t).bit Reg.THERM_TRIP_STAT 0 = false) ∧
    (∃ (s : State) (req : Requester) (value : Nat), s.verdict req Reg.THERM_TRIP_CLR 4 true = .go ∧ s.world req = true) ∧
    (∃ (s : State) (req : Requester) (value : Nat), s.verdict req Reg.THERM_TRIP_CLR 4 true = .go ∧ s.world req = true ∧ value.testBit 0 = true ∧ (List.range 24).any (State.tsValid (s.respOk [])) = true ∧ ((List.range 24).all fun i => !State.tsValid (s.respOk []) i || decide (State.temp (s.respOk []) i < State.tCrit (s.respOk []) - State.tHyst (s.respOk []))) = true) :=
  ⟨⟨live, (0), by decide +kernel⟩,
   ⟨{ live with jobs := [jobW .queued []] }.wr Reg.DISP_CTL 1, (0), (0), (jobW .queued []), by decide +kernel⟩,
   ⟨live, (0), by decide +kernel⟩,
   ⟨live, (List.replicate 24 400), (0), (0), by decide +kernel⟩,
   ⟨(live.wr Reg.THERM_CTL 1), (0), by decide +kernel⟩,
   ⟨live, (.island 0), (1), by decide +kernel⟩,
   ⟨(live.wr (Reg.THERM_TS 0) (0x80000000 + 300)), (.island 0), (1), by decide +kernel⟩⟩

theorem test_witness_CoolingCommands :
    (∃ (s : State) (code t : Nat), (s.tickTo t).aEntry = true ∧ (s.tickTo t).boot.parked = false ∧ (s.tickTo t).bit Reg.THERM_COOL_CFG 0 = false) ∧
    (∃ (s : State) (t : Nat), (s.tickTo t).aEntry = true ∧ (s.tickTo t).bit Reg.THERM_COOL_CFG 0 = true ∧ (s.tickTo t).therm.coolAt + 400000000 < (s.tickTo t).clk.base) ∧
    (∃ (s : State) (pump fan t : Nat), (s.tickTo t).aEntry = true ∧ (s.tickTo t).boot.parked = false) ∧
    (∃ (s : State) (t : Nat), (s.tickTo t).aEntry = true ∧ (s.tickTo t).bit Reg.THERM_COOL_CFG 3 = true ∧ ((s.tickTo t).therm.due ∨ (s.tickTo t).therm.reqAt + 4000000 * (s.tickTo t).getF Reg.THERM_COOL_CFG 15 8 ≤ (s.tickTo t).clk.base)) :=
  ⟨⟨live, (512), (0), by decide +kernel⟩,
   ⟨(live.wr Reg.THERM_COOL_CFG 1), (400000001), by decide +kernel⟩,
   ⟨live, (100), (100), (0), by decide +kernel⟩,
   ⟨(live.wr Reg.THERM_COOL_CFG 8), (0), by decide +kernel⟩⟩

theorem test_witness_SecCommands :
    (∃ (s : State) (src aux : MemEnv) (e : Nat) (c : SecCmd) (w : State) (r : Nat × State) (v : State), s.secNext = some (e, c, w) ∧ c.op = 0x01 ∧ w.secEncrypt c ⟨src, aux, true⟩ = some r ∧ r.2.secFinish e c.flags r.1 = some v) ∧
    (∃ (s : State) (src aux : MemEnv) (e : Nat) (c : SecCmd) (w : State) (r : Nat × State) (v : State), s.secNext = some (e, c, w) ∧ c.op = 0x02 ∧ w.secDecrypt c ⟨src, aux, true⟩ = some r ∧ r.2.secFinish e c.flags r.1 = some v) ∧
    (∃ (s : State) (src : MemEnv) (e : Nat) (c : SecCmd) (w : State) (r : Nat × State) (v : State), s.secNext = some (e, c, w) ∧ c.op = 0x10 ∧ w.secSha c ⟨src, {}, true⟩ 256 = some r ∧ r.2.secFinish e c.flags r.1 = some v) ∧
    (∃ (s : State) (src : MemEnv) (e : Nat) (c : SecCmd) (w : State) (r : Nat × State) (v : State), s.secNext = some (e, c, w) ∧ c.op = 0x11 ∧ w.secSha c ⟨src, {}, true⟩ 384 = some r ∧ r.2.secFinish e c.flags r.1 = some v) ∧
    (∃ (s : State) (src : MemEnv) (e : Nat) (c : SecCmd) (w : State) (r : Nat × State) (v : State), s.secNext = some (e, c, w) ∧ c.op = 0x12 ∧ w.secSha c ⟨src, {}, true⟩ 512 = some r ∧ r.2.secFinish e c.flags r.1 = some v) ∧
    (∃ (s : State) (src : MemEnv) (e : Nat) (c : SecCmd) (w : State) (r : Nat × State) (v : State), s.secNext = some (e, c, w) ∧ c.op = 0x13 ∧ w.secHmac c ⟨src, {}, true⟩ = some r ∧ r.2.secFinish e c.flags r.1 = some v) ∧
    (∃ (s : State) (src aux : MemEnv) (e : Nat) (c : SecCmd) (w : State) (r : Nat × State) (v : State), s.secNext = some (e, c, w) ∧ c.op = 0x20 ∧ w.secVerify c ⟨src, aux, true⟩ 48 96 96 Config.ecdsaVerify = some r ∧ r.2.secFinish e c.flags r.1 = some v) ∧
    (∃ (s : State) (src : MemEnv) (e : Nat) (c : SecCmd) (w : State) (r : Nat × State) (v : State), s.secNext = some (e, c, w) ∧ c.op = 0x21 ∧ w.secSign c ⟨src, {}, true⟩ 48 Config.ecdsaSign = some r ∧ r.2.secFinish e c.flags r.1 = some v) ∧
    (∃ (s : State) (src aux : MemEnv) (e : Nat) (c : SecCmd) (w : State) (r : Nat × State) (v : State), s.secNext = some (e, c, w) ∧ c.op = 0x22 ∧ w.secVerify c ⟨src, aux, true⟩ c.len 1952 3309 Config.mldsaVerify = some r ∧ r.2.secFinish e c.flags r.1 = some v) ∧
    (∃ (s : State) (src : MemEnv) (e : Nat) (c : SecCmd) (w : State) (r : Nat × State) (v : State), s.secNext = some (e, c, w) ∧ c.op = 0x23 ∧ w.secSign c ⟨src, {}, true⟩ c.len Config.mldsaSign = some r ∧ r.2.secFinish e c.flags r.1 = some v) ∧
    (∃ (s : State) (src : MemEnv) (e : Nat) (c : SecCmd) (w : State) (r : Nat × State) (v : State), s.secNext = some (e, c, w) ∧ c.op = 0x24 ∧ w.secDual c ⟨src, {}, true⟩ = some r ∧ r.2.secFinish e c.flags r.1 = some v) ∧
    (∃ (s : State) (aux : MemEnv) (e : Nat) (c : SecCmd) (w : State) (r : Nat × State) (v : State), s.secNext = some (e, c, w) ∧ c.op = 0x30 ∧ w.secDerive c ⟨{}, aux, true⟩ = some r ∧ r.2.secFinish e c.flags r.1 = some v) ∧
    (∃ (s : State) (e : Nat) (c : SecCmd) (w : State) (r : Nat × State) (v : State), s.secNext = some (e, c, w) ∧ c.op = 0x32 ∧ w.secClearKey c = some r ∧ r.2.secFinish e c.flags r.1 = some v) ∧
    (∃ (s : State) (e : Nat) (c : SecCmd) (w : State) (r : Nat × State) (v : State), s.secNext = some (e, c, w) ∧ c.op = 0x33 ∧ w.secExport c = some r ∧ r.2.secFinish e c.flags r.1 = some v) ∧
    (∃ (s : State) (e : Nat) (c : SecCmd) (w : State) (r : Nat × State) (v : State), s.secNext = some (e, c, w) ∧ c.op = 0x40 ∧ w.secRandom c = some r ∧ r.2.secFinish e c.flags r.1 = some v) ∧
    (∃ (s : State) (ok : Bool) (e : Nat) (c : SecCmd) (w : State) (r : Nat × State) (v : State), s.secNext = some (e, c, w) ∧ c.op = 0x50 ∧ w.secRevoke c ⟨{}, {}, ok⟩ = some r ∧ r.2.secFinish e c.flags r.1 = some v) ∧
    (∃ (s : State) (ok : Bool) (e : Nat) (c : SecCmd) (w : State) (r : Nat × State) (v : State), s.secNext = some (e, c, w) ∧ c.op = 0x51 ∧ w.secRollback c ⟨{}, {}, ok⟩ = some r ∧ r.2.secFinish e c.flags r.1 = some v) ∧
    (∃ (s : State) (aux : MemEnv) (ok : Bool) (e : Nat) (c : SecCmd) (w : State) (r : Nat × State) (v : State), s.secNext = some (e, c, w) ∧ c.op = 0x52 ∧ w.secAdvance c ⟨{}, aux, ok⟩ = some r ∧ r.2.secFinish e c.flags r.1 = some v) ∧
    (∃ (s : State) (e : Nat) (c : SecCmd) (w v : State), s.secNext = some (e, c, w) ∧ c.op ∉ [0x01, 0x02, 0x10, 0x11, 0x12, 0x13, 0x20, 0x21, 0x22, 0x23, 0x24, 0x30, 0x32, 0x33, 0x40, 0x50, 0x51, 0x52] ∧ w.secFinish e c.flags SecRes.BAD_OPCODE = some v) :=
  ⟨(let ⟨e, c, w, r, v, h1, h2, h3, h4⟩ := sec_some (st := secS 0x01) (P := fun c => c.op = 0x01) (f := fun w c => w.secEncrypt c ⟨({} : MemEnv), ({} : MemEnv), true⟩) (by decide +kernel)
    ⟨secS 0x01, (({} : MemEnv)), (({} : MemEnv)), e, c, w, r, v, h1, h2, h3, h4⟩),
   (let ⟨e, c, w, r, v, h1, h2, h3, h4⟩ := sec_some (st := secS 0x02) (P := fun c => c.op = 0x02) (f := fun w c => w.secDecrypt c ⟨({} : MemEnv), ({} : MemEnv), true⟩) (by decide +kernel)
    ⟨secS 0x02, (({} : MemEnv)), (({} : MemEnv)), e, c, w, r, v, h1, h2, h3, h4⟩),
   (let ⟨e, c, w, r, v, h1, h2, h3, h4⟩ := sec_some (st := (((secS 0x10).setBytes (storeBase + 4) [1]).setBytes (storeBase + 8) (List.replicate 6 0xFF))) (P := fun c => c.op = 0x10) (f := fun w c => w.secSha c ⟨({} : MemEnv), {}, true⟩ 256) (by decide +kernel)
    ⟨(((secS 0x10).setBytes (storeBase + 4) [1]).setBytes (storeBase + 8) (List.replicate 6 0xFF)), (({} : MemEnv)), e, c, w, r, v, h1, h2, h3, h4⟩),
   (let ⟨e, c, w, r, v, h1, h2, h3, h4⟩ := sec_some (st := (((secS 0x11).setBytes (storeBase + 4) [1]).setBytes (storeBase + 8) (List.replicate 6 0xFF))) (P := fun c => c.op = 0x11) (f := fun w c => w.secSha c ⟨({} : MemEnv), {}, true⟩ 384) (by decide +kernel)
    ⟨(((secS 0x11).setBytes (storeBase + 4) [1]).setBytes (storeBase + 8) (List.replicate 6 0xFF)), (({} : MemEnv)), e, c, w, r, v, h1, h2, h3, h4⟩),
   (let ⟨e, c, w, r, v, h1, h2, h3, h4⟩ := sec_some (st := (((secS 0x12).setBytes (storeBase + 4) [1]).setBytes (storeBase + 8) (List.replicate 6 0xFF))) (P := fun c => c.op = 0x12) (f := fun w c => w.secSha c ⟨({} : MemEnv), {}, true⟩ 512) (by decide +kernel)
    ⟨(((secS 0x12).setBytes (storeBase + 4) [1]).setBytes (storeBase + 8) (List.replicate 6 0xFF)), (({} : MemEnv)), e, c, w, r, v, h1, h2, h3, h4⟩),
   (let ⟨e, c, w, r, v, h1, h2, h3, h4⟩ := sec_some (st := secS 0x13) (P := fun c => c.op = 0x13) (f := fun w c => w.secHmac c ⟨({} : MemEnv), {}, true⟩) (by decide +kernel)
    ⟨secS 0x13, (({} : MemEnv)), e, c, w, r, v, h1, h2, h3, h4⟩),
   (let ⟨e, c, w, r, v, h1, h2, h3, h4⟩ := sec_some (st := secS 0x20) (P := fun c => c.op = 0x20) (f := fun w c => w.secVerify c ⟨({} : MemEnv), ({} : MemEnv), true⟩ 48 96 96 Config.ecdsaVerify) (by decide +kernel)
    ⟨secS 0x20, (({} : MemEnv)), (({} : MemEnv)), e, c, w, r, v, h1, h2, h3, h4⟩),
   (let ⟨e, c, w, r, v, h1, h2, h3, h4⟩ := sec_some (st := secS 0x21) (P := fun c => c.op = 0x21) (f := fun w c => w.secSign c ⟨({} : MemEnv), {}, true⟩ 48 Config.ecdsaSign) (by decide +kernel)
    ⟨secS 0x21, (({} : MemEnv)), e, c, w, r, v, h1, h2, h3, h4⟩),
   (let ⟨e, c, w, r, v, h1, h2, h3, h4⟩ := sec_some (st := secS 0x22) (P := fun c => c.op = 0x22) (f := fun w c => w.secVerify c ⟨({} : MemEnv), ({} : MemEnv), true⟩ c.len 1952 3309 Config.mldsaVerify) (by decide +kernel)
    ⟨secS 0x22, (({} : MemEnv)), (({} : MemEnv)), e, c, w, r, v, h1, h2, h3, h4⟩),
   (let ⟨e, c, w, r, v, h1, h2, h3, h4⟩ := sec_some (st := secS 0x23) (P := fun c => c.op = 0x23) (f := fun w c => w.secSign c ⟨({} : MemEnv), {}, true⟩ c.len Config.mldsaSign) (by decide +kernel)
    ⟨secS 0x23, (({} : MemEnv)), e, c, w, r, v, h1, h2, h3, h4⟩),
   (let ⟨e, c, w, r, v, h1, h2, h3, h4⟩ := sec_some (st := secS 0x24) (P := fun c => c.op = 0x24) (f := fun w c => w.secDual c ⟨({} : MemEnv), {}, true⟩) (by decide +kernel)
    ⟨secS 0x24, (({} : MemEnv)), e, c, w, r, v, h1, h2, h3, h4⟩),
   (let ⟨e, c, w, r, v, h1, h2, h3, h4⟩ := sec_some (st := secS 0x30) (P := fun c => c.op = 0x30) (f := fun w c => w.secDerive c ⟨{}, ({} : MemEnv), true⟩) (by decide +kernel)
    ⟨secS 0x30, (({} : MemEnv)), e, c, w, r, v, h1, h2, h3, h4⟩),
   (let ⟨e, c, w, r, v, h1, h2, h3, h4⟩ := sec_some (st := secS 0x32) (P := fun c => c.op = 0x32) (f := fun w c => w.secClearKey c) (by decide +kernel)
    ⟨secS 0x32, e, c, w, r, v, h1, h2, h3, h4⟩),
   (let ⟨e, c, w, r, v, h1, h2, h3, h4⟩ := sec_some (st := secS 0x33) (P := fun c => c.op = 0x33) (f := fun w c => w.secExport c) (by decide +kernel)
    ⟨secS 0x33, e, c, w, r, v, h1, h2, h3, h4⟩),
   (let ⟨e, c, w, r, v, h1, h2, h3, h4⟩ := sec_some (st := secS 0x40) (P := fun c => c.op = 0x40) (f := fun w c => w.secRandom c) (by decide +kernel)
    ⟨secS 0x40, e, c, w, r, v, h1, h2, h3, h4⟩),
   (let ⟨e, c, w, r, v, h1, h2, h3, h4⟩ := sec_some (st := secS 0x50) (P := fun c => c.op = 0x50) (f := fun w c => w.secRevoke c ⟨{}, {}, true⟩) (by decide +kernel)
    ⟨secS 0x50, (true), e, c, w, r, v, h1, h2, h3, h4⟩),
   (let ⟨e, c, w, r, v, h1, h2, h3, h4⟩ := sec_some (st := secS 0x51) (P := fun c => c.op = 0x51) (f := fun w c => w.secRollback c ⟨{}, {}, true⟩) (by decide +kernel)
    ⟨secS 0x51, (true), e, c, w, r, v, h1, h2, h3, h4⟩),
   (let ⟨e, c, w, r, v, h1, h2, h3, h4⟩ := sec_some (st := secS 0x52) (P := fun c => c.op = 0x52) (f := fun w c => w.secAdvance c ⟨{}, ({} : MemEnv), true⟩) (by decide +kernel)
    ⟨secS 0x52, (({} : MemEnv)), (true), e, c, w, r, v, h1, h2, h3, h4⟩),
   (let ⟨e, c, w, r, v, h1, h2, h3, h4⟩ := sec_some (st := secS 0x77) (P := fun c => c.op ∉ [0x01, 0x02, 0x10, 0x11, 0x12, 0x13, 0x20, 0x21, 0x22, 0x23, 0x24, 0x30, 0x32, 0x33, 0x40, 0x50, 0x51, 0x52]) (f := fun w _ => some (SecRes.BAD_OPCODE, w)) (by decide +kernel)
    ⟨secS 0x77, e, c, w, v, h1, h2, by cases h3; exact h4⟩)⟩

theorem test_witness_IslandCommands :
    (∃ (s : State) (req : Requester) (value : Nat), s.verdict req Reg.SEC_HART_HOLD 4 true = .go) ∧
    (∃ (s : State) (req : Requester) (value : Nat), s.verdict req (Reg.SEC_HART_HOLD) 4 true = .go) ∧
    (∃ (s : State) (req : Requester) (i : Nat) (h2s : Bool) (value : Nat), s.verdict req (xmbCtl i h2s) 4 true = .go) ∧
    (∃ (s : State) (req : Requester) (i : Nat) (h2s : Bool) (value : Nat), s.verdict req (xmbCtl i h2s) 4 true = .go ∧ value.testBit 0 = true ∧ s.bit (xmbCtl i h2s) 0 = false) ∧
    (∃ (s : State) (req : Requester) (i : Nat) (h2s : Bool) (value : Nat), s.verdict req (xmbAck i h2s) 4 true = .go) ∧
    (∃ (s : State) (req : Requester) (i : Nat) (h2s : Bool) (value : Nat), s.verdict req (xmbAck i h2s) 4 true = .go ∧ value.testBit 0 = true ∧ s.bit (xmbCtl i h2s) 0 = true) ∧
    (∃ (s : State), s.boot.romStarted = true) ∧
    (∃ (s : State) (p : Nat), p < 2 ∧ s.boot.romStarted = true) ∧
    (∃ (s : State) (p : Nat), p < 2 ∧ s.boot.romStarted = true ∧ s.bit Reg.SAFE_FAULT_OUT (9 - p) = false) ∧
    (∃ (s : State) (req : Requester) (value : Nat), s.verdict req Reg.SAFE_ESCALATE 4 true = .go) :=
  ⟨⟨live, (.island 0), (5), by decide +kernel⟩,
   ⟨live, (.island 0), (5), by decide +kernel⟩,
   ⟨live, (.island 0), (0), (true), (1), by decide +kernel⟩,
   ⟨live, (.island 0), (0), (true), (1), by decide +kernel⟩,
   ⟨live, (.island 0), (0), (false), (1), by decide +kernel⟩,
   ⟨(live.wr (xmbCtl 0 false) 1), (.island 0), (0), (false), (1), by decide +kernel⟩,
   ⟨live, by decide +kernel⟩,
   ⟨live, (0), by decide +kernel⟩,
   ⟨live, (0), by decide +kernel⟩,
   ⟨live, (.island 0), (0x5346), by decide +kernel⟩⟩

theorem test_witness_TapCommands :
    (∃ (s : State) (data sample : List Byte), s.boot.aon = true ∧ s.tapActs 0x00 = true) ∧
    (∃ (s : State), s.boot.aon = true ∧ s.tapActs 0x01 = true) ∧
    (∃ (s : State) (data sample : List Byte), s.boot.aon = true ∧ s.tapActs 0x02 = true) ∧
    (∃ (s : State) (data : List Byte), s.boot.aon = true ∧ s.tapActs 0x04 = true) ∧
    (∃ (s : State) (data : List Byte), s.boot.aon = true ∧ s.tapActs 0x05 = true) ∧
    (∃ (s : State) (code : Nat) (data : List Byte), s.boot.aon = true ∧ code % 256 ∉ [0x00, 0x01, 0x02, 0x04, 0x05, 0x10, 0x11, 0x20, 0x21, 0x22, 0x23, 0x24]) ∧
    (∃ (s : State) (data : List Byte), s.boot.aon = true ∧ s.tapActs 0x10 = true) ∧
    (∃ (s : State) (act : DmiAct) (data : List Byte), s.boot.aon = true ∧ s.tapActs 0x11 = true) :=
  ⟨⟨dbgS, ([]), ([]), by decide +kernel⟩,
   ⟨live, by decide +kernel⟩,
   ⟨live, ([]), ([]), by decide +kernel⟩,
   ⟨dbgS, ([]), by decide +kernel⟩,
   ⟨dbgS, ([]), by decide +kernel⟩,
   ⟨live, (0xFF), ([]), by decide +kernel⟩,
   ⟨dbgS, ([]), by decide +kernel⟩,
   ⟨dbgS, (.halt 0), ([]), by decide +kernel⟩⟩

theorem test_witness_SessionCommands :
    (∃ (s : State) (data : List Byte), s.boot.aon = true ∧ s.tapActs 0x20 = true) ∧
    (∃ (s : State) (token : List Byte) (t : Nat), (s.tickTo t).boot.aon = true ∧ (s.tickTo t).tapActs 0x21 = true) ∧
    (∃ (s : State) (data : List Byte) (fin : Bool), s.boot.aon = true ∧ s.tapActs 0x22 = true) ∧
    (∃ (s : State) (t : Nat), (s.tickTo t).sessionLevel ≠ 0 ∧ (s.tickTo t).dbg.opened + 400000000 * (s.tickTo t).dbg.life ≤ (s.tickTo t).clk.base) ∧
    (∃ (s : State) (word : Nat), s.boot.aon = true ∧ s.tapActs 0x23 = true) ∧
    (∃ (s : State) (data : List Byte), s.boot.aon = true ∧ s.tapActs 0x24 = true) :=
  ⟨⟨live, ([]), by decide +kernel⟩,
   ⟨live, ([]), (0), by decide +kernel⟩,
   ⟨live, ([]), (false), by decide +kernel⟩,
   ⟨dbgS, (0xFFFFFFFFFFF), by decide +kernel⟩,
   ⟨recS, (77), by decide +kernel⟩,
   ⟨recS, ([]), by decide +kernel⟩⟩

theorem test_witness_RingCommands :
    (∃ (s : State) (req : Requester) (i value : Nat), i < 64 ∧ s.verdict req (Reg.RING_SQ_TAIL i) 4 true = .go) ∧
    (∃ (s : State) (req : Requester) (i value : Nat), s.verdict req (Reg.RING_SQ_TAIL i) 4 true = .go ∧ i < 64 ∧ value < s.rd (Reg.RING_SQ_SIZE i)) ∧
    (∃ (s : State) (req : Requester) (i value : Nat), i < 64 ∧ s.verdict req (Reg.RING_DOORBELL i) 4 true = .go ∧ value.testBit 0 = true) ∧
    (∃ (s : State) (i : Nat), i < 64) ∧
    (∃ (s : State) (t : Nat) (env : MemEnv) (i p : Nat), (s.coreTick t).nextRing = some i ∧ (s.coreTick t).ringPart i = some p) ∧
    (∃ (s : State) (t : Nat) (env : MemEnv) (i p : Nat), (s.coreTick t).nextRing = some i ∧ (s.coreTick t).ringPart i = some p ∧ ((s.coreTick t).descRead i p env).1 = .done) ∧
    (∃ (s : State) (req : Requester) (p n w value : Nat), p < 16 ∧ n < 64 ∧ s.verdict req (if w = 0 then Reg.PART_OWN_W0 p n else Reg.PART_OWN_W1 p n) 4 true = .go) ∧
    (∃ (s : State) (req : Requester) (p n w value : Nat), (s.verdict req (if w = 0 then Reg.PART_OWN_W0 p n else Reg.PART_OWN_W1 p n) 4 true = .go) ∧ p < 16 ∧ n < 64 ∧ s.ownerValid p n = false) ∧
    (∃ (s : State) (req : Requester) (ctx : Nat), s.verdict req Reg.DISP_ACCT_SEL 4 true = .go) ∧
    (∃ (s : State) (req : Requester) (ctx : Nat), s.verdict req Reg.DISP_ACCT_SEL 4 true = .go) :=
  ⟨⟨live, (.island 0), (0), (1), by decide +kernel⟩,
   ⟨(live.wr (Reg.RING_SQ_SIZE 0) 16), (.island 0), (0), (1), by decide +kernel⟩,
   ⟨live, (.island 0), (0), (1), by decide +kernel⟩,
   ⟨live, (0), by decide +kernel⟩,
   ⟨ringS, (0), (({} : MemEnv)), (0), (0), by decide +kernel⟩,
   ⟨ringS, (0), (({} : MemEnv)), (0), (0), by decide +kernel⟩,
   ⟨live, (.island 0), (0), (0), (0), (0), by decide +kernel, by decide +kernel, by decide +kernel⟩,
   ⟨live, (.island 0), (0), (0), (0), (0), by decide +kernel⟩,
   ⟨live, (.island 0), (0), by decide +kernel⟩,
   ⟨live, (.island 0), (0), by decide +kernel⟩⟩

theorem test_witness_ResizeCommands :
    (∃ (s : State) (req : Requester) (p value : Nat), p < 16 ∧ s.verdict req (Reg.PART_RESIZE p) 4 true = .go) ∧
    (∃ (s : State) (req : Requester) (p value : Nat), s.verdict req (Reg.PART_RESIZE p) 4 true = .go ∧ p < 16 ∧ value.testBit 0 = true ∧ s.bit (Reg.PART_CTL p) 1 = true ∧ s.resize = none ∧ State.resizeFail (s.respOk []) (State.armedParts (s.respOk [])) ≠ 0) ∧
    (∃ (s : State) (req : Requester) (p value : Nat), s.verdict req (Reg.PART_RESIZE p) 4 true = .go ∧ p < 16 ∧ value.testBit 0 = true ∧ s.bit (Reg.PART_CTL p) 1 = true ∧ s.resize = none ∧ State.resizeFail (s.respOk []) (State.armedParts (s.respOk [])) = 0) ∧
    (∃ (s : State) (t : Nat) (r : Resize), (s.tickTo t).resize = some r) ∧
    (∃ (s : State) (t : Nat) (r : Resize), (s.tickTo t).resize = some r ∧ r.clear = false ∧ r.early = false ∧ ((s.tickTo t).getF (Reg.PART_RESIZE_CFG r.page) 15 0) ≠ 0 ∧ r.start + ((s.tickTo t).getF (Reg.PART_RESIZE_CFG r.page) 15 0) * 400 ≤ (s.tickTo t).clk.base) ∧
    (∃ (s : State) (t : Nat) (r : Resize), (s.tickTo t).resize = some r ∧ r.clear = true ∧ r.todo.isEmpty = true) :=
  ⟨⟨(live.wr (Reg.PART_CTL 0) 3), (.island 0), (0), (1), by decide +kernel⟩,
   ⟨((live.wr (Reg.PART_CTL 0) 3).wr (Reg.PART_NEXT_GROVE_MASK 0) 0xFFFF |>.wr (Reg.PART_CTL 1) 3 |>.wr (Reg.PART_NEXT_GROVE_MASK 1) 0xFFFF), (.island 0), (0), (1), by decide +kernel⟩,
   ⟨(live.wr (Reg.PART_CTL 0) 3), (.island 0), (0), (1), by decide +kernel⟩,
   ⟨{ live with resize := some { armed := [0], page := 0, start := 0 } }, (0), ({ armed := [0], page := 0, start := 0 }), by decide +kernel⟩,
   ⟨{ live with resize := some { armed := [0], page := 0, start := 0 } }.wr (Reg.PART_RESIZE_CFG 0) 1, (400), ({ armed := [0], page := 0, start := 0 }), by decide +kernel, by decide +kernel, by decide +kernel, by decide +kernel, by decide +kernel⟩,
   ⟨{ live with resize := some { armed := [0], page := 0, start := 0, clear := true } }, (0), ({ armed := [0], page := 0, start := 0, clear := true }), by decide +kernel⟩⟩

theorem test_witness_JobCommands :
    (∃ (s : State) (p t : Nat) (j : Job), ((((s.coreTick t).replace p).each ((s.partGroves p).flatMap fun g => (List.range 4).map fun n => 4 * g + n) fun s c => s.coreNext c).headJob p) = some j ∧ j.ph = .passed ∧ (((s.coreTick t).replace p).each ((s.partGroves p).flatMap fun g => (List.range 4).map fun n => 4 * g + n) fun s c => s.coreNext c).bit Reg.DISP_CTL 0 = true ∧ (((s.coreTick t).replace p).each ((s.partGroves p).flatMap fun g => (List.range 4).map fun n => 4 * g + n) fun s c => s.coreNext c).park.stage < 2) ∧
    (∃ (s : State) (i sq t : Nat) (j : Job) (e : Nat × Nat), ((s.coreTick t).jobs.find? fun j => j.ring == i && j.sq == sq && j.ph == .ended) = some j ∧ j.ranks.isEmpty = true ∧ j.stop = some e) ∧
    (∃ (s : State) (i sq t : Nat) (j k : Job), ((s.coreTick t).jobs.find? fun j => j.ring == i && j.sq == sq && j.ph == .ended) = some j ∧ j.ranks.isEmpty = false ∧ (((s.coreTick t).ledgerSettle j.part j.debit ((s.coreTick t).jobEnergy j)).setJob j.id fun x => { x with energy := (s.coreTick t).jobEnergy j, ranks := [], stop := some ((s.coreTick t).disposition j) }).job j.id = some k) ∧
    (∃ (s : State) (i sq t : Nat) (j : Job), ((s.coreTick t).jobs.find? fun j => j.ring == i && j.sq == sq && j.ph == .placed) = some j ∧ ((s.coreTick t).getF (Reg.DISP_JOB_TMO j.prio) 15 0) ≠ 0 ∧ 1000 * ((s.coreTick t).getF (Reg.DISP_JOB_TMO j.prio) 15 0) < (s.coreTick t).jobRun j ∧ j.stop.isNone = true) ∧
    (∃ (s : State) (req : Requester) (value : Nat), s.verdict req Reg.DISP_CANCEL 4 true = .go ∧ s.world req = true) ∧
    (∃ (s : State) (req : Requester) (value : Nat) (j : Job), s.verdict req Reg.DISP_CANCEL 4 true = .go ∧ s.world req = true ∧ value.testBit 31 = true ∧ (s.jobs.find? fun j => j.ring == value % 64 && j.sq == fld value 27 16 && decide (j.ph ≠ .ended)) = some j) :=
  ⟨⟨{ live with jobs := [jobW .passed []], jobNo := 1 }.wr Reg.DISP_CTL 1, (0), (0), (jobW .passed []), by decide +kernel⟩,
   ⟨{ live with jobs := [{ jobW .ended [] with stop := some (1, 0) }] }, (0), (0), (0), ({ jobW .ended [] with stop := some (1, 0) }), ((1, 0)), by decide +kernel⟩,
   ⟨{ live with jobs := [jobW .ended [{ core := 0, st := .done }]] }, (0), (0), (0), (jobW .ended [{ core := 0, st := .done }]), ({ jobW .ended [] with stop := some (live.disposition (jobW .ended [{ core := 0, st := .done }])) }), by decide +kernel⟩,
   ⟨{ live with jobs := [{ jobW .placed [] with start := some 0, since := some 0 }] }.wr (Reg.DISP_JOB_TMO 1) 1, (0), (0), (4000000), ({ jobW .placed [] with start := some 0, since := some 0 }), by decide +kernel⟩,
   ⟨live, (.island 0), (0x80000000), by decide +kernel⟩,
   ⟨{ live with jobs := [{ jobW .placed [] with start := some 0 }] }, (.island 0), (0x80000000), ({ jobW .placed [] with start := some 0 }), by decide +kernel⟩⟩

theorem test_witness_CoreControlCommands :
    (∃ (s : State) (c t : Nat) (env : CoreEnv) (o : OnCore) (off cmd : Nat) (w : State), s.nextIssue c t 0 env = some (o, off, cmd, w) ∧ cmd % 256 = 0 ∧ off = o.rank.off) ∧
    (∃ (s : State) (c t : Nat) (env : CoreEnv) (o : OnCore) (off cmd : Nat) (w : State), (s.coreTick t).nextIssue c t 0 env = some (o, off, cmd, w) ∧ cmd % 256 = 1 ∧ off = o.rank.off ∧ o.rank.xfers.isEmpty = true ∧ (match (s.coreTick t).issuing c with | some x => ((s.coreTick t).boundary x).1 | none => false) = false ∧ w.tileCheck o cmd = .ok ()) ∧
    (∃ (s : State) (c t : Nat) (env : CoreEnv) (o : OnCore), (s.coreTick t).issuing c = some o ∧ o.rank.nextTile ≠ 0 ∧ o.rank.cmdAt o.rank.off % 256 = 1 ∧ o.rank.xfers.isEmpty = true ∧ (o.rank.window.map fun e => e.1).headD 0 = o.rank.off ∧ ((s.coreTick t).boundary o).1 = true) ∧
    (∃ (s : State) (c t : Nat) (env : CoreEnv) (o : OnCore) (off cmd : Nat) (w : State), s.nextIssue c t 0 env = some (o, off, cmd, w) ∧ cmd % 256 = 2 ∧ off = o.rank.off ∧ o.rank.xfers.isEmpty = true) ∧
    (∃ (s : State) (c t : Nat) (env : CoreEnv) (o : OnCore) (off cmd : Nat) (w : State), s.nextIssue c t 0 env = some (o, off, cmd, w) ∧ cmd % 256 = 0x40 ∧ off = o.rank.off ∧ o.rank.xfers.isEmpty = true ∧ o.rank.off + 32 < o.rank.base + 32 * o.rank.code.length ∧ ((o.rank.cmdAt (o.rank.off + 32) % 256 = 1 ∨ o.rank.cmdAt (o.rank.off + 32) % 256 = 2)) ∧ (o.job.ranks.any fun r => r.bar.any fun b => b != cb cmd 4 2) = false) ∧
    (∃ (s : State) (c t : Nat) (o : OnCore), (s.coreTick t).running c = some o ∧ (o.job.ranks.all fun r => r.bar.isSome) = true) ∧
    (∃ (s : State) (c t : Nat) (env : CoreEnv) (o : OnCore) (off cmd : Nat) (w : State), s.nextIssue c t 0 env = some (o, off, cmd, w) ∧ cmd % 256 = 0x50 ∧ off = o.rank.off ∧ (o.rank.xfers.any fun x => x.lb.any (fun e => e.1 == cb cmd 4 1 % 8) || (!x.load && (o.rowsRead x.off x.cmd).any fun e => e.1 == cb cmd 4 1 % 8)) = false ∧ cmd.testBit 39 = false) ∧
    (∃ (s : State) (c t : Nat) (env : CoreEnv) (o : OnCore) (off cmd : Nat) (w : State), s.nextIssue c t 0 env = some (o, off, cmd, w) ∧ cmd % 256 = 0x50 ∧ off = o.rank.off ∧ (o.rank.xfers.any fun x => x.lb.any (fun e => e.1 == cb cmd 4 1 % 8) || (!x.load && (o.rowsRead x.off x.cmd).any fun e => e.1 == cb cmd 4 1 % 8)) = false ∧ cmd.testBit 39 = true ∧ cb cmd 6 2 ≠ 0 ∧ cb cmd 8 1 ≠ 0 ∧ cb cmd 8 1 * (cb cmd 6 2 * 64) ≤ 0x8000 ∧ cb cmd 10 2 ≠ 0 ∧ cb cmd 10 2 ≤ 4095) ∧
    (∃ (s : State) (c t : Nat) (env : CoreEnv) (o : OnCore) (off cmd : Nat) (w : State), s.nextIssue c t 0 env = some (o, off, cmd, w) ∧ cmd % 256 ∉ [0x00, 0x01, 0x02, 0x10, 0x11, 0x20, 0x21, 0x22, 0x30, 0x40, 0x50] ∧ off = o.rank.off) ∧
    (∃ (s : State) (c t : Nat) (env : CoreEnv) (o : OnCore) (off cmd : Nat) (w : State), (State.ctrlCmd s c t env (fun cmd => !([0x00, 0x01, 0x02, 0x10, 0x11, 0x20, 0x21, 0x22, 0x30, 0x40, 0x50].contains (cmd % 256))) false fun _ _ s => (.fault CF.BAD_OPCODE, s)).nextIssue c t 3 env = some (o, off, cmd, w) ∧ cmd % 256 = 0x30 ∧ cb cmd 4 1 ∉ vopOps) :=
  ⟨(let ⟨⟨o, off, cmd, w⟩, h1, h2⟩ := any_some (o := (coreS [0]).nextIssue 0 0 0 (({} : CoreEnv))) (p := fun z => z.2.2.1 % 256 = 0 ∧ z.2.1 = z.1.rank.off) (by decide +kernel)
    ⟨coreS [0], 0, 0, ({} : CoreEnv), o, off, cmd, w, h1, h2⟩),
   (let ⟨⟨o, off, cmd, w⟩, h1, h2⟩ := any_some (o := ((coreS [1]).coreTick 0).nextIssue 0 0 0 (({} : CoreEnv))) (p := fun z => z.2.2.1 % 256 = 1 ∧ z.2.1 = z.1.rank.off ∧ z.1.rank.xfers.isEmpty = true ∧ (match ((coreS [1]).coreTick 0).issuing 0 with | some x => (((coreS [1]).coreTick 0).boundary x).1 | none => false) = false ∧ z.2.2.2.tileCheck z.1 z.2.2.1 = .ok ()) (by decide +kernel)
    ⟨coreS [1], 0, 0, ({} : CoreEnv), o, off, cmd, w, h1, h2⟩),
   ⟨jobS { rankW [1] with tile := { off := 32 } } |> fun s => { s with jobs := s.jobs.map fun j => { j with stop := some (9, 0) } }, 0, 0, {}, ⟨{ jobW .placed [{ rankW [1] with tile := { off := 32 } }] with stop := some (9, 0) }, 0, { rankW [1] with tile := { off := 32 } }⟩, by decide +kernel⟩,
   (let ⟨⟨o, off, cmd, w⟩, h1, h2⟩ := any_some (o := (coreS [2]).nextIssue 0 0 0 (({} : CoreEnv))) (p := fun z => z.2.2.1 % 256 = 2 ∧ z.2.1 = z.1.rank.off ∧ z.1.rank.xfers.isEmpty = true) (by decide +kernel)
    ⟨coreS [2], 0, 0, ({} : CoreEnv), o, off, cmd, w, h1, h2⟩),
   (let ⟨⟨o, off, cmd, w⟩, h1, h2⟩ := any_some (o := (coreS [0x40]).nextIssue 0 0 0 (({} : CoreEnv))) (p := fun z => z.2.2.1 % 256 = 0x40 ∧ z.2.1 = z.1.rank.off ∧ z.1.rank.xfers.isEmpty = true ∧ z.1.rank.off + 32 < z.1.rank.base + 32 * z.1.rank.code.length ∧ ((z.1.rank.cmdAt (z.1.rank.off + 32) % 256 = 1 ∨ z.1.rank.cmdAt (z.1.rank.off + 32) % 256 = 2)) ∧ ((z.1.job.ranks.any fun r => r.bar.any fun b => b != cb z.2.2.1 4 2) = false)) (by decide +kernel)
    ⟨coreS [0x40], 0, 0, ({} : CoreEnv), o, off, cmd, w, h1, h2⟩),
   ⟨(jobS { rankW [] with st := .barrier, bar := some 0 }), (0), (0), (⟨jobW .placed [{ rankW [] with st := .barrier, bar := some 0 }], 0, { rankW [] with st := .barrier, bar := some 0 }⟩), by decide +kernel⟩,
   (let ⟨⟨o, off, cmd, w⟩, h1, h2⟩ := any_some (o := (coreS [0x50]).nextIssue 0 0 0 (({} : CoreEnv))) (p := fun z => z.2.2.1 % 256 = 0x50 ∧ z.2.1 = z.1.rank.off ∧ ((z.1.rank.xfers.any fun x => x.lb.any (fun e => e.1 == cb z.2.2.1 4 1 % 8) || (!x.load && (z.1.rowsRead x.off x.cmd).any fun e => e.1 == cb z.2.2.1 4 1 % 8)) = false) ∧ z.2.2.1.testBit 39 = false) (by decide +kernel)
    ⟨coreS [0x50], 0, 0, ({} : CoreEnv), o, off, cmd, w, h1, h2⟩),
   (let ⟨⟨o, off, cmd, w⟩, h1, h2⟩ := any_some (o := (coreS [0x50 + 2 ^ 39 + 2 ^ 48 + 4 * 2 ^ 64 + 64 * 2 ^ 80]).nextIssue 0 0 0 (({} : CoreEnv))) (p := fun z => z.2.2.1 % 256 = 0x50 ∧ z.2.1 = z.1.rank.off ∧ ((z.1.rank.xfers.any fun x => x.lb.any (fun e => e.1 == cb z.2.2.1 4 1 % 8) || (!x.load && (z.1.rowsRead x.off x.cmd).any fun e => e.1 == cb z.2.2.1 4 1 % 8)) = false) ∧ z.2.2.1.testBit 39 = true ∧ cb z.2.2.1 6 2 ≠ 0 ∧ cb z.2.2.1 8 1 ≠ 0 ∧ cb z.2.2.1 8 1 * (cb z.2.2.1 6 2 * 64) ≤ 0x8000 ∧ cb z.2.2.1 10 2 ≠ 0 ∧ cb z.2.2.1 10 2 ≤ 4095) (by decide +kernel)
    ⟨coreS [0x50 + 2 ^ 39 + 2 ^ 48 + 4 * 2 ^ 64 + 64 * 2 ^ 80], 0, 0, ({} : CoreEnv), o, off, cmd, w, h1, h2⟩),
   (let ⟨⟨o, off, cmd, w⟩, h1, h2⟩ := any_some (o := ((coreS [0x77])).nextIssue (0) (0) 0 (({} : CoreEnv))) (p := fun z => z.2.2.1 % 256 ∉ [0x00, 0x01, 0x02, 0x10, 0x11, 0x20, 0x21, 0x22, 0x30, 0x40, 0x50] ∧ z.2.1 = z.1.rank.off) (by decide +kernel)
    ⟨(coreS [0x77]), (0), (0), (({} : CoreEnv)), o, off, cmd, w, h1, h2⟩),
   (let ⟨⟨o, off, cmd, w⟩, h1, h2⟩ := any_some (o := (State.ctrlCmd (coreS [0x30 + 0x77 * 2 ^ 32]) 0 0 {} (fun cmd => !([0x00, 0x01, 0x02, 0x10, 0x11, 0x20, 0x21, 0x22, 0x30, 0x40, 0x50].contains (cmd % 256))) false fun _ _ s => (.fault CF.BAD_OPCODE, s)).nextIssue 0 0 3 {}) (p := fun z => z.2.2.1 % 256 = 0x30 ∧ cb z.2.2.1 4 1 ∉ vopOps) (by decide +kernel)
    ⟨coreS [0x30 + 0x77 * 2 ^ 32], 0, 0, {}, o, off, cmd, w, h1, h2⟩)⟩

theorem test_witness_CoreDataCommands :
    (∃ (s : State) (c t : Nat) (env : CoreEnv) (o : OnCore) (off cmd : Nat) (w : State), s.nextIssue c t 1 env = some (o, off, cmd, w) ∧ cmd % 256 = 0x10 ∧ (State.loadIssue env o off cmd w).1 = .ok true) ∧
    (∃ (s : State) (c off t : Nat) (o : OnCore) (x : Xfer), (s.coreTick t).running c = some o ∧ (o.rank.xfers.find? fun x => x.off == off && x.load) = some x) ∧
    (∃ (s : State) (c t : Nat) (env : CoreEnv) (o : OnCore) (off cmd : Nat) (w : State), s.nextIssue c t 1 env = some (o, off, cmd, w) ∧ cmd % 256 = 0x11 ∧ (State.storeIssue env o off cmd w).1 = .ok true) ∧
    (∃ (s : State) (c off t : Nat) (o : OnCore) (x : Xfer), (s.coreTick t).running c = some o ∧ (o.rank.xfers.find? fun x => x.off == off && !x.load && x.ask.isNone) = some x ∧ x.sent = true) ∧
    (∃ (s : State) (c off t : Nat) (o : OnCore) (x : Xfer) (data : List Byte), (s.coreTick t).running c = some o ∧ (o.rank.xfers.find? fun x => x.off == off && !x.load && x.ask.isNone) = some x ∧ x.sent = false ∧ (s.coreTick t).refRead c o.rank (o.ref (cb x.cmd 16 4)) 0 (cb x.cmd 20 4) = .ok data ∧ ((s.coreTick t).writeRange (o.access (2 * coreGrove c + 1) x.addr (cb x.cmd 20 4) true data x.tag) (decide (targetOf x.addr = .store (coreGrove c))) false {}).1 = .done) ∧
    (∃ (s : State) (c t : Nat) (env : CoreEnv) (o : OnCore) (off cmd : Nat) (w : State), s.nextIssue c t 2 env = some (o, off, cmd, w) ∧ cmd % 256 = 0x20 ∧ (State.mma env o off cmd w).1 = .ok true) ∧
    (∃ (s : State) (c t : Nat) (env : CoreEnv) (o : OnCore) (off cmd : Nat) (w : State), s.nextIssue c t 3 env = some (o, off, cmd, w) ∧ cmd % 256 = 0x21 ∧ (State.drain env o off cmd w).1 = .ok true) ∧
    (∃ (s : State) (c t : Nat) (env : CoreEnv) (o : OnCore) (off cmd : Nat) (w : State), s.nextIssue c t 3 env = some (o, off, cmd, w) ∧ cmd % 256 = 0x21 ∧ (State.drain env o off cmd w).1 = .ok false) ∧
    (∃ (s : State) (c t : Nat) (env : CoreEnv) (o : OnCore) (off cmd : Nat) (w : State), s.nextIssue c t 2 env = some (o, off, cmd, w) ∧ cmd % 256 = 0x22 ∧ imOk cmd = true ∧ (o.ref (cb cmd 16 4)).aligned = true) :=
  ⟨(let ⟨⟨o, off, cmd, w⟩, h1, h2⟩ := any_some (o := (coreS [0x10 + 2 ^ 81 + 64 * 2 ^ 160]).nextIssue 0 0 1 (({} : CoreEnv))) (p := fun z => z.2.2.1 % 256 = 0x10 ∧ (State.loadIssue (({} : CoreEnv)) z.1 z.2.1 z.2.2.1 z.2.2.2).1 = .ok true) (by decide +kernel)
    ⟨coreS [0x10 + 2 ^ 81 + 64 * 2 ^ 160], 0, 0, ({} : CoreEnv), o, off, cmd, w, h1, h2⟩),
   ⟨(jobS rankX), (0), (0), (0), (⟨jobW .placed [rankX], 0, rankX⟩), (xferX), by decide +kernel⟩,
   (let ⟨⟨o, off, cmd, w⟩, h1, h2⟩ := any_some (o := (coreS [0x11 + 2 ^ 81 + 64 * 2 ^ 160]).nextIssue 0 0 1 (({} : CoreEnv))) (p := fun z => z.2.2.1 % 256 = 0x11 ∧ (State.storeIssue (({} : CoreEnv)) z.1 z.2.1 z.2.2.1 z.2.2.2).1 = .ok true) (by decide +kernel)
    ⟨coreS [0x11 + 2 ^ 81 + 64 * 2 ^ 160], 0, 0, ({} : CoreEnv), o, off, cmd, w, h1, h2⟩),
   ⟨(jobS { rankY with xfers := [{ xferY with sent := true }] }), (0), (0), (0), (⟨jobW .placed [{ rankY with xfers := [{ xferY with sent := true }] }], 0, { rankY with xfers := [{ xferY with sent := true }] }⟩), ({ xferY with sent := true }), by decide +kernel⟩,
   ⟨(jobS rankY), (0), (0), (0), (⟨jobW .placed [rankY], 0, rankY⟩), (xferY), (List.replicate 64 0), by decide +kernel⟩,
   (let ⟨⟨o, off, cmd, w⟩, h1, h2⟩ := any_some (o := (coreS [0x20 + 64 * 2 ^ 48 + 0x11 * 2 ^ 32]).nextIssue 0 0 2 (({} : CoreEnv))) (p := fun z => z.2.2.1 % 256 = 0x20 ∧ (State.mma (({} : CoreEnv)) z.1 z.2.1 z.2.2.1 z.2.2.2).1 = .ok true) (by decide +kernel)
    ⟨coreS [0x20 + 64 * 2 ^ 48 + 0x11 * 2 ^ 32], 0, 0, ({} : CoreEnv), o, off, cmd, w, h1, h2⟩),
   (let ⟨⟨o, off, cmd, w⟩, h1, h2⟩ := any_some (o := (coreS [0x21]).nextIssue 0 0 3 (({} : CoreEnv))) (p := fun z => z.2.2.1 % 256 = 0x21 ∧ (State.drain (({} : CoreEnv)) z.1 z.2.1 z.2.2.1 z.2.2.2).1 = .ok true) (by decide +kernel)
    ⟨coreS [0x21], 0, 0, ({} : CoreEnv), o, off, cmd, w, h1, h2⟩),
   (let ⟨⟨o, off, cmd, w⟩, h1, h2⟩ := any_some (o := (State.wr (coreS [0x21]) (Reg.GROVE_CHK_CFG 0) 0x1F).nextIssue 0 0 3 { flip := some { kind := 0, m := 0, n := 0, bit := 3 } }) (p := fun z => z.2.2.1 % 256 = 0x21 ∧ (State.drain { flip := some { kind := 0, m := 0, n := 0, bit := 3 } } z.1 z.2.1 z.2.2.1 z.2.2.2).1 = .ok false) (by decide +kernel)
    ⟨State.wr (coreS [0x21]) (Reg.GROVE_CHK_CFG 0) 0x1F, 0, 0, { flip := some { kind := 0, m := 0, n := 0, bit := 3 } }, o, off, cmd, w, h1, h2⟩),
   (let ⟨⟨o, off, cmd, w⟩, h1, h2⟩ := any_some (o := (coreS [0x22 + 2 ^ 32 + 2 ^ 48 + 2 ^ 64 + 0x11 * 2 ^ 80 + 0x11 * 2 ^ 88 + 0x11 * 2 ^ 96]).nextIssue 0 0 2 (({} : CoreEnv))) (p := fun z => z.2.2.1 % 256 = 0x22 ∧ imOk z.2.2.1 = true ∧ (z.1.ref (cb z.2.2.1 16 4)).aligned = true) (by decide +kernel)
    ⟨coreS [0x22 + 2 ^ 32 + 2 ^ 48 + 2 ^ 64 + 0x11 * 2 ^ 80 + 0x11 * 2 ^ 88 + 0x11 * 2 ^ 96], 0, 0, ({} : CoreEnv), o, off, cmd, w, h1, h2⟩)⟩

theorem test_witness_VopCommands :
    (∃ (s : State) (c t : Nat) (env : CoreEnv) (o : OnCore) (off cmd : Nat) (w : State), s.nextIssue c t 3 env = some (o, off, cmd, w) ∧ cmd % 256 = 0x30 ∧ cb cmd 4 1 = 0x1 ∧ (State.vop env o off cmd w).1 = .ok true) ∧
    (∃ (s : State) (c t : Nat) (env : CoreEnv) (o : OnCore) (off cmd : Nat) (w : State), s.nextIssue c t 3 env = some (o, off, cmd, w) ∧ cmd % 256 = 0x30 ∧ cb cmd 4 1 = 0x2 ∧ (State.vop env o off cmd w).1 = .ok true) ∧
    (∃ (s : State) (c t : Nat) (env : CoreEnv) (o : OnCore) (off cmd : Nat) (w : State), s.nextIssue c t 3 env = some (o, off, cmd, w) ∧ cmd % 256 = 0x30 ∧ cb cmd 4 1 = 0x3 ∧ (State.vop env o off cmd w).1 = .ok true) ∧
    (∃ (s : State) (c t : Nat) (env : CoreEnv) (o : OnCore) (off cmd : Nat) (w : State), s.nextIssue c t 3 env = some (o, off, cmd, w) ∧ cmd % 256 = 0x30 ∧ cb cmd 4 1 = 0x4 ∧ (State.vop env o off cmd w).1 = .ok true) ∧
    (∃ (s : State) (c t : Nat) (env : CoreEnv) (o : OnCore) (off cmd : Nat) (w : State), s.nextIssue c t 3 env = some (o, off, cmd, w) ∧ cmd % 256 = 0x30 ∧ cb cmd 4 1 = 0x5 ∧ (State.vop env o off cmd w).1 = .ok true) ∧
    (∃ (s : State) (c t : Nat) (env : CoreEnv) (o : OnCore) (off cmd : Nat) (w : State), s.nextIssue c t 3 env = some (o, off, cmd, w) ∧ cmd % 256 = 0x30 ∧ cb cmd 4 1 = 0x6 ∧ (State.vop env o off cmd w).1 = .ok true) ∧
    (∃ (s : State) (c t : Nat) (env : CoreEnv) (o : OnCore) (off cmd : Nat) (w : State), s.nextIssue c t 3 env = some (o, off, cmd, w) ∧ cmd % 256 = 0x30 ∧ cb cmd 4 1 = 0x10 ∧ (State.vop env o off cmd w).1 = .ok true) ∧
    (∃ (s : State) (c t : Nat) (env : CoreEnv) (o : OnCore) (off cmd : Nat) (w : State), s.nextIssue c t 3 env = some (o, off, cmd, w) ∧ cmd % 256 = 0x30 ∧ cb cmd 4 1 = 0x11 ∧ (State.vop env o off cmd w).1 = .ok true) ∧
    (∃ (s : State) (c t : Nat) (env : CoreEnv) (o : OnCore) (off cmd : Nat) (w : State), s.nextIssue c t 3 env = some (o, off, cmd, w) ∧ cmd % 256 = 0x30 ∧ cb cmd 4 1 = 0x12 ∧ (State.vop env o off cmd w).1 = .ok true) ∧
    (∃ (s : State) (c t : Nat) (env : CoreEnv) (o : OnCore) (off cmd : Nat) (w : State), s.nextIssue c t 3 env = some (o, off, cmd, w) ∧ cmd % 256 = 0x30 ∧ cb cmd 4 1 = 0x13 ∧ (State.vop env o off cmd w).1 = .ok true) ∧
    (∃ (s : State) (c t : Nat) (env : CoreEnv) (o : OnCore) (off cmd : Nat) (w : State), s.nextIssue c t 3 env = some (o, off, cmd, w) ∧ cmd % 256 = 0x30 ∧ cb cmd 4 1 = 0x14 ∧ (State.vop env o off cmd w).1 = .ok true) ∧
    (∃ (s : State) (c t : Nat) (env : CoreEnv) (o : OnCore) (off cmd : Nat) (w : State), s.nextIssue c t 3 env = some (o, off, cmd, w) ∧ cmd % 256 = 0x30 ∧ cb cmd 4 1 = 0x15 ∧ (State.vop env o off cmd w).1 = .ok true) ∧
    (∃ (s : State) (c t : Nat) (env : CoreEnv) (o : OnCore) (off cmd : Nat) (w : State), s.nextIssue c t 3 env = some (o, off, cmd, w) ∧ cmd % 256 = 0x30 ∧ cb cmd 4 1 = 0x16 ∧ (State.vop env o off cmd w).1 = .ok true) ∧
    (∃ (s : State) (c t : Nat) (env : CoreEnv) (o : OnCore) (off cmd : Nat) (w : State), s.nextIssue c t 3 env = some (o, off, cmd, w) ∧ cmd % 256 = 0x30 ∧ cb cmd 4 1 = 0x20 ∧ (State.vop env o off cmd w).1 = .ok true) ∧
    (∃ (s : State) (c t : Nat) (env : CoreEnv) (o : OnCore) (off cmd : Nat) (w : State), s.nextIssue c t 3 env = some (o, off, cmd, w) ∧ cmd % 256 = 0x30 ∧ cb cmd 4 1 = 0x21 ∧ (State.vop env o off cmd w).1 = .ok true) :=
  ⟨(let ⟨⟨o, off, cmd, w⟩, h1, h2⟩ := any_some (o := (coreS [0x30 + 0x1 * 2 ^ 32 + 0x77 * 2 ^ 40 + 64 * 2 ^ 160]).nextIssue 0 0 3 (({} : CoreEnv))) (p := fun z => z.2.2.1 % 256 = 0x30 ∧ cb z.2.2.1 4 1 = 0x1 ∧ (State.vop (({} : CoreEnv)) z.1 z.2.1 z.2.2.1 z.2.2.2).1 = .ok true) (by decide +kernel)
    ⟨coreS [0x30 + 0x1 * 2 ^ 32 + 0x77 * 2 ^ 40 + 64 * 2 ^ 160], 0, 0, ({} : CoreEnv), o, off, cmd, w, h1, h2⟩),
   (let ⟨⟨o, off, cmd, w⟩, h1, h2⟩ := any_some (o := (coreS [0x30 + 0x2 * 2 ^ 32 + 0x77 * 2 ^ 40 + 64 * 2 ^ 160]).nextIssue 0 0 3 (({} : CoreEnv))) (p := fun z => z.2.2.1 % 256 = 0x30 ∧ cb z.2.2.1 4 1 = 0x2 ∧ (State.vop (({} : CoreEnv)) z.1 z.2.1 z.2.2.1 z.2.2.2).1 = .ok true) (by decide +kernel)
    ⟨coreS [0x30 + 0x2 * 2 ^ 32 + 0x77 * 2 ^ 40 + 64 * 2 ^ 160], 0, 0, ({} : CoreEnv), o, off, cmd, w, h1, h2⟩),
   (let ⟨⟨o, off, cmd, w⟩, h1, h2⟩ := any_some (o := (coreS [0x30 + 0x3 * 2 ^ 32 + 0x77 * 2 ^ 40 + 64 * 2 ^ 160]).nextIssue 0 0 3 (({} : CoreEnv))) (p := fun z => z.2.2.1 % 256 = 0x30 ∧ cb z.2.2.1 4 1 = 0x3 ∧ (State.vop (({} : CoreEnv)) z.1 z.2.1 z.2.2.1 z.2.2.2).1 = .ok true) (by decide +kernel)
    ⟨coreS [0x30 + 0x3 * 2 ^ 32 + 0x77 * 2 ^ 40 + 64 * 2 ^ 160], 0, 0, ({} : CoreEnv), o, off, cmd, w, h1, h2⟩),
   (let ⟨⟨o, off, cmd, w⟩, h1, h2⟩ := any_some (o := (coreS [0x30 + 0x4 * 2 ^ 32 + 0x77 * 2 ^ 40 + 64 * 2 ^ 160]).nextIssue 0 0 3 (({} : CoreEnv))) (p := fun z => z.2.2.1 % 256 = 0x30 ∧ cb z.2.2.1 4 1 = 0x4 ∧ (State.vop (({} : CoreEnv)) z.1 z.2.1 z.2.2.1 z.2.2.2).1 = .ok true) (by decide +kernel)
    ⟨coreS [0x30 + 0x4 * 2 ^ 32 + 0x77 * 2 ^ 40 + 64 * 2 ^ 160], 0, 0, ({} : CoreEnv), o, off, cmd, w, h1, h2⟩),
   (let ⟨⟨o, off, cmd, w⟩, h1, h2⟩ := any_some (o := (coreS [0x30 + 0x5 * 2 ^ 32 + 0x77 * 2 ^ 40 + 64 * 2 ^ 160]).nextIssue 0 0 3 (({} : CoreEnv))) (p := fun z => z.2.2.1 % 256 = 0x30 ∧ cb z.2.2.1 4 1 = 0x5 ∧ (State.vop (({} : CoreEnv)) z.1 z.2.1 z.2.2.1 z.2.2.2).1 = .ok true) (by decide +kernel)
    ⟨coreS [0x30 + 0x5 * 2 ^ 32 + 0x77 * 2 ^ 40 + 64 * 2 ^ 160], 0, 0, ({} : CoreEnv), o, off, cmd, w, h1, h2⟩),
   (let ⟨⟨o, off, cmd, w⟩, h1, h2⟩ := any_some (o := (coreS [0x30 + 0x6 * 2 ^ 32 + 0x77 * 2 ^ 40 + 64 * 2 ^ 160]).nextIssue 0 0 3 (({} : CoreEnv))) (p := fun z => z.2.2.1 % 256 = 0x30 ∧ cb z.2.2.1 4 1 = 0x6 ∧ (State.vop (({} : CoreEnv)) z.1 z.2.1 z.2.2.1 z.2.2.2).1 = .ok true) (by decide +kernel)
    ⟨coreS [0x30 + 0x6 * 2 ^ 32 + 0x77 * 2 ^ 40 + 64 * 2 ^ 160], 0, 0, ({} : CoreEnv), o, off, cmd, w, h1, h2⟩),
   (let ⟨⟨o, off, cmd, w⟩, h1, h2⟩ := any_some (o := (coreS [0x30 + 0x10 * 2 ^ 32 + 0x77 * 2 ^ 40 + 64 * 2 ^ 160]).nextIssue 0 0 3 (({} : CoreEnv))) (p := fun z => z.2.2.1 % 256 = 0x30 ∧ cb z.2.2.1 4 1 = 0x10 ∧ (State.vop (({} : CoreEnv)) z.1 z.2.1 z.2.2.1 z.2.2.2).1 = .ok true) (by decide +kernel)
    ⟨coreS [0x30 + 0x10 * 2 ^ 32 + 0x77 * 2 ^ 40 + 64 * 2 ^ 160], 0, 0, ({} : CoreEnv), o, off, cmd, w, h1, h2⟩),
   (let ⟨⟨o, off, cmd, w⟩, h1, h2⟩ := any_some (o := (coreS [0x30 + 0x11 * 2 ^ 32 + 0x77 * 2 ^ 40 + 64 * 2 ^ 160]).nextIssue 0 0 3 (({} : CoreEnv))) (p := fun z => z.2.2.1 % 256 = 0x30 ∧ cb z.2.2.1 4 1 = 0x11 ∧ (State.vop (({} : CoreEnv)) z.1 z.2.1 z.2.2.1 z.2.2.2).1 = .ok true) (by decide +kernel)
    ⟨coreS [0x30 + 0x11 * 2 ^ 32 + 0x77 * 2 ^ 40 + 64 * 2 ^ 160], 0, 0, ({} : CoreEnv), o, off, cmd, w, h1, h2⟩),
   (let ⟨⟨o, off, cmd, w⟩, h1, h2⟩ := any_some (o := (coreS [0x30 + 0x12 * 2 ^ 32 + 0x77 * 2 ^ 40 + 64 * 2 ^ 160]).nextIssue 0 0 3 (({} : CoreEnv))) (p := fun z => z.2.2.1 % 256 = 0x30 ∧ cb z.2.2.1 4 1 = 0x12 ∧ (State.vop (({} : CoreEnv)) z.1 z.2.1 z.2.2.1 z.2.2.2).1 = .ok true) (by decide +kernel)
    ⟨coreS [0x30 + 0x12 * 2 ^ 32 + 0x77 * 2 ^ 40 + 64 * 2 ^ 160], 0, 0, ({} : CoreEnv), o, off, cmd, w, h1, h2⟩),
   (let ⟨⟨o, off, cmd, w⟩, h1, h2⟩ := any_some (o := (coreS [0x30 + 0x13 * 2 ^ 32 + 0x77 * 2 ^ 40 + 64 * 2 ^ 160]).nextIssue 0 0 3 (({} : CoreEnv))) (p := fun z => z.2.2.1 % 256 = 0x30 ∧ cb z.2.2.1 4 1 = 0x13 ∧ (State.vop (({} : CoreEnv)) z.1 z.2.1 z.2.2.1 z.2.2.2).1 = .ok true) (by decide +kernel)
    ⟨coreS [0x30 + 0x13 * 2 ^ 32 + 0x77 * 2 ^ 40 + 64 * 2 ^ 160], 0, 0, ({} : CoreEnv), o, off, cmd, w, h1, h2⟩),
   (let ⟨⟨o, off, cmd, w⟩, h1, h2⟩ := any_some (o := (coreS [0x30 + 0x14 * 2 ^ 32 + 0x77 * 2 ^ 40 + 64 * 2 ^ 160]).nextIssue 0 0 3 (({} : CoreEnv))) (p := fun z => z.2.2.1 % 256 = 0x30 ∧ cb z.2.2.1 4 1 = 0x14 ∧ (State.vop (({} : CoreEnv)) z.1 z.2.1 z.2.2.1 z.2.2.2).1 = .ok true) (by decide +kernel)
    ⟨coreS [0x30 + 0x14 * 2 ^ 32 + 0x77 * 2 ^ 40 + 64 * 2 ^ 160], 0, 0, ({} : CoreEnv), o, off, cmd, w, h1, h2⟩),
   (let ⟨⟨o, off, cmd, w⟩, h1, h2⟩ := any_some (o := (coreS [0x30 + 0x15 * 2 ^ 32 + 0x77 * 2 ^ 40 + 64 * 2 ^ 160]).nextIssue 0 0 3 (({} : CoreEnv))) (p := fun z => z.2.2.1 % 256 = 0x30 ∧ cb z.2.2.1 4 1 = 0x15 ∧ (State.vop (({} : CoreEnv)) z.1 z.2.1 z.2.2.1 z.2.2.2).1 = .ok true) (by decide +kernel)
    ⟨coreS [0x30 + 0x15 * 2 ^ 32 + 0x77 * 2 ^ 40 + 64 * 2 ^ 160], 0, 0, ({} : CoreEnv), o, off, cmd, w, h1, h2⟩),
   (let ⟨⟨o, off, cmd, w⟩, h1, h2⟩ := any_some (o := (coreS [0x30 + 0x16 * 2 ^ 32 + 0x77 * 2 ^ 40 + 64 * 2 ^ 160]).nextIssue 0 0 3 (({} : CoreEnv))) (p := fun z => z.2.2.1 % 256 = 0x30 ∧ cb z.2.2.1 4 1 = 0x16 ∧ (State.vop (({} : CoreEnv)) z.1 z.2.1 z.2.2.1 z.2.2.2).1 = .ok true) (by decide +kernel)
    ⟨coreS [0x30 + 0x16 * 2 ^ 32 + 0x77 * 2 ^ 40 + 64 * 2 ^ 160], 0, 0, ({} : CoreEnv), o, off, cmd, w, h1, h2⟩),
   (let ⟨⟨o, off, cmd, w⟩, h1, h2⟩ := any_some (o := (coreS [0x30 + 0x20 * 2 ^ 32 + 0x77 * 2 ^ 40 + 64 * 2 ^ 160]).nextIssue 0 0 3 (({} : CoreEnv))) (p := fun z => z.2.2.1 % 256 = 0x30 ∧ cb z.2.2.1 4 1 = 0x20 ∧ (State.vop (({} : CoreEnv)) z.1 z.2.1 z.2.2.1 z.2.2.2).1 = .ok true) (by decide +kernel)
    ⟨coreS [0x30 + 0x20 * 2 ^ 32 + 0x77 * 2 ^ 40 + 64 * 2 ^ 160], 0, 0, ({} : CoreEnv), o, off, cmd, w, h1, h2⟩),
   (let ⟨⟨o, off, cmd, w⟩, h1, h2⟩ := any_some (o := (coreS [0x30 + 0x21 * 2 ^ 32 + 0x77 * 2 ^ 40 + 64 * 2 ^ 160]).nextIssue 0 0 3 (({} : CoreEnv))) (p := fun z => z.2.2.1 % 256 = 0x30 ∧ cb z.2.2.1 4 1 = 0x21 ∧ (State.vop (({} : CoreEnv)) z.1 z.2.1 z.2.2.1 z.2.2.2).1 = .ok true) (by decide +kernel)
    ⟨coreS [0x30 + 0x21 * 2 ^ 32 + 0x77 * 2 ^ 40 + 64 * 2 ^ 160], 0, 0, ({} : CoreEnv), o, off, cmd, w, h1, h2⟩)⟩

theorem test_witness_CoreSwitching :
    (∃ (s : State) (c t : Nat) (o : OnCore), (s.coreTick t).running c = some o ∧ o.rank.st = .run ∧ o.rank.replay.isNone = true ∧ o.rank.tile.off ≠ 0 ∧ (o.job.stop.isSome ∨ (s.coreTick t).preemptDue c) ∧ o.rank.tile.start + (s.coreTick t).tileLimit o (firstRank ((s.coreTick t).queuedOn c)) ≤ (s.coreTick t).clk.base) ∧
    (∃ (s : State) (c t : Nat) (o : OnCore), (s.coreTick t).running c = some o ∧ o.rank.st = .saving) ∧
    (∃ (s : State) (c t : Nat) (o : OnCore), (s.coreTick t).running c = some o ∧ o.rank.st = .restoring) ∧
    (∃ (s : State) (c unit t : Nat) (env : CoreEnv) (o : OnCore) (r : Rank) (off cmd : Nat), (s.coreTick t).issuing c = some o ∧ ((unit = 2 ∨ unit = 3)) ∧ ((s.coreTick t).prepare o env).1 = .ok r ∧ r.nextOf unit = some (off, cmd) ∧ r.tokenWait off cmd = false ∧ r.bankWait off cmd = false) :=
  ⟨⟨{ live with jobs := [{ jobW .placed [rankT] with stop := some (1, 0) }] }, (0), (4000000000), (⟨{ jobW .placed [rankT] with stop := some (1, 0) }, 0, rankT⟩), by decide +kernel⟩,
   ⟨(jobS { rankW [] with st := .saving }), (0), (0), (⟨jobW .placed [{ rankW [] with st := .saving }], 0, { rankW [] with st := .saving }⟩), by decide +kernel⟩,
   ⟨(jobS { rankW [] with st := .restoring }), (0), (0), (⟨jobW .placed [{ rankW [] with st := .restoring }], 0, { rankW [] with st := .restoring }⟩), by decide +kernel⟩,
   ⟨(coreS [0x21]), (0), (3), (0), (({} : CoreEnv)), (⟨jobW .placed [rankW [0x21]], 0, rankW [0x21]⟩), (rankW [0x21]), (0), (0x21), by decide +kernel⟩⟩

theorem test_witness_GroveStoreCommands :
    (∃ (s : State) (req : Requester) (g : Nat) (irq : Bool), g < 16 ∧ s.verdict req (Reg.GROVE_MOP_GO g) 4 true = .go) ∧
    (∃ (s : State) (req : Requester) (g : Nat) (irq : Bool), s.verdict req (Reg.GROVE_MOP_GO g) 4 true = .go ∧ g < 16 ∧ (s.mopQ g).length < 4 ∧ s.getF (Reg.GROVE_MOP_LEN g) 23 0 ≠ 0 ∧ s.getF (Reg.GROVE_MOP_LEN g) 23 0 % 64 = 0 ∧ s.getF (Reg.GROVE_MOP_LEN g) 23 0 ≤ 0x800000) ∧
    (∃ (s : State) (req : Requester) (g : Nat) (irq : Bool), g < 16 ∧ s.verdict req (Reg.GROVE_MOP_GO g) 4 true = .go) ∧
    (∃ (s : State) (req : Requester) (g : Nat) (irq : Bool), s.verdict req (Reg.GROVE_MOP_GO g) 4 true = .go ∧ g < 16 ∧ (s.mopQ g).length < 4 ∧ s.getF (Reg.GROVE_MOP_LEN g) 23 0 ≠ 0 ∧ s.getF (Reg.GROVE_MOP_LEN g) 23 0 % 64 = 0 ∧ s.getF (Reg.GROVE_MOP_LEN g) 23 0 ≤ 0x800000) ∧
    (∃ (s : State) (g t : Nat) (m : MemOp), ((s.tickTo t).mopQ g).head? = some m ∧ m.running = false ∧ (s.tickTo t).mopBlocked g m = false ∧ (s.tickTo t).dom g = 0) ∧
    (∃ (s : State) (g t : Nat) (env : MemEnv) (m : MemOp) (r : Bool × State), ((s.tickTo t).mopQ g).head? = some m ∧ m.running = true ∧ (s.tickTo t).dom g = 0 ∧ (s.tickTo t).mopRun g m env = some r) ∧
    (∃ (s : State) (req : Requester) (g value : Nat), g < 16 ∧ s.verdict req (Reg.GROVE_CLEAR_GO g) 4 true = .go) ∧
    (∃ (s : State) (req : Requester) (g : Nat), s.verdict req (Reg.GROVE_CLEAR_GO g) 4 true = .go ∧ g < 16 ∧ s.world req = true ∧ State.groveClearing (s.respOk []) g = false ∧ ((s.groveOwner g).isNone || s.groveOffline g) = true) ∧
    (∃ (s : State) (g t : Nat), g < 16 ∧ (s.tickTo t).getF (Reg.GROVE_CLEAR_STAT g) 1 0 = 1) ∧
    (∃ (s : State) (g : Nat) (ok : Bool) (t : Nat), g < 16 ∧ (s.tickTo t).getF (Reg.GROVE_CLEAR_STAT g) 1 0 = 2) :=
  ⟨⟨(live.wr (Reg.GROVE_MOP_LEN 0) 64), (.island 0), (0), (true), by decide +kernel⟩,
   ⟨(live.wr (Reg.GROVE_MOP_LEN 0) 64), (.island 0), (0), (true), by decide +kernel⟩,
   ⟨(live.wr (Reg.GROVE_MOP_LEN 0) 64), (.island 0), (0), (true), by decide +kernel⟩,
   ⟨(live.wr (Reg.GROVE_MOP_LEN 0) 64), (.island 0), (0), (true), by decide +kernel⟩,
   ⟨{ live with mops := updAt live.mops 0 fun _ => [mopX] }, (0), (0), (mopX), by decide +kernel⟩,
   ⟨{ live with mops := updAt live.mops 0 fun _ => [{ mopX with running := true }] }, (0), (0), ({} : MemEnv), ({ mopX with running := true }), _, by decide +kernel, by decide +kernel, by decide +kernel, rfl⟩,
   ⟨live, (.island 0), (3), (0x434C), by decide +kernel⟩,
   ⟨live, (.island 0), (3), by decide +kernel⟩,
   ⟨(live.wr (Reg.GROVE_CLEAR_STAT 0) 1), (0), (0), by decide +kernel⟩,
   ⟨(live.wr (Reg.GROVE_CLEAR_STAT 0) 2), (0), (true), (0), by decide +kernel⟩⟩

theorem test_witness_TicketCommands :
    (∃ (s : State) (req : Requester) (k off len : Nat), k < 24) ∧
    (∃ (s : State) (k idx t : Nat) (x : Ticket), (((s.tickTo t).office k).tickets.find? fun x => x.idx == idx) = some x ∧ x.grant + (s.tickTo t).getF (tkReg k 0x100) 15 0 * 400 ≤ (s.tickTo t).clk.base) ∧
    (∃ (s : State) (req : Requester) (k tag : Nat), k < 24) ∧
    (∃ (s : State) (req : Requester) (k value : Nat), k < 24 ∧ s.verdict req (tkReg k 0x104) 4 true = .go) ∧
    (∃ (s : State) (req : Requester) (k value : Nat), s.verdict req (tkReg k 0x104) 4 true = .go ∧ k < 24) ∧
    (∃ (s : State) (who : Issuer), s.aEntry = true) ∧
    (∃ (s : State) (req : Requester) (addr len : Nat), s.aEntry = true) :=
  ⟨⟨live, (.island 0), (0), (0), (64), by decide +kernel⟩,
   ⟨{ live with offices := updAt live.offices 0 fun o => { o with tickets := [tkX] } }, (0), (0), (400000000), (tkX), by decide +kernel⟩,
   ⟨live, (.island 0), (0), (0), by decide +kernel⟩,
   ⟨live, (.island 0), (0), (1), by decide +kernel⟩,
   ⟨live, (.island 0), (0), (1), by decide +kernel⟩,
   ⟨live, (.access (.island 0) 0 4), by decide +kernel⟩,
   ⟨live, (.island 0), (0), (4), by decide +kernel⟩⟩

theorem test_witness_FerryCommands :
    (∃ (s : State) (req : Requester) (f value : Nat), f < 32 ∧ s.verdict req (Reg.FERRY_Q_PUSH f) 4 true = .go) ∧
    (∃ (s : State) (req : Requester) (f value : Nat), s.verdict req (Reg.FERRY_Q_PUSH f) 4 true = .go ∧ f < 32 ∧ value.testBit 0 = true ∧ s.getF (Reg.FERRY_Q_LEN f) 24 0 ≠ 0 ∧ s.getF (Reg.FERRY_Q_LEN f) 24 0 % 64 = 0 ∧ s.getF (Reg.FERRY_Q_LEN f) 24 0 ≤ 2 ^ 24 ∧ (s.ferry f).queue.length < 16) ∧
    (∃ (s : State) (f t : Nat) (q : FerryOp), ((s.tickTo t).ferry f).queue.head? = some q ∧ ((s.tickTo t).ferry f).busy = false ∧ ((s.tickTo t).ferry f).failed = false ∧ (s.tickTo t).bit (Reg.FERRY_CTL f) 0 = true ∧ (s.tickTo t).leaving.contains (f / 2) = false ∧ (s.tickTo t).dom (f / 2) = 0 ∧ (s.tickTo t).park.stage < 2) ∧
    (∃ (s : State) (f t : Nat) (env : MemEnv) (q : FerryOp), ((s.tickTo t).ferry f).queue.head? = some q ∧ ((s.tickTo t).ferry f).busy = true ∧ ((s.tickTo t).ferry f).ask.isSome = false ∧ (s.tickTo t).ferryStopped f = false) :=
  ⟨⟨(live.wr (Reg.FERRY_Q_LEN 0) 64), (.island 0), (0), (1), by decide +kernel⟩,
   ⟨(live.wr (Reg.FERRY_Q_LEN 0) 64), (.island 0), (0), (1), by decide +kernel⟩,
   ⟨(live.setFerry 0 fun F => { F with queue := [fopX] }).wr (Reg.FERRY_CTL 0) 1, (0), (0), (fopX), by decide +kernel⟩,
   ⟨(live.setFerry 0 fun F => { F with queue := [fopX], busy := true }).wr (Reg.FERRY_CTL 0) 1, (0), (0), (({} : MemEnv)), (fopX), by decide +kernel⟩⟩

theorem test_witness_InferenceCommands :
    (∃ (s : State) (req : Requester) (value : Nat), s.verdict req Reg.SAFE_SELFTEST 4 true = .go ∧ s.world req = true) ∧
    (∃ (s : State) (req : Requester) (value : Nat), s.verdict req (Reg.SAFE_SELFTEST) 4 true = .go ∧ s.world req = true ∧ value.testBit 31 = true ∧ s.cEntry = true ∧ State.testable (s.respOk []) (value % 64) = true) ∧
    (∃ (s : State) (c step t : Nat) (svc y : Nat), ((s.coreTick t).core c).testing = some (svc, y) ∧ step ≤ 6 ∧ c < 64 ∧ (s.coreTick t).dom (coreGrove c) = 0 ∧ (s.coreTick t).groveClearing (coreGrove c) = false) ∧
    (∃ (s : State) (req : Requester) (value : Nat), s.verdict req Reg.SAFE_RESTORE 4 true = .go ∧ s.world req = true) ∧
    (∃ (s : State) (req : Requester) (value : Nat), s.verdict req (Reg.SAFE_RESTORE) 4 true = .go ∧ s.world req = true ∧ value.testBit 31 = true ∧ s.cEntry = true ∧ ((s.svc (value % 64) = Svc.WITHDRAWN ∨ s.svc (value % 64) = Svc.OFFLINE)) ∧ (s.core (value % 64)).passed = true) ∧
    (∃ (s : State) (req : Requester) (value : Nat), s.verdict req Reg.SAFE_CNT_CLR 4 true = .go) ∧
    (∃ (s : State) (req : Requester) (value : Nat), s.verdict req (Reg.SAFE_CNT_CLR) 4 true = .go ∧ value.testBit 31 = true) ∧
    (∃ (s : State) (k t : Nat), k < 4 ∧ (s.tickTo t).cDecl = true ∧ ((s.tickTo t).rd (Reg.SAFE_RMON_CFG k)).testBit 31 = true ∧ (s.tickTo t).bit Reg.SAFE_RMON_STAT k = false ∧ (s.tickTo t).rmon.getD k 0 + 400000 * (s.tickTo t).getF (Reg.SAFE_RMON_TMO k) 15 0 ≤ (s.tickTo t).clk.base) ∧
    (∃ (s : State) (req : Requester) (value : Nat), s.verdict req Reg.SAFE_INF_LOG_POP 4 true = .go) ∧
    (∃ (s : State) (req : Requester) (value : Nat), s.verdict req (Reg.SAFE_INF_LOG_POP) 4 true = .go ∧ value.testBit 0 = true) :=
  ⟨⟨live, (.island 0), (0x80000000), by decide +kernel⟩,
   ⟨live, (.island 0), (0x80000000), by decide +kernel⟩,
   ⟨(live.setCore 0 fun C => { C with testing := some (0, 0) }), (0), (0), (0), (0), (0), by decide +kernel⟩,
   ⟨live, (.island 0), (0x80000000), by decide +kernel⟩,
   ⟨((live.setCore 0 fun C => { C with passed := true }).setSvc 0 Svc.OFFLINE), (.island 0), (0x80000000), by decide +kernel⟩,
   ⟨live, (.island 0), (0x80000000), by decide +kernel⟩,
   ⟨live, (.island 0), (0x80000000), by decide +kernel⟩,
   ⟨(live.wr (Reg.SAFE_RMON_CFG 0) 0x80000000).wr (Reg.SAFE_RMON_TMO 0) 1, (0), (400000), by decide +kernel⟩,
   ⟨live, (.island 0), (1), by decide +kernel⟩,
   ⟨live, (.island 0), (1), by decide +kernel⟩⟩

theorem test_witness_DramCommands :
    (∃ (s : State) (req : Requester) (x value : Nat), x < 4 ∧ s.verdict req (Reg.DMC_CTL x) 4 true = .go) ∧
    (∃ (s : State) (x : Nat) (r : Train) (t : Nat), x < 4 ∧ (s.tickTo t).dmcState x = DmcSt.TRAINING) ∧
    (∃ (s : State) (x : Nat) (ok : Bool) (t : Nat), x < 4 ∧ (s.tickTo t).dmcState x = DmcSt.INIT) ∧
    (∃ (s : State) (x t : Nat) (env : MemEnv), (s.tickTo t).refreshes x = true ∧ ((s.tickTo t).grid.next.getD x 0) ≤ (s.tickTo t).clk.base) ∧
    (∃ (s : State) (x t : Nat) (b : Nat), ((s.tickTo t).dmc x).window = some b ∧ x < 4 ∧ 2 * (s.tickTo t).getF (Reg.DMC_RFSH_STAT x) 24 16 ≤ 5 * ((s.tickTo t).clk.base - b)) ∧
    (∃ (s : State) (x t : Nat), (s.tickTo t).refreshes x = true ∧ (s.tickTo t).bit (Reg.DMC_RFSH_CFG x) 16 = true ∧ ((s.tickTo t).getF (Reg.DMC_RFSH_CFG x) 15 0) ≠ 0 ∧ (s.tickTo t).grid.announced.getD x false = false ∧ 5 * ((s.tickTo t).grid.next.getD x 0 - (s.tickTo t).clk.base) ≤ 2 * ((s.tickTo t).getF (Reg.DMC_RFSH_CFG x) 15 0)) ∧
    (∃ (s : State) (codes : List Nat) (rate hot : Nat), s.grid.on = true) ∧
    (∃ (s : State) (x ch bank t : Nat), x < 4) ∧
    (∃ (s : State) (x ecc : Nat), x < 4 ∧ s.bit (Reg.DMC_STAT x) 4 = true ∧ s.dmcState x = DmcSt.SERVING ∧ s.bit (Reg.DMC_SCRUB_CFG x) 0 = true ∧ s.dmcHolds x = false ∧ s.channelUsable x ≠ 0) ∧
    (∃ (s : State) (x : Nat), x < 4 ∧ s.bit (Reg.DMC_STAT x) 4 = true ∧ s.dmcState x ≠ DmcSt.FAILED) ∧
    (∃ (s : State) (x : Nat), x < 4 ∧ s.bit (Reg.DMC_STAT x) 4 = true ∧ s.dmcState x ≠ DmcSt.FAILED) :=
  ⟨⟨live, (.island 0), (0), (0), by decide +kernel⟩,
   ⟨(live.setDmcState 0 DmcSt.TRAINING), (0), ({}), (0), by decide +kernel⟩,
   ⟨(live.setDmcState 0 DmcSt.INIT), (0), (true), (0), by decide +kernel⟩,
   ⟨dramS, (0), (5), (({} : MemEnv)), by decide +kernel⟩,
   ⟨(live.setDmc 0 fun d => { d with window := some 0 }), (0), (4000), (0), by decide +kernel⟩,
   ⟨(dramS.wr (Reg.DMC_RFSH_CFG 0) 0x10010), (0), (0), by decide +kernel⟩,
   ⟨dramS, ([]), (0), (0), by decide +kernel⟩,
   ⟨live, (0), (0), (0), (0), by decide +kernel⟩,
   ⟨(dramS.wr (Reg.DMC_SCRUB_CFG 0) 1).setDmc 0 fun d => { d with density := 4, ranks := 1, ctl := 0 }, (0), (0), by decide +kernel⟩,
   ⟨dramS, (0), by decide +kernel⟩,
   ⟨dramS, (0), by decide +kernel⟩⟩

theorem test_witness_TriggerCommands :
    (∃ (s : State) (c : Nat), c < 2) ∧
    (∃ (s : State) (req : Requester) (c value : Nat), c < 2 ∧ s.verdict req (Reg.TRIG_FORCE c) 4 true = .go) ∧
    (∃ (s : State) (req : Requester) (c value : Nat), s.verdict req (Reg.TRIG_FORCE c) 4 true = .go ∧ c < 2 ∧ value.testBit 0 = true) ∧
    (∃ (s : State) (i : Nat) (rising : Bool) (frac : Nat), i < 2) ∧
    (∃ (s : State) (c t : Nat), c < 2 ∧ ((s.tickTo t).trig c).hold.isSome = true ∧ (s.tickTo t).holdOver c (((s.tickTo t).fdig c).n - 1) = true) ∧
    (∃ (s : State) (c t : Nat), c < 2 ∧ ((s.tickTo t).fireDue c).bit (Reg.TRIG_CTL c) 12 = true ∧ (((s.tickTo t).fireDue c).prog c).ph = .ready ∧ 0 < (((s.tickTo t).fireDue c).fdig c).n ∧ (((s.tickTo t).fireDue c).trig c).ready + ((s.tickTo t).fireDue c).getF (Reg.TRIG_AUTO_TMO c) 23 0 * 400 ≤ ((s.tickTo t).fireDue c).clk.base) :=
  ⟨⟨live, (0), by decide +kernel⟩,
   ⟨live, (.island 0), (0), (1), by decide +kernel⟩,
   ⟨live, (.island 0), (0), (1), by decide +kernel⟩,
   ⟨live, (1), (true), (0), by decide +kernel⟩,
   ⟨trigS, (0), (0), by decide +kernel⟩,
   ⟨autoS, (0), (400), by decide +kernel⟩⟩

theorem test_witness_BerthCommands :
    (∃ (s : State) (req : Requester) (p : Nat), p < 2 ∧ s.verdict req (Reg.BERTH_ARM p) 4 true = .go) ∧
    (∃ (s : State) (req : Requester) (p : Nat), s.verdict req (Reg.BERTH_ARM p) 4 true = .go ∧ p < 2) ∧
    (∃ (s : State) (req : Requester) (p : Nat), p < 2 ∧ s.verdict req (Reg.BERTH_ARM p) 4 true = .go) ∧
    (∃ (s : State) (req : Requester) (p : Nat), s.verdict req (Reg.BERTH_ARM p) 4 true = .go ∧ p < 2) ∧
    (∃ (s : State) (p t : Nat), p < 2 ∧ (s.tickTo t).pMode p = 3 ∧ (s.tickTo t).rd (Reg.BERTH_DONE_CNT p) ≠ ((s.tickTo t).prog p).copied % 2 ^ 32 ∧ ((s.tickTo t).prog p).copying.isNone = true ∧ ((s.tickTo t).rd (Reg.BERTH_STAIL p) + 1) % (max ((s.tickTo t).getF (Reg.BERTH_SCOUNT p) 23 0) 1) ≠ (s.tickTo t).rd (Reg.BERTH_SHEAD p) % (max ((s.tickTo t).getF (Reg.BERTH_SCOUNT p) 23 0) 1) ∧ (s.tickTo t).dom 24 ≠ 3) ∧
    (∃ (s : State) (p t : Nat) (env : MemEnv), p < 2 ∧ ((s.tickTo t).prog p).copying.isNone = false) :=
  ⟨⟨live, (.island 0), (0), by decide +kernel⟩,
   ⟨live, (.island 0), (0), by decide +kernel⟩,
   ⟨live, (.island 0), (0), by decide +kernel⟩,
   ⟨live, (.island 0), (0), by decide +kernel⟩,
   ⟨strmCopyS, (0), (0), by decide +kernel, by decide +kernel, by decide +kernel, by decide +kernel, by decide +kernel, by decide +kernel⟩,
   ⟨(strmCopyS.setProg 0 fun g => { g with copying := some 0 }), (0), (0), (({} : MemEnv)), by decide +kernel⟩⟩

theorem test_witness_FdigCommands :
    (∃ (s : State) (c : Nat) (raw : Int) (ecc t : Nat), c < 2 ∧ (s.tickTo t).fdigRuns c = true ∧ (s.tickTo t).park.stage < 2) ∧
    (∃ (s : State) (c t inc out : Nat), c < 2 ∧ (s.tickTo t).getF (Reg.FDIG_CTL c) 2 1 ≠ 0 ∧ (s.tickTo t).fdigState c = FdSt.READY ∧ (s.tickTo t).dom 24 = 0 ∧ (s.tickTo t).park.stage < 2 ∧ ((s.tickTo t).fdig c).lastSwap + (s.tickTo t).calPeriod c ≤ (s.tickTo t).clk.base ∧ (((s.tickTo t).slicesOf c).find? fun k => (s.tickTo t).slice k == 1) = some inc ∧ (((s.tickTo t).slicesOf c).find? fun k => (s.tickTo t).slice k == 0) = some out) ∧
    (∃ (s : State) (c : Nat) (ok : Bool) (t b k : Nat), c < 2 ∧ (s.tickTo t).getF (Reg.FDIG_CTL c) 2 1 ≠ 0 ∧ ((s.tickTo t).fdig c).bg = some b ∧ (((s.tickTo t).slicesOf c).find? fun k => (s.tickTo t).slice k == 2) = some k ∧ (s.tickTo t).dom 24 = 0 ∧ (s.tickTo t).park.stage < 2 ∧ b + 800000 ≤ (s.tickTo t).clk.base) ∧
    (∃ (s : State) (c fails t : Nat) (b : Nat), ((s.tickTo t).fdig c).fg = some b ∧ c < 2 ∧ b + 2000000 ≤ (s.tickTo t).clk.base ∧ (s.tickTo t).bit (Reg.FDIG_STAT c) 16 = true ∧ ¬(c = 1 ∧ (s.tickTo t).combined)) ∧
    (∃ (s : State) (req : Requester) (value : Nat), s.verdict req Reg.SYS_SCOPE_PERMIT 4 true = .go) ∧
    (∃ (s : State) (c t : Nat), c < 2 ∧ ((s.tickTo t).fdig c).settle + 800 ≤ (s.tickTo t).clk.base) ∧
    (∃ (s : State), s.released Blk.FDIG = true ∧ s.bit (Reg.FDIG_STAT 0) 16 = true) ∧
    (∃ (s : State) (t : Nat), (s.tickTo t).released Blk.FDIG = true ∧ (s.tickTo t).bit (Reg.FDIG_STAT 0) 16 = false) ∧
    (∃ (s : State) (c t : Nat), c < 2 ∧ (s.tickTo t).released Blk.FDIG = true ∧ 1 ≤ ((s.tickTo t).getF (Reg.FDIG_INPUT c) 5 0) ∧ ((s.tickTo t).getF (Reg.FDIG_INPUT c) 5 0) ≤ 4 ∧ (s.tickTo t).bit (Reg.FDIG_INPUT c) 12 = false) ∧
    (∃ (s : State) (c t : Nat), c < 2 ∧ (s.tickTo t).released Blk.FDIG = true ∧ 1 ≤ (s.tickTo t).getF (Reg.FDIG_INPUT c) 5 0 ∧ (s.tickTo t).getF (Reg.FDIG_INPUT c) 5 0 ≤ 4 ∧ (s.tickTo t).bit (Reg.FDIG_INPUT c) 12 = false) ∧
    (∃ (s : State) (c t : Nat), c < 2 ∧ ((s.tickTo t).fdig c).ovld + 400000 ≤ (s.tickTo t).clk.base) :=
  ⟨⟨fdigS, (0), (0), (0), (0), by decide +kernel⟩,
   ⟨(fdigS.wr (Reg.FDIG_CTL 0) 3).setSlice 0 1, (0), (400000000000), (0), (1), by decide +kernel⟩,
   ⟨((fdigS.wr (Reg.FDIG_CTL 0) 3).setFdig 0 fun x => { x with bg := some 0 }).setSlice 0 2, (0), (true), (800000), (0), (0), by decide +kernel⟩,
   ⟨(fdigS.setFdig 0 fun x => { x with fg := some 0 }), (0), (0), (2000000), (0), by decide +kernel⟩,
   ⟨live, (.island 0), (0), by decide +kernel⟩,
   ⟨live, (0), (800), by decide +kernel⟩,
   ⟨fdigS, by decide +kernel⟩,
   ⟨(live.wr (Reg.FDIG_STAT 0) 0), (0), by decide +kernel⟩,
   ⟨(live.wr (Reg.FDIG_INPUT 0) 1), (0), (0), by decide +kernel⟩,
   ⟨(live.wr (Reg.FDIG_INPUT 0) 1), (0), (0), by decide +kernel⟩,
   ⟨live, (0), (400000), by decide +kernel⟩⟩

theorem test_witness_SenseCommands :
    (∃ (s : State) (g : Nat) (raw other : Int) (t : Nat), g < 4 ∧ (s.tickTo t).boot.held = false ∧ (s.tickTo t).park.stage < 2 ∧ (s.tickTo t).seqOn g = true ∧ (s.tickTo t).grpFailed g = false) ∧
    (∃ (s : State) (g : Nat) (refOk fail : Bool) (t : Nat), g < 4 ∧ (s.tickTo t).boot.held = false ∧ (s.tickTo t).park.stage < 2 ∧ (s.tickTo t).seqOn g = true ∧ (s.tickTo t).grpFailed g = false ∧ ((s.tickTo t).grp g).table.length ≤ ((s.tickTo t).grp g).slot) ∧
    (∃ (s : State) (req : Requester) (g value : Nat), g < 4 ∧ s.verdict req (Reg.SENSE_SEQ_COMMIT g) 4 true = .go) ∧
    (∃ (s : State) (req : Requester) (g value : Nat), s.verdict req (Reg.SENSE_SEQ_COMMIT g) 4 true = .go ∧ g < 4 ∧ value.testBit 0 = true ∧ tableValid (s.staged g) = true) ∧
    (∃ (s : State) (t k : Nat), (((List.range 4).find? fun i => !(s.tickTo t).grpFailed (((s.tickTo t).sns.turn + i) % 4)) = some k) ∧ (s.tickTo t).boot.held = false ∧ (s.tickTo t).park.stage < 2 ∧ (s.tickTo t).bit Reg.SENSE4_CTL 0 = true ∧ (s.tickTo t).spare ≠ 7 ∧ (s.tickTo t).conv' (s.tickTo t).spare = 1 ∧ (s.tickTo t).sns.due = none ∧ (s.tickTo t).seqOn (((s.tickTo t).sns.turn + k) % 4) = true ∧ (((s.tickTo t).sns.retry = true ∨ (s.tickTo t).sns.lastSwap + 400000 * (s.tickTo t).getF Reg.SENSE4_CAL_PERIOD 15 0 ≤ (s.tickTo t).clk.base))) ∧
    (∃ (s : State) (ok : Bool) (t : Nat) (b : Nat), (s.tickTo t).sns.cal = some b ∧ (s.tickTo t).boot.held = false ∧ b + 400000 ≤ (s.tickTo t).clk.base ∧ (s.tickTo t).spare ≠ 7 ∧ (s.tickTo t).bit Reg.SENSE4_CTL 0 = true) ∧
    (∃ (s : State) (req : Requester) (k value : Nat), k < 5 ∧ s.verdict req (Reg.SENSE_URG k) 4 true = .go) ∧
    (∃ (s : State) (req : Requester) (k value : Nat), s.verdict req (Reg.SENSE_URG k) 4 true = .go ∧ k < 4 ∧ s.sns.groups.length = 4 ∧ value.testBit 31 = true ∧ fld value 3 0 < 12 ∧ s.urgCause k = 0) ∧
    (∃ (s : State) (req : Requester) (k value : Nat), s.verdict req (Reg.SENSE_URG k) 4 true = .go ∧ k = 4 ∧ value.testBit 31 = true ∧ fld value 5 0 < 48 ∧ s.urgCause k ≠ 0) ∧
    (∃ (s : State) (k : Nat) (raw : Int) (t : Nat) (i b : Nat), (s.tickTo t).urg k = some (i, b) ∧ k < 5 ∧ (s.tickTo t).park.stage < 2 ∧ b + 50 ≤ (s.tickTo t).clk.base) ∧
    (∃ (s : State) (k : Nat) (raw : Int) (t i b : Nat), k < 5 ∧ (s.tickTo t).urg k = some (i, b) ∧ (s.tickTo t).park.stage < 2 ∧ b + 50 ≤ (s.tickTo t).clk.base ∧ (senseCode raw).2 = false) :=
  ⟨⟨senseS, (0), (0), (0), (0), by decide +kernel⟩,
   ⟨(senseS.setGrp 0 fun x => { x with table := [], slot := 0 }), (0), (true), (true), (0), by decide +kernel⟩,
   ⟨senseS3, (.island 0), (0), (1), by decide +kernel⟩,
   ⟨senseS3, (.island 0), (0), (1), by decide +kernel⟩,
   ⟨senseS, (40000000000), (0), by decide +kernel⟩,
   ⟨{ senseS with sns := { senseS.sns with cal := some 0 } }, (true), (400000), (0), by decide +kernel⟩,
   ⟨live, (.island 0), (1), (0x80000003), by decide +kernel⟩,
   ⟨(senseS.wr (Reg.SENSE_CTL 1) 0), (.island 0), (1), (0x80000003), by decide +kernel⟩,
   ⟨(senseS.wr Reg.SENSE4_STAT 7), (.island 0), (4), (0x80000003), by decide +kernel⟩,
   ⟨(senseS.setUrg 0 (some (0, 0))), (0), (0), (50), (0), (0), by decide +kernel⟩,
   ⟨(senseS.setUrg 0 (some (0, 0))), (0), (0), (50), (0), (0), by decide +kernel⟩⟩

theorem test_witness_ProtectionCommands :
    (∃ (s : State) (j t : Nat), j < 16 ∧ (s.tickTo t).boot.held = false) ∧
    (∃ (s : State) (j t : Nat), j < 16 ∧ (s.tickTo t).boot.held = false ∧ (s.tickTo t).protState j = PrSt.FAULT ∧ ((s.tickTo t).protCh j).since + 400000 * (s.tickTo t).getF Reg.PROT_TIMING 15 0 ≤ (s.tickTo t).clk.base) ∧
    (∃ (s : State) (j t : Nat), j < 16 ∧ (s.tickTo t).protState j = PrSt.RETRY ∧ ((s.tickTo t).chan j).ph = .on ∧ ((s.tickTo t).chan j).at' + 400000 * (s.tickTo t).getF Reg.PROT_OK_MS 15 0 ≤ (s.tickTo t).clk.base) ∧
    (∃ (s : State) (req : Requester) (value : Nat), s.verdict req Reg.PROT_CLR 4 true = .go) ∧
    (∃ (s : State) (req : Requester) (value : Nat), s.verdict req (Reg.PROT_CLR) 4 true = .go ∧ (((List.range 16).filter fun j => value.testBit j).all (fun j => s.protState j == PrSt.LOCKOUT) = true)) ∧
    (∃ (s : State) (req : Requester) (value : Nat), s.verdict req Reg.PROT_FORCE_HOLD 4 true = .go) ∧
    (∃ (s : State), s.boot.held = false) ∧
    (∃ (s : State) (req : Requester) (value : Nat), s.verdict req Reg.PROT_LOG_POP 4 true = .go) ∧
    (∃ (s : State) (req : Requester) (value : Nat), s.verdict req (Reg.PROT_LOG_POP) 4 true = .go ∧ value.testBit 0 = true) :=
  ⟨⟨live, (0), (0), by decide +kernel⟩,
   ⟨(live.wr (Reg.PROT_CH_STAT 0) PrSt.FAULT), (0), (40000000000), by decide +kernel⟩,
   ⟨(live.wr (Reg.PROT_CH_STAT 0) PrSt.RETRY).setChan 0 fun c => { c with ph := .on }, (0), (40000000000), by decide +kernel⟩,
   ⟨live, (.island 0), (1), by decide +kernel⟩,
   ⟨(live.wr (Reg.PROT_CH_STAT 0) PrSt.LOCKOUT), (.island 0), (1), by decide +kernel⟩,
   ⟨live, (.island 0), (0), by decide +kernel⟩,
   ⟨live, by decide +kernel⟩,
   ⟨live, (.island 0), (1), by decide +kernel⟩,
   ⟨live, (.island 0), (1), by decide +kernel⟩⟩

theorem test_witness_WseqChannelCommands :
    (∃ (s : State) (u t ecc word : Nat), ((s.tickTo t).lanesDue).released Blk.WSEQ = true ∧ u < 16 ∧ ((s.tickTo t).lanesDue).bit (Reg.WSEQ_CH_CFG u) 1 = true ∧ ((s.tickTo t).lanesDue).chimed u = false) ∧
    (∃ (s : State) (u t ecc word : Nat), ((s.tickTo t).lanesDue).released Blk.WSEQ = true ∧ u < 16 ∧ ¬(((s.tickTo t).lanesDue).bit (Reg.WSEQ_CH_CFG u) 1 = true ∧ ((s.tickTo t).lanesDue).chimed u = false)) ∧
    (∃ (s : State) (u t ecc word : Nat), ((s.tickTo t).lanesDue).released Blk.WSEQ = true ∧ 16 ≤ u ∧ u < 20) ∧
    (∃ (s : State) (req : Requester) (j value : Nat), j < 16 ∧ s.verdict req (Reg.WSEQ_CH_CFG j) 4 true = .go) ∧
    (∃ (s : State) (req : Requester) (j value : Nat), s.verdict req (Reg.WSEQ_CH_CFG j) 4 true = .go ∧ j < 16 ∧ s.bit (Reg.WSEQ_CH_CFG j) 0 = false) ∧
    (∃ (s : State) (j t : Nat), j < 16 ∧ (((s.tickTo t).lanesDue).chan j).ph = .lead ∧ (((s.tickTo t).lanesDue).chan j).at' + ((s.tickTo t).lanesDue).getF Reg.WSEQ_PSEN_CFG 15 0 * 400 ≤ ((s.tickTo t).lanesDue).clk.base) ∧
    (∃ (s : State) (j t : Nat), j < 16 ∧ (((s.tickTo t).lanesDue).chan j).ph = .lag ∧ (((s.tickTo t).lanesDue).chan j).at' + ((s.tickTo t).lanesDue).getF Reg.WSEQ_PSEN_CFG 31 16 * 400 ≤ ((s.tickTo t).lanesDue).clk.base) :=
  ⟨⟨(live.wr (Reg.WSEQ_CH_CFG 0) 2), (0), (0), (0), (0), by decide +kernel⟩,
   ⟨live, (0), (0), (0), (0), by decide +kernel⟩,
   ⟨live, (17), (0), (0), (0), by decide +kernel⟩,
   ⟨live, (.island 0), (0), (0), by decide +kernel⟩,
   ⟨live, (.island 0), (0), (0), by decide +kernel⟩,
   ⟨(live.setChan 0 fun c => { c with ph := .lead }), (0), (40000000), by decide +kernel⟩,
   ⟨(live.setChan 0 fun c => { c with ph := .lag }), (0), (40000000), by decide +kernel⟩⟩

theorem test_witness_ThreadCommands :
    (∃ (s : State) (req : Requester) (h : Nat), h < 4 ∧ s.verdict req (Reg.WSEQ_THR_CTL h) 4 true = .go) ∧
    (∃ (s : State) (req : Requester) (h : Nat), s.verdict req (Reg.WSEQ_THR_CTL h) 4 true = .go ∧ h < 4) ∧
    (∃ (s : State) (req : Requester) (h : Nat), h < 4 ∧ s.verdict req (Reg.WSEQ_THR_CTL h) 4 true = .go) ∧
    (∃ (s : State) (req : Requester) (h : Nat), s.verdict req (Reg.WSEQ_THR_CTL h) 4 true = .go ∧ h < 4 ∧ s.bit (Reg.WSEQ_THR_CTL h) 0 = true) ∧
    (∃ (s : State) (h t ecc w : Nat) (v : State), s.thrWord h t ecc = some (w, v) ∧ fld w 63 58 = 0) ∧
    (∃ (s : State) (h t ecc w : Nat) (v : State), s.thrWord h t ecc = some (w, v) ∧ fld w 63 58 = 1) ∧
    (∃ (s : State) (h t ecc w : Nat) (v : State), s.thrWord h t ecc = some (w, v) ∧ fld w 63 58 = 2) ∧
    (∃ (s : State) (h t ecc w : Nat) (v : State), s.thrWord h t ecc = some (w, v) ∧ fld w 63 58 = 3) ∧
    (∃ (s : State) (h t ecc w : Nat) (v : State), s.thrWord h t ecc = some (w, v) ∧ fld w 63 58 = 3 ∧ fld w 50 35 ≠ 0 ∧ (v.thr h).vec = none) ∧
    (∃ (s : State) (h t ecc w : Nat) (v : State), s.thrWord h t ecc = some (w, v) ∧ fld w 63 58 = 4) ∧
    (∃ (s : State) (h t ecc w : Nat) (v : State), s.thrWord h t ecc = some (w, v) ∧ fld w 63 58 = 4 ∧ (v.thr h).loops.length < 8 ∧ fld w 15 0 ≠ 0) ∧
    (∃ (s : State) (h t ecc w : Nat) (v : State), s.thrWord h t ecc = some (w, v) ∧ fld w 63 58 = 5) ∧
    (∃ (s : State) (h t ecc w : Nat) (v : State), s.thrWord h t ecc = some (w, v) ∧ fld w 63 58 = 5 ∧ ((v.thr h).loops.head?.any (fun e => decide (1 < e.2)) = true)) ∧
    (∃ (s : State) (h t ecc w : Nat) (v : State), s.thrWord h t ecc = some (w, v) ∧ fld w 63 58 = 5 ∧ ((v.thr h).loops.head?.any (fun e => decide (e.2 ≤ 1)) = true)) ∧
    (∃ (s : State) (h t ecc w : Nat) (v : State), s.thrWord h t ecc = some (w, v) ∧ fld w 63 58 = 6) ∧
    (∃ (s : State) (h t ecc w : Nat) (v : State), s.thrWord h t ecc = some (w, v) ∧ fld w 63 58 = 6 ∧ (v.thr h).calls.length < 8) ∧
    (∃ (s : State) (h t ecc w : Nat) (v : State), s.thrWord h t ecc = some (w, v) ∧ fld w 63 58 = 7) ∧
    (∃ (s : State) (h t ecc w : Nat) (v : State), s.thrWord h t ecc = some (w, v) ∧ fld w 63 58 = 7 ∧ (v.thr h).calls ≠ []) ∧
    (∃ (s : State) (h t ecc w : Nat) (v : State), s.thrWord h t ecc = some (w, v) ∧ fld w 63 58 = 8) ∧
    (∃ (s : State) (h t ecc w : Nat) (v : State), s.thrWord h t ecc = some (w, v) ∧ fld w 63 58 = 9) ∧
    (∃ (s : State) (h t : Nat), h < 4 ∧ (s.tickTo t).bit (Reg.WSEQ_THR_CTL h) 0 = true ∧ (s.tickTo t).thrState h = ThrSt.WAIT_TIME ∧ ((s.tickTo t).thr h).until' ≤ (s.tickTo t).clk.base) ∧
    (∃ (s : State) (h t ecc w : Nat) (v : State), s.thrWord h t ecc = some (w, v) ∧ fld w 63 58 = 10) ∧
    (∃ (s : State) (h t ecc w : Nat) (v : State), s.thrWord h t ecc = some (w, v) ∧ fld w 63 58 = 11) ∧
    (∃ (s : State) (h t ecc w : Nat) (v : State), s.thrWord h t ecc = some (w, v) ∧ fld w 63 58 = 12) ∧
    (∃ (s : State) (h t ecc w : Nat) (v : State), s.thrWord h t ecc = some (w, v) ∧ 12 < fld w 63 58) :=
  ⟨⟨live, (.island 0), (0), by decide +kernel⟩,
   ⟨live, (.island 0), (0), by decide +kernel⟩,
   ⟨(thrS 0), (.island 0), (0), by decide +kernel⟩,
   ⟨(thrS 0), (.island 0), (0), by decide +kernel⟩,
   (let ⟨⟨w, v⟩, h1, h2⟩ := any_some (o := (thrS 0).thrWord 0 0 0) (p := fun z => fld z.1 63 58 = 0) (by decide +kernel)
    ⟨thrS 0, 0, 0, 0, w, v, h1, h2⟩),
   (let ⟨⟨w, v⟩, h1, h2⟩ := any_some (o := (thrS (2 ^ 58)).thrWord 0 0 0) (p := fun z => fld z.1 63 58 = 1) (by decide +kernel)
    ⟨thrS (2 ^ 58), 0, 0, 0, w, v, h1, h2⟩),
   (let ⟨⟨w, v⟩, h1, h2⟩ := any_some (o := (thrS (2 * 2 ^ 58)).thrWord 0 0 0) (p := fun z => fld z.1 63 58 = 2) (by decide +kernel)
    ⟨thrS (2 * 2 ^ 58), 0, 0, 0, w, v, h1, h2⟩),
   (let ⟨⟨w, v⟩, h1, h2⟩ := any_some (o := (thrS (3 * 2 ^ 58 + 2 ^ 35)).thrWord 0 0 0) (p := fun z => fld z.1 63 58 = 3) (by decide +kernel)
    ⟨thrS (3 * 2 ^ 58 + 2 ^ 35), 0, 0, 0, w, v, h1, h2⟩),
   (let ⟨⟨w, v⟩, h1, h2⟩ := any_some (o := ((thrS (3 * 2 ^ 58 + 2 ^ 35))).thrWord (0) (0) (0)) (p := fun z => fld z.1 63 58 = 3 ∧ fld z.1 50 35 ≠ 0 ∧ (z.2.thr (0)).vec = none) (by decide +kernel)
    ⟨(thrS (3 * 2 ^ 58 + 2 ^ 35)), (0), (0), (0), w, v, h1, h2⟩),
   (let ⟨⟨w, v⟩, h1, h2⟩ := any_some (o := (thrS (4 * 2 ^ 58 + 3)).thrWord 0 0 0) (p := fun z => fld z.1 63 58 = 4) (by decide +kernel)
    ⟨thrS (4 * 2 ^ 58 + 3), 0, 0, 0, w, v, h1, h2⟩),
   (let ⟨⟨w, v⟩, h1, h2⟩ := any_some (o := ((thrS (4 * 2 ^ 58 + 3))).thrWord (0) (0) (0)) (p := fun z => fld z.1 63 58 = 4 ∧ (z.2.thr (0)).loops.length < 8 ∧ fld z.1 15 0 ≠ 0) (by decide +kernel)
    ⟨(thrS (4 * 2 ^ 58 + 3)), (0), (0), (0), w, v, h1, h2⟩),
   (let ⟨⟨w, v⟩, h1, h2⟩ := any_some (o := (thrS (5 * 2 ^ 58)).thrWord 0 0 0) (p := fun z => fld z.1 63 58 = 5) (by decide +kernel)
    ⟨thrS (5 * 2 ^ 58), 0, 0, 0, w, v, h1, h2⟩),
   (let ⟨⟨w, v⟩, h1, h2⟩ := any_some (o := (((thrS (5 * 2 ^ 58)).setThr 0 fun x => { x with loops := [(0, 2)] })).thrWord (0) (0) (0)) (p := fun z => fld z.1 63 58 = 5 ∧ ((z.2.thr (0)).loops.head?.any (fun e => decide (1 < e.2)) = true)) (by decide +kernel)
    ⟨((thrS (5 * 2 ^ 58)).setThr 0 fun x => { x with loops := [(0, 2)] }), (0), (0), (0), w, v, h1, h2⟩),
   (let ⟨⟨w, v⟩, h1, h2⟩ := any_some (o := (((thrS (5 * 2 ^ 58)).setThr 0 fun x => { x with loops := [(0, 1)] })).thrWord (0) (0) (0)) (p := fun z => fld z.1 63 58 = 5 ∧ ((z.2.thr (0)).loops.head?.any (fun e => decide (e.2 ≤ 1)) = true)) (by decide +kernel)
    ⟨((thrS (5 * 2 ^ 58)).setThr 0 fun x => { x with loops := [(0, 1)] }), (0), (0), (0), w, v, h1, h2⟩),
   (let ⟨⟨w, v⟩, h1, h2⟩ := any_some (o := (thrS (6 * 2 ^ 58 + 9)).thrWord 0 0 0) (p := fun z => fld z.1 63 58 = 6) (by decide +kernel)
    ⟨thrS (6 * 2 ^ 58 + 9), 0, 0, 0, w, v, h1, h2⟩),
   (let ⟨⟨w, v⟩, h1, h2⟩ := any_some (o := ((thrS (6 * 2 ^ 58 + 9))).thrWord (0) (0) (0)) (p := fun z => fld z.1 63 58 = 6 ∧ (z.2.thr (0)).calls.length < 8) (by decide +kernel)
    ⟨(thrS (6 * 2 ^ 58 + 9)), (0), (0), (0), w, v, h1, h2⟩),
   (let ⟨⟨w, v⟩, h1, h2⟩ := any_some (o := (thrS (7 * 2 ^ 58)).thrWord 0 0 0) (p := fun z => fld z.1 63 58 = 7) (by decide +kernel)
    ⟨thrS (7 * 2 ^ 58), 0, 0, 0, w, v, h1, h2⟩),
   (let ⟨⟨w, v⟩, h1, h2⟩ := any_some (o := (((thrS (7 * 2 ^ 58)).setThr 0 fun x => { x with calls := [5] })).thrWord (0) (0) (0)) (p := fun z => fld z.1 63 58 = 7 ∧ (z.2.thr (0)).calls ≠ []) (by decide +kernel)
    ⟨((thrS (7 * 2 ^ 58)).setThr 0 fun x => { x with calls := [5] }), (0), (0), (0), w, v, h1, h2⟩),
   (let ⟨⟨w, v⟩, h1, h2⟩ := any_some (o := (thrS (8 * 2 ^ 58 + 9)).thrWord 0 0 0) (p := fun z => fld z.1 63 58 = 8) (by decide +kernel)
    ⟨thrS (8 * 2 ^ 58 + 9), 0, 0, 0, w, v, h1, h2⟩),
   (let ⟨⟨w, v⟩, h1, h2⟩ := any_some (o := (thrS (9 * 2 ^ 58 + 3)).thrWord 0 0 0) (p := fun z => fld z.1 63 58 = 9) (by decide +kernel)
    ⟨thrS (9 * 2 ^ 58 + 3), 0, 0, 0, w, v, h1, h2⟩),
   ⟨((thrS 0).setThrState 0 ThrSt.WAIT_TIME), (0), (0), by decide +kernel⟩,
   (let ⟨⟨w, v⟩, h1, h2⟩ := any_some (o := (thrS (10 * 2 ^ 58)).thrWord 0 0 0) (p := fun z => fld z.1 63 58 = 10) (by decide +kernel)
    ⟨thrS (10 * 2 ^ 58), 0, 0, 0, w, v, h1, h2⟩),
   (let ⟨⟨w, v⟩, h1, h2⟩ := any_some (o := (thrS (11 * 2 ^ 58 + 7)).thrWord 0 0 0) (p := fun z => fld z.1 63 58 = 11) (by decide +kernel)
    ⟨thrS (11 * 2 ^ 58 + 7), 0, 0, 0, w, v, h1, h2⟩),
   (let ⟨⟨w, v⟩, h1, h2⟩ := any_some (o := (thrS (12 * 2 ^ 58)).thrWord 0 0 0) (p := fun z => fld z.1 63 58 = 12) (by decide +kernel)
    ⟨thrS (12 * 2 ^ 58), 0, 0, 0, w, v, h1, h2⟩),
   (let ⟨⟨w, v⟩, h1, h2⟩ := any_some (o := (thrS (13 * 2 ^ 58)).thrWord 0 0 0) (p := fun z => 12 < fld z.1 63 58) (by decide +kernel)
    ⟨thrS (13 * 2 ^ 58), 0, 0, 0, w, v, h1, h2⟩)⟩

theorem test_witness_PlayCommands :
    (∃ (s : State) (h t : Nat) (c : Play), h < 4 ∧ ((s.tickTo t).thr h).cur = some c ∧ c.rep ≠ 0 ∧ ((((s.tickTo t).seg c.seg).len * c.rep : Nat) : Rat) ≤ (s.tickTo t).playPos c ((s.tickTo t).clk.base : Rat) ∧ ((s.tickTo t).thr h).next = none) ∧
    (∃ (s : State) (h t : Nat) (c : Play) (n : Play), h < 4 ∧ ((s.tickTo t).thr h).cur = some c ∧ c.rep ≠ 0 ∧ ((((s.tickTo t).seg c.seg).len * c.rep : Nat) : Rat) ≤ (s.tickTo t).playPos c ((s.tickTo t).clk.base : Rat) ∧ ((s.tickTo t).thr h).next = some n ∧ n.line.isNone = false) ∧
    (∃ (s : State) (h t : Nat) (c : Play) (n : Play), h < 4 ∧ ((s.tickTo t).thr h).cur = some c ∧ c.rep ≠ 0 ∧ ((((s.tickTo t).seg c.seg).len * c.rep : Nat) : Rat) ≤ (s.tickTo t).playPos c ((s.tickTo t).clk.base : Rat) ∧ ((s.tickTo t).thr h).next = some n ∧ n.line = none) ∧
    (∃ (s : State) (l t : Nat) (e : Nat × Nat), (((s.tickTo t).wseq.lines.find? fun e => e.1 == l && decide (e.2 ≤ (s.tickTo t).clk.base)) = some e)) ∧
    (∃ (s : State) (req : Requester) (value : Nat), s.verdict req (Reg.WSEQ_LINE_SW) 4 true = .go) ∧
    (∃ (s : State) (req : Requester) (value : Nat), s.verdict req Reg.WSEQ_CHIME_CFG 4 true = .go ∧ s.world req = true) ∧
    (∃ (s : State) (req : Requester) (value : Nat), s.verdict req (Reg.WSEQ_CHIME_CFG) 4 true = .go ∧ s.world req = true ∧ value.testBit 31 = false) ∧
    (∃ (s : State) (req : Requester) (l value : Nat), l < 2 ∧ s.verdict req (Reg.WSEQ_CHL_START l) 4 true = .go ∧ s.world req = true) ∧
    (∃ (s : State) (req : Requester) (l value : Nat), l < 2 ∧ s.verdict req (Reg.WSEQ_CHL_STOP l) 4 true = .go ∧ s.world req = true ∧ value.testBit 0 = true) ∧
    (∃ (s : State) (l t : Nat) (p : Play), (((s.tickTo t).lanesDue).lane l).play = some p ∧ l < 2 ∧ p.rep ≠ 0 ∧ (((((s.tickTo t).lanesDue).seg p.seg).len * p.rep : Nat) : Rat) ≤ ((s.tickTo t).lanesDue).playPos p (((s.tickTo t).lanesDue).clk.base : Rat)) :=
  ⟨⟨(live.setThr 0 fun x => { x with cur := some playX }), (0), (0), (playX), by decide +kernel⟩,
   ⟨(live.setThr 0 fun x => { x with cur := some playX, next := some { playX with line := some 1 } }), (0), (0), (playX), ({ playX with line := some 1 }), by decide +kernel⟩,
   ⟨(live.setThr 0 fun x => { x with cur := some playX, next := some playX }), (0), (0), (playX), (playX), by decide +kernel⟩,
   ⟨{ live with wseq := { live.wseq with lines := [(0, 0)] } }, (0), (0), ((0, 0)), by decide +kernel⟩,
   ⟨live, (.island 0), (1), by decide +kernel⟩,
   ⟨live, (.island 0), (0), by decide +kernel⟩,
   ⟨live, (.island 0), (0), by decide +kernel⟩,
   ⟨live, (.island 0), (0), (0x80000000), by decide +kernel⟩,
   ⟨live, (.island 0), (0), (1), by decide +kernel⟩,
   ⟨(live.setLane 0 fun x => { x with play := some playX }), (0), (0), (playX), by decide +kernel⟩⟩

theorem test_witness_WseqMemoryCommands :
    (∃ (s : State) (k t : Nat) (env : MemEnv), k < 4 ∧ (s.tickTo t).released Blk.WSEQ = true ∧ (s.tickTo t).bit (Reg.WSEQ_STRM_CFG k) 0 = true) ∧
    (∃ (s : State) (req : Requester) (value : Nat), s.verdict req Reg.WSEQ_MEM_DATA 4 true = .go) ∧
    (∃ (s : State) (k t : Nat) (env : MemEnv) (d : List Byte) (v : State), k < 4 ∧ (s.tickTo t).released Blk.WSEQ = true ∧ (s.tickTo t).bit (Reg.WSEQ_STRM_CFG k) 0 = true ∧ (s.tickTo t).cEntry = true ∧ ((s.tickTo t).strm k).fifo.length + 256 ≤ 8192 ∧ 256 ≤ ((s.tickTo t).rd (Reg.WSEQ_STRM_TAIL k) % max ((s.tickTo t).rd (Reg.WSEQ_STRM_SIZE k)) 1 + max ((s.tickTo t).rd (Reg.WSEQ_STRM_SIZE k)) 1 - (s.tickTo t).rd (Reg.WSEQ_STRM_HEAD k) % max ((s.tickTo t).rd (Reg.WSEQ_STRM_SIZE k)) 1) % max ((s.tickTo t).rd (Reg.WSEQ_STRM_SIZE k)) 1 ∧ (s.tickTo t).blockRead Blk.WSEQ 0 (2 ^ 32 * (s.tickTo t).getF (Reg.WSEQ_STRM_BASE_HI k) 15 0 + (s.tickTo t).getF (Reg.WSEQ_STRM_BASE_LO k) 31 8 * 256 + (s.tickTo t).rd (Reg.WSEQ_STRM_HEAD k) % max ((s.tickTo t).rd (Reg.WSEQ_STRM_SIZE k)) 1) 256 env = (.done, d, v)) ∧
    (∃ (s : State) (req : Requester) (value : Nat), s.verdict req (Reg.WSEQ_MEM_DATA) 4 true = .go ∧ s.bit Reg.WSEQ_MEM_ADDR 31 = true) ∧
    (∃ (s : State) (req : Requester) (value : Nat), s.verdict req Reg.WSEQ_LD_GO 4 true = .go) ∧
    (∃ (s : State) (req : Requester) (value : Nat), s.verdict req (Reg.WSEQ_LD_GO) 4 true = .go ∧ value.testBit 0 = true ∧ s.wseq.load = none) ∧
    (∃ (s : State) (t : Nat) (env : MemEnv) (l : Load), (s.tickTo t).wseq.load = some l) :=
  ⟨⟨(live.wr (Reg.WSEQ_STRM_CFG 0) 1), (0), (0), (({} : MemEnv)), by decide +kernel⟩,
   ⟨live, (.island 0), (0), by decide +kernel⟩,
   (let ⟨⟨a, d, v⟩, h1, h2⟩ := any_some (o := some ((strmFetchS.tickTo 0).blockRead Blk.WSEQ 0 (2 ^ 32 * (strmFetchS.tickTo 0).getF (Reg.WSEQ_STRM_BASE_HI 0) 15 0 + (strmFetchS.tickTo 0).getF (Reg.WSEQ_STRM_BASE_LO 0) 31 8 * 256 + (strmFetchS.tickTo 0).rd (Reg.WSEQ_STRM_HEAD 0) % max ((strmFetchS.tickTo 0).rd (Reg.WSEQ_STRM_SIZE 0)) 1) 256 {})) (p := fun z => z.1 = .done) (by decide +kernel)
    ⟨strmFetchS, 0, 0, {}, d, v, by decide +kernel, by decide +kernel, by decide +kernel, by decide +kernel, by decide +kernel, by decide +kernel, (Option.some.inj h1).trans (Prod.ext h2 rfl)⟩),
   ⟨(live.wr Reg.WSEQ_MEM_ADDR 0x80000000), (.island 0), (0), by decide +kernel⟩,
   ⟨live, (.island 0), (1), by decide +kernel⟩,
   ⟨live, (.island 0), (1), by decide +kernel⟩,
   ⟨{ live with wseq := { live.wseq with load := some { src := storeBase, dst := 0, len := 4, heart := true } } }, (0), (({} : MemEnv)), ({ src := storeBase, dst := 0, len := 4, heart := true }), by decide +kernel⟩⟩

theorem test_witness_AleCommands :
    (∃ (s : State) (d t : Nat), d < 4 ∧ (s.tickTo t).released Blk.ALE = true ∧ (s.tickTo t).tkEn d = true ∧ (((s.tickTo t).tkFollow d).isNone ∨ (s.tickTo t).holdover d) ∧ (s.tickTo t).park.stage < 2) ∧
    (∃ (s : State) (n t : Nat) (k b : Nat) (l : List (Nat × Nat)), ((s.tickTo t).ale n).wakes = (k, b) :: l ∧ n < 8 ∧ (s.tickTo t).aleRun n = true ∧ b + (s.tickTo t).getF (Reg.ALE_WAKE_CFG n) 7 0 * 400 ≤ (s.tickTo t).clk.base) ∧
    (∃ (s : State) (req : Requester) (n value t : Nat), n < 8 ∧ (s.tickTo t).verdict req (Reg.ALE_DONE n) 4 true = .go) ∧
    (∃ (s : State) (req : Requester) (n value : Nat), n < 8 ∧ s.verdict req (Reg.ALE_EXP_PUSH n) 4 true = .go) ∧
    (∃ (s : State) (req : Requester) (n value : Nat), s.verdict req (Reg.ALE_EXP_PUSH n) 4 true = .go ∧ n < 8 ∧ value.testBit 0 = true ∧ s.getF (Reg.ALE_EXP_LEN n) 16 0 ≠ 0 ∧ s.getF (Reg.ALE_EXP_LEN n) 16 0 % 64 = 0 ∧ s.getF (Reg.ALE_EXP_LEN n) 16 0 ≤ 65536 ∧ (s.ale n).queue.length < 4 ∧ (s.ale n).queue ≠ []) ∧
    (∃ (s : State) (n : Nat) (env : MemEnv) (t : Nat) (q : Export), ((s.tickTo t).ale n).queue.head? = some q ∧ n < 8 ∧ ((s.tickTo t).ale n).ask.isSome = false ∧ (s.tickTo t).getF (Reg.ALE_STAT n) 1 0 ≠ 3) ∧
    (∃ (s : State) (n : Nat) (env : MemEnv) (t : Nat) (q : Export) (o : Nat) (w x : State), n < 8 ∧ ((s.tickTo t).ale n).queue.head? = some q ∧ ((s.tickTo t).ale n).ask = none ∧ (s.tickTo t).getF (Reg.ALE_STAT n) 1 0 ≠ 3 ∧ ((s.tickTo t).ale n).sent = false ∧ (s.tickTo t).eccResult (alePage n) (tcmOf n) ((s.tickTo t).access (.block Blk.ALE n) (tcmOf n + q.src) q.len false []) 8 env = (0, o, w) ∧ w.writeRange { w.access (.block Blk.ALE n) q.dst q.len true ((List.range q.len).map fun k => w.byte (tcmOf n + (q.src + k) % 0x40000)) with tkt := ((s.tickTo t).ale n).tag } (decide (targetOf q.dst = .tcm n)) false env = (.done, x)) ∧
    (∃ (s : State) (req : Requester) (n value : Nat), n < 8 ∧ s.verdict req (Reg.ALE_CSET_CTL n) 4 true = .go) ∧
    (∃ (s : State) (n code t : Nat), n < 8 ∧ (s.tickTo t).aleRun n = true ∧ (code = 1 ∨ code = 2)) :=
  ⟨⟨aleS, (0), (0), by decide +kernel⟩,
   ⟨(aleS.setAle 0 fun a => { a with wakes := [(3, 0)] }), (0), (400000), (3), (0), ([]), by decide +kernel⟩,
   ⟨aleS, (.island 0), (0), (0), (0), by decide +kernel⟩,
   ⟨aleS, (.island 0), (0), (1), by decide +kernel⟩,
   ⟨((aleS.setAle 0 fun a => { a with queue := [expX] }).wr (Reg.ALE_EXP_LEN 0) 64), (.island 0), (0), (1), by decide +kernel⟩,
   ⟨(aleS.setAle 0 fun a => { a with queue := [expX] }), (0), (({} : MemEnv)), (0), (expX), by decide +kernel⟩,
   (let ⟨⟨a, o, v⟩, h1, h2, h3⟩ := any_some (o := some ((expS.tickTo 0).eccResult (alePage 0) (tcmOf 0) ((expS.tickTo 0).access (.block Blk.ALE 0) (tcmOf 0 + expX.src) expX.len false []) 8 {})) (p := fun z => z.1 = 0 ∧ (State.writeRange z.2.2 { State.access z.2.2 (.block Blk.ALE 0) expX.dst expX.len true ((List.range expX.len).map fun k => State.byte z.2.2 (tcmOf 0 + (expX.src + k) % 0x40000)) with tkt := ((expS.tickTo 0).ale 0).tag } (decide (targetOf expX.dst = .tcm 0)) false {}).1 = .done) (by decide +kernel)
    ⟨expS, 0, {}, 0, expX, o, v, (State.writeRange v { State.access v (.block Blk.ALE 0) expX.dst expX.len true ((List.range expX.len).map fun k => State.byte v (tcmOf 0 + (expX.src + k) % 0x40000)) with tkt := ((expS.tickTo 0).ale 0).tag } (decide (targetOf expX.dst = .tcm 0)) false {}).2, by decide +kernel, by decide +kernel, by decide +kernel, by decide +kernel, by decide +kernel, (Option.some.inj h1).trans (Prod.ext h2 rfl), Prod.ext h3 rfl⟩),
   ⟨aleS, (.island 0), (0), (0), by decide +kernel⟩,
   ⟨aleS, (0), (1), (0), by decide +kernel⟩⟩

theorem test_witness_AudioPortCommands :
    (∃ (s : State) (p : Nat) (rx : List Nat) (t : Nat), p < 8 ∧ (s.tickTo t).released Blk.APORT = true ∧ (s.tickTo t).portEn p = true ∧ (s.tickTo t).pllLock = true ∧ (s.tickTo t).park.stage < 2) ∧
    (∃ (s : State) (i k : Nat) (v : Int) (t : Nat), i < 32 ∧ (s.tickTo t).released Blk.APORT = true ∧ (s.tickTo t).portEn 8 = true ∧ (s.tickTo t).pllLock = true ∧ (s.tickTo t).bit (Reg.APORT_CTL 8) (4 + i / 8) = true ∧ ((s.tickTo t).rd (Reg.APORT_ROUTE 8 i)).testBit 3 = true ∧ (s.tickTo t).pdmTkOk i = true ∧ (s.tickTo t).tkEn ((s.tickTo t).pdmTk i) = true ∧ (s.tickTo t).park.stage < 2) ∧
    (∃ (s : State) (p t : Nat), p < 8 ∧ (s.tickTo t).released Blk.APORT = true ∧ (s.tickTo t).portEn p = true ∧ (s.tickTo t).bit (Reg.APORT_CTL p) 1 = false) ∧
    (∃ (s : State) (p t b : Nat), p < 8 ∧ (s.tickTo t).released Blk.APORT = true ∧ (s.tickTo t).portEn p = true ∧ (s.tickTo t).bit (Reg.APORT_CTL p) 1 = false ∧ ((s.tickTo t).aport p).lost = some b ∧ b + 400000 ≤ (s.tickTo t).clk.base) ∧
    (∃ (s : State), s.released Blk.ALE = true ∧ s.pllLock = true) ∧
    (∃ (s : State), s.released Blk.ALE = true ∧ s.pllLock = false) :=
  ⟨⟨portS, (0), ([]), (0), by decide +kernel⟩,
   ⟨(portS.wr (Reg.APORT_CTL 8) 0xF1).wr (Reg.APORT_ROUTE 8 0) 8, (0), (0), (0), (0), by decide +kernel⟩,
   ⟨portS, (0), (400000), by decide +kernel⟩,
   ⟨(portS.setAport 0 fun y => { y with lost := some 0 }), (0), (400000), (0), by decide +kernel⟩,
   ⟨portS, by decide +kernel⟩,
   ⟨(portS.putBit Reg.ALE_AUD_STAT 0 false), by decide +kernel⟩⟩

theorem test_witness_CameraCommands :
    (∃ (s : State) (t : Nat), (s.tickTo t).released Blk.CAM = true) ∧
    (∃ (s : State) (p vc num hdr t : Nat), (s.tickTo t).camOn p = true) ∧
    (∃ (s : State) (p vc dt : Nat) (payload : List Byte) (hdr : Nat) (crc : Bool) (room : Option Nat) (t : Nat), (s.tickTo t).camOn p = true) ∧
    (∃ (s : State) (p vc hdr t : Nat), (s.tickTo t).camOn p = true) ∧
    (∃ (s : State) (p k t : Nat) (env : MemEnv) (f : CamFrame) (l : List CamFrame), ((s.tickTo t).camStr p k).ended = f :: l) ∧
    (∃ (s : State) (p k t : Nat) (env : MemEnv) (f : CamFrame) (l : List CamFrame), ((s.tickTo t).camStr p k).ended = f :: l ∧ ((s.tickTo t).camDrain p f env).1.buf = [] ∧ (State.writeRange ((s.tickTo t).camDrain p f env).2 (((s.tickTo t).camDrain p f env).2.access (.block Blk.CAM p) (2 ^ 32 * (s.tickTo t).getF (Reg.CAM_META_HI p k) 15 0 + (s.tickTo t).getF (Reg.CAM_META_LO p k) 31 6 * 64 + 64 * ((s.tickTo t).camDrain p f env).1.slot) 64 true (((s.tickTo t).camDrain p f env).2.camRecord p k ((s.tickTo t).camDrain p f env).1)) false true env).1 = .done) ∧
    (∃ (s : State) (req : Requester) (p k value : Nat), p < 4 ∧ k < 4 ∧ s.verdict req (Reg.CAM_RD p k) 4 true = .go) ∧
    (∃ (s : State) (req : Requester) (p k value : Nat), s.verdict req (Reg.CAM_RD p k) 4 true = .go ∧ p < 4 ∧ k < 4 ∧ fld value 3 0 < max (s.camSlots p k) 1 ∧ (fld value 3 0 + max (s.camSlots p k) 1 - s.getF (Reg.CAM_RD p k) 3 0 % max (s.camSlots p k) 1) % max (s.camSlots p k) 1 ≤ s.camLevel p k) ∧
    (∃ (s : State) (p t : Nat), (s.tickTo t).camOn p = true ∧ (s.tickTo t).getF (Reg.CAM_STAT p) 1 0 ≠ 3 ∧ ((s.tickTo t).cam p).lastFs + 400000 * (s.tickTo t).getF (Reg.CAM_LOSS_MS p) 15 0 ≤ (s.tickTo t).clk.base) :=
  ⟨⟨live, (0), by decide +kernel⟩,
   ⟨(live.wr (Reg.CAM_CTL 0) 1), (0), (0), (0), (0), (0), by decide +kernel⟩,
   ⟨(live.wr (Reg.CAM_CTL 0) 1), (0), (0), (0), ([]), (0), (true), (none), (0), by decide +kernel⟩,
   ⟨(live.wr (Reg.CAM_CTL 0) 1), (0), (0), (0), (0), by decide +kernel⟩,
   ⟨camS, (0), (0), (0), (({} : MemEnv)), (camX), ([]), by decide +kernel⟩,
   ⟨camS, (0), (0), (0), (({} : MemEnv)), (camX), ([]), by decide +kernel⟩,
   ⟨live, (.island 0), (0), (0), (0), by decide +kernel⟩,
   ⟨live, (.island 0), (0), (0), (0), by decide +kernel⟩,
   ⟨(live.wr (Reg.CAM_CTL 0) 1), (0), (400000000000), by decide +kernel⟩⟩

theorem test_witness_DisplayCommands :
    (∃ (s : State) (req : Requester) (v value : Nat), v < 2 ∧ s.verdict req (Reg.VOUT_CTL v) 4 true = .go) ∧
    (∃ (s : State) (req : Requester) (v value : Nat), s.verdict req (Reg.VOUT_CTL v) 4 true = .go ∧ v < 2 ∧ s.bit (Reg.VOUT_CTL v) 0 = false ∧ value.testBit 0 = true) ∧
    (∃ (s : State) (v : Nat) (ok : Bool) (t : Nat), (s.tickTo t).voutEn v = true ∧ ((s.tickTo t).vout v).training = true) ∧
    (∃ (s : State) (v t : Nat), (s.tickTo t).voutEn v = true ∧ ((s.tickTo t).vout v).training = true ∧ (s.tickTo t).linkFits v = true) ∧
    (∃ (s : State) (v t : Nat), (s.tickTo t).voutEn v = true ∧ ((s.tickTo t).vout v).training = true) ∧
    (∃ (s : State) (v t : Nat), (s.tickTo t).voutEn v = true ∧ (s.tickTo t).voutState v = VoutSt.FAILED ∧ (s.tickTo t).getF (Reg.VOUT_STAT v) 11 8 ≠ 1 ∧ ((s.tickTo t).vout v).training = false ∧ ((s.tickTo t).vout v).failAt + 400000000 ≤ (s.tickTo t).clk.base) ∧
    (∃ (s : State) (v t : Nat), v < 2 ∧ (s.tickTo t).released Blk.VOUT = true) ∧
    (∃ (s : State) (v : Nat), v < 2 ∧ s.released Blk.VOUT = true) ∧
    (∃ (s : State) (req : Requester) (v value : Nat), v < 2 ∧ s.verdict req (Reg.VOUT_FLIP v) 4 true = .go) ∧
    (∃ (s : State) (req : Requester) (v value : Nat), s.verdict req (Reg.VOUT_FLIP v) 4 true = .go ∧ v < 2 ∧ value.testBit 0 = true) ∧
    (∃ (s : State) (v t : Nat), v < 2 ∧ (s.tickTo t).voutState v = VoutSt.SCANNING) ∧
    (∃ (s : State) (v t : Nat), v < 2 ∧ (s.tickTo t).voutState v = VoutSt.SCANNING) ∧
    (∃ (s : State) (v l x y t : Nat) (env : MemEnv) (c : Nat × Nat), v < 2 ∧ l < 2 ∧ (s.tickTo t).voutState v = VoutSt.SCANNING ∧ (s.tickTo t).layerAt v l x y = some c ∧ (s.tickTo t).inFifo v l c = false) ∧
    (∃ (s : State) (req : Requester) (v value : Nat), v < 2 ∧ value.testBit 28 = false ∧ s.verdict req (Reg.VOUT_AUX_CMD v) 4 true = .go) ∧
    (∃ (s : State) (req : Requester) (v value : Nat), s.verdict req (Reg.VOUT_AUX_CMD v) 4 true = .go ∧ v < 2 ∧ value.testBit 28 = false ∧ value.testBit 31 = true ∧ State.isEdp (s.respOk []) v = true ∧ (s.vout v).training = false ∧ s.bit (Reg.VOUT_AUX_STAT v) 0 = false) ∧
    (∃ (s : State) (req : Requester) (v value : Nat), v < 2 ∧ value.testBit 28 = true ∧ s.verdict req (Reg.VOUT_AUX_CMD v) 4 true = .go) ∧
    (∃ (s : State) (req : Requester) (v value : Nat), s.verdict req (Reg.VOUT_AUX_CMD v) 4 true = .go ∧ v < 2 ∧ value.testBit 28 = true ∧ value.testBit 31 = true ∧ State.isEdp (s.respOk []) v = true ∧ (s.vout v).training = false ∧ s.bit (Reg.VOUT_AUX_STAT v) 0 = false) ∧
    (∃ (s : State) (v result : Nat) (data : List Byte) (x : Nat) (y : List Byte), (s.vout v).aux = some (x, y) ∧ result ≠ 0 ∧ result ≤ 4) :=
  ⟨⟨live, (.island 0), (0), (1), by decide +kernel⟩,
   ⟨live, (.island 0), (0), (1), by decide +kernel⟩,
   ⟨voutS, (0), (true), (0), by decide +kernel⟩,
   ⟨voutS, (0), (0), by decide +kernel⟩,
   ⟨voutS, (0), (0), by decide +kernel⟩,
   ⟨(live.wr (Reg.VOUT_CTL 0) 1).putF (Reg.VOUT_STAT 0) 1 0 VoutSt.FAILED, (0), (400000000), by decide +kernel⟩,
   ⟨live, (0), (0), by decide +kernel⟩,
   ⟨live, (0), by decide +kernel⟩,
   ⟨live, (.island 0), (0), (1), by decide +kernel⟩,
   ⟨live, (.island 0), (0), (1), by decide +kernel⟩,
   ⟨scanS, (0), (0), by decide +kernel⟩,
   ⟨scanS, (0), (0), by decide +kernel⟩,
   ⟨layerS, (0), (0), (0), (0), (0), (({} : MemEnv)), ((0, 0)), by decide +kernel⟩,
   ⟨live, (.island 0), (0), (0x80000000), by decide +kernel⟩,
   ⟨edpS, (.island 0), (0), (0x80000000), by decide +kernel⟩,
   ⟨live, (.island 0), (0), (0x90000000), by decide +kernel⟩,
   ⟨edpS, (.island 0), (0), (0x90000000), by decide +kernel⟩,
   ⟨(live.setVout 0 fun y => { y with aux := some (0, []) }), (0), (2), ([]), (0), ([]), by decide +kernel⟩⟩

theorem test_witness_NetworkCommands :
    (∃ (s : State) (p : Nat) (data : List Byte) (ecc t : Nat), p < 4 ∧ (s.tickTo t).released Blk.ETH = true ∧ (s.tickTo t).gwReady p = true ∧ 60 ≤ data.length ∧ data.length ≤ 1996) ∧
    (∃ (s : State) (n fmt : Nat) (ide : Bool) (id xl : Nat) (data : List Byte) (ecc t : Nat), n < 16 ∧ (s.tickTo t).released Blk.CANX = true ∧ (s.tickTo t).gwReady (4 + n) = true ∧ (s.tickTo t).canAdmits n fmt = true ∧ canFits fmt data.length = true) ∧
    (∃ (s : State) (p ecc t : Nat), p < 22) ∧
    (∃ (s : State) (p t : Nat), p < 22) ∧
    (∃ (s : State) (p t : Nat), p < 22) ∧
    (∃ (s : State) (p t : Nat), p < 4 ∧ ((s.tickTo t).qbv p).list ≠ []) ∧
    (∃ (s : State) (p t : Nat), p < 4 ∧ ((s.tickTo t).qbv p).list ≠ [] ∧ ((s.tickTo t).qbv p).start + ((s.tickTo t).qbv p).cycle ≤ (s.tickTo t).timeNs) ∧
    (∃ (s : State) (req : Requester) (p value : Nat), p < 4 ∧ s.verdict req (Reg.ETH_QBV_CTL p) 4 true = .go) ∧
    (∃ (s : State) (req : Requester) (p value : Nat), s.verdict req (Reg.ETH_QBV_CTL p) 4 true = .go ∧ p < 4 ∧ s.gw.qbv.length = 4 ∧ value.testBit 1 = true) ∧
    (∃ (s : State) (p t : Nat) (l : List (Nat × Nat)) (c due : Nat), ((s.tickTo t).qbv p).pend = some (l, c, due) ∧ p < 4 ∧ due ≤ (s.tickTo t).timeNs) ∧
    (∃ (s : State) (p : Nat) (up : Bool) (speed : Nat), p < 4 ∧ s.released Blk.ETH = true ∧ (s.ethOn p ∨ !up) ∧ s.bit (Reg.ETH_STAT p) 0 ≠ up) ∧
    (∃ (s : State) (n st tec rec' : Nat) (proto : Bool), n < 16 ∧ s.released Blk.CANX = true ∧ s.bit (Reg.CANX_CTL n) 0 = true ∧ st ≤ 2) :=
  ⟨⟨gwS, (0), (List.replicate 64 0), (0), (0), by decide +kernel⟩,
   ⟨canS, (0), (0), (true), (0), (0), ([]), (0), (0), by decide +kernel⟩,
   ⟨live, (0), (0), (0), by decide +kernel⟩,
   ⟨live, (0), (0), by decide +kernel⟩,
   ⟨live, (0), (0), by decide +kernel⟩,
   ⟨(live.setQbv 0 fun q => { q with list := [(1, 1)], cycle := 0 }), (0), (0), by decide +kernel⟩,
   ⟨(live.setQbv 0 fun q => { q with list := [(1, 1)], cycle := 0 }), (0), (0), by decide +kernel⟩,
   ⟨live, (.island 0), (0), (2), by decide +kernel⟩,
   ⟨live, (.island 0), (0), (2), by decide +kernel⟩,
   ⟨(live.setQbv 0 fun q => { q with pend := some ([], 1, 0) }), (0), (0), ([]), (1), (0), by decide +kernel⟩,
   ⟨(live.wr (Reg.ETH_CTL 0) 1), (0), (true), (3), by decide +kernel⟩,
   ⟨canS, (0), (0), (0), (0), (false), by decide +kernel⟩⟩

theorem test_witness_InspectionCommands :
    (∃ (s : State) (req : Requester), s.verdict req Reg.GW_INSP_VERDICT 4 true = .go) ∧
    (∃ (s : State) (req : Requester) (f : GwFrame), s.verdict req (Reg.GW_INSP_VERDICT) 4 true = .go ∧ s.gw.head = some f ∧ f.insp = true) ∧
    (∃ (s : State) (req : Requester) (mask : Nat), s.verdict req Reg.GW_INSP_VERDICT 4 true = .go) ∧
    (∃ (s : State) (req : Requester) (mask : Nat) (f : GwFrame), s.verdict req (Reg.GW_INSP_VERDICT) 4 true = .go ∧ s.gw.head = some f ∧ f.insp = true) ∧
    (∃ (s : State) (req : Requester), s.verdict req Reg.GW_INSP_VERDICT 4 true = .go) ∧
    (∃ (s : State) (req : Requester) (f : GwFrame), s.verdict req (Reg.GW_INSP_VERDICT) 4 true = .go ∧ s.gw.head = some f) ∧
    (∃ (s : State) (req : Requester) (f : GwFrame), s.verdict req (Reg.GW_INSP_DATA) 4 false = .go ∧ s.gw.head = some f) ∧
    (∃ (s : State) (t : Nat) (f : GwFrame), (s.tickTo t).gw.head = some f ∧ f.at' + (s.tickTo t).getF Reg.GW_INSP_TMO 15 0 * 400 ≤ (s.tickTo t).clk.base) ∧
    (∃ (s : State) (req : Requester) (value : Nat), s.verdict req Reg.GW_TX_CTL 4 true = .go) ∧
    (∃ (s : State) (req : Requester) (value : Nat), s.verdict req (Reg.GW_TX_CTL) 4 true = .go ∧ value.testBit 31 = true ∧ s.gw.tx.length < fld value 27 16) ∧
    (∃ (s : State) (req : Requester) (value : Nat), s.verdict req (Reg.GW_TX_CTL) 4 true = .go ∧ value.testBit 31 = true ∧ fld value 27 16 ≤ s.gw.tx.length) ∧
    (∃ (s : State) (req : Requester) (value : Nat), s.verdict req (Reg.GW_TX_DATA) 4 true = .go) ∧
    (∃ (s : State) (req : Requester) (value : Nat), s.verdict req Reg.GW_HOST_CTL 4 true = .go) ∧
    (∃ (s : State) (req : Requester) (value : Nat), s.verdict req (Reg.GW_HOST_CTL) 4 true = .go ∧ s.cDecl = true) ∧
    (∃ (s : State) (req : Requester) (value : Nat) (ext : List Byte), s.verdict req (Reg.GW_HTX_TAIL) 4 true = .go) ∧
    (∃ (s : State) (req : Requester) (value : Nat), s.verdict req (Reg.GW_TBL_DATA) 4 true = .go) ∧
    (∃ (s : State) (req : Requester) (ecc : Nat), s.verdict req (Reg.GW_TBL_DATA) 4 false = .go) :=
  ⟨⟨live, (.island 0), by decide +kernel⟩,
   ⟨(live.setGw fun g => { g with head := some gwfX }), (.island 0), (gwfX), by decide +kernel⟩,
   ⟨live, (.island 0), (0), by decide +kernel⟩,
   ⟨(live.setGw fun g => { g with head := some gwfX }), (.island 0), (0), (gwfX), by decide +kernel⟩,
   ⟨live, (.island 0), by decide +kernel⟩,
   ⟨(live.setGw fun g => { g with head := some gwfX }), (.island 0), (gwfX), by decide +kernel⟩,
   ⟨(live.setGw fun g => { g with head := some gwfX }), (.island 0), (gwfX), by decide +kernel⟩,
   ⟨(live.setGw fun g => { g with head := some gwfX }), (400000000), (gwfX), by decide +kernel⟩,
   ⟨live, (.island 0), (0x80010000), by decide +kernel⟩,
   ⟨live, (.island 0), (0x80010000), by decide +kernel⟩,
   ⟨live, (.island 0), (0x80000000), by decide +kernel⟩,
   ⟨live, (.island 0), (0), by decide +kernel⟩,
   ⟨live, (.island 0), (0), by decide +kernel⟩,
   ⟨live, (.island 0), (0), by decide +kernel⟩,
   ⟨live, (.island 0), (0), ([]), by decide +kernel⟩,
   ⟨live, (.island 0), (0), by decide +kernel⟩,
   ⟨live, (.island 0), (0), by decide +kernel⟩⟩

theorem test_witness_FabricLinkCommands :
    (∃ (s : State) (p : Nat) (ok : Bool) (width rate : Nat), p < 4 ∧ s.aEntry = true ∧ s.bit (Reg.RLINK_CTL p) 0 = true ∧ s.lstate p = 1) ∧
    (∃ (s : State) (p t : Nat), p < 4 ∧ (s.tickTo t).lstate p = 2 ∧ (s.tickTo t).fab.lastUse.getD p 0 + (s.tickTo t).getF (Reg.RLINK_LP_IDLE p) 15 0 * 400 ≤ (s.tickTo t).clk.base) ∧
    (∃ (s : State) (p : Nat), s.portUp p = true) ∧
    (∃ (s : State) (req : Requester) (value : Nat), s.verdict req Reg.RLINK_FAB_CTL 4 true = .go) ∧
    (∃ (s : State) (req : Requester) (value : Nat), s.verdict req (Reg.RLINK_FAB_CTL) 4 true = .go ∧ value.testBit 0 = true ∧ State.isRoot (s.respOk []) = true) ∧
    (∃ (s : State) (node port t : Nat) (d : Disc), (s.tickTo t).fab.disc = some d ∧ (d.deferred.any fun e => e.node == node && e.port == port && decide (e.due ≤ (s.tickTo t).clk.base)) = true) ∧
    (∃ (s : State) (t : Nat) (d : Disc), (s.tickTo t).fab.disc = some d ∧ d.start + 400000 * (s.tickTo t).getF Reg.RLINK_FAB_CFG 31 16 ≤ (s.tickTo t).clk.base) :=
  ⟨⟨(linkS.setLstate 0 1), (0), (true), (0), (0), by decide +kernel⟩,
   ⟨linkS, (0), (400000000), by decide +kernel⟩,
   ⟨linkS, (0), by decide +kernel⟩,
   ⟨live, (.island 0), (1), by decide +kernel⟩,
   ⟨rootS, (.island 0), (1), by decide +kernel⟩,
   ⟨{ rootS with fab := { rootS.fab with disc := some discX } }, (0), (0), (0), (discX), by decide +kernel⟩,
   ⟨{ rootS with fab := { rootS.fab with disc := some discX } }, (400000000000), (discX), by decide +kernel⟩⟩

theorem test_witness_FabricPacketCommands :
    (∃ (s : State) (p : Nat) (h : FabHead) (t : Nat) (env : MemEnv), p < 4 ∧ (s.tickTo t).portUp p = true ∧ ((s.tickTo t).gotPacket p 0).answersFabric = true ∧ ((s.tickTo t).gotPacket p 0).hasId = true ∧ h.dst = ((s.tickTo t).gotPacket p 0).nodeId) ∧
    (∃ (s : State) (p : Nat) (h : FabHead) (status : Nat) (data : List Byte), p < 4 ∧ s.portUp p = true ∧ (s.gotPacket p data.length).answersFabric = true ∧ (s.gotPacket p data.length).hasId = true ∧ h.dst = (s.gotPacket p data.length).nodeId) ∧
    (∃ (s : State) (p : Nat) (h : FabHead) (data : List Byte) (t : Nat) (env : MemEnv), p < 4 ∧ (s.tickTo t).portUp p = true ∧ ((s.tickTo t).gotPacket p data.length).answersFabric = true ∧ ((s.tickTo t).gotPacket p data.length).hasId = true ∧ h.dst = ((s.tickTo t).gotPacket p data.length).nodeId) ∧
    (∃ (s : State) (p : Nat) (h : FabHead) (status : Nat), p < 4 ∧ s.portUp p = true ∧ (s.gotPacket p 0).answersFabric = true ∧ (s.gotPacket p 0).hasId = true ∧ h.dst = (s.gotPacket p 0).nodeId) ∧
    (∃ (s : State) (p : Nat) (h : FabHead) (t : Nat) (k : Nat), p < 4 ∧ (s.tickTo t).portUp p = true ∧ ((s.tickTo t).gotPacket p 0).answersFabric = true ∧ ((s.tickTo t).gotPacket p 0).hasId = true ∧ h.dst = ((s.tickTo t).gotPacket p 0).nodeId ∧ officeOf h.addr = some k ∧ k < 24 ∧ ((s.tickTo t).gotPacket p 0).officeHolds k = false) ∧
    (∃ (s : State) (p : Nat) (h : FabHead) (t : Nat), p < 4 ∧ (s.tickTo t).portUp p = true ∧ ((s.tickTo t).gotPacket p 0).answersFabric = true ∧ ((s.tickTo t).gotPacket p 0).hasId = true ∧ h.dst = ((s.tickTo t).gotPacket p 0).nodeId ∧ officeOf h.addr = none) ∧
    (∃ (s : State) (p : Nat) (h : FabHead) (code tag : Nat) (r : FabReq), p < 4 ∧ s.portUp p = true ∧ (s.gotPacket p 0).answersFabric = true ∧ (s.gotPacket p 0).hasId = true ∧ h.dst = (s.gotPacket p 0).nodeId ∧ (s.gotPacket p 0).openReq h.src h.tag = some r ∧ r.ticket = true) ∧
    (∃ (s : State) (p : Nat) (h : FabHead) (t : Nat) (k : Nat), p < 4 ∧ (s.tickTo t).portUp p = true ∧ ((s.tickTo t).gotPacket p 0).answersFabric = true ∧ ((s.tickTo t).gotPacket p 0).hasId = true ∧ h.dst = ((s.tickTo t).gotPacket p 0).nodeId ∧ officeOf h.addr = some k ∧ k < 24) :=
  ⟨⟨nodeT, (0), (⟨0, 1, 0, false, false, none, 3, storeBase, 4⟩), (0), (({} : MemEnv)), by decide +kernel⟩,
   ⟨nodeT, (0), (⟨0, 1, 0, false, false, none, 3, storeBase, 4⟩), (0), ([]), by decide +kernel⟩,
   ⟨nodeT, (0), (⟨0, 1, 0, false, false, none, 3, storeBase, 4⟩), ([]), (0), (({} : MemEnv)), by decide +kernel⟩,
   ⟨nodeT, (0), (⟨0, 1, 0, false, false, none, 3, storeBase, 4⟩), (0), by decide +kernel⟩,
   ⟨nodeT, (0), (⟨0, 1, 0, false, false, none, 3, storeBase, 4⟩), (0), (0), by decide +kernel⟩,
   ⟨nodeT, (0), (⟨0, 1, 0, false, false, none, 3, dramBase, 4⟩), (0), by decide +kernel⟩,
   ⟨{ nodeT with fab := { nodeT.fab with reqs := [reqX] } }, (0), (⟨0, 1, 0, false, false, none, 3, storeBase, 4⟩), (0), (0), (reqX), by decide +kernel⟩,
   ⟨nodeT, (0), (⟨0, 1, 0, false, false, none, 3, storeBase, 4⟩), (0), (0), by decide +kernel⟩⟩

theorem test_witness_FabricDiscoveryCommands :
    (∃ (s : State) (p rootUid fromUid : Nat) (path : List Nat) (t : Nat), (s.tickTo t).portUp p = true) ∧
    (∃ (s : State) (p uid dev links casc nbrPort : Nat), s.portUp p = true) ∧
    (∃ (s : State) (p uid dev links casc nbrPort : Nat) (d : Disc) (q : Nat × Nat), s.portUp p = true ∧ (s.gotPacket p 32).isRoot = true ∧ (s.gotPacket p 32).fab.disc = some d ∧ d.cur = some q ∧ (s.gotPacket p 32).idFor uid = none) ∧
    (∃ (s : State) (p uid dev links casc nbrPort : Nat), s.portUp p = true ∧ (s.gotPacket p 32).isRoot = false) ∧
    (∃ (s : State) (p hint : Nat), s.portUp p = true) ∧
    (∃ (s : State) (p hint : Nat) (d : Disc) (q : Nat × Nat), s.portUp p = true ∧ (s.gotPacket p 16).isRoot = true ∧ (s.gotPacket p 16).fab.disc = some d ∧ d.cur = some q ∧ hint ≠ 255) ∧
    (∃ (s : State) (p rootUid node role slot master : Nat) (table : List FabEntry) (nbrs : List (Option Nat)) (path : List Nat) (t : Nat), (s.tickTo t).portUp p = true) ∧
    (∃ (s : State) (p rootUid : Nat) (path : List Nat) (t : Nat), (s.tickTo t).portUp p = true) ∧
    (∃ (s : State) (p node links t : Nat), (s.tickTo t).portUp p = true) :=
  ⟨⟨linkS, (0), (0), (0), ([]), (0), by decide +kernel⟩,
   ⟨linkS, (0), (0), (0), (0), (0), (0), by decide +kernel⟩,
   ⟨idFullS, (0), (99), (0), (0), (0), (0), ({ discX with cur := some (0, 0) }), ((0, 0)), by decide +kernel⟩,
   ⟨linkS, (0), (0), (0), (0), (0), (0), by decide +kernel⟩,
   ⟨linkS, (0), (0), by decide +kernel⟩,
   ⟨{ rootS with fab := { rootS.fab with disc := some { discX with cur := some (0, 0) } } }, (0), (0), ({ discX with cur := some (0, 0) }), ((0, 0)), by decide +kernel⟩,
   ⟨linkS, (0), (0), (0), (0), (0), (0), ([]), ([]), ([]), (0), by decide +kernel⟩,
   ⟨linkS, (0), (0), ([]), (0), by decide +kernel⟩,
   ⟨rootS, (0), (0), (0), (0), by decide +kernel⟩⟩

theorem test_witness_CascadeCommands :
    (∃ (s : State) (t : Nat), (s.tickTo t).released Blk.CASC = true ∧ (s.tickTo t).cascRole = 1 ∧ (s.tickTo t).park.stage < 2 ∧ (s.tickTo t).casc.since + 4000 ≤ (s.tickTo t).clk.base ∧ ((s.tickTo t).casc.lastTx = 0 ∨ (s.tickTo t).casc.lastTx + 800 ≤ (s.tickTo t).clk.base)) ∧
    (∃ (s : State) (f : List Byte) (phase : Int) (within beyond locks : Bool) (t : Nat), (s.tickTo t).released Blk.CASC = true ∧ (s.tickTo t).cascRole = 2 ∧ (s.tickTo t).park.stage < 2) ∧
    (∃ (s : State) (f : List Byte) (phase : Int) (within beyond locks : Bool) (t : Nat), (s.tickTo t).released Blk.CASC = true ∧ (s.tickTo t).cascRole = 2 ∧ (s.tickTo t).park.stage < 2 ∧ f.length ≠ 71) ∧
    (∃ (s : State) (f : List Byte) (phase : Int) (within beyond locks : Bool) (t : Nat), (s.tickTo t).released Blk.CASC = true ∧ (s.tickTo t).cascRole = 2 ∧ (s.tickTo t).park.stage < 2 ∧ f.length = 71 ∧ frameFld f 69 2 = crc16 (f.take 69) ∧ (s.tickTo t).casc.lastSeq = none) ∧
    (∃ (s : State) (t : Nat) (b : Nat), (s.tickTo t).casc.echo = some b ∧ (s.tickTo t).cascRole = 2 ∧ b + 280 + 120 * (s.tickTo t).cascSlot ≤ (s.tickTo t).clk.base) ∧
    (∃ (s : State) (slot rt : Nat), s.released Blk.CASC = true ∧ s.cascRole = 1 ∧ 1 ≤ slot ∧ slot ≤ 3) ∧
    (∃ (s : State) (t : Nat), (s.tickTo t).cascRole = 2 ∧ ((s.tickTo t).cascState = 2 ∨ (s.tickTo t).cascState = 3) ∧ (s.tickTo t).casc.lastRx + 4000 ≤ (s.tickTo t).clk.base) ∧
    (∃ (s : State) (t : Nat), (s.tickTo t).cascRole = 2 ∧ (((s.tickTo t).cascState = 2 ∨ (s.tickTo t).cascState = 3)) ∧ (s.tickTo t).casc.lastRx + 4000 ≤ (s.tickTo t).clk.base) :=
  ⟨⟨(live.wr Reg.CASC_STAT 0x10), (4000), by decide +kernel⟩,
   ⟨(live.wr Reg.CASC_STAT 0x20), ([]), (0), (true), (true), (true), (0), by decide +kernel⟩,
   ⟨(live.wr Reg.CASC_STAT 0x20), ([]), (0), (true), (true), (true), (0), by decide +kernel⟩,
   ⟨(live.wr Reg.CASC_STAT 0x20), (frameX), (-5), (true), (true), (true), (0), by decide +kernel⟩,
   ⟨{ live.wr Reg.CASC_STAT 0x20 with casc := { live.casc with echo := some 0 } }, (4000), (0), by decide +kernel⟩,
   ⟨(live.wr Reg.CASC_STAT 0x10), (1), (0), by decide +kernel⟩,
   ⟨(live.wr Reg.CASC_STAT 0x22), (4000), by decide +kernel⟩,
   ⟨(live.wr Reg.CASC_STAT 0x22), (4000), by decide +kernel⟩⟩

theorem test_witness_PerturbCommands :
    (∃ (s : State) (req : Requester) (value : Nat), s.verdict req Reg.PERTURB_CTL 4 true = .go ∧ s.world req = true) ∧
    (∃ (s : State) (req : Requester) (value : Nat), s.verdict req (Reg.PERTURB_CTL) 4 true = .go ∧ s.world req = true ∧ s.getF Reg.SEC_LIFECYCLE 1 0 ≠ 2) ∧
    (∃ (s : State) (req : Requester) (value : Nat), s.verdict req (Reg.PERTURB_CTL) 4 true = .go ∧ s.world req = true ∧ s.getF Reg.SEC_LIFECYCLE 1 0 = 2 ∧ value.testBit 0 = true) ∧
    (∃ (s : State) (req : Requester) (code inst value : Nat), s.verdict req (Reg.PT_CTL (pageAddr code inst)) 4 true = .go) ∧
    (∃ (s : State) (req : Requester) (code inst value : Nat), s.verdict req (Reg.PT_CTL (pageAddr code inst)) 4 true = .go ∧ value.testBit 0 = false) ∧
    (∃ (s : State) (code inst t : Nat), (s.tickTo t).bit (Reg.PT_CTL (pageAddr code inst)) 0 = true ∧ (ptCap code).testBit 2 = true ∧ (s.tickTo t).getF (Reg.PT_STALL_LEN (pageAddr code inst)) 15 0 ≠ 0 ∧ (s.tickTo t).dom (domainOf code inst) = 0) ∧
    (∃ (s : State) (req : Requester) (code inst value : Nat), s.verdict req (Reg.PT_FORCE (pageAddr code inst)) 4 true = .go ∧ s.getF (Reg.PT_FORCE_CFG (pageAddr code inst)) 3 0 = 1 ∧ value.testBit 30 = false ∧ value.testBit 31 = true ∧ forceKind 1 &&& ptCap (regCode (pageAddr code inst)) ≠ 0 ∧ fld value 15 0 ≠ 0) ∧
    (∃ (s : State) (req : Requester) (code inst value : Nat), s.verdict req (Reg.PT_FORCE (pageAddr code inst)) 4 true = .go ∧ s.getF (Reg.PT_FORCE_CFG (pageAddr code inst)) 3 0 = 2 ∧ value.testBit 30 = false ∧ value.testBit 31 = true ∧ forceKind 2 &&& ptCap (regCode (pageAddr code inst)) ≠ 0 ∧ fld value 15 0 ≠ 0) ∧
    (∃ (s : State) (req : Requester) (code inst value : Nat), s.verdict req (Reg.PT_FORCE (pageAddr code inst)) 4 true = .go ∧ s.getF (Reg.PT_FORCE_CFG (pageAddr code inst)) 3 0 = 3 ∧ value.testBit 30 = false ∧ value.testBit 31 = true ∧ forceKind 3 &&& ptCap (regCode (pageAddr code inst)) ≠ 0 ∧ fld value 15 0 ≠ 0 ∧ s.getF (Reg.PT_FORCE_CFG (pageAddr code inst)) 7 4 < 4) ∧
    (∃ (s : State) (req : Requester) (code inst value : Nat), s.verdict req (Reg.PT_FORCE (pageAddr code inst)) 4 true = .go ∧ s.getF (Reg.PT_FORCE_CFG (pageAddr code inst)) 3 0 = 4 ∧ value.testBit 30 = false ∧ value.testBit 31 = true ∧ forceKind 4 &&& ptCap (regCode (pageAddr code inst)) ≠ 0 ∧ fld value 15 0 ≠ 0) ∧
    (∃ (s : State) (req : Requester) (code inst value : Nat), s.verdict req (Reg.PT_FORCE (pageAddr code inst)) 4 true = .go ∧ s.getF (Reg.PT_FORCE_CFG (pageAddr code inst)) 3 0 = 5 ∧ value.testBit 30 = false ∧ value.testBit 31 = true ∧ forceKind 5 &&& ptCap (regCode (pageAddr code inst)) ≠ 0 ∧ fld value 15 0 ≠ 0 ∧ fld value 15 0 = 1) ∧
    (∃ (s : State) (req : Requester) (code inst : Nat), s.verdict req (Reg.PT_FORCE (pageAddr code inst)) 4 true = .go) ∧
    (∃ (s : State) (req : Requester) (code inst : Nat), s.verdict req (Reg.PT_FORCE (pageAddr code inst)) 4 true = .go) :=
  ⟨⟨live, (.island 0), (1), by decide +kernel⟩,
   ⟨(live.wr Reg.SEC_LIFECYCLE 1), (.island 0), (1), by decide +kernel⟩,
   ⟨(live.wr Reg.SEC_LIFECYCLE 2), (.island 0), (1), by decide +kernel⟩,
   ⟨openS, (.island 0), (Blk.MESH), (0), (0), by decide +kernel⟩,
   ⟨openS, (.island 0), (Blk.MESH), (0), (0), by decide +kernel⟩,
   ⟨((openS.wr (Reg.PT_CTL (pageAddr Blk.MESH 0)) 1).wr (Reg.PT_STALL_LEN (pageAddr Blk.MESH 0)) 5), (Blk.MESH), (0), (0), by decide +kernel⟩,
   ⟨(openS.wr (Reg.PT_FORCE_CFG (pageAddr Blk.GROVE 0)) 1), (.island 0), (Blk.GROVE), (0), (0x80000001), by decide +kernel⟩,
   ⟨(openS.wr (Reg.PT_FORCE_CFG (pageAddr Blk.GROVE 0)) 2), (.island 0), (Blk.GROVE), (0), (0x80000001), by decide +kernel⟩,
   ⟨(openS.wr (Reg.PT_FORCE_CFG (pageAddr Blk.CORE 0)) 3), (.island 0), (Blk.CORE), (0), (0x80000001), by decide +kernel⟩,
   ⟨(openS.wr (Reg.PT_FORCE_CFG (pageAddr Blk.ALE 0)) 4), (.island 0), (Blk.ALE), (0), (0x80000001), by decide +kernel⟩,
   ⟨(openS.wr (Reg.PT_FORCE_CFG (pageAddr Blk.PROT 0)) 5), (.island 0), (Blk.PROT), (0), (0x80000001), by decide +kernel⟩,
   ⟨openS, (.island 0), (Blk.MESH), (0), by decide +kernel⟩,
   ⟨openS, (.island 0), (Blk.MESH), (0), by decide +kernel⟩⟩

/-! ## Well-formedness: one ill-formed term for each check -/

theorem test_wf_ok : (Instr.worldWrite (.hart 11) 0x0B 63 0xFFFFFFFF).wf = true ∧ (Instr.registerWrite (.block 0x0E 63) 0xF8000000 8 (2 ^ 64 - 1) []).wf = true := by
  decide
theorem test_wf_requester : (Instr.logPop (.hart 12) 1).wf = false ∧ (Instr.logPop (.island 2) 1).wf = false ∧
    (Instr.logPop (.block 0x0E 64) 1).wf = false ∧ (Instr.logPop (.rlink 4) 1).wf = false := by decide
theorem test_wf_value : (Instr.park .debug (2 ^ 32)).wf = false ∧ (Instr.registerWrite .debug 0xF8000000 8 (2 ^ 64) []).wf = false := by decide
theorem test_wf_page : (Instr.pageLock .pcie 0x0B 64 1).wf = false ∧ (Instr.pageLock .pcie 0x25 0 1).wf = false := by decide
theorem test_wf_access : (Instr.readClear .debug (2 ^ 48) 4 0).wf = false ∧ (Instr.readClear .debug 0xF8000000 3 0).wf = false ∧
    (Instr.readClear .debug 0xF8000000 4 4).wf = false := by decide
theorem test_wf_index : (Instr.wssEdge 4 true 40 0).wf = false ∧ (Instr.ledgerTest 16 0).wf = false ∧ (Instr.ferryTransferStart 32 0).wf = false ∧
    (Instr.coreNop 64 0 {}).wf = false ∧ (Instr.domainExitComplete 27 0).wf = false := by decide
/-- Balls by the worked example of chapter 25: BB35 is PWM_10 and L3 is DMC_A_CH_00_DQ_00. -/
theorem test_ball_map : ballNet 40 35 = [("PWM", some 10)] ∧ ballNet 11 3 = [("DMC_A", none), ("CH", some 0), ("DQ", some 0)] := by
  decide +kernel
/-- Page addresses by the worked example of chapter 2: CORE_39.IRQ_EN. -/
theorem test_page_address : regCode 0xF8E27024 = 0x0E ∧ regInst 0xF8E27024 = 39 ∧ regOff 0xF8E27024 = 0x024 := by decide
/-- No row of the table gives bits, so no word spells a command. -/
theorem test_no_word : decodeTableWord 16 0 = none ∧ (State.reset.withFetchWord 16 0) = State.reset := ⟨rfl, rfl⟩

end Sys2Proof.Machine
end

section
/-! The statements of the register pages (spec/02_register_pages.md): accesses to absent instances (R46), counters that saturate (R61)
and the error capture of SYS_00 (R62). -/

namespace Sys2Proof.Machine

variable {s : State} {req : Requester} {a c v ecc : Nat} {ext : List Byte}

/-! ## Where an access of the register region goes -/

theorem regCode_lt : regCode a < 64 := Nat.mod_lt _ (by decide)

theorem targetOf_eq_regs (hlo : regBase ≤ a) (hhi : a < regEnd) : targetOf a = .regs := by
  unfold regBase regEnd at *
  unfold targetOf regBase regEnd
  repeat rw [if_neg (by omega)]
  exact if_pos ⟨hlo, hhi⟩

/-- A write of the register region is the register access, counted on the mesh. -/
theorem exec_registerWrite_regs {size : Nat} (h : targetOf a = .regs) :
    exec (.registerWrite req a size v ext) s =
      .next ((s.regAccess req a size true v 0 ext).meshCrossed (s.access req a size true []) false) :=
  congrArg Host.Outcome.next (if_pos h)

/-- A read of the register region is the register access, counted on the mesh. -/
theorem exec_readClear_regs {size : Nat} (h : targetOf a = .regs) :
    exec (.readClear req a size ecc) s =
      .next ((s.regAccess req a size false 0 ecc []).meshCrossed (s.access req a size false []) false) :=
  congrArg Host.Outcome.next (if_pos h)

/-- A 32-bit write that passes the checks is the write of its register. -/
theorem State.regAccess_write_go (h : s.verdict req a 4 true = .go) :
    s.regAccess req a 4 true v ecc ext = (s.respOk []).writeReg req a (v % 2 ^ 32) ext :=
  State.checkedWrite_go (f := fun t => t.writeReg req a (v % 2 ^ 32) ext) h

/-- A register access is of the class CTRL, whoever makes it (R340). -/
theorem State.class_access_regs {len : Nat} {write : Bool} {data : List Byte} (h : targetOf a = .regs) :
    (s.access req a len write data).class = 0 := if_pos h

/-- The mesh crossing of a register access leaves every register outside MESH (R359). -/
theorem State.rd_meshCrossed_regs {t : State} {b len : Nat} {write loc : Bool} {data : List Byte} (h : targetOf a = .regs)
    (hb : regCode b ≠ Blk.MESH) : (t.meshCrossed (s.access req a len write data) loc).rd b = t.rd b :=
  (State.meshCrossed_meshOnly (by rw [State.class_access_regs h]; decide)).rd b hb

/-! ## Absent instances and unpopulated codes (R46) -/

/-- No block has a code from 0x25 on (R44). -/
theorem instCount_eq_zero (h : 0x25 ≤ c) (hc : c < 64) : instCount c = 0 := by
  revert c; decide

theorem State.verdict_unpopulated {n : Nat} {w : Bool} (h : instCount (regCode a) = 0) :
    s.verdict req a n w = .deny Cause.UNMAPPED false := if_pos (.inr (.inr h))

/-- The address lies in a page whose code is populated and whose instance is absent. -/
structure AbsentPage (a : Nat) : Prop where
  base_le : regBase ≤ a
  lt_end : a < regEnd
  populated : instCount (regCode a) ≠ 0
  absent : instCount (regCode a) ≤ regInst a

namespace AbsentPage

theorem targetOf_eq (h : AbsentPage a) : targetOf a = .regs := targetOf_eq_regs h.base_le h.lt_end

/-- Both halves of an aligned 64-bit access lie in one page. -/
theorem add_four (h : AbsentPage a) (ha : a % 8 = 0) : AbsentPage (a + 4) := by
  have code : regCode (a + 4) = regCode a := by unfold regCode; omega
  have inst : regInst (a + 4) = regInst a := by unfold regInst; omega
  obtain ⟨lo, hi, pop, abs⟩ := h
  refine ⟨by omega, ?_, by rwa [code], by rwa [code, inst]⟩
  unfold regEnd at *
  omega

/-- The instance is found absent before the block's phase, world and state are looked at (log entry 10). -/
theorem verdict_eq {n : Nat} {w : Bool} (h : AbsentPage a) (hs : sizeServed a n w = true) : s.verdict req a n w = .absent := by
  obtain ⟨lo, hi, pop, abs⟩ := h
  unfold State.verdict State.verdictAs
  rw [if_neg (by omega), if_pos abs, if_pos hs]

theorem write32_eq (h : AbsentPage a) (ha : a % 4 = 0) : s.write32 req a v ext = s.respOk [] := by
  unfold State.write32 State.checkedWrite
  rw [h.verdict_eq (by simp [sizeServed, ha])]

theorem read32_eq (h : AbsentPage a) (ha : a % 4 = 0) : s.read32 req a 4 ecc = s.respOk (List.replicate 4 0) := by
  unfold State.read32 State.checkedRead
  rw [h.verdict_eq (by simp [sizeServed, ha])]

/-- A 32-bit access writes nothing, or reads zero. -/
theorem regAccess_word {w : Bool} (h : AbsentPage a) (ha : a % 4 = 0) :
    s.regAccess req a 4 w v ecc ext = s.respOk (List.replicate (if w then 0 else 4) 0) := by
  cases w
  · exact h.read32_eq ha
  · exact h.write32_eq ha

/-- A 64-bit access does so in both of its halves (R48). -/
theorem regAccess_double {w : Bool} (h : AbsentPage a) (ha : a % 8 = 0) :
    s.regAccess req a 8 w v ecc ext = s.respOk (List.replicate (if w then 0 else 8) 0) := by
  have h' := h.add_four ha
  unfold State.regAccess
  rw [if_pos ⟨rfl, ha⟩]
  cases w
  · simp only [h.read32_eq (show a % 4 = 0 by omega), h'.read32_eq (show (a + 4) % 4 = 0 by omega)]
    rfl
  · simp only [h.write32_eq (show a % 4 = 0 by omega), h'.write32_eq (show (a + 4) % 4 = 0 by omega)]
    rfl

end AbsentPage

/-- Settles O8: the verdict on an absent instance comes before all that could refuse the access. -/
theorem absentPages : Obligations.AbsentPages := by
  intro s req addr value ecc ext lo hi
  refine ⟨fun populated absent => ?_, fun code n w => State.verdict_unpopulated (instCount_eq_zero code regCode_lt)⟩
  have page : AbsentPage addr := ⟨lo, hi, populated, absent⟩
  rw [exec_registerWrite_regs page.targetOf_eq, exec_readClear_regs page.targetOf_eq, exec_registerWrite_regs page.targetOf_eq,
    exec_readClear_regs page.targetOf_eq]
  constructor
  · intro ha
    rw [page.regAccess_word ha, page.regAccess_word ha]
    exact ⟨rfl, rfl⟩
  · intro ha
    rw [page.regAccess_double ha, page.regAccess_double ha]
    exact ⟨rfl, rfl⟩

/-! ## Counters that saturate (R61) -/

theorem State.getF_pageErr_count {page off cause : Nat} {heart : Bool} :
    (s.pageErr page off cause heart).getF (page + Hdr.ERR_CNT) 15 0 = min (s.getF (page + Hdr.ERR_CNT) 15 0 + 1) 0xFFFF := by
  have apart : page + Hdr.ERR_INFO ≠ page + Hdr.ERR_CNT := by simp
  unfold State.pageErr State.getF
  rw [State.rd_wr_ne apart]
  exact State.getF_addSat (Nat.zero_le 15) (by decide)

/-! ## The SYS_00 capture (R62) -/

/-- A level condition writes IRQ_RAW and IRQ_PEND of its page alone. -/
theorem State.rd_lvl_ne {page k b : Nat} {x : Bool} (hraw : page + Hdr.IRQ_RAW ≠ b) (hpend : page + Hdr.IRQ_PEND ≠ b) :
    (s.lvl page k x).rd b = s.rd b := by
  unfold State.lvl
  rw [State.rd_putBit_ne hraw]
  split
  · exact State.rd_evt_ne hpend
  · rfl

section Capture
variable {heart write : Bool} {addr cause b : Nat}

/-- The words of the capture: the error's address, and its requester, world, direction and cause with VALID. -/
def State.capture (s : State) (req : Requester) (heart : Bool) (addr cause : Nat) (write : Bool) : State :=
  (((s.wr Reg.SYS_AERR_LO addr).wr Reg.SYS_AERR_HI (addr / 2 ^ 32 % 2 ^ 16)).wr Reg.SYS_AERR_INFO
    (reqCode req + 2 ^ 16 * heart.toNat + 2 ^ 17 * write.toNat + 2 ^ 24 * cause + 2 ^ 31)).lvl (pageAddr Blk.SYS 0) 1 true

theorem State.bit_cnt_other {k : Nat} (h : a ≠ b) : (s.cnt a).bit b k = s.bit b k := congrArg (· == 1) (State.getF_putF_ne h)

/-- Whether the capture is taken does not turn on the count. -/
theorem State.valid_cnt : (s.cnt Reg.SYS_AERR_CNT).bit Reg.SYS_AERR_INFO 31 = s.bit Reg.SYS_AERR_INFO 31 :=
  State.bit_cnt_other (by decide)

theorem State.sysErr_of_valid (h : s.bit Reg.SYS_AERR_INFO 31 = true) :
    s.sysErr req heart addr cause write = s.cnt Reg.SYS_AERR_CNT := by
  unfold State.sysErr
  simp only [State.valid_cnt, h, if_true]

theorem State.sysErr_of_not_valid (h : ¬ s.bit Reg.SYS_AERR_INFO 31 = true) :
    s.sysErr req heart addr cause write = (s.cnt Reg.SYS_AERR_CNT).capture req heart addr cause write := by
  unfold State.sysErr State.capture
  simp only [State.valid_cnt, if_neg h]

/-- The count is no part of the capture. -/
theorem State.rd_capture_cnt : (s.capture req heart addr cause write).rd Reg.SYS_AERR_CNT = s.rd Reg.SYS_AERR_CNT := by
  unfold State.capture
  rw [State.rd_lvl_ne (by decide) (by decide), State.rd_wr_ne (by decide), State.rd_wr_ne (by decide), State.rd_wr_ne (by decide)]

theorem State.rd_capture_lo : (s.capture req heart addr cause write).rd Reg.SYS_AERR_LO = addr % 2 ^ 32 := by
  unfold State.capture
  rw [State.rd_lvl_ne (by decide) (by decide), State.rd_wr_ne (by decide), State.rd_wr_ne (by decide), State.rd_wr_same]

theorem State.rd_capture_hi : (s.capture req heart addr cause write).rd Reg.SYS_AERR_HI = addr / 2 ^ 32 % 2 ^ 16 := by
  unfold State.capture
  rw [State.rd_lvl_ne (by decide) (by decide), State.rd_wr_ne (by decide), State.rd_wr_same]
  omega

/-- A requester's code and a cause leave bit 31 to VALID. -/
theorem State.bit_capture_valid (hreq : reqCode req < 2 ^ 16) (hcause : cause < 16) :
    (s.capture req heart addr cause write).bit Reg.SYS_AERR_INFO 31 = true := by
  have hheart := heart.toNat_le
  have hwrite := write.toNat_le
  unfold State.bit State.getF State.capture
  rw [State.rd_lvl_ne (by decide) (by decide), State.rd_wr_same]
  unfold fld
  simp only [beq_iff_eq]
  omega

/-- An error is counted whether or not it is captured. -/
theorem State.rd_sysErr_cnt :
    (s.sysErr req heart addr cause write).rd Reg.SYS_AERR_CNT = min (s.rd Reg.SYS_AERR_CNT + 1) 0xFFFFFFFF := by
  by_cases h : s.bit Reg.SYS_AERR_INFO 31 = true
  · rw [State.sysErr_of_valid h]
    exact State.rd_cnt
  · rw [State.sysErr_of_not_valid h, State.rd_capture_cnt]
    exact State.rd_cnt

end Capture

/-- Settles O11: both counters are fields that saturate. -/
theorem errorCountersSaturate : Obligations.ErrorCountersSaturate :=
  fun _ => ⟨fun _ _ _ _ => State.getF_pageErr_count, fun _ _ _ _ _ => State.rd_sysErr_cnt⟩

/-! ## Writes that clear by ones (R16) -/

theorem State.bit_eq_testBit {k : Nat} : s.bit a k = (s.rd a).testBit k := by
  unfold State.bit State.getF fld
  rw [Nat.testBit_eq_decide_div_mod_eq, show k + 1 - k = 1 by omega]
  rfl

theorem State.bit_wr {k : Nat} (hk : k < 32) : (s.wr a v).bit a k = v.testBit k := by
  rw [State.bit_eq_testBit, State.rd_wr_same, Nat.testBit_mod_two_pow]
  simp [hk]

/-- A register that takes no value written: a write of it clears bits and sets bits alone. -/
theorem State.regStore_of_not_rw {r : RegRow} (hrow : rowOf a = some r) (hrw : r.rw = 0) (hrwl : r.rwl = 0) :
    s.regStore req a v = (s.wr a (maskedWrite r (s.rd a) v 0 (s.bit (pageOf a + Hdr.PAGE_LOCK) 0))).respOk [] := by
  unfold State.regStore State.regStoreBut
  rw [hrow]
  simp [hrw, hrwl]

/-- A W1C bit clears where the word written has a 1. -/
theorem testBit_maskedWrite_of_w1c {r : RegRow} {old : Nat} {locked : Bool} {k : Nat} (hrw : r.rw = 0) (hrwl : r.rwl = 0)
    (hw1s : r.w1s = 0) (hbit : r.w1c.testBit k = true) (hk : k < 32) :
    (maskedWrite r old v 0 locked).testBit k = (old.testBit k && !v.testBit k) := by
  have ones : Nat.testBit 0xFFFFFFFF k = true := by
    rw [show 0xFFFFFFFF = 2 ^ 32 - 1 by decide, Nat.testBit_two_pow_sub_one]
    exact decide_eq_true hk
  simp [maskedWrite, hrw, hrwl, hw1s, hbit, ones]

/-- A write of AERR_INFO is a register write, which the level of its interrupt then follows. -/
theorem State.writeReg_AERR_INFO : s.writeReg req Reg.SYS_AERR_INFO v ext =
    (s.regStore req Reg.SYS_AERR_INFO v).lvl (pageAddr Blk.SYS 0) 1 ((s.regStore req Reg.SYS_AERR_INFO v).bit Reg.SYS_AERR_INFO 31) := rfl

/-- VALID clears where it is written as 1 and keeps its value where it is written as 0. -/
theorem State.valid_writeReg_AERR_INFO : (s.writeReg req Reg.SYS_AERR_INFO v ext).bit Reg.SYS_AERR_INFO 31 =
    (s.bit Reg.SYS_AERR_INFO 31 && !v.testBit 31) := by
  have row : rowOf Reg.SYS_AERR_INFO = some ⟨0x118, 0x4, 1, [0], 0, 0, 0x80000000, 0, 0, 0, 0⟩ := by decide
  rw [State.writeReg_AERR_INFO, State.bit_eq_testBit, State.rd_lvl_ne (by decide) (by decide), ← State.bit_eq_testBit,
    State.regStore_of_not_rw row rfl rfl]
  refine State.bit_wr (by decide) |>.trans ?_
  rw [testBit_maskedWrite_of_w1c rfl rfl rfl (by decide) (by decide), State.bit_eq_testBit]

/-- Settles O12: an error while VALID is set is the count alone, and any other is the count and the capture. -/
theorem errorCapture : Obligations.ErrorCapture := by
  intro s req
  refine ⟨fun heart addr cause write => ⟨State.rd_sysErr_cnt, ?_⟩, fun value ext go => ?_⟩
  · split
    next valid =>
      rw [State.sysErr_of_valid valid]
      exact fun a ha => State.rd_putF_ne ha.symm
    next free =>
      rw [State.sysErr_of_not_valid free]
      exact ⟨State.rd_capture_lo, State.rd_capture_hi, State.bit_capture_valid⟩
  · have regs : targetOf Reg.SYS_AERR_INFO = .regs := by decide
    refine ⟨_, exec_registerWrite_regs regs, ?_⟩
    rw [State.regAccess_write_go go, State.bit_eq_testBit, State.rd_meshCrossed_regs regs (by decide), ← State.bit_eq_testBit,
      State.valid_writeReg_AERR_INFO, Nat.testBit_mod_two_pow]
    simp only [show (31 : Nat) < 32 by decide, decide_true, Bool.true_and]
    rfl

end Sys2Proof.Machine
end

section
/-! The statement of the angle and time base (spec/03_angle_time_base.md): the event log of the angle clock when it is full (R107). -/

namespace Sys2Proof.Machine

variable {s : State} {t type d from' to' fq tq info : Nat}

/-- Showing the head and the level writes registers alone. -/
@[simp] theorem State.angLogSync_ang : s.angLogSync.ang = s.ang := by
  simp [State.angLogSync]

/-- A full log counts the entry in OVF_CNT and raises the page's interrupt 6. -/
theorem State.angLog_of_full (h : 16 ≤ s.ang.log.length) :
    s.angLog t type d from' to' fq tq info = (s.incSat Reg.ANGLE_LOG_STAT 15 8).evt angPage 6 := if_pos h

/-- An interrupt of the page leaves OVF_CNT to the saturating count. -/
theorem State.ovfCnt_angLog_of_full (h : 16 ≤ s.ang.log.length) :
    (s.angLog t type d from' to' fq tq info).getF Reg.ANGLE_LOG_STAT 15 8 = min (s.getF Reg.ANGLE_LOG_STAT 15 8 + 1) 255 := by
  have apart : angPage + Hdr.IRQ_PEND ≠ Reg.ANGLE_LOG_STAT := by decide
  rw [State.angLog_of_full h]
  unfold State.getF
  rw [State.rd_evt_ne apart]
  exact State.getF_addSat (by decide) (by decide)

/-- A log with room keeps the entries it holds, and the new one, stamped with the time of its tick, comes last. -/
theorem State.log_angLog_of_room (h : s.ang.log.length < 16) : (s.angLog t type d from' to' fq tq info).ang.log = s.ang.log ++
    [(type + d * 16 + from' * 64 + to' * 512 + 4096 * fq + 16384 * tq + 65536 * (info % 65536), s.timeAt t)] := by
  unfold State.angLog
  rw [if_neg (Nat.not_le.mpr h), State.angLogSync_ang]

/-- Settles O9: a full log changes OVF_CNT and an interrupt alone, and a log with room takes the entry at its end. -/
theorem angleLogFull : Obligations.AngleLogFull := by
  intro s t type d from' to' fq tq info
  refine ⟨fun full => ⟨?_, State.ovfCnt_angLog_of_full full⟩, fun room => ?_⟩
  · rw [State.angLog_of_full full, State.evt_ang, State.incSat_ang]
  · rw [State.log_angLog_of_room room, List.length_append, List.length_singleton]

end Sys2Proof.Machine
end

section
/-! The statement of speaker protection (spec/18_speaker_protection.md): the fault log of PROT_00 when it is full (R559). -/

namespace Sys2Proof.Machine

variable {s : State} {type j irq hi lo : Nat} {forced : Bool} {peak : Nat}

/-- A full log counts the report in OVF_CNT and raises the page's interrupt 5; the report's own interrupt and pulse follow (R554). -/
theorem State.protReport_of_full (h : 16 ≤ s.prot.log.length) : s.protReport type j irq forced peak =
    (((s.incSat Reg.PROT_LOG_STAT 15 8).evt protPage 5).evt protPage irq).emit (.island Isl.PROT (type * 16 + j)) := by
  simp only [State.protReport, if_pos h]

/-- The pulse to the safety island leaves every register as it is. -/
theorem State.getF_emit {o : Out} {a : Nat} : (s.emit o).getF a hi lo = s.getF a hi lo := rfl

/-- The interrupts of the page leave LOG_STAT as it is. -/
theorem State.getF_evt_protPage_LOG_STAT :
    (s.evt protPage irq).getF Reg.PROT_LOG_STAT hi lo = s.getF Reg.PROT_LOG_STAT hi lo := by
  have apart : protPage + Hdr.IRQ_PEND ≠ Reg.PROT_LOG_STAT := by decide
  unfold State.getF
  rw [State.rd_evt_ne apart]

/-- Neither the two interrupts nor the pulse reach OVF_CNT: the saturating count alone moves it. -/
theorem State.ovfCnt_protReport_of_full (h : 16 ≤ s.prot.log.length) :
    (s.protReport type j irq forced peak).getF Reg.PROT_LOG_STAT 15 8 = min (s.getF Reg.PROT_LOG_STAT 15 8 + 1) 255 := by
  rw [State.protReport_of_full h, State.getF_emit, State.getF_evt_protPage_LOG_STAT, State.getF_evt_protPage_LOG_STAT]
  exact State.getF_addSat (by decide) (by decide)

/-- Settles O10: a report to a full log changes OVF_CNT, interrupts and the pulse to the safety island, and no entry of the log. -/
theorem protectionLogFull : Obligations.ProtectionLogFull := by
  intro s type j irq forced peak _ full
  refine ⟨?_, State.ovfCnt_protReport_of_full full⟩
  rw [State.protReport_of_full full, State.emit_prot, State.evt_prot, State.evt_prot, State.incSat_prot]

end Sys2Proof.Machine
end

section
/-! What every command keeps: one lemma per command, in the order of the dispatch. Each follows the branches of the command's meaning and
cites, for every operation on the way, what that operation keeps (Laws/Keeps*.lean). -/

namespace Sys2Proof.Machine

open State

/-- A command answers a next state, and keeps every store that it is not listed for. -/
def Answers (i : Instr) : Prop :=
  ∀ s, ∃ t, exec i s = .next t ∧ Keeps (!(stores i).mem) (!(stores i).inner) (!(stores i).fuse) (!(stores i).keys) s t

theorem keeps_tickTo {pm pi pf pk : Bool} (s : State) (t : Nat) : Keeps pm pi pf pk s (s.tickTo t) := tickTo_keeps (.refl s)

theorem keeps_coreTick {pm pi pf pk : Bool} (s : State) (t : Nat) : Keeps pm pi pf pk s (s.coreTick t) := coreTick_keeps (.refl s)

theorem answers_registerWrite {req : Requester} {addr size value : Nat} {ext : List Byte} :
    Answers (.registerWrite req addr size value ext) :=
  fun _ => ⟨_, rfl, .ite (meshCrossed_keeps (regAccess_keeps (.refl _))) (.refl _)⟩

theorem answers_readClear {req : Requester} {addr size ecc : Nat} : Answers (.readClear req addr size ecc) :=
  fun _ => ⟨_, rfl, .ite (meshCrossed_keeps (regAccess_keeps (.refl _))) (.refl _)⟩

theorem answers_pageLock {req : Requester} {code inst value : Nat} : Answers (.pageLock req code inst value) :=
  fun _ => ⟨_, rfl, checkedWrite_keeps (fun _ => lockPage_keeps) (.refl _)⟩

theorem answers_worldWrite {req : Requester} {code inst value : Nat} : Answers (.worldWrite req code inst value) :=
  fun _ => ⟨_, rfl, checkedWrite_keeps (fun _ => writeWorld_keeps) (.refl _)⟩

theorem answers_irqForce {req : Requester} {code inst value : Nat} : Answers (.irqForce req code inst value) :=
  fun _ => ⟨_, rfl, checkedWrite_keeps (fun _ => forceIrq_keeps) (.refl _)⟩

theorem answers_memoryAccess {req : Requester} {addr len : Nat} {write fetch : Bool} {data : List Byte} {cacheable : Bool} {tkt : Option Nat} {env : MemEnv} :
    Answers (.memoryAccess req addr len write fetch data cacheable tkt env) :=
  fun _ => ⟨_, rfl, memAccess_keeps (.refl _)⟩

theorem answers_heldAccessServed {k : Nat} {env : MemEnv} : Answers (.heldAccessServed k env) := by
  refine fun s => ⟨_, rfl, ?_⟩
  split
  · exact .refl _
  · refine .ite (.refl _) ?_
    split
    · extract_lets u r
      have hu : Keeps false false true false s u := picked_keeps (.refl _)
      have hr : Keeps false false true false s r.2 := carry_keeps (.with_held hu)
      exact .ite (.refl _) (giveAnswer_keeps hr)
    · refine .ite (.refl _) ?_
      extract_lets r
      have hr : Keeps false false true false s r.2.2 := ticketRequest_keeps (.with_held (.refl _))
      exact giveTicket_keeps hr

theorem answers_wssEdge {i : Nat} {rising : Bool} {pulse t : Nat} : Answers (.wssEdge i rising pulse t) :=
  fun s => have ht := keeps_tickTo s t; ⟨_, rfl, .ite ht (publish_keeps (wssEdge_keeps (lossFirst_keeps ht)))⟩

theorem answers_dirPwTimeout {i t : Nat} : Answers (.dirPwTimeout i t) := by
  refine fun s => ⟨_, rfl, ?_⟩
  have ht : Keeps true true true true s (s.tickTo t) := keeps_tickTo s t
  refine .ite ?_ ht
  split
  · refine .ite ?_ ht
    extract_lets u
    have hu : Keeps true true true true s u := setSrc_keeps (lossFirst_keeps ht)
    exact publish_keeps (.ite (wssTooth_keeps hu) hu)
  · exact ht

theorem answers_quadCount {m : Nat} {up z : Bool} {t : Nat} : Answers (.quadCount m up z t) := by
  refine fun s => ⟨_, rfl, ?_⟩
  have ht : Keeps true true true true s (s.tickTo t) := keeps_tickTo s t
  refine .ite ?_ ht
  extract_lets fwd u
  have hu : Keeps true true true true s u := wr_keeps (lossFirst_keeps ht)
  exact publish_keeps (srcEvent_keeps hu)

theorem answers_spiRdcSample {m word t : Nat} : Answers (.spiRdcSample m word t) := by
  refine fun s => ⟨_, rfl, ?_⟩
  have ht : Keeps true true true true s (s.tickTo t) := keeps_tickTo s t
  refine .ite ?_ ht
  extract_lets wd raw pos i u old u1 u2
  have hu : Keeps true true true true s u := wr_keeps (lossFirst_keeps ht)
  have hu1 : Keeps true true true true s u1 := setSrc_keeps hu
  have hu2 : Keeps true true true true s u2 := setSrc_keeps (.each (fun _ _ => setDom_keeps) hu1)
  clear_value old
  cases old
  · exact publish_keeps (acceptTooth_keeps hu2)
  · exact publish_keeps (.ite hu1 (srcEvent_keeps hu1))

theorem answers_sourceSilenceTimeout {i t : Nat} : Answers (.sourceSilenceTimeout i t) :=
  fun s => have ht := keeps_tickTo s t; ⟨_, rfl, .ite (publish_keeps (goSilent_keeps ht)) ht⟩

theorem answers_speedMessageExpired {t : Nat} : Answers (.speedMessageExpired t) :=
  fun s => have ht := keeps_tickTo s t; ⟨_, rfl, .ite (publish_keeps (msgExpire_keeps ht)) ht⟩

theorem answers_holdExpired {d t : Nat} : Answers (.holdExpired d t) :=
  fun s => have ht := keeps_tickTo s t; ⟨_, rfl, .ite (publish_keeps (angLog_keeps (holdExp_keeps ht))) ht⟩

theorem answers_angleBusUpdate {t : Nat} : Answers (.angleBusUpdate t) := by
  refine fun s => ⟨_, rfl, ?_⟩
  have ht : Keeps true true true true s (s.tickTo t) := keeps_tickTo s t
  refine .ite ?_ ht
  extract_lets old u _ u1 u2 _ u3 u4
  have hu : Keeps true true true true s u := wr_keeps (.each (fun _ _ => domShow_keeps) ht)
  have hu1 : Keeps true true true true s u1 := .with_ang hu id id
  have hu2 : Keeps true true true true s u2 := by
    unfold u2
    split
    · exact putF_keeps hu1
    · exact hu1
  have hu3 : Keeps true true true true s u3 := .with_ang hu2 id id
  have hu4 : Keeps true true true true s u4 := .each (fun _ _ => setDom_keeps) hu3
  exact .each (fun _ _ => alarmUpdate_keeps) hu4

theorem answers_alarmEnable {req : Requester} {n value : Nat} : Answers (.alarmEnable req n value) :=
  fun _ => ⟨_, rfl, .ite (checkedWrite_keeps (fun _ => writeAlarm_keeps) (.refl _)) (.refl _)⟩

theorem answers_angleEnable {req : Requester} {value : Nat} : Answers (.angleEnable req value) :=
  fun _ => ⟨_, rfl, checkedWrite_keeps (fun _ hu => angleCtl_keeps (regStore_keeps hu)) (.refl _)⟩

theorem answers_sourceConfigWrite {req : Requester} {i value : Nat} : Answers (.sourceConfigWrite req i value) :=
  fun _ => ⟨_, rfl, .ite (checkedWrite_keeps (fun _ hu => srcConfigured_keeps (regStore_keeps hu)) (.refl _)) (.refl _)⟩

theorem answers_prediction {req : Requester} {value : Nat} : Answers (.prediction req value) :=
  fun _ => ⟨_, rfl, checkedWrite_keeps (fun _ => writePredCtl_keeps) (.refl _)⟩

theorem answers_logPop {req : Requester} {value : Nat} : Answers (.logPop req value) :=
  fun _ => ⟨_, rfl, checkedWrite_keeps (fun _ => popAngLog_keeps) (.refl _)⟩

theorem answers_gptpSyncRx {p : Nat} {offset : Int} {locks : Bool} {t : Nat} : Answers (.gptpSyncRx p offset locks t) :=
  fun s => have ht := keeps_tickTo s t; ⟨_, rfl, .ite (gptpOffset_keeps ht) ht⟩

theorem answers_gptpPdelayRx {p delay t : Nat} : Answers (.gptpPdelayRx p delay t) := by
  refine fun s => ⟨_, rfl, ?_⟩
  have ht : Keeps true true true true s (s.tickTo t) := keeps_tickTo s t
  refine .ite ?_ ht
  extract_lets a ok was u
  have hu : Keeps true true true true s u := putF_keeps (putBit_keeps ht)
  exact .ite (evt_keeps (gptpLost_keeps hu)) hu

theorem answers_gptpSyncTx {p t : Nat} : Answers (.gptpSyncTx p t) :=
  fun s => have ht := keeps_tickTo s t; ⟨_, rfl, .ite (emit_keeps ht) ht⟩

theorem answers_poresetAssert {t : Nat} : Answers (.poresetAssert t) :=
  fun s => have ht := keeps_tickTo s t; ⟨_, rfl, .ite (resetAs_keeps (.with_boot ht id)) (.with_boot ht id)⟩

theorem answers_poresetRelease {straps : Nat} {inRange : Bool} {t : Nat} : Answers (.poresetRelease straps inRange t) := by
  refine fun s => ⟨_, rfl, ?_⟩
  have ht : Keeps true true true true s (s.tickTo t) := keeps_tickTo s t
  refine .ite ht ?_
  extract_lets _ u _
  have hu : Keeps true true true true s u := .with_boot ht id
  exact .ite hu (.ite (tryRelease_keeps (latchStraps_keeps (.with_boot hu id))) (.with_boot hu id))

theorem answers_warmresetAssert {t : Nat} : Answers (.warmresetAssert t) :=
  fun s => have ht := keeps_tickTo s t; ⟨_, rfl, .ite (.with_boot ht id) (resetAs_keeps (.with_boot ht id))⟩

theorem answers_warmresetRelease {t : Nat} : Answers (.warmresetRelease t) :=
  fun s => ⟨_, rfl, tryRelease_keeps (.with_boot (keeps_tickTo s t) id)⟩

theorem answers_swrst {req : Requester} {value : Nat} : Answers (.swrst req value) :=
  fun _ => ⟨_, rfl, checkedWrite_keeps (fun _ => writeSwrst_keeps) (.refl _)⟩

theorem answers_pciePerst {low : Bool} : Answers (.pciePerst low) := by
  refine fun s => ⟨_, rfl, ?_⟩
  refine .ite (.refl _) ?_
  extract_lets _ u
  have hu : Keeps true true true true s u := .with_boot (.refl _) id
  exact .ite (funcLost_keeps hu) hu

theorem answers_bootRomStart {err0 err1 slot0 slot1 : Bool} {t : Nat} : Answers (.bootRomStart err0 err1 slot0 slot1 t) := by
  refine fun s => ⟨_, rfl, ?_⟩
  have ht : Keeps false true true false s (s.tickTo t) := keeps_tickTo s t
  refine .ite ht ?_
  extract_lets u _ u1
  have hu : Keeps false true true false s u := deriveFixed_keeps ht
  have hu1 : Keeps false true true false s u1 := .with_boot hu id
  exact applyPoint_keeps (chooseRestore_keeps hu1)

theorem answers_imageVerifyDone {k : Nat} {err : Bool} {t : Nat} : Answers (.imageVerifyDone k err t) := by
  refine fun s => ⟨_, rfl, ?_⟩
  have ht : Keeps false false true true s (s.tickTo t) := keeps_tickTo s t
  refine .ite ht ?_
  extract_lets slot h b code u _ u1
  have hu : Keeps false false true true s u := setBootStat_keeps ht
  have hu1 : Keeps false false true true s u1 := .with_boot ht ((List.length_set ..).trans)
  exact .ite (imagePassed_keeps (.with_boot hu ((List.length_set ..).trans))) (.ite (putF_keeps hu1) (bootFailed_keeps
      (setBootStat_keeps hu1)))

theorem answers_declareC {req : Requester} {value : Nat} : Answers (.declareC req value) :=
  fun _ => ⟨_, rfl, checkedWrite_keeps (fun _ => writeStageCtl_keeps) (.refl _)⟩

theorem answers_stageCLimitExpired {t : Nat} : Answers (.stageCLimitExpired t) :=
  fun s => have ht := keeps_tickTo s t; ⟨_, rfl, .ite (declareC_keeps ht) ht⟩

theorem answers_pcieConfigRequest {t : Nat} : Answers (.pcieConfigRequest t) :=
  fun s => have ht := keeps_tickTo s t; ⟨_, rfl, .ite (emit_keeps ht) ht⟩

theorem answers_stow {req : Requester} {value : Nat} : Answers (.stow req value) :=
  fun _ => ⟨_, rfl, checkedWrite_keeps (fun _ => writeStowCtl_keeps) (.refl _)⟩

theorem answers_stowBuildDone {t : Nat} : Answers (.stowBuildDone t) := by
  refine fun s => ⟨_, rfl, ?_⟩
  have ht : Keeps false false true true s (s.tickTo t) := keeps_tickTo s t
  split
  · exact ht
  · extract_lets u _ u1 gen n u2 u3
    have hu : Keeps false false true true s u := putBit_keeps ht
    have hu1 : Keeps false false true true s u1 := .with_boot hu id
    have hu2 : Keeps false false true true s u2 := setBytes_keeps hu1
    have hu3 : Keeps false false true true s u3 := wr_keeps (wr_keeps (evt_keeps (putBit_keeps hu2)))
    exact .ite (evt_keeps (putF_keeps (setLe_keeps hu1))) (.ite (startFlash_keeps hu3) hu3)

theorem answers_flashCopyDone {fail t : Nat} : Answers (.flashCopyDone fail t) := by
  refine fun s => ⟨_, rfl, ?_⟩
  have ht : Keeps true false true true s (s.tickTo t) := keeps_tickTo s t
  refine .ite ht ?_
  extract_lets k u
  have hu : Keeps true false true true s u := putBit_keeps ht
  split
  · exact .ite (evt_keeps (putF_keeps hu)) (evt_keeps (putBit_keeps (setIbytes_keeps hu)))
  · exact evt_keeps (putF_keeps hu)

theorem answers_queuedFrameDelivery {p t : Nat} : Answers (.queuedFrameDelivery p t) :=
  fun s => have ht := keeps_tickTo s t; ⟨_, rfl, .ite (serveAll_keeps ht) ht⟩

theorem answers_frameAgeExpired {p t : Nat} : Answers (.frameAgeExpired p t) := by
  refine fun s => ⟨_, rfl, ?_⟩
  have ht : Keeps true true true true s (s.tickTo t) := keeps_tickTo s t
  refine .ite ht ?_
  extract_lets gone
  exact .each (fun _ _ => gwDrop_keeps) (setBuf_keeps ht)

theorem answers_pmuEvaluate {cpu : Nat} {pcie : Bool} {power : List Nat} {t : Nat} : Answers (.pmuEvaluate cpu pcie power t) :=
  fun s => have ht := keeps_tickTo s t; ⟨_, rfl, .ite (sessionPower_keeps (.each (fun _ _ => evalDomain_keeps) ht)) ht⟩

theorem answers_domainExitComplete {d t : Nat} : Answers (.domainExitComplete d t) := by
  refine fun s => ⟨_, rfl, ?_⟩
  have ht : Keeps false true true true s (s.tickTo t) := keeps_tickTo s t
  split
  · exact ht
  · extract_lets cur u u1
    have hu : Keeps false true true true s u := setDomState_keeps ht
    have hu1 : Keeps false true true true s u1 := .with_domains hu ((List.length_modify ..).trans)
    exact .ite ht (wakeBlocks_keeps hu1)

theorem answers_park {req : Requester} {value : Nat} : Answers (.park req value) :=
  fun _ => ⟨_, rfl, checkedWrite_keeps (fun _ => writePark_keeps) (.refl _)⟩

theorem answers_p4Entry {t : Nat} : Answers (.p4Entry t) :=
  fun s => have ht := keeps_tickTo s t; ⟨_, rfl, .ite ht (.ite (evt_keeps ht) (powerOff_keeps (.ite (parkStop_keeps ht) ht)))⟩

theorem answers_wakePin {t : Nat} : Answers (.wakePin t) :=
  fun s => have ht := keeps_tickTo s t; ⟨_, rfl, .ite (wakeEvent_keeps ht) ht⟩

theorem answers_wakeTimerExpired {t : Nat} : Answers (.wakeTimerExpired t) :=
  fun s => have ht := keeps_tickTo s t; ⟨_, rfl, .ite (wakeEvent_keeps ht) ht⟩

theorem answers_canWakeFrame {n kind id t : Nat} : Answers (.canWakeFrame n kind id t) :=
  fun s => have ht := keeps_tickTo s t; ⟨_, rfl, .ite (wakeEvent_keeps ht) ht⟩

theorem answers_railsInRange {t : Nat} : Answers (.railsInRange t) :=
  fun s => have ht := keeps_tickTo s t; ⟨_, rfl, .ite (tryRelease_keeps (.with_boot ht id)) ht⟩

theorem answers_ledgerUpdate {t : Nat} : Answers (.ledgerUpdate t) := by
  refine fun s => ⟨_, rfl, ?_⟩
  have ht : Keeps false true true true s (s.coreTick t) := keeps_coreTick s t
  refine .ite ?_ ht
  refine .each (fun u x hu => ?_) (refill_keeps ht)
  split
  · exact .ite (testJob_keeps hu) hu
  · exact hu

theorem answers_ledgerTest {p t : Nat} : Answers (.ledgerTest p t) := by
  refine fun s => ⟨_, rfl, ?_⟩
  have ht : Keeps false true true true s (s.coreTick t) := keeps_coreTick s t
  split
  · exact ht
  · exact .ite (testJob_keeps ht) ht

theorem answers_monitorFault {g : Nat} : Answers (.monitorFault g) :=
  fun _ => ⟨_, rfl, .ite (lvl_keeps (putBit_keeps (.with_ledger (.refl _) id id id))) (.refl _)⟩

theorem answers_thermSample {meas : List Int} {switching t : Nat} : Answers (.thermSample meas switching t) := by
  refine fun s => ⟨_, rfl, ?_⟩
  have ht : Keeps true true true true s (s.tickTo t) := keeps_tickTo s t
  refine .ite ht ?_
  extract_lets u u1
  have hu : Keeps true true true true s u := .each (fun _ _ => sense_keeps) ht
  have hu1 : Keeps true true true true s u1 := thermSync_keeps hu
  split
  · exact .ite (sessionPower_keeps (.when (fun _ => coolSync_keeps) (tripAt_keeps hu1))) hu1
  · exact hu1

theorem answers_throttleEvaluate {t : Nat} : Answers (.throttleEvaluate t) := by
  refine fun s => ⟨_, rfl, ?_⟩
  have ht : Keeps true true true true s (s.tickTo t) := keeps_tickTo s t
  refine .ite ?_ ht
  extract_lets u u1 u2
  have hu : Keeps true true true true s u := ht
  have hu1 : Keeps true true true true s u1 := by
    unfold u1
    split
    · exact .ite (lowerStep_keeps ht) ht
    · exact ht
  have hu2 : Keeps true true true true s u2 := by
    refine .each (fun u3 x hu2 => ?_) hu1
    extract_lets cool
    exact .ite (stepUp_keeps hu2) hu2
  exact coolSync_keeps hu2

theorem answers_tripClr {req : Requester} {value : Nat} : Answers (.tripClr req value) :=
  fun _ => ⟨_, rfl, heartWrite_keeps (fun _ => tripClear_keeps) (.refl _)⟩

theorem answers_coolTempSample {code t : Nat} : Answers (.coolTempSample code t) := by
  refine fun s => ⟨_, rfl, ?_⟩
  have ht : Keeps true true true true s (s.tickTo t) := keeps_tickTo s t
  refine .ite ?_ ht
  extract_lets v u u1 _
  have hu : Keeps true true true true s u := putBit_keeps (putF_keeps ht)
  have hu1 : Keeps true true true true s u1 := putBit_keeps hu
  exact coolSync_keeps (.with_therm hu1 id)

theorem answers_coolInStale {t : Nat} : Answers (.coolInStale t) :=
  fun s => have ht := keeps_tickTo s t; ⟨_, rfl, .ite (coolSync_keeps (putBit_keeps (putBit_keeps ht))) ht⟩

theorem answers_tachSample {pump fan t : Nat} : Answers (.tachSample pump fan t) := by
  refine fun s => ⟨_, rfl, ?_⟩
  have ht : Keeps true true true true s (s.tickTo t) := keeps_tickTo s t
  refine .ite ?_ ht
  extract_lets p f u miss pm fm _ u1
  have hu : Keeps true true true true s u := wr_keeps ht
  have hu1 : Keeps true true true true s u1 := .with_therm hu id
  exact coolSync_keeps (putBit_keeps (putBit_keeps hu1))

theorem answers_coolingRequest {t : Nat} : Answers (.coolingRequest t) := by
  refine fun s => ⟨_, rfl, ?_⟩
  have ht : Keeps true true true true s (s.tickTo t) := keeps_tickTo s t
  refine .ite ?_ ht
  extract_lets h d u _ u1
  have hh : Keeps true true true true s h.2 := hotByte_keeps ht
  have hu : Keeps true true true true s u := hh
  have hu1 : Keeps true true true true s u1 := .with_therm hu id
  exact originate_keeps hu1

theorem answers_hartHoldWrite {req : Requester} {value : Nat} : Answers (.hartHoldWrite req value) :=
  fun _ => ⟨_, rfl, checkedWrite_keeps (fun _ => writeHold_keeps) (.refl _)⟩

theorem answers_xmbRing {req : Requester} {i : Nat} {h2s : Bool} {value : Nat} : Answers (.xmbRing req i h2s value) :=
  fun _ => ⟨_, rfl, checkedWrite_keeps (fun _ => ringXmb_keeps) (.refl _)⟩

theorem answers_xmbAck {req : Requester} {i : Nat} {h2s : Bool} {value : Nat} : Answers (.xmbAck req i h2s value) :=
  fun _ => ⟨_, rfl, checkedWrite_keeps (fun _ => ackXmb_keeps) (.refl _)⟩

theorem answers_aesGcmEncrypt {src aux : MemEnv} : Answers (.aesGcmEncrypt src aux) :=
  fun _ => ⟨_, rfl, secRun_keeps (fun _ _ => secEncrypt_keeps) (.refl _)⟩

theorem answers_aesGcmDecrypt {src aux : MemEnv} : Answers (.aesGcmDecrypt src aux) :=
  fun _ => ⟨_, rfl, secRun_keeps (fun _ _ => secDecrypt_keeps) (.refl _)⟩

theorem answers_sha256 {src : MemEnv} : Answers (.sha256 src) :=
  fun _ => ⟨_, rfl, secRun_keeps (fun _ _ => secSha_keeps) (.refl _)⟩

theorem answers_sha384 {src : MemEnv} : Answers (.sha384 src) :=
  fun _ => ⟨_, rfl, secRun_keeps (fun _ _ => secSha_keeps) (.refl _)⟩

theorem answers_sha512 {src : MemEnv} : Answers (.sha512 src) :=
  fun _ => ⟨_, rfl, secRun_keeps (fun _ _ => secSha_keeps) (.refl _)⟩

theorem answers_hmacSha384 {src : MemEnv} : Answers (.hmacSha384 src) :=
  fun _ => ⟨_, rfl, secRun_keeps (fun _ _ => secHmac_keeps) (.refl _)⟩

theorem answers_ecdsaVerify {src aux : MemEnv} : Answers (.ecdsaVerify src aux) :=
  fun _ => ⟨_, rfl, secRun_keeps (fun _ _ => secVerify_keeps) (.refl _)⟩

theorem answers_ecdsaSign {src : MemEnv} : Answers (.ecdsaSign src) :=
  fun _ => ⟨_, rfl, secRun_keeps (fun _ _ => secSign_keeps) (.refl _)⟩

theorem answers_mlDsaVerify {src aux : MemEnv} : Answers (.mlDsaVerify src aux) :=
  fun _ => ⟨_, rfl, secRun_keeps (fun _ _ => secVerify_keeps) (.refl _)⟩

theorem answers_mlDsaSign {src : MemEnv} : Answers (.mlDsaSign src) :=
  fun _ => ⟨_, rfl, secRun_keeps (fun _ _ => secSign_keeps) (.refl _)⟩

theorem answers_dualVerify {src : MemEnv} : Answers (.dualVerify src) :=
  fun _ => ⟨_, rfl, secRun_keeps (fun _ _ => secDual_keeps) (.refl _)⟩

theorem answers_derive {aux : MemEnv} : Answers (.derive aux) :=
  fun _ => ⟨_, rfl, secRun_keeps (fun _ _ => secDerive_keeps) (.refl _)⟩

theorem answers_clearKeySlot : Answers .clearKeySlot :=
  fun _ => ⟨_, rfl, secRun_keeps (fun _ _ => secClearKey_keeps) (.refl _)⟩

theorem answers_exportPublicKey : Answers .exportPublicKey :=
  fun _ => ⟨_, rfl, secRun_keeps (fun _ _ => secExport_keeps) (.refl _)⟩

theorem answers_randomBytes : Answers .randomBytes :=
  fun _ => ⟨_, rfl, secRun_keeps (fun _ _ => secRandom_keeps) (.refl _)⟩

theorem answers_revokeFuseKeySlot {ok : Bool} : Answers (.revokeFuseKeySlot ok) :=
  fun _ => ⟨_, rfl, secRun_keeps (fun _ _ => secRevoke_keeps) (.refl _)⟩

theorem answers_raiseAntiRollback {ok : Bool} : Answers (.raiseAntiRollback ok) :=
  fun _ => ⟨_, rfl, secRun_keeps (fun _ _ => secRollback_keeps) (.refl _)⟩

theorem answers_advanceLifecycle {aux : MemEnv} {ok : Bool} : Answers (.advanceLifecycle aux ok) :=
  fun _ => ⟨_, rfl, secRun_keeps (fun _ _ => secAdvance_keeps) (.refl _)⟩

theorem answers_secBadOpcode : Answers .secBadOpcode :=
  fun _ => ⟨_, rfl, secRun_keeps (fun _ _ => .some) (.refl _)⟩

theorem answers_trngHealthFail : Answers .trngHealthFail :=
  fun _ => ⟨_, rfl, .ite (emit_keeps (lvl_keeps (incSat_keeps (putBit_keeps (.refl _))))) (.refl _)⟩

theorem answers_extest {data sample : List Byte} : Answers (.extest data sample) :=
  fun _ => ⟨_, rfl, tapRun_keeps (fun _ hu => emit_keeps (.with_dbg hu id)) (.refl _)⟩

theorem answers_idcode : Answers .idcode :=
  fun _ => ⟨_, rfl, tapRun_keeps (fun _ => emit_keeps) (.refl _)⟩

theorem answers_samplePreload {data sample : List Byte} : Answers (.samplePreload data sample) :=
  fun _ => ⟨_, rfl, tapRun_keeps (fun _ hu => emit_keeps (.with_dbg hu id)) (.refl _)⟩

theorem answers_highz {data : List Byte} : Answers (.highz data) :=
  fun _ => ⟨_, rfl, tapRun_keeps (fun _ => setScan_keeps) (.refl _)⟩

theorem answers_clamp {data : List Byte} : Answers (.clamp data) :=
  fun _ => ⟨_, rfl, tapRun_keeps (fun _ => setScan_keeps) (.refl _)⟩

theorem answers_dtmcs {data : List Byte} : Answers (.dtmcs data) :=
  fun _ => ⟨_, rfl, tapRun_keeps (fun _ hu => emit_keeps (fresh_keeps hu)) (.refl _)⟩

theorem answers_dmi {act : DmiAct} {data : List Byte} : Answers (.dmi act data) := by
  refine fun s => ⟨_, rfl, ?_⟩
  refine tapRun_keeps (fun u hu => ?_) (.refl _)
  split
  · exact requestHalt_keeps hu
  · exact resumeHart_keeps hu
  · exact haltPair_keeps hu
  · exact haltPair_keeps hu
  · exact setSbaWorld_keeps hu
  · exact memAccess_keeps hu
  · exact abstractReg_keeps hu
  · exact abstractTrigger_keeps hu
  · exact inspectPair_keeps hu
  · exact dmReg_keeps hu

theorem answers_authNonce {data : List Byte} : Answers (.authNonce data) := by
  refine fun s => ⟨_, rfl, ?_⟩
  refine tapRun_keeps (fun u hu => ?_) (.refl _)
  refine .ite (emit_keeps (.with_dbg hu id)) ?_
  extract_lets n u1 _
  have hu1 : Keeps true true true true s u1 := fresh_keeps hu
  exact emit_keeps (.with_dbg hu1 id)

theorem answers_authToken {token : List Byte} {t : Nat} : Answers (.authToken token t) :=
  fun s => ⟨_, rfl, tapRun_keeps (fun _ hu => .ite hu (checkToken_keeps hu)) (keeps_tickTo s t)⟩

theorem answers_authStat {data : List Byte} {fin : Bool} : Answers (.authStat data fin) := by
  refine fun s => ⟨_, rfl, ?_⟩
  refine tapRun_keeps (fun u hu => ?_) (.refl _)
  extract_lets u1
  have hu1 : Keeps true true true true s u1 := sessionSync_keeps hu
  exact .when (fun _ => endSession_keeps) (emit_keeps hu1)

theorem answers_recoveryData {word : Nat} : Answers (.recoveryData word) := by
  refine fun s => ⟨_, rfl, ?_⟩
  refine tapRun_keeps (fun u hu => ?_) (.refl _)
  refine .ite hu ?_
  extract_lets n u1 _ u2 _
  have hu1 : Keeps false true true true s u1 := setLe_keeps hu
  have hu2 : Keeps false true true true s u2 := .with_dbg hu1 id
  exact .ite hu2 (.ite (recoveryFailed_keeps hu2) (.ite (.with_dbg hu2 id) hu2))

theorem answers_recoveryStat {data : List Byte} : Answers (.recoveryStat data) :=
  fun _ => ⟨_, rfl, tapRun_keeps (fun _ => emit_keeps) (.refl _)⟩

theorem answers_bypass {code : Nat} {data : List Byte} : Answers (.bypass code data) :=
  fun _ => ⟨_, rfl, .ite (.refl _) (tapRun_keeps (fun _ hu => hu) (.refl _))⟩

theorem answers_recoveryVerifyDone {t : Nat} : Answers (.recoveryVerifyDone t) := by
  refine fun s => ⟨_, rfl, ?_⟩
  have ht : Keeps false false true true s (s.tickTo t) := keeps_tickTo s t
  refine .ite ht ?_
  extract_lets h b code u _
  have hu : Keeps false false true true s u := putBit_keeps (setBootStat_keeps ht)
  exact .ite (imagePassed_keeps (.with_dbg hu id)) (recoveryFailed_keeps ht)

theorem answers_sessionExpired {t : Nat} : Answers (.sessionExpired t) :=
  fun s => have ht := keeps_tickTo s t; ⟨_, rfl, .ite (endSession_keeps ht) ht⟩

theorem answers_lockstepMismatch {p : Nat} : Answers (.lockstepMismatch p) := by
  refine fun s => ⟨_, rfl, ?_⟩
  refine .ite ?_ (.refl _)
  extract_lets u _ u1
  have hu : Keeps false false true false s u := emit_keeps (putBit_keeps (.refl _))
  have hu1 : Keeps false false true false s u1 := .with_dbg hu ((List.length_set ..).trans)
  exact .ite (resetNow_keeps hu1) (faultSync_keeps hu1)

theorem answers_escalate {req : Requester} {value : Nat} : Answers (.escalate req value) :=
  fun _ => ⟨_, rfl, checkedWrite_keeps (fun _ hu => .ite (resetNow_keeps hu) (quiet_keeps hu)) (.refl _)⟩

theorem answers_sqTailDoorbell {req : Requester} {i value : Nat} : Answers (.sqTailDoorbell req i value) :=
  fun _ => ⟨_, rfl, .ite (checkedWrite_keeps (fun _ => writeSqTail_keeps) (.refl _)) (.refl _)⟩

theorem answers_ringDoorbell {req : Requester} {i value : Nat} : Answers (.ringDoorbell req i value) :=
  fun _ => ⟨_, rfl, .ite (checkedWrite_keeps (fun _ hu => .ite (addCredit_keeps hu) hu) (.refl _)) (.refl _)⟩

theorem answers_externalDoorbell {i : Nat} : Answers (.externalDoorbell i) :=
  fun _ => ⟨_, rfl, .ite (extDoorbell_keeps (.refl _)) (.refl _)⟩

theorem answers_descriptorFetch {t : Nat} {env : MemEnv} : Answers (.descriptorFetch t env) := by
  refine fun s => ⟨_, rfl, ?_⟩
  have ht : Keeps false true true true s (s.coreTick t) := keeps_coreTick s t
  split
  · exact ht
  · split
    · exact ht
    · extract_lets r
      have hr : Keeps false true true true s r.2.2 := descRead_keeps ht
      split
      · exact ht
      · exact takeDesc_keeps hr
      · exact fetchFail_keeps hr

theorem answers_ownerRecordWrite {req : Requester} {p n w value : Nat} : Answers (.ownerRecordWrite req p n w value) :=
  fun _ => ⟨_, rfl, .ite (checkedWrite_keeps (fun _ => writeOwner_keeps) (.refl _)) (.refl _)⟩

theorem answers_resizeGo {req : Requester} {p value : Nat} : Answers (.resizeGo req p value) :=
  fun _ => ⟨_, rfl, .ite (checkedWrite_keeps (fun _ => writeResize_keeps) (.refl _)) (.refl _)⟩

theorem answers_quiesceEnd {t : Nat} : Answers (.quiesceEnd t) := by
  refine fun s => ⟨_, rfl, ?_⟩
  have ht : Keeps true true true true s (s.tickTo t) := keeps_tickTo s t
  split
  · exact ht
  · extract_lets busy u u1 u2
    have hu : Keeps true true true true s u := .with_resize ht
    have hu1 : Keeps true true true true s u1 := .each (fun _ _ => putF_keeps) hu
    have hu2 : Keeps true true true true s u2 := .each (fun u3 x hu2 => ferryDiscard_keeps (ferryDiscard_keeps hu2)) hu1
    exact .ite ht (.each (fun _ _ => clearLeaving_keeps) hu2)

theorem answers_resizeQuiesceTimeout {t : Nat} : Answers (.resizeQuiesceTimeout t) := by
  refine fun s => ⟨_, rfl, ?_⟩
  have ht : Keeps false true true true s (s.tickTo t) := keeps_tickTo s t
  split
  · exact ht
  · extract_lets tmo u u1
    have hu : Keeps false true true true s u := .with_resize ht
    have hu1 : Keeps false true true true s u1 := .each (fun u2 x hu1 => .ite hu1 (.ite (stopJob_keeps hu1) (endUnstarted_keeps
        hu1))) hu
    exact .ite ht (.each (fun u2 x hu2 => ferryAbort_keeps (ferryAbort_keeps hu2)) hu1)

theorem answers_resizeCommit {t : Nat} : Answers (.resizeCommit t) := by
  refine fun s => ⟨_, rfl, ?_⟩
  have ht : Keeps false true true true s (s.tickTo t) := keeps_tickTo s t
  split
  · exact ht
  · refine .ite ht ?_
    extract_lets us u u1 u2 u3 u4
    have hu : Keeps false true true true s u := .each (fun _ _ => commitPart_keeps) ht
    have hu1 : Keeps false true true true s u1 := by
      refine .each (fun u5 x hu1 => ?_) hu
      extract_lets a
      exact evt_keeps (putBit_keeps (putF_keeps (putBit_keeps (putF_keeps (putBit_keeps hu1)))))
    have hu2 : Keeps false true true true s u2 := .each (fun _ _ => putBit_keeps) hu1
    have hu3 : Keeps false true true true s u3 := .with_leaving (t := { u2 with resize := none }) (.with_resize hu2)
    have hu4 : Keeps false true true true s u4 := .each (fun _ _ => readmit_keeps) hu3
    exact ringsSync_keeps (dispSync_keeps hu4)

theorem answers_coreNop {c t : Nat} {env : CoreEnv} : Answers (.coreNop c t env) :=
  fun _ => ⟨_, rfl, ctrlCmd_keeps (fun _ _ _ => id) (.refl _)⟩

theorem answers_tile {c t : Nat} {env : CoreEnv} : Answers (.tile c t env) := by
  refine fun s => ⟨_, rfl, ?_⟩
  have ht : Keeps false true true true s (s.coreTick t) := keeps_coreTick s t
  refine .ite ?_ ?_
  · split
    · exact boundary_keeps ht
    · exact ht
  · refine ctrlCmd_keeps (fun _ _ u hu => ?_) ht
    split
    · exact tileEnter_keeps hu
    · exact hu
    · exact hu

theorem answers_coreEnd {c t : Nat} {env : CoreEnv} : Answers (.coreEnd c t env) :=
  fun _ => ⟨_, rfl, ctrlCmd_keeps (fun _ _ _ hu => .ite2 (leaveRank_keeps hu) (leaveRank_keeps (passTickets_keeps hu))) (.refl _)⟩

theorem answers_coreLoad {c t : Nat} {env : CoreEnv} : Answers (.coreLoad c t env) :=
  fun _ => ⟨_, rfl, coreCmd_keeps (fun _ _ _ _ => loadIssue_keeps) (.refl _)⟩

theorem answers_loadComplete {c off t : Nat} : Answers (.loadComplete c off t) := by
  refine fun s => ⟨_, rfl, ?_⟩
  have ht : Keeps true false true true s (s.coreTick t) := keeps_coreTick s t
  split
  · exact ht
  · split
    · exact ht
    · extract_lets u
      have hu : Keeps true false true true s u := by
        unfold u
        split
        · extract_lets l
          exact setIbytes_keeps ht
        · exact setIbytes_keeps ht
      exact xferGone_keeps hu

theorem answers_coreStore {c t : Nat} {env : CoreEnv} : Answers (.coreStore c t env) :=
  fun _ => ⟨_, rfl, coreCmd_keeps (fun _ _ _ _ => storeIssue_keeps) (.refl _)⟩

theorem answers_storeComplete {c off t : Nat} : Answers (.storeComplete c off t) := by
  refine fun s => ⟨_, rfl, ?_⟩
  have ht : Keeps false true true true s (s.coreTick t) := keeps_coreTick s t
  split
  · exact ht
  · split
    · exact ht
    · extract_lets f len own
      refine .ite (storeEnd_keeps ht) ?_
      split
      · extract_lets r
        have hr : Keeps false true true true s r.2 := writeRange_keeps ht
        split
        · exact ht
        · exact storeEnd_keeps hr
        · exact storeFail_keeps hr
      · exact xferGone_keeps ht

theorem answers_mma {c t : Nat} {env : CoreEnv} : Answers (.mma c t env) :=
  fun _ => ⟨_, rfl, coreCmd_keeps (fun _ _ _ _ => mma_keeps) (.refl _)⟩

theorem answers_drain {c t : Nat} {env : CoreEnv} : Answers (.drain c t env) :=
  fun _ => ⟨_, rfl, coreCmd_keeps (fun _ _ _ _ => drain_keeps) (.refl _)⟩

theorem answers_imcfg {c t : Nat} {env : CoreEnv} : Answers (.imcfg c t env) :=
  fun _ => ⟨_, rfl, coreCmd_keeps (fun _ _ _ _ hu => .ite2 (setRank_keeps hu) hu) (.refl _)⟩

theorem answers_vopAdd {c t : Nat} {env : CoreEnv} : Answers (.vopAdd c t env) :=
  fun _ => ⟨_, rfl, vopCmd_keeps (.refl _)⟩

theorem answers_vopMul {c t : Nat} {env : CoreEnv} : Answers (.vopMul c t env) :=
  fun _ => ⟨_, rfl, vopCmd_keeps (.refl _)⟩

theorem answers_vopFma {c t : Nat} {env : CoreEnv} : Answers (.vopFma c t env) :=
  fun _ => ⟨_, rfl, vopCmd_keeps (.refl _)⟩

theorem answers_vopMax {c t : Nat} {env : CoreEnv} : Answers (.vopMax c t env) :=
  fun _ => ⟨_, rfl, vopCmd_keeps (.refl _)⟩

theorem answers_vopMin {c t : Nat} {env : CoreEnv} : Answers (.vopMin c t env) :=
  fun _ => ⟨_, rfl, vopCmd_keeps (.refl _)⟩

theorem answers_vopCvt {c t : Nat} {env : CoreEnv} : Answers (.vopCvt c t env) :=
  fun _ => ⟨_, rfl, vopCmd_keeps (.refl _)⟩

theorem answers_vopRelu {c t : Nat} {env : CoreEnv} : Answers (.vopRelu c t env) :=
  fun _ => ⟨_, rfl, vopCmd_keeps (.refl _)⟩

theorem answers_vopGelu {c t : Nat} {env : CoreEnv} : Answers (.vopGelu c t env) :=
  fun _ => ⟨_, rfl, vopCmd_keeps (.refl _)⟩

theorem answers_vopSigmoid {c t : Nat} {env : CoreEnv} : Answers (.vopSigmoid c t env) :=
  fun _ => ⟨_, rfl, vopCmd_keeps (.refl _)⟩

theorem answers_vopTanh {c t : Nat} {env : CoreEnv} : Answers (.vopTanh c t env) :=
  fun _ => ⟨_, rfl, vopCmd_keeps (.refl _)⟩

theorem answers_vopExp {c t : Nat} {env : CoreEnv} : Answers (.vopExp c t env) :=
  fun _ => ⟨_, rfl, vopCmd_keeps (.refl _)⟩

theorem answers_vopRecip {c t : Nat} {env : CoreEnv} : Answers (.vopRecip c t env) :=
  fun _ => ⟨_, rfl, vopCmd_keeps (.refl _)⟩

theorem answers_vopRsqrt {c t : Nat} {env : CoreEnv} : Answers (.vopRsqrt c t env) :=
  fun _ => ⟨_, rfl, vopCmd_keeps (.refl _)⟩

theorem answers_vopRsum {c t : Nat} {env : CoreEnv} : Answers (.vopRsum c t env) :=
  fun _ => ⟨_, rfl, vopCmd_keeps (.refl _)⟩

theorem answers_vopRmax {c t : Nat} {env : CoreEnv} : Answers (.vopRmax c t env) :=
  fun _ => ⟨_, rfl, vopCmd_keeps (.refl _)⟩

theorem answers_barrier {c t : Nat} {env : CoreEnv} : Answers (.barrier c t env) := by
  refine fun s => ⟨_, rfl, ?_⟩
  refine barrierCheck_keeps ?_
  refine ctrlCmd_keeps (fun _ _ u hu => ?_) (.refl _)
  extract_lets next id
  exact .ite2 hu (.ite2 hu (.ite2 hu (setRank_keeps hu)))

theorem answers_barrierRelease {c t : Nat} : Answers (.barrierRelease c t) := by
  refine fun s => ⟨_, rfl, ?_⟩
  have ht : Keeps true true true true s (s.coreTick t) := keeps_coreTick s t
  split
  · exact ht
  · refine .ite ?_ ht
    extract_lets u
    have hu : Keeps true true true true s u := .each (fun u1 x hu => setRank_keeps (passTickets_keeps hu)) ht
    exact .each (fun u1 x hu1 => .ite (coreSync_keeps hu1) hu1) hu

theorem answers_lbcfg {c t : Nat} {env : CoreEnv} : Answers (.lbcfg c t env) := by
  refine fun s => ⟨_, rfl, ?_⟩
  refine ctrlCmd_keeps (fun _ _ u hu => ?_) (.refl _)
  extract_lets k en rb rows img
  exact .ite2 hu (.ite2 hu (setRank_keeps hu))

theorem answers_badOpcode {c t : Nat} {env : CoreEnv} : Answers (.badOpcode c t env) :=
  fun _ => ⟨_, rfl, badVop_keeps (ctrlCmd_keeps (fun _ _ _ => id) (.refl _))⟩

theorem answers_tileMaxExpired {c t : Nat} : Answers (.tileMaxExpired c t) := by
  refine fun s => ⟨_, rfl, ?_⟩
  have ht : Keeps true true true true s (s.coreTick t) := keeps_coreTick s t
  split
  · exact ht
  · refine .ite ?_ ht
    extract_lets u u1
    have hu : Keeps true true true true s u := evt_keeps (evt_keeps (cnt_keeps ht))
    have hu1 : Keeps true true true true s u1 := rewind_keeps hu
    refine .ite (leaveRank_keeps hu1) ?_
    split
    · exact beginSave_keeps hu1
    · exact hu1

theorem answers_contextSaveDone {c t : Nat} : Answers (.contextSaveDone c t) := by
  refine fun s => ⟨_, rfl, ?_⟩
  have ht : Keeps false true true true s (s.coreTick t) := keeps_coreTick s t
  split
  · exact ht
  · refine .ite ?_ ht
    extract_lets u u1
    have hu : Keeps false true true true s u := meter_keeps ht
    have hu1 : Keeps false true true true s u1 := setRank_keeps (saveRank_keeps hu)
    exact .ite (leaveRank_keeps hu) (strandedEnd_keeps (coreNext_keeps (coreSync_keeps (runSync_keeps hu1))))

theorem answers_contextRestoreDone {c t : Nat} : Answers (.contextRestoreDone c t) := by
  refine fun s => ⟨_, rfl, ?_⟩
  have ht : Keeps true false true true s (s.coreTick t) := keeps_coreTick s t
  split
  · exact ht
  · refine .ite ?_ ht
    extract_lets u u1
    have hu : Keeps true false true true s u := setRank_keeps (restoreRank_keeps ht)
    have hu1 : Keeps true false true true s u1 := coreSync_keeps (runSync_keeps hu)
    split
    · exact .ite (leaveRank_keeps hu1) hu1
    · exact hu1

theorem answers_cmdWatchdogExpired {c unit t : Nat} {env : CoreEnv} : Answers (.cmdWatchdogExpired c unit t env) := by
  refine fun s => ⟨_, rfl, ?_⟩
  have ht : Keeps false true true true s (s.coreTick t) := keeps_coreTick s t
  split
  · exact ht
  · refine .ite ht ?_
    extract_lets p
    have hp : Keeps false true true true s p.2 := prepare_keeps ht
    split
    · split
      · refine .ite ht ?_
        extract_lets u
        have hu : Keeps false true true true s u := setRank_keeps hp
        exact leaveService_keeps (coreFault_keeps hu)
      · exact ht
    · exact ht

theorem answers_mopFill {req : Requester} {g : Nat} {irq : Bool} : Answers (.mopFill req g irq) :=
  fun _ => ⟨_, rfl, .ite (checkedWrite_keeps (fun _ => writeMopGo_keeps) (.refl _)) (.refl _)⟩

theorem answers_mopCopy {req : Requester} {g : Nat} {irq : Bool} : Answers (.mopCopy req g irq) :=
  fun _ => ⟨_, rfl, .ite (checkedWrite_keeps (fun _ => writeMopGo_keeps) (.refl _)) (.refl _)⟩

theorem answers_mopStart {g t : Nat} : Answers (.mopStart g t) := by
  refine fun s => ⟨_, rfl, ?_⟩
  have ht : Keeps true true true true s (s.tickTo t) := keeps_tickTo s t
  split
  · exact ht
  · exact .ite ht (.ite (mopEnd_keeps ht) (mopSync_keeps (.with_mops ht ((List.length_modify ..).trans))))

theorem answers_mopDone {g t : Nat} {env : MemEnv} : Answers (.mopDone g t env) := by
  refine fun s => ⟨_, rfl, ?_⟩
  have ht : Keeps false true true true s (s.tickTo t) := keeps_tickTo s t
  split
  · exact ht
  · refine .ite ?_ ht
    split
    next r hr => exact mopEnd_keeps (mopRun_keeps ht _ hr)
    next => exact ht

theorem answers_clearGo {req : Requester} {g value : Nat} : Answers (.clearGo req g value) :=
  fun _ => ⟨_, rfl, .ite (checkedWrite_keeps (fun _ => writeClearGo_keeps) (.refl _)) (.refl _)⟩

theorem answers_clearZeroDone {g t : Nat} : Answers (.clearZeroDone g t) := by
  refine fun s => ⟨_, rfl, ?_⟩
  have ht : Keeps false false true true s (s.tickTo t) := keeps_tickTo s t
  refine .ite ?_ ht
  extract_lets u
  have hu : Keeps false false true true s u := putF_keeps (zero_keeps ht)
  exact .each (fun u1 x hu1 => setCore_keeps (izero_keeps hu1)) hu

theorem answers_clearVerifyDone {g : Nat} {ok : Bool} {t : Nat} : Answers (.clearVerifyDone g ok t) :=
  fun s => have ht := keeps_tickTo s t; ⟨_, rfl, .ite (endClear_keeps ht) ht⟩

theorem answers_ticketRequest {req : Requester} {k off len : Nat} : Answers (.ticketRequest req k off len) :=
  fun _ => ⟨_, rfl, .ite (ticketAsk_keeps (.refl _)) (.refl _)⟩

theorem answers_remoteWrite {req : Requester} {addr : Nat} {data : List Byte} {tkt : Option Nat} {env : MemEnv} :
    Answers (.remoteWrite req addr data tkt env) := by
  refine fun s => ⟨_, rfl, ?_⟩
  split
  · exact .ite (memAccess_keeps (.refl _)) (.refl _)
  · exact .refl _

theorem answers_ticketExpired {k idx t : Nat} : Answers (.ticketExpired k idx t) := by
  refine fun s => ⟨_, rfl, ?_⟩
  have ht : Keeps true true true true s (s.tickTo t) := keeps_tickTo s t
  split
  · exact .ite (expireTicket_keeps ht) ht
  · exact ht

theorem answers_ticketReturn {req : Requester} {k tag : Nat} : Answers (.ticketReturn req k tag) :=
  fun _ => ⟨_, rfl, .ite (returnTicket_keeps (.refl _)) (.refl _)⟩

theorem answers_ticketRetry {who : Sender} {t : Nat} : Answers (.ticketRetry who t) := by
  refine fun s => ⟨_, rfl, ?_⟩
  have ht : Keeps true true true true s (s.tickTo t) := keeps_tickTo s t
  split
  · exact coreRetry_keeps ht
  · exact ferryRetry_keeps ht
  · exact expRetry_keeps ht

theorem answers_tktWaitExpired {who : Sender} {t : Nat} : Answers (.tktWaitExpired who t) := by
  refine fun s => ⟨_, rfl, ?_⟩
  have ht : Keeps true true true true s (s.tickTo t) := keeps_tickTo s t
  split
  · exact coreWaitExpired_keeps ht
  · exact ferryWaitExpired_keeps ht
  · exact expWaitExpired_keeps ht

theorem answers_windowArm {req : Requester} {k value : Nat} : Answers (.windowArm req k value) :=
  fun _ => ⟨_, rfl, .ite (checkedWrite_keeps (fun _ => writeArm_keeps) (.refl _)) (.refl _)⟩

theorem answers_meshTimeout {who : Issuer} : Answers (.meshTimeout who) := by
  refine fun s => ⟨_, rfl, ?_⟩
  refine .ite (.refl _) ?_
  split
  · exact respErr_keeps (timedOut_keeps (.refl _))
  · exact coreTimeout_keeps (.refl _)
  · split
    · exact ferryFail_keeps (timedOut_keeps (.refl _))
    · exact .refl _
  · split
    · exact expFail_keeps (timedOut_keeps (.refl _))
    · exact .refl _
  · extract_lets req
    exact blockTimeout_keeps (timedOut_keeps (.refl _))

theorem answers_ferryQPush {req : Requester} {f value : Nat} : Answers (.ferryQPush req f value) :=
  fun _ => ⟨_, rfl, .ite (checkedWrite_keeps (fun _ => writeQPush_keeps) (.refl _)) (.refl _)⟩

theorem answers_ferryTransferStart {f t : Nat} : Answers (.ferryTransferStart f t) := by
  refine fun s => ⟨_, rfl, ?_⟩
  have ht : Keeps true true true true s (s.tickTo t) := keeps_tickTo s t
  split
  · exact ht
  · refine .ite ht ?_
    extract_lets u
    have hu : Keeps true true true true s u := ferrySync_keeps (setFerry_keeps ht)
    exact .ite (ferryAsk_keeps hu) hu

theorem answers_ferryTransferDone {f t : Nat} {env : MemEnv} : Answers (.ferryTransferDone f t env) := by
  refine fun s => ⟨_, rfl, ?_⟩
  have ht : Keeps false true true true s (s.tickTo t) := keeps_tickTo s t
  split
  · exact ht
  · refine .ite ht ?_
    refine .ite (ferryEnd_keeps ht) ?_
    extract_lets r u
    have hr : Keeps false true true true s r.2 := ferryCopy_keeps ht
    have hu : Keeps false true true true s u := .ite (freeBytes_keeps hr) hr
    split
    · exact ferryFail_keeps hr
    · exact ferryEnd_keeps (setFerry_keeps hr)
    · exact ferryEnd_keeps (setFerry_keeps hu)

theorem answers_deadlineReevaluate {t : Nat} : Answers (.deadlineReevaluate t) :=
  fun s => ⟨_, rfl, reevaluate_keeps (.with_jobs (keeps_coreTick s t))⟩

theorem answers_placement {p t : Nat} : Answers (.placement p t) := by
  refine fun s => ⟨_, rfl, ?_⟩
  have ht : Keeps true true true true s (s.coreTick t) := keeps_coreTick s t
  split
  · exact .each (fun _ _ => coreNext_keeps) (replace_keeps ht)
  · refine .ite ?_ (.each (fun _ _ => coreNext_keeps) (replace_keeps ht))
    refine .ite (setJob_keeps (.each (fun _ _ => coreNext_keeps) (replace_keeps ht))) ?_
    split
    · exact setJob_keeps (.each (fun _ _ => coreNext_keeps) (replace_keeps ht))
    · exact placeOn_keeps (.each (fun _ _ => coreNext_keeps) (replace_keeps ht))

theorem answers_jobComplete {i sq t : Nat} : Answers (.jobComplete i sq t) := by
  refine fun s => ⟨_, rfl, ?_⟩
  have ht : Keeps false true true true s (s.coreTick t) := keeps_coreTick s t
  split
  · exact ht
  · refine .ite ?_ ?_
    · split
      · exact finish_keeps ht
      · exact ht
    · extract_lets d energy u u1
      have hu : Keeps false true true true s u := ledgerSettle_keeps ht
      have hu1 : Keeps false true true true s u1 := setJob_keeps hu
      split
      · exact finish_keeps hu1
      · exact hu1

theorem answers_jobTimeout {i sq t : Nat} : Answers (.jobTimeout i sq t) := by
  refine fun s => ⟨_, rfl, ?_⟩
  have ht : Keeps true true true true s (s.coreTick t) := keeps_coreTick s t
  split
  · exact ht
  · extract_lets lim
    exact .ite (stopJob_keeps ht) ht

theorem answers_cancel {req : Requester} {value : Nat} : Answers (.cancel req value) :=
  fun _ => ⟨_, rfl, heartWrite_keeps (fun _ => writeCancel_keeps) (.refl _)⟩

theorem answers_acctSel {req : Requester} {ctx : Nat} : Answers (.acctSel req ctx) :=
  fun _ => ⟨_, rfl, checkedWrite_keeps (fun _ => writeAcctSel_keeps) (.refl _)⟩

theorem answers_acctSelClear {req : Requester} {ctx : Nat} : Answers (.acctSelClear req ctx) :=
  fun _ => ⟨_, rfl, checkedWrite_keeps (fun _ => writeAcctSel_keeps) (.refl _)⟩

theorem answers_selftest {req : Requester} {value : Nat} : Answers (.selftest req value) :=
  fun _ => ⟨_, rfl, heartWrite_keeps (fun _ => writeSelftest_keeps) (.refl _)⟩

theorem answers_selftestDone {c step t : Nat} : Answers (.selftestDone c step t) := by
  refine fun s => ⟨_, rfl, ?_⟩
  have ht : Keeps true false true true s (s.coreTick t) := keeps_coreTick s t
  split
  · exact ht
  · refine .ite ht ?_
    extract_lets asked u u1 u2 u3 u4 u5
    have hu : Keeps true false true true s u := setCore_keeps (izero_keeps ht)
    have hu1 : Keeps true false true true s u1 := wr_keeps hu
    have hu2 : Keeps true false true true s u2 := .ite (incWrap_keeps hu1) hu1
    have hu3 : Keeps true false true true s u3 := .ite (wr_keeps hu2) hu2
    have hu4 : Keeps true false true true s u4 := .ite (infEntry_keeps hu3) hu3
    have hu5 : Keeps true false true true s u5 := setSvc_keeps hu4
    exact .ite (coreNext_keeps hu5) (.ite hu5 (leaveService_keeps hu5))

theorem answers_restore {req : Requester} {value : Nat} : Answers (.restore req value) :=
  fun _ => ⟨_, rfl, heartWrite_keeps (fun _ => writeRestore_keeps) (.refl _)⟩

theorem answers_cntClr {req : Requester} {value : Nat} : Answers (.cntClr req value) :=
  fun _ => ⟨_, rfl, checkedWrite_keeps (fun _ => writeCntClr_keeps) (.refl _)⟩

theorem answers_rmonExpired {k t : Nat} : Answers (.rmonExpired k t) :=
  fun s => have ht := keeps_tickTo s t; ⟨_, rfl, .ite (evt_keeps (infEntry_keeps (putBit_keeps ht))) ht⟩

theorem answers_infLogPop {req : Requester} {value : Nat} : Answers (.infLogPop req value) :=
  fun _ => ⟨_, rfl, checkedWrite_keeps (fun _ => popInfLog_keeps) (.refl _)⟩

theorem answers_dmcHoldClear {req : Requester} {x value : Nat} : Answers (.dmcHoldClear req x value) :=
  fun _ => ⟨_, rfl, .ite (checkedWrite_keeps (fun _ hu => dmcCtl_keeps (regStore_keeps hu)) (.refl _)) (.refl _)⟩

theorem answers_dramTrainingDone {x : Nat} {r : Train} {t : Nat} : Answers (.dramTrainingDone x r t) := by
  refine fun s => ⟨_, rfl, ?_⟩
  have ht : Keeps false true true true s (s.tickTo t) := keeps_tickTo s t
  refine .ite ht ?_
  extract_lets d u tag rate tried u1
  have hu : Keeps false true true true s u := setDmc_keeps ht
  have hu1 : Keeps false true true true s u1 := .each (fun _ _ => wr_keeps) hu
  refine .ite (trained_keeps ht) ?_
  refine .ite (trained_keeps ht) ?_
  refine .ite (trained_keeps ht) ?_
  refine .ite (trainPass_keeps hu) ?_
  split
  · exact trainPass_keeps (wr_keeps hu1)
  · exact trained_keeps (putF_keeps (putF_keeps hu))

theorem answers_eccInitDone {x : Nat} {ok : Bool} {t : Nat} : Answers (.eccInitDone x ok t) :=
  fun s => have ht := keeps_tickTo s t; ⟨_, rfl, .ite (trained_keeps ht) ht⟩

theorem answers_refreshWindowStart {x t : Nat} {env : MemEnv} : Answers (.refreshWindowStart x t env) := by
  refine fun s => ⟨_, rfl, ?_⟩
  have ht : Keeps false true true true s (s.tickTo t) := keeps_tickTo s t
  extract_lets b u u1 _ u2 u3
  have hu : Keeps false true true true s u := .ite (voutFill_keeps ht) ht
  have hu1 : Keeps false true true true s u1 := by
    unfold u1
    split
    · exact newGrid_keeps hu
    · exact hu
  have hu2 : Keeps false true true true s u2 := .with_grid hu1 ((List.length_set ..).trans) ((List.length_set ..).trans)
  have hu3 : Keeps false true true true s u3 := setDmc_keeps hu2
  exact .ite (showNext_keeps (incWrap_keeps hu3)) ht

theorem answers_refreshWindowEnd {x t : Nat} : Answers (.refreshWindowEnd x t) := by
  refine fun s => ⟨_, rfl, ?_⟩
  have ht : Keeps true true true true s (s.tickTo t) := keeps_tickTo s t
  split
  · exact .ite (.each (fun _ _ => coreNext_keeps) (setDmc_keeps ht)) ht
  · exact ht

theorem answers_refreshAnnounce {x t : Nat} : Answers (.refreshAnnounce x t) := by
  refine fun s => ⟨_, rfl, ?_⟩
  have ht : Keeps true true true true s (s.tickTo t) := keeps_tickTo s t
  extract_lets lead _ u
  have hu : Keeps true true true true s u := .with_grid ht id ((List.length_set ..).trans)
  exact .ite (netPulse_keeps (trigEvent_keeps (emit_keeps (emit_keeps hu)))) ht

theorem answers_mr4Poll {codes : List Nat} {rate hot : Nat} : Answers (.mr4Poll codes rate hot) := by
  refine fun s => ⟨_, rfl, ?_⟩
  refine .ite (.refl _) ?_
  extract_lets u r _
  have hu : Keeps true true true true s u := by
    refine eachDmc_keeps (fun u1 x1 hu => ?_) (.refl _)
    refine .ite ?_ hu
    extract_lets u2 h was u3
    have hu2 : Keeps true true true true s u2 := wr_keeps hu
    have hu3 : Keeps true true true true s u3 := lvl_keeps (putBit_keeps hu2)
    exact .ite (emit_keeps hu3) hu3
  exact .with_grid hu id id

theorem answers_rowIdleClose {x ch bank t : Nat} : Answers (.rowIdleClose x ch bank t) :=
  fun s => have ht := keeps_tickTo s t; ⟨_, rfl, .ite (setDmc_keeps ht) ht⟩

theorem answers_patrolScrub {x ecc : Nat} : Answers (.patrolScrub x ecc) := by
  refine fun s => ⟨_, rfl, ?_⟩
  refine .ite ?_ (.refl _)
  extract_lets cap c a f u e u1 n
  have hu : Keeps true true true true s u := .ite (injected_keeps (.refl _)) (.refl _)
  have hu1 : Keeps true true true true s u1 := .ite (dmcCe_keeps hu) (.ite (dmcUe_keeps hu) hu)
  exact .ite (evt_keeps (incWrap_keeps (putF_keeps (setDmc_keeps hu1)))) (putF_keeps (setDmc_keeps hu1))

theorem answers_dmcCtrlFail {x : Nat} : Answers (.dmcCtrlFail x) := by
  refine fun s => ⟨_, rfl, ?_⟩
  refine .ite ?_ (.refl _)
  extract_lets u u1
  have hu : Keeps true true true true s u := dmcDegraded_keeps (setDmc_keeps (setDmcState_keeps (.refl _)))
  have hu1 : Keeps true true true true s u1 := emit_keeps (evt_keeps hu)
  exact .ite (funcLost_keeps hu1) hu1

theorem answers_triggerFire {c : Nat} : Answers (.triggerFire c) :=
  fun _ => ⟨_, rfl, .ite (fireDue_keeps (prefillDue_keeps (finishDue_keeps (.refl _)))) (.refl _)⟩

theorem answers_triggerForce {req : Requester} {c value : Nat} : Answers (.triggerForce req c value) :=
  fun _ => ⟨_, rfl, .ite (checkedWrite_keeps (fun _ => writeForceTrig_keeps) (.refl _)) (.refl _)⟩

theorem answers_extTrigEdge {i : Nat} {rising : Bool} {frac : Nat} : Answers (.extTrigEdge i rising frac) :=
  fun _ => ⟨_, rfl, .ite (.with_extTrig (.refl _) ((List.length_set ..).trans)) (.each (fun _ _ hu => .ite (setTrig_keeps hu) hu)
      (.with_extTrig (.refl _) ((List.length_set ..).trans)))⟩

theorem answers_holdoffEnd {c t : Nat} : Answers (.holdoffEnd c t) :=
  fun s => have ht := keeps_tickTo s t; ⟨_, rfl, .ite (trigShow_keeps (setTrig_keeps ht)) ht⟩

theorem answers_autoTrigger {c t : Nat} : Answers (.autoTrigger c t) := by
  refine fun s => ⟨_, rfl, ?_⟩
  have ht : Keeps false true true true s (s.tickTo t) := keeps_tickTo s t
  refine .ite ?_ (fireDue_keeps ht)
  extract_lets n u
  have hu : Keeps false true true true s u := setTrig_keeps (evt_keeps (cnt_keeps (fireDue_keeps ht)))
  exact trigTake_keeps hu

theorem answers_programArm {req : Requester} {p : Nat} : Answers (.programArm req p) :=
  fun _ => ⟨_, rfl, .ite (checkedWrite_keeps (fun _ => writeBerthArm_keeps) (.refl _)) (.refl _)⟩

theorem answers_programDisarm {req : Requester} {p : Nat} : Answers (.programDisarm req p) :=
  fun _ => ⟨_, rfl, .ite (checkedWrite_keeps (fun _ => writeBerthArm_keeps) (.refl _)) (.refl _)⟩

theorem answers_prefillDone {p t : Nat} : Answers (.prefillDone p t) :=
  fun s => have ht := keeps_tickTo s t; ⟨_, rfl, .ite (prefillDue_keeps ht) ht⟩

theorem answers_berthComplete {p t : Nat} : Answers (.berthComplete p t) :=
  fun s => have ht := keeps_tickTo s t; ⟨_, rfl, .ite (finishDue_keeps ht) ht⟩

theorem answers_berthStart {p t : Nat} : Answers (.berthStart p t) :=
  fun s => have ht := keeps_tickTo s t; ⟨_, rfl, .ite (startDue_keeps ht) ht⟩

theorem answers_streamCopyStart {p t : Nat} : Answers (.streamCopyStart p t) :=
  fun s => have ht := keeps_tickTo s t; ⟨_, rfl, .ite (setProg_keeps ht) ht⟩

theorem answers_streamCopyDone {p t : Nat} {env : MemEnv} : Answers (.streamCopyDone p t env) := by
  refine fun s => ⟨_, rfl, ?_⟩
  have ht : Keeps false true true true s (s.tickTo t) := keeps_tickTo s t
  refine .ite ht ?_
  extract_lets i data a r u u1
  have hr : Keeps false true true true s r.2 := blockWrite_keeps ht
  have hu : Keeps false true true true s u := setProg_keeps hr
  have hu1 : Keeps false true true true s u1 := wr_keeps hu
  split
  · exact ht
  · exact streamShow_keeps (berthRetry_keeps hu1)
  · exact copyFail_keeps hr

theorem answers_calSwapDue {c t : Nat} : Answers (.calSwapDue c t) := by
  refine fun s => ⟨_, rfl, ?_⟩
  have ht : Keeps true true true true s (s.tickTo t) := keeps_tickTo s t
  refine .ite ht ?_
  split
  · exact .ite (.ite ht (setFdig_keeps (cnt_keeps ht))) (sliceSwap_keeps ht)
  · exact ht

theorem answers_foregroundCalDone {c fails t : Nat} : Answers (.foregroundCalDone c fails t) := by
  refine fun s => ⟨_, rfl, ?_⟩
  have ht : Keeps true true true true s (s.tickTo t) := keeps_tickTo s t
  split
  · exact ht
  · refine .ite ht ?_
    extract_lets ks bad ok u u1 u2 u3 u4
    have hu : Keeps true true true true s u := .each (fun _ _ => setSlice_keeps) ht
    have hu1 : Keeps true true true true s u1 := .each (fun _ _ => setSlice_keeps) (.each (fun _ _ => setSlice_keeps) hu)
    have hu2 : Keeps true true true true s u2 := setFdig_keeps hu1
    have hu3 : Keeps true true true true s u3 := .ite (setFdig_keeps hu2) hu2
    have hu4 : Keeps true true true true s u4 := evt_keeps hu3
    exact fdigSync_keeps (.ite hu4 (evt_keeps hu4))

theorem answers_scopePermitWrite {req : Requester} {value : Nat} : Answers (.scopePermitWrite req value) :=
  fun _ => ⟨_, rfl, checkedWrite_keeps (fun _ hu => permitWritten_keeps (regStore_keeps hu)) (.refl _)⟩

theorem answers_settlingDone {c t : Nat} : Answers (.settlingDone c t) :=
  fun s => have ht := keeps_tickTo s t; ⟨_, rfl, .ite (putBit_keeps ht) ht⟩

theorem answers_fdigPllUnlock : Answers .fdigPllUnlock :=
  fun _ => ⟨_, rfl, .ite (fdigSync_keeps (.each (fun _ _ hu => setFdig_keeps (evt_keeps (putBit_keeps hu))) (.refl _))) (.refl _)⟩

theorem answers_fdigPllRelock {t : Nat} : Answers (.fdigPllRelock t) :=
  fun s => have ht := keeps_tickTo s t; ⟨_, rfl, .ite (fdigRelease_keeps ht) ht⟩

theorem answers_probeOverload {c t : Nat} : Answers (.probeOverload c t) := by
  refine fun s => ⟨_, rfl, ?_⟩
  have ht : Keeps true true true true s (s.tickTo t) := keeps_tickTo s t
  refine .ite ?_ ht
  extract_lets u
  have hu : Keeps true true true true s u := setFdig_keeps ht
  exact .ite hu (evt_keeps (putBit_keeps hu))

theorem answers_overloadRecover {c t : Nat} : Answers (.overloadRecover c t) :=
  fun s => have ht := keeps_tickTo s t; ⟨_, rfl, .ite (putBit_keeps ht) ht⟩

theorem answers_senseConversion {g : Nat} {raw other : Int} {t : Nat} : Answers (.senseConversion g raw other t) := by
  refine fun s => ⟨_, rfl, ?_⟩
  have ht : Keeps true true true true s (s.tickTo t) := keeps_tickTo s t
  refine .ite ht ?_
  extract_lets u
  have hu : Keeps true true true true s u := .ite (frameEnd_keeps ht) ht
  exact sensed_keeps hu

theorem answers_dcEvaluate {j t : Nat} : Answers (.dcEvaluate j t) := by
  refine fun s => ⟨_, rfl, ?_⟩
  have ht : Keeps true true true true s (s.tickTo t) := keeps_tickTo s t
  refine .ite ht ?_
  extract_lets bins u win peak
  have hu : Keeps true true true true s u := setProtCh_keeps ht
  exact .ite hu (.ite (declare_keeps (injected_keeps hu)) (.ite (declare_keeps hu) hu))

theorem answers_senseFrameBoundary {g : Nat} {refOk fail : Bool} {t : Nat} : Answers (.senseFrameBoundary g refOk fail t) :=
  fun s => have ht := keeps_tickTo s t; ⟨_, rfl, .ite ht (frameEnd_keeps ht)⟩

theorem answers_seqCommit {req : Requester} {g value : Nat} : Answers (.seqCommit req g value) :=
  fun _ => ⟨_, rfl, .ite (checkedWrite_keeps (fun _ => writeCommit_keeps) (.refl _)) (.refl _)⟩

theorem answers_senseSwapDue {t : Nat} : Answers (.senseSwapDue t) := by
  refine fun s => ⟨_, rfl, ?_⟩
  have ht : Keeps true true true true s (s.tickTo t) := keeps_tickTo s t
  split
  · exact ht
  · extract_lets g _
    exact .ite ht (.with_sns ht id)

theorem answers_urgentConversionRequest {req : Requester} {k value : Nat} : Answers (.urgentConversionRequest req k value) :=
  fun _ => ⟨_, rfl, .ite (checkedWrite_keeps (fun _ => writeUrg_keeps) (.refl _)) (.refl _)⟩

theorem answers_urgentConversionDone {k : Nat} {raw : Int} {t : Nat} : Answers (.urgentConversionDone k raw t) := by
  refine fun s => ⟨_, rfl, ?_⟩
  have ht : Keeps true true true true s (s.tickTo t) := keeps_tickTo s t
  split
  · exact ht
  · refine .ite ht ?_
    extract_lets g c u u1
    have hu : Keeps true true true true s u := putF_keeps (setUrg_keeps ht)
    have hu1 : Keeps true true true true s u1 := evt_keeps (putBit_keeps hu)
    exact .ite (evt_keeps (cnt_keeps hu1)) hu1

theorem answers_retryTimeout {j t : Nat} : Answers (.retryTimeout j t) :=
  fun s => have ht := keeps_tickTo s t; ⟨_, rfl, .ite (gateSync_keeps (putF_keeps ht)) ht⟩

theorem answers_retryOk {j t : Nat} : Answers (.retryOk j t) :=
  fun s => have ht := keeps_tickTo s t; ⟨_, rfl, .ite (lanesSync_keeps (protReport_keeps (putF_keeps (putF_keeps ht)))) ht⟩

theorem answers_protClr {req : Requester} {value : Nat} : Answers (.protClr req value) :=
  fun _ => ⟨_, rfl, checkedWrite_keeps (fun _ => writeClr_keeps) (.refl _)⟩

theorem answers_forceHold {req : Requester} {value : Nat} : Answers (.forceHold req value) :=
  fun _ => ⟨_, rfl, checkedWrite_keeps (fun _ hu => gateSync_keeps (regStore_keeps hu)) (.refl _)⟩

theorem answers_protSelfCheck {ok : Bool} : Answers (.protSelfCheck ok) :=
  fun _ => ⟨_, rfl, .ite (.refl _) (funcLost_keeps (gateSync_keeps (lvl_keeps (putBit_keeps (.refl _)))))⟩

theorem answers_protLogPop {req : Requester} {value : Nat} : Answers (.protLogPop req value) :=
  fun _ => ⟨_, rfl, checkedWrite_keeps (fun _ => popProtLog_keeps) (.refl _)⟩

theorem answers_carrierCycleStart {u t ecc word : Nat} : Answers (.carrierCycleStart u t ecc word) := by
  refine fun s => ⟨_, rfl, ?_⟩
  have ht : Keeps true true true true s (s.tickTo t) := keeps_tickTo s t
  refine .ite (lanesDue_keeps ht) ?_
  refine .ite ?_ (edgeCycle_keeps (lanesDue_keeps ht))
  refine .ite (chanBoundary_keeps (lanesDue_keeps ht)) ?_
  extract_lets kib e
  have he : Keeps true true true true s e.2 := wseqEcc_keeps (lanesDue_keeps ht)
  exact pcmCycle_keeps he

theorem answers_channelEnable {req : Requester} {j value : Nat} : Answers (.channelEnable req j value) :=
  fun _ => ⟨_, rfl, .ite (checkedWrite_keeps (fun _ => writeChanCfg_keeps) (.refl _)) (.refl _)⟩

theorem answers_psenLeadEnd {j t : Nat} : Answers (.psenLeadEnd j t) :=
  fun s => have ht := keeps_tickTo s t; ⟨_, rfl, .ite (setChan_keeps (lanesDue_keeps ht)) (lanesDue_keeps ht)⟩

theorem answers_psenLagEnd {j t : Nat} : Answers (.psenLagEnd j t) :=
  fun s => have ht := keeps_tickTo s t; ⟨_, rfl, .ite (setChan_keeps (lanesDue_keeps ht)) (lanesDue_keeps ht)⟩

theorem answers_threadRun {req : Requester} {h : Nat} : Answers (.threadRun req h) :=
  fun _ => ⟨_, rfl, .ite (checkedWrite_keeps (fun _ => writeThrCtl_keeps) (.refl _)) (.refl _)⟩

theorem answers_threadStop {req : Requester} {h : Nat} : Answers (.threadStop req h) :=
  fun _ => ⟨_, rfl, .ite (checkedWrite_keeps (fun _ => writeThrCtl_keeps) (.refl _)) (.refl _)⟩

theorem answers_wseqNop {h t ecc : Nat} : Answers (.wseqNop h t ecc) :=
  fun _ => ⟨_, rfl, thrInstr_keeps (fun _ _ => thrNext_keeps) (.refl _)⟩

theorem answers_thrPlay {h t ecc : Nat} : Answers (.thrPlay h t ecc) :=
  fun _ => ⟨_, rfl, thrInstr_keeps (fun _ _ => thrPlay_keeps) (.refl _)⟩

theorem answers_thrPlaya {h t ecc : Nat} : Answers (.thrPlaya h t ecc) :=
  fun _ => ⟨_, rfl, thrInstr_keeps (fun _ _ => thrPlay_keeps) (.refl _)⟩

theorem answers_thrVec {h t ecc : Nat} : Answers (.thrVec h t ecc) := by
  refine fun s => ⟨_, rfl, ?_⟩
  refine thrInstr_keeps (fun u x1 hu => ?_) (.refl _)
  extract_lets r n u1 v
  have hr : Keeps true true true true s r.2 := fresh_keeps hu
  have hu1 : Keeps true true true true s u1 := .ite hr hu
  split
  · exact thrNext_keeps (setThr_keeps hu1)
  · exact .ite hu1 (thrNext_keeps (setThr_keeps hu1))
  · exact hu1

theorem answers_thrLoop {h t ecc : Nat} : Answers (.thrLoop h t ecc) := by
  refine fun s => ⟨_, rfl, ?_⟩
  refine thrInstr_keeps (fun u x1 hu => ?_) (.refl _)
  refine .ite (thrFault_keeps hu) ?_
  extract_lets r n u1
  have hr : Keeps true true true true s r.2 := fresh_keeps hu
  have hu1 : Keeps true true true true s u1 := .ite hr hu
  exact thrNext_keeps (thrDepth_keeps (setThr_keeps hu1))

theorem answers_thrEndl {h t ecc : Nat} : Answers (.thrEndl h t ecc) := by
  refine fun s => ⟨_, rfl, ?_⟩
  refine thrInstr_keeps (fun u x1 hu => ?_) (.refl _)
  split
  · exact thrFault_keeps hu
  · exact .ite (setPc_keeps (setThrState_keeps (setThr_keeps hu))) (thrNext_keeps (thrDepth_keeps (setThr_keeps hu)))

theorem answers_thrCall {h t ecc : Nat} : Answers (.thrCall h t ecc) :=
  fun _ => ⟨_, rfl, thrInstr_keeps (fun _ _ hu => .ite (thrFault_keeps hu) (setPc_keeps (thrDepth_keeps (setThr_keeps hu))))
      (.refl _)⟩

theorem answers_thrRet {h t ecc : Nat} : Answers (.thrRet h t ecc) := by
  refine fun s => ⟨_, rfl, ?_⟩
  refine thrInstr_keeps (fun u x1 hu => ?_) (.refl _)
  split
  · exact thrFault_keeps hu
  · exact setPc_keeps (thrDepth_keeps (setThr_keeps hu))

theorem answers_thrJmp {h t ecc : Nat} : Answers (.thrJmp h t ecc) :=
  fun _ => ⟨_, rfl, thrInstr_keeps (fun _ _ => setPc_keeps) (.refl _)⟩

theorem answers_thrWait {h t ecc : Nat} : Answers (.thrWait h t ecc) :=
  fun _ => ⟨_, rfl, thrInstr_keeps (fun _ _ hu => .ite (setThrState_keeps (setThr_keeps hu)) (setThrState_keeps (setThr_keeps
      hu))) (.refl _)⟩

theorem answers_waitTimeExpired {h t : Nat} : Answers (.waitTimeExpired h t) :=
  fun s => have ht := keeps_tickTo s t; ⟨_, rfl, .ite (thrNext_keeps ht) ht⟩

theorem answers_thrGain {h t ecc : Nat} : Answers (.thrGain h t ecc) :=
  fun _ => ⟨_, rfl, thrInstr_keeps (fun _ _ hu => thrNext_keeps (setThr_keeps hu)) (.refl _)⟩

theorem answers_thrSig {h t ecc : Nat} : Answers (.thrSig h t ecc) :=
  fun _ => ⟨_, rfl, thrInstr_keeps (fun _ _ hu => thrNext_keeps (evt_keeps (putF_keeps hu))) (.refl _)⟩

theorem answers_thrHalt {h t ecc : Nat} : Answers (.thrHalt h t ecc) :=
  fun _ => ⟨_, rfl, thrInstr_keeps (fun _ _ => thrStop_keeps) (.refl _)⟩

theorem answers_badInstr {h t ecc : Nat} : Answers (.badInstr h t ecc) :=
  fun _ => ⟨_, rfl, thrInstr_keeps (fun _ _ => thrFault_keeps) (.refl _)⟩

theorem answers_segmentEnd {h t : Nat} : Answers (.segmentEnd h t) := by
  refine fun s => ⟨_, rfl, ?_⟩
  have ht : Keeps true true true true s (s.tickTo t) := keeps_tickTo s t
  split
  · exact ht
  · extract_lets g fin at'
    refine .ite ht ?_
    split
    · exact .ite (thrBegin_keeps ht) (setThr_keeps ht)
    · exact evt_keeps (cnt_keeps (setThr_keeps ht))

theorem answers_switchLinePulse {l t : Nat} : Answers (.switchLinePulse l t) := by
  refine fun s => ⟨_, rfl, ?_⟩
  have ht : Keeps true true true true s (s.tickTo t) := keeps_tickTo s t
  split
  · exact linePulse_keeps (.with_wseq ht id id id id)
  · exact ht

theorem answers_lineSw {req : Requester} {value : Nat} : Answers (.lineSw req value) :=
  fun _ => ⟨_, rfl, checkedWrite_keeps (fun _ => .each (fun _ _ => linePulse_keeps)) (.refl _)⟩

theorem answers_chimeReadyWrite {req : Requester} {value : Nat} : Answers (.chimeReadyWrite req value) :=
  fun _ => ⟨_, rfl, heartWrite_keeps (fun _ => writeChimeCfg_keeps) (.refl _)⟩

theorem answers_chimeStart {req : Requester} {l value : Nat} : Answers (.chimeStart req l value) :=
  fun _ => ⟨_, rfl, .ite (heartWrite_keeps (fun _ => writeChimeStart_keeps) (.refl _)) (.refl _)⟩

theorem answers_chimeStop {req : Requester} {l value : Nat} : Answers (.chimeStop req l value) :=
  fun _ => ⟨_, rfl, .ite (heartWrite_keeps (fun _ hu => .ite (laneRelease_keeps hu) hu) (.refl _)) (.refl _)⟩

theorem answers_chimeEnd {l t : Nat} : Answers (.chimeEnd l t) := by
  refine fun s => ⟨_, rfl, ?_⟩
  have ht : Keeps true true true true s (s.tickTo t) := keeps_tickTo s t
  split
  · exact .ite (laneRelease_keeps (lanesDue_keeps ht)) (lanesDue_keeps ht)
  · exact lanesDue_keeps ht

theorem answers_streamFetch {k t : Nat} {env : MemEnv} : Answers (.streamFetch k t env) := by
  refine fun s => ⟨_, rfl, ?_⟩
  have ht : Keeps false true true true s (s.tickTo t) := keeps_tickTo s t
  refine .ite ht ?_
  refine .ite (streamFail_keeps ht) ?_
  refine .ite ht ?_
  extract_lets base r
  have hr : Keeps false true true true s r.2.2 := blockRead_keeps ht
  split
  · exact ht
  · exact strmResume_keeps (wr_keeps (setStrm_keeps hr))
  · exact streamFail_keeps hr

theorem answers_memDataWrite {req : Requester} {value : Nat} : Answers (.memDataWrite req value) :=
  fun _ => ⟨_, rfl, checkedWrite_keeps (fun _ => writeMemData_keeps) (.refl _)⟩

theorem answers_memDataRead {req : Requester} {ecc : Nat} : Answers (.memDataRead req ecc) :=
  fun _ => ⟨_, rfl, checkedRead_keeps (fun _ => readMemData_keeps) (.refl _)⟩

theorem answers_loadEngineGo {req : Requester} {value : Nat} : Answers (.loadEngineGo req value) :=
  fun _ => ⟨_, rfl, checkedWrite_keeps (fun _ => writeLdGo_keeps) (.refl _)⟩

theorem answers_loadEngineDone {t : Nat} {env : MemEnv} : Answers (.loadEngineDone t env) := by
  refine fun s => ⟨_, rfl, ?_⟩
  have ht : Keeps false false true true s (s.tickTo t) := keeps_tickTo s t
  split
  · exact ht
  · extract_lets c r u
    have hr : Keeps false false true true s r.2.2 := readParts_keeps ht
    have hu : Keeps false false true true s u := .each (fun _ _ => wseqWord_keeps) hr
    exact .ite (loadEnd_keeps ht) (.ite ht (loadEnd_keeps hu))

theorem answers_sampleTick {d t : Nat} : Answers (.sampleTick d t) :=
  fun s => have ht := keeps_tickTo s t; ⟨_, rfl, .ite (sampleTick_keeps ht) ht⟩

theorem answers_aleWake {n t : Nat} : Answers (.aleWake n t) := by
  refine fun s => ⟨_, rfl, ?_⟩
  have ht : Keeps false true true true s (s.tickTo t) := keeps_tickTo s t
  split
  · exact ht
  · refine .ite ht ?_
    extract_lets u u1
    have hu : Keeps false true true true s u := .ite (evt_keeps (cnt_keeps ht)) ht
    have hu1 : Keeps false true true true s u1 := setAle_keeps hu
    exact aleState_keeps (setLe_keeps (wr_keeps hu1))

theorem answers_aleDone {req : Requester} {n value t : Nat} : Answers (.aleDone req n value t) :=
  fun s => have ht := keeps_tickTo s t; ⟨_, rfl, .ite (checkedWrite_keeps (fun _ => writeDone_keeps) ht) ht⟩

theorem answers_tdmFrame {p : Nat} {rx : List Nat} {t : Nat} : Answers (.tdmFrame p rx t) :=
  fun s => have ht := keeps_tickTo s t; ⟨_, rfl, .ite (portFrame_keeps ht) ht⟩

theorem answers_pdmSample {i k : Nat} {v : Int} {t : Nat} : Answers (.pdmSample i k v t) := by
  refine fun s => ⟨_, rfl, ?_⟩
  have ht : Keeps false true true true s (s.tickTo t) := keeps_tickTo s t
  refine .ite ?_ ht
  extract_lets clip u
  have hu : Keeps false true true true s u := .ite (evt_keeps (cnt_keeps ht)) ht
  exact routePut_keeps hu

theorem answers_exportPush {req : Requester} {n value : Nat} : Answers (.exportPush req n value) :=
  fun _ => ⟨_, rfl, .ite (checkedWrite_keeps (fun _ => writeExpPush_keeps) (.refl _)) (.refl _)⟩

theorem answers_exportDone {n : Nat} {env : MemEnv} {t : Nat} : Answers (.exportDone n env t) := by
  refine fun s => ⟨_, rfl, ?_⟩
  have ht : Keeps false true true true s (s.tickTo t) := keeps_tickTo s t
  split
  · exact ht
  · refine .ite ht ?_
    refine .ite (expEnd_keeps ht) ?_
    extract_lets e u data _ w
    have he : Keeps false true true true s e.2.2 := eccResult_keeps ht
    have hu : Keeps false true true true s u := .ite (cnt_keeps he) (.ite (cnt_keeps he) he)
    have hw : Keeps false true true true s w.2 := writeRange_keeps hu
    refine .ite (expFail_keeps hu) ?_
    split
    · exact ht
    · exact expEnd_keeps hw
    · exact expFail_keeps hw
    · exact expFail_keeps hw
    · exact expFail_keeps hw

theorem answers_coefficientCommit {req : Requester} {n value : Nat} : Answers (.coefficientCommit req n value) :=
  fun _ => ⟨_, rfl, .ite (checkedWrite_keeps (fun _ => writeCsetCtl_keeps) (.refl _)) (.refl _)⟩

theorem answers_frameStartLost {p t : Nat} : Answers (.frameStartLost p t) := by
  refine fun s => ⟨_, rfl, ?_⟩
  have ht : Keeps true true true true s (s.tickTo t) := keeps_tickTo s t
  refine .ite ht ?_
  split
  · exact .ite (funcLost_keeps ht) ht
  · refine .ite ht ?_
    extract_lets u u1
    have hu : Keeps true true true true s u := putBit_keeps (setAport_keeps ht)
    have hu1 : Keeps true true true true s u1 := lvl_keeps (putBit_keeps hu)
    exact .each (fun _ _ => putBit_keeps) (emit_keeps hu1)

theorem answers_audioPllUnlock : Answers .audioPllUnlock := by
  refine fun s => ⟨_, rfl, ?_⟩
  refine .ite ?_ (.refl _)
  extract_lets u
  have hu : Keeps true true true true s u := lvl_keeps (putBit_keeps (.refl _))
  exact funcLost_keeps (.each (fun _ _ => putBit_keeps) hu)

theorem answers_aleCoreFault {n code t : Nat} : Answers (.aleCoreFault n code t) :=
  fun s => have ht := keeps_tickTo s t; ⟨_, rfl, .ite (aleFault_keeps ht) ht⟩

theorem answers_localTimeAlign {t : Nat} : Answers (.localTimeAlign t) :=
  fun s => have ht := keeps_tickTo s t; ⟨_, rfl, .ite (alignLocal_keeps ht) ht⟩

theorem answers_csiFrameStart {p vc num hdr t : Nat} : Answers (.csiFrameStart p vc num hdr t) := by
  refine fun s => ⟨_, rfl, ?_⟩
  have ht : Keeps true true true true s (s.tickTo t) := keeps_tickTo s t
  refine .ite ht ?_
  extract_lets h u u1
  have hh : Keeps true true true true s h.2 := camHeader_keeps ht
  have hu : Keeps true true true true s u := lvl_keeps (putF_keeps hh)
  have hu1 : Keeps true true true true s u1 := .with_cams hu ((List.length_modify ..).trans)
  exact .ite hh (.each (fun _ _ => camStart_keeps) hu1)

theorem answers_csiLongPacket {p vc dt : Nat} {payload : List Byte} {hdr : Nat} {crc : Bool} {room : Option Nat} {t : Nat} :
    Answers (.csiLongPacket p vc dt payload hdr crc room t) := by
  refine fun s => ⟨_, rfl, ?_⟩
  have ht : Keeps false true true true s (s.tickTo t) := keeps_tickTo s t
  refine .ite ht ?_
  extract_lets h u
  have hh : Keeps false true true true s h.2 := camHeader_keeps ht
  have hu : Keeps false true true true s u := .ite (evt_keeps (cnt_keeps hh)) hh
  exact .ite hh (.each (fun _ _ => camLine_keeps) hu)

theorem answers_csiFrameEnd {p vc hdr t : Nat} : Answers (.csiFrameEnd p vc hdr t) := by
  refine fun s => ⟨_, rfl, ?_⟩
  have ht : Keeps true true true true s (s.tickTo t) := keeps_tickTo s t
  refine .ite ht ?_
  extract_lets h
  have hh : Keeps true true true true s h.2 := camHeader_keeps ht
  exact .ite hh (.each (fun _ _ => camEnd_keeps) hh)

theorem answers_frameComplete {p k t : Nat} {env : MemEnv} : Answers (.frameComplete p k t env) := by
  refine fun s => ⟨_, rfl, ?_⟩
  have ht : Keeps false true true true s (s.tickTo t) := keeps_tickTo s t
  split
  · exact ht
  · extract_lets d f addr rec' w
    have hd : Keeps false true true true s d.2 := camDrain_keeps ht
    have hw : Keeps false true true true s w.2 := writeRange_keeps hd
    refine .ite (setCamStr_keeps hd) ?_
    split
    · exact setCamStr_keeps hd
    · exact camComplete_keeps (setCamStr_keeps hw)
    · exact camWrErr_keeps (putBit_keeps (setCamStr_keeps hw))

theorem answers_slotRelease {req : Requester} {p k value : Nat} : Answers (.slotRelease req p k value) :=
  fun _ => ⟨_, rfl, .ite (checkedWrite_keeps (fun _ => writeCamRd_keeps) (.refl _)) (.refl _)⟩

theorem answers_noSignalTimeout {p t : Nat} : Answers (.noSignalTimeout p t) := by
  refine fun s => ⟨_, rfl, ?_⟩
  have ht : Keeps true true true true s (s.tickTo t) := keeps_tickTo s t
  refine .ite ?_ ht
  extract_lets u
  have hu : Keeps true true true true s u := lvl_keeps (putF_keeps ht)
  exact .ite hu (funcLost_keeps hu)

theorem answers_voutEnable {req : Requester} {v value : Nat} : Answers (.voutEnable req v value) :=
  fun _ => ⟨_, rfl, .ite (checkedWrite_keeps (fun _ => writeVoutCtl_keeps) (.refl _)) (.refl _)⟩

theorem answers_linkTrainingDone {v : Nat} {ok : Bool} {t : Nat} : Answers (.linkTrainingDone v ok t) := by
  refine fun s => ⟨_, rfl, ?_⟩
  have ht : Keeps true true true true s (s.tickTo t) := keeps_tickTo s t
  refine .ite ht ?_
  refine .ite (linkFail_keeps ht) ?_
  refine .ite (linkFail_keeps ht) ?_
  extract_lets u
  have hu : Keeps true true true true s u := setVout_keeps ht
  exact funcReady_keeps (putF_keeps (putF_keeps hu))

theorem answers_displayLinkRetrain {v t : Nat} : Answers (.displayLinkRetrain v t) :=
  fun s => have ht := keeps_tickTo s t; ⟨_, rfl, .ite (setVout_keeps ht) ht⟩

theorem answers_hpdLost {v t : Nat} : Answers (.hpdLost v t) := by
  refine fun s => ⟨_, rfl, ?_⟩
  have ht : Keeps true true true true s (s.tickTo t) := keeps_tickTo s t
  refine .ite ?_ ht
  extract_lets u
  have hu : Keeps true true true true s u := setHpd_keeps ht
  exact .ite (linkFail_keeps hu) hu

theorem answers_flip {req : Requester} {v value : Nat} : Answers (.flip req v value) :=
  fun _ => ⟨_, rfl, .ite (checkedWrite_keeps (fun _ => writeFlip_keeps) (.refl _)) (.refl _)⟩

theorem answers_vblankStart {v t : Nat} : Answers (.vblankStart v t) := by
  refine fun s => ⟨_, rfl, ?_⟩
  have ht : Keeps true true true true s (s.tickTo t) := keeps_tickTo s t
  refine .ite ht ?_
  extract_lets u u1 blank u2
  have hu : Keeps true true true true s u := evt_keeps (putBit_keeps ht)
  have hu1 : Keeps true true true true s u1 := .ite (putBit_keeps (setVout_keeps hu)) hu
  have hu2 : Keeps true true true true s u2 := newFrame_keeps hu1
  exact .ite (blockDoorbell_keeps hu2) hu2

theorem answers_frameFirstLine {v t : Nat} : Answers (.frameFirstLine v t) := by
  refine fun s => ⟨_, rfl, ?_⟩
  have ht : Keeps true true true true s (s.tickTo t) := keeps_tickTo s t
  refine .ite ht ?_
  extract_lets u now u1
  have hu : Keeps true true true true s u := incWrap_keeps (putBit_keeps (newFrame_keeps ht))
  have hu1 : Keeps true true true true s u1 := setVout_keeps hu
  exact .ite (evt_keeps (wr_keeps (wr_keeps hu1))) hu

theorem answers_layerUnderrun {v l x y t : Nat} {env : MemEnv} : Answers (.layerUnderrun v l x y t env) := by
  refine fun s => ⟨_, rfl, ?_⟩
  have ht : Keeps false true true true s (s.tickTo t) := keeps_tickTo s t
  refine .ite ht ?_
  split
  · exact ht
  · refine .ite ht ?_
    extract_lets w r u u1 here seen u2 u3 u4
    have hw : Keeps false true true true s w.2 := freeExt_keeps ht
    have hr : Keeps false true true true s r.2.2 := blockRead_keeps (.ite ht hw)
    have hu : Keeps false true true true s u := by
      unfold u
      split
      · exact hr
      · exact hr
      · exact fetchError_keeps hr
    have hu1 : Keeps false true true true s u1 := abandonLine_keeps hu
    have hu2 : Keeps false true true true s u2 := .ite hu1 (cnt_keeps hu1)
    have hu3 : Keeps false true true true s u3 := .ite (cnt_keeps hu2) hu2
    have hu4 : Keeps false true true true s u4 := evt_keeps (setVout_keeps hu3)
    exact emit_keeps hu4

theorem answers_auxRead {req : Requester} {v value : Nat} : Answers (.auxRead req v value) :=
  fun _ => ⟨_, rfl, .ite (checkedWrite_keeps (fun _ => writeAux_keeps) (.refl _)) (.refl _)⟩

theorem answers_auxWrite {req : Requester} {v value : Nat} : Answers (.auxWrite req v value) :=
  fun _ => ⟨_, rfl, .ite (checkedWrite_keeps (fun _ => writeAux_keeps) (.refl _)) (.refl _)⟩

theorem answers_auxDone {v result : Nat} {data : List Byte} : Answers (.auxDone v result data) := by
  refine fun s => ⟨_, rfl, ?_⟩
  split
  · exact .refl _
  · refine .ite (.refl _) ?_
    extract_lets u
    have hu : Keeps true true true true s u := wr_keeps (setVout_keeps (.refl _))
    exact .ite (.each (fun _ _ => putF_keeps) hu) hu

theorem answers_ethFrameRx {p : Nat} {data : List Byte} {ecc t : Nat} : Answers (.ethFrameRx p data ecc t) :=
  fun s => have ht := keeps_tickTo s t; ⟨_, rfl, .ite (gwFrameIn_keeps ht) ht⟩

theorem answers_canFrameRx {n fmt : Nat} {ide : Bool} {id xl : Nat} {data : List Byte} {ecc t : Nat} :
    Answers (.canFrameRx n fmt ide id xl data ecc t) :=
  fun s => have ht := keeps_tickTo s t; ⟨_, rfl, .ite (gwFrameIn_keeps ht) ht⟩

theorem answers_egressTransmit {p ecc t : Nat} : Answers (.egressTransmit p ecc t) :=
  fun s => have ht := keeps_tickTo s t; ⟨_, rfl, .ite (serveBuf_keeps ht) ht⟩

theorem answers_gateControlEntry {p t : Nat} : Answers (.gateControlEntry p t) := by
  refine fun s => ⟨_, rfl, ?_⟩
  have ht : Keeps true true true true s (s.tickTo t) := keeps_tickTo s t
  refine .ite ht ?_
  refine .ite (putF_keeps (setQbv_keeps ht)) ?_
  extract_lets d
  exact .ite (putF_keeps (setQbv_keeps ht)) ht

theorem answers_qbvCommit {req : Requester} {p value : Nat} : Answers (.qbvCommit req p value) :=
  fun _ => ⟨_, rfl, .ite (checkedWrite_keeps (fun _ => writeQbvCtl_keeps) (.refl _)) (.refl _)⟩

theorem answers_qbvListActivate {p t : Nat} : Answers (.qbvListActivate p t) := by
  refine fun s => ⟨_, rfl, ?_⟩
  have ht : Keeps true true true true s (s.tickTo t) := keeps_tickTo s t
  split
  · exact ht
  · refine .ite ht ?_
    extract_lets u
    have hu : Keeps true true true true s u := setQbv_keeps ht
    exact evt_keeps (putF_keeps (putBit_keeps hu))

theorem answers_verdictRelease {req : Requester} : Answers (.verdictRelease req) :=
  fun _ => ⟨_, rfl, checkedWrite_keeps (fun _ => writeVerdict_keeps) (.refl _)⟩

theorem answers_verdictReleaseMask {req : Requester} {mask : Nat} : Answers (.verdictReleaseMask req mask) :=
  fun _ => ⟨_, rfl, checkedWrite_keeps (fun _ => writeVerdict_keeps) (.refl _)⟩

theorem answers_verdictDrop {req : Requester} : Answers (.verdictDrop req) :=
  fun _ => ⟨_, rfl, checkedWrite_keeps (fun _ => writeVerdict_keeps) (.refl _)⟩

theorem answers_inspDataRead {req : Requester} : Answers (.inspDataRead req) :=
  fun _ => ⟨_, rfl, checkedRead_keeps (fun _ => readInspData_keeps) (.refl _)⟩

theorem answers_inspectionTimeout {t : Nat} : Answers (.inspectionTimeout t) := by
  refine fun s => ⟨_, rfl, ?_⟩
  have ht : Keeps true true true true s (s.tickTo t) := keeps_tickTo s t
  split
  · exact ht
  · exact .ite (inspPop_keeps (emit_keeps (evt_keeps (cnt_keeps ht)))) ht

theorem answers_txOriginate {req : Requester} {value : Nat} : Answers (.txOriginate req value) :=
  fun _ => ⟨_, rfl, checkedWrite_keeps (fun _ => writeTxCtl_keeps) (.refl _)⟩

theorem answers_txDataWrite {req : Requester} {value : Nat} : Answers (.txDataWrite req value) :=
  fun _ => ⟨_, rfl, checkedWrite_keeps (fun _ => setGw_keeps fun _ => ⟨id, id, id, id, id⟩) (.refl _)⟩

theorem answers_hostEnable {req : Requester} {value : Nat} : Answers (.hostEnable req value) :=
  fun _ => ⟨_, rfl, checkedWrite_keeps (fun _ => writeHostCtl_keeps) (.refl _)⟩

theorem answers_hostTxEntry {req : Requester} {value : Nat} {ext : List Byte} : Answers (.hostTxEntry req value ext) :=
  fun _ => ⟨_, rfl, checkedWrite_keeps (fun _ hu => htxRun_keeps (regStore_keeps hu)) (.refl _)⟩

theorem answers_tableDataWrite {req : Requester} {value : Nat} : Answers (.tableDataWrite req value) :=
  fun _ => ⟨_, rfl, checkedWrite_keeps (fun _ => writeTblData_keeps) (.refl _)⟩

theorem answers_tableDataRead {req : Requester} {ecc : Nat} : Answers (.tableDataRead req ecc) :=
  fun _ => ⟨_, rfl, checkedRead_keeps (fun _ => readTblData_keeps) (.refl _)⟩

theorem answers_ethLinkChange {p : Nat} {up : Bool} {speed : Nat} : Answers (.ethLinkChange p up speed) :=
  fun _ => ⟨_, rfl, .ite (linkFlush_keeps (evt_keeps (putF_keeps (putBit_keeps (.refl _))))) (.refl _)⟩

theorem answers_canErrorStateChange {n st tec rec' : Nat} {proto : Bool} : Answers (.canErrorStateChange n st tec rec' proto) := by
  refine fun s => ⟨_, rfl, ?_⟩
  refine .ite (.refl _) ?_
  extract_lets u old u1 u2
  have hu : Keeps true true true true s u := .ite (evt_keeps (.refl _)) (.refl _)
  have hu1 : Keeps true true true true s u1 := putF_keeps (putF_keeps hu)
  have hu2 : Keeps true true true true s u2 := evt_keeps (setCanState_keeps hu1)
  exact .ite hu (.ite hu1 (.ite hu2 (emit_keeps hu2)))

theorem answers_rlinkTrainingDone {p : Nat} {ok : Bool} {width rate : Nat} : Answers (.rlinkTrainingDone p ok width rate) := by
  refine fun s => ⟨_, rfl, ?_⟩
  refine .ite (.refl _) ?_
  refine .ite ?_ ?_
  · extract_lets _ u w r
    have hu : Keeps true true true true s u := .with_fab (.refl _) ((List.length_set ..).trans) id
    exact linkChanged_keeps (putF_keeps (putF_keeps (setLstate_keeps hu)))
  · extract_lets n _ u
    have hu : Keeps true true true true s u := .with_fab (.refl _) ((List.length_set ..).trans) id
    exact .ite (linkChanged_keeps (evt_keeps (setLstate_keeps hu))) (setLstate_keeps hu)

theorem answers_linkLowPowerEntry {p t : Nat} : Answers (.linkLowPowerEntry p t) :=
  fun s => have ht := keeps_tickTo s t; ⟨_, rfl, .ite (setLstate_keeps ht) ht⟩

theorem answers_rlinkRetrain {p : Nat} : Answers (.rlinkRetrain p) :=
  fun _ => ⟨_, rfl, .ite (setLstate_keeps (cnt_keeps (addSat_keeps (.refl _)))) (.refl _)⟩

theorem answers_fabRd {p : Nat} {h : FabHead} {t : Nat} {env : MemEnv} : Answers (.fabRd p h t env) :=
  fun s => ⟨_, rfl, fabArrive_keeps (fun _ => fabServe_keeps) (keeps_tickTo s t)⟩

theorem answers_fabRdc {p : Nat} {h : FabHead} {status : Nat} {data : List Byte} : Answers (.fabRdc p h status data) :=
  fun _ => ⟨_, rfl, fabArrive_keeps (fun _ => fabDone_keeps) (.refl _)⟩

theorem answers_fabWr {p : Nat} {h : FabHead} {data : List Byte} {t : Nat} {env : MemEnv} : Answers (.fabWr p h data t env) :=
  fun s => ⟨_, rfl, fabArrive_keeps (fun _ => fabServe_keeps) (keeps_tickTo s t)⟩

theorem answers_fabWra {p : Nat} {h : FabHead} {status : Nat} : Answers (.fabWra p h status) :=
  fun _ => ⟨_, rfl, fabArrive_keeps (fun _ => fabDone_keeps) (.refl _)⟩

theorem answers_tktReq {p : Nat} {h : FabHead} {t : Nat} : Answers (.tktReq p h t) := by
  refine fun s => ⟨_, rfl, ?_⟩
  have ht : Keeps true true true true s (s.tickTo t) := keeps_tickTo s t
  refine fabArrive_keeps (fun u hu => ?_) ht
  extract_lets a
  split
  · exact fabAnswer_keeps hu
  · refine .ite (fabAnswer_keeps hu) ?_
    refine .ite (.with_held hu) ?_
    extract_lets r
    have hr : Keeps true true true true s r.2.2 := ticketRequest_keeps hu
    exact fabAnswer_keeps hr

theorem answers_tktAns {p : Nat} {h : FabHead} {code tag : Nat} : Answers (.tktAns p h code tag) := by
  refine fun s => ⟨_, rfl, ?_⟩
  refine fabArrive_keeps (fun u hu => ?_) (.refl _)
  split
  · exact hu
  · exact .ite (ticketAnswered_keeps (closeReq_keeps hu)) hu

theorem answers_tktRet {p : Nat} {h : FabHead} {t : Nat} : Answers (.tktRet p h t) := by
  refine fun s => ⟨_, rfl, ?_⟩
  have ht : Keeps true true true true s (s.tickTo t) := keeps_tickTo s t
  refine fabArrive_keeps (fun u hu => ?_) ht
  split
  · exact .ite (returnTicket_keeps hu) hu
  · exact hu

theorem answers_fabProbe {p rootUid fromUid : Nat} {path : List Nat} {t : Nat} : Answers (.fabProbe p rootUid fromUid path t) := by
  refine fun s => ⟨_, rfl, ?_⟩
  have ht : Keeps true true true true s (s.tickTo t) := keeps_tickTo s t
  refine .ite ht ?_
  extract_lets u u1
  have hu : Keeps true true true true s u := gotPacket_keeps ht
  have hu1 : Keeps true true true true s u1 := .ite (dropTables_keeps hu) hu
  exact .ite (sendPacket_keeps hu) (.ite (passOn_keeps hu) (.ite (evt_keeps (setLstate_keeps hu)) (sendPacket_keeps hu1)))

theorem answers_identify {p uid dev links casc nbrPort : Nat} : Answers (.identify p uid dev links casc nbrPort) := by
  refine fun s => ⟨_, rfl, ?_⟩
  refine .ite (.refl _) ?_
  extract_lets u _
  have hu : Keeps true true true true s u := gotPacket_keeps (.refl _)
  split
  · split
    · exact hu
    · extract_lets d from'
      split
      · exact probeNext_keeps (evt_keeps hu)
      · extract_lets u1 d1
        have hu1 : Keeps true true true true s u1 := .with_fab hu id id
        exact .ite (probeNext_keeps hu1) (probeNext_keeps hu1)
  · exact passBack_keeps hu

theorem answers_notReady {p hint : Nat} : Answers (.notReady p hint) := by
  refine fun s => ⟨_, rfl, ?_⟩
  refine .ite (.refl _) ?_
  extract_lets u
  have hu : Keeps true true true true s u := gotPacket_keeps (.refl _)
  split
  · split
    · exact hu
    · exact .ite (probeNext_keeps hu) (probeNext_keeps hu)
  · exact passBack_keeps hu

theorem answers_assign {p rootUid node role slot master : Nat} {table : List FabEntry} {nbrs : List (Option Nat)} {path : List Nat} {t : Nat} :
    Answers (.assign p rootUid node role slot master table nbrs path t) := by
  refine fun s => ⟨_, rfl, ?_⟩
  have ht : Keeps true true true true s (s.tickTo t) := keeps_tickTo s t
  refine .ite ht ?_
  extract_lets u _
  have hu : Keeps true true true true s u := gotPacket_keeps ht
  exact .ite (sendPacket_keeps hu) (.ite (passOn_keeps hu) (.ite hu (.ite (.with_fab hu id id) hu)))

theorem answers_fabCommit {p rootUid : Nat} {path : List Nat} {t : Nat} : Answers (.fabCommit p rootUid path t) := by
  refine fun s => ⟨_, rfl, ?_⟩
  have ht : Keeps true true true true s (s.tickTo t) := keeps_tickTo s t
  refine .ite ht ?_
  extract_lets u
  have hu : Keeps true true true true s u := gotPacket_keeps ht
  refine .ite (sendPacket_keeps hu) ?_
  refine .ite (passOn_keeps hu) ?_
  split
  · exact .ite (commitTables_keeps hu) hu
  · exact hu

theorem answers_linkEvent {p node links t : Nat} : Answers (.linkEvent p node links t) := by
  refine fun s => ⟨_, rfl, ?_⟩
  have ht : Keeps true true true true s (s.tickTo t) := keeps_tickTo s t
  refine .ite ht ?_
  extract_lets u
  have hu : Keeps true true true true s u := gotPacket_keeps ht
  exact .ite (sendPacket_keeps hu) (.ite (rootHears_keeps hu) (.ite (sendPacket_keeps hu) hu))

theorem answers_rediscover {req : Requester} {value : Nat} : Answers (.rediscover req value) :=
  fun _ => ⟨_, rfl, checkedWrite_keeps (fun _ => writeFabCtl_keeps) (.refl _)⟩

theorem answers_probeRetry {node port t : Nat} : Answers (.probeRetry node port t) := by
  refine fun s => ⟨_, rfl, ?_⟩
  have ht : Keeps true true true true s (s.tickTo t) := keeps_tickTo s t
  split
  · refine .ite ?_ ht
    extract_lets d
    exact .ite (probeNext_keeps ht) (setDisc_keeps ht)
  · exact ht

theorem answers_discoveryTimeout {t : Nat} : Answers (.discoveryTimeout t) := by
  refine fun s => ⟨_, rfl, ?_⟩
  have ht : Keeps true true true true s (s.tickTo t) := keeps_tickTo s t
  split
  · exact .ite (finishDiscovery_keeps ht) ht
  · exact ht

theorem answers_syncFrameTx {t : Nat} : Answers (.syncFrameTx t) := by
  refine fun s => ⟨_, rfl, ?_⟩
  have ht : Keeps true true true true s (s.tickTo t) := keeps_tickTo s t
  refine .ite ?_ ht
  extract_lets u u1
  have hu : Keeps true true true true s u := emit_keeps ht
  have hu1 : Keeps true true true true s u1 := .each (fun _ _ => missMarker_keeps) hu
  exact masterAligned_keeps (setCasc_keeps (fun _ => rfl) hu1)

theorem answers_syncFrameRx {f : List Byte} {phase : Int} {within beyond locks : Bool} {t : Nat} :
    Answers (.syncFrameRx f phase within beyond locks t) := by
  refine fun s => ⟨_, rfl, ?_⟩
  have ht : Keeps true true true true s (s.tickTo t) := keeps_tickTo s t
  refine .ite ht ?_
  refine .ite (cnt_keeps ht) ?_
  extract_lets u u1 u2 u3
  have hu : Keeps true true true true s u := setCasc_keeps (fun _ => rfl) ht
  have hu1 : Keeps true true true true s u1 := follow16_keeps hu
  have hu2 : Keeps true true true true s u2 := wrS_keeps hu1
  have hu3 : Keeps true true true true s u3 := .ite hu2 (.ite (setAligned_keeps hu2) (.ite (setAligned_keeps hu2) hu2))
  exact putF_keeps hu3

theorem answers_echoMarkerTx {t : Nat} : Answers (.echoMarkerTx t) := by
  refine fun s => ⟨_, rfl, ?_⟩
  have ht : Keeps true true true true s (s.tickTo t) := keeps_tickTo s t
  split
  · exact .ite (setCasc_keeps (fun _ => rfl) (emit_keeps ht)) ht
  · exact ht

theorem answers_echoMarkerRx {slot rt : Nat} : Answers (.echoMarkerRx slot rt) :=
  fun _ => ⟨_, rfl, .ite (masterAligned_keeps (setCasc_keeps (fun _ => List.length_set) (wr_keeps (.refl _)))) (.refl _)⟩

theorem answers_masterLost {t : Nat} : Answers (.masterLost t) := by
  refine fun s => ⟨_, rfl, ?_⟩
  have ht : Keeps true true true true s (s.tickTo t) := keeps_tickTo s t
  refine .ite ?_ ht
  extract_lets on u u1 u2
  have hu : Keeps true true true true s u := cnt_keeps (putF_keeps ht)
  have hu1 : Keeps true true true true s u1 := emit_keeps (setAligned_keeps (evt_keeps hu))
  have hu2 : Keeps true true true true s u2 := setCasc_keeps (fun _ => rfl) hu1
  exact .ite (publish_keeps (.each (fun _ _ => domHold_keeps) (setTimeState_keeps hu2))) hu2

theorem answers_perturbCtlWrite {req : Requester} {value : Nat} : Answers (.perturbCtlWrite req value) :=
  fun _ => ⟨_, rfl, heartWrite_keeps (fun _ => writePerturbCtl_keeps) (.refl _)⟩

theorem answers_perturbEnable {req : Requester} {code inst value : Nat} : Answers (.perturbEnable req code inst value) :=
  fun _ => ⟨_, rfl, checkedWrite_keeps (fun _ => writePtCtl_keeps) (.refl _)⟩

theorem answers_stallPulse {code inst t : Nat} : Answers (.stallPulse code inst t) :=
  fun s => have ht := keeps_tickTo s t; ⟨_, rfl, .ite (setShaker_keeps ht) ht⟩

theorem answers_jitterDraw : Answers .jitterDraw :=
  fun _ => ⟨_, rfl, .ite (.each (fun _ _ => drawJitter_keeps) (.refl _)) (.refl _)⟩

theorem answers_forceEcc1 {req : Requester} {code inst value : Nat} : Answers (.forceEcc1 req code inst value) :=
  fun _ => ⟨_, rfl, forceWrite_keeps (.refl _)⟩

theorem answers_forceEcc2 {req : Requester} {code inst value : Nat} : Answers (.forceEcc2 req code inst value) :=
  fun _ => ⟨_, rfl, forceWrite_keeps (.refl _)⟩

theorem answers_forceChk {req : Requester} {code inst value : Nat} : Answers (.forceChk req code inst value) :=
  fun _ => ⟨_, rfl, forceWrite_keeps (.refl _)⟩

theorem answers_forceTkt {req : Requester} {code inst value : Nat} : Answers (.forceTkt req code inst value) :=
  fun _ => ⟨_, rfl, forceWrite_keeps (.refl _)⟩

theorem answers_forceDetect {req : Requester} {code inst value : Nat} : Answers (.forceDetect req code inst value) :=
  fun _ => ⟨_, rfl, forceWrite_keeps (.refl _)⟩

theorem answers_forceCancel {req : Requester} {code inst : Nat} : Answers (.forceCancel req code inst) :=
  fun _ => ⟨_, rfl, checkedWrite_keeps (fun _ => writeForce_keeps) (.refl _)⟩

theorem answers_supplyFault {rail t : Nat} : Answers (.supplyFault rail t) :=
  fun s => have ht := keeps_tickTo s t; ⟨_, rfl, .ite (supplyFault_keeps ht) ht⟩

theorem answers_referenceLoss {t : Nat} : Answers (.referenceLoss t) :=
  fun s => have ht := keeps_tickTo s t; ⟨_, rfl, .ite (supplyFault_keeps ht) ht⟩

theorem answers_supplyRecovered {straps t : Nat} : Answers (.supplyRecovered straps t) := by
  refine fun s => ⟨_, rfl, ?_⟩
  have ht : Keeps true true true true s (s.tickTo t) := keeps_tickTo s t
  refine .ite ?_ ht
  extract_lets _ u
  have hu : Keeps true true true true s u := .with_boot ht id
  exact .ite (tryRelease_keeps (latchStraps_keeps hu)) hu

theorem answers_fdigSample {c : Nat} {raw : Int} {ecc t : Nat} : Answers (.fdigSample c raw ecc t) :=
  fun s => have ht := keeps_tickTo s t; ⟨_, rfl, .ite (sampled_keeps ht) ht⟩

theorem answers_sliceCalibrationDone {c : Nat} {ok : Bool} {t : Nat} : Answers (.sliceCalibrationDone c ok t) := by
  refine fun s => ⟨_, rfl, ?_⟩
  have ht : Keeps true true true true s (s.tickTo t) := keeps_tickTo s t
  split
  · refine .ite ht ?_
    extract_lets u
    have hu : Keeps true true true true s u := setFdig_keeps ht
    exact .ite (evt_keeps (requeue_keeps (setSlice_keeps hu))) (fdigSync_keeps (evt_keeps (setSlice_keeps hu)))
  · exact ht

theorem answers_spareCalibrationDone {ok : Bool} {t : Nat} : Answers (.spareCalibrationDone ok t) := by
  refine fun s => ⟨_, rfl, ?_⟩
  have ht : Keeps true true true true s (s.tickTo t) := keeps_tickTo s t
  split
  · exact ht
  · refine .ite ht ?_
    extract_lets _ u
    have hu : Keeps true true true true s u := .with_sns ht id
    exact spareShow_keeps (.ite (setConv_keeps hu) (putF_keeps (convLost_keeps hu)))

theorem answers_gptpLost {t : Nat} : Answers (.gptpLost t) :=
  fun s => have ht := keeps_tickTo s t; ⟨_, rfl, .ite (gptpLost_keeps ht) ht⟩

theorem answers_audioPllRelock : Answers .audioPllRelock := by
  refine fun s => ⟨_, rfl, ?_⟩
  refine .ite ?_ (.refl _)
  extract_lets u
  have hu : Keeps true true true true s u := lvl_keeps (putBit_keeps (.refl _))
  exact .each (fun _ _ => portSync_keeps) hu

theorem answers_pcieLinkChange {up : Bool} : Answers (.pcieLinkChange up) := by
  refine fun s => ⟨_, rfl, ?_⟩
  refine .ite (funcLost_keeps (.with_boot (.refl _) id)) ?_
  refine .ite ?_ (.refl _)
  extract_lets _ u
  have hu : Keeps true true true true s u := .with_boot (.refl _) id
  exact .ite (funcReady_keeps hu) hu

theorem answers_hpdRise {v : Nat} : Answers (.hpdRise v) :=
  fun _ => ⟨_, rfl, .ite (setHpd_keeps (.refl _)) (.refl _)⟩

theorem answers_vddAonRise {t : Nat} : Answers (.vddAonRise t) := by
  refine fun s => ⟨_, rfl, ?_⟩
  have ht : Keeps false true true true s (s.tickTo t) := keeps_tickTo s t
  refine .ite ht ?_
  extract_lets u _
  have hu : Keeps false true true true s u := zero_keeps ht
  exact .with_boot hu id

theorem answers_vddAonLoss {t : Nat} : Answers (.vddAonLoss t) := by
  refine fun s => ⟨_, rfl, ?_⟩
  have ht : Keeps false false true false s (s.tickTo t) := keeps_tickTo s t
  extract_lets u _
  have hu : Keeps false false true false s u := zero_keeps (resetAs_keeps ht)
  exact .with_boot hu id


/-- Every command answers a next state, and writes no store that it is not listed for. -/
theorem exec_answers (i : Instr) : Answers i :=
  match i with
  | .registerWrite .. => answers_registerWrite
  | .readClear .. => answers_readClear
  | .pageLock .. => answers_pageLock
  | .worldWrite .. => answers_worldWrite
  | .irqForce .. => answers_irqForce
  | .memoryAccess .. => answers_memoryAccess
  | .heldAccessServed .. => answers_heldAccessServed
  | .wssEdge .. => answers_wssEdge
  | .dirPwTimeout .. => answers_dirPwTimeout
  | .quadCount .. => answers_quadCount
  | .spiRdcSample .. => answers_spiRdcSample
  | .sourceSilenceTimeout .. => answers_sourceSilenceTimeout
  | .speedMessageExpired .. => answers_speedMessageExpired
  | .holdExpired .. => answers_holdExpired
  | .angleBusUpdate .. => answers_angleBusUpdate
  | .alarmEnable .. => answers_alarmEnable
  | .angleEnable .. => answers_angleEnable
  | .sourceConfigWrite .. => answers_sourceConfigWrite
  | .prediction .. => answers_prediction
  | .logPop .. => answers_logPop
  | .gptpSyncRx .. => answers_gptpSyncRx
  | .gptpPdelayRx .. => answers_gptpPdelayRx
  | .gptpSyncTx .. => answers_gptpSyncTx
  | .poresetAssert .. => answers_poresetAssert
  | .poresetRelease .. => answers_poresetRelease
  | .warmresetAssert .. => answers_warmresetAssert
  | .warmresetRelease .. => answers_warmresetRelease
  | .swrst .. => answers_swrst
  | .pciePerst .. => answers_pciePerst
  | .bootRomStart .. => answers_bootRomStart
  | .imageVerifyDone .. => answers_imageVerifyDone
  | .declareC .. => answers_declareC
  | .stageCLimitExpired .. => answers_stageCLimitExpired
  | .pcieConfigRequest .. => answers_pcieConfigRequest
  | .stow .. => answers_stow
  | .stowBuildDone .. => answers_stowBuildDone
  | .flashCopyDone .. => answers_flashCopyDone
  | .queuedFrameDelivery .. => answers_queuedFrameDelivery
  | .frameAgeExpired .. => answers_frameAgeExpired
  | .pmuEvaluate .. => answers_pmuEvaluate
  | .domainExitComplete .. => answers_domainExitComplete
  | .park .. => answers_park
  | .p4Entry .. => answers_p4Entry
  | .wakePin .. => answers_wakePin
  | .wakeTimerExpired .. => answers_wakeTimerExpired
  | .canWakeFrame .. => answers_canWakeFrame
  | .railsInRange .. => answers_railsInRange
  | .ledgerUpdate .. => answers_ledgerUpdate
  | .ledgerTest .. => answers_ledgerTest
  | .monitorFault .. => answers_monitorFault
  | .thermSample .. => answers_thermSample
  | .throttleEvaluate .. => answers_throttleEvaluate
  | .tripClr .. => answers_tripClr
  | .coolTempSample .. => answers_coolTempSample
  | .coolInStale .. => answers_coolInStale
  | .tachSample .. => answers_tachSample
  | .coolingRequest .. => answers_coolingRequest
  | .hartHoldWrite .. => answers_hartHoldWrite
  | .xmbRing .. => answers_xmbRing
  | .xmbAck .. => answers_xmbAck
  | .aesGcmEncrypt .. => answers_aesGcmEncrypt
  | .aesGcmDecrypt .. => answers_aesGcmDecrypt
  | .sha256 .. => answers_sha256
  | .sha384 .. => answers_sha384
  | .sha512 .. => answers_sha512
  | .hmacSha384 .. => answers_hmacSha384
  | .ecdsaVerify .. => answers_ecdsaVerify
  | .ecdsaSign .. => answers_ecdsaSign
  | .mlDsaVerify .. => answers_mlDsaVerify
  | .mlDsaSign .. => answers_mlDsaSign
  | .dualVerify .. => answers_dualVerify
  | .derive .. => answers_derive
  | .clearKeySlot .. => answers_clearKeySlot
  | .exportPublicKey .. => answers_exportPublicKey
  | .randomBytes .. => answers_randomBytes
  | .revokeFuseKeySlot .. => answers_revokeFuseKeySlot
  | .raiseAntiRollback .. => answers_raiseAntiRollback
  | .advanceLifecycle .. => answers_advanceLifecycle
  | .secBadOpcode .. => answers_secBadOpcode
  | .trngHealthFail .. => answers_trngHealthFail
  | .extest .. => answers_extest
  | .idcode .. => answers_idcode
  | .samplePreload .. => answers_samplePreload
  | .highz .. => answers_highz
  | .clamp .. => answers_clamp
  | .dtmcs .. => answers_dtmcs
  | .dmi .. => answers_dmi
  | .authNonce .. => answers_authNonce
  | .authToken .. => answers_authToken
  | .authStat .. => answers_authStat
  | .recoveryData .. => answers_recoveryData
  | .recoveryStat .. => answers_recoveryStat
  | .bypass .. => answers_bypass
  | .recoveryVerifyDone .. => answers_recoveryVerifyDone
  | .sessionExpired .. => answers_sessionExpired
  | .lockstepMismatch .. => answers_lockstepMismatch
  | .escalate .. => answers_escalate
  | .sqTailDoorbell .. => answers_sqTailDoorbell
  | .ringDoorbell .. => answers_ringDoorbell
  | .externalDoorbell .. => answers_externalDoorbell
  | .descriptorFetch .. => answers_descriptorFetch
  | .ownerRecordWrite .. => answers_ownerRecordWrite
  | .resizeGo .. => answers_resizeGo
  | .quiesceEnd .. => answers_quiesceEnd
  | .resizeQuiesceTimeout .. => answers_resizeQuiesceTimeout
  | .resizeCommit .. => answers_resizeCommit
  | .coreNop .. => answers_coreNop
  | .tile .. => answers_tile
  | .coreEnd .. => answers_coreEnd
  | .coreLoad .. => answers_coreLoad
  | .loadComplete .. => answers_loadComplete
  | .coreStore .. => answers_coreStore
  | .storeComplete .. => answers_storeComplete
  | .mma .. => answers_mma
  | .drain .. => answers_drain
  | .imcfg .. => answers_imcfg
  | .vopAdd .. => answers_vopAdd
  | .vopMul .. => answers_vopMul
  | .vopFma .. => answers_vopFma
  | .vopMax .. => answers_vopMax
  | .vopMin .. => answers_vopMin
  | .vopCvt .. => answers_vopCvt
  | .vopRelu .. => answers_vopRelu
  | .vopGelu .. => answers_vopGelu
  | .vopSigmoid .. => answers_vopSigmoid
  | .vopTanh .. => answers_vopTanh
  | .vopExp .. => answers_vopExp
  | .vopRecip .. => answers_vopRecip
  | .vopRsqrt .. => answers_vopRsqrt
  | .vopRsum .. => answers_vopRsum
  | .vopRmax .. => answers_vopRmax
  | .barrier .. => answers_barrier
  | .barrierRelease .. => answers_barrierRelease
  | .lbcfg .. => answers_lbcfg
  | .badOpcode .. => answers_badOpcode
  | .tileMaxExpired .. => answers_tileMaxExpired
  | .contextSaveDone .. => answers_contextSaveDone
  | .contextRestoreDone .. => answers_contextRestoreDone
  | .cmdWatchdogExpired .. => answers_cmdWatchdogExpired
  | .mopFill .. => answers_mopFill
  | .mopCopy .. => answers_mopCopy
  | .mopStart .. => answers_mopStart
  | .mopDone .. => answers_mopDone
  | .clearGo .. => answers_clearGo
  | .clearZeroDone .. => answers_clearZeroDone
  | .clearVerifyDone .. => answers_clearVerifyDone
  | .ticketRequest .. => answers_ticketRequest
  | .remoteWrite .. => answers_remoteWrite
  | .ticketExpired .. => answers_ticketExpired
  | .ticketReturn .. => answers_ticketReturn
  | .ticketRetry .. => answers_ticketRetry
  | .tktWaitExpired .. => answers_tktWaitExpired
  | .windowArm .. => answers_windowArm
  | .meshTimeout .. => answers_meshTimeout
  | .ferryQPush .. => answers_ferryQPush
  | .ferryTransferStart .. => answers_ferryTransferStart
  | .ferryTransferDone .. => answers_ferryTransferDone
  | .deadlineReevaluate .. => answers_deadlineReevaluate
  | .placement .. => answers_placement
  | .jobComplete .. => answers_jobComplete
  | .jobTimeout .. => answers_jobTimeout
  | .cancel .. => answers_cancel
  | .acctSel .. => answers_acctSel
  | .acctSelClear .. => answers_acctSelClear
  | .selftest .. => answers_selftest
  | .selftestDone .. => answers_selftestDone
  | .restore .. => answers_restore
  | .cntClr .. => answers_cntClr
  | .rmonExpired .. => answers_rmonExpired
  | .infLogPop .. => answers_infLogPop
  | .dmcHoldClear .. => answers_dmcHoldClear
  | .dramTrainingDone .. => answers_dramTrainingDone
  | .eccInitDone .. => answers_eccInitDone
  | .refreshWindowStart .. => answers_refreshWindowStart
  | .refreshWindowEnd .. => answers_refreshWindowEnd
  | .refreshAnnounce .. => answers_refreshAnnounce
  | .mr4Poll .. => answers_mr4Poll
  | .rowIdleClose .. => answers_rowIdleClose
  | .patrolScrub .. => answers_patrolScrub
  | .dmcCtrlFail .. => answers_dmcCtrlFail
  | .triggerFire .. => answers_triggerFire
  | .triggerForce .. => answers_triggerForce
  | .extTrigEdge .. => answers_extTrigEdge
  | .holdoffEnd .. => answers_holdoffEnd
  | .autoTrigger .. => answers_autoTrigger
  | .programArm .. => answers_programArm
  | .programDisarm .. => answers_programDisarm
  | .prefillDone .. => answers_prefillDone
  | .berthComplete .. => answers_berthComplete
  | .berthStart .. => answers_berthStart
  | .streamCopyStart .. => answers_streamCopyStart
  | .streamCopyDone .. => answers_streamCopyDone
  | .calSwapDue .. => answers_calSwapDue
  | .foregroundCalDone .. => answers_foregroundCalDone
  | .scopePermitWrite .. => answers_scopePermitWrite
  | .settlingDone .. => answers_settlingDone
  | .fdigPllUnlock .. => answers_fdigPllUnlock
  | .fdigPllRelock .. => answers_fdigPllRelock
  | .probeOverload .. => answers_probeOverload
  | .overloadRecover .. => answers_overloadRecover
  | .senseConversion .. => answers_senseConversion
  | .dcEvaluate .. => answers_dcEvaluate
  | .senseFrameBoundary .. => answers_senseFrameBoundary
  | .seqCommit .. => answers_seqCommit
  | .senseSwapDue .. => answers_senseSwapDue
  | .urgentConversionRequest .. => answers_urgentConversionRequest
  | .urgentConversionDone .. => answers_urgentConversionDone
  | .retryTimeout .. => answers_retryTimeout
  | .retryOk .. => answers_retryOk
  | .protClr .. => answers_protClr
  | .forceHold .. => answers_forceHold
  | .protSelfCheck .. => answers_protSelfCheck
  | .protLogPop .. => answers_protLogPop
  | .carrierCycleStart .. => answers_carrierCycleStart
  | .channelEnable .. => answers_channelEnable
  | .psenLeadEnd .. => answers_psenLeadEnd
  | .psenLagEnd .. => answers_psenLagEnd
  | .threadRun .. => answers_threadRun
  | .threadStop .. => answers_threadStop
  | .wseqNop .. => answers_wseqNop
  | .thrPlay .. => answers_thrPlay
  | .thrPlaya .. => answers_thrPlaya
  | .thrVec .. => answers_thrVec
  | .thrLoop .. => answers_thrLoop
  | .thrEndl .. => answers_thrEndl
  | .thrCall .. => answers_thrCall
  | .thrRet .. => answers_thrRet
  | .thrJmp .. => answers_thrJmp
  | .thrWait .. => answers_thrWait
  | .waitTimeExpired .. => answers_waitTimeExpired
  | .thrGain .. => answers_thrGain
  | .thrSig .. => answers_thrSig
  | .thrHalt .. => answers_thrHalt
  | .badInstr .. => answers_badInstr
  | .segmentEnd .. => answers_segmentEnd
  | .switchLinePulse .. => answers_switchLinePulse
  | .lineSw .. => answers_lineSw
  | .chimeReadyWrite .. => answers_chimeReadyWrite
  | .chimeStart .. => answers_chimeStart
  | .chimeStop .. => answers_chimeStop
  | .chimeEnd .. => answers_chimeEnd
  | .streamFetch .. => answers_streamFetch
  | .memDataWrite .. => answers_memDataWrite
  | .memDataRead .. => answers_memDataRead
  | .loadEngineGo .. => answers_loadEngineGo
  | .loadEngineDone .. => answers_loadEngineDone
  | .sampleTick .. => answers_sampleTick
  | .aleWake .. => answers_aleWake
  | .aleDone .. => answers_aleDone
  | .tdmFrame .. => answers_tdmFrame
  | .pdmSample .. => answers_pdmSample
  | .exportPush .. => answers_exportPush
  | .exportDone .. => answers_exportDone
  | .coefficientCommit .. => answers_coefficientCommit
  | .frameStartLost .. => answers_frameStartLost
  | .audioPllUnlock .. => answers_audioPllUnlock
  | .aleCoreFault .. => answers_aleCoreFault
  | .localTimeAlign .. => answers_localTimeAlign
  | .csiFrameStart .. => answers_csiFrameStart
  | .csiLongPacket .. => answers_csiLongPacket
  | .csiFrameEnd .. => answers_csiFrameEnd
  | .frameComplete .. => answers_frameComplete
  | .slotRelease .. => answers_slotRelease
  | .noSignalTimeout .. => answers_noSignalTimeout
  | .voutEnable .. => answers_voutEnable
  | .linkTrainingDone .. => answers_linkTrainingDone
  | .displayLinkRetrain .. => answers_displayLinkRetrain
  | .hpdLost .. => answers_hpdLost
  | .flip .. => answers_flip
  | .vblankStart .. => answers_vblankStart
  | .frameFirstLine .. => answers_frameFirstLine
  | .layerUnderrun .. => answers_layerUnderrun
  | .auxRead .. => answers_auxRead
  | .auxWrite .. => answers_auxWrite
  | .auxDone .. => answers_auxDone
  | .ethFrameRx .. => answers_ethFrameRx
  | .canFrameRx .. => answers_canFrameRx
  | .egressTransmit .. => answers_egressTransmit
  | .gateControlEntry .. => answers_gateControlEntry
  | .qbvCommit .. => answers_qbvCommit
  | .qbvListActivate .. => answers_qbvListActivate
  | .verdictRelease .. => answers_verdictRelease
  | .verdictReleaseMask .. => answers_verdictReleaseMask
  | .verdictDrop .. => answers_verdictDrop
  | .inspDataRead .. => answers_inspDataRead
  | .inspectionTimeout .. => answers_inspectionTimeout
  | .txOriginate .. => answers_txOriginate
  | .txDataWrite .. => answers_txDataWrite
  | .hostEnable .. => answers_hostEnable
  | .hostTxEntry .. => answers_hostTxEntry
  | .tableDataWrite .. => answers_tableDataWrite
  | .tableDataRead .. => answers_tableDataRead
  | .ethLinkChange .. => answers_ethLinkChange
  | .canErrorStateChange .. => answers_canErrorStateChange
  | .rlinkTrainingDone .. => answers_rlinkTrainingDone
  | .linkLowPowerEntry .. => answers_linkLowPowerEntry
  | .rlinkRetrain .. => answers_rlinkRetrain
  | .fabRd .. => answers_fabRd
  | .fabRdc .. => answers_fabRdc
  | .fabWr .. => answers_fabWr
  | .fabWra .. => answers_fabWra
  | .tktReq .. => answers_tktReq
  | .tktAns .. => answers_tktAns
  | .tktRet .. => answers_tktRet
  | .fabProbe .. => answers_fabProbe
  | .identify .. => answers_identify
  | .notReady .. => answers_notReady
  | .assign .. => answers_assign
  | .fabCommit .. => answers_fabCommit
  | .linkEvent .. => answers_linkEvent
  | .rediscover .. => answers_rediscover
  | .probeRetry .. => answers_probeRetry
  | .discoveryTimeout .. => answers_discoveryTimeout
  | .syncFrameTx .. => answers_syncFrameTx
  | .syncFrameRx .. => answers_syncFrameRx
  | .echoMarkerTx .. => answers_echoMarkerTx
  | .echoMarkerRx .. => answers_echoMarkerRx
  | .masterLost .. => answers_masterLost
  | .perturbCtlWrite .. => answers_perturbCtlWrite
  | .perturbEnable .. => answers_perturbEnable
  | .stallPulse .. => answers_stallPulse
  | .jitterDraw .. => answers_jitterDraw
  | .forceEcc1 .. => answers_forceEcc1
  | .forceEcc2 .. => answers_forceEcc2
  | .forceChk .. => answers_forceChk
  | .forceTkt .. => answers_forceTkt
  | .forceDetect .. => answers_forceDetect
  | .forceCancel .. => answers_forceCancel
  | .supplyFault .. => answers_supplyFault
  | .referenceLoss .. => answers_referenceLoss
  | .supplyRecovered .. => answers_supplyRecovered
  | .fdigSample .. => answers_fdigSample
  | .sliceCalibrationDone .. => answers_sliceCalibrationDone
  | .spareCalibrationDone .. => answers_spareCalibrationDone
  | .gptpLost .. => answers_gptpLost
  | .audioPllRelock .. => answers_audioPllRelock
  | .pcieLinkChange .. => answers_pcieLinkChange
  | .hpdRise .. => answers_hpdRise
  | .vddAonRise .. => answers_vddAonRise
  | .vddAonLoss .. => answers_vddAonLoss

end Sys2Proof.Machine
end

section
/-! The statements about a step: the invariant, what only moves forward, and the stores a command leaves alone. -/

namespace Sys2Proof.Machine

theorem State.Sized.with_pending {s : State} {l : List Instr} (h : s.Sized) : State.Sized { s with pending := l } := { h with }

/-- A step idles, or takes the first command and keeps what that command keeps of the state with the rest of the queue. -/
theorem step_keeps {s t : State} (h : step s = .next t) : s.pending = [] ∧ t = s ∨
    ∃ c l, s.pending = c :: l ∧ Keeps (!(stores c).mem) (!(stores c).inner) (!(stores c).fuse) (!(stores c).keys) { s with pending := l } t := by
  unfold step at h
  split at h
  next hp => exact .inl ⟨hp, (Host.Outcome.next.inj h).symm⟩
  next c l hp =>
    obtain ⟨u, hu, hk⟩ := exec_answers c { s with pending := l }
    obtain rfl := Host.Outcome.next.inj (hu.symm.trans h)
    exact .inr ⟨c, l, hp, hk⟩

/-- Settles O4: what every command keeps of the canonical form and the sizes, a step keeps too, for the queue is part of neither. -/
theorem stepKeepsInv : Obligations.StepKeepsInv := by
  rintro s t ⟨hwf, hsized⟩ h
  obtain ⟨_, rfl⟩ | ⟨c, l, _, hk⟩ := step_keeps h
  · exact ⟨hwf, hsized⟩
  · exact ⟨hk.wf hwf, hk.sized hsized.with_pending⟩

/-- Settles O5: the front of the queue is gone before the command runs, and the command itself only moves forward. -/
theorem stepMovesForward : Obligations.StepMovesForward := by
  intro s t h
  obtain ⟨hp, rfl⟩ | ⟨c, l, hp, hk⟩ := step_keeps h
  · exact ⟨by rw [hp]; rfl, Nat.le_refl _, Nat.le_refl _, List.prefix_rfl⟩
  · exact ⟨by rw [hk.pending, hp]; rfl, hk.base, hk.free, hk.out⟩

/-- Settles O6: the stores a command is not listed for are among what it keeps. -/
theorem commandsStoreOnlyWhat : Obligations.CommandsStoreOnlyWhat := by
  intro i s t h
  obtain ⟨u, hu, hk⟩ := exec_answers i s
  obtain rfl := Host.Outcome.next.inj (hu.symm.trans h)
  refine ⟨fun e a => ?_, fun e a => ?_, fun e => hk.fuse (by rw [e]; rfl), fun e => hk.keys (by rw [e]; rfl)⟩
  · exact congrArg (sget memDefault · a) (hk.mem (by rw [e]; rfl))
  · exact congrArg (sget memDefault · a) (hk.inner (by rw [e]; rfl))

/-- Settles O3: no command answers anything but a next state. -/
theorem everyCommandAnswers : Obligations.EveryCommandAnswers := fun i s =>
  let ⟨t, ht, _⟩ := exec_answers i s
  ⟨t, ht⟩

/-- Settles O1: the step of a queue is by definition the command at its front. -/
theorem stepRunsFront : Obligations.StepRunsFront := by
  refine ⟨fun _ _ _ => step_cons, fun s h => ?_⟩
  unfold step
  rw [h]

/-! ## The reset state -/

theorem findRow_eq_none {l : List RegRow} {off : Nat} (h : ∀ r ∈ l, off < r.off) : findRow l off = none := by
  induction l with
  | nil => rfl
  | cons r l ih =>
    have hr := h r List.mem_cons_self
    rw [findRow, if_neg fun q => absurd q.1 (by omega)]
    exact ih fun x hx => h x (List.mem_cons_of_mem _ hx)

/-- The registers of a block begin behind the lock of its page (R72). -/
theorem pageLock_lt_of_mem_pageRows {c i : Nat} : ∀ r ∈ pageRows c i, Hdr.PAGE_LOCK < r.off := by
  have window : ∀ r ∈ rowsWINDOW, Hdr.PAGE_LOCK < r.off := by decide
  have block : ∀ r ∈ blockRows c i, Hdr.PAGE_LOCK < r.off := by
    unfold blockRows
    repeat' split
    all_goals decide
  intro r hr
  unfold pageRows at hr
  split at hr
  · exact block r hr
  · exact (List.mem_append.mp hr).elim (block r) (window r)

/-- Every page comes out of reset unlocked (R51). -/
theorem resetVal_pageLock {c i : Nat} : resetVal (pageAddr c i + Hdr.PAGE_LOCK) = 0 := by
  have off : regOff (pageAddr c i + Hdr.PAGE_LOCK) = Hdr.PAGE_LOCK := by
    unfold regOff pageAddr Hdr.PAGE_LOCK
    omega
  unfold resetVal
  rw [off]
  unfold pageReset
  rw [findRow_eq_none pageLock_lt_of_mem_pageRows]
  simp

theorem State.reset_sized : State.reset.Sized := by
  constructor <;> decide

/-- Settles O2: each part is read off the reset state, where no register is listed and so every one holds its Reset value. -/
theorem resetState : Obligations.ResetState := by
  refine ⟨⟨rfl, State.reset_sized⟩, rfl, rfl, rfl, rfl, by decide, fun c i _ _ => ?_⟩
  have h : State.reset.rd (pageAddr c i + Hdr.PAGE_LOCK) = 0 := congrArg (fun v => (BitVec.ofNat 32 v).toNat) resetVal_pageLock
  unfold State.bit State.getF
  rw [h]
  decide

end Sys2Proof.Machine
end

section
/-! The statements of the register pages' headers: the owner of a page and the writes of its registers (spec/02_register_pages.md). -/

namespace Sys2Proof.Machine

/-! ## WORLD of a page (R50, R53, R54) -/

section World
variable {s : State} {req : Requester} {page a b v cause hi lo : Nat} {heart : Bool}

theorem State.rd_pageErr_ne {off : Nat} (hc : page + Hdr.ERR_CNT ≠ b) (hi : page + Hdr.ERR_INFO ≠ b) :
    (s.pageErr page off cause heart).rd b = s.rd b := by
  unfold State.pageErr
  rw [State.rd_wr_ne hi]
  exact State.rd_putF_ne hc

theorem State.cause_pageErr {off : Nat} (h : cause < 256) :
    (s.pageErr page off cause heart).getF (page + Hdr.ERR_INFO) 7 0 = cause := by
  unfold State.pageErr State.getF
  rw [State.rd_wr_same]
  unfold fld
  omega

/-- The page of a register of the header, from the register's address. -/
theorem pageAddr_of_header {code inst off : Nat} (h : off < 0x1000) :
    pageAddr code inst + off - (pageAddr code inst + off) % 0x1000 = pageAddr code inst := by
  unfold pageAddr
  omega

theorem regOff_header {code inst off : Nat} (h : off < 0x1000) : regOff (pageAddr code inst + off) = off := by
  unfold regOff pageAddr
  omega

theorem sget_filter {α : Type} {d : Nat → α} {q : Nat × α → Bool} {m : List (Nat × α)} (h : ∀ x, q (a, x) = true) :
    sget d (m.filter q) a = sget d m a := by
  induction m with
  | nil => rfl
  | cons e m ih =>
    obtain ⟨k, x⟩ := e
    by_cases hk : k = a
    · subst hk
      rw [List.filter_cons_of_pos (h x)]
      simp [sget]
    · by_cases hq : q (k, x) = true
      · simp [List.filter_cons_of_pos hq, sget, hk, ih]
      · simp [List.filter_cons_of_neg hq, sget, hk, ih]

theorem State.rd_ite {c : Prop} [Decidable c] {x y : State} {n : Nat} (hx : x.rd b = n) (hy : y.rd b = n) : (if c then x else y).rd b = n := by
  split <;> assumption

/-- The count of active windows writes STAT, IRQ_RAW and IRQ_PEND of PERTURB_00 alone. -/
theorem State.rd_countActive_ne (hstat : pageAddr Blk.PERTURB 0 + Hdr.STAT ≠ b) (hraw : pageAddr Blk.PERTURB 0 + Hdr.IRQ_RAW ≠ b)
    (hpend : pageAddr Blk.PERTURB 0 + Hdr.IRQ_PEND ≠ b) : s.countActive.rd b = s.rd b := by
  have counted : ∀ n, ((s.putF (pageAddr Blk.PERTURB 0 + Hdr.STAT) 31 16 n).lvl (pageAddr Blk.PERTURB 0) 0 (decide (n ≠ 0))).rd b = s.rd b :=
    fun n => by rw [State.rd_lvl_ne hraw hpend, State.rd_putF_ne hstat]
  unfold State.countActive
  exact State.rd_ite (counted _) (counted _)

/-- Windows that close leave a register of the header as it is, but for STAT, IRQ_RAW and IRQ_PEND. -/
theorem State.rd_closeWindows_of_header {closed : Nat → Bool} (hoff : regOff b < 0xF00) (hstat : regOff b ≠ Hdr.STAT)
    (hraw : regOff b ≠ Hdr.IRQ_RAW) (hpend : regOff b ≠ Hdr.IRQ_PEND) (hang : Reg.ANGLE_STAT ≠ b) :
    (s.closeWindows closed).rd b = s.rd b := by
  have apart : ∀ a, regOff a ≠ regOff b → a ≠ b := fun a h e => h (congrArg regOff e)
  unfold State.closeWindows State.windowSync
  extract_lets u u1 u2
  rw [State.rd_countActive_ne (apart _ (Ne.symm hstat)) (apart _ (Ne.symm hraw)) (apart _ (Ne.symm hpend))]
  have h2 : u2.rd b = u1.rd b := State.rd_ite (State.rd_putBit_ne hang) rfl
  have h1 : u1.rd b = u.rd b := State.rd_putBit_ne (apart _ (by rw [show regOff (Reg.PT_STAT (pageAddr Blk.ANGLE 0)) = 0xF30 by decide]; omega))
  have h0 : u.rd b = s.rd b := congrArg BitVec.toNat (sget_filter fun x => by simp [inWindow, hoff])
  rw [h2, h1, h0]

theorem State.rd_respOk {l : List Byte} : (s.respOk l).rd b = s.rd b := rfl

theorem State.getF_respOk {l : List Byte} : (s.respOk l).getF b hi lo = s.getF b hi lo := rfl

theorem State.bit_respOk {l : List Byte} {k : Nat} : (s.respOk l).bit b k = s.bit b k := rfl

theorem State.rd_camDiscard {p : Nat} : (s.camDiscard p).rd b = s.rd b := rfl

/-- A heartwood write of a page that is neither locked nor fixed takes OWNER and SAP_READ (R53, R54). -/
theorem State.getF_writeWorld {code inst : Nat} (hlock : s.bit (pageAddr code inst + Hdr.PAGE_LOCK) 0 = false) (hworld : s.world req = true)
    (hfix : s.bit (pageAddr code inst + Hdr.WORLD) 31 = false) :
    (s.writeWorld req (pageAddr code inst) v).getF (pageAddr code inst + Hdr.WORLD) 1 0 = v % 4 := by
  have off := regOff_header (code := code) (inst := inst) (off := Hdr.WORLD) (by decide)
  have hang : Reg.ANGLE_STAT ≠ pageAddr code inst + Hdr.WORLD := fun e => absurd (off.symm.trans (congrArg regOff e).symm) (by decide)
  unfold State.writeWorld
  extract_lets a changed u u1 u2
  rw [if_neg (by simp [hlock]), if_neg (by simp [a, hworld, hfix])]
  have h0 : u.getF (pageAddr code inst + Hdr.WORLD) 1 0 = v % 4 := State.getF_putF (by decide) (by decide)
  have h1 : u1.rd (pageAddr code inst + Hdr.WORLD) = u.rd (pageAddr code inst + Hdr.WORLD) := State.rd_ite State.rd_camDiscard rfl
  have h2 : u2.rd (pageAddr code inst + Hdr.WORLD) = u1.rd (pageAddr code inst + Hdr.WORLD) := State.rd_ite rfl rfl
  have h3 : (((u2.wr (pageAddr code inst + Hdr.IRQ_EN) 0).wr (pageAddr code inst + Hdr.IRQ_PEND) 0).closeWindows
      fun p => p == pageAddr code inst).rd (pageAddr code inst + Hdr.WORLD) = u2.rd (pageAddr code inst + Hdr.WORLD) := by
    rw [State.rd_closeWindows_of_header (by rw [off]; decide) (by rw [off]; decide) (by rw [off]; decide) (by rw [off]; decide) hang,
      State.rd_wr_ne (by simp), State.rd_wr_ne (by simp)]
  exact (congrArg (fld · 1 0) (State.rd_ite (h3.trans (h2.trans h1)) (h2.trans h1))).trans h0

/-- A refused write of WORLD is one error of its page. -/
theorem State.quiet_header {code inst off : Nat} (h : off < 0x1000) : s.quiet req (pageAddr code inst + off) cause =
    (s.pageErr (pageAddr code inst) ((pageAddr code inst + off) % 0x1000) cause (s.world req)).respOk [] := by
  unfold State.quiet
  rw [pageAddr_of_header h]

/-- A write that would change OWNER or SAP_READ of a locked page sets VIOL and is one error of the page (R50). -/
theorem State.writeWorld_of_locked {code inst : Nat} (hlock : s.bit (pageAddr code inst + Hdr.PAGE_LOCK) 0 = true)
    (h : s.getF (pageAddr code inst + Hdr.WORLD) 1 0 ≠ v % 4) : s.writeWorld req (pageAddr code inst) v =
      (s.putBit (pageAddr code inst + Hdr.PAGE_LOCK) 1 true).quiet req (pageAddr code inst + Hdr.WORLD) Cause.LOCKED := by
  unfold State.writeWorld
  rw [if_pos hlock, if_neg h]

theorem State.writeWorld_of_same {code inst : Nat} (hlock : s.bit (pageAddr code inst + Hdr.PAGE_LOCK) 0 = true)
    (h : s.getF (pageAddr code inst + Hdr.WORLD) 1 0 = v % 4) : s.writeWorld req (pageAddr code inst) v = s := by
  unfold State.writeWorld
  rw [if_pos hlock, if_pos h]

/-- A sapwood write, and one of a fixed page, is one error of the page (R53). -/
theorem State.writeWorld_of_refused {code inst : Nat} (hlock : s.bit (pageAddr code inst + Hdr.PAGE_LOCK) 0 = false)
    (h : s.world req = false ∨ s.bit (pageAddr code inst + Hdr.WORLD) 31 = true) : s.writeWorld req (pageAddr code inst) v =
      s.quiet req (pageAddr code inst + Hdr.WORLD) Cause.WORLD := by
  unfold State.writeWorld
  rw [if_neg (by simp [hlock]), if_pos (by simpa using h)]

end World

theorem exec_worldWrite_go {s : State} {req : Requester} {code inst value : Nat}
    (go : s.verdict req (pageAddr code inst + Hdr.WORLD) 4 true = .go) :
    exec (.worldWrite req code inst value) s = .next ((s.respOk []).writeWorld req (pageAddr code inst) value) :=
  congrArg Host.Outcome.next (State.checkedWrite_go (f := fun t => t.writeWorld req (pageAddr code inst) value) go)

/-- The response is no part of what a world's write of WORLD looks at. -/
theorem State.world_respOk {s : State} {req : Requester} {l : List Byte} : (s.respOk l).world req = s.world req := by
  cases req <;> rfl

/-- What a refused write of WORLD leaves of the registers (R50, R53): one error of the page, and VIOL where the lock refused it. -/
theorem State.regs_worldRefused {s t : State} {req : Requester} {code inst cause : Nat} {viol : Bool} (hcause : cause < 256)
    (ht : t = if viol then s.putBit (pageAddr code inst + Hdr.PAGE_LOCK) 1 true else s) :
    let u := t.quiet req (pageAddr code inst + Hdr.WORLD) cause
    u.getF (pageAddr code inst + Hdr.ERR_CNT) 15 0 = min (s.getF (pageAddr code inst + Hdr.ERR_CNT) 15 0 + 1) 0xFFFF ∧
      u.getF (pageAddr code inst + Hdr.ERR_INFO) 7 0 = cause ∧
      (viol = true → u.bit (pageAddr code inst + Hdr.PAGE_LOCK) 1 = true) ∧
      ∀ a, a ≠ pageAddr code inst + Hdr.PAGE_LOCK → a ≠ pageAddr code inst + Hdr.ERR_CNT → a ≠ pageAddr code inst + Hdr.ERR_INFO →
        u.rd a = s.rd a := by
  have other : ∀ a, a ≠ pageAddr code inst + Hdr.PAGE_LOCK → t.rd a = s.rd a := fun a ha => by
    subst ht
    cases viol
    · rfl
    · exact State.rd_putBit_ne ha.symm
  intro u
  have hu : u = _ := State.quiet_header (by decide)
  clear_value u
  subst hu
  refine ⟨?_, State.cause_pageErr hcause, fun hv => ?_, fun a hl hc hi => (State.rd_pageErr_ne hc.symm hi.symm).trans (other a hl)⟩
  · refine State.getF_pageErr_count.trans ?_
    unfold State.getF
    rw [other _ (by simp)]
  · subst ht hv
    rw [State.bit_eq_testBit, State.rd_respOk, State.rd_pageErr_ne (by simp) (by simp), ← State.bit_eq_testBit]
    exact State.bit_putBit (by decide)

/-- Settles O7: the lock is looked at first, then the writer's world and FIXED; a refusal is one error of the page. -/
theorem worldOwner : Obligations.WorldOwner := by
  intro s req code inst value go
  rw [exec_worldWrite_go go]
  have hlocked := State.bit_respOk (s := s) (b := pageAddr code inst + Hdr.PAGE_LOCK) (k := 0) (l := [])
  have hfixed := State.bit_respOk (s := s) (b := pageAddr code inst + Hdr.WORLD) (k := 31) (l := [])
  have hheld := State.getF_respOk (s := s) (b := pageAddr code inst + Hdr.WORLD) (hi := 1) (lo := 0) (l := [])
  have hworld := State.world_respOk (s := s) (req := req) (l := [])
  split
  next same => rw [State.writeWorld_of_same (hlocked.trans same.1) (hheld.trans same.2)]
  next other =>
    refine ⟨_, rfl, ?_⟩
    by_cases hlock : s.bit (pageAddr code inst + Hdr.PAGE_LOCK) 0 = true
    · rw [if_pos (.inl hlock), if_pos hlock, State.writeWorld_of_locked (hlocked.trans hlock) fun e => other ⟨hlock, hheld.symm.trans e⟩]
      obtain ⟨hcnt, hcause, hviol, hrest⟩ := State.regs_worldRefused (s := s.respOk []) (req := req) (viol := true)
        (cause := Cause.LOCKED) (by decide) rfl
      exact ⟨hcnt, hcause, fun _ => hviol rfl, hrest⟩
    · by_cases hw : s.world req = false ∨ s.bit (pageAddr code inst + Hdr.WORLD) 31 = true
      · rw [if_pos (.inr hw), if_neg hlock, State.writeWorld_of_refused (hlocked.trans (Bool.not_eq_true _ ▸ hlock)) (by rwa [hworld, hfixed])]
        obtain ⟨hcnt, hcause, _, hrest⟩ := State.regs_worldRefused (s := s.respOk []) (req := req) (viol := false)
          (cause := Cause.WORLD) (by decide) rfl
        exact ⟨hcnt, hcause, fun h => absurd h hlock, hrest⟩
      · rw [if_neg (not_or.mpr ⟨hlock, hw⟩)]
        rw [not_or, Bool.not_eq_false, Bool.not_eq_true] at hw
        rw [Bool.not_eq_true] at hlock
        exact State.getF_writeWorld (hlocked.trans hlock) (hworld.trans hw.1) (hfixed.trans hw.2)

/-! ## Writes and reads of page headers -/

/-- After Stage A entry the perturbation windows are open on an unowned page of PERTURB, with the jitter of ANGLE_00 enabled. -/
def jitterOpen : State :=
  (((State.reset.wr Reg.RST_STAGE 1).wr (pageAddr Blk.PERTURB 0 + Hdr.WORLD) 0).wr (Reg.PT_CTL (pageAddr Blk.ANGLE 0)) 1).wr
    (Reg.PT_JIT (pageAddr Blk.ANGLE 0)) 1

/-- The owner write on that page closes windows, and what is then counted raises the interrupt of the page again. -/
theorem irqPend_jitterOpen : ((jitterOpen.respOk []).writeWorld (.island 0) (pageAddr Blk.PERTURB 0) 1).rd
    (pageAddr Blk.PERTURB 0 + Hdr.IRQ_PEND) = 1 := by
  decide

/-- Refutes O14: where PERTURB_00 changes its owner while the window of ANGLE_00 is in effect, IRQ_PEND is cleared and the count of the
windows in effect sets its bit 0 again. -/
theorem not_pageCommands : ¬ Obligations.PageCommands := by
  intro h
  obtain ⟨-, world, -⟩ := h jitterOpen
  obtain ⟨v, hv, -, hclear⟩ := world (.island 0) Blk.PERTURB 0 1 (by decide) (by decide) (by decide) (by decide)
  obtain ⟨-, hpend⟩ := hclear (by decide)
  rw [exec_worldWrite_go (by decide)] at hv
  rw [← Host.Outcome.next.inj hv, irqPend_jitterOpen] at hpend
  exact absurd hpend (by decide)

end Sys2Proof.Machine
end

section
/-! What helps every statement about single commands: the loops over instances. -/

namespace Sys2Proof.Machine

/-- What every pass of a loop leaves alone, the loop leaves alone. -/
theorem State.each_eq {α β : Type} {l : List α} {f : State → α → State} {p : State → β} (h : ∀ u x, p (f u x) = p u) {s : State} :
    p (s.each l f) = p s := by
  unfold State.each
  induction l generalizing s with
  | nil => rfl
  | cons x l ih => exact ih.trans (h s x)

/-! ## What turns on a register alone -/

theorem State.getF_congr {s t : State} {a hi lo : Nat} (h : t.rd a = s.rd a) : t.getF a hi lo = s.getF a hi lo :=
  congrArg (fld · hi lo) h

theorem State.bit_congr {s t : State} {a k : Nat} (h : t.rd a = s.rd a) : t.bit a k = s.bit a k :=
  congrArg (· == 1) (State.getF_congr h)

theorem State.rd_emit {s : State} {o : Out} {a : Nat} : (s.emit o).rd a = s.rd a := rfl

/-! ## The functions of the device (R117) -/

section Functions
variable {s : State} {b k : Nat}

theorem regCode_ne {a b : Nat} (h : regCode a ≠ regCode b) : a ≠ b := fun e => h (congrArg regCode e)

theorem State.rd_reach_ne {n reg irq : Nat} (hreg : regCode reg = Blk.RST) (hb : regCode b ≠ Blk.RST) :
    (s.reach n reg irq).rd b = s.rd b := by
  have hpend : pageAddr Blk.RST 0 + Hdr.IRQ_PEND ≠ b := regCode_ne (Ne.symm hb)
  have htime : reg ≠ b := regCode_ne fun e => hb (e.symm.trans hreg)
  unfold State.reach
  rw [State.rd_evt_ne hpend, State.rd_wr_ne htime, State.rd_putBit_ne (regCode_ne (Ne.symm hb))]

theorem State.rd_readyA_ne (hb : regCode b ≠ Blk.RST) : s.readyA.rd b = s.rd b :=
  State.rd_ite (State.rd_reach_ne rfl hb) rfl

theorem State.rd_readyB_ne (hb : regCode b ≠ Blk.RST) : s.readyB.rd b = s.rd b :=
  State.rd_ite (State.rd_reach_ne rfl hb) rfl

/-- A function that comes or goes writes registers of SYS and RST alone. -/
theorem State.rd_funcReady_ne (hsys : regCode b ≠ Blk.SYS) (hrst : regCode b ≠ Blk.RST) : (s.funcReady k).rd b = s.rd b := by
  unfold State.funcReady
  rw [State.rd_readyB_ne hrst, State.rd_readyA_ne hrst, State.rd_putBit_ne (regCode_ne (Ne.symm hsys))]

theorem State.rd_funcLost_ne (hsys : regCode b ≠ Blk.SYS) : (s.funcLost k).rd b = s.rd b := by
  have apart : ∀ {a}, regCode a = Blk.SYS → a ≠ b := fun h => regCode_ne fun e => hsys (e.symm.trans h)
  have lost : ((((s.putBit Reg.SYS_FUNC_READY k false).putBit Reg.SYS_FUNC_LOST k true).lvl (pageAddr Blk.SYS 0) 0 true)).rd b = s.rd b := by
    rw [State.rd_lvl_ne (apart rfl) (apart rfl), State.rd_putBit_ne (apart rfl), State.rd_putBit_ne (apart rfl)]
  exact State.rd_ite (State.rd_ite lost lost) rfl

theorem State.rd_funcSet_ne {x : Bool} (hsys : regCode b ≠ Blk.SYS) (hrst : regCode b ≠ Blk.RST) : (s.funcSet k x).rd b = s.rd b :=
  State.rd_ite (State.rd_funcReady_ne hsys hrst) (State.rd_funcLost_ne hsys)

end Functions

/-! ## Registers of pages -/

/-- Registers at different places of their pages are different. -/
theorem reg_ne_of_off {c c' i i' off off' : Nat} (h : off < 0x1000) (h' : off' < 0x1000) (hne : off ≠ off') :
    pageAddr c i + off ≠ pageAddr c' i' + off' := fun e => hne (by unfold pageAddr at e; omega)

/-! ## The commands of a core (R289, R303) -/

section Commands
variable {s w : State} {c t unit off cmd code : Nat} {env : CoreEnv} {o : OnCore} {is : Nat → Bool} {sync : Bool}
  {eff : OnCore → Nat → State → Got Bool × State}

/-- A command whose effect stands without its issue leaves what the effect left. -/
theorem State.coreCmd_unissued {eff : Effect} (h : s.nextIssue c t unit env = some (o, off, cmd, w)) (hi : is cmd = true)
    (he : (eff o off cmd w).1 = .ok false) : s.coreCmd c t unit env is eff = (eff o off cmd w).2 := by
  obtain ⟨o₀, r, h₀, h₁, h₂, ⟨htoken, hbank⟩, h₄, h₅, h₆, h₇⟩ := State.nextIssue_some h
  subst h₅
  unfold State.coreCmd
  simp only [h₀, h₁, h₂, h₄, hi, htoken, hbank, Bool.not_true, Bool.or_self, Bool.false_eq_true, if_false, h₆, h₇, he]

/-- At the rank's own offset, and with no transfer open where it waits for them, a command of the command unit takes its effect. -/
theorem ctrl_turn (hoff : off = o.rank.off) (hsync : sync = false ∨ o.rank.xfers.isEmpty = true) :
    ¬ (off ≠ o.rank.off ∨ (sync = true ∧ (!o.rank.xfers.isEmpty) = true)) := by
  obtain rfl | hempty := hsync
  · simp [hoff]
  · simp [hoff, hempty]

theorem State.ctrlCmd_next (h : s.nextIssue c t 0 env = some (o, off, cmd, w)) (hi : is cmd = true) (hoff : off = o.rank.off)
    (hsync : sync = false ∨ o.rank.xfers.isEmpty = true) (he : (eff o cmd w).1 = .ok true) :
    s.ctrlCmd c t env is sync eff = ((eff o cmd w).2.setRank o.job.id o.k fun r => r.issue off).coreSync c := by
  have hturn := ctrl_turn hoff hsync
  unfold State.ctrlCmd
  rw [State.coreCmd_next h hi (by rw [if_neg hturn, he]), if_neg hturn]

theorem State.ctrlCmd_fault (h : s.nextIssue c t 0 env = some (o, off, cmd, w)) (hi : is cmd = true) (hoff : off = o.rank.off)
    (hsync : sync = false ∨ o.rank.xfers.isEmpty = true) (he : (eff o cmd w).1 = .fault code) :
    s.ctrlCmd c t env is sync eff = (eff o cmd w).2.coreFault o off code := by
  have hturn := ctrl_turn hoff hsync
  unfold State.ctrlCmd
  rw [State.coreCmd_fault h hi (by rw [if_neg hturn, he]), if_neg hturn]

end Commands

end Sys2Proof.Machine
end

section
/-! The statement of accesses to memory and of the requests that wait (spec/02, 09, 10). -/

namespace Sys2Proof.Machine

/-- An access that nothing goes before, and that its target answers without an error, ends in a response with the bytes of the answer. -/
theorem State.resp_memAccess {s : State} {a : Access} {cacheable : Bool} {env : MemEnv} {d : List Byte} (hwait : s.mustWait a = false)
    (hok : (s.carry a a.isLocal cacheable env).1 = .ok d) :
    (s.memAccess a cacheable env).resp.data = d ∧ (s.memAccess a cacheable env).resp.err = false := by
  unfold State.memAccess
  rw [if_neg (by simp [hwait])]
  extract_lets r
  rw [hok]
  exact ⟨rfl, rfl⟩

/-- Settles O15: a request either has something before it or goes to its target, whose answer is what its response carries. -/
theorem memoryAccesses : Obligations.MemoryAccesses := by
  intro s
  refine ⟨?_, ?_, ?_, ?_, ?_, ?_⟩
  · intro req addr len write fetch data cacheable tkt env
    rfl
  · intro req addr len write fetch data cacheable tkt env d haccess hok
    exact ⟨_, rfl, State.resp_memAccess haccess hok⟩
  · intro req addr data tkt env k hc hklt
    refine congrArg Host.Outcome.next ?_
    rw [hc]; exact if_pos (by simp [hklt])
  · intro req addr data tkt env k d hc hklt hlength hok
    refine ⟨_, congrArg Host.Outcome.next ?_, State.resp_memAccess hlength hok⟩
    rw [hc]
    exact if_pos hklt
  · intro k env a cacheable back since hc haccess h1
    refine congrArg Host.Outcome.next ?_
    simp only [hc, haccess, h1]; rfl
  · intro k env o a off len back hc₁ hticket hc₂
    refine congrArg Host.Outcome.next ?_
    simp only [hc₁, hticket, hc₂]; rfl

end Sys2Proof.Machine
end

section
/-! The statement of the events of the angle sources (spec/03). -/

namespace Sys2Proof.Machine

/-- A speed message that is too old makes the speed source lost (R92). -/
theorem State.msgExpire_of_old {s : State} {t t₁ n : Nat} {l : List (Nat × Nat)} (hmsgs : s.ang.msgs = (t₁, n) :: l)
    (hok : s.ang.spdOk = true) (hold : 400000 * s.getF Reg.ANGLE_SPD_CFG 15 0 < t - t₁) :
    s.msgExpire t = (({ s with ang := { s.ang with spdOk := false } }.loseSrc 6 t 0).motionCheck) := by
  unfold State.msgExpire
  rw [hmsgs]
  exact if_pos (by simp [hok, hold])

/-- Settles O16: each event is the taken branch of its rule; a speed message is too old by the one rule of its list. -/
theorem angleSourceEvents : Obligations.AngleSourceEvents := by
  intro s
  refine ⟨?_, ?_, ?_, ?_, ?_, ?_, ?_, ?_⟩
  · intro i rising pulse t hilt htrack hsrcon hgetf
    exact congrArg Host.Outcome.next (if_neg (by simp [hilt, htrack, hsrcon, hgetf]))
  · intro i rising pulse t hilt htrack hsrcon hc
    exact congrArg Host.Outcome.next (if_pos (by simp [htrack, hsrcon, hc]))
  · intro i t r hilt htrack hsrcon hgetf₁ hrise hrev hgetf₂
    refine congrArg Host.Outcome.next ?_
    simp only [hilt, htrack, hsrcon, hgetf₁, hrise, hrev, hgetf₂]; rfl
  · intro m up z t hmlt htrack hc
    exact congrArg Host.Outcome.next (if_pos ⟨hmlt, htrack, hc⟩)
  · intro m word t hmlt htrack hc
    exact congrArg Host.Outcome.next (if_pos ⟨hmlt, htrack, hc⟩)
  · intro i t hilt htrack hsrcon hsrcstate hsilentdue
    exact congrArg Host.Outcome.next (if_pos ⟨hilt, htrack, hsrcon, hsrcstate, hsilentdue⟩)
  · intro t t1 n l hmsgs htrack hspdok hc
    exact congrArg Host.Outcome.next ((if_pos htrack).trans (congrArg State.publish (State.msgExpire_of_old hmsgs hspdok hc)))
  · intro d t hdlt hcasc_stat hacquiring heffq hc hdue
    exact congrArg Host.Outcome.next (if_pos (by simp [hdlt, hcasc_stat, hacquiring, heffq, hc, hdue]))

end Sys2Proof.Machine
end

section
/-! The statement of the angle bus and the writes of the angle clock (spec/03, 21, 24). -/

namespace Sys2Proof.Machine

/-! ## What the bus update leaves alone -/

/-- The clocks, and TIME_HI as it is latched. -/
def State.times (s : State) : Clock × Nat := (s.clk, s.ang.timeHi)

section Times
variable {s : State} {a v hi lo k n d t : Nat}

theorem State.times_of_eq {u : State} (hclk : u.clk = s.clk) (hang : u.ang.timeHi = s.ang.timeHi) : u.times = s.times :=
  Prod.ext hclk hang

@[simp] theorem State.times_wr : (s.wr a v).times = s.times := rfl

@[simp] theorem State.times_wrS {x : Int} : (s.wrS a x).times = s.times := rfl

@[simp] theorem State.times_putF : (s.putF a hi lo v).times = s.times := rfl

@[simp] theorem State.times_putBit {b : Bool} : (s.putBit a k b).times = s.times := rfl

@[simp] theorem State.times_evt {p : Nat} : (s.evt p k).times = s.times := rfl

@[simp] theorem State.times_setDom {f : AngDom → AngDom} : (s.setDom d f).times = s.times := rfl

@[simp] theorem State.times_addSat : (s.addSat a hi lo n).times = s.times := rfl

@[simp] theorem State.times_incSat : (s.incSat a hi lo).times = s.times := rfl

theorem State.times_ite {c : Prop} [Decidable c] {x y : State} {m : Clock × Nat} (hx : x.times = m) (hy : y.times = m) :
    (if c then x else y).times = m := by
  split <;> assumption

theorem State.times_each {α : Type} {l : List α} {f : State → α → State} (h : ∀ u x, (f u x).times = u.times) :
    (s.each l f).times = s.times := by
  unfold State.each
  induction l generalizing s with
  | nil => rfl
  | cons x l ih => exact ih.trans (h s x)

@[simp] theorem State.times_angLog {type from' to' fq tq info : Nat} : (s.angLog t type d from' to' fq tq info).times = s.times := by
  unfold State.angLog
  split
  · rfl
  · rfl

@[simp] theorem State.times_lvl {p : Nat} {b : Bool} : (s.lvl p k b).times = s.times := State.times_ite rfl rfl

@[simp] theorem State.times_readyA : s.readyA.times = s.times := State.times_ite rfl rfl

@[simp] theorem State.times_readyB : s.readyB.times = s.times := State.times_ite rfl rfl

@[simp] theorem State.times_funcReady : (s.funcReady k).times = s.times := by simp [State.funcReady]

@[simp] theorem State.times_funcLost : (s.funcLost k).times = s.times :=
  State.times_ite (State.times_ite State.times_lvl State.times_lvl) rfl

@[simp] theorem State.times_funcSet {b : Bool} : (s.funcSet k b).times = s.times :=
  State.times_ite State.times_funcReady State.times_funcLost

@[simp] theorem State.times_holdExp {b : Bool} : (s.holdExp d b).times = s.times := State.times_lvl

@[simp] theorem State.times_setQ {q : Nat} : (s.setQ d q).times = s.times :=
  State.times_ite State.times_funcSet (State.times_holdExp.trans State.times_funcSet)

/-- The published angle moves, and with it the state of the domain. -/
@[simp] theorem State.times_domRun : (s.domRun d t).times = s.times := by
  unfold State.domRun
  refine State.times_ite rfl ?_
  extract_lets base u i
  split
  · exact State.times_ite rfl rfl
  · extract_lets f cand fh f' v
    have h : u.times = s.times := State.times_ite rfl (State.times_angLog.trans State.times_putBit)
    refine State.times_ite (State.times_setDom.trans h) (State.times_ite (State.times_ite ?_ ?_) State.times_setDom)
    · simp [v]
    · simp [v]

@[simp] theorem State.times_showAt : (s.showAt d t).times = s.times := by
  simp [State.showAt, State.omegaSeen]

@[simp] theorem State.times_domShow : (s.domShow d t).times = s.times := State.times_ite State.times_showAt rfl

theorem State.times_trigAlarm {c x ang : Nat} : (s.trigAlarm c x ang).times = s.times :=
  State.times_ite (State.times_ite rfl rfl) rfl

theorem State.times_ringSync {i : Nat} : (s.ringSync i).times = s.times := State.times_lvl

theorem State.times_addCredit {i : Nat} : (s.addCredit i).times = s.times :=
  State.times_ite rfl (State.times_ite State.times_ringSync rfl)

theorem State.times_extDoorbell {i : Nat} : (s.extDoorbell i).times = s.times :=
  State.times_ite rfl (State.times_ite rfl State.times_addCredit)

theorem State.times_alarmActs : (s.alarmActs n v).times = s.times := by
  unfold State.alarmActs
  extract_lets c u u1 u2
  have h : u.times = s.times := State.times_ite State.times_trigAlarm rfl
  have h1 : u1.times = s.times := State.times_ite (State.times_extDoorbell.trans h) h
  have h2 : u2.times = s.times := State.times_ite h1 h1
  exact State.times_ite h2 h2

theorem State.times_alarmAdvance : (s.alarmAdvance n v).times = s.times :=
  State.times_ite (State.times_addSat.trans State.times_wr) State.times_putBit

/-- An alarm that is due acts, and no act of it moves a clock. -/
theorem State.times_alarmUpdate {old : List Int} : (s.alarmUpdate old n).times = s.times := by
  unfold State.alarmUpdate
  extract_lets c d now v x late l u u1 u2
  have h : u.times = s.times := rfl
  refine State.times_ite (State.times_ite (State.times_alarmAdvance.trans (State.times_incSat.trans h)) ?_) rfl
  have h1 : u1.times = s.times := (State.times_putBit.trans State.times_wr).trans h
  have h2 : u2.times = s.times := State.times_ite (State.times_putBit.trans h1) h1
  exact State.times_alarmAdvance.trans (State.times_alarmActs.trans h2)

end Times

/-- The bus update latches TIME_HI once the domains are shown, and moves no clock. -/
theorem exec_angleBusUpdate_times {s : State} {t : Nat} (h : (s.tickTo t).aEntry = true) :
    ∃ v, exec (.angleBusUpdate t) s = .next v ∧ v.times = ((s.tickTo t).clk, (s.tickTo t).timeHi) := by
  refine ⟨_, congrArg Host.Outcome.next (if_pos h), ?_⟩
  extract_lets old u a1 u1 u2 a3 u3 u4
  have hshown : u.clk = (s.tickTo t).clk :=
    congrArg Prod.fst (State.times_each (s := s.tickTo t) (l := List.range 3) (f := fun s d => s.domShow d s.clk.base) fun _ _ => State.times_domShow)
  have hlatched : u1.times = ((s.tickTo t).clk, (s.tickTo t).timeHi) := by
    show (u.clk, u.clk.time / 2000000000 % 2 ^ 64 / 2 ^ 32) = _
    rw [hshown]
    rfl
  have haged : u2.times = u1.times := by
    show State.times (match u1.ang.msgs with | (tm, _) :: _ => _ | [] => _) = _
    split <;> rfl
  have hseen : u4.times = u3.times := State.times_each fun _ _ => rfl
  calc _ = u4.times := State.times_each fun _ _ => State.times_alarmUpdate
    _ = u2.times := hseen
    _ = _ := haged.trans hlatched

/-! ## The writes of the angle clock -/

/-- An alarm whose EN is left at 0 is no longer late. -/
theorem State.not_late_writeAlarm {s : State} {req : Requester} {n v : Nat}
    (hoff : (s.regStore req (Reg.ANGLE_ALM_CFG n) v).bit (Reg.ANGLE_ALM_CFG n) 0 = false) : n ∉ (s.writeAlarm req n v).ang.late := by
  unfold State.writeAlarm
  extract_lets was u on
  rw [if_pos (by simp [on, u, hoff])]
  simp

/-- A prediction that is asked for gives PRED_NS the predicted time. -/
theorem State.rd_writePredCtl {s : State} {req : Requester} {v : Nat} (hgo : v.testBit 31 = true) (hdom : v % 4 ≠ 3) :
    (s.writePredCtl req v).rd Reg.ANGLE_PRED_NS = s.predictNs (v % 4) (s.rd Reg.ANGLE_PRED_TARGET) % 2 ^ 32 := by
  unfold State.writePredCtl
  rw [if_pos hgo, if_neg hdom, State.rd_wr_same]

theorem State.log_popAngLog {s : State} {v : Nat} (h : v.testBit 0 = true) : (s.popAngLog v).ang.log = s.ang.log.tail := by
  unfold State.popAngLog
  rw [if_pos h, State.angLogSync_ang]

/-- What a peer-delay exchange leaves in PTP_STAT: whether the delay is within the limit, and the delay. -/
theorem State.ptpStat_pdelay {s : State} {p delay : Nat} {ok : Bool} :
    ((s.putBit (Reg.ETH_PTP_STAT p) 0 ok).putF (Reg.ETH_PTP_STAT p) 31 16 (min delay 65535)).bit (Reg.ETH_PTP_STAT p) 0 = ok ∧
    ((s.putBit (Reg.ETH_PTP_STAT p) 0 ok).putF (Reg.ETH_PTP_STAT p) 31 16 (min delay 65535)).getF (Reg.ETH_PTP_STAT p) 31 16 =
      min delay 65535 := by
  constructor
  · unfold State.bit
    rw [State.getF_putF_other (by decide) (by decide) (by decide) (by decide)]
    exact State.bit_putBit (by decide)
  · rw [State.getF_putF (by decide) (by decide)]
    omega

/-- Settles O17: a checked write is its own rule; what the bus update and the writes show is read back through updates that leave
the clocks and the log alone. -/
theorem angleCommands : Obligations.AngleCommands := by
  intro s
  refine ⟨?_, ?_, ?_, ?_, ?_, ?_, ?_, ?_, ?_, ?_, ?_, ?_, ?_, ?_, ?_, ?_⟩
  · intro t haEntry
    exact congrArg Host.Outcome.next (if_pos (by simp [haEntry]))
  · intro t haEntry
    obtain ⟨v, hv, htimes⟩ := exec_angleBusUpdate_times haEntry
    exact ⟨v, hv, congrArg Prod.snd htimes, congrArg Prod.fst htimes⟩
  · intro req n value hnlt hgo
    exact congrArg Host.Outcome.next ((if_pos hnlt).trans (State.checkedWrite_go hgo))
  · intro req n value hnlt hgo hc
    exact ⟨_, congrArg Host.Outcome.next ((if_pos hnlt).trans (State.checkedWrite_go hgo)), State.not_late_writeAlarm hc⟩
  · intro req value hgo
    exact congrArg Host.Outcome.next (State.checkedWrite_go hgo)
  · intro req i value hilt hgo
    exact congrArg Host.Outcome.next ((if_pos hilt).trans (State.checkedWrite_go hgo))
  · intro req value hgo
    exact congrArg Host.Outcome.next (State.checkedWrite_go hgo)
  · intro req value hgo hbit hc
    exact ⟨_, congrArg Host.Outcome.next (State.checkedWrite_go hgo), State.rd_writePredCtl hbit hc⟩
  · intro req value hgo
    exact congrArg Host.Outcome.next (State.checkedWrite_go hgo)
  · intro req value hgo hbit
    exact ⟨_, congrArg Host.Outcome.next (State.checkedWrite_go hgo), State.log_popAngLog hbit⟩
  · intro p offset locks t hplt hrel hgwready hptprole hc
    exact congrArg Host.Outcome.next (if_pos ⟨hplt, hrel, hgwready, hptprole, hc⟩)
  · intro p delay t hplt hrel hgwready
    exact congrArg Host.Outcome.next (if_pos ⟨hplt, hrel, hgwready⟩)
  · intro p delay t hplt hrel hgwready hc
    refine ⟨_, congrArg Host.Outcome.next ((if_pos ⟨hplt, hrel, hgwready⟩).trans (if_neg (by simp [hc]))), ?_⟩
    exact State.ptpStat_pdelay
  · intro p t hplt hrel hgwready hptprole
    exact congrArg Host.Outcome.next (if_pos ⟨hplt, hrel, hgwready, hptprole⟩)
  · intro t hissome
    exact congrArg Host.Outcome.next (if_pos (by simp [hissome]))
  · intro haEntry hc
    exact congrArg Host.Outcome.next (if_pos (by simp [haEntry, hc]))

end Sys2Proof.Machine
end

section
/-! The statement of the reset pins and supplies (spec/04, 25). -/

namespace Sys2Proof.Machine

theorem State.bit_with_boot {s : State} {b : Boot} {a k : Nat} : State.bit { s with boot := b } a k = s.bit a k := rfl

/-- A fault is recorded after its reset, with VALID (R120). -/
theorem State.bit_supplyFault {s : State} {rail a k : Nat} : (s.supplyFault rail).bit a k =
    (((s.resetAs Rst.POR true).putBit Reg.SYS_SUP_STAT rail true).putBit Reg.SYS_SUP_STAT 16 true).bit a k := by
  unfold State.supplyFault
  exact State.bit_with_boot

theorem State.supStat_supplyFault {s : State} {rail : Nat} (hrail : rail < 32) (h16 : 16 ≠ rail) :
    (s.supplyFault rail).bit Reg.SYS_SUP_STAT rail = true ∧ (s.supplyFault rail).bit Reg.SYS_SUP_STAT 16 = true := by
  have hlast : 16 < 32 := by decide
  rw [State.bit_supplyFault, State.bit_supplyFault, State.bit_putBit_other hlast h16, State.bit_putBit hrail, State.bit_putBit hlast]
  exact ⟨rfl, rfl⟩

theorem State.boot_freeDram {s : State} {l : List Nat} : (s.freeDram l).boot = s.boot :=
  State.each_eq (p := State.boot) (f := fun s a => (s.fresh 8).2.setByte a (BitVec.ofNat 8 (s.fresh 8).1)) fun _ _ => rfl

theorem State.boot_fuseRegs {s : State} : s.fuseRegs.boot = s.boot := by
  unfold State.fuseRegs
  extract_lets f u v
  exact State.each_eq (p := State.boot) (s := v) (f := fun s k => s.wr (Reg.SEC_ARB k) (f.arb.getD k 0)) fun _ _ => rfl

/-- A reset holds the device. -/
theorem State.held_resetAs {s : State} {k : Nat} {sup : Bool} : (s.resetAs k sup).boot.held = true := by
  unfold State.resetAs
  extract_lets src r u
  have hu : u.boot = r.boot := State.boot_fuseRegs.trans State.boot_freeDram
  have held : u.boot.held = true := congrArg Boot.held hu
  split <;> exact held

/-- Settles O18: a pin or supply that moves is the taken branch of its rule; SUP_STAT is read back after the fault, and every
reset leaves the device held. -/
theorem resetPins : Obligations.ResetPins := by
  intro s
  refine ⟨?_, ?_, ?_, ?_, ?_, ?_, ?_, ?_, ?_, ?_, ?_, ?_, ?_, ?_, ?_⟩
  · intro t haon
    refine congrArg Host.Outcome.next ?_
    rw [haon]; rfl
  · intro straps inRange t hporesetn
    exact congrArg Host.Outcome.next (if_neg (by rw [hporesetn]; exact Bool.false_ne_true))
  · intro t haon hparked hheld
    have hnone : ∀ {aon parked held : Bool}, aon = true → parked = false → held = false →
        ¬ ((!aon) = true ∨ parked = true ∨ held = true) := by decide
    exact congrArg Host.Outcome.next (if_neg (hnone haon hparked hheld))
  · intro t
    rfl
  · intro req value hgo
    exact congrArg Host.Outcome.next (State.checkedWrite_go hgo)
  · intro req hgo
    exact congrArg Host.Outcome.next (State.checkedWrite_go hgo)
  · intro rail t hc₁ hc₂ hmonitored
    exact congrArg Host.Outcome.next (if_pos ⟨hc₁, hc₂, hmonitored⟩)
  · intro rail t hc₁ hc₂ hmonitored
    exact ⟨_, congrArg Host.Outcome.next (if_pos ⟨hc₁, hc₂, hmonitored⟩), State.supStat_supplyFault (by omega) (by omega)⟩
  · intro t hmonitored
    exact congrArg Host.Outcome.next (if_pos (by simp [hmonitored]))
  · intro t hmonitored
    exact ⟨_, congrArg Host.Outcome.next (if_pos hmonitored), State.supStat_supplyFault (by decide) (by decide)⟩
  · intro straps t hsupply haon
    exact congrArg Host.Outcome.next (if_pos ⟨hsupply, haon⟩)
  · intro t haon
    exact congrArg Host.Outcome.next (if_neg (by rw [haon]; exact Bool.false_ne_true))
  · intro t
    rfl
  · intro t
    exact ⟨_, rfl, rfl, rfl, rfl, State.held_resetAs⟩
  · intro t hrailswait
    refine congrArg Host.Outcome.next ?_
    rw [hrailswait]; rfl

end Sys2Proof.Machine
end

section
/-! The statement of the staged start (spec/04, 06). -/

namespace Sys2Proof.Machine

/-- Settles O19: each command of the start is the branch that its stage and its images choose. -/
theorem startCommands : Obligations.StartCommands := by
  intro s
  refine ⟨?_, ?_, ?_, ?_, ?_, ?_, ?_, ?_, ?_, ?_⟩
  · intro low hpcieroot
    exact congrArg Host.Outcome.next (if_neg (by simp [hpcieroot]))
  · exact congrArg Host.Outcome.next (if_pos (by simp []))
  · intro h
    have hmay : (if s.pcieRoot then s.cEntry else s.aEntry && s.boot.perstN) = true := by
      split at h
      · next hroot => rw [if_pos hroot, h]
      · next hend => rw [if_neg hend, h.1, h.2]; rfl
    have hcond : (s.pcieRoot || s.cDecl) = true ↔ s.pcieRoot = true ∨ s.cDecl = true := Bool.or_eq_true_iff
    exact congrArg Host.Outcome.next ((if_neg (by decide)).trans ((if_pos hmay).trans (if_congr hcond rfl rfl)))
  · intro t hpcieroot hpcielink
    refine congrArg Host.Outcome.next ?_
    rw [hpcieroot, hpcielink]; rfl
  · intro err0 err1 slot0 slot1 t hheld hc hrailswait
    exact congrArg Host.Outcome.next (if_neg (by rw [hheld, hc, hrailswait]; decide))
  · intro k err t hverifying
    exact congrArg Host.Outcome.next (if_neg (by simp [hverifying]))
  · intro req value hgo
    exact congrArg Host.Outcome.next (State.checkedWrite_go hgo)
  · intro req value hgo hbit hcEntry
    exact congrArg Host.Outcome.next ((State.checkedWrite_go hgo).trans ((if_neg (by simp [hbit])).trans (if_pos hcEntry)))
  · intro t hcEntry hdecl hpastlimit
    exact congrArg Host.Outcome.next (if_pos (by simp [hcEntry, hdecl, hpastlimit]))
  · intro t hc hrecstate
    exact congrArg Host.Outcome.next (if_neg (by rw [hc, hrecstate]; decide))

end Sys2Proof.Machine
end

section
/-! The statement of the stow of records (spec/04). -/

namespace Sys2Proof.Machine

theorem sget_filter_neg {α : Type} {d : Nat → α} {q : Nat × α → Bool} {m : List (Nat × α)} {b : Nat} (h : ∀ x, q (b, x) = false) :
    sget d (m.filter q) b = d b := by
  induction m with
  | nil => rfl
  | cons e m ih =>
    by_cases hq : q e = true
    · have hne : e.1 ≠ b := fun hb => by
        subst hb
        rw [h e.2] at hq
        exact Bool.false_ne_true hq
      rw [List.filter_cons_of_pos hq, sget, if_neg hne, ih]
    · rw [List.filter_cons_of_neg hq, ih]

theorem State.byte_zero {s : State} {a n b : Nat} (hlo : a ≤ b) (hhi : b < a + n) : (s.zero a n).byte b = 0 :=
  sget_filter_neg fun _ => by simp [hlo, hhi]

theorem leNat_eq_zero {l : List Byte} (h : ∀ b ∈ l, b = 0) : leNat l = 0 := by
  induction l with
  | nil => rfl
  | cons b l ih =>
    rw [leNat, h b (List.mem_cons_self ..), ih fun c hc => h c (List.mem_cons_of_mem _ hc)]
    rfl

/-- What is zeroed reads as the number 0. -/
theorem State.le_zero {s : State} {a n : Nat} : (s.zero a n).le a n = 0 := by
  refine leNat_eq_zero fun b hb => ?_
  obtain ⟨k, hk, rfl⟩ := List.mem_map.mp hb
  exact State.byte_zero (Nat.le_add_right ..) (Nat.add_lt_add_left (List.mem_range.mp hk) _)

theorem State.le_with_boot {s : State} {b : Boot} {a n : Nat} : State.le { s with boot := b } a n = s.le a n := rfl

/-- The start of a stow takes the former magic word away (R131). -/
theorem State.writeStowCtl_starts {s : State} {req : Requester} {v : Nat} (hgo : v.testBit 0 = true)
    (hbuild : (s.regStore req Reg.RSTATE_STOW_CTL (v / 2 * 2)).bit Reg.RSTATE_STOW_STAT 0 = false)
    (hcopy : (s.regStore req Reg.RSTATE_STOW_CTL (v / 2 * 2)).bit Reg.RSTATE_STOW_STAT 2 = false) :
    (s.writeStowCtl req v).boot.stow.isSome = true ∧ (s.writeStowCtl req v).le rstateBase 4 = 0 := by
  unfold State.writeStowCtl
  extract_lets u a w
  rw [if_neg (by simp [hgo]), if_neg (by simp [u, hbuild, hcopy])]
  exact ⟨rfl, State.le_with_boot.trans State.le_zero⟩

/-- Settles O20: GO zeroes the former magic word, and the end of each part of a stow is the branch that its size and result
choose. -/
theorem stowCommands : Obligations.StowCommands := by
  intro s
  refine ⟨?_, ?_, ?_, ?_⟩
  · intro req value hgo
    exact congrArg Host.Outcome.next (State.checkedWrite_go hgo)
  · intro req value hgo hbit hc₁ hc₂
    exact ⟨_, congrArg Host.Outcome.next (State.checkedWrite_go hgo), State.writeStowCtl_starts hbit hc₁ hc₂⟩
  · intro t w hstow
    refine congrArg Host.Outcome.next ?_
    rw [hstow]
  · intro fail t hc
    exact congrArg Host.Outcome.next (if_neg (by simp [hc]))

end Sys2Proof.Machine
end

section
/-! The statement of the ledger, the sensors and the throttle (spec/05). -/

namespace Sys2Proof.Machine

/-- Settles O22: each event is the branch that the stage, the sensors and the queue choose. -/
theorem energyAndHeat : Obligations.EnergyAndHeat := by
  intro s
  refine ⟨?_, ?_, ?_, ?_, ?_, ?_, ?_⟩
  · intro t hcEntry
    exact congrArg Host.Outcome.next (if_pos (by simp [hcEntry]))
  · intro p t j hheadjob hph hpark
    refine congrArg Host.Outcome.next ?_
    rw [hheadjob]; exact if_pos (by simp [hph, hpark])
  · intro g hglt hcEntry
    exact congrArg Host.Outcome.next (if_pos ⟨hglt, hcEntry⟩)
  · intro meas switching t hheld hparked hlength
    exact congrArg Host.Outcome.next (if_neg (by rw [hheld, hparked, hlength]; decide))
  · intro t haEntry hparked htherm_ctl hc
    refine congrArg Host.Outcome.next ?_
    simp only [haEntry, hparked, htherm_ctl, hc]; rfl
  · intro req value hgo hheart
    exact congrArg Host.Outcome.next (State.heartWrite_go hgo hheart)
  · intro req value hgo hheart hbit hrespok₁ hrespok₂
    exact congrArg Host.Outcome.next ((State.heartWrite_go hgo hheart).trans
      ((if_neg (by simp [hbit])).trans (if_pos (by rw [hrespok₁, hrespok₂]; rfl))))

end Sys2Proof.Machine
end

section
/-! The statement of the cooling inputs and request (spec/05). -/

namespace Sys2Proof.Machine

/-- Settles O23: each event is the branch that the stage, the source and the age of its value choose. -/
theorem coolingCommands : Obligations.CoolingCommands := by
  intro s
  refine ⟨?_, ?_, ?_, ?_⟩
  · intro code t haEntry hparked hc
    exact congrArg Host.Outcome.next (if_pos (by rw [haEntry, hparked, hc]; rfl))
  · intro t haEntry hc hcoolat
    exact congrArg Host.Outcome.next (if_pos (by rw [haEntry, hc, decide_eq_true hcoolat]; rfl))
  · intro pump fan t haEntry hparked
    refine congrArg Host.Outcome.next ?_
    rw [haEntry, hparked]; rfl
  · intro t haEntry hc hdue
    exact congrArg Host.Outcome.next (if_pos ⟨haEntry, hc, hdue⟩)

end Sys2Proof.Machine
end

section
/-! The statement of the commands of SEC (spec/06). -/

namespace Sys2Proof.Machine

/-- A command of SEC that gives its result, and whose completion is written, leaves that state. -/
theorem exec_secRun {s w v : State} {e : Nat} {c : SecCmd} {ops : Nat → Bool} {f : State → SecCmd → SecEnd} {r : Nat × State}
    (hnext : s.secNext = some (e, c, w)) (hop : ops c.op = true) (hrun : f w c = some r)
    (hfin : r.2.secFinish e c.flags r.1 = some v) : (Host.Outcome.next (s.secRun ops f) : Host.Outcome State Fault Refusal) = .next v := by
  rw [State.secRun_next hnext hop, hrun]
  exact congrArg (Host.Outcome.next <| Option.getD · s) hfin

/-- Settles O24: SEC takes the entry at its head, runs the one command whose opcode it is, and writes the result. -/
theorem secCommands : Obligations.SecCommands := by
  intro s
  refine ⟨?_, ?_, ?_, ?_, ?_, ?_, ?_, ?_, ?_, ?_, ?_, ?_, ?_, ?_, ?_, ?_, ?_, ?_, ?_⟩
  · intro src aux e c w r v hnext hop hrun hfin
    exact exec_secRun hnext (by rw [hop]; rfl) hrun hfin
  · intro src aux e c w r v hnext hop hrun hfin
    exact exec_secRun hnext (by rw [hop]; rfl) hrun hfin
  · intro src e c w r v hnext hop hrun hfin
    exact exec_secRun hnext (by rw [hop]; rfl) hrun hfin
  · intro src e c w r v hnext hop hrun hfin
    exact exec_secRun hnext (by rw [hop]; rfl) hrun hfin
  · intro src e c w r v hnext hop hrun hfin
    exact exec_secRun hnext (by rw [hop]; rfl) hrun hfin
  · intro src e c w r v hnext hop hrun hfin
    exact exec_secRun hnext (by rw [hop]; rfl) hrun hfin
  · intro src aux e c w r v hnext hop hrun hfin
    exact exec_secRun hnext (by rw [hop]; rfl) hrun hfin
  · intro src e c w r v hnext hop hrun hfin
    exact exec_secRun hnext (by rw [hop]; rfl) hrun hfin
  · intro src aux e c w r v hnext hop hrun hfin
    exact exec_secRun hnext (by rw [hop]; rfl) hrun hfin
  · intro src e c w r v hnext hop hrun hfin
    exact exec_secRun hnext (by rw [hop]; rfl) hrun hfin
  · intro src e c w r v hnext hop hrun hfin
    exact exec_secRun hnext (by rw [hop]; rfl) hrun hfin
  · intro aux e c w r v hnext hop hrun hfin
    exact exec_secRun hnext (by rw [hop]; rfl) hrun hfin
  · intro e c w r v hnext hop hrun hfin
    exact exec_secRun hnext (by rw [hop]; rfl) hrun hfin
  · intro e c w r v hnext hop hrun hfin
    exact exec_secRun hnext (by rw [hop]; rfl) hrun hfin
  · intro e c w r v hnext hop hrun hfin
    exact exec_secRun hnext (by rw [hop]; rfl) hrun hfin
  · intro ok e c w r v hnext hop hrun hfin
    exact exec_secRun hnext (by rw [hop]; rfl) hrun hfin
  · intro ok e c w r v hnext hop hrun hfin
    exact exec_secRun hnext (by rw [hop]; rfl) hrun hfin
  · intro aux ok e c w r v hnext hop hrun hfin
    exact exec_secRun hnext (by rw [hop]; rfl) hrun hfin
  · intro e c w v hnext hop hfin
    exact exec_secRun hnext (by simpa using hop) rfl hfin

end Sys2Proof.Machine
end

section
/-! The statement of harts, cross-world mailboxes and heartwood faults (spec/06). -/

namespace Sys2Proof.Machine

/-- Holding and releasing harts keeps what HART_HOLD was given (R208). -/
theorem State.rd_writeHold {s : State} {v : Nat} : (s.writeHold v).rd Reg.SEC_HART_HOLD = v % 4096 := by
  unfold State.writeHold
  extract_lets old u w
  have hu : u.rd Reg.SEC_HART_HOLD = v % 4096 := by
    rw [State.rd_wr_same]
    omega
  have hw : w.rd Reg.SEC_HART_HOLD = v % 4096 :=
    State.rd_ite ((State.rd_funcSet_ne (by decide) (by decide)).trans hu) hu
  refine (State.each_eq (p := fun u : State => u.rd Reg.SEC_HART_HOLD) ?_).trans hw
  exact fun _ _ => State.rd_ite rfl rfl

/-- What FAULT_N follows leaves the pairs' bits of FAULT_OUT (R203). -/
theorem State.bit_faultSync {s : State} {k : Nat} (hk : k ≠ 16) :
    s.faultSync.bit Reg.SAFE_FAULT_OUT k = s.bit Reg.SAFE_FAULT_OUT k := by
  unfold State.faultSync
  extract_lets halted u w low
  have hw : w.rd Reg.SAFE_FAULT_OUT = u.rd Reg.SAFE_FAULT_OUT := State.rd_ite (State.rd_funcSet_ne (by decide) (by decide)) rfl
  calc _ = w.bit Reg.SAFE_FAULT_OUT k := rfl
    _ = u.bit Reg.SAFE_FAULT_OUT k := State.bit_congr hw
    _ = _ := State.bit_putBit_other (by decide) hk.symm

/-- A mismatch of one pair, with the other running, leaves its bit of FAULT_OUT. -/
theorem exec_lockstepMismatch_shown {s : State} {p : Nat} (hp : p < 2) (hrom : s.boot.romStarted = true)
    (hother : s.bit Reg.SAFE_FAULT_OUT (9 - p) = false) :
    ∃ v, exec (.lockstepMismatch p) s = .next v ∧ v.bit Reg.SAFE_FAULT_OUT (8 + p) = true := by
  have hshown : (s.putBit Reg.SAFE_FAULT_OUT (8 + p) true).bit Reg.SAFE_FAULT_OUT (8 + p) = true := State.bit_putBit (by omega)
  have hrun : (s.putBit Reg.SAFE_FAULT_OUT (8 + p) true).bit Reg.SAFE_FAULT_OUT (9 - p) = false :=
    (State.bit_putBit_other (by omega) (by omega)).trans hother
  have hboth : ¬ ((s.putBit Reg.SAFE_FAULT_OUT (8 + p) true).bit Reg.SAFE_FAULT_OUT 8 &&
      (s.putBit Reg.SAFE_FAULT_OUT (8 + p) true).bit Reg.SAFE_FAULT_OUT 9) = true := by
    have hpair : p = 0 ∨ p = 1 := by omega
    obtain rfl | rfl := hpair <;> simp [hrun]
  exact ⟨_, congrArg Host.Outcome.next ((if_pos ⟨hp, hrom⟩).trans (if_neg hboth)), (State.bit_faultSync (by omega)).trans hshown⟩

/-- Settles O25: a checked write is its own rule; HART_HOLD, the mailboxes and FAULT_OUT are read back through updates of other
bits. -/
theorem islandCommands : Obligations.IslandCommands := by
  intro s
  refine ⟨?_, ?_, ?_, ?_, ?_, ?_, ?_, ?_, ?_, ?_⟩
  · intro req value hgo
    exact congrArg Host.Outcome.next (State.checkedWrite_go hgo)
  · intro req value hgo
    exact ⟨_, congrArg Host.Outcome.next (State.checkedWrite_go hgo), State.rd_writeHold⟩
  · intro req i h2s value hgo
    exact congrArg Host.Outcome.next (State.checkedWrite_go hgo)
  · intro req i h2s value hgo hbit₁ hbit₂
    exact congrArg Host.Outcome.next ((State.checkedWrite_go hgo).trans
      ((if_neg (by simp [hbit₁])).trans (if_neg (by simp [State.bit_respOk, hbit₂]))))
  · intro req i h2s value hgo
    exact congrArg Host.Outcome.next (State.checkedWrite_go hgo)
  · intro req i h2s value hgo hbit₁ hbit₂
    exact congrArg Host.Outcome.next ((State.checkedWrite_go hgo).trans (if_pos (by simp [State.bit_respOk, hbit₁, hbit₂])))
  · intro hc
    exact congrArg Host.Outcome.next (if_pos (by simp [hc]))
  · intro p hplt hc
    exact congrArg Host.Outcome.next (if_pos ⟨hplt, hc⟩)
  · intro p hplt hc₁ hc₂
    exact exec_lockstepMismatch_shown hplt hc₁ hc₂
  · intro req value hgo
    exact congrArg Host.Outcome.next (State.checkedWrite_go hgo)

end Sys2Proof.Machine
end

section
/-! The statement of the instructions of the TAP (spec/06). -/

namespace Sys2Proof.Machine

/-- An instruction that the TAP does not know passes the data on. -/
theorem State.tapActs_unknown {s : State} {c : Nat} (h : c ∉ [0x00, 0x01, 0x02, 0x04, 0x05, 0x10, 0x11, 0x20, 0x21, 0x22, 0x23, 0x24]) :
    s.tapActs c = false := by
  unfold State.tapActs
  split
  case h_13 => rfl
  all_goals exact absurd (by decide) h

/-- Settles O26: an instruction in effect is its own rule, and a code of no instruction is BYPASS. -/
theorem tapCommands : Obligations.TapCommands := by
  intro s
  refine ⟨?_, ?_, ?_, ?_, ?_, ?_, ?_, ?_⟩
  · intro data sample haon hacts
    exact congrArg Host.Outcome.next (State.tapRun_acts haon hacts)
  · intro haon hacts
    exact congrArg Host.Outcome.next (if_neg (by simp [haon]))
  · intro data sample haon hacts
    exact congrArg Host.Outcome.next (if_neg (by simp [haon]))
  · intro data haon hacts
    exact congrArg Host.Outcome.next (State.tapRun_acts haon hacts)
  · intro data haon hacts
    exact congrArg Host.Outcome.next (State.tapRun_acts haon hacts)
  · intro code data haon hc
    have hmod : code % 256 % 256 = code % 256 := Nat.mod_mod ..
    refine congrArg Host.Outcome.next ((if_neg (by simpa using hc)).trans ((State.tapRun_bypass haon (State.tapActs_unknown hc)).trans ?_))
    rw [hmod]
  · intro data haon hacts
    exact congrArg Host.Outcome.next (State.tapRun_acts haon hacts)
  · intro act data haon hacts
    exact congrArg Host.Outcome.next (State.tapRun_acts haon hacts)

end Sys2Proof.Machine
end

section
/-! The statement of debug sessions and recovery (spec/06, 04). -/

namespace Sys2Proof.Machine

/-- Settles O27: an instruction in effect is its own rule, and the session or the image chooses its branch. -/
theorem sessionCommands : Obligations.SessionCommands := by
  intro s
  refine ⟨?_, ?_, ?_, ?_, ?_, ?_⟩
  · intro data haon hacts
    exact congrArg Host.Outcome.next (State.tapRun_acts haon hacts)
  · intro token t haon hacts
    exact congrArg Host.Outcome.next (State.tapRun_acts haon hacts)
  · intro data fin haon hacts
    exact congrArg Host.Outcome.next (State.tapRun_acts haon hacts)
  · intro t hc hdue
    exact congrArg Host.Outcome.next (if_pos ⟨hc, hdue⟩)
  · intro word haon hacts
    exact congrArg Host.Outcome.next (State.tapRun_acts haon hacts)
  · intro data haon hacts
    exact congrArg Host.Outcome.next (State.tapRun_acts haon hacts)

end Sys2Proof.Machine
end

section
/-! The statement of rings, credits and ownership (spec/07, 11). -/

namespace Sys2Proof.Machine

theorem State.ownerValid_respOk {s : State} {l : List Byte} {p n : Nat} : (s.respOk l).ownerValid p n = s.ownerValid p n := rfl

/-- Settles O28: a checked write is its own rule, and the ring or the account it names chooses its branch. -/
theorem ringCommands : Obligations.RingCommands := by
  intro s
  refine ⟨?_, ?_, ?_, ?_, ?_, ?_, ?_, ?_, ?_, ?_⟩
  · intro req i value hilt hgo
    exact congrArg Host.Outcome.next ((if_pos hilt).trans (State.checkedWrite_go hgo))
  · intro req i value hgo hilt hc
    exact ⟨_, congrArg Host.Outcome.next ((if_pos hilt).trans ((State.checkedWrite_go hgo).trans (if_neg (Nat.not_le.mpr hc)))), State.rd_wr_same⟩
  · intro req i value hilt hgo hbit
    exact congrArg Host.Outcome.next ((if_pos hilt).trans ((State.checkedWrite_go hgo).trans (if_pos hbit)))
  · intro i hilt
    exact congrArg Host.Outcome.next (if_pos (by simp [hilt]))
  · intro t env i p hnextring hringpart
    refine congrArg Host.Outcome.next ?_
    simp only [hnextring, hringpart] <;> rfl
  · intro t env i p hnextring hringpart h1
    refine congrArg Host.Outcome.next ?_
    simp only [hnextring, hringpart, h1]
  · intro req p n w value hplt hnlt hgo
    exact congrArg Host.Outcome.next ((if_pos ⟨hplt, hnlt⟩).trans (State.checkedWrite_go hgo))
  · intro req p n w value hgo hplt hnlt hc
    exact congrArg Host.Outcome.next ((if_pos ⟨hplt, hnlt⟩).trans ((State.checkedWrite_go hgo).trans
      (if_pos (by simp [State.ownerValid_respOk, hc]))))
  · intro req ctx hgo
    exact congrArg Host.Outcome.next (State.checkedWrite_go hgo)
  · intro req ctx hgo
    exact congrArg Host.Outcome.next (State.checkedWrite_go hgo)

end Sys2Proof.Machine
end

section
/-! The statement of a resize of partitions (spec/07). -/

namespace Sys2Proof.Machine

/-! ## What leaves the resize under way alone -/

section Resizes
variable {s : State}

theorem State.resize_ite {c : Prop} [Decidable c] {x y : State} {r : Option Resize} (hx : x.resize = r) (hy : y.resize = r) :
    (if c then x else y).resize = r := by
  split <;> assumption

theorem State.resize_each {α : Type} {l : List α} {f : State → α → State} (h : ∀ u x, (f u x).resize = u.resize) :
    (s.each l f).resize = s.resize := State.each_eq (p := State.resize) h

theorem State.clk_each {α : Type} {l : List α} {f : State → α → State} (h : ∀ u x, (f u x).clk = u.clk) :
    (s.each l f).clk = s.clk := State.each_eq (p := State.clk) h

theorem State.resize_lvl {page k : Nat} {b : Bool} : (s.lvl page k b).resize = s.resize := State.resize_ite rfl rfl

theorem State.resize_ringsSync : s.ringsSync.resize = s.resize := State.resize_each fun _ _ => State.resize_lvl

theorem State.resize_dispSync : s.dispSync.resize = s.resize := State.resize_each fun _ _ => rfl

theorem State.resize_coreSync {c : Nat} : (s.coreSync c).resize = s.resize := by
  unfold State.coreSync
  extract_lets o st u
  clear_value o
  cases o <;> rfl

theorem State.resize_countCycles {c : Nat} : (s.countCycles c).resize = s.resize := by
  unfold State.countCycles
  extract_lets C n u
  split
  · rfl
  · exact State.resize_ite rfl rfl

theorem State.resize_meter {g : Nat} : (s.meter g).resize = s.resize := by
  unfold State.meter
  extract_lets D e on u v
  have hv : v.resize = s.resize := State.resize_each (s := u) fun _ _ => rfl
  exact (State.resize_each fun _ _ => State.resize_countCycles).trans hv

theorem State.resize_setRank {id k : Nat} {f : Rank → Rank} : (s.setRank id k f).resize = s.resize := rfl

theorem State.resize_runSync {id : Nat} : (s.runSync id).resize = s.resize := rfl

theorem State.resize_startRank {id k c : Nat} : (s.startRank id k c).resize = s.resize := by
  unfold State.startRank
  rw [State.resize_coreSync, State.resize_runSync, State.putBit_resize, State.resize_setRank, State.resize_meter]

theorem State.resize_coreNext {c : Nat} : (s.coreNext c).resize = s.resize := by
  unfold State.coreNext
  extract_lets u
  have hu : u.resize = s.resize := State.resize_each fun _ _ => rfl
  refine Eq.trans ?_ hu
  split
  · exact State.resize_coreSync
  · split
    · exact State.resize_coreSync
    · split
      · split
        · split
          · exact State.resize_each fun _ _ => State.resize_startRank
          · exact State.resize_coreSync
        · exact State.resize_startRank
      · rw [State.resize_coreSync, State.resize_runSync, State.resize_setRank, State.resize_meter]

theorem State.resize_unplace {j : Job} : (s.unplace j).resize = s.resize := by
  unfold State.unplace
  extract_lets cores u
  exact State.resize_each fun _ _ => State.resize_ite State.resize_coreNext rfl

end Resizes

/-- GO with a valid set of NEXT registers keeps the resize it starts (R264). -/
theorem State.resize_writeResize {s : State} {req : Requester} {p v : Nat} (hgo : v.testBit 0 = true)
    (hpart : s.bit (Reg.PART_CTL p) 1 = true) (hnone : s.resize = none) (hfail : s.resizeFail s.armedParts = 0) :
    (s.writeResize req p v).resize = some { armed := s.armedParts, page := p, start := s.clk.base } := by
  unfold State.writeResize
  extract_lets armed fail u out u1 u2 u3
  rw [if_neg (by simp [hgo]), if_neg (by simp [hpart, hnone]), if_neg (by simp [fail, armed, hfail])]
  have hu : u.clk = s.clk := State.clk_each fun _ _ => rfl
  have hu1 : u1.clk = u.clk := State.clk_each fun _ _ => rfl
  have hu3 : u3.resize = u2.resize := State.resize_each fun _ _ => State.resize_unplace
  have hu2 : u2.resize = some { armed := armed, page := p, start := u1.clk.base } := rfl
  have hstat : ∀ t : State, (t.each out fun s g => s.putBit (Reg.TICKET_STAT g) 8 true).resize = t.resize := fun t =>
    State.resize_each fun _ _ => rfl
  rw [State.resize_ringsSync, State.resize_dispSync, hstat, hu3, hu2, hu1, hu]

/-! ## The validation of the NEXT registers (R259) -/

theorem State.rd_putF_RESIZE_STAT {s : State} {q v b : Nat} (h : regOff b ≠ 0x148) :
    (s.putF (Reg.PART_RESIZE_STAT q) 11 8 v).rd b = s.rd b :=
  State.rd_putF_ne fun e => h (by rw [← e]; exact regOff_header (by decide))

theorem State.rd_putF_RESIZE_STAT_share {s : State} {q v p : Nat} (hq : q < 16) :
    (s.putF (Reg.PART_RESIZE_STAT q) 11 8 v).rd (Reg.LEDGER_SHARE p) = s.rd (Reg.LEDGER_SHARE p) :=
  State.rd_putF_ne (by unfold Reg.PART_RESIZE_STAT Reg.LEDGER_SHARE pageAddr Blk.PART Blk.LEDGER; omega)

/-- The result shown in RESIZE_STAT is no part of what is validated. -/
theorem State.resizeFail_putF {s : State} {q v : Nat} {armed : List Nat} (hq : q < 16) :
    (s.putF (Reg.PART_RESIZE_STAT q) 11 8 v).resizeFail armed = s.resizeFail armed := by
  have hrd : ∀ off p, off < 0x1000 → off ≠ 0x148 →
      (s.putF (Reg.PART_RESIZE_STAT q) 11 8 v).rd (pageAddr Blk.PART p + off) = s.rd (pageAddr Blk.PART p + off) :=
    fun off p hlt hne => State.rd_putF_RESIZE_STAT (by rwa [regOff_header hlt])
  unfold State.resizeFail State.planGroves State.planRings State.share State.getF
  simp only [State.rd_putF_RESIZE_STAT_share hq, Reg.PART_NEXT_GROVE_MASK, Reg.PART_GROVE_MASK, Reg.PART_NEXT_RING_MASK_LO,
    Reg.PART_NEXT_RING_MASK_HI, Reg.PART_RING_MASK_LO, Reg.PART_RING_MASK_HI]
  simp [hrd]

theorem State.armedParts_putF {s : State} {q v : Nat} : (s.putF (Reg.PART_RESIZE_STAT q) 11 8 v).armedParts = s.armedParts := by
  have hctl : ∀ p, (s.putF (Reg.PART_RESIZE_STAT q) 11 8 v).bit (Reg.PART_CTL p) 1 = s.bit (Reg.PART_CTL p) 1 := fun p =>
    State.bit_congr (State.rd_putF_RESIZE_STAT (by rw [regOff_header (by decide)]; decide))
  unfold State.armedParts
  simp only [hctl]

theorem lt_of_mem_armedParts {s : State} {q : Nat} (h : q ∈ s.armedParts) : q < 16 := List.mem_range.mp (List.mem_filter.mp h).1

/-- Showing the result page by page, validated afresh at each, is showing the one result. -/
theorem State.each_resizeFail {s : State} {l : List Nat} (hl : ∀ q ∈ l, q < 16) :
    (s.each l fun u q => u.putF (Reg.PART_RESIZE_STAT q) 11 8 (u.resizeFail u.armedParts)) =
      s.each l fun u q => u.putF (Reg.PART_RESIZE_STAT q) 11 8 (s.resizeFail s.armedParts) := by
  have loop : ∀ u : State, u.armedParts = s.armedParts → u.resizeFail s.armedParts = s.resizeFail s.armedParts →
      (u.each l fun u q => u.putF (Reg.PART_RESIZE_STAT q) 11 8 (u.resizeFail u.armedParts)) =
        u.each l fun u q => u.putF (Reg.PART_RESIZE_STAT q) 11 8 (s.resizeFail s.armedParts) := by
    unfold State.each
    induction l with
    | nil => exact fun _ _ _ => rfl
    | cons q l ih =>
      intro u harmed hfail
      have hq : q < 16 := hl q (List.mem_cons_self ..)
      rw [List.foldl_cons, List.foldl_cons, harmed, hfail]
      exact ih (fun p hp => hl p (List.mem_cons_of_mem _ hp)) _ (State.armedParts_putF.trans harmed) ((State.resizeFail_putF hq).trans hfail)
  exact loop s rfl rfl

/-- GO with NEXT registers that are not valid ends with the result of the check. -/
theorem State.writeResize_fails {s : State} {req : Requester} {p v : Nat} (hgo : v.testBit 0 = true)
    (hpart : s.bit (Reg.PART_CTL p) 1 = true) (hnone : s.resize = none) (hfail : s.resizeFail s.armedParts ≠ 0) :
    s.writeResize req p v = (s.each s.armedParts fun u q => u.putF (Reg.PART_RESIZE_STAT q) 11 8 (u.resizeFail u.armedParts)).each
      s.armedParts fun s q => s.evt (partPage q) 2 := by
  rw [State.each_resizeFail fun _ => lt_of_mem_armedParts]
  unfold State.writeResize
  extract_lets armed fail u out u1 u2 u3
  rw [if_neg (by simp [hgo]), if_neg (by simp [hpart, hnone]), if_pos (by simpa [fail, armed] using hfail)]

/-- Settles O29: the checks of a GO read nothing that an earlier partition of the loop wrote, so every armed partition fails
alike; nothing that a start or a commit does later touches the phase. -/
theorem resizeCommands : Obligations.ResizeCommands := by
  intro s
  refine ⟨?_, ?_, ?_, ?_, ?_, ?_⟩
  · intro req p value hplt hgo
    exact congrArg Host.Outcome.next ((if_pos hplt).trans (State.checkedWrite_go hgo))
  · intro req p value hgo hplt hbit hpart_ctl hresize hrespok
    have harmed : (s.respOk []).bit (Reg.PART_CTL p) 1 = true := hpart_ctl
    exact congrArg Host.Outcome.next ((if_pos hplt).trans ((State.checkedWrite_go hgo).trans
      (State.writeResize_fails (req := req) hbit harmed hresize hrespok)))
  · intro req p value hgo hplt hbit hpart_ctl hresize hrespok
    have harmed : (s.respOk []).bit (Reg.PART_CTL p) 1 = true := hpart_ctl
    exact ⟨_, congrArg Host.Outcome.next ((if_pos hplt).trans (State.checkedWrite_go hgo)), State.resize_writeResize hbit harmed hresize hrespok⟩
  · intro t r hresize
    refine congrArg Host.Outcome.next ?_
    rw [hresize]
  · intro t r hresize hclear hearly hc hdue
    refine congrArg Host.Outcome.next ?_
    rw [hresize]; exact if_neg (by simp [hclear, hearly, hc, hdue])
  · intro t r hresize hclear hisempty
    refine congrArg Host.Outcome.next ?_
    rw [hresize]; exact if_neg (by simp [hclear, hisempty])

end Sys2Proof.Machine
end

section
/-! The statement of jobs from placement to completion (spec/11, 05). -/

namespace Sys2Proof.Machine

/-- Settles O30: a job goes on by the branch that its state, the ledger and the cores choose. -/
theorem jobCommands : Obligations.JobCommands := by
  intro s
  refine ⟨?_, ?_, ?_, ?_, ?_, ?_, ?_⟩
  · intro t
    rfl
  · intro p t j hheadjob hph hdisp_ctl hpark
    refine congrArg Host.Outcome.next ?_
    rw [hheadjob]; exact if_pos (by simp [hph, hdisp_ctl, hpark])
  · intro i sq t j e hc hisempty hstop
    refine congrArg Host.Outcome.next ?_
    simp only [hc, hisempty, hstop]; rfl
  · intro i sq t j k hc hisempty hid
    refine congrArg Host.Outcome.next ?_
    simp only [hc, hisempty, hid]; rfl
  · intro i sq t j hc₁ hc₂ hc₃ hisnone
    refine congrArg Host.Outcome.next ?_
    rw [hc₁]; exact if_pos (by simp [hc₂, hc₃, hisnone])
  · intro req value hgo hheart
    exact congrArg Host.Outcome.next (State.heartWrite_go hgo hheart)
  · intro req value j hgo hheart hbit hph
    refine congrArg Host.Outcome.next ((State.heartWrite_go hgo hheart).trans ((if_pos hbit).trans ?_))
    rw [show (s.respOk []).jobs = s.jobs from rfl, hph]

end Sys2Proof.Machine
end

section
/-! The statement of the command unit of a core (spec/08). -/

namespace Sys2Proof.Machine

/-- A tile at a boundary at which nothing is due enters (R291). -/
theorem exec_tile_enters {s w : State} {c t off cmd : Nat} {env : CoreEnv} {o : OnCore}
    (hnext : (s.coreTick t).nextIssue c t 0 env = some (o, off, cmd, w)) (hop : cmd % 256 = 1) (hoff : off = o.rank.off)
    (hempty : o.rank.xfers.isEmpty = true)
    (hdue : (match (s.coreTick t).issuing c with
      | some x => ((s.coreTick t).boundary x).1
      | none => false) = false)
    (hcheck : w.tileCheck o cmd = .ok ()) :
    exec (.tile c t env) s = .next (((w.tileEnter o cmd).setRank o.job.id o.k fun r => r.issue off).coreSync c) := by
  refine congrArg Host.Outcome.next ((if_neg ?_).trans ((State.ctrlCmd_next hnext (by simp [hop]) hoff (.inr hempty) ?_).trans ?_))
  · split
    next x hx =>
      split at hx
      next o' hissue =>
        split at hx
        · cases hx
          rw [hissue] at hdue
          exact Bool.eq_false_iff.mp hdue
        · cases hx
      next => cases hx
    next => exact Bool.false_ne_true
  · rw [hcheck]
  · rw [hcheck]

/-- Settles O31: the command unit issues what the table names; a boundary first looks for what is due, then enters, waits or ends.
-/
theorem coreControlCommands : Obligations.CoreControlCommands := by
  intro s
  refine ⟨?_, ?_, ?_, ?_, ?_, ?_, ?_, ?_, ?_, ?_⟩
  · intro c t env o off cmd w hnext hop hc
    exact congrArg Host.Outcome.next (State.ctrlCmd_next hnext (by simp [hop]) hc (.inl rfl) rfl)
  · intro c t env o off cmd w hnext hop hc hisempty h1 htilecheck
    exact exec_tile_enters hnext hop hc hisempty h1 htilecheck
  · intro c t env o hissuing hnexttile hoff hisempty hheadd h1
    refine congrArg Host.Outcome.next ?_
    rw [hissuing]
    have hready := And.intro hnexttile (And.intro hoff (And.intro hisempty hheadd))
    simp only [if_pos hready]
    exact if_pos h1
  · intro c t env o off cmd w hnext hop hc hisempty
    refine congrArg Host.Outcome.next ?_
    by_cases hstop : o.job.stop.isSome = true
    · refine (State.ctrlCmd_next hnext (by simp [hop]) hc (.inr hisempty) (by rw [if_pos hstop])).trans ?_
      rw [if_pos hstop, if_pos hstop]
    · refine (State.ctrlCmd_next hnext (by simp [hop]) hc (.inr hisempty) (by rw [if_neg hstop])).trans ?_
      rw [if_neg hstop, if_neg hstop]
  · intro c t env o off cmd w hnext hop hc hisempty hoff₁ hoff₂ hany
    have hmore : ¬ o.rank.base + 32 * o.rank.code.length ≤ o.rank.off + 32 := Nat.not_le.mpr hoff₁
    have hfollow : ¬ (o.rank.cmdAt (o.rank.off + 32) % 256 ≠ 1 ∧ o.rank.cmdAt (o.rank.off + 32) % 256 ≠ 2) := by omega
    have hsame : ¬ (o.job.ranks.any fun r => r.bar.any fun b => b != cb cmd 4 2) = true := by rw [hany]; exact Bool.false_ne_true
    refine congrArg (fun u : State => Host.Outcome.next (u.barrierCheck c))
      ((State.ctrlCmd_next hnext (by simp [hop]) hc (.inr hisempty) ?_).trans ?_)
    · rw [if_neg hmore, if_neg hfollow, if_neg hsame]
    · rw [if_neg hmore, if_neg hfollow, if_neg hsame]
  · intro c t o hrun hc
    refine congrArg Host.Outcome.next ?_
    rw [hrun]; exact if_pos (by simp [hc])
  · intro c t env o off cmd w hnext hop hc h1 htestbit
    have hfree := Bool.eq_false_iff.mp h1
    refine congrArg Host.Outcome.next ((State.ctrlCmd_next hnext (by simp [hop]) hc (.inl rfl) ?_).trans ?_)
    · dsimp only
      rw [if_neg hfree, if_neg (by simp [htestbit])]
    · dsimp only
      rw [if_neg hfree, if_neg (by simp [htestbit]), htestbit]
      rfl
  · intro c t env o off cmd w hnext hop hc₁ h1 htestbit hc₂ hc₃ hc₄ hc₅ hc₆
    have hfree := Bool.eq_false_iff.mp h1
    have hlegal : ¬ (cmd.testBit 39 && (decide (cb cmd 6 2 * 64 = 0) || decide (cb cmd 8 1 = 0) || decide (0x8000 < cb cmd 8 1 * (cb cmd 6 2 * 64)) ||
        decide (cb cmd 10 2 = 0) || decide (4095 < cb cmd 10 2))) = true := by
      simp [htestbit, hc₂, hc₃, hc₄, hc₅, hc₆]
    refine congrArg Host.Outcome.next ((State.ctrlCmd_next hnext (by simp [hop]) hc₁ (.inl rfl) ?_).trans ?_)
    · dsimp only
      rw [if_neg hfree, if_neg hlegal]
    · dsimp only
      rw [if_neg hfree, if_neg hlegal, htestbit]
      rfl
  · intro c t env o off cmd w hnext hop hc
    refine congrArg (fun u : State => Host.Outcome.next (u.badVop c t env)) (State.ctrlCmd_fault hnext ?_ hc (.inl rfl) rfl)
    simpa using hop
  · intro c t env o off cmd w hnext hop hc
    exact congrArg Host.Outcome.next (State.coreCmd_fault hnext (by simp [hop, hc]) rfl)

end Sys2Proof.Machine
end

section
/-! The statement of the transfers and matrix commands of a core (spec/08). -/

namespace Sys2Proof.Machine

/-- Settles O32: a command of its unit is checked, waits for what holds it, and issues with its effect. -/
theorem coreDataCommands : Obligations.CoreDataCommands := by
  intro s
  refine ⟨?_, ?_, ?_, ?_, ?_, ?_, ?_, ?_, ?_⟩
  · intro c t env o off cmd w hnext hop hok
    exact congrArg Host.Outcome.next (State.coreCmd_next hnext (by simp [hop]) hok)
  · intro c off t o x hrun hc
    refine congrArg Host.Outcome.next ?_
    simp only [hrun, hc] <;> rfl
  · intro c t env o off cmd w hnext hop hok
    exact congrArg Host.Outcome.next (State.coreCmd_next hnext (by simp [hop]) hok)
  · intro c off t o x hrun hc hsent
    refine congrArg Host.Outcome.next ?_
    simp only [hrun, hc, hsent]; rfl
  · intro c off t o x data hrun hc hsent hcmd haddr
    refine congrArg Host.Outcome.next ?_
    simp only [hrun, hc, hsent, hcmd, haddr]; rfl
  · intro c t env o off cmd w hnext hop hok
    exact congrArg Host.Outcome.next (State.coreCmd_next hnext (by simp [hop]) hok)
  · intro c t env o off cmd w hnext hop hok
    exact congrArg Host.Outcome.next (State.coreCmd_next hnext (by simp [hop]) hok)
  · intro c t env o off cmd w hnext hop hok
    exact congrArg Host.Outcome.next (State.coreCmd_unissued hnext (by simp [hop]) hok)
  · intro c t env o off cmd w hnext hop hc haligned
    have hlegal : (imOk cmd && (o.ref (cb cmd 16 4)).aligned) = true := by rw [hc, haligned]; rfl
    refine congrArg Host.Outcome.next ((State.coreCmd_next hnext (by simp [hop]) (by rw [if_pos hlegal])).trans ?_)
    rw [if_pos hlegal]

end Sys2Proof.Machine
end

section
/-! The statement of the vector operations of a core (spec/08). -/

namespace Sys2Proof.Machine

/-- Settles O33: every operation of the vector unit is the same issue with its own function of the elements. -/
theorem vopCommands : Obligations.VopCommands := by
  intro s
  refine ⟨?_, ?_, ?_, ?_, ?_, ?_, ?_, ?_, ?_, ?_, ?_, ?_, ?_, ?_, ?_⟩
  · intro c t env o off cmd w hnext hop hc hok
    exact congrArg Host.Outcome.next (State.coreCmd_next hnext (by simp [hop, hc]) hok)
  · intro c t env o off cmd w hnext hop hc hok
    exact congrArg Host.Outcome.next (State.coreCmd_next hnext (by simp [hop, hc]) hok)
  · intro c t env o off cmd w hnext hop hc hok
    exact congrArg Host.Outcome.next (State.coreCmd_next hnext (by simp [hop, hc]) hok)
  · intro c t env o off cmd w hnext hop hc hok
    exact congrArg Host.Outcome.next (State.coreCmd_next hnext (by simp [hop, hc]) hok)
  · intro c t env o off cmd w hnext hop hc hok
    exact congrArg Host.Outcome.next (State.coreCmd_next hnext (by simp [hop, hc]) hok)
  · intro c t env o off cmd w hnext hop hc hok
    exact congrArg Host.Outcome.next (State.coreCmd_next hnext (by simp [hop, hc]) hok)
  · intro c t env o off cmd w hnext hop hc hok
    exact congrArg Host.Outcome.next (State.coreCmd_next hnext (by simp [hop, hc]) hok)
  · intro c t env o off cmd w hnext hop hc hok
    exact congrArg Host.Outcome.next (State.coreCmd_next hnext (by simp [hop, hc]) hok)
  · intro c t env o off cmd w hnext hop hc hok
    exact congrArg Host.Outcome.next (State.coreCmd_next hnext (by simp [hop, hc]) hok)
  · intro c t env o off cmd w hnext hop hc hok
    exact congrArg Host.Outcome.next (State.coreCmd_next hnext (by simp [hop, hc]) hok)
  · intro c t env o off cmd w hnext hop hc hok
    exact congrArg Host.Outcome.next (State.coreCmd_next hnext (by simp [hop, hc]) hok)
  · intro c t env o off cmd w hnext hop hc hok
    exact congrArg Host.Outcome.next (State.coreCmd_next hnext (by simp [hop, hc]) hok)
  · intro c t env o off cmd w hnext hop hc hok
    exact congrArg Host.Outcome.next (State.coreCmd_next hnext (by simp [hop, hc]) hok)
  · intro c t env o off cmd w hnext hop hc hok
    exact congrArg Host.Outcome.next (State.coreCmd_next hnext (by simp [hop, hc]) hok)
  · intro c t env o off cmd w hnext hop hc hok
    exact congrArg Host.Outcome.next (State.coreCmd_next hnext (by simp [hop, hc]) hok)

end Sys2Proof.Machine
end

section
/-! The statement of the tile limit, the context switch and the watchdog of a core (spec/08, 13). -/

namespace Sys2Proof.Machine

/-- Settles O34: each event is the branch that the state of the rank on the core chooses. -/
theorem coreSwitching : Obligations.CoreSwitching := by
  intro s
  refine ⟨?_, ?_, ?_, ?_⟩
  · intro c t o hrun hst hisnone hoff hc hdue
    refine congrArg Host.Outcome.next ?_
    rw [hrun]; exact if_pos (by simp [hst, hisnone, hoff, hc, hdue])
  · intro c t o hrun hst
    refine congrArg Host.Outcome.next ?_
    rw [hrun]; exact if_pos (by simp [hst])
  · intro c t o hrun hst
    refine congrArg Host.Outcome.next ?_
    rw [hrun]
    refine (if_pos hst).trans ?_
    extract_lets u v
    cases v.running c <;> rfl
  · intro c unit t env o r off cmd hissuing hc hok hnextof htokenwait hbankwait
    have hunit : ¬ (unit ≠ 2 ∧ unit ≠ 3) := by omega
    refine congrArg Host.Outcome.next ?_
    rw [hissuing]
    refine (if_neg hunit).trans ?_
    dsimp only
    rw [hok]
    dsimp only
    rw [hnextof]
    exact if_neg (by simp [htokenwait, hbankwait])

end Sys2Proof.Machine
end

section
/-! The statement of the memory operations and clears of a grove store (spec/08, 09). -/

namespace Sys2Proof.Machine

/-- A memory operation that is asked for with a legal length, and with room in the queue, is queued (R334). -/
theorem State.writeMopGo_queues {s : State} {req : Requester} {g op : Nat} {irq : Bool} (hop : op = 1 ∨ op = 2)
    (hroom : (s.mopQ g).length < 4) (hnz : s.getF (Reg.GROVE_MOP_LEN g) 23 0 ≠ 0) (hmod : s.getF (Reg.GROVE_MOP_LEN g) 23 0 % 64 = 0)
    (hmax : s.getF (Reg.GROVE_MOP_LEN g) 23 0 ≤ 0x800000) :
    s.writeMopGo req g (op + irq.toNat * 256) = State.mopSync { s with mops := updAt s.mops g fun q => q ++ [{
      op := op, irq := irq, dst := s.getF (Reg.GROVE_MOP_DST g) 22 6 * 64, src := s.getF (Reg.GROVE_MOP_SRC g) 22 6 * 64
      len := s.getF (Reg.GROVE_MOP_LEN g) 23 0, val := s.rd (Reg.GROVE_MOP_VAL g) }] } g := by
  have hmod4 : (op + irq.toNat * 256) % 4 = op := by omega
  have hirq : (op + irq.toNat * 256).testBit 8 = irq := by obtain rfl | rfl := hop <;> cases irq <;> rfl
  unfold State.writeMopGo
  extract_lets len m
  rw [if_neg (by omega)]
  unfold m
  rw [hmod4, hirq]

/-- Settles O35: a write of MOP_GO with a legal length and room joins the queue; a clear goes on by the branch of its phase. -/
theorem groveStoreCommands : Obligations.GroveStoreCommands := by
  intro s
  refine ⟨?_, ?_, ?_, ?_, ?_, ?_, ?_, ?_, ?_, ?_⟩
  · intro req g irq hglt hgo
    exact congrArg Host.Outcome.next ((if_pos hglt).trans (State.checkedWrite_go hgo))
  · intro req g irq hgo hglt hlength hc₁ hc₂ hc₃
    exact congrArg Host.Outcome.next ((if_pos hglt).trans ((State.checkedWrite_go hgo).trans
      (State.writeMopGo_queues (.inl rfl) hlength hc₁ hc₂ hc₃)))
  · intro req g irq hglt hgo
    exact congrArg Host.Outcome.next ((if_pos hglt).trans (State.checkedWrite_go hgo))
  · intro req g irq hgo hglt hlength hc₁ hc₂ hc₃
    exact congrArg Host.Outcome.next ((if_pos hglt).trans ((State.checkedWrite_go hgo).trans
      (State.writeMopGo_queues (.inr rfl) hlength hc₁ hc₂ hc₃)))
  · intro g t m hc₁ hrunning hc₂ hdom
    refine congrArg Host.Outcome.next ?_
    rw [hc₁]; exact if_neg (by simp [hrunning, hc₂, hdom])
  · intro g t env m r hc hrunning hdom hmoprun
    refine congrArg Host.Outcome.next ?_
    simp only [hc, hrunning, hdom, hmoprun]; rfl
  · intro req g value hglt hgo
    exact congrArg Host.Outcome.next ((if_pos hglt).trans (State.checkedWrite_go hgo))
  · intro req g hgo hglt hheart hrespok hc
    have hkey : ((s.respOk []).world req && decide (0x434C = 0x434C) && !(s.respOk []).groveClearing g &&
        (((s.respOk []).groveOwner g).isNone || (s.respOk []).groveOffline g)) = true := by
      rw [State.world_respOk, hheart, hrespok]
      exact hc
    exact congrArg Host.Outcome.next ((if_pos hglt).trans ((State.checkedWrite_go hgo).trans (if_pos hkey)))
  · intro g t hglt hc
    exact congrArg Host.Outcome.next (if_pos ⟨hglt, hc⟩)
  · intro g ok t hglt hc
    exact congrArg Host.Outcome.next (if_pos ⟨hglt, hc⟩)

end Sys2Proof.Machine
end

section
/-! The statement of store tickets and mesh time-outs (spec/09, 10). -/

namespace Sys2Proof.Machine

/-- Settles O36: a request is answered or held by its office, and each sender that waits has its own branch. -/
theorem ticketCommands : Obligations.TicketCommands := by
  intro s
  refine ⟨?_, ?_, ?_, ?_, ?_, ?_, ?_, ?_, ?_⟩
  · intro req k off len hklt
    exact congrArg Host.Outcome.next (if_pos (by simp [hklt]))
  · intro k idx t x hidx hdue
    refine congrArg Host.Outcome.next ?_
    rw [hidx]; exact if_pos (by simp [hdue])
  · intro req k tag hklt
    exact congrArg Host.Outcome.next (if_pos (by simp [hklt]))
  · intro who t
    rfl
  · intro who t
    rfl
  · intro req k value hklt hgo
    exact congrArg Host.Outcome.next ((if_pos hklt).trans (State.checkedWrite_go hgo))
  · intro req k value hgo hklt
    exact congrArg Host.Outcome.next ((if_pos hklt).trans (State.checkedWrite_go hgo))
  · intro who haEntry
    exact congrArg Host.Outcome.next (if_neg (by simp [haEntry]))
  · intro req addr len haEntry
    exact ⟨_, congrArg Host.Outcome.next (if_neg (by simp [haEntry])), rfl, rfl⟩

end Sys2Proof.Machine
end

section
/-! The statement of ferry transfers (spec/10). -/

namespace Sys2Proof.Machine

/-- A transfer with a legal length, and with room in the queue, is queued (R363). -/
theorem State.writeQPush_queues {s : State} {req : Requester} {f v : Nat} (hpush : v.testBit 0 = true)
    (hnz : s.getF (Reg.FERRY_Q_LEN f) 24 0 ≠ 0) (hmod : s.getF (Reg.FERRY_Q_LEN f) 24 0 % 64 = 0)
    (hmax : s.getF (Reg.FERRY_Q_LEN f) 24 0 ≤ 2 ^ 24) (hroom : (s.ferry f).queue.length < 16) :
    s.writeQPush req f v = (s.setFerry f fun F => { F with queue := F.queue ++ [{
      src := 2 ^ 32 * s.getF (Reg.FERRY_Q_SRC_HI f) 15 0 + s.getF (Reg.FERRY_Q_SRC_LO f) 31 6 * 64
      dst := 2 ^ 32 * s.getF (Reg.FERRY_Q_DST_HI f) 15 0 + s.getF (Reg.FERRY_Q_DST_LO f) 31 6 * 64
      len := s.getF (Reg.FERRY_Q_LEN f) 24 0, tkt := v.testBit 1, irq := v.testBit 2, bulk := v.testBit 3, db := v.testBit 4
      ring := fld v 13 8 }] }).ferrySync f := by
  unfold State.writeQPush
  extract_lets len q
  rw [if_neg (by simp [hpush]), if_neg (by omega)]

/-- Settles O37: a push with a legal length and room joins the queue; the running transfer goes on by what it still has to do. -/
theorem ferryCommands : Obligations.FerryCommands := by
  intro s
  refine ⟨?_, ?_, ?_, ?_⟩
  · intro req f value hflt hgo
    exact congrArg Host.Outcome.next ((if_pos hflt).trans (State.checkedWrite_go hgo))
  · intro req f value hgo hflt hbit hc₁ hc₂ hc₃ hroom
    exact congrArg Host.Outcome.next ((if_pos hflt).trans ((State.checkedWrite_go hgo).trans (State.writeQPush_queues hbit hc₁ hc₂ hc₃ hroom)))
  · intro f t q hhead hbusy hfailed hferry_ctl hcontains hdom hpark
    have hmay : ¬ (((s.tickTo t).ferry f).busy = true ∨ ((s.tickTo t).ferry f).failed = true ∨ (!(s.tickTo t).bit (Reg.FERRY_CTL f) 0) = true ∨
        (s.tickTo t).leaving.contains (f / 2) = true ∨ (s.tickTo t).dom (f / 2) ≠ 0 ∨ 2 ≤ (s.tickTo t).park.stage) := by
      rw [hbusy, hfailed, hferry_ctl, hcontains]
      simpa [hdom] using hpark
    refine congrArg Host.Outcome.next ?_
    rw [hhead]
    exact if_neg hmay
  · intro f t env q hhead hbusy hissome hc
    refine congrArg Host.Outcome.next ?_
    rw [hhead]; exact if_neg (by simp [hbusy, hissome, hc])

end Sys2Proof.Machine
end

section
/-! The statement of the self-test, the service and the inference log (spec/13). -/

namespace Sys2Proof.Machine

theorem State.infLog_infSync {s : State} : s.infSync.infLog = s.infLog := by
  unfold State.infSync State.lvl
  extract_lets h u v
  unfold v
  split <;> rfl

theorem State.infLog_popInfLog {s : State} {v : Nat} (h : v.testBit 0 = true) : (s.popInfLog v).infLog = s.infLog.tail := by
  unfold State.popInfLog
  rw [if_pos h, State.infLog_infSync]

/-- Registers that are cleared one after the other all read 0. -/
theorem State.rd_each_clear {s : State} {l : List Nat} {b : Nat} (h : b ∈ l ∨ s.rd b = 0) : (s.each l fun s a => s.wr a 0).rd b = 0 := by
  unfold State.each
  induction l generalizing s with
  | nil => simpa using h
  | cons a l ih =>
    refine ih ?_
    by_cases hab : a = b
    · exact .inr (by rw [hab, State.rd_wr_same, Nat.zero_mod])
    · rw [State.rd_wr_ne hab]
      simpa [Ne.symm hab] using h

/-- GO of CNT_CLR clears seven counters of its core (R433). -/
theorem State.rd_writeCntClr {s : State} {v b : Nat} (hgo : v.testBit 31 = true)
    (hb : b ∈ [Reg.CORE_REPLAY_CNT (v % 64), Reg.CORE_CPF_TOTAL (v % 64), Reg.CORE_DFAULT_CNT (v % 64), Reg.CORE_TM_CE (v % 64),
      Reg.CORE_TM_UE (v % 64), Reg.CORE_PROBE_CNT (v % 64), Reg.CORE_REPLAY_MAX (v % 64)]) : (s.writeCntClr v).rd b = 0 := by
  unfold State.writeCntClr
  rw [if_pos hgo]
  exact State.rd_each_clear (.inl hb)

/-- Settles O38: a checked write is its own rule; the counters that are cleared and the log are read back through the loop over
the counters and the log registers. -/
theorem inferenceCommands : Obligations.InferenceCommands := by
  intro s
  refine ⟨?_, ?_, ?_, ?_, ?_, ?_, ?_, ?_, ?_, ?_⟩
  · intro req value hgo hheart
    exact congrArg Host.Outcome.next (State.heartWrite_go hgo hheart)
  · intro req value hgo hheart hbit hcEntry hrespok
    have hmay : ((s.respOk []).cEntry && (s.respOk []).testable (value % 64)) = true := by rw [hrespok]; exact (Bool.and_true _).trans hcEntry
    exact congrArg Host.Outcome.next ((State.heartWrite_go hgo hheart).trans ((if_neg (by simp [hbit])).trans (if_pos hmay)))
  · intro c step t svc y htesting hc₁ hclt hdom hc₂
    refine congrArg Host.Outcome.next ?_
    rw [htesting]; exact if_neg (by simp [hc₁, hclt, hdom, hc₂])
  · intro req value hgo hheart
    exact congrArg Host.Outcome.next (State.heartWrite_go hgo hheart)
  · intro req value hgo hheart hbit hcEntry hsvc hpassed
    have hmay : (s.cEntry && (decide (s.svc (value % 64) = Svc.WITHDRAWN) || decide (s.svc (value % 64) = Svc.OFFLINE)) &&
        (s.core (value % 64)).passed) = true := by
      simpa [hcEntry, hpassed] using hsvc
    exact congrArg Host.Outcome.next ((State.heartWrite_go hgo hheart).trans ((if_neg (by simp [hbit])).trans (if_pos hmay)))
  · intro req value hgo
    exact congrArg Host.Outcome.next (State.checkedWrite_go hgo)
  · intro req value hgo hbit
    refine ⟨_, congrArg Host.Outcome.next (State.checkedWrite_go hgo), ?_⟩
    refine ⟨?_, ?_, ?_, ?_, ?_, ?_, ?_⟩ <;> exact State.rd_writeCntClr hbit (by simp)
  · intro k t hklt hdecl htestbit hc hdue
    refine congrArg Host.Outcome.next ?_
    simp only [hklt, hdecl, htestbit, hc, hdue]; rfl
  · intro req value hgo
    exact congrArg Host.Outcome.next (State.checkedWrite_go hgo)
  · intro req value hgo hbit
    exact ⟨_, congrArg Host.Outcome.next (State.checkedWrite_go hgo), State.infLog_popInfLog hbit⟩

end Sys2Proof.Machine
end

section
/-! The statement of the DRAM controllers (spec/14, 20). -/

namespace Sys2Proof.Machine

theorem State.dmcState_setDmcState {s : State} {x v : Nat} (hv : v < 8) : (s.setDmcState x v).dmcState x = v :=
  (State.getF_putF (by decide) (by decide)).trans (Nat.mod_eq_of_lt hv)

/-- DEGRADED and its interrupt leave the states of the controllers. -/
theorem State.dmcState_degraded {s : State} {x y : Nat} :
    ((s.putBit (Reg.DMC_STAT y) 5 true).lvl (dmcPage y) 6 true).dmcState x = s.dmcState x := by
  have hraw : dmcPage y + Hdr.IRQ_RAW ≠ pageAddr Blk.DMC x + Hdr.STAT := reg_ne_of_off (by decide) (by decide) (by decide)
  have hpend : dmcPage y + Hdr.IRQ_PEND ≠ pageAddr Blk.DMC x + Hdr.STAT := reg_ne_of_off (by decide) (by decide) (by decide)
  refine (State.getF_congr (State.rd_lvl_ne hraw hpend)).trans ?_
  by_cases hxy : Reg.DMC_STAT y = pageAddr Blk.DMC x + Hdr.STAT
  · unfold State.dmcState
    rw [hxy]
    exact State.getF_putF_other (by decide) (by decide) (by decide) (by decide)
  · exact State.getF_putF_ne hxy

theorem State.dmcState_dmcDegraded {s : State} {x : Nat} : s.dmcDegraded.dmcState x = s.dmcState x := by
  unfold State.dmcDegraded State.eachDmc
  exact State.each_eq (p := fun u : State => u.dmcState x) fun _ _ => State.dmcState_degraded

/-- A controller that fails is in the state FAILED (R457). -/
theorem exec_dmcCtrlFail_failed {s : State} {x : Nat} (hx : x < 4) (hset : s.bit (Reg.DMC_STAT x) 4 = true)
    (hstate : s.dmcState x ≠ DmcSt.FAILED) : ∃ v, exec (.dmcCtrlFail x) s = .next v ∧ v.dmcState x = DmcSt.FAILED := by
  refine ⟨_, congrArg Host.Outcome.next (if_pos ⟨hx, hset, hstate⟩), ?_⟩
  extract_lets u v
  have hu : u.dmcState x = DmcSt.FAILED := State.dmcState_dmcDegraded.trans (State.dmcState_setDmcState (by decide))
  have hpend : dmcPage x + Hdr.IRQ_PEND ≠ pageAddr Blk.DMC x + Hdr.STAT := reg_ne_of_off (by decide) (by decide) (by decide)
  have hv : v.dmcState x = DmcSt.FAILED := (State.getF_congr (State.rd_evt_ne hpend)).trans hu
  split
  · exact (State.getF_congr (State.rd_funcLost_ne (by unfold regCode pageAddr Blk.DMC Blk.SYS Hdr.STAT; omega))).trans hv
  · exact hv

/-- Settles O39: each event is the branch that the grid and the set of the controllers choose; a failed controller stays FAILED
while its neighbours degrade. -/
theorem dramCommands : Obligations.DramCommands := by
  intro s
  refine ⟨?_, ?_, ?_, ?_, ?_, ?_, ?_, ?_, ?_, ?_, ?_⟩
  · intro req x value hxlt hgo
    exact congrArg Host.Outcome.next ((if_pos hxlt).trans (State.checkedWrite_go hgo))
  · intro x r t hxlt hdmcstate
    exact congrArg Host.Outcome.next (if_neg (by simp [hxlt, hdmcstate]))
  · intro x ok t hxlt hdmcstate
    exact congrArg Host.Outcome.next (if_pos ⟨hxlt, hdmcstate⟩)
  · intro x t env hrefreshes hdue
    exact congrArg Host.Outcome.next (if_pos ⟨hrefreshes, hdue⟩)
  · intro x t b hwindow hxlt hc
    refine congrArg Host.Outcome.next ?_
    rw [hwindow]; exact if_pos (by simp [hxlt, hc])
  · intro x t hrefreshes hc₁ hc₂ hgetd hc₃
    exact congrArg Host.Outcome.next (if_pos ⟨hrefreshes, hc₁, hc₂, by rw [hgetd]; rfl, hc₃⟩)
  · intro codes rate hot hon
    exact congrArg Host.Outcome.next (if_neg (by simp [hon]))
  · intro x ch bank t hxlt
    exact congrArg Host.Outcome.next (if_pos (by simp [hxlt]))
  · intro x ecc hxlt hdmc_stat hdmcstate hc₁ hdmcholds hc₂
    exact congrArg Host.Outcome.next (if_pos (by simp [hxlt, hdmc_stat, hdmcstate, hc₁, hdmcholds, hc₂]))
  · intro x hxlt hdmc_stat hdmcstate
    exact congrArg Host.Outcome.next (if_pos ⟨hxlt, hdmc_stat, hdmcstate⟩)
  · intro x hxlt hdmc_stat hdmcstate
    exact exec_dmcCtrlFail_failed hxlt hdmc_stat hdmcstate

end Sys2Proof.Machine
end

section
/-! The statement of triggers (spec/16). -/

namespace Sys2Proof.Machine

/-- Settles O40: each event is the branch that the unit, its edge and its program choose. -/
theorem triggerCommands : Obligations.TriggerCommands := by
  intro s
  refine ⟨?_, ?_, ?_, ?_, ?_, ?_⟩
  · intro c hclt
    exact congrArg Host.Outcome.next (if_pos (by simp [hclt]))
  · intro req c value hclt hgo
    exact congrArg Host.Outcome.next ((if_pos hclt).trans (State.checkedWrite_go hgo))
  · intro req c value hgo hclt hbit
    exact congrArg Host.Outcome.next ((if_pos (by simp [hclt])).trans ((State.checkedWrite_go hgo).trans (if_pos (by simp [hbit]))))
  · intro i rising frac hilt
    refine congrArg Host.Outcome.next ((if_neg (by omega)).trans ?_)
    simp only [Bool.not_eq_true', decide_eq_false_iff_not]
  · intro c t hclt hissome hn
    exact congrArg Host.Outcome.next (if_pos ⟨hclt, hissome, hn⟩)
  · intro c t hclt htrig_ctl hph hc hdue
    exact congrArg Host.Outcome.next (if_pos ⟨hclt, htrig_ctl, hph, hc, hdue⟩)

end Sys2Proof.Machine
end

section
/-! The statement of capture programs (spec/16). -/

namespace Sys2Proof.Machine

/-- Settles O41: each event is the branch that the phase of the program and its ring choose. -/
theorem berthCommands : Obligations.BerthCommands := by
  intro s
  refine ⟨?_, ?_, ?_, ?_, ?_, ?_, ?_, ?_, ?_⟩
  · intro req p hplt hgo
    exact congrArg Host.Outcome.next ((if_pos hplt).trans (State.checkedWrite_go hgo))
  · intro req p hgo hplt
    exact congrArg Host.Outcome.next ((if_pos hplt).trans (State.checkedWrite_go hgo))
  · intro req p hplt hgo
    exact congrArg Host.Outcome.next ((if_pos hplt).trans (State.checkedWrite_go hgo))
  · intro req p hgo hplt
    exact congrArg Host.Outcome.next ((if_pos hplt).trans (State.checkedWrite_go hgo))
  · intro p t
    rfl
  · intro p t
    rfl
  · intro p t
    rfl
  · intro p t hplt hpmode hc₁ hisnone hc₂ hdom
    exact congrArg Host.Outcome.next (if_pos ⟨hplt, hpmode, hc₁, hisnone, hc₂, hdom⟩)
  · intro p t env hplt hisnone
    exact congrArg Host.Outcome.next (if_neg (by simp [hplt, hisnone]))

end Sys2Proof.Machine
end

section
/-! The statement of the digitiser (spec/15). -/

namespace Sys2Proof.Machine

/-- An input beyond its range shows in STAT, whether or not it did before (R482). -/
theorem exec_probeOverload_shown {s : State} {c t : Nat} (hc : c < 2) (hrel : (s.tickTo t).released Blk.FDIG = true)
    (hlo : 1 ≤ (s.tickTo t).getF (Reg.FDIG_INPUT c) 5 0) (hhi : (s.tickTo t).getF (Reg.FDIG_INPUT c) 5 0 ≤ 4)
    (hoff : (s.tickTo t).bit (Reg.FDIG_INPUT c) 12 = false) :
    ∃ v, exec (.probeOverload c t) s = .next v ∧ v.bit (Reg.FDIG_STAT c) 13 = true := by
  refine ⟨_, congrArg Host.Outcome.next (if_pos ⟨hc, hrel, hlo, hhi, by rw [hoff]; rfl⟩), ?_⟩
  extract_lets u
  have hpend : pageAddr Blk.FDIG c + Hdr.IRQ_PEND ≠ Reg.FDIG_STAT c := reg_ne_of_off (by decide) (by decide) (by decide)
  split
  · assumption
  · exact (State.bit_congr (State.rd_evt_ne hpend)).trans (State.bit_putBit (by decide))

/-- Settles O42: each event is the branch that the channel and its slices choose; an overload shows whether or not it did before.
-/
theorem fdigCommands : Obligations.FdigCommands := by
  intro s
  refine ⟨?_, ?_, ?_, ?_, ?_, ?_, ?_, ?_, ?_, ?_, ?_⟩
  · intro c raw ecc t hclt hfdigruns hpark
    exact congrArg Host.Outcome.next (if_pos ⟨hclt, hfdigruns, hpark⟩)
  · intro c t inc out hclt hfdig_ctl hfdigstate hdom hpark hdue hslice₁ hslice₂
    have hmay : ¬ (2 ≤ c ∨ (s.tickTo t).getF (Reg.FDIG_CTL c) 2 1 = 0 ∨ (s.tickTo t).fdigState c ≠ FdSt.READY ∨ (s.tickTo t).dom 24 ≠ 0 ∨
        2 ≤ (s.tickTo t).park.stage ∨ (s.tickTo t).clk.base < ((s.tickTo t).fdig c).lastSwap + (s.tickTo t).calPeriod c) := by
      simp only [not_or]
      exact ⟨by omega, hfdig_ctl, not_not.mpr hfdigstate, not_not.mpr hdom, by omega, by omega⟩
    have hidle : (!(s.tickTo t).idle c) = true ↔ (s.tickTo t).idle c = false := by rw [Bool.not_eq_true']
    refine congrArg Host.Outcome.next ((if_neg hmay).trans ?_)
    rw [hslice₁, hslice₂]
    exact if_congr (and_congr_right fun _ => hidle) rfl rfl
  · intro c ok t b k hclt hfdig_ctl hbg hslice hdom hpark hdue
    have hmay : ¬ (2 ≤ c ∨ (s.tickTo t).getF (Reg.FDIG_CTL c) 2 1 = 0 ∨ (s.tickTo t).dom 24 ≠ 0 ∨ 2 ≤ (s.tickTo t).park.stage ∨
        (s.tickTo t).clk.base < b + 800000) := by
      simp only [not_or]
      exact ⟨by omega, hfdig_ctl, not_not.mpr hdom, by omega, by omega⟩
    refine congrArg Host.Outcome.next ?_
    rw [hbg, hslice]
    exact if_neg hmay
  · intro c fails t b hfg hclt hdue hfdig_stat hc
    refine congrArg Host.Outcome.next ?_
    rw [hfg]; exact if_neg (by simp [hclt, hdue, hfdig_stat, hc])
  · intro req value hgo
    exact congrArg Host.Outcome.next (State.checkedWrite_go hgo)
  · intro c t hclt hdue
    exact congrArg Host.Outcome.next (if_pos ⟨hclt, hdue⟩)
  · intro hrel hfdig_stat
    exact congrArg Host.Outcome.next (if_pos ⟨hrel, hfdig_stat⟩)
  · intro t hrel hfdig_stat
    exact congrArg Host.Outcome.next (if_pos (by simp [hrel, hfdig_stat]))
  · intro c t hclt hrel hc₁ hc₂ hc₃
    exact congrArg Host.Outcome.next (if_pos (by simp [hclt, hrel, hc₁, hc₂, hc₃]))
  · intro c t hclt hrel hc₁ hc₂ hc₃
    exact exec_probeOverload_shown hclt hrel hc₁ hc₂ hc₃
  · intro c t hclt hdue
    exact congrArg Host.Outcome.next (if_pos ⟨hclt, hdue⟩)

end Sys2Proof.Machine
end

section
/-! The statement of the sense bank (spec/15). -/

namespace Sys2Proof.Machine

/-! ## Urgent conversions (R506, R507) -/

theorem State.urg_setUrg {s : State} {k : Nat} {u : Option (Nat × Nat)} (hk : k < 4 → k < s.sns.groups.length) : (s.setUrg k u).urg k = u := by
  unfold State.urg State.setUrg
  by_cases h : k < 4
  · rw [if_pos h, if_pos h]
    exact congrArg SenseGroup.urg (getD_updAt (hk h))
  · rw [if_neg h, if_neg h]

theorem State.urg_setUrg_none {s : State} {k : Nat} : (s.setUrg k none).urg k = none := by
  by_cases hk : k < 4 → k < s.sns.groups.length
  · exact State.urg_setUrg hk
  · obtain ⟨hlt, hlen⟩ := Classical.not_imp.mp hk
    unfold State.urg State.setUrg
    rw [if_pos hlt, if_pos hlt]
    unfold State.grp State.setGrp updAt
    simp [hlen]

theorem State.urg_congr {s t : State} {k : Nat} (h : t.sns = s.sns) : t.urg k = s.urg k := by
  unfold State.urg State.grp
  rw [h]

theorem State.rd_setUrg {s : State} {k b : Nat} {u : Option (Nat × Nat)} : (s.setUrg k u).rd b = s.rd b := by
  unfold State.setUrg
  split <;> rfl

/-- A request with no cause against it waits, and the former result is no longer valid. -/
theorem State.writeUrg_waits {s : State} {req : Requester} {k v : Nat} (hk : k < 4) (hgroups : s.sns.groups.length = 4)
    (hgo : v.testBit 31 = true) (hch : fld v 3 0 < 12) (hcause : s.urgCause k = 0) :
    (s.writeUrg req k v).urg k = some (fld v 3 0, s.clk.base) ∧ (s.writeUrg req k v).rd (Reg.SENSE_URG_RESULT k) / 2 ^ 30 = 0 := by
  have hrun : s.writeUrg req k v = (s.putF (Reg.SENSE_URG_RESULT k) 31 30 0).setUrg k (some (fld v 3 0, s.clk.base)) := by
    unfold State.writeUrg
    extract_lets i c u
    have hi : i = fld v 3 0 := if_pos hk
    rw [if_neg (by simp [hgo]), if_pos hk, if_neg (by omega), if_pos hcause, hi]
    rfl
  rw [hrun]
  refine ⟨State.urg_setUrg fun _ => (show k < s.sns.groups.length by omega), ?_⟩
  have hfld := State.getF_putF (s := s) (a := Reg.SENSE_URG_RESULT k) (v := 0) (show 30 ≤ 31 by decide) (by decide)
  have hlt := State.rd_lt (s := s.putF (Reg.SENSE_URG_RESULT k) 31 30 0) (a := Reg.SENSE_URG_RESULT k)
  rw [State.rd_setUrg]
  unfold State.getF fld at hfld
  omega

/-- A request of the spare page with a cause against it is refused with that cause. -/
theorem State.writeUrg_refused {s : State} {req : Requester} {k v : Nat} (hk : k = 4) (hgo : v.testBit 31 = true) (hch : fld v 5 0 < 48)
    (hcause : s.urgCause k ≠ 0) : (s.writeUrg req k v).getF (Reg.SENSE_URG_RESULT k) 29 28 = s.urgCause k % 4 ∧
      (s.writeUrg req k v).bit (Reg.SENSE_URG_RESULT k) 30 = true := by
  have hpend : sensePage k + Hdr.IRQ_PEND ≠ Reg.SENSE_URG_RESULT k := reg_ne_of_off (by decide) (by decide) (by decide)
  have hlarge : ¬ k < 4 := by omega
  unfold State.writeUrg
  extract_lets i c u
  have hi : i = fld v 5 0 := if_neg hlarge
  rw [if_neg (by simp [hgo]), if_neg hlarge, if_neg (by omega), if_neg hcause]
  constructor
  · refine (State.getF_congr (State.rd_evt_ne hpend)).trans ?_
    exact (State.getF_putF_other (by decide) (by decide) (by decide) (by decide)).trans (State.getF_putF (by decide) (by decide))
  · exact (State.bit_congr (State.rd_evt_ne hpend)).trans (State.bit_putBit (by decide))

/-- A result that is out is valid, and its request is over. -/
theorem State.urgDone_shown {s : State} {k code : Nat} :
    ((((s.setUrg k none).putF (Reg.SENSE_URG_RESULT k) 15 0 code).putBit (Reg.SENSE_URG_RESULT k) 31 true).evt (sensePage k) 0).bit
      (Reg.SENSE_URG_RESULT k) 31 = true ∧
    ((((s.setUrg k none).putF (Reg.SENSE_URG_RESULT k) 15 0 code).putBit (Reg.SENSE_URG_RESULT k) 31 true).evt (sensePage k) 0).urg k = none := by
  have hpend : sensePage k + Hdr.IRQ_PEND ≠ Reg.SENSE_URG_RESULT k := reg_ne_of_off (by decide) (by decide) (by decide)
  refine ⟨(State.bit_congr (State.rd_evt_ne hpend)).trans (State.bit_putBit (by decide)), ?_⟩
  exact (State.urg_congr (s := s.setUrg k none) (by rw [State.evt_sns, State.putBit_sns, State.putF_sns])).trans State.urg_setUrg_none

/-- Settles O43: each event is the branch that the group and its urgent request choose; the request and its page are read back
through the updates of the others. -/
theorem senseCommands : Obligations.SenseCommands := by
  intro s
  refine ⟨?_, ?_, ?_, ?_, ?_, ?_, ?_, ?_, ?_, ?_, ?_⟩
  · intro g raw other t hglt hheld hpark hseqon hgrpfailed
    exact congrArg Host.Outcome.next (if_neg (by rw [hheld, hseqon, hgrpfailed]; simp only [not_or]; exact ⟨by omega, by decide, by omega, by decide, by decide⟩))
  · intro g refOk fail t hglt hheld hpark hseqon hgrpfailed hlength
    exact congrArg Host.Outcome.next (if_neg (by rw [hheld, hseqon, hgrpfailed]; simp only [not_or]; exact ⟨by omega, by decide, by omega, by decide, by decide, by omega⟩))
  · intro req g value hglt hgo
    exact congrArg Host.Outcome.next ((if_pos hglt).trans (State.checkedWrite_go hgo))
  · intro req g value hgo hglt hbit hstaged
    exact congrArg Host.Outcome.next ((if_pos hglt).trans ((State.checkedWrite_go hgo).trans ((if_neg (by simp [hbit])).trans (if_pos hstaged))))
  · intro t k hturn₁ hpark hc hspare₁ hspare₂ hdue hturn₂ hretry
    have hmay : ¬ ((s.tickTo t).boot.held = true ∨ 2 ≤ (s.tickTo t).park.stage ∨ (!(s.tickTo t).bit Reg.SENSE4_CTL 0) = true ∨ (s.tickTo t).spare = 7 ∨
        (s.tickTo t).conv' (s.tickTo t).spare ≠ 1 ∨ (s.tickTo t).sns.due.isSome = true ∨
        (!(s.tickTo t).seqOn (((s.tickTo t).sns.turn + k) % 4)) = true ∨
        (!(s.tickTo t).sns.retry) = true ∧
          (s.tickTo t).clk.base < (s.tickTo t).sns.lastSwap + 400000 * (s.tickTo t).getF Reg.SENSE4_CAL_PERIOD 15 0) := by
      simp only [not_or]
      refine ⟨by rw [hpark.1]; decide, by omega, by rw [hc]; decide, hspare₁, not_not.mpr hspare₂, by rw [hdue]; decide, by rw [hturn₂]; decide, ?_⟩
      rintro ⟨hnot, hlate⟩
      obtain hretry | hperiod := hretry
      · rw [hretry] at hnot
        exact absurd hnot (by decide)
      · omega
    refine ⟨{ s.tickTo t with sns := { (s.tickTo t).sns with due := some (((s.tickTo t).sns.turn + k) % 4) } }, congrArg Host.Outcome.next ?_, rfl⟩
    rw [hturn₁]
    exact if_neg hmay
  · intro ok t b hcal hheld hdue hspare hc
    have hmay : ¬ ((s.tickTo t).boot.held = true ∨ (s.tickTo t).clk.base < b + 400000 ∨ (s.tickTo t).spare = 7 ∨
        (!(s.tickTo t).bit Reg.SENSE4_CTL 0) = true) := by
      simp only [not_or]
      exact ⟨by rw [hheld]; decide, by omega, hspare, by rw [hc]; decide⟩
    refine congrArg Host.Outcome.next ?_
    rw [hcal]
    exact if_neg hmay
  · intro req k value hklt hgo
    exact congrArg Host.Outcome.next ((if_pos hklt).trans (State.checkedWrite_go hgo))
  · intro req k value hgo hklt hlength hbit hc hurgcause
    refine ⟨_, congrArg Host.Outcome.next ((if_pos (by omega)).trans (State.checkedWrite_go hgo)), ?_⟩
    exact State.writeUrg_waits hklt hlength hbit hc hurgcause
  · intro req k value hgo hc₁ hbit hc₂ hurgcause
    refine ⟨_, congrArg Host.Outcome.next ((if_pos (by omega)).trans (State.checkedWrite_go hgo)), ?_⟩
    exact State.writeUrg_refused hc₁ hbit hc₂ hurgcause
  · intro k raw t i b hurg hklt hpark hdue
    refine congrArg Host.Outcome.next ?_
    rw [hurg]
    exact if_neg (by omega)
  · intro k raw t i b hklt hpark hdue h2
    obtain ⟨hurg, hpark⟩ := hpark
    refine ⟨_, congrArg Host.Outcome.next ?_, State.urgDone_shown (s := s.tickTo t) (code := enc 16 (senseCode raw).1)⟩
    rw [hurg]
    exact (if_neg (by omega)).trans (if_neg (by rw [h2]; decide))

end Sys2Proof.Machine
end

section
/-! The statement of the speaker protection's commands (spec/18). -/

namespace Sys2Proof.Machine

/-- Where every channel that is named is in LOCKOUT, CLR takes them all to RETRY (R558). -/
theorem State.writeClr_lockout {s : State} {req : Requester} {v : Nat}
    (h : (((List.range 16).filter fun j => v.testBit j).all fun j => s.protState j == PrSt.LOCKOUT) = true) :
    s.writeClr req v =
      (s.each ((List.range 16).filter fun j => v.testBit j) fun s j => s.putF (Reg.PROT_CH_STAT j) 7 0 PrSt.RETRY).gateSync false := by
  have hnone : ¬ (((List.range 16).filter fun j => v.testBit j).any fun j => s.protState j != PrSt.LOCKOUT) = true := by
    rw [Bool.not_eq_true, List.any_eq_false]
    exact fun j hj => by simpa using List.all_eq_true.mp h j hj
  unfold State.writeClr
  dsimp only
  rw [if_neg hnone, List.filter_eq_self.mpr (List.all_eq_true.mp h)]

/-- Settles O44: each event is the branch that the state of the channel chooses; CLR takes effect where every channel it names is
in LOCKOUT. -/
theorem protectionCommands : Obligations.ProtectionCommands := by
  intro s
  refine ⟨?_, ?_, ?_, ?_, ?_, ?_, ?_, ?_, ?_, ?_⟩
  · intro j t hjlt hheld
    exact congrArg Host.Outcome.next (if_neg (by rw [hheld]; simp only [not_or]; exact ⟨by omega, by decide⟩))
  · intro j t hjlt hheld hprotstate hdue
    refine congrArg Host.Outcome.next ?_
    simp only [hjlt, hheld, hprotstate, hdue]; rfl
  · intro j t hjlt hprotstate hph hdue
    exact congrArg Host.Outcome.next (if_pos ⟨hjlt, hprotstate, hph, hdue⟩)
  · intro req value hgo
    exact congrArg Host.Outcome.next (State.checkedWrite_go hgo)
  · intro req value hgo hbit
    exact congrArg Host.Outcome.next ((State.checkedWrite_go hgo).trans (State.writeClr_lockout hbit))
  · intro req value hgo
    exact congrArg Host.Outcome.next (State.checkedWrite_go hgo)
  · intro hheld
    exact congrArg Host.Outcome.next (if_neg (by simp [hheld]))
  · exact congrArg Host.Outcome.next (if_pos (by simp []))
  · intro req value hgo
    exact congrArg Host.Outcome.next (State.checkedWrite_go hgo)
  · intro req value hgo hbit
    exact congrArg Host.Outcome.next ((State.checkedWrite_go hgo).trans (if_pos (by simp [hbit])))

end Sys2Proof.Machine
end

section
/-! The statement of the channels of the waveform sequencer (spec/17). -/

namespace Sys2Proof.Machine

/-- Settles O45: each event is the branch that the state of the channel chooses. -/
theorem wseqChannelCommands : Obligations.WseqChannelCommands := by
  intro s
  refine ⟨?_, ?_, ?_, ?_, ?_, ?_, ?_⟩
  · intro u t ecc word hrel hult hc hchimed
    refine congrArg Host.Outcome.next ((if_neg ?_).trans ((if_pos hult).trans (if_pos ⟨hc, by rw [hchimed]; rfl⟩)))
    rw [hrel]
    simp only [Bool.not_true, Bool.false_eq_true, false_or]
    omega
  · intro u t ecc word hrel hult hc
    refine congrArg Host.Outcome.next ((if_neg ?_).trans ((if_pos hult).trans (if_neg ?_)))
    · rw [hrel]
      simp only [Bool.not_true, Bool.false_eq_true, false_or]
      omega
    · rwa [Bool.not_eq_true']
  · intro u t ecc word hrel hc hult
    exact congrArg Host.Outcome.next ((if_neg (by simp [hrel, hult])).trans (if_neg (by simp [hc])))
  · intro req j value hjlt hgo
    exact congrArg Host.Outcome.next ((if_pos hjlt).trans (State.checkedWrite_go hgo))
  · intro req j value hgo hjlt hc
    have hfree : ¬ (((s.respOk []).rd (Reg.WSEQ_CH_CFG j)).testBit 0 = true ∧
        ((value ^^^ (s.respOk []).rd (Reg.WSEQ_CH_CFG j)) &&& 0xFFFF0702) ≠ 0) := fun h => by
      rw [← State.bit_eq_testBit, State.bit_respOk, hc] at h
      exact Bool.false_ne_true h.1
    exact congrArg Host.Outcome.next ((if_pos hjlt).trans ((State.checkedWrite_go hgo).trans (if_neg hfree)))
  · intro j t hjlt hph hdue
    exact congrArg Host.Outcome.next (if_pos ⟨hjlt, hph, hdue⟩)
  · intro j t hjlt hph hdue
    exact congrArg Host.Outcome.next (if_pos ⟨hjlt, hph, hdue⟩)

end Sys2Proof.Machine
end

section
/-! The statement of the instructions of a thread of the waveform sequencer (spec/17). -/

namespace Sys2Proof.Machine

/-- Settles O46: a thread that runs takes the word at its PC, and the loops and calls that are open choose the branch. -/
theorem threadCommands : Obligations.ThreadCommands := by
  intro s
  refine ⟨?_, ?_, ?_, ?_, ?_, ?_, ?_, ?_, ?_, ?_, ?_, ?_, ?_, ?_, ?_, ?_, ?_, ?_, ?_, ?_, ?_, ?_, ?_, ?_, ?_⟩
  · intro req h hhlt hgo
    exact congrArg Host.Outcome.next ((if_pos hhlt).trans (State.checkedWrite_go hgo))
  · intro req h hgo hhlt
    exact congrArg Host.Outcome.next ((if_pos (by simp [hhlt])).trans ((State.checkedWrite_go hgo).trans (if_pos (by simp))))
  · intro req h hhlt hgo
    exact congrArg Host.Outcome.next ((if_pos hhlt).trans (State.checkedWrite_go hgo))
  · intro req h hgo hhlt hc
    exact congrArg Host.Outcome.next ((if_pos hhlt).trans ((State.checkedWrite_go hgo).trans ((if_neg (by decide)).trans (if_pos hc))))
  · intro h t ecc w v hword hop
    exact congrArg Host.Outcome.next (State.thrInstr_next hword (by simp [hop]))
  · intro h t ecc w v hword hop
    exact congrArg Host.Outcome.next (State.thrInstr_next hword (by simp [hop]))
  · intro h t ecc w v hword hop
    exact congrArg Host.Outcome.next (State.thrInstr_next hword (by simp [hop]))
  · intro h t ecc w v hword hop
    exact congrArg Host.Outcome.next (State.thrInstr_next hword (by simp [hop]))
  · intro h t ecc w v hword hop hc hvec
    refine congrArg Host.Outcome.next ((State.thrInstr_next hword (by rw [hop]; rfl)).trans ?_)
    dsimp only
    rw [if_neg hc, if_neg hc, hvec]
  · intro h t ecc w v hword hop
    exact congrArg Host.Outcome.next (State.thrInstr_next hword (by simp [hop]))
  · intro h t ecc w v hword hop hlength hc
    refine congrArg Host.Outcome.next ((State.thrInstr_next hword (by rw [hop]; rfl)).trans ((if_neg (Nat.not_le.mpr hlength)).trans ?_))
    dsimp only
    rw [if_neg hc, if_neg hc]
  · intro h t ecc w v hword hop
    exact congrArg Host.Outcome.next (State.thrInstr_next hword (by simp [hop]))
  · intro h t ecc w v hword hop hany
    refine congrArg Host.Outcome.next ((State.thrInstr_next hword (by rw [hop]; rfl)).trans ?_)
    match hloops : (v.thr h).loops with
    | [] => simp [hloops] at hany
    | (a, n) :: l => exact if_pos (by simpa [hloops] using hany)
  · intro h t ecc w v hword hop h2
    refine congrArg Host.Outcome.next ((State.thrInstr_next hword (by rw [hop]; rfl)).trans ?_)
    match hloops : (v.thr h).loops with
    | [] => simp [hloops] at h2
    | (a, n) :: l =>
      have hlast : n ≤ 1 := by simpa [hloops] using h2
      exact if_neg (Nat.not_lt.mpr hlast)
  · intro h t ecc w v hword hop
    exact congrArg Host.Outcome.next (State.thrInstr_next hword (by simp [hop]))
  · intro h t ecc w v hword hop hlength
    exact congrArg Host.Outcome.next ((State.thrInstr_next hword (by rw [hop]; rfl)).trans (if_neg (Nat.not_le.mpr hlength)))
  · intro h t ecc w v hword hop
    exact congrArg Host.Outcome.next (State.thrInstr_next hword (by simp [hop]))
  · intro h t ecc w v hword hop hcalls
    refine congrArg Host.Outcome.next ((State.thrInstr_next hword (by rw [hop]; rfl)).trans ?_)
    match hstack : (v.thr h).calls with
    | [] => exact absurd hstack hcalls
    | a :: l => rfl
  · intro h t ecc w v hword hop
    exact congrArg Host.Outcome.next (State.thrInstr_next hword (by simp [hop]))
  · intro h t ecc w v hword hop
    exact congrArg Host.Outcome.next (State.thrInstr_next hword (by simp [hop]))
  · intro h t hhlt hc hthrstate hdue
    exact congrArg Host.Outcome.next (if_pos ⟨hhlt, hc, hthrstate, hdue⟩)
  · intro h t ecc w v hword hop
    exact congrArg Host.Outcome.next (State.thrInstr_next hword (by simp [hop]))
  · intro h t ecc w v hword hop
    exact congrArg Host.Outcome.next (State.thrInstr_next hword (by simp [hop]))
  · intro h t ecc w v hword hop
    exact congrArg Host.Outcome.next (State.thrInstr_next hword (by simp [hop]))
  · intro h t ecc w v hword hc
    exact congrArg Host.Outcome.next (State.thrInstr_next hword (by simp [hc]))

end Sys2Proof.Machine
end

section
/-! The statement of segments, lines and chime lanes (spec/17, 18). -/

namespace Sys2Proof.Machine

/-- The guard of the end of a segment, once the segment has been played. -/
theorem segment_over {h rep : Nat} {pos fin : Rat} (hh : h < 4) (hrep : rep ≠ 0) (hfin : fin ≤ pos) : ¬ (4 ≤ h ∨ rep = 0 ∨ pos < fin) := by
  simp only [not_or]
  exact ⟨by omega, hrep, not_lt.mpr hfin⟩

/-- Settles O47: a segment is over at its end, and what follows it chooses between a gap, a silence and a begin. -/
theorem playCommands : Obligations.PlayCommands := by
  intro s
  refine ⟨?_, ?_, ?_, ?_, ?_, ?_, ?_, ?_, ?_, ?_⟩
  · intro h t c hhlt hcur hrep₁ hrep₂ hnext
    refine congrArg Host.Outcome.next ?_
    rw [hcur]
    refine (if_neg (segment_over hhlt hrep₁ hrep₂)).trans ?_
    rw [hnext]
  · intro h t c n hhlt hcur hrep₁ hrep₂ hnext hisnone
    refine congrArg Host.Outcome.next ?_
    rw [hcur]
    refine (if_neg (segment_over hhlt hrep₁ hrep₂)).trans ?_
    rw [hnext]
    exact if_neg (by rw [hisnone]; decide)
  · intro h t c n hhlt hcur hrep₁ hrep₂ hnext hline
    refine congrArg Host.Outcome.next ?_
    rw [hcur]
    refine (if_neg (segment_over hhlt hrep₁ hrep₂)).trans ?_
    rw [hnext]
    exact if_pos (by rw [hline]; rfl)
  · intro l t e h2
    refine congrArg Host.Outcome.next ?_
    rw [h2]
  · intro req value hgo
    exact congrArg Host.Outcome.next (State.checkedWrite_go hgo)
  · intro req value hgo hheart
    exact congrArg Host.Outcome.next (State.heartWrite_go hgo hheart)
  · intro req value hgo hheart hbit
    exact congrArg Host.Outcome.next ((State.heartWrite_go hgo hheart).trans (if_neg (by simp [hbit])))
  · intro req l value hllt hgo hheart
    exact congrArg Host.Outcome.next ((if_pos hllt).trans (State.heartWrite_go hgo hheart))
  · intro req l value hllt hgo hheart hbit
    exact congrArg Host.Outcome.next ((if_pos hllt).trans ((State.heartWrite_go hgo hheart).trans (if_pos hbit)))
  · intro l t p hplay hllt hrep₁ hrep₂
    refine congrArg Host.Outcome.next ?_
    rw [hplay]
    exact if_pos ⟨hllt, hrep₁, hrep₂⟩

end Sys2Proof.Machine
end

section
/-! The statement of the streams, the memory port and the load engine of the waveform sequencer (spec/17). -/

namespace Sys2Proof.Machine

/-- A word of the program memory is written whatever the chime's area (R541). -/
theorem State.writeMemData_program {s : State} {req : Requester} {v : Nat} (h : s.bit Reg.WSEQ_MEM_ADDR 31 = true) :
    s.writeMemData req v = (s.wseqWord (s.rd Reg.WSEQ_MEM_ADDR) v).memNext := by
  rw [State.bit_eq_testBit] at h
  unfold State.writeMemData
  exact if_neg (by simp [h])

/-- GO of the load engine starts a load where none is under way (R539). -/
theorem State.writeLdGo_starts {s : State} {req : Requester} {v : Nat} (hgo : v.testBit 0 = true) (hfree : s.wseq.load = none) :
    (s.writeLdGo req v).wseq.load.isSome = true ∧ (s.writeLdGo req v).rd Reg.WSEQ_LD_STAT = 1 := by
  unfold State.writeLdGo
  rw [if_neg (by simp [hgo, hfree])]
  exact ⟨rfl, State.rd_wr_same⟩

/-- Settles O48: a word of the program memory and a free load engine take a write at once; the read of a block ends by the answer
of its memory. -/
theorem wseqMemoryCommands : Obligations.WseqMemoryCommands := by
  intro s
  refine ⟨?_, ?_, ?_, ?_, ?_, ?_, ?_, ?_⟩
  · intro k t env hklt hrel hc
    exact congrArg Host.Outcome.next (if_neg (by simp [hklt, hrel, hc]))
  · intro req value hgo
    exact congrArg Host.Outcome.next (State.checkedWrite_go hgo)
  · intro k t env d v hklt hrel hc₁ hcEntry hlength hc₂ hc₃
    refine congrArg Host.Outcome.next ((if_neg ?_).trans ((if_neg ?_).trans ?_))
    · rw [hrel, hc₁]
      simp only [Bool.not_true, Bool.false_eq_true, or_false]
      omega
    · rw [hcEntry]
      decide
    · rw [Nat.min_eq_left hc₂]
      refine (if_neg ?_).trans ?_
      · simp only [not_or]
        exact ⟨by omega, by decide, fun h => absurd h.1 (by decide)⟩
      · dsimp only
        rw [hc₃]
  · intro req value hgo hc
    exact congrArg Host.Outcome.next ((State.checkedWrite_go hgo).trans (State.writeMemData_program hc))
  · intro req ecc
    rfl
  · intro req value hgo
    exact congrArg Host.Outcome.next (State.checkedWrite_go hgo)
  · intro req value hgo hbit hload
    exact ⟨_, congrArg Host.Outcome.next (State.checkedWrite_go hgo), State.writeLdGo_starts hbit hload⟩
  · intro t env l hload
    refine congrArg Host.Outcome.next ?_
    rw [hload]

end Sys2Proof.Machine
end

section
/-! The statement of the audio loop engines (spec/19). -/

namespace Sys2Proof.Machine

/-- A transfer with a legal length joins a queue that holds one to three (R598). -/
theorem State.writeExpPush_joins {s : State} {req : Requester} {n v : Nat} (hpush : v.testBit 0 = true)
    (hnz : s.getF (Reg.ALE_EXP_LEN n) 16 0 ≠ 0) (hmod : s.getF (Reg.ALE_EXP_LEN n) 16 0 % 64 = 0)
    (hmax : s.getF (Reg.ALE_EXP_LEN n) 16 0 ≤ 65536) (hroom : (s.ale n).queue.length < 4) (hbusy : (s.ale n).queue ≠ []) :
    s.writeExpPush req n v = (s.setAle n fun (a : Ale) => { a with queue := a.queue ++ [{
      src := s.getF (Reg.ALE_EXP_SRC n) 17 6 * 64
      dst := 2 ^ 32 * s.getF (Reg.ALE_EXP_DST_HI n) 15 0 + s.getF (Reg.ALE_EXP_DST_LO n) 31 6 * 64
      len := s.getF (Reg.ALE_EXP_LEN n) 16 0, tkt := v.testBit 1, irq := v.testBit 2, db := v.testBit 4
      ring := fld v 13 8 }] }).expSync n := by
  unfold State.writeExpPush
  extract_lets len q first u
  rw [if_neg (by simp [hpush]), if_neg (by omega)]
  exact if_neg (by simpa [first] using hbusy)

/-- Settles O49: a push with a legal length and room joins the queue; the running transfer of a core goes on by what it still has
to send. -/
theorem aleCommands : Obligations.AleCommands := by
  intro s
  refine ⟨?_, ?_, ?_, ?_, ?_, ?_, ?_, ?_, ?_⟩
  · intro d t hdlt hrel htken hc hpark
    exact congrArg Host.Outcome.next (if_pos ⟨hdlt, hrel, htken, hc, hpark⟩)
  · intro n t k b l hwakes hnlt halerun hdue
    refine congrArg Host.Outcome.next ?_
    rw [hwakes]; exact if_neg (by simp [hnlt, halerun, hdue])
  · intro req n value t hnlt hgo
    exact congrArg Host.Outcome.next ((if_pos hnlt).trans (State.checkedWrite_go hgo))
  · intro req n value hnlt hgo
    exact congrArg Host.Outcome.next ((if_pos hnlt).trans (State.checkedWrite_go hgo))
  · intro req n value hgo hnlt hbit hc₁ hc₂ hc₃ hroom hqueue
    exact congrArg Host.Outcome.next ((if_pos hnlt).trans ((State.checkedWrite_go hgo).trans
      (State.writeExpPush_joins hbit hc₁ hc₂ hc₃ hroom hqueue)))
  · intro n env t q hhead hnlt hissome hale_stat
    refine congrArg Host.Outcome.next ?_
    rw [hhead]; exact if_neg (by simp [hnlt, hissome, hale_stat])
  · intro n env t q o w x hnlt hhead hask hale_stat hsent hlen hdst
    refine congrArg Host.Outcome.next ?_
    simp [hnlt, hhead, hask, hale_stat, hsent, hlen, hdst]
  · intro req n value hnlt hgo
    exact congrArg Host.Outcome.next ((if_pos hnlt).trans (State.checkedWrite_go hgo))
  · intro n code t hnlt halerun hc
    exact congrArg Host.Outcome.next (if_pos ⟨hnlt, halerun, hc⟩)

end Sys2Proof.Machine
end

section
/-! The statement of the audio ports (spec/19). -/

namespace Sys2Proof.Machine

/-- Settles O50: each event is the branch that the port, its route and the PLL choose. -/
theorem audioPortCommands : Obligations.AudioPortCommands := by
  intro s
  refine ⟨?_, ?_, ?_, ?_, ?_, ?_⟩
  · intro p rx t hplt hrel hporten hplllock hpark
    exact congrArg Host.Outcome.next (if_pos ⟨hplt, hrel, hporten, hplllock, hpark⟩)
  · intro i k v t hilt hrel hporten hplllock haport_ctl htestbit hpdmtkok hpdmtk hpark
    exact congrArg Host.Outcome.next (if_pos ⟨hilt, hrel, hporten, hplllock, haport_ctl, htestbit, hpdmtkok, hpdmtk, hpark⟩)
  · intro p t hplt hrel hporten haport_ctl
    exact congrArg Host.Outcome.next (if_neg (by simp [hplt, hrel, hporten, haport_ctl]))
  · intro p t b hplt hrel hporten haport_ctl hlost hdue
    refine congrArg Host.Outcome.next ?_
    simp [hplt, hrel, hporten, haport_ctl, hlost, hdue]
  · intro hrel hplllock
    exact congrArg Host.Outcome.next (if_pos ⟨hrel, hplllock⟩)
  · intro hrel hplllock
    exact congrArg Host.Outcome.next (if_pos (by simp [hrel, hplllock]))

end Sys2Proof.Machine
end

section
/-! The statement of the cameras (spec/20). -/

namespace Sys2Proof.Machine

/-- Slots within the filled ones are released: RD is then the value written (R618). -/
theorem State.rd_writeCamRd {s : State} {req : Requester} {p k v : Nat} (hnew : fld v 3 0 < max (s.camSlots p k) 1)
    (hfilled : (fld v 3 0 + max (s.camSlots p k) 1 - s.getF (Reg.CAM_RD p k) 3 0 % max (s.camSlots p k) 1) % max (s.camSlots p k) 1 ≤
      s.camLevel p k) : (s.writeCamRd req p k v).getF (Reg.CAM_RD p k) 3 0 = fld v 3 0 := by
  have hstat : Reg.CAM_SSTAT p k ≠ Reg.CAM_RD p k := by unfold Reg.CAM_SSTAT Reg.CAM_RD; omega
  have hfld : fld v 3 0 % 2 ^ (3 + 1 - 0) = fld v 3 0 := Nat.mod_eq_of_lt fld_lt
  unfold State.writeCamRd State.camWrSync
  extract_lets n a new free
  rw [if_neg (not_or.mpr ⟨Nat.not_le.mpr hnew, Nat.not_lt.mpr hfilled⟩)]
  exact (State.getF_putF_ne hstat).trans ((State.getF_putF_ne hstat).trans ((State.getF_putF (by decide) (by decide)).trans hfld))

/-- Settles O51: each event is the branch that the port, its streams and their slots choose; RD within the slots filled is read
back. -/
theorem cameraCommands : Obligations.CameraCommands := by
  intro s
  refine ⟨?_, ?_, ?_, ?_, ?_, ?_, ?_, ?_, ?_⟩
  · intro t hrel
    exact congrArg Host.Outcome.next (if_pos (by simp [hrel]))
  · intro p vc num hdr t hcamon
    exact congrArg Host.Outcome.next (if_neg (by simp [hcamon]))
  · intro p vc dt payload hdr crc room t hcamon
    exact congrArg Host.Outcome.next (if_neg (by simp [hcamon]))
  · intro p vc hdr t hcamon
    exact congrArg Host.Outcome.next (if_neg (by simp [hcamon]))
  · intro p k t env f l hended
    refine congrArg Host.Outcome.next ?_
    rw [hended] <;> rfl
  · intro p k t env f l hended hbuf h1
    refine congrArg Host.Outcome.next ?_
    simp only [hended, hbuf, h1]; rfl
  · intro req p k value hplt hklt hgo
    exact congrArg Host.Outcome.next ((if_pos ⟨hplt, hklt⟩).trans (State.checkedWrite_go hgo))
  · intro req p k value hgo hplt hklt hc hcamslots
    exact ⟨_, congrArg Host.Outcome.next ((if_pos ⟨hplt, hklt⟩).trans (State.checkedWrite_go hgo)), State.rd_writeCamRd hc hcamslots⟩
  · intro p t hcamon hcam_stat hdue
    exact congrArg Host.Outcome.next (if_pos ⟨hcamon, hcam_stat, hdue⟩)

end Sys2Proof.Machine
end

section
/-! The statement of the display outputs (spec/20). -/

namespace Sys2Proof.Machine

/-- The write that enables a pipeline starts the training of its link (R622). -/
theorem State.writeVoutCtl_enables {s : State} {req : Requester} {v x : Nat} (hoff : s.bit (Reg.VOUT_CTL v) 0 = false)
    (hen : x.testBit 0 = true) : s.writeVoutCtl req v x = ((s.heldWrite req (Reg.VOUT_CTL v) x 0).setVout v fun (y : Vout) =>
      { y with training := true, failAt := (s.heldWrite req (Reg.VOUT_CTL v) x 0).clk.base }).putBit (Reg.VOUT_STAT v) 7 false := by
  unfold State.writeVoutCtl
  dsimp only
  rw [hoff, if_pos (by rw [hen]; rfl)]
  rfl

/-- GO on an eDP link with no transaction under way starts one (R625). -/
theorem State.rd_writeAux {s : State} {req : Requester} {v x : Nat} (hgo : x.testBit 31 = true) (hedp : s.isEdp v = true)
    (htrain : (s.vout v).training = false) (hfree : s.bit (Reg.VOUT_AUX_STAT v) 0 = false) :
    (s.writeAux req v x).rd (Reg.VOUT_AUX_STAT v) = 1 := by
  unfold State.writeAux
  rw [if_neg (by simp [hgo]), if_neg (by simp [hedp, htrain]), if_neg (by simp [hfree])]
  exact State.rd_emit.trans State.rd_wr_same

/-- Settles O52: each event is the branch that the pipeline and its link choose; a write of AUX_CMD on a free eDP link starts its
transaction. -/
theorem displayCommands : Obligations.DisplayCommands := by
  intro s
  refine ⟨?_, ?_, ?_, ?_, ?_, ?_, ?_, ?_, ?_, ?_, ?_, ?_, ?_, ?_, ?_, ?_, ?_, ?_⟩
  · intro req v value hvlt hgo
    exact congrArg Host.Outcome.next ((if_pos hvlt).trans (State.checkedWrite_go hgo))
  · intro req v value hgo hvlt hvout_ctl hbit
    exact congrArg Host.Outcome.next ((if_pos hvlt).trans ((State.checkedWrite_go hgo).trans (State.writeVoutCtl_enables hvout_ctl hbit)))
  · intro v ok t hvouten htraining
    exact congrArg Host.Outcome.next (if_neg (by simp [hvouten, htraining]))
  · intro v t hvouten htraining hlinkfits
    refine congrArg Host.Outcome.next ?_
    simp only [hvouten, htraining, hlinkfits]; rfl
  · intro v t hvouten htraining
    exact congrArg Host.Outcome.next (if_neg (by simp [hvouten, htraining]))
  · intro v t hvouten hvoutstate hvout_stat htraining hdue
    exact congrArg Host.Outcome.next (if_pos (by simp [hvouten, hvoutstate, hvout_stat, htraining, hdue]))
  · intro v t hvlt hrel
    exact congrArg Host.Outcome.next (if_pos ⟨hvlt, hrel⟩)
  · intro v hvlt hrel
    exact congrArg Host.Outcome.next (if_pos ⟨hvlt, hrel⟩)
  · intro req v value hvlt hgo
    exact congrArg Host.Outcome.next ((if_pos hvlt).trans (State.checkedWrite_go hgo))
  · intro req v value hgo hvlt hbit
    exact congrArg Host.Outcome.next ((if_pos (by simp [hvlt])).trans ((State.checkedWrite_go hgo).trans (if_pos (by simp [hbit]))))
  · intro v t hvlt hvoutstate
    exact congrArg Host.Outcome.next (if_neg (by simp [hvlt, hvoutstate]))
  · intro v t hvlt hvoutstate
    exact congrArg Host.Outcome.next (if_neg (by simp [hvlt, hvoutstate]))
  · intro v l x y t env c hvlt hllt hvoutstate hlayerat hinfifo
    refine congrArg Host.Outcome.next ((if_neg (by omega)).trans ?_)
    rw [hlayerat]
    exact if_neg (by rw [hinfifo]; decide)
  · intro req v value hvlt hbit hgo
    exact congrArg Host.Outcome.next ((if_pos ⟨hvlt, by rw [hbit]; rfl⟩).trans (State.checkedWrite_go hgo))
  · intro req v value hgo hvlt hbit₁ hbit₂ hrespok htraining hc
    refine ⟨_, congrArg Host.Outcome.next ((if_pos ⟨hvlt, by rw [hbit₁]; rfl⟩).trans (State.checkedWrite_go hgo)), ?_⟩
    exact State.rd_writeAux hbit₂ hrespok htraining hc
  · intro req v value hvlt hbit hgo
    exact congrArg Host.Outcome.next ((if_pos ⟨hvlt, hbit⟩).trans (State.checkedWrite_go hgo))
  · intro req v value hgo hvlt hbit₁ hbit₂ hrespok htraining hc
    refine ⟨_, congrArg Host.Outcome.next ((if_pos ⟨hvlt, hbit₁⟩).trans (State.checkedWrite_go hgo)), ?_⟩
    exact State.rd_writeAux hbit₂ hrespok htraining hc
  · intro v result data x y haux hc₁ hc₂
    refine congrArg Host.Outcome.next ?_
    rw [haux]; exact if_neg (by simp [hc₁, hc₂])

end Sys2Proof.Machine
end

section
/-! The statement of the frames of the gateway (spec/21). -/

namespace Sys2Proof.Machine

theorem State.gw_regStore {s : State} {req : Requester} {a v : Nat} : (s.regStore req a v).gw = s.gw := by
  unfold State.regStore State.regStoreBut
  split
  · rfl
  · extract_lets resv old locked u u1 u2
    have hu1 : u1.gw = s.gw := by
      unfold u1
      split <;> rfl
    have hu2 : u2.gw = s.gw := by
      unfold u2
      split
      · exact hu1
      · exact hu1
    exact hu2

/-- COMMIT leaves the staged list pending (R636). -/
theorem State.pend_writeQbvCtl {s : State} {req : Requester} {p v : Nat} (hp : p < 4) (hlen : s.gw.qbv.length = 4)
    (hcommit : v.testBit 1 = true) :
    (s.writeQbvCtl req p v).bit (Reg.ETH_QBV_STAT p) 0 = true ∧ ((s.writeQbvCtl req p v).qbv p).pend.isSome = true := by
  unfold State.writeQbvCtl
  extract_lets u n list cycle base least due
  have hqbv : u.gw.qbv.length = 4 := by
    rw [show u.gw = s.gw from State.gw_regStore, hlen]
  rw [if_neg (by simp [hcommit])]
  refine ⟨State.bit_putBit (by decide), ?_⟩
  show ((updAt u.gw.qbv p fun q => { q with pend := some (list, cycle, due) }).getD p {}).pend.isSome = true
  rw [getD_updAt (by omega)]
  rfl

/-- Settles O53: each event is the branch that the port, its list and its state choose; the staged list is read back as pending.
-/
theorem networkCommands : Obligations.NetworkCommands := by
  intro s
  refine ⟨?_, ?_, ?_, ?_, ?_, ?_, ?_, ?_, ?_, ?_, ?_, ?_⟩
  · intro p data ecc t hplt hrel hgwready hc hlength
    exact congrArg Host.Outcome.next (if_pos ⟨hplt, hrel, hgwready, hc, hlength⟩)
  · intro n fmt ide id xl data ecc t hnlt hrel hgwready hcanadmits hlength
    exact congrArg Host.Outcome.next (if_pos ⟨hnlt, hrel, hgwready, hcanadmits, hlength⟩)
  · intro p ecc t hplt
    exact congrArg Host.Outcome.next (if_pos (by simp [hplt]))
  · intro p t hplt
    exact congrArg Host.Outcome.next (if_pos (by simp [hplt]))
  · intro p t hplt
    exact congrArg Host.Outcome.next (if_neg (by simp [hplt]))
  · intro p t hplt hlist
    exact congrArg Host.Outcome.next (if_neg (by simp [hplt, hlist]))
  · intro p t hplt hlist hcycle
    refine congrArg Host.Outcome.next ?_
    simp [hplt, hlist, hcycle]
  · intro req p value hplt hgo
    exact congrArg Host.Outcome.next ((if_pos hplt).trans (State.checkedWrite_go hgo))
  · intro req p value hgo hplt hlength hbit
    exact ⟨_, congrArg Host.Outcome.next ((if_pos hplt).trans (State.checkedWrite_go hgo)), State.pend_writeQbvCtl hplt hlength hbit⟩
  · intro p t l c due hpend hplt hc
    refine congrArg Host.Outcome.next ?_
    rw [hpend]; exact if_neg (by simp [hplt, hc])
  · intro p up speed hplt hrel hc heth_stat
    exact congrArg Host.Outcome.next (if_pos ⟨hplt, hrel, hc, heth_stat⟩)
  · intro n st tec rec' proto hnlt hrel hcanx_ctl hc
    exact congrArg Host.Outcome.next (if_neg (by simp [hnlt, hrel, hcanx_ctl, hc]))

end Sys2Proof.Machine
end

section
/-! The statement of inspection, originated frames and the host queue of the gateway (spec/21). -/

namespace Sys2Proof.Machine

/-- A verdict that sends the head frame, where it is held for inspection: to its own ports with
code 0, to those of the mask otherwise. -/
theorem State.writeVerdict_sends {s : State} {req : Requester} {v : Nat} {f : GwFrame} (hgive : v.testBit 31 = true)
    (hcode : v % 4 < 2) (hhead : s.gw.head = some f) (hinsp : f.insp = true) :
    s.writeVerdict req v = (s.inspPop.feedSpeed f true).toPorts { f with insp := false }
      ((if v % 4 = 0 then f.egress else fld v 27 6) &&& 0x2FFFFF) := by
  refine (if_neg (by simp [hgive])).trans ((if_neg (by omega)).trans ?_)
  rw [hhead]
  exact if_neg (by simp only [hinsp, Bool.not_true, Bool.false_eq_true, or_false]; omega)

/-- A verdict with code 2 discards the head frame. -/
theorem State.writeVerdict_discards {s : State} {req : Requester} {v : Nat} {f : GwFrame} (hgive : v.testBit 31 = true)
    (hcode : v % 4 = 2) (hhead : s.gw.head = some f) : s.writeVerdict req v = s.inspPop := by
  refine (if_neg (by simp [hgive])).trans ((if_neg (by omega)).trans ?_)
  rw [hhead]
  exact if_pos (.inl hcode)

/-- A read of `INSP_DATA` with a head frame answers the next four bytes and moves on. -/
theorem State.readInspData_head {s : State} {f : GwFrame} (hhead : s.gw.head = some f) :
    s.readInspData = (s.setGw fun g => { g with pos := g.pos + 4 }).respOk
      ((f.data.drop s.gw.pos).take 4 ++ List.replicate (4 - ((f.data.drop s.gw.pos).take 4).length) 0) := by
  unfold State.readInspData
  rw [hhead]

/-- Settles O54: a verdict sends or discards the frame at the head, and every other write acts on the queue or table that its
fields name. -/
theorem inspectionCommands : Obligations.InspectionCommands := by
  intro s
  refine ⟨?_, ?_, ?_, ?_, ?_, ?_, ?_, ?_, ?_, ?_, ?_, ?_, ?_, ?_, ?_, ?_, ?_, ?_⟩
  · intro req hgo
    exact congrArg Host.Outcome.next (State.checkedWrite_go hgo)
  · intro req f hgo hhead hinsp
    refine congrArg Host.Outcome.next ((State.checkedWrite_go hgo).trans ?_)
    rw [State.writeVerdict_sends (s := s.respOk []) (by decide) (by decide) hhead hinsp, if_pos (by decide)]
  · intro req mask hgo
    exact congrArg Host.Outcome.next (State.checkedWrite_go hgo)
  · intro req mask f hgo hhead hinsp
    have hcode : (2 ^ 31 + mask % 2 ^ 22 * 64 + 1) % 4 = 1 := by omega
    have hgive : (2 ^ 31 + mask % 2 ^ 22 * 64 + 1).testBit 31 = true := by
      rw [Nat.testBit_eq_decide_div_mod_eq, decide_eq_true_eq]; omega
    refine congrArg Host.Outcome.next ((State.checkedWrite_go hgo).trans ?_)
    rw [State.writeVerdict_sends (s := s.respOk []) hgive (by omega) hhead hinsp, if_neg (by omega)]
  · intro req hgo
    exact congrArg Host.Outcome.next (State.checkedWrite_go hgo)
  · intro req f hgo hhead
    refine congrArg Host.Outcome.next ((State.checkedWrite_go hgo).trans ?_)
    exact State.writeVerdict_discards (s := s.respOk []) (by decide) (by decide) hhead
  · intro req
    rfl
  · intro req f hgo hhead
    refine ⟨_, congrArg Host.Outcome.next ((State.checkedRead_go hgo).trans (State.readInspData_head hhead)), rfl, rfl⟩
  · intro t f hhead hdue
    refine congrArg Host.Outcome.next ?_
    rw [hhead]; exact if_pos (by simp [hdue])
  · intro req value hgo
    exact congrArg Host.Outcome.next (State.checkedWrite_go hgo)
  · intro req value hgo hbit hlength
    refine ⟨_, congrArg Host.Outcome.next ((State.checkedWrite_go hgo).trans
      ((if_neg (by simp [hbit])).trans (if_pos hlength))), ?_⟩
    exact State.rd_wr_same ..
  · intro req value hgo hbit hc
    exact congrArg Host.Outcome.next ((State.checkedWrite_go hgo).trans
      ((if_neg (by simp [hbit])).trans (if_neg (Nat.not_lt.mpr hc))))
  · intro req value hgo
    exact ⟨_, congrArg Host.Outcome.next (State.checkedWrite_go hgo), rfl⟩
  · intro req value hgo
    exact congrArg Host.Outcome.next (State.checkedWrite_go hgo)
  · intro req value hgo hdecl
    exact congrArg Host.Outcome.next ((State.checkedWrite_go hgo).trans
      (if_neg (by rw [show (s.respOk []).cDecl = true from hdecl]; simp)))
  · intro req value ext hgo
    exact congrArg Host.Outcome.next (State.checkedWrite_go hgo)
  · intro req value hgo
    exact congrArg Host.Outcome.next (State.checkedWrite_go hgo)
  · intro req ecc hgo
    exact congrArg Host.Outcome.next (State.checkedRead_go hgo)

end Sys2Proof.Machine
end

section
/-! The statement of the links of the fabric (spec/22). -/

namespace Sys2Proof.Machine

/-- Settles O55: each event is the branch that the state of the port and of discovery choose. -/
theorem fabricLinkCommands : Obligations.FabricLinkCommands := by
  intro s
  refine ⟨?_, ?_, ?_, ?_, ?_, ?_, ?_⟩
  · intro p ok width rate hplt haEntry hrlink_ctl hlstate
    exact congrArg Host.Outcome.next (if_neg (by simp [hplt, haEntry, hrlink_ctl, hlstate]))
  · intro p t hplt hlstate hdue
    exact congrArg Host.Outcome.next (if_pos ⟨hplt, hlstate, hdue⟩)
  · intro p hup
    exact congrArg Host.Outcome.next (if_pos (by simp [hup]))
  · intro req value hgo
    exact congrArg Host.Outcome.next (State.checkedWrite_go hgo)
  · intro req value hgo hbit hrespok
    exact congrArg Host.Outcome.next ((State.checkedWrite_go hgo).trans ((if_pos hbit).trans (if_pos hrespok)))
  · intro node port t d hdisc hdue
    refine congrArg Host.Outcome.next ?_
    rw [hdisc]; exact if_pos (by simp [hdue])
  · intro t d hdisc hdue
    refine congrArg Host.Outcome.next ?_
    rw [hdisc]; exact if_pos (by simp [hdue])

end Sys2Proof.Machine
end

section
/-! The statement of the fabric's packets for this node (spec/22). -/

namespace Sys2Proof.Machine

/-- A packet for this node, at a port that is up of a node that answers and holds an ID, has its
effect once it is counted. -/
theorem State.fabArrive_here {s : State} {p kind : Nat} {h : FabHead} {data : List Nat} {eff : State → State}
    (hp : p < 4) (hup : s.portUp p = true) (hans : (s.gotPacket p data.length).answersFabric = true)
    (hid : (s.gotPacket p data.length).hasId = true) (hdst : h.dst = (s.gotPacket p data.length).nodeId) :
    s.fabArrive p kind h data eff = eff (s.gotPacket p data.length) :=
  (if_neg (by simp [hup, hp])).trans ((if_neg (by simp [hans])).trans (if_pos ⟨hid, hdst⟩))

/-- The same of the bytes of a packet with data. -/
theorem State.fabArrive_here_bytes {s : State} {p kind : Nat} {h : FabHead} {data : List Byte} {eff : State → State}
    (hp : p < 4) (hup : s.portUp p = true) (hans : (s.gotPacket p data.length).answersFabric = true)
    (hid : (s.gotPacket p data.length).hasId = true) (hdst : h.dst = (s.gotPacket p data.length).nodeId) :
    s.fabArrive p kind h (data.map fun b => b.toNat) eff = eff (s.gotPacket p data.length) := by
  have hlen : (data.map fun b => b.toNat).length = data.length := List.length_map _
  rw [← hlen] at hans hid hdst ⊢
  exact State.fabArrive_here hp hup hans hid hdst

/-- The same of a packet that carries no data. -/
theorem State.fabArrive_here_nil {s : State} {p kind : Nat} {h : FabHead} {eff : State → State}
    (hp : p < 4) (hup : s.portUp p = true) (hans : (s.gotPacket p 0).answersFabric = true)
    (hid : (s.gotPacket p 0).hasId = true) (hdst : h.dst = (s.gotPacket p 0).nodeId) :
    s.fabArrive p kind h [] eff = eff (s.gotPacket p 0) :=
  State.fabArrive_here (data := []) hp hup hans hid hdst

/-- Settles O56: a packet for this node has its effect once it is counted, and the office that it names chooses the answer. -/
theorem fabricPacketCommands : Obligations.FabricPacketCommands := by
  intro s
  refine ⟨?_, ?_, ?_, ?_, ?_, ?_, ?_, ?_, ?_, ?_, ?_, ?_, ?_, ?_, ?_⟩
  · intro p h t env
    rfl
  · intro p h t env hplt hup hc hhasid hdst
    exact congrArg Host.Outcome.next ((if_neg (by simp [hplt, hup])).trans ((if_neg (by simp [hc])).trans (if_pos (by simp [hhasid, hdst]))))
  · intro p h status data
    rfl
  · intro p h status data hplt hup hc hhasid hdst
    exact congrArg Host.Outcome.next (State.fabArrive_here_bytes hplt hup hc hhasid hdst)
  · intro p h data t env
    rfl
  · intro p h data t env hplt hup hc hhasid hdst
    exact congrArg Host.Outcome.next (State.fabArrive_here_bytes hplt hup hc hhasid hdst)
  · intro p h status
    rfl
  · intro p h status hplt hup hc hhasid hdst
    exact congrArg Host.Outcome.next ((if_neg (by simp [hplt, hup])).trans ((if_neg (by simp [hc])).trans (if_pos (by simp [hhasid, hdst]))))
  · intro p h t
    rfl
  · intro p h t k hplt hup hc₁ hhasid hdst haddr hklt hc₂
    refine congrArg Host.Outcome.next ?_
    rw [State.fabArrive_here_nil hplt hup hc₁ hhasid hdst]
    dsimp only
    rw [haddr]
    exact (if_neg (by omega)).trans (if_neg (by simp [hc₂]))
  · intro p h t hplt hup hc hhasid hdst haddr
    refine congrArg Host.Outcome.next ?_
    rw [State.fabArrive_here_nil hplt hup hc hhasid hdst]
    dsimp only
    rw [haddr]
  · intro p h code tag
    rfl
  · intro p h code tag r hplt hup hc hhasid hdst htag hticket
    refine congrArg Host.Outcome.next ?_
    rw [State.fabArrive_here_nil hplt hup hc hhasid hdst]
    rw [htag]
    exact if_pos hticket
  · intro p h t
    rfl
  · intro p h t k hplt hup hc hhasid hdst haddr hklt
    refine congrArg Host.Outcome.next ?_
    rw [State.fabArrive_here_nil hplt hup hc hhasid hdst]
    rw [haddr]
    exact if_pos hklt

end Sys2Proof.Machine
end

section
/-! The statement of the discovery packets of the fabric (spec/22). -/

namespace Sys2Proof.Machine

/-- Settles O57: a packet of discovery is served by the branch that the path, the root and the state of the node choose. -/
theorem fabricDiscoveryCommands : Obligations.FabricDiscoveryCommands := by
  intro s
  refine ⟨?_, ?_, ?_, ?_, ?_, ?_, ?_, ?_, ?_⟩
  · intro p rootUid fromUid path t hup
    exact congrArg Host.Outcome.next (if_neg (by simp [hup]))
  · intro p uid dev links casc nbrPort hup
    exact congrArg Host.Outcome.next (if_neg (by simp [hup]))
  · intro p uid dev links casc nbrPort d q hup hisroot hdisc hcur hidfor
    refine congrArg Host.Outcome.next ?_
    simp only [hup, hisroot, hdisc, hcur, hidfor]; rfl
  · intro p uid dev links casc nbrPort hup hisroot
    refine congrArg Host.Outcome.next ?_
    simp only [hup, hisroot]; rfl
  · intro p hint hup
    exact congrArg Host.Outcome.next (if_neg (by simp [hup]))
  · intro p hint d q hup hisroot hdisc hcur hc
    refine congrArg Host.Outcome.next ?_
    simp only [hup, hisroot, hdisc, hcur, hc]; rfl
  · intro p rootUid node role slot master table nbrs path t hup
    exact congrArg Host.Outcome.next (if_neg (by simp [hup]))
  · intro p rootUid path t hup
    exact congrArg Host.Outcome.next (if_neg (by simp [hup]))
  · intro p node links t hup
    exact congrArg Host.Outcome.next (if_neg (by simp [hup]))

end Sys2Proof.Machine
end

section
/-! The statement of the cascade (spec/22). -/

namespace Sys2Proof.Machine

/-! ## What the angle clock leaves alone of the cascade -/

/-- What a member shows of the cascade, and the frame that it heard last. -/
def State.cascView (s : State) : Nat × Option Nat × Nat := (s.rd Reg.CASC_STAT, s.casc.lastSeq, s.casc.lastRx)

section View
variable {s : State} {a v k d t : Nat}

theorem State.cascView_wr (h : a ≠ Reg.CASC_STAT) : (s.wr a v).cascView = s.cascView :=
  Prod.ext (State.rd_wr_ne h) rfl

theorem State.cascView_ite {c : Prop} [Decidable c] {x y : State} {m : Nat × Option Nat × Nat} (hx : x.cascView = m)
    (hy : y.cascView = m) : (if c then x else y).cascView = m := by
  split <;> assumption

theorem State.cascView_each {α : Type} {l : List α} {f : State → α → State}
    (h : ∀ u, ∀ x ∈ l, (f u x).cascView = u.cascView) : (s.each l f).cascView = s.cascView := by
  unfold State.each
  induction l generalizing s with
  | nil => rfl
  | cons x l ih =>
    exact (ih fun u y hy => h u y (List.mem_cons_of_mem x hy)).trans (h s x List.mem_cons_self)

theorem State.cascView_lvl {p : Nat} {x : Bool} (hpend : p + Hdr.IRQ_PEND ≠ Reg.CASC_STAT) (hraw : p + Hdr.IRQ_RAW ≠ Reg.CASC_STAT) :
    (s.lvl p k x).cascView = s.cascView :=
  (State.cascView_wr hraw).trans (State.cascView_ite (State.cascView_wr hpend) rfl)

theorem State.casc_ite {c : Prop} [Decidable c] {x y : State} {m : Casc} (hx : x.casc = m) (hy : y.casc = m) :
    (if c then x else y).casc = m := by
  split <;> assumption

theorem State.casc_readyA : s.readyA.casc = s.casc := State.casc_ite rfl rfl

theorem State.casc_readyB : s.readyB.casc = s.casc := State.casc_ite rfl rfl

theorem State.casc_lvl {p : Nat} {x : Bool} : (s.lvl p k x).casc = s.casc := State.casc_ite rfl rfl

/-- A function that comes or goes is nothing of the cascade. -/
theorem State.casc_funcSet {x : Bool} : (s.funcSet k x).casc = s.casc :=
  State.casc_ite (State.casc_readyB.trans State.casc_readyA) (State.casc_ite (State.casc_ite State.casc_lvl State.casc_lvl) rfl)

theorem State.cascView_funcSet {x : Bool} : (s.funcSet k x).cascView = s.cascView :=
  Prod.ext (State.rd_funcSet_ne (by decide) (by decide)) (by simp only [State.cascView, State.casc_funcSet])

theorem State.cascView_angLogSync : s.angLogSync.cascView = s.cascView := by
  unfold State.angLogSync
  iterate 5 refine (State.cascView_wr (by decide)).trans ?_
  rfl

theorem State.cascView_angLog {type from' to' fq tq info : Nat} : (s.angLog t type d from' to' fq tq info).cascView = s.cascView :=
  State.cascView_ite ((State.cascView_wr (by decide)).trans (State.cascView_wr (by decide))) State.cascView_angLogSync

theorem State.cascView_setTimeState : (s.setTimeState v).cascView = s.cascView :=
  State.cascView_ite rfl ((State.cascView_wr (by decide)).trans (State.cascView_angLog.trans (State.cascView_wr (by decide))))

/-- The registers of a domain are not those of the cascade. -/
theorem domStat_ne (hd : d < 3) : Reg.ANGLE_DOM_STAT d ≠ Reg.CASC_STAT := by
  unfold Reg.ANGLE_DOM_STAT Reg.CASC_STAT pageAddr Blk.ANGLE Blk.CASC; omega

theorem State.cascView_domStat (hd : d < 3) : (s.wr (Reg.ANGLE_DOM_STAT d) v).cascView = s.cascView :=
  State.cascView_wr (domStat_ne hd)

theorem State.cascView_holdExp {x : Bool} (hd : d < 3) : (s.holdExp d x).cascView = s.cascView :=
  (State.cascView_lvl (by decide) (by decide)).trans (State.cascView_domStat hd)

theorem State.cascView_setQ {q : Nat} (hd : d < 3) : (s.setQ d q).cascView = s.cascView :=
  have set : ∀ {x}, ((s.putF (Reg.ANGLE_DOM_STAT d) 1 0 q).funcSet Fn.ANGLE x).cascView = s.cascView :=
    State.cascView_funcSet.trans (State.cascView_domStat hd)
  State.cascView_ite set ((State.cascView_holdExp hd).trans set)

/-- The published angle moves, and with it the state of the domain alone. -/
theorem State.cascView_domRun (hd : d < 3) : (s.domRun d t).cascView = s.cascView := by
  unfold State.domRun
  refine State.cascView_ite rfl ?_
  extract_lets base u i
  split
  · exact State.cascView_ite rfl rfl
  · extract_lets f cand fh f' v
    have h : u.cascView = s.cascView := State.cascView_ite rfl (State.cascView_angLog.trans (State.cascView_domStat hd))
    have hv : v.cascView = s.cascView := rfl
    refine State.cascView_ite h (State.cascView_ite (State.cascView_ite ((State.cascView_domStat hd).trans hv) ?_) rfl)
    refine (State.cascView_setQ hd).trans ?_
    iterate 3 refine (State.cascView_domStat hd).trans ?_
    exact hv

theorem State.cascView_domHold (hd : d < 3) : (s.domHold d t).cascView = s.cascView := by
  unfold State.domHold
  extract_lets u w fell u'
  refine (State.cascView_setQ hd).trans ?_
  iterate 3 refine (State.cascView_domStat hd).trans ?_
  exact State.cascView_domRun hd

theorem State.cascView_showAt (hd : d < 3) : (s.showAt d t).cascView = s.cascView := by
  unfold State.showAt
  extract_lets u D sum hold w u1 still u2
  have hu1 : u1.cascView = u.cascView :=
    State.cascView_wr (by unfold Reg.ANGLE_DOM_ANGLE Reg.CASC_STAT pageAddr Blk.ANGLE Blk.CASC; omega)
  have hu2 : u2.cascView = u1.cascView :=
    State.cascView_wr (by unfold Reg.ANGLE_DOM_SPEED Reg.CASC_STAT pageAddr Blk.ANGLE Blk.CASC; omega)
  refine (State.cascView_wr (by unfold Reg.ANGLE_DOM_ACCEL Reg.CASC_STAT pageAddr Blk.ANGLE Blk.CASC; omega)).trans ?_
  exact hu2.trans (hu1.trans (State.cascView_domRun hd))

theorem State.cascView_publish : s.publish.cascView = s.cascView :=
  State.cascView_ite (State.cascView_each fun _ _ hd =>
    State.cascView_ite (State.cascView_showAt (List.mem_range.mp hd)) rfl) rfl

theorem State.cascView_domFollow {f : List Byte} {dly : Nat} {adopt : Bool} (hd : d < 3) :
    (s.domFollow d f dly adopt).cascView = s.cascView := by
  unfold State.domFollow
  extract_lets now u D o w ang st e own ang' ref u1 u2
  have hu : u.cascView = s.cascView := State.cascView_ite (State.cascView_domRun hd) rfl
  have hu1 : u1.cascView = s.cascView := hu
  have hu2 : u2.cascView = s.cascView := by
    refine State.cascView_ite ?_ hu1
    iterate 5 refine (State.cascView_domStat hd).trans ?_
    exact hu1
  refine (State.cascView_holdExp hd).trans ((State.cascView_setQ hd).trans ?_)
  iterate 2 refine (State.cascView_domStat hd).trans ?_
  exact hu2

end View

/-! ## The frame that a member heard last -/

/-- The sequence number and the time of the frame heard last. -/
def State.heard (s : State) : Option Nat × Nat := (s.casc.lastSeq, s.casc.lastRx)

section Heard
variable {s : State} {a v k : Nat}

theorem State.heard_of_view {u : State} (h : u.cascView = s.cascView) : u.heard = s.heard := congrArg Prod.snd h

theorem State.heard_ite {c : Prop} [Decidable c] {x y : State} {m : Option Nat × Nat} (hx : x.heard = m) (hy : y.heard = m) :
    (if c then x else y).heard = m := by
  split <;> assumption

theorem State.heard_wr : (s.wr a v).heard = s.heard := rfl

theorem State.heard_lvl {p : Nat} {x : Bool} : (s.lvl p k x).heard = s.heard := State.heard_ite rfl rfl

theorem State.heard_progError {p err : Nat} : (s.progError p err).heard = s.heard := State.heard_ite rfl rfl

theorem State.heard_fdigShow {c : Nat} : (s.fdigShow c).heard = s.heard := by
  unfold State.fdigShow
  extract_lets w rate bad own u u1 u2 u3
  have hu2 : u2.heard = s.heard := State.heard_lvl
  have hu3 : u3.heard = s.heard := State.heard_ite (State.heard_progError.trans hu2) hu2
  exact (State.heard_of_view State.cascView_funcSet).trans hu3

theorem State.heard_fdigRelock : s.fdigRelock.heard = s.heard := by
  unfold State.fdigRelock
  extract_lets u
  have hu : u.heard = s.heard := rfl
  refine State.heard_ite ?_ hu
  refine (State.heard_fdigShow.trans State.heard_fdigShow).trans (Eq.trans ?_ hu)
  exact State.each_eq (p := State.heard) (by intros; rfl)

theorem State.heard_fdigFollow {m dly : Nat} : (s.fdigFollow m dly).heard = s.heard := by
  unfold State.fdigFollow
  extract_lets u
  have hu : u.heard = s.heard := State.each_eq (p := State.heard) (by intros; rfl)
  have hset : ∀ {f : Casc → Casc}, (∀ c, (f c).lastSeq = c.lastSeq ∧ (f c).lastRx = c.lastRx) → (u.setCasc f).heard = u.heard :=
    fun h => Prod.ext (h _).1 (h _).2
  exact State.heard_ite rfl ((hset fun _ => ⟨rfl, rfl⟩).trans hu)

theorem State.heard_setTimeState : (s.setTimeState v).heard = s.heard := State.heard_of_view State.cascView_setTimeState

theorem State.heard_found : (s.setCasc fun c => { c with lost := false }).heard = s.heard := rfl

theorem State.heard_ang {c : Clock} {g : Ang} : State.heard { s with clk := c, ang := g } = s.heard := rfl

theorem State.heard_timeFollow {f : List Byte} {dly : Nat} {locks : Bool} : (s.timeFollow f dly locks).heard = s.heard := by
  unfold State.timeFollow
  split
  · rw [State.heard_setTimeState]
    exact State.heard_wr.trans State.heard_ang
  · extract_lets m lim r u ang u1
    have hu : u.heard = s.heard := State.heard_wr
    have hu1 : u1.heard = s.heard := State.heard_ite (State.heard_ang.trans hu) hu
    exact State.heard_ite (State.heard_setTimeState.trans hu1) <| State.heard_ite hu1 (State.heard_setTimeState.trans hu1)

/-- A frame that is followed is not heard again. -/
theorem State.heard_follow16 {f : List Byte} {locks : Bool} : (s.follow16 f locks).heard = s.heard := by
  unfold State.follow16
  extract_lets dly u u1 adopt ang u2 u3
  have hu : u.heard = s.heard := rfl
  have hu1 : u1.heard = s.heard := Eq.trans (State.each_eq (p := State.heard) (by intros; rfl)) hu
  have hu2 : u2.heard = s.heard := 
    State.heard_ite (State.heard_fdigRelock.trans (State.heard_found.trans (State.heard_ang.trans hu1))) hu1
  have hu3 : u3.heard = s.heard := State.heard_fdigFollow.trans (State.heard_timeFollow.trans hu2)
  refine State.heard_ite (State.heard_ite ?_ hu3) hu1
  exact (State.heard_of_view State.cascView_publish).trans ((State.heard_of_view (State.cascView_each fun _ _ hd =>
    State.cascView_domFollow (List.mem_range.mp hd))).trans hu3)

end Heard

/-! ## The frame and its loss at a member -/

theorem sgn_enc_clampS {v : Int} : sgn 32 (enc 32 (clampS 32 v)) = clampS 32 v := by
  have hlo : -(2 ^ 31 : Int) ≤ clampS 32 v := by unfold clampS; split <;> [skip; split] <;> omega
  have hhi : clampS 32 v < 2 ^ 31 := by unfold clampS; split <;> [skip; split] <;> omega
  unfold sgn enc
  split <;> omega

theorem State.rdS_wrS {s : State} {a : Nat} {v : Int} : (s.wrS a v).rdS a = clampS 32 v := by
  have hword : enc 32 (clampS 32 v) < 2 ^ 32 := by unfold enc; omega
  unfold State.wrS State.rdS
  rw [State.rd_wr_same, Nat.mod_eq_of_lt hword, sgn_enc_clampS]

theorem State.heard_setAligned {s : State} {x : Bool} : (s.setAligned x).heard = s.heard :=
  State.heard_lvl.trans State.heard_wr

theorem State.rd_setAligned_ne {s : State} {a : Nat} {x : Bool} (hstat : Reg.CASC_STAT ≠ a)
    (hpend : cascPage + Hdr.IRQ_PEND ≠ a) (hraw : cascPage + Hdr.IRQ_RAW ≠ a) : (s.setAligned x).rd a = s.rd a :=
  (State.rd_lvl_ne hraw hpend).trans (State.rd_putBit_ne hstat)

theorem State.rd_setCasc {s : State} {f : Casc → Casc} {a : Nat} : (s.setCasc f).rd a = s.rd a := rfl

theorem State.rd_CASC_STAT_setAligned {s : State} {x : Bool} :
    (s.setAligned x).rd Reg.CASC_STAT = (s.putBit Reg.CASC_STAT 6 x).rd Reg.CASC_STAT :=
  State.rd_lvl_ne (by decide) (by decide)

/-- The first frame of a member that has no error shows its phase, and is the one heard last. -/
theorem exec_syncFrameRx_first {s : State} {f : List Byte} {phase : Int} {within beyond locks : Bool} {t : Nat}
    (hrel : (s.tickTo t).released Blk.CASC = true) (hrole : (s.tickTo t).cascRole = 2) (hpark : (s.tickTo t).park.stage < 2)
    (hlen : f.length = 71) (hcrc : frameFld f 69 2 = crc16 (f.take 69)) (hnone : (s.tickTo t).casc.lastSeq = none) :
    ∃ v, exec (.syncFrameRx f phase within beyond locks t) s = .next v ∧ v.rdS Reg.CASC_PHASE_ERR = clampS 32 phase ∧
      v.heard = (some (frameFld f 0 1), (s.tickTo t).clk.base) := by
  refine ⟨_, congrArg Host.Outcome.next ((if_neg (not_or.mpr ⟨by rw [hrel]; decide,
    not_or.mpr ⟨not_not.mpr hrole, Nat.not_le.mpr hpark⟩⟩)).trans (if_neg (by rw [hnone, hlen, hcrc]; simp))), ?_⟩
  extract_lets u u1 u2 u3
  have hu3 : u3.rd Reg.CASC_PHASE_ERR = u2.rd Reg.CASC_PHASE_ERR ∧ u3.heard = u2.heard := by
    have aligned : ∀ x, (u2.setAligned x).rd Reg.CASC_PHASE_ERR = u2.rd Reg.CASC_PHASE_ERR ∧ (u2.setAligned x).heard = u2.heard :=
      fun _ => ⟨State.rd_setAligned_ne (by decide) (by decide) (by decide), State.heard_setAligned⟩
    by_cases hoff : (!u2.cascOn) = true
    · rw [show u3 = u2 from if_pos hoff]; exact ⟨rfl, rfl⟩
    · refine (show u3 = _ from if_neg hoff) ▸ ?_
      split
      · exact aligned true
      · split
        · exact aligned false
        · exact ⟨rfl, rfl⟩
  constructor
  · calc State.rdS _ Reg.CASC_PHASE_ERR = u3.rdS Reg.CASC_PHASE_ERR := congrArg (sgn 32) (State.rd_putF_ne (by decide))
      _ = u2.rdS Reg.CASC_PHASE_ERR := congrArg (sgn 32) hu3.1
      _ = clampS 32 phase := State.rdS_wrS
  · calc State.heard _ = u3.heard := State.heard_wr
      _ = u2.heard := hu3.2
      _ = u1.heard := State.heard_wr
      _ = u.heard := State.heard_follow16
      _ = _ := rfl

/-- What the angle clock does where the master is lost leaves the state of the cascade. -/
theorem State.rd_CASC_STAT_holdover {s : State} {v : Nat} :
    (((s.setTimeState v).each (List.range 3) fun s d => s.domHold d s.clk.base).publish).rd Reg.CASC_STAT = s.rd Reg.CASC_STAT :=
  congrArg Prod.fst (State.cascView_publish.trans ((State.cascView_each fun _ _ hd =>
    State.cascView_domHold (List.mem_range.mp hd)).trans State.cascView_setTimeState))

/-- A member that has lost its master shows state 4, and is not aligned. -/
theorem exec_masterLost_stat {s : State} {t : Nat} (hrole : (s.tickTo t).cascRole = 2)
    (hstate : (s.tickTo t).cascState = 2 ∨ (s.tickTo t).cascState = 3) (hdue : (s.tickTo t).casc.lastRx + 4000 ≤ (s.tickTo t).clk.base) :
    ∃ v, exec (.masterLost t) s = .next v ∧ v.cascState = 4 ∧ v.bit Reg.CASC_STAT 6 = false := by
  refine ⟨_, congrArg Host.Outcome.next (if_pos ⟨hrole, hstate, hdue⟩), ?_⟩
  extract_lets on u u1 u2
  have hu2 : u2.rd Reg.CASC_STAT = ((u.evt cascPage 1).putBit Reg.CASC_STAT 6 false).rd Reg.CASC_STAT :=
    State.rd_setCasc.trans (State.rd_emit.trans State.rd_CASC_STAT_setAligned)
  have hu : u.rd Reg.CASC_STAT = ((s.tickTo t).putF Reg.CASC_STAT 2 0 4).rd Reg.CASC_STAT := State.rd_putF_ne (by decide)
  have hevt : (u.evt cascPage 1).rd Reg.CASC_STAT = u.rd Reg.CASC_STAT := State.rd_evt_ne (by decide)
  have hstat : u2.cascState = 4 ∧ u2.bit Reg.CASC_STAT 6 = false := by
    constructor
    · calc u2.cascState = ((u.evt cascPage 1).putBit Reg.CASC_STAT 6 false).getF Reg.CASC_STAT 2 0 := State.getF_congr hu2
        _ = (u.evt cascPage 1).getF Reg.CASC_STAT 2 0 := State.getF_putF_other (by decide) (by decide) (by decide) (by decide)
        _ = ((s.tickTo t).putF Reg.CASC_STAT 2 0 4).getF Reg.CASC_STAT 2 0 := State.getF_congr (hevt.trans hu)
        _ = 4 := State.getF_putF (by decide) (by decide)
    · exact (State.bit_congr hu2).trans (State.bit_putBit (by decide))
  have hkept : ∀ w : State, w.rd Reg.CASC_STAT = u2.rd Reg.CASC_STAT → w.cascState = 4 ∧ w.bit Reg.CASC_STAT 6 = false :=
    fun w hw => ⟨(State.getF_congr hw).trans hstat.1, (State.bit_congr hw).trans hstat.2⟩
  split
  · exact hkept _ State.rd_CASC_STAT_holdover
  · exact hstat

/-- Settles O58: following a frame and holding the domains write registers of the angle clock and FDIG alone, so CASC_STAT and the
frame heard last are read back through them. -/
theorem cascadeCommands : Obligations.CascadeCommands := by
  intro s
  refine ⟨?_, ?_, ?_, ?_, ?_, ?_, ?_, ?_⟩
  · intro t hrel hcascrole hpark hdue₁ hdue₂
    exact congrArg Host.Outcome.next (if_pos ⟨hrel, hcascrole, hpark, hdue₁, hdue₂⟩)
  · intro f phase within beyond locks t hrel hcascrole hpark
    exact congrArg Host.Outcome.next (if_neg (not_or.mpr ⟨by rw [hrel]; decide, not_or.mpr ⟨not_not.mpr hcascrole, Nat.not_le.mpr hpark⟩⟩))
  · intro f phase within beyond locks t hrel hcascrole hpark hlength
    exact congrArg Host.Outcome.next ((if_neg (not_or.mpr ⟨by rw [hrel]; decide,
      not_or.mpr ⟨not_not.mpr hcascrole, Nat.not_le.mpr hpark⟩⟩)).trans (if_pos (by simp [hlength])))
  · intro f phase within beyond locks t hrel hcascrole hpark hlength hc hlastseq
    obtain ⟨v, hv, hphase, hheard⟩ := exec_syncFrameRx_first hrel hcascrole hpark hlength hc hlastseq
    exact ⟨v, hv, hphase, congrArg Prod.fst hheard, congrArg Prod.snd hheard⟩
  · intro t b hecho hcascrole hdue
    refine congrArg Host.Outcome.next ?_
    rw [hecho]; exact if_pos (by simp [hcascrole, hdue])
  · intro slot rt hrel hcascrole hc₁ hc₂
    exact congrArg Host.Outcome.next (if_pos ⟨hrel, hcascrole, hc₁, hc₂⟩)
  · intro t hcascrole hcascstate hdue
    exact congrArg Host.Outcome.next (if_pos ⟨hcascrole, hcascstate, hdue⟩)
  · intro t hcascrole hcascstate hdue
    exact exec_masterLost_stat hcascrole hcascstate hdue

end Sys2Proof.Machine
end

section
/-! The statement of the perturbation windows (spec/24). -/

namespace Sys2Proof.Machine

/-- A `GO` of the type that a page's configuration names, with a count and no reserved encoding,
is armed: it takes the place of what was armed on the page, and the count shows. -/
theorem State.forceWrite_arms {s : State} {req : Requester} {type code inst value : Nat}
    (hgo : s.verdict req (Reg.PT_FORCE (pageAddr code inst)) 4 true = .go)
    (htype : s.getF (Reg.PT_FORCE_CFG (pageAddr code inst)) 3 0 = type)
    (hcancel : value.testBit 30 = false) (harm : value.testBit 31 = true)
    (hhas : forceKind type &&& ptCap (regCode (pageAddr code inst)) ≠ 0) (hcount : fld value 15 0 ≠ 0)
    (honce : type = 5 → fld value 15 0 = 1)
    (hchecker : type = 3 → s.getF (Reg.PT_FORCE_CFG (pageAddr code inst)) 7 4 < 4) :
    s.forceWrite req type code inst value = (State.putF { (s.respOk []) with
        injects := ⟨pageAddr code inst, s.rd (Reg.PT_FORCE_CFG (pageAddr code inst)),
          s.rd (Reg.PT_FORCE_ADDR_LO (pageAddr code inst)) + 2 ^ 32 * s.getF (Reg.PT_FORCE_ADDR_HI (pageAddr code inst)) 15 0⟩ ::
            s.injects.filter fun j => j.page != pageAddr code inst }
      (Reg.PT_STAT (pageAddr code inst)) 15 0 (fld value 15 0)).windowSync (pageAddr code inst) := by
  subst htype
  refine (if_pos rfl).trans ((State.checkedWrite_go hgo).trans ?_)
  refine (if_neg (by simp [hcancel])).trans ((if_pos harm).trans (if_neg ?_))
  rintro (hnone | hzero | ⟨h5, hmany⟩ | ⟨h3, hout⟩)
  · exact hhas hnone
  · exact hcount hzero
  · exact hmany (honce h5)
  · exact Nat.not_lt.mpr hout (hchecker h3)

/-- Settles O59: a force is armed by the one rule of all types, once its page has the type and its count is legal. -/
theorem perturbCommands : Obligations.PerturbCommands := by
  intro s
  refine ⟨?_, ?_, ?_, ?_, ?_, ?_, ?_, ?_, ?_, ?_, ?_, ?_, ?_, ?_, ?_, ?_, ?_, ?_⟩
  · intro req value hgo hheart
    exact congrArg Host.Outcome.next (State.heartWrite_go hgo hheart)
  · intro req value hgo hheart hc
    exact congrArg Host.Outcome.next ((State.heartWrite_go hgo hheart).trans
      (if_neg (by rw [show (s.respOk []).getF Reg.SEC_LIFECYCLE 1 0 = s.getF Reg.SEC_LIFECYCLE 1 0 from rfl]; simp [hc])))
  · intro req value hgo hheart hc hbit
    exact congrArg Host.Outcome.next ((State.heartWrite_go hgo hheart).trans
      (if_pos (by rw [show (s.respOk []).getF Reg.SEC_LIFECYCLE 1 0 = 2 from hc, hbit]; rfl)))
  · intro req code inst value hgo
    exact congrArg Host.Outcome.next (State.checkedWrite_go hgo)
  · intro req code inst value hgo hbit
    refine congrArg Host.Outcome.next ((State.checkedWrite_go hgo).trans ?_)
    unfold State.writePtCtl
    dsimp only
    rw [if_neg (by simp [hbit])]
  · intro code inst t hpt_ctl htestbit hc hdom
    exact congrArg Host.Outcome.next (if_pos (by simp [hpt_ctl, htestbit, hc, hdom]))
  · intro req code inst value
    rfl
  · intro req code inst value hgo hc₁ hbit₁ hbit₂ hc₂ hc₃
    exact congrArg Host.Outcome.next (State.forceWrite_arms hgo hc₁ hbit₁ hbit₂ hc₂ hc₃ nofun nofun)
  · intro req code inst value
    rfl
  · intro req code inst value hgo hc₁ hbit₁ hbit₂ hc₂ hc₃
    exact congrArg Host.Outcome.next (State.forceWrite_arms hgo hc₁ hbit₁ hbit₂ hc₂ hc₃ nofun nofun)
  · intro req code inst value
    rfl
  · intro req code inst value hgo hc₁ hbit₁ hbit₂ hc₂ hc₃ hc₄
    exact congrArg Host.Outcome.next (State.forceWrite_arms hgo hc₁ hbit₁ hbit₂ hc₂ hc₃ nofun fun _ => hc₄)
  · intro req code inst value
    rfl
  · intro req code inst value hgo hc₁ hbit₁ hbit₂ hc₂ hc₃
    exact congrArg Host.Outcome.next (State.forceWrite_arms hgo hc₁ hbit₁ hbit₂ hc₂ hc₃ nofun nofun)
  · intro req code inst value
    rfl
  · intro req code inst value hgo hc₁ hbit₁ hbit₂ hc₂ hc₃ hc₄
    exact congrArg Host.Outcome.next (State.forceWrite_arms hgo hc₁ hbit₁ hbit₂ hc₂ hc₃ (fun _ => hc₄) nofun)
  · intro req code inst hgo
    exact congrArg Host.Outcome.next (State.checkedWrite_go hgo)
  · intro req code inst hgo
    exact congrArg Host.Outcome.next (State.checkedWrite_go hgo)

end Sys2Proof.Machine
end
